-- ==== Sys2Proof/Word.lean ====
section
/-! DEFINITION. The word types of the block: bytes, 32-bit register words (R4), and the name of a bit range in a register. -/

namespace Sys2Proof

/-- One byte. -/
abbrev Byte := BitVec 8

/-- A register word; registers are 32 bits wide (R4). -/
abbrev Word := BitVec 32

/-- Full 64-bit fabric time: bits [63:16] nanoseconds, bits [15:0] units of 2^-16 ns (R461). -/
abbrev Stamp := BitVec 64

/-- A bit range [hi:lo] of a register, both ends included. -/
structure Fld where
  hi : Nat
  lo : Nat
  deriving DecidableEq, Repr

end Sys2Proof
end

