-- ==== Sys2Proof/Syntax.lean ====
section
/-! DEFINITION. The commands of the block: one constructor of `Instr` for each row of the spec's table of operations and events (opcode_table.json), with the operands that the row's event brings from outside.
Operands that the state already holds are not repeated here. -/

namespace Sys2Proof

/-- The three engines of a tile (R207). -/
inductive Engine where
  | mac | vec | msg
  deriving DecidableEq, Repr, Inhabited

/-- A text area that detection finds on a SIDE or HOSTIMAGE (R19); which areas it finds is the playbook's work, so the event brings them. -/
structure Found where
  model : Nat
  firstLine : Nat
  lastLine : Nat
  needLine : Nat
  firstCol : Nat
  cols : Nat
  deriving DecidableEq, Repr, Inhabited

/-- One port's neighbour in a REPORT (R441): own port, neighbour serial, neighbour port. -/
structure NeighRep where
  port : Nat
  serial : BitVec 64
  nport : Nat
  deriving DecidableEq, Repr, Inhabited

/-- One link of an addressed device in a MAP (R442): own port, neighbour address, neighbour port. -/
structure MapLink where
  port : Nat
  naddr : Nat
  nport : Nat
  deriving DecidableEq, Repr, Inhabited

/-- One addressed device in a MAP (R442). -/
structure MapDev where
  addr : Nat
  serial : BitVec 64
  links : List MapLink
  deriving DecidableEq, Repr, Inhabited

/-- The body of RELAY_OPEN (R448). -/
structure RelayOpenBody where
  item : Word
  orderKey : Word
  port : Nat
  cls : Nat
  openStamp : Stamp
  gateMode : Nat
  deadline : BitVec 48
  playbook : Word
  deriving DecidableEq, Repr, Inhabited

/-- The body of ESC_HEAD (R456). -/
structure EscHeadBody where
  item : Word
  index : Nat
  model : Nat
  start : Nat
  cls : Nat
  emission : BitVec 48
  deriving DecidableEq, Repr, Inhabited

/-- A link named in LINK_DOWN or LINK_UP (R445): address and port of one end. -/
structure LinkEnd where
  addr : Nat
  port : Nat
  deriving DecidableEq, Repr, Inhabited

/-- What a PTP frame carries beside its kind (R480): its domain, and whether it came in an IEEE 802.3 frame and not in UDP over IPv4. -/
structure PtpFrame where
  domain : Byte
  l2 : Bool
  deriving DecidableEq, Repr, Inhabited

/-- What PTP does on the Ethernet port (R479, R480): a Sync received, one-step or with its Follow_Up, with its origin stamp and the corrections in units of 2^-16 ns; a Delay_Resp with its receive stamp; a Pdelay_Resp, with its Follow_Up, with the peer's two stamps; a Delay_Req or a Pdelay_Req received; any other frame received; a Sync or a request that is due to be sent; a frame or flit for which software asked for a stamp, as it leaves a port; the state that Coach's BMCA decides on. -/
inductive PtpEvent where
  | sync (f : PtpFrame) (origin : Stamp) (correction : Int)
  | delayResp (f : PtpFrame) (rx : Stamp) (correction : Int)
  | pdelayResp (f : PtpFrame) (rx : Stamp) (tx : Stamp) (correction : Int)
  | request (f : PtpFrame) (peer : Bool)
  | other
  | sendSync
  | sendRequest
  | sent (port : Fin 7) (id : BitVec 16)
  | state (st : BitVec 3)
  deriving DecidableEq, Repr, Inhabited

/-- What a scrub step reads (R527): a word of DRAM by raw word number, or a word of a tile store. -/
inductive ScrubAt where
  | dram (word : Nat)
  | tile (tile : Nat) (word : Nat)
  deriving DecidableEq, Repr, Inhabited

/-- Where an upset flips bits of a word under the Reed-Solomon code (R522): a word of DRAM by raw word number, of a tile store, or of a calibration table by port and bank. -/
inductive UpsetAt where
  | dram (word : Nat)
  | tile (tile : Nat) (word : Nat)
  | cal (port : Nat) (bank : Nat) (word : Nat)
  deriving DecidableEq, Repr, Inhabited

/-- Whose host read went unanswered (R532). -/
inductive HostRead where
  | fetch (q : Fin 64)
  | image (index : Nat)
  deriving DecidableEq, Repr, Inhabited

/-- A firmware image in the boot flash (R557): its version, its other bytes, the public key that it carries, and its ECDSA P-384 signature (r, s). -/
structure BootImage where
  version : Word
  body : List Byte
  keyX : Nat
  keyY : Nat
  r : Nat
  s : Nat
  deriving DecidableEq, Repr, Inhabited

/-- The levels found at the pins when a filter starts (R74, R94, R584): A, B of the four encoders, and the eight barriers. -/
structure PinLevels where
  enc : List (Bool × Bool)
  bar : List Bool
  deriving DecidableEq, Repr, Inhabited

/-- The commands, in the table's order. -/
inductive Instr where
  -- host register accesses
  | regWrite (addr : BitVec 26) (bytes : Nat) (v : Word)
  | lowWordRead (addr : BitVec 26) (bytes : Nat)
  | timNowRead
  | counterClear (addr : BitVec 26) (v : Word)
  | linPortEnable (n : Fin 4)
  | linPortDisable (n : Fin 4)
  | calStart (n : Fin 4) (ctl : Word)
  | calAbort (n : Fin 4) (ctl : Word)
  | calTabRead (n : Fin 4)
  | calTabWrite (n : Fin 4) (v : Word)
  | calCommit (n : Fin 4)
  | sqDoorbell (q : Fin 64) (tail : BitVec 16)
  | sqEnable (q : Fin 64) (cfg : Word)
  | sqDisable (q : Fin 64) (cfg : Word)
  | ringEnable (r : Fin 64) (cfg : Word)
  | ringHeadWrite (r : Fin 64) (v : Word)
  | sbSelect (v : Word)
  | sbClear
  | snapRegTrigger (ctl : Word)
  | snapArm (ctl : Word)
  | standbyEnter
  | standbyExit
  | thermMaxReset
  | kolPortEnable (n : Fin 6) (ctl : Word)
  | kolPortDisable (n : Fin 6) (ctl : Word)
  | ethEnable (cfg : Word)
  | txqPop (p : Fin 7)
  -- command packets
  | packetFetch (q : Fin 64)
  | itemOpen (q : Fin 64) (pos : BitVec 16)
  | imageSubmit (q : Fin 64) (pos : BitVec 16)
  | itemAbort (q : Fin 64) (pos : BitVec 16)
  | itemQuery (q : Fin 64) (pos : BitVec 16)
  | tokenize (q : Fin 64) (pos : BitVec 16)
  | retRead (q : Fin 64) (pos : BitVec 16)
  | playbookLoad (q : Fin 64) (pos : BitVec 16)
  | playbookUnload (q : Fin 64) (pos : BitVec 16)
  | modelPin (q : Fin 64) (pos : BitVec 16)
  | portBind (q : Fin 64) (pos : BitVec 16)
  | partConfig (q : Fin 64) (pos : BitVec 16)
  | ctxDefine (q : Fin 64) (pos : BitVec 16)
  | ctxDelete (q : Fin 64) (pos : BitVec 16)
  | tableSelect (q : Fin 64) (pos : BitVec 16)
  | ctxRestart (q : Fin 64) (pos : BitVec 16)
  | huddle (q : Fin 64) (pos : BitVec 16)
  | catchSet (q : Fin 64) (pos : BitVec 16)
  | linkReset (q : Fin 64) (pos : BitVec 16)
  | remotePost (q : Fin 64) (pos : BitVec 16)
  | timeStepAccept (q : Fin 64) (pos : BitVec 16)
  | timeSet (q : Fin 64) (pos : BitVec 16)
  | timeQuery (q : Fin 64) (pos : BitVec 16)
  | echo (q : Fin 64) (pos : BitVec 16)
  | snapTrigger (q : Fin 64) (pos : BitVec 16)
  | snapRead (q : Fin 64) (pos : BitVec 16)
  | bistReport (q : Fin 64) (pos : BitVec 16)
  | metRecordRead (q : Fin 64) (pos : BitVec 16)
  | metLogRead (q : Fin 64) (pos : BitVec 16)
  | metIdRead (q : Fin 64) (pos : BitVec 16)
  -- service UART frames
  | readId (payload : List Byte)
  | readLog (payload : List Byte)
  | uartStage (payload : List Byte)
  | uartCommit (payload : List Byte) (pins : PinLevels)
  | uartDiscard (payload : List Byte)
  | imageBlock (payload : List Byte)
  | imageEnd (payload : List Byte) (pins : PinLevels)
  | uartVerify (payload : List Byte)
  | uartFrameBad (frame : List Byte)
  | uartUnknown (typ : Byte) (payload : List Byte)
  -- dispatch and Pitch commands
  | jobDispatch (ctx : Fin 4096) (job : Nat)
  | ctxSwitchDone (part : Fin 8)
  | commandStart (t : Fin 256) (e : Engine)
  | nop (t : Fin 256) (e : Engine)
  | ckpt (t : Fin 256)
  | endList (t : Fin 256)
  | matmul (t : Fin 256)
  | conv (t : Fin 256)
  | attnScore (t : Fin 256)
  | attnValue (t : Fin 256)
  | convert (t : Fin 256)
  | pool (t : Fin 256)
  | argmaxC (t : Fin 256)
  | softmaxStep (t : Fin 256)
  | mergeExact (t : Fin 256)
  | rotary (t : Fin 256)
  | norm (t : Fin 256)
  | kvQuant (t : Fin 256)
  | send (t : Fin 256)
  | recv (t : Fin 256)
  | haloOpen (t : Fin 256)
  | haloPut (t : Fin 256)
  | haloClose (t : Fin 256)
  | load (t : Fin 256)
  | store (t : Fin 256)
  | streamIn (t : Fin 256)
  | emit (t : Fin 256)
  | commandTimeout (t : Fin 256) (e : Engine)
  | ctxTeardownDone (ctx : Fin 4096)
  | handshakeWatchdog (p : Fin 272)
  | routerLinkError (p : Fin 272)
  | tileRestoreDone (t : Fin 256)
  -- scheduler events
  | slotStart (part : Fin 8)
  | slotEnd (part : Fin 8)
  | majorFrame (part : Fin 8)
  | modelLoadDone (playbook : Word) (model : Nat)
  | saturationWindow
  | bucketTick
  -- page manager events
  | frameRequest (req : Nat)
  | frameFreed (t : Fin 256)
  | frameWaitExpiry (req : Nat)
  | spillDone (xfer : Nat)
  | prefetchStart (part : Fin 8)
  | prefetchDone (xfer : Nat)
  | cowDone (xfer : Nat)
  | dropDone (xfer : Nat)
  | beItemOpenWait
  -- intake events
  | syncError (n : Fin 4) (lane : Fin 8) (header : Bool)
  | laneLock (n : Fin 4) (lane : Fin 8)
  | laneLockLoss (n : Fin 4) (lane : Fin 8)
  | align (n : Fin 4) (skew : Nat)
  | sensorPacket (n : Fin 4) (stream : List Byte) (blocks : Nat) (upsets : List (Nat × List Byte))
  | packetMissing (n : Fin 4)
  | encEdge (e : Fin 4) (a b : Bool) (stamp : Stamp)
  | encZEdge (e : Fin 4) (stamp : Stamp)
  | encStall (e : Fin 4)
  | lineInterpDue (n : Fin 4)
  | lineStart (n : Fin 4)
  | flushExposure (n : Fin 4)
  | lampFault (n : Fin 4)
  | lampStuck (n : Fin 4)
  | lineComplete (n : Fin 4) (leading : Bool) (found : List Found)
  | calCaptureDone (n : Fin 4)
  | calCopyDone (n : Fin 4)
  | barrierEdge (k : Fin 8) (level : Bool) (stamp : Stamp)
  | barrierJam (k : Fin 8)
  | sideSeal (side : Nat) (found : List Found)
  -- deadlines and timers
  | emissionPoint (item : Nat)
  | lateLimitExpiry (item : Nat)
  | ringIrqTimer (r : Fin 64)
  | decodeBudgetExpiry (seq : Nat)
  -- token unit and decode engine
  | emitDecide (part : Fin 8)
  | liveChunkTimeout (seq : Nat)
  | maskFetchDone (tset : Nat) (mask : Nat)
  | imageDecodeDone (found : List Found)
  | cropWritten (region : Nat)
  | passInputWritten (seq : Nat)
  -- Koliad links
  | codewordUncorrectable (n : Fin 6) (words : List (List Nat))
  | portAligned (n : Fin 6)
  | alignLost (n : Fin 6)
  | trainingDone (n : Fin 6)
  | flitReceived (n : Fin 6) (flit : List Byte)
  | idleFlit (n : Fin 6) (flit : List Byte)
  | keepalive (n : Fin 6) (flit : List Byte)
  | replayReq (n : Fin 6) (flit : List Byte)
  | ackStallReplay (n : Fin 6)
  | keepaliveSend (n : Fin 6)
  | linkSilence (n : Fin 6)
  -- Koliad messages
  | helloSend
  | hello (n : Fin 6) (serial : BitVec 64) (sport : BitVec 3) (epoch : BitVec 16) (lowest : BitVec 64)
  | huddleRootStart
  | assign (n : Fin 6) (serial : BitVec 64) (addr : BitVec 8) (epoch : BitVec 16)
  | report (n : Fin 6) (serial : BitVec 64) (neigh : List NeighRep)
  | mapMsg (n : Fin 6) (src : BitVec 8) (seq : BitVec 16) (devs : List MapDev)
  | doneMsg (n : Fin 6) (src : BitVec 8) (flood : Bool) (seq : BitVec 16)
  | huddleWaitExpiry
  | linkDownMsg (n : Fin 6) (src : BitVec 8) (seq : BitVec 16) (link : LinkEnd)
  | linkUpMsg (n : Fin 6) (src : BitVec 8) (seq : BitVec 16) (link : LinkEnd)
  | modelAdvert (n : Fin 6) (src : BitVec 8) (seq : BitVec 16) (models : List Nat)
  | post (src : BitVec 8) (vc : BitVec 2) (txn : Word) (stamp : Stamp) (arg : BitVec 64) (body : List Byte)
  | writeMsg (src : BitVec 8) (vc : BitVec 2) (txn : Word) (arg : BitVec 64) (body : List Byte)
  | resp (src : BitVec 8) (txn : Word) (status : Byte)
  | txnTimeout (txn : Word)
  | relayOpen (seq : Word) (body : RelayOpenBody)
  | relayLine (seq : Word) (tag : List Byte) (plane : Byte) (deadline : BitVec 48) (data : List Byte)
  | relaySeal (seq : Word) (item : Word) (lastLine : Word) (trail : Stamp)
  | relayResult (seq : Word) (record : List Byte)
  | resultAck (item : Word)
  | heartbeatSend
  | heartbeat (src : BitVec 8) (accepted : Word)
  | heartbeatTimeout
  | escHead (src : BitVec 8) (txn : Word) (body : EscHeadBody)
  | escData (src : BitVec 8) (txn : Word) (data : List Byte) (last : Bool)
  | escReply (src : BitVec 8) (txn : Word) (status : Byte) (fields : List Byte)
  -- time
  | syncSend
  | pdReqSend (n : Fin 6)
  | announceSend
  | sync (n : Fin 6) (id : BitVec 16) (hops : BitVec 8) (rx : Stamp)
  | follow (n : Fin 6) (id : BitVec 16) (hops : BitVec 8) (stamp : Stamp)
  | pdReq (n : Fin 6) (id : BitVec 16) (rx : Stamp)
  | pdResp (n : Fin 6) (id : BitVec 16) (t2 : Stamp) (rx : Stamp)
  | pdFollow (n : Fin 6) (id : BitVec 16) (t3 : Stamp)
  | announce (n : Fin 6) (src : BitVec 8) (seq : BitVec 16) (hops : BitVec 8)
  | ptpEventFrame (ev : PtpEvent) (stamp : Stamp)
  | arpRequest (target : Word) (senderIp : Word) (senderMac : BitVec 48)
  | ethFrameDiscard (frame : List Byte)
  -- Norentum
  | metEncEdge (e : Fin 4) (a b : Bool) (stamp : Stamp) (pins : PinLevels)
  | metLeadEdge (n : Fin 4) (stamp : Stamp)
  | metTrailEdge (n : Fin 4) (stamp : Stamp) (pins : PinLevels)
  | metInterpTimeout (n : Fin 4)
  | metRecordDone (n : Fin 4)
  | sealChange (level : Bool)
  | metBootDone (image params otp : Bool)
  | metWatchdog (kick : Nat) (pins : PinLevels)
  | metPowerOn (pins : PinLevels)
  | metPowerOff
  -- memory, firmware, tempo, thermal, snapshot
  | scrubStep (place : ScrubAt) (upsets : List (UpsetAt × List Byte)) (pins : PinLevels)
  | corrRateWindow
  | dramRequestTimeout (ch : Fin 8) (again : Bool) (issued : Nat) (pins : PinLevels)
  | hostReadTimeout (rd : HostRead)
  | coachWatchdog (kick : Nat)
  | coachUp
  | umpireWatchdog (kick : Nat) (pins : PinLevels)
  | lockstepMismatch (pins : PinLevels)
  | tempoWindow (steps : List Nat)
  | governorPeriod
  | tempoLow (p : Fin 272)
  | thermSample (temp : BitVec 8)
  | snapPin (stamp : Stamp)
  | snapTimeMatch
  | snapWritten
  -- kickoff
  | poresetRelease (pins : PinLevels)
  | poresetAssert
  | umpireUp (flash : List (Nat × BootImage)) (oe : Bool)
  | dramTrained (failed : Option (Fin 8))
  | dramWritten
  | bistDone (failed : List Nat)
  | ready
  | coachException
  | coachImage (flash : List (Nat × BootImage)) (oe : Bool)
  | ethLinkDown
  | ethLinkUp
  deriving DecidableEq, Repr

end Sys2Proof
end

