-- ==== Sys2Proof/Decode.lean ====
section
/-! DEFINITION. The commands that words of the table's bits spell.
The spec's table of operations and events gives no row any bits, so no word spells a command. -/

namespace Sys2Proof

/-- The command that the low `nbits` bits of `w` spell: none, since no row of the table has bits. -/
def decodeTableWord (nbits w : Nat) : Option Instr :=
  match nbits, w with
  | _, _ => none

end Sys2Proof
end

