-- ==== Sys2Proof/Machine/Table.lean ====
section
/-! DEFINITION. Finite tables by number, in one canonical form: keys strictly rising and no entry equal to what an unlisted key reads as.
The register file, the memories and every numbered unit of the block are such tables. -/

namespace Sys2Proof.Machine

/-- A table of values by number. -/
abbrev Tbl (β : Type) := List (Nat × β)

/-- The value at key `k`; an unlisted key reads as `d`. -/
def tget {β : Type} (d : β) : Tbl β → Nat → β
  | [], _ => d
  | (a, b) :: t, k => if a = k then b else tget d t k

/-- Remove key `k`. -/
def tdel {β : Type} : Tbl β → Nat → Tbl β
  | [], _ => []
  | (a, b) :: t, k => if a = k then tdel t k else (a, b) :: tdel t k

/-- Put `v` at key `k`, keeping the keys in rising order. -/
def tins {β : Type} : Tbl β → Nat → β → Tbl β
  | [], k, v => [(k, v)]
  | (a, b) :: t, k, v =>
    if k < a then (k, v) :: (a, b) :: t
    else if a = k then (k, v) :: t
    else (a, b) :: tins t k v

/-- Write `v` at key `k` of a table whose unlisted keys read as `d`: the value `d` removes the entry. -/
def tset {β : Type} [DecidableEq β] (d : β) (t : Tbl β) (k : Nat) (v : β) : Tbl β :=
  if v = d then tdel t k else tins t k v

/-- Change the value at key `k`. -/
def tmod {β : Type} [DecidableEq β] (d : β) (t : Tbl β) (k : Nat) (f : β → β) : Tbl β :=
  tset d t k (f (tget d t k))

/-- Keys rise strictly from `lo` on, and no entry is what an unlisted key reads as. -/
def tokFrom {β : Type} [DecidableEq β] (d : Nat → β) : Nat → Tbl β → Bool
  | _, [] => true
  | lo, (a, b) :: t => decide (lo ≤ a) && decide (b ≠ d a) && tokFrom d (a + 1) t

/-- The canonical form of a table whose unlisted key `k` reads as `d k`. -/
def Tbl.wf {β : Type} [DecidableEq β] (d : Nat → β) (t : Tbl β) : Bool := tokFrom d 0 t

/-- The entry at key `k`, if listed. -/
def tfind {β : Type} : Tbl β → Nat → Option β
  | [], _ => none
  | (a, b) :: t, k => if a = k then some b else tfind t k

/-- Put an entry that has no default value (a table of things that exist only when listed). -/
def tput {β : Type} (t : Tbl β) (k : Nat) (v : β) : Tbl β := tins t k v

/-- Change the entry at key `k` if it is listed. -/
def tupd {β : Type} : Tbl β → Nat → (β → β) → Tbl β
  | [], _, _ => []
  | (a, b) :: t, k, f => if a = k then (a, f b) :: t else (a, b) :: tupd t k f

/-- Change every entry. -/
def tmap {β : Type} (t : Tbl β) (f : Nat → β → β) : Tbl β := t.map (fun e => (e.1, f e.1 e.2))

end Sys2Proof.Machine
end

