-- ==== Sys2Proof/Machine/Types.lean ====
section
/-! DEFINITION. The plain data that the state of the block is made of, unit by unit, in the spec's own terms.
Each structure's docstring names the rules that give it; a field that holds a time in ns of the timebase says so. -/

namespace Sys2Proof.Machine

/-- LC or BE (R18). -/
inductive Cls where
  | lc | be
  deriving DecidableEq, Repr, Inhabited

/-- STATE of an item table entry (R29). -/
inductive ItemState where
  | free | opened | sealed | overtime | done
  deriving DecidableEq, Repr, Inhabited

/-- TYPE of an item (R19). -/
inductive ItemType where
  | none | piece | side | region | seq | image
  deriving DecidableEq, Repr, Inhabited

/-- Status codes of items and fields, and of commands (R501). -/
inductive Status where
  | read | noRead | noReadByDeadline | late | error | aborted | empty | noFrame | notReadOutputStall
  | ok | invalidField | invalidOpcode | staleItem | perm | partBusy | partConflict | ctxBusy | partnerBusy
  | fabNoRoute | fabTimeout | timeMismatch | timeRange | timeBusy | playbookRejected | notFound
  | metUnavailable | firmwareRestart | busy
  deriving DecidableEq, Repr, Inhabited

/-- REASON of a PIECE record (R502). -/
inductive Reason where
  | none | itemExhausted | retOverflow | decCorrupt | decTruncated | decUnsupported | noContext | ctxFault | deviceLost
  deriving DecidableEq, Repr, Inhabited

/-- REASON of a field entry (R352). -/
inductive FReason where
  | none | convert | length | grammarDead | noToken | ctxFault | noContext
  deriving DecidableEq, Repr, Inhabited

/-- Output classes (R344). -/
inductive OutCls where
  | field | note | live
  deriving DecidableEq, Repr, Inhabited

/-! ### What a playbook gives (chapters 5 to 12); its byte layout is not in the manual (log entry 6). -/

/-- A merge table entry (R333). -/
structure MergeEnt where
  left : Nat
  right : Nat
  rank : Nat
  result : Nat
  deriving DecidableEq, Repr, Inhabited

/-- A detokeniser entry: the bytes of a token and SPECIAL (R331, R332). -/
structure Detok where
  bytes : List Byte
  special : Bool
  deriving DecidableEq, Repr, Inhabited

/-- A fold entry (R334). -/
structure FoldEnt where
  src : Nat
  dst : List Nat
  deriving DecidableEq, Repr, Inhabited

/-- A transition of a grammar state (R336). -/
structure Trans where
  token : Nat
  next : Nat
  deriving DecidableEq, Repr, Inhabited

/-- A grammar state with its transitions (R336). -/
structure GState where
  maskId : Nat
  fieldId : Nat
  trans : List Trans
  dflt : Nat
  accept : Bool
  tag : Nat
  deriving DecidableEq, Repr, Inhabited

/-- A field table entry (R350). -/
structure FieldEnt where
  id : Nat
  typ : Nat
  required : Bool
  threshold : Nat
  deriving DecidableEq, Repr, Inhabited

/-- A table set as a playbook carries it (R331): the numbers of its vocabulary descriptor, HB, and its tables as bytes in the layouts of R331, R333, R334, R336, R337 and R350; `fieldIds` names the FIELD_ID of each entry of the field table (log entry 6). -/
structure TSetImage where
  v : Nat
  eos : Nat
  norm : Nat
  foldEn : Nat
  hb : Nat
  byteMap : List Byte
  merges : List Byte
  detok : List Byte
  pool : List Byte
  folds : List (List Byte)
  states : List Byte
  trans : List Byte
  masks : List Byte
  fields : List Byte
  fieldIds : List Nat
  deriving DecidableEq, Repr, Inhabited

/-- A table set (R331), its tables read. -/
structure TSet where
  v : Nat
  eos : Nat
  norm : Nat
  foldEn : Nat
  byteMap : List Nat
  hb : Nat
  merges : List MergeEnt
  detok : List Detok
  folds : List (List FoldEnt)
  states : List GState
  masks : List (List Byte)
  fields : List FieldEnt
  deriving DecidableEq, Repr, Inhabited

/-- A KV set of a model: lanes, head dimension, slot format and scaling, and its home tiles (R298-R306). -/
structure KvSet where
  nl : Nat
  dh : Nat
  firstHome : Nat
  npart : Nat
  pagesPerPart : Nat
  deriving DecidableEq, Repr, Inhabited

/-- A model: its token binding (R344), budgets (R379), re-read limits in pixels, degrees and parts of one (R371-R373), votes (R375), escalation (R377), KV sets, residency (R401). -/
structure Model where
  tset : Nat
  start : Nat
  out : OutCls
  maxTokens : Nat
  stops : List (List Byte)
  fieldList : List Nat
  budgetTok : Nat
  budgetUs : Nat
  npass : Nat
  voteQuorum : Nat
  maxShift : Rat
  maxRot : Rat
  maxScale : Rat
  maxGain : Rat
  maxOfs : Nat
  blurMax : Nat
  escalate : Bool
  escMinUs : Nat
  escModel : Nat
  kv : List KvSet
  prefixTokens : List Nat
  decodeJob : Nat
  prefillJob : Nat
  pinned : Bool
  cls : Cls
  bytes : Nat
  deriving DecidableEq, Repr, Inhabited

/-- One view that the page manager writes for a job (R303, R304): tile of the job counted from its first, row of the batch, addresses of the view and of its entry array, KV set, lane, and whether K_BASE or V_BASE of the row points at it, in the length table at `table`. -/
structure ViewPos where
  tile : Nat
  row : Nat
  addr : Nat
  ent : Nat
  set : Nat
  lane : Nat
  key : Bool
  table : Nat
  deriving DecidableEq, Repr, Inhabited

/-- A job of the schedule tables: descriptors of its placement variants (R400), interval WCETs in ns (R395), its model, resources it uses (R412), whether it is a prefill, rows of its decode batch (0 for a job of one item), its length tables as (tile counted from its first, address) and its views (R294, R303). -/
structure JobInfo where
  variants : List Nat
  wcets : List Nat
  model : Nat
  resources : Nat
  recompute : Bool
  rows : Nat
  lens : List (Nat × Nat)
  views : List ViewPos
  deriving DecidableEq, Repr, Inhabited

/-- One slot of a cyclic table (R391). -/
structure Slot where
  start : Nat
  len : Nat
  ctx : Nat
  deriving DecidableEq, Repr, Inhabited

/-- A cyclic table (R391); times in units of 10 µs. -/
structure CycTable where
  id : Nat
  major : Nat
  vgroups : Nat
  slots : List Slot
  deriving DecidableEq, Repr, Inhabited

/-- The frame pool of a logical tile (R300). -/
structure PoolCfg where
  tile : Nat
  size : Nat
  poolBase : Nat
  sideBase : Nat
  deriving DecidableEq, Repr, Inhabited

/-- A playbook function: its detection job, its REQUIRED marks and admission rows (R399). -/
structure Fn where
  detectJob : Nat
  admitRows : Nat
  deriving DecidableEq, Repr, Inhabited

/-- A playbook as the manual describes what it carries; `tables` its cyclic tables as bytes in the layout of R391. -/
structure Playbook where
  seed : Nat
  fns : List Fn
  models : List Model
  tsets : List TSetImage
  jobs : List JobInfo
  tables : List (List Byte)
  pools : List PoolCfg
  deriving DecidableEq, Repr, Inhabited

/-- A loaded playbook: its table sets as the token unit reads them (R331), its bytes as they lie in DRAM (R529), its partition, and whether an uncorrectable word marked it CORRUPT (R529). -/
structure Loaded where
  pb : Playbook
  tsets : List TSet
  bytes : Nat
  part : Nat
  corrupt : Bool
  deriving DecidableEq, Repr, Inhabited

/-! ### Items (chapters 1, 9, 10, 11) -/

/-- An item table entry (R28); `deadline` and `openStamp` in ns of fabric time, 48 bits. -/
structure Entry where
  gen : Nat
  parent : Nat
  state : ItemState
  cls : Cls
  typ : ItemType
  demoted : Bool
  part : Nat
  port : Nat
  children : Nat
  orderKey : Nat
  deadline : Nat
  openStamp : Nat
  deriving DecidableEq, Repr, Inhabited

/-- A field as the token unit builds it (R349). -/
structure FieldVal where
  id : Nat
  bytes : List Byte
  overlong : Bool
  conf : Nat
  tag : Nat
  touched : Bool
  closed : Nat
  repaired : Bool
  deriving DecidableEq, Repr, Inhabited

/-- A finished field (R351, R352). -/
structure FieldRes where
  id : Nat
  typ : Nat
  status : Status
  conf : Nat
  reason : FReason
  value : List Byte
  required : Bool
  threshold : Nat
  escalated : Bool
  voted : Bool
  repaired : Bool
  reached : Bool
  closed : Nat
  deriving DecidableEq, Repr, Inhabited

/-- What the spec keeps of a PIECE or HOSTIMAGE beyond its entry: gate values in force at opening (R31), COUNT-mode positions and the moment the count was reached (R32, R42), record data with the measurement reference taken (R50, R154, R504), retention (R52, R104), binding. -/
structure Piece where
  image : Bool
  port : Nat
  gateMode : Nat
  lateEn : Bool
  lateNs : Nat
  emitPoint : Option Nat
  emitCount : Option Nat
  countAt : Option Nat
  hiPos : Nat
  encSel : Nat
  openStamp : Stamp
  trailStamp : Option Stamp
  ring : Option Nat
  playbook : Nat
  fn : Nat
  pairFault : Bool
  doubleFeed : Bool
  trailMissing : Bool
  repaired : Bool
  demoted : Bool
  takenOver : Bool
  origin : Option Nat
  recorded : Bool
  lateDue : Option Nat
  lateDone : Bool
  released : Bool
  finalDone : Bool
  relayed : Bool
  retStop : Bool
  noFrame : Bool
  srcItem : Nat
  srcPort : Nat
  srcKey : Nat
  mref : Nat
  reason : Reason
  ended : Option Status
  deriving DecidableEq, Repr, Inhabited

/-- What is kept of a SIDE: its piece, port, lines (R97), trailing edge, whether its barrier gives that edge, and whether it has sealed. -/
structure Side where
  piece : Nat
  port : Nat
  nextLine : Nat
  lastLine : Option Nat
  trail : Option Stamp
  barrier : Bool
  flushed : Bool
  deriving DecidableEq, Repr, Inhabited

/-- What is kept of a REGION: where it was found, MARGIN in force when it opened (R11, R381), its passes' results and whether re-reads were asked for (R374), crop and its place in the cache (R368), whether a SEQUENCE of it was demoted (R379), escalation (R377), close stamp (R42). -/
structure Region where
  side : Nat
  sidePort : Nat
  top : Nat
  found : Found
  margin : Nat
  sealed : Bool
  passes : Tbl (List FieldRes)
  openPasses : List Nat
  reread : Bool
  needCrop : Bool
  crop : Bool
  cropFull : Bool
  cropAt : Nat
  beWork : Bool
  escPending : Option Nat
  model : Nat
  playbook : Nat
  result : Option (List FieldRes)
  close : Option Nat
  deriving DecidableEq, Repr, Inhabited

/-- TIER of a page table entry (R303). -/
inductive Tier where
  | none | chip | dram | dropped
  deriving DecidableEq, Repr, Inhabited

/-- A page table entry (R303); a CHIP frame is numbered 64 × tile + local frame. -/
structure Pte where
  tier : Tier
  fill : Nat
  frame : Nat
  deriving DecidableEq, Repr, Inhabited

/-- How a SEQUENCE ended (R338, R341, R342, R390, and the other endings of R351 and R505). -/
inductive SeqEnd where
  | running | eos | stop | maxTokens | dead | noToken | noFrame | ctxFault | noContext | aborted
  deriving DecidableEq, Repr, Inhabited

/-- What is kept of a SEQUENCE: token binding (R344), grammar state, assembler (R345), stop hold (R348), fields (R349), LIVE chunk (R347), budget (R379), page tables (R299, R303), token log (R325), origin of an escalation (R456), planes of a re-read's or escalation's input (R373). -/
structure Seq where
  region : Nat
  pass : Nat
  playbook : Nat
  model : Nat
  tset : Nat
  state : Nat
  out : OutCls
  maxTokens : Nat
  tokens : List Nat
  lastStep : Nat
  lastResult : Nat
  pend : List Byte
  pendField : Nat
  hold : List (List Byte)
  text : List Byte
  chars : Nat
  stopIndex : Nat
  stopOffset : Nat
  fields : List FieldVal
  curField : Nat
  closeNo : Nat
  lastField : Nat
  repaired : Bool
  livePend : List Byte
  liveSince : Option Nat
  liveChunk : Nat
  openTb : Nat
  ending : SeqEnd
  tables : List (List Pte)
  inputReady : Bool
  esc : Option (Nat × Nat)
  index : Nat
  sharedPrefix : Bool
  lost : List Nat
  log : List Nat
  input : List (List Nat)
  deriving DecidableEq, Repr, Inhabited

/-- One colour component of a JPEG image after entropy decoding and dequantisation: sampling factors, blocks per row, and blocks in rows, each as 64 coefficients, place 8 × v + u (R361, R363). -/
structure JpegComp where
  h : Nat
  v : Nat
  across : Nat
  blocks : List (List Int)
  deriving DecidableEq, Repr, Inhabited

/-- A host image (R361, R362, R367); `data` its bytes once the decode engine holds them, `decoded` also when it ended without being decoded; `sq` and `pos` the queue and the key of its command, `readTb` since when its bytes are to be read (R530). -/
structure Image where
  item : Nat
  format : Nat
  colour : Bool
  width : Nat
  height : Nat
  pitch : Nat
  addr : Nat
  bytes : Nat
  fetched : Bool
  decoded : Bool
  started : Bool
  data : List Byte
  sq : Nat
  pos : Nat
  readTb : Nat
  deriving DecidableEq, Repr, Inhabited

/-- A crop in the crop cache (R368, R369): ITEM_ID of its REGION or HOSTIMAGE and ID of its top-level item, planes of UQ12 pixels, row-major; `place` is its offset in the cache, `repaired` the colours of which a read of retention replaced a line (R529). -/
structure Crop where
  item : Nat
  top : Nat
  width : Nat
  height : Nat
  x0 : Nat
  y0 : Nat
  planes : List (List Nat)
  stamp : Stamp
  used : Nat
  place : Nat
  repaired : Nat
  deriving DecidableEq, Repr, Inhabited

/-- An escalation received (R456). -/
structure EscIn where
  src : Nat
  txn : Nat
  head : EscHeadBody
  data : List Byte
  deriving DecidableEq, Repr, Inhabited

/-- The field entries of an escalation's reply that waits for the fabric regulator of the partition that read it (R387, R456). -/
structure EscOut where
  src : Nat
  txn : Nat
  part : Nat
  cls : Cls
  body : List Byte
  deriving DecidableEq, Repr, Inhabited

/-- A PIECE held for the source in the relay ring (R449). -/
structure RelayPiece where
  body : RelayOpenBody
  lines : List (List Byte × Byte × List Byte)
  /-- Where its messages lie in DRAM, as (address, bytes). -/
  places : List (Nat × Nat)
  deadline : Nat
  seals : List (Word × Word × Stamp)
  gap : Bool
  done : Bool
  deriving DecidableEq, Repr, Inhabited

/-- The encoder of an opening event, its position then, and the highest position since (R31, R32). -/
structure OpenPos where
  enc : Nat
  pos : Nat
  high : Nat
  deriving DecidableEq, Repr, Inhabited

/-- A BE opening that waits for a free entry (R26): with the key and stamp of the moment it was asked for, the command that asked, the port of the SIDE and whether its barrier opened it, the encoder positions since, the text area of a REGION, the pass of a SEQUENCE, a trailing edge that has passed meanwhile, the escalation that a SEQUENCE serves, the source item that a taken-over PIECE stands for, and what was relayed of a PIECE whose SIDE `key` waits. -/
structure BeWait where
  typ : ItemType
  port : Nat
  parent : Nat
  stamp : Stamp
  key : Nat
  pairFault : Bool
  sq : Option (Nat × Nat)
  side : Nat
  barrier : Bool
  at_ : OpenPos
  found : Option Found
  pass : Nat
  trail : Option Stamp
  esc : Option EscIn
  relay : Option Nat
  taken : Option RelayPiece
  deriving DecidableEq, Repr, Inhabited

/-! ### Intake (chapter 2) and calibration (chapter 3) -/

/-- A sensor lane (R58, R67): block lock, the moment since which every sync header has been valid, moments of its latest sync errors, newest first. -/
structure LaneSt where
  locked : Bool
  clean : Nat
  errors : List Nat
  deriving DecidableEq, Repr, Inhabited

/-- One sub-exposure's packet as accepted or repaired (R60-R66), with the SNS_AUX bytes of its header as they came (R62). -/
structure PktPlane where
  colour : Nat
  pixels : List Nat
  aux : List Byte
  repaired : Bool
  sat : Bool
  slip : Bool
  deriving DecidableEq, Repr, Inhabited

/-- A line, or a flush exposure, from its start to its completion (R85, R87, R96-R98): exposure sequence time, slot time and the end of the gate pulse within a slot, lanes and block time in ps of its link (R57, R86), colours with LAMP_FAULT, bank that calibrates it (R128), number of the capture it belongs to (R120), packets by sub-exposure. -/
structure LineRec where
  seqNs : Nat
  slotNs : Nat
  gateNs : Nat
  lanes : Nat
  blockPs : Nat
  lampFault : Nat
  bank : Nat
  cap : Nat
  stamp : Stamp
  startTb : Nat
  hwm : Nat
  colour : Bool
  pix : Nat
  flush : Bool
  dark : Bool
  resumed : Bool
  gap : Bool
  skipped : Bool
  side : Option Nat
  planes : Tbl PktPlane
  deriving DecidableEq, Repr, Inhabited

/-- A calibrated line in the stream buffer toward the Pitch (R98, R99); `side` the item ID of its SIDE. -/
structure StreamLine where
  tag : List Byte
  side : Nat
  lineNo : Nat
  planes : List (List Nat)
  deriving DecidableEq, Repr, Inhabited

/-- A retained line: IDs of its SIDE and PIECE, its place in the ring, its record and its planes (R101, R102), and the SNS_AUX bytes of its packets (R62; log entry 72). -/
structure RetLine where
  side : Nat
  piece : Nat
  lineNo : Nat
  addr : Nat
  bytes : List Byte
  planes : List (List Nat)
  repaired : Nat
  aux : List (List Byte)
  deriving DecidableEq, Repr, Inhabited

/-- An exposure sequence as its pins are driven (R89, R90): start on the timebase, when the last lamp before it went off, colours of lamps on by sub-exposure, times in ns. -/
structure Expo where
  start : Nat
  offTb : Nat
  lamps : List Nat
  lead : Nat
  exp : Nat
  tail : Nat
  dead : Nat
  deriving DecidableEq, Repr, Inhabited

/-- Intake port n (R65-R104) beyond its registers, or, at 4 + n, port n of the source whose PIECEs are taken over (R452): lanes; SNS_LINE_NO expected; last good packets with the SIDE they came in; phase (R82); requests and busy time (R85); flags for the next line; lines under way; stream buffer (R99); retained lines; SIDE that takes lines; order key (R54); binding in force and waiting; what opened the open PIECE (R38). -/
structure LinPort where
  lanes : Tbl LaneSt
  snsNext : Option Nat
  lastGood : Tbl (Nat × List Nat)
  pEdge : Nat
  linesDue : Nat
  frozen : Bool
  tInt : Option Nat
  tAdv : Option Nat
  waiting : Bool
  busyUntil : Nat
  lastFlush : Nat
  skip : Bool
  gap : Bool
  resume : Bool
  streamGap : Bool
  lines : List LineRec
  stream : List StreamLine
  retLines : List RetLine
  retPos : Nat
  retStopped : Bool
  prevPlanes : List (List Nat)
  prevSide : Nat
  curSide : Option Nat
  orderKey : Nat
  bindPb : Nat
  bindFn : Nat
  nextPb : Nat
  nextFn : Nat
  bound : Bool
  nextBound : Bool
  expo : Option Expo
  openedBy : Nat
  ringOn : Bool
  deriving DecidableEq, Repr, Inhabited

/-- Encoder n: accepted levels (R74), last counted edge with its direction and stamp, moment from which stall time counts (R78), stamps of HWM-raising edges, newest first (R33), the Z period (R77). Stamps are in units of 2^-16 ns. -/
structure EncSt where
  a : Bool
  b : Bool
  lastDir : Option Bool
  lastEdge : Option Nat
  lastTb : Nat
  raising : List Nat
  zPos : Option Nat
  zDir : Option Bool
  zTurned : Bool
  stalled : Bool
  selected : Bool
  below : Bool
  deriving DecidableEq, Repr, Inhabited

/-- Barrier k: accepted level and when it became blocked (R94, R95). -/
structure BarSt where
  known : Bool
  level : Bool
  since : Nat
  jammed : Bool
  deriving DecidableEq, Repr, Inhabited

/-- Where a capture stands (R116-R120). -/
inductive CapPhase where
  | idle | skip1 | strip1 | skip2 | strip2 | computing
  deriving DecidableEq, Repr, Inhabited

/-- A strip's sums for one colour: good lines taken and the sum of raw pixels (R119, R124). -/
structure StripSum where
  good : Nat
  sums : List Nat
  deriving DecidableEq, Repr, Inhabited

/-- Calibration of port n: two banks by colour × 2^15 + pixel (R110, R111), swap and copy (R128, R129), capture (R116-R127): its number, phase, lines counted and taken in the phase, sums; an OK table that waits for the copy; uncorrectable entries of the ACTIVE table, bank × 2^17 + place (R528); check bytes of the words of each bank, 8 entries in a word, that are not those of their data (R522). -/
structure CalPort where
  capNo : Nat
  bank0 : Tbl Word
  bank1 : Tbl Word
  chk0 : Tbl (List Byte)
  chk1 : Tbl (List Byte)
  swapDue : Bool
  copying : Bool
  phase : CapPhase
  count : Nat
  white : Tbl StripSum
  dark : Tbl StripSum
  waitOk : Bool
  okTable : Tbl Word
  okDefects : Nat
  uncorr : List Nat
  deriving DecidableEq, Repr, Inhabited

/-! ### Norentum (chapter 4) -/

/-- The sealed parameters of one port (R143). -/
structure MetParams where
  menc : Nat
  mbar : Nat
  mbarPol : Nat
  mbarFilt : Nat
  countPm : Nat
  lenOfs : Int
  pixPm : Nat
  deckE8 : Nat
  chan : Nat
  edgeThr : Nat
  edgePol : Nat
  hgtRank : Nat
  maxBad : Nat
  vMin : Nat
  vMax : Nat
  deriving DecidableEq, Repr, Inhabited

/-- States of Norentum (R156). -/
inductive MetState where
  | boot | sealed | opened | fault
  deriving DecidableEq, Repr, Inhabited

/-- A line as a measurement keeps it (R148, R149). -/
structure MetLine where
  stamp : Stamp
  e8 : Option Int
  clip : Bool
  bad : Bool
  deriving DecidableEq, Repr, Inhabited

/-- A measurement (R144-R150): leading edge, EVENT_CNT and PARAM_CRC then current, the set it uses, flags gathered so far, the first moment from its leading edge on at which the position lay below its highest (R145), lines, trailing edge, the edge that ended it as LONG, and whether the interpolation of its trailing edge has ended. -/
structure Meas where
  lead : Stamp
  evt : Nat
  crc : Nat
  prm : MetParams
  sealOpen : Bool
  dip : Option Stamp
  illegal : Bool
  lines : List MetLine
  trail : Option Stamp
  long : Option (Stamp × Nat)
  interpDone : Bool
  deriving DecidableEq, Repr, Inhabited

/-- Norentum's own encoder: accepted levels, position, highest position, the edge at which the position last came back to it, edges that raised it, newest first (R145, R584). -/
structure MetEnc where
  a : Bool
  b : Bool
  pos : Nat
  high : Nat
  regain : Option Stamp
  edges : List (Stamp × Nat)
  deriving DecidableEq, Repr, Inhabited

/-- A packet as Norentum's tap took it (R98, R139): stamp of its line, plane, whether it is good, pixels. -/
structure MetTap where
  stamp : Stamp
  plane : Nat
  good : Bool
  px : List Nat
  deriving DecidableEq, Repr, Inhabited

/-- Norentum's port n: set in force, a committed set that waits (R159), accepted barrier level, packets of the last lines, newest first (a leading edge is accepted up to MBAR_FILT_NS after its stamp), measurements whose record is not yet made, oldest first. -/
structure MetPort where
  inForce : MetParams
  applyDue : Bool
  blocked : Bool
  taps : List MetTap
  meas : List Meas
  deriving DecidableEq, Repr, Inhabited

/-- Norentum (R137-R168): supply, how often it has come on, state and fault cause (R156, R162), accepted SEAL_N, time counter with an accepted step that waits (R140, R477), events, log, records, parameters by port × 16 + number (R143), ports, encoders, image, heartbeat, UART frames sent. `flashBad`, `imageBad` and `otpBad` say that a check of R156 has found the stored parameters, the image or OTP bad, and that nothing has repaired it (R164). -/
structure Met where
  on : Bool
  boots : Nat
  state : MetState
  cause : Nat
  sealLow : Bool
  sealKnown : Bool
  romDone : Bool
  powerLogged : Bool
  time : Stamp
  stepDue : Int
  stopNs : Nat
  events : Nat
  log : List (List Byte)
  mref : Nat
  records : Tbl (List Byte)
  committed : Tbl Int
  staged : Tbl Int
  ports : Tbl MetPort
  encs : Tbl MetEnc
  imageSet : Bool
  image : List Byte
  imageBuf : List (Nat × Byte)
  beatNs : Nat
  uartTx : List (List Byte)
  flashBad : Bool
  imageBad : Bool
  otpBad : Bool
  deriving DecidableEq, Repr, Inhabited

/-! ### Pitch (chapters 5 to 8) -/

/-- A command in an engine's queue (R207, R213); `done` counts the rows it has completed, where it works row by row. -/
structure QCmd where
  index : Nat
  bytes : List Byte
  started : Bool
  startTb : Nat
  done : Nat
  /-- What its write ranges held when it started, as (place in the tile stores, length, bytes other than 0), and what was released then of the halo rings by channel and, under 4, of the input ring: put back when it faults, and the rows that it has put into its peer's ring with them (R235). -/
  before : List (Nat × Nat × List Host.Cell)
  released : Tbl Nat
  sent : Nat
  deriving DecidableEq, Repr, Inhabited

/-- A halo ring on the receiver (R220): index of the HALO_OPEN that opened it, ring address, depth, row bytes, sender, rows arrived and released. -/
structure Halo where
  cmd : Nat
  addr : Nat
  depth : Nat
  rowBytes : Nat
  peer : Nat
  head : Nat
  released : Nat
  deriving DecidableEq, Repr, Inhabited

/-- A checkpoint record (R224): list position, semaphores, halo rings, live pages with those of the frame pool (R302), how many of them the command names, the slot that holds each page written out, CKPT_NO, outputs issued, the stream position (the ID of the SIDE and the next row). -/
structure Ckpt where
  pos : Nat
  sems : Tbl Nat
  halos : Tbl Halo
  pages : List Nat
  live : Nat
  slots : Tbl Nat
  no : Nat
  outSeq : Nat
  streamAt : Option (Nat × Nat)
  deriving DecidableEq, Repr, Inhabited

/-- One input that the journal keeps (R225). -/
inductive JIn where
  | msg (src tag : Nat) (data : List Byte)
  | halo (ch : Nat) (row : List Byte)
  | line (l : StreamLine)
  | ack (rows : List Nat)
  deriving DecidableEq, Repr, Inhabited

/-- A remap of a logical tile whose record is due once its restore is done (R231, R533, R538): failed and new physical tile, cause, detection, steps since the checkpoint. -/
structure Remap where
  old : Nat
  new : Nat
  cause : Nat
  stamp : Stamp
  steps : Nat
  deriving DecidableEq, Repr, Inhabited

/-- A logical tile (R205-R231): `buf` the list buffer, commands fetched ahead from `pos` on (R212); `ckpt` the current and `prior` the other checkpoint record (R224); `patches` the two patch slots of the expansion buffer (R250); `streamAt` the SIDE it streams, by its item ID, with the next row; `binds` when each STREAM_IN since the last CKPT started, and the ID of the SIDE it then took (R265, R268); `lostHalos` the halo rings it had open when it failed, which its replay opens again (R231); `loads` what LOADs have brought into its store, as (DRAM address, store address, bytes), newest first (R400); `hsTb` when a handshake was last seen (R230); `newFrames` the local frames that the page manager has written since the last CKPT (R302); `fails` the remaps that its restore follows. -/
structure Tile where
  job : Option Nat
  listAddr : Nat
  listLen : Nat
  pos : Nat
  buf : List (List Byte)
  mac : List QCmd
  vec : List QCmd
  msg : List QCmd
  barrier : Option QCmd
  sems : Tbl Nat
  wcetSum : Nat
  ckptNo : Nat
  ckpt : Option Ckpt
  prior : Option Ckpt
  journal : List JIn
  journalBytes : Nat
  replay : List JIn
  halos : Tbl Halo
  outSeq : Nat
  accepted : Nat
  stopped : Bool
  restoring : Bool
  atCut : Bool
  ended : Bool
  readFrames : List Nat
  streamAt : Option (Nat × Nat)
  binds : Tbl (Nat × Option Nat)
  lostHalos : Tbl Halo
  loads : List (Nat × Nat × Nat)
  hsTb : Nat
  patches : List (List Byte)
  newFrames : List Nat
  stepsDone : Nat
  fails : List Remap
  deriving DecidableEq, Repr, Inhabited

/-- A message between tiles (R219, R226). -/
structure Msg where
  src : Nat
  dst : Nat
  tag : Nat
  ckptNo : Nat
  seq : Nat
  data : List Byte
  deriving DecidableEq, Repr, Inhabited

/-- A physical tile: isolation (R229), a libero removed from the spare pool (R197), moment since which its STEPS have been below 8,000 at V_MAX_MV (R197). -/
structure PTile where
  failed : Bool
  removed : Bool
  low : Option Nat
  deriving DecidableEq, Repr, Inhabited

/-- What a context switch saves of a tile: its state, and the bytes other than 0 of its live pages (R228, R404). -/
structure SavedTile where
  tile : Tile
  data : List Host.Cell
  deriving DecidableEq, Repr, Inhabited

/-- A job in flight, or pre-empted at a cut with the state of its tiles saved; `seqs` the sequences it serves (R205, R212, R228, R395, R399); `undo` what DRAM held before each of its STOREs since its last cut, newest first, and `marks` its sequences as they stood at that cut: what a teardown takes back (R407). -/
structure Job where
  ctx : Nat
  part : Nat
  playbook : Nat
  info : Nat
  interval : Nat
  item : Nat
  seqs : List Nat
  tag : Nat
  first : Nat
  count : Nat
  startTb : Nat
  boundary : Option Nat
  preempt : Bool
  evicting : Bool
  atCut : Bool
  cutNo : Nat
  frames : List Nat
  undo : List (Nat × List Byte)
  marks : Tbl Seq
  saved : Tbl SavedTile
  deriving DecidableEq, Repr, Inhabited

/-- One slice of logits that EMIT brought (R340): tile, slice, first token and number of tokens, per row the SEQ_ID and the logits as bit patterns. -/
structure EmitSlice where
  tile : Nat
  job : Nat
  part : Nat
  npart : Nat
  vtotal : Nat
  v0 : Nat
  vn : Nat
  fmt : Nat
  out : Nat
  rows : List (Nat × List Nat)
  cmd : Nat
  deriving DecidableEq, Repr, Inhabited

/-- A decode group whose slices have arrived in the partition's scan lane: rows still to decide and results so far (R340, R354). -/
structure EmitGroup where
  slices : List EmitSlice
  next : Nat
  results : List Nat
  deriving DecidableEq, Repr, Inhabited

/-! ### Page manager (chapter 9) -/

/-- A frame request (R318, R319). -/
structure FrameReq where
  seq : Nat
  set : Nat
  page : Nat
  tile : Nat
  part : Nat
  cls : Cls
  since : Nat
  waiting : Bool
  preempted : Bool
  copyOf : Option Nat
  fill : Nat
  deriving DecidableEq, Repr, Inhabited

/-- A frame transfer under way (R314, R312, R324). -/
inductive Xfer where
  | spill (seq set page chip dram : Nat) (forReq : Option Nat)
  | prefetch (seq set page dram chip : Nat)
  | cow (seq set page src dst : Nat)
  | drop (seq : Nat) (forReq : Option Nat)
  deriving DecidableEq, Repr, Inhabited

/-! ### Scheduler (chapter 12) -/

/-- A token bucket (R386): level, rate per µs, burst. -/
structure Bucket where
  level : Int
  rate : Nat
  burst : Nat
  deriving DecidableEq, Repr, Inhabited

/-- A transfer that waits on a bucket (R386). -/
structure BWait where
  cls : Cls
  bytes : Nat
  who : Nat
  deriving DecidableEq, Repr, Inhabited

/-- A template prefix (R311): its model and its page tables. -/
structure Prefix where
  playbook : Nat
  model : Nat
  tables : List (List Pte)
  deriving DecidableEq, Repr, Inhabited

/-- A partition (R384) with its buckets, transfers that its buckets have let pass, table and slot (R393-R397; moments in ns of fabric time), switch under way (R405), the context that is to leave at its next cut with the one it leaves for (R403), whether a BE round is over and the next has not begun (R398), and busy counts (R411). -/
structure PartSt where
  valid : Bool
  first : Nat
  groups : Nat
  resMax : Nat
  dram : Bucket
  fab : Bucket
  hdma : Bucket
  kvBudget : Nat
  dramWait : List BWait
  fabWait : List BWait
  hdmaWait : List BWait
  granted : List Nat
  table : Option (Nat × Nat)
  nextTable : Option (Nat × Nat)
  variantDue : Bool
  halted : Bool
  frameStart : Nat
  slot : Option Nat
  slotEndTb : Nat
  nextSlot : Nat
  switchIn : Option Nat
  switchTb : Nat
  evictee : Option (Nat × Nat)
  round : List Nat
  roundOver : Bool
  busy : List Nat
  saturated : Nat
  deriving DecidableEq, Repr, Inhabited

/-- STATE of a context (R389). -/
inductive CtxState where
  | undefined | idle | resident | faulted
  deriving DecidableEq, Repr, Inhabited

/-- A context (R389) with its scoreboard (R410), deficit (R398), live bytes (R404), the rows of its decode batch, 0 for a free row (R399), and the JOB_TAG of the job that faulted (R538). -/
structure Ctx where
  state : CtxState
  part : Nat
  cls : Cls
  playbook : Nat
  fn : Nat
  weight : Nat
  restart : Bool
  waitSum : Nat
  waitMax : Nat
  cmds : Nat
  preempts : Nat
  evicts : Nat
  faults : Nat
  debt : Nat
  tileTime : Nat
  deficit : Rat
  live : Nat
  lastRun : Nat
  tearing : Bool
  rows : List Nat
  faultTag : Nat
  deriving DecidableEq, Repr, Inhabited

/-- A job that is ready or waits for its inputs (R316, R406); `job` names a job in flight that continues past a cut. -/
structure ReadyJob where
  ctx : Nat
  info : Nat
  interval : Nat
  item : Nat
  since : Nat
  job : Option Nat
  deriving DecidableEq, Repr, Inhabited

/-- A model in the model cache (R401, R402); `slot` is the number of its table set in the token unit, `region` where that lies in DRAM with its bytes (R331). -/
structure ModelRes where
  playbook : Nat
  model : Nat
  part : Nat
  slot : Nat
  pinned : Bool
  cls : Cls
  lastUse : Nat
  loading : Bool
  region : Nat
  tsetBytes : Nat
  deriving DecidableEq, Repr, Inhabited

/-! ### Host interface (chapter 15) -/

/-- A fetched command packet (R485, R487): its queue; its key there, the position with the number of the queue's enabling above it; `running` marks one that has started and completes later. -/
structure Fetched where
  sq : Nat
  pos : Nat
  bytes : List Byte
  running : Bool
  openedItem : Nat
  deriving DecidableEq, Repr, Inhabited

/-- A record in the hold (R509): ring, TYPE, its parts, index of the item it answers, LC PIECE record (R510), already sent on the Ethernet path, and the item's final record (R52). -/
structure Held where
  ring : Nat
  typ : Nat
  parts : List (List Byte)
  item : Nat
  lc : Bool
  sent : Bool
  final : Bool
  deriving DecidableEq, Repr, Inhabited

/-- Interrupt bookkeeping of a ring (R515). -/
structure RingSt where
  unsig : Nat
  firstTb : Nat
  deriving DecidableEq, Repr, Inhabited

/-- Bookkeeping of a submission queue (R486, R530): stopped by an error; how often it has been enabled, which tells its commands of one enabling from those of another (R487); since when the packet at HEAD waits to be read. -/
structure SqSt where
  stopped : Bool
  enabled : Nat
  readTb : Nat
  deriving DecidableEq, Repr, Inhabited

/-! ### Koliad (chapter 13) and time (chapter 14) -/

/-- A flit that is ready to be sent: its VC, the port it came in on when it is forwarded (6 once that port has started afresh, R427), its bytes from byte 4 on, and the partition whose work sends it (R411, R430, R432). -/
structure RFlit where
  vc : Nat
  origin : Option Nat
  data : List Byte
  part : Option Nat := none
  deriving DecidableEq, Repr, Inhabited

/-- A message of which not every flit has come (R433): (SRC, VC, MSG_ID), port of arrival, data so far. -/
structure Partial where
  src : Nat
  vc : Nat
  msg : Nat
  port : Nat
  data : List Byte
  deriving DecidableEq, Repr, Inhabited

/-- Koliad port n (R417-R430): SEQ to send next and SEQ expected, replay buffer, flits ready, flits sent (newest first), bytes of the flit stream that no codeword has carried yet, CW_SEQ of the next codeword, symbols of the last one by lane (R418), transmit credits and credits owed by VC, VCs on which credits have come, moments of the timebase of the last good flit, ACK advance and REPLAY sent, flits since BE was served, serial of the neighbour. -/
structure KPort where
  gotKeepalive : Bool
  txSeq : Nat
  rxExp : Nat
  buffer : List (Nat × List Byte)
  ready : List RFlit
  sent : List (List Byte)
  stream : List Byte
  cwSeq : Nat
  lanes : List (List Nat)
  levels : List (List Nat)
  credit : Tbl Nat
  owed : Tbl Nat
  seenCredit : List Nat
  lastOwed : Nat
  lastGood : Nat
  ackTb : Nat
  replayTb : Option Nat
  sinceBe : Nat
  neighSerial : Option Nat
  deriving DecidableEq, Repr, Inhabited

/-- A transaction that waits for its reply (R438): destination, VC, the messages it consists of, sends made, moment of the last send, the command or the SEQUENCE that it serves. -/
structure Txn where
  dst : Nat
  vc : Nat
  msgs : List (List Byte)
  sends : Nat
  sentTb : Nat
  cmd : Option (Nat × Nat)
  seq : Option Nat
  deriving DecidableEq, Repr, Inhabited

/-- An entry of the receiver's last 1,024 completed transactions (R438). -/
structure TxnDone where
  src : Nat
  txn : Nat
  reply : List Byte
  deriving DecidableEq, Repr, Inhabited

/-- A relay message kept until the partner has accepted it (R448, R449). -/
structure RelayOut where
  seq : Nat
  kind : Nat
  item : Nat
  bytes : List Byte
  deriving DecidableEq, Repr, Inhabited

/-- The huddle (R440-R444): lowest candidate serial known, 2^64 - 1 for none, and since when it stands; level under way with its first address, next address to give; port toward the root; by serial the ports toward devices below, their addresses as (address, serial) and their REPORTs as far as they passed here; addresses whose DONE has come; the MAP in force; commands that wait for the end. -/
structure HuddleSt where
  running : Bool
  lowest : Nat
  lowestTb : Nat
  level : Nat
  levelFrom : Nat
  nextAddr : Nat
  parentPort : Option Nat
  via : List (Nat × Nat)
  known : List (Nat × Nat)
  reports : List (Nat × List NeighRep)
  dones : List Nat
  map : List MapDev
  cmds : List (Nat × Nat)
  /-- A neighbour with an address that the map in force does not know has been met (R440). -/
  other : Bool
  deriving DecidableEq, Repr, Inhabited

/-- The fabric unit (R432-R456). `paths` holds the output port chosen at the FIRST flit of a message under way ((SRC, VC, MSG_ID), port); `floodSeen` the floods forwarded and `floodDone` the floods applied, by (SRC, FLOOD_SEQ); `down` the link ends reported DOWN; `inbox` the messages reassembled; `held` the messages that wait for the end of the huddle, with the partition whose work sends them; `relayPos` the next place in the relay ring. -/
structure Kol where
  ports : Tbl KPort
  huddle : HuddleSt
  floodSeq : Nat
  floodSeen : List (Nat × Nat)
  floodDone : List (Nat × Nat)
  down : List (Nat × Nat)
  adverts : Tbl (List Nat)
  myModels : List Nat
  txns : Tbl Txn
  nextTxn : Nat
  nextMsg : Nat
  txnDone : List TxnDone
  partials : List Partial
  paths : List (Nat × Nat × Nat × Nat)
  inbox : List (Nat × List Byte)
  held : List (Nat × Nat × List Byte × Option Nat)
  relaySeq : Nat
  relayOut : List RelayOut
  relayStopped : Bool
  relayIn : Tbl RelayPiece
  relayExp : Nat
  lastKey : Tbl Nat
  relayPos : Nat
  source : Option Nat
  hbTb : Option Nat
  hbAccepted : Nat
  partnerLost : Bool
  tookOver : Bool
  escIn : List EscIn
  escOut : List EscOut
  deriving DecidableEq, Repr, Inhabited

/-- The time unit's state on one port (R468-R470, R479). -/
structure TPort where
  samples : List Rat
  reqId : Nat
  t1 : Option Stamp
  t2 : Option Stamp
  t4 : Option Stamp
  burst : Nat
  syncRx : List (Nat × Stamp)
  txq : List (Nat × Stamp)
  deriving DecidableEq, Repr, Inhabited

/-- A PTP message that the Ethernet port sends (R480; log entry 55). -/
inductive PtpMsg where
  | sync | followUp | delayReq | delayResp | pdelayReq | pdelayResp | pdelayRespFollowUp
  deriving DecidableEq, Repr, Inhabited

/-- A PTP message as it left: its kind, domain, transport, and the stamp that it carries. -/
structure PtpOut where
  msg : PtpMsg
  domain : Nat
  l2 : Bool
  stamp : Stamp
  deriving DecidableEq, Repr, Inhabited

/-- PTP on the Ethernet port (R480): origin and receive stamps of the last Sync, transmit stamp of the request under way, path delay measured last in units of 2^-16 ns, moment of the timebase of the last Sync sent, messages sent, newest first. -/
structure PtpPort where
  origin : Option Stamp
  rx : Stamp
  request : Option Stamp
  delay : Option Rat
  syncTb : Option Nat
  sent : List PtpOut
  deriving DecidableEq, Repr, Inhabited

/-- The time unit (R461-R480). -/
structure Tim where
  now : Stamp
  tai : Nat
  taiNs : Nat
  freq : Rat
  rate : Rat
  acc : Rat
  stopNs : Nat
  good : Nat
  recent : List Rat
  burstEnded : Bool
  parent : Option Nat
  /-- Devices that announce themselves, with the moment of the timebase of the last ANNOUNCE (R467, R468). -/
  announcers : Tbl Nat
  syncId : Nat
  ports : Tbl TPort
  ptp : PtpPort
  deriving DecidableEq, Repr, Inhabited

/-! ### RAS, snapshot, Ethernet, system -/

/-- One snapshot section (R545). -/
structure Section where
  block : Nat
  flags : Nat
  inst : Nat
  latch : Stamp
  body : List Byte
  deriving DecidableEq, Repr, Inhabited

/-- The snapshot unit (R540-R545). -/
structure Snp where
  no : Nat
  trig : Stamp
  cause : Nat
  faultClass : Nat
  sections : List Section
  waitTiles : List Nat
  lastTrig : Option Stamp
  out : Option Nat
  deriving DecidableEq, Repr, Inhabited

/-- RAS bookkeeping (R527, R529, R531, R537): SEQ of the last record, corrections of this second by channel (8 for the tile stores), channels whose expired request was issued again with the time of that on the timebase, and the check bytes of the DRAM words and of the words of the logical tiles' stores whose check bytes are not those of their data (R525). -/
structure Ras where
  seq : Nat
  second : Tbl Nat
  requested : Tbl Nat
  chk : Tbl (List Byte)
  tchk : Tbl (List Byte)
  deriving DecidableEq, Repr, Inhabited

/-- The governor (R194-R197): quiet periods, lowest tmin of the period, products of the period by lane class, whether the governor controls the regulator; VOUT_COMMANDs sent to the regulator, in mV, newest first (R551). -/
structure Gov where
  quiet : Nat
  low : Option Nat
  products : Tbl Nat
  on : Bool
  vout : List Nat
  deriving DecidableEq, Repr, Inhabited

/-- A UDP datagram as it left (R512): addresses and ports, payload, and the offset and length of each IPv4 fragment. -/
structure UdpOut where
  dstMac : Nat
  srcIp : Nat
  dstIp : Nat
  srcPort : Nat
  dstPort : Nat
  payload : List Byte
  frags : List (Nat × Nat)
  deriving DecidableEq, Repr, Inhabited

/-- The Ethernet result path (R512-R514): transmit queue of payloads, next DGRAM_SEQ, datagrams sent and ARP replies, newest first. -/
structure Eth where
  queue : List (List Byte)
  seq : Nat
  sent : List UdpOut
  replies : List (List Byte)
  deriving DecidableEq, Repr, Inhabited

/-- Kickoff and pins of the SYS block (R534, R553-R566): PORESET_N released, and ever released before; start of this kickoff on the timebase; what kickoff has reached; Coach has run since kickoff; cause and stamp of a Coach restart under way (R538); the start of the huddle's wait; the stamp of a warm reset whose record is due; SYS_THERM_TRIP_N driven low; the boot flash pins at high impedance (R558); DRAM in self-refresh (R563). -/
structure Sys where
  released : Bool
  wasOn : Bool
  startTb : Nat
  trained : Bool
  written : Bool
  bist : Bool
  coachImg : Bool
  coachRan : Bool
  coachDown : Option (Nat × Stamp)
  huddleEnd : Bool
  huddleWait : Nat
  warm : Option Stamp
  thermTrip : Bool
  flashHiZ : Bool
  selfRefresh : Bool
  deriving DecidableEq, Repr, Inhabited

/-- Umpire's OTP for the boot images (R557): digest of the key, version floors of Umpire and of Coach. -/
structure BootOtp where
  keyDigest : List Byte
  umpireFloor : Nat
  coachFloor : Nat
  deriving DecidableEq, Repr, Inhabited

end Sys2Proof.Machine
end

