-- ==== Sys2Proof/Config.lean ====
section
/-! DEFINITION. What the manual leaves to an implementation or leaves open: constants with no body, so that no proof can see a value of them.
Each is named in a log entry under notes/assumptions. -/

namespace Sys2Proof.Config

open Sys2Proof.Machine

/-- A value the manual leaves open, fresh at each use: applied to the counter `freeCtr` of the state (log entry 10). -/
opaque freeValue : Nat → Nat

/-- The playbook that a byte string holds, or none where Umpire rejects it: signature, format or limits (R300, R331, R337, R391; log entries 6 and 7). -/
opaque playbookOf : List Byte → Option Playbook

/-- Whether Umpire's P-256 and SHA-512 check of a playbook passes (log entry 7). -/
opaque playbookSigned : List Byte → Bool

/-- Whether an image of Norentum carries a valid signature (second argument) under the key in its ROM (R163; log entry 7). -/
opaque metImageSigned : List Byte → List Byte → Bool

/-- The device key of Norentum in OTP, 256 bits (R137; log entry 4). -/
opaque metKey : List Byte

/-- The sealed image in flash before any update, and the version word that an image carries (R165; log entry 4). -/
opaque metFactoryImage : List Byte
opaque metVersion : List Byte → Word

/-- First 4 bytes of the SHA-256 of Norentum's ROM (R165; log entry 4). -/
opaque metRomId : Word

/-- Where the DRAM region lies that Umpire grants to the token unit for a table set, by its number (R331; log entry 31). -/
opaque tsetRegion : Nat → Nat

/-- The bytes that an entry beyond the end of a table of a table set reads as, by table (1 states, 2 transitions, 3 masks, 4 fields) and number (R336, R350; log entry 82). -/
opaque beyondTable : Nat → Nat → List Byte

/-- Whether the text of a TOKENIZE command, by its number, forms part of the prompt of an item, by its ID: the manual names no command that says so (R335; log entry 83). -/
opaque inPrompt : Nat → Nat → Bool

/-- OTP value of a register word by its offset (R581; log entry 4). -/
opaque otp : Nat → Word

/-- Value that Umpire writes into a register word during kickoff, by its offset (R581; log entry 4). -/
opaque umpire : Nat → Word

/-- The engine's 64-bit serial number in OTP (R440). -/
opaque serial : BitVec 64

/-- Energy of one product of a lane class at 0.75 V, in fJ: the factory table in OTP (R196; log entry 4). -/
opaque energy : Nat → Nat

/-- The body bytes of a Koliad message whose byte layout the manual does not give: by kind and the numbers it carries (log entry 11). -/
opaque msgBody : Nat → List Nat → List Byte

/-- Whether Umpire has granted port `n` the DRAM region of a retention ring, by base and size (R108; log entry 31). -/
opaque retGranted : Nat → Nat → Nat → Bool

/-- Bytes that the retention write queue holds when it is full (R388; log entry 84). -/
opaque retQueueBytes : Nat

/-- Whether Umpire has granted a partition a range of DRAM for LOAD, STORE and checkpoints, by partition, address and length (R235; log entry 31). -/
opaque dramGranted : Nat → Nat → Nat → Bool

/-- Number of elements that a CONVERT command converts, by the bytes of its PARAMS, whose layout the manual does not give (R216; log entry 37). -/
opaque convertCount : List Byte → Nat

/-- The bits that POOL MAX writes for a window of SKIP mode that holds no position, which the manual does not state: by the command's bytes, output row, column and channel, so that an execution again gives the same bits (R200, R255; log entry 76). -/
opaque emptyMax : List Byte → Nat → Nat → Nat → Nat

/-- The weights of a model as a playbook's image carries them, by the image's bytes and the model's number (R401; log entry 6). -/
opaque modelImage : List Byte → Nat → List Byte

/-- Bytes of the weight area of a partition's playbooks (R401; log entry 38). -/
opaque weightArea : Nat → Nat

/-- The status of a REMOTE_POST whose RESP carries a STATUS other than OK, for which the manual names no code (R437, R457; log entry 60). -/
opaque respStatus : Nat → Status

/-- The DRAM channel that holds a raw word (R529, R538; log entry 68). -/
opaque dramChannel : Nat → Fin 8

/-- INDEX that a source gives the REGION of a PIECE that its partner takes over, by the PIECE's ID and the place of the REGION (R371, R452; log entry 101). -/
opaque sourceIndex : Nat → Nat → Nat

/-- Visible DRAM addresses that no register gives: where a playbook lies, by its PLAYBOOK_ID, where the weights of a model lie once they are loaded, by playbook and model, and where the hold of records begins (R401, R509, R529; log entry 98). -/
opaque playbookPlace : Nat → Nat
opaque modelPlace : Nat → Nat → Nat
opaque holdPlace : Nat

/-- Whether a raw DRAM word belongs to Coach's memory (false) or Umpire's (true) (R529; log entry 98). -/
opaque firmwareRegion : Nat → Option Bool

/-- Umpire's OTP for the boot images: the SHA-384 digest of the key, and the version floors of Umpire and Coach (R557; log entry 4). -/
opaque bootOtp : BootOtp

/-- The lowest tempo of the mapped tiles that the governor expects at a setpoint 5 mV lower, by the lowest tempo now and the setpoint in mV (R196; log entry 69). -/
opaque tempoBelow : Nat → Nat → Nat

/-- Beyond the 1 ms between two ANNOUNCEs of a device, how long it still counts as announcing itself, in ns (R467, R468; log entry 55). -/
opaque announceGrace : Nat

end Sys2Proof.Config
end

