-- ==== Sys2Proof/Machine/Bits.lean ====
section
/-! DEFINITION. Bit fields of register words, byte order, two's complement and signed differences. -/

namespace Sys2Proof.Machine

/-- The value of the bits [hi:lo] of a word. -/
def fget (w : Word) (f : Fld) : Nat := (w.toNat >>> f.lo) % 2 ^ (f.hi + 1 - f.lo)

/-- The word with the bits [hi:lo] set to `v` (modulo the field's width). -/
def fset (w : Word) (f : Fld) (v : Nat) : Word :=
  let m := 2 ^ (f.hi + 1 - f.lo)
  BitVec.ofNat 32 (w.toNat - (fget w f) * 2 ^ f.lo + (v % m) * 2 ^ f.lo)

/-- The largest value of a field. -/
def fmax (f : Fld) : Nat := 2 ^ (f.hi + 1 - f.lo) - 1

/-- Bit `i` of a number. -/
def bit (v i : Nat) : Bool := (v >>> i) % 2 == 1

/-- A number from a Boolean. -/
def b2n (b : Bool) : Nat := if b then 1 else 0

/-- Two's complement value of the low `w` bits of `v`. -/
def sgn (w v : Nat) : Int :=
  let x := v % 2 ^ w
  if x < 2 ^ (w - 1) then (x : Int) else (x : Int) - (2 ^ w : Nat)

/-- The low `w` bits of the two's complement of `i`. -/
def uns (w : Nat) (i : Int) : Nat := (i % ((2 ^ w : Nat) : Int)).toNat

/-- Signed difference a - b of two w-bit values (R16, R32, R79, R462). -/
def sdiff (w a b : Nat) : Int := sgn w (a % 2 ^ w + 2 ^ w - b % 2 ^ w)

/-- The bytes of `v`, `n` of them, least significant first (R17). -/
def leBytes : Nat → Nat → List Byte
  | 0, _ => []
  | n + 1, v => BitVec.ofNat 8 v :: leBytes n (v / 256)

/-- The number that bytes spell, least significant first (R17). -/
def leNat : List Byte → Nat
  | [] => 0
  | b :: t => b.toNat + 256 * leNat t

/-- The number that bytes spell, most significant first. -/
def beNat (l : List Byte) : Nat := l.foldl (fun a b => a * 256 + b.toNat) 0

/-- The bytes of `v`, most significant first. -/
def beBytes (n v : Nat) : List Byte := (leBytes n v).reverse

/-- `n` bytes of a list from byte `i` on, as a little-endian number; bytes beyond the end count as 0. -/
def leAt (l : List Byte) (i n : Nat) : Nat := leNat ((l.drop i).take n)

/-- Saturating add into a field of `w` bits (the counters that saturate). -/
def satAdd (w a b : Nat) : Nat := min (a + b) (2 ^ w - 1)

/-- ceil(a / b). -/
def cdiv (a b : Nat) : Nat := (a + b - 1) / b

/-- A value lies in a range. -/
def inside (v lo hi : Nat) : Bool := decide (lo ≤ v) && decide (v ≤ hi)

/-- Round `a / b` to the nearest integer, ties to even; `b` is positive. -/
def divEven (a : Int) (b : Nat) : Int :=
  let q := a.fdiv b
  let r := a - q * b
  if 2 * r < b then q else if 2 * r > b then q + 1 else if q % 2 = 0 then q else q + 1

/-- A list of `n` zero bytes. -/
def zeros (n : Nat) : List Byte := List.replicate n 0

/-- The list padded with zero bytes to a multiple of `m`. -/
def padTo (m : Nat) (l : List Byte) : List Byte := l ++ zeros (cdiv l.length m * m - l.length)

/-- The list cut or padded with zero bytes to exactly `n` bytes. -/
def fitTo (n : Nat) (l : List Byte) : List Byte := l.take n ++ zeros (n - l.length)

end Sys2Proof.Machine
end

