-- ==== Sys2Proof/Machine/Rs.lean ====
section
/-! DEFINITION. The Reed-Solomon code of tile stores, DRAM, line buffers and calibration tables (R522-R524), and a memory of 32-byte data words read and written through it: the data bytes as they are held, and the check bytes of the words whose check bytes are not those of their data (R525, R526). -/

namespace Sys2Proof.Machine

/-! ### The code -/

/-- A field element times α (R522). -/
def gfAlpha (a : Byte) : Byte := (a <<< 1) ^^^ (if a.msb then 0x1D#8 else 0#8)

/-- The product of two field elements, from the lowest `n` bits of the second (R522). -/
def gfMulN : Nat → Byte → Byte → Byte
  | 0, _, _ => 0
  | n + 1, a, b => (if b.getLsbD 0 then a else 0) ^^^ gfMulN n (gfAlpha a) (b >>> 1)

/-- The product of two field elements (R522). -/
def gfMul (a b : Byte) : Byte := gfMulN 8 a b

/-- A field element times α^i. -/
def gfPow : Nat → Byte → Byte
  | 0, a => a
  | i + 1, a => gfPow i (gfAlpha a)

/-- The syndrome S_i = c(α^i) of a codeword, byte 0 the highest coefficient (R523, R524). -/
def syndrome (i : Nat) (w : List Byte) : Byte := w.foldl (fun s b => gfPow i s ^^^ b) 0

/-- The check bytes: the remainder of d(x) × x^3 by g(x) = x^3 + 0x07 x^2 + 0x0E x + 0x08, highest coefficient first (R522). -/
def rsCheck (data : List Byte) : Byte × Byte × Byte :=
  data.foldl (fun (r : Byte × Byte × Byte) b =>
    let q := r.1 ^^^ b
    (r.2.1 ^^^ gfMul q 0x07, r.2.2 ^^^ gfMul q 0x0E, gfMul q 0x08)) (0, 0, 0)

/-- The check bytes of a data word as a list. -/
def rsBytes (data : List Byte) : List Byte := let r := rsCheck data; [r.1, r.2.1, r.2.2]

/-- A codeword: data and check bytes (R523). -/
def rsEncode (data : List Byte) : List Byte := data ++ rsBytes data

/-- How a read of a word ends (R524). -/
inductive RsRead where
  | good
  | corrected (word : List Byte)
  | uncorrectable
  deriving DecidableEq, Repr

/-- Read a codeword of 35 bytes (R524). -/
def rsRead (w : List Byte) : RsRead :=
  let s0 := syndrome 0 w
  let s1 := syndrome 1 w
  let s2 := syndrome 2 w
  if s0 = 0 && s1 = 0 && s2 = 0 then .good
  else if s0 != 0 && s1 != 0 && s2 != 0 && gfMul s1 s1 == gfMul s0 s2 then
    match (List.range 35).find? (fun j => gfPow j s0 == s1) with
    | some j => .corrected (w.set (34 - j) (w.getD (34 - j) 0 ^^^ s0))
    | none => .uncorrectable
  else .uncorrectable

/-- A read ends without data (R524). -/
def RsRead.bad : RsRead → Bool
  | .uncorrectable => true
  | _ => false

/-- A read has corrected its word (R526). -/
def RsRead.fixed : RsRead → Bool
  | .corrected _ => true
  | _ => false

/-- Bytes that differ by a pattern. -/
def xorBytes (a b : List Byte) : List Byte := (a.zip b).map (fun x => x.1 ^^^ x.2)

/-! ### Memories under the code -/

/-- The canonical form of a memory: addresses rise strictly and no entry is 0, which an unlisted address reads as (log entry 5). -/
def memWf (m : List Host.Cell) : Bool := Tbl.wf (fun _ => (0 : Byte)) m

/-- `n` bytes of a memory from address `a`; an unlisted address reads 0 (log entry 5). -/
def mread (m : List Host.Cell) (a : Nat) : Nat → List Byte
  | 0 => []
  | n + 1 => tget 0 m a :: mread m (a + 1) n

/-- Write bytes to a memory from address `a` on. -/
def mwrite (m : List Host.Cell) (a : Nat) : List Byte → List Host.Cell
  | [] => m
  | b :: t => mwrite (tset 0 m a b) (a + 1) t

/-- Check bytes of data words by word number; a word that is not listed holds the check bytes of its data. -/
abbrev Checks := Tbl (List Byte)

/-- A data word shares a byte with the `n` bytes from `a` on. -/
def wordIn (a n w : Nat) : Bool := 0 < n && a < 32 * w + 32 && 32 * w < a + n

/-- The codeword that memory holds at a word: 32 data bytes and 3 check bytes (R523, R525). -/
def codeword (m : List Host.Cell) (k : Checks) (w : Nat) : List Byte :=
  let d := mread m (32 * w) 32
  d ++ (tfind k w).getD (rsBytes d)

/-- The words of a range whose check bytes are not those of their data, by how a read of them ends. -/
def badWords (m : List Host.Cell) (k : Checks) (a n : Nat) (how : RsRead → Bool) : List Nat :=
  (k.filter (fun e => wordIn a n e.1 && how (rsRead (codeword m k e.1)))).map (·.1)

/-- Memory as reads deliver it: a corrected word delivers its corrected data (R526). -/
def delivered (m : List Host.Cell) (k : Checks) : List Host.Cell :=
  k.foldl (fun v e =>
    match rsRead (codeword m k e.1) with
    | .corrected w => mwrite v (32 * e.1) (w.take 32)
    | _ => v) m

/-- Write bytes: a word that is wholly written carries fresh check bytes; one that is written in part is read first, and where that read finds it uncorrectable its error stays in it (R526). -/
def codeWrite (m : List Host.Cell) (k : Checks) (a : Nat) (l : List Byte) : List Host.Cell × Checks :=
  let hit := k.filter (fun e => wordIn a l.length e.1)
  let m' := mwrite (hit.foldl (fun v e =>
    match rsRead (codeword m k e.1) with
    | .corrected w => mwrite v (32 * e.1) (w.take 32)
    | _ => v) m) a l
  (m', k.filterMap (fun e =>
    if !wordIn a l.length e.1 then some e
    else if a ≤ 32 * e.1 && 32 * e.1 + 32 ≤ a + l.length then none
    else if (rsRead (codeword m k e.1)).bad then
      some (e.1, xorBytes (rsBytes (mread m' (32 * e.1) 32)) (xorBytes e.2 (rsBytes (mread m (32 * e.1) 32))))
    else none))

/-- An upset flips bits of a word's codeword as it is held. -/
def upset (m : List Host.Cell) (k : Checks) (w : Nat) (p : List Byte) : List Host.Cell × Checks :=
  let c := xorBytes (codeword m k w) (p.take 35 ++ zeros (35 - p.length))
  let d := c.take 32
  (mwrite m (32 * w) d, if c.drop 32 = rsBytes d then tdel k w else tins k w (c.drop 32))

end Sys2Proof.Machine
end

