-- ==== Sys2Proof/Machine/RegNames.lean ====
section
/-! DEFINITION. The names of the registers and of their fields, as the field maps of the spec give them.
A register's def is its BAR0 offset (R572, R574, R583); an index letter of the spec's name is an argument.
A field's def is its bit range in the register.
The field maps are R38, R39, R105, R106, R109, R135, R168, R202, R236, R270, R296, R328, R358, R381, R415, R458, R459, R482, R519, R520, R547, R548 and R570. -/

namespace Sys2Proof.Machine

/-- `LIN_GATE_CFG`, R38. -/
def LIN_GATE_CFG (n : Nat) : Nat := 0x200800 + 0x10000 * n
def LIN_GATE_CFG_BAR_SEL : Fld := ⟨14, 12⟩
def LIN_GATE_CFG_MASTER_PORT : Fld := ⟨11, 10⟩
def LIN_GATE_CFG_SLAVE : Fld := ⟨9, 9⟩
def LIN_GATE_CFG_LATE_EN : Fld := ⟨8, 8⟩
def LIN_GATE_CFG_OPEN_SRC : Fld := ⟨5, 4⟩
def LIN_GATE_CFG_CLASS : Fld := ⟨3, 3⟩
def LIN_GATE_CFG_GATE_MODE : Fld := ⟨1, 0⟩

/-- `LIN_GATE_DIST`, R39. -/
def LIN_GATE_DIST (n : Nat) : Nat := 0x200804 + 0x10000 * n
def LIN_GATE_DIST_GATE_COUNTS : Fld := ⟨31, 0⟩

/-- `LIN_GATE_TIME`, R39. -/
def LIN_GATE_TIME (n : Nat) : Nat := 0x200808 + 0x10000 * n
def LIN_GATE_TIME_GATE_NS : Fld := ⟨31, 0⟩

/-- `LIN_DLV_MARGIN`, R39. -/
def LIN_DLV_MARGIN (n : Nat) : Nat := 0x20080C + 0x10000 * n
def LIN_DLV_MARGIN_MARGIN_COUNTS : Fld := ⟨31, 16⟩
def LIN_DLV_MARGIN_MARGIN_US : Fld := ⟨15, 0⟩

/-- `LIN_LATE_LIMIT`, R39. -/
def LIN_LATE_LIMIT (n : Nat) : Nat := 0x200810 + 0x10000 * n
def LIN_LATE_LIMIT_LATE_NS : Fld := ⟨31, 0⟩

/-- `LIN_GATE_STAT`, R39. -/
def LIN_GATE_STAT (n : Nat) : Nat := 0x200814 + 0x10000 * n
def LIN_GATE_STAT_DBL_FEED_CNT : Fld := ⟨31, 16⟩
def LIN_GATE_STAT_LATE_CNT : Fld := ⟨15, 0⟩

/-- `LIN_PORT_CTL`, R105. -/
def LIN_PORT_CTL (n : Nat) : Nat := 0x200000 + 0x10000 * n
def LIN_PORT_CTL_EN : Fld := ⟨0, 0⟩

/-- `LIN_PORT_CFG`, R105. -/
def LIN_PORT_CFG (n : Nat) : Nat := 0x200004 + 0x10000 * n
def LIN_PORT_CFG_PIX : Fld := ⟨30, 16⟩
def LIN_PORT_CFG_LANES : Fld := ⟨15, 14⟩
def LIN_PORT_CFG_RATE : Fld := ⟨13, 13⟩
def LIN_PORT_CFG_COLOUR : Fld := ⟨12, 12⟩
def LIN_PORT_CFG_LAMP_MONO : Fld := ⟨11, 9⟩
def LIN_PORT_CFG_INTERP : Fld := ⟨8, 8⟩
def LIN_PORT_CFG_ENC_SEL : Fld := ⟨7, 6⟩

/-- `LIN_PORT_STAT`, R105. -/
def LIN_PORT_STAT (n : Nat) : Nat := 0x200008 + 0x10000 * n
def LIN_PORT_STAT_ADMIT_FAIL_LINK : Fld := ⟨5, 5⟩
def LIN_PORT_STAT_ADMIT_FAIL_RATE : Fld := ⟨4, 4⟩
def LIN_PORT_STAT_ENC_STALL : Fld := ⟨3, 3⟩
def LIN_PORT_STAT_REVERSED : Fld := ⟨2, 2⟩
def LIN_PORT_STAT_LINK_UP : Fld := ⟨1, 1⟩
def LIN_PORT_STAT_ENABLED : Fld := ⟨0, 0⟩

/-- `LIN_WR_REJECT`, R105. -/
def LIN_WR_REJECT (n : Nat) : Nat := 0x20000C + 0x10000 * n
def LIN_WR_REJECT_REJECT : Fld := ⟨12, 0⟩

/-- `LIN_IRQ_STAT`, R105. -/
def LIN_IRQ_STAT (n : Nat) : Nat := 0x200010 + 0x10000 * n
def LIN_IRQ_STAT_IRQ : Fld := ⟨10, 0⟩

/-- `LIN_IRQ_EN`, R105. -/
def LIN_IRQ_EN (n : Nat) : Nat := 0x200014 + 0x10000 * n
def LIN_IRQ_EN_IRQ_EN : Fld := ⟨10, 0⟩

/-- `LIN_LINK_CFG`, R105. -/
def LIN_LINK_CFG (n : Nat) : Nat := 0x200100 + 0x10000 * n
def LIN_LINK_CFG_LANE_REV : Fld := ⟨8, 8⟩
def LIN_LINK_CFG_LANE_INV : Fld := ⟨7, 0⟩

/-- `LIN_LINK_STAT`, R105. -/
def LIN_LINK_STAT (n : Nat) : Nat := 0x200104 + 0x10000 * n
def LIN_LINK_STAT_LANE_LOCK : Fld := ⟨15, 8⟩
def LIN_LINK_STAT_SKEW : Fld := ⟨2, 0⟩

/-- `LIN_LINK_ERR`, R105. -/
def LIN_LINK_ERR (n : Nat) : Nat := 0x200108 + 0x10000 * n
def LIN_LINK_ERR_BAD_LINE_CNT : Fld := ⟨31, 16⟩
def LIN_LINK_ERR_SEQ_SLIP_CNT : Fld := ⟨15, 8⟩
def LIN_LINK_ERR_RELOCK_CNT : Fld := ⟨7, 0⟩

/-- `LIN_ENC_CFG`, R106. -/
def LIN_ENC_CFG (n : Nat) : Nat := 0x200200 + 0x10000 * n
def LIN_ENC_CFG_STALL_US : Fld := ⟨31, 16⟩
def LIN_ENC_CFG_MIN_EDGE_NS : Fld := ⟨15, 8⟩
def LIN_ENC_CFG_Z_EN : Fld := ⟨5, 5⟩
def LIN_ENC_CFG_FILT_NS : Fld := ⟨4, 0⟩

/-- `LIN_ENC_LIMIT`, R106. -/
def LIN_ENC_LIMIT (n : Nat) : Nat := 0x200204 + 0x10000 * n
def LIN_ENC_LIMIT_Z_COUNTS : Fld := ⟨31, 0⟩

/-- `LIN_ENC_POS`, R106. -/
def LIN_ENC_POS (n : Nat) : Nat := 0x200208 + 0x10000 * n
def LIN_ENC_POS_POS : Fld := ⟨31, 0⟩

/-- `LIN_ENC_HWM`, R106. -/
def LIN_ENC_HWM (n : Nat) : Nat := 0x20020C + 0x10000 * n
def LIN_ENC_HWM_HWM : Fld := ⟨31, 0⟩

/-- `LIN_ENC_ERR`, R106. -/
def LIN_ENC_ERR (n : Nat) : Nat := 0x200210 + 0x10000 * n
def LIN_ENC_ERR_ILLEGAL_CNT : Fld := ⟨31, 16⟩
def LIN_ENC_ERR_OVERSPEED_CNT : Fld := ⟨15, 8⟩
def LIN_ENC_ERR_ZERR_CNT : Fld := ⟨7, 0⟩

/-- `LIN_TRIG_STEP`, R106. -/
def LIN_TRIG_STEP (n : Nat) : Nat := 0x200220 + 0x10000 * n
def LIN_TRIG_STEP_STEP : Fld := ⟨31, 0⟩

/-- `LIN_LINE_MIN`, R106. -/
def LIN_LINE_MIN (n : Nat) : Nat := 0x200224 + 0x10000 * n
def LIN_LINE_MIN_LINE_MIN_NS : Fld := ⟨31, 0⟩

/-- `LIN_LINE_CNT`, R106. -/
def LIN_LINE_CNT (n : Nat) : Nat := 0x200228 + 0x10000 * n
def LIN_LINE_CNT_LINE_CNT : Fld := ⟨31, 0⟩

/-- `LIN_OVERRUN`, R106. -/
def LIN_OVERRUN (n : Nat) : Nat := 0x20022C + 0x10000 * n
def LIN_OVERRUN_OVERRUN_CNT : Fld := ⟨31, 0⟩

/-- `LIN_EXP_TIME`, R106. -/
def LIN_EXP_TIME (n : Nat) : Nat := 0x200300 + 0x10000 * n
def LIN_EXP_TIME_EXP_NS : Fld := ⟨31, 0⟩

/-- `LIN_LAMP_TIME`, R106. -/
def LIN_LAMP_TIME (n : Nat) : Nat := 0x200304 + 0x10000 * n
def LIN_LAMP_TIME_TAIL_NS : Fld := ⟨27, 16⟩
def LIN_LAMP_TIME_LEAD_NS : Fld := ⟨11, 0⟩

/-- `LIN_LAMP_DEAD`, R106. -/
def LIN_LAMP_DEAD (n : Nat) : Nat := 0x200308 + 0x10000 * n
def LIN_LAMP_DEAD_LOK_EN : Fld := ⟨16, 16⟩
def LIN_LAMP_DEAD_DEAD_NS : Fld := ⟨15, 0⟩

/-- `LIN_LAMP_STAT`, R106. -/
def LIN_LAMP_STAT (n : Nat) : Nat := 0x20030C + 0x10000 * n
def LIN_LAMP_STAT_LAMP_FAULT_CNT : Fld := ⟨31, 8⟩
def LIN_LAMP_STAT_LAMP_STUCK : Fld := ⟨0, 0⟩

/-- `LIN_RET_BASE_LO`, R106. -/
def LIN_RET_BASE_LO (n : Nat) : Nat := 0x200400 + 0x10000 * n
def LIN_RET_BASE_LO_BASE : Fld := ⟨31, 12⟩

/-- `LIN_RET_BASE_HI`, R106. -/
def LIN_RET_BASE_HI (n : Nat) : Nat := 0x200404 + 0x10000 * n
def LIN_RET_BASE_HI_BASE : Fld := ⟨31, 0⟩

/-- `LIN_RET_SIZE`, R106. -/
def LIN_RET_SIZE (n : Nat) : Nat := 0x200408 + 0x10000 * n
def LIN_RET_SIZE_SIZE_MIB : Fld := ⟨13, 0⟩

/-- `LIN_RET_STAT`, R106. -/
def LIN_RET_STAT (n : Nat) : Nat := 0x20040C + 0x10000 * n
def LIN_RET_STAT_STREAM_GAP_CNT : Fld := ⟨31, 16⟩
def LIN_RET_STAT_FREE_MIB : Fld := ⟨15, 0⟩

/-- `LIN_BAR_CFGk`, R109. -/
def LIN_BAR_CFG (k : Nat) : Nat := 0x240000 + 0x4 * k
def LIN_BAR_CFG_JAM_MS : Fld := ⟨23, 8⟩
def LIN_BAR_CFG_BAR_FILT_US : Fld := ⟨7, 1⟩
def LIN_BAR_CFG_POL : Fld := ⟨0, 0⟩

/-- `LIN_BAR_STAT`, R109. -/
def LIN_BAR_STAT : Nat := 0x240020
def LIN_BAR_STAT_JAM_SEEN : Fld := ⟨15, 8⟩
def LIN_BAR_STAT_BLOCKED : Fld := ⟨7, 0⟩

/-- `LIN_ADMIT`, R109. -/
def LIN_ADMIT : Nat := 0x240040
def LIN_ADMIT_ADMIT_MPXS : Fld := ⟨31, 0⟩

/-- `CAL_CTL`, R135. -/
def CAL_CTL (n : Nat) : Nat := 0x280000 + 0x10000 * n
def CAL_CTL_ABORT : Fld := ⟨3, 3⟩
def CAL_CTL_START : Fld := ⟨2, 2⟩
def CAL_CTL_AUTO : Fld := ⟨1, 1⟩
def CAL_CTL_ARM : Fld := ⟨0, 0⟩

/-- `CAL_CFG`, R135. -/
def CAL_CFG (n : Nat) : Nat := 0x280004 + 0x10000 * n
def CAL_CFG_MAX_RUN : Fld := ⟨19, 16⟩
def CAL_CFG_DARK_N : Fld := ⟨14, 12⟩
def CAL_CFG_WHITE_N : Fld := ⟨10, 8⟩
def CAL_CFG_ORDER : Fld := ⟨6, 6⟩
def CAL_CFG_DARK_SRC : Fld := ⟨5, 5⟩
def CAL_CFG_REF_SRC : Fld := ⟨4, 3⟩
def CAL_CFG_REF_BAR : Fld := ⟨2, 0⟩

/-- `CAL_SKIP`, R135. -/
def CAL_SKIP (n : Nat) : Nat := 0x280008 + 0x10000 * n
def CAL_SKIP_DARK_SKIP : Fld := ⟨31, 16⟩
def CAL_SKIP_WHITE_SKIP : Fld := ⟨15, 0⟩

/-- `CAL_LEVEL`, R135. -/
def CAL_LEVEL (n : Nat) : Nat := 0x28000C + 0x10000 * n
def CAL_LEVEL_TARGET : Fld := ⟨27, 16⟩
def CAL_LEVEL_BLACK : Fld := ⟨11, 0⟩

/-- `CAL_LIMIT`, R135. -/
def CAL_LIMIT (n : Nat) : Nat := 0x280010 + 0x10000 * n
def CAL_LIMIT_GAIN_MAX : Fld := ⟨29, 16⟩
def CAL_LIMIT_GAIN_MIN : Fld := ⟨13, 0⟩

/-- `CAL_DEF_LIMIT`, R135. -/
def CAL_DEF_LIMIT (n : Nat) : Nat := 0x280014 + 0x10000 * n
def CAL_DEF_LIMIT_DEFECT_LIMIT : Fld := ⟨31, 16⟩
def CAL_DEF_LIMIT_DARK_MAX : Fld := ⟨11, 0⟩

/-- `CAL_STAT`, R135. -/
def CAL_STAT (n : Nat) : Nat := 0x280018 + 0x10000 * n
def CAL_STAT_DEFECTS : Fld := ⟨31, 16⟩
def CAL_STAT_BUSY : Fld := ⟨5, 5⟩
def CAL_STAT_ACTIVE_BANK : Fld := ⟨4, 4⟩
def CAL_STAT_RESULT : Fld := ⟨3, 0⟩

/-- `CAL_IRQ_STAT`, R135. -/
def CAL_IRQ_STAT (n : Nat) : Nat := 0x28001C + 0x10000 * n
def CAL_IRQ_STAT_IRQ : Fld := ⟨2, 0⟩

/-- `CAL_IRQ_EN`, R135. -/
def CAL_IRQ_EN (n : Nat) : Nat := 0x280020 + 0x10000 * n
def CAL_IRQ_EN_IRQ_EN : Fld := ⟨2, 0⟩

/-- `CAL_WR_REJECT`, R135. -/
def CAL_WR_REJECT (n : Nat) : Nat := 0x280024 + 0x10000 * n
def CAL_WR_REJECT_REJECT : Fld := ⟨6, 0⟩

/-- `CAL_EPOCH`, R135. -/
def CAL_EPOCH (n : Nat) : Nat := 0x280028 + 0x10000 * n
def CAL_EPOCH_EPOCH : Fld := ⟨31, 0⟩

/-- `CAL_FAC_c`, R135. -/
def CAL_FAC (n : Nat) (k : Nat) : Nat := 0x280040 + 0x10000 * n + 0x4 * k
def CAL_FAC_FGAIN : Fld := ⟨31, 16⟩
def CAL_FAC_FOFS : Fld := ⟨15, 0⟩

/-- `CAL_TAB_ADDR`, R135. -/
def CAL_TAB_ADDR (n : Nat) : Nat := 0x280080 + 0x10000 * n
def CAL_TAB_ADDR_COL : Fld := ⟨17, 16⟩
def CAL_TAB_ADDR_PIX_IDX : Fld := ⟨14, 0⟩

/-- `CAL_TAB_DATA`, R135. -/
def CAL_TAB_DATA (n : Nat) : Nat := 0x280084 + 0x10000 * n
def CAL_TAB_DATA_ENTRY : Fld := ⟨31, 0⟩

/-- `CAL_TAB_COMMIT`, R135. -/
def CAL_TAB_COMMIT (n : Nat) : Nat := 0x280088 + 0x10000 * n
def CAL_TAB_COMMIT_COMMIT : Fld := ⟨0, 0⟩

/-- `MET_STAT`, R168. -/
def MET_STAT : Nat := 0xA00000
def MET_STAT_STATE : Fld := ⟨7, 4⟩
def MET_STAT_SEAL_IN : Fld := ⟨3, 3⟩
def MET_STAT_SEAL_OK : Fld := ⟨2, 2⟩
def MET_STAT_LOG_FULL : Fld := ⟨1, 1⟩
def MET_STAT_TIME_HOLD : Fld := ⟨0, 0⟩

/-- `MET_EVENT_CNT`, R168. -/
def MET_EVENT_CNT : Nat := 0xA00004
def MET_EVENT_CNT_EVENT_CNT : Fld := ⟨31, 0⟩

/-- `MET_LOG_COUNT`, R168. -/
def MET_LOG_COUNT : Nat := 0xA00008
def MET_LOG_COUNT_ENTRIES : Fld := ⟨10, 0⟩

/-- `MET_REC_LAST`, R168. -/
def MET_REC_LAST : Nat := 0xA0000C
def MET_REC_LAST_MREF : Fld := ⟨31, 0⟩

/-- `MET_PARAM_CRC`, R168. -/
def MET_PARAM_CRC : Nat := 0xA00010
def MET_PARAM_CRC_PARAM_CRC : Fld := ⟨31, 0⟩

/-- `MET_SW_VER`, R168. -/
def MET_SW_VER : Nat := 0xA00014
def MET_SW_VER_MAJOR : Fld := ⟨31, 24⟩
def MET_SW_VER_MINOR : Fld := ⟨23, 16⟩
def MET_SW_VER_BUILD : Fld := ⟨15, 0⟩

/-- `MET_ROM_ID`, R168. -/
def MET_ROM_ID : Nat := 0xA00018
def MET_ROM_ID_ROM_ID : Fld := ⟨31, 0⟩

/-- `MET_HEARTBEAT`, R168. -/
def MET_HEARTBEAT : Nat := 0xA0001C
def MET_HEARTBEAT_BEAT : Fld := ⟨31, 0⟩

/-- `MET_SW_DIGESTk`, R168. -/
def MET_SW_DIGEST (k : Nat) : Nat := 0xA00020 + 0x4 * k
def MET_SW_DIGEST_DIGEST : Fld := ⟨31, 0⟩

/-- `MET_SERIAL_LO`, R168. -/
def MET_SERIAL_LO : Nat := 0xA00040
def MET_SERIAL_LO_SERIAL : Fld := ⟨31, 0⟩

/-- `MET_SERIAL_HI`, R168. -/
def MET_SERIAL_HI : Nat := 0xA00044
def MET_SERIAL_HI_SERIAL : Fld := ⟨31, 0⟩

/-- `MET_MPn_SRC`, R168. -/
def MET_MP_SRC (k : Nat) : Nat := 0xA00100 + 0x20 * k
def MET_MP_SRC_EDGE_POL : Fld := ⟨10, 10⟩
def MET_MP_SRC_CHAN : Fld := ⟨9, 8⟩
def MET_MP_SRC_MBAR_POL : Fld := ⟨7, 7⟩
def MET_MP_SRC_MBAR : Fld := ⟨6, 4⟩
def MET_MP_SRC_MENC : Fld := ⟨1, 0⟩

/-- `MET_MPn_SCALE`, R168. -/
def MET_MP_SCALE (k : Nat) : Nat := 0xA00104 + 0x20 * k
def MET_MP_SCALE_COUNT_PM : Fld := ⟨31, 0⟩

/-- `MET_MPn_OFS`, R168. -/
def MET_MP_OFS (k : Nat) : Nat := 0xA00108 + 0x20 * k
def MET_MP_OFS_LEN_OFS_UM : Fld := ⟨31, 0⟩

/-- `MET_MPn_PIX`, R168. -/
def MET_MP_PIX (k : Nat) : Nat := 0xA0010C + 0x20 * k
def MET_MP_PIX_PIX_PM : Fld := ⟨31, 0⟩

/-- `MET_MPn_DECK`, R168. -/
def MET_MP_DECK (k : Nat) : Nat := 0xA00110 + 0x20 * k
def MET_MP_DECK_DECK_E8 : Fld := ⟨19, 4⟩
def MET_MP_DECK_HGT_RANK : Fld := ⟨3, 0⟩

/-- `MET_MPn_EDGE`, R168. -/
def MET_MP_EDGE (k : Nat) : Nat := 0xA00114 + 0x20 * k
def MET_MP_EDGE_MBAR_FILT_NS : Fld := ⟨31, 22⟩
def MET_MP_EDGE_DECK_LO : Fld := ⟨13, 12⟩
def MET_MP_EDGE_EDGE_THR : Fld := ⟨11, 0⟩

/-- `MET_MPn_SPEED`, R168. -/
def MET_MP_SPEED (k : Nat) : Nat := 0xA00118 + 0x20 * k
def MET_MP_SPEED_V_MAX : Fld := ⟨31, 16⟩
def MET_MP_SPEED_V_MIN : Fld := ⟨15, 0⟩

/-- `MET_MPn_BAD`, R168. -/
def MET_MP_BAD (k : Nat) : Nat := 0xA0011C + 0x20 * k
def MET_MP_BAD_MAX_BAD : Fld := ⟨15, 0⟩

/-- `PIT_GOV_CFG`, R202. -/
def PIT_GOV_CFG : Nat := 0x310000
def PIT_GOV_CFG_MARGIN_PCT : Fld := ⟨23, 16⟩
def PIT_GOV_CFG_MODE : Fld := ⟨0, 0⟩

/-- `PIT_GOV_VLIM`, R202. -/
def PIT_GOV_VLIM : Nat := 0x310004
def PIT_GOV_VLIM_V_MAX_MV : Fld := ⟨21, 12⟩
def PIT_GOV_VLIM_V_MIN_MV : Fld := ⟨9, 0⟩

/-- `PIT_GOV_FIXED`, R202. -/
def PIT_GOV_FIXED : Nat := 0x310008
def PIT_GOV_FIXED_V_FIXED_MV : Fld := ⟨9, 0⟩

/-- `PIT_PWR_CAP`, R202. -/
def PIT_PWR_CAP : Nat := 0x31000C
def PIT_PWR_CAP_PWR_CAP_W : Fld := ⟨6, 0⟩

/-- `PIT_GOV_STAT`, R202. -/
def PIT_GOV_STAT : Nat := 0x310010
def PIT_GOV_STAT_V_SET_MV : Fld := ⟨21, 12⟩
def PIT_GOV_STAT_PWR_EST_W : Fld := ⟨11, 4⟩
def PIT_GOV_STAT_CFG_CLAMPED : Fld := ⟨3, 3⟩
def PIT_GOV_STAT_FIXED_OVERRIDE : Fld := ⟨2, 2⟩
def PIT_GOV_STAT_CAP_HIT : Fld := ⟨1, 1⟩
def PIT_GOV_STAT_TEMPO_LOW : Fld := ⟨0, 0⟩

/-- `PIT_TEMPO_MIN`, R202. -/
def PIT_TEMPO_MIN : Nat := 0x310014
def PIT_TEMPO_MIN_TILE : Fld := ⟨31, 16⟩
def PIT_TEMPO_MIN_STEPS : Fld := ⟨15, 0⟩

/-- `PIT_ARITH_CNT`, R202. -/
def PIT_ARITH_CNT : Nat := 0x310020
def PIT_ARITH_CNT_SAT_CNT : Fld := ⟨31, 16⟩
def PIT_ARITH_CNT_NAN_INT_CNT : Fld := ⟨15, 0⟩

/-- `PIT_ROUNDED_CNT`, R202. -/
def PIT_ROUNDED_CNT : Nat := 0x310024
def PIT_ROUNDED_CNT_ROUNDED_CNT : Fld := ⟨31, 0⟩

/-- `PIT_MISS_TOTAL`, R202. -/
def PIT_MISS_TOTAL : Nat := 0x310028
def PIT_MISS_TOTAL_MISS_TOTAL : Fld := ⟨31, 0⟩

/-- `PIT_TILEp_TEMPO`, R202. -/
def PIT_TILE_TEMPO (k : Nat) : Nat := 0x311000 + 0x10 * k
def PIT_TILE_TEMPO_MAPPED : Fld := ⟨16, 16⟩
def PIT_TILE_TEMPO_STEPS : Fld := ⟨15, 0⟩

/-- `PIT_TILEp_MISS`, R202. -/
def PIT_TILE_MISS (k : Nat) : Nat := 0x311004 + 0x10 * k
def PIT_TILE_MISS_MISS_CNT : Fld := ⟨31, 0⟩

/-- `PIT_STAT`, R236. -/
def PIT_STAT : Nat := 0x300000
def PIT_STAT_DEGRADED : Fld := ⟨31, 31⟩
def PIT_STAT_LIBEROS_FREE : Fld := ⟨20, 16⟩
def PIT_STAT_MAPPED : Fld := ⟨8, 0⟩

/-- `PIT_IRQ_STAT`, R236. -/
def PIT_IRQ_STAT : Nat := 0x300004
def PIT_IRQ_STAT_IRQ : Fld := ⟨2, 0⟩

/-- `PIT_IRQ_EN`, R236. -/
def PIT_IRQ_EN : Nat := 0x300008
def PIT_IRQ_EN_IRQ_EN : Fld := ⟨2, 0⟩

/-- `PIT_REMAP_CNT`, R236. -/
def PIT_REMAP_CNT : Nat := 0x30000C
def PIT_REMAP_CNT_REMAPS : Fld := ⟨31, 0⟩

/-- `PIT_FAULT_INFO`, R236. -/
def PIT_FAULT_INFO : Nat := 0x300010
def PIT_FAULT_INFO_CODE : Fld := ⟨31, 24⟩
def PIT_FAULT_INFO_OPCODE : Fld := ⟨23, 16⟩
def PIT_FAULT_INFO_PART : Fld := ⟨10, 8⟩
def PIT_FAULT_INFO_LTILE : Fld := ⟨7, 0⟩

/-- `PIT_FAULT_POS`, R236. -/
def PIT_FAULT_POS : Nat := 0x300014
def PIT_FAULT_POS_CMD_INDEX : Fld := ⟨23, 0⟩

/-- `PIT_FAULT_JOB`, R236. -/
def PIT_FAULT_JOB : Nat := 0x300018
def PIT_FAULT_JOB_JOB_TAG : Fld := ⟨31, 0⟩

/-- `PIT_CMD_DONE_LO`, R236. -/
def PIT_CMD_DONE_LO : Nat := 0x300020
def PIT_CMD_DONE_LO_CMD_DONE : Fld := ⟨31, 0⟩

/-- `PIT_CMD_DONE_HI`, R236. -/
def PIT_CMD_DONE_HI : Nat := 0x300024
def PIT_CMD_DONE_HI_CMD_DONE : Fld := ⟨31, 0⟩

/-- `PIT_CKPT_BASE_LO`, R236. -/
def PIT_CKPT_BASE_LO : Nat := 0x300028
def PIT_CKPT_BASE_LO_BASE : Fld := ⟨31, 22⟩

/-- `PIT_CKPT_BASE_HI`, R236. -/
def PIT_CKPT_BASE_HI : Nat := 0x30002C
def PIT_CKPT_BASE_HI_BASE : Fld := ⟨31, 0⟩

/-- `PIT_MAP_l`, R236. -/
def PIT_MAP (k : Nat) : Nat := 0x300400 + 0x4 * k
def PIT_MAP_VALID : Fld := ⟨31, 31⟩
def PIT_MAP_PHYS : Fld := ⟨8, 0⟩

/-- `PIT_SPARE_k`, R236. -/
def PIT_SPARE (k : Nat) : Nat := 0x300800 + 0x4 * k
def PIT_SPARE_SPARE : Fld := ⟨31, 0⟩

/-- `PIT_FAILED_k`, R236. -/
def PIT_FAILED (k : Nat) : Nat := 0x300840 + 0x4 * k
def PIT_FAILED_FAILED : Fld := ⟨31, 0⟩

/-- `PIT_CONV_EMPTY`, R270. -/
def PIT_CONV_EMPTY : Nat := 0x300100
def PIT_CONV_EMPTY_EMPTY_CNT : Fld := ⟨31, 0⟩

/-- `PIT_STREAM_FILL`, R270. -/
def PIT_STREAM_FILL : Nat := 0x300104
def PIT_STREAM_FILL_FILL_CNT : Fld := ⟨31, 0⟩

/-- `PIT_ATTN_CNT`, R296. -/
def PIT_ATTN_CNT : Nat := 0x300110
def PIT_ATTN_CNT_CLAMP_CNT : Fld := ⟨31, 16⟩
def PIT_ATTN_CNT_NAN_ROW_CNT : Fld := ⟨15, 0⟩

/-- `PGM_ITEM_LC_RESERVE`, R328. -/
def PGM_ITEM_LC_RESERVE : Nat := 0x400000
def PGM_ITEM_LC_RESERVE_LC_RESERVE : Fld := ⟨19, 0⟩

/-- `PGM_ITEM_FREE`, R328. -/
def PGM_ITEM_FREE : Nat := 0x400004
def PGM_ITEM_FREE_FREE : Fld := ⟨19, 0⟩

/-- `PGM_WR_REJECT`, R328. -/
def PGM_WR_REJECT : Nat := 0x40000C
def PGM_WR_REJECT_REJECT : Fld := ⟨2, 0⟩

/-- `PGM_WAIT_LIMIT`, R328. -/
def PGM_WAIT_LIMIT : Nat := 0x400010
def PGM_WAIT_LIMIT_WAIT_US : Fld := ⟨15, 0⟩

/-- `PGM_PREFETCH`, R328. -/
def PGM_PREFETCH : Nat := 0x400014
def PGM_PREFETCH_LEAD_US : Fld := ⟨15, 0⟩

/-- `PGM_DRAM_BASE_LO`, R328. -/
def PGM_DRAM_BASE_LO : Nat := 0x400020
def PGM_DRAM_BASE_LO_BASE : Fld := ⟨31, 12⟩

/-- `PGM_DRAM_BASE_HI`, R328. -/
def PGM_DRAM_BASE_HI : Nat := 0x400024
def PGM_DRAM_BASE_HI_BASE : Fld := ⟨31, 0⟩

/-- `PGM_DRAM_FRAMES`, R328. -/
def PGM_DRAM_FRAMES : Nat := 0x400028
def PGM_DRAM_FRAMES_DRAM_FRAMES : Fld := ⟨22, 0⟩

/-- `PGM_CHIP_FREE`, R328. -/
def PGM_CHIP_FREE : Nat := 0x400030
def PGM_CHIP_FREE_CHIP_FREE : Fld := ⟨14, 0⟩

/-- `PGM_DRAM_FREE`, R328. -/
def PGM_DRAM_FREE : Nat := 0x400034
def PGM_DRAM_FREE_DRAM_FREE : Fld := ⟨22, 0⟩

/-- `PGM_SPILL_CNT`, R328. -/
def PGM_SPILL_CNT : Nat := 0x400040
def PGM_SPILL_CNT_SPILLS : Fld := ⟨31, 0⟩

/-- `PGM_PREFETCH_CNT`, R328. -/
def PGM_PREFETCH_CNT : Nat := 0x400044
def PGM_PREFETCH_CNT_PREFETCHES : Fld := ⟨31, 0⟩

/-- `PGM_DROP_CNT`, R328. -/
def PGM_DROP_CNT : Nat := 0x400048
def PGM_DROP_CNT_DROP_CNT : Fld := ⟨31, 16⟩
def PGM_DROP_CNT_NO_FRAME_CNT : Fld := ⟨15, 0⟩

/-- `PGM_COW_CNT`, R328. -/
def PGM_COW_CNT : Nat := 0x40004C
def PGM_COW_CNT_COW_CNT : Fld := ⟨31, 0⟩

/-- `PGM_WAIT_MAX`, R328. -/
def PGM_WAIT_MAX : Nat := 0x400050
def PGM_WAIT_MAX_WAIT_MAX_NS : Fld := ⟨31, 0⟩

/-- `PGM_RECOMP_CNT`, R328. -/
def PGM_RECOMP_CNT : Nat := 0x400054
def PGM_RECOMP_CNT_RECOMP_CNT : Fld := ⟨31, 0⟩

/-- `PGM_IRQ_STAT`, R328. -/
def PGM_IRQ_STAT : Nat := 0x400060
def PGM_IRQ_STAT_IRQ : Fld := ⟨2, 0⟩

/-- `PGM_IRQ_EN`, R328. -/
def PGM_IRQ_EN : Nat := 0x400064
def PGM_IRQ_EN_IRQ_EN : Fld := ⟨2, 0⟩

/-- `PGM_PARTp_DRAM`, R328. -/
def PGM_PART_DRAM (k : Nat) : Nat := 0x400100 + 0x10 * k
def PGM_PART_DRAM_BUDGET : Fld := ⟨22, 0⟩

/-- `PGM_PARTp_USED`, R328. -/
def PGM_PART_USED (k : Nat) : Nat := 0x400104 + 0x10 * k
def PGM_PART_USED_USED : Fld := ⟨22, 0⟩

/-- `PGM_PARTp_CHIP`, R328. -/
def PGM_PART_CHIP (k : Nat) : Nat := 0x400108 + 0x10 * k
def PGM_PART_CHIP_CHIP : Fld := ⟨14, 0⟩

/-- `TOK_STAT`, R358. -/
def TOK_STAT : Nat := 0x500000
def TOK_STAT_TSETS : Fld := ⟨5, 0⟩

/-- `TOK_IRQ_STAT`, R358. -/
def TOK_IRQ_STAT : Nat := 0x500004
def TOK_IRQ_STAT_IRQ : Fld := ⟨2, 0⟩

/-- `TOK_IRQ_EN`, R358. -/
def TOK_IRQ_EN : Nat := 0x500008
def TOK_IRQ_EN_IRQ_EN : Fld := ⟨2, 0⟩

/-- `TOK_WR_REJECT`, R358. -/
def TOK_WR_REJECT : Nat := 0x50000C
def TOK_WR_REJECT_REJECT : Fld := ⟨0, 0⟩

/-- `TOK_LIVE_CFG`, R358. -/
def TOK_LIVE_CFG : Nat := 0x500010
def TOK_LIVE_CFG_MAX_US : Fld := ⟨31, 16⟩
def TOK_LIVE_CFG_MIN_BYTES : Fld := ⟨7, 0⟩

/-- `TOK_MCACHE_HIT`, R358. -/
def TOK_MCACHE_HIT : Nat := 0x500020
def TOK_MCACHE_HIT_HITS : Fld := ⟨31, 0⟩

/-- `TOK_MCACHE_MISS`, R358. -/
def TOK_MCACHE_MISS : Nat := 0x500024
def TOK_MCACHE_MISS_MISSES : Fld := ⟨31, 0⟩

/-- `TOK_REPAIR_CNT`, R358. -/
def TOK_REPAIR_CNT : Nat := 0x500028
def TOK_REPAIR_CNT_REPAIR_CNT : Fld := ⟨31, 0⟩

/-- `TOK_END_CNT`, R358. -/
def TOK_END_CNT : Nat := 0x50002C
def TOK_END_CNT_DEAD_CNT : Fld := ⟨31, 16⟩
def TOK_END_CNT_NOTOKEN_CNT : Fld := ⟨15, 0⟩

/-- `TOK_NAN_CNT`, R358. -/
def TOK_NAN_CNT : Nat := 0x500030
def TOK_NAN_CNT_NAN_LOGIT_CNT : Fld := ⟨31, 0⟩

/-- `TOK_SCANp`, R358. -/
def TOK_SCAN (k : Nat) : Nat := 0x500100 + 0x4 * k
def TOK_SCAN_SCAN_LOAD : Fld := ⟨9, 0⟩

/-- `DEC_STAT`, R381. -/
def DEC_STAT : Nat := 0x600000
def DEC_STAT_QUEUED : Fld := ⟨15, 8⟩
def DEC_STAT_BUSY : Fld := ⟨0, 0⟩

/-- `DEC_IRQ_STAT`, R381. -/
def DEC_IRQ_STAT : Nat := 0x600004
def DEC_IRQ_STAT_IRQ : Fld := ⟨2, 0⟩

/-- `DEC_IRQ_EN`, R381. -/
def DEC_IRQ_EN : Nat := 0x600008
def DEC_IRQ_EN_IRQ_EN : Fld := ⟨2, 0⟩

/-- `DEC_WR_REJECT`, R381. -/
def DEC_WR_REJECT : Nat := 0x60000C
def DEC_WR_REJECT_REJECT : Fld := ⟨0, 0⟩

/-- `DEC_CROP_CFG`, R381. -/
def DEC_CROP_CFG : Nat := 0x600010
def DEC_CROP_CFG_MARGIN : Fld := ⟨6, 0⟩

/-- `DEC_CROP_BASE_LO`, R381. -/
def DEC_CROP_BASE_LO : Nat := 0x600020
def DEC_CROP_BASE_LO_BASE : Fld := ⟨31, 12⟩

/-- `DEC_CROP_BASE_HI`, R381. -/
def DEC_CROP_BASE_HI : Nat := 0x600024
def DEC_CROP_BASE_HI_BASE : Fld := ⟨31, 0⟩

/-- `DEC_CROP_SIZE`, R381. -/
def DEC_CROP_SIZE : Nat := 0x600028
def DEC_CROP_SIZE_SIZE_MIB : Fld := ⟨13, 0⟩

/-- `DEC_CROP_FREE`, R381. -/
def DEC_CROP_FREE : Nat := 0x60002C
def DEC_CROP_FREE_FREE_MIB : Fld := ⟨13, 0⟩

/-- `DEC_IMG_CNT`, R381. -/
def DEC_IMG_CNT : Nat := 0x600040
def DEC_IMG_CNT_IMAGES : Fld := ⟨31, 0⟩

/-- `DEC_ERR_CNT`, R381. -/
def DEC_ERR_CNT : Nat := 0x600044
def DEC_ERR_CNT_CORRUPT_CNT : Fld := ⟨31, 16⟩
def DEC_ERR_CNT_UNSUP_CNT : Fld := ⟨15, 0⟩

/-- `DEC_PASS_CNT`, R381. -/
def DEC_PASS_CNT : Nat := 0x600048
def DEC_PASS_CNT_PASSES : Fld := ⟨31, 0⟩

/-- `DEC_VOTE_CNT`, R381. -/
def DEC_VOTE_CNT : Nat := 0x60004C
def DEC_VOTE_CNT_VOTED_READ : Fld := ⟨31, 16⟩
def DEC_VOTE_CNT_VOTED_NO_READ : Fld := ⟨15, 0⟩

/-- `DEC_ESC_CNT`, R381. -/
def DEC_ESC_CNT : Nat := 0x600050
def DEC_ESC_CNT_ESC_SENT : Fld := ⟨31, 16⟩
def DEC_ESC_CNT_ESC_READ : Fld := ⟨15, 0⟩

/-- `DEC_DEMOTE_CNT`, R381. -/
def DEC_DEMOTE_CNT : Nat := 0x600054
def DEC_DEMOTE_CNT_DEMOTE_CNT : Fld := ⟨31, 0⟩

/-- `DEC_CROP_FULL`, R381. -/
def DEC_CROP_FULL : Nat := 0x600058
def DEC_CROP_FULL_CROP_FULL_CNT : Fld := ⟨31, 0⟩

/-- `SCH_STAT`, R415. -/
def SCH_STAT : Nat := 0x700000
def SCH_STAT_DEFINED : Fld := ⟨28, 16⟩
def SCH_STAT_RESIDENT : Fld := ⟨6, 0⟩

/-- `SCH_IRQ_STAT`, R415. -/
def SCH_IRQ_STAT : Nat := 0x700004
def SCH_IRQ_STAT_IRQ : Fld := ⟨2, 0⟩

/-- `SCH_IRQ_EN`, R415. -/
def SCH_IRQ_EN : Nat := 0x700008
def SCH_IRQ_EN_IRQ_EN : Fld := ⟨2, 0⟩

/-- `SCH_WR_REJECT`, R415. -/
def SCH_WR_REJECT : Nat := 0x70000C
def SCH_WR_REJECT_REJECT : Fld := ⟨0, 0⟩

/-- `SCH_BE_CFG`, R415. -/
def SCH_BE_CFG : Nat := 0x700010
def SCH_BE_CFG_BE_QUANTUM_US : Fld := ⟨15, 0⟩

/-- `SCH_SATURATION`, R415. -/
def SCH_SATURATION : Nat := 0x700020
def SCH_SATURATION_PART_MASK : Fld := ⟨15, 8⟩
def SCH_SATURATION_RESOURCE : Fld := ⟨6, 0⟩

/-- `SCH_SAT_SEEN`, R415. -/
def SCH_SAT_SEEN : Nat := 0x700024
def SCH_SAT_SEEN_SEEN : Fld := ⟨6, 0⟩

/-- `SCH_SWITCH_CNT`, R415. -/
def SCH_SWITCH_CNT : Nat := 0x700030
def SCH_SWITCH_CNT_SWITCHES : Fld := ⟨31, 0⟩

/-- `SCH_SB_SEL`, R415. -/
def SCH_SB_SEL : Nat := 0x700040
def SCH_SB_SEL_CTX : Fld := ⟨11, 0⟩

/-- `SCH_SB_STATE`, R415. -/
def SCH_SB_STATE : Nat := 0x700044
def SCH_SB_STATE_PART : Fld := ⟨7, 5⟩
def SCH_SB_STATE_CLASS : Fld := ⟨4, 4⟩
def SCH_SB_STATE_STATE : Fld := ⟨1, 0⟩

/-- `SCH_SB_WAIT_SUM_LO`, R415. -/
def SCH_SB_WAIT_SUM_LO : Nat := 0x700048
def SCH_SB_WAIT_SUM_LO_WAIT_SUM : Fld := ⟨31, 0⟩

/-- `SCH_SB_WAIT_SUM_HI`, R415. -/
def SCH_SB_WAIT_SUM_HI : Nat := 0x70004C
def SCH_SB_WAIT_SUM_HI_WAIT_SUM : Fld := ⟨31, 0⟩

/-- `SCH_SB_WAIT_MAX`, R415. -/
def SCH_SB_WAIT_MAX : Nat := 0x700050
def SCH_SB_WAIT_MAX_WAIT_MAX : Fld := ⟨31, 0⟩

/-- `SCH_SB_CMDS_LO`, R415. -/
def SCH_SB_CMDS_LO : Nat := 0x700054
def SCH_SB_CMDS_LO_CMDS : Fld := ⟨31, 0⟩

/-- `SCH_SB_CMDS_HI`, R415. -/
def SCH_SB_CMDS_HI : Nat := 0x700058
def SCH_SB_CMDS_HI_CMDS : Fld := ⟨31, 0⟩

/-- `SCH_SB_PREEMPT`, R415. -/
def SCH_SB_PREEMPT : Nat := 0x70005C
def SCH_SB_PREEMPT_PREEMPTS : Fld := ⟨31, 0⟩

/-- `SCH_SB_EVICT`, R415. -/
def SCH_SB_EVICT : Nat := 0x700060
def SCH_SB_EVICT_EVICTS : Fld := ⟨31, 16⟩
def SCH_SB_EVICT_FAULTS : Fld := ⟨15, 0⟩

/-- `SCH_SB_DEBT`, R415. -/
def SCH_SB_DEBT : Nat := 0x700064
def SCH_SB_DEBT_DEBT : Fld := ⟨31, 0⟩

/-- `SCH_SB_TILE_LO`, R415. -/
def SCH_SB_TILE_LO : Nat := 0x700068
def SCH_SB_TILE_LO_TILE_TIME : Fld := ⟨31, 0⟩

/-- `SCH_SB_TILE_HI`, R415. -/
def SCH_SB_TILE_HI : Nat := 0x70006C
def SCH_SB_TILE_HI_TILE_TIME : Fld := ⟨31, 0⟩

/-- `SCH_SB_CLR`, R415. -/
def SCH_SB_CLR : Nat := 0x700070
def SCH_SB_CLR_CLEAR : Fld := ⟨0, 0⟩

/-- `SCH_PARTp_CFG`, R415. -/
def SCH_PART_CFG (k : Nat) : Nat := 0x700100 + 0x20 * k
def SCH_PART_CFG_VALID : Fld := ⟨31, 31⟩
def SCH_PART_CFG_RES_MAX : Fld := ⟨22, 16⟩
def SCH_PART_CFG_GROUPS : Fld := ⟨12, 8⟩
def SCH_PART_CFG_FIRST_GROUP : Fld := ⟨3, 0⟩

/-- `SCH_PARTp_TABLE`, R415. -/
def SCH_PART_TABLE (k : Nat) : Nat := 0x700104 + 0x20 * k
def SCH_PART_TABLE_HALTED : Fld := ⟨31, 31⟩
def SCH_PART_TABLE_USABLE : Fld := ⟨20, 16⟩
def SCH_PART_TABLE_TABLE_ID : Fld := ⟨15, 0⟩

/-- `SCH_PARTp_DRAM_RATE`, R415. -/
def SCH_PART_DRAM_RATE (k : Nat) : Nat := 0x700108 + 0x20 * k
def SCH_PART_DRAM_RATE_RATE_MBS : Fld := ⟨16, 0⟩

/-- `SCH_PARTp_FAB_RATE`, R415. -/
def SCH_PART_FAB_RATE (k : Nat) : Nat := 0x70010C + 0x20 * k
def SCH_PART_FAB_RATE_RATE_MBS : Fld := ⟨16, 0⟩

/-- `SCH_PARTp_HDMA_RATE`, R415. -/
def SCH_PART_HDMA_RATE (k : Nat) : Nat := 0x700110 + 0x20 * k
def SCH_PART_HDMA_RATE_RATE_MBS : Fld := ⟨14, 0⟩

/-- `SCH_PARTp_THROTTLE`, R415. -/
def SCH_PART_THROTTLE (k : Nat) : Nat := 0x700114 + 0x20 * k
def SCH_PART_THROTTLE_THROTTLE_US : Fld := ⟨31, 0⟩

/-- `SCH_PARTp_FRAMES`, R415. -/
def SCH_PART_FRAMES (k : Nat) : Nat := 0x700118 + 0x20 * k
def SCH_PART_FRAMES_FRAMES : Fld := ⟨31, 0⟩

/-- `SCH_PARTp_OVERRUN`, R415. -/
def SCH_PART_OVERRUN (k : Nat) : Nat := 0x70011C + 0x20 * k
def SCH_PART_OVERRUN_OVERRUNS : Fld := ⟨31, 0⟩

/-- `KOL_PORT_CTL`, R458. -/
def KOL_PORT_CTL (n : Nat) : Nat := 0x800000 + 0x10000 * n
def KOL_PORT_CTL_PRECODE : Fld := ⟨8, 8⟩
def KOL_PORT_CTL_EN : Fld := ⟨0, 0⟩

/-- `KOL_PORT_STAT`, R458. -/
def KOL_PORT_STAT (n : Nat) : Nat := 0x800004 + 0x10000 * n
def KOL_PORT_STAT_TRAINED : Fld := ⟨2, 2⟩
def KOL_PORT_STAT_LINK_UP : Fld := ⟨1, 1⟩
def KOL_PORT_STAT_ALIGNED : Fld := ⟨0, 0⟩

/-- `KOL_WR_REJECT`, R458. -/
def KOL_WR_REJECT (n : Nat) : Nat := 0x80000C + 0x10000 * n
def KOL_WR_REJECT_REJECT : Fld := ⟨1, 0⟩

/-- `KOL_IRQ_STAT`, R458. -/
def KOL_IRQ_STAT (n : Nat) : Nat := 0x800010 + 0x10000 * n
def KOL_IRQ_STAT_IRQ : Fld := ⟨3, 0⟩

/-- `KOL_IRQ_EN`, R458. -/
def KOL_IRQ_EN (n : Nat) : Nat := 0x800014 + 0x10000 * n
def KOL_IRQ_EN_IRQ_EN : Fld := ⟨3, 0⟩

/-- `KOL_VC_SPLIT`, R458. -/
def KOL_VC_SPLIT (n : Nat) : Nat := 0x800020 + 0x10000 * n
def KOL_VC_SPLIT_TIME : Fld := ⟨31, 24⟩
def KOL_VC_SPLIT_BE : Fld := ⟨23, 16⟩
def KOL_VC_SPLIT_LC : Fld := ⟨15, 8⟩
def KOL_VC_SPLIT_CTL : Fld := ⟨7, 0⟩

/-- `KOL_CREDIT`, R458. -/
def KOL_CREDIT (n : Nat) : Nat := 0x800024 + 0x10000 * n
def KOL_CREDIT_CREDITS : Fld := ⟨31, 0⟩

/-- `KOL_FEC_CORR`, R458. -/
def KOL_FEC_CORR (n : Nat) : Nat := 0x800030 + 0x10000 * n
def KOL_FEC_CORR_FEC_CORR : Fld := ⟨31, 0⟩

/-- `KOL_FEC_UNCORR`, R458. -/
def KOL_FEC_UNCORR (n : Nat) : Nat := 0x800034 + 0x10000 * n
def KOL_FEC_UNCORR_FEC_UNCORR : Fld := ⟨31, 0⟩

/-- `KOL_LINK_ERR`, R458. -/
def KOL_LINK_ERR (n : Nat) : Nat := 0x800038 + 0x10000 * n
def KOL_LINK_ERR_REPLAYS : Fld := ⟨31, 16⟩
def KOL_LINK_ERR_CRC_BAD : Fld := ⟨15, 0⟩

/-- `KOL_DOWN_CNT`, R458. -/
def KOL_DOWN_CNT (n : Nat) : Nat := 0x80003C + 0x10000 * n
def KOL_DOWN_CNT_DOWN_CNT : Fld := ⟨31, 0⟩

/-- `KOL_NEIGH`, R458. -/
def KOL_NEIGH (n : Nat) : Nat := 0x800040 + 0x10000 * n
def KOL_NEIGH_ADDR_VALID : Fld := ⟨16, 16⟩
def KOL_NEIGH_ADDR : Fld := ⟨15, 8⟩
def KOL_NEIGH_PORT : Fld := ⟨2, 0⟩

/-- `KOL_NEIGH_SERIAL_LO`, R458. -/
def KOL_NEIGH_SERIAL_LO (n : Nat) : Nat := 0x800044 + 0x10000 * n
def KOL_NEIGH_SERIAL_LO_SERIAL : Fld := ⟨31, 0⟩

/-- `KOL_NEIGH_SERIAL_HI`, R458. -/
def KOL_NEIGH_SERIAL_HI (n : Nat) : Nat := 0x800048 + 0x10000 * n
def KOL_NEIGH_SERIAL_HI_SERIAL : Fld := ⟨31, 0⟩

/-- `KOL_STAT`, R459. -/
def KOL_STAT : Nat := 0x880000
def KOL_STAT_ADDR : Fld := ⟨31, 24⟩
def KOL_STAT_ADDR_VALID : Fld := ⟨23, 23⟩
def KOL_STAT_ROOT : Fld := ⟨22, 22⟩
def KOL_STAT_OVERFLOW : Fld := ⟨21, 21⟩
def KOL_STAT_EPOCH : Fld := ⟨15, 0⟩

/-- `KOL_DEVICES`, R459. -/
def KOL_DEVICES : Nat := 0x880004
def KOL_DEVICES_DEVICES : Fld := ⟨8, 0⟩

/-- `KOL_G_IRQ_STAT`, R459. -/
def KOL_G_IRQ_STAT : Nat := 0x880008
def KOL_G_IRQ_STAT_IRQ : Fld := ⟨5, 0⟩

/-- `KOL_G_IRQ_EN`, R459. -/
def KOL_G_IRQ_EN : Nat := 0x88000C
def KOL_G_IRQ_EN_IRQ_EN : Fld := ⟨5, 0⟩

/-- `KOL_HUDDLE_CFG`, R459. -/
def KOL_HUDDLE_CFG : Nat := 0x880010
def KOL_HUDDLE_CFG_ROOT_ELIG : Fld := ⟨0, 0⟩

/-- `KOL_CATCH_CFG`, R459. -/
def KOL_CATCH_CFG : Nat := 0x880020
def KOL_CATCH_CFG_PARTNER : Fld := ⟨31, 24⟩
def KOL_CATCH_CFG_PARTNER_VALID : Fld := ⟨23, 23⟩
def KOL_CATCH_CFG_CATCH_PART : Fld := ⟨18, 16⟩
def KOL_CATCH_CFG_SHADOW_EN : Fld := ⟨15, 12⟩
def KOL_CATCH_CFG_SHADOW_BAR : Fld := ⟨11, 0⟩

/-- `KOL_RELAY_BASE_LO`, R459. -/
def KOL_RELAY_BASE_LO : Nat := 0x880024
def KOL_RELAY_BASE_LO_BASE : Fld := ⟨31, 0⟩

/-- `KOL_RELAY_BASE_HI`, R459. -/
def KOL_RELAY_BASE_HI : Nat := 0x880028
def KOL_RELAY_BASE_HI_BASE : Fld := ⟨31, 0⟩

/-- `KOL_RELAY_SIZE`, R459. -/
def KOL_RELAY_SIZE : Nat := 0x88002C
def KOL_RELAY_SIZE_SIZE_MIB : Fld := ⟨13, 0⟩

/-- `KOL_TXN_CNT`, R459. -/
def KOL_TXN_CNT : Nat := 0x880030
def KOL_TXN_CNT_TXN_RETRY : Fld := ⟨31, 16⟩
def KOL_TXN_CNT_TXN_FAIL : Fld := ⟨15, 0⟩

/-- `KOL_DROP_CNT`, R459. -/
def KOL_DROP_CNT : Nat := 0x880034
def KOL_DROP_CNT_HOP_DROP : Fld := ⟨31, 16⟩
def KOL_DROP_CNT_NO_ROUTE : Fld := ⟨15, 0⟩

/-- `KOL_TAKEOVER_CNT`, R459. -/
def KOL_TAKEOVER_CNT : Nat := 0x880038
def KOL_TAKEOVER_CNT_PIECES : Fld := ⟨31, 0⟩

/-- `KOL_WINk_CFG`, R459. -/
def KOL_WIN_CFG (k : Nat) : Nat := 0x880100 + 0x10 * k
def KOL_WIN_CFG_VALID : Fld := ⟨31, 31⟩
def KOL_WIN_CFG_ANY_SRC : Fld := ⟨8, 8⟩
def KOL_WIN_CFG_SRC : Fld := ⟨7, 0⟩

/-- `KOL_WINk_BASE_LO`, R459. -/
def KOL_WIN_BASE_LO (k : Nat) : Nat := 0x880104 + 0x10 * k
def KOL_WIN_BASE_LO_BASE : Fld := ⟨31, 0⟩

/-- `KOL_WINk_BASE_HI`, R459. -/
def KOL_WIN_BASE_HI (k : Nat) : Nat := 0x880108 + 0x10 * k
def KOL_WIN_BASE_HI_BASE : Fld := ⟨31, 0⟩

/-- `KOL_WINk_SIZE`, R459. -/
def KOL_WIN_SIZE (k : Nat) : Nat := 0x88010C + 0x10 * k
def KOL_WIN_SIZE_SIZE_KIB : Fld := ⟨31, 0⟩

/-- `KOL_ROUTE_d`, R459. -/
def KOL_ROUTE (k : Nat) : Nat := 0x881000 + 0x4 * k
def KOL_ROUTE_VALID : Fld := ⟨31, 31⟩
def KOL_ROUTE_PRI : Fld := ⟨26, 24⟩
def KOL_ROUTE_ALT : Fld := ⟨22, 20⟩
def KOL_ROUTE_HOPS_PRI : Fld := ⟨15, 8⟩
def KOL_ROUTE_HOPS_ALT : Fld := ⟨7, 0⟩

/-- `TIM_NOW_LO`, R482. -/
def TIM_NOW_LO : Nat := 0x900000
def TIM_NOW_LO_NOW : Fld := ⟨31, 0⟩

/-- `TIM_NOW_HI`, R482. -/
def TIM_NOW_HI : Nat := 0x900004
def TIM_NOW_HI_NOW : Fld := ⟨31, 0⟩

/-- `TIM_TAI_LO`, R482. -/
def TIM_TAI_LO : Nat := 0x900008
def TIM_TAI_LO_TAI_SEC : Fld := ⟨31, 0⟩

/-- `TIM_TAI_HI`, R482. -/
def TIM_TAI_HI : Nat := 0x90000C
def TIM_TAI_HI_EPOCH : Fld := ⟨31, 16⟩
def TIM_TAI_HI_TAI_SEC : Fld := ⟨15, 0⟩

/-- `TIM_CFG`, R482. -/
def TIM_CFG : Nat := 0x900010
def TIM_CFG_KI_SHIFT : Fld := ⟨31, 24⟩
def TIM_CFG_SLEW_WIN_MS : Fld := ⟨23, 12⟩
def TIM_CFG_SYNC_US : Fld := ⟨11, 2⟩
def TIM_CFG_SRC : Fld := ⟨1, 0⟩

/-- `TIM_STEP_LIMIT`, R482. -/
def TIM_STEP_LIMIT : Nat := 0x900014
def TIM_STEP_LIMIT_STEP_LIMIT_NS : Fld := ⟨31, 0⟩

/-- `TIM_PTP_CFG`, R482. -/
def TIM_PTP_CFG : Nat := 0x900018
def TIM_PTP_CFG_LOG_SYNC : Fld := ⟨15, 12⟩
def TIM_PTP_CFG_PEER : Fld := ⟨11, 11⟩
def TIM_PTP_CFG_L2 : Fld := ⟨10, 10⟩
def TIM_PTP_CFG_DOMAIN : Fld := ⟨7, 0⟩

/-- `TIM_STAT`, R482. -/
def TIM_STAT : Nat := 0x900020
def TIM_STAT_PTP_STATE : Fld := ⟨7, 5⟩
def TIM_STAT_TIME_ROOT : Fld := ⟨4, 4⟩
def TIM_STAT_LOCKED : Fld := ⟨3, 3⟩
def TIM_STAT_REROUTE_HOLD : Fld := ⟨2, 2⟩
def TIM_STAT_HOLDOVER : Fld := ⟨1, 1⟩
def TIM_STAT_STEP_REFUSED : Fld := ⟨0, 0⟩

/-- `TIM_OFFSET`, R482. -/
def TIM_OFFSET : Nat := 0x900024
def TIM_OFFSET_OFFSET_NS : Fld := ⟨31, 0⟩

/-- `TIM_RATE`, R482. -/
def TIM_RATE : Nat := 0x900028
def TIM_RATE_RATE_PPB : Fld := ⟨31, 0⟩

/-- `TIM_PENDING_LO`, R482. -/
def TIM_PENDING_LO : Nat := 0x900030
def TIM_PENDING_LO_PENDING_STEP : Fld := ⟨31, 0⟩

/-- `TIM_PENDING_HI`, R482. -/
def TIM_PENDING_HI : Nat := 0x900034
def TIM_PENDING_HI_PENDING_STEP : Fld := ⟨31, 0⟩

/-- `TIM_IRQ_STAT`, R482. -/
def TIM_IRQ_STAT : Nat := 0x900040
def TIM_IRQ_STAT_IRQ : Fld := ⟨2, 0⟩

/-- `TIM_IRQ_EN`, R482. -/
def TIM_IRQ_EN : Nat := 0x900044
def TIM_IRQ_EN_IRQ_EN : Fld := ⟨2, 0⟩

/-- `TIM_WR_REJECT`, R482. -/
def TIM_WR_REJECT : Nat := 0x900048
def TIM_WR_REJECT_REJECT : Fld := ⟨2, 0⟩

/-- `TIM_TXQ_OVF`, R482. -/
def TIM_TXQ_OVF : Nat := 0x90004C
def TIM_TXQ_OVF_TXQ_OVF : Fld := ⟨6, 0⟩

/-- `TIM_PORTp_LAT`, R482. -/
def TIM_PORT_LAT (k : Nat) : Nat := 0x900100 + 0x20 * k
def TIM_PORT_LAT_FAC_RX_NS : Fld := ⟨31, 16⟩
def TIM_PORT_LAT_FAC_TX_NS : Fld := ⟨15, 0⟩

/-- `TIM_PORTp_ASYM`, R482. -/
def TIM_PORT_ASYM (k : Nat) : Nat := 0x900104 + 0x20 * k
def TIM_PORT_ASYM_USER_ASYM_NS : Fld := ⟨31, 0⟩

/-- `TIM_PORTp_DELAY`, R482. -/
def TIM_PORT_DELAY (k : Nat) : Nat := 0x900108 + 0x20 * k
def TIM_PORT_DELAY_LINK_DELAY : Fld := ⟨31, 0⟩

/-- `TIM_PORTp_POP`, R482. -/
def TIM_PORT_POP (k : Nat) : Nat := 0x90010C + 0x20 * k
def TIM_PORT_POP_VALID : Fld := ⟨31, 31⟩
def TIM_PORT_POP_STAMP_ID : Fld := ⟨15, 0⟩

/-- `TIM_PORTp_STAMP_LO`, R482. -/
def TIM_PORT_STAMP_LO (k : Nat) : Nat := 0x900110 + 0x20 * k
def TIM_PORT_STAMP_LO_STAMP : Fld := ⟨31, 0⟩

/-- `TIM_PORTp_STAMP_HI`, R482. -/
def TIM_PORT_STAMP_HI (k : Nat) : Nat := 0x900114 + 0x20 * k
def TIM_PORT_STAMP_HI_STAMP : Fld := ⟨31, 0⟩

/-- `TIM_PORTp_CNT`, R482. -/
def TIM_PORT_CNT (k : Nat) : Nat := 0x900118 + 0x20 * k
def TIM_PORT_CNT_TXQ_OVF_CNT : Fld := ⟨31, 16⟩
def TIM_PORT_CNT_PD_BAD : Fld := ⟨15, 0⟩

/-- `HIF_STAT`, R519. -/
def HIF_STAT : Nat := 0x000000
def HIF_STAT_OUTPUT_STALL : Fld := ⟨3, 3⟩
def HIF_STAT_COACH_UP : Fld := ⟨2, 2⟩
def HIF_STAT_UMPIRE_UP : Fld := ⟨1, 1⟩
def HIF_STAT_READY : Fld := ⟨0, 0⟩

/-- `HIF_IRQ_STAT`, R519. -/
def HIF_IRQ_STAT : Nat := 0x000004
def HIF_IRQ_STAT_IRQ : Fld := ⟨3, 0⟩

/-- `HIF_IRQ_EN`, R519. -/
def HIF_IRQ_EN : Nat := 0x000008
def HIF_IRQ_EN_IRQ_EN : Fld := ⟨3, 0⟩

/-- `HIF_WR_REJECT`, R519. -/
def HIF_WR_REJECT : Nat := 0x00000C
def HIF_WR_REJECT_REJECT : Fld := ⟨5, 0⟩

/-- `HIF_RESULT_BUDGET`, R519. -/
def HIF_RESULT_BUDGET : Nat := 0x000010
def HIF_RESULT_BUDGET_BUDGET_KIB : Fld := ⟨31, 0⟩

/-- `HIF_HOLD_USED`, R519. -/
def HIF_HOLD_USED : Nat := 0x000014
def HIF_HOLD_USED_USED_KIB : Fld := ⟨31, 0⟩

/-- `HIF_HOLD_SIZE`, R519. -/
def HIF_HOLD_SIZE : Nat := 0x000018
def HIF_HOLD_SIZE_HOLD_KIB : Fld := ⟨31, 0⟩

/-- `HIF_PORT_RING`, R519. -/
def HIF_PORT_RING : Nat := 0x000020
def HIF_PORT_RING_P3 : Fld := ⟨29, 24⟩
def HIF_PORT_RING_P2 : Fld := ⟨21, 16⟩
def HIF_PORT_RING_P1 : Fld := ⟨13, 8⟩
def HIF_PORT_RING_P0 : Fld := ⟨5, 0⟩

/-- `HIF_SYS_RING`, R519. -/
def HIF_SYS_RING : Nat := 0x000024
def HIF_SYS_RING_CATCH_RING : Fld := ⟨13, 8⟩
def HIF_SYS_RING_SYS_RING : Fld := ⟨5, 0⟩

/-- `HIF_IRQ_VECb`, R519. -/
def HIF_IRQ_VEC (k : Nat) : Nat := 0x000030 + 0x4 * k
def HIF_IRQ_VEC_VEC : Fld := ⟨5, 0⟩

/-- `HIF_STALL_CNT`, R519. -/
def HIF_STALL_CNT : Nat := 0x000070
def HIF_STALL_CNT_STALLS : Fld := ⟨31, 16⟩
def HIF_STALL_CNT_HEAD_ONLY : Fld := ⟨15, 0⟩

/-- `HIF_SQq_BASE_LO`, R519. -/
def HIF_SQ_BASE_LO (k : Nat) : Nat := 0x001000 + 0x40 * k
def HIF_SQ_BASE_LO_BASE : Fld := ⟨31, 12⟩

/-- `HIF_SQq_BASE_HI`, R519. -/
def HIF_SQ_BASE_HI (k : Nat) : Nat := 0x001004 + 0x40 * k
def HIF_SQ_BASE_HI_BASE : Fld := ⟨31, 0⟩

/-- `HIF_SQq_CFG`, R519. -/
def HIF_SQ_CFG (k : Nat) : Nat := 0x001008 + 0x40 * k
def HIF_SQ_CFG_EN : Fld := ⟨31, 31⟩
def HIF_SQ_CFG_LOG2_SIZE : Fld := ⟨3, 0⟩

/-- `HIF_SQq_PERM`, R519. -/
def HIF_SQ_PERM (k : Nat) : Nat := 0x00100C + 0x40 * k
def HIF_SQ_PERM_VALID : Fld := ⟨31, 31⟩
def HIF_SQ_PERM_PRIV : Fld := ⟨8, 8⟩
def HIF_SQ_PERM_PART : Fld := ⟨2, 0⟩

/-- `HIF_SQq_TAIL`, R519. -/
def HIF_SQ_TAIL (k : Nat) : Nat := 0x001010 + 0x40 * k
def HIF_SQ_TAIL_TAIL : Fld := ⟨15, 0⟩

/-- `HIF_SQq_HEAD`, R519. -/
def HIF_SQ_HEAD (k : Nat) : Nat := 0x001014 + 0x40 * k
def HIF_SQ_HEAD_HEAD : Fld := ⟨15, 0⟩

/-- `HIF_SQq_ERR`, R519. -/
def HIF_SQ_ERR (k : Nat) : Nat := 0x001018 + 0x40 * k
def HIF_SQ_ERR_CODE : Fld := ⟨7, 0⟩

/-- `HIF_RINGr_BASE_LO`, R519. -/
def HIF_RING_BASE_LO (k : Nat) : Nat := 0x002000 + 0x40 * k
def HIF_RING_BASE_LO_BASE : Fld := ⟨31, 12⟩

/-- `HIF_RINGr_BASE_HI`, R519. -/
def HIF_RING_BASE_HI (k : Nat) : Nat := 0x002004 + 0x40 * k
def HIF_RING_BASE_HI_BASE : Fld := ⟨31, 0⟩

/-- `HIF_RINGr_CFG`, R519. -/
def HIF_RING_CFG (k : Nat) : Nat := 0x002008 + 0x40 * k
def HIF_RING_CFG_EN : Fld := ⟨31, 31⟩
def HIF_RING_CFG_HEAD_ERR : Fld := ⟨30, 30⟩
def HIF_RING_CFG_LOG2_SLOTS : Fld := ⟨4, 0⟩

/-- `HIF_RINGr_PERM`, R519. -/
def HIF_RING_PERM (k : Nat) : Nat := 0x00200C + 0x40 * k
def HIF_RING_PERM_VALID : Fld := ⟨31, 31⟩
def HIF_RING_PERM_PART : Fld := ⟨2, 0⟩

/-- `HIF_RINGr_TAIL`, R519. -/
def HIF_RING_TAIL (k : Nat) : Nat := 0x002010 + 0x40 * k
def HIF_RING_TAIL_TAIL : Fld := ⟨31, 0⟩

/-- `HIF_RINGr_HEAD`, R519. -/
def HIF_RING_HEAD (k : Nat) : Nat := 0x002014 + 0x40 * k
def HIF_RING_HEAD_HEAD : Fld := ⟨31, 0⟩

/-- `HIF_RINGr_IRQ`, R519. -/
def HIF_RING_IRQ (k : Nat) : Nat := 0x002018 + 0x40 * k
def HIF_RING_IRQ_TIME_US : Fld := ⟨31, 16⟩
def HIF_RING_IRQ_COUNT : Fld := ⟨15, 0⟩

/-- `HIF_RINGr_VEC`, R519. -/
def HIF_RING_VEC (k : Nat) : Nat := 0x00201C + 0x40 * k
def HIF_RING_VEC_VEC : Fld := ⟨5, 0⟩

/-- `HIF_RINGr_HELD`, R519. -/
def HIF_RING_HELD (k : Nat) : Nat := 0x002020 + 0x40 * k
def HIF_RING_HELD_HELD_KIB : Fld := ⟨31, 0⟩

/-- `ETH_CFG`, R520. -/
def ETH_CFG : Nat := 0xD00000
def ETH_CFG_JUMBO : Fld := ⟨4, 4⟩
def ETH_CFG_DIVERT : Fld := ⟨3, 3⟩
def ETH_CFG_SEND : Fld := ⟨2, 1⟩
def ETH_CFG_EN : Fld := ⟨0, 0⟩

/-- `ETH_STAT`, R520. -/
def ETH_STAT : Nat := 0xD00004
def ETH_STAT_LINK_UP : Fld := ⟨0, 0⟩

/-- `ETH_WR_REJECT`, R520. -/
def ETH_WR_REJECT : Nat := 0xD0000C
def ETH_WR_REJECT_REJECT : Fld := ⟨5, 0⟩

/-- `ETH_MAC_LO`, R520. -/
def ETH_MAC_LO : Nat := 0xD00010
def ETH_MAC_LO_MAC : Fld := ⟨31, 0⟩

/-- `ETH_MAC_HI`, R520. -/
def ETH_MAC_HI : Nat := 0xD00014
def ETH_MAC_HI_MAC : Fld := ⟨15, 0⟩

/-- `ETH_IP`, R520. -/
def ETH_IP : Nat := 0xD00018
def ETH_IP_ETH_IP : Fld := ⟨31, 0⟩

/-- `ETH_DST_IP`, R520. -/
def ETH_DST_IP : Nat := 0xD0001C
def ETH_DST_IP_DST_IP : Fld := ⟨31, 0⟩

/-- `ETH_DST_MAC_LO`, R520. -/
def ETH_DST_MAC_LO : Nat := 0xD00020
def ETH_DST_MAC_LO_DST_MAC : Fld := ⟨31, 0⟩

/-- `ETH_DST_MAC_HI`, R520. -/
def ETH_DST_MAC_HI : Nat := 0xD00024
def ETH_DST_MAC_HI_DST_MAC : Fld := ⟨15, 0⟩

/-- `ETH_UDP`, R520. -/
def ETH_UDP : Nat := 0xD00028
def ETH_UDP_SRC_PORT : Fld := ⟨31, 16⟩
def ETH_UDP_DST_PORT : Fld := ⟨15, 0⟩

/-- `ETH_TX_CNT`, R520. -/
def ETH_TX_CNT : Nat := 0xD00040
def ETH_TX_CNT_RECORDS : Fld := ⟨31, 0⟩

/-- `ETH_DIVERT_CNT`, R520. -/
def ETH_DIVERT_CNT : Nat := 0xD00044
def ETH_DIVERT_CNT_DIVERTED : Fld := ⟨31, 0⟩

/-- `ETH_DROP_CNT`, R520. -/
def ETH_DROP_CNT : Nat := 0xD00048
def ETH_DROP_CNT_ETH_DROP : Fld := ⟨31, 0⟩

/-- `RAS_STAT`, R547. -/
def RAS_STAT : Nat := 0xB00000
def RAS_STAT_DEGRADED : Fld := ⟨1, 1⟩
def RAS_STAT_SCRUB_ON : Fld := ⟨0, 0⟩

/-- `RAS_IRQ_STAT`, R547. -/
def RAS_IRQ_STAT : Nat := 0xB00004
def RAS_IRQ_STAT_IRQ : Fld := ⟨3, 0⟩

/-- `RAS_IRQ_EN`, R547. -/
def RAS_IRQ_EN : Nat := 0xB00008
def RAS_IRQ_EN_IRQ_EN : Fld := ⟨3, 0⟩

/-- `RAS_WR_REJECT`, R547. -/
def RAS_WR_REJECT : Nat := 0xB0000C
def RAS_WR_REJECT_REJECT : Fld := ⟨1, 0⟩

/-- `RAS_SCRUB_CFG`, R547. -/
def RAS_SCRUB_CFG : Nat := 0xB00010
def RAS_SCRUB_CFG_DRAM_PASS_H : Fld := ⟨31, 16⟩
def RAS_SCRUB_CFG_TILE_PASS_MS : Fld := ⟨15, 0⟩

/-- `RAS_CORR_LIMIT`, R547. -/
def RAS_CORR_LIMIT : Nat := 0xB00014
def RAS_CORR_LIMIT_CORR_PER_S : Fld := ⟨31, 0⟩

/-- `RAS_TILE_CORR`, R547. -/
def RAS_TILE_CORR : Nat := 0xB00020
def RAS_TILE_CORR_TILE_CORR : Fld := ⟨31, 0⟩

/-- `RAS_BUF_CORR`, R547. -/
def RAS_BUF_CORR : Nat := 0xB00024
def RAS_BUF_CORR_BUF_UNCORR : Fld := ⟨31, 16⟩
def RAS_BUF_CORR_BUF_CORR : Fld := ⟨15, 0⟩

/-- `RAS_UNCORR_ADDR_LO`, R547. -/
def RAS_UNCORR_ADDR_LO : Nat := 0xB00030
def RAS_UNCORR_ADDR_LO_ADDR : Fld := ⟨31, 0⟩

/-- `RAS_UNCORR_ADDR_HI`, R547. -/
def RAS_UNCORR_ADDR_HI : Nat := 0xB00034
def RAS_UNCORR_ADDR_HI_ADDR : Fld := ⟨31, 0⟩

/-- `RAS_EVENT_SEQ`, R547. -/
def RAS_EVENT_SEQ : Nat := 0xB00038
def RAS_EVENT_SEQ_SEQ : Fld := ⟨31, 0⟩

/-- `RAS_RESET_CAUSE`, R547. -/
def RAS_RESET_CAUSE : Nat := 0xB00040
def RAS_RESET_CAUSE_RESETS : Fld := ⟨31, 16⟩
def RAS_RESET_CAUSE_RESET_CAUSE : Fld := ⟨3, 0⟩

/-- `RAS_COACH_WDOG`, R547. -/
def RAS_COACH_WDOG : Nat := 0xB00044
def RAS_COACH_WDOG_WDOG_US : Fld := ⟨31, 0⟩

/-- `RAS_DRAMc_CORR`, R547. -/
def RAS_DRAM_CORR (k : Nat) : Nat := 0xB00100 + 0x10 * k
def RAS_DRAM_CORR_CORR : Fld := ⟨31, 0⟩

/-- `RAS_DRAMc_ERR`, R547. -/
def RAS_DRAM_ERR (k : Nat) : Nat := 0xB00104 + 0x10 * k
def RAS_DRAM_ERR_UNCORR : Fld := ⟨31, 16⟩
def RAS_DRAM_ERR_TIMEOUT_CNT : Fld := ⟨15, 0⟩

/-- `SNP_CTL`, R548. -/
def SNP_CTL : Nat := 0xC00000
def SNP_CTL_OUT_EN : Fld := ⟨4, 4⟩
def SNP_CTL_TIME_EN : Fld := ⟨3, 3⟩
def SNP_CTL_PIN_EN : Fld := ⟨2, 2⟩
def SNP_CTL_TRIGGER : Fld := ⟨1, 1⟩
def SNP_CTL_ARM : Fld := ⟨0, 0⟩

/-- `SNP_STAT`, R548. -/
def SNP_STAT : Nat := 0xC00004
def SNP_STAT_CAUSE : Fld := ⟨12, 8⟩
def SNP_STAT_VALID : Fld := ⟨2, 2⟩
def SNP_STAT_BUSY : Fld := ⟨1, 1⟩
def SNP_STAT_ARMED : Fld := ⟨0, 0⟩

/-- `SNP_IRQ_STAT`, R548. -/
def SNP_IRQ_STAT : Nat := 0xC00008
def SNP_IRQ_STAT_IRQ : Fld := ⟨1, 0⟩

/-- `SNP_IRQ_EN`, R548. -/
def SNP_IRQ_EN : Nat := 0xC0000C
def SNP_IRQ_EN_IRQ_EN : Fld := ⟨1, 0⟩

/-- `SNP_FAULT_MASK`, R548. -/
def SNP_FAULT_MASK : Nat := 0xC00010
def SNP_FAULT_MASK_FAULT_MASK : Fld := ⟨11, 1⟩

/-- `SNP_TIME_CMP_LO`, R548. -/
def SNP_TIME_CMP_LO : Nat := 0xC00018
def SNP_TIME_CMP_LO_TIME_CMP : Fld := ⟨31, 0⟩

/-- `SNP_TIME_CMP_HI`, R548. -/
def SNP_TIME_CMP_HI : Nat := 0xC0001C
def SNP_TIME_CMP_HI_TIME_CMP : Fld := ⟨31, 0⟩

/-- `SNP_TRIG_STAMP_LO`, R548. -/
def SNP_TRIG_STAMP_LO : Nat := 0xC00020
def SNP_TRIG_STAMP_LO_TRIG_STAMP : Fld := ⟨31, 0⟩

/-- `SNP_TRIG_STAMP_HI`, R548. -/
def SNP_TRIG_STAMP_HI : Nat := 0xC00024
def SNP_TRIG_STAMP_HI_TRIG_STAMP : Fld := ⟨31, 0⟩

/-- `SNP_LOST`, R548. -/
def SNP_LOST : Nat := 0xC00028
def SNP_LOST_LOST_CNT : Fld := ⟨31, 0⟩

/-- `SNP_BASE_LO`, R548. -/
def SNP_BASE_LO : Nat := 0xC00030
def SNP_BASE_LO_BASE : Fld := ⟨31, 0⟩

/-- `SNP_BASE_HI`, R548. -/
def SNP_BASE_HI : Nat := 0xC00034
def SNP_BASE_HI_BASE : Fld := ⟨31, 0⟩

/-- `SNP_WR_REJECT`, R548. -/
def SNP_WR_REJECT : Nat := 0xC00038
def SNP_WR_REJECT_REJECT : Fld := ⟨0, 0⟩

/-- `SYS_ID`, R570. -/
def SYS_ID : Nat := 0x100000
def SYS_ID_PART : Fld := ⟨31, 16⟩
def SYS_ID_STEPPING : Fld := ⟨15, 8⟩

/-- `SYS_BOOT_STAT`, R570. -/
def SYS_BOOT_STAT : Nat := 0x100004
def SYS_BOOT_STAT_STAGE : Fld := ⟨31, 28⟩
def SYS_BOOT_STAT_CODE : Fld := ⟨27, 24⟩
def SYS_BOOT_STAT_DETAIL : Fld := ⟨23, 20⟩
def SYS_BOOT_STAT_HUDDLE_TIMEOUT : Fld := ⟨3, 3⟩
def SYS_BOOT_STAT_COACH_SLOT : Fld := ⟨2, 2⟩
def SYS_BOOT_STAT_UMPIRE_SLOT : Fld := ⟨1, 1⟩

/-- `SYS_WR_REJECT`, R570. -/
def SYS_WR_REJECT : Nat := 0x10000C
def SYS_WR_REJECT_REJECT : Fld := ⟨2, 0⟩

/-- `SYS_BOOT_TIME`, R570. -/
def SYS_BOOT_TIME : Nat := 0x100008
def SYS_BOOT_TIME_READY_MS : Fld := ⟨31, 0⟩

/-- `SYS_UMP_VER`, R570. -/
def SYS_UMP_VER : Nat := 0x100010
def SYS_UMP_VER_VERSION : Fld := ⟨31, 0⟩

/-- `SYS_COACH_VER`, R570. -/
def SYS_COACH_VER : Nat := 0x100014
def SYS_COACH_VER_VERSION : Fld := ⟨31, 0⟩

/-- `SYS_SERIAL_LO`, R570. -/
def SYS_SERIAL_LO : Nat := 0x100018
def SYS_SERIAL_LO_SERIAL : Fld := ⟨31, 0⟩

/-- `SYS_SERIAL_HI`, R570. -/
def SYS_SERIAL_HI : Nat := 0x10001C
def SYS_SERIAL_HI_SERIAL : Fld := ⟨31, 0⟩

/-- `SYS_PWR_CTL`, R570. -/
def SYS_PWR_CTL : Nat := 0x100020
def SYS_PWR_CTL_STANDBY : Fld := ⟨0, 0⟩

/-- `SYS_PWR_STAT`, R570. -/
def SYS_PWR_STAT : Nat := 0x100024
def SYS_PWR_STAT_STATE : Fld := ⟨2, 0⟩

/-- `SYS_THERM`, R570. -/
def SYS_THERM : Nat := 0x100028
def SYS_THERM_TEMP_MAX : Fld := ⟨15, 8⟩
def SYS_THERM_TEMP_C : Fld := ⟨7, 0⟩

/-- `SYS_THERM_CFG`, R570. -/
def SYS_THERM_CFG : Nat := 0x10002C
def SYS_THERM_CFG_WARN_C : Fld := ⟨7, 0⟩

/-- `SYS_HUDDLE_WAIT`, R570. -/
def SYS_HUDDLE_WAIT : Nat := 0x100030
def SYS_HUDDLE_WAIT_HUDDLE_WAIT_MS : Fld := ⟨15, 0⟩

/-- `SYS_IRQ_STAT`, R570. -/
def SYS_IRQ_STAT : Nat := 0x100040
def SYS_IRQ_STAT_THERM_WARN : Fld := ⟨0, 0⟩

/-- `SYS_IRQ_EN`, R570. -/
def SYS_IRQ_EN : Nat := 0x100044
def SYS_IRQ_EN_IRQ_EN : Fld := ⟨0, 0⟩

end Sys2Proof.Machine
end

