-- ==== Sys2Proof/Machine/RegMap.lean ====
section
/-! DEFINITION. The register map as data: for every register its place, its fields with access code, reset value and takes-effect code (R7, R10), its bit in the block's reject register (R577) and whether a write of 0 clears it (R579).
Each list follows the field map of one block; a bit that no field names is reserved and reads 0 (R6). -/

namespace Sys2Proof.Machine

/-- Access codes (R7). -/
inductive Acc where
  | ro | rw | wo | w1c | w1s | seal
  deriving DecidableEq, Repr

/-- Takes-effect codes (R10); `none` stands for the field maps' dash. -/
inductive Eff where
  | none | imm | line | cmd | item | idle | boot
  deriving DecidableEq, Repr

/-- The Reset column of a field map (R581): a value, the instance number, the array index, OTP, Umpire, or no fixed value. -/
inductive Rst where
  | val (v : Nat) | inst | idx | otp | umpire | open
  deriving DecidableEq, Repr

/-- A register alone, or one word of a 64-bit pair (R5). -/
inductive Pair where
  | one | lo | hi
  deriving DecidableEq, Repr

/-- One field of a field map. -/
structure FieldD where
  fld : Fld
  acc : Acc
  rst : Rst
  eff : Eff
  deriving DecidableEq, Repr

/-- One register: offset of its first instance, instances and their stride, array length and stride (R574), pair, bit in the reject register (R577), cleared by a write of 0 (R579), fields. -/
structure RegD where
  base : Nat
  insts : Nat
  istride : Nat
  elems : Nat
  estride : Nat
  pair : Pair
  rej : Option Nat
  clr : Bool
  fields : List FieldD
  deriving DecidableEq, Repr

/-- Field maps of the LIN block, part 1. -/
def regsLin1 : List RegD := [
  ⟨LIN_GATE_CFG 0, 4, 0x10000, 1, 0x0, .one, some 12, false, [
    ⟨LIN_GATE_CFG_BAR_SEL, .rw, .inst, .item⟩,
    ⟨LIN_GATE_CFG_MASTER_PORT, .rw, .inst, .idle⟩,
    ⟨LIN_GATE_CFG_SLAVE, .rw, .val 0, .idle⟩,
    ⟨LIN_GATE_CFG_LATE_EN, .rw, .val 1, .item⟩,
    ⟨LIN_GATE_CFG_OPEN_SRC, .rw, .val 0, .item⟩,
    ⟨LIN_GATE_CFG_CLASS, .rw, .val 0, .item⟩,
    ⟨LIN_GATE_CFG_GATE_MODE, .rw, .val 0, .item⟩]⟩,
  ⟨LIN_GATE_DIST 0, 4, 0x10000, 1, 0x0, .one, none, false, [
    ⟨LIN_GATE_DIST_GATE_COUNTS, .rw, .val 0, .item⟩]⟩,
  ⟨LIN_GATE_TIME 0, 4, 0x10000, 1, 0x0, .one, none, false, [
    ⟨LIN_GATE_TIME_GATE_NS, .rw, .val 0, .item⟩]⟩,
  ⟨LIN_DLV_MARGIN 0, 4, 0x10000, 1, 0x0, .one, none, false, [
    ⟨LIN_DLV_MARGIN_MARGIN_COUNTS, .rw, .val 0, .item⟩,
    ⟨LIN_DLV_MARGIN_MARGIN_US, .rw, .val 1000, .item⟩]⟩,
  ⟨LIN_LATE_LIMIT 0, 4, 0x10000, 1, 0x0, .one, none, false, [
    ⟨LIN_LATE_LIMIT_LATE_NS, .rw, .val 1000000000, .item⟩]⟩,
  ⟨LIN_GATE_STAT 0, 4, 0x10000, 1, 0x0, .one, none, true, [
    ⟨LIN_GATE_STAT_DBL_FEED_CNT, .ro, .val 0, .none⟩,
    ⟨LIN_GATE_STAT_LATE_CNT, .ro, .val 0, .none⟩]⟩,
  ⟨LIN_PORT_CTL 0, 4, 0x10000, 1, 0x0, .one, some 0, false, [
    ⟨LIN_PORT_CTL_EN, .rw, .val 0, .imm⟩]⟩,
  ⟨LIN_PORT_CFG 0, 4, 0x10000, 1, 0x0, .one, some 1, false, [
    ⟨LIN_PORT_CFG_PIX, .rw, .val 16384, .idle⟩,
    ⟨LIN_PORT_CFG_LANES, .rw, .val 3, .idle⟩,
    ⟨LIN_PORT_CFG_RATE, .rw, .val 0, .idle⟩,
    ⟨LIN_PORT_CFG_COLOUR, .rw, .val 0, .idle⟩,
    ⟨LIN_PORT_CFG_LAMP_MONO, .rw, .val 7, .line⟩,
    ⟨LIN_PORT_CFG_INTERP, .rw, .val 1, .line⟩,
    ⟨LIN_PORT_CFG_ENC_SEL, .rw, .inst, .idle⟩]⟩,
  ⟨LIN_PORT_STAT 0, 4, 0x10000, 1, 0x0, .one, none, false, [
    ⟨LIN_PORT_STAT_ADMIT_FAIL_LINK, .ro, .val 0, .none⟩,
    ⟨LIN_PORT_STAT_ADMIT_FAIL_RATE, .ro, .val 0, .none⟩,
    ⟨LIN_PORT_STAT_ENC_STALL, .ro, .val 0, .none⟩,
    ⟨LIN_PORT_STAT_REVERSED, .ro, .val 0, .none⟩,
    ⟨LIN_PORT_STAT_LINK_UP, .ro, .val 0, .none⟩,
    ⟨LIN_PORT_STAT_ENABLED, .ro, .val 0, .none⟩]⟩,
  ⟨LIN_WR_REJECT 0, 4, 0x10000, 1, 0x0, .one, none, false, [
    ⟨LIN_WR_REJECT_REJECT, .w1c, .val 0, .imm⟩]⟩,
  ⟨LIN_IRQ_STAT 0, 4, 0x10000, 1, 0x0, .one, none, false, [
    ⟨LIN_IRQ_STAT_IRQ, .w1c, .val 0, .imm⟩]⟩,
  ⟨LIN_IRQ_EN 0, 4, 0x10000, 1, 0x0, .one, none, false, [
    ⟨LIN_IRQ_EN_IRQ_EN, .rw, .val 1025, .imm⟩]⟩,
  ⟨LIN_LINK_CFG 0, 4, 0x10000, 1, 0x0, .one, some 2, false, [
    ⟨LIN_LINK_CFG_LANE_REV, .rw, .val 0, .idle⟩,
    ⟨LIN_LINK_CFG_LANE_INV, .rw, .val 0, .idle⟩]⟩,
  ⟨LIN_LINK_STAT 0, 4, 0x10000, 1, 0x0, .one, none, false, [
    ⟨LIN_LINK_STAT_LANE_LOCK, .ro, .val 0, .none⟩,
    ⟨LIN_LINK_STAT_SKEW, .ro, .val 0, .none⟩]⟩,
  ⟨LIN_LINK_ERR 0, 4, 0x10000, 1, 0x0, .one, none, true, [
    ⟨LIN_LINK_ERR_BAD_LINE_CNT, .ro, .val 0, .none⟩,
    ⟨LIN_LINK_ERR_SEQ_SLIP_CNT, .ro, .val 0, .none⟩,
    ⟨LIN_LINK_ERR_RELOCK_CNT, .ro, .val 0, .none⟩]⟩,
  ⟨LIN_ENC_CFG 0, 4, 0x10000, 1, 0x0, .one, some 3, false, [
    ⟨LIN_ENC_CFG_STALL_US, .rw, .val 1000, .imm⟩,
    ⟨LIN_ENC_CFG_MIN_EDGE_NS, .rw, .val 25, .imm⟩,
    ⟨LIN_ENC_CFG_Z_EN, .rw, .val 0, .imm⟩,
    ⟨LIN_ENC_CFG_FILT_NS, .rw, .val 5, .imm⟩]⟩,
  ⟨LIN_ENC_LIMIT 0, 4, 0x10000, 1, 0x0, .one, some 4, false, [
    ⟨LIN_ENC_LIMIT_Z_COUNTS, .rw, .val 0, .imm⟩]⟩,
  ⟨LIN_ENC_POS 0, 4, 0x10000, 1, 0x0, .one, none, false, [
    ⟨LIN_ENC_POS_POS, .ro, .val 0, .none⟩]⟩,
  ⟨LIN_ENC_HWM 0, 4, 0x10000, 1, 0x0, .one, none, false, [
    ⟨LIN_ENC_HWM_HWM, .ro, .val 0, .none⟩]⟩,
  ⟨LIN_ENC_ERR 0, 4, 0x10000, 1, 0x0, .one, none, true, [
    ⟨LIN_ENC_ERR_ILLEGAL_CNT, .ro, .val 0, .none⟩,
    ⟨LIN_ENC_ERR_OVERSPEED_CNT, .ro, .val 0, .none⟩,
    ⟨LIN_ENC_ERR_ZERR_CNT, .ro, .val 0, .none⟩]⟩]

/-- Field maps of the LIN block, part 2. -/
def regsLin2 : List RegD := [
  ⟨LIN_TRIG_STEP 0, 4, 0x10000, 1, 0x0, .one, some 5, false, [
    ⟨LIN_TRIG_STEP_STEP, .rw, .val 16777216, .line⟩]⟩,
  ⟨LIN_LINE_MIN 0, 4, 0x10000, 1, 0x0, .one, some 6, false, [
    ⟨LIN_LINE_MIN_LINE_MIN_NS, .rw, .val 2000, .idle⟩]⟩,
  ⟨LIN_LINE_CNT 0, 4, 0x10000, 1, 0x0, .one, none, false, [
    ⟨LIN_LINE_CNT_LINE_CNT, .ro, .val 0, .none⟩]⟩,
  ⟨LIN_OVERRUN 0, 4, 0x10000, 1, 0x0, .one, none, true, [
    ⟨LIN_OVERRUN_OVERRUN_CNT, .ro, .val 0, .none⟩]⟩,
  ⟨LIN_EXP_TIME 0, 4, 0x10000, 1, 0x0, .one, some 7, false, [
    ⟨LIN_EXP_TIME_EXP_NS, .rw, .val 1000, .line⟩]⟩,
  ⟨LIN_LAMP_TIME 0, 4, 0x10000, 1, 0x0, .one, some 8, false, [
    ⟨LIN_LAMP_TIME_TAIL_NS, .rw, .val 100, .line⟩,
    ⟨LIN_LAMP_TIME_LEAD_NS, .rw, .val 200, .line⟩]⟩,
  ⟨LIN_LAMP_DEAD 0, 4, 0x10000, 1, 0x0, .one, some 9, false, [
    ⟨LIN_LAMP_DEAD_LOK_EN, .rw, .val 0, .line⟩,
    ⟨LIN_LAMP_DEAD_DEAD_NS, .rw, .val 500, .line⟩]⟩,
  ⟨LIN_LAMP_STAT 0, 4, 0x10000, 1, 0x0, .one, none, false, [
    ⟨LIN_LAMP_STAT_LAMP_FAULT_CNT, .ro, .val 0, .none⟩,
    ⟨LIN_LAMP_STAT_LAMP_STUCK, .w1c, .val 0, .imm⟩]⟩,
  ⟨LIN_RET_BASE_LO 0, 4, 0x10000, 1, 0x0, .lo, none, false, [
    ⟨LIN_RET_BASE_LO_BASE, .rw, .val 0, .idle⟩]⟩,
  ⟨LIN_RET_BASE_HI 0, 4, 0x10000, 1, 0x0, .hi, some 10, false, [
    ⟨LIN_RET_BASE_HI_BASE, .rw, .val 0, .idle⟩]⟩,
  ⟨LIN_RET_SIZE 0, 4, 0x10000, 1, 0x0, .one, some 11, false, [
    ⟨LIN_RET_SIZE_SIZE_MIB, .rw, .val 1024, .idle⟩]⟩,
  ⟨LIN_RET_STAT 0, 4, 0x10000, 1, 0x0, .one, none, true, [
    ⟨LIN_RET_STAT_STREAM_GAP_CNT, .ro, .val 0, .none⟩,
    ⟨LIN_RET_STAT_FREE_MIB, .ro, .val 0, .none⟩]⟩,
  ⟨LIN_BAR_CFG 0, 1, 0x0, 8, 0x4, .one, none, false, [
    ⟨LIN_BAR_CFG_JAM_MS, .rw, .val 2000, .imm⟩,
    ⟨LIN_BAR_CFG_BAR_FILT_US, .rw, .val 20, .imm⟩,
    ⟨LIN_BAR_CFG_POL, .rw, .val 0, .imm⟩]⟩,
  ⟨LIN_BAR_STAT, 1, 0x0, 1, 0x0, .one, none, false, [
    ⟨LIN_BAR_STAT_JAM_SEEN, .w1c, .val 0, .imm⟩,
    ⟨LIN_BAR_STAT_BLOCKED, .ro, .open, .none⟩]⟩,
  ⟨LIN_ADMIT, 1, 0x0, 1, 0x0, .one, none, false, [
    ⟨LIN_ADMIT_ADMIT_MPXS, .ro, .val 0, .none⟩]⟩]

def regsLin : List RegD := regsLin1 ++ regsLin2

/-- Field maps of the CAL block, part 1. -/
def regsCal1 : List RegD := [
  ⟨CAL_CTL 0, 4, 0x10000, 1, 0x0, .one, none, false, [
    ⟨CAL_CTL_ABORT, .wo, .val 0, .imm⟩,
    ⟨CAL_CTL_START, .wo, .val 0, .imm⟩,
    ⟨CAL_CTL_AUTO, .rw, .val 0, .imm⟩,
    ⟨CAL_CTL_ARM, .rw, .val 0, .imm⟩]⟩,
  ⟨CAL_CFG 0, 4, 0x10000, 1, 0x0, .one, some 0, false, [
    ⟨CAL_CFG_MAX_RUN, .rw, .val 4, .idle⟩,
    ⟨CAL_CFG_DARK_N, .rw, .val 3, .idle⟩,
    ⟨CAL_CFG_WHITE_N, .rw, .val 3, .idle⟩,
    ⟨CAL_CFG_ORDER, .rw, .val 0, .idle⟩,
    ⟨CAL_CFG_DARK_SRC, .rw, .val 0, .idle⟩,
    ⟨CAL_CFG_REF_SRC, .rw, .val 0, .idle⟩,
    ⟨CAL_CFG_REF_BAR, .rw, .inst, .idle⟩]⟩,
  ⟨CAL_SKIP 0, 4, 0x10000, 1, 0x0, .one, some 1, false, [
    ⟨CAL_SKIP_DARK_SKIP, .rw, .val 16, .idle⟩,
    ⟨CAL_SKIP_WHITE_SKIP, .rw, .val 16, .idle⟩]⟩,
  ⟨CAL_LEVEL 0, 4, 0x10000, 1, 0x0, .one, some 2, false, [
    ⟨CAL_LEVEL_TARGET, .rw, .val 3840, .idle⟩,
    ⟨CAL_LEVEL_BLACK, .rw, .val 64, .idle⟩]⟩,
  ⟨CAL_LIMIT 0, 4, 0x10000, 1, 0x0, .one, some 3, false, [
    ⟨CAL_LIMIT_GAIN_MAX, .rw, .val 8192, .idle⟩,
    ⟨CAL_LIMIT_GAIN_MIN, .rw, .val 2048, .idle⟩]⟩,
  ⟨CAL_DEF_LIMIT 0, 4, 0x10000, 1, 0x0, .one, some 4, false, [
    ⟨CAL_DEF_LIMIT_DEFECT_LIMIT, .rw, .val 64, .idle⟩,
    ⟨CAL_DEF_LIMIT_DARK_MAX, .rw, .val 256, .idle⟩]⟩,
  ⟨CAL_STAT 0, 4, 0x10000, 1, 0x0, .one, none, false, [
    ⟨CAL_STAT_DEFECTS, .ro, .val 0, .none⟩,
    ⟨CAL_STAT_BUSY, .ro, .val 0, .none⟩,
    ⟨CAL_STAT_ACTIVE_BANK, .ro, .val 0, .none⟩,
    ⟨CAL_STAT_RESULT, .ro, .val 0, .none⟩]⟩,
  ⟨CAL_IRQ_STAT 0, 4, 0x10000, 1, 0x0, .one, none, false, [
    ⟨CAL_IRQ_STAT_IRQ, .w1c, .val 0, .imm⟩]⟩,
  ⟨CAL_IRQ_EN 0, 4, 0x10000, 1, 0x0, .one, none, false, [
    ⟨CAL_IRQ_EN_IRQ_EN, .rw, .val 2, .imm⟩]⟩,
  ⟨CAL_WR_REJECT 0, 4, 0x10000, 1, 0x0, .one, none, false, [
    ⟨CAL_WR_REJECT_REJECT, .w1c, .val 0, .imm⟩]⟩,
  ⟨CAL_EPOCH 0, 4, 0x10000, 1, 0x0, .one, none, false, [
    ⟨CAL_EPOCH_EPOCH, .ro, .val 0, .none⟩]⟩,
  ⟨CAL_FAC 0 0, 4, 0x10000, 3, 0x4, .one, none, false, [
    ⟨CAL_FAC_FGAIN, .ro, .otp, .none⟩,
    ⟨CAL_FAC_FOFS, .ro, .otp, .none⟩]⟩,
  ⟨CAL_TAB_ADDR 0, 4, 0x10000, 1, 0x0, .one, none, false, [
    ⟨CAL_TAB_ADDR_COL, .rw, .val 0, .imm⟩,
    ⟨CAL_TAB_ADDR_PIX_IDX, .rw, .val 0, .imm⟩]⟩,
  ⟨CAL_TAB_DATA 0, 4, 0x10000, 1, 0x0, .one, some 5, false, [
    ⟨CAL_TAB_DATA_ENTRY, .rw, .open, .imm⟩]⟩,
  ⟨CAL_TAB_COMMIT 0, 4, 0x10000, 1, 0x0, .one, some 6, false, [
    ⟨CAL_TAB_COMMIT_COMMIT, .wo, .val 0, .imm⟩]⟩]

def regsCal : List RegD := regsCal1

/-- Field maps of the MET block, part 1. -/
def regsMet1 : List RegD := [
  ⟨MET_STAT, 1, 0x0, 1, 0x0, .one, none, false, [
    ⟨MET_STAT_STATE, .ro, .val 0, .none⟩,
    ⟨MET_STAT_SEAL_IN, .ro, .open, .none⟩,
    ⟨MET_STAT_SEAL_OK, .ro, .val 0, .none⟩,
    ⟨MET_STAT_LOG_FULL, .ro, .val 0, .none⟩,
    ⟨MET_STAT_TIME_HOLD, .ro, .val 0, .none⟩]⟩,
  ⟨MET_EVENT_CNT, 1, 0x0, 1, 0x0, .one, none, false, [
    ⟨MET_EVENT_CNT_EVENT_CNT, .ro, .otp, .none⟩]⟩,
  ⟨MET_LOG_COUNT, 1, 0x0, 1, 0x0, .one, none, false, [
    ⟨MET_LOG_COUNT_ENTRIES, .ro, .open, .none⟩]⟩,
  ⟨MET_REC_LAST, 1, 0x0, 1, 0x0, .one, none, false, [
    ⟨MET_REC_LAST_MREF, .ro, .val 0, .none⟩]⟩,
  ⟨MET_PARAM_CRC, 1, 0x0, 1, 0x0, .one, none, false, [
    ⟨MET_PARAM_CRC_PARAM_CRC, .ro, .open, .none⟩]⟩,
  ⟨MET_SW_VER, 1, 0x0, 1, 0x0, .one, none, false, [
    ⟨MET_SW_VER_MAJOR, .ro, .open, .none⟩,
    ⟨MET_SW_VER_MINOR, .ro, .open, .none⟩,
    ⟨MET_SW_VER_BUILD, .ro, .open, .none⟩]⟩,
  ⟨MET_ROM_ID, 1, 0x0, 1, 0x0, .one, none, false, [
    ⟨MET_ROM_ID_ROM_ID, .ro, .open, .none⟩]⟩,
  ⟨MET_HEARTBEAT, 1, 0x0, 1, 0x0, .one, none, false, [
    ⟨MET_HEARTBEAT_BEAT, .ro, .val 0, .none⟩]⟩,
  ⟨MET_SW_DIGEST 0, 1, 0x0, 8, 0x4, .one, none, false, [
    ⟨MET_SW_DIGEST_DIGEST, .ro, .open, .none⟩]⟩,
  ⟨MET_SERIAL_LO, 1, 0x0, 1, 0x0, .lo, none, false, [
    ⟨MET_SERIAL_LO_SERIAL, .ro, .otp, .none⟩]⟩,
  ⟨MET_SERIAL_HI, 1, 0x0, 1, 0x0, .hi, none, false, [
    ⟨MET_SERIAL_HI_SERIAL, .ro, .otp, .none⟩]⟩,
  ⟨MET_MP_SRC 0, 1, 0x0, 4, 0x20, .one, none, false, [
    ⟨MET_MP_SRC_EDGE_POL, .seal, .val 0, .item⟩,
    ⟨MET_MP_SRC_CHAN, .seal, .val 0, .item⟩,
    ⟨MET_MP_SRC_MBAR_POL, .seal, .val 0, .item⟩,
    ⟨MET_MP_SRC_MBAR, .seal, .idx, .item⟩,
    ⟨MET_MP_SRC_MENC, .seal, .idx, .item⟩]⟩,
  ⟨MET_MP_SCALE 0, 1, 0x0, 4, 0x20, .one, none, false, [
    ⟨MET_MP_SCALE_COUNT_PM, .seal, .val 10000000, .item⟩]⟩,
  ⟨MET_MP_OFS 0, 1, 0x0, 4, 0x20, .one, none, false, [
    ⟨MET_MP_OFS_LEN_OFS_UM, .seal, .val 0, .item⟩]⟩,
  ⟨MET_MP_PIX 0, 1, 0x0, 4, 0x20, .one, none, false, [
    ⟨MET_MP_PIX_PIX_PM, .seal, .val 42333333, .item⟩]⟩,
  ⟨MET_MP_DECK 0, 1, 0x0, 4, 0x20, .one, none, false, [
    ⟨MET_MP_DECK_DECK_E8, .seal, .val 0, .item⟩,
    ⟨MET_MP_DECK_HGT_RANK, .seal, .val 2, .item⟩]⟩,
  ⟨MET_MP_EDGE 0, 1, 0x0, 4, 0x20, .one, none, false, [
    ⟨MET_MP_EDGE_MBAR_FILT_NS, .seal, .val 100, .item⟩,
    ⟨MET_MP_EDGE_DECK_LO, .seal, .val 0, .item⟩,
    ⟨MET_MP_EDGE_EDGE_THR, .seal, .val 2048, .item⟩]⟩,
  ⟨MET_MP_SPEED 0, 1, 0x0, 4, 0x20, .one, none, false, [
    ⟨MET_MP_SPEED_V_MAX, .seal, .val 11000, .item⟩,
    ⟨MET_MP_SPEED_V_MIN, .seal, .val 500, .item⟩]⟩,
  ⟨MET_MP_BAD 0, 1, 0x0, 4, 0x20, .one, none, false, [
    ⟨MET_MP_BAD_MAX_BAD, .seal, .val 16, .item⟩]⟩]

def regsMet : List RegD := regsMet1

/-- Field maps of the PIT block, part 1. -/
def regsPit1 : List RegD := [
  ⟨PIT_GOV_CFG, 1, 0x0, 1, 0x0, .one, none, false, [
    ⟨PIT_GOV_CFG_MARGIN_PCT, .rw, .val 5, .imm⟩,
    ⟨PIT_GOV_CFG_MODE, .rw, .val 0, .imm⟩]⟩,
  ⟨PIT_GOV_VLIM, 1, 0x0, 1, 0x0, .one, none, false, [
    ⟨PIT_GOV_VLIM_V_MAX_MV, .rw, .val 800, .imm⟩,
    ⟨PIT_GOV_VLIM_V_MIN_MV, .rw, .val 620, .imm⟩]⟩,
  ⟨PIT_GOV_FIXED, 1, 0x0, 1, 0x0, .one, none, false, [
    ⟨PIT_GOV_FIXED_V_FIXED_MV, .rw, .val 750, .imm⟩]⟩,
  ⟨PIT_PWR_CAP, 1, 0x0, 1, 0x0, .one, none, false, [
    ⟨PIT_PWR_CAP_PWR_CAP_W, .rw, .val 45, .imm⟩]⟩,
  ⟨PIT_GOV_STAT, 1, 0x0, 1, 0x0, .one, none, false, [
    ⟨PIT_GOV_STAT_V_SET_MV, .ro, .val 750, .none⟩,
    ⟨PIT_GOV_STAT_PWR_EST_W, .ro, .val 0, .none⟩,
    ⟨PIT_GOV_STAT_CFG_CLAMPED, .w1c, .val 0, .imm⟩,
    ⟨PIT_GOV_STAT_FIXED_OVERRIDE, .w1c, .val 0, .imm⟩,
    ⟨PIT_GOV_STAT_CAP_HIT, .w1c, .val 0, .imm⟩,
    ⟨PIT_GOV_STAT_TEMPO_LOW, .w1c, .val 0, .imm⟩]⟩,
  ⟨PIT_TEMPO_MIN, 1, 0x0, 1, 0x0, .one, none, false, [
    ⟨PIT_TEMPO_MIN_TILE, .ro, .val 0, .none⟩,
    ⟨PIT_TEMPO_MIN_STEPS, .ro, .val 0, .none⟩]⟩,
  ⟨PIT_ARITH_CNT, 1, 0x0, 1, 0x0, .one, none, true, [
    ⟨PIT_ARITH_CNT_SAT_CNT, .ro, .val 0, .none⟩,
    ⟨PIT_ARITH_CNT_NAN_INT_CNT, .ro, .val 0, .none⟩]⟩,
  ⟨PIT_ROUNDED_CNT, 1, 0x0, 1, 0x0, .one, none, true, [
    ⟨PIT_ROUNDED_CNT_ROUNDED_CNT, .ro, .val 0, .none⟩]⟩,
  ⟨PIT_MISS_TOTAL, 1, 0x0, 1, 0x0, .one, none, true, [
    ⟨PIT_MISS_TOTAL_MISS_TOTAL, .ro, .val 0, .none⟩]⟩,
  ⟨PIT_TILE_TEMPO 0, 1, 0x0, 272, 0x10, .one, none, false, [
    ⟨PIT_TILE_TEMPO_MAPPED, .ro, .val 0, .none⟩,
    ⟨PIT_TILE_TEMPO_STEPS, .ro, .val 0, .none⟩]⟩,
  ⟨PIT_TILE_MISS 0, 1, 0x0, 272, 0x10, .one, none, true, [
    ⟨PIT_TILE_MISS_MISS_CNT, .ro, .val 0, .none⟩]⟩,
  ⟨PIT_STAT, 1, 0x0, 1, 0x0, .one, none, false, [
    ⟨PIT_STAT_DEGRADED, .ro, .val 0, .none⟩,
    ⟨PIT_STAT_LIBEROS_FREE, .ro, .val 16, .none⟩,
    ⟨PIT_STAT_MAPPED, .ro, .val 256, .none⟩]⟩,
  ⟨PIT_IRQ_STAT, 1, 0x0, 1, 0x0, .one, none, false, [
    ⟨PIT_IRQ_STAT_IRQ, .w1c, .val 0, .imm⟩]⟩,
  ⟨PIT_IRQ_EN, 1, 0x0, 1, 0x0, .one, none, false, [
    ⟨PIT_IRQ_EN_IRQ_EN, .rw, .val 7, .imm⟩]⟩,
  ⟨PIT_REMAP_CNT, 1, 0x0, 1, 0x0, .one, none, false, [
    ⟨PIT_REMAP_CNT_REMAPS, .ro, .val 0, .none⟩]⟩,
  ⟨PIT_FAULT_INFO, 1, 0x0, 1, 0x0, .one, none, false, [
    ⟨PIT_FAULT_INFO_CODE, .ro, .val 0, .none⟩,
    ⟨PIT_FAULT_INFO_OPCODE, .ro, .val 0, .none⟩,
    ⟨PIT_FAULT_INFO_PART, .ro, .val 0, .none⟩,
    ⟨PIT_FAULT_INFO_LTILE, .ro, .val 0, .none⟩]⟩,
  ⟨PIT_FAULT_POS, 1, 0x0, 1, 0x0, .one, none, false, [
    ⟨PIT_FAULT_POS_CMD_INDEX, .ro, .val 0, .none⟩]⟩,
  ⟨PIT_FAULT_JOB, 1, 0x0, 1, 0x0, .one, none, false, [
    ⟨PIT_FAULT_JOB_JOB_TAG, .ro, .val 0, .none⟩]⟩,
  ⟨PIT_CMD_DONE_LO, 1, 0x0, 1, 0x0, .lo, none, false, [
    ⟨PIT_CMD_DONE_LO_CMD_DONE, .ro, .val 0, .none⟩]⟩,
  ⟨PIT_CMD_DONE_HI, 1, 0x0, 1, 0x0, .hi, none, false, [
    ⟨PIT_CMD_DONE_HI_CMD_DONE, .ro, .val 0, .none⟩]⟩]

/-- Field maps of the PIT block, part 2. -/
def regsPit2 : List RegD := [
  ⟨PIT_CKPT_BASE_LO, 1, 0x0, 1, 0x0, .lo, none, false, [
    ⟨PIT_CKPT_BASE_LO_BASE, .ro, .umpire, .none⟩]⟩,
  ⟨PIT_CKPT_BASE_HI, 1, 0x0, 1, 0x0, .hi, none, false, [
    ⟨PIT_CKPT_BASE_HI_BASE, .ro, .umpire, .none⟩]⟩,
  ⟨PIT_MAP 0, 1, 0x0, 256, 0x4, .one, none, false, [
    ⟨PIT_MAP_VALID, .ro, .val 1, .none⟩,
    ⟨PIT_MAP_PHYS, .ro, .idx, .none⟩]⟩,
  ⟨PIT_SPARE 0, 1, 0x0, 9, 0x4, .one, none, false, [
    ⟨PIT_SPARE_SPARE, .ro, .open, .none⟩]⟩,
  ⟨PIT_FAILED 0, 1, 0x0, 9, 0x4, .one, none, false, [
    ⟨PIT_FAILED_FAILED, .ro, .val 0, .none⟩]⟩,
  ⟨PIT_CONV_EMPTY, 1, 0x0, 1, 0x0, .one, none, true, [
    ⟨PIT_CONV_EMPTY_EMPTY_CNT, .ro, .val 0, .none⟩]⟩,
  ⟨PIT_STREAM_FILL, 1, 0x0, 1, 0x0, .one, none, true, [
    ⟨PIT_STREAM_FILL_FILL_CNT, .ro, .val 0, .none⟩]⟩,
  ⟨PIT_ATTN_CNT, 1, 0x0, 1, 0x0, .one, none, true, [
    ⟨PIT_ATTN_CNT_CLAMP_CNT, .ro, .val 0, .none⟩,
    ⟨PIT_ATTN_CNT_NAN_ROW_CNT, .ro, .val 0, .none⟩]⟩]

def regsPit : List RegD := regsPit1 ++ regsPit2

/-- Field maps of the PGM block, part 1. -/
def regsPgm1 : List RegD := [
  ⟨PGM_ITEM_LC_RESERVE, 1, 0x0, 1, 0x0, .one, some 0, false, [
    ⟨PGM_ITEM_LC_RESERVE_LC_RESERVE, .rw, .val 65536, .imm⟩]⟩,
  ⟨PGM_ITEM_FREE, 1, 0x0, 1, 0x0, .one, none, false, [
    ⟨PGM_ITEM_FREE_FREE, .ro, .val 1048575, .none⟩]⟩,
  ⟨PGM_WR_REJECT, 1, 0x0, 1, 0x0, .one, none, false, [
    ⟨PGM_WR_REJECT_REJECT, .w1c, .val 0, .imm⟩]⟩,
  ⟨PGM_WAIT_LIMIT, 1, 0x0, 1, 0x0, .one, some 1, false, [
    ⟨PGM_WAIT_LIMIT_WAIT_US, .rw, .val 50, .imm⟩]⟩,
  ⟨PGM_PREFETCH, 1, 0x0, 1, 0x0, .one, some 2, false, [
    ⟨PGM_PREFETCH_LEAD_US, .rw, .val 100, .imm⟩]⟩,
  ⟨PGM_DRAM_BASE_LO, 1, 0x0, 1, 0x0, .lo, none, false, [
    ⟨PGM_DRAM_BASE_LO_BASE, .ro, .umpire, .none⟩]⟩,
  ⟨PGM_DRAM_BASE_HI, 1, 0x0, 1, 0x0, .hi, none, false, [
    ⟨PGM_DRAM_BASE_HI_BASE, .ro, .umpire, .none⟩]⟩,
  ⟨PGM_DRAM_FRAMES, 1, 0x0, 1, 0x0, .one, none, false, [
    ⟨PGM_DRAM_FRAMES_DRAM_FRAMES, .ro, .umpire, .none⟩]⟩,
  ⟨PGM_CHIP_FREE, 1, 0x0, 1, 0x0, .one, none, false, [
    ⟨PGM_CHIP_FREE_CHIP_FREE, .ro, .val 0, .none⟩]⟩,
  ⟨PGM_DRAM_FREE, 1, 0x0, 1, 0x0, .one, none, false, [
    ⟨PGM_DRAM_FREE_DRAM_FREE, .ro, .val 0, .none⟩]⟩,
  ⟨PGM_SPILL_CNT, 1, 0x0, 1, 0x0, .one, none, true, [
    ⟨PGM_SPILL_CNT_SPILLS, .ro, .val 0, .none⟩]⟩,
  ⟨PGM_PREFETCH_CNT, 1, 0x0, 1, 0x0, .one, none, true, [
    ⟨PGM_PREFETCH_CNT_PREFETCHES, .ro, .val 0, .none⟩]⟩,
  ⟨PGM_DROP_CNT, 1, 0x0, 1, 0x0, .one, none, true, [
    ⟨PGM_DROP_CNT_DROP_CNT, .ro, .val 0, .none⟩,
    ⟨PGM_DROP_CNT_NO_FRAME_CNT, .ro, .val 0, .none⟩]⟩,
  ⟨PGM_COW_CNT, 1, 0x0, 1, 0x0, .one, none, true, [
    ⟨PGM_COW_CNT_COW_CNT, .ro, .val 0, .none⟩]⟩,
  ⟨PGM_WAIT_MAX, 1, 0x0, 1, 0x0, .one, none, true, [
    ⟨PGM_WAIT_MAX_WAIT_MAX_NS, .ro, .val 0, .none⟩]⟩,
  ⟨PGM_RECOMP_CNT, 1, 0x0, 1, 0x0, .one, none, true, [
    ⟨PGM_RECOMP_CNT_RECOMP_CNT, .ro, .val 0, .none⟩]⟩,
  ⟨PGM_IRQ_STAT, 1, 0x0, 1, 0x0, .one, none, false, [
    ⟨PGM_IRQ_STAT_IRQ, .w1c, .val 0, .imm⟩]⟩,
  ⟨PGM_IRQ_EN, 1, 0x0, 1, 0x0, .one, none, false, [
    ⟨PGM_IRQ_EN_IRQ_EN, .rw, .val 5, .imm⟩]⟩,
  ⟨PGM_PART_DRAM 0, 1, 0x0, 8, 0x10, .one, none, false, [
    ⟨PGM_PART_DRAM_BUDGET, .ro, .val 0, .none⟩]⟩,
  ⟨PGM_PART_USED 0, 1, 0x0, 8, 0x10, .one, none, false, [
    ⟨PGM_PART_USED_USED, .ro, .val 0, .none⟩]⟩]

/-- Field maps of the PGM block, part 2. -/
def regsPgm2 : List RegD := [
  ⟨PGM_PART_CHIP 0, 1, 0x0, 8, 0x10, .one, none, false, [
    ⟨PGM_PART_CHIP_CHIP, .ro, .val 0, .none⟩]⟩]

def regsPgm : List RegD := regsPgm1 ++ regsPgm2

/-- Field maps of the TOK block, part 1. -/
def regsTok1 : List RegD := [
  ⟨TOK_STAT, 1, 0x0, 1, 0x0, .one, none, false, [
    ⟨TOK_STAT_TSETS, .ro, .val 0, .none⟩]⟩,
  ⟨TOK_IRQ_STAT, 1, 0x0, 1, 0x0, .one, none, false, [
    ⟨TOK_IRQ_STAT_IRQ, .w1c, .val 0, .imm⟩]⟩,
  ⟨TOK_IRQ_EN, 1, 0x0, 1, 0x0, .one, none, false, [
    ⟨TOK_IRQ_EN_IRQ_EN, .rw, .val 3, .imm⟩]⟩,
  ⟨TOK_WR_REJECT, 1, 0x0, 1, 0x0, .one, none, false, [
    ⟨TOK_WR_REJECT_REJECT, .w1c, .val 0, .imm⟩]⟩,
  ⟨TOK_LIVE_CFG, 1, 0x0, 1, 0x0, .one, some 0, false, [
    ⟨TOK_LIVE_CFG_MAX_US, .rw, .val 200, .item⟩,
    ⟨TOK_LIVE_CFG_MIN_BYTES, .rw, .val 16, .item⟩]⟩,
  ⟨TOK_MCACHE_HIT, 1, 0x0, 1, 0x0, .one, none, true, [
    ⟨TOK_MCACHE_HIT_HITS, .ro, .val 0, .none⟩]⟩,
  ⟨TOK_MCACHE_MISS, 1, 0x0, 1, 0x0, .one, none, true, [
    ⟨TOK_MCACHE_MISS_MISSES, .ro, .val 0, .none⟩]⟩,
  ⟨TOK_REPAIR_CNT, 1, 0x0, 1, 0x0, .one, none, true, [
    ⟨TOK_REPAIR_CNT_REPAIR_CNT, .ro, .val 0, .none⟩]⟩,
  ⟨TOK_END_CNT, 1, 0x0, 1, 0x0, .one, none, true, [
    ⟨TOK_END_CNT_DEAD_CNT, .ro, .val 0, .none⟩,
    ⟨TOK_END_CNT_NOTOKEN_CNT, .ro, .val 0, .none⟩]⟩,
  ⟨TOK_NAN_CNT, 1, 0x0, 1, 0x0, .one, none, true, [
    ⟨TOK_NAN_CNT_NAN_LOGIT_CNT, .ro, .val 0, .none⟩]⟩,
  ⟨TOK_SCAN 0, 1, 0x0, 8, 0x4, .one, none, false, [
    ⟨TOK_SCAN_SCAN_LOAD, .ro, .val 0, .none⟩]⟩]

def regsTok : List RegD := regsTok1

/-- Field maps of the DEC block, part 1. -/
def regsDec1 : List RegD := [
  ⟨DEC_STAT, 1, 0x0, 1, 0x0, .one, none, false, [
    ⟨DEC_STAT_QUEUED, .ro, .val 0, .none⟩,
    ⟨DEC_STAT_BUSY, .ro, .val 0, .none⟩]⟩,
  ⟨DEC_IRQ_STAT, 1, 0x0, 1, 0x0, .one, none, false, [
    ⟨DEC_IRQ_STAT_IRQ, .w1c, .val 0, .imm⟩]⟩,
  ⟨DEC_IRQ_EN, 1, 0x0, 1, 0x0, .one, none, false, [
    ⟨DEC_IRQ_EN_IRQ_EN, .rw, .val 3, .imm⟩]⟩,
  ⟨DEC_WR_REJECT, 1, 0x0, 1, 0x0, .one, none, false, [
    ⟨DEC_WR_REJECT_REJECT, .w1c, .val 0, .imm⟩]⟩,
  ⟨DEC_CROP_CFG, 1, 0x0, 1, 0x0, .one, some 0, false, [
    ⟨DEC_CROP_CFG_MARGIN, .rw, .val 16, .item⟩]⟩,
  ⟨DEC_CROP_BASE_LO, 1, 0x0, 1, 0x0, .lo, none, false, [
    ⟨DEC_CROP_BASE_LO_BASE, .ro, .umpire, .none⟩]⟩,
  ⟨DEC_CROP_BASE_HI, 1, 0x0, 1, 0x0, .hi, none, false, [
    ⟨DEC_CROP_BASE_HI_BASE, .ro, .umpire, .none⟩]⟩,
  ⟨DEC_CROP_SIZE, 1, 0x0, 1, 0x0, .one, none, false, [
    ⟨DEC_CROP_SIZE_SIZE_MIB, .ro, .umpire, .none⟩]⟩,
  ⟨DEC_CROP_FREE, 1, 0x0, 1, 0x0, .one, none, false, [
    ⟨DEC_CROP_FREE_FREE_MIB, .ro, .val 0, .none⟩]⟩,
  ⟨DEC_IMG_CNT, 1, 0x0, 1, 0x0, .one, none, true, [
    ⟨DEC_IMG_CNT_IMAGES, .ro, .val 0, .none⟩]⟩,
  ⟨DEC_ERR_CNT, 1, 0x0, 1, 0x0, .one, none, true, [
    ⟨DEC_ERR_CNT_CORRUPT_CNT, .ro, .val 0, .none⟩,
    ⟨DEC_ERR_CNT_UNSUP_CNT, .ro, .val 0, .none⟩]⟩,
  ⟨DEC_PASS_CNT, 1, 0x0, 1, 0x0, .one, none, true, [
    ⟨DEC_PASS_CNT_PASSES, .ro, .val 0, .none⟩]⟩,
  ⟨DEC_VOTE_CNT, 1, 0x0, 1, 0x0, .one, none, true, [
    ⟨DEC_VOTE_CNT_VOTED_READ, .ro, .val 0, .none⟩,
    ⟨DEC_VOTE_CNT_VOTED_NO_READ, .ro, .val 0, .none⟩]⟩,
  ⟨DEC_ESC_CNT, 1, 0x0, 1, 0x0, .one, none, true, [
    ⟨DEC_ESC_CNT_ESC_SENT, .ro, .val 0, .none⟩,
    ⟨DEC_ESC_CNT_ESC_READ, .ro, .val 0, .none⟩]⟩,
  ⟨DEC_DEMOTE_CNT, 1, 0x0, 1, 0x0, .one, none, true, [
    ⟨DEC_DEMOTE_CNT_DEMOTE_CNT, .ro, .val 0, .none⟩]⟩,
  ⟨DEC_CROP_FULL, 1, 0x0, 1, 0x0, .one, none, true, [
    ⟨DEC_CROP_FULL_CROP_FULL_CNT, .ro, .val 0, .none⟩]⟩]

def regsDec : List RegD := regsDec1

/-- Field maps of the SCH block, part 1. -/
def regsSch1 : List RegD := [
  ⟨SCH_STAT, 1, 0x0, 1, 0x0, .one, none, false, [
    ⟨SCH_STAT_DEFINED, .ro, .val 0, .none⟩,
    ⟨SCH_STAT_RESIDENT, .ro, .val 0, .none⟩]⟩,
  ⟨SCH_IRQ_STAT, 1, 0x0, 1, 0x0, .one, none, false, [
    ⟨SCH_IRQ_STAT_IRQ, .w1c, .val 0, .imm⟩]⟩,
  ⟨SCH_IRQ_EN, 1, 0x0, 1, 0x0, .one, none, false, [
    ⟨SCH_IRQ_EN_IRQ_EN, .rw, .val 5, .imm⟩]⟩,
  ⟨SCH_WR_REJECT, 1, 0x0, 1, 0x0, .one, none, false, [
    ⟨SCH_WR_REJECT_REJECT, .w1c, .val 0, .imm⟩]⟩,
  ⟨SCH_BE_CFG, 1, 0x0, 1, 0x0, .one, some 0, false, [
    ⟨SCH_BE_CFG_BE_QUANTUM_US, .rw, .val 100, .imm⟩]⟩,
  ⟨SCH_SATURATION, 1, 0x0, 1, 0x0, .one, none, false, [
    ⟨SCH_SATURATION_PART_MASK, .ro, .val 0, .none⟩,
    ⟨SCH_SATURATION_RESOURCE, .ro, .val 0, .none⟩]⟩,
  ⟨SCH_SAT_SEEN, 1, 0x0, 1, 0x0, .one, none, false, [
    ⟨SCH_SAT_SEEN_SEEN, .w1c, .val 0, .imm⟩]⟩,
  ⟨SCH_SWITCH_CNT, 1, 0x0, 1, 0x0, .one, none, true, [
    ⟨SCH_SWITCH_CNT_SWITCHES, .ro, .val 0, .none⟩]⟩,
  ⟨SCH_SB_SEL, 1, 0x0, 1, 0x0, .one, none, false, [
    ⟨SCH_SB_SEL_CTX, .rw, .val 0, .imm⟩]⟩,
  ⟨SCH_SB_STATE, 1, 0x0, 1, 0x0, .one, none, false, [
    ⟨SCH_SB_STATE_PART, .ro, .val 0, .none⟩,
    ⟨SCH_SB_STATE_CLASS, .ro, .val 0, .none⟩,
    ⟨SCH_SB_STATE_STATE, .ro, .val 0, .none⟩]⟩,
  ⟨SCH_SB_WAIT_SUM_LO, 1, 0x0, 1, 0x0, .lo, none, false, [
    ⟨SCH_SB_WAIT_SUM_LO_WAIT_SUM, .ro, .val 0, .none⟩]⟩,
  ⟨SCH_SB_WAIT_SUM_HI, 1, 0x0, 1, 0x0, .hi, none, false, [
    ⟨SCH_SB_WAIT_SUM_HI_WAIT_SUM, .ro, .val 0, .none⟩]⟩,
  ⟨SCH_SB_WAIT_MAX, 1, 0x0, 1, 0x0, .one, none, false, [
    ⟨SCH_SB_WAIT_MAX_WAIT_MAX, .ro, .val 0, .none⟩]⟩,
  ⟨SCH_SB_CMDS_LO, 1, 0x0, 1, 0x0, .lo, none, false, [
    ⟨SCH_SB_CMDS_LO_CMDS, .ro, .val 0, .none⟩]⟩,
  ⟨SCH_SB_CMDS_HI, 1, 0x0, 1, 0x0, .hi, none, false, [
    ⟨SCH_SB_CMDS_HI_CMDS, .ro, .val 0, .none⟩]⟩,
  ⟨SCH_SB_PREEMPT, 1, 0x0, 1, 0x0, .one, none, false, [
    ⟨SCH_SB_PREEMPT_PREEMPTS, .ro, .val 0, .none⟩]⟩,
  ⟨SCH_SB_EVICT, 1, 0x0, 1, 0x0, .one, none, false, [
    ⟨SCH_SB_EVICT_EVICTS, .ro, .val 0, .none⟩,
    ⟨SCH_SB_EVICT_FAULTS, .ro, .val 0, .none⟩]⟩,
  ⟨SCH_SB_DEBT, 1, 0x0, 1, 0x0, .one, none, false, [
    ⟨SCH_SB_DEBT_DEBT, .ro, .val 0, .none⟩]⟩,
  ⟨SCH_SB_TILE_LO, 1, 0x0, 1, 0x0, .lo, none, false, [
    ⟨SCH_SB_TILE_LO_TILE_TIME, .ro, .val 0, .none⟩]⟩,
  ⟨SCH_SB_TILE_HI, 1, 0x0, 1, 0x0, .hi, none, false, [
    ⟨SCH_SB_TILE_HI_TILE_TIME, .ro, .val 0, .none⟩]⟩]

/-- Field maps of the SCH block, part 2. -/
def regsSch2 : List RegD := [
  ⟨SCH_SB_CLR, 1, 0x0, 1, 0x0, .one, none, false, [
    ⟨SCH_SB_CLR_CLEAR, .wo, .val 0, .imm⟩]⟩,
  ⟨SCH_PART_CFG 0, 1, 0x0, 8, 0x20, .one, none, false, [
    ⟨SCH_PART_CFG_VALID, .ro, .val 0, .none⟩,
    ⟨SCH_PART_CFG_RES_MAX, .ro, .val 0, .none⟩,
    ⟨SCH_PART_CFG_GROUPS, .ro, .val 0, .none⟩,
    ⟨SCH_PART_CFG_FIRST_GROUP, .ro, .val 0, .none⟩]⟩,
  ⟨SCH_PART_TABLE 0, 1, 0x0, 8, 0x20, .one, none, false, [
    ⟨SCH_PART_TABLE_HALTED, .ro, .val 0, .none⟩,
    ⟨SCH_PART_TABLE_USABLE, .ro, .val 0, .none⟩,
    ⟨SCH_PART_TABLE_TABLE_ID, .ro, .val 0, .none⟩]⟩,
  ⟨SCH_PART_DRAM_RATE 0, 1, 0x0, 8, 0x20, .one, none, false, [
    ⟨SCH_PART_DRAM_RATE_RATE_MBS, .ro, .val 0, .none⟩]⟩,
  ⟨SCH_PART_FAB_RATE 0, 1, 0x0, 8, 0x20, .one, none, false, [
    ⟨SCH_PART_FAB_RATE_RATE_MBS, .ro, .val 0, .none⟩]⟩,
  ⟨SCH_PART_HDMA_RATE 0, 1, 0x0, 8, 0x20, .one, none, false, [
    ⟨SCH_PART_HDMA_RATE_RATE_MBS, .ro, .val 0, .none⟩]⟩,
  ⟨SCH_PART_THROTTLE 0, 1, 0x0, 8, 0x20, .one, none, true, [
    ⟨SCH_PART_THROTTLE_THROTTLE_US, .ro, .val 0, .none⟩]⟩,
  ⟨SCH_PART_FRAMES 0, 1, 0x0, 8, 0x20, .one, none, false, [
    ⟨SCH_PART_FRAMES_FRAMES, .ro, .val 0, .none⟩]⟩,
  ⟨SCH_PART_OVERRUN 0, 1, 0x0, 8, 0x20, .one, none, true, [
    ⟨SCH_PART_OVERRUN_OVERRUNS, .ro, .val 0, .none⟩]⟩]

def regsSch : List RegD := regsSch1 ++ regsSch2

/-- Field maps of the KOL block, part 1. -/
def regsKol1 : List RegD := [
  ⟨KOL_PORT_CTL 0, 6, 0x10000, 1, 0x0, .one, some 0, false, [
    ⟨KOL_PORT_CTL_PRECODE, .rw, .val 0, .idle⟩,
    ⟨KOL_PORT_CTL_EN, .rw, .val 1, .imm⟩]⟩,
  ⟨KOL_PORT_STAT 0, 6, 0x10000, 1, 0x0, .one, none, false, [
    ⟨KOL_PORT_STAT_TRAINED, .ro, .val 0, .none⟩,
    ⟨KOL_PORT_STAT_LINK_UP, .ro, .val 0, .none⟩,
    ⟨KOL_PORT_STAT_ALIGNED, .ro, .val 0, .none⟩]⟩,
  ⟨KOL_WR_REJECT 0, 6, 0x10000, 1, 0x0, .one, none, false, [
    ⟨KOL_WR_REJECT_REJECT, .w1c, .val 0, .imm⟩]⟩,
  ⟨KOL_IRQ_STAT 0, 6, 0x10000, 1, 0x0, .one, none, false, [
    ⟨KOL_IRQ_STAT_IRQ, .w1c, .val 0, .imm⟩]⟩,
  ⟨KOL_IRQ_EN 0, 6, 0x10000, 1, 0x0, .one, none, false, [
    ⟨KOL_IRQ_EN_IRQ_EN, .rw, .val 5, .imm⟩]⟩,
  ⟨KOL_VC_SPLIT 0, 6, 0x10000, 1, 0x0, .one, some 1, false, [
    ⟨KOL_VC_SPLIT_TIME, .rw, .val 16, .idle⟩,
    ⟨KOL_VC_SPLIT_BE, .rw, .val 128, .idle⟩,
    ⟨KOL_VC_SPLIT_LC, .rw, .val 96, .idle⟩,
    ⟨KOL_VC_SPLIT_CTL, .rw, .val 16, .idle⟩]⟩,
  ⟨KOL_CREDIT 0, 6, 0x10000, 1, 0x0, .one, none, false, [
    ⟨KOL_CREDIT_CREDITS, .ro, .val 0, .none⟩]⟩,
  ⟨KOL_FEC_CORR 0, 6, 0x10000, 1, 0x0, .one, none, true, [
    ⟨KOL_FEC_CORR_FEC_CORR, .ro, .val 0, .none⟩]⟩,
  ⟨KOL_FEC_UNCORR 0, 6, 0x10000, 1, 0x0, .one, none, true, [
    ⟨KOL_FEC_UNCORR_FEC_UNCORR, .ro, .val 0, .none⟩]⟩,
  ⟨KOL_LINK_ERR 0, 6, 0x10000, 1, 0x0, .one, none, true, [
    ⟨KOL_LINK_ERR_REPLAYS, .ro, .val 0, .none⟩,
    ⟨KOL_LINK_ERR_CRC_BAD, .ro, .val 0, .none⟩]⟩,
  ⟨KOL_DOWN_CNT 0, 6, 0x10000, 1, 0x0, .one, none, true, [
    ⟨KOL_DOWN_CNT_DOWN_CNT, .ro, .val 0, .none⟩]⟩,
  ⟨KOL_NEIGH 0, 6, 0x10000, 1, 0x0, .one, none, false, [
    ⟨KOL_NEIGH_ADDR_VALID, .ro, .val 0, .none⟩,
    ⟨KOL_NEIGH_ADDR, .ro, .val 0, .none⟩,
    ⟨KOL_NEIGH_PORT, .ro, .val 0, .none⟩]⟩,
  ⟨KOL_NEIGH_SERIAL_LO 0, 6, 0x10000, 1, 0x0, .lo, none, false, [
    ⟨KOL_NEIGH_SERIAL_LO_SERIAL, .ro, .val 0, .none⟩]⟩,
  ⟨KOL_NEIGH_SERIAL_HI 0, 6, 0x10000, 1, 0x0, .hi, none, false, [
    ⟨KOL_NEIGH_SERIAL_HI_SERIAL, .ro, .val 0, .none⟩]⟩,
  ⟨KOL_STAT, 1, 0x0, 1, 0x0, .one, none, false, [
    ⟨KOL_STAT_ADDR, .ro, .val 0, .none⟩,
    ⟨KOL_STAT_ADDR_VALID, .ro, .val 0, .none⟩,
    ⟨KOL_STAT_ROOT, .ro, .val 0, .none⟩,
    ⟨KOL_STAT_OVERFLOW, .ro, .val 0, .none⟩,
    ⟨KOL_STAT_EPOCH, .ro, .val 0, .none⟩]⟩,
  ⟨KOL_DEVICES, 1, 0x0, 1, 0x0, .one, none, false, [
    ⟨KOL_DEVICES_DEVICES, .ro, .val 0, .none⟩]⟩,
  ⟨KOL_G_IRQ_STAT, 1, 0x0, 1, 0x0, .one, none, false, [
    ⟨KOL_G_IRQ_STAT_IRQ, .w1c, .val 0, .imm⟩]⟩,
  ⟨KOL_G_IRQ_EN, 1, 0x0, 1, 0x0, .one, none, false, [
    ⟨KOL_G_IRQ_EN_IRQ_EN, .rw, .val 62, .imm⟩]⟩,
  ⟨KOL_HUDDLE_CFG, 1, 0x0, 1, 0x0, .one, none, false, [
    ⟨KOL_HUDDLE_CFG_ROOT_ELIG, .rw, .val 1, .boot⟩]⟩,
  ⟨KOL_CATCH_CFG, 1, 0x0, 1, 0x0, .one, none, false, [
    ⟨KOL_CATCH_CFG_PARTNER, .ro, .val 0, .none⟩,
    ⟨KOL_CATCH_CFG_PARTNER_VALID, .ro, .val 0, .none⟩,
    ⟨KOL_CATCH_CFG_CATCH_PART, .ro, .val 0, .none⟩,
    ⟨KOL_CATCH_CFG_SHADOW_EN, .ro, .val 0, .none⟩,
    ⟨KOL_CATCH_CFG_SHADOW_BAR, .ro, .val 0, .none⟩]⟩]

/-- Field maps of the KOL block, part 2. -/
def regsKol2 : List RegD := [
  ⟨KOL_RELAY_BASE_LO, 1, 0x0, 1, 0x0, .lo, none, false, [
    ⟨KOL_RELAY_BASE_LO_BASE, .ro, .umpire, .none⟩]⟩,
  ⟨KOL_RELAY_BASE_HI, 1, 0x0, 1, 0x0, .hi, none, false, [
    ⟨KOL_RELAY_BASE_HI_BASE, .ro, .umpire, .none⟩]⟩,
  ⟨KOL_RELAY_SIZE, 1, 0x0, 1, 0x0, .one, none, false, [
    ⟨KOL_RELAY_SIZE_SIZE_MIB, .ro, .umpire, .none⟩]⟩,
  ⟨KOL_TXN_CNT, 1, 0x0, 1, 0x0, .one, none, true, [
    ⟨KOL_TXN_CNT_TXN_RETRY, .ro, .val 0, .none⟩,
    ⟨KOL_TXN_CNT_TXN_FAIL, .ro, .val 0, .none⟩]⟩,
  ⟨KOL_DROP_CNT, 1, 0x0, 1, 0x0, .one, none, true, [
    ⟨KOL_DROP_CNT_HOP_DROP, .ro, .val 0, .none⟩,
    ⟨KOL_DROP_CNT_NO_ROUTE, .ro, .val 0, .none⟩]⟩,
  ⟨KOL_TAKEOVER_CNT, 1, 0x0, 1, 0x0, .one, none, true, [
    ⟨KOL_TAKEOVER_CNT_PIECES, .ro, .val 0, .none⟩]⟩,
  ⟨KOL_WIN_CFG 0, 1, 0x0, 8, 0x10, .one, none, false, [
    ⟨KOL_WIN_CFG_VALID, .ro, .umpire, .none⟩,
    ⟨KOL_WIN_CFG_ANY_SRC, .ro, .umpire, .none⟩,
    ⟨KOL_WIN_CFG_SRC, .ro, .umpire, .none⟩]⟩,
  ⟨KOL_WIN_BASE_LO 0, 1, 0x0, 8, 0x10, .lo, none, false, [
    ⟨KOL_WIN_BASE_LO_BASE, .ro, .umpire, .none⟩]⟩,
  ⟨KOL_WIN_BASE_HI 0, 1, 0x0, 8, 0x10, .hi, none, false, [
    ⟨KOL_WIN_BASE_HI_BASE, .ro, .umpire, .none⟩]⟩,
  ⟨KOL_WIN_SIZE 0, 1, 0x0, 8, 0x10, .one, none, false, [
    ⟨KOL_WIN_SIZE_SIZE_KIB, .ro, .umpire, .none⟩]⟩,
  ⟨KOL_ROUTE 0, 1, 0x0, 256, 0x4, .one, none, false, [
    ⟨KOL_ROUTE_VALID, .ro, .val 0, .none⟩,
    ⟨KOL_ROUTE_PRI, .ro, .val 7, .none⟩,
    ⟨KOL_ROUTE_ALT, .ro, .val 7, .none⟩,
    ⟨KOL_ROUTE_HOPS_PRI, .ro, .val 0, .none⟩,
    ⟨KOL_ROUTE_HOPS_ALT, .ro, .val 0, .none⟩]⟩]

def regsKol : List RegD := regsKol1 ++ regsKol2

/-- Field maps of the TIM block, part 1. -/
def regsTim1 : List RegD := [
  ⟨TIM_NOW_LO, 1, 0x0, 1, 0x0, .lo, none, false, [
    ⟨TIM_NOW_LO_NOW, .ro, .val 0, .none⟩]⟩,
  ⟨TIM_NOW_HI, 1, 0x0, 1, 0x0, .hi, none, false, [
    ⟨TIM_NOW_HI_NOW, .ro, .val 0, .none⟩]⟩,
  ⟨TIM_TAI_LO, 1, 0x0, 1, 0x0, .one, none, false, [
    ⟨TIM_TAI_LO_TAI_SEC, .ro, .val 0, .none⟩]⟩,
  ⟨TIM_TAI_HI, 1, 0x0, 1, 0x0, .one, none, false, [
    ⟨TIM_TAI_HI_EPOCH, .ro, .val 0, .none⟩,
    ⟨TIM_TAI_HI_TAI_SEC, .ro, .val 0, .none⟩]⟩,
  ⟨TIM_CFG, 1, 0x0, 1, 0x0, .one, some 0, false, [
    ⟨TIM_CFG_KI_SHIFT, .rw, .val 8, .imm⟩,
    ⟨TIM_CFG_SLEW_WIN_MS, .rw, .val 100, .imm⟩,
    ⟨TIM_CFG_SYNC_US, .rw, .val 125, .idle⟩,
    ⟨TIM_CFG_SRC, .rw, .val 0, .idle⟩]⟩,
  ⟨TIM_STEP_LIMIT, 1, 0x0, 1, 0x0, .one, some 1, false, [
    ⟨TIM_STEP_LIMIT_STEP_LIMIT_NS, .rw, .val 1000, .imm⟩]⟩,
  ⟨TIM_PTP_CFG, 1, 0x0, 1, 0x0, .one, some 2, false, [
    ⟨TIM_PTP_CFG_LOG_SYNC, .rw, .val 13, .idle⟩,
    ⟨TIM_PTP_CFG_PEER, .rw, .val 0, .idle⟩,
    ⟨TIM_PTP_CFG_L2, .rw, .val 0, .idle⟩,
    ⟨TIM_PTP_CFG_DOMAIN, .rw, .val 0, .idle⟩]⟩,
  ⟨TIM_STAT, 1, 0x0, 1, 0x0, .one, none, false, [
    ⟨TIM_STAT_PTP_STATE, .ro, .val 0, .none⟩,
    ⟨TIM_STAT_TIME_ROOT, .ro, .val 0, .none⟩,
    ⟨TIM_STAT_LOCKED, .ro, .val 0, .none⟩,
    ⟨TIM_STAT_REROUTE_HOLD, .ro, .val 0, .none⟩,
    ⟨TIM_STAT_HOLDOVER, .ro, .val 0, .none⟩,
    ⟨TIM_STAT_STEP_REFUSED, .w1c, .val 0, .imm⟩]⟩,
  ⟨TIM_OFFSET, 1, 0x0, 1, 0x0, .one, none, false, [
    ⟨TIM_OFFSET_OFFSET_NS, .ro, .val 0, .none⟩]⟩,
  ⟨TIM_RATE, 1, 0x0, 1, 0x0, .one, none, false, [
    ⟨TIM_RATE_RATE_PPB, .ro, .val 0, .none⟩]⟩,
  ⟨TIM_PENDING_LO, 1, 0x0, 1, 0x0, .lo, none, false, [
    ⟨TIM_PENDING_LO_PENDING_STEP, .ro, .val 0, .none⟩]⟩,
  ⟨TIM_PENDING_HI, 1, 0x0, 1, 0x0, .hi, none, false, [
    ⟨TIM_PENDING_HI_PENDING_STEP, .ro, .val 0, .none⟩]⟩,
  ⟨TIM_IRQ_STAT, 1, 0x0, 1, 0x0, .one, none, false, [
    ⟨TIM_IRQ_STAT_IRQ, .w1c, .val 0, .imm⟩]⟩,
  ⟨TIM_IRQ_EN, 1, 0x0, 1, 0x0, .one, none, false, [
    ⟨TIM_IRQ_EN_IRQ_EN, .rw, .val 7, .imm⟩]⟩,
  ⟨TIM_WR_REJECT, 1, 0x0, 1, 0x0, .one, none, false, [
    ⟨TIM_WR_REJECT_REJECT, .w1c, .val 0, .imm⟩]⟩,
  ⟨TIM_TXQ_OVF, 1, 0x0, 1, 0x0, .one, none, false, [
    ⟨TIM_TXQ_OVF_TXQ_OVF, .w1c, .val 0, .imm⟩]⟩,
  ⟨TIM_PORT_LAT 0, 1, 0x0, 7, 0x20, .one, none, false, [
    ⟨TIM_PORT_LAT_FAC_RX_NS, .ro, .otp, .none⟩,
    ⟨TIM_PORT_LAT_FAC_TX_NS, .ro, .otp, .none⟩]⟩,
  ⟨TIM_PORT_ASYM 0, 1, 0x0, 7, 0x20, .one, none, false, [
    ⟨TIM_PORT_ASYM_USER_ASYM_NS, .rw, .val 0, .imm⟩]⟩,
  ⟨TIM_PORT_DELAY 0, 1, 0x0, 7, 0x20, .one, none, false, [
    ⟨TIM_PORT_DELAY_LINK_DELAY, .ro, .val 0, .none⟩]⟩,
  ⟨TIM_PORT_POP 0, 1, 0x0, 7, 0x20, .one, none, false, [
    ⟨TIM_PORT_POP_VALID, .ro, .val 0, .none⟩,
    ⟨TIM_PORT_POP_STAMP_ID, .ro, .val 0, .none⟩]⟩]

/-- Field maps of the TIM block, part 2. -/
def regsTim2 : List RegD := [
  ⟨TIM_PORT_STAMP_LO 0, 1, 0x0, 7, 0x20, .lo, none, false, [
    ⟨TIM_PORT_STAMP_LO_STAMP, .ro, .val 0, .none⟩]⟩,
  ⟨TIM_PORT_STAMP_HI 0, 1, 0x0, 7, 0x20, .hi, none, false, [
    ⟨TIM_PORT_STAMP_HI_STAMP, .ro, .val 0, .none⟩]⟩,
  ⟨TIM_PORT_CNT 0, 1, 0x0, 7, 0x20, .one, none, true, [
    ⟨TIM_PORT_CNT_TXQ_OVF_CNT, .ro, .val 0, .none⟩,
    ⟨TIM_PORT_CNT_PD_BAD, .ro, .val 0, .none⟩]⟩]

def regsTim : List RegD := regsTim1 ++ regsTim2

/-- Field maps of the HIF block, part 1. -/
def regsHif1 : List RegD := [
  ⟨HIF_STAT, 1, 0x0, 1, 0x0, .one, none, false, [
    ⟨HIF_STAT_OUTPUT_STALL, .ro, .val 0, .none⟩,
    ⟨HIF_STAT_COACH_UP, .ro, .val 0, .none⟩,
    ⟨HIF_STAT_UMPIRE_UP, .ro, .val 0, .none⟩,
    ⟨HIF_STAT_READY, .ro, .val 0, .none⟩]⟩,
  ⟨HIF_IRQ_STAT, 1, 0x0, 1, 0x0, .one, none, false, [
    ⟨HIF_IRQ_STAT_IRQ, .w1c, .val 0, .imm⟩]⟩,
  ⟨HIF_IRQ_EN, 1, 0x0, 1, 0x0, .one, none, false, [
    ⟨HIF_IRQ_EN_IRQ_EN, .rw, .val 15, .imm⟩]⟩,
  ⟨HIF_WR_REJECT, 1, 0x0, 1, 0x0, .one, none, false, [
    ⟨HIF_WR_REJECT_REJECT, .w1c, .val 0, .imm⟩]⟩,
  ⟨HIF_RESULT_BUDGET, 1, 0x0, 1, 0x0, .one, some 0, false, [
    ⟨HIF_RESULT_BUDGET_BUDGET_KIB, .rw, .val 65536, .imm⟩]⟩,
  ⟨HIF_HOLD_USED, 1, 0x0, 1, 0x0, .one, none, false, [
    ⟨HIF_HOLD_USED_USED_KIB, .ro, .val 0, .none⟩]⟩,
  ⟨HIF_HOLD_SIZE, 1, 0x0, 1, 0x0, .one, none, false, [
    ⟨HIF_HOLD_SIZE_HOLD_KIB, .ro, .umpire, .none⟩]⟩,
  ⟨HIF_PORT_RING, 1, 0x0, 1, 0x0, .one, some 3, false, [
    ⟨HIF_PORT_RING_P3, .rw, .val 0, .item⟩,
    ⟨HIF_PORT_RING_P2, .rw, .val 0, .item⟩,
    ⟨HIF_PORT_RING_P1, .rw, .val 0, .item⟩,
    ⟨HIF_PORT_RING_P0, .rw, .val 0, .item⟩]⟩,
  ⟨HIF_SYS_RING, 1, 0x0, 1, 0x0, .one, some 3, false, [
    ⟨HIF_SYS_RING_CATCH_RING, .rw, .val 0, .item⟩,
    ⟨HIF_SYS_RING_SYS_RING, .rw, .val 0, .item⟩]⟩,
  ⟨HIF_IRQ_VEC 0, 1, 0x0, 13, 0x4, .one, none, false, [
    ⟨HIF_IRQ_VEC_VEC, .rw, .val 0, .imm⟩]⟩,
  ⟨HIF_STALL_CNT, 1, 0x0, 1, 0x0, .one, none, true, [
    ⟨HIF_STALL_CNT_STALLS, .ro, .val 0, .none⟩,
    ⟨HIF_STALL_CNT_HEAD_ONLY, .ro, .val 0, .none⟩]⟩,
  ⟨HIF_SQ_BASE_LO 0, 1, 0x0, 64, 0x40, .lo, none, false, [
    ⟨HIF_SQ_BASE_LO_BASE, .rw, .val 0, .idle⟩]⟩,
  ⟨HIF_SQ_BASE_HI 0, 1, 0x0, 64, 0x40, .hi, some 4, false, [
    ⟨HIF_SQ_BASE_HI_BASE, .rw, .val 0, .idle⟩]⟩,
  ⟨HIF_SQ_CFG 0, 1, 0x0, 64, 0x40, .one, some 1, false, [
    ⟨HIF_SQ_CFG_EN, .rw, .val 0, .imm⟩,
    ⟨HIF_SQ_CFG_LOG2_SIZE, .rw, .val 6, .idle⟩]⟩,
  ⟨HIF_SQ_PERM 0, 1, 0x0, 64, 0x40, .one, none, false, [
    ⟨HIF_SQ_PERM_VALID, .ro, .umpire, .none⟩,
    ⟨HIF_SQ_PERM_PRIV, .ro, .umpire, .none⟩,
    ⟨HIF_SQ_PERM_PART, .ro, .umpire, .none⟩]⟩,
  ⟨HIF_SQ_TAIL 0, 1, 0x0, 64, 0x40, .one, none, false, [
    ⟨HIF_SQ_TAIL_TAIL, .rw, .val 0, .imm⟩]⟩,
  ⟨HIF_SQ_HEAD 0, 1, 0x0, 64, 0x40, .one, none, false, [
    ⟨HIF_SQ_HEAD_HEAD, .ro, .val 0, .none⟩]⟩,
  ⟨HIF_SQ_ERR 0, 1, 0x0, 64, 0x40, .one, none, false, [
    ⟨HIF_SQ_ERR_CODE, .ro, .val 0, .none⟩]⟩,
  ⟨HIF_RING_BASE_LO 0, 1, 0x0, 64, 0x40, .lo, none, false, [
    ⟨HIF_RING_BASE_LO_BASE, .rw, .val 0, .idle⟩]⟩,
  ⟨HIF_RING_BASE_HI 0, 1, 0x0, 64, 0x40, .hi, some 5, false, [
    ⟨HIF_RING_BASE_HI_BASE, .rw, .val 0, .idle⟩]⟩]

/-- Field maps of the HIF block, part 2. -/
def regsHif2 : List RegD := [
  ⟨HIF_RING_CFG 0, 1, 0x0, 64, 0x40, .one, some 2, false, [
    ⟨HIF_RING_CFG_EN, .rw, .val 0, .imm⟩,
    ⟨HIF_RING_CFG_HEAD_ERR, .w1c, .val 0, .imm⟩,
    ⟨HIF_RING_CFG_LOG2_SLOTS, .rw, .val 12, .idle⟩]⟩,
  ⟨HIF_RING_PERM 0, 1, 0x0, 64, 0x40, .one, none, false, [
    ⟨HIF_RING_PERM_VALID, .ro, .umpire, .none⟩,
    ⟨HIF_RING_PERM_PART, .ro, .umpire, .none⟩]⟩,
  ⟨HIF_RING_TAIL 0, 1, 0x0, 64, 0x40, .one, none, false, [
    ⟨HIF_RING_TAIL_TAIL, .ro, .val 0, .none⟩]⟩,
  ⟨HIF_RING_HEAD 0, 1, 0x0, 64, 0x40, .one, none, false, [
    ⟨HIF_RING_HEAD_HEAD, .rw, .val 0, .imm⟩]⟩,
  ⟨HIF_RING_IRQ 0, 1, 0x0, 64, 0x40, .one, none, false, [
    ⟨HIF_RING_IRQ_TIME_US, .rw, .val 50, .imm⟩,
    ⟨HIF_RING_IRQ_COUNT, .rw, .val 1, .imm⟩]⟩,
  ⟨HIF_RING_VEC 0, 1, 0x0, 64, 0x40, .one, none, false, [
    ⟨HIF_RING_VEC_VEC, .rw, .idx, .imm⟩]⟩,
  ⟨HIF_RING_HELD 0, 1, 0x0, 64, 0x40, .one, none, false, [
    ⟨HIF_RING_HELD_HELD_KIB, .ro, .val 0, .none⟩]⟩]

def regsHif : List RegD := regsHif1 ++ regsHif2

/-- Field maps of the ETH block, part 1. -/
def regsEth1 : List RegD := [
  ⟨ETH_CFG, 1, 0x0, 1, 0x0, .one, some 0, false, [
    ⟨ETH_CFG_JUMBO, .rw, .val 0, .idle⟩,
    ⟨ETH_CFG_DIVERT, .rw, .val 1, .imm⟩,
    ⟨ETH_CFG_SEND, .rw, .val 1, .imm⟩,
    ⟨ETH_CFG_EN, .rw, .val 0, .imm⟩]⟩,
  ⟨ETH_STAT, 1, 0x0, 1, 0x0, .one, none, false, [
    ⟨ETH_STAT_LINK_UP, .ro, .val 0, .none⟩]⟩,
  ⟨ETH_WR_REJECT, 1, 0x0, 1, 0x0, .one, none, false, [
    ⟨ETH_WR_REJECT_REJECT, .w1c, .val 0, .imm⟩]⟩,
  ⟨ETH_MAC_LO, 1, 0x0, 1, 0x0, .lo, none, false, [
    ⟨ETH_MAC_LO_MAC, .rw, .otp, .idle⟩]⟩,
  ⟨ETH_MAC_HI, 1, 0x0, 1, 0x0, .hi, some 1, false, [
    ⟨ETH_MAC_HI_MAC, .rw, .otp, .idle⟩]⟩,
  ⟨ETH_IP, 1, 0x0, 1, 0x0, .one, some 2, false, [
    ⟨ETH_IP_ETH_IP, .rw, .val 0, .idle⟩]⟩,
  ⟨ETH_DST_IP, 1, 0x0, 1, 0x0, .one, some 3, false, [
    ⟨ETH_DST_IP_DST_IP, .rw, .val 0, .idle⟩]⟩,
  ⟨ETH_DST_MAC_LO, 1, 0x0, 1, 0x0, .lo, none, false, [
    ⟨ETH_DST_MAC_LO_DST_MAC, .rw, .val 0, .idle⟩]⟩,
  ⟨ETH_DST_MAC_HI, 1, 0x0, 1, 0x0, .hi, some 4, false, [
    ⟨ETH_DST_MAC_HI_DST_MAC, .rw, .val 0, .idle⟩]⟩,
  ⟨ETH_UDP, 1, 0x0, 1, 0x0, .one, some 5, false, [
    ⟨ETH_UDP_SRC_PORT, .rw, .val 46273, .idle⟩,
    ⟨ETH_UDP_DST_PORT, .rw, .val 46273, .idle⟩]⟩,
  ⟨ETH_TX_CNT, 1, 0x0, 1, 0x0, .one, none, true, [
    ⟨ETH_TX_CNT_RECORDS, .ro, .val 0, .none⟩]⟩,
  ⟨ETH_DIVERT_CNT, 1, 0x0, 1, 0x0, .one, none, true, [
    ⟨ETH_DIVERT_CNT_DIVERTED, .ro, .val 0, .none⟩]⟩,
  ⟨ETH_DROP_CNT, 1, 0x0, 1, 0x0, .one, none, true, [
    ⟨ETH_DROP_CNT_ETH_DROP, .ro, .val 0, .none⟩]⟩]

def regsEth : List RegD := regsEth1

/-- Field maps of the RAS block, part 1. -/
def regsRas1 : List RegD := [
  ⟨RAS_STAT, 1, 0x0, 1, 0x0, .one, none, false, [
    ⟨RAS_STAT_DEGRADED, .ro, .val 0, .none⟩,
    ⟨RAS_STAT_SCRUB_ON, .ro, .val 1, .none⟩]⟩,
  ⟨RAS_IRQ_STAT, 1, 0x0, 1, 0x0, .one, none, false, [
    ⟨RAS_IRQ_STAT_IRQ, .w1c, .val 0, .imm⟩]⟩,
  ⟨RAS_IRQ_EN, 1, 0x0, 1, 0x0, .one, none, false, [
    ⟨RAS_IRQ_EN_IRQ_EN, .rw, .val 15, .imm⟩]⟩,
  ⟨RAS_WR_REJECT, 1, 0x0, 1, 0x0, .one, none, false, [
    ⟨RAS_WR_REJECT_REJECT, .w1c, .val 0, .imm⟩]⟩,
  ⟨RAS_SCRUB_CFG, 1, 0x0, 1, 0x0, .one, some 0, false, [
    ⟨RAS_SCRUB_CFG_DRAM_PASS_H, .rw, .val 24, .imm⟩,
    ⟨RAS_SCRUB_CFG_TILE_PASS_MS, .rw, .val 100, .imm⟩]⟩,
  ⟨RAS_CORR_LIMIT, 1, 0x0, 1, 0x0, .one, some 1, false, [
    ⟨RAS_CORR_LIMIT_CORR_PER_S, .rw, .val 1000, .imm⟩]⟩,
  ⟨RAS_TILE_CORR, 1, 0x0, 1, 0x0, .one, none, true, [
    ⟨RAS_TILE_CORR_TILE_CORR, .ro, .val 0, .none⟩]⟩,
  ⟨RAS_BUF_CORR, 1, 0x0, 1, 0x0, .one, none, true, [
    ⟨RAS_BUF_CORR_BUF_UNCORR, .ro, .val 0, .none⟩,
    ⟨RAS_BUF_CORR_BUF_CORR, .ro, .val 0, .none⟩]⟩,
  ⟨RAS_UNCORR_ADDR_LO, 1, 0x0, 1, 0x0, .lo, none, false, [
    ⟨RAS_UNCORR_ADDR_LO_ADDR, .ro, .val 0, .none⟩]⟩,
  ⟨RAS_UNCORR_ADDR_HI, 1, 0x0, 1, 0x0, .hi, none, false, [
    ⟨RAS_UNCORR_ADDR_HI_ADDR, .ro, .val 0, .none⟩]⟩,
  ⟨RAS_EVENT_SEQ, 1, 0x0, 1, 0x0, .one, none, false, [
    ⟨RAS_EVENT_SEQ_SEQ, .ro, .val 0, .none⟩]⟩,
  ⟨RAS_RESET_CAUSE, 1, 0x0, 1, 0x0, .one, none, false, [
    ⟨RAS_RESET_CAUSE_RESETS, .ro, .val 0, .none⟩,
    ⟨RAS_RESET_CAUSE_RESET_CAUSE, .ro, .val 0, .none⟩]⟩,
  ⟨RAS_COACH_WDOG, 1, 0x0, 1, 0x0, .one, none, false, [
    ⟨RAS_COACH_WDOG_WDOG_US, .ro, .umpire, .none⟩]⟩,
  ⟨RAS_DRAM_CORR 0, 1, 0x0, 8, 0x10, .one, none, true, [
    ⟨RAS_DRAM_CORR_CORR, .ro, .val 0, .none⟩]⟩,
  ⟨RAS_DRAM_ERR 0, 1, 0x0, 8, 0x10, .one, none, true, [
    ⟨RAS_DRAM_ERR_UNCORR, .ro, .val 0, .none⟩,
    ⟨RAS_DRAM_ERR_TIMEOUT_CNT, .ro, .val 0, .none⟩]⟩]

def regsRas : List RegD := regsRas1

/-- Field maps of the SNP block, part 1. -/
def regsSnp1 : List RegD := [
  ⟨SNP_CTL, 1, 0x0, 1, 0x0, .one, some 0, false, [
    ⟨SNP_CTL_OUT_EN, .rw, .val 0, .imm⟩,
    ⟨SNP_CTL_TIME_EN, .rw, .val 0, .imm⟩,
    ⟨SNP_CTL_PIN_EN, .rw, .val 0, .imm⟩,
    ⟨SNP_CTL_TRIGGER, .wo, .val 0, .imm⟩,
    ⟨SNP_CTL_ARM, .w1s, .val 0, .imm⟩]⟩,
  ⟨SNP_STAT, 1, 0x0, 1, 0x0, .one, none, false, [
    ⟨SNP_STAT_CAUSE, .ro, .val 0, .none⟩,
    ⟨SNP_STAT_VALID, .ro, .val 0, .none⟩,
    ⟨SNP_STAT_BUSY, .ro, .val 0, .none⟩,
    ⟨SNP_STAT_ARMED, .ro, .val 0, .none⟩]⟩,
  ⟨SNP_IRQ_STAT, 1, 0x0, 1, 0x0, .one, none, false, [
    ⟨SNP_IRQ_STAT_IRQ, .w1c, .val 0, .imm⟩]⟩,
  ⟨SNP_IRQ_EN, 1, 0x0, 1, 0x0, .one, none, false, [
    ⟨SNP_IRQ_EN_IRQ_EN, .rw, .val 1, .imm⟩]⟩,
  ⟨SNP_FAULT_MASK, 1, 0x0, 1, 0x0, .one, none, false, [
    ⟨SNP_FAULT_MASK_FAULT_MASK, .rw, .val 0, .imm⟩]⟩,
  ⟨SNP_TIME_CMP_LO, 1, 0x0, 1, 0x0, .lo, none, false, [
    ⟨SNP_TIME_CMP_LO_TIME_CMP, .rw, .val 0, .imm⟩]⟩,
  ⟨SNP_TIME_CMP_HI, 1, 0x0, 1, 0x0, .hi, none, false, [
    ⟨SNP_TIME_CMP_HI_TIME_CMP, .rw, .val 0, .imm⟩]⟩,
  ⟨SNP_TRIG_STAMP_LO, 1, 0x0, 1, 0x0, .lo, none, false, [
    ⟨SNP_TRIG_STAMP_LO_TRIG_STAMP, .ro, .val 0, .none⟩]⟩,
  ⟨SNP_TRIG_STAMP_HI, 1, 0x0, 1, 0x0, .hi, none, false, [
    ⟨SNP_TRIG_STAMP_HI_TRIG_STAMP, .ro, .val 0, .none⟩]⟩,
  ⟨SNP_LOST, 1, 0x0, 1, 0x0, .one, none, true, [
    ⟨SNP_LOST_LOST_CNT, .ro, .val 0, .none⟩]⟩,
  ⟨SNP_BASE_LO, 1, 0x0, 1, 0x0, .lo, none, false, [
    ⟨SNP_BASE_LO_BASE, .ro, .umpire, .none⟩]⟩,
  ⟨SNP_BASE_HI, 1, 0x0, 1, 0x0, .hi, none, false, [
    ⟨SNP_BASE_HI_BASE, .ro, .umpire, .none⟩]⟩,
  ⟨SNP_WR_REJECT, 1, 0x0, 1, 0x0, .one, none, false, [
    ⟨SNP_WR_REJECT_REJECT, .w1c, .val 0, .imm⟩]⟩]

def regsSnp : List RegD := regsSnp1

/-- Field maps of the SYS block, part 1. -/
def regsSys1 : List RegD := [
  ⟨SYS_ID, 1, 0x0, 1, 0x0, .one, none, false, [
    ⟨SYS_ID_PART, .ro, .val 16982, .none⟩,
    ⟨SYS_ID_STEPPING, .ro, .val 161, .none⟩]⟩,
  ⟨SYS_BOOT_STAT, 1, 0x0, 1, 0x0, .one, none, false, [
    ⟨SYS_BOOT_STAT_STAGE, .ro, .val 2, .none⟩,
    ⟨SYS_BOOT_STAT_CODE, .ro, .val 0, .none⟩,
    ⟨SYS_BOOT_STAT_DETAIL, .ro, .val 0, .none⟩,
    ⟨SYS_BOOT_STAT_HUDDLE_TIMEOUT, .ro, .val 0, .none⟩,
    ⟨SYS_BOOT_STAT_COACH_SLOT, .ro, .val 0, .none⟩,
    ⟨SYS_BOOT_STAT_UMPIRE_SLOT, .ro, .val 0, .none⟩]⟩,
  ⟨SYS_WR_REJECT, 1, 0x0, 1, 0x0, .one, none, false, [
    ⟨SYS_WR_REJECT_REJECT, .w1c, .val 0, .imm⟩]⟩,
  ⟨SYS_BOOT_TIME, 1, 0x0, 1, 0x0, .one, none, false, [
    ⟨SYS_BOOT_TIME_READY_MS, .ro, .val 0, .none⟩]⟩,
  ⟨SYS_UMP_VER, 1, 0x0, 1, 0x0, .one, none, false, [
    ⟨SYS_UMP_VER_VERSION, .ro, .val 0, .none⟩]⟩,
  ⟨SYS_COACH_VER, 1, 0x0, 1, 0x0, .one, none, false, [
    ⟨SYS_COACH_VER_VERSION, .ro, .val 0, .none⟩]⟩,
  ⟨SYS_SERIAL_LO, 1, 0x0, 1, 0x0, .lo, none, false, [
    ⟨SYS_SERIAL_LO_SERIAL, .ro, .otp, .none⟩]⟩,
  ⟨SYS_SERIAL_HI, 1, 0x0, 1, 0x0, .hi, none, false, [
    ⟨SYS_SERIAL_HI_SERIAL, .ro, .otp, .none⟩]⟩,
  ⟨SYS_PWR_CTL, 1, 0x0, 1, 0x0, .one, some 0, false, [
    ⟨SYS_PWR_CTL_STANDBY, .rw, .val 0, .idle⟩]⟩,
  ⟨SYS_PWR_STAT, 1, 0x0, 1, 0x0, .one, none, false, [
    ⟨SYS_PWR_STAT_STATE, .ro, .val 2, .none⟩]⟩,
  ⟨SYS_THERM, 1, 0x0, 1, 0x0, .one, none, false, [
    ⟨SYS_THERM_TEMP_MAX, .ro, .val 128, .none⟩,
    ⟨SYS_THERM_TEMP_C, .ro, .val 0, .none⟩]⟩,
  ⟨SYS_THERM_CFG, 1, 0x0, 1, 0x0, .one, some 1, false, [
    ⟨SYS_THERM_CFG_WARN_C, .rw, .val 100, .imm⟩]⟩,
  ⟨SYS_HUDDLE_WAIT, 1, 0x0, 1, 0x0, .one, some 2, false, [
    ⟨SYS_HUDDLE_WAIT_HUDDLE_WAIT_MS, .rw, .val 500, .boot⟩]⟩,
  ⟨SYS_IRQ_STAT, 1, 0x0, 1, 0x0, .one, none, false, [
    ⟨SYS_IRQ_STAT_THERM_WARN, .w1c, .val 0, .imm⟩]⟩,
  ⟨SYS_IRQ_EN, 1, 0x0, 1, 0x0, .one, none, false, [
    ⟨SYS_IRQ_EN_IRQ_EN, .rw, .val 1, .imm⟩]⟩]

def regsSys : List RegD := regsSys1

/-- Every register of the field maps. -/
def regTable : List RegD :=
  regsLin ++ regsCal ++ regsMet ++ regsPit ++ regsPgm ++ regsTok ++ regsDec ++ regsSch ++ regsKol ++ regsTim ++ regsHif ++ regsEth ++ regsRas ++ regsSnp ++ regsSys

/-- The instance and array index at which offset `a` lies in register `d`, if it does (R574). -/
def RegD.hit (d : RegD) (a : Nat) : Option (Nat × Nat) :=
  let r := a - d.base
  if a < d.base then none
  else
    let i := if d.istride = 0 then 0 else r / d.istride
    let r2 := if d.istride = 0 then r else r % d.istride
    let j := if d.estride = 0 then 0 else r2 / d.estride
    if i < d.insts ∧ j < d.elems ∧ r = i * d.istride + j * d.estride then some (i, j) else none

/-- The register at offset `a` with its instance and index; none at an unassigned offset (R573). -/
def findIn : List RegD → Nat → Option (RegD × Nat × Nat)
  | [], _ => none
  | d :: t, a =>
    match d.hit a with
    | some (i, j) => some (d, i, j)
    | none => findIn t a

/-- The block of the register map that holds an offset (R572). -/
def blockRegs (a : Nat) : List RegD :=
  match a / 0x100000 with
  | 0 => regsHif
  | 1 => regsSys
  | 2 => if a < 0x280000 then regsLin else regsCal
  | 3 => regsPit
  | 4 => regsPgm
  | 5 => regsTok
  | 6 => regsDec
  | 7 => regsSch
  | 8 => regsKol
  | 9 => regsTim
  | 10 => regsMet
  | 11 => regsRas
  | 12 => regsSnp
  | 13 => regsEth
  | _ => []

/-- The register at an offset. -/
def findReg (a : Nat) : Option (RegD × Nat × Nat) := findIn (blockRegs a) a

/-- The reset value of a field (R581): OTP and Umpire values are not in the register file until kickoff writes them, and a field without a fixed value starts at 0 (log entry 3). -/
def Rst.at (r : Rst) (i j : Nat) : Nat :=
  match r with
  | .val v => v
  | .inst => i
  | .idx => j
  | _ => 0

/-- The word that fields hold, each given by `v`. -/
def packFields (fs : List FieldD) (v : FieldD → Nat) : Word :=
  fs.foldl (fun w f => fset w f.fld (v f)) 0

/-- What a register reads as right after reset. -/
def regReset (a : Nat) : Word :=
  match findReg a with
  | some (d, i, j) => packFields d.fields (fun f => f.rst.at i j)
  | none => 0

/-- The instance base of the reject register of a block (R577), for the register at offset `a`; none where R578 gives the block none. -/
def rejectReg (a : Nat) : Option Nat :=
  match a / 0x100000 with
  | 0 => some HIF_WR_REJECT
  | 1 => some SYS_WR_REJECT
  | 2 => if a < 0x240000 then some (LIN_WR_REJECT ((a - 0x200000) / 0x10000))
         else if a < 0x280000 then none
         else some (CAL_WR_REJECT ((a - 0x280000) / 0x10000))
  | 4 => some PGM_WR_REJECT
  | 5 => some TOK_WR_REJECT
  | 6 => some DEC_WR_REJECT
  | 7 => some SCH_WR_REJECT
  | 8 => if a < 0x880000 then some (KOL_WR_REJECT ((a - 0x800000) / 0x10000)) else none
  | 9 => some TIM_WR_REJECT
  | 11 => some RAS_WR_REJECT
  | 12 => some SNP_WR_REJECT
  | 13 => some ETH_WR_REJECT
  | _ => none

end Sys2Proof.Machine
end

