-- ==== Sys2Proof/Machine/State.lean ====
section
/-! DEFINITION. The state of the block as plain data, and the state right after reset.
INVENTORY.md lists every piece with the rule that names it. -/

namespace Sys2Proof.Machine

/-- The state: the commands that wait, first in first out, the engine, and Norentum, which has its own supply and reset (R137, R141). -/
structure State where
  pending : List Instr
  /-- Register file: an unlisted BAR0 offset reads as `regReset`. -/
  regs : Tbl Word
  /-- Values that wait for a LINE or ITEM boundary (R11), by register. -/
  shadow : Tbl Word
  /-- Values that wait for the next reset (R10, BOOT), by register. -/
  bootPend : Tbl Word
  /-- Low words of 64-bit pairs that wait for their high word (R5). -/
  loWord : Tbl Word
  /-- High words latched by a read of the low word (R5). -/
  hiLatch : Tbl Word
  /-- Data of the last host read. -/
  rdata : Word
  /-- MSI-X vectors sent, newest first. -/
  msix : List Nat
  /-- MSI-X vectors that PCI Express masks, and those of them that are pending (R515). -/
  msixMask : List Nat
  msixPend : List Nat
  /-- Host memory, device DRAM by visible address, tile stores by tile × 2^20 + offset. -/
  host : List Host.Cell
  dram : List Host.Cell
  tile : List Host.Cell
  /-- Retention write queue: bytes on their way to DRAM, by address, first in first out (R98, R100, R388). -/
  retQueue : List (Nat × List Byte)
  /-- Pages of the tile stores written since a checkpoint last wrote them out: logical tile × 256 + page (R224). -/
  dirty : List Nat
  /-- Counter of the model's free values (log entry 10); not the spec's. -/
  freeCtr : Nat
  /-- Nanoseconds of the timebase since power-on. -/
  tb : Nat
  /-- Item table and its free queue: entries never used start at `freeNext` (R24). -/
  items : Tbl Entry
  freeNext : Nat
  freed : List Nat
  beWait : List BeWait
  pieces : Tbl Piece
  sides : Tbl Side
  /-- Port and number of lines of a SIDE whose entry is free again, by its item ID, while a tile streams it (R267). -/
  sideEnds : Tbl (Nat × Nat)
  regions : Tbl Region
  seqs : Tbl Seq
  images : Tbl Image
  crops : List Crop
  lin : Tbl LinPort
  enc : Tbl EncSt
  bar : Tbl BarSt
  cal : Tbl CalPort
  tiles : Tbl Tile
  ptiles : Tbl PTile
  jobs : Tbl Job
  nextJob : Nat
  msgs : List Msg
  gov : Gov
  reqs : Tbl FrameReq
  nextReq : Nat
  xfers : Tbl Xfer
  nextXfer : Nat
  /-- Reference counts of frames (R310): chip frame 64 × tile + frame, DRAM frames from 2^24 on. -/
  refs : Tbl Nat
  prefixes : List Prefix
  /-- Mask cache, most recently used first, and fetches under way, by table set and MASK_ID (R339). -/
  masks : List (Nat × Nat)
  maskAsks : List (Nat × Nat)
  slices : List EmitSlice
  groups : Tbl EmitGroup
  parts : Tbl PartSt
  ctxs : Tbl Ctx
  ready : List ReadyJob
  models : List ModelRes
  playbooks : Tbl Loaded
  nextPb : Nat
  fetched : List Fetched
  hold : List Held
  rings : Tbl RingSt
  sqs : Tbl SqSt
  kol : Kol
  tim : Tim
  ras : Ras
  snp : Snp
  eth : Eth
  /-- TOKENIZE commands so far, and those whose text the assembler repaired (R335). -/
  textNo : Nat
  repairedTexts : List Nat
  /-- Measurement references that PIECEs have taken, each with the power-on of VDD_MET that it belongs to (R154). -/
  metTaken : List (Nat × Nat)
  sys : Sys
  /-- What Umpire has read of its OTP for the boot images (R555, R557). -/
  otp : BootOtp
  met : Met
  deriving DecidableEq, Repr, Inhabited

/-- Why the machine stops with a fault. -/
inductive Fault where
  /-- A scrub step names a DRAM word beyond the 64 GiB of raw DRAM (R2, R525), or a word outside the stores of the 272 tiles: a place that does not exist; raised by `execScrubStep`. Safe: nothing is claimed of what hardware without that word does. -/
  | addressHole
  deriving DecidableEq, Repr

/-- Why a command has no meaning. -/
inductive Refusal where
  /-- The command has no meaning in this model yet; raised by `exec`'s arms only. Safe: the machine stops. -/
  | notModelled (mnemonic : String)
  deriving DecidableEq, Repr

/-- The machine right after reset: no command waits, PORESET_N is asserted, VDD_MET is off, every register reads its reset value, and every table, queue and memory is empty (R24, R140, R555, R581; log entry 1). -/
def State.reset : State := { (default : State) with freeNext := 1 }

end Sys2Proof.Machine
end

