-- ==== Sys2Proof/Machine/Ops.lean ====
section
/-! DEFINITION. The named operations over the state: register file, memories, interrupts, time, free values, and the two ways a command acts: on the engine or on Norentum. -/

namespace Sys2Proof.Machine

/-- How a meaning answers. -/
abbrev Out := Host.Outcome State Fault Refusal

/-- A command of the main domain: it acts while PORESET_N is released, and it changes neither the queue nor Norentum, which no main-domain command reaches (R137, R138). -/
def State.onMain (s : State) (f : State → State) : Out :=
  if s.sys.released then .next { f s with pending := s.pending, met := s.met } else .next s

/-- A command of the main domain that may make a time step, which also reaches Norentum: `f` answers the engine and the step in units of 2^-16 ns; `g` also takes the ns for which fabric time stands still after it (R475, R477). -/
def State.onTime (s : State) (f : State → State × Int) (g : Met → Int → Nat → Met) : Out :=
  if s.sys.released then .next { (f s).1 with pending := s.pending, met := g s.met (f s).2 (f s).1.tim.stopNs } else .next s

/-- A command of Norentum: it acts while VDD_MET is on, and changes Norentum alone (R137, R141). -/
def State.onMet (s : State) (f : State → State) : Out :=
  if s.met.on then .next (let t := f s; { s with met := t.met, freeCtr := t.freeCtr }) else .next s

/-- A command of intake: it acts on the main domain, and a packet that `f` hands on reaches Norentum's own tap (R98, R139). -/
def State.onIntake {α : Type} (s : State) (f : State → State × Option α) (g : Met → α → Met) : Out :=
  if s.sys.released then .next { (f s).1 with pending := s.pending, met := (f s).2.elim s.met (g s.met) } else .next s

/-! ### The register file -/

/-- What the register file holds at a BAR0 offset. -/
def State.reg (s : State) (a : Nat) : Word :=
  match tfind s.regs a with
  | some v => v
  | none => regReset a

/-- Put a word into the register file; a word equal to the reset value needs no entry. -/
def State.setReg (s : State) (a : Nat) (v : Word) : State :=
  { s with regs := if v = regReset a then tdel s.regs a else tins s.regs a v }

/-- A field of a register. -/
def State.fld (s : State) (a : Nat) (f : Fld) : Nat := fget (s.reg a) f

/-- A one-bit field as a Boolean. -/
def State.on (s : State) (a : Nat) (f : Fld) : Bool := s.fld a f != 0

/-- Set a field of a register. -/
def State.setFld (s : State) (a : Nat) (f : Fld) (v : Nat) : State := s.setReg a (fset (s.reg a) f v)

/-- Set a one-bit field from a Boolean. -/
def State.setBit (s : State) (a : Nat) (f : Fld) (b : Bool) : State := s.setFld a f (b2n b)

/-- Add to a counter field that saturates at its largest value. -/
def State.incFld (s : State) (a : Nat) (f : Fld) (n : Nat := 1) : State :=
  s.setFld a f (min (s.fld a f + n) (fmax f))

/-- Add to a counter field that wraps. -/
def State.addWrap (s : State) (a : Nat) (f : Fld) (n : Nat := 1) : State :=
  s.setFld a f (s.fld a f + n)

/-- A whole register as a number. -/
def State.num (s : State) (a : Nat) : Nat := (s.reg a).toNat

/-- Set a whole register from a number. -/
def State.setNum (s : State) (a : Nat) (v : Nat) : State := s.setReg a (BitVec.ofNat 32 v)

/-- Add to a 32-bit counter register that saturates. -/
def State.incReg (s : State) (a : Nat) (n : Nat := 1) : State :=
  s.setNum a (min (s.num a + n) 0xFFFFFFFF)

/-- A 64-bit quantity in two registers, low word first (R5). -/
def State.pair (s : State) (lo : Nat) : Nat := s.num lo + 2 ^ 32 * s.num (lo + 4)

/-- Set both words of a 64-bit quantity. -/
def State.setPair (s : State) (lo : Nat) (v : Nat) : State :=
  (s.setNum lo v).setNum (lo + 4) (v / 2 ^ 32)

/-- READY (R517). -/
def State.isReady (s : State) : Bool := s.on HIF_STAT HIF_STAT_READY

/-- The engine is in STANDBY (R563, R564). -/
def State.standby (s : State) : Bool := s.fld SYS_PWR_STAT SYS_PWR_STAT_STATE == 4

/-- A host access to BAR0 that needs READY: before it the access has no effect, and a read returns 0 (R559). -/
def State.onHost (s : State) (f : State → State) : Out :=
  s.onMain (fun s => if s.isReady then f s else { s with rdata := 0 })

/-! ### Interrupts (R8, R515) -/

/-- Index b of the vector register of the block that holds an offset; SYS shares vector 0 (R572). -/
def irqIndex (a : Nat) : Nat :=
  match a / 0x100000 with
  | 0 => 0 | 1 => 0
  | 2 => if a < 0x280000 then 1 else 2
  | 3 => 3 | 4 => 4 | 5 => 5 | 6 => 6 | 7 => 7 | 8 => 8 | 9 => 9
  | 11 => 10 | 12 => 11 | _ => 12

/-- The interrupt condition of an instance, by the offset of its IRQ_STAT; IRQ_EN is the next word (R515). -/
def State.irqCond (s : State) (stat : Nat) : Bool := s.reg stat &&& s.reg (stat + 4) != 0

/-- Send the message of an MSI-X vector; a vector that PCI Express masks becomes pending instead (R515; log entry 97). -/
def State.message (s : State) (vec : Nat) : State :=
  if s.msixMask.contains vec then { s with msixPend := if s.msixPend.contains vec then s.msixPend else vec :: s.msixPend } else { s with msix := vec :: s.msix }

/-- Send the MSI-X message of the block that holds an offset. -/
def State.sendIrq (s : State) (stat : Nat) : State := s.message (s.fld (HIF_IRQ_VEC (irqIndex stat)) HIF_IRQ_VEC_VEC)

/-- Set bit `i` of an IRQ_STAT register; one message when the condition becomes true. -/
def State.raise (s : State) (stat i : Nat) : State :=
  let t := s.setReg stat (s.reg stat ||| BitVec.ofNat 32 (2 ^ i))
  if !s.irqCond stat && t.irqCond stat then t.sendIrq stat else t

/-- Set bit `i` of a write-reject register (R577). -/
def State.reject (s : State) (a i : Nat) : State :=
  s.setReg a (s.reg a ||| BitVec.ofNat 32 (2 ^ i))

/-! ### Memories -/

/-- Bytes of host memory. -/
def State.hread (s : State) (a n : Nat) : List Byte := mread s.host a n

/-- Write bytes to host memory. -/
def State.hwrite (s : State) (a : Nat) (l : List Byte) : State := { s with host := mwrite s.host a l }

/-- Bytes of device DRAM that are visible: 56 GiB (R525). -/
def dramBytes : Nat := 56 * 2 ^ 30

/-- DRAM once the retention writes that wait have been made, as far as it reaches: they go first among DRAM requests (R100; log entry 84). -/
def State.dramNow (s : State) : List Host.Cell × Checks := s.retQueue.foldl (fun m w => codeWrite m.1 m.2 w.1 (w.2.take (dramBytes - w.1))) (s.dram, s.ras.chk)

/-- Bytes of DRAM as a read delivers them (R526). -/
def State.dread (s : State) (a n : Nat) : List Byte := mread (delivered s.dramNow.1 s.dramNow.2) a n

/-- Bad words that a read of DRAM meets. -/
def State.dramBad (s : State) (a n : Nat) : List Nat := badWords s.dramNow.1 s.dramNow.2 a n RsRead.bad

/-- A correction is counted for this second (R527). -/
def State.countCorr (s : State) (k : Nat) : State := { s with ras := { s.ras with second := tput s.ras.second k (tget 0 s.ras.second k + 1) } }

/-- Raw address of a visible DRAM address (R525). -/
def rawAddr (a : Nat) : Nat := a / 224 * 256 + a % 224

/-- The words that a read of DRAM corrects are counted for their channels (R526, R527). -/
def State.readFixed (s : State) (a n : Nat) : State :=
  if s.ras.chk = [] then s
  else (badWords s.dramNow.1 s.dramNow.2 a n RsRead.fixed).foldl (fun s w => let ch := (Config.dramChannel (rawAddr (32 * w) / 32)).val; (s.incReg (RAS_DRAM_CORR ch)).countCorr ch) s

/-- Put bytes into device DRAM; nothing lies beyond its visible bytes (R525). -/
def State.dput (s : State) (a : Nat) (l : List Byte) : State :=
  let m := codeWrite s.dram s.ras.chk a (l.take (dramBytes - a))
  { s with dram := m.1, ras := { s.ras with chk := m.2 } }

/-- The retention write queue takes bytes for DRAM (R98, R388). -/
def State.retPush (s : State) (a : Nat) (l : List Byte) : State := if l = [] then s else { s with retQueue := s.retQueue ++ [(a, l)] }

/-- DRAM takes the first entry of the retention write queue. -/
def State.retServe (s : State) : State :=
  match s.retQueue with
  | [] => s
  | w :: t => { s with retQueue := t }.dput w.1 w.2

/-- DRAM takes everything that waits in the retention write queue: retention writes go before any other write (R100). -/
def State.retFlush (s : State) : State := s.retQueue.foldl (fun s w => s.dput w.1 w.2) { s with retQueue := [] }

/-- Write bytes to device DRAM, after the retention writes that wait (R100). -/
def State.dwrite (s : State) (a : Nat) (l : List Byte) : State := s.retFlush.dput a l

/-- The retention write queue is more than half full: regulated DRAM requests are held (R388; log entry 84). -/
def State.retHeavy (s : State) : Bool := Config.retQueueBytes < 2 * (s.retQueue.map (fun w => w.2.length)).foldl (· + ·) 0

/-- A range of whole words of DRAM takes new content, given by its bytes other than 0 as (offset, byte). -/
def State.dramFrom (s : State) (a n : Nat) (l : List Host.Cell) : State :=
  let s := s.retFlush
  { s with dram := l.foldl (fun m e => tset 0 m (a + e.1) e.2) (s.dram.filter (fun e => !(a ≤ e.1 && e.1 < a + n)))
           ras := { s.ras with chk := s.ras.chk.filter (fun e => !wordIn a n e.1) } }

/-- Place of a byte of logical tile `t`'s store (R2: 1 MiB each). -/
def tileAt (t off : Nat) : Nat := t * 0x100000 + off

/-- The tile stores as reads deliver them (R526). -/
def State.stores (s : State) : List Host.Cell := delivered s.tile s.ras.tchk

/-- Bytes of a tile store. -/
def State.tread (s : State) (t off n : Nat) : List Byte := mread s.stores (tileAt t off) n

/-- The pages that `n` bytes from an offset of a tile store touch, by their place among the pages of all tiles. -/
def pagesAt (t off n : Nat) : List Nat := if n = 0 then [] else (List.range ((off + n - 1) / 4096 + 1 - off / 4096)).map (· + (256 * t + off / 4096))

/-- Pages join a list without a repeat. -/
def addPages (l ps : List Nat) : List Nat := ps.foldl (fun l p => if l.contains p then l else p :: l) l

/-- Write bytes to a tile store; the pages touched are dirty (R224). -/
def State.twrite (s : State) (t off : Nat) (l : List Byte) : State :=
  let m := codeWrite s.tile s.ras.tchk (tileAt t off) l
  { s with tile := m.1, ras := { s.ras with tchk := m.2 }, dirty := addPages s.dirty (pagesAt t off l.length) }

/-- The tile stores hold other bytes; the words that `gone` names carry fresh check bytes. -/
def State.setStores (s : State) (m : List Host.Cell) (gone : Nat → Bool) : State := { s with tile := m, ras := { s.ras with tchk := s.ras.tchk.filter (fun e => !gone e.1) } }

/-! ### Time -/

/-- Fabric time now (R461). -/
def State.now (s : State) : Stamp := s.tim.now

/-- The 48-bit nanosecond part of a stamp (R16). -/
def ns48 (t : Stamp) : Nat := t.toNat / 65536

/-- A full stamp from nanoseconds. -/
def stampOf (ns : Nat) : Stamp := BitVec.ofNat 64 (ns * 65536)

/-- Signed difference of two full stamps in units of 2^-16 ns (R462). -/
def stampDiff (a b : Stamp) : Int := sdiff 64 a.toNat b.toNat

/-- Signed difference of two stamp48 values in ns (R462). -/
def nsDiff (a b : Nat) : Int := sdiff 48 a b

/-- Whether fabric time has reached a stamp48 moment. -/
def State.reached (s : State) (ns : Nat) : Bool := decide (0 ≤ nsDiff (ns48 s.now) ns)

/-- The time of the timebase at a stamp not after now. -/
def State.tbAt (s : State) (stamp : Stamp) : Nat := s.tb - (stampDiff s.now stamp / 65536).toNat

/-! ### Free values -/

/-- A fresh value that the manual leaves open, and the state with the counter advanced (log entry 10). -/
def State.free (s : State) : Nat × State :=
  (Config.freeValue s.freeCtr, { s with freeCtr := s.freeCtr + 1 })

/-- Fresh values that the manual leaves open, `n` of them. -/
def State.frees (s : State) (n : Nat) : List Nat × State :=
  ((List.range n).map (fun i => Config.freeValue (s.freeCtr + i)), { s with freeCtr := s.freeCtr + n })

/-! ### Small helpers -/

/-- Apply a change for every element of a list, in order. -/
def forEach {α β : Type} (l : List α) (f : β → α → β) (s : β) : β := l.foldl f s

/-- Apply a change only when a condition holds. -/
def State.when (s : State) (c : Bool) (f : State → State) : State := if c then f s else s

/-- Device address of the engine, if one is assigned (R441). -/
def State.addr? (s : State) : Option Nat :=
  if s.on KOL_STAT KOL_STAT_ADDR_VALID then some (s.fld KOL_STAT KOL_STAT_ADDR) else none

end Sys2Proof.Machine
end

