-- ==== Sys2Proof/Machine/Real.lean ====
section
/-! DEFINITION. Real functions to many bits by integer arithmetic in units of 2^-256, for results that the spec rounds once (R150, and the tables of the Pitch). -/

namespace Sys2Proof.Machine

/-- The unit of the fixed-point numbers of this file. -/
def fixOne : Nat := 2 ^ 256

/-- Integer square root, bit by bit from bit `b` downward. -/
def isqrtFrom : Nat → Nat → Nat → Nat
  | 0, n, r => if (r + 1) * (r + 1) ≤ n then r + 1 else r
  | b + 1, n, r =>
    let r' := r + 2 ^ (b + 1)
    isqrtFrom b n (if r' * r' ≤ n then r' else r)

/-- Integer square root of a number below 2^1200. -/
def isqrt (n : Nat) : Nat := isqrtFrom 600 n 0

/-- The series of atan of a fixed-point number: term `k` of `n` terms. -/
def atanSeries (x2 : Int) : Nat → Nat → Int → Int
  | 0, _, _ => 0
  | n + 1, k, p => p / (2 * k + 1 : Int) + atanSeries x2 n (k + 1) (-(p * x2 / (fixOne : Int)))

/-- atan of a small fixed-point number. -/
def atanSmall (x : Int) : Int := atanSeries (x * x / (fixOne : Int)) 130 0 x

/-- Half the angle: x / (1 + sqrt(1 + x²)). -/
def atanHalf (x : Nat) : Nat := x * fixOne / (fixOne + isqrt (fixOne * fixOne + x * x))

/-- Pi, by Machin's formula. -/
def fixPi : Int := 16 * atanSmall ((fixOne / 5 : Nat) : Int) - 4 * atanSmall ((fixOne / 239 : Nat) : Int)

/-- atan of a fixed-point number from 0 to 1. -/
def atanUnit (x : Nat) : Int := 8 * atanSmall ((atanHalf (atanHalf (atanHalf x)) : Nat) : Int)

/-- A rational as a fixed-point number, rounded down. -/
def ratFix (r : Rat) : Int := r.num * (fixOne : Int) / (r.den : Int)

/-- atan of a rational, in units of 2^-256. -/
def atanFix (r : Rat) : Int :=
  let a := if r < 0 then -r else r
  let v := if a ≤ 1 then atanUnit (ratFix a).toNat
           else fixPi / 2 - atanUnit (ratFix (1 / a)).toNat
  if r < 0 then -v else v

/-- atan of a rational in thousandths of a degree, rounded to nearest (R150). -/
def atanMdeg (r : Rat) : Int :=
  let v := atanFix r * 180000
  (2 * v + fixPi) / (2 * fixPi)

/-- Round a rational to the nearest integer, ties to even. -/
def roundEven (r : Rat) : Int := divEven r.num r.den

/-- The integer part of a rational toward minus infinity. -/
def ratFloor (r : Rat) : Int := r.num / (r.den : Int)

end Sys2Proof.Machine
end

