-- ==== Sys2Proof/Machine/Num.lean ====
section
/-! DEFINITION. Number formats of the Pitch, exact sums with their window and flags, the single rounding, and the ROM tables (R171-R190, R277, R283, R286). -/

namespace Sys2Proof.Machine

/-- A value of a format: NaN, an infinity with its sign, or an exact number. The sign of a zero affects no result (R173, R186, R255). -/
inductive FVal where
  | nan
  | inf (neg : Bool)
  | fin (q : Rat)
  deriving DecidableEq, Repr, Inhabited

/-- 2^e. -/
def pow2 (e : Int) : Rat := if 0 ≤ e then ((2 ^ e.toNat : Nat) : Rat) else 1 / ((2 ^ (-e).toNat : Nat) : Rat)

/-! ### Format codes (R171, R177, R178) -/

/-- Bits of an element. -/
def fmtBits (f : Nat) : Nat :=
  match f with
  | 0x0 => 4 | 0x1 => 4 | 0x2 => 8 | 0x3 => 8 | 0x4 => 16 | 0x5 => 32 | 0x6 => 8 | 0x7 => 8 | 0x8 => 16 | 0x9 => 16 | 0xA => 32
  | 0xB => 8 | 0xC => 4 | 0xD => 16 | 0xE => 256
  | _ => 0

/-- Bytes of `n` elements, packed (R172). -/
def fmtBytes (f n : Nat) : Nat := cdiv (fmtBits f * n) 8

/-- MX formats (R174). -/
def fmtMx (f : Nat) : Bool := f = 0xB || f = 0xC

/-- Formats of a multiply operand (R177). -/
def fmtMul (f : Nat) : Bool := f ≤ 4 || (6 ≤ f && f ≤ 0xD)

/-- Lane class: 0 for 4-bit, 1 for 8-bit, 2 for 16-bit integer, 3 for FP16, 4 for FP32 (R178). -/
def fmtClass (f : Nat) : Nat :=
  match f with
  | 0x0 => 0 | 0x1 => 0 | 0xC => 0
  | 0x2 => 1 | 0x3 => 1 | 0x6 => 1 | 0x7 => 1 | 0xB => 1
  | 0x4 => 2 | 0xD => 2
  | 0x8 => 3 | 0x9 => 3
  | _ => 4

/-- Products per output lane per step of the wider class of two formats (R178). -/
def laneRate (a b : Nat) : Nat :=
  match max (fmtClass a) (fmtClass b) with
  | 0 => 32 | 1 => 16 | 2 => 8 | 3 => 4
  | _ => 1

/-! ### Decoding -/

/-- A binary format's value: `eb` exponent bits, `mb` mantissa bits, the bias; `ieee` where an all-ones exponent is special. -/
def decFloat (eb mb bias : Nat) (ieee : Bool) (w : Nat) : FVal :=
  let m := w % 2 ^ mb
  let e := w / 2 ^ mb % 2 ^ eb
  let neg := bit w (eb + mb)
  if ieee && e = 2 ^ eb - 1 then (if m = 0 then .inf neg else .nan)
  else
    let q := if e = 0 then pow2 (1 - (bias : Int) - mb) * m else pow2 ((e : Int) - bias - mb) * (2 ^ mb + m : Nat)
    .fin (if neg then -q else q)

/-- The value of an element of a format, an MX element without its scale (R171, R175). -/
def decElem (f w : Nat) : FVal :=
  match f with
  | 0x0 => .fin (sgn 4 w)
  | 0x1 => .fin (w % 16 : Nat)
  | 0x2 => .fin (sgn 8 w)
  | 0x3 => .fin (w % 256 : Nat)
  | 0x4 => .fin (sgn 16 w)
  | 0x5 => .fin (sgn 32 w)
  | 0x6 => if w % 128 = 127 then .nan else decFloat 4 3 7 false w
  | 0x7 => decFloat 5 2 15 true w
  | 0x8 => decFloat 5 10 15 true w
  | 0x9 => decFloat 8 7 127 true w
  | 0xA => decFloat 8 23 127 true w
  | 0xB => .fin (sgn 8 w / 64)
  | 0xC => decFloat 2 1 1 false w
  | 0xD => .fin ((w % 4096 : Nat) / 4096)
  | _ => .nan

/-- An element times its MX block scale; scale 0xFF makes it NaN (R174). -/
def mxScaled (scale : Nat) (v : FVal) : FVal :=
  if scale % 256 = 255 then .nan
  else match v with
    | .fin q => .fin (q * pow2 ((scale % 256 : Nat) - 127 : Int))
    | x => x

/-- FP32 bits as a value. -/
def fp32 (w : Nat) : FVal := decElem 0xA w

/-! ### Rounding (R186) -/

/-- floor(log2 |q|) of a nonzero number. -/
def ilog2 (q : Rat) : Int :=
  let n := q.num.natAbs
  let d := q.den
  let k : Int := (Nat.log2 n : Int) - Nat.log2 d
  if pow2 k ≤ (if q < 0 then -q else q) then k else k - 1

/-- Mantissa and exponent of |q| rounded to `mb` fraction bits, exponents not below `emin`, to nearest with ties to even. -/
def roundMant (mb : Nat) (emin : Int) (q : Rat) : Nat × Int :=
  let a := if q < 0 then -q else q
  let e := max (ilog2 q) emin - mb
  ((roundEven (a * pow2 (-e))).toNat, e)

/-- A number rounded to a binary format with unbounded range. -/
def roundTo (mb : Nat) (emin : Int) (q : Rat) : Rat :=
  if q = 0 then 0
  else
    let (m, e) := roundMant mb emin q
    (if q < 0 then -1 else 1) * (m : Rat) * pow2 e

/-- FP32 to nearest, ties to even. -/
def round32 (q : Rat) : Rat := roundTo 23 (-126) q

/-- What is written for a value: its bits, what it adds to SAT_CNT, and what it adds to NAN_INT_CNT (R188). -/
structure Enc where
  bits : Nat
  sat : Nat
  nanInt : Nat
  deriving DecidableEq, Repr, Inhabited

/-- Parameters of a binary format: exponent bits, mantissa bits, bias, bits of the largest finite value. -/
def floatPar (f : Nat) : Nat × Nat × Nat × Nat :=
  match f with
  | 0x6 => (4, 3, 7, 0x7E)
  | 0x7 => (5, 2, 15, 0x7B)
  | 0x8 => (5, 10, 15, 0x7BFF)
  | 0x9 => (8, 7, 127, 0x7F7F)
  | _ => (8, 23, 127, 0x7F7FFFFF)

/-- NaN of a binary format (R188). -/
def floatNan (f : Nat) : Nat :=
  match f with
  | 0x6 => 0x7F
  | 0x7 => 0x7E
  | 0x8 => 0x7E00
  | 0x9 => 0x7FC0
  | _ => 0x7FC00000

/-- Encode into a binary format (R186, R188; log entry 35). -/
def encFloat (f : Nat) (satEn : Bool) (v : FVal) : Enc :=
  let (eb, mb, bias, big) := floatPar f
  let sign (neg : Bool) : Nat := if neg then 2 ^ (eb + mb) else 0
  let infBits := (2 ^ eb - 1) * 2 ^ mb
  match v with
  | .nan => ⟨floatNan f, 0, 0⟩
  | .inf neg => if f = 0x6 then ⟨sign neg + big, 1, 0⟩ else ⟨sign neg + infBits, 0, 0⟩
  | .fin q =>
    if q = 0 then ⟨0, 0, 0⟩
    else
      let emin : Int := 1 - (bias : Int)
      let (m, e) := roundMant mb emin q
      let b := (e - (emin - mb)).toNat * 2 ^ mb + m
      let s := sign (q < 0)
      if b ≤ big then ⟨s + b, 0, 0⟩
      else if f = 0x6 || satEn then ⟨s + big, 1, 0⟩
      else ⟨s + infBits, 0, 0⟩

/-- Limits of an integer or UQ12 output in units of its last place, and that unit as a power of two. -/
def intPar (f : Nat) : Int × Int × Int :=
  match f with
  | 0x0 => (-8, 7, 0)
  | 0x1 => (0, 15, 0)
  | 0x2 => (-128, 127, 0)
  | 0x3 => (0, 255, 0)
  | 0x4 => (-32768, 32767, 0)
  | 0x5 => (-2147483648, 2147483647, 0)
  | _ => (0, 4095, -12)

/-- Encode into an integer format or UQ12 (R186, R188; log entry 35). -/
def encInt (f : Nat) (v : FVal) : Enc :=
  let (lo, hi, u) := intPar f
  let w (i : Int) : Nat := uns (fmtBits f) i
  match v with
  | .nan => ⟨0, 1, 1⟩
  | .inf neg => ⟨w (if neg then lo else hi), 1, 0⟩
  | .fin q =>
    let i := roundEven (q * pow2 (-u))
    if i < lo then ⟨w lo, 1, 0⟩ else if hi < i then ⟨w hi, 1, 0⟩ else ⟨w i, 0, 0⟩

/-- Encode into a format that is neither MX nor EXACT. -/
def encElem (f : Nat) (satEn : Bool) (v : FVal) : Enc :=
  if f ≤ 5 || f = 0xD then encInt f v else encFloat f satEn v

/-! ### MX outputs (R189) -/

/-- Magnitude of a finite value. -/
def FVal.mag : FVal → Rat
  | .fin q => if q < 0 then -q else q
  | _ => 0

/-- Whether a value is NaN or infinite. -/
def FVal.special : FVal → Bool
  | .fin _ => false
  | _ => true

/-- Scale of a block. -/
def mxBlockScale (f : Nat) (vs : List FVal) : Nat :=
  if vs.any FVal.special then 255
  else
    let m := (vs.map FVal.mag).foldl max 0
    if m = 0 then 0
    else (min 254 (max 0 (ilog2 m - (if f = 0xC then 2 else 0) + 127))).toNat

/-- An element of a block with scale `e`: its bits and whether it saturated. -/
def mxElem (f e : Nat) (v : FVal) : Enc :=
  match v with
  | .fin q =>
    if f = 0xB then
      let i := roundEven (q * pow2 (133 - (e : Int)))
      if i < -128 then ⟨128, 1, 0⟩ else if 127 < i then ⟨127, 1, 0⟩ else ⟨uns 8 i, 0, 0⟩
    else
      let x := q * pow2 (127 - (e : Int))
      if x = 0 then ⟨0, 0, 0⟩
      else
        let (m, k) := roundMant 1 0 x
        let b := (k + 1).toNat * 2 + m
        let s := if x < 0 then 8 else 0
        if b ≤ 7 then ⟨s + b, 0, 0⟩ else ⟨s + 7, 1, 0⟩
  | _ => ⟨0, 0, 0⟩

/-- A block: its scale and its elements. -/
def mxBlock (f : Nat) (vs : List FVal) : Nat × List Enc :=
  let e := mxBlockScale f vs
  (e, vs.map (fun v => if e = 255 then ⟨0, 0, 0⟩ else mxElem f e v))

/-! ### Exact sums (R176, R180-R190) -/

/-- An output lane: the exact sum of its finite terms, its flags, ROUNDED from an EXACT input, and whether a term missed the window. -/
structure Lane where
  q : Rat
  nan : Bool
  pinf : Bool
  ninf : Bool
  rnd : Bool
  miss : Bool
  deriving DecidableEq, Repr, Inhabited

/-- An empty lane. -/
def Lane.zero : Lane := ⟨0, false, false, false, false, false⟩

/-- A finite term that misses the window (R181). -/
def missed (wbase : Int) (q : Rat) : Bool :=
  q ≠ 0 && ((q * pow2 (-wbase)).den ≠ 1 || pow2 (wbase + 100) ≤ (if q < 0 then -q else q))

/-- Add a product or a bias element to a lane (R180, R187). -/
def Lane.add (wbase : Int) (a : Lane) : FVal → Lane
  | .nan => { a with nan := true }
  | .inf true => { a with ninf := true }
  | .inf false => { a with pinf := true }
  | .fin q => { a with q := a.q + q, miss := a.miss || missed wbase q }

/-- Add an EXACT input (R187, R190). -/
def Lane.addExact (wbase : Int) (a b : Lane) : Lane :=
  { q := a.q + b.q, nan := a.nan || b.nan, pinf := a.pinf || b.pinf, ninf := a.ninf || b.ninf, rnd := a.rnd || b.rnd
    miss := a.miss || missed wbase b.q }

/-- A product (R177, R187). Infinity times infinity, for which R187 has no row, gives an infinity by the sign of the product (DESIGN CHOICE, log entry 36). -/
def fmul : FVal → FVal → FVal
  | .nan, _ => .nan
  | _, .nan => .nan
  | .fin a, .fin b => .fin (a * b)
  | .inf n, .inf m => .inf (n != m)
  | .inf n, .fin b => if b = 0 then .nan else .inf (n != decide (b < 0))
  | .fin a, .inf n => if a = 0 then .nan else .inf (n != decide (a < 0))

/-- A sum of two values by the flags of R187. -/
def fadd : FVal → FVal → FVal
  | .nan, _ => .nan
  | _, .nan => .nan
  | .fin a, .fin b => .fin (a + b)
  | .inf n, .inf m => if n = m then .inf n else .nan
  | .inf n, .fin _ => .inf n
  | .fin _, .inf n => .inf n

/-- A value times a power of two. -/
def fshift (k : Int) : FVal → FVal
  | .fin q => .fin (q * pow2 k)
  | x => x

/-- A full-width sum of 2^319 or more is an infinity (R183). -/
def Lane.wide (a : Lane) : Lane :=
  if pow2 319 ≤ a.q then { a with q := 0, pinf := true }
  else if a.q ≤ -pow2 319 then { a with q := 0, ninf := true } else a

/-- The value of a lane (R187). -/
def Lane.val (a : Lane) : FVal :=
  if a.nan || (a.pinf && a.ninf) then .nan else if a.pinf then .inf false else if a.ninf then .inf true else .fin a.q

/-- The lane times 2^k (R185, R284, R288). -/
def Lane.scale (k : Int) (a : Lane) : Lane := { a with q := a.q * pow2 k }

/-- Trailing zero bits of a nonzero number, at most `n`. -/
def lowBit : Nat → Nat → Nat
  | 0, _ => 0
  | n + 1, x => if x % 2 = 1 then 0 else 1 + lowBit n (x / 2)

/-- The 32 bytes of an EXACT element (R176, R190), and whether it was rounded here: a value that fits at no base, a quotient that no power of two divides among them, is rounded once to 127 significant bits. W is the sum of the finite terms, with the flags beside it (log entry 36). A weight outside the -320 to 192 that R176 gives BASE, on which R176 and R190 do not agree, is written as BASE all the same (DESIGN CHOICE, log entry 36). -/
def Lane.encode (wbase : Int) (a : Lane) : List Byte × Bool :=
  let w0 := a.q * pow2 (-wbase)
  let flags (r : Bool) := b2n (a.nan || (a.pinf && a.ninf)) + 2 * b2n a.pinf + 4 * b2n a.ninf + 8 * b2n (a.rnd || r)
  let out (w base : Int) (r : Bool) : List Byte × Bool :=
    (leBytes 16 (uns 128 w) ++ leBytes 2 (uns 16 base) ++ leBytes 1 (flags r) ++ zeros 13, r)
  if w0.den = 1 && w0.num.natAbs < 2 ^ 127 then out w0.num wbase false
  else
    let n := a.q.num.natAbs
    let base : Int := (lowBit 4096 n : Int) - Nat.log2 a.q.den
    let w := a.q * pow2 (-base)
    if w.den = 1 && w.num.natAbs < 2 ^ 127 then out w.num base false
    else
      let (m, e) := roundMant 126 (-100000) a.q
      let (m, e) := if m = 2 ^ 127 then (2 ^ 126, e + 1) else (m, e)
      out (if a.q < 0 then -(m : Int) else m) e true

/-- An EXACT element read from its bytes (R176). -/
def Lane.decode (l : List Byte) : Lane :=
  let f := leAt l 18 1
  { q := (sgn 128 (leAt l 0 16) : Rat) * pow2 (sgn 16 (leAt l 16 2)), nan := bit f 0, pinf := bit f 1, ninf := bit f 2, rnd := bit f 3, miss := false }

/-! ### ROM tables -/

/-- LOG2E: log2(e) rounded to FP32 (R343). -/
def log2e : Rat := 12102203 / 8388608

/-- 2^(2^-i) in units of 2^-256. -/
def rootTwo : Nat → Nat
  | 0 => 2 * fixOne
  | i + 1 => isqrt (rootTwo i * fixOne)

/-- 2^(k / 65,536) in units of 2^-256, by the bits of k from the one of weight 2^-i on. -/
def expFix (k : Nat) : Nat → Nat → Nat → Nat → Nat
  | 0, _, _, acc => acc
  | n + 1, i, root, acc =>
    let r := isqrt (root * fixOne)
    expFix k n (i + 1) r (if bit k (15 - i) then acc * r / fixOne else acc)

/-- The table of R283: 2^(k / 65,536) × 1,024 rounded to 11 bits. -/
def expTab (k : Nat) : Nat :=
  (roundEven (((expFix k 16 0 (2 * fixOne) fixOne : Nat) : Rat) * 1024 / fixOne)).toNat

/-- A weight by R283 of a base-2 exponent x: (t, n) with weight t / 1,024 × 2^n, t below 2,048. -/
def expWeight (x : Rat) : Nat × Int :=
  let n := ratFloor x
  let k := (ratFloor ((x - n) * 65536)).toNat
  let t := expTab k
  if t = 2048 then (1024, n + 1) else (t, n)

/-- Taylor series: the sum of alternating terms from `term` on, each the one before times x² / ((k + 1)(k + 2)). -/
def trigSeries (x2 : Nat) : Nat → Nat → Nat → Int → Int
  | 0, _, _, _ => 0
  | n + 1, k, term, sign => sign * term + trigSeries x2 n (k + 2) (term * x2 / fixOne / ((k + 1) * (k + 2))) (-sign)

/-- The angle 2πk / 65,536 in units of 2^-256. -/
def turnFix (k : Nat) : Nat := (2 * fixPi).toNat * k / 65536

/-- cos of 2πj / 65,536 for j from 0 to 16,384, as FP32. -/
def cosQuad (j : Nat) : Rat :=
  if j = 16384 then 0
  else
    let fixed := if j ≤ 8192 then
        let x := turnFix j
        trigSeries (x * x / fixOne) 60 0 fixOne 1
      else
        let x := turnFix (16384 - j)
        trigSeries (x * x / fixOne) 60 1 x 1
    round32 ((fixed : Rat) / fixOne)

/-- COS_T[k] (R277). -/
def cosT (k : Nat) : Rat :=
  let j := k % 16384
  match k / 16384 % 4 with
  | 0 => cosQuad j
  | 1 => -cosQuad (16384 - j)
  | 2 => -cosQuad j
  | _ => cosQuad (16384 - j)

/-- SIN_T[k] (R277). -/
def sinT (k : Nat) : Rat := cosT (k + 49152)

/-- 1 ÷ √r rounded to FP32 (R286), of a positive r. -/
def rsqrt32 (r : Rat) : Rat :=
  let s : Int := 64 + (ilog2 r) / 2
  let x := pow2 (2 * s) / r
  let f := (ratFloor x).toNat
  let q := isqrt f
  let sticky : Nat := if ((q * q : Nat) : Rat) = x then 0 else 1
  round32 ((2 * q + sticky : Nat) * pow2 (-s - 1))

/-- rsqrt_rn of a positive r as FP32: an infinity where the rounded value lies beyond the largest finite one (R286). -/
def rsqrtVal (r : Rat) : FVal := let q := rsqrt32 r; if pow2 128 ≤ q then .inf false else .fin q

end Sys2Proof.Machine
end

