-- ==== Sys2Proof/Machine/TSets.lean ====
section
/-! DEFINITION. Tables that a playbook carries in a printed layout: table sets of the token unit with their limits and orderings (R331-R337, R350; log entries 6 and 82), and cyclic tables (R391). -/

namespace Sys2Proof.Machine

/-! ### Layouts -/

/-- Entry `k` of a table of entries of `n` bytes. -/
def entryAt (l : List Byte) (n k : Nat) : List Byte := (l.drop (n * k)).take n

/-- Entry `k` of table `t`, also beyond its end (log entry 82). -/
def entryOr (t : Nat) (l : List Byte) (n k : Nat) : List Byte := if n * (k + 1) ≤ l.length then entryAt l n k else Config.beyondTable t k

/-- A table as the list of its entries of `n` bytes. -/
def entriesOf (n : Nat) (l : List Byte) : List (List Byte) := (List.range (l.length / n)).map (entryAt l n)

/-- A merge entry (R333): LEFT [63:48], RIGHT [47:32], RANK [31:16], RESULT [15:0]. -/
def mergeEntry (b : List Byte) : MergeEnt := { left := leAt b 6 2, right := leAt b 4 2, rank := leAt b 2 2, result := leAt b 0 2 }

/-- A detokeniser entry with its bytes of the pool (R331): OFFSET, LEN, SPECIAL. -/
def detokEntry (pool b : List Byte) : Detok := { bytes := (pool.drop (leAt b 0 4)).take (leAt b 4 1), special := bit (leAt b 5 1) 0 }

/-- A fold entry (R334): FROM [23:0] and N [25:24] of bytes 0-3, then N code points of 4 bytes. -/
def foldEntry (b : List Byte) : FoldEnt :=
  { src := leAt b 0 4 % 2 ^ 24, dst := (List.range (leAt b 0 4 / 2 ^ 24 % 4)).map (fun k => leAt b (4 + 4 * k) 4) }

/-- A transition (R336): TOKEN [15:0], NEXT [35:16]. -/
def transEntry (b : List Byte) : Trans := { token := leAt b 0 2, next := leAt b 2 3 % 2 ^ 20 }

/-- A grammar state with its transitions, TRANS_N of them from TRANS_BASE on (R336). -/
def stateEntry (trans b : List Byte) : GState :=
  { maskId := leAt b 0 2 % 2 ^ 14, fieldId := leAt b 2 2, dflt := leAt b 10 3 % 2 ^ 20, accept := bit (leAt b 13 1) 0, tag := leAt b 14 2,
    trans := (List.range (leAt b 8 2)).map (fun k => transEntry (entryOr 2 trans 8 (leAt b 4 4 + k))) }

/-- A field table entry (R350): TYPE, REQUIRED, THRESHOLD. -/
def fieldEntryOf (id : Nat) (b : List Byte) : FieldEnt := { id := id, typ := leAt b 0 1, required := bit (leAt b 1 1) 0, threshold := leAt b 2 2 }

/-- Bytes of a mask over a vocabulary of `v` tokens (R331). -/
def maskBytes (v : Nat) : Nat := cdiv v 256 * 32

/-- A table set, its tables read. -/
def TSetImage.read (t : TSetImage) : TSet :=
  { v := t.v, eos := t.eos, norm := t.norm, foldEn := t.foldEn, hb := t.hb
    byteMap := (entriesOf 2 t.byteMap).map leNat
    merges := (entriesOf 8 t.merges).map mergeEntry
    detok := (entriesOf 8 t.detok).map (detokEntry t.pool)
    folds := t.folds.map (fun f => (entriesOf 16 f).map foldEntry)
    states := (entriesOf 16 t.states).map (stateEntry t.trans)
    masks := entriesOf (maskBytes t.v) t.masks
    fields := t.fieldIds.zipWith fieldEntryOf (entriesOf 8 t.fields) }

/-- A grammar state of a table set, also beyond its table (log entry 82). -/
def TSet.stateAt (t : TSet) (k : Nat) : GState := (t.states[k]?).getD (stateEntry [] (Config.beyondTable 1 k))

/-- A mask of a table set, also beyond its table (log entry 82). -/
def TSet.maskAt (t : TSet) (k : Nat) : List Byte := (t.masks[k]?).getD (Config.beyondTable 3 k)

/-- The entry of a FIELD_ID, also of one the field table does not have (log entry 82). -/
def TSet.fieldAt (t : TSet) (id : Nat) : FieldEnt := (t.fields.find? (fun f => f.id == id)).getD (fieldEntryOf id (Config.beyondTable 4 id))

/-! ### Cyclic tables (R391) -/

/-- A cyclic table: its header, then NSLOT slots of 8 bytes (R391). -/
def readTable (b : List Byte) : CycTable :=
  { id := leAt b 4 2, major := leAt b 0 2, vgroups := leAt b 6 1
    slots := (List.range (leAt b 2 2)).map (fun i => { start := leAt b (8 + 8 * i) 2, len := leAt b (10 + 8 * i) 2, ctx := leAt b (12 + 8 * i) 2 % 4096 }) }

/-- A table has all its slots, and its reserved bits are 0 (R391). -/
def tableBytesOk (b : List Byte) : Bool :=
  b.length == 8 + 8 * leAt b 2 2 && leAt b 7 1 == 0 && (List.range (leAt b 2 2)).all (fun i => leAt b (12 + 8 * i) 2 < 4096 && leAt b (14 + 8 * i) 2 == 0)

/-- The cyclic tables of a playbook. -/
def Playbook.cyclic (p : Playbook) : List CycTable := p.tables.map readTable

/-! ### Limits and orderings (R331) -/

/-- A list of numbers rises strictly. -/
def rising : List Nat → Bool
  | a :: b :: t => a < b && rising (b :: t)
  | _ => true

/-- A list has no repeats. -/
def distinct {α : Type} [DecidableEq α] : List α → Bool
  | [] => true
  | a :: t => !t.contains a && distinct t

/-- The bits of an entry that are 0: from bit `i`, `n` of them. -/
def zeroBits (b : List Byte) (i n : Nat) : Bool := leNat b / 2 ^ i % 2 ^ n == 0

/-- The real entries of a merge table (R333). -/
def TSet.realMerges (t : TSet) : List MergeEnt := t.merges.filter (fun e => e.rank != 0xFFFF)

/-- A grammar state keeps its order, and allows EOS only when it accepts (R331, R337). -/
def GState.ok (t : TSet) (g : GState) : Bool :=
  rising (g.trans.map (·.token)) && (g.accept || !bit (((t.maskAt g.maskId).getD (t.eos / 8) 0).toNat) (t.eos % 8))

/-- A mask of a vocabulary of `v` tokens has no token from `v` on (R337). -/
def maskOk (v : Nat) (m : List Byte) : Bool := (List.range (m.length * 8 - v)).all (fun k => !bit ((m.getD ((v + k) / 8) 0).toNat) ((v + k) % 8))

/-- The tables have whole entries, as many as R331 allows, whose fixed bits are 0. -/
def TSetImage.tablesOk (t : TSetImage) : Bool :=
  t.byteMap.length == 512 && t.merges.length == 8 * 2 ^ t.hb && t.detok.length == 8 * t.v && t.folds.length ≤ 4
    && t.folds.all (fun f => f.length % 16 == 0 && f.length ≤ 16 * 65536)
    && t.states.length % 16 == 0 && t.states.length ≤ 16 * 262144 && t.trans.length % 8 == 0 && t.trans.length ≤ 8 * 16777216
    && t.masks.length % maskBytes t.v == 0 && t.masks.length ≤ 16384 * maskBytes t.v
    && t.fields.length % 8 == 0 && t.fields.length ≤ 8 * 1024 && t.fieldIds.length == t.fields.length / 8
    && (entriesOf 8 t.detok).all (fun b => leAt b 4 1 ≤ 32 && zeroBits b 48 16 && leAt b 0 4 + leAt b 4 1 ≤ t.pool.length)
    && (entriesOf 16 t.states).all (fun b => zeroBits b 14 2 && zeroBits b 100 4 && zeroBits b 105 7)
    && (entriesOf 8 t.trans).all (fun b => zeroBits b 36 28)
    && (entriesOf 8 t.fields).all (fun b => zeroBits b 32 32)

/-- A table set keeps every limit and ordering (R331, R332, R337, R350). -/
def TSetImage.ok (t : TSetImage) : Bool :=
  let r := t.read
  inside t.v 1 65536 && t.eos < t.v && t.norm ≤ 2 && t.foldEn < 16 && inside t.hb 8 17 && t.tablesOk
    && (r.detok.getD t.eos default).special && r.byteMap.all (· < t.v) && distinct (r.realMerges.map (fun e => (e.left, e.right)))
    && r.folds.all (fun f => rising (f.map (·.src))) && r.states.all (GState.ok r) && r.masks.all (maskOk t.v)
    && r.fields.all (fun f => inside f.typ 1 5) && distinct t.fieldIds

end Sys2Proof.Machine
end

