-- ==== Sys2Proof/Machine/UnicodeData.lean ====
section
/-! DEFINITION. The data of the Unicode Standard, version 15.1.0, that normalisation needs (R333): decomposition mappings, composition exclusions and combining classes.
PRESUMED: the data come from the Unicode Character Database, which the manual names and does not print (log entry 8). -/

namespace Sys2Proof.Machine

/-- Decomposition mappings: per run of code points the first, how many, 32 × kind + length, and the mapping of the first, whose one code point rises by 1 along a longer run; kind 0 canonical, 1 canonical and excluded from composition, 2 compatibility; numbers of 24 bits, the first highest, part 0. -/
def decompRows0 : List Nat := [
  0xa00000010000410000200000a80000010000420000200003080000aa0000010000410000610000af0000010000420000200003040000b20000020000410000320000b40000010000420000200003010000b50000010000410003bc0000b80000010000420000200003270000b90000010000410000310000ba00000100004100006f0000bc0000010000430000310020440000340000bd0000010000430000310020440000320000be0000010000430000330020440000340000c00000010000020000410003000000c10000010000020000410003010000c20000010000020000410003020000c30000010000020000410003030000c40000010000020000410003080000c500000100000200004100030a0000c70000010000020000430003270000c80000010000020000450003000000c90000010000020000450003010000ca0000010000020000450003020000cb0000010000020000450003080000cc0000010000020000490003000000cd0000010000020000490003010000ce0000010000020000490003020000cf0000010000020000490003080000d100000100000200004e0003030000d200000100000200004f0003000000d300000100000200004f0003010000d400000100000200004f0003020000d500000100000200004f0003030000d600000100000200004f0003080000d90000010000020000550003000000da0000010000020000550003010000db0000010000020000550003020000dc0000010000020000550003080000dd0000010000020000590003010000e0000001000002000061000300,
  0xe10000010000020000610003010000e20000010000020000610003020000e30000010000020000610003030000e40000010000020000610003080000e500000100000200006100030a0000e70000010000020000630003270000e80000010000020000650003000000e90000010000020000650003010000ea0000010000020000650003020000eb0000010000020000650003080000ec0000010000020000690003000000ed0000010000020000690003010000ee0000010000020000690003020000ef0000010000020000690003080000f100000100000200006e0003030000f200000100000200006f0003000000f300000100000200006f0003010000f400000100000200006f0003020000f500000100000200006f0003030000f600000100000200006f0003080000f90000010000020000750003000000fa0000010000020000750003010000fb0000010000020000750003020000fc0000010000020000750003080000fd0000010000020000790003010000ff00000100000200007900030800010000000100000200004100030400010100000100000200006100030400010200000100000200004100030600010300000100000200006100030600010400000100000200004100032800010500000100000200006100032800010600000100000200004300030100010700000100000200006300030100010800000100000200004300030200010900000100000200006300030200010a00000100000200004300030700010b00000100000200006300030700010c00000100000200004300030c00010d00000100000200006300030c,
  0x10e00000100000200004400030c00010f00000100000200006400030c00011200000100000200004500030400011300000100000200006500030400011400000100000200004500030600011500000100000200006500030600011600000100000200004500030700011700000100000200006500030700011800000100000200004500032800011900000100000200006500032800011a00000100000200004500030c00011b00000100000200006500030c00011c00000100000200004700030200011d00000100000200006700030200011e00000100000200004700030600011f00000100000200006700030600012000000100000200004700030700012100000100000200006700030700012200000100000200004700032700012300000100000200006700032700012400000100000200004800030200012500000100000200006800030200012800000100000200004900030300012900000100000200006900030300012a00000100000200004900030400012b00000100000200006900030400012c00000100000200004900030600012d00000100000200006900030600012e00000100000200004900032800012f00000100000200006900032800013000000100000200004900030700013200000100004200004900004a00013300000100004200006900006a00013400000100000200004a00030200013500000100000200006a00030200013600000100000200004b00032700013700000100000200006b00032700013900000100000200004c00030100013a00000100000200006c00030100013b00000100000200004c000327,
  0x13c00000100000200006c00032700013d00000100000200004c00030c00013e00000100000200006c00030c00013f00000100004200004c0000b700014000000100004200006c0000b700014300000100000200004e00030100014400000100000200006e00030100014500000100000200004e00032700014600000100000200006e00032700014700000100000200004e00030c00014800000100000200006e00030c0001490000010000420002bc00006e00014c00000100000200004f00030400014d00000100000200006f00030400014e00000100000200004f00030600014f00000100000200006f00030600015000000100000200004f00030b00015100000100000200006f00030b00015400000100000200005200030100015500000100000200007200030100015600000100000200005200032700015700000100000200007200032700015800000100000200005200030c00015900000100000200007200030c00015a00000100000200005300030100015b00000100000200007300030100015c00000100000200005300030200015d00000100000200007300030200015e00000100000200005300032700015f00000100000200007300032700016000000100000200005300030c00016100000100000200007300030c00016200000100000200005400032700016300000100000200007400032700016400000100000200005400030c00016500000100000200007400030c00016800000100000200005500030300016900000100000200007500030300016a00000100000200005500030400016b000001000002000075000304,
  0x16c00000100000200005500030600016d00000100000200007500030600016e00000100000200005500030a00016f00000100000200007500030a00017000000100000200005500030b00017100000100000200007500030b00017200000100000200005500032800017300000100000200007500032800017400000100000200005700030200017500000100000200007700030200017600000100000200005900030200017700000100000200007900030200017800000100000200005900030800017900000100000200005a00030100017a00000100000200007a00030100017b00000100000200005a00030700017c00000100000200007a00030700017d00000100000200005a00030c00017e00000100000200007a00030c00017f0000010000410000730001a000000100000200004f00031b0001a100000100000200006f00031b0001af00000100000200005500031b0001b000000100000200007500031b0001c400000100004200004400017d0001c500000100004200004400017e0001c600000100004200006400017e0001c700000100004200004c00004a0001c800000100004200004c00006a0001c900000100004200006c00006a0001ca00000100004200004e00004a0001cb00000100004200004e00006a0001cc00000100004200006e00006a0001cd00000100000200004100030c0001ce00000100000200006100030c0001cf00000100000200004900030c0001d000000100000200006900030c0001d100000100000200004f00030c0001d200000100000200006f00030c0001d300000100000200005500030c,
  0x1d400000100000200007500030c0001d50000010000020000dc0003040001d60000010000020000fc0003040001d70000010000020000dc0003010001d80000010000020000fc0003010001d90000010000020000dc00030c0001da0000010000020000fc00030c0001db0000010000020000dc0003000001dc0000010000020000fc0003000001de0000010000020000c40003040001df0000010000020000e40003040001e00000010000020002260003040001e10000010000020002270003040001e20000010000020000c60003040001e30000010000020000e60003040001e600000100000200004700030c0001e700000100000200006700030c0001e800000100000200004b00030c0001e900000100000200006b00030c0001ea00000100000200004f0003280001eb00000100000200006f0003280001ec0000010000020001ea0003040001ed0000010000020001eb0003040001ee0000010000020001b700030c0001ef00000100000200029200030c0001f000000100000200006a00030c0001f100000100004200004400005a0001f200000100004200004400007a0001f300000100004200006400007a0001f40000010000020000470003010001f50000010000020000670003010001f800000100000200004e0003000001f900000100000200006e0003000001fa0000010000020000c50003010001fb0000010000020000e50003010001fc0000010000020000c60003010001fd0000010000020000e60003010001fe0000010000020000d80003010001ff0000010000020000f800030100020000000100000200004100030f,
  0x20100000100000200006100030f00020200000100000200004100031100020300000100000200006100031100020400000100000200004500030f00020500000100000200006500030f00020600000100000200004500031100020700000100000200006500031100020800000100000200004900030f00020900000100000200006900030f00020a00000100000200004900031100020b00000100000200006900031100020c00000100000200004f00030f00020d00000100000200006f00030f00020e00000100000200004f00031100020f00000100000200006f00031100021000000100000200005200030f00021100000100000200007200030f00021200000100000200005200031100021300000100000200007200031100021400000100000200005500030f00021500000100000200007500030f00021600000100000200005500031100021700000100000200007500031100021800000100000200005300032600021900000100000200007300032600021a00000100000200005400032600021b00000100000200007400032600021e00000100000200004800030c00021f00000100000200006800030c00022600000100000200004100030700022700000100000200006100030700022800000100000200004500032700022900000100000200006500032700022a0000010000020000d600030400022b0000010000020000f600030400022c0000010000020000d500030400022d0000010000020000f500030400022e00000100000200004f00030700022f00000100000200006f00030700023000000100000200022e000304,
  0x23100000100000200022f0003040002320000010000020000590003040002330000010000020000790003040002b00000010000410000680002b10000010000410002660002b200000100004100006a0002b30000010000410000720002b40000010000410002790002b500000100004100027b0002b60000010000410002810002b70000010000410000770002b80000010000410000790002d80000010000420000200003060002d90000010000420000200003070002da00000100004200002000030a0002db0000010000420000200003280002dc0000010000420000200003030002dd00000100004200002000030b0002e00000010000410002630002e100000100004100006c0002e20000010000410000730002e30000010000410000780002e40000010000410002950003400000020000210003000003430000010000210003130003440000010000220003080003010003740000010000210002b900037a00000100004200002000034500037e00000100002100003b0003840000010000420000200003010003850000010000020000a80003010003860000010000020003910003010003870000010000210000b700038800000100000200039500030100038900000100000200039700030100038a00000100000200039900030100038c00000100000200039f00030100038e0000010000020003a500030100038f0000010000020003a90003010003900000010000020003ca0003010003aa0000010000020003990003080003ab0000010000020003a50003080003ac0000010000020003b1000301,
  0x3ad0000010000020003b50003010003ae0000010000020003b70003010003af0000010000020003b90003010003b00000010000020003cb0003010003ca0000010000020003b90003080003cb0000010000020003c50003080003cc0000010000020003bf0003010003cd0000010000020003c50003010003ce0000010000020003c90003010003d00000010000410003b20003d10000010000410003b80003d20000010000410003a50003d30000010000020003d20003010003d40000010000020003d20003080003d50000010000410003c60003d60000010000410003c00003f00000010000410003ba0003f10000020000410003c10003f40000010000410003980003f50000010000410003b50003f90000010000410003a300040000000100000200041500030000040100000100000200041500030800040300000100000200041300030100040700000100000200040600030800040c00000100000200041a00030100040d00000100000200041800030000040e00000100000200042300030600041900000100000200041800030600043900000100000200043800030600045000000100000200043500030000045100000100000200043500030800045300000100000200043300030100045700000100000200045600030800045c00000100000200043a00030100045d00000100000200043800030000045e00000100000200044300030600047600000100000200047400030f00047700000100000200047500030f0004c10000010000020004160003060004c20000010000020004360003060004d0000001000002000410000306,
  0x4d10000010000020004300003060004d20000010000020004100003080004d30000010000020004300003080004d60000010000020004150003060004d70000010000020004350003060004da0000010000020004d80003080004db0000010000020004d90003080004dc0000010000020004160003080004dd0000010000020004360003080004de0000010000020004170003080004df0000010000020004370003080004e20000010000020004180003040004e30000010000020004380003040004e40000010000020004180003080004e50000010000020004380003080004e600000100000200041e0003080004e700000100000200043e0003080004ea0000010000020004e80003080004eb0000010000020004e90003080004ec00000100000200042d0003080004ed00000100000200044d0003080004ee0000010000020004230003040004ef0000010000020004430003040004f00000010000020004230003080004f10000010000020004430003080004f200000100000200042300030b0004f300000100000200044300030b0004f40000010000020004270003080004f50000010000020004470003080004f800000100000200042b0003080004f900000100000200044b00030800058700000100004200056500058200062200000100000200062700065300062300000100000200062700065400062400000100000200064800065400062500000100000200062700065500062600000100000200064a0006540006750000010000420006270006740006760000010000420006480006740006770000010000420006c7000674,
  0x67800000100004200064a0006740006c00000010000020006d50006540006c20000010000020006c10006540006d30000010000020006d200065400092900000100000200092800093c00093100000100000200093000093c00093400000100000200093300093c00095800000100002200091500093c00095900000100002200091600093c00095a00000100002200091700093c00095b00000100002200091c00093c00095c00000100002200092100093c00095d00000100002200092200093c00095e00000100002200092b00093c00095f00000100002200092f00093c0009cb0000010000020009c70009be0009cc0000010000020009c70009d70009dc0000010000220009a10009bc0009dd0000010000220009a20009bc0009df0000010000220009af0009bc000a33000001000022000a32000a3c000a36000001000022000a38000a3c000a59000001000022000a16000a3c000a5a000001000022000a17000a3c000a5b000001000022000a1c000a3c000a5e000001000022000a2b000a3c000b48000001000002000b47000b56000b4b000001000002000b47000b3e000b4c000001000002000b47000b57000b5c000001000022000b21000b3c000b5d000001000022000b22000b3c000b94000001000002000b92000bd7000bca000001000002000bc6000bbe000bcb000001000002000bc7000bbe000bcc000001000002000bc6000bd7000c48000001000002000c46000c56000cc0000001000002000cbf000cd5000cc7000001000002000cc6000cd5000cc8000001000002000cc6000cd6000cca000001000002000cc6000cc2,
  0xccb000001000002000cca000cd5000d4a000001000002000d46000d3e000d4b000001000002000d47000d3e000d4c000001000002000d46000d57000dda000001000002000dd9000dca000ddc000001000002000dd9000dcf000ddd000001000002000ddc000dca000dde000001000002000dd9000ddf000e33000001000042000e4d000e32000eb3000001000042000ecd000eb2000edc000001000042000eab000e99000edd000001000042000eab000ea1000f0c000001000041000f0b000f43000001000022000f42000fb7000f4d000001000022000f4c000fb7000f52000001000022000f51000fb7000f57000001000022000f56000fb7000f5c000001000022000f5b000fb7000f69000001000022000f40000fb5000f73000001000022000f71000f72000f75000001000022000f71000f74000f76000001000022000fb2000f80000f77000001000042000fb2000f81000f78000001000022000fb3000f80000f79000001000042000fb3000f81000f81000001000022000f71000f80000f93000001000022000f92000fb7000f9d000001000022000f9c000fb7000fa2000001000022000fa1000fb7000fa7000001000022000fa6000fb7000fac000001000022000fab000fb7000fb9000001000022000f90000fb500102600000100000200102500102e0010fc0000010000410010dc001b06000001000002001b05001b35001b08000001000002001b07001b35001b0a000001000002001b09001b35001b0c000001000002001b0b001b35001b0e000001000002001b0d001b35001b12000001000002001b11001b35,
  0x1b3b000001000002001b3a001b35001b3d000001000002001b3c001b35001b40000001000002001b3e001b35001b41000001000002001b3f001b35001b43000001000002001b42001b35001d2c000001000041000041001d2d0000010000410000c6001d2e000001000041000042001d30000002000041000044001d3200000100004100018e001d33000008000041000047001d3c00000100004100004f001d3d000001000041000222001d3e000001000041000050001d3f000001000041000052001d40000002000041000054001d42000001000041000057001d43000001000041000061001d44000002000041000250001d46000001000041001d02001d47000001000041000062001d48000002000041000064001d4a000001000041000259001d4b00000200004100025b001d4d000001000041000067001d4f00000100004100006b001d5000000100004100006d001d5100000100004100014b001d5200000100004100006f001d53000001000041000254001d54000002000041001d16001d56000001000041000070001d57000002000041000074001d59000001000041001d1d001d5a00000100004100026f001d5b000001000041000076001d5c000001000041001d25001d5d0000030000410003b2001d600000020000410003c6001d62000001000041000069001d63000001000041000072001d64000002000041000075001d660000020000410003b2001d680000010000410003c1001d690000020000410003c6001d7800000100004100043d001d9b000001000041000252001d9c000001000041000063,
  0x1d9d000001000041000255001d9e0000010000410000f0001d9f00000100004100025c001da0000001000041000066001da100000100004100025f001da2000001000041000261001da3000001000041000265001da4000003000041000268001da7000001000041001d7b001da800000100004100029d001da900000100004100026d001daa000001000041001d85001dab00000100004100029f001dac000001000041000271001dad000001000041000270001dae000004000041000272001db2000001000041000278001db3000002000041000282001db50000010000410001ab001db6000002000041000289001db8000001000041001d1c001db900000200004100028b001dbb00000100004100007a001dbc000003000041000290001dbf0000010000410003b8001e00000001000002000041000325001e01000001000002000061000325001e02000001000002000042000307001e03000001000002000062000307001e04000001000002000042000323001e05000001000002000062000323001e06000001000002000042000331001e07000001000002000062000331001e080000010000020000c7000301001e090000010000020000e7000301001e0a000001000002000044000307001e0b000001000002000064000307001e0c000001000002000044000323001e0d000001000002000064000323001e0e000001000002000044000331001e0f000001000002000064000331001e10000001000002000044000327001e11000001000002000064000327001e1200000100000200004400032d001e1300000100000200006400032d,
  0x1e14000001000002000112000300001e15000001000002000113000300001e16000001000002000112000301001e17000001000002000113000301001e1800000100000200004500032d001e1900000100000200006500032d001e1a000001000002000045000330001e1b000001000002000065000330001e1c000001000002000228000306001e1d000001000002000229000306001e1e000001000002000046000307001e1f000001000002000066000307001e20000001000002000047000304001e21000001000002000067000304001e22000001000002000048000307001e23000001000002000068000307001e24000001000002000048000323001e25000001000002000068000323001e26000001000002000048000308001e27000001000002000068000308001e28000001000002000048000327001e29000001000002000068000327001e2a00000100000200004800032e001e2b00000100000200006800032e001e2c000001000002000049000330001e2d000001000002000069000330001e2e0000010000020000cf000301001e2f0000010000020000ef000301001e3000000100000200004b000301001e3100000100000200006b000301001e3200000100000200004b000323001e3300000100000200006b000323001e3400000100000200004b000331001e3500000100000200006b000331001e3600000100000200004c000323001e3700000100000200006c000323001e38000001000002001e36000304001e39000001000002001e37000304001e3a00000100000200004c000331001e3b00000100000200006c000331,
  0x1e3c00000100000200004c00032d001e3d00000100000200006c00032d001e3e00000100000200004d000301001e3f00000100000200006d000301001e4000000100000200004d000307001e4100000100000200006d000307001e4200000100000200004d000323001e4300000100000200006d000323001e4400000100000200004e000307001e4500000100000200006e000307001e4600000100000200004e000323001e4700000100000200006e000323001e4800000100000200004e000331001e4900000100000200006e000331001e4a00000100000200004e00032d001e4b00000100000200006e00032d001e4c0000010000020000d5000301001e4d0000010000020000f5000301001e4e0000010000020000d5000308001e4f0000010000020000f5000308001e5000000100000200014c000300001e5100000100000200014d000300001e5200000100000200014c000301001e5300000100000200014d000301001e54000001000002000050000301001e55000001000002000070000301001e56000001000002000050000307001e57000001000002000070000307001e58000001000002000052000307001e59000001000002000072000307001e5a000001000002000052000323001e5b000001000002000072000323001e5c000001000002001e5a000304001e5d000001000002001e5b000304001e5e000001000002000052000331001e5f000001000002000072000331001e60000001000002000053000307001e61000001000002000073000307001e62000001000002000053000323001e63000001000002000073000323,
  0x1e6400000100000200015a000307001e6500000100000200015b000307001e66000001000002000160000307001e67000001000002000161000307001e68000001000002001e62000307001e69000001000002001e63000307001e6a000001000002000054000307001e6b000001000002000074000307001e6c000001000002000054000323001e6d000001000002000074000323001e6e000001000002000054000331001e6f000001000002000074000331001e7000000100000200005400032d001e7100000100000200007400032d001e72000001000002000055000324001e73000001000002000075000324001e74000001000002000055000330001e75000001000002000075000330001e7600000100000200005500032d001e7700000100000200007500032d001e78000001000002000168000301001e79000001000002000169000301001e7a00000100000200016a000308001e7b00000100000200016b000308001e7c000001000002000056000303001e7d000001000002000076000303001e7e000001000002000056000323001e7f000001000002000076000323001e80000001000002000057000300001e81000001000002000077000300001e82000001000002000057000301001e83000001000002000077000301001e84000001000002000057000308001e85000001000002000077000308001e86000001000002000057000307001e87000001000002000077000307001e88000001000002000057000323001e89000001000002000077000323001e8a000001000002000058000307001e8b000001000002000078000307,
  0x1e8c000001000002000058000308001e8d000001000002000078000308001e8e000001000002000059000307001e8f000001000002000079000307001e9000000100000200005a000302001e9100000100000200007a000302001e9200000100000200005a000323001e9300000100000200007a000323001e9400000100000200005a000331001e9500000100000200007a000331001e96000001000002000068000331001e97000001000002000074000308001e9800000100000200007700030a001e9900000100000200007900030a001e9a0000010000420000610002be001e9b00000100000200017f000307001ea0000001000002000041000323001ea1000001000002000061000323001ea2000001000002000041000309001ea3000001000002000061000309001ea40000010000020000c2000301001ea50000010000020000e2000301001ea60000010000020000c2000300001ea70000010000020000e2000300001ea80000010000020000c2000309001ea90000010000020000e2000309001eaa0000010000020000c2000303001eab0000010000020000e2000303001eac000001000002001ea0000302001ead000001000002001ea1000302001eae000001000002000102000301001eaf000001000002000103000301001eb0000001000002000102000300001eb1000001000002000103000300001eb2000001000002000102000309001eb3000001000002000103000309001eb4000001000002000102000303001eb5000001000002000103000303001eb6000001000002001ea0000306001eb7000001000002001ea1000306,
  0x1eb8000001000002000045000323001eb9000001000002000065000323001eba000001000002000045000309001ebb000001000002000065000309001ebc000001000002000045000303001ebd000001000002000065000303001ebe0000010000020000ca000301001ebf0000010000020000ea000301001ec00000010000020000ca000300001ec10000010000020000ea000300001ec20000010000020000ca000309001ec30000010000020000ea000309001ec40000010000020000ca000303001ec50000010000020000ea000303001ec6000001000002001eb8000302001ec7000001000002001eb9000302001ec8000001000002000049000309001ec9000001000002000069000309001eca000001000002000049000323001ecb000001000002000069000323001ecc00000100000200004f000323001ecd00000100000200006f000323001ece00000100000200004f000309001ecf00000100000200006f000309001ed00000010000020000d4000301001ed10000010000020000f4000301001ed20000010000020000d4000300001ed30000010000020000f4000300001ed40000010000020000d4000309001ed50000010000020000f4000309001ed60000010000020000d4000303001ed70000010000020000f4000303001ed8000001000002001ecc000302001ed9000001000002001ecd000302001eda0000010000020001a0000301001edb0000010000020001a1000301001edc0000010000020001a0000300001edd0000010000020001a1000300001ede0000010000020001a0000309001edf0000010000020001a1000309,
  0x1ee00000010000020001a0000303001ee10000010000020001a1000303001ee20000010000020001a0000323001ee30000010000020001a1000323001ee4000001000002000055000323001ee5000001000002000075000323001ee6000001000002000055000309001ee7000001000002000075000309001ee80000010000020001af000301001ee90000010000020001b0000301001eea0000010000020001af000300001eeb0000010000020001b0000300001eec0000010000020001af000309001eed0000010000020001b0000309001eee0000010000020001af000303001eef0000010000020001b0000303001ef00000010000020001af000323001ef10000010000020001b0000323001ef2000001000002000059000300001ef3000001000002000079000300001ef4000001000002000059000323001ef5000001000002000079000323001ef6000001000002000059000309001ef7000001000002000079000309001ef8000001000002000059000303001ef9000001000002000079000303001f000000010000020003b1000313001f010000010000020003b1000314001f02000001000002001f00000300001f03000001000002001f01000300001f04000001000002001f00000301001f05000001000002001f01000301001f06000001000002001f00000342001f07000001000002001f01000342001f08000001000002000391000313001f09000001000002000391000314001f0a000001000002001f08000300001f0b000001000002001f09000300001f0c000001000002001f08000301001f0d000001000002001f09000301]

/-- Decomposition mappings: per run of code points the first, how many, 32 × kind + length, and the mapping of the first, whose one code point rises by 1 along a longer run; kind 0 canonical, 1 canonical and excluded from composition, 2 compatibility; numbers of 24 bits, the first highest, part 1. -/
def decompRows1 : List Nat := [
  0x1f0e000001000002001f08000342001f0f000001000002001f09000342001f100000010000020003b5000313001f110000010000020003b5000314001f12000001000002001f10000300001f13000001000002001f11000300001f14000001000002001f10000301001f15000001000002001f11000301001f18000001000002000395000313001f19000001000002000395000314001f1a000001000002001f18000300001f1b000001000002001f19000300001f1c000001000002001f18000301001f1d000001000002001f19000301001f200000010000020003b7000313001f210000010000020003b7000314001f22000001000002001f20000300001f23000001000002001f21000300001f24000001000002001f20000301001f25000001000002001f21000301001f26000001000002001f20000342001f27000001000002001f21000342001f28000001000002000397000313001f29000001000002000397000314001f2a000001000002001f28000300001f2b000001000002001f29000300001f2c000001000002001f28000301001f2d000001000002001f29000301001f2e000001000002001f28000342001f2f000001000002001f29000342001f300000010000020003b9000313001f310000010000020003b9000314001f32000001000002001f30000300001f33000001000002001f31000300001f34000001000002001f30000301001f35000001000002001f31000301001f36000001000002001f30000342001f37000001000002001f31000342001f38000001000002000399000313001f39000001000002000399000314,
  0x1f3a000001000002001f38000300001f3b000001000002001f39000300001f3c000001000002001f38000301001f3d000001000002001f39000301001f3e000001000002001f38000342001f3f000001000002001f39000342001f400000010000020003bf000313001f410000010000020003bf000314001f42000001000002001f40000300001f43000001000002001f41000300001f44000001000002001f40000301001f45000001000002001f41000301001f4800000100000200039f000313001f4900000100000200039f000314001f4a000001000002001f48000300001f4b000001000002001f49000300001f4c000001000002001f48000301001f4d000001000002001f49000301001f500000010000020003c5000313001f510000010000020003c5000314001f52000001000002001f50000300001f53000001000002001f51000300001f54000001000002001f50000301001f55000001000002001f51000301001f56000001000002001f50000342001f57000001000002001f51000342001f590000010000020003a5000314001f5b000001000002001f59000300001f5d000001000002001f59000301001f5f000001000002001f59000342001f600000010000020003c9000313001f610000010000020003c9000314001f62000001000002001f60000300001f63000001000002001f61000300001f64000001000002001f60000301001f65000001000002001f61000301001f66000001000002001f60000342001f67000001000002001f61000342001f680000010000020003a9000313001f690000010000020003a9000314,
  0x1f6a000001000002001f68000300001f6b000001000002001f69000300001f6c000001000002001f68000301001f6d000001000002001f69000301001f6e000001000002001f68000342001f6f000001000002001f69000342001f700000010000020003b1000300001f710000010000210003ac001f720000010000020003b5000300001f730000010000210003ad001f740000010000020003b7000300001f750000010000210003ae001f760000010000020003b9000300001f770000010000210003af001f780000010000020003bf000300001f790000010000210003cc001f7a0000010000020003c5000300001f7b0000010000210003cd001f7c0000010000020003c9000300001f7d0000010000210003ce001f80000001000002001f00000345001f81000001000002001f01000345001f82000001000002001f02000345001f83000001000002001f03000345001f84000001000002001f04000345001f85000001000002001f05000345001f86000001000002001f06000345001f87000001000002001f07000345001f88000001000002001f08000345001f89000001000002001f09000345001f8a000001000002001f0a000345001f8b000001000002001f0b000345001f8c000001000002001f0c000345001f8d000001000002001f0d000345001f8e000001000002001f0e000345001f8f000001000002001f0f000345001f90000001000002001f20000345001f91000001000002001f21000345001f92000001000002001f22000345001f93000001000002001f23000345001f94000001000002001f24000345,
  0x1f95000001000002001f25000345001f96000001000002001f26000345001f97000001000002001f27000345001f98000001000002001f28000345001f99000001000002001f29000345001f9a000001000002001f2a000345001f9b000001000002001f2b000345001f9c000001000002001f2c000345001f9d000001000002001f2d000345001f9e000001000002001f2e000345001f9f000001000002001f2f000345001fa0000001000002001f60000345001fa1000001000002001f61000345001fa2000001000002001f62000345001fa3000001000002001f63000345001fa4000001000002001f64000345001fa5000001000002001f65000345001fa6000001000002001f66000345001fa7000001000002001f67000345001fa8000001000002001f68000345001fa9000001000002001f69000345001faa000001000002001f6a000345001fab000001000002001f6b000345001fac000001000002001f6c000345001fad000001000002001f6d000345001fae000001000002001f6e000345001faf000001000002001f6f000345001fb00000010000020003b1000306001fb10000010000020003b1000304001fb2000001000002001f70000345001fb30000010000020003b1000345001fb40000010000020003ac000345001fb60000010000020003b1000342001fb7000001000002001fb6000345001fb8000001000002000391000306001fb9000001000002000391000304001fba000001000002000391000300001fbb000001000021000386001fbc000001000002000391000345001fbd000001000042000020000313,
  0x1fbe0000010000210003b9001fbf000001000042000020000313001fc0000001000042000020000342001fc10000010000020000a8000342001fc2000001000002001f74000345001fc30000010000020003b7000345001fc40000010000020003ae000345001fc60000010000020003b7000342001fc7000001000002001fc6000345001fc8000001000002000395000300001fc9000001000021000388001fca000001000002000397000300001fcb000001000021000389001fcc000001000002000397000345001fcd000001000002001fbf000300001fce000001000002001fbf000301001fcf000001000002001fbf000342001fd00000010000020003b9000306001fd10000010000020003b9000304001fd20000010000020003ca000300001fd3000001000021000390001fd60000010000020003b9000342001fd70000010000020003ca000342001fd8000001000002000399000306001fd9000001000002000399000304001fda000001000002000399000300001fdb00000100002100038a001fdd000001000002001ffe000300001fde000001000002001ffe000301001fdf000001000002001ffe000342001fe00000010000020003c5000306001fe10000010000020003c5000304001fe20000010000020003cb000300001fe30000010000210003b0001fe40000010000020003c1000313001fe50000010000020003c1000314001fe60000010000020003c5000342001fe70000010000020003cb000342001fe80000010000020003a5000306001fe90000010000020003a5000304001fea0000010000020003a5000300,
  0x1feb00000100002100038e001fec0000010000020003a1000314001fed0000010000020000a8000300001fee000001000021000385001fef000001000021000060001ff2000001000002001f7c000345001ff30000010000020003c9000345001ff40000010000020003ce000345001ff60000010000020003c9000342001ff7000001000002001ff6000345001ff800000100000200039f000300001ff900000100002100038c001ffa0000010000020003a9000300001ffb00000100002100038f001ffc0000010000020003a9000345001ffd0000010000210000b4001ffe00000100004200002000031400200000000200002100200200200200000100004100002000200300000100004100002000200400000100004100002000200500000100004100002000200600000100004100002000200700000100004100002000200800000100004100002000200900000100004100002000200a00000100004100002000201100000100004100201000201700000100004200002000033300202400000100004100002e00202500000100004200002e00002e00202600000100004300002e00002e00002e00202f00000100004100002000203300000100004200203200203200203400000100004300203200203200203200203600000100004200203500203500203700000100004300203500203500203500203c00000100004200002100002100203e00000100004200002000030500204700000100004200003f00003f00204800000100004200003f00002100204900000100004200002100003f,
  0x205700000100004400203200203200203200203200205f00000100004100002000207000000100004100003000207100000100004100006900207400000600004100003400207a00000100004100002b00207b00000100004100221200207c00000100004100003d00207d00000200004100002800207f00000100004100006e00208000000a00004100003000208a00000100004100002b00208b00000100004100221200208c00000100004100003d00208d00000200004100002800209000000100004100006100209100000100004100006500209200000100004100006f00209300000100004100007800209400000100004100025900209500000100004100006800209600000400004100006b00209a00000100004100007000209b0000020000410000730020a800000100004200005200007300210000000100004300006100002f00006300210100000100004300006100002f0000730021020000010000410000430021030000010000420000b000004300210500000100004300006300002f00006f00210600000100004300006300002f0000750021070000010000410001900021090000010000420000b000004600210a00000100004100006700210b00000100004100004800210c00000100004100004800210d00000100004100004800210e00000100004100006800210f00000100004100012700211000000100004100004900211100000100004100004900211200000100004100004c00211300000100004100006c00211500000100004100004e00211600000100004200004e00006f002119000003000041000050,
  0x211c00000100004100005200211d00000100004100005200212000000100004200005300004d00212100000100004300005400004500004c00212200000100004200005400004d00212400000100004100005a0021260000010000210003a900212800000100004100005a00212a00000100002100004b00212b0000010000210000c500212c00000200004100004200212f00000100004100006500213000000200004100004500213300000100004100004d00213400000100004100006f0021350000040000410005d000213900000100004100006900213b00000100004300004600004100005800213c0000010000410003c000213d0000010000410003b300213e00000100004100039300213f0000010000410003a000214000000100004100221100214500000100004100004400214600000200004100006400214800000200004100006900215000000100004300003100204400003700215100000100004300003100204400003900215200000100004400003100204400003100003000215300000100004300003100204400003300215400000100004300003200204400003300215500000100004300003100204400003500215600000100004300003200204400003500215700000100004300003300204400003500215800000100004300003400204400003500215900000100004300003100204400003600215a00000100004300003500204400003600215b00000100004300003100204400003800215c00000100004300003300204400003800215d000001000043000035002044000038,
  0x215e00000100004300003700204400003800215f00000100004200003100204400216000000100004100004900216100000100004200004900004900216200000100004300004900004900004900216300000100004200004900005600216400000100004100005600216500000100004200005600004900216600000100004300005600004900004900216700000100004400005600004900004900004900216800000100004200004900005800216900000100004100005800216a00000100004200005800004900216b00000100004300005800004900004900216c00000100004100004c00216d00000200004100004300216f00000100004100004d00217000000100004100006900217100000100004200006900006900217200000100004300006900006900006900217300000100004200006900007600217400000100004100007600217500000100004200007600006900217600000100004300007600006900006900217700000100004400007600006900006900006900217800000100004200006900007800217900000100004100007800217a00000100004200007800006900217b00000100004300007800006900006900217c00000100004100006c00217d00000200004100006300217f00000100004100006d00218900000100004300003000204400003300219a00000100000200219000033800219b0000010000020021920003380021ae0000010000020021940003380021cd0000010000020021d00003380021ce0000010000020021d40003380021cf0000010000020021d2000338002204000001000002002203000338,
  0x220900000100000200220800033800220c00000100000200220b00033800222400000100000200222300033800222600000100000200222500033800222c00000100004200222b00222b00222d00000100004300222b00222b00222b00222f00000100004200222e00222e00223000000100004300222e00222e00222e00224100000100000200223c00033800224400000100000200224300033800224700000100000200224500033800224900000100000200224800033800226000000100000200003d00033800226200000100000200226100033800226d00000100000200224d00033800226e00000100000200003c00033800226f00000100000200003e00033800227000000100000200226400033800227100000100000200226500033800227400000100000200227200033800227500000100000200227300033800227800000100000200227600033800227900000100000200227700033800228000000100000200227a00033800228100000100000200227b0003380022840000010000020022820003380022850000010000020022830003380022880000010000020022860003380022890000010000020022870003380022ac0000010000020022a20003380022ad0000010000020022a80003380022ae0000010000020022a90003380022af0000010000020022ab0003380022e000000100000200227c0003380022e100000100000200227d0003380022e20000010000020022910003380022e30000010000020022920003380022ea0000010000020022b20003380022eb0000010000020022b3000338,
  0x22ec0000010000020022b40003380022ed0000010000020022b500033800232900000200002100300800246000000900004100003100246900000100004200003100003000246a00000100004200003100003100246b00000100004200003100003200246c00000100004200003100003300246d00000100004200003100003400246e00000100004200003100003500246f00000100004200003100003600247000000100004200003100003700247100000100004200003100003800247200000100004200003100003900247300000100004200003200003000247400000100004300002800003100002900247500000100004300002800003200002900247600000100004300002800003300002900247700000100004300002800003400002900247800000100004300002800003500002900247900000100004300002800003600002900247a00000100004300002800003700002900247b00000100004300002800003800002900247c00000100004300002800003900002900247d00000100004400002800003100003000002900247e00000100004400002800003100003100002900247f000001000044000028000031000032000029002480000001000044000028000031000033000029002481000001000044000028000031000034000029002482000001000044000028000031000035000029002483000001000044000028000031000036000029002484000001000044000028000031000037000029002485000001000044000028000031000038000029002486000001000044000028000031000039000029,
  0x248700000100004400002800003200003000002900248800000100004200003100002e00248900000100004200003200002e00248a00000100004200003300002e00248b00000100004200003400002e00248c00000100004200003500002e00248d00000100004200003600002e00248e00000100004200003700002e00248f00000100004200003800002e00249000000100004200003900002e00249100000100004300003100003000002e00249200000100004300003100003100002e00249300000100004300003100003200002e00249400000100004300003100003300002e00249500000100004300003100003400002e00249600000100004300003100003500002e00249700000100004300003100003600002e00249800000100004300003100003700002e00249900000100004300003100003800002e00249a00000100004300003100003900002e00249b00000100004300003200003000002e00249c00000100004300002800006100002900249d00000100004300002800006200002900249e00000100004300002800006300002900249f0000010000430000280000640000290024a00000010000430000280000650000290024a10000010000430000280000660000290024a20000010000430000280000670000290024a30000010000430000280000680000290024a40000010000430000280000690000290024a500000100004300002800006a0000290024a600000100004300002800006b0000290024a700000100004300002800006c0000290024a800000100004300002800006d000029,
  0x24a900000100004300002800006e0000290024aa00000100004300002800006f0000290024ab0000010000430000280000700000290024ac0000010000430000280000710000290024ad0000010000430000280000720000290024ae0000010000430000280000730000290024af0000010000430000280000740000290024b00000010000430000280000750000290024b10000010000430000280000760000290024b20000010000430000280000770000290024b30000010000430000280000780000290024b40000010000430000280000790000290024b500000100004300002800007a0000290024b600001a0000410000410024d000001a0000410000610024ea000001000041000030002a0c00000100004400222b00222b00222b00222b002a7400000100004300003a00003a00003d002a7500000100004200003d00003d002a7600000100004300003d00003d00003d002adc000001000022002add000338002c7c00000100004100006a002c7d000001000041000056002d6f000001000041002d61002e9f000001000041006bcd002ef3000001000041009f9f002f00000001000041004e00002f01000001000041004e28002f02000001000041004e36002f03000001000041004e3f002f04000001000041004e59002f05000001000041004e85002f06000001000041004e8c002f07000001000041004ea0002f08000001000041004eba002f0900000100004100513f002f0a000001000041005165002f0b00000100004100516b002f0c000001000041005182002f0d000001000041005196002f0e0000010000410051ab,
  0x2f0f0000010000410051e0002f100000010000410051f5002f11000001000041005200002f1200000100004100529b002f130000010000410052f9002f14000001000041005315002f1500000100004100531a002f16000001000041005338002f17000001000041005341002f1800000100004100535c002f19000001000041005369002f1a000001000041005382002f1b0000010000410053b6002f1c0000010000410053c8002f1d0000010000410053e3002f1e0000010000410056d7002f1f00000100004100571f002f200000010000410058eb002f21000001000041005902002f2200000100004100590a002f23000001000041005915002f24000001000041005927002f25000001000041005973002f26000001000041005b50002f27000001000041005b80002f28000001000041005bf8002f29000001000041005c0f002f2a000001000041005c22002f2b000001000041005c38002f2c000001000041005c6e002f2d000001000041005c71002f2e000001000041005ddb002f2f000001000041005de5002f30000001000041005df1002f31000001000041005dfe002f32000001000041005e72002f33000001000041005e7a002f34000001000041005e7f002f35000001000041005ef4002f36000001000041005efe002f37000001000041005f0b002f38000001000041005f13002f39000001000041005f50002f3a000001000041005f61002f3b000001000041005f73002f3c000001000041005fc3002f3d000001000041006208002f3e000001000041006236002f3f00000100004100624b002f4000000100004100652f,
  0x2f41000001000041006534002f42000001000041006587002f43000001000041006597002f440000010000410065a4002f450000010000410065b9002f460000010000410065e0002f470000010000410065e5002f480000010000410066f0002f49000001000041006708002f4a000001000041006728002f4b000001000041006b20002f4c000001000041006b62002f4d000001000041006b79002f4e000001000041006bb3002f4f000001000041006bcb002f50000001000041006bd4002f51000001000041006bdb002f52000001000041006c0f002f53000001000041006c14002f54000001000041006c34002f5500000100004100706b002f5600000100004100722a002f57000001000041007236002f5800000100004100723b002f5900000100004100723f002f5a000001000041007247002f5b000001000041007259002f5c00000100004100725b002f5d0000010000410072ac002f5e000001000041007384002f5f000001000041007389002f600000010000410074dc002f610000010000410074e6002f62000001000041007518002f6300000100004100751f002f64000001000041007528002f65000001000041007530002f6600000100004100758b002f67000001000041007592002f68000001000041007676002f6900000100004100767d002f6a0000010000410076ae002f6b0000010000410076bf002f6c0000010000410076ee002f6d0000010000410077db002f6e0000010000410077e2002f6f0000010000410077f3002f7000000100004100793a002f710000010000410079b8002f720000010000410079be,
  0x2f73000001000041007a74002f74000001000041007acb002f75000001000041007af9002f76000001000041007c73002f77000001000041007cf8002f78000001000041007f36002f79000001000041007f51002f7a000001000041007f8a002f7b000001000041007fbd002f7c000001000041008001002f7d00000100004100800c002f7e000001000041008012002f7f000001000041008033002f8000000100004100807f002f81000001000041008089002f820000010000410081e3002f830000010000410081ea002f840000010000410081f3002f850000010000410081fc002f8600000100004100820c002f8700000100004100821b002f8800000100004100821f002f8900000100004100826e002f8a000001000041008272002f8b000001000041008278002f8c00000100004100864d002f8d00000100004100866b002f8e000001000041008840002f8f00000100004100884c002f90000001000041008863002f9100000100004100897e002f9200000100004100898b002f930000010000410089d2002f94000001000041008a00002f95000001000041008c37002f96000001000041008c46002f97000001000041008c55002f98000001000041008c78002f99000001000041008c9d002f9a000001000041008d64002f9b000001000041008d70002f9c000001000041008db3002f9d000001000041008eab002f9e000001000041008eca002f9f000001000041008f9b002fa0000001000041008fb0002fa1000001000041008fb5002fa2000001000041009091002fa3000001000041009149002fa40000010000410091c6,
  0x2fa50000010000410091cc002fa60000010000410091d1002fa7000001000041009577002fa8000001000041009580002fa900000100004100961c002faa0000010000410096b6002fab0000010000410096b9002fac0000010000410096e8002fad000001000041009751002fae00000100004100975e002faf000001000041009762002fb0000001000041009769002fb10000010000410097cb002fb20000010000410097ed002fb30000010000410097f3002fb4000001000041009801002fb50000010000410098a8002fb60000010000410098db002fb70000010000410098df002fb8000001000041009996002fb9000001000041009999002fba0000010000410099ac002fbb000001000041009aa8002fbc000001000041009ad8002fbd000001000041009adf002fbe000001000041009b25002fbf000001000041009b2f002fc0000001000041009b32002fc1000001000041009b3c002fc2000001000041009b5a002fc3000001000041009ce5002fc4000001000041009e75002fc5000001000041009e7f002fc6000001000041009ea5002fc7000001000041009ebb002fc8000001000041009ec3002fc9000001000041009ecd002fca000001000041009ed1002fcb000001000041009ef9002fcc000001000041009efd002fcd000001000041009f0e002fce000001000041009f13002fcf000001000041009f20002fd0000001000041009f3b002fd1000001000041009f4a002fd2000001000041009f52002fd3000001000041009f8d002fd4000001000041009f9c002fd5000001000041009fa0003000000001000041000020,
  0x303600000100004100301200303800000100004100534100303900000200004100534400304c00000100000200304b00309900304e00000100000200304d00309900305000000100000200304f00309900305200000100000200305100309900305400000100000200305300309900305600000100000200305500309900305800000100000200305700309900305a00000100000200305900309900305c00000100000200305b00309900305e00000100000200305d00309900306000000100000200305f00309900306200000100000200306100309900306500000100000200306400309900306700000100000200306600309900306900000100000200306800309900307000000100000200306f00309900307100000100000200306f00309a00307300000100000200307200309900307400000100000200307200309a00307600000100000200307500309900307700000100000200307500309a00307900000100000200307800309900307a00000100000200307800309a00307c00000100000200307b00309900307d00000100000200307b00309a00309400000100000200304600309900309b00000100004200002000309900309c00000100004200002000309a00309e00000100000200309d00309900309f00000100004200308800308a0030ac0000010000020030ab0030990030ae0000010000020030ad0030990030b00000010000020030af0030990030b20000010000020030b10030990030b40000010000020030b30030990030b60000010000020030b50030990030b80000010000020030b7003099,
  0x30ba0000010000020030b90030990030bc0000010000020030bb0030990030be0000010000020030bd0030990030c00000010000020030bf0030990030c20000010000020030c10030990030c50000010000020030c40030990030c70000010000020030c60030990030c90000010000020030c80030990030d00000010000020030cf0030990030d10000010000020030cf00309a0030d30000010000020030d20030990030d40000010000020030d200309a0030d60000010000020030d50030990030d70000010000020030d500309a0030d90000010000020030d80030990030da0000010000020030d800309a0030dc0000010000020030db0030990030dd0000010000020030db00309a0030f40000010000020030a60030990030f70000010000020030ef0030990030f80000010000020030f00030990030f90000010000020030f10030990030fa0000010000020030f20030990030fe0000010000020030fd0030990030ff0000010000420030b30030c80031310000020000410011000031330000010000410011aa0031340000010000410011020031350000020000410011ac00313700000300004100110300313a0000060000410011b000314000000100004100111a00314100000300004100110600314400000100004100112100314500000a00004100110900314f0000150000410011610031640000010000410011600031650000020000410011140031670000020000410011c70031690000010000410011cc00316a0000010000410011ce00316b0000010000410011d300316c0000010000410011d7,
  0x316d0000010000410011d900316e00000100004100111c00316f0000010000410011dd0031700000010000410011df00317100000200004100111d00317300000100004100112000317400000200004100112200317600000100004100112700317700000100004100112900317800000500004100112b00317d00000100004100113200317e00000100004100113600317f00000100004100114000318000000100004100114700318100000100004100114c0031820000020000410011f100318400000300004100115700318700000200004100118400318900000100004100118800318a00000200004100119100318c00000100004100119400318d00000100004100119e00318e0000010000410011a1003192000001000041004e00003193000001000041004e8c003194000001000041004e090031950000010000410056db003196000001000041004e0a003197000001000041004e2d003198000001000041004e0b00319900000100004100753200319a000001000041004e5900319b000001000041004e1900319c000001000041004e0100319d00000100004100592900319e00000100004100573000319f000001000041004eba00320000000100004300002800110000002900320100000100004300002800110200002900320200000100004300002800110300002900320300000100004300002800110500002900320400000100004300002800110600002900320500000100004300002800110700002900320600000100004300002800110900002900320700000100004300002800110b000029]

/-- Decomposition mappings: per run of code points the first, how many, 32 × kind + length, and the mapping of the first, whose one code point rises by 1 along a longer run; kind 0 canonical, 1 canonical and excluded from composition, 2 compatibility; numbers of 24 bits, the first highest, part 2. -/
def decompRows2 : List Nat := [
  0x320800000100004300002800110c00002900320900000100004300002800110e00002900320a00000100004300002800110f00002900320b00000100004300002800111000002900320c00000100004300002800111100002900320d00000100004300002800111200002900320e00000100004400002800110000116100002900320f00000100004400002800110200116100002900321000000100004400002800110300116100002900321100000100004400002800110500116100002900321200000100004400002800110600116100002900321300000100004400002800110700116100002900321400000100004400002800110900116100002900321500000100004400002800110b00116100002900321600000100004400002800110c00116100002900321700000100004400002800110e00116100002900321800000100004400002800110f00116100002900321900000100004400002800111000116100002900321a00000100004400002800111100116100002900321b00000100004400002800111200116100002900321c00000100004400002800110c00116e00002900321d00000100004700002800110b00116900110c0011650011ab00002900321e00000100004600002800110b00116900111200116e000029003220000001000043000028004e00000029003221000001000043000028004e8c000029003222000001000043000028004e090000290032230000010000430000280056db000029003224000001000043000028004e9400002900322500000100004300002800516d000029,
  0x3226000001000043000028004e0300002900322700000100004300002800516b000029003228000001000043000028004e5d00002900322900000100004300002800534100002900322a00000100004300002800670800002900322b00000100004300002800706b00002900322c000001000043000028006c3400002900322d00000100004300002800672800002900322e0000010000430000280091d100002900322f00000100004300002800571f0000290032300000010000430000280065e500002900323100000100004300002800682a00002900323200000100004300002800670900002900323300000100004300002800793e00002900323400000100004300002800540d000029003235000001000043000028007279000029003236000001000043000028008ca100002900323700000100004300002800795d0000290032380000010000430000280052b4000029003239000001000043000028004ee300002900323a00000100004300002800547c00002900323b000001000043000028005b6600002900323c0000010000430000280076e300002900323d000001000043000028004f0100002900323e000001000043000028008cc700002900323f00000100004300002800535400002900324000000100004300002800796d000029003241000001000043000028004f110000290032420000010000430000280081ea0000290032430000010000430000280081f300002900324400000100004100554f003245000001000041005e7c003246000001000041006587003247000001000041007b8f,
  0x325000000100004300005000005400004500325100000100004200003200003100325200000100004200003200003200325300000100004200003200003300325400000100004200003200003400325500000100004200003200003500325600000100004200003200003600325700000100004200003200003700325800000100004200003200003800325900000100004200003200003900325a00000100004200003300003000325b00000100004200003300003100325c00000100004200003300003200325d00000100004200003300003300325e00000100004200003300003400325f00000100004200003300003500326000000100004100110000326100000200004100110200326300000300004100110500326600000100004100110900326700000200004100110b00326900000500004100110e00326e00000100004200110000116100326f00000100004200110200116100327000000100004200110300116100327100000100004200110500116100327200000100004200110600116100327300000100004200110700116100327400000100004200110900116100327500000100004200110b00116100327600000100004200110c00116100327700000100004200110e00116100327800000100004200110f00116100327900000100004200111000116100327a00000100004200111100116100327b00000100004200111200116100327c00000100004500110e0011610011b700110000116900327d00000100004400110c00116e00110b00117400327e00000100004200110b00116e003280000001000041004e00,
  0x3281000001000041004e8c003282000001000041004e090032830000010000410056db003284000001000041004e9400328500000100004100516d003286000001000041004e0300328700000100004100516b003288000001000041004e5d00328900000100004100534100328a00000100004100670800328b00000100004100706b00328c000001000041006c3400328d00000100004100672800328e0000010000410091d100328f00000100004100571f0032900000010000410065e500329100000100004100682a00329200000100004100670900329300000100004100793e00329400000100004100540d003295000001000041007279003296000001000041008ca100329700000100004100795d0032980000010000410052b40032990000010000410079d800329a00000100004100753700329b00000100004100597300329c00000100004100906900329d00000100004100512a00329e00000100004100537000329f000001000041006ce80032a00000010000410098050032a1000001000041004f110032a20000010000410051990032a3000001000041006b630032a4000001000041004e0a0032a5000001000041004e2d0032a6000001000041004e0b0032a7000001000041005de60032a80000010000410053f30032a900000100004100533b0032aa000001000041005b970032ab000001000041005b660032ac0000010000410076e30032ad000001000041004f010032ae000001000041008cc70032af0000010000410053540032b000000100004100591c0032b1000001000042000033000036,
  0x32b20000010000420000330000370032b30000010000420000330000380032b40000010000420000330000390032b50000010000420000340000300032b60000010000420000340000310032b70000010000420000340000320032b80000010000420000340000330032b90000010000420000340000340032ba0000010000420000340000350032bb0000010000420000340000360032bc0000010000420000340000370032bd0000010000420000340000380032be0000010000420000340000390032bf0000010000420000350000300032c00000010000420000310067080032c10000010000420000320067080032c20000010000420000330067080032c30000010000420000340067080032c40000010000420000350067080032c50000010000420000360067080032c60000010000420000370067080032c70000010000420000380067080032c80000010000420000390067080032c90000010000430000310000300067080032ca0000010000430000310000310067080032cb0000010000430000310000320067080032cc0000010000420000480000670032cd0000010000430000650000720000670032ce0000010000420000650000560032cf00000100004300004c0000540000440032d00000010000410030a20032d10000010000410030a40032d20000010000410030a60032d30000010000410030a80032d40000020000410030aa0032d60000010000410030ad0032d70000010000410030af0032d80000010000410030b10032d90000010000410030b30032da0000010000410030b50032db0000010000410030b7,
  0x32dc0000010000410030b90032dd0000010000410030bb0032de0000010000410030bd0032df0000010000410030bf0032e00000010000410030c10032e10000010000410030c40032e20000010000410030c60032e30000010000410030c80032e40000060000410030ca0032ea0000010000410030d20032eb0000010000410030d50032ec0000010000410030d80032ed0000010000410030db0032ee0000050000410030de0032f30000010000410030e40032f40000010000410030e60032f50000060000410030e80032fb0000040000410030ef0032ff000001000042004ee400548c0033000000010000440030a20030d10030fc0030c80033010000010000440030a20030eb0030d50030a10033020000010000440030a20030f30030da0030a20033030000010000430030a20030fc0030eb0033040000010000440030a40030cb0030f30030b00033050000010000430030a40030f30030c10033060000010000430030a60030a90030f30033070000010000450030a80030b90030af0030fc0030c90033080000010000440030a80030fc0030ab0030fc0033090000010000430030aa0030f30030b900330a0000010000430030aa0030fc0030e000330b0000010000430030ab0030a40030ea00330c0000010000440030ab0030e90030c30030c800330d0000010000440030ab0030ed0030ea0030fc00330e0000010000430030ac0030ed0030f300330f0000010000430030ac0030f30030de0033100000010000420030ae0030ac0033110000010000430030ae0030cb0030fc0033120000010000440030ad0030e50030ea0030fc,
  0x33130000010000440030ae0030eb0030c00030fc0033140000010000420030ad0030ed0033150000010000450030ad0030ed0030b00030e90030e00033160000010000460030ad0030ed0030e10030fc0030c80030eb0033170000010000450030ad0030ed0030ef0030c30030c80033180000010000430030b00030e90030e00033190000010000450030b00030e90030e00030c80030f300331a0000010000450030af0030eb0030bc0030a40030ed00331b0000010000440030af0030ed0030fc0030cd00331c0000010000430030b10030fc0030b900331d0000010000430030b30030eb0030ca00331e0000010000430030b30030fc0030dd00331f0000010000440030b50030a40030af0030eb0033200000010000450030b50030f30030c10030fc0030e00033210000010000440030b70030ea0030f30030b00033220000010000430030bb0030f30030c10033230000010000430030bb0030f30030c80033240000010000430030c00030fc0030b90033250000010000420030c70030b70033260000010000420030c90030eb0033270000010000420030c80030f30033280000010000420030ca0030ce0033290000010000430030ce0030c30030c800332a0000010000430030cf0030a40030c400332b0000010000450030d10030fc0030bb0030f30030c800332c0000010000430030d10030fc0030c400332d0000010000440030d00030fc0030ec0030eb00332e0000010000450030d40030a20030b90030c80030eb00332f0000010000430030d40030af0030eb0033300000010000420030d40030b3,
  0x33310000010000420030d30030eb0033320000010000450030d50030a10030e90030c30030c90033330000010000440030d50030a30030fc0030c80033340000010000450030d60030c30030b70030a70030eb0033350000010000430030d50030e90030f30033360000010000450030d80030af0030bf0030fc0030eb0033370000010000420030da0030bd0033380000010000430030da0030cb0030d20033390000010000430030d80030eb0030c400333a0000010000430030da0030f30030b900333b0000010000430030da0030fc0030b800333c0000010000430030d90030fc0030bf00333d0000010000440030dd0030a40030f30030c800333e0000010000430030dc0030eb0030c800333f0000010000420030db0030f30033400000010000430030dd0030f30030c90033410000010000430030db0030fc0030eb0033420000010000430030db0030fc0030f30033430000010000440030de0030a40030af0030ed0033440000010000430030de0030a40030eb0033450000010000430030de0030c30030cf0033460000010000430030de0030eb0030af0033470000010000450030de0030f30030b70030e70030f30033480000010000440030df0030af0030ed0030f30033490000010000420030df0030ea00334a0000010000450030df0030ea0030d00030fc0030eb00334b0000010000420030e10030ac00334c0000010000440030e10030ac0030c80030f300334d0000010000440030e10030fc0030c80030eb00334e0000010000430030e40030fc0030c900334f0000010000430030e40030fc0030eb,
  0x33500000010000430030e60030a20030f30033510000010000440030ea0030c30030c80030eb0033520000010000420030ea0030e90033530000010000430030eb0030d40030fc0033540000010000440030eb0030fc0030d60030eb0033550000010000420030ec0030e00033560000010000450030ec0030f30030c80030b20030f30033570000010000430030ef0030c30030c80033580000010000420000300070b90033590000010000420000310070b900335a0000010000420000320070b900335b0000010000420000330070b900335c0000010000420000340070b900335d0000010000420000350070b900335e0000010000420000360070b900335f0000010000420000370070b90033600000010000420000380070b90033610000010000420000390070b90033620000010000430000310000300070b90033630000010000430000310000310070b90033640000010000430000310000320070b90033650000010000430000310000330070b90033660000010000430000310000340070b90033670000010000430000310000350070b90033680000010000430000310000360070b90033690000010000430000310000370070b900336a0000010000430000310000380070b900336b0000010000430000310000390070b900336c0000010000430000320000300070b900336d0000010000430000320000310070b900336e0000010000430000320000320070b900336f0000010000430000320000330070b90033700000010000430000320000340070b9003371000001000043000068000050000061,
  0x337200000100004200006400006100337300000100004200004100005500337400000100004300006200006100007200337500000100004200006f00005600337600000100004200007000006300337700000100004200006400006d00337800000100004300006400006d0000b200337900000100004300006400006d0000b300337a00000100004200004900005500337b000001000042005e7300621000337c00000100004200662d00548c00337d000001000042005927006b6300337e00000100004200660e006cbb00337f00000100004400682a005f0f004f1a00793e00338000000100004200007000004100338100000100004200006e0000410033820000010000420003bc00004100338300000100004200006d00004100338400000100004200006b00004100338500000100004200004b00004200338600000100004200004d00004200338700000100004200004700004200338800000100004300006300006100006c00338900000100004400006b00006300006100006c00338a00000100004200007000004600338b00000100004200006e00004600338c0000010000420003bc00004600338d0000010000420003bc00006700338e00000100004200006d00006700338f00000100004200006b00006700339000000100004200004800007a00339100000100004300006b00004800007a00339200000100004300004d00004800007a00339300000100004300004700004800007a00339400000100004300005400004800007a0033950000010000420003bc00211300339600000100004200006d002113,
  0x339700000100004200006400211300339800000100004200006b00211300339900000100004200006600006d00339a00000100004200006e00006d00339b0000010000420003bc00006d00339c00000100004200006d00006d00339d00000100004200006300006d00339e00000100004200006b00006d00339f00000100004300006d00006d0000b20033a000000100004300006300006d0000b20033a100000100004200006d0000b20033a200000100004300006b00006d0000b20033a300000100004300006d00006d0000b30033a400000100004300006300006d0000b30033a500000100004200006d0000b30033a600000100004300006b00006d0000b30033a700000100004300006d0022150000730033a800000100004400006d0022150000730000b20033a90000010000420000500000610033aa00000100004300006b0000500000610033ab00000100004300004d0000500000610033ac0000010000430000470000500000610033ad0000010000430000720000610000640033ae0000010000450000720000610000640022150000730033af0000010000460000720000610000640022150000730000b20033b00000010000420000700000730033b100000100004200006e0000730033b20000010000420003bc0000730033b300000100004200006d0000730033b40000010000420000700000560033b500000100004200006e0000560033b60000010000420003bc0000560033b700000100004200006d0000560033b800000100004200006b0000560033b900000100004200004d0000560033ba000001000042000070000057,
  0x33bb00000100004200006e0000570033bc0000010000420003bc0000570033bd00000100004200006d0000570033be00000100004200006b0000570033bf00000100004200004d0000570033c000000100004200006b0003a90033c100000100004200004d0003a90033c200000100004400006100002e00006d00002e0033c30000010000420000420000710033c40000010000420000630000630033c50000010000420000630000640033c600000100004400004300221500006b0000670033c700000100004300004300006f00002e0033c80000010000420000640000420033c90000010000420000470000790033ca0000010000420000680000610033cb0000010000420000480000500033cc00000100004200006900006e0033cd00000100004200004b00004b0033ce00000100004200004b00004d0033cf00000100004200006b0000740033d000000100004200006c00006d0033d100000100004200006c00006e0033d200000100004300006c00006f0000670033d300000100004200006c0000780033d400000100004200006d0000620033d500000100004300006d00006900006c0033d600000100004300006d00006f00006c0033d70000010000420000500000480033d800000100004400007000002e00006d00002e0033d900000100004300005000005000004d0033da0000010000420000500000520033db0000010000420000730000720033dc0000010000420000530000760033dd0000010000420000570000620033de00000100004300005600221500006d0033df00000100004300004100221500006d,
  0x33e00000010000420000310065e50033e10000010000420000320065e50033e20000010000420000330065e50033e30000010000420000340065e50033e40000010000420000350065e50033e50000010000420000360065e50033e60000010000420000370065e50033e70000010000420000380065e50033e80000010000420000390065e50033e90000010000430000310000300065e50033ea0000010000430000310000310065e50033eb0000010000430000310000320065e50033ec0000010000430000310000330065e50033ed0000010000430000310000340065e50033ee0000010000430000310000350065e50033ef0000010000430000310000360065e50033f00000010000430000310000370065e50033f10000010000430000310000380065e50033f20000010000430000310000390065e50033f30000010000430000320000300065e50033f40000010000430000320000310065e50033f50000010000430000320000320065e50033f60000010000430000320000330065e50033f70000010000430000320000340065e50033f80000010000430000320000350065e50033f90000010000430000320000360065e50033fa0000010000430000320000370065e50033fb0000010000430000320000380065e50033fc0000010000430000320000390065e50033fd0000010000430000330000300065e50033fe0000010000430000330000310065e50033ff00000100004300006700006100006c00a69c00000100004100044a00a69d00000100004100044c00a77000000100004100a76f00a7f2000001000041000043,
  0xa7f300000100004100004600a7f400000100004100005100a7f800000100004100012600a7f900000100004100015300ab5c00000100004100a72700ab5d00000100004100ab3700ab5e00000100004100026b00ab5f00000100004100ab5200ab6900000100004100028d00f900000001000021008c4800f9010000010000210066f400f902000001000021008eca00f903000001000021008cc800f904000001000021006ed100f905000001000021004e3200f9060000010000210053e500f907000001000021009f9c00f908000001000021009f9c00f90900000100002100595100f90a0000010000210091d100f90b00000100002100558700f90c00000100002100594800f90d0000010000210061f600f90e00000100002100766900f90f000001000021007f8500f91000000100002100863f00f9110000010000210087ba00f9120000010000210088f800f91300000100002100908f00f914000001000021006a0200f915000001000021006d1b00f9160000010000210070d900f9170000010000210073de00f91800000100002100843d00f91900000100002100916a00f91a0000010000210099f100f91b000001000021004e8200f91c00000100002100537500f91d000001000021006b0400f91e00000100002100721b00f91f00000100002100862d00f920000001000021009e1e00f921000001000021005d5000f922000001000021006feb00f9230000010000210085cd00f92400000100002100896400f9250000010000210062c900f9260000010000210081d800f92700000100002100881f00f928000001000021005eca,
  0xf92900000100002100671700f92a000001000021006d6a00f92b0000010000210072fc00f92c0000010000210090ce00f92d000001000021004f8600f92e0000010000210051b700f92f0000010000210052de00f9300000010000210064c400f931000001000021006ad300f93200000100002100721000f9330000010000210076e700f93400000100002100800100f93500000100002100860600f93600000100002100865c00f937000001000021008def00f93800000100002100973200f939000001000021009b6f00f93a000001000021009dfa00f93b00000100002100788c00f93c00000100002100797f00f93d000001000021007da000f93e0000010000210083c900f93f00000100002100930400f940000001000021009e7f00f941000001000021008ad600f9420000010000210058df00f943000001000021005f0400f944000001000021007c6000f94500000100002100807e00f94600000100002100726200f9470000010000210078ca00f948000001000021008cc200f9490000010000210096f700f94a0000010000210058d800f94b000001000021005c6200f94c000001000021006a1300f94d000001000021006dda00f94e000001000021006f0f00f94f000001000021007d2f00f950000001000021007e3700f95100000100002100964b00f9520000010000210052d200f95300000100002100808b00f9540000010000210051dc00f9550000010000210051cc00f956000001000021007a1c00f957000001000021007dbe00f9580000010000210083f100f95900000100002100967500f95a000001000021008b80,
  0xf95b0000010000210062cf00f95c000001000021006a0200f95d000001000021008afe00f95e000001000021004e3900f95f000001000021005be700f96000000100002100601200f96100000100002100738700f96200000100002100757000f96300000100002100531700f9640000010000210078fb00f965000001000021004fbf00f966000001000021005fa900f967000001000021004e0d00f968000001000021006ccc00f96900000100002100657800f96a000001000021007d2200f96b0000010000210053c300f96c00000100002100585e00f96d00000100002100770100f96e00000100002100844900f96f000001000021008aaa00f970000001000021006bba00f971000001000021008fb000f972000001000021006c8800f9730000010000210062fe00f9740000010000210082e500f9750000010000210063a000f97600000100002100756500f977000001000021004eae00f97800000100002100516900f9790000010000210051c900f97a00000100002100688100f97b000001000021007ce700f97c00000100002100826f00f97d000001000021008ad200f97e0000010000210091cf00f97f0000010000210052f500f98000000100002100544200f98100000100002100597300f982000001000021005eec00f9830000010000210065c500f984000001000021006ffe00f98500000100002100792a00f9860000010000210095ad00f987000001000021009a6a00f988000001000021009e9700f989000001000021009ece00f98a00000100002100529b00f98b0000010000210066c600f98c000001000021006b77,
  0xf98d000001000021008f6200f98e000001000021005e7400f98f00000100002100619000f99000000100002100620000f99100000100002100649a00f992000001000021006f2300f99300000100002100714900f99400000100002100748900f9950000010000210079ca00f996000001000021007df400f99700000100002100806f00f998000001000021008f2600f9990000010000210084ee00f99a00000100002100902300f99b00000100002100934a00f99c00000100002100521700f99d0000010000210052a300f99e0000010000210054bd00f99f0000010000210070c800f9a00000010000210088c200f9a1000001000021008aaa00f9a2000001000021005ec900f9a3000001000021005ff500f9a400000100002100637b00f9a5000001000021006bae00f9a6000001000021007c3e00f9a700000100002100737500f9a8000001000021004ee400f9a90000010000210056f900f9aa000001000021005be700f9ab000001000021005dba00f9ac00000100002100601c00f9ad0000010000210073b200f9ae00000100002100746900f9af000001000021007f9a00f9b000000100002100804600f9b100000100002100923400f9b20000010000210096f600f9b300000100002100974800f9b400000100002100981800f9b5000001000021004f8b00f9b60000010000210079ae00f9b70000010000210091b400f9b80000010000210096b800f9b90000010000210060e100f9ba000001000021004e8600f9bb0000010000210050da00f9bc000001000021005bee00f9bd000001000021005c3f00f9be000001000021006599,
  0xf9bf000001000021006a0200f9c00000010000210071ce00f9c100000100002100764200f9c20000010000210084fc00f9c300000100002100907c00f9c4000001000021009f8d00f9c500000100002100668800f9c600000100002100962e00f9c700000100002100528900f9c800000100002100677b00f9c90000010000210067f300f9ca000001000021006d4100f9cb000001000021006e9c00f9cc00000100002100740900f9cd00000100002100755900f9ce00000100002100786b00f9cf000001000021007d1000f9d000000100002100985e00f9d100000100002100516d00f9d200000100002100622e00f9d300000100002100967800f9d400000100002100502b00f9d5000001000021005d1900f9d6000001000021006dea00f9d7000001000021008f2a00f9d8000001000021005f8b00f9d900000100002100614400f9da00000100002100681700f9db00000100002100738700f9dc00000100002100968600f9dd00000100002100522900f9de00000100002100540f00f9df000001000021005c6500f9e000000100002100661300f9e100000100002100674e00f9e20000010000210068a800f9e3000001000021006ce500f9e400000100002100740600f9e50000010000210075e200f9e6000001000021007f7900f9e70000010000210088cf00f9e80000010000210088e100f9e90000010000210091cc00f9ea0000010000210096e200f9eb00000100002100533f00f9ec000001000021006eba00f9ed00000100002100541d00f9ee0000010000210071d000f9ef00000100002100749800f9f00000010000210085fa,
  0xf9f10000010000210096a300f9f2000001000021009c5700f9f3000001000021009e9f00f9f400000100002100679700f9f5000001000021006dcb00f9f60000010000210081e800f9f7000001000021007acb00f9f8000001000021007b2000f9f9000001000021007c9200f9fa0000010000210072c000f9fb00000100002100709900f9fc000001000021008b5800f9fd000001000021004ec000f9fe00000100002100833600f9ff00000100002100523a00fa0000000100002100520700fa01000001000021005ea600fa020000010000210062d300fa03000001000021007cd600fa04000001000021005b8500fa05000001000021006d1e00fa060000010000210066b400fa07000001000021008f3b00fa0800000100002100884c00fa0900000100002100964d00fa0a00000100002100898b00fa0b000001000021005ed300fa0c00000100002100514000fa0d0000010000210055c000fa1000000100002100585a00fa1200000100002100667400fa150000010000210051de00fa1600000100002100732a00fa170000010000210076ca00fa1800000100002100793c00fa1900000100002100795e00fa1a00000100002100796500fa1b00000100002100798f00fa1c00000100002100975600fa1d000001000021007cbe00fa1e000001000021007fbd00fa2000000100002100861200fa22000001000021008af800fa2500000100002100903800fa260000010000210090fd00fa2a0000010000210098ef00fa2b0000010000210098fc00fa2c00000100002100992800fa2d000001000021009db400fa2e0000010000210090de,
  0xfa2f0000010000210096b700fa30000001000021004fae00fa310000010000210050e700fa3200000100002100514d00fa330000010000210052c900fa340000010000210052e400fa3500000100002100535100fa3600000100002100559d00fa3700000100002100560600fa3800000100002100566800fa3900000100002100584000fa3a0000010000210058a800fa3b000001000021005c6400fa3c000001000021005c6e00fa3d00000100002100609400fa3e00000100002100616800fa3f00000100002100618e00fa400000010000210061f200fa4100000100002100654f00fa420000010000210065e200fa4300000100002100669100fa4400000100002100688500fa45000001000021006d7700fa46000001000021006e1a00fa47000001000021006f2200fa4800000100002100716e00fa4900000100002100722b00fa4a00000100002100742200fa4b00000100002100789100fa4c00000100002100793e00fa4d00000100002100794900fa4e00000100002100794800fa4f00000100002100795000fa5000000100002100795600fa5100000100002100795d00fa5200000200002100798d00fa54000001000021007a4000fa55000001000021007a8100fa56000001000021007bc000fa57000001000021007df400fa58000001000021007e0900fa59000001000021007e4100fa5a000001000021007f7200fa5b00000100002100800500fa5c0000010000210081ed00fa5d00000100002100827900fa5e00000100002100827900fa5f00000100002100845700fa6000000100002100891000fa61000001000021008996]

/-- Decomposition mappings: per run of code points the first, how many, 32 × kind + length, and the mapping of the first, whose one code point rises by 1 along a longer run; kind 0 canonical, 1 canonical and excluded from composition, 2 compatibility; numbers of 24 bits, the first highest, part 3. -/
def decompRows3 : List Nat := [
  0xfa62000001000021008b0100fa63000001000021008b3900fa64000001000021008cd300fa65000001000021008d0800fa66000001000021008fb600fa6700000100002100903800fa680000010000210096e300fa690000010000210097ff00fa6a00000100002100983b00fa6b00000100002100607500fa6c0000010000210242ee00fa6d00000100002100821800fa70000001000021004e2600fa710000010000210051b500fa7200000100002100516800fa73000001000021004f8000fa7400000100002100514500fa7500000100002100518000fa760000010000210052c700fa770000010000210052fa00fa7800000100002100559d00fa7900000100002100555500fa7a00000100002100559900fa7b0000010000210055e200fa7c00000100002100585a00fa7d0000010000210058b300fa7e00000100002100594400fa7f00000100002100595400fa80000001000021005a6200fa81000001000021005b2800fa82000001000021005ed200fa83000001000021005ed900fa84000001000021005f6900fa85000001000021005fad00fa860000010000210060d800fa8700000100002100614e00fa8800000100002100610800fa8900000100002100618e00fa8a00000100002100616000fa8b0000010000210061f200fa8c00000100002100623400fa8d0000010000210063c400fa8e00000100002100641c00fa8f00000100002100645200fa9000000100002100655600fa9100000100002100667400fa9200000100002100671700fa9300000100002100671b00fa9400000100002100675600fa95000001000021006b79,
  0xfa96000001000021006bba00fa97000001000021006d4100fa98000001000021006edb00fa99000001000021006ecb00fa9a000001000021006f2200fa9b00000100002100701e00fa9c00000100002100716e00fa9d0000010000210077a700fa9e00000100002100723500fa9f0000010000210072af00faa000000100002100732a00faa100000100002100747100faa200000100002100750600faa300000100002100753b00faa400000100002100761d00faa500000100002100761f00faa60000010000210076ca00faa70000010000210076db00faa80000010000210076f400faa900000100002100774a00faaa00000100002100774000faab0000010000210078cc00faac000001000021007ab100faad000001000021007bc000faae000001000021007c7b00faaf000001000021007d5b00fab0000001000021007df400fab1000001000021007f3e00fab200000100002100800500fab300000100002100835200fab40000010000210083ef00fab500000100002100877900fab600000100002100894100fab700000100002100898600fab800000100002100899600fab9000001000021008abf00faba000001000021008af800fabb000001000021008acb00fabc000001000021008b0100fabd000001000021008afe00fabe000001000021008aed00fabf000001000021008b3900fac0000001000021008b8a00fac1000001000021008d0800fac2000001000021008f3800fac300000100002100907200fac400000100002100919900fac500000100002100927600fac600000100002100967c00fac70000010000210096e3,
  0xfac800000100002100975600fac90000010000210097db00faca0000010000210097ff00facb00000100002100980b00facc00000100002100983b00facd000001000021009b1200face000001000021009f9c00facf00000100002102284a00fad000000100002102284400fad10000010000210233d500fad2000001000021003b9d00fad300000100002100401800fad400000100002100403900fad500000100002102524900fad6000001000021025cd000fad7000001000021027ed300fad8000001000021009f4300fad9000001000021009f8e00fb0000000100004200006600006600fb0100000100004200006600006900fb0200000100004200006600006c00fb0300000100004300006600006600006900fb0400000100004300006600006600006c00fb0500000100004200017f00007400fb0600000100004200007300007400fb1300000100004200057400057600fb1400000100004200057400056500fb1500000100004200057400056b00fb1600000100004200057e00057600fb1700000100004200057400056d00fb1d0000010000220005d90005b400fb1f0000010000220005f20005b700fb200000010000410005e200fb210000010000410005d000fb220000020000410005d300fb240000030000410005db00fb270000010000410005e800fb280000010000410005ea00fb2900000100004100002b00fb2a0000010000220005e90005c100fb2b0000010000220005e90005c200fb2c00000100002200fb490005c100fb2d00000100002200fb490005c200fb2e0000010000220005d00005b7,
  0xfb2f0000010000220005d00005b800fb300000010000220005d00005bc00fb310000010000220005d10005bc00fb320000010000220005d20005bc00fb330000010000220005d30005bc00fb340000010000220005d40005bc00fb350000010000220005d50005bc00fb360000010000220005d60005bc00fb380000010000220005d80005bc00fb390000010000220005d90005bc00fb3a0000010000220005da0005bc00fb3b0000010000220005db0005bc00fb3c0000010000220005dc0005bc00fb3e0000010000220005de0005bc00fb400000010000220005e00005bc00fb410000010000220005e10005bc00fb430000010000220005e30005bc00fb440000010000220005e40005bc00fb460000010000220005e60005bc00fb470000010000220005e70005bc00fb480000010000220005e80005bc00fb490000010000220005e90005bc00fb4a0000010000220005ea0005bc00fb4b0000010000220005d50005b900fb4c0000010000220005d10005bf00fb4d0000010000220005db0005bf00fb4e0000010000220005e40005bf00fb4f0000010000420005d00005dc00fb5000000100004100067100fb5100000100004100067100fb5200000100004100067b00fb5300000100004100067b00fb5400000100004100067b00fb5500000100004100067b00fb5600000100004100067e00fb5700000100004100067e00fb5800000100004100067e00fb5900000100004100067e00fb5a00000100004100068000fb5b00000100004100068000fb5c00000100004100068000fb5d00000100004100068000fb5e00000100004100067a,
  0xfb5f00000100004100067a00fb6000000100004100067a00fb6100000100004100067a00fb6200000100004100067f00fb6300000100004100067f00fb6400000100004100067f00fb6500000100004100067f00fb6600000100004100067900fb6700000100004100067900fb6800000100004100067900fb6900000100004100067900fb6a0000010000410006a400fb6b0000010000410006a400fb6c0000010000410006a400fb6d0000010000410006a400fb6e0000010000410006a600fb6f0000010000410006a600fb700000010000410006a600fb710000010000410006a600fb7200000100004100068400fb7300000100004100068400fb7400000100004100068400fb7500000100004100068400fb7600000100004100068300fb7700000100004100068300fb7800000100004100068300fb7900000100004100068300fb7a00000100004100068600fb7b00000100004100068600fb7c00000100004100068600fb7d00000200004100068600fb7f00000100004100068700fb8000000100004100068700fb8100000100004100068700fb8200000100004100068d00fb8300000100004100068d00fb8400000100004100068c00fb8500000100004100068c00fb8600000100004100068e00fb8700000100004100068e00fb8800000100004100068800fb8900000100004100068800fb8a00000100004100069800fb8b00000100004100069800fb8c00000100004100069100fb8d00000100004100069100fb8e0000010000410006a900fb8f0000010000410006a900fb900000010000410006a900fb910000010000410006a9,
  0xfb920000010000410006af00fb930000010000410006af00fb940000010000410006af00fb950000010000410006af00fb960000010000410006b300fb970000010000410006b300fb980000010000410006b300fb990000010000410006b300fb9a0000010000410006b100fb9b0000010000410006b100fb9c0000010000410006b100fb9d0000010000410006b100fb9e0000010000410006ba00fb9f0000020000410006ba00fba10000010000410006bb00fba20000010000410006bb00fba30000010000410006bb00fba40000010000410006c000fba50000020000410006c000fba70000010000410006c100fba80000010000410006c100fba90000010000410006c100fbaa0000010000410006be00fbab0000010000410006be00fbac0000010000410006be00fbad0000010000410006be00fbae0000010000410006d200fbaf0000020000410006d200fbb10000010000410006d300fbd30000010000410006ad00fbd40000010000410006ad00fbd50000010000410006ad00fbd60000010000410006ad00fbd70000010000410006c700fbd80000010000410006c700fbd90000010000410006c600fbda0000010000410006c600fbdb0000010000410006c800fbdc0000010000410006c800fbdd00000100004100067700fbde0000010000410006cb00fbdf0000010000410006cb00fbe00000010000410006c500fbe10000010000410006c500fbe20000010000410006c900fbe30000010000410006c900fbe40000010000410006d000fbe50000010000410006d000fbe60000010000410006d000fbe70000010000410006d0,
  0xfbe800000100004100064900fbe900000100004100064900fbea00000100004200062600062700fbeb00000100004200062600062700fbec0000010000420006260006d500fbed0000010000420006260006d500fbee00000100004200062600064800fbef00000100004200062600064800fbf00000010000420006260006c700fbf10000010000420006260006c700fbf20000010000420006260006c600fbf30000010000420006260006c600fbf40000010000420006260006c800fbf50000010000420006260006c800fbf60000010000420006260006d000fbf70000010000420006260006d000fbf80000010000420006260006d000fbf900000100004200062600064900fbfa00000100004200062600064900fbfb00000100004200062600064900fbfc0000010000410006cc00fbfd0000010000410006cc00fbfe0000010000410006cc00fbff0000010000410006cc00fc0000000100004200062600062c00fc0100000100004200062600062d00fc0200000100004200062600064500fc0300000100004200062600064900fc0400000100004200062600064a00fc0500000100004200062800062c00fc0600000100004200062800062d00fc0700000100004200062800062e00fc0800000100004200062800064500fc0900000100004200062800064900fc0a00000100004200062800064a00fc0b00000100004200062a00062c00fc0c00000100004200062a00062d00fc0d00000100004200062a00062e00fc0e00000100004200062a00064500fc0f00000100004200062a00064900fc1000000100004200062a00064a,
  0xfc1100000100004200062b00062c00fc1200000100004200062b00064500fc1300000100004200062b00064900fc1400000100004200062b00064a00fc1500000100004200062c00062d00fc1600000100004200062c00064500fc1700000100004200062d00062c00fc1800000100004200062d00064500fc1900000100004200062e00062c00fc1a00000100004200062e00062d00fc1b00000100004200062e00064500fc1c00000100004200063300062c00fc1d00000100004200063300062d00fc1e00000100004200063300062e00fc1f00000100004200063300064500fc2000000100004200063500062d00fc2100000100004200063500064500fc2200000100004200063600062c00fc2300000100004200063600062d00fc2400000100004200063600062e00fc2500000100004200063600064500fc2600000100004200063700062d00fc2700000100004200063700064500fc2800000100004200063800064500fc2900000100004200063900062c00fc2a00000100004200063900064500fc2b00000100004200063a00062c00fc2c00000100004200063a00064500fc2d00000100004200064100062c00fc2e00000100004200064100062d00fc2f00000100004200064100062e00fc3000000100004200064100064500fc3100000100004200064100064900fc3200000100004200064100064a00fc3300000100004200064200062d00fc3400000100004200064200064500fc3500000100004200064200064900fc3600000100004200064200064a00fc3700000100004200064300062700fc3800000100004200064300062c,
  0xfc3900000100004200064300062d00fc3a00000100004200064300062e00fc3b00000100004200064300064400fc3c00000100004200064300064500fc3d00000100004200064300064900fc3e00000100004200064300064a00fc3f00000100004200064400062c00fc4000000100004200064400062d00fc4100000100004200064400062e00fc4200000100004200064400064500fc4300000100004200064400064900fc4400000100004200064400064a00fc4500000100004200064500062c00fc4600000100004200064500062d00fc4700000100004200064500062e00fc4800000100004200064500064500fc4900000100004200064500064900fc4a00000100004200064500064a00fc4b00000100004200064600062c00fc4c00000100004200064600062d00fc4d00000100004200064600062e00fc4e00000100004200064600064500fc4f00000100004200064600064900fc5000000100004200064600064a00fc5100000100004200064700062c00fc5200000100004200064700064500fc5300000100004200064700064900fc5400000100004200064700064a00fc5500000100004200064a00062c00fc5600000100004200064a00062d00fc5700000100004200064a00062e00fc5800000100004200064a00064500fc5900000100004200064a00064900fc5a00000100004200064a00064a00fc5b00000100004200063000067000fc5c00000100004200063100067000fc5d00000100004200064900067000fc5e00000100004300002000064c00065100fc5f00000100004300002000064d000651,
  0xfc6000000100004300002000064e00065100fc6100000100004300002000064f00065100fc6200000100004300002000065000065100fc6300000100004300002000065100067000fc6400000100004200062600063100fc6500000100004200062600063200fc6600000100004200062600064500fc6700000100004200062600064600fc6800000100004200062600064900fc6900000100004200062600064a00fc6a00000100004200062800063100fc6b00000100004200062800063200fc6c00000100004200062800064500fc6d00000100004200062800064600fc6e00000100004200062800064900fc6f00000100004200062800064a00fc7000000100004200062a00063100fc7100000100004200062a00063200fc7200000100004200062a00064500fc7300000100004200062a00064600fc7400000100004200062a00064900fc7500000100004200062a00064a00fc7600000100004200062b00063100fc7700000100004200062b00063200fc7800000100004200062b00064500fc7900000100004200062b00064600fc7a00000100004200062b00064900fc7b00000100004200062b00064a00fc7c00000100004200064100064900fc7d00000100004200064100064a00fc7e00000100004200064200064900fc7f00000100004200064200064a00fc8000000100004200064300062700fc8100000100004200064300064400fc8200000100004200064300064500fc8300000100004200064300064900fc8400000100004200064300064a00fc8500000100004200064400064500fc86000001000042000644000649,
  0xfc8700000100004200064400064a00fc8800000100004200064500062700fc8900000100004200064500064500fc8a00000100004200064600063100fc8b00000100004200064600063200fc8c00000100004200064600064500fc8d00000100004200064600064600fc8e00000100004200064600064900fc8f00000100004200064600064a00fc9000000100004200064900067000fc9100000100004200064a00063100fc9200000100004200064a00063200fc9300000100004200064a00064500fc9400000100004200064a00064600fc9500000100004200064a00064900fc9600000100004200064a00064a00fc9700000100004200062600062c00fc9800000100004200062600062d00fc9900000100004200062600062e00fc9a00000100004200062600064500fc9b00000100004200062600064700fc9c00000100004200062800062c00fc9d00000100004200062800062d00fc9e00000100004200062800062e00fc9f00000100004200062800064500fca000000100004200062800064700fca100000100004200062a00062c00fca200000100004200062a00062d00fca300000100004200062a00062e00fca400000100004200062a00064500fca500000100004200062a00064700fca600000100004200062b00064500fca700000100004200062c00062d00fca800000100004200062c00064500fca900000100004200062d00062c00fcaa00000100004200062d00064500fcab00000100004200062e00062c00fcac00000100004200062e00064500fcad00000100004200063300062c00fcae00000100004200063300062d,
  0xfcaf00000100004200063300062e00fcb000000100004200063300064500fcb100000100004200063500062d00fcb200000100004200063500062e00fcb300000100004200063500064500fcb400000100004200063600062c00fcb500000100004200063600062d00fcb600000100004200063600062e00fcb700000100004200063600064500fcb800000100004200063700062d00fcb900000100004200063800064500fcba00000100004200063900062c00fcbb00000100004200063900064500fcbc00000100004200063a00062c00fcbd00000100004200063a00064500fcbe00000100004200064100062c00fcbf00000100004200064100062d00fcc000000100004200064100062e00fcc100000100004200064100064500fcc200000100004200064200062d00fcc300000100004200064200064500fcc400000100004200064300062c00fcc500000100004200064300062d00fcc600000100004200064300062e00fcc700000100004200064300064400fcc800000100004200064300064500fcc900000100004200064400062c00fcca00000100004200064400062d00fccb00000100004200064400062e00fccc00000100004200064400064500fccd00000100004200064400064700fcce00000100004200064500062c00fccf00000100004200064500062d00fcd000000100004200064500062e00fcd100000100004200064500064500fcd200000100004200064600062c00fcd300000100004200064600062d00fcd400000100004200064600062e00fcd500000100004200064600064500fcd6000001000042000646000647,
  0xfcd700000100004200064700062c00fcd800000100004200064700064500fcd900000100004200064700067000fcda00000100004200064a00062c00fcdb00000100004200064a00062d00fcdc00000100004200064a00062e00fcdd00000100004200064a00064500fcde00000100004200064a00064700fcdf00000100004200062600064500fce000000100004200062600064700fce100000100004200062800064500fce200000100004200062800064700fce300000100004200062a00064500fce400000100004200062a00064700fce500000100004200062b00064500fce600000100004200062b00064700fce700000100004200063300064500fce800000100004200063300064700fce900000100004200063400064500fcea00000100004200063400064700fceb00000100004200064300064400fcec00000100004200064300064500fced00000100004200064400064500fcee00000100004200064600064500fcef00000100004200064600064700fcf000000100004200064a00064500fcf100000100004200064a00064700fcf200000100004300064000064e00065100fcf300000100004300064000064f00065100fcf400000100004300064000065000065100fcf500000100004200063700064900fcf600000100004200063700064a00fcf700000100004200063900064900fcf800000100004200063900064a00fcf900000100004200063a00064900fcfa00000100004200063a00064a00fcfb00000100004200063300064900fcfc00000100004200063300064a00fcfd000001000042000634000649,
  0xfcfe00000100004200063400064a00fcff00000100004200062d00064900fd0000000100004200062d00064a00fd0100000100004200062c00064900fd0200000100004200062c00064a00fd0300000100004200062e00064900fd0400000100004200062e00064a00fd0500000100004200063500064900fd0600000100004200063500064a00fd0700000100004200063600064900fd0800000100004200063600064a00fd0900000100004200063400062c00fd0a00000100004200063400062d00fd0b00000100004200063400062e00fd0c00000100004200063400064500fd0d00000100004200063400063100fd0e00000100004200063300063100fd0f00000100004200063500063100fd1000000100004200063600063100fd1100000100004200063700064900fd1200000100004200063700064a00fd1300000100004200063900064900fd1400000100004200063900064a00fd1500000100004200063a00064900fd1600000100004200063a00064a00fd1700000100004200063300064900fd1800000100004200063300064a00fd1900000100004200063400064900fd1a00000100004200063400064a00fd1b00000100004200062d00064900fd1c00000100004200062d00064a00fd1d00000100004200062c00064900fd1e00000100004200062c00064a00fd1f00000100004200062e00064900fd2000000100004200062e00064a00fd2100000100004200063500064900fd2200000100004200063500064a00fd2300000100004200063600064900fd2400000100004200063600064a00fd2500000100004200063400062c,
  0xfd2600000100004200063400062d00fd2700000100004200063400062e00fd2800000100004200063400064500fd2900000100004200063400063100fd2a00000100004200063300063100fd2b00000100004200063500063100fd2c00000100004200063600063100fd2d00000100004200063400062c00fd2e00000100004200063400062d00fd2f00000100004200063400062e00fd3000000100004200063400064500fd3100000100004200063300064700fd3200000100004200063400064700fd3300000100004200063700064500fd3400000100004200063300062c00fd3500000100004200063300062d00fd3600000100004200063300062e00fd3700000100004200063400062c00fd3800000100004200063400062d00fd3900000100004200063400062e00fd3a00000100004200063700064500fd3b00000100004200063800064500fd3c00000100004200062700064b00fd3d00000100004200062700064b00fd5000000100004300062a00062c00064500fd5100000100004300062a00062d00062c00fd5200000100004300062a00062d00062c00fd5300000100004300062a00062d00064500fd5400000100004300062a00062e00064500fd5500000100004300062a00064500062c00fd5600000100004300062a00064500062d00fd5700000100004300062a00064500062e00fd5800000100004300062c00064500062d00fd5900000100004300062c00064500062d00fd5a00000100004300062d00064500064a00fd5b00000100004300062d00064500064900fd5c00000100004300063300062d00062c,
  0xfd5d00000100004300063300062c00062d00fd5e00000100004300063300062c00064900fd5f00000100004300063300064500062d00fd6000000100004300063300064500062d00fd6100000100004300063300064500062c00fd6200000100004300063300064500064500fd6300000100004300063300064500064500fd6400000100004300063500062d00062d00fd6500000100004300063500062d00062d00fd6600000100004300063500064500064500fd6700000100004300063400062d00064500fd6800000100004300063400062d00064500fd6900000100004300063400062c00064a00fd6a00000100004300063400064500062e00fd6b00000100004300063400064500062e00fd6c00000100004300063400064500064500fd6d00000100004300063400064500064500fd6e00000100004300063600062d00064900fd6f00000100004300063600062e00064500fd7000000100004300063600062e00064500fd7100000100004300063700064500062d00fd7200000100004300063700064500062d00fd7300000100004300063700064500064500fd7400000100004300063700064500064a00fd7500000100004300063900062c00064500fd7600000100004300063900064500064500fd7700000100004300063900064500064500fd7800000100004300063900064500064900fd7900000100004300063a00064500064500fd7a00000100004300063a00064500064a00fd7b00000100004300063a00064500064900fd7c00000100004300064100062e00064500fd7d00000100004300064100062e000645,
  0xfd7e00000100004300064200064500062d00fd7f00000100004300064200064500064500fd8000000100004300064400062d00064500fd8100000100004300064400062d00064a00fd8200000100004300064400062d00064900fd8300000100004300064400062c00062c00fd8400000100004300064400062c00062c00fd8500000100004300064400062e00064500fd8600000100004300064400062e00064500fd8700000100004300064400064500062d00fd8800000100004300064400064500062d00fd8900000100004300064500062d00062c00fd8a00000100004300064500062d00064500fd8b00000100004300064500062d00064a00fd8c00000100004300064500062c00062d00fd8d00000100004300064500062c00064500fd8e00000100004300064500062e00062c00fd8f00000100004300064500062e00064500fd9200000100004300064500062c00062e00fd9300000100004300064700064500062c00fd9400000100004300064700064500064500fd9500000100004300064600062d00064500fd9600000100004300064600062d00064900fd9700000100004300064600062c00064500fd9800000100004300064600062c00064500fd9900000100004300064600062c00064900fd9a00000100004300064600064500064a00fd9b00000100004300064600064500064900fd9c00000100004300064a00064500064500fd9d00000100004300064a00064500064500fd9e00000100004300062800062e00064a00fd9f00000100004300062a00062c00064a00fda000000100004300062a00062c000649,
  0xfda100000100004300062a00062e00064a00fda200000100004300062a00062e00064900fda300000100004300062a00064500064a00fda400000100004300062a00064500064900fda500000100004300062c00064500064a00fda600000100004300062c00062d00064900fda700000100004300062c00064500064900fda800000100004300063300062e00064900fda900000100004300063500062d00064a00fdaa00000100004300063400062d00064a00fdab00000100004300063600062d00064a00fdac00000100004300064400062c00064a00fdad00000100004300064400064500064a00fdae00000100004300064a00062d00064a00fdaf00000100004300064a00062c00064a00fdb000000100004300064a00064500064a00fdb100000100004300064500064500064a00fdb200000100004300064200064500064a00fdb300000100004300064600062d00064a00fdb400000100004300064200064500062d00fdb500000100004300064400062d00064500fdb600000100004300063900064500064a00fdb700000100004300064300064500064a00fdb800000100004300064600062c00062d00fdb900000100004300064500062e00064a00fdba00000100004300064400062c00064500fdbb00000100004300064300064500064500fdbc00000100004300064400062c00064500fdbd00000100004300064600062c00062d00fdbe00000100004300062c00062d00064a00fdbf00000100004300062d00062c00064a00fdc000000100004300064500062c00064a00fdc100000100004300064100064500064a,
  0xfdc200000100004300062800062d00064a00fdc300000100004300064300064500064500fdc400000100004300063900062c00064500fdc500000100004300063500064500064500fdc600000100004300063300062e00064a00fdc700000100004300064600062c00064a00fdf00000010000430006350006440006d200fdf10000010000430006420006440006d200fdf200000100004400062700064400064400064700fdf300000100004400062700064300062800063100fdf400000100004400064500062d00064500062f00fdf500000100004400063500064400063900064500fdf600000100004400063100063300064800064400fdf700000100004400063900064400064a00064700fdf800000100004400064800063300064400064500fdf900000100004300063500064400064900fdfa00000100005200063500064400064900002000062700064400064400064700002000063900064400064a00064700002000064800063300064400064500fdfb00000100004800062c00064400002000062c00064400062700064400064700fdfc0000010000440006310006cc00062700064400fe1000000100004100002c00fe1100000200004100300100fe1300000200004100003a00fe1500000100004100002100fe1600000100004100003f00fe1700000200004100301600fe1900000100004100202600fe3000000100004100202500fe3100000100004100201400fe3200000100004100201300fe3300000100004100005f00fe3400000100004100005f00fe3500000200004100002800fe3700000100004100007b,
  0xfe3800000100004100007d00fe3900000200004100301400fe3b00000200004100301000fe3d00000200004100300a00fe3f00000200004100300800fe4100000400004100300c00fe4700000100004100005b00fe4800000100004100005d00fe4900000100004100203e00fe4a00000100004100203e00fe4b00000100004100203e00fe4c00000100004100203e00fe4d00000100004100005f00fe4e00000100004100005f00fe4f00000100004100005f00fe5000000100004100002c00fe5100000100004100300100fe5200000100004100002e00fe5400000100004100003b00fe5500000100004100003a00fe5600000100004100003f00fe5700000100004100002100fe5800000100004100201400fe5900000200004100002800fe5b00000100004100007b00fe5c00000100004100007d00fe5d00000200004100301400fe5f00000100004100002300fe6000000100004100002600fe6100000200004100002a00fe6300000100004100002d00fe6400000100004100003c00fe6500000100004100003e00fe6600000100004100003d00fe6800000100004100005c00fe6900000200004100002400fe6b00000100004100004000fe7000000100004200002000064b00fe7100000100004200064000064b00fe7200000100004200002000064c00fe7400000100004200002000064d00fe7600000100004200002000064e00fe7700000100004200064000064e00fe7800000100004200002000064f00fe7900000100004200064000064f00fe7a00000100004200002000065000fe7b000001000042000640000650]

/-- Decomposition mappings: per run of code points the first, how many, 32 × kind + length, and the mapping of the first, whose one code point rises by 1 along a longer run; kind 0 canonical, 1 canonical and excluded from composition, 2 compatibility; numbers of 24 bits, the first highest, part 4. -/
def decompRows4 : List Nat := [
  0xfe7c00000100004200002000065100fe7d00000100004200064000065100fe7e00000100004200002000065200fe7f00000100004200064000065200fe8000000200004100062100fe8200000200004100062200fe8400000200004100062300fe8600000200004100062400fe8800000200004100062500fe8a00000100004100062600fe8b00000100004100062600fe8c00000200004100062600fe8e00000200004100062700fe9000000100004100062800fe9100000100004100062800fe9200000200004100062800fe9400000200004100062900fe9600000100004100062a00fe9700000100004100062a00fe9800000200004100062a00fe9a00000100004100062b00fe9b00000100004100062b00fe9c00000200004100062b00fe9e00000100004100062c00fe9f00000100004100062c00fea000000200004100062c00fea200000100004100062d00fea300000100004100062d00fea400000200004100062d00fea600000100004100062e00fea700000100004100062e00fea800000200004100062e00feaa00000200004100062f00feac00000200004100063000feae00000200004100063100feb000000200004100063200feb200000100004100063300feb300000100004100063300feb400000200004100063300feb600000100004100063400feb700000100004100063400feb800000200004100063400feba00000100004100063500febb00000100004100063500febc00000200004100063500febe00000100004100063600febf00000100004100063600fec000000200004100063600fec2000001000041000637,
  0xfec300000100004100063700fec400000200004100063700fec600000100004100063800fec700000100004100063800fec800000200004100063800feca00000100004100063900fecb00000100004100063900fecc00000200004100063900fece00000100004100063a00fecf00000100004100063a00fed000000100004100063a00fed100000100004100064100fed200000100004100064100fed300000100004100064100fed400000200004100064100fed600000100004100064200fed700000100004100064200fed800000200004100064200feda00000100004100064300fedb00000100004100064300fedc00000200004100064300fede00000100004100064400fedf00000100004100064400fee000000200004100064400fee200000100004100064500fee300000100004100064500fee400000200004100064500fee600000100004100064600fee700000100004100064600fee800000200004100064600feea00000100004100064700feeb00000100004100064700feec00000200004100064700feee00000200004100064800fef000000200004100064900fef200000100004100064a00fef300000100004100064a00fef400000100004100064a00fef500000100004200064400062200fef600000100004200064400062200fef700000100004200064400062300fef800000100004200064400062300fef900000100004200064400062500fefa00000100004200064400062500fefb00000100004200064400062700fefc00000100004200064400062700ff0100005e00004100002100ff5f000002000041002985,
  0xff6100000100004100300200ff6200000200004100300c00ff6400000100004100300100ff650000010000410030fb00ff660000010000410030f200ff670000010000410030a100ff680000010000410030a300ff690000010000410030a500ff6a0000010000410030a700ff6b0000010000410030a900ff6c0000010000410030e300ff6d0000010000410030e500ff6e0000010000410030e700ff6f0000010000410030c300ff700000010000410030fc00ff710000010000410030a200ff720000010000410030a400ff730000010000410030a600ff740000010000410030a800ff750000020000410030aa00ff770000010000410030ad00ff780000010000410030af00ff790000010000410030b100ff7a0000010000410030b300ff7b0000010000410030b500ff7c0000010000410030b700ff7d0000010000410030b900ff7e0000010000410030bb00ff7f0000010000410030bd00ff800000010000410030bf00ff810000010000410030c100ff820000010000410030c400ff830000010000410030c600ff840000010000410030c800ff850000060000410030ca00ff8b0000010000410030d200ff8c0000010000410030d500ff8d0000010000410030d800ff8e0000010000410030db00ff8f0000050000410030de00ff940000010000410030e400ff950000010000410030e600ff960000060000410030e800ff9c0000010000410030ef00ff9d0000010000410030f300ff9e00000200004100309900ffa000000100004100316400ffa100001e00004100313100ffc200000600004100314f00ffca000006000041003155,
  0xffd200000600004100315b00ffda00000300004100316100ffe00000020000410000a200ffe20000010000410000ac00ffe30000010000410000af00ffe40000010000410000a600ffe50000010000410000a500ffe60000010000410020a900ffe800000100004100250200ffe900000400004100219000ffed0000010000410025a000ffee0000010000410025cb0107810000020000410002d00107830000010000410000e60107840000010000410002990107850000010000410002530107870000010000410002a301078800000100004100ab660107890000010000410002a501078a0000010000410002a401078b00000200004100025601078d000001000041001d9101078e00000100004100025801078f00000100004100025e0107900000010000410002a901079100000100004100026401079200000100004100026201079300000100004100026001079400000100004100029b01079500000100004100012701079600000100004100029c0107970000010000410002670107980000010000410002840107990000020000410002aa01079b00000100004100026c01079c00000100004101df0401079d00000100004100a78e01079e00000100004100026e01079f00000100004101df050107a000000100004100028e0107a100000100004101df060107a20000010000410000f80107a30000020000410002760107a50000010000410000710107a600000100004100027a0107a700000100004101df080107a800000200004100027d0107aa0000010000410002800107ab0000010000410002a80107ac0000010000410002a6,
  0x107ad00000100004100ab670107ae0000010000410002a70107af0000010000410002880107b0000001000041002c710107b200000100004100028f0107b30000020000410002a10107b50000010000410002980107b60000030000410001c00107b900000100004101df0a0107ba00000100004101df1e01109a0000010000020110990110ba01109c00000100000201109b0110ba0110ab0000010000020110a50110ba01112e00000100000201113101112701112f00000100000201113201112701134b00000100000201134701133e01134c0000010000020113470113570114bb0000010000020114b90114ba0114bc0000010000020114b90114b00114be0000010000020114b90114bd0115ba0000010000020115b80115af0115bb0000010000020115b90115af01193800000100000201193501193001d15e00000100002201d15701d16501d15f00000100002201d15801d16501d16000000100002201d15f01d16e01d16100000100002201d15f01d16f01d16200000100002201d15f01d17001d16300000100002201d15f01d17101d16400000100002201d15f01d17201d1bb00000100002201d1b901d16501d1bc00000100002201d1ba01d16501d1bd00000100002201d1bb01d16e01d1be00000100002201d1bc01d16e01d1bf00000100002201d1bb01d16f01d1c000000100002201d1bc01d16f01d40000001a00004100004101d41a00001a00004100006101d43400001a00004100004101d44e00000700004100006101d45600001200004100006901d46800001a00004100004101d48200001a000041000061,
  0x1d49c00000100004100004101d49e00000200004100004301d4a200000100004100004701d4a500000200004100004a01d4a900000400004100004e01d4ae00000800004100005301d4b600000400004100006101d4bb00000100004100006601d4bd00000700004100006801d4c500000b00004100007001d4d000001a00004100004101d4ea00001a00004100006101d50400000200004100004101d50700000400004100004401d50d00000800004100004a01d51600000700004100005301d51e00001a00004100006101d53800000200004100004101d53b00000400004100004401d54000000500004100004901d54600000100004100004f01d54a00000700004100005301d55200001a00004100006101d56c00001a00004100004101d58600001a00004100006101d5a000001a00004100004101d5ba00001a00004100006101d5d400001a00004100004101d5ee00001a00004100006101d60800001a00004100004101d62200001a00004100006101d63c00001a00004100004101d65600001a00004100006101d67000001a00004100004101d68a00001a00004100006101d6a400000100004100013101d6a500000100004100023701d6a800001100004100039101d6b90000010000410003f401d6ba0000070000410003a301d6c100000100004100220701d6c20000190000410003b101d6db00000100004100220201d6dc0000010000410003f501d6dd0000010000410003d101d6de0000010000410003f001d6df0000010000410003d501d6e00000010000410003f101d6e10000010000410003d601d6e2000011000041000391,
  0x1d6f30000010000410003f401d6f40000070000410003a301d6fb00000100004100220701d6fc0000190000410003b101d71500000100004100220201d7160000010000410003f501d7170000010000410003d101d7180000010000410003f001d7190000010000410003d501d71a0000010000410003f101d71b0000010000410003d601d71c00001100004100039101d72d0000010000410003f401d72e0000070000410003a301d73500000100004100220701d7360000190000410003b101d74f00000100004100220201d7500000010000410003f501d7510000010000410003d101d7520000010000410003f001d7530000010000410003d501d7540000010000410003f101d7550000010000410003d601d75600001100004100039101d7670000010000410003f401d7680000070000410003a301d76f00000100004100220701d7700000190000410003b101d78900000100004100220201d78a0000010000410003f501d78b0000010000410003d101d78c0000010000410003f001d78d0000010000410003d501d78e0000010000410003f101d78f0000010000410003d601d79000001100004100039101d7a10000010000410003f401d7a20000070000410003a301d7a900000100004100220701d7aa0000190000410003b101d7c300000100004100220201d7c40000010000410003f501d7c50000010000410003d101d7c60000010000410003f001d7c70000010000410003d501d7c80000010000410003f101d7c90000010000410003d601d7ca0000020000410003dc01d7ce00000a00004100003001d7d800000a000041000030,
  0x1d7e200000a00004100003001d7ec00000a00004100003001d7f600000a00004100003001e03000000900004100043001e03900000300004100043a01e03c00000b00004100043e01e04700000100004100044b01e04800000200004100044d01e04a00000100004100a68901e04b0000010000410004d901e04c00000100004100045601e04d00000100004100045801e04e0000010000410004e901e04f0000010000410004af01e0500000010000410004cf01e05100000900004100043001e05a00000200004100043a01e05c00000200004100043e01e05e00000100004100044101e05f00000600004100044301e06500000200004100044a01e06700000100004100049101e06800000100004100045601e06900000100004100045501e06a00000100004100045f01e06b0000010000410004ab01e06c00000100004100a65101e06d0000010000410004b101ee0000000200004100062701ee0200000100004100062c01ee0300000100004100062f01ee0500000100004100064801ee0600000100004100063201ee0700000100004100062d01ee0800000100004100063701ee0900000100004100064a01ee0a00000400004100064301ee0e00000100004100063301ee0f00000100004100063901ee1000000100004100064101ee1100000100004100063501ee1200000100004100064201ee1300000100004100063101ee1400000100004100063401ee1500000200004100062a01ee1700000100004100062e01ee1800000100004100063001ee1900000100004100063601ee1a00000100004100063801ee1b00000100004100063a,
  0x1ee1c00000100004100066e01ee1d0000010000410006ba01ee1e0000010000410006a101ee1f00000100004100066f01ee2100000100004100062801ee2200000100004100062c01ee2400000100004100064701ee2700000100004100062d01ee2900000100004100064a01ee2a00000400004100064301ee2e00000100004100063301ee2f00000100004100063901ee3000000100004100064101ee3100000100004100063501ee3200000100004100064201ee3400000100004100063401ee3500000200004100062a01ee3700000100004100062e01ee3900000100004100063601ee3b00000100004100063a01ee4200000100004100062c01ee4700000100004100062d01ee4900000100004100064a01ee4b00000100004100064401ee4d00000100004100064601ee4e00000100004100063301ee4f00000100004100063901ee5100000100004100063501ee5200000100004100064201ee5400000100004100063401ee5700000100004100062e01ee5900000100004100063601ee5b00000100004100063a01ee5d0000010000410006ba01ee5f00000100004100066f01ee6100000100004100062801ee6200000100004100062c01ee6400000100004100064701ee6700000100004100062d01ee6800000100004100063701ee6900000100004100064a01ee6a00000100004100064301ee6c00000200004100064501ee6e00000100004100063301ee6f00000100004100063901ee7000000100004100064101ee7100000100004100063501ee7200000100004100064201ee7400000100004100063401ee7500000200004100062a,
  0x1ee7700000100004100062e01ee7900000100004100063601ee7a00000100004100063801ee7b00000100004100063a01ee7c00000100004100066e01ee7e0000010000410006a101ee8000000200004100062701ee8200000100004100062c01ee8300000100004100062f01ee8400000200004100064701ee8600000100004100063201ee8700000100004100062d01ee8800000100004100063701ee8900000100004100064a01ee8b00000300004100064401ee8e00000100004100063301ee8f00000100004100063901ee9000000100004100064101ee9100000100004100063501ee9200000100004100064201ee9300000100004100063101ee9400000100004100063401ee9500000200004100062a01ee9700000100004100062e01ee9800000100004100063001ee9900000100004100063601ee9a00000100004100063801ee9b00000100004100063a01eea100000100004100062801eea200000100004100062c01eea300000100004100062f01eea500000100004100064801eea600000100004100063201eea700000100004100062d01eea800000100004100063701eea900000100004100064a01eeab00000300004100064401eeae00000100004100063301eeaf00000100004100063901eeb000000100004100064101eeb100000100004100063501eeb200000100004100064201eeb300000100004100063101eeb400000100004100063401eeb500000200004100062a01eeb700000100004100062e01eeb800000100004100063001eeb900000100004100063601eeba00000100004100063801eebb00000100004100063a,
  0x1f10000000100004200003000002e01f10100000100004200003000002c01f10200000100004200003100002c01f10300000100004200003200002c01f10400000100004200003300002c01f10500000100004200003400002c01f10600000100004200003500002c01f10700000100004200003600002c01f10800000100004200003700002c01f10900000100004200003800002c01f10a00000100004200003900002c01f11000000100004300002800004100002901f11100000100004300002800004200002901f11200000100004300002800004300002901f11300000100004300002800004400002901f11400000100004300002800004500002901f11500000100004300002800004600002901f11600000100004300002800004700002901f11700000100004300002800004800002901f11800000100004300002800004900002901f11900000100004300002800004a00002901f11a00000100004300002800004b00002901f11b00000100004300002800004c00002901f11c00000100004300002800004d00002901f11d00000100004300002800004e00002901f11e00000100004300002800004f00002901f11f00000100004300002800005000002901f12000000100004300002800005100002901f12100000100004300002800005200002901f12200000100004300002800005300002901f12300000100004300002800005400002901f12400000100004300002800005500002901f12500000100004300002800005600002901f12600000100004300002800005700002901f127000001000043000028000058000029,
  0x1f12800000100004300002800005900002901f12900000100004300002800005a00002901f12a00000100004300301400005300301501f12b00000100004100004301f12c00000100004100005201f12d00000100004200004300004401f12e00000100004200005700005a01f13000001a00004100004101f14a00000100004200004800005601f14b00000100004200004d00005601f14c00000100004200005300004401f14d00000100004200005300005301f14e00000100004300005000005000005601f14f00000100004200005700004301f16a00000100004200004d00004301f16b00000100004200004d00004401f16c00000100004200004d00005201f19000000100004200004400004a01f20000000100004200307b00304b01f2010000010000420030b30030b301f2020000010000410030b501f21000000100004100624b01f211000001000041005b5701f2120000010000410053cc01f2130000010000410030c701f214000001000041004e8c01f21500000100004100591a01f2160000010000410089e301f21700000100004100592901f218000001000041004ea401f21900000100004100662001f21a00000100004100712101f21b00000100004100659901f21c00000100004100524d01f21d000001000041005f8c01f21e00000100004100518d01f21f0000010000410065b001f22000000100004100521d01f221000001000041007d4201f22200000100004100751f01f223000001000041008ca901f2240000010000410058f001f22500000100004100543901f226000001000041006f14,
  0x1f22700000100004100629501f22800000100004100635501f229000001000041004e0001f22a000001000041004e0901f22b00000100004100904a01f22c000001000041005de601f22d000001000041004e2d01f22e0000010000410053f301f22f00000100004100630701f230000001000041008d7001f23100000100004100625301f23200000100004100798101f233000001000041007a7a01f23400000100004100540801f235000001000041006e8001f23600000100004100670901f23700000100004100670801f23800000100004100753301f23900000100004100527201f23a0000010000410055b601f23b00000100004100914d01f24000000100004300301400672c00301501f241000001000043003014004e0900301501f242000001000043003014004e8c00301501f243000001000043003014005b8900301501f2440000010000430030140070b900301501f24500000100004300301400625300301501f2460000010000430030140076d700301501f2470000010000430030140052dd00301501f24800000100004300301400655700301501f250000001000041005f9701f2510000010000410053ef01fbf000000a00004100003002f800000001000021004e3d02f801000001000021004e3802f802000001000021004e4102f80300000100002102012202f804000001000021004f6002f805000001000021004fae02f806000001000021004fbb02f80700000100002100500202f80800000100002100507a02f80900000100002100509902f80a0000010000210050e702f80b0000010000210050cf,
  0x2f80c00000100002100349e02f80d00000100002102063a02f80e00000100002100514d02f80f00000100002100515402f81000000100002100516402f81100000100002100517702f81200000100002102051c02f8130000010000210034b902f81400000100002100516702f81500000100002100518d02f81600000100002102054b02f81700000100002100519702f8180000010000210051a402f819000001000021004ecc02f81a0000010000210051ac02f81b0000010000210051b502f81c0000010000210291df02f81d0000010000210051f502f81e00000100002100520302f81f0000010000210034df02f82000000100002100523b02f82100000100002100524602f82200000100002100527202f82300000100002100527702f82400000100002100351502f8250000010000210052c702f8260000010000210052c902f8270000010000210052e402f8280000010000210052fa02f82900000200002100530502f82b00000100002100531702f82c00000100002100534902f82d00000100002100535102f82e00000100002100535a02f82f00000100002100537302f83000000100002100537d02f83100000100002100537f02f83200000100002100537f02f83300000100002100537f02f834000001000021020a2c02f83500000100002100707002f8360000010000210053ca02f8370000010000210053df02f838000001000021020b6302f8390000010000210053eb02f83a0000010000210053f102f83b00000100002100540602f83c00000100002100549e02f83d00000100002100543802f83e000001000021005448,
  0x2f83f00000100002100546802f8400000010000210054a202f8410000010000210054f602f84200000100002100551002f84300000100002100555302f84400000100002100556302f84500000100002100558402f84600000100002100558402f84700000100002100559902f8480000010000210055ab02f8490000010000210055b302f84a0000010000210055c202f84b00000100002100571602f84c00000100002100560602f84d00000100002100571702f84e00000100002100565102f84f00000100002100567402f85000000100002100520702f8510000010000210058ee02f8520000010000210057ce02f8530000010000210057f402f85400000100002100580d02f85500000100002100578b02f85600000100002100583202f85700000100002100583102f8580000010000210058ac02f8590000010000210214e402f85a0000010000210058f202f85b0000010000210058f702f85c00000100002100590602f85d00000100002100591a02f85e00000100002100592202f85f00000100002100596202f8600000010000210216a802f8610000010000210216ea02f8620000010000210059ec02f863000001000021005a1b02f864000001000021005a2702f8650000010000210059d802f866000001000021005a6602f8670000010000210036ee02f8680000010000210036fc02f869000001000021005b0802f86a000001000021005b3e02f86b000001000021005b3e02f86c0000010000210219c802f86d000001000021005bc302f86e000001000021005bd802f86f000001000021005be702f870000001000021005bf3,
  0x2f871000001000021021b1802f872000001000021005bff02f873000001000021005c0602f874000001000021005f5302f875000001000021005c2202f87600000100002100378102f877000001000021005c6002f878000001000021005c6e02f879000001000021005cc002f87a000001000021005c8d02f87b000001000021021de402f87c000001000021005d4302f87d000001000021021de602f87e000001000021005d6e02f87f000001000021005d6b02f880000001000021005d7c02f881000002000021005de102f88300000100002100382f02f884000001000021005dfd02f885000001000021005e2802f886000001000021005e3d02f887000001000021005e6902f88800000100002100386202f88900000100002102218302f88a00000100002100387c02f88b000001000021005eb002f88c000001000021005eb302f88d000001000021005eb602f88e000001000021005eca02f88f00000100002102a39202f890000001000021005efe02f89100000100002102233102f89200000100002102233102f89300000100002100820102f894000001000021005f2202f895000001000021005f2202f8960000010000210038c702f8970000010000210232b802f8980000010000210261da02f899000001000021005f6202f89a000001000021005f6b02f89b0000010000210038e302f89c000001000021005f9a02f89d000001000021005fcd02f89e000001000021005fd702f89f000001000021005ff902f8a000000100002100608102f8a100000100002100393a02f8a200000100002100391c02f8a3000001000021006094,
  0x2f8a40000010000210226d402f8a50000010000210060c702f8a600000100002100614802f8a700000100002100614c02f8a800000100002100614e02f8a900000100002100614c02f8aa00000100002100617a02f8ab00000100002100618e02f8ac0000010000210061b202f8ad0000010000210061a402f8ae0000010000210061af02f8af0000010000210061de02f8b00000010000210061f202f8b10000010000210061f602f8b200000100002100621002f8b300000100002100621b02f8b400000100002100625d02f8b50000010000210062b102f8b60000010000210062d402f8b700000100002100635002f8b8000001000021022b0c02f8b900000100002100633d02f8ba0000010000210062fc02f8bb00000100002100636802f8bc00000100002100638302f8bd0000010000210063e402f8be000001000021022bf102f8bf00000100002100642202f8c00000010000210063c502f8c10000010000210063a902f8c2000001000021003a2e02f8c300000100002100646902f8c400000100002100647e02f8c500000100002100649d02f8c600000100002100647702f8c7000001000021003a6c02f8c800000100002100654f02f8c900000100002100656c02f8ca00000100002102300a02f8cb0000010000210065e302f8cc0000010000210066f802f8cd00000100002100664902f8ce000001000021003b1902f8cf00000100002100669102f8d0000001000021003b0802f8d1000001000021003ae402f8d200000100002100519202f8d300000100002100519502f8d400000100002100670002f8d500000100002100669c,
  0x2f8d60000010000210080ad02f8d70000010000210043d902f8d800000100002100671702f8d900000100002100671b02f8da00000100002100672102f8db00000100002100675e02f8dc00000100002100675302f8dd0000010000210233c302f8de000001000021003b4902f8df0000010000210067fa02f8e000000100002100678502f8e100000100002100685202f8e200000100002100688502f8e300000100002102346d02f8e400000100002100688e02f8e500000100002100681f02f8e600000100002100691402f8e7000001000021003b9d02f8e800000100002100694202f8e90000010000210069a302f8ea0000010000210069ea02f8eb000001000021006aa802f8ec0000010000210236a302f8ed000001000021006adb02f8ee000001000021003c1802f8ef000001000021006b2102f8f00000010000210238a702f8f1000001000021006b5402f8f2000001000021003c4e02f8f3000001000021006b7202f8f4000001000021006b9f02f8f5000002000021006bba02f8f7000001000021023a8d02f8f8000001000021021d0b02f8f9000001000021023afa02f8fa000001000021006c4e02f8fb000001000021023cbc02f8fc000001000021006cbf02f8fd000001000021006ccd02f8fe000001000021006c6702f8ff000001000021006d1602f900000001000021006d3e02f901000001000021006d7702f902000001000021006d4102f903000001000021006d6902f904000001000021006d7802f905000001000021006d8502f906000001000021023d1e02f907000001000021006d3402f908000001000021006e2f,
  0x2f909000001000021006e6e02f90a000001000021003d3302f90b000001000021006ecb02f90c000001000021006ec702f90d000001000021023ed102f90e000001000021006df902f90f000001000021006f6e02f910000001000021023f5e02f911000001000021023f8e02f912000001000021006fc602f91300000100002100703902f91400000100002100701e02f91500000100002100701b02f916000001000021003d9602f91700000100002100704a02f91800000100002100707d02f91900000100002100707702f91a0000010000210070ad02f91b00000100002102052502f91c00000100002100714502f91d00000100002102426302f91e00000100002100719c02f91f0000010000210243ab02f92000000100002100722802f92100000100002100723502f92200000100002100725002f92300000100002102460802f92400000100002100728002f92500000100002100729502f92600000100002102473502f92700000100002102481402f92800000100002100737a02f92900000100002100738b02f92a000001000021003eac02f92b0000010000210073a502f92c000001000021003eb802f92d000001000021003eb802f92e00000100002100744702f92f00000100002100745c02f93000000100002100747102f93100000100002100748502f9320000010000210074ca02f933000001000021003f1b02f93400000100002100752402f935000001000021024c3602f93600000100002100753e02f937000001000021024c9202f93800000100002100757002f93900000100002102219f02f93a000001000021007610,
  0x2f93b000001000021024fa102f93c000001000021024fb802f93d00000100002102504402f93e000001000021003ffc02f93f00000100002100400802f9400000010000210076f402f9410000010000210250f302f9420000010000210250f202f94300000100002102511902f94400000100002102513302f94500000200002100771e02f94700000100002100771f02f94800000100002100774a02f94900000100002100403902f94a00000100002100778b02f94b00000100002100404602f94c00000100002100409602f94d00000100002102541d02f94e00000100002100784e02f94f00000100002100788c02f9500000010000210078cc02f9510000010000210040e302f95200000100002102562602f95300000100002100795602f95400000100002102569a02f9550000010000210256c502f95600000100002100798f02f9570000010000210079eb02f95800000100002100412f02f959000001000021007a4002f95a000001000021007a4a02f95b000001000021007a4f02f95c00000100002102597c02f95d000001000021025aa702f95e000001000021025aa702f95f000001000021007aee02f96000000100002100420202f961000001000021025bab02f962000001000021007bc602f963000001000021007bc902f96400000100002100422702f965000001000021025c8002f966000001000021007cd202f9670000010000210042a002f968000001000021007ce802f969000001000021007ce302f96a000001000021007d0002f96b000001000021025f8602f96c000001000021007d6302f96d000001000021004301]

/-- Decomposition mappings: per run of code points the first, how many, 32 × kind + length, and the mapping of the first, whose one code point rises by 1 along a longer run; kind 0 canonical, 1 canonical and excluded from composition, 2 compatibility; numbers of 24 bits, the first highest, part 5. -/
def decompRows5 : List Nat := [
  0x2f96e000001000021007dc702f96f000001000021007e0202f970000001000021007e4502f97100000100002100433402f97200000100002102622802f97300000100002102624702f97400000100002100435902f9750000010000210262d902f976000001000021007f7a02f97700000100002102633e02f978000001000021007f9502f979000001000021007ffa02f97a00000100002100800502f97b0000010000210264da02f97c00000100002102652302f97d00000100002100806002f97e0000010000210265a802f97f00000100002100807002f98000000100002102335f02f9810000010000210043d502f9820000010000210080b202f98300000100002100810302f98400000100002100440b02f98500000100002100813e02f986000001000021005ab502f9870000010000210267a702f9880000010000210267b502f98900000100002102339302f98a00000100002102339c02f98b00000100002100820102f98c00000100002100820402f98d000001000021008f9e02f98e00000100002100446b02f98f00000100002100829102f99000000100002100828b02f99100000100002100829d02f9920000010000210052b302f9930000010000210082b102f9940000010000210082b302f9950000010000210082bd02f9960000010000210082e602f997000001000021026b3c02f9980000010000210082e502f99900000100002100831d02f99a00000100002100836302f99b0000010000210083ad02f99c00000100002100832302f99d0000010000210083bd02f99e0000010000210083e702f99f000001000021008457,
  0x2f9a000000100002100835302f9a10000010000210083ca02f9a20000010000210083cc02f9a30000010000210083dc02f9a4000001000021026c3602f9a5000001000021026d6b02f9a6000001000021026cd502f9a700000100002100452b02f9a80000010000210084f102f9a90000010000210084f302f9aa00000100002100851602f9ab0000010000210273ca02f9ac00000100002100856402f9ad000001000021026f2c02f9ae00000100002100455d02f9af00000100002100456102f9b0000001000021026fb102f9b10000010000210270d202f9b200000100002100456b02f9b300000100002100865002f9b400000100002100865c02f9b500000100002100866702f9b600000100002100866902f9b70000010000210086a902f9b800000100002100868802f9b900000100002100870e02f9ba0000010000210086e202f9bb00000100002100877902f9bc00000100002100872802f9bd00000100002100876b02f9be00000100002100878602f9bf0000010000210045d702f9c00000010000210087e102f9c100000100002100880102f9c20000010000210045f902f9c300000100002100886002f9c400000100002100886302f9c500000100002102766702f9c60000010000210088d702f9c70000010000210088de02f9c800000100002100463502f9c90000010000210088fa02f9ca0000010000210034bb02f9cb0000010000210278ae02f9cc00000100002102796602f9cd0000010000210046be02f9ce0000010000210046c702f9cf000001000021008aa002f9d0000001000021008aed02f9d1000001000021008b8a,
  0x2f9d2000001000021008c5502f9d3000001000021027ca802f9d4000001000021008cab02f9d5000001000021008cc102f9d6000001000021008d1b02f9d7000001000021008d7702f9d8000001000021027f2f02f9d900000100002102080402f9da000001000021008dcb02f9db000001000021008dbc02f9dc000001000021008df002f9dd0000010000210208de02f9de000001000021008ed402f9df000001000021008f3802f9e00000010000210285d202f9e10000010000210285ed02f9e200000100002100909402f9e30000010000210090f102f9e400000100002100911102f9e500000100002102872e02f9e600000100002100911b02f9e700000100002100923802f9e80000020000210092d702f9ea00000100002100927c02f9eb0000010000210093f902f9ec00000100002100941502f9ed000001000021028bfa02f9ee00000100002100958b02f9ef00000100002100499502f9f00000010000210095b702f9f1000001000021028d7702f9f20000010000210049e602f9f30000010000210096c302f9f4000001000021005db202f9f500000100002100972302f9f600000100002102914502f9f700000100002102921a02f9f8000001000021004a6e02f9f9000001000021004a7602f9fa0000010000210097e002f9fb00000100002102940a02f9fc000001000021004ab202f9fd00000100002102949602f9fe00000100002100980b02f9ff00000100002100980b02fa0000000100002100982902fa010000010000210295b602fa020000010000210098e202fa03000001000021004b3302fa04000001000021009929,
  0x2fa050000010000210099a702fa060000010000210099c202fa070000010000210099fe02fa08000001000021004bce02fa09000001000021029b3002fa0a000001000021009b1202fa0b000001000021009c4002fa0c000001000021009cfd02fa0d000001000021004cce02fa0e000001000021004ced02fa0f000001000021009d6702fa1000000100002102a0ce02fa11000001000021004cf802fa1200000100002102a10502fa1300000100002102a20e02fa1400000100002102a29102fa15000001000021009ebb02fa16000001000021004d5602fa17000001000021009ef902fa18000001000021009efe02fa19000001000021009f0502fa1a000001000021009f0f02fa1b000001000021009f1602fa1c000001000021009f3b02fa1d00000100002102a600]

/-- Decomposition mappings: per run of code points the first, how many, 32 × kind + length, and the mapping of the first, whose one code point rises by 1 along a longer run; kind 0 canonical, 1 canonical and excluded from composition, 2 compatibility; numbers of 24 bits, the first highest. -/
def decompRows : List Nat := decompRows0 ++ decompRows1 ++ decompRows2 ++ decompRows3 ++ decompRows4 ++ decompRows5

/-- Combining classes other than 0: per run of code points the first, the last and the class; numbers of 24 bits, the first highest, part 0. -/
def classRows0 : List Nat := [
  0x3000003140000e60003150003150000e80003160003190000dc00031a00031a0000e800031b00031b0000d800031c0003200000dc0003210003220000ca0003230003260000dc0003270003280000ca0003290003330000dc00033400033800000100033900033c0000dc00033d0003440000e60003450003450000f00003460003460000e60003470003490000dc00034a00034c0000e600034d00034e0000dc0003500003520000e60003530003560000dc0003570003570000e60003580003580000e800035900035a0000dc00035b00035b0000e600035c00035c0000e900035d00035e0000ea00035f00035f0000e90003600003610000ea0003620003620000e900036300036f0000e60004830004870000e60005910005910000dc0005920005950000e60005960005960000dc0005970005990000e600059a00059a0000de00059b00059b0000dc00059c0005a10000e60005a20005a70000dc0005a80005a90000e60005aa0005aa0000dc0005ab0005ac0000e60005ad0005ad0000de0005ae0005ae0000e40005af0005af0000e60005b00005b000000a0005b10005b100000b0005b20005b200000c0005b30005b300000d0005b40005b400000e0005b50005b500000f0005b60005b60000100005b70005b70000110005b80005b80000120005b90005ba0000130005bb0005bb0000140005bc0005bc0000150005bd0005bd0000160005bf0005bf0000170005c10005c10000180005c20005c20000190005c40005c40000e60005c50005c50000dc0005c70005c70000120006100006170000e600061800061800001e,
  0x61900061900001f00061a00061a00002000064b00064b00001b00064c00064c00001c00064d00064d00001d00064e00064e00001e00064f00064f00001f0006500006500000200006510006510000210006520006520000220006530006540000e60006550006560000dc00065700065b0000e600065c00065c0000dc00065d00065e0000e600065f00065f0000dc0006700006700000230006d60006dc0000e60006df0006e20000e60006e30006e30000dc0006e40006e40000e60006e70006e80000e60006ea0006ea0000dc0006eb0006ec0000e60006ed0006ed0000dc0007110007110000240007300007300000e60007310007310000dc0007320007330000e60007340007340000dc0007350007360000e60007370007390000dc00073a00073a0000e600073b00073c0000dc00073d00073d0000e600073e00073e0000dc00073f0007410000e60007420007420000dc0007430007430000e60007440007440000dc0007450007450000e60007460007460000dc0007470007470000e60007480007480000dc00074900074a0000e60007eb0007f10000e60007f20007f20000dc0007f30007f30000e60007fd0007fd0000dc0008160008190000e600081b0008230000e60008250008270000e600082900082d0000e600085900085b0000dc0008980008980000e600089900089b0000dc00089c00089f0000e60008ca0008ce0000e60008cf0008d30000dc0008d40008e10000e60008e30008e30000dc0008e40008e50000e60008e60008e60000dc0008e70008e80000e60008e90008e90000dc0008ea0008ec0000e6,
  0x8ed0008ef0000dc0008f00008f000001b0008f10008f100001c0008f20008f200001d0008f30008f50000e60008f60008f60000dc0008f70008f80000e60008f90008fa0000dc0008fb0008ff0000e600093c00093c00000700094d00094d0000090009510009510000e60009520009520000dc0009530009540000e60009bc0009bc0000070009cd0009cd0000090009fe0009fe0000e6000a3c000a3c000007000a4d000a4d000009000abc000abc000007000acd000acd000009000b3c000b3c000007000b4d000b4d000009000bcd000bcd000009000c3c000c3c000007000c4d000c4d000009000c55000c55000054000c56000c5600005b000cbc000cbc000007000ccd000ccd000009000d3b000d3c000009000d4d000d4d000009000dca000dca000009000e38000e39000067000e3a000e3a000009000e48000e4b00006b000eb8000eb9000076000eba000eba000009000ec8000ecb00007a000f18000f190000dc000f35000f350000dc000f37000f370000dc000f39000f390000d8000f71000f71000081000f72000f72000082000f74000f74000084000f7a000f7d000082000f80000f80000082000f82000f830000e6000f84000f84000009000f86000f870000e6000fc6000fc60000dc00103700103700000700103900103a00000900108d00108d0000dc00135d00135f0000e60017140017150000090017340017340000090017d20017d20000090017dd0017dd0000e60018a90018a90000e40019390019390000de00193a00193a0000e600193b00193b0000dc001a17001a170000e6001a18001a180000dc,
  0x1a60001a60000009001a75001a7c0000e6001a7f001a7f0000dc001ab0001ab40000e6001ab5001aba0000dc001abb001abc0000e6001abd001abd0000dc001abf001ac00000dc001ac1001ac20000e6001ac3001ac40000dc001ac5001ac90000e6001aca001aca0000dc001acb001ace0000e6001b34001b34000007001b44001b44000009001b6b001b6b0000e6001b6c001b6c0000dc001b6d001b730000e6001baa001bab000009001be6001be6000007001bf2001bf3000009001c37001c37000007001cd0001cd20000e6001cd4001cd4000001001cd5001cd90000dc001cda001cdb0000e6001cdc001cdf0000dc001ce0001ce00000e6001ce2001ce8000001001ced001ced0000dc001cf4001cf40000e6001cf8001cf90000e6001dc0001dc10000e6001dc2001dc20000dc001dc3001dc90000e6001dca001dca0000dc001dcb001dcc0000e6001dcd001dcd0000ea001dce001dce0000d6001dcf001dcf0000dc001dd0001dd00000ca001dd1001df50000e6001df6001df60000e8001df7001df80000e4001df9001df90000dc001dfa001dfa0000da001dfb001dfb0000e6001dfc001dfc0000e9001dfd001dfd0000dc001dfe001dfe0000e6001dff001dff0000dc0020d00020d10000e60020d20020d30000010020d40020d70000e60020d80020da0000010020db0020dc0000e60020e10020e10000e60020e50020e60000010020e70020e70000e60020e80020e80000dc0020e90020e90000e60020ea0020eb0000010020ec0020ef0000dc0020f00020f00000e6002cef002cf10000e6002d7f002d7f000009,
  0x2de0002dff0000e600302a00302a0000da00302b00302b0000e400302c00302c0000e800302d00302d0000de00302e00302f0000e000309900309a00000800a66f00a66f0000e600a67400a67d0000e600a69e00a69f0000e600a6f000a6f10000e600a80600a80600000900a82c00a82c00000900a8c400a8c400000900a8e000a8f10000e600a92b00a92d0000dc00a95300a95300000900a9b300a9b300000700a9c000a9c000000900aab000aab00000e600aab200aab30000e600aab400aab40000dc00aab700aab80000e600aabe00aabf0000e600aac100aac10000e600aaf600aaf600000900abed00abed00000900fb1e00fb1e00001a00fe2000fe260000e600fe2700fe2d0000dc00fe2e00fe2f0000e60101fd0101fd0000dc0102e00102e00000dc01037601037a0000e6010a0d010a0d0000dc010a0f010a0f0000e6010a38010a380000e6010a39010a39000001010a3a010a3a0000dc010a3f010a3f000009010ae5010ae50000e6010ae6010ae60000dc010d24010d270000e6010eab010eac0000e6010efd010eff0000dc010f46010f470000dc010f48010f4a0000e6010f4b010f4b0000dc010f4c010f4c0000e6010f4d010f500000dc010f82010f820000e6010f83010f830000dc010f84010f840000e6010f85010f850000dc01104601104600000901107001107000000901107f01107f0000090110b90110b90000090110ba0110ba0000070111000111020000e60111330111340000090111730111730000070111c00111c00000090111ca0111ca000007011235011235000009011236011236000007,
  0x112e90112e90000070112ea0112ea00000901133b01133c00000701134d01134d00000901136601136c0000e60113700113740000e601144201144200000901144601144600000701145e01145e0000e60114c20114c20000090114c30114c30000070115bf0115bf0000090115c00115c000000701163f01163f0000090116b60116b60000090116b70116b700000701172b01172b00000901183901183900000901183a01183a00000701193d01193e0000090119430119430000070119e00119e0000009011a34011a34000009011a47011a47000009011a99011a99000009011c3f011c3f000009011d42011d42000007011d44011d45000009011d97011d97000009011f41011f42000009016af0016af4000001016b30016b360000e6016ff0016ff100000601bc9e01bc9e00000101d16501d1660000d801d16701d16900000101d16d01d16d0000e201d16e01d1720000d801d17b01d1820000dc01d18501d1890000e601d18a01d18b0000dc01d1aa01d1ad0000e601d24201d2440000e601e00001e0060000e601e00801e0180000e601e01b01e0210000e601e02301e0240000e601e02601e02a0000e601e08f01e08f0000e601e13001e1360000e601e2ae01e2ae0000e601e2ec01e2ef0000e601e4ec01e4ed0000e801e4ee01e4ee0000dc01e4ef01e4ef0000e601e8d001e8d60000dc01e94401e9490000e601e94a01e94a000007]

/-- Combining classes other than 0: per run of code points the first, the last and the class; numbers of 24 bits, the first highest. -/
def classRows : List Nat := classRows0

end Sys2Proof.Machine
end

