-- ==== Sys2Proof/Machine/Unicode.lean ====
section
/-! DEFINITION. Normalisation forms NFC and NFKC of the Unicode Standard, version 15.1.0 (R333): decomposition, canonical ordering, canonical composition. -/

namespace Sys2Proof.Machine

/-! ### Reading the packed data -/

/-- The numbers of 24 bits in a row, the first highest, before those of `acc`. -/
def unpack24 : Nat → Nat → List Nat → List Nat
  | 0, _, acc => acc
  | n + 1, w, acc => if w = 0 then acc else unpack24 n (w / 2 ^ 24) (w % 2 ^ 24 :: acc)

/-- A run of decomposition mappings. -/
structure DecompRun where
  first : Nat
  count : Nat
  kind : Nat
  image : List Nat
  deriving DecidableEq, Repr, Inhabited

/-- The runs in a row of numbers. -/
def decompRuns : Nat → List Nat → List DecompRun
  | n + 1, f :: c :: k :: t => { first := f, count := c, kind := k / 32, image := t.take (k % 32) } :: decompRuns n (t.drop (k % 32))
  | _, _ => []

/-- Every decomposition mapping. -/
def decompTable : List DecompRun := decompRows.flatMap (fun w => decompRuns 200 (unpack24 200 w []))

/-- The runs of combining classes in a row of numbers: first, last, class. -/
def classRuns : Nat → List Nat → List (Nat × Nat × Nat)
  | n + 1, a :: b :: c :: t => (a, b, c) :: classRuns n t
  | _, _ => []

/-- Every combining class other than 0. -/
def classTable : List (Nat × Nat × Nat) := classRows.flatMap (fun w => classRuns 200 (unpack24 200 w []))

/-- The combining class of a code point. -/
def combClass (c : Nat) : Nat := ((classTable.find? (fun r => decide (r.1 ≤ c) && decide (c ≤ r.2.1))).map (·.2.2)).getD 0

/-! ### Decomposition -/

/-- The decomposition of a Hangul syllable into its two or three letters. -/
def hangulDecomp (c : Nat) : List Nat :=
  let n := c - 0xAC00
  let t := n % 28
  [0x1100 + n / 588, 0x1161 + n % 588 / 28] ++ (if t = 0 then [] else [0x11A7 + t])

/-- One step of decomposition: the mapping of a code point, canonical or, with `compat`, any. -/
def decompOnce (compat : Bool) (c : Nat) : Option (List Nat) :=
  if 0xAC00 ≤ c && c ≤ 0xD7A3 then some (hangulDecomp c)
  else
    match decompTable.find? (fun r => decide (r.first ≤ c) && decide (c < r.first + r.count)) with
    | some r => if r.kind = 2 && !compat then none else if r.count = 1 then some r.image else some (r.image.map (· + (c - r.first)))
    | none => none

/-- The full decomposition of a code point; the data nest less than 8 deep. -/
def decompPoint (compat : Bool) : Nat → Nat → List Nat
  | 0, c => [c]
  | n + 1, c =>
    match decompOnce compat c with
    | some l => l.flatMap (decompPoint compat n)
    | none => [c]

/-! ### Canonical ordering -/

/-- Put a code point before a list in canonical order: a mark passes the marks of lower class. -/
def orderIn (x : Nat × Nat) : List (Nat × Nat) → List (Nat × Nat)
  | [] => [x]
  | y :: t => if x.2 = 0 || y.2 = 0 || x.2 ≤ y.2 then x :: y :: t else y :: orderIn x t

/-- Code points with their classes, in canonical order. -/
def ordered (l : List Nat) : List (Nat × Nat) := (l.map (fun c => (c, combClass c))).foldr orderIn []

/-! ### Canonical composition -/

/-- The primary composite of a pair. -/
def composePair (a b : Nat) : Option Nat :=
  if 0x1100 ≤ a && a ≤ 0x1112 && 0x1161 ≤ b && b ≤ 0x1175 then some (0xAC00 + (a - 0x1100) * 588 + (b - 0x1161) * 28)
  else if 0xAC00 ≤ a && a ≤ 0xD7A3 && (a - 0xAC00) % 28 = 0 && 0x11A8 ≤ b && b ≤ 0x11C2 then some (a + (b - 0x11A7))
  else (decompTable.find? (fun r => r.kind == 0 && r.image == [a, b])).map (·.first)

/-- What composition holds: the text before the last starter, that starter, and the marks after it with the class of the last. -/
structure Composing where
  out : List Nat
  starter : Option Nat
  marks : List Nat
  last : Nat
  deriving DecidableEq, Repr, Inhabited

/-- The text that composition holds. -/
def Composing.text (k : Composing) : List Nat := k.out ++ k.starter.toList ++ k.marks

/-- Take one code point: it joins the last starter where nothing between blocks it and the pair has a primary composite. -/
def Composing.take (k : Composing) (x : Nat × Nat) : Composing :=
  let free : Bool := k.marks = [] || k.last < x.2
  match (if free then k.starter.bind (fun s => composePair s x.1) else none) with
  | some p => { k with starter := some p }
  | none =>
    if x.2 = 0 then { out := k.text, starter := some x.1, marks := [], last := 0 }
    else { k with marks := k.marks ++ [x.1], last := x.2 }

/-- A normalisation form: NFC, or NFKC with `compat`. -/
def normalise (compat : Bool) (l : List Nat) : List Nat :=
  ((ordered (l.flatMap (decompPoint compat 8))).foldl Composing.take { out := [], starter := none, marks := [], last := 0 }).text

end Sys2Proof.Machine
end

