-- ==== Sys2Proof/Machine/Text.lean ====
section
/-! DEFINITION. Text: the UTF-8 assembler, the tokenizer, stop strings and field conversion (R333-R335, R345, R348, R353). -/

namespace Sys2Proof.Machine

/-! ### The UTF-8 assembler (R345) -/

/-- A character that the assembler releases: its bytes, the field of the token that supplied its first byte, and whether it is a repair. -/
structure AsmChar where
  bytes : List Byte
  field : Nat
  repair : Bool
  deriving DecidableEq, Repr, Inhabited

/-- Bytes of a character by its first byte; 0 for a byte that starts none. -/
def utf8Need (x : Nat) : Nat :=
  if x < 0x80 then 1
  else if 0xC2 ≤ x && x ≤ 0xDF then 2
  else if 0xE0 ≤ x && x ≤ 0xEF then 3
  else if 0xF0 ≤ x && x ≤ 0xF4 then 4
  else 0

/-- Range of the next byte after the bytes held (lo and hi of R345). -/
def utf8Range : List Byte → Nat × Nat
  | [b] =>
    match b.toNat with
    | 0xE0 => (0xA0, 0xBF)
    | 0xED => (0x80, 0x9F)
    | 0xF0 => (0x90, 0xBF)
    | 0xF4 => (0x80, 0x8F)
    | _ => (0x80, 0xBF)
  | _ => (0x80, 0xBF)

/-- U+FFFD in UTF-8. -/
def fffd : List Byte := [0xEF, 0xBF, 0xBD]

/-- A byte when nothing is held: what it releases, what is held after it. -/
def asmFresh (x : Byte) (fld : Nat) : List AsmChar × List Byte × Nat :=
  match utf8Need x.toNat with
  | 0 => ([⟨fffd, fld, true⟩], [], 0)
  | 1 => ([⟨[x], fld, false⟩], [], 0)
  | _ => ([], [x], fld)

/-- One byte through the assembler: what it releases, what is held after it and for which field. -/
def asmByte (pend : List Byte) (pf : Nat) (x : Byte) (fld : Nat) : List AsmChar × List Byte × Nat :=
  match pend with
  | [] => asmFresh x fld
  | b :: _ =>
    let r := utf8Range pend
    if r.1 ≤ x.toNat && x.toNat ≤ r.2 then
      let p := pend ++ [x]
      if p.length = utf8Need b.toNat then ([⟨p, pf, false⟩], [], 0) else ([], p, pf)
    else
      let f := asmFresh x fld
      (⟨fffd, pf, true⟩ :: f.1, f.2)

/-- Bytes through the assembler. -/
def asmBytes (pend : List Byte) (pf : Nat) (fld : Nat) : List Byte → List AsmChar × List Byte × Nat
  | [] => ([], pend, pf)
  | x :: t =>
    let a := asmByte pend pf x fld
    let b := asmBytes a.2.1 a.2.2 fld t
    (a.1 ++ b.1, b.2)

/-- The end of a text: held bytes become one repair. -/
def asmEnd (pend : List Byte) (pf : Nat) : List AsmChar :=
  if pend = [] then [] else [⟨fffd, pf, true⟩]

/-- A whole text through the assembler. -/
def asmText (l : List Byte) : List AsmChar :=
  let a := asmBytes [] 0 0 l
  a.1 ++ asmEnd a.2.1 a.2.2

/-- The characters of well-formed UTF-8. -/
def splitChars (l : List Byte) : List (List Byte) := (asmText l).map (·.bytes)

/-- The code point of a character. -/
def codePoint : List Byte → Nat
  | [] => 0
  | [a] => a.toNat
  | a :: t =>
    let lead := if t.length = 1 then a.toNat % 32 else if t.length = 2 then a.toNat % 16 else a.toNat % 8
    t.foldl (fun v b => v * 64 + b.toNat % 64) lead

/-- A code point in UTF-8. -/
def encodePoint (c : Nat) : List Byte :=
  let o (n : Nat) : Byte := BitVec.ofNat 8 n
  if c < 0x80 then [o c]
  else if c < 0x800 then [o (0xC0 + c / 64), o (0x80 + c % 64)]
  else if c < 0x10000 then [o (0xE0 + c / 4096), o (0x80 + c / 64 % 64), o (0x80 + c % 64)]
  else [o (0xF0 + c / 262144), o (0x80 + c / 4096 % 64), o (0x80 + c / 64 % 64), o (0x80 + c % 64)]

/-! ### The tokenizer (R333, R334) -/

/-- Apply one fold table: its output is not scanned again by the same table. -/
def foldPoints (t : List FoldEnt) (l : List Nat) : List Nat :=
  l.flatMap (fun c =>
    match t.find? (fun e => e.src == c) with
    | some e => e.dst
    | none => [c])

/-- The fold tables whose FOLD_EN bit is set, in the order 0 to 3. -/
def foldAll (ts : TSet) (l : List Nat) : List Nat :=
  (List.range 4).foldl (fun l k => if bit ts.foldEn k then foldPoints (ts.folds.getD k []) l else l) l

/-- Probe the merge table from an index: at most `n` entries, upward with wrap, failing at the first empty entry. -/
def mergeProbe (ts : TSet) (a b : Nat) : Nat → Nat → Option MergeEnt
  | 0, _ => none
  | n + 1, i =>
    match ts.merges[i % 2 ^ ts.hb]? with
    | none => none
    | some e =>
      if e.rank = 0xFFFF then none
      else if e.left = a && e.right = b then some e
      else mergeProbe ts a b n (i + 1)

/-- The merge entry of a pair (R333). -/
def mergeOf (ts : TSet) (a b : Nat) : Option MergeEnt :=
  mergeProbe ts a b (2 ^ ts.hb) ((a * 40503 + b) % 2 ^ ts.hb)

/-- The place and entry of the adjacent pair with the lowest RANK, the leftmost of equals. -/
def bestMerge (ts : TSet) : List Nat → Nat → Option (Nat × MergeEnt)
  | a :: b :: t, i =>
    let rest := bestMerge ts (b :: t) (i + 1)
    match mergeOf ts a b with
    | none => rest
    | some e =>
      match rest with
      | some (j, f) => if f.rank < e.rank then some (j, f) else some (i, e)
      | none => some (i, e)
  | _, _ => none

/-- Merge until no adjacent pair has an entry; each merge shortens the text by one. -/
def mergeLoop (ts : TSet) : Nat → List Nat → List Nat
  | 0, l => l
  | n + 1, l =>
    match bestMerge ts l 0 with
    | none => l
    | some (i, e) => mergeLoop ts n (l.take i ++ [e.result] ++ l.drop (i + 2))

/-- The tokens of a text, and the number of repairs the assembler made (R333, R335). -/
def tokenize (ts : TSet) (l : List Byte) : List Nat × Nat :=
  let cs := asmText l
  let pts := cs.map (fun c => codePoint c.bytes)
  let pts := match ts.norm with
    | 1 => normalise false pts
    | 2 => normalise true pts
    | _ => pts
  let bytes := (foldAll ts pts).flatMap encodePoint
  let toks := bytes.map (fun b => ts.byteMap.getD b.toNat 0)
  (mergeLoop ts toks.length toks, (cs.filter (·.repair)).length)

/-! ### Stop strings (R348) -/

/-- Whether a list of characters ends in another. -/
def endsIn (l t : List (List Byte)) : Bool := t.length ≤ l.length && l.drop (l.length - t.length) == t

/-- The stop string that completes: the earliest start, then the lower number. -/
def stopDone (stops : List (List (List Byte))) (hold : List (List Byte)) : Option (Nat × Nat) :=
  (List.range stops.length).foldl (fun (best : Option (Nat × Nat)) k =>
    let t := stops.getD k []
    if endsIn hold t && t != [] then
      match best with
      | some (_, n) => if n < t.length then some (k, t.length) else best
      | none => some (k, t.length)
    else best) none

/-- Whether characters are a proper prefix of some stop string. -/
def properPrefix (stops : List (List (List Byte))) (l : List (List Byte)) : Bool :=
  stops.any (fun t => l.length < t.length && t.take l.length == l)

/-- Split the hold: what is emitted from its front, and what stays held. -/
def releaseHold (stops : List (List (List Byte))) : List (List Byte) → List (List Byte) × List (List Byte)
  | [] => ([], [])
  | c :: t =>
    if properPrefix stops (c :: t) then ([], c :: t)
    else
      let r := releaseHold stops t
      (c :: r.1, r.2)

/-! ### Field values (R353) -/

/-- An ASCII digit's value. -/
def digit? (b : Byte) : Option Nat :=
  if 0x30 ≤ b.toNat && b.toNat ≤ 0x39 then some (b.toNat - 0x30) else none

/-- The number that decimal digits spell. -/
def digits (l : List Byte) : Option Nat :=
  l.foldl (fun a b =>
    match a, digit? b with
    | some v, some d => some (v * 10 + d)
    | _, _ => none) (some 0)

/-- Take an optional "-" off the front. -/
def signOf : List Byte → Bool × List Byte
  | 0x2D :: t => (true, t)
  | l => (false, l)

/-- INT. -/
def convInt (l : List Byte) : Option (List Byte) :=
  let (neg, d) := signOf l
  if d.length < 1 || 18 < d.length then none
  else
    match digits d with
    | some v => some (leBytes 8 (uns 64 (if neg then -(v : Int) else v)))
    | none => none

/-- DEC: mantissa and exponent. -/
def convDec (l : List Byte) : Option (List Byte) :=
  let (neg, d) := signOf l
  let isPoint (b : Byte) := b == 0x2E || b == 0x2C
  let whole := d.takeWhile (fun b => !isPoint b)
  let frac := (d.drop whole.length).drop 1
  if frac.any isPoint || whole.length + frac.length < 1 || 18 < whole.length + frac.length then none
  else
    match digits (whole ++ frac) with
    | some v => some (leBytes 8 (uns 64 (if neg then -(v : Int) else v)) ++ leBytes 1 (uns 8 (-(frac.length : Int))) ++ zeros 3)
    | none => none

/-- Days of a month of the proleptic Gregorian calendar. -/
def monthDays (y m : Nat) : Nat :=
  let leap := (y % 4 = 0 && y % 100 ≠ 0) || y % 400 = 0
  match m with
  | 2 => if leap then 29 else 28
  | 4 => 30 | 6 => 30 | 9 => 30 | 11 => 30
  | _ => 31

/-- DATE: YYYY-MM-DD. -/
def convDate (l : List Byte) : Option (List Byte) :=
  if l.length ≠ 10 || l.getD 4 0 ≠ 0x2D || l.getD 7 0 ≠ 0x2D then none
  else
    match digits (l.take 4), digits ((l.drop 5).take 2), digits (l.drop 8) with
    | some y, some m, some d =>
      if 1 ≤ m && m ≤ 12 && 1 ≤ d && d ≤ monthDays y m then some (leBytes 2 y ++ leBytes 1 m ++ leBytes 1 d) else none
    | _, _, _ => none

/-- The VALUE of a field of a TYPE, from its text and TAG; none when the text does not convert. -/
def convField (typ tag : Nat) (text : List Byte) : Option (List Byte) :=
  match typ with
  | 2 => convInt text
  | 3 => convDec text
  | 4 => convDate text
  | 5 => some (leBytes 2 tag)
  | _ => some text

end Sys2Proof.Machine
end

