-- ==== Sys2Proof/Machine/Fields.lean ====
section
/-! DEFINITION. What a SEQUENCE makes of its characters: fields, NOTE text with its stop strings, LIVE text, and its field entries at its end (R345-R351). -/

namespace Sys2Proof.Machine

/-- A field that ended without being read: no characters, no confidence taken. -/
def blankField (t : FieldEnt) (st : Status) (re : FReason) : FieldRes :=
  { id := t.id, typ := t.typ, status := st, conf := 0xFFFF, reason := re, value := [], required := t.required, threshold := t.threshold
    escalated := false, voted := false, repaired := false, reached := false, closed := 0 }

/-! ### Characters by output class (R345-R349) -/

/-- Add a character to the field of the token that supplied its first byte (R349): a value over 1,024 bytes takes nothing more. -/
def addChar (c : AsmChar) (fs : List FieldVal) : List FieldVal :=
  fs.map (fun f =>
    if f.id = c.field then
      let f := { f with repaired := f.repaired || c.repair }
      if f.overlong || 1024 < f.bytes.length + c.bytes.length then { f with overlong := true } else { f with bytes := f.bytes ++ c.bytes }
    else f)

/-- A token contributes to a field (R349). -/
def contribute (id conf tag : Nat) (fs : List FieldVal) : List FieldVal :=
  if id = 0 then fs
  else if fs.any (fun f => f.id == id) then
    fs.map (fun f => if f.id = id then { f with conf := min f.conf conf, tag := tag, touched := true } else f)
  else fs ++ [{ id := id, bytes := [], overlong := false, conf := conf, tag := tag, touched := true, closed := 0, repaired := false }]

/-- Close the current field: its place is that of its last closing. -/
def Seq.closeField (q : Seq) : Seq :=
  if q.curField = 0 then q
  else { q with closeNo := q.closeNo + 1, curField := 0
                fields := q.fields.map (fun f => if f.id = q.curField then { f with closed := q.closeNo + 1 } else f) }

/-- Feed characters to the stop matcher; where a stop string has completed, with the characters after it, which are discarded (R348). -/
def noteChars (stops : List (List (List Byte))) : List AsmChar → Seq → Seq × Option (List AsmChar)
  | [], q => (q, none)
  | c :: t, q =>
    let hold := q.hold ++ [c.bytes]
    match stopDone stops hold with
    | some (k, n) =>
      let out := hold.take (hold.length - n)
      ({ q with hold := [], text := q.text ++ out.flatten, chars := q.chars + out.length, stopIndex := k
                stopOffset := q.chars + out.length, pend := [], pendField := 0 }, some t)
    | none =>
      let (out, keep) := releaseHold stops hold
      noteChars stops t { q with hold := keep, text := q.text ++ out.flatten, chars := q.chars + out.length }

/-- Characters that the assembler released, by the sequence's output class: whether a stop string has completed, and how many of the characters taken were repairs (R345-R349). -/
def Seq.takeChars (q : Seq) (stops : List (List (List Byte))) (tb : Nat) (cs : List AsmChar) : Seq × Bool × Nat :=
  let (q, rest) : Seq × Option (List AsmChar) :=
    match q.out with
    | .field => ({ q with fields := cs.foldl (fun fs c => addChar c fs) q.fields }, none)
    | .note => noteChars stops cs q
    | .live =>
      ({ q with livePend := q.livePend ++ (cs.map (·.bytes)).flatten
                liveSince := if q.liveSince.isNone && cs ≠ [] then some tb else q.liveSince }, none)
  let n := ((cs.take (cs.length - (rest.getD []).length)).filter (·.repair)).length
  ({ q with repaired := q.repaired || 0 < n }, rest.isSome, n)

/-- A sequence at its end: bytes that the assembler holds become a repair, characters that the matcher holds are released; with the number of repairs (R345, R348). -/
def Seq.atEnd (q : Seq) (stops : List (List (List Byte))) (tb : Nat) (how : SeqEnd) : Seq × Nat :=
  let tail := if how = .stop then [] else asmEnd q.pend q.pendField
  let (q, hit, n) := Seq.takeChars { q with pend := [], pendField := 0 } stops tb tail
  ({ (if hit then q else { q with text := q.text ++ q.hold.flatten, chars := q.chars + q.hold.length, hold := [] }) with ending := how }, n)

/-! ### Fields at the end of a sequence (R351) -/

/-- The status and reason of every field of a sequence that is cut short for want of a frame, by a fault or for want of a context (R321, R390, R407). -/
def SeqEnd.cut : SeqEnd → Option (Status × FReason)
  | .noFrame => some (.noFrame, .none)
  | .ctxFault => some (.error, .ctxFault)
  | .noContext => some (.error, .noContext)
  | _ => none

/-- The status of one field, in the order of R351. At an abort the field that is open and those that no token reached are unfinished, ABORTED (R43, R45, R48); the others have closed and keep the order of R351 (log entry 100). `last` is the field that was open at the end. -/
def finishField (q : Seq) (accept : Bool) (last : Nat) (t : FieldEnt) (v : Option FieldVal) : FieldRes :=
  let b := blankField t .noRead .none
  match v, q.ending.cut with
  | none, some (st, re) => { b with status := st, reason := re }
  | none, none => { b with status := if q.ending = .aborted then .aborted else if accept then .empty else .noRead }
  | some f, cut =>
    let r : FieldRes := { b with conf := f.conf, value := f.bytes, repaired := f.repaired, reached := f.touched, closed := f.closed }
    if f.overlong then { r with status := .error, reason := .length }
    else
      match cut with
      | some (st, re) => { r with status := st, reason := re, value := [] }
      | none =>
        if q.ending = .aborted && f.id = last then { r with status := .aborted, value := [] }
        else if (q.ending = .dead || q.ending = .noToken) && q.lastField = f.id then
          { r with status := .error, reason := if q.ending = .dead then .grammarDead else .noToken }
        else if f.bytes = [] then { r with status := if accept then .empty else .noRead, value := [] }
        else
          match convField t.typ f.tag f.bytes with
          | none => { r with status := .error, reason := .convert }
          | some w => { r with value := w, status := if !accept || f.conf < t.threshold then .noRead else .read }

/-- The entries of a FIELD sequence at its end: its field list, and every other field a token contributed to (R351). -/
def seqFields (ts : TSet) (list : List Nat) (q : Seq) : List FieldRes :=
  let accept := (q.ending = .eos || q.ending = .stop || q.ending = .maxTokens) && (ts.stateAt q.state).accept
  let last := q.curField
  let q := q.closeField
  let extra := (q.fields.filter (fun f => f.touched && !list.contains f.id)).map (·.id)
  (list ++ extra).map (fun id => finishField q accept last (ts.fieldAt id) (q.fields.find? (fun f => f.id == id)))

end Sys2Proof.Machine
end

