-- ==== Sys2Proof/Machine/Opcodes.lean ====
section
/-! DEFINITION. The opcode table of the command packets: executors and PARAMS fields (R494, R497). -/

namespace Sys2Proof.Machine

/-! ### The opcode table (R494, R497) -/

/-- Who executes a command. -/
inductive Executor where
  | hw | coach | umpire
  deriving DecidableEq, Repr

/-- An opcode: its code, its executor, its PARAMS fields as (lowest bit of the packet, width), the bytes at which its host addresses lie. -/
structure OpRow where
  code : Nat
  exec : Executor
  fields : List (Nat × Nat)
  addrs : List Nat
  deriving DecidableEq, Repr

/-- The fields of the packet's header (R494). -/
def headerFields : List (Nat × Nat) := [(0, 8), (14, 2), (16, 6), (32, 64)]

/-- A PARAMS field of whole bytes. -/
def bytesAt (b n : Nat) : Nat × Nat := (8 * b, 8 * n)

/-- The opcodes of R497. -/
def opTable : List OpRow :=
  [ ⟨0x01, .coach, [(128, 2)], []⟩
  , ⟨0x02, .coach, [bytesAt 16 1, (136, 2), bytesAt 20 2, bytesAt 22 2, bytesAt 24 4, bytesAt 28 4, bytesAt 32 8, bytesAt 40 4, bytesAt 44 4, bytesAt 48 2, bytesAt 56 8], [32]⟩
  , ⟨0x03, .coach, [], []⟩
  , ⟨0x04, .hw, [bytesAt 16 8], [16]⟩
  , ⟨0x05, .coach, [bytesAt 16 8, bytesAt 24 4, bytesAt 28 1, bytesAt 32 8, bytesAt 40 4], [16, 32]⟩
  , ⟨0x20, .coach, [bytesAt 16 4, bytesAt 20 4, bytesAt 24 8, bytesAt 32 4], [24]⟩
  , ⟨0x40, .coach, [bytesAt 16 8, bytesAt 24 4], [16]⟩
  , ⟨0x41, .coach, [bytesAt 16 4], []⟩
  , ⟨0x42, .coach, [bytesAt 16 4, bytesAt 20 2, (176, 1)], []⟩
  , ⟨0x43, .coach, [(128, 2), bytesAt 20 4, bytesAt 24 2], []⟩
  , ⟨0x60, .umpire, [bytesAt 16 8], [16]⟩
  , ⟨0x61, .coach, [bytesAt 16 2, (144, 3), (152, 2), bytesAt 20 1, bytesAt 24 4, bytesAt 28 2], []⟩
  , ⟨0x62, .coach, [bytesAt 16 2], []⟩
  , ⟨0x63, .coach, [(128, 3), bytesAt 18 2, bytesAt 20 4], []⟩
  , ⟨0x64, .coach, [bytesAt 16 2], []⟩
  , ⟨0x80, .coach, [], []⟩
  , ⟨0x81, .coach, [bytesAt 16 1, (136, 3), (144, 4), (152, 1), (160, 12)], []⟩
  , ⟨0x82, .coach, [bytesAt 16 1], []⟩
  , ⟨0x83, .coach, [bytesAt 16 1, (136, 6), (144, 1), bytesAt 20 4, bytesAt 24 8], [24]⟩
  , ⟨0xA0, .umpire, [bytesAt 16 8], []⟩
  , ⟨0xA1, .umpire, [bytesAt 16 8, bytesAt 24 6], []⟩
  , ⟨0xA2, .coach, [], []⟩
  , ⟨0xC0, .hw, [], []⟩
  , ⟨0xC1, .hw, [], []⟩
  , ⟨0xC2, .coach, [bytesAt 16 8, bytesAt 24 4], [16]⟩
  , ⟨0xC3, .coach, [bytesAt 16 8], [16]⟩
  , ⟨0xE0, .coach, [bytesAt 16 4, bytesAt 24 8], [24]⟩
  , ⟨0xE1, .coach, [bytesAt 16 2, bytesAt 18 2, bytesAt 24 8], [24]⟩
  , ⟨0xE2, .coach, [bytesAt 24 8], [24]⟩ ]

/-- The row of an opcode. -/
def opRow (code : Nat) : Option OpRow := opTable.find? (fun r => r.code == code)

/-- Coach executes an opcode (R497, R516). -/
def coachRuns (code : Nat) : Bool := (opRow code).any (fun r => r.exec == .coach)

end Sys2Proof.Machine
end

