-- ==== Sys2Proof/Machine/Digest.lean ====
section
/-! DEFINITION. The codes over byte strings that the spec names: CRC-32 (R63), SHA-256 and HMAC-SHA-256 (R151, R165), computed by structural recursion. -/

namespace Sys2Proof.Machine

/-- One bit step of the reflected CRC-32 of the IEEE 802.3 frame check sequence (R63). -/
def crcBit (c : Nat) : Nat := if c % 2 = 1 then (c / 2) ^^^ 0xEDB88320 else c / 2

/-- Take one byte into the CRC. -/
def crcByte (c : Nat) (b : Byte) : Nat :=
  let x := c ^^^ b.toNat
  crcBit (crcBit (crcBit (crcBit (crcBit (crcBit (crcBit (crcBit x)))))))

/-- CRC-32: initial value all ones, final complement (R63). -/
def crc32 (l : List Byte) : Nat := (l.foldl crcByte 0xFFFFFFFF) ^^^ 0xFFFFFFFF

/-- The largest number below `acc + 2 ^ n` whose `k`-th power is at most `v`, found bit by bit from `acc` on. -/
def rootBits (k v : Nat) : Nat → Nat → Nat
  | 0, acc => acc
  | n + 1, acc => rootBits k v n (if (acc + 2 ^ n) ^ k ≤ v then acc + 2 ^ n else acc)

/-- The first 32 bits of the fraction of the `k`-th root of a prime below 2^10 (FIPS 180-4, 4.2.2 and 5.3.3). -/
def rootFraction (k p : Nat) : Nat := rootBits k (p * 2 ^ (32 * k)) 38 0 % 2 ^ 32

/-- The first 64 primes. -/
def shaPrimes : List Nat := (List.range 312).filter (fun p => decide (2 ≤ p) && (List.range 18).all (fun d => decide (d < 2) || d == p || p % d != 0))

/-- SHA-256 round constants: from the cube roots of the first 64 primes. -/
def shaK : List Nat := shaPrimes.map (rootFraction 3)

/-- SHA-256 initial hash value: from the square roots of the first eight primes. -/
def shaInit : List Nat := (shaPrimes.take 8).map (rootFraction 2)

/-- Rotate a 32-bit number right. -/
def rotr32 (n x : Nat) : Nat := (x >>> n) ||| ((x <<< (32 - n)) % 2 ^ 32)

/-- Extend the message schedule by `n` words; the newest word stands first. -/
def shaExtend : Nat → List Nat → List Nat
  | 0, w => w
  | n + 1, w =>
    let x15 := w.getD 14 0
    let x2 := w.getD 1 0
    let s0 := rotr32 7 x15 ^^^ rotr32 18 x15 ^^^ (x15 >>> 3)
    let s1 := rotr32 17 x2 ^^^ rotr32 19 x2 ^^^ (x2 >>> 10)
    shaExtend n (((w.getD 15 0 + s0 + w.getD 6 0 + s1) % 2 ^ 32) :: w)

/-- One round of SHA-256 on the working variables a to h. -/
def shaRound (v : List Nat) (kw : Nat) : List Nat :=
  match v with
  | [a, b, c, d, e, f, g, h] =>
    let s1 := rotr32 6 e ^^^ rotr32 11 e ^^^ rotr32 25 e
    let ch := (e &&& f) ^^^ ((0xFFFFFFFF ^^^ e) &&& g)
    let t1 := h + s1 + ch + kw
    let s0 := rotr32 2 a ^^^ rotr32 13 a ^^^ rotr32 22 a
    let mj := (a &&& b) ^^^ (a &&& c) ^^^ (b &&& c)
    [(t1 + s0 + mj) % 2 ^ 32, a, b, c, (d + t1) % 2 ^ 32, e, f, g]
  | _ => v

/-- Take one 64-byte block into the hash value. -/
def shaBlock (h : List Nat) (blk : List Byte) : List Nat :=
  let w16 := (List.range 16).map (fun i => beNat ((blk.drop (4 * i)).take 4))
  let w := (shaExtend 48 w16.reverse).reverse
  let v := (List.zipWith (· + ·) shaK w).foldl shaRound h
  List.zipWith (fun a b => (a + b) % 2 ^ 32) h v

/-- The blocks of a padded message, `n` of them. -/
def shaBlocks : Nat → List Nat → List Byte → List Nat
  | 0, h, _ => h
  | n + 1, h, l => shaBlocks n (shaBlock h (l.take 64)) (l.drop 64)

/-- SHA-256 (FIPS 180-4). -/
def sha256 (l : List Byte) : List Byte :=
  let n := l.length
  let p := l ++ [0x80] ++ zeros ((119 - n % 64) % 64) ++ beBytes 8 (8 * n)
  (shaBlocks (p.length / 64) shaInit p).flatMap (beBytes 4)

/-- HMAC-SHA-256 (RFC 2104) under a key of at most 64 bytes. -/
def hmac256 (key msg : List Byte) : List Byte :=
  let k := fitTo 64 key
  sha256 (k.map (· ^^^ 0x5C) ++ sha256 (k.map (· ^^^ 0x36) ++ msg))

end Sys2Proof.Machine
end

