-- ==== Sys2Proof/Machine/KolSend.lean ====
section
/-! DEFINITION. Sending on the Koliad fabric: flits, credits and arbitration of a port, and messages routed by the table (R421-R437, R444). -/

namespace Sys2Proof.Machine

/-- Virtual channels (R421). -/
def vcCtl : Nat := 0
def vcLc : Nat := 1
def vcBe : Nat := 2
def vcTime : Nat := 3

/-- The channel of a class (R422). -/
def vcOf (c : Cls) : Nat := if c = .lc then vcLc else vcBe

/-- Koliad port `n`. -/
def State.kport (s : State) (n : Nat) : KPort := tget default s.kol.ports n

/-- Put Koliad port `n`. -/
def State.setKport (s : State) (n : Nat) (p : KPort) : State := { s with kol := { s.kol with ports := tput s.kol.ports n p } }

/-- Change Koliad port `n`. -/
def State.modKport (s : State) (n : Nat) (f : KPort → KPort) : State := s.setKport n (f (s.kport n))

/-- The link of port `n` is UP (R427, R428). -/
def State.linkUp (s : State) (n : Nat) : Bool := n < 6 && s.on (KOL_PORT_STAT n) KOL_PORT_STAT_LINK_UP

/-- The ports whose links are UP. -/
def State.upPorts (s : State) : List Nat := (List.range 6).filter s.linkUp

/-- The next credits to return: round-robin over the VCs from the one after the last, up to 7 (R429). -/
def KPort.owedPick (p : KPort) : Nat × Nat :=
  match ((List.range 4).map (fun i => (p.lastOwed + 1 + i) % 4)).find? (fun v => decide (0 < tget 0 p.owed v)) with
  | some v => (v, min 7 (tget 0 p.owed v))
  | none => (0, 0)

/-- A whole flit (R421): header, bytes 4 to 251 padded with zeros, CRC. -/
def mkFlit (vc null seq ack crVc crCnt : Nat) (data : List Byte) : List Byte :=
  let h := vc % 4 * 2 ^ 30 + null % 2 * 2 ^ 29 + seq % 4096 * 2 ^ 17 + ack % 4096 * 2 ^ 5 + crVc % 4 * 8 + crCnt % 8
  let body := leBytes 4 h ++ fitTo 248 data
  body ++ leBytes 4 (crc32 body)

/-- A flit enters the flit stream (R418). -/
def KPort.emit (p : KPort) (f : List Byte) : KPort := { p with sent := f :: p.sent, stream := p.stream ++ f }

/-- The port with credits taken into an outgoing header. -/
def KPort.payOwed (p : KPort) : KPort :=
  let (v, k) := p.owedPick
  if k = 0 then p else { p with owed := tset 0 p.owed v (tget 0 p.owed v - k), lastOwed := v }

/-- Send a NULL flit with a link command (R423). -/
def KPort.sendNull (p : KPort) (lcmd : Nat) (rest : List Byte) : KPort :=
  let (v, k) := p.owedPick
  let f := mkFlit 0 1 0 (p.rxExp + 4095) v k (leBytes 1 lcmd ++ rest)
  p.payOwed.emit f

/-- Send IDLE flits while credits are owed and nothing else is ready (R423, R429; log entry 19). -/
def KPort.idle : Nat → KPort → KPort
  | 0, p => p
  | n + 1, p => if p.owedPick.2 = 0 then p else KPort.idle n (p.sendNull 0 [])

/-- The ready flit that arbitration serves next: TIME, CTL, LC, BE; BE at least once in 16 (R429, R430). -/
def KPort.pick (p : KPort) : Option Nat :=
  let can (v : Nat) := decide (0 < tget 0 p.credit v) && p.ready.any (fun f => f.vc == v)
  if 15 ≤ p.sinceBe && can vcBe then some vcBe
  else [vcTime, vcCtl, vcLc, vcBe].find? can

/-- Take the first ready flit of a VC out of the list. -/
def takeFlit (v : Nat) : List RFlit → Option (RFlit × List RFlit)
  | [] => none
  | f :: t =>
    if f.vc = v then some (f, t)
    else match takeFlit v t with
      | some (g, r) => some (g, f :: r)
      | none => none

/-- Message header of R437 with the body. -/
def mkMsg (typ status flood txn : Nat) (stamp : Stamp) (arg : List Byte) (body : List Byte) : List Byte :=
  leBytes 1 typ ++ leBytes 1 status ++ leBytes 2 flood ++ leBytes 4 body.length ++ leBytes 4 txn ++ zeros 4
    ++ leBytes 8 stamp.toNat ++ fitTo 8 arg ++ body

/-- A TIME message (R468): subtype, HOPS, SEQ_ID and STAMP. -/
def timeMsg (flood sub hops id : Nat) (now stamp : Stamp) : List Byte :=
  mkMsg 0x40 0 flood 0 now (leBytes 1 sub ++ leBytes 1 hops ++ leBytes 2 id) (leBytes 8 stamp.toNat)

/-- The flits of a message (R432): `n` fragments from index `k` on. -/
def fragment (dst src hop flood loc msgId vc : Nat) : Nat → Nat → List Byte → List RFlit
  | 0, _, _ => []
  | n + 1, k, data =>
    let d := data.take 240
    let ctl := hop % 16 * 16 + (if k = 0 then 8 else 0) + (if n = 0 then 4 else 0) + flood * 2 + loc
    { vc := vc, origin := none
      data := leBytes 1 dst ++ leBytes 1 src ++ leBytes 1 ctl ++ leBytes 1 d.length ++ leBytes 2 msgId ++ leBytes 2 k ++ d }
      :: fragment dst src hop flood loc msgId vc n (k + 1) (data.drop 240)

/-- All flits of a message of this device. -/
def State.msgFlits (s : State) (dst flood loc vc : Nat) (data : List Byte) : List RFlit :=
  fragment dst ((s.addr?).getD 0) 15 flood loc s.kol.nextMsg vc (cdiv data.length 240) 0 data

/-- The next MSG_ID (R432). -/
def State.bumpMsg (s : State) : State := { s with kol := { s.kol with nextMsg := (s.kol.nextMsg + 1) % 65536 } }

/-- Time unit's state of port `p` (0-5 Koliad, 6 Ethernet). -/
def State.tport (s : State) (p : Nat) : TPort := tget default s.tim.ports p

/-- Change the time unit's state of a port. -/
def State.modTport (s : State) (p : Nat) (f : TPort → TPort) : State :=
  { s with tim := { s.tim with ports := tput s.tim.ports p (f (s.tport p)) } }

/-- A stamp taken inside as an event leaves through port `p`, corrected to the pin by FAC_TX_NS, in units of 2^-4 ns (R465). -/
def State.txStamp (s : State) (p : Nat) (t : Stamp) : Stamp := t + BitVec.ofNat 64 (s.fld (TIM_PORT_LAT p) TIM_PORT_LAT_FAC_TX_NS * 4096)

/-- A stamp taken inside of an event that came in through port `p`, corrected to the pin by FAC_RX_NS (R465). -/
def State.rxStamp (s : State) (p : Nat) (t : Stamp) : Stamp := t - BitVec.ofNat 64 (s.fld (TIM_PORT_LAT p) TIM_PORT_LAT_FAC_RX_NS * 4096)

/-- The first symbol of a link-local TIME flit leaves port `n`: its stamp at the pins goes into the FOLLOW or PD_FOLLOW that comes next, or is t1 of the exchange under way (R465, R468, R469). -/
def State.timeSent (s : State) (n : Nat) (f : RFlit) : State :=
  let sub := leAt f.data 32 1
  let stamp := s.txStamp n s.now
  let next (k : Nat) : State :=
    let fs := s.msgFlits 0 0 1 vcTime (timeMsg 0 k (leAt f.data 33 1) (leAt f.data 34 2) s.now stamp)
    (s.modKport n (fun p => { p with ready := p.ready ++ fs })).bumpMsg
  if f.vc ≠ vcTime || f.origin.isSome then s
  else if sub = 1 then next 2
  else if sub = 4 then next 5
  else if sub = 3 then s.modTport n (fun p => { p with t1 := some stamp })
  else s

/-- A buffer of port `n` is free again, and its credit is owed; one of a port that has started afresh since is owed no more (R427, R429). -/
def State.freeBuffer (s : State) (n vc : Nat) : State :=
  if n < 6 then s.modKport n (fun p => { p with owed := tset 0 p.owed vc (tget 0 p.owed vc + 1) }) else s

/-- Send one new flit of port `n`; a forwarded flit frees its buffer on the port it came in on (R426, R429). -/
def State.sendOne (s : State) (n : Nat) : State :=
  let p := s.kport n
  if !s.linkUp n || 256 ≤ p.buffer.length then s
  else
    match p.pick with
    | none => s
    | some v =>
      match takeFlit v p.ready with
      | none => s
      | some (f, rest) =>
        let (cv, ck) := p.owedPick
        let flit := mkFlit v 0 p.txSeq (p.rxExp + 4095) cv ck f.data
        let q := { p.payOwed.emit flit with
          ready := rest, txSeq := (p.txSeq + 1) % 4096, buffer := p.buffer ++ [(p.txSeq, flit)]
          credit := tset 0 p.credit v (tget 0 p.credit v - 1), sinceBe := if v = vcBe then 0 else p.sinceBe + 1
          ackTb := if p.buffer = [] then s.tb else p.ackTb }
        let s := (s.setKport n q).timeSent n f
        match f.origin with
        | some o => s.freeBuffer o v
        | none => s

/-- Send every ready flit of port `n` that has credit and room; a time flit may make one more ready. -/
def State.pumpN : Nat → Nat → State → State
  | 0, _, s => s
  | k + 1, n, s => State.pumpN k n (s.sendOne n)

/-- Send what is ready on port `n`. -/
def State.pump (s : State) (n : Nat) : State := State.pumpN (2 * (s.kport n).ready.length) n s

/-- Make flits ready on port `n` and send what can be sent. -/
def State.queueFlits (s : State) (n : Nat) (fs : List RFlit) : State :=
  (s.modKport n (fun p => { p with ready := p.ready ++ fs })).pump n

/-- Send a link-local message on port `n` (R432, R433). -/
def State.sendLocal (s : State) (n vc : Nat) (data : List Byte) : State :=
  if s.linkUp n then (s.queueFlits n (s.msgFlits 0 0 1 vc data)).bumpMsg else s

/-- Send a flooded message on every UP port (R435); `data` makes the message with its FLOOD_SEQ. A device without an address sends none (R432). -/
def State.sendFloodOn (s : State) (vc : Nat) (data : Nat → List Byte) : State :=
  if s.addr?.isNone then s else
  let seq := s.kol.floodSeq
  let me := (s.addr?).getD 0
  let fs := s.msgFlits 0 1 0 vc (data seq)
  let s := { s with kol := { s.kol with floodSeq := (seq + 1) % 65536, floodSeen := (me, seq) :: s.kol.floodSeen, floodDone := (me, seq) :: s.kol.floodDone } }
  (s.upPorts.foldl (fun s n => s.queueFlits n fs) s).bumpMsg

/-- Send a flooded message of the fabric's own (R435). -/
def State.sendFlood (s : State) (typ : Nat) (body : List Byte) : State :=
  s.sendFloodOn vcCtl (fun seq => mkMsg typ 0 seq 0 s.now [] body)

/-- The output port to an address: PRI while it is UP, else ALT while it is UP (R434); 6 is this device. -/
def State.routePort (s : State) (d : Nat) : Option Nat :=
  let a := KOL_ROUTE d
  if !s.on a KOL_ROUTE_VALID then none
  else
    let pri := s.fld a KOL_ROUTE_PRI
    let alt := s.fld a KOL_ROUTE_ALT
    if pri = 6 then some 6
    else if s.linkUp pri then some pri
    else if s.linkUp alt then some alt
    else none

/-- Send a routed message, of a partition's work where `part` names it; false when no route is UP, or this device has no address (R432, R434, R443). While a huddle runs it is held at the source (R444). -/
def State.sendRouted (s : State) (dst vc : Nat) (data : List Byte) (part : Option Nat := none) : State × Bool :=
  if s.kol.huddle.running then ({ s with kol := { s.kol with held := s.kol.held ++ [(dst, vc, data, part)] } }, true)
  else
    match (if s.addr?.isSome then s.routePort dst else none) with
    | none => (s.incFld KOL_DROP_CNT KOL_DROP_CNT_NO_ROUTE, false)
    | some 6 => ({ s with kol := { s.kol with inbox := s.kol.inbox ++ [(dst, data)] } }, true)
    | some n => ((s.queueFlits n ((s.msgFlits dst 0 0 vc data).map (fun f => { f with part := part }))).bumpMsg, true)

/-- Send a routed message that no transaction carries. -/
def State.sendTo (s : State) (dst vc : Nat) (data : List Byte) (part : Option Nat := none) : State := (s.sendRouted dst vc data part).1

/-- A message of a partition's work waits for credit, or for the end of a huddle (R411). -/
def State.egressWaits (s : State) (part : Nat) : Bool :=
  s.kol.ports.any (fun p => p.2.ready.any (fun f => f.part == some part)) || s.kol.held.any (fun m => m.2.2.2 == some part)

/-- The message that a row brings is taken out of the messages reassembled: the first of its sender, 256 + port for a link-local one, with its TYPE. -/
def State.took (s : State) (src typ : Nat) : State :=
  { s with kol := { s.kol with inbox := s.kol.inbox.eraseP (fun m => m.1 == src && leAt m.2 0 1 == typ) } }

/-- The partner that this device relays to, while relaying runs (R447, R451). -/
def State.partner? (s : State) : Option Nat :=
  if s.on KOL_CATCH_CFG KOL_CATCH_CFG_PARTNER_VALID then some (s.fld KOL_CATCH_CFG KOL_CATCH_CFG_PARTNER) else none

/-- Relaying runs: a partner is set and has not been declared lost (R448, R451). -/
def State.relaying (s : State) : Bool := s.partner?.isSome && !s.kol.relayStopped

/-- Send a relay message with the next relay sequence, carried in ARG (log entry 18), and keep it until the partner has accepted it (R448, R449). -/
def State.relay (s : State) (kind item : Nat) (body : List Byte) : State :=
  match s.partner? with
  | none => s
  | some d =>
    if s.kol.relayStopped then s
    else
      let q := (s.kol.relaySeq + 1) % 2 ^ 32
      let s := { s with kol := { s.kol with relaySeq := q, relayOut := s.kol.relayOut ++ [(RelayOut.mk q kind item body)] } }
      s.sendTo d vcLc (mkMsg kind 0 0 0 s.now (leBytes 4 q) body)

end Sys2Proof.Machine
end

