-- ==== Sys2Proof/Machine/Met.lean ====
section
/-! DEFINITION. Norentum: its parameters, its read window, its measurements, its log and its service UART (chapter "Norentum Sealed Metrology", R137-R168, R584). -/

namespace Sys2Proof.Machine

/-! ### Sealed parameters (R143) -/

/-- Default of parameter `no` of port `n`. -/
def metDefault (n no : Nat) : Int :=
  match no with
  | 0 => n | 1 => n | 3 => 100 | 4 => 10000000 | 6 => 42333333 | 9 => 2048 | 11 => 2
  | 12 => 16 | 13 => 500 | 14 => 11000 | _ => 0

/-- Range of parameter `no`. -/
def metRange (no : Nat) : Int × Int :=
  match no with
  | 0 => (0, 3) | 1 => (0, 7) | 2 => (0, 1) | 3 => (0, 1000) | 4 => (1000, 100000000)
  | 5 => (-10000, 10000) | 6 => (1000000, 200000000) | 7 => (0, 163839) | 8 => (0, 2)
  | 9 => (0, 4095) | 10 => (0, 1) | 11 => (0, 15) | 12 => (0, 65535) | 13 => (100, 12000)
  | _ => (100, 12000)

/-- Parameter `no` of port `n` in a set; an unlisted one is the default. -/
def metParam (t : Tbl Int) (n no : Nat) : Int :=
  match tfind t (n * 16 + no) with
  | some v => v
  | none => metDefault n no

/-- The set of port `n`. -/
def metSet (t : Tbl Int) (n : Nat) : MetParams :=
  let p := fun no => (metParam t n no).toNat
  { menc := p 0, mbar := p 1, mbarPol := p 2, mbarFilt := p 3, countPm := p 4, lenOfs := metParam t n 5
    pixPm := p 6, deckE8 := p 7, chan := p 8, edgeThr := p 9, edgePol := p 10, hgtRank := p 11
    maxBad := p 12, vMin := p 13, vMax := p 14 }

/-- The eight registers MET_MPn_SRC to MET_MPn_BAD (R168). -/
def metMpReg (t : Tbl Int) (n k : Nat) : Word :=
  let p := metSet t n
  match k with
  | 0 => fset (fset (fset (fset (fset 0 MET_MP_SRC_EDGE_POL p.edgePol) MET_MP_SRC_CHAN p.chan) MET_MP_SRC_MBAR_POL p.mbarPol) MET_MP_SRC_MBAR p.mbar) MET_MP_SRC_MENC p.menc
  | 1 => BitVec.ofNat 32 p.countPm
  | 2 => BitVec.ofNat 32 (uns 32 p.lenOfs)
  | 3 => BitVec.ofNat 32 p.pixPm
  | 4 => fset (fset 0 MET_MP_DECK_DECK_E8 (p.deckE8 / 4)) MET_MP_DECK_HGT_RANK p.hgtRank
  | 5 => fset (fset (fset 0 MET_MP_EDGE_MBAR_FILT_NS p.mbarFilt) MET_MP_EDGE_DECK_LO (p.deckE8 % 4)) MET_MP_EDGE_EDGE_THR p.edgeThr
  | 6 => fset (fset 0 MET_MP_SPEED_V_MAX p.vMax) MET_MP_SPEED_V_MIN p.vMin
  | _ => BitVec.ofNat 32 p.maxBad

/-- PARAM_CRC over the 128 bytes of R156. -/
def metParamCrc (t : Tbl Int) : Nat :=
  crc32 ((List.range 4).flatMap (fun n => (List.range 8).flatMap (fun k => leBytes 4 (metMpReg t n k).toNat)))

/-! ### Identification and the read window (R165, R168) -/

/-- The sealed image in flash. -/
def Met.imageBytes (m : Met) : List Byte := if m.imageSet then m.image else Config.metFactoryImage

/-- MET_SW_VER in force. -/
def Met.swVer (m : Met) : Nat := (Config.metVersion m.imageBytes).toNat

/-- The event counter: the OTP value, and one more for every accepted COMMIT and image update (R160, R168). -/
def Met.eventCnt (m : Met) : Nat := ((Config.otp MET_EVENT_CNT).toNat + m.events) % 2 ^ 32

/-- LOG_FULL (R161). -/
def Met.logFull (m : Met) : Bool := 1024 ≤ m.log.length

/-- The 64-byte identification block (R165). -/
def Met.idBlock (m : Met) : List Byte :=
  leBytes 4 Config.metRomId.toNat ++ leBytes 4 m.swVer ++ sha256 m.imageBytes ++ leBytes 4 (metParamCrc m.committed)
    ++ leBytes 8 Config.serial.toNat ++ leBytes 4 m.eventCnt ++ zeros 8

/-- Norentum's time is not following fabric time: the time unit does not run, or an accepted step waits (R140, R477). -/
def State.metHold (s : State) : Bool := !s.sys.released || s.met.stepDue != 0

/-- Code of STATE (R156). -/
def MetState.code : MetState → Nat
  | .boot => 0 | .sealed => 1 | .opened => 2 | .fault => 3

/-- A word of the MET read window (R168); every field reads 0 while VDD_MET is off. -/
def State.metReg (s : State) (a : Nat) : Word :=
  let m := s.met
  if !m.on then 0
  else
    let o := a - 0xA00000
    if o = 0 then
      fset (fset (fset (fset (fset 0 MET_STAT_STATE m.state.code) MET_STAT_SEAL_IN (b2n m.sealLow))
        MET_STAT_SEAL_OK (b2n (m.state = .sealed))) MET_STAT_LOG_FULL (b2n m.logFull)) MET_STAT_TIME_HOLD (b2n s.metHold)
    else if o = 4 then BitVec.ofNat 32 m.eventCnt
    else if o = 8 then BitVec.ofNat 32 m.log.length
    else if o = 0xC then BitVec.ofNat 32 m.mref
    else if o = 0x10 then BitVec.ofNat 32 (metParamCrc m.committed)
    else if o = 0x14 then BitVec.ofNat 32 m.swVer
    else if o = 0x18 then Config.metRomId
    else if o = 0x1C then BitVec.ofNat 32 (m.beatNs / 1000000)
    else if o < 0x40 then BitVec.ofNat 32 (leAt (sha256 m.imageBytes) (o - 0x20) 4)
    else if o < 0x48 then BitVec.ofNat 32 (leAt (leBytes 8 Config.serial.toNat) (o - 0x40) 4)
    else if o < 0x100 then 0
    else if o < 0x180 then metMpReg m.committed ((o - 0x100) / 0x20) ((o - 0x100) % 0x20 / 4)
    else if o < 0x8000 then 0
    else if o < 0x10000 then BitVec.ofNat 32 (leAt (m.log.getD ((o - 0x8000) / 32) []) ((o - 0x8000) % 32) 4)
    else if o < 0x50000 then BitVec.ofNat 32 (leAt (tget [] m.records ((o - 0x10000) / 64)) ((o - 0x10000) % 64) 4)
    else 0

/-! ### Log and UART (R160-R162, R166, R167) -/

/-- Append a log entry; a full log takes none (R161, R162). -/
def Met.append (m : Met) (typ detail old new : Nat) : Met :=
  if m.logFull then m
  else
    let e := leBytes 2 (m.log.length + 1) ++ leBytes 1 typ ++ leBytes 1 detail ++ leBytes 4 m.eventCnt
      ++ leBytes 8 m.time.toNat ++ leBytes 4 old ++ leBytes 4 new ++ leBytes 4 m.swVer
    { m with log := m.log ++ [e ++ leBytes 4 (crc32 e)] }

/-- Append an entry that changes no identifier: OLD_ID and NEW_ID are the PARAM_CRC (log entry 13). -/
def Met.note (m : Met) (typ detail : Nat) : Met :=
  m.append typ detail (metParamCrc m.committed) (metParamCrc m.committed)

/-- Send a UART frame (R166). -/
def Met.frame (m : Met) (typ : Nat) (payload : List Byte) : Met :=
  let body := leBytes 1 typ ++ leBytes 2 payload.length ++ payload
  { m with uartTx := m.uartTx ++ [[0x7E] ++ body ++ leBytes 4 (crc32 body)] }

/-- Answer ACK (R167). -/
def Met.ack (m : Met) (payload : List Byte) : Met := m.frame 0x20 payload

/-- Answer NAK with a reason (R167). -/
def Met.nak (m : Met) (reason : Nat) : Met := m.frame 0x21 (leBytes 1 reason)

/-- The fault is a parameter CRC failure, which R164 lets COMMIT repair. -/
def Met.paramFault (m : Met) : Bool := m.state = .fault && m.cause == 3

/-- Why the state does not allow a change command, or none where it does: `image` says that the command is of an image load; with a parameter fault SEAL_N must be accepted high (R164, R167). -/
def Met.refuses (m : Met) (image : Bool) : Option Nat :=
  match m.state with
  | .opened => none
  | .sealed => some 1
  | .boot => some 6
  | .fault =>
    if image then none
    else if m.cause = 3 then (if !m.sealKnown then some 6 else if m.sealLow then some 1 else none)
    else some 6

/-! ### Measurements (R144-R153) -/

/-- Norentum's position at a time, in units of 2^-24 counts: interpolation between the raising edges around it, truncated; the earlier edge's position where no raising edge follows within 10 ms (R144, R145). -/
def posAt (edges : List (Stamp × Nat)) (t : Stamp) : Nat :=
  match edges.find? (fun e => decide (stampDiff e.1 t ≤ 0)) with
  | none => 0
  | some (tk, pk) =>
    match (edges.takeWhile (fun e => decide (0 < stampDiff e.1 t))).getLast? with
    | none => pk * 2 ^ 24
    | some (tk1, _) =>
      if stampDiff tk1 t ≤ 10000000 * 65536 then
        pk * 2 ^ 24 + ((stampDiff t tk) * 2 ^ 24 / stampDiff tk1 tk).toNat
      else pk * 2 ^ 24

/-- Travel between two positions in units of 2^-24 counts, by signed 32-bit difference of the counts (R584). -/
def posDiff (a b : Nat) : Int := sdiff 56 a b

/-- The top edge of one line (R148): eighths of a pixel, and whether the line is clipped. -/
def topEdge (p : MetParams) (px : List Nat) : Option Int × Bool :=
  let pres : List Bool := px.map (fun x => if p.edgePol = 1 then decide (x < p.edgeThr) else decide (p.edgeThr < x))
  let runs := (List.range (px.length - 2)).map (fun i => pres.getD i false && pres.getD (i + 1) false && pres.getD (i + 2) false)
  let top := (List.range (px.length - 2)).foldl (fun (acc : Option Nat) i => if runs.getD i false then some (i + 2) else acc) none
  match top with
  | none => (none, false)
  | some j =>
    if j + 1 = px.length then (none, true)
    else
      let xj : Int := px.getD j 0
      let xk : Int := px.getD (j + 1) 0
      let r : Rat := mkRat (xj - p.edgeThr) 1 / mkRat (xj - xk) 1
      (some (roundEven (((j : Int) + r) * 8)), false)

/-- A packet of plane CHAN as a measurement keeps it (R148, R149). -/
def MetTap.line (x : MetTap) (p : MetParams) : MetLine :=
  let (e, c) := if x.good then topEdge p x.px else (none, false)
  { stamp := x.stamp, e8 := e, clip := c, bad := !x.good }

/-- Norentum's own tap of a raw packet (R98, R139, R148): plane `colour` of the line of `stamp` on port `n`, good or not. It is kept for the measurements there are, and for one whose leading edge is not accepted yet: MBAR_FILT_NS is at most 1,000 ns. -/
def Met.tap (m : Met) (n : Nat) (stamp : Stamp) (colour : Nat) (good : Bool) (px : List Nat) : Met :=
  let x : MetTap := { stamp := stamp, plane := colour, good := good, px := px }
  let add (q : Meas) : Meas := if q.prm.chan = colour then { q with lines := q.lines ++ [x.line q.prm] } else q
  let recent (y : MetTap) : Bool := decide (stampDiff m.time y.stamp ≤ 1000 * 65536)
  if m.on then { m with ports := tupd m.ports n (fun q => { q with meas := q.meas.map add, taps := (x :: q.taps).filter recent }) } else m

/-- A measurement is under way: neither its trailing edge nor LONG has ended it. -/
def Meas.open (q : Meas) : Bool := q.trail.isNone && q.long.isNone

/-- Some measurement is under way on a port. -/
def MetPort.busy (p : MetPort) : Bool := p.meas.any Meas.open

/-- MBAR_FILT_NS of a port: that of the measurement under way, else of the set in force (R159). -/
def MetPort.barFilt (p : MetPort) : Nat := ((p.meas.find? Meas.open).map (·.prm.mbarFilt)).getD p.inForce.mbarFilt

/-- Encoder `e` of Norentum. -/
def Met.enc (m : Met) (e : Nat) : MetEnc := tget default m.encs e

/-- Port `n` of Norentum. -/
def Met.port (m : Met) (n : Nat) : MetPort := tget default m.ports n

/-- Change every measurement of every port. -/
def Met.mapMeas (m : Met) (f : Meas → Meas) : Met :=
  { m with ports := tmap m.ports (fun _ p => { p with meas := p.meas.map f }) }

/-- Travel in pm from the leading edge to a raising edge at position `p` (R146). -/
def travelPm (m : Met) (q : Meas) (p : Nat) : Rat :=
  mkRat (posDiff (p * 2 ^ 24) (posAt (m.enc q.prm.menc).edges q.lead) * q.prm.countPm) (2 ^ 24)

/-- What a raising edge of encoder `e` does to a measurement: it ends as LONG beyond 1,500 mm, or the interpolation of its trailing edge ends (R144-R146). -/
def raiseMeas (m : Met) (e : Nat) (stamp : Stamp) (p : Nat) (q : Meas) : Meas :=
  if q.prm.menc ≠ e then q
  else if q.open then
    if travelPm m q p > 1500000000000 then { q with long := some (stamp, p), interpDone := true } else q
  else
    match q.trail with
    | some t => if 0 < stampDiff stamp t then { q with interpDone := true } else q
    | none => q

/-- A level has stood for `ns` ns since its first transition, so that a sealed filter accepts it (R584); while the counter stands still for a backward step its stamps tell nothing of that. -/
def Met.stood (m : Met) (stamp : Stamp) (ns : Nat) : Bool := 0 < m.stopNs || decide ((ns * 65536 : Nat) ≤ stampDiff m.time stamp)

/-- The position of encoder `e` lies below its highest after an edge at `stamp`: every measurement on it notes the first such moment (R145). -/
def noteDip (e : Nat) (stamp : Stamp) (q : Meas) : Meas :=
  if q.prm.menc = e && q.dip.isNone then { q with dip := some (if stampDiff stamp q.lead < 0 then q.lead else stamp) } else q

/-- An accepted edge moves Norentum's own position (R584): levels 0b00, 0b10, 0b11, 0b01 count up. -/
def Met.encEdge (m : Met) (e : Nat) (a b : Bool) (stamp : Stamp) : Met :=
  let c := m.enc e
  let put (m : Met) (c : MetEnc) : Met := { m with encs := tput m.encs e c }
  if !m.stood stamp 5 then m
  else if a != c.a && b != c.b then
    (put m { c with a := a, b := b }).mapMeas (fun q => if q.prm.menc = e && q.open then { q with illegal := true } else q)
  else if a == c.a && b == c.b then m
  else
    -- phase order 00, 10, 11, 01: the step counts up when the changed line meets the other as R75 lists it
    let up := if a != c.a then a != b else a == b
    let pos := if up then (c.pos + 1) % 2 ^ 32 else (c.pos + 2 ^ 32 - 1) % 2 ^ 32
    let below := decide (sdiff 32 pos c.high < 0)
    let c := { c with a := a, b := b, pos := pos, regain := if !below && decide (sdiff 32 c.pos c.high < 0) then some stamp else c.regain }
    if 0 < sdiff 32 pos c.high then
      let m' := put m { c with high := pos, edges := (stamp, pos) :: c.edges }
      m'.mapMeas (raiseMeas m' e stamp pos)
    else
      let m' := put m c
      if below then m'.mapMeas (noteDip e stamp) else m'

/-- The first moment from `lead` on at which an encoder's position lay below its highest, as its leading edge is accepted (R145). -/
def MetEnc.dipAt (c : MetEnc) (lead : Stamp) : Option Stamp :=
  if sdiff 32 c.pos c.high < 0 || c.regain.any (fun r => decide (0 < stampDiff r lead)) then some lead else none

/-- An accepted blocking edge of MBAR starts a measurement on the port, in SEALED or OPEN (R144, R158), with the packets of lines from its stamp on that have come already (R148). -/
def Met.lead (m : Met) (n : Nat) (stamp : Stamp) : Met :=
  let p := m.port n
  if p.blocked || !m.stood stamp p.inForce.mbarFilt then m
  else
    let ls := (p.taps.reverse.filter (fun x => x.plane == p.inForce.chan && decide (0 ≤ stampDiff x.stamp stamp))).map (fun x => x.line p.inForce)
    let q : Meas :=
      { lead := stamp, evt := m.eventCnt, crc := metParamCrc m.committed, prm := p.inForce
        sealOpen := m.state != .sealed, dip := (m.enc p.inForce.menc).dipAt stamp, illegal := false
        lines := ls, trail := none, long := none, interpDone := false }
    let make := (m.state = .sealed || m.state = .opened) && !p.busy
    { m with ports := tput m.ports n { p with blocked := true, meas := if make then p.meas ++ [q] else p.meas } }

/-- An accepted unblocking edge of MBAR ends the measurement's extent (R144). -/
def Met.trail (m : Met) (n : Nat) (stamp : Stamp) : Met :=
  let p := m.port n
  if !m.stood stamp p.barFilt then m
  else
  let fin (q : Meas) : Meas :=
    if q.open then
      let done := (m.enc q.prm.menc).edges.any (fun e => decide (0 < stampDiff e.1 stamp))
      { q with trail := some stamp, interpDone := done }
    else q
  { m with ports := tput m.ports n { p with blocked := false, meas := p.meas.map fin } }

/-- The 10 ms wait for a counted edge after the trailing edge has ended (R145). -/
def Met.interpTimeout (m : Met) (n : Nat) : Met :=
  let fin (q : Meas) : Meas :=
    match q.trail with
    | some t => if 10000000 * 65536 ≤ stampDiff m.time t then { q with interpDone := true } else q
    | none => q
  { m with ports := tupd m.ports n (fun p => { p with meas := p.meas.map fin }) }

/-- End of a measurement's extent: its trailing edge, or the edge that ended it as LONG. -/
def Meas.endStamp (q : Meas) : Stamp :=
  match q.long with
  | some (t, _) => t
  | none => q.trail.getD q.lead

/-- The end of the span of R145: the counted edge that ends the interpolation of the trailing edge, the end of the 10 ms wait where none comes, or the edge that ended the measurement as LONG. -/
def Meas.spanEnd (q : Meas) (edges : List (Stamp × Nat)) : Stamp :=
  match q.long with
  | some (t, _) => t
  | none =>
    let limit := q.endStamp + 10000000 * 65536
    match (edges.takeWhile (fun e => decide (0 < stampDiff e.1 q.endStamp))).getLast? with
    | some (t, _) => if stampDiff t limit < 0 then t else limit
    | none => limit

/-- REVERSED: the position fell below its highest within that span (R145). -/
def Meas.reversed (q : Meas) (edges : List (Stamp × Nat)) : Bool := q.dip.any (fun d => decide (stampDiff d (q.spanEnd edges) ≤ 0))

/-- Lines of a measurement whose stamp lies between its edges (R148). The stamp of a line is fabric time and those of the edges are Norentum's; while an accepted step waits the two differ, and the manual does not say which time of the line counts: the stamp as it stands is compared (DESIGN CHOICE, log entry 13). -/
def Meas.within (q : Meas) : List MetLine :=
  q.lines.filter (fun l => decide (0 ≤ stampDiff l.stamp q.lead) && decide (stampDiff l.stamp q.endStamp ≤ 0))

/-- E of R149: the (HGT_RANK + 1)th largest e8. -/
def nthLargest (l : List Int) (k : Nat) : Option Int :=
  (l.mergeSort (fun a b => decide (b ≤ a)))[k]?

/-- Least-squares slope of `y` against `x`; none when it is undefined (R150). -/
def lsSlope (pts : List (Rat × Rat)) : Option Rat :=
  let n : Rat := (pts.length : Nat)
  let sx := (pts.map (·.1)).foldl (· + ·) 0
  let sy := (pts.map (·.2)).foldl (· + ·) 0
  let sxx := (pts.map (fun p => p.1 * p.1)).foldl (· + ·) 0
  let sxy := (pts.map (fun p => p.1 * p.2)).foldl (· + ·) 0
  let d := n * sxx - sx * sx
  if pts.length < 2 || d == 0 then none else some ((n * sxy - sx * sy) / d)

/-- Skew of a measurement in thousandths of a degree and SKEW_NA (R150). -/
def Meas.skew (q : Meas) (edges : List (Stamp × Nat)) (usable : List MetLine) : Int × Bool :=
  let p0 := posAt edges q.lead
  let d := posDiff (posAt edges q.endStamp) p0
  let pts := usable.filterMap (fun l =>
    let x := posDiff (posAt edges l.stamp) p0
    if d ≤ 10 * x && 10 * x ≤ 9 * d then
      some ((mkRat (x * q.prm.countPm) (2 ^ 24), mkRat ((l.e8.getD 0) * q.prm.pixPm) 8) : Rat × Rat)
    else none)
  match lsSlope pts with
  | none => (0, true)
  | some r =>
    let a := atanMdeg r
    if a < -32768 then (-32768, true) else if 32767 < a then (32767, true) else (a, false)

/-- What a record says of length and speed: LENGTH_UM, SPEED_MMS, SPEED_OUT (R144, R146, R147); a span of no time leaves the speed open, and `free` stands for it (log entry 14). -/
def Meas.lenSpeed (q : Meas) (edges : List (Stamp × Nat)) (free : Nat) : Nat × Nat × Bool :=
  let um : Rat :=
    match q.long with
    | some (_, p) => mkRat (posDiff (p * 2 ^ 24) (posAt edges q.lead) * q.prm.countPm) (2 ^ 24 * 1000000)
    | none =>
      let r : Rat := mkRat (posDiff (posAt edges q.endStamp) (posAt edges q.lead) * q.prm.countPm) (2 ^ 24 * 1000000)
      ((roundEven r + q.prm.lenOfs : Int) : Rat)
  let dt := stampDiff q.endStamp q.lead
  let len := if q.long.isSome then 0xFFFFFFFF else uns 32 (roundEven um)
  if dt ≤ 0 then (len, free % 2 ^ 32, bit free 32)
  else
    let v : Rat := um * 65536000000 / ((dt : Int) : Rat)
    (len, uns 32 (roundEven v), decide (v < (q.prm.vMin : Nat)) || decide ((q.prm.vMax : Nat) < v))

/-- The first 56 bytes of a measurement record (R151), made while time is held (R140, R477) or not, and while the main domain is in reset (R141) or not; a record made in OPEN sets SEAL_OPEN (R158). -/
def Meas.record (q : Meas) (m : Met) (n mref free : Nat) (timeHold noSensor : Bool) : List Byte :=
  let edges := (m.enc q.prm.menc).edges
  let ls := q.within
  let usable := ls.filter (fun l => l.e8.isSome)
  let e := nthLargest (usable.filterMap (·.e8)) q.prm.hgtRank
  let (len, spd, spdOut) := q.lenSpeed edges free
  let na := e.isNone || noSensor
  let hgt : Int :=
    match e with
    | some e => roundEven (mkRat ((e - q.prm.deckE8) * q.prm.pixPm) 8000000)
    | none => 0
  let (sk, skNa) := if e.isNone then (0, true) else q.skew edges usable
  let badLines := decide (q.prm.maxBad < (ls.filter (·.bad)).length)
  let clip := ls.any (·.clip)
  let sealOpen := q.sealOpen || m.state = .opened
  let reversed := q.reversed edges
  let lenValid := !sealOpen && !reversed && q.long.isNone && !spdOut && !q.illegal
  let hgtValid := lenValid && !na && !clip && !badLines
  let flags := b2n lenValid + 2 * b2n hgtValid + 4 * b2n sealOpen + 8 * b2n reversed + 16 * b2n q.long.isSome
    + 32 * b2n spdOut + 64 * b2n na + 128 * b2n clip + 256 * b2n badLines + 512 * b2n timeHold
    + 1024 * b2n q.illegal + 2048 * b2n (skNa || na)
  leBytes 4 mref ++ leBytes 4 q.evt ++ leBytes 8 q.lead.toNat
    ++ leBytes 8 (if q.long.isSome then 0 else q.endStamp.toNat) ++ leBytes 4 len ++ leBytes 4 (uns 32 hgt)
    ++ leBytes 2 (uns 16 sk) ++ leBytes 1 n ++ zeros 1 ++ leBytes 2 flags ++ leBytes 2 usable.length
    ++ leBytes 4 spd ++ leBytes 4 q.crc ++ leBytes 8 Config.serial.toNat

/-- The MAC of R151: the first 8 bytes of HMAC-SHA-256 over bytes 0-55 under the device key. -/
def metMac (body : List Byte) : List Byte := (hmac256 Config.metKey body).take 8

/-- The levels of A and B found at an encoder's pins. -/
def pinAb (pins : PinLevels) (e : Nat) : Bool × Bool := pins.enc.getD e (false, false)

/-- Whether the level found at the pin of a set's barrier counts as blocked (R584). -/
def pinBlocks (pins : PinLevels) (q : MetParams) : Bool := pins.bar.getD q.mbar false != (q.mbarPol == 1)

/-- The set of a port changes: with a new MBAR its barrier filter starts, and the level found at the pin becomes the accepted one; a new polarity turns the level that stands (R159, R584). -/
def MetPort.takeSet (p : MetPort) (q : MetParams) (pins : PinLevels) : MetPort :=
  { p with applyDue := false, inForce := q
           blocked := if q.mbar = p.inForce.mbar then p.blocked != (q.mbarPol != p.inForce.mbarPol) else pinBlocks pins q }

/-- A committed set waits on a port that has no measurement under way (R159). -/
def MetPort.mayApply (p : MetPort) : Bool := p.applyDue && !p.busy

/-- A committed set takes effect on every port that waits for it and has no measurement under way (R159). The filters of an encoder that a port newly names start at the levels found, unless another port's set in force names it, whose filters are running (R584; log entry 25). -/
def Met.applyParams (m : Met) (pins : PinLevels) : Met :=
  let fresh (e : Nat) : Bool :=
    m.ports.any (fun p => p.2.mayApply && (metSet m.committed p.1).menc == e) && !m.ports.any (fun p => p.2.inForce.menc == e)
  { m with ports := tmap m.ports (fun n p => if p.mayApply then p.takeSet (metSet m.committed n) pins else p)
           encs := tmap m.encs (fun e c => if fresh e then { c with a := (pinAb pins e).1, b := (pinAb pins e).2 } else c) }

/-- An accepted time step takes effect when no measurement is under way on any port: from then on its counter reads fabric time, and stands still with it for the `still` ns that are left of a backward step (R140, R475, R477; log entry 15). -/
def Met.applyStep (m : Met) (still : Nat) : Met :=
  if m.stepDue = 0 || m.ports.any (fun e => e.2.busy) then m
  else { m with time := m.time + BitVec.ofInt 64 (m.stepDue + 65536 * ((still : Int) - m.stopNs)), stopNs := still, stepDue := 0 }

/-- Drop edges that no measurement can need: what is older than 2 µs before now, but for the newest of them, while no measurement names the encoder (log entry 16). -/
def Met.prune (m : Met) : Met :=
  { m with encs := tmap m.encs (fun e c =>
      if m.ports.any (fun p => p.2.meas.any (fun q => q.prm.menc == e)) then c
      else
        let recent := c.edges.takeWhile (fun x => decide (-(2000 * 65536) ≤ stampDiff x.1 m.time))
        { c with edges := recent ++ (c.edges.drop recent.length).take 1 }) }

/-- Norentum makes the record of the port's oldest finished measurement: window and UART (R153, R166). -/
def State.metRecord (s : State) (n : Nat) : State :=
  let m := s.met
  let p := m.port n
  match p.meas with
  | [] => s
  | q :: rest =>
    if q.open || !q.interpDone || (m.state != .sealed && m.state != .opened) then s
    else
      let (fv, s) := s.free
      let mref := if (m.mref + 1) % 2 ^ 32 = 0 then 1 else m.mref + 1
      let body := q.record m n mref fv s.metHold (!s.sys.released)
      let rec64 := body ++ metMac body
      let m := { m with mref := mref, records := tput m.records (mref % 4096) rec64, ports := tput m.ports n { p with meas := rest } }
      { s with met := (m.frame 1 rec64).prune }

/-! ### Start, seal and restart (R140-R142, R156-R158, R164) -/

/-- After verification: FAULT with its cause, or SEALED or OPEN once the level of SEAL_N is accepted (R156, R164). Where more than one check fails the cause is the first of image, parameters and OTP: the manual does not say which (DESIGN CHOICE, log entry 13). -/
def Met.enter (m : Met) : Met :=
  let fault (m : Met) (c : Nat) : Met :=
    let m := { m with state := .fault, cause := c }
    { m.note 6 c with staged := if c = 3 then [] else m.staged }
  if m.state != .boot || !m.romDone then m
  else if m.imageBad then fault m 2
  else if m.flashBad then fault m 3
  else if m.otpBad then fault m 4
  else if !m.sealKnown then m
  else { m with state := if m.sealLow then .sealed else .opened, cause := 0 }

/-- The core restarts from ROM in BOOT; measurements under way and staged values are lost, and every port takes the committed set. -/
def Met.restart (m : Met) (pins : PinLevels) : Met :=
  { m with state := .boot, cause := 0, romDone := false, staged := m.committed, imageBuf := []
           ports := (List.range 4).map (fun n => (n, { m.port n with meas := [], taps := [], applyDue := true })) }.applyParams pins

/-- Every filter starts at the level found at its pin, and every position at 0 (R584). -/
def Met.startFilters (m : Met) (pins : PinLevels) : Met :=
  { m with ports := tmap m.ports (fun _ p => { p with blocked := pinBlocks pins p.inForce })
           encs := (List.range 4).map (fun e => (e, { (default : MetEnc) with a := (pinAb pins e).1, b := (pinAb pins e).2 })) }

/-- The ROM has started and checked image, parameters and OTP, each bad or not: POWER_ON is logged once after power-on; what is found bad stays so until it is repaired (R140, R156, R160, R164). Where the parameters' CRC fails, the MET_MPn_ registers, PARAM_CRC and the set in use stay those last committed; DETAIL of POWER_ON is 0 (DESIGN CHOICE, log entry 13). -/
def Met.bootDone (m : Met) (image params otp : Bool) : Met :=
  if m.state != .boot then m
  else
    let m := { m with romDone := true, imageBad := m.imageBad || image, flashBad := m.flashBad || params, otpBad := m.otpBad || otp }
    let m := if m.powerLogged then m else { m.note 1 0 with powerLogged := true }
    m.enter

/-- VDD_MET powers on: counter and positions start at 0, the filters start at the levels found, and the island boots (R140, R584). -/
def Met.powerOn (m : Met) (pins : PinLevels) : Met :=
  if m.on then m
  else
    { m.restart pins with on := true, boots := m.boots + 1, time := 0, stepDue := 0, stopNs := 0, mref := 0, records := [], beatNs := 0
                          uartTx := [], sealLow := false, sealKnown := false, powerLogged := false }.startFilters pins

/-- The watchdog expires: FAULT is logged, the island restarts from ROM, its filters start at the levels found, its positions are 0 and its measurements lost (R142, R584). -/
def Met.watchdog (m : Met) (pins : PinLevels) : Met := { (m.note 6 1).restart pins with sealKnown := false }.startFilters pins

/-- SEAL_N has been stable for 10 ms at `level` (R157): the first level after a start is taken; a change is logged and changes the state. DETAIL of SEAL_OPENED and SEAL_CLOSED is 0, which R162 leaves open (DESIGN CHOICE, log entry 13). -/
def Met.sealChange (m : Met) (level : Bool) : Met :=
  if !m.sealKnown then { m with sealKnown := true, sealLow := !level }.enter
  else if m.sealLow == !level then m
  else
    let m := ({ m with sealLow := !level }).note (if level then 2 else 3) 0
    let m := if level then m.mapMeas (fun q => if q.open then { q with sealOpen := true } else q)
             else { m with staged := if m.paramFault then [] else m.committed }
    match m.state with
    | .sealed => if level then { m with state := .opened } else m
    | .opened => if level then m else { m with state := .sealed }
    | .fault => if level && m.cause = 3 then { m with staged := [] } else m
    | .boot => m

/-! ### Service UART commands (R167) -/

/-- STAGE: port, parameter number, value. -/
def Met.stage (m : Met) (pl : List Byte) : Met :=
  match m.refuses false with
  | some r => m.nak r
  | none =>
    let n := leAt pl 0 1
    let no := leAt pl 1 1
    let v : Int := if no = 5 then sgn 32 (leAt pl 2 4) else (leAt pl 2 4 : Nat)
    if pl.length ≠ 6 || 3 < n || 14 < no || decide (v < (metRange no).1) || decide ((metRange no).2 < v) then m.nak 2
    else ({ m with staged := tput m.staged (n * 16 + no) v }).ack []

/-- Number of parameters in which two sets differ. -/
def metChanges (a b : Tbl Int) : Nat :=
  ((List.range 4).flatMap (fun n => (List.range 15).filter (fun no => metParam a n no != metParam b n no))).length

/-- COMMIT: the staged set goes to flash, the event counter counts, the change is logged (R159, R160, R164). After a parameter fault DETAIL counts the changes against the set last committed, which the manual leaves open (DESIGN CHOICE, log entry 13). -/
def Met.commit (m : Met) (pl : List Byte) (pins : PinLevels) : Met :=
  match m.refuses false with
  | some r => m.nak r
  | none =>
    if m.logFull then m.nak 3
    else if pl ≠ [] || (List.range 4).any (fun n => decide (metParam m.staged n 14 < metParam m.staged n 13)) then m.nak 2
    else
      let old := if m.paramFault then 0 else metParamCrc m.committed
      let k := metChanges m.committed m.staged
      let repair := m.paramFault
      let m := { m with committed := m.staged, events := m.events + 1, flashBad := false }
      let m := m.append 4 k old (metParamCrc m.committed)
      let m := m.ack []
      if repair then m.restart pins
      else ({ m with ports := tmap m.ports (fun _ p => { p with applyDue := true }) }).applyParams pins

/-- DISCARD: the staged set returns to the committed one, or to the defaults under R164. -/
def Met.discard (m : Met) (pl : List Byte) : Met :=
  match m.refuses false with
  | some r => m.nak r
  | none => if pl ≠ [] then m.nak 2 else ({ m with staged := if m.paramFault then [] else m.committed }).ack []

/-- IMAGE_BLOCK: offset and 1 to 4,096 bytes. -/
def Met.imageBlock (m : Met) (pl : List Byte) : Met :=
  match m.refuses true with
  | some r => m.nak r
  | none =>
    if pl.length < 5 || 4100 < pl.length then m.nak 2
    else ({ m with imageBuf := (pl.drop 4).foldl (fun (acc : List (Nat × Byte) × Nat) b => (tins acc.1 acc.2 b, acc.2 + 1)) (m.imageBuf, leAt pl 0 4) |>.1 }).ack []

/-- The image that the blocks received make: up to the highest byte received, a byte never received reading 0 (log entry 17). -/
def Met.bufferBytes (m : Met) : List Byte :=
  match m.imageBuf.getLast? with
  | some (k, _) => mread m.imageBuf 0 (k + 1)
  | none => []

/-- IMAGE_END: the signature decides; an accepted image is logged and the island restarts from ROM (R163, R164). The blocks of an image whose signature fails are dropped (log entry 74); DETAIL of IMAGE_UPDATE is 0 (DESIGN CHOICE, log entry 13). -/
def Met.imageEnd (m : Met) (pl : List Byte) (pins : PinLevels) : Met :=
  match m.refuses true with
  | some r => m.nak r
  | none =>
    if m.logFull then m.nak 3
    else if pl.length ≠ 96 then m.nak 2
    else if !Config.metImageSigned m.bufferBytes pl then ({ m with imageBuf := [] }).nak 4
    else
      let old := m.swVer
      let m := { m with image := m.bufferBytes, imageSet := true, imageBad := false, events := m.events + 1 }
      ((m.append 5 0 old m.swVer).ack []).restart pins

/-- READ_LOG. -/
def Met.readLog (m : Met) (pl : List Byte) : Met :=
  let q := leAt pl 0 2
  if pl.length ≠ 2 || q = 0 || m.log.length < q then m.nak 2 else m.ack (m.log.getD (q - 1) [])

/-- VERIFY: whether the record's MAC verifies under the device key. -/
def Met.verify (m : Met) (pl : List Byte) : Met :=
  if pl.length ≠ 64 then m.nak 2
  else m.ack [if metMac (pl.take 56) = pl.drop 56 then 1 else 0]

/-- A frame whose TYPE is not listed (R167). -/
def Met.unknown (m : Met) (typ : Byte) : Met :=
  if 0x10 ≤ typ.toNat && typ.toNat ≤ 0x17 then m else m.nak 5

/-! ### The commands -/

/-- Act on Norentum alone. -/
def State.metDo (s : State) (f : Met → Met) : Out := s.onMet (fun s => { s with met := f s.met })

/-- Act on Norentum alone; an accepted time step that waits applies once no measurement is under way (R477). -/
def State.metStep (s : State) (f : Met → Met) : Out := s.onMet (fun s => { s with met := (f s.met).applyStep s.tim.stopNs })

/-- READ_ID (R165). -/
def execReadId (payload : List Byte) (s : State) : Out :=
  s.metDo (fun m => if payload ≠ [] then m.nak 2 else m.ack m.idBlock)

/-- READ_LOG (R167). -/
def execReadLog (payload : List Byte) (s : State) : Out := s.metDo (fun m => m.readLog payload)

/-- STAGE (R143, R159, R164). -/
def execUartStage (payload : List Byte) (s : State) : Out := s.metDo (fun m => m.stage payload)

/-- COMMIT (R159, R160, R164); `pins` the levels that filters it starts find. -/
def execUartCommit (payload : List Byte) (pins : PinLevels) (s : State) : Out := s.metStep (fun m => m.commit payload pins)

/-- DISCARD (R164). -/
def execUartDiscard (payload : List Byte) (s : State) : Out := s.metDo (fun m => m.discard payload)

/-- IMAGE_BLOCK (R167). -/
def execImageBlock (payload : List Byte) (s : State) : Out := s.metDo (fun m => m.imageBlock payload)

/-- IMAGE_END (R163, R164); `pins` the levels that filters it starts find. -/
def execImageEnd (payload : List Byte) (pins : PinLevels) (s : State) : Out := s.metStep (fun m => m.imageEnd payload pins)

/-- VERIFY (R152, R167). -/
def execUartVerify (payload : List Byte) (s : State) : Out := s.metDo (fun m => m.verify payload)

/-- A frame with a bad CRC is discarded; the receiver waits for the next 0x7E (R166). -/
def execUartFrameBad (_frame : List Byte) (s : State) : Out := s.metDo (fun m => m)

/-- A command frame of an unlisted TYPE is answered NAK UNKNOWN (R167). -/
def execUartUnknown (typ : Byte) (_payload : List Byte) (s : State) : Out := s.metDo (fun m => m.unknown typ)

/-- An encoder edge at Norentum's sealed filter (R584); what waited for the end of a measurement that it ends as LONG applies, and filters that this starts find `pins` (R146, R159, R477). -/
def execMetEncEdge (e : Fin 4) (a b : Bool) (stamp : Stamp) (pins : PinLevels) (s : State) : Out :=
  s.metStep (fun m => (m.encEdge e.val a b stamp).applyParams pins)

/-- An accepted blocking edge of MBAR (R144). -/
def execMetLeadEdge (n : Fin 4) (stamp : Stamp) (s : State) : Out := s.metDo (fun m => m.lead n.val stamp)

/-- An accepted unblocking edge of MBAR (R144); what waited for the end of the measurement applies, and filters that this starts find `pins` (R159, R477). -/
def execMetTrailEdge (n : Fin 4) (stamp : Stamp) (pins : PinLevels) (s : State) : Out :=
  s.metStep (fun m => (m.trail n.val stamp).applyParams pins)

/-- No counted edge came within 10 ms of the trailing edge (R145). -/
def execMetInterpTimeout (n : Fin 4) (s : State) : Out := s.metDo (fun m => m.interpTimeout n.val)

/-- Norentum makes a record (R151, R153). -/
def execMetRecordDone (n : Fin 4) (s : State) : Out := s.onMet (fun s => s.metRecord n.val)

/-- SEAL_N stable for 10 ms at a level (R157). -/
def execSealChange (level : Bool) (s : State) : Out := s.metDo (fun m => m.sealChange level)

/-- Norentum has checked image, parameters and OTP; each operand says that its check fails (R156). -/
def execMetBootDone (image params otp : Bool) (s : State) : Out := s.metDo (fun m => m.bootDone image params otp)

/-- The Norentum watchdog expires, 10 ms after the last kick, at `kick` of the timebase (R142, R530); no measurement is under way any more, so a step that waits applies (R477). -/
def execMetWatchdog (kick : Nat) (pins : PinLevels) (s : State) : Out := s.metStep (fun m => if kick + 10000000 ≤ s.tb then m.watchdog pins else m)

/-- VDD_MET powers on (R140). -/
def execMetPowerOn (pins : PinLevels) (s : State) : Out := .next { s with met := s.met.powerOn pins }

/-- VDD_MET falls: every MET field reads 0 (R168); flash, log, event counter and OTP keep (R137). -/
def execMetPowerOff (s : State) : Out := .next { s with met := { s.met with on := false } }

end Sys2Proof.Machine
end

