-- ==== Sys2Proof/Machine/View.lean ====
section
/-! DEFINITION. What a host read of a register returns: the register file, or a value that other state holds. -/

namespace Sys2Proof.Machine

/-- Bytes that a record in the hold takes (R509). -/
def Held.size (h : Held) : Nat := (h.parts.map (·.length)).foldl (· + ·) 0

/-- Bytes held of all rings (R510). -/
def State.heldBytes (s : State) : Nat := (s.hold.map Held.size).foldl (· + ·) 0

/-- Bytes held of one ring (R519). -/
def State.ringHeld (s : State) (r : Nat) : Nat := ((s.hold.filter (fun h => h.ring == r)).map Held.size).foldl (· + ·) 0

/-- Free entries of the item table (R24). -/
def State.freeItems (s : State) : Nat := 0xFFFFF - (s.items.filter (fun e => e.2.state != .free)).length

/-- The frame pools of the playbooks loaded into the partitions that `f` selects: the first that names a tile (R300). -/
def State.poolSizes (s : State) (f : Nat → Bool) : Nat :=
  let l := s.playbooks.flatMap (fun l => l.2.pb.pools.map (fun p => (l.2.part, p)))
  ((List.range 256).map (fun t =>
    match l.find? (fun p => p.2.tile == t) with
    | some p => if f p.1 then p.2.size else 0
    | none => 0)).foldl (· + ·) 0

/-- Frames of the CHIP tier: the pools of every loaded playbook (R300). -/
def State.chipFrames (s : State) : Nat := s.poolSizes (fun _ => true)

/-- Free CHIP frames and free DRAM frames (R313, R328): frame numbers from 2^24 on are DRAM frames. -/
def State.chipFree (s : State) : Nat := s.chipFrames - (s.refs.filter (fun r => r.1 < 2 ^ 24)).length
def State.dramFreeCount (s : State) : Nat := s.fld PGM_DRAM_FRAMES PGM_DRAM_FRAMES_DRAM_FRAMES - (s.refs.filter (fun r => 2 ^ 24 ≤ r.1)).length

/-- DRAM frames that sequences of a partition hold (R301, R328). -/
def State.dramUsed (s : State) (p : Nat) : Nat :=
  (((s.seqs.filter (fun q => (tget default s.items q.1).part == p)).flatMap (fun q => q.2.tables.flatMap id)).filterMap
    (fun e => if e.tier = .dram then some e.frame else none)).eraseDups.length

/-- Transmit credits of a port, one byte for each VC in the order of KOL_VC_SPLIT (R458). -/
def KPort.creditWord (p : KPort) : Word :=
  let c (v : Nat) := min 255 (tget 0 p.credit v)
  BitVec.ofNat 32 (c vcTime * 2 ^ 24 + c vcBe * 2 ^ 16 + c vcLc * 2 ^ 8 + c vcCtl)

/-! ### The crop cache (R369, R370) -/

/-- Row pitch of a crop in bytes: 16-bit pixels, rounded up to 32 (R369). -/
def cropPitch (w : Nat) : Nat := cdiv (2 * w) 32 * 32

/-- Bytes of a crop with its header. -/
def cropBytes (w h planes : Nat) : Nat := 64 + cropPitch w * h * planes

/-- Bytes of the crops held. -/
def cropUsed (cs : List Crop) : Nat := (cs.map (fun c => cropBytes c.width c.height c.planes.length)).foldl (· + ·) 0

/-- FREE_MIB of the crop cache: space that is free or holds crops of items that are DONE (R370, R381). -/
def State.cropFree (s : State) : Nat :=
  let kept := s.crops.filter (fun c => let e := tget default s.items (c.top % 2 ^ 20); e.gen == c.top / 2 ^ 20 && e.state != .done && e.state != .free)
  (s.fld DEC_CROP_SIZE DEC_CROP_SIZE_SIZE_MIB * 0x100000 - cropUsed kept) / 0x100000

/-- DEC_STAT: whether an image is being decoded, and how many wait (R367, R381). -/
def State.decStat (s : State) : Word :=
  let l := s.images.filter (fun m => m.2.fetched && !m.2.decoded)
  let busy := l.any (fun m => m.2.started)
  BitVec.ofNat 32 (min 255 (l.length - b2n busy) * 256 + b2n busy)

/-- What a register reads as, the latch of 64-bit pairs apart (R5, R6, R7). -/
def State.view (s : State) (a : Nat) : Word :=
  if a / 0x100000 = 10 then s.metReg a
  else if a = TIM_NOW_LO then BitVec.ofNat 32 s.tim.now.toNat
  else if a = TIM_NOW_HI then BitVec.ofNat 32 (s.tim.now.toNat / 2 ^ 32)
  else if a = TIM_TAI_LO then BitVec.ofNat 32 s.tim.tai
  else if a = TIM_TAI_HI then fset (s.reg a) TIM_TAI_HI_TAI_SEC (s.tim.tai / 2 ^ 32)
  else if a = HIF_HOLD_USED then BitVec.ofNat 32 (cdiv s.heldBytes 1024)
  else if a = PGM_ITEM_FREE then BitVec.ofNat 32 s.freeItems
  else if a = PGM_CHIP_FREE then BitVec.ofNat 32 s.chipFree
  else if a = PGM_DRAM_FREE then BitVec.ofNat 32 s.dramFreeCount
  else if PGM_PART_USED 0 ≤ a && a ≤ PGM_PART_USED 7 && (a - PGM_PART_USED 0) % 0x10 == 0 then
    BitVec.ofNat 32 (s.dramUsed ((a - PGM_PART_USED 0) / 0x10))
  else if PGM_PART_CHIP 0 ≤ a && a ≤ PGM_PART_CHIP 7 && (a - PGM_PART_CHIP 0) % 0x10 == 0 then
    BitVec.ofNat 32 (s.poolSizes (fun p => p == (a - PGM_PART_CHIP 0) / 0x10))
  else if HIF_RING_HELD 0 ≤ a && a ≤ HIF_RING_HELD 63 && (a - HIF_RING_HELD 0) % 0x40 == 0 then
    BitVec.ofNat 32 (cdiv (s.ringHeld ((a - HIF_RING_HELD 0) / 0x40)) 1024)
  else if a = SNP_CTL then fset (s.reg a) SNP_CTL_ARM (s.fld SNP_STAT SNP_STAT_ARMED)
  else if a = DEC_STAT then s.decStat
  else if a = DEC_CROP_FREE then BitVec.ofNat 32 s.cropFree
  else if KOL_CREDIT 0 ≤ a && a ≤ KOL_CREDIT 5 && (a - KOL_CREDIT 0) % 0x10000 == 0 then
    (s.kport ((a - KOL_CREDIT 0) / 0x10000)).creditWord
  else s.reg a

/-- The bits of a register that are write-only read 0 (R7). -/
def maskWo (fs : List FieldD) (w : Word) : Word :=
  fs.foldl (fun w f => if f.acc = .wo then fset w f.fld 0 else w) w

/-- What a host read of a register returns; an unassigned offset reads 0 (R573). -/
def State.readReg (s : State) (a : Nat) : Word :=
  if a / 0x100000 = 10 then s.view a
  else
    match findReg a with
    | some (d, _, _) => maskWo d.fields (s.view a)
    | none => 0

end Sys2Proof.Machine
end

