-- ==== Sys2Proof/Machine/Records.lean ====
section
/-! DEFINITION. Records: result rings, the hold, the Ethernet result path, ring interrupts, snapshots, ERROR and RECOVERY records, status replies (R488-R515, R537-R545). -/

namespace Sys2Proof.Machine

/-! ### Snapshot (R540-R545) -/

/-- Whether a register belongs to a block body of a snapshot: it has an RO, W1C or SEAL field (R545). -/
def RegD.inSnap (d : RegD) : Bool := d.fields.any (fun f => f.acc == .ro || f.acc == .w1c || f.acc == .seal)

/-- The offsets of a register's copies. -/
def RegD.addrs (d : RegD) : List Nat :=
  (List.range d.insts).flatMap (fun i => (List.range d.elems).map (fun j => d.base + d.istride * i + d.estride * j))

/-- The offsets of the registers of an instance that spans from `base` for `span` bytes, rising. -/
def snapOffsets (base span : Nat) : List Nat :=
  (((blockRegs base).filter RegD.inSnap).flatMap RegD.addrs |>.filter (fun a => base ≤ a && a < base + span)).mergeSort (fun a b => decide (a ≤ b))

/-- A block body: pairs of offset and value (R545). -/
def State.snapBody (s : State) (base span : Nat) : List Byte :=
  (snapOffsets base span).flatMap (fun a => leBytes 4 (a - base) ++ leBytes 4 (s.readReg a).toNat)

/-- The instances that latch: BLOCK, INSTANCE, base, span. LIN common, KOL common and SYS take the instance number that their place in the map gives (log entry 20). -/
def snapPlaces : List (Nat × Nat × Nat × Nat) :=
  [(0, 0, 0, 0x100000), (0, 16, 0x100000, 0x100000)]
    ++ (List.range 5).map (fun n => (1, n, 0x200000 + 0x10000 * n, 0x10000))
    ++ (List.range 4).map (fun n => (2, n, 0x280000 + 0x10000 * n, 0x10000))
    ++ [(3, 0, 0x300000, 0x100000), (4, 0, 0x400000, 0x100000), (5, 0, 0x500000, 0x100000), (6, 0, 0x600000, 0x100000), (7, 0, 0x700000, 0x100000)]
    ++ [0, 1, 2, 3, 4, 5, 8].map (fun n => (8, n, 0x800000 + 0x10000 * n, 0x10000))
    ++ [(9, 0, 0x900000, 0x100000), (10, 0, 0xB00000, 0x100000), (11, 0, 0xC00000, 0x100000), (12, 0, 0xD00000, 0x100000), (13, 0, 0xA00000, 0x200)]

/-- The physical tile that a logical tile is mapped to (R229, R233). -/
def State.physOf (s : State) (t : Nat) : Option Nat :=
  if s.on (PIT_MAP t) PIT_MAP_VALID then some (s.fld (PIT_MAP t) PIT_MAP_PHYS) else none

/-- The logical tile that a physical tile serves. -/
def State.logicalOf (s : State) (p : Nat) : Option Nat :=
  (List.range 256).find? (fun t => s.physOf t == some p)

/-- CMD_INDEX at the head of an engine's queue. -/
def headIndex : List QCmd → Nat
  | [] => 0
  | c :: _ => c.index

/-- The body of a tile's section (R545). -/
def State.tileBody (s : State) (p : Nat) : List Byte :=
  match s.logicalOf p with
  | none => zeros 56 ++ leBytes 2 (s.fld (PIT_TILE_TEMPO p) PIT_TILE_TEMPO_STEPS) ++ zeros 6
  | some t =>
    let x := tget default s.tiles t
    let tag := match x.job with
      | some j => (tget default s.jobs j).tag
      | none => 0
    leBytes 1 t ++ zeros 3 ++ leBytes 4 tag ++ leBytes 4 x.pos ++ leBytes 4 (headIndex x.mac) ++ leBytes 4 (headIndex x.vec)
      ++ leBytes 4 (headIndex x.msg) ++ (List.range 16).flatMap (fun k => leBytes 2 (tget 0 x.sems k))
      ++ leBytes 2 (s.fld (PIT_TILE_TEMPO p) PIT_TILE_TEMPO_STEPS) ++ zeros 6

/-- The section of a physical tile: an isolated tile has a zero body, a tile that latched after its restore sets LATE (R542, R545). -/
def State.tileSection (s : State) (p : Nat) (late : Bool) : Section :=
  let iso := (tget default s.ptiles p).failed
  { block := 14, flags := b2n iso + 2 * b2n late, inst := p, latch := s.now, body := if iso then zeros 64 else s.tileBody p }

/-- Whether the tile that a physical tile serves is in recovery. -/
def State.recovering (s : State) (p : Nat) : Bool :=
  match s.logicalOf p with
  | some t => (tget default s.tiles t).restoring
  | none => false

/-- A trigger acts: it clears ARMED, every block latches, SNAP_OUT rises (R541-R543). -/
def State.snapAct (s : State) (stamp : Stamp) (cause cls : Nat) : State :=
  let s := (((s.setFld SNP_STAT SNP_STAT_ARMED 0).setFld SNP_STAT SNP_STAT_BUSY 1).setFld SNP_STAT SNP_STAT_VALID 0).setFld SNP_STAT SNP_STAT_CAUSE (2 ^ cause)
  let s := s.setPair SNP_TRIG_STAMP_LO stamp.toNat
  let blocks := snapPlaces.map (fun x => ({ block := x.1, flags := 0, inst := x.2.1, latch := s.now, body := s.snapBody x.2.2.1 x.2.2.2 } : Section))
  let wait := (List.range 272).filter s.recovering
  let tiles := ((List.range 272).filter (fun p => !s.recovering p)).map (fun p => s.tileSection p false)
  { s with snp := { no := (s.snp.no + 1) % 2 ^ 32, trig := stamp, cause := 2 ^ cause, faultClass := cls, sections := blocks ++ tiles
                    waitTiles := wait, lastTrig := some stamp, out := if s.on SNP_CTL SNP_CTL_OUT_EN then some s.tb else s.snp.out } }

/-- A trigger of a snapshot: it acts while ARMED; one in the same nanosecond as the last that acted only adds its cause; any other is lost (R540, R541). True when it acted. -/
def State.snapTrigger (s : State) (stamp : Stamp) (cause cls : Nat) : State × Bool :=
  if s.on SNP_STAT SNP_STAT_ARMED then (s.snapAct stamp cause cls, true)
  else
    match s.snp.lastTrig with
    | some t =>
      if ns48 t = ns48 stamp then
        let c := s.fld SNP_STAT SNP_STAT_CAUSE ||| 2 ^ cause
        ({ s.setFld SNP_STAT SNP_STAT_CAUSE c with
            snp := { s.snp with cause := c, faultClass := if s.snp.faultClass = 0 then cls else s.snp.faultClass } }, true)
      else ((s.incReg SNP_LOST).raise SNP_IRQ_STAT 1, false)
    | none => ((s.incReg SNP_LOST).raise SNP_IRQ_STAT 1, false)

/-! ### Rings (R488-R491, R515) -/

/-- Size of a ring in slots. -/
def State.ringSize (s : State) (r : Nat) : Nat := 2 ^ s.fld (HIF_RING_CFG r) HIF_RING_CFG_LOG2_SLOTS

/-- Base address of a ring in host memory. -/
def State.ringBase (s : State) (r : Nat) : Nat := s.pair (HIF_RING_BASE_LO r) / 4096 * 4096

/-- Slots of PAD that a record of `need` slots at index `tail` needs before it (R490). -/
def padSlots (size tail need : Nat) : Nat :=
  let left := size - tail % size
  if left < need then left else 0

/-- PHASE of a record that starts at index `i` (R489). -/
def ringPhase (size i : Nat) : Nat := (i / size + 1) % 2

/-- A record's bytes with its PHASE. -/
def withPhase (ph : Nat) : List Byte → List Byte
  | [] => []
  | b :: t => BitVec.ofNat 8 (b.toNat % 128 + 128 * ph) :: t

/-- A PAD record of `n` slots (R490, R503). -/
def padRecord (n : Nat) : List Byte := leBytes 1 0x7F ++ zeros 1 ++ leBytes 2 n ++ zeros (32 * n - 4)

/-- The index after the parts of a record are written one after another, or none when they do not fit (R490, R506). -/
def ringFits (size head : Nat) : List (List Byte) → Nat → Option Nat
  | [], tail => some tail
  | p :: ps, tail =>
    let need := p.length / 32
    let pad := padSlots size tail need
    if size < (tail + 2 ^ 32 - head) % 2 ^ 32 + pad + need || size < need then none
    else ringFits size head ps ((tail + pad + need) % 2 ^ 32)

/-- Write bytes of a ring at slot index `i`. -/
def State.ringBytes (s : State) (r i : Nat) (l : List Byte) : State :=
  s.hwrite (s.ringBase r + i % s.ringSize r * 32) l

/-- Write the parts of a record from index `tail` on, PAD records between them where needed (R489, R490). -/
def State.ringParts (s : State) (r : Nat) : List (List Byte) → Nat → State
  | [], tail => s.setNum (HIF_RING_TAIL r) tail
  | p :: ps, tail =>
    let size := s.ringSize r
    let need := p.length / 32
    let pad := padSlots size tail need
    let s := if pad = 0 then s else s.ringBytes r tail (withPhase (ringPhase size tail) (padRecord pad))
    let i := tail + pad
    (s.ringBytes r i (withPhase (ringPhase size i) p)).ringParts r ps ((i + need) % 2 ^ 32)

/-- Records have landed on a ring: its vector is raised when COUNT have landed since its last interrupt; those that land while COUNT is 0 count too (R515). -/
def State.ringLanded (s : State) (r k : Nat) : State :=
  let cnt := s.fld (HIF_RING_IRQ r) HIF_RING_IRQ_COUNT
  let x := tget default s.rings r
  if cnt ≠ 0 && cnt ≤ x.unsig + k then ({ s with rings := tput s.rings r { x with unsig := 0 } }).message (s.fld (HIF_RING_VEC r) HIF_RING_VEC_VEC)
  else { s with rings := tput s.rings r { x with unsig := x.unsig + k, firstTb := if x.unsig = 0 then s.tb else x.firstTb } }

/-- Write a record to its ring when the ring is enabled and has room (R490). -/
def State.ringWrite (s : State) (r : Nat) (parts : List (List Byte)) : Option State :=
  if !s.on (HIF_RING_CFG r) HIF_RING_CFG_EN then none
  else
    let tail := s.num (HIF_RING_TAIL r)
    match ringFits (s.ringSize r) (s.num (HIF_RING_HEAD r)) parts tail with
    | none => none
    | some _ => some ((s.ringParts r parts tail).ringLanded r parts.length)

/-! ### Ethernet result path (R512-R514) -/

/-- A datagram's payload: header with SEND_STAMP still 0, then the record with PHASE 0 (R513). -/
def State.datagram (s : State) (l : List Byte) : List Byte :=
  leBytes 2 0xB4C1 ++ leBytes 1 (1 + 128 * b2n s.addr?.isSome) ++ leBytes 1 (s.addr?.getD 0) ++ leBytes 4 s.eth.seq ++ zeros 8 ++ withPhase 0 l

/-- Put one datagram into the transmit queue, or count it as dropped when the link is down or the queue is full (R514). -/
def State.udpOne (s : State) (l : List Byte) : State :=
  let d := s.datagram l
  let s := { s with eth := { s.eth with seq := (s.eth.seq + 1) % 2 ^ 32 } }
  if !s.on ETH_STAT ETH_STAT_LINK_UP || 64 ≤ s.eth.queue.length then s.incReg ETH_DROP_CNT
  else { s with eth := { s.eth with queue := s.eth.queue ++ [d] } }

/-- Send every part of a record in consecutive datagrams (R513). -/
def State.udpSend (s : State) (parts : List (List Byte)) : State := parts.foldl State.udpOne s

/-- Whether SEND selects a record: PIECE of LC items, every PIECE, PIECE and LIVE (R513). -/
def State.udpSelects (s : State) (typ : Nat) (lc : Bool) : Bool :=
  s.on ETH_CFG ETH_CFG_EN &&
  match s.fld ETH_CFG ETH_CFG_SEND with
  | 0 => false
  | 1 => typ == 2 && lc
  | 2 => typ == 2
  | _ => typ == 2 || typ == 4

/-- The Ethernet path can take `k` datagrams now. -/
def State.udpRoom (s : State) (k : Nat) : Bool :=
  s.on ETH_CFG ETH_CFG_EN && s.on ETH_STAT ETH_STAT_LINK_UP && decide (s.eth.queue.length + k ≤ 64)

/-! ### The hold (R509-R511) -/

/-- A record counts as written (R52): the final record of a PIECE is marked, and goes to the catch partner, each of its parts as a message of its own, which a message can hold (R437, R448, R506; log entry 102). -/
def State.written (s : State) (item : Nat) (final : Bool) (parts : List (List Byte)) : State :=
  if !final then s
  else
    match tfind s.pieces item with
    | none => s
    | some p =>
      let s := { s with pieces := tput s.pieces item { p with finalDone := true } }
      if p.relayed then parts.foldl (fun s b => s.relay 0x23 item b) s else s

/-- OUTPUT_STALL sets when the held bytes exceed the budget, and clears when they fall below half of it (R510). -/
def State.stallCheck (s : State) : State :=
  let b := s.num HIF_RESULT_BUDGET * 1024
  if s.on HIF_STAT HIF_STAT_OUTPUT_STALL then
    if s.heldBytes < b / 2 then s.setFld HIF_STAT HIF_STAT_OUTPUT_STALL 0 else s
  else if b < s.heldBytes then
    ((s.setFld HIF_STAT HIF_STAT_OUTPUT_STALL 1).incFld HIF_STALL_CNT HIF_STALL_CNT_STALLS).raise HIF_IRQ_STAT 0
  else s

/-- During a stall with DIVERT, held LC PIECE records leave on the Ethernet path while it has room (R510). -/
def State.divertHold (s : State) : State :=
  let go (s : State) (h : Held) : State :=
    if h.lc && h.typ = 2 && (h.sent || (s.udpRoom h.parts.length && h.parts ≠ [])) then
      let s := { s with hold := s.hold.erase h }
      ((if h.sent then s else s.udpSend h.parts).incReg ETH_DIVERT_CNT).written h.item h.final h.parts
    else s
  if s.on HIF_STAT HIF_STAT_OUTPUT_STALL && s.on ETH_CFG ETH_CFG_DIVERT && s.udpRoom 0 then s.hold.foldl go s else s

/-- The 64-byte head that is held where the hold has no room for the record; no parts follow it, so MORE is 0 (R504, R511). -/
def headOnly (l : List Byte) : List Byte :=
  let h := fitTo 64 l
  h.take 2 ++ leBytes 2 2 ++ (h.drop 4).take 8 ++ leBytes 1 9 ++ (h.drop 13).take 4 ++ [(h.getD 17 0) &&& 0xFE] ++ zeros 2 ++ h.drop 20

/-- Set the HELD flag of a PIECE record's part (R504, R509). -/
def setHeld (typ : Nat) (l : List Byte) : List Byte :=
  if typ = 2 then l.take 16 ++ [(l.getD 16 0) ||| 0x80] ++ l.drop 17 else l

/-- Discard held NOTE and LIVE records, oldest first, until `need` more bytes fit under `cap` (R511; log entry 21). -/
def dropNotes : List Held → Nat → Nat → List Held
  | [], _, _ => []
  | h :: t, used, cap =>
    if cap < used && (h.typ == 3 || h.typ == 4) then dropNotes t (used - h.size) cap else h :: dropNotes t used cap

/-- A record goes to the hold in the form in which it will stand on the ring, which is also the form of the datagrams of a record that SEND selects; it counts as sent where they all found room (R509, R513, R514). -/
def State.holdSend (s : State) (h : Held) (sel keep : Bool) : State :=
  let sent := sel && s.udpRoom h.parts.length
  let s := if sel then s.udpSend h.parts else s
  if keep then { s with hold := s.hold ++ [{ h with sent := sent }] } else s

/-- Put a record into the hold (R509, R511): the last 1/16 takes only heads of PIECE records; a record that finds no room and is no PIECE record is lost (log entry 21). `sel` says that SEND selects it. -/
def State.holdPut (s : State) (h : Held) (sel : Bool) : State :=
  let cap := s.num HIF_HOLD_SIZE * 1024
  let used := s.heldBytes
  let h := { h with parts := h.parts.map (setHeld h.typ) }
  let s :=
    if used + h.size ≤ cap - cap / 16 then s.holdSend h sel true
    else if h.typ = 2 then
      let hd : Held := { h with parts := [headOnly (h.parts.headD [])] }
      let s := (s.incFld HIF_STALL_CNT HIF_STALL_CNT_HEAD_ONLY).raise HIF_IRQ_STAT 3
      let kept := if used + 64 ≤ cap then s.hold else dropNotes s.hold (used + 64) cap
      let s := { s with hold := kept }
      s.holdSend hd sel (decide (s.heldBytes + 64 ≤ cap))
    else s.holdSend h sel false
  s.stallCheck.divertHold.stallCheck

/-- The parts of a record that not even its empty ring can take together (log entry 87). -/
def State.ringTooLong (s : State) (r : Nat) (parts : List (List Byte)) : Bool :=
  (ringFits (s.ringSize r) (s.num (HIF_RING_TAIL r)) parts (s.num (HIF_RING_TAIL r))).isNone

/-- Write the leading parts of a record that have room; the parts that are left. -/
def State.ringSome (s : State) (r : Nat) : List (List Byte) → State × List (List Byte)
  | [] => (s, [])
  | p :: t =>
    match s.ringWrite r [p] with
    | some s' => s'.ringSome r t
    | none => (s, p :: t)

/-- Held records leave the hold in order as room appears: ring by ring, the oldest first, none overtaking (R491, R509); the parts of a record leave together, unless the whole ring is too small for them (R506; log entry 87). -/
def drainList (s : State) (blocked : List Nat) : List Held → State
  | [] => s
  | h :: t =>
    if blocked.contains h.ring then drainList s blocked t
    else
      match s.ringWrite h.ring h.parts with
      | some s' => drainList (({ s' with hold := s'.hold.erase h }).written h.item h.final h.parts) blocked t
      | none =>
        if s.ringTooLong h.ring h.parts then
          let (s', rest) := s.ringSome h.ring h.parts
          drainList { s' with hold := s'.hold.map (fun x => if x = h then { h with parts := rest } else x) } (h.ring :: blocked) t
        else drainList s (h.ring :: blocked) t

/-- Drain the hold, and end the stall when the held bytes have fallen far enough (R509, R510). -/
def State.drain (s : State) : State := (drainList s [] s.hold).stallCheck.divertHold.stallCheck

/-- Emit a record: to the Ethernet path alone while a stall diverts it, else to its ring, or to the hold, and to the Ethernet path where SEND selects it, in the form that the ring has or will have (R490, R509, R510, R513). -/
def State.emit (s : State) (ring typ : Nat) (parts : List (List Byte)) (item : Nat) (lc final : Bool) : State :=
  let sel := s.udpSelects typ lc
  let divert := s.on HIF_STAT HIF_STAT_OUTPUT_STALL && s.on ETH_CFG ETH_CFG_DIVERT && typ == 2 && lc
  if divert && s.udpRoom parts.length then ((s.udpSend parts).incReg ETH_DIVERT_CNT).written item final parts
  else
    let keep (s : State) := s.holdPut { ring := ring, typ := typ, parts := parts, item := item, lc := lc, sent := false, final := final } sel
    if s.hold.any (fun h => h.ring == ring) then keep s
    else
      match s.ringWrite ring parts with
      | some s' => (if sel then s'.udpSend parts else s').written item final parts
      | none => if s.ringTooLong ring parts then (keep s).drain else keep s

/-! ### ERROR and RECOVERY records (R537, R538) -/

/-- Classes of ERROR and RECOVERY records (R538). -/
def clsTileRemap : Nat := 1
def clsTileLost : Nat := 2
def clsCtxFault : Nat := 3
def clsLink : Nat := 4
def clsPartnerLost : Nat := 5
def clsTakeover : Nat := 6
def clsCoachRestart : Nat := 7
def clsMemUncorr : Nat := 8
def clsMemCorrRate : Nat := 9
def clsPartHalted : Nat := 10
def clsDeviceReset : Nat := 11

/-- Emit an ERROR or RECOVERY record to SYS_RING; its class may trigger a snapshot (R492, R537, R540). `fault` is the detection's stamp. -/
def State.sysRecord (s : State) (err : Bool) (cls : Nat) (part : Option Nat) (unit item d0 d1 : Nat) (fault : Stamp) : State :=
  let q := (s.ras.seq + 1) % 2 ^ 32
  let r := leBytes 1 (if err then 6 else 7) ++ zeros 1 ++ leBytes 2 2 ++ leBytes 1 cls
    ++ leBytes 1 (match part with | some p => 128 + p % 8 | none => 0) ++ leBytes 2 unit ++ leBytes 4 item
    ++ leBytes 4 d0 ++ leBytes 4 d1 ++ leBytes 4 q ++ leBytes 8 fault.toNat ++ leBytes 8 (if err then 0 else s.now.toNat)
    ++ leBytes 1 (s.addr?.getD 0) ++ leBytes 1 (b2n s.addr?.isSome) ++ zeros 22
  let s := { s.setNum RAS_EVENT_SEQ q with ras := { s.ras with seq := q } }
  let s := s.emit (s.fld HIF_SYS_RING HIF_SYS_RING_SYS_RING) (if err then 6 else 7) [r] 0 false false
  if bit (s.num SNP_FAULT_MASK) cls && decide (1 ≤ cls) then (s.snapTrigger s.now 3 cls).1 else s

/-- An ERROR record detected now. -/
def State.errorRec (s : State) (cls : Nat) (part : Option Nat) (unit item d0 d1 : Nat) : State :=
  s.sysRecord true cls part unit item d0 d1 s.now

/-- A RECOVERY record detected now. -/
def State.recoveryRec (s : State) (cls : Nat) (part : Option Nat) (unit item d0 d1 : Nat) : State :=
  s.sysRecord false cls part unit item d0 d1 s.now

/-! ### Status replies (R496) -/

/-- Code of a status (R501). -/
def Status.code : Status → Nat
  | .read => 1 | .noRead => 2 | .noReadByDeadline => 3 | .late => 4 | .error => 5 | .aborted => 6 | .empty => 7
  | .noFrame => 8 | .notReadOutputStall => 9
  | .ok => 0x20 | .invalidField => 0x21 | .invalidOpcode => 0x22 | .staleItem => 0x23 | .perm => 0x24
  | .partBusy => 0x25 | .partConflict => 0x26 | .ctxBusy => 0x27 | .partnerBusy => 0x28 | .fabNoRoute => 0x29
  | .fabTimeout => 0x2A | .timeMismatch => 0x2B | .timeRange => 0x2C | .timeBusy => 0x2D | .playbookRejected => 0x2E
  | .notFound => 0x2F | .metUnavailable => 0x30 | .firmwareRestart => 0x31 | .busy => 0x32

/-- A packet's reply ring is enabled and of the queue's partition (R493). -/
def State.ringOk (s : State) (q r : Nat) : Bool :=
  s.on (HIF_RING_CFG r) HIF_RING_CFG_EN && s.fld (HIF_RING_PERM r) HIF_RING_PERM_PART == s.fld (HIF_SQ_PERM q) HIF_SQ_PERM_PART

/-- Write the status reply of a packet, by its queue and its key, whose low 16 bits are its position, to its ring, unless SILENT holds it back (R492, R494, R496). A packet that names a ring that is not enabled has no ring for its reply (log entry 22). -/
def State.reply (s : State) (q pos : Nat) (pkt : List Byte) (st : Status) (item result : Nat) (repaired : Bool := false) : State :=
  let ring := leAt pkt 2 1 % 64
  if (bit (leAt pkt 1 1) 6 && st = .ok) || !s.on (HIF_RING_CFG ring) HIF_RING_CFG_EN then s
  else
    s.emit ring 1 [leBytes 1 1 ++ leBytes 1 (leAt pkt 0 1) ++ leBytes 1 st.code ++ leBytes 1 (b2n repaired) ++ leBytes 4 (leAt pkt 4 4)
      ++ leBytes 4 item ++ leBytes 1 q ++ zeros 1 ++ leBytes 2 (pos % 65536) ++ leBytes 8 s.now.toNat ++ leBytes 8 result] 0 false false

/-- The packet of a command that asked for an opening, while it is fetched. -/
def State.packetOf (s : State) (sq : Option (Nat × Nat)) : Option (Nat × Nat × List Byte) :=
  match sq with
  | none => none
  | some (q, pos) => (s.fetched.find? (fun f => f.sq == q && f.pos == pos)).map (fun f => (q, pos, f.bytes))

/-- A command of Coach's that is in flight while Coach is down ends only when Coach is up again, but for one that has opened an item (R516). -/
def State.heldBack (s : State) (f : Fetched) (item : Nat) : Bool := coachRuns (leAt f.bytes 0 1) && !s.on HIF_STAT HIF_STAT_COACH_UP && (item == 0 || 2 < leAt f.bytes 0 1)

/-- A fetched command, by its key, completes: its status reply goes out and it leaves the list (R496, R516). -/
def State.complete (s : State) (q pos : Nat) (st : Status) (item result : Nat) (repaired : Bool := false) : State :=
  match s.fetched.find? (fun f => f.sq == q && f.pos == pos) with
  | some f => if s.heldBack f item then s else ({ s with fetched := s.fetched.filter (fun g => !(g.sq == q && g.pos == pos)) }).reply q pos f.bytes st item result repaired
  | none => s

/-- Reply to the command that opened an item, before any record of the item (R491); nothing for an opening by an event. -/
def State.replyOpen (s : State) (sq : Option (Nat × Nat)) (item : Nat) : State :=
  match sq with
  | some (q, pos) => s.complete q pos .ok item 0
  | none => s

end Sys2Proof.Machine
end

