-- ==== Sys2Proof/Machine/Regulate.lean ====
section
/-! DEFINITION. The regulators of a partition: token buckets for DRAM, fabric egress and host DMA, and the hold for retention writes (R100, R386-R388). -/

namespace Sys2Proof.Machine

/-- A partition. -/
def State.partSt (s : State) (p : Nat) : PartSt := tget default s.parts p

/-- Change a partition. -/
def State.modPart (s : State) (p : Nat) (f : PartSt → PartSt) : State := { s with parts := tput s.parts p (f (s.partSt p)) }

/-- What a bucket governs. -/
inductive Bus where
  | dram | fab | hdma
  deriving DecidableEq, Repr, Inhabited

/-- The bucket of a bus. -/
def PartSt.bucket (p : PartSt) : Bus → Bucket
  | .dram => p.dram
  | .fab => p.fab
  | .hdma => p.hdma

/-- Change the bucket of a bus. -/
def PartSt.setBucket (p : PartSt) (b : Bus) (x : Bucket) : PartSt :=
  match b with
  | .dram => { p with dram := x }
  | .fab => { p with fab := x }
  | .hdma => { p with hdma := x }

/-- The requests that wait on a bus. -/
def PartSt.waiters (p : PartSt) : Bus → List BWait
  | .dram => p.dramWait
  | .fab => p.fabWait
  | .hdma => p.hdmaWait

/-- Set the requests that wait on a bus. -/
def PartSt.setWaiters (p : PartSt) (b : Bus) (l : List BWait) : PartSt :=
  match b with
  | .dram => { p with dramWait := l }
  | .fab => { p with fabWait := l }
  | .hdma => { p with hdmaWait := l }

/-- Who waits: a kind of transfer and its number. -/
def whoOf (kind n : Nat) : Nat := kind * 2 ^ 40 + n

/-- A bus whose regulated requests are held, BE and LC: DRAM while the retention write queue is more than half full (R100, R388; log entry 84). -/
def State.busHeld (s : State) (b : Bus) : Bool := b == .dram && s.retHeavy

/-- Ask a regulator for a transfer: it passes when it was let pass before, or when the bus is not held, the bucket is above 0 and nobody waits; else it waits (R386, R388). -/
def State.regulate (s : State) (p : Nat) (b : Bus) (cls : Cls) (bytes who : Nat) : State × Bool :=
  let x := s.partSt p
  if x.granted.contains who then (s.modPart p (fun x => { x with granted := x.granted.erase who }), true)
  else if !s.busHeld b && 0 < (x.bucket b).level && x.waiters b = [] then
    (s.modPart p (fun x => x.setBucket b { x.bucket b with level := (x.bucket b).level - bytes }), true)
  else if (x.waiters b).any (fun w => w.who == who) then (s, false)
  else (s.modPart p (fun x => x.setWaiters b (x.waiters b ++ [{ cls := cls, bytes := bytes, who := who }])), false)

/-- Let waiting requests pass while the bucket is above 0, LC before BE, within a class in order of arrival (R386); at most `n`. -/
def PartSt.grant (b : Bus) : Nat → PartSt → PartSt
  | 0, p => p
  | n + 1, p =>
    let ws := p.waiters b
    if (p.bucket b).level ≤ 0 then p
    else
      match (ws.find? (fun w => w.cls == .lc)).or ws.head? with
      | none => p
      | some w =>
        PartSt.grant b n ((({ p with granted := p.granted ++ [w.who] }).setWaiters b (ws.erase w)).setBucket b
          { p.bucket b with level := (p.bucket b).level - w.bytes })

end Sys2Proof.Machine
end

