-- ==== Sys2Proof/Machine/Items.lean ====
section
/-! DEFINITION. Items: the table and its free queue, references to frames, votes, the PIECE record and its emission, release (R18-R30, R41-R56, R310-R313, R375, R504-R506). -/

namespace Sys2Proof.Machine

/-! ### Shadowed registers (R11) -/

/-- The fields of a code that a register has. -/
def RegD.ofEff (d : RegD) (e : Eff) : List FieldD := d.fields.filter (fun f => f.eff == e)

/-- Copy fields of `src` into `dst`. -/
def copyFields (fs : List FieldD) (src dst : Word) : Word := fs.foldl (fun w f => fset w f.fld (fget src f.fld)) dst

/-- A boundary of code `e`: waiting values of the registers that `p` selects take effect (R11, R12). -/
def State.applyShadow (s : State) (e : Eff) (p : Nat → Bool) : State :=
  s.shadow.foldl (fun s x =>
    if p x.1 then
      match findReg x.1 with
      | some (d, _, _) =>
        let fs := d.ofEff e
        if fs = [] then s
        else { s.setReg x.1 (copyFields fs x.2 (s.reg x.1)) with shadow := tdel s.shadow x.1 }
      | none => s
    else s) s

/-- Whether a register belongs to intake or calibration of port `n`, or to no port (an item opened on a port is a boundary for these). -/
def itemScope (n : Option Nat) (a : Nat) : Bool :=
  if 0x200000 ≤ a && a < 0x240000 then n == some ((a - 0x200000) / 0x10000)
  else if 0x280000 ≤ a && a < 0x2C0000 then n == some ((a - 0x280000) / 0x10000)
  else true

/-! ### The item table (R22-R30) -/

/-- An entry of the item table. -/
def State.item (s : State) (i : Nat) : Entry := tget default s.items i

/-- Put an entry of the item table. -/
def State.setItem (s : State) (i : Nat) (e : Entry) : State := { s with items := tins s.items i e }

/-- Change an entry of the item table. -/
def State.modItem (s : State) (i : Nat) (f : Entry → Entry) : State := s.setItem i (f (s.item i))

/-- The 32-bit ID of an index, 0 for no item (R22, R23). -/
def State.itemId (s : State) (i : Nat) : Nat := if i = 0 then 0 else (s.item i).gen * 2 ^ 20 + i

/-- The index of an ID that names a live entry, or none when it is stale (R25). -/
def State.liveItem (s : State) (id : Nat) : Option Nat :=
  let i := id % 2 ^ 20
  if i ≠ 0 && (s.item i).gen == id / 2 ^ 20 && (s.item i).state != .free then some i else none

/-- LC_RESERVE of R26. -/
def State.lcReserve (s : State) : Nat := s.num PGM_ITEM_LC_RESERVE % 2 ^ 20

/-- Set ITEM_LOW while the free entries are at or below the reserve (R327). -/
def State.itemLow (s : State) : State := if s.freeItems ≤ s.lcReserve then s.raise PGM_IRQ_STAT 2 else s

/-- A class may take an entry now: LC while one is free, BE while more than the reserve are (R26). -/
def State.canOpen (s : State) (c : Cls) : Bool :=
  if c = .lc then 0 < s.freeItems else s.lcReserve < s.freeItems

/-- Take the next free index: entries never used first, then released ones in order (R24). -/
def State.takeIndex (s : State) : Option (Nat × State) :=
  if s.freeNext ≤ 0xFFFFF then some (s.freeNext, { s with freeNext := s.freeNext + 1 })
  else
    match s.freed with
    | i :: t => some (i, { s with freed := t })
    | [] => none

/-- Allocate an entry with the next generation (R24, R29): an item opens, so waiting ITEM values take effect, those of an intake port with an item of that port (`scope`; R10, R11); the parent counts one more open child (R28). -/
def State.alloc (s : State) (scope : Option Nat) (typ : ItemType) (cls : Cls) (parent part port key deadline stamp : Nat) : Option (Nat × State) :=
  match s.takeIndex with
  | none => none
  | some (i, s) =>
    let s := s.applyShadow .item (itemScope scope)
    let g := (s.item i).gen
    let e : Entry := { gen := if g = 0xFFF then 1 else g + 1, parent := parent, state := .opened, cls := cls, typ := typ, demoted := false
                       part := part, port := port, children := 0, orderKey := key, deadline := deadline, openStamp := stamp }
    let s := s.setItem i e
    let s := if parent = 0 then s else s.modItem parent (fun p => { p with children := p.children + 1 })
    some (i, s.itemLow)

/-- Pages: release one reference to a frame (R313). -/
def State.unref (s : State) (f : Nat) : State := { s with refs := tset 0 s.refs f (tget 0 s.refs f - 1) }

/-- Key of a frame in the table of reference counts: CHIP frames by 64 × tile + frame, DRAM frames above (R303, R310). -/
def frameKey (p : Pte) : Option Nat :=
  match p.tier with
  | .chip => some p.frame
  | .dram => some (2 ^ 24 + p.frame)
  | _ => none

/-- A SEQUENCE releases the entries of its page tables (R313). -/
def State.releasePages (s : State) (i : Nat) : State :=
  match tfind s.seqs i with
  | none => s
  | some q =>
    let fs := (q.tables.flatMap id).filterMap frameKey
    { (fs.foldl State.unref s) with seqs := tput s.seqs i { q with tables := [] } }

/-- The key of a REGION that holds no entry of the item table: beyond every index. -/
def State.ghostKey (s : State) : Nat := (s.regions.filter (fun r => 2 ^ 20 ≤ r.1)).foldl (fun m r => max m (r.1 + 1)) (2 ^ 20)

/-- The result of a REGION whose entry goes back to FREE stays merged into its parent: it is kept outside the item table as long as its top-level item lives (R19, R29, R30). -/
def State.mergeRegion (s : State) (i : Nat) : State :=
  match tfind s.regions i with
  | some r => { s with regions := tput (tdel s.regions i) s.ghostKey { r with needCrop := false } }
  | none => s

/-- A tile streams the SIDE of an ID, or would again after a failure (R231, R267). -/
def Tile.streams (x : Tile) (id : Nat) : Bool :=
  x.streamAt.any (fun a => a.1 == id) || x.binds.any (fun b => b.2.2 == some id) || x.ckpt.any (fun k => k.streamAt.any (fun a => a.1 == id))

/-- The SIDE of an ID is streamed by a tile, or by a job that has left its tiles. -/
def State.streamed (s : State) (id : Nat) : Bool := s.tiles.any (fun x => x.2.streams id) || s.jobs.any (fun j => j.2.saved.any (fun x => x.2.tile.streams id))

/-- Number of lines of a SIDE as far as it is known. -/
def Side.lines (d : Side) : Nat :=
  match d.lastLine with
  | some k => k + 1
  | none => d.nextLine

/-- Ends of SIDEs that nothing streams any more are forgotten. -/
def State.trimEnds (s : State) : State := { s with sideEnds := s.sideEnds.filter (fun e => s.streamed e.1) }

/-- A SIDE whose entry is about to be free keeps its port and its number of lines for the tiles that stream it (R267). -/
def State.keepEnd (s : State) (i : Nat) : State :=
  match tfind s.sides i with
  | some d => let s := s.trimEnds; if s.streamed (s.itemId i) then { s with sideEnds := tput s.sideEnds (s.itemId i) (d.port, d.lines) } else s
  | none => s

/-- A streamed line may still be taken: its SIDE is open or in work, or a tile streams it (R99, R267). -/
def State.streamLive (s : State) (l : StreamLine) : Bool := (s.liveItem l.side).any (fun i => (s.item i).state != .done) || s.streamed l.side

/-- An entry returns to FREE: its generation stays, it joins the tail of the free queue, its parent counts one child less (R24, R28, R30). -/
def State.freeItem (s : State) (i : Nat) : State :=
  let e := s.item i
  let s := ((s.keepEnd i).releasePages i).mergeRegion i
  let s := { s.setItem i { (default : Entry) with gen := e.gen } with
    freed := s.freed ++ [i], pieces := tdel s.pieces i, sides := tdel s.sides i
    regions := s.regions.filter (fun r => r.1 < 2 ^ 20 || r.2.top != i)
    seqs := tdel s.seqs i, images := tdel s.images i }
  if e.parent = 0 then s else s.modItem e.parent (fun p => { p with children := p.children - 1 })

/-- Whether the retained image of a PIECE is released (R52, R451): acknowledged by the catch partner, or, without one, its final record written. -/
def State.imageReleased (s : State) (p : Piece) : Bool :=
  p.image || p.released || (p.finalDone && (!p.relayed || s.kol.relayStopped || s.partner?.isNone))

/-- A DONE entry with no open children, and for a PIECE a released image (R30). -/
def State.freeable (s : State) (i : Nat) (e : Entry) : Bool :=
  e.state == .done && e.children == 0 &&
  match tfind s.pieces i with
  | some p => s.imageReleased p
  | none => true

/-- One pass over the table that frees what can be freed. -/
def State.tidyOnce (s : State) : State :=
  s.items.foldl (fun s x => if s.freeable x.1 (s.item x.1) then s.freeItem x.1 else s) s

/-- Intake port `n`. -/
def State.linPort (s : State) (n : Nat) : LinPort := tget default s.lin n

/-- Change intake port `n`. -/
def State.modLin (s : State) (n : Nat) (f : LinPort → LinPort) : State := { s with lin := tput s.lin n (f (s.linPort n)) }

/-! ### The retention ring (R104, R106) -/

/-- Size of the retention ring in bytes. -/
def State.retSize (s : State) (n : Nat) : Nat := s.fld (LIN_RET_SIZE n) LIN_RET_SIZE_SIZE_MIB * 0x100000

/-- Whether a retained line belongs to a PIECE whose image is not released (R52, R104). -/
def State.retKept (s : State) (l : RetLine) : Bool :=
  match s.liveItem l.piece with
  | none => false
  | some i =>
    match tfind s.pieces i with
    | some p => !s.imageReleased p
    | none => false

/-- FREE_MIB: ring space that holds no line of an unreleased PIECE (R106). -/
def State.retFree (s : State) (n : Nat) : Nat :=
  (s.retSize n - (((s.linPort n).retLines.filter s.retKept).map (fun l => l.bytes.length)).foldl (· + ·) 0) / 0x100000

/-- FREE_MIB of every port whose ring is in use is brought up to date (R106). -/
def State.freshRet (s : State) : State :=
  (List.range 4).foldl (fun s n => if (s.linPort n).ringOn then s.setFld (LIN_RET_STAT n) LIN_RET_STAT_FREE_MIB (s.retFree n) else s) s

/-- Start the decode engine's work on an image: one of a class at a time, LC before BE (R367). -/
def State.startImage (s : State) : State :=
  let wait := s.images.filter (fun m => m.2.fetched && !m.2.decoded && (s.item m.1).state != .done)
  let pick (c : Cls) : Option Nat :=
    let mine := wait.filter (fun m => (s.item m.1).cls == c)
    if mine.any (fun m => m.2.started) then none
    else
      let d (i : Nat) : Nat := (s.item i).deadline
      let before (a b : Nat × Image) : Bool :=
        if d a.1 ≠ d b.1 then (if d a.1 = 0 then false else if d b.1 = 0 then true else decide (nsDiff (d a.1) (d b.1) < 0))
        else decide (nsDiff (s.item a.1).openStamp (s.item b.1).openStamp < 0)
      (mine.foldl (fun (b : Option (Nat × Image)) m =>
        match b with
        | none => some m
        | some c => if before m c then some m else some c) none).map (·.1)
  let mark (s : State) (i : Option Nat) : State :=
    match i with
    | some i => { s with images := tupd s.images i (fun m => { m with started := true }) }
    | none => s
  match pick .lc with
  | some i => mark s (some i)
  | none => if wait.any (fun m => (s.item m.1).cls == .lc) then s else mark s (pick .be)

/-- Free every entry that R30 frees: SEQUENCE, REGION, SIDE and PIECE in turn; the decode engine goes on where the image it worked on has ended (R367). -/
def State.tidy (s : State) : State := s.tidyOnce.tidyOnce.tidyOnce.tidyOnce.freshRet.startImage

/-! ### Playbooks, models, contexts -/

/-- A loaded playbook that is not CORRUPT (R401, R529). -/
def State.playbook (s : State) (id : Nat) : Option Playbook :=
  match tfind s.playbooks id with
  | some l => if l.corrupt then none else some l.pb
  | none => none

/-- A model of a loaded playbook. -/
def State.model (s : State) (pb m : Nat) : Option Model := (s.playbook pb).bind (fun p => p.models[m]?)

/-- A model as its playbook gave it, also once the playbook is CORRUPT: what has begun with it still ends with its fields. -/
def State.anyModel (s : State) (pb m : Nat) : Option Model := (tfind s.playbooks pb).bind (fun l => l.pb.models[m]?)

/-- The table set of a model. -/
def State.tableSet (s : State) (pb m : Nat) : Option TSet := (s.anyModel pb m).bind (fun x => (tfind s.playbooks pb).bind (fun l => l.tsets[x.tset]?))

/-- The key of the mask of the state that a sequence is in: table set number and MASK_ID (R331, R336, R339). -/
def State.maskKey (s : State) (q : Seq) : Option (Nat × Nat) :=
  match s.models.find? (fun x => x.playbook == q.playbook && x.model == q.model), s.tableSet q.playbook q.model with
  | some r, some ts => some (r.slot, (ts.stateAt q.state).maskId)
  | _, _ => none

/-- A sequence enters a state: the fetch of the state's mask begins, unless the cache holds it or a fetch of it is under way (R339). -/
def State.askMask (s : State) (i : Nat) : State :=
  match (tfind s.seqs i).bind s.maskKey with
  | some k => if s.masks.contains k || s.maskAsks.contains k then s else { s with maskAsks := s.maskAsks ++ [k] }
  | none => s

/-- The context of a function, class and partition, if one is defined (R390). -/
def State.findCtx (s : State) (part : Nat) (cls : Cls) (pb fn : Nat) : Option Nat :=
  (s.ctxs.find? (fun c => c.2.state != .undefined && c.2.part == part && c.2.cls == cls && c.2.playbook == pb && c.2.fn == fn)).map (·.1)

/-- A job becomes ready in a context (R406). -/
def State.addReady (s : State) (ctx info item : Nat) : State :=
  { s with ready := s.ready ++ [{ ctx := ctx, info := info, interval := 0, item := item, since := s.tb, job := none }] }

/-! ### Votes (R375) -/

/-- Votes of one field: (pass, result) of the passes that cast one. -/
def ballots (passes : Tbl (List FieldRes)) (id : Nat) : List (Nat × FieldRes) :=
  passes.filterMap (fun p =>
    match p.2.find? (fun f => f.id == id) with
    | some f => if f.status = .read || f.status = .noRead then some (p.1, f) else none
    | none => none)

/-- Rank of a value: votes, sum of confidences. -/
def tally (bs : List (Nat × FieldRes)) (v : List Byte) : Nat × Nat :=
  let mine := bs.filter (fun b => b.2.value == v)
  (mine.length, (mine.map (fun b => b.2.conf)).foldl (· + ·) 0)

/-- The winning ballot: most votes, then the higher sum of confidences, then the lowest pass. -/
def winner (bs : List (Nat × FieldRes)) : Option (Nat × FieldRes) :=
  bs.foldl (fun best b =>
    match best with
    | none => some b
    | some w =>
      let x := tally bs b.2.value
      let y := tally bs w.2.value
      if y.1 < x.1 || (x.1 = y.1 && y.2 < x.2) then some b else some w) none

/-- A pass of a field ended for want of a frame (R321). -/
def lostFrame (passes : Tbl (List FieldRes)) (id : Nat) : Bool := passes.any (fun p => p.2.any (fun f => f.id == id && f.status == .noFrame))

/-- The vote over pass 0 and the passes ended, for one field of pass 0; without a ballot pass 0 stands (R375). A field that a pass left NO_FRAME carries that (R321; log entry 23). -/
def voteField (quorum : Nat) (passes : Tbl (List FieldRes)) (f : FieldRes) : FieldRes :=
  let bs := ballots passes f.id
  if lostFrame passes f.id then { f with value := [], voted := false, reason := .none, status := .noFrame }
  else
  match winner bs with
  | none => f
  | some (_, w) =>
    let mine := bs.filter (fun b => b.2.value == w.value)
    { f with value := w.value, voted := true, reason := .none
             status := if quorum ≤ mine.length then .read else .noRead
             conf := (mine.map (fun b => b.2.conf)).foldl max 0
             repaired := mine.any (fun b => b.2.repaired) }

/-- The fields of a REGION by the passes ended: a vote once re-reads were asked for, else its first read (R374-R376). -/
def voteRegion (quorum : Nat) (r : Region) : List FieldRes :=
  match tfind r.passes 0 with
  | none => []
  | some fs => if r.reread then fs.map (voteField quorum r.passes) else fs

/-! ### The PIECE record (R50, R55, R352, R504, R506) -/

/-- Code of a REASON byte (R502). -/
def Reason.code : Reason → Nat
  | .none => 0 | .itemExhausted => 1 | .retOverflow => 2 | .decCorrupt => 3 | .decTruncated => 4 | .decUnsupported => 5
  | .noContext => 6 | .ctxFault => 7 | .deviceLost => 8

/-- Code of a field reason (R352). -/
def FReason.code : FReason → Nat
  | .none => 0 | .convert => 1 | .length => 2 | .grammarDead => 3 | .noToken => 4 | .ctxFault => 5 | .noContext => 6

/-- The field list of a REGION's model, as entries of its field table. -/
def State.fieldList (s : State) (pb m : Nat) : List FieldEnt :=
  match s.anyModel pb m, s.tableSet pb m with
  | some x, some t => x.fieldList.map t.fieldAt
  | _, _ => []

/-- The stop strings of a SEQUENCE as characters. -/
def State.stopsOf (s : State) (q : Seq) : List (List (List Byte)) := ((s.anyModel q.playbook q.model).map (fun m => m.stops.map splitChars)).getD []

/-- Field results of a SEQUENCE that has ended (R321, R342, R351, R407). -/
def State.seqResult (s : State) (q : Seq) : List FieldRes :=
  match s.anyModel q.playbook q.model, s.tableSet q.playbook q.model with
  | some m, some ts => if m.out = .field then seqFields ts m.fieldList q else []
  | _, _ => []

/-- VOTE_QUORUM of a REGION's model (R375). -/
def State.quorumOf (s : State) (r : Region) : Nat := ((s.anyModel r.playbook r.model).map (·.voteQuorum)).getD 0

/-- The fields of a REGION as a record shows them now: its result, else the vote over the passes ended, else what an abort of its first read gives, else its field list ABORTED (R43, R45, R351, R376). -/
def State.regionFields (s : State) (x : Nat × Region) : List FieldRes :=
  match x.2.result with
  | some fs => fs
  | none =>
    if (tfind x.2.passes 0).isSome then voteRegion (s.quorumOf x.2) x.2
    else
      match s.seqs.find? (fun q => q.2.region == x.1 && q.2.pass == 0 && q.2.ending == .running) with
      | some (_, q) => s.seqResult (q.atEnd (s.stopsOf q) s.tb .aborted).1
      | none => (s.fieldList x.2.playbook x.2.model).map (fun t => blankField t .aborted .none)

/-- A REGION is REQUIRED when its field list holds a REQUIRED field (R43, R350). -/
def State.regionRequired (s : State) (r : Region) : Bool := (s.fieldList r.playbook r.model).any (·.required)

/-- Order of REGIONs in a record: the master port's SIDE first, then ports rising; by first line, then first column (R55). -/
def regionBefore (master : Nat) (a b : Nat × Region) : Bool :=
  let k (r : Region) : Nat := if r.sidePort = master then 0 else r.sidePort + 1
  let x := a.2
  let y := b.2
  if k x ≠ k y then k x < k y
  else if x.found.firstLine ≠ y.found.firstLine then x.found.firstLine < y.found.firstLine
  else x.found.firstCol ≤ y.found.firstCol

/-- The REGIONs below a top-level item, in record order. -/
def State.regionsOf (s : State) (top : Nat) : List (Nat × Region) :=
  let master := match tfind s.pieces top with
    | some p => p.port
    | none => 0
  (s.regions.filter (fun r => r.2.top == top)).mergeSort (regionBefore master)

/-- The fields of one REGION in the order of R55: by last closing, then those no token reached by FIELD_ID. -/
def sortFields (fs : List FieldRes) : List FieldRes :=
  (fs.filter (·.reached)).mergeSort (fun a b => decide (a.closed ≤ b.closed))
    ++ (fs.filter (fun f => !f.reached)).mergeSort (fun a b => decide (a.id ≤ b.id))

/-- A field entry (R352). -/
def fieldEntry (sidePort : Nat) (f : FieldRes) : List Byte :=
  padTo 4 (leBytes 2 f.id ++ leBytes 1 f.typ ++ leBytes 1 f.status.code ++ leBytes 2 f.conf ++ leBytes 2 f.value.length
    ++ leBytes 1 (f.reason.code * 16 + b2n f.escalated * 4 + b2n f.voted * 2 + b2n f.repaired) ++ leBytes 1 (sidePort % 4) ++ zeros 2 ++ f.value)

/-- The measurement reference of a PIECE (R154): the record of its port, not yet taken since VDD_MET came on, whose leading edge lies closest within 5 ms of OPEN_STAMP, the lower MREF of equals. -/
def State.mrefOf (s : State) (port : Nat) (stamp : Stamp) : Nat :=
  let cand := s.met.records.filterMap (fun r =>
    let m := leAt r.2 0 4
    let d := (stampDiff (BitVec.ofNat 64 (leAt r.2 8 8)) stamp).natAbs
    if s.met.on && leAt r.2 34 1 % 4 = port && d ≤ 5000000 * 65536 && m ≠ 0 && !s.metTaken.contains (s.met.boots, m) then some (m, d) else none)
  match cand.foldl (fun best c =>
    match best with
    | none => some c
    | some b => if c.2 < b.2 || (c.2 = b.2 && c.1 < b.1) then some c else some b) (none : Option (Nat × Nat)) with
  | some (m, _) => m
  | none => 0

/-- The head of a PIECE record (R504); SLOTS, MORE, NFIELD and PART_NO as given. -/
def pieceHead (s : State) (i : Nat) (p : Piece) (st : Status) (re : Reason) (repaired : Bool) (mref : Nat) (stamp : Stamp) (slots more nfield partNo : Nat) : List Byte :=
  let e := s.item i
  let text := repaired || p.repaired || s.repairedTexts.any (fun k => Config.inPrompt k (s.itemId i))
  let flags := b2n p.pairFault + 2 * b2n p.doubleFeed + 4 * b2n (mref == 0 && !p.image) + 8 * b2n p.trailMissing + 16 * b2n text
    + 32 * b2n p.takenOver + 64 * b2n (p.demoted || e.demoted) + 256 * more + 512 * b2n (p.takenOver || s.addr?.isSome)
  let org := match p.origin with
    | some o => o
    | none => s.addr?.getD 0
  leBytes 1 2 ++ zeros 1 ++ leBytes 2 slots ++ leBytes 4 (if p.takenOver && p.srcItem ≠ 0 then p.srcItem else s.itemId i)
    ++ leBytes 4 (if p.takenOver then p.srcKey else e.orderKey) ++ leBytes 1 st.code ++ leBytes 1 re.code
    ++ leBytes 1 (b2n p.image * 128 + e.part % 8 * 4 + (if p.image then 0 else if p.takenOver then p.srcPort else p.port) % 4)
    ++ leBytes 1 org ++ leBytes 2 flags ++ leBytes 2 nfield ++ leBytes 4 mref ++ leBytes 8 p.openStamp.toNat
    ++ leBytes 8 (if p.image || p.trailMissing then 0 else (p.trailStamp.getD 0).toNat) ++ leBytes 8 stamp.toNat
    ++ leBytes 4 p.playbook ++ leBytes 2 partNo ++ zeros 10

/-- Group field entries into parts: as many whole entries as fit in 2,046 slots with the head (R506). -/
def splitEntries : List (List Byte) → Nat → List (List Byte) → List (List (List Byte))
  | [], _, cur => [cur.reverse]
  | e :: t, used, cur =>
    if used + e.length ≤ 2046 * 32 || cur = [] then splitEntries t (used + e.length) (e :: cur)
    else cur.reverse :: splitEntries t (64 + e.length) [e]

/-- The parts of a PIECE record (R504, R506). -/
def pieceParts (s : State) (i : Nat) (p : Piece) (st : Status) (re : Reason) (mref : Nat) (stamp : Stamp) (fs : List (Nat × FieldRes)) : List (List Byte) :=
  let groups := splitEntries (fs.map (fun f => fieldEntry f.1 f.2)) 64 []
  let rep := fs.any (fun f => f.2.repaired)
  (List.range groups.length).map (fun k =>
    let g := groups.getD k []
    let body := g.flatten
    let slots := cdiv (64 + body.length) 32
    padTo 32 (pieceHead s i p st re rep mref stamp slots (if k + 1 < groups.length then 1 else 0) g.length k ++ body))

/-- The fields of a PIECE with the port of their SIDE, in the order of R55; what is unfinished is ABORTED. -/
def State.pieceFields (s : State) (i : Nat) : List (Nat × FieldRes) :=
  (s.regionsOf i).flatMap (fun r => (sortFields (s.regionFields r)).map (fun f => (r.2.sidePort, f)))

/-- The status and reason of a finished PIECE by its fields (R49; log entry 24). -/
def pieceStatus (p : Piece) (fs : List (Nat × FieldRes)) : Status × Reason :=
  let req := fs.filter (fun f => f.2.required)
  match p.ended with
  | some st => (st, p.reason)
  | none =>
    if p.reason ≠ .none then (.error, p.reason)
    else if req.any (fun f => f.2.reason = .ctxFault) then (.error, .ctxFault)
    else if req.any (fun f => f.2.reason = .noContext) then (.error, .noContext)
    else if p.noFrame then (.noRead, .none)
    else if req.all (fun f => f.2.status = .read || f.2.status = .empty) then (.read, .none)
    else (.noRead, .none)

/-- The status and reason of a finished PIECE; one that opened while the ring stayed full has its own (R104). -/
def State.topStatus (s : State) (p : Piece) (fs : List (Nat × FieldRes)) : Status × Reason :=
  if p.retStop && p.ended.isNone then (if s.on HIF_STAT HIF_STAT_OUTPUT_STALL then (.notReadOutputStall, .none) else (.error, .retOverflow))
  else pieceStatus p fs

/-- The ring of a top-level item's records, by the routing in force when the record is emitted (R492). -/
def State.topRing (s : State) (p : Piece) : Nat :=
  if p.takenOver then s.fld HIF_SYS_RING HIF_SYS_RING_CATCH_RING
  else
    match p.ring with
    | some r => r
    | none =>
      match p.port % 4 with
      | 0 => s.fld HIF_PORT_RING HIF_PORT_RING_P0
      | 1 => s.fld HIF_PORT_RING HIF_PORT_RING_P1
      | 2 => s.fld HIF_PORT_RING HIF_PORT_RING_P2
      | _ => s.fld HIF_PORT_RING HIF_PORT_RING_P3

/-- Emit the PIECE record of a top-level item (R41, R46, R504); its LATE record carries the measurement reference that its first record took, or looks again where that found none (R47, R154). The command that opened a HOSTIMAGE has its reply before any record of it (R491). -/
def State.emitPiece (s : State) (i : Nat) (st : Status) (re : Reason) (fs : List (Nat × FieldRes)) (final : Bool) : State :=
  match tfind s.pieces i with
  | none => s
  | some p =>
    let s := (tfind s.images i).elim s (fun m => s.complete m.sq m.pos .ok (s.itemId i) 0)
    let mref := if p.image || p.takenOver then 0 else if p.mref ≠ 0 then p.mref else s.mrefOf p.port p.openStamp
    let s := if mref = 0 || p.mref ≠ 0 then s else { s with metTaken := (s.met.boots, mref) :: s.metTaken }
    let parts := pieceParts s i p st re mref s.now fs
    let s := { s with pieces := tput s.pieces i { p with recorded := true, mref := mref } }
    let s := if st = .late && !p.image && !p.takenOver then s.incFld (LIN_GATE_STAT p.port) LIN_GATE_STAT_LATE_CNT else s
    s.emit (s.topRing p) 2 parts i ((s.item i).cls == .lc) final

/-- Whether every REGION below a top-level item is DONE; a BE REGION that was found and waits for an entry is not (R26, R41). -/
def State.regionsDone (s : State) (i : Nat) : Bool :=
  s.regions.all (fun r => r.2.top != i || r.2.result.isSome) && !s.beWait.any (fun w => w.typ == .region && w.key == i)

/-- Whether every SIDE of a top-level item is sealed; a BE SIDE that waits for an entry is not (R19, R26). -/
def State.sidesSealed (s : State) (i : Nat) : Bool :=
  !s.sides.any (fun x => x.2.piece == i && (s.item x.1).state == .opened) && !s.beWait.any (fun w => w.typ == .side && w.parent == i)

/-- A PIECE is SEALED when all its SIDE items are sealed (R19). -/
def State.sealCheck (s : State) (i : Nat) : State :=
  match (s.item i).state with
  | .opened => if !s.sidesSealed i || (s.item i).typ != .piece then s else s.modItem i (fun e => { e with state := .sealed })
  | _ => s

/-- No port takes lines for a top-level item any more. -/
def State.endLines (s : State) (i : Nat) : State :=
  (List.range 4).foldl (fun s n =>
    match (s.linPort n).curSide with
    | some x =>
      match tfind s.sides x with
      | some d => if d.piece = i then s.modLin n (fun p => { p with curSide := none }) else s
      | none => s
    | none => s) s

/-- A top-level item passes to DONE with its SIDEs, and what R30 frees is freed; a SIDE of it that still waits for an entry opens no more. -/
def State.finishTop (s : State) (i : Nat) : State :=
  let mine (w : BeWait) : Bool := w.typ == .side && w.parent == i
  let s := (s.beWait.filter mine).foldl (fun s w => s.replyOpen w.sq 0) { s with beWait := s.beWait.filter (fun w => !mine w) }
  let s := s.modItem i (fun e => { e with state := .done })
  ((s.sides.foldl (fun s x =>
    if x.2.piece = i && (s.item x.1).state != .free then s.modItem x.1 (fun e => { e with state := .done }) else s) s).endLines i).tidy

/-- A HOSTIMAGE whose decoding has not ended (R41, R366). -/
def State.decoding (s : State) (i : Nat) : Bool :=
  match tfind s.images i with
  | some im => !im.decoded
  | none => false

/-- The TIME emission point of a top-level item has been reached. -/
def State.timeReached (s : State) (p : Piece) : Bool :=
  match p.emitPoint with
  | some t => s.reached t
  | none => false

/-- The emission point of a top-level item has been reached, by time or by count, whichever comes first (R31, R32). -/
def State.pointReached (s : State) (p : Piece) : Bool :=
  s.timeReached p ||
  match p.emitCount with
  | some c => decide (0 ≤ sdiff 32 p.hiPos c)
  | none => false

/-- Completion of a top-level item: the record when it is SEALED and every REGION below it is DONE, or the LATE record of one in OVERTIME once its work has ended; a SIDE that opened after the emission point takes no lines and carries no work. Once the emission point has come first, the record is EMISSION_POINT's to make (R41, R45, R51). -/
def State.pieceCheck (s : State) (i : Nat) : State :=
  match tfind s.pieces i with
  | none => s
  | some p =>
    let s := s.sealCheck i
    let fs := s.pieceFields i
    match (s.item i).state with
    | .sealed =>
      if s.regionsDone i && s.sidesSealed i && !s.decoding i && !s.pointReached p then
        let (st, re) := s.topStatus p fs
        (s.emitPiece i st re fs true).finishTop i
      else s
    | .overtime =>
      if s.regionsDone i && !s.decoding i then
        let s := if p.lateEn && !p.lateDone then s.emitPiece i .late p.reason fs true else s
        { s with pieces := tupd s.pieces i (fun p => { p with lateDone := true, recorded := true }) }.finishTop i
      else s
    | _ => s

/-- A PIECE record with ID 0 for a PIECE that no free entry could open (R27). It looks for no measurement and carries MREF 0 with MET_MISSING, which R154 leaves open for it (DESIGN CHOICE, log entry 28). -/
def State.exhausted (s : State) (p : Piece) (part key : Nat) (cls : Cls) : State :=
  let s0 := { s with items := tins s.items 0 { (default : Entry) with part := part, orderKey := key } }
  s.emit (s.topRing p) 2 (pieceParts s0 0 p .error .itemExhausted 0 s.now []) 0 (cls == .lc) false

end Sys2Proof.Machine
end

