-- ==== Sys2Proof/Machine/Reading.lean ====
section
/-! DEFINITION. Reading: SEQUENCEs from their opening to their end, their text by output class, REGIONs with their passes, votes and escalation (R21, R325, R332, R338-R352, R368-R379, R505, R507). -/

namespace Sys2Proof.Machine

/-- The sequence kept for an item, if it is one. -/
def State.setSeq (s : State) (i : Nat) (q : Seq) : State := { s with seqs := tput s.seqs i q }

/-- Change a sequence. -/
def State.modSeq (s : State) (i : Nat) (f : Seq → Seq) : State := { s with seqs := tupd s.seqs i f }

/-- Change a REGION. -/
def State.modRegion (s : State) (i : Nat) (f : Region → Region) : State := { s with regions := tupd s.regions i f }

/-- Change a PIECE or HOSTIMAGE. -/
def State.modPiece (s : State) (i : Nat) (f : Piece → Piece) : State := { s with pieces := tupd s.pieces i f }

/-! ### Class and budget (R21, R379) -/

/-- An item passes from LC to BE, and its frame requests with it. -/
def State.demoteItem (s : State) (i : Nat) : State :=
  if (s.item i).cls = .lc then
    { s.modItem i (fun e => { e with cls := .be, demoted := true }) with reqs := tmap s.reqs (fun _ r => if r.seq = i then { r with cls := .be } else r) }
  else s

/-! ### LIVE and NOTE records (R347, R505, R507) -/

/-- Top-level item of a SEQUENCE. -/
def State.topOf (s : State) (q : Seq) : Nat :=
  match tfind s.regions q.region with
  | some r => r.top
  | none => 0

/-- Ring and class of the records of a top-level item. -/
def State.textRing (s : State) (top : Nat) : Nat :=
  match tfind s.pieces top with
  | some p => s.topRing p
  | none => 0

/-- Close a LIVE chunk of a SEQUENCE with the first `n` bytes that are pending, and send it as a LIVE record. -/
def State.liveSend (s : State) (i n : Nat) (final : Bool) : State :=
  match tfind s.seqs i with
  | none => s
  | some q =>
    let top := s.topOf q
    let text := q.livePend.take n
    let body := leBytes 1 4 ++ zeros 1 ++ leBytes 2 (cdiv (32 + text.length) 32) ++ leBytes 4 (s.itemId i) ++ leBytes 4 (s.itemId top)
      ++ leBytes 1 q.liveChunk ++ leBytes 1 (b2n q.repaired * 16 + b2n final) ++ zeros 2 ++ zeros 4 ++ leBytes 4 text.length
      ++ leBytes 8 s.now.toNat ++ text
    let rest := q.livePend.drop n
    let s := s.setSeq i { q with livePend := rest, liveSince := if rest = [] then none else some s.tb, liveChunk := (q.liveChunk + 1) % 256 }
    s.emit (s.textRing top) 4 [padTo 32 body] 0 false false

/-- Close the LIVE chunk with all that is pending. -/
def State.liveChunk (s : State) (i : Nat) (final : Bool) : State := s.liveSend i ((tget default s.seqs i).livePend.length) final

/-- Bytes of the whole characters at the front of a text that first reach `least`, if it holds as many. -/
def fullChars (least : Nat) : Nat → List (List Byte) → Option Nat
  | n, [] => if least ≤ n then some n else none
  | n, c :: t => if least ≤ n then some n else fullChars least (n + c.length) t

/-- Close LIVE chunks as the whole characters pending reach MIN_BYTES, at most `k` of them (R347). -/
def State.liveFull (s : State) (i : Nat) : Nat → State
  | 0 => s
  | k + 1 =>
    match fullChars (max 1 (s.fld TOK_LIVE_CFG TOK_LIVE_CFG_MIN_BYTES)) 0 (splitChars (tget default s.seqs i).livePend) with
    | some n => State.liveFull (s.liveSend i n false) i k
    | none => s

/-- Split text between characters into parts of at most 65,440 bytes (R507). -/
def splitNote : List (List Byte) → Nat → List (List Byte) → List (List Byte)
  | [], _, cur => [cur.reverse.flatten]
  | c :: t, n, cur =>
    if n + c.length ≤ 65440 then splitNote t (n + c.length) (c :: cur)
    else cur.reverse.flatten :: splitNote t c.length [c]

/-- STATUS of a NOTE record by how its sequence ended (R505). -/
def noteStatus : SeqEnd → Status
  | .eos => .read | .stop => .read | .maxTokens => .read
  | .dead => .error | .noToken => .error | .ctxFault => .error | .noContext => .error
  | .noFrame => .noFrame
  | _ => .aborted

/-- Emit the NOTE records of a SEQUENCE at its end (R505, R507). -/
def State.noteRecord (s : State) (i : Nat) : State :=
  match tfind s.seqs i with
  | none => s
  | some q =>
    let top := s.topOf q
    let ps := splitNote (splitChars q.text) 0 []
    let parts := (List.range ps.length).map (fun k =>
      let t := ps.getD k []
      padTo 32 (leBytes 1 3 ++ zeros 1 ++ leBytes 2 (cdiv (32 + t.length) 32) ++ leBytes 4 (s.itemId i) ++ leBytes 4 (s.itemId top)
        ++ leBytes 1 (noteStatus q.ending).code
        ++ leBytes 1 ((if k + 1 < ps.length then 32 else 0) + b2n q.repaired * 16 + q.stopIndex % 16)
        ++ leBytes 2 k ++ leBytes 4 q.stopOffset ++ leBytes 4 t.length ++ leBytes 8 s.now.toNat ++ t))
    parts.foldl (fun s p => s.emit (s.textRing top) 3 [p] 0 false false) s

/-! ### Opening a SEQUENCE (R19, R27, R344) -/

/-- The kept data of a new SEQUENCE. -/
def newSeq (region pass playbook model : Nat) (m : Model) (tb index : Nat) : Seq :=
  { (default : Seq) with
    region := region, pass := pass, playbook := playbook, model := model, tset := m.tset, state := m.start, out := m.out
    maxTokens := m.maxTokens, stopIndex := 15, openTb := tb, ending := .running, tables := m.kv.map (fun _ => []), index := index, log := m.prefixTokens.take 32768 }

/-- The intake port whose ITEM fields an item that opens below `top` on port `n` brings into force (R10): none below a HOSTIMAGE or a PIECE of another device. -/
def State.scopeOf (s : State) (top n : Nat) : Option Nat :=
  match tfind s.pieces top with
  | some p => if p.image || p.takenOver then none else some n
  | none => none

/-- The function that reads below a top-level item. -/
def State.fnOf (s : State) (top : Nat) : Nat :=
  match tfind s.pieces top with
  | some p => p.fn
  | none => 0

/-- The first context of a class in a partition that runs a playbook: it serves the work that came over the fabric, whose function no message names (R452, R456; log entry 58). -/
def State.fabricCtx (s : State) (part : Nat) (cls : Cls) (pb : Nat) : Option (Nat × Ctx) :=
  s.ctxs.find? (fun c => c.2.state != .undefined && c.2.part == part && c.2.cls == cls && c.2.playbook == pb)

/-- The context that runs a SEQUENCE (R390, R456). -/
def State.seqCtx (s : State) (i : Nat) (q : Seq) : Option Nat :=
  let e := s.item i
  if q.esc.isSome then (s.fabricCtx e.part e.cls q.playbook).map (·.1) else s.findCtx e.part e.cls q.playbook (s.fnOf (s.topOf q))

/-- Whether some page of a sequence was dropped (R324, R325). -/
def Seq.dropped (q : Seq) : Bool := q.tables.any (fun t => t.any (fun e => e.tier == .dropped))

/-- The job that a SEQUENCE needs next: the prefill while a page of it is dropped, or while no prefix of its model has been computed, else the decode step (R311, R325; log entry 40). -/
def State.nextInfo (s : State) (q : Seq) (m : Model) : Nat :=
  let bare := m.prefixTokens ≠ [] && !q.sharedPrefix && !s.prefixes.any (fun p => p.playbook == q.playbook && p.model == q.model)
  if q.dropped || bare then m.prefillJob else m.decodeJob

/-- The next job of a SEQUENCE becomes ready in its context (R390, R406). -/
def State.seqReady (s : State) (i : Nat) : State :=
  match tfind s.seqs i with
  | none => s
  | some q =>
    match s.seqCtx i q, s.model q.playbook q.model with
    | some c, some m => s.addReady c (s.nextInfo q m) i
    | _, _ => s

/-- The class of the SEQUENCEs that open in a REGION: its own, BE once one of them has exceeded its budget (R20, R374, R379). -/
def State.workClass (s : State) (region : Nat) (r : Region) : Cls := if r.beWork then .be else (s.item region).cls

/-- INDEX of a REGION's item ID on the device that opened it (R371); for a PIECE taken over, that which the source gives the REGION, which no message carries (R452; log entry 101). -/
def State.originIndex (s : State) (i : Nat) (r : Region) : Nat :=
  match tfind s.pieces r.top with
  | some p => if p.takenOver then Config.sourceIndex p.srcItem (p.srcPort * 2 ^ 47 + r.found.firstLine * 2 ^ 15 + r.found.firstCol) else i
  | none => i

/-- Open the SEQUENCE of a pass: its index, or none when no entry may be taken (R26, R27); a re-read pass and an escalation are counted (R377, R381). -/
def State.openSeq (s : State) (region pass : Nat) : Option (Nat × State) :=
  match tfind s.regions region with
  | none => none
  | some r =>
    match s.model r.playbook r.model with
    | none => none
    | some m =>
      let e := s.item region
      let cls := s.workClass region r
      if !s.canOpen cls then none
      else
        match s.alloc (s.scopeOf r.top e.port) .seq cls region e.part e.port e.orderKey e.deadline (ns48 s.now) with
        | none => none
        | some (i, s) =>
          let q := newSeq region pass r.playbook r.model m s.tb (s.originIndex region r)
          let s := (s.setSeq i { q with inputReady := pass == 0 }).askMask i
          let s := s.modRegion region (fun r => { r with openPasses := r.openPasses ++ [pass] })
          some (i, if pass = 0 then s else if pass = 255 then s.incFld DEC_ESC_CNT DEC_ESC_CNT_ESC_SENT else s.incReg DEC_PASS_CNT)

/-! ### Crops (R368-R370) -/

/-- A crop's top-level item is not DONE yet, so that the crop stays (R370). -/
def State.cropLive (s : State) (c : Crop) : Bool := (s.liveItem c.top).any (fun i => (s.item i).state != .done)

/-- Whether a crop's top-level item is DONE, so that it may be evicted (R370). -/
def State.cropOld (s : State) (c : Crop) : Bool := !s.cropLive c

/-- Width, rows and planes of the picture that a REGION lies on. -/
def State.sourceDims (s : State) (r : Region) : Nat × Nat × Nat :=
  match tfind s.images r.top with
  | some im => (im.width, im.height, if im.colour then 3 else 1)
  | none =>
    if r.sidePort < 4 then
      (s.fld (LIN_PORT_CFG r.sidePort) LIN_PORT_CFG_PIX, 2 ^ 32, if s.on (LIN_PORT_CFG r.sidePort) LIN_PORT_CFG_COLOUR then 3 else 1)
    else
      match (s.linPort r.sidePort).retLines.find? (fun l => l.side == s.itemId r.side) with
      | some l => ((l.planes.headD []).length, 2 ^ 32, l.planes.length)
      | none => (0, 2 ^ 32, 1)

/-- The box of a REGION's crop: bounding box widened by the MARGIN in force when the REGION opened, and clipped (R11, R368): x0, y0, width, height. -/
def State.cropBox (s : State) (r : Region) : Nat × Nat × Nat × Nat :=
  let m := r.margin
  let (w, h, _) := s.sourceDims r
  let x0 := r.found.firstCol - m
  let y0 := r.found.firstLine - m
  let x1 := min w (r.found.firstCol + r.found.cols + m)
  let y1 := min h (r.found.lastLine + 1 + m)
  (x0, y0, x1 - x0, y1 - y0)

/-- Bytes of a crop in the cache (R369). -/
def Crop.size (c : Crop) : Nat := cropBytes c.width c.height c.planes.length

/-- The stretches of the crop cache in use, as offset and length: crops written, and crops that are needed and not yet written. -/
def State.cropSpans (s : State) : List (Nat × Nat) :=
  s.crops.map (fun c => (c.place, c.size))
    ++ (s.regions.filter (fun r => r.2.needCrop && !r.2.crop)).map (fun r =>
      let b := s.cropBox r.2
      (r.2.cropAt, cropBytes b.2.2.1 b.2.2.2 (s.sourceDims r.2).2.2))

/-- The lowest place for `need` bytes that overlaps nothing in use, if the cache has one (log entry 86). -/
def cropGap (spans : List (Nat × Nat)) (need size : Nat) : Option Nat :=
  ((0 :: spans.map (fun x => x.1 + cdiv x.2 32 * 32)).filter (fun a =>
    a + need ≤ size && spans.all (fun x => a + need ≤ x.1 || x.1 + x.2 ≤ a))).foldl (fun b a =>
      match b with
      | none => some a
      | some c => some (min a c)) none

/-- Find a place for a crop, evicting old ones, least recently used first; at most `n` of them. -/
def State.cropEvict (s : State) (need size : Nat) : Nat → State × Option Nat
  | 0 => (s, cropGap s.cropSpans need size)
  | n + 1 =>
    match cropGap s.cropSpans need size with
    | some a => (s, some a)
    | none =>
      match (s.crops.filter s.cropOld).foldl (fun (b : Option Crop) c =>
          match b with
          | none => some c
          | some d => if c.used < d.used then some c else some d) none with
      | none => (s, none)
      | some c => State.cropEvict { s with crops := s.crops.erase c } need size n

/-- Make room for a crop: the state after evictions, and the crop's place if it fits (R370). -/
def State.cropRoom (s : State) (need : Nat) : State × Option Nat :=
  s.cropEvict need (s.fld DEC_CROP_SIZE DEC_CROP_SIZE_SIZE_MIB * 0x100000) s.crops.length

/-- A REGION first needs its crop: space is found for it, or it gets neither re-reads nor escalation (R368, R370). -/
def State.needCrop (s : State) (i : Nat) : State × Bool :=
  match tfind s.regions i with
  | none => (s, false)
  | some r =>
    if r.needCrop || r.crop then (s, true)
    else if r.cropFull then (s, false)
    else
      let (_, _, w, h) := s.cropBox r
      match s.cropRoom (cropBytes w h (s.sourceDims r).2.2) with
      | (s, some a) => (s.modRegion i (fun r => { r with needCrop := true, cropAt := a }), true)
      | (s, none) => (((s.modRegion i (fun r => { r with cropFull := true })).incReg DEC_CROP_FULL).raise DEC_IRQ_STAT 1, false)

/-! ### Escalation (R377, R455, R456) -/

/-- The device that advertises a model with the fewest hops, the lower address of equals (R455). -/
def State.escTarget (s : State) (m : Nat) : Option Nat :=
  let cand := s.kol.adverts.filterMap (fun a =>
    if a.2.contains m && (s.routePort a.1).isSome && s.addr? != some a.1 then
      let up := s.linkUp (s.fld (KOL_ROUTE a.1) KOL_ROUTE_PRI)
      some (a.1, s.fld (KOL_ROUTE a.1) (if up then KOL_ROUTE_HOPS_PRI else KOL_ROUTE_HOPS_ALT))
    else none)
  (cand.foldl (fun (b : Option (Nat × Nat)) c =>
    match b with
    | none => some c
    | some d => if c.2 < d.2 || (c.2 = d.2 && c.1 < d.1) then some c else some d) none).map (·.1)

/-- Whether the emission point of a top-level item lies at least `us` away (R377). -/
def State.pointAway (s : State) (top us : Nat) : Bool :=
  match tfind s.pieces top with
  | none => true
  | some p =>
    if p.emitPoint.isNone && p.emitCount.isNone then true
    else (s.item top).deadline ≠ 0 && decide ((us * 1000 : Nat) ≤ nsDiff (s.item top).deadline (ns48 s.now))

/-- Number of a class in messages. -/
def clsNum (c : Cls) : Nat := if c = .lc then 0 else 1

/-- The bytes of a crop as the cache holds it (R369). -/
def Crop.encode (c : Crop) : List Byte :=
  let row (r : List Nat) : List Byte := fitTo (cropPitch c.width) (r.flatMap (leBytes 2))
  leBytes 4 c.item ++ leBytes 2 c.width ++ leBytes 2 c.height ++ leBytes 2 c.x0 ++ leBytes 4 c.y0 ++ leBytes 1 c.planes.length ++ zeros 1
    ++ leBytes 2 (cropPitch c.width / 32) ++ zeros 6 ++ leBytes 8 c.stamp.toNat ++ zeros 32
    ++ c.planes.flatMap (fun p => (List.range c.height).flatMap (fun y => row ((p.drop (y * c.width)).take c.width)))

/-- Visible address of a crop (R369). -/
def State.cropAddr (s : State) (c : Crop) : Nat := s.pair DEC_CROP_BASE_LO / 4096 * 4096 + c.place

/-- A crop enters the cache: its bytes lie in DRAM from its place on (R368, R369). -/
def State.putCrop (s : State) (c : Crop) : State := { s with crops := s.crops ++ [c] }.dwrite (s.cropAddr c) c.encode

/-- The crop of a REGION, or the base crop of a HOSTIMAGE, if it is written. -/
def State.cropOf (s : State) (i : Nat) : Option Crop := s.crops.find? (fun c => c.item == s.itemId i)

/-- Crops that a read of a DRAM range touches have been used now (R370). -/
def State.useCrops (s : State) (a n : Nat) : State :=
  { s with crops := s.crops.map (fun (c : Crop) => if s.cropAddr c < a + n && a < s.cropAddr c + c.size then { c with used := s.tb } else c) }

/-- Cut bytes into ESC_DATA messages of at most 65,504 body bytes. -/
def escChunks : Nat → List Byte → List (List Byte)
  | 0, _ => []
  | n + 1, l => if l = [] then [] else l.take 65504 :: escChunks n (l.drop 65504)

/-! ### Escalations received (R456) -/

/-- Answer an escalation, in the work of partition `part` where it was read, and keep the reply for repeats (R411, R438, R456). -/
def State.escReply (s : State) (src txn vc status : Nat) (body : List Byte) (part : Option Nat := none) : State :=
  let msg := mkMsg 0x32 status 0 txn s.now [] body
  ({ s with kol := { s.kol with txnDone := (TxnDone.mk src txn msg :: s.kol.txnDone).take 1024 } }).sendTo src vc msg part

/-- A reply with field entries leaves once its partition's fabric regulator lets it pass (R387). -/
def State.escOutOne (s : State) (o : EscOut) : State :=
  match s.regulate o.part .fab o.cls (32 + o.body.length) (whoOf 11 (o.src * 2 ^ 32 + o.txn)) with
  | (s, false) => s
  | (s, true) => ({ s with kol := { s.kol with escOut := s.kol.escOut.erase o } }).escReply o.src o.txn (vcOf o.cls) 0 o.body (some o.part)

/-- The whole entries at the front of a reply that one message holds, 65,504 bytes at most (R437; log entry 102). -/
def fitEntries : Nat → List (List Byte) → List Byte
  | _, [] => []
  | n, e :: t => if e.length ≤ n then e ++ fitEntries (n - e.length) t else []

/-- Reply to an escalation with field entries, within the fabric regulator of the partition that read it (R387, R437, R456). -/
def State.escAnswer (s : State) (part : Nat) (cls : Cls) (src txn : Nat) (fs : List FieldRes) : State :=
  let o : EscOut := { src := src, txn := txn, part := part, cls := cls, body := fitEntries 65504 (fs.map (fieldEntry 0)) }
  ({ s with kol := { s.kol with escOut := s.kol.escOut ++ [o] } }).escOutOne o

/-- The planes of a crop as it was sent (R369). -/
def cropPlanes (l : List Byte) : List (List Nat) :=
  let w := leAt l 4 2
  let h := leAt l 6 2
  let pitch := leAt l 16 2 * 32
  (List.range (leAt l 14 1)).map (fun k => (List.range h).flatMap (fun y => (List.range w).map (fun x => leAt l (64 + (k * h + y) * pitch + 2 * x) 2)))

/-- Class of an escalation. -/
def EscIn.cls (e : EscIn) : Cls := if e.head.cls = 0 then .lc else .be

/-- The resident model that an escalation asks for, with its partition, where an escalation context is defined (R456). -/
def State.escModel (s : State) (e : EscIn) : Option ModelRes :=
  s.models.find? (fun r => r.model == e.head.model && !r.loading && (s.fabricCtx r.part e.cls r.playbook).isSome)

/-- Run an escalation as a SEQUENCE of its class; refused without its model or context; an LC one that finds no entry ends NO_READ, a BE one waits (R26, R27, R456; log entry 58). -/
def State.openEsc (s : State) (e : EscIn) : State :=
  match s.escModel e with
  | none => s.escReply e.src e.txn (vcOf e.cls) 3 []
  | some r =>
    match s.model r.playbook r.model with
    | none => s.escReply e.src e.txn (vcOf e.cls) 3 []
    | some m =>
      if !s.canOpen e.cls then
        if e.cls = .be then { s with beWait := s.beWait ++ [{ (default : BeWait) with typ := .seq, esc := some e }] }
        else s.escAnswer r.part .lc e.src e.txn ((s.fieldList r.playbook r.model).map (fun t => blankField t .noRead .none))
      else
        match s.alloc none .seq e.cls 0 r.part 0 0 e.head.emission.toNat (ns48 s.now) with
        | none => s
        | some (i, s) =>
          let q := newSeq 0 0 r.playbook r.model m s.tb e.head.index
          (s.setSeq i { q with state := e.head.start, out := .field, inputReady := true, esc := some (e.src, e.txn), input := cropPlanes e.data }).askMask i |>.seqReady i

/-! ### REGIONs (R374-R377) -/

/-- Whether some field of pass 0 asks for re-reads: no ERROR, confidence below its threshold (R374). -/
def wantsReread (fs : List FieldRes) : Bool := fs.any (fun f => f.status != .error && f.conf < f.threshold)

/-- Whether a field asks for escalation after the vote (R377). -/
def wantsEsc (fs : List FieldRes) : Bool := fs.any (fun f => f.status == .noRead || f.conf < f.threshold)

/-- Open the SEQUENCE of a pass, or let a BE one wait for a free entry (R26); false when an LC one finds none (R27). -/
def State.openOrWait (s : State) (region pass : Nat) : State × Bool :=
  match s.openSeq region pass with
  | some (_, s) => (s, true)
  | none =>
    match tfind s.regions region with
    | none => (s, false)
    | some r =>
      if s.workClass region r = .be && (s.model r.playbook r.model).isSome then
        ({ s.modRegion region (fun r => { r with openPasses := r.openPasses ++ [pass] }) with
            beWait := s.beWait ++ [{ (default : BeWait) with typ := .seq, port := r.sidePort, parent := region, stamp := s.now, pass := pass }] }, true)
      else (s, false)

/-- Open the SEQUENCEs of passes 1 to NPASS; a pass that finds no entry casts no vote (R374; log entry 23). -/
def State.openPasses (s : State) (region : Nat) : List Nat → State
  | [] => s
  | k :: t =>
    State.openPasses (s.openOrWait region k).1 region t

/-- Close a REGION with its fields: its result is merged into its parent (R29, R41, R42). -/
def State.closeRegion (s : State) (i : Nat) (fs : List FieldRes) : State :=
  match tfind s.regions i with
  | none => s
  | some r =>
    let s := s.modRegion i (fun r => { r with result := some fs, close := some (ns48 s.now), escPending := none })
    (s.modItem i (fun e => { e with state := .done })).pieceCheck r.top

/-- An escalation that no route takes fails with FAB_NO_ROUTE: its SEQUENCE ends, and the REGION keeps its own value (R377, R378, R434). -/
def State.escFail (s : State) (j : Nat) (q : Seq) : State :=
  let s := (s.modSeq j (fun q => { q with ending := .aborted })).modItem j (fun e => { e with state := .done })
  match tfind s.regions q.region with
  | some r => (s.modRegion q.region (fun r => { r with openPasses := r.openPasses.erase q.pass })).closeRegion q.region (voteRegion (s.quorumOf r) r)
  | none => s

/-- Send the escalation of a REGION's SEQUENCE `i`: ESC_HEAD and the crop, at most 4 MiB of it, as one transaction; without a route it fails (R434, R438, R456; log entry 102). -/
def State.sendEsc (s : State) (i dst : Nat) : State :=
  match tfind s.seqs i with
  | none => s
  | some q =>
    match s.model q.playbook q.model with
    | none => s
    | some m =>
      let e := s.item i
      let vc := vcOf e.cls
      let txn := s.kol.nextTxn
      let crop := ((s.cropOf q.region).elim [] Crop.encode).take 0x400000
      let head := mkMsg 0x30 0 0 txn s.now [] (Config.msgBody 0x30 [s.itemId i, q.index, m.escModel, q.state, clsNum e.cls, e.deadline])
      let msgs := head :: (escChunks (crop.length / 65504 + 1) crop).map (fun d => mkMsg 0x31 0 0 txn s.now [] d)
      let s := { s with kol := { s.kol with nextTxn := (txn + 1) % 2 ^ 32
                                            txns := tput s.kol.txns txn { dst := dst, vc := vc, msgs := msgs, sends := 1, sentTb := s.tb, cmd := none, seq := some i } } }
      match msgs.foldl (fun (x : State × Bool) d => if x.2 then x.1.sendRouted dst vc d (some e.part) else x) (s, true) with
      | (s, true) => s
      | (s, false) => ({ s with kol := { s.kol with txns := tdel s.kol.txns txn } }).escFail i q

/-- Count voted fields (R375). -/
def State.countVotes (s : State) (fs : List FieldRes) : State :=
  fs.foldl (fun s f =>
    if f.voted then s.incFld DEC_VOTE_CNT (if f.status = .read then DEC_VOTE_CNT_VOTED_READ else DEC_VOTE_CNT_VOTED_NO_READ) else s) s

/-- Send the escalation of a REGION, once, when its SEQUENCE is open and its crop is written: the crop is read within the partition's DRAM regulator and sent within its fabric regulator (R387, R456). A crop with an uncorrectable word is not read here: BUCKET_TICK finds it (R529). -/
def State.escStart (s : State) (i : Nat) : State :=
  match tfind s.regions i, s.seqs.find? (fun q => q.2.region == i && q.2.pass == 255 && q.2.ending == .running && !q.2.inputReady) with
  | some r, some (j, q) =>
    match r.escPending, s.cropOf i with
    | some dst, some c =>
      let e := s.item j
      if s.dramBad (s.cropAddr c) c.size ≠ [] then s
      else
        match if q.input = [] then s.regulate e.part .dram e.cls c.size (whoOf 10 j) else (s, true) with
        | (s, false) => s
        | (s, true) =>
          let s := if q.input = [] then ((s.readFixed (s.cropAddr c) c.size).useCrops (s.cropAddr c) c.size).modSeq j (fun q => { q with input := c.planes }) else s
          match s.regulate e.part .fab e.cls c.size (whoOf 8 j) with
          | (s, false) => s
          | (s, true) => (s.modSeq j (fun q => { q with inputReady := true })).sendEsc j dst
    | _, _ => s
  | _, _ => s

/-- After the vote: escalate, or close the REGION (R377). -/
def State.escalateOrClose (s : State) (i : Nat) (fs : List FieldRes) : State :=
  match tfind s.regions i with
  | none => s
  | some r =>
    match s.model r.playbook r.model with
    | none => s.closeRegion i fs
    | some m =>
      if !m.escalate || !wantsEsc fs || !s.pointAway r.top m.escMinUs then s.closeRegion i fs
      else
        match s.escTarget m.escModel with
        | none => s.closeRegion i fs
        | some dst =>
          let (s, ok) := s.needCrop i
          if !ok then s.closeRegion i fs
          else
            match s.openOrWait i 255 with
            | (s, false) => s.closeRegion i fs
            | (s, true) => (s.modRegion i (fun r => { r with escPending := some dst })).escStart i

/-- A REGION whose passes have all ended: the vote, where re-reads were asked for, then escalation where every condition of R377 holds, else it closes (R375, R377). -/
def State.regionEnd (s : State) (i : Nat) (r : Region) (m : Model) : State :=
  let v := voteRegion m.voteQuorum r
  let s := s.countVotes v
  if m.out = .field && !r.cropFull && (r.reread || m.npass = 0) then s.escalateOrClose i v else s.closeRegion i v

/-- A REGION after the end of one of its passes: re-reads after pass 0, then its end (R374). Where no re-read finds an entry (R27) the vote is over pass 0 alone (log entry 23). -/
def State.regionStep (s : State) (i : Nat) : State :=
  match tfind s.regions i with
  | none => s
  | some r =>
    if r.result.isSome || r.openPasses ≠ [] then s
    else
      match tfind r.passes 0, s.model r.playbook r.model with
      | some fs, some m =>
        if !r.reread && r.escPending.isNone && m.out = .field && wantsReread fs && 0 < m.npass && !r.cropFull then
          let (s, ok) := s.needCrop i
          if ok then
            let s := (s.modRegion i (fun r => { r with reread := true })).openPasses i ((List.range m.npass).map (· + 1))
            match tfind s.regions i with
            | some r' => if r'.openPasses = [] then s.regionEnd i r' m else s
            | none => s
          else s.closeRegion i fs
        else s.regionEnd i r m
      | some fs, none => s.closeRegion i fs
      | none, _ => s

/-! ### The end of a SEQUENCE -/

/-- Count what the assembler repaired (R345, R346). -/
def State.countRepairs (s : State) (i n : Nat) : State :=
  if n = 0 then s
  else
    let s := (s.incReg TOK_REPAIR_CNT n).raise TOK_IRQ_STAT 2
    match tfind s.seqs i with
    | some q => s.modPiece (s.topOf q) (fun p => { p with repaired := true })
    | none => s

/-- A SEQUENCE ends: held bytes become a repair, held characters and chunks are released, its records go out, its pages and jobs are released, its item is DONE, its result joins its REGION. -/
def State.endSeq (s : State) (i : Nat) (how : SeqEnd) : State :=
  match tfind s.seqs i with
  | none => s
  | some q =>
    if q.ending ≠ .running then s
    else
      let (q, n) := q.atEnd (s.stopsOf q) s.tb how
      let res := s.seqResult q
      let q := q.closeField
      let s := (s.setSeq i q).countRepairs i n
      let s := match q.out with
        | .note => s.noteRecord i
        | .live => s.liveChunk i true
        | .field => s
      let s := (s.releasePages i).modItem i (fun e => { e with state := .done })
      let s := { s with ready := s.ready.filter (fun j => j.item != i || j.job.isSome) }
      let s := match how with
        | .dead => (s.incFld TOK_END_CNT TOK_END_CNT_DEAD_CNT).raise TOK_IRQ_STAT 0
        | .noToken => (s.incFld TOK_END_CNT TOK_END_CNT_NOTOKEN_CNT).raise TOK_IRQ_STAT 1
        | _ => s
      let s := if how = .noFrame then s.modPiece (s.topOf q) (fun p => { p with noFrame := true }) else s
      match q.esc with
      | some (src, txn) =>
        (s.escAnswer (s.item i).part (s.item i).cls src txn res).tidy
      | none =>
        let s := s.modRegion q.region (fun r =>
          { r with openPasses := r.openPasses.erase q.pass, passes := if q.pass = 255 then r.passes else tput r.passes q.pass res })
        if q.pass = 255 then s else (s.regionStep q.region).tidy

/-- The kept data of a new REGION. -/
def State.newRegion (s : State) (side port top pb : Nat) (f : Found) : Region :=
  { (default : Region) with side := side, sidePort := port, top := top, found := f, model := f.model, playbook := pb, margin := s.fld DEC_CROP_CFG DEC_CROP_CFG_MARGIN }

/-- The playbook that reads below a top-level item. -/
def State.pbOf (s : State) (top : Nat) : Nat := ((tfind s.pieces top).map (·.playbook)).getD 0

/-- The REGIONs below a top-level item that were found and wait for an entry (R26) are kept without one: their fields belong to the item's record (R43, R45). -/
def State.keepWaiting (s : State) (top : Nat) : State :=
  let mine (w : BeWait) : Bool := w.typ == .region && w.key == top
  (s.beWait.filter mine).foldl (fun s w =>
    match w.found with
    | some f => { s with regions := tput s.regions s.ghostKey { s.newRegion w.parent w.port top (s.pbOf top) f with sealed := true } }
    | none => s) { s with beWait := s.beWait.filter (fun w => !mine w) }

/-- End the open work below a top-level item: its REGIONs, be they such as wait for an entry, take what their passes ended so far give, by a vote where re-reads were asked for, unfinished fields ABORTED (R43, R44, R48, R376). -/
def State.abortBelow (s : State) (top : Nat) (how : SeqEnd) : State :=
  let s := s.keepWaiting top
  let rs := s.regions.filter (fun r => r.2.top == top && r.2.result.isNone)
  let gone (w : BeWait) : Bool := w.parent == top || (s.item w.parent).parent == top || rs.any (fun r => r.1 == w.parent)
  let s := (s.beWait.filter gone).foldl (fun s w => s.replyOpen w.sq 0) { s with beWait := s.beWait.filter (fun w => !gone w) }
  rs.foldl (fun s r =>
    let fs := s.regionFields r
    let s := if r.2.reread && (tfind r.2.passes 0).isSome then s.countVotes fs else s
    let s := s.modRegion r.1 (fun r => { r with result := some fs, close := some (ns48 s.now), openPasses := [] })
    let s := (s.seqs.filter (fun q => q.2.region == r.1)).foldl (fun s q => s.endSeq q.1 how) s
    s.modItem r.1 (fun e => { e with state := .done })) s

/-- A sequence that runs on has its next job ready: the prefill while its prefix or a dropped page lacks its positions, else the decode step (R311, R325); without a context it ends (R390). -/
def State.stepReady (s : State) (i : Nat) : State :=
  match tfind s.seqs i with
  | none => s
  | some q =>
    if q.ending ≠ .running || s.ready.any (fun r => r.item == i && r.job.isNone) || s.jobs.any (fun j => j.2.seqs.contains i) then s
    else
      match s.seqCtx i q, s.model q.playbook q.model with
      | some c, some m => s.addReady c (s.nextInfo q m) i
      | none, _ => s.endSeq i .noContext
      | _, _ => s

/-- The job that waits for a demoted SEQUENCE moves to the BE context; without one the SEQUENCE ends (R379, R390). A job in flight runs to its end where it is. -/
def State.rehome (s : State) (i : Nat) : State :=
  if s.ready.any (fun r => r.item == i && r.job.isNone) then ({ s with ready := s.ready.filter (fun r => !(r.item == i && r.job.isNone)) }).stepReady i
  else s

/-- A SEQUENCE that exceeds its decode budget is demoted; its re-reads and escalation run as BE (R379). -/
def State.demoteSeq (s : State) (i : Nat) : State :=
  if (s.item i).cls = .lc then
    let s := ((s.demoteItem i).incReg DEC_DEMOTE_CNT).raise DEC_IRQ_STAT 2
    match tfind s.seqs i with
    | some q =>
      match tfind s.regions q.region with
      | some r => ((s.modPiece r.top (fun p => { p with demoted := true })).modRegion q.region (fun r => { r with beWork := true })).rehome i
      | none => s.rehome i
    | none => s
  else s

/-! ### One token (R332, R338, R341, R345-R349, R379) -/

/-- The state after a token that is not EOS: its transition, else the default; none where that is 0xF_FFFF (R336, R338). -/
def nextState (g : GState) (tok : Nat) : Option Nat :=
  match g.trans.find? (fun t => t.token == tok) with
  | some t => if t.next = 0xFFFFF then none else some t.next
  | none => if g.dflt = 0xFFFFF then none else some g.dflt

/-- The field that closed last, 0 for none. -/
def lastClosed (fs : List FieldVal) : Nat :=
  (fs.foldl (fun (b : Nat × Nat) (f : FieldVal) => if b.2 < f.closed then (f.id, f.closed) else b) (0, 0)).1

/-- Take a chosen token: its bytes, its field, the grammar, the end of the sequence, the budget; with the result word of R340, which the sequence keeps. -/
def State.takeToken (s : State) (i tok conf : Nat) : State × Nat :=
  match tfind s.seqs i with
  | none => (s, 0x1FFFF)
  | some q =>
    match s.tableSet q.playbook q.model, s.model q.playbook q.model with
    | some ts, some m =>
      let g := ts.stateAt q.state
      let d := ts.detok.getD tok default
      let bytes := if d.special || tok = ts.eos then [] else d.bytes
      let fld := if q.out = .field then g.fieldId else 0
      let q := if q.curField ≠ fld then { q.closeField with curField := fld } else q
      let q := { q with fields := contribute fld conf g.tag q.fields, lastField := if fld ≠ 0 then fld else
                   lastClosed q.fields }
      let (cs, pend, pf) := asmBytes q.pend q.pendField fld bytes
      let (q, stopped, repairs) := Seq.takeChars { q with pend := pend, pendField := pf } (s.stopsOf q) s.tb cs
      let q := { q with tokens := q.tokens ++ [tok], lastStep := q.lastStep + 1, log := (q.log ++ [tok]).take 32768 }
      let nxt := if tok = ts.eos then some q.state else nextState g tok
      let how : Option SeqEnd :=
        if tok = ts.eos then some .eos
        else if nxt.isNone then some .dead
        else if stopped then some .stop
        else if m.maxTokens ≤ q.tokens.length then some .maxTokens
        else none
      let endBit := how = some .eos || how = some .stop || how = some .maxTokens
      let res := tok % 65536 + b2n endBit * 2 ^ 17
      let q := { q with state := nxt.getD q.state, lastResult := res }
      let s := (s.setSeq i q).countRepairs i repairs
      let s := if q.out = .live then s.liveFull i q.livePend.length else s
      match how with
      | some h => (s.endSeq i h, res)
      | none => ((if m.budgetTok ≤ q.tokens.length then s.demoteSeq i else s).askMask i, res)
    | _, _ => (s, 0x1FFFF)

end Sys2Proof.Machine
end

