-- ==== Sys2Proof/Machine/Opening.lean ====
section
/-! DEFINITION. Opening events: PIECE and SIDE with their boundary, gate values, class and binding; slave SIDEs, double feed, exhausted tables, and pieces that end at once (R19, R24-R27, R31-R37, R54, R104, R128, R390, R454). -/

namespace Sys2Proof.Machine

/-! ### Ports, encoders, calibration -/

/-- Calibration of port `n`. -/
def State.calPort (s : State) (n : Nat) : CalPort := tget default s.cal n

/-- Change the calibration of port `n`. -/
def State.modCal (s : State) (n : Nat) (f : CalPort → CalPort) : State := { s with cal := tput s.cal n (f (s.calPort n)) }

/-- Port `n` is admitted and running (R71). -/
def State.linOn (s : State) (n : Nat) : Bool := s.on (LIN_PORT_STAT n) LIN_PORT_STAT_ENABLED

/-- The encoder that a port selects (R73). -/
def State.encSel (s : State) (n : Nat) : Nat := s.fld (LIN_PORT_CFG n) LIN_PORT_CFG_ENC_SEL

/-- The enabled ports that select an encoder (R73). -/
def State.selectors (s : State) (e : Nat) : List Nat := (List.range 4).filter (fun n => s.linOn n && s.encSel n == e)

/-- A field as last written, whether or not its boundary has come: BAR_SEL and OPEN_SRC choose the event that opens the next item (R38; log entry 27). -/
def State.asWritten (s : State) (a : Nat) (f : Fld) : Nat :=
  match tfind s.shadow a with
  | some v => fget v f
  | none => s.fld a f

/-- The port is a slave (R38). -/
def State.isSlave (s : State) (n : Nat) : Bool := s.on (LIN_GATE_CFG n) LIN_GATE_CFG_SLAVE

/-- The master port of a port's track group. -/
def State.masterOf (s : State) (n : Nat) : Nat := s.fld (LIN_GATE_CFG n) LIN_GATE_CFG_MASTER_PORT

/-! ### Ending a top-level item -/

/-- A SIDE seals, and the seal is relayed (R19, R448). -/
def State.sealSide (s : State) (x : Nat) : State :=
  match tfind s.sides x with
  | none => s
  | some d =>
    let s := { s.modItem x (fun e => { e with state := .sealed }) with sides := tput s.sides x { d with flushed := true } }
    match tfind s.pieces d.piece with
    | some p => if p.relayed then s.relay 0x22 d.piece (Config.msgBody 0x22 [s.itemId x, d.lastLine.getD 0, (d.trail.getD 0).toNat]) else s
    | none => s

/-- Seal every SIDE of a top-level item that is still OPEN. -/
def State.sealSides (s : State) (i : Nat) : State :=
  ((s.sides.filter (fun x => x.2.piece == i && (s.item x.1).state == .opened)).foldl (fun s x => s.sealSide x.1) s).endLines i

/-- A top-level item ends now with a status of its own: its open work ends ABORTED, and the record follows that its state calls for (R45, R46, R48, R104, R366, R390). -/
def State.endPiece (s : State) (i : Nat) (st : Status) (re : Reason) : State :=
  match tfind s.pieces i with
  | none => s
  | some _ =>
    let s := ((s.modPiece i (fun p => { p with ended := some st, reason := re })).abortBelow i .aborted).sealSides i
    let s := { s with images := tupd s.images i (fun m => { m with decoded := true }) }
    match tfind s.pieces i with
    | none => s
    | some p =>
      let fs := s.pieceFields i
      let s := if !p.recorded then s.emitPiece i st re fs true
               else if p.lateEn && !p.lateDone then s.emitPiece i .late re fs true else s
      (s.modPiece i (fun p => { p with recorded := true, lateDone := true })).finishTop i

/-! ### Opening a PIECE and its SIDEs -/

/-- A PIECE or SIDE opens on a port: waiting ITEM values take effect, and so does the port's next binding (R11, R497 PORT_BIND). -/
def State.itemBoundary (s : State) (n : Option Nat) : State :=
  let s := s.applyShadow .item (itemScope n)
  match n with
  | some n => s.modLin n (fun p => if p.nextBound then { p with bound := true, bindPb := p.nextPb, bindFn := p.nextFn, nextBound := false } else p)
  | none => s

/-- A due bank swap takes effect at the opening of a SIDE: the copy into WORKING begins (R127-R129). -/
def State.bankSwap (s : State) (n : Nat) : State :=
  if (s.calPort n).swapDue then
    let s := s.modCal n (fun c => { c with swapDue := false, copying := true, uncorr := [] })
    (s.setFld (CAL_STAT n) CAL_STAT_ACTIVE_BANK (1 - s.fld (CAL_STAT n) CAL_STAT_ACTIVE_BANK)).setFld (CAL_STAT n) CAL_STAT_BUSY 1
  else s

/-- The detection job of an opened SIDE or HOSTIMAGE becomes ready in its context; without one its top-level item ends NO_CONTEXT, and CTX_FAULT where its playbook is CORRUPT (R390, R406, R529). -/
def State.detectReady (s : State) (pb fn side : Nat) : State :=
  let e := s.item side
  let top := ((tfind s.sides side).map (·.piece)).getD side
  match s.findCtx e.part e.cls pb fn, (s.playbook pb).bind (fun p => p.fns[fn]?) with
  | some c, some f => s.addReady c f.detectJob side
  | some _, none => s.endPiece top .error .ctxFault
  | none, _ => s.endPiece top .error .noContext

/-- Work of an item that has passed to BE and waits for a tile moves to the BE context: a SEQUENCE's next job, a SIDE's detection (R21, R390). -/
def State.rehomeItem (s : State) (i : Nat) : State :=
  match tfind s.sides i with
  | none => s.rehome i
  | some d =>
    if s.ready.any (fun r => r.item == i && r.job.isNone) then
      ({ s with ready := s.ready.filter (fun r => !(r.item == i && r.job.isNone)) }).detectReady (s.pbOf d.piece) (s.fnOf d.piece) i
    else s

/-- The items below a top-level item that are unsealed or unfinished: running SEQUENCEs, REGIONs without a result, SIDEs that are OPEN or hold such a REGION (R21). -/
def State.openBelow (s : State) (top : Nat) : List Nat :=
  let rs := s.regions.filter (fun r => r.2.top == top && r.2.result.isNone)
  let qs := s.seqs.filter (fun q => s.topOf q.2 == top && q.2.ending == .running)
  let xs := s.sides.filter (fun x => x.2.piece == top && ((s.item x.1).state == .opened || rs.any (fun r => r.2.side == x.1)))
  rs.map (·.1) ++ qs.map (·.1) ++ xs.map (·.1)

/-- Every unsealed or unfinished item below a top-level item passes to BE; the item itself keeps its class, and its record says that work was demoted (R21, R504). -/
def State.demoteBelow (s : State) (top : Nat) : State :=
  let l := (s.openBelow top).filter (fun i => (s.item i).cls == .lc)
  let s := l.foldl (fun s i => (s.demoteItem i).rehomeItem i) s
  if l = [] then s else s.modPiece top (fun p => { p with demoted := true })

/-- Retention of a port resumes with a SIDE that opens when FREE_MIB is at least SIZE_MIB ÷ 8; a PIECE with a SIDE that opens before that, while the ring stays full, is neither streamed nor retained (R104). -/
def State.retResume (s : State) (i n : Nat) : State :=
  if !(s.linPort n).retStopped then s
  else if 8 * s.retFree n < s.fld (LIN_RET_SIZE n) LIN_RET_SIZE_SIZE_MIB then s.modPiece i (fun p => { p with retStop := true })
  else s.modLin n (fun q => { q with retStopped := false })

/-- Open a SIDE of a PIECE on a port (R19, R20); none when no entry is free. -/
def State.openSide (s : State) (i n : Nat) (barrier : Bool) (stamp : Stamp) : Option State :=
  let e := s.item i
  if !s.canOpen e.cls then none
  else
    match (s.itemBoundary (some n)).alloc (some n) .side e.cls i e.part n e.orderKey e.deadline (ns48 stamp) with
    | none => none
    | some (x, s) =>
      let s := { s with sides := tput s.sides x { piece := i, port := n, nextLine := 0, lastLine := none, trail := none, barrier := barrier, flushed := false } }
      let s := ((s.modLin n (fun p => { p with curSide := some x })).bankSwap n).retResume i n
      match tfind s.pieces i with
      | some p => some (s.detectReady p.playbook p.fn x)
      | none => some s

/-- MARGIN_US with its minimum of 50 µs (R35). -/
def State.marginNs (s : State) (n : Nat) : Nat := max 50 (s.fld (LIN_DLV_MARGIN n) LIN_DLV_MARGIN_MARGIN_US) * 1000

/-- Emission point of TIME mode as stamp48 (R31). -/
def State.timePoint (s : State) (n : Nat) (stamp : Stamp) : Nat :=
  (ns48 stamp + s.num (LIN_GATE_TIME n) + 2 ^ 48 - s.marginNs n) % 2 ^ 48

/-- Emission position of COUNT mode, from the position at the opening event (R31). -/
def State.countPoint (s : State) (n pos : Nat) : Nat :=
  (pos + s.num (LIN_GATE_DIST n) + 2 ^ 32 - s.fld (LIN_DLV_MARGIN n) LIN_DLV_MARGIN_MARGIN_COUNTS) % 2 ^ 32

/-- The encoder positions of an opening event that comes now on port `n` (R31, R32). -/
def State.openPos (s : State) (n : Nat) : OpenPos :=
  let pos := s.num (LIN_ENC_POS (s.encSel n))
  { enc := s.encSel n, pos := pos, high := pos }

/-- The moment at which the count is reached, once the highest position has (R32, R42): now, where it just did. -/
def State.countNow (s : State) (emitCount : Option Nat) (high : Nat) : Option Nat :=
  match emitCount with
  | some c => if 0 ≤ sdiff 32 high c then some (ns48 s.now) else none
  | none => none

/-- The kept data of a PIECE that opens on port `n`, with the gate values in force and the positions since its opening event (R31-R34, R42). -/
def State.newPiece (s : State) (n : Nat) (stamp : Stamp) (at_ : OpenPos) (pairFault : Bool) : Piece :=
  let mode := s.fld (LIN_GATE_CFG n) LIN_GATE_CFG_GATE_MODE
  let p := s.linPort n
  let count := if 2 ≤ mode then some (s.countPoint n at_.pos) else none
  { (default : Piece) with
    port := n, gateMode := mode, lateEn := s.on (LIN_GATE_CFG n) LIN_GATE_CFG_LATE_EN, lateNs := s.num (LIN_LATE_LIMIT n)
    emitPoint := if mode % 2 = 1 then some (s.timePoint n stamp) else none
    emitCount := count, countAt := s.countNow count at_.high
    hiPos := at_.high, encSel := at_.enc, openStamp := stamp
    playbook := if p.bound then p.bindPb else 0, fn := p.bindFn, pairFault := pairFault }

/-- Partition of the work of a port: that of its playbook (R390). -/
def State.portPart (s : State) (n : Nat) : Nat :=
  let p := s.linPort n
  if p.bound then ((tfind s.playbooks p.bindPb).map (·.part)).getD 0 else 0

/-- Relay the opening of a PIECE (R448); relaying resumes with the sequence that follows the one the partner reports (R449, R451; log entry 61). -/
def State.relayOpening (s : State) (i : Nat) : State :=
  match tfind s.pieces i with
  | none => s
  | some p =>
    let resumed := s.partner?.isSome && s.kol.relayStopped && !s.kol.partnerLost
    let s := if resumed then { s with kol := { s.kol with relayStopped := false, relaySeq := s.kol.hbAccepted } } else s
    if !s.relaying then s
    else
      let e := s.item i
      let s := s.modPiece i (fun p => { p with relayed := true })
      s.relay 0x20 i (Config.msgBody 0x20 [s.itemId i, e.orderKey, p.port, clsNum e.cls, p.openStamp.toNat, p.gateMode, e.deadline, p.playbook])

/-- Ring of a PIECE that a command opens: the RING of its packet (R492). -/
def State.openRing (s : State) (sq : Option (Nat × Nat)) : Option Nat := (s.packetOf sq).map (fun (x : Nat × Nat × List Byte) => leAt x.2.2 2 1 % 64)

/-- Fill a free entry with a PIECE of port `m` whose first SIDE is of port `n`: reply to the command that opened it, open the SIDE, relay the opening. A BE SIDE waits while entries are short (R26); an LC one that finds none, and a PIECE without a context, end the PIECE at once (R27, R390, R491, R492; log entry 28). -/
def State.placePiece (s : State) (m : Nat) (cls : Cls) (w : BeWait) : Option Nat × State :=
  let s := s.itemBoundary (some m)
  let p := { s.newPiece m w.stamp w.at_ w.pairFault with ring := s.openRing w.sq }
  let deadline := p.emitPoint.getD 0
  match s.alloc (some m) .piece cls 0 (s.portPart m) m w.key deadline (ns48 w.stamp) with
  | none => (none, s)
  | some (i, s) =>
    let s := { s with pieces := tput s.pieces i p }.replyOpen w.sq (s.itemId i)
    let opened := s.openSide i w.side w.barrier w.stamp
    if opened.isNone && cls = .lc then (some i, s.endPiece i .error .itemExhausted)
    else
      let s := match opened with
        | some s => s
        | none => { s with beWait := s.beWait ++ [{ w with typ := .side, port := w.side, parent := i, sq := none }] }
      let s := s.relayOpening i
      let known := (s.findCtx (s.item i).part cls p.playbook p.fn).isSome && (s.linPort m).bound
      if known then (some i, s) else (some i, s.endPiece i .error .noContext)

/-- An opening event opens a PIECE on port `m` for a SIDE of port `n` (R19, R26, R27, R54): the new item, if one opened. CLASS counts as last written, since it takes effect with this item. A BE PIECE that finds no entry free at all gives the record of R27 and does not wait (log entry 28). -/
def State.openPiece (s : State) (m n : Nat) (stamp : Stamp) (barrier pairFault : Bool) (sq : Option (Nat × Nat)) : Option Nat × State :=
  let cls : Cls := if s.asWritten (LIN_GATE_CFG m) LIN_GATE_CFG_CLASS ≠ 0 then .be else .lc
  let key := (s.linPort m).orderKey
  let w : BeWait := { (default : BeWait) with
    typ := .piece, port := m, stamp := stamp, key := key, pairFault := pairFault, sq := sq, side := n, barrier := barrier, at_ := s.openPos m }
  let s := s.modLin m (fun p => { p with orderKey := (key + 1) % 2 ^ 32 })
  if s.freeItems = 0 then
    let t := s.itemBoundary (some m)
    let p := { t.newPiece m stamp w.at_ pairFault with ring := s.openRing sq }
    (none, (s.replyOpen sq 0).exhausted p (t.portPart m) key cls)
  else if !s.canOpen cls then (none, { s with beWait := s.beWait ++ [w] })
  else s.placePiece m cls w

/-- The PIECE of a port that is OPEN. -/
def State.openPieceOf (s : State) (n : Nat) : Option Nat :=
  (s.pieces.find? (fun p => !p.2.image && !p.2.takenOver && p.2.port == n && (s.item p.1).state == .opened)).map (·.1)

/-- A slave port's SIDE opens under the oldest PIECE of its master that is not DONE and has no SIDE from this port, or under a new PIECE with PAIR_FAULT (R36). A SIDE that waits for an entry counts as one the PIECE has. An LC SIDE that finds no entry opens nothing and leaves no record (log entry 28). -/
def State.openSlave (s : State) (n : Nat) (stamp : Stamp) (barrier : Bool) (sq : Option (Nat × Nat)) : State :=
  let m := s.masterOf n
  let cand := s.pieces.filter (fun p => !p.2.image && !p.2.takenOver && p.2.port == m && (s.item p.1).state != .done
    && !s.sides.any (fun x => x.2.piece == p.1 && x.2.port == n) && !s.beWait.any (fun w => w.typ == .side && w.parent == p.1 && w.port == n))
  let oldest := cand.foldl (fun (b : Option (Nat × Nat)) p =>
    let k := (s.item p.1).orderKey
    match b with
    | none => some (p.1, k)
    | some c => if sdiff 32 k c.2 < 0 then some (p.1, k) else some c) none
  match oldest with
  | some (i, _) =>
    match s.openSide i n barrier stamp with
    | some s => s.replyOpen sq (s.itemId ((s.linPort n).curSide.getD 0))
    | none =>
      if (s.item i).cls = .be then
        { s with beWait := s.beWait ++ [{ (default : BeWait) with typ := .side, port := n, parent := i, stamp := stamp, side := n, barrier := barrier, sq := sq }] }
      else s.replyOpen sq 0
  | none => (s.openPiece m n stamp barrier true sq).2

/-- An opening event on a port (R36-R38): `src` 1 for the barrier, 2 for the image leading edge, 3 for the host. With OPEN_SRC 0b10 the second kind of event of one piece opens nothing and is no double feed (log entry 29). -/
def State.openingEvent (s : State) (n src : Nat) (stamp : Stamp) (sq : Option (Nat × Nat)) : Option Nat × State :=
  if src ≠ 3 && !s.linOn n then (none, s)
  else if s.isSlave n then (none, s.openSlave n stamp (src == 1) sq)
  else
    match s.openPieceOf n with
    | some i =>
      let by_ := (s.linPort n).openedBy
      if s.asWritten (LIN_GATE_CFG n) LIN_GATE_CFG_OPEN_SRC = 2 && (by_ = 1 && src = 2 || by_ = 2 && src = 1) then
        let s := s.modLin n (fun p => { p with openedBy := 3 })
        (none, if src = 1 then { s with sides := s.sides.map (fun x => if x.2.piece = i && x.2.port = n then (x.1, { x.2 with barrier := true }) else x) } else s)
      else (none, ((s.modPiece i (fun p => { p with doubleFeed := true })).incFld (LIN_GATE_STAT n) LIN_GATE_STAT_DBL_FEED_CNT).replyOpen sq 0)
    | none =>
      let (i, s) := s.openPiece n n stamp (src == 1) false sq
      (i, s.modLin n (fun p => { p with openedBy := src }))

/-- The barrier of a port unblocks: the trailing edge of its SIDE has passed (R19, R51). -/
def State.trailingEdge (s : State) (n : Nat) (stamp : Stamp) : State :=
  match (s.linPort n).curSide with
  | some x =>
    match tfind s.sides x with
    | some d =>
      if d.barrier && d.trail.isNone then
        let s := ({ s with sides := tput s.sides x { d with trail := some stamp } }).modLin n (fun p => { p with curSide := none })
        s.modPiece d.piece (fun p => if p.port = n || p.pairFault && p.trailStamp.isNone then { p with trailStamp := some stamp } else p)
      else s
    | none => s
  | none =>
    { s with beWait := s.beWait.map (fun w =>
        if (w.typ = .piece || w.typ = .side) && w.side = n && w.barrier && w.trail.isNone then { w with trail := some stamp } else w) }

/-- A PIECE that a shadow barrier opens after a takeover ends at once with DEVICE_LOST (R454). -/
def State.shadowPiece (s : State) (port : Nat) (stamp : Stamp) : State :=
  let key := (tget 0 s.kol.lastKey port + 1) % 2 ^ 32
  let part := s.fld KOL_CATCH_CFG KOL_CATCH_CFG_CATCH_PART
  let s := { s with kol := { s.kol with lastKey := tput s.kol.lastKey port key } }
  let p : Piece := { (default : Piece) with takenOver := true, srcPort := port, srcKey := key, origin := s.kol.source, openStamp := stamp, reason := .deviceLost }
  if s.freeItems = 0 then s.exhausted p part key .lc
  else
    match s.alloc none .piece .lc 0 part port key 0 (ns48 stamp) with
    | none => s
    | some (i, s) => ({ s with pieces := tput s.pieces i p }).endPiece i .error .deviceLost

/-! ### REGIONs (R19, R27, R55) -/

/-- A text area of a SIDE comes first in the ranking of R55. -/
def foundBefore (a b : Found) : Bool := a.firstLine < b.firstLine || (a.firstLine = b.firstLine && a.firstCol < b.firstCol)

/-- The REGIONs of a SIDE or HOSTIMAGE take their rank as ORDER_KEY, those with a result already among them (R55); areas with the same first line and first column share a rank (log entry 71). -/
def State.rankRegions (s : State) (parent : Nat) : State :=
  let mine := s.regions.filter (fun r => r.2.side == parent)
  (mine.filter (fun r => r.1 < 2 ^ 20)).foldl (fun s r =>
    s.modItem r.1 (fun e => { e with orderKey := (mine.filter (fun x => foundBefore x.2.found r.2.found)).length })) s

/-- Open the REGION of a text area that detection found on a SIDE, or on a HOSTIMAGE: a BE one waits while entries are short, an LC one that finds none ends its fields NO_READ (R26, R27). Below a top-level item in OVERTIME it opens as BE (R45). -/
def State.openRegion (s : State) (parent port top : Nat) (f : Found) : State :=
  let pb := s.pbOf top
  let e := s.item parent
  let cls := if (s.item top).state = .overtime then .be else e.cls
  if !s.canOpen cls then
    if cls = .be then
      { s with beWait := s.beWait ++ [{ (default : BeWait) with typ := .region, port := port, parent := parent, stamp := s.now, found := some f, key := top }] }
    else
      let fs := (s.fieldList pb f.model).map (fun t => blankField t .noRead .none)
      { s with regions := tput s.regions s.ghostKey { s.newRegion parent port top pb f with sealed := true, result := some fs, close := some (ns48 s.now) } }.rankRegions parent
  else
    match s.alloc (s.scopeOf top e.port) .region cls parent e.part port 0 e.deadline (ns48 s.now) with
    | none => s
    | some (i, s) => { s with regions := tput s.regions i (s.newRegion parent port top pb f) }.rankRegions parent

/-- The first read of a REGION whose SEQUENCE has opened becomes ready; without a context it ends (R390). -/
def State.startRead (s : State) (region : Nat) : State :=
  ((s.seqs.find? (fun q => q.2.region == region && q.2.pass == 0 && q.2.ending == .running)).map (·.1)).elim s s.stepReady

/-- A REGION whose last needed line has arrived seals, and its recognition starts (R19); an LC SEQUENCE that finds no entry ends the fields NO_READ (R27), one without a context ends them NO_CONTEXT (R390). -/
def State.sealRegion (s : State) (i : Nat) : State :=
  match tfind s.regions i with
  | none => s
  | some r =>
    if r.sealed then s
    else
      let s := (s.modRegion i (fun r => { r with sealed := true })).modItem i (fun e => { e with state := .sealed })
      let e := s.item i
      if (s.findCtx e.part e.cls r.playbook (s.fnOf r.top)).isNone then
        s.closeRegion i ((s.fieldList r.playbook r.model).map (fun t => blankField t .error .noContext))
      else
      match s.openOrWait i 0 with
      | (s, true) => s.startRead i
      | (s, false) => s.closeRegion i ((s.fieldList r.playbook r.model).map (fun t => blankField t .noRead .none))

/-- Seal the REGIONs of a SIDE or HOSTIMAGE whose needed lines have all arrived: those up to line `k`, or every one. -/
def State.sealReady (s : State) (side : Nat) (k : Option Nat) : State :=
  let due (f : Found) : Bool := match k with
    | some k => decide (f.needLine ≤ k)
    | none => true
  (s.regions.filter (fun r => r.2.side == side && !r.2.sealed && due r.2.found)).foldl (fun s r => s.sealRegion r.1) s

/-- The last line number of a SIDE whose lines have arrived; none once it has sealed. -/
def State.linesIn (s : State) (side : Nat) : Option Nat :=
  match tfind s.sides side with
  | some d => if d.flushed then none else some (d.nextLine - 1)
  | none => none

/-- A BE item that waits opens once more than the reserve are free (R26); its trailing edge, if it has passed, is applied. -/
def State.openWaiting (s : State) (w : BeWait) : State :=
  match w.typ with
  | .piece =>
    let (_, s) := s.placePiece w.port .be w
    match w.trail with
    | some t => s.trailingEdge w.side t
    | none => s
  | .side =>
    match s.openSide w.parent w.side w.barrier w.stamp with
    | some s =>
      let s := s.replyOpen w.sq (s.itemId ((s.linPort w.port).curSide.getD 0))
      match w.trail with
      | some t => s.trailingEdge w.port t
      | none => s
    | none => s
  | .seq =>
    match w.esc with
    | some e => s.openEsc e
    | none =>
    let s := s.modRegion w.parent (fun r => { r with openPasses := r.openPasses.erase w.pass })
    match s.openSeq w.parent w.pass with
    | some (_, s) => if w.pass = 255 then s.escStart w.parent else if w.pass = 0 then s.startRead w.parent else s
    | none => s
  | .region =>
    match w.found with
    | some f => (s.openRegion w.parent w.port w.key f).sealReady w.parent (s.linesIn w.parent)
    | none => s
  | _ => s

end Sys2Proof.Machine
end

