-- ==== Sys2Proof/Machine/Pages.lean ====
section
/-! DEFINITION. The page manager: frames, page tables, sharing, reservation of slots, and what happens when frames run out (R298-R326). -/

namespace Sys2Proof.Machine

/-! ### Frames (R298-R303) -/

/-- Key of a CHIP frame: 64 × logical tile + local frame (R303). -/
def chipKey (t f : Nat) : Nat := 64 * t + f

/-- Key of a DRAM frame. -/
def dramKey (f : Nat) : Nat := 2 ^ 24 + f

/-- The frame pool of a logical tile (R300). -/
def State.poolOf (s : State) (t : Nat) : Option PoolCfg :=
  (s.playbooks.flatMap (fun l => l.2.pb.pools)).find? (fun p => p.tile == t)

/-- The bytes of a store that lie in a tile's frame pool (R300). -/
def PoolCfg.holds (p : PoolCfg) (o : Nat) : Bool :=
  (p.poolBase ≤ o && o < p.poolBase + 4096 * p.size) || (p.sideBase ≤ o && o < p.sideBase + 128 * p.size)

/-- An offset of a tile's store lies in its frame pool. -/
def State.pooled (s : State) (t o : Nat) : Bool := (s.poolOf t).any (fun p => p.holds o)

/-- Pages of a tile's store that its frame pool lies in: live pages of its checkpoints (R302). -/
def State.poolPages (s : State) (t : Nat) : List Nat :=
  match s.poolOf t with
  | some p => (pagesAt 0 p.poolBase (4096 * p.size) ++ pagesAt 0 p.sideBase (128 * p.size)).eraseDups
  | none => []

/-- Frames that a transfer under way reads or writes (R315). -/
def Xfer.frames : Xfer → List Nat
  | .spill _ _ _ c d _ => [c, dramKey d]
  | .prefetch _ _ _ d c => [dramKey d, c]
  | .cow _ _ _ a b => [a, b]
  | .drop _ _ => []

/-- A frame is locked (R315). -/
def State.locked (s : State) (k : Nat) : Bool :=
  s.jobs.any (fun j => j.2.frames.contains k) || s.tiles.any (fun t => t.2.readFrames.contains k) || s.xfers.any (fun x => x.2.frames.contains k)

/-- A frame is free: nothing refers to it and nothing locks it (R313, R315). -/
def State.frameFree (s : State) (k : Nat) : Bool := tget 0 s.refs k == 0 && !s.locked k

/-- The free local frame of a tile with the lowest number (log entry 39). -/
def State.freeLocal (s : State) (t : Nat) : Option Nat :=
  match s.poolOf t with
  | none => none
  | some p => (List.range p.size).find? (fun f => s.frameFree (chipKey t f))

/-- The lowest number of at most `n` from `i` on that is not listed. -/
def lowestFree (used : List Nat) : Nat → Nat → Nat
  | 0, i => i
  | n + 1, i => if used.contains i then lowestFree used n (i + 1) else i

/-- A free DRAM frame, the one with the lowest number (R301; log entry 39). -/
def State.freeDram (s : State) : Option Nat :=
  let used := (s.refs.map (·.1) ++ s.xfers.flatMap (fun x => x.2.frames)).filterMap (fun k => if 2 ^ 24 ≤ k then some (k - 2 ^ 24) else none)
  let f := lowestFree used (used.length + 1) 0
  if f < s.fld PGM_DRAM_FRAMES PGM_DRAM_FRAMES_DRAM_FRAMES then some f else none

/-- Address of DRAM frame `f` (R301). -/
def State.dramFrameAt (s : State) (f : Nat) : Nat := s.pair PGM_DRAM_BASE_LO / 4096 * 4096 + 4224 * f

/-- Payload and sidecar of a frame by its key (R298-R301). -/
def State.frameBytes (s : State) (k : Nat) : List Byte :=
  if 2 ^ 24 ≤ k then s.dread (s.dramFrameAt (k - 2 ^ 24)) 4224
  else
    match s.poolOf (k / 64) with
    | some p => s.tread (k / 64) (p.poolBase + 4096 * (k % 64)) 4096 ++ s.tread (k / 64) (p.sideBase + 128 * (k % 64)) 128
    | none => zeros 4224

/-- The page manager has written a local frame of a tile since the tile's last CKPT (R302). -/
def State.noteFrame (s : State) (k : Nat) : State :=
  { s with tiles := tupd s.tiles (k / 64) (fun x => { x with newFrames := if x.newFrames.contains (k % 64) then x.newFrames else k % 64 :: x.newFrames }) }

/-- Write payload and sidecar of a frame. -/
def State.setFrame (s : State) (k : Nat) (l : List Byte) : State :=
  if 2 ^ 24 ≤ k then s.dwrite (s.dramFrameAt (k - 2 ^ 24)) l
  else
    match s.poolOf (k / 64) with
    | some p =>
      ((s.twrite (k / 64) (p.poolBase + 4096 * (k % 64)) (l.take 4096)).twrite (k / 64) (p.sideBase + 128 * (k % 64)) (l.drop 4096)).noteFrame k
    | none => s

/-- A frame's sidecar reads 0 (R299). -/
def State.clearSide (s : State) (k : Nat) : State :=
  match s.poolOf (k / 64) with
  | some p => (s.twrite (k / 64) (p.sideBase + 128 * (k % 64)) (zeros 128)).noteFrame k
  | none => s

/-- An entry that names another frame by its key. -/
def Pte.at_ (e : Pte) (k : Nat) : Pte := if 2 ^ 24 ≤ k then { e with tier := .dram, frame := k - 2 ^ 24 } else { e with tier := .chip, frame := k }

/-- Every entry that names a frame names another one, a prefix's own entries included, and the references go with them (R311, R314). -/
def State.renameFrame (s : State) (k k' : Nat) : State :=
  let f (ts : List (List Pte)) : List (List Pte) := ts.map (fun t => t.map (fun e => if frameKey e = some k then e.at_ k' else e))
  { s with seqs := tmap s.seqs (fun _ q => { q with tables := f q.tables }), prefixes := s.prefixes.map (fun p => { p with tables := f p.tables })
           refs := tset 0 (tset 0 s.refs k 0) k' (tget 0 s.refs k) }

/-- One reference more to a frame (R311). -/
def State.ref (s : State) (k : Nat) : State := { s with refs := tset 0 s.refs k (tget 0 s.refs k + 1) }

/-- The home tile of page `i` of a KV set (R306). -/
def KvSet.home (k : KvSet) (i : Nat) : Nat := k.firstHome + min (i / k.pagesPerPart) (k.npart - 1)

/-! ### Page tables -/

/-- An entry of a sequence's page table. -/
def Seq.pte (q : Seq) (set page : Nat) : Pte := (q.tables.getD set []).getD page default

/-- Set an entry; the one after the last extends the table. -/
def setPte (tables : List (List Pte)) (set page : Nat) (e : Pte) : List (List Pte) :=
  tables.set set (let t := tables.getD set []; if page < t.length then t.set page e else t ++ [e])

/-- Positions that a page table holds slots for. -/
def tableFill (t : List Pte) : Nat := (t.map (·.fill)).foldl (· + ·) 0

/-- Keys that a sequence holds: LEN of R319. -/
def Seq.len (q : Seq) : Nat := tableFill (q.tables.getD 0 [])

/-- CHIP frames that a sequence names. -/
def Seq.chips (q : Seq) : List Nat := (q.tables.flatMap id).filterMap (fun e => if e.tier = .chip then some e.frame else none)

/-- Page tables of the prefix of a sequence's model (R311). -/
def State.prefixOf (s : State) (pb m : Nat) : Option Prefix := s.prefixes.find? (fun p => p.playbook == pb && p.model == m)

/-- Length of the prefix of a sequence. -/
def State.prefixLen (s : State) (q : Seq) : Nat := ((s.model q.playbook q.model).map (·.prefixTokens.length)).getD 0

/-- Positions that the next step of a sequence needs: those of its prefix, of the steps done, and the one it appends (R307). -/
def State.needPositions (s : State) (q : Seq) : Nat := s.prefixLen q + q.lastStep + 1

/-- A new request; one for the same page is not repeated. -/
def State.addReq (s : State) (r : FrameReq) : State :=
  if s.reqs.any (fun x => x.2.seq == r.seq && x.2.set == r.set && x.2.page == r.page) then s
  else { s with reqs := tput s.reqs s.nextReq r, nextReq := s.nextReq + 1 }

/-- A request of a sequence for a page. -/
def State.reqOf (s : State) (i set page tile fill : Nat) (copy : Option Nat) : FrameReq :=
  let e := s.item i
  { seq := i, set := set, page := page, tile := tile, part := e.part, cls := e.cls, since := s.tb, waiting := false, preempted := false, copyOf := copy, fill := fill }

/-- One entry of a prefix for a sequence that starts from it: the entry with one reference more; where the frame can take none, an entry without a frame, and a request for a private copy on the page's home tile `home` (R306, R311). -/
def State.shareEntry (s : State) (i set page home : Nat) (e : Pte) : State :=
  let put (s : State) (e : Pte) : State := s.modSeq i (fun q => { q with tables := setPte q.tables set page e })
  match frameKey e with
  | none => put s e
  | some k =>
    if tget 0 s.refs k < 65535 then (put s e).ref k
    else (put s { tier := .none, fill := e.fill, frame := 0 }).addReq (s.reqOf i set page home e.fill (some k))

/-- A sequence starts from its model's prefix: it copies the prefix's entries (R311). -/
def State.sharePrefix (s : State) (i : Nat) : State :=
  match tfind s.seqs i with
  | none => s
  | some q =>
    if q.sharedPrefix then s
    else
      match s.prefixOf q.playbook q.model with
      | none => s
      | some p =>
        let s := s.modSeq i (fun q => { q with tables := p.tables.map (fun _ => []), sharedPrefix := true })
        (List.range p.tables.length).foldl (fun s k =>
          let t := p.tables.getD k []
          let home (n : Nat) : Nat := (((s.model q.playbook q.model).bind (fun m => m.kv[k]?)).getD default).home n
          (List.range t.length).foldl (fun s n => s.shareEntry i k n (home n) (t.getD n default)) s) s

/-- Entries that hold no more than `n` positions: the last page of a prefix keeps the slots of the prefix (R307, R312). -/
def clipFill (n : Nat) (t : List Pte) : List Pte := (List.range t.length).map (fun i => let e : Pte := t.getD i default; ({ e with fill := min e.fill (n - 16 * i) } : Pte))

/-- Sequences of a model that wait for their first prefill start from the prefix that is there now (R311; log entry 40). -/
def State.startShared (s : State) (pb m : Nat) : State :=
  s.ready.foldl (fun s r =>
    match tfind s.seqs r.item, s.model pb m with
    | some q, some x =>
      if r.job.isNone && q.playbook = pb && q.model = m && !q.sharedPrefix && q.tables.all List.isEmpty && r.info = x.prefillJob then
        let s := s.sharePrefix r.item
        { s with ready := s.ready.map (fun y => if y.item = r.item && y.job.isNone then { y with info := x.decodeJob } else y) }
      else s
    | _, _ => s) s

/-- The first sequence whose prefill wrote a prefix leaves it to the prefix table, which holds at most 1,024; the last page, which then is shared, holds the prefix's positions alone (R311, R312; log entry 40). -/
def State.makePrefix (s : State) (i : Nat) : State :=
  match tfind s.seqs i with
  | none => s
  | some q =>
    let len := s.prefixLen q
    if len = 0 || q.sharedPrefix then s
    else if (s.prefixOf q.playbook q.model).isSome || 1024 ≤ s.prefixes.length then s.modSeq i (fun q => { q with sharedPrefix := true })
    else
      let n := cdiv len 16
      let ts := q.tables.map (fun t => clipFill len (t.take n))
      let s := ((ts.flatMap id).filterMap frameKey).foldl State.ref s
      let s := s.modSeq i (fun q => { q with sharedPrefix := true, tables := q.tables.map (fun t => if t.length ≤ n then clipFill len t else t) })
      let x : Prefix := { playbook := q.playbook, model := q.model, tables := ts }
      let s := { s with prefixes := s.prefixes ++ [x] }
      s.startShared q.playbook q.model

/-- The prefix of a model is released (R311, R402). -/
def State.dropPrefix (s : State) (pb m : Nat) : State :=
  match s.prefixOf pb m with
  | none => s
  | some p =>
    let s := ((p.tables.flatMap id).filterMap frameKey).foldl State.unref s
    { s with prefixes := s.prefixes.filter (fun x => !(x.playbook == pb && x.model == m)) }

/-! ### Requests (R307, R312, R318-R321) -/

/-- Order of requests: LC before BE, earlier deadline with 0 as latest, lower index (R318). -/
def State.reqBefore (s : State) (a b : FrameReq) : Bool :=
  let d (r : FrameReq) : Nat := if (s.item r.seq).deadline = 0 then 2 ^ 48 else (s.item r.seq).deadline
  if a.cls ≠ b.cls then a.cls == .lc
  else if d a ≠ d b then
    (if d a = 2 ^ 48 then false else if d b = 2 ^ 48 then true else decide (nsDiff (d a) (d b) < 0))
  else decide (a.seq ≤ b.seq)

/-- Reserve the slots that a sequence's next step needs in one KV set, page by page: `n` pages at most; asks for a frame where none serves (R307, R312). -/
def State.reserveSet (s : State) (i set : Nat) (k : KvSet) (goal : Nat) : Nat → State
  | 0 => s
  | n + 1 =>
    match tfind s.seqs i with
    | none => s
    | some q =>
      let t := q.tables.getD set []
      let mk (page fill : Nat) (copy : Option Nat) : FrameReq := s.reqOf i set page (k.home page) fill copy
      match (List.range t.length).find? (fun p => (t.getD p default).tier == .dropped) with
      | some p => s.addReq (mk p (min 16 (goal - 16 * p)) none)
      | none =>
        if goal ≤ 16 * (t.length - 1) + (t.getLast?.map (·.fill)).getD 0 && t ≠ [] then s
        else if t = [] || (t.getLast?.map (·.fill)).getD 0 = 16 then s.addReq (mk t.length (min 16 (goal - 16 * t.length)) none)
        else
          let p := t.length - 1
          let l := t.getD p default
          let fill := min 16 (goal - 16 * p)
          if l.tier ≠ .chip then s
          else if tget 0 s.refs l.frame ≤ 1 then
            State.reserveSet (s.modSeq i (fun q => { q with tables := setPte q.tables set p { l with fill := fill } })) i set k goal n
          else s.addReq (mk p fill (some l.frame))

/-- Reserve what a sequence's next step needs in all its KV sets. -/
def State.reserve (s : State) (i : Nat) : State :=
  match tfind s.seqs i with
  | none => s
  | some q =>
    match s.model q.playbook q.model with
    | none => s
    | some m =>
      let goal := s.needPositions q
      (List.range m.kv.length).foldl (fun s k => s.reserveSet i k (m.kv.getD k default) goal (goal / 16 + 2)) s

/-- Every frame of a sequence is resident, and nothing is in transit: neither a frame of it nor a drop (R315, R316). -/
def State.resident (s : State) (i : Nat) : Bool :=
  match tfind s.seqs i with
  | none => false
  | some q =>
    q.tables.all (fun t => t.all (fun e => e.tier == .chip && !s.xfers.any (fun x => x.2.frames.contains e.frame)))
    && !s.xfers.any (fun x => match x.2 with
      | .drop j _ => j == i
      | _ => false)

/-- A sequence's next step has its slots: every page resident, every position reserved, the last one in an unshared frame (R307, R316). -/
def State.pagesReady (s : State) (i : Nat) : Bool :=
  match tfind s.seqs i with
  | none => false
  | some q =>
    let goal := s.needPositions q
    s.resident i && q.tables.all (fun t => decide (goal ≤ tableFill t) && tget 0 s.refs (t.getD ((goal - 1) / 16) default).frame ≤ 1)
    && !s.reqs.any (fun r => r.2.seq == i)

/-- A transfer begins. -/
def State.addXfer (s : State) (x : Xfer) : State := { s with xfers := tput s.xfers s.nextXfer x, nextXfer := s.nextXfer + 1 }

/-- A request is served with local frame `f`: its entry names the frame, whose sidecar reads 0 (R299), or a copy of the shared frame or a prefetch begins (R312, R316, R319). A request that has no object any more goes. -/
def State.serveReq (s : State) (n : Nat) (r : FrameReq) (f : Nat) : State :=
  let k := chipKey r.tile f
  let s := { s with reqs := tdel s.reqs n }
  let s := if r.cls = .lc then s.setNum PGM_WAIT_MAX (max (s.num PGM_WAIT_MAX) (min 0xFFFFFFFF (s.tb - r.since))) else s
  match tfind s.seqs r.seq with
  | none => s
  | some q =>
    let e := q.pte r.set r.page
    if q.ending ≠ .running then s
    else
      match r.copyOf with
      | some src => s.addXfer (.cow r.seq r.set r.page src k)
      | none =>
        match e.tier with
        | .chip => s
        | .dram => s.addXfer (.prefetch r.seq r.set r.page (dramKey e.frame) k)
        | _ => ((s.modSeq r.seq (fun q => { q with tables := setPte q.tables r.set r.page { tier := .chip, fill := r.fill, frame := k } })).ref k).clearSide k

/-- The BE sequences of a partition with unlocked CHIP frames of one reference on a tile: (sequence, its pages there as (set, page)) (R319). -/
def State.candidates (s : State) (p t : Nat) : List (Nat × List (Nat × Nat)) :=
  s.seqs.filterMap (fun q =>
    let e := s.item q.1
    if e.cls = .be && e.part = p && e.state ≠ .done && e.state ≠ .free then
      let ps := (List.range q.2.tables.length).flatMap (fun k =>
        (List.range (q.2.tables.getD k []).length).filterMap (fun i =>
          let x := q.2.pte k i
          if x.tier = .chip && x.frame / 64 = t && tget 0 s.refs x.frame = 1 && !s.locked x.frame then some (k, i) else none))
      if ps = [] then none else some (q.1, ps)
    else none)

/-- The candidate of step 2: the sequence with the largest LEN, the lower index of equals, and its lowest page. -/
def State.spillChoice (s : State) (cs : List (Nat × List (Nat × Nat))) : Option (Nat × Nat × Nat) :=
  let len (i : Nat) : Nat := ((tfind s.seqs i).map Seq.len).getD 0
  let best := cs.foldl (fun (b : Option (Nat × List (Nat × Nat))) c =>
    match b with
    | none => some c
    | some d => if len d.1 < len c.1 || (len d.1 = len c.1 && c.1 < d.1) then some c else some d) none
  best.bind (fun c =>
    (c.2.foldl (fun (b : Option (Nat × Nat)) p =>
      match b with
      | none => some p
      | some d => if p.2 < d.2 then some p else some d) none).map (fun p => (c.1, p.1, p.2)))

/-- A sequence is dropped before another: lower progress, then later OPEN_STAMP, then higher index (R323). -/
def State.dropBefore (s : State) (a b : Nat × Seq) : Bool :=
  let o := nsDiff (s.item a.1).openStamp (s.item b.1).openStamp
  a.2.lastStep < b.2.lastStep || (a.2.lastStep = b.2.lastStep && (0 < o || (o = 0 && b.1 < a.1)))

/-- The sequence that step 3 drops: none of its frames is locked, and it holds one; none where a BE requester itself has the lowest progress (R320, R323). -/
def State.dropChoice (s : State) (r : FrameReq) : Option Nat :=
  let cs := s.seqs.filter (fun q =>
    let e := s.item q.1
    e.cls == .be && e.part == r.part && e.state != .done && e.state != .free && q.2.ending == .running
      && (q.1 == r.seq
        || ((q.2.tables.flatMap id).any (fun x => x.tier == .chip || x.tier == .dram) && ((q.2.tables.flatMap id).filterMap frameKey).all (fun k => !s.locked k))))
  let best := cs.foldl (fun (b : Option (Nat × Seq)) c =>
    match b with
    | none => some c
    | some d => if s.dropBefore c d then some c else some d) none
  (best.map (·.1)).filter (fun i => i != r.seq)

/-- DRAM frames that count against a partition's budget: those it holds, and those that spills under way will take (R314). -/
def State.dramClaimed (s : State) (p : Nat) : Nat :=
  s.dramUsed p + (s.xfers.filter (fun x => match x.2 with
    | .spill i _ _ _ _ _ => (s.item i).part == p
    | _ => false)).length

/-- A spill or a drop is under way for a request: the page manager serves one request at a time (R318). -/
def State.reqBusy (s : State) : Bool :=
  s.xfers.any (fun x => match x.2 with
    | .spill _ _ _ _ _ q => q.isSome
    | .drop _ q => q.isSome
    | _ => false)

/-- Steps 1 to 3 of R319 for one request: served, a spill or a drop begins for it, or nothing serves it (false). -/
def State.tryReq (s : State) (n : Nat) (r : FrameReq) : State × Bool :=
  match s.freeLocal r.tile with
  | some f => (s.serveReq n r f, true)
  | none =>
    let cs := s.candidates r.part r.tile
    if cs = [] then (s, false)
    else
      match decide (s.dramClaimed r.part < s.fld (PGM_PART_DRAM r.part) PGM_PART_DRAM_BUDGET), s.freeDram, s.spillChoice cs with
      | true, some d, some (i, set, page) =>
        let c := ((tfind s.seqs i).map (fun q => (q.pte set page).frame)).getD 0
        (s.addXfer (.spill i set page c d (some n)), true)
      | _, _, _ =>
        match s.dropChoice r with
        | some i => (s.addXfer (.drop i (some n)), true)
        | none => (s, false)

/-- A job locks a frame on a tile: it names one, or a command of its tiles has read one since the last CKPT (R315). -/
def State.jobLocks (s : State) (j : Job) (t : Nat) : Bool :=
  (j.frames ++ ((List.range j.count).map (· + j.first)).flatMap (fun u => (tget default s.tiles u).readFrames)).any (fun k => k / 64 == t && k < 2 ^ 24)

/-- A job whose pre-emption a request has asked for has yet to reach its cut (R319, step 5). -/
def State.cutsDue (s : State) (r : FrameReq) : Bool := s.jobs.any (fun j => j.2.preempt && j.2.saved.isEmpty && j.2.part == r.part && s.jobLocks j.2 r.tile)

/-- An LC request fails: its SEQUENCE ends NO_FRAME (R321). -/
def State.failReq (s : State) (n : Nat) (r : FrameReq) : State :=
  let s := { s with reqs := (tdel s.reqs n).filter (fun x => x.2.seq != r.seq) }
  let s := s.setNum PGM_WAIT_MAX (max (s.num PGM_WAIT_MAX) (min 0xFFFFFFFF (s.tb - r.since)))
  let s := (s.incFld PGM_DROP_CNT PGM_DROP_CNT_NO_FRAME_CNT).raise PGM_IRQ_STAT 0
  s.endSeq r.seq .noFrame

/-- The first request in the order of R318 among those that do not wait for a frame to be freed. -/
def State.firstReq (s : State) : Option (Nat × FrameReq) :=
  (s.reqs.filter (fun r => !r.2.waiting)).foldl (fun (b : Option (Nat × FrameReq)) r =>
    match b with
    | none => some r
    | some c => if s.reqBefore r.2 c.2 then some r else some c) none

/-- Steps 1 to 3 serve no frame: the request waits, or fails where the pre-emption of step 5 is behind it (R319, R320). -/
def State.unserved (s : State) (n : Nat) (r : FrameReq) : State :=
  if r.preempted && !s.cutsDue r then s.failReq n r else { s with reqs := tupd s.reqs n (fun r => { r with waiting := true }) }

/-- The page manager serves requests one at a time, in the order of R318, at most `n` of them; a spill or drop for one holds the others up. -/
def State.serveReqs (s : State) : Nat → State
  | 0 => s
  | n + 1 =>
    if s.reqBusy then s
    else
      match s.firstReq with
      | none => s
      | some (i, r) =>
        match s.tryReq i r with
        | (s', true) => State.serveReqs s' n
        | (_, false) => State.serveReqs (s.unserved i r) n

/-- A frame was freed or unlocked on a tile: the requests that wait there return to step 1 (R319). -/
def State.frameFreed (s : State) (t : Nat) : State :=
  let s := { s with reqs := tmap s.reqs (fun _ r => if r.tile = t then { r with waiting := false } else r) }
  s.serveReqs s.reqs.length

/-- The next job of a dropped sequence is the prefill: the one that waits for it, or a new one where a job that left its tiles serves it (R325). -/
def State.prefillNext (s : State) (i : Nat) : State :=
  match tfind s.seqs i with
  | none => s
  | some q =>
    match s.model q.playbook q.model, s.seqCtx i q with
    | some m, some c =>
      if s.ready.any (fun r => r.item == i && r.job.isNone) then
        { s with ready := s.ready.map (fun r => if r.item = i && r.job.isNone then { r with info := m.prefillJob } else r) }
      else if s.jobs.any (fun j => j.2.seqs.contains i && !j.2.saved.isEmpty) then s.addReady c m.prefillJob i
      else s
    | _, _ => s

/-- Entries of a sequence that `gone` picks lose their frames: the pages are to be computed again (R325). -/
def State.loseEntries (s : State) (i : Nat) (gone : Pte → Bool) : State :=
  match tfind s.seqs i with
  | none => s
  | some q =>
    let all := (List.range q.tables.length).flatMap (fun k => (List.range (q.tables.getD k []).length).map (fun p => (k, p)))
    let s := (all.filter (fun x => gone (q.pte x.1 x.2))).foldl (fun s x =>
      ((frameKey (q.pte x.1 x.2)).elim s s.unref).modSeq i (fun q => { q with tables := setPte q.tables x.1 x.2 { tier := .dropped, fill := 0, frame := 0 }, lost := addPages q.lost [x.2] })) s
    if all.any (fun x => gone (q.pte x.1 x.2)) then s.prefillNext i else s

/-- A drop: every frame of the sequence with one reference is freed, its entry DROPPED with FILL 0; the prefill writes those pages again when the sequence next runs (R324, R325). -/
def State.dropSeq (s : State) (i : Nat) : State :=
  match tfind s.seqs i with
  | none => s
  | some q =>
    if ((q.tables.flatMap id).filterMap frameKey).any s.locked then s
    else
      let own (e : Pte) : Bool := (frameKey e).any (fun k => tget 0 s.refs k == 1)
      ((((s.loseEntries i own).incFld PGM_DROP_CNT PGM_DROP_CNT_DROP_CNT).raise PGM_IRQ_STAT 1).prefillNext i)

/-- A CHIP frame moves to a DRAM frame: both copies are equal, every entry that named it names the DRAM frame (R314). -/
def State.spillNow (s : State) (c d : Nat) : State :=
  if tget 0 s.refs c = 0 then s
  else (((s.setFrame (dramKey d) (s.frameBytes c)).renameFrame c (dramKey d)).incReg PGM_SPILL_CNT)

end Sys2Proof.Machine
end

