-- ==== Sys2Proof/Machine/Jobs.lean ====
section
/-! DEFINITION. Partitions, contexts and jobs as shared operations: regulators, boundaries, the dispatcher of a tile, cuts, the end of a job, program faults, teardown, residency (R206-R237, R383-R409). -/

namespace Sys2Proof.Machine

/-! ### Access -/

/-- A logical tile. -/
def State.tileSt (s : State) (t : Nat) : Tile := tget default s.tiles t

/-- Change a logical tile. -/
def State.modTile (s : State) (t : Nat) (f : Tile → Tile) : State := { s with tiles := tput s.tiles t (f (s.tileSt t)) }

/-- A context. -/
def State.ctxSt (s : State) (c : Nat) : Ctx := tget default s.ctxs c

/-- Change a context. -/
def State.modCtx (s : State) (c : Nat) (f : Ctx → Ctx) : State := { s with ctxs := tput s.ctxs c (f (s.ctxSt c)) }

/-- Change a job. -/
def State.modJob (s : State) (j : Nat) (f : Job → Job) : State := { s with jobs := tupd s.jobs j f }

/-- A job of a playbook's schedule table. -/
def State.jobInfo (s : State) (pb info : Nat) : JobInfo := ((s.playbook pb).bind (fun p => p.jobs[info]?)).getD default

/-- Logical tiles of a job. -/
def Job.tiles (j : Job) : List Nat := (List.range j.count).map (· + j.first)

/-- A job holds its tiles, unless it was pre-empted (R228). -/
def Job.holding (j : Job) : Bool := j.saved.isEmpty

/-- SCH_STAT shows the contexts defined and resident (R415). -/
def State.freshSch (s : State) : State :=
  (s.setFld SCH_STAT SCH_STAT_DEFINED (s.ctxs.filter (fun c => c.2.state != .undefined)).length).setFld SCH_STAT SCH_STAT_RESIDENT
    (s.ctxs.filter (fun c => c.2.state == .resident)).length

/-! ### Usable groups (R233, R409) -/

/-- Every tile of a group is mapped (R409). -/
def State.groupUsable (s : State) (g : Nat) : Bool := (List.range 16).all (fun k => (s.physOf (16 * g + k)).isSome)

/-- Groups of a partition. -/
def PartSt.groupList (p : PartSt) : List Nat := (List.range p.groups).map (· + p.first)

/-- Usable groups of a partition. -/
def State.usable (s : State) (p : Nat) : Nat := ((s.partSt p).groupList.filter s.groupUsable).length

/-! ### Tables and boundaries (R391-R397) -/

/-- A table by its playbook and place there. -/
def State.cyclicAt (s : State) (t : Nat × Nat) : Option CycTable := (s.playbook t.1).bind (fun b => b.cyclic[t.2]?)

/-- The active table of a partition. -/
def State.activeTable (s : State) (p : Nat) : Option CycTable := (s.partSt p).table.bind s.cyclicAt

/-- The table registers of a partition are brought up to date (R415). -/
def State.freshPart (s : State) (p : Nat) : State :=
  let a := SCH_PART_TABLE p
  ((s.setFld a SCH_PART_TABLE_HALTED (b2n (s.partSt p).halted)).setFld a SCH_PART_TABLE_USABLE (s.usable p)).setFld a SCH_PART_TABLE_TABLE_ID
    (((s.activeTable p).map (·.id)).getD 0)

/-- The variant of a table that is built for the usable groups of a partition: of the same identifier before others (R409; log entry 49). -/
def State.variantFor (s : State) (p : Nat) (tab : Nat × Nat) : Option (Nat × Nat) :=
  (s.cyclicAt tab).bind (fun t =>
    let ts := ((s.playbook tab.1).map Playbook.cyclic).getD []
    let fit := ((List.range ts.length).zip ts).filter (fun x => x.2.vgroups == s.usable p)
    ((fit.find? (fun x => x.2.id == t.id)).or fit.head?).map (fun x => (tab.1, x.1)))

/-- The table that the next major frame of a partition begins with: the one selected, else the one active, in the variant that is due (R393, R409). -/
def State.tableAfter (s : State) (p : Nat) : Option CycTable :=
  let x := s.partSt p
  ((x.nextTable.or x.table).bind (fun t => if x.variantDue then s.variantFor p t else some t)).bind s.cyclicAt

/-- The slot that is open in a partition. -/
def State.openSlot (s : State) (p : Nat) : Option Slot :=
  (s.activeTable p).bind (fun t => (s.partSt p).slot.bind (fun i => t.slots[i]?))

/-- The next slot of a partition and its start in ns of fabric time: in this major frame, else the first of the next. -/
def State.nextSlotStart (s : State) (p : Nat) : Option (Nat × Slot) :=
  match s.activeTable p with
  | none => none
  | some t =>
    let x := s.partSt p
    match t.slots[x.nextSlot]? with
    | some l => some ((x.frameStart + l.start * 10000) % 2 ^ 48, l)
    | none => ((s.tableAfter p).bind (fun u => u.slots[0]?)).map (fun l => ((x.frameStart + t.major * 10000 + l.start * 10000) % 2 ^ 48, l))

/-- The sequences of a context: those whose work runs in it (R390). -/
def State.seqsOf (s : State) (c : Nat) : Tbl Seq := s.seqs.filter (fun q => (s.item q.1).state != .free && s.seqCtx q.1 q.2 == some c)

/-- CHIP frames that eviction of a context spills: unlocked ones whose every referencing sequence belongs to it, template frames among them, each once (R315, R317, R404). -/
def State.ownFrames (s : State) (c : Nat) : List Nat :=
  let mine := s.seqsOf c
  let others := (s.seqs.filter (fun q => (tfind mine q.1).isNone)).flatMap (fun q => q.2.chips)
  (mine.flatMap (fun q => q.2.chips)).eraseDups.filter (fun k => !others.contains k && !s.locked k)

/-- T_sw over an outgoing context in ns (R405): 3 µs, its live bytes at 32 GiB/s, 40 ns for each spilled frame. -/
def State.switchCost (s : State) (c : Nat) : Nat :=
  3000 + cdiv ((s.ctxSt c).live * 1000000000) (2 ^ 35) + (s.ownFrames c).length * 40

/-- A context has a job whose inputs are present (R403). -/
def State.runnable (s : State) (c : Nat) : Bool := s.ready.any (fun r => r.ctx == c)

/-- The context to evict for an incoming one, and whether it must first reach a cut (R403). -/
def State.evictChoice (s : State) (c : Nat) : Option (Nat × Bool) :=
  let x := s.ctxSt c
  let res := s.ctxs.filter (fun y => y.2.state == .resident && y.2.part == x.part && y.1 != c)
  let named (k : Nat) : Bool := ((s.activeTable x.part).map (fun t => t.slots.any (fun l => l.ctx == k))).getD false
  let blocked (y : Nat × Ctx) : Bool := !s.runnable y.1 && !s.jobs.any (fun j => j.2.ctx == y.1 && j.2.holding)
  let pick (l : List (Nat × Ctx)) : Option Nat :=
    (l.foldl (fun (b : Option (Nat × Ctx)) y =>
      match b with
      | none => some y
      | some z => if y.2.lastRun < z.2.lastRun || (y.2.lastRun = z.2.lastRun && y.1 < z.1) then some y else some z) none).map (·.1)
  if x.cls = .be then (pick (res.filter (fun y => blocked y && (y.2.cls == .be || !named y.1)))).map (fun y => (y, false))
  else
    match pick (res.filter blocked) with
    | some y => some (y, false)
    | none => (pick (res.filter (fun y => y.2.cls == .be))).map (fun y => (y, true))

/-- Resident contexts of a partition. -/
def State.residents (s : State) (p : Nat) : Nat := (s.ctxs.filter (fun y => y.2.state == .resident && y.2.part == p)).length

/-- The boundary of a context's next interval in ns of fabric time: some none for no limit, none for an LC context outside its slots (R394, R395). -/
def State.boundary (s : State) (c : Nat) : Option (Option Nat) :=
  let x := s.ctxSt c
  let p := s.partSt x.part
  if x.cls = .lc then
    match s.openSlot x.part with
    | some l => if l.ctx = c then some (some p.slotEndTb) else none
    | none => none
  else
    match s.nextSlotStart x.part with
    | none => some none
    | some (t, l) =>
      let cost :=
        if (s.ctxSt l.ctx).state = .resident || s.residents x.part < p.resMax then 0
        else match s.evictChoice l.ctx with
          | some (y, _) => s.switchCost y
          | none => 0
      some (some ((t + 2 ^ 48 - cost) % 2 ^ 48))

/-- The next interval of a job of a context ends before its boundary (R395). -/
def State.fits (s : State) (c wcet : Nat) : Bool :=
  match s.boundary c with
  | none => false
  | some none => true
  | some (some b) => decide (nsDiff ((ns48 s.now + wcet) % 2 ^ 48) b < 0)

/-! ### Residency and switching (R403-R405, R564) -/

/-- The page manager makes room in DRAM for a frame that an eviction spills where every DRAM frame is taken: the BE sequence of the partition with the lowest progress is dropped (R323, R404; log entry 94). -/
def State.roomDram (s : State) (p : Nat) : State :=
  if s.freeDram.isSome then s else (s.dropChoice { (default : FrameReq) with part := p }).elim s s.dropSeq

/-- Evict a resident context: its frames are spilled, its live regions saved (R403, R404). -/
def State.evict (s : State) (c : Nat) : State :=
  let p := (s.ctxSt c).part
  let s := (s.ownFrames c).foldl (fun s k =>
    let s := s.roomDram p
    s.freeDram.elim s (fun d => s.spillNow k d)) s
  ((s.modCtx c (fun x => { x with state := .idle, evicts := x.evicts + 1 })).incReg SCH_SWITCH_CNT).freshSch

/-- A switch begins: context `y` leaves, context `c` is to be resident once T_sw and the further wait for its live bytes are over (R405). -/
def State.startSwitch (s : State) (y c : Nat) : State :=
  let x := s.ctxSt c
  let cost := s.switchCost y + cdiv ((x.live - (s.ctxSt y).live) * 1000000000) (2 ^ 35)
  (s.evict y).modPart x.part (fun p => { p with switchIn := some c, switchTb := s.tb + cost, evictee := none })

/-- The switch that waited for a context to reach its cut begins once none of its jobs holds tiles; it is off where the incoming context no longer waits (R403). -/
def State.evictAfter (s : State) (p : Nat) : State :=
  match (s.partSt p).evictee with
  | none => s
  | some (y, c) =>
    if (s.ctxSt c).state ≠ .idle || (s.ctxSt y).state ≠ .resident then s.modPart p (fun x => { x with evictee := none })
    else if (s.partSt p).switchIn.isSome || s.jobs.any (fun j => j.2.ctx == y && j.2.holding) then s
    else s.startSwitch y c

/-! ### Accounts (R396, R398, R410) -/

/-- Charge the time a job ran to its context: tile time, overrun debt, deficit (R396, R398, R410). -/
def State.chargeRun (s : State) (j : Job) : State :=
  let dt := s.tb - j.startTb
  let late : Nat := match j.boundary with
    | some b => (nsDiff (ns48 s.now) b).toNat
    | none => 0
  let groups := (s.partSt j.part).groups
  let s := s.modCtx j.ctx (fun x => { x with
    tileTime := x.tileTime + j.count * dt, debt := x.debt + late, lastRun := s.tb
    deficit := if x.cls = .be then x.deficit - (dt : Rat) / 1000 * ((j.count / 16 : Nat) : Rat) / (groups : Rat) else x.deficit })
  if late = 0 then s else s.incReg (SCH_PART_OVERRUN j.part)

/-- BE contexts of a partition, ascending. -/
def State.beCtxs (s : State) (p : Nat) : List (Nat × Ctx) :=
  s.ctxs.filter (fun y => y.2.part == p && y.2.cls == .be && (y.2.state == .idle || y.2.state == .resident))

/-- What a round gives a BE context: WEIGHT × BE_QUANTUM_US, in µs. -/
def State.quantum (s : State) (x : Ctx) : Nat := x.weight * s.fld SCH_BE_CFG SCH_BE_CFG_BE_QUANTUM_US

/-- A round ends: a context without a ready job keeps no positive deficit (R398). -/
def State.endRound (s : State) (p : Nat) : State :=
  let s := (s.beCtxs p).foldl (fun s y => if !s.runnable y.1 && decide (0 < y.2.deficit) then s.modCtx y.1 (fun x => { x with deficit := 0 }) else s) s
  s.modPart p (fun p => { p with round := [], roundOver := true })

/-- A round begins: every context gets its quantum, less its debt (R398). -/
def State.startRound (s : State) (p : Nat) : State :=
  let s := (s.beCtxs p).foldl (fun s y => s.modCtx y.1 (fun x => { x with deficit := x.deficit + (s.quantum x : Rat) - (x.debt : Rat) / 1000, debt := 0 })) s
  s.modPart p (fun p => { p with round := [], roundOver := false })

/-- The round of a partition goes on: a context with a positive deficit has a job that is ready or runs (R398; log entry 95). -/
def State.roundLives (s : State) (p : Nat) : Bool :=
  (s.beCtxs p).any (fun y => decide (0 < y.2.deficit) && (s.runnable y.1 || s.jobs.any (fun j => j.2.ctx == y.1 && j.2.holding && !j.2.atCut)))

/-- The round ends where nothing keeps it going; the next begins when a job is to be dispatched (R398; log entry 95). -/
def State.roundCheck (s : State) (p : Nat) : State := if (s.partSt p).roundOver || s.roundLives p then s else s.endRound p

/-- The checkpoint area of a logical tile (R224). -/
def State.ckptArea (s : State) (t : Nat) : Nat := s.pair PIT_CKPT_BASE_LO / 2 ^ 22 * 2 ^ 22 + 0x400000 * t

/-- Slot `k` of page `p` in a checkpoint area, in the order in which R224's text names its parts (log entry 46). -/
def State.slotPlace (s : State) (t p k : Nat) : Nat := s.ckptArea t + (2 * p + k) * 4096

/-- Copy a page of a tile's store to a slot of its checkpoint area (R224). -/
def State.pageToSlot (s : State) (t p k : Nat) : State := s.dramFrom (s.slotPlace t p k) 4096 (s.stores.filterMap (fun e => if e.1 / 4096 = 256 * t + p then some (e.1 % 4096, e.2) else none))

/-- Bytes of the live regions that a checkpointed tile's cut names (R228). -/
def Tile.liveBytes (x : Tile) : Nat := ((x.ckpt.map (·.live)).getD 0) * 4096

/-- A tile saved with the live pages of its checkpoint, the frame pool apart, which the page manager keeps; what its list buffer held is fetched again (R228, R404). -/
def State.saveTile (s : State) (t : Nat) : SavedTile :=
  let x := s.tileSt t
  let ps := (x.ckpt.map (·.pages)).getD []
  { tile := { x with buf := [] }
    data := (s.stores.filter (fun e => e.1 / 0x100000 = t && ps.contains (e.1 % 0x100000 / 4096) && !s.pooled t (e.1 % 0x100000))).map (fun e => (e.1 % 0x100000, e.2)) }

/-- Bytes of the live regions of a context: of its jobs on tiles, and of those that have left theirs (R228, R404, R405). -/
def State.liveOf (s : State) (c : Nat) : Nat :=
  ((s.jobs.filter (fun j => j.2.ctx == c)).flatMap (fun j => if j.2.holding then j.2.tiles.map (fun t => (s.tileSt t).liveBytes) else j.2.saved.map (fun x => x.2.tile.liveBytes))).foldl (· + ·) 0

/-- S_live of a context is brought up to date (R405). -/
def State.freshLive (s : State) (c : Nat) : State := let n := s.liveOf c; s.modCtx c (fun x => { x with live := n })

/-- The sequences of a job as they stand (R407). -/
def State.seqMarks (s : State) (seqs : List Nat) : Tbl Seq := seqs.filterMap (fun i => (tfind s.seqs i).map (fun q => (i, q)))

/-! ### Program faults (R235, R237) -/

/-- Fault codes of R235. -/
def fOpcode : Nat := 1
def fFormat : Nat := 2
def fAddr : Nat := 3
def fAlias : Nat := 4
def fWcet : Nat := 5
def fUnmapped : Nat := 6
def fMsgLen : Nat := 7
def fCut : Nat := 8
def fJournal : Nat := 9
def fPerm : Nat := 10
def fTimeout : Nat := 11
def fParam : Nat := 12

/-- The fault code of a command that reads an uncorrectable word (R529). -/
def fMem : Nat := 13

/-- Record a fault: the first after JOB_FAULT was cleared fills the fault registers (R235, R237). -/
def State.recordFault (s : State) (code op part t idx tag : Nat) : State :=
  let s :=
    if bit (s.num PIT_IRQ_STAT) 2 then s
    else
      (((((s.setFld PIT_FAULT_INFO PIT_FAULT_INFO_CODE code).setFld PIT_FAULT_INFO PIT_FAULT_INFO_OPCODE op).setFld PIT_FAULT_INFO PIT_FAULT_INFO_PART part).setFld
        PIT_FAULT_INFO PIT_FAULT_INFO_LTILE t).setFld PIT_FAULT_POS PIT_FAULT_POS_CMD_INDEX idx).setNum PIT_FAULT_JOB tag
  s.raise PIT_IRQ_STAT 2

/-- A checkpoint as a new job finds it: the list begins anew, the live pages and their slots stay (R224, R231). -/
def Ckpt.anew (k : Ckpt) : Ckpt := { k with pos := 0, sems := [], halos := [], no := 0, outSeq := 0, streamAt := none }

/-- A tile without a job: its checkpoint area and what LOADs have brought into its store stay, and a restore under way goes on. -/
def Tile.cleared (x : Tile) : Tile :=
  { (default : Tile) with restoring := x.restoring, fails := x.fails, ckpt := x.ckpt.map Ckpt.anew, prior := x.prior, newFrames := x.newFrames, loads := x.loads }

/-- Free the tiles of a job: its messages and slices go, its locks are released (R407). -/
def State.freeTiles (s : State) (j : Job) : State :=
  let s := (j.tiles.foldl (fun s t => s.modTile t Tile.cleared) s).trimEnds
  { s with msgs := s.msgs.filter (fun m => !(j.tiles.contains m.src || j.tiles.contains m.dst)), slices := s.slices.filter (fun e => !j.tiles.contains e.tile) }

/-- Requests that wait on tiles run again after locks were released there (R319, steps 5 and 6). -/
def State.retryReqs (s : State) (tiles : List Nat) : State := tiles.foldl (fun s t => s.frameFreed t) s

/-- The live regions of a job's tiles are discarded: no checkpoint holds them, and their pages are to be written out again (R407). -/
def State.dropLive (s : State) (j : Job) : State :=
  j.tiles.foldl (fun s t =>
    let ps := ((s.tileSt t).ckpt.map (fun k => k.slots.map (fun e => 256 * t + e.1))).getD []
    { s.modTile t (fun x => { x with ckpt := none, prior := none }) with dirty := addPages s.dirty ps }) s

/-- Every output that a job has written since its last cut is taken back: DRAM holds again what it held before the job's STOREs, and its sequences stand as they stood then, but for their page tables and for LIVE chunks that have been sent (R407). -/
def State.takeBack (s : State) (j : Job) : State :=
  let s := j.undo.foldl (fun s u => s.dwrite u.1 u.2) s
  j.marks.foldl (fun s m => s.modSeq m.1 (fun q =>
    { m.2 with tables := q.tables, sharedPrefix := q.sharedPrefix, lost := q.lost, liveChunk := q.liveChunk, ending := q.ending
               livePend := if q.liveChunk = m.2.liveChunk then m.2.livePend else [], liveSince := if q.liveChunk = m.2.liveChunk then m.2.liveSince else none })) s

/-- Tear a context down whose tiles stand at a command boundary (R407, steps 2 to 5): its outputs since the last cuts and the frames of its sequences are discarded, the fields that were running end CTX_FAULT. -/
def State.teardown (s : State) (c : Nat) : State :=
  let x := s.ctxSt c
  let js := s.jobs.filter (fun j => j.2.ctx == c)
  let items := (js.flatMap (fun j => j.2.item :: j.2.seqs) ++ x.rows).eraseDups
  let s := js.foldl (fun s j => (if j.2.holding && !j.2.atCut then s.chargeRun j.2 else s).takeBack j.2) s
  let s := js.foldl (fun s j =>
    let s := if j.2.holding then (s.freeTiles j.2).dropLive j.2 else s
    { s with jobs := tdel s.jobs j.1 }) s
  let s := { s with ready := s.ready.filter (fun r => !(r.ctx == c && r.job.isSome)) }
  let s := (s.seqsOf c).foldl (fun s q => s.loseEntries q.1 (fun e => (frameKey e).isSome)) s
  let s := s.modCtx c (fun x => { x with tearing := true, state := .faulted, live := 0, faults := x.faults + 1, rows := [] })
  let s := items.foldl (fun s i =>
    match tfind s.seqs i with
    | some _ => s.endSeq i .ctxFault
    | none =>
      match tfind s.regions i with
      | some r => if r.result.isNone then s.closeRegion i ((s.fieldList r.playbook r.model).map (fun t => blankField t .error .ctxFault)) else s
      | none => s) s
  let s := (s.raise SCH_IRQ_STAT 0).errorRec clsCtxFault (some x.part) c 0 (s.num PIT_FAULT_INFO) x.faultTag
  let s := s.freshSch
  ((s.retryReqs ((js.flatMap (fun j => j.2.tiles)))).evictAfter x.part).roundCheck x.part

/-- Tiles that the jobs of a context hold. -/
def State.ctxTiles (s : State) (c : Nat) : List Nat := (s.jobs.filter (fun j => j.2.ctx == c && j.2.holding)).flatMap (fun j => j.2.tiles)

/-- A tile is in the middle of a command: one of its engines has started one. -/
def Tile.inCommand (x : Tile) : Bool := [x.mac, x.vec, x.msg].any (fun q => q.head?.any (·.started))

/-- A context whose teardown has begun and is not done (R407, step 1). -/
def Ctx.stopping (x : Ctx) : Bool := x.tearing && x.state != .faulted

/-- The teardown of a context goes on once every tile of its jobs stands at a command boundary (R235, R407). -/
def State.tearIfIdle (s : State) (c : Nat) : State :=
  if (s.ctxSt c).stopping && !(s.ctxTiles c).any (fun t => (s.tileSt t).inCommand) then s.teardown c else s

/-- A context is to be torn down for the fault of a job with tag `tag`: its jobs are dispatched no more, and their tiles start no command (R235, R407, step 1). -/
def State.faultCtx (s : State) (c tag : Nat) : State :=
  let s := if (s.ctxSt c).tearing then s
    else ((s.ctxTiles c).foldl (fun s t => s.modTile t (fun x => { x with stopped := true })) s).modCtx c (fun x => { x with tearing := true, faultTag := tag })
  s.tearIfIdle c

/-- JOB_TAG of a context that is torn down although none of its jobs has faulted: that of a job in flight, 0 without one (R529, R538; log entry 96). -/
def State.someTag (s : State) (c : Nat) : Nat := ((s.jobs.find? (fun j => j.2.ctx == c)).map (fun j => j.2.tag)).getD 0

/-- The teardown of the context that a tile works for goes on where it waits for this tile. -/
def State.tearAt (s : State) (t : Nat) : State :=
  match (s.tileSt t).job.bind (fun j => tfind s.jobs j) with
  | some j => s.tearIfIdle j.ctx
  | none => s

/-- A tile without the command of an index. -/
def Tile.without (x : Tile) (idx : Nat) : Tile :=
  let f (q : List QCmd) : List QCmd := q.filter (fun c => c.index != idx)
  { x with mac := f x.mac, vec := f x.vec, msg := f x.msg, barrier := x.barrier.filter (fun c => c.index != idx) }

/-- A command of a tile faults or is refused: the fault is recorded and the owning context is torn down, once its other tiles have reached their next command boundary (R235, R407). -/
def State.jobFault (s : State) (t code op idx : Nat) : State :=
  match (s.tileSt t).job.bind (fun j => tfind s.jobs j) with
  | none => s
  | some j => ((s.recordFault code op j.part t idx j.tag).modTile t (fun x => x.without idx)).faultCtx j.ctx j.tag

/-! ### Cuts and the end of a job (R212, R224, R228, R396-R398) -/

/-- Remove a job that has ended. -/
def State.dropJob (s : State) (n : Nat) : State := { s with jobs := tdel s.jobs n }

/-- Positions that a prefill has computed again are counted: those of the pages lost that had been written before (R326). -/
def State.countRecomp (s : State) (i : Nat) : State :=
  match tfind s.seqs i with
  | none => s
  | some q =>
    let written := s.prefixLen q + q.lastStep
    (s.incReg PGM_RECOMP_CNT ((q.lost.map (fun p => min 16 (written - 16 * p))).foldl (· + ·) 0)).modSeq i (fun q => { q with lost := [] })

/-- A job ends: its tiles are free, its locks released, and the sequences it served go on (R212, R399). -/
def State.endJob (s : State) (n : Nat) : State :=
  match tfind s.jobs n with
  | none => s
  | some j =>
    let info := s.jobInfo j.playbook j.info
    let s := (((s.chargeRun j).freeTiles j).dropJob n).freshLive j.ctx
    let s := if info.recompute then (s.countRecomp j.item).makePrefix j.item else s
    let s := j.seqs.foldl (fun s i => s.stepReady i) s
    ((s.retryReqs j.tiles).evictAfter j.part).roundCheck j.part

/-- A job leaves its tiles at a cut, their state saved (R228); the scoreboard counts what R395 and R403 ask for (R410). -/
def State.preemptJob (s : State) (n : Nat) (counts : Bool) : State :=
  match tfind s.jobs n with
  | none => s
  | some j =>
    let saved := j.tiles.map (fun t => (t, s.saveTile t))
    let s := j.tiles.foldl (fun s t => s.modTile t Tile.cleared) s
    let s := (s.modJob n (fun j => { j with saved := saved, preempt := false, evicting := false, frames := [] })).modCtx j.ctx (fun x => { x with preempts := x.preempts + b2n (counts || j.evicting) })
    (s.retryReqs j.tiles).evictAfter j.part

/-- A cut is reached: accounts are settled; the job is pre-empted when pre-emption is asked for, its context has used its deficit, or its next interval does not fit; it becomes ready to go on (R228, R395, R396, R398). -/
def State.cutReached (s : State) (n : Nat) : State :=
  match tfind s.jobs n with
  | none => s
  | some j =>
    let s := (s.chargeRun j).freshLive j.ctx
    let marks := s.seqMarks j.seqs
    let s := s.modJob n (fun j => { j with atCut := true, interval := j.interval + 1, startTb := s.tb, cutNo := j.cutNo + 1, undo := [], marks := marks })
    let s := { s with ready := s.ready ++ [({ ctx := j.ctx, info := j.info, interval := j.interval + 1, item := j.item, since := s.tb, job := some n } : ReadyJob)] }
    let wcet := (s.jobInfo j.playbook j.info).wcets.getD (j.interval + 1) 0
    let x := s.ctxSt j.ctx
    let s := if j.preempt || !s.fits j.ctx wcet || (x.cls = .be && decide (x.deficit ≤ (0 : Rat))) then s.preemptJob n (!s.fits j.ctx wcet)
      else s.retryReqs j.tiles
    s.roundCheck j.part

/-- Ask for the pre-emption of a job, for the eviction of its context or for its frames: at its next cut, or now when it waits at one (R228, R319, R403). -/
def State.askPreempt (s : State) (n : Nat) (evicting : Bool) : State :=
  match tfind s.jobs n with
  | none => s
  | some j => if j.atCut && j.holding then s.preemptJob n evicting else s.modJob n (fun j => { j with preempt := true, evicting := j.evicting || evicting })

/-- A tile has reached a cut or its end: the job's cut, or its end, follows when every tile has (R212, R228). -/
def State.tileAtCut (s : State) (t : Nat) : State :=
  match (s.tileSt t).job with
  | none => s
  | some n =>
    match tfind s.jobs n with
    | none => s
    | some j =>
      if j.tiles.all (fun u => (s.tileSt u).ended) then s.endJob n
      else if j.tiles.all (fun u => (s.tileSt u).ended || ((s.tileSt u).atCut && (s.tileSt u).ckptNo == (s.tileSt t).ckptNo)) then s.cutReached n
      else s

/-- Make room for an incoming context: it is resident at once where there is room; else an eviction begins the switch, now or at the next cut of the outgoing context, or the incoming context waits (R403, R405); none becomes resident in STANDBY (R564). -/
def State.bringIn (s : State) (c : Nat) : State :=
  let x := s.ctxSt c
  let p := s.partSt x.part
  if x.state ≠ .idle || p.switchIn.isSome || p.evictee.isSome || s.standby then s
  else if s.residents x.part < p.resMax then (s.modCtx c (fun x => { x with state := .resident })).freshSch
  else
    match s.evictChoice c with
    | none => s
    | some (y, atCut) =>
      let held := s.jobs.filter (fun j => j.2.ctx == y && j.2.holding)
      if atCut && held ≠ [] then held.foldl (fun s j => s.askPreempt j.1 true) (s.modPart x.part (fun p => { p with evictee := some (y, c) }))
      else s.startSwitch y c

end Sys2Proof.Machine
end

