-- ==== Sys2Proof/Machine/Mem.lean ====
section
/-! DEFINITION. What a bad word of memory costs: the places in DRAM, uncorrectable DRAM words and their effects, tiles that fail in service, and the reads that meet bad words (R224, R229-R233, R409, R525-R533, R538, R539; log entry 68). -/

namespace Sys2Proof.Machine

/-! ### Places in DRAM (R525, R529) -/

/-- Visible address of a data word by its raw word number; none for a check block (R525). -/
def visibleAddr (word : Nat) : Option Nat := if word % 8 = 7 then none else some (word / 8 * 224 + word % 8 * 32)

/-- The 256 raw bytes of a DRAM block: 7 data words, then a check block with the 3 check bytes of each and 0 in bytes 21 to 31 (R525). -/
def State.rawBlock (s : State) (b : Nat) : List Byte :=
  let ws := (List.range 7).map (fun k => codeword s.dram s.ras.chk (7 * b + k))
  ws.flatMap (fun w => w.take 32) ++ ws.flatMap (fun w => w.drop 32) ++ zeros 11

/-- An address lies in a range. -/
def within (a base size : Nat) : Bool := base ≤ a && a < base + size

/-- The playbook that a DRAM address belongs to: its own bytes, the weights of one of its models in the cache, or that model's table set (R331, R401; log entry 98). -/
def State.playbookAt (s : State) (a : Nat) : Option Nat :=
  ((s.playbooks.find? (fun l => within a (Config.playbookPlace l.1) l.2.bytes)).map (·.1)).or
    ((s.models.find? (fun m => within a (Config.modelPlace m.playbook m.model) (((s.model m.playbook m.model).map (·.bytes)).getD 0)
      || within a m.region m.tsetBytes)).map (·.playbook))

/-- The relayed PIECE, by its ORDER_KEY, that a DRAM address of the relay ring belongs to (R449). -/
def State.relayAt (s : State) (a : Nat) : Option Nat := (s.kol.relayIn.find? (fun r => r.2.places.any (fun p => within a p.1 p.2))).map (·.1)

/-- The place in the hold of the record that a DRAM address belongs to: held records lie one after another from the hold's base (R509; log entry 98). -/
def heldAtFrom (a : Nat) : Nat → Nat → List Held → Option Nat
  | _, _, [] => none
  | k, p, h :: t => if within a p h.size then some k else heldAtFrom a (k + 1) (p + h.size) t

/-- Region code of a visible address, whose raw word number is `word` (R529; log entry 68). -/
def State.dramRegion (s : State) (word a : Nat) : Nat :=
  let at_ (lo size : Nat) : Bool := within a (s.pair lo / 4096 * 4096) size
  if (List.range 4).any (fun n => at_ (LIN_RET_BASE_LO n) (s.retSize n)) then 1
  else if within a (s.ckptArea 0) 0x40000000 then 2
  else if at_ PGM_DRAM_BASE_LO (4224 * s.fld PGM_DRAM_FRAMES PGM_DRAM_FRAMES_DRAM_FRAMES) then 3
  else if at_ DEC_CROP_BASE_LO (s.fld DEC_CROP_SIZE DEC_CROP_SIZE_SIZE_MIB * 0x100000) then 5
  else if at_ KOL_RELAY_BASE_LO (s.fld KOL_RELAY_SIZE KOL_RELAY_SIZE_SIZE_MIB * 0x100000) then 6
  else if (s.playbookAt a).isSome then 4
  else if within a Config.holdPlace (s.num HIF_HOLD_SIZE * 1024) then 7
  else match Config.firmwareRegion word with
    | some false => 8
    | some true => 9
    | none => 0

/-! ### What an uncorrectable word costs (R529) -/

/-- A KV frame in DRAM is lost: a BE sequence computes its positions again, an LC sequence ends CTX_FAULT (R325, R529). -/
def State.loseFrame (s : State) (f : Nat) : State :=
  let lost (e : Pte) : Bool := e.tier == .dram && e.frame == f
  let holds (tables : List (List Pte)) : Bool := tables.any (fun t => t.any lost)
  let s := (s.prefixes.filter (fun p => holds p.tables)).foldl (fun s p =>
    (p.tables.flatMap id).foldl (fun s e => (frameKey e).elim s s.unref) { s with prefixes := s.prefixes.erase p }) s
  (s.seqs.filter (fun q => holds q.2.tables && q.2.ending == .running)).foldl (fun s x =>
    if (s.item x.1).cls = .lc then s.endSeq x.1 .ctxFault else s.loseEntries x.1 lost) s

/-- The contexts of a playbook are torn down and it counts as CORRUPT from then on (R407, R529). -/
def State.corruptPlaybook (s : State) (id : Nat) : State :=
  let s := (s.ctxs.filter (fun c => c.2.playbook == id && c.2.state != .undefined && !c.2.tearing)).foldl (fun s c => s.faultCtx c.1 (s.someTag c.1)) s
  { s with playbooks := tupd s.playbooks id (fun p => { p with corrupt := true }) }

/-- A REGION of a HOSTIMAGE that has lost its crop keeps its first read (R529). -/
def State.keepFirst (s : State) (i : Nat) : State :=
  match tfind s.regions i with
  | none => s
  | some r =>
    let s := s.modRegion i (fun r => { r with needCrop := false, crop := false, cropFull := true })
    match r.result, tfind r.passes 0 with
    | none, some fs =>
      let s := (s.modRegion i (fun r => { r with openPasses := [] })).closeRegion i fs
      (s.seqs.filter (fun q => q.2.region == i)).foldl (fun s q => s.endSeq q.1 .aborted) s
    | _, _ => s

/-- The crop that a DRAM address lies in (R369). -/
def State.cropAt (s : State) (a : Nat) : Option Crop :=
  s.crops.find? (fun c => within a (s.cropAddr c) c.size)

/-- A crop is lost: one of a live REGION is written again from retention, a HOSTIMAGE's costs its REGIONs their further reads (R368, R529). -/
def State.loseCrop (s : State) (a : Nat) : State :=
  match s.cropAt a with
  | none => s
  | some c =>
    let s := { s with crops := s.crops.erase c }
    if !s.cropLive c then s
    else
      let i := c.item % 2 ^ 20
      let top := c.top % 2 ^ 20
      if (tfind s.images top).isNone then s.modRegion i (fun r => { r with crop := false })
      else ((s.regions.filter (fun r => r.2.top == top && (r.1 == i || (i == top && !r.2.crop)))).foldl (fun s r => s.keepFirst r.1) s).tidy

/-- A held record is lost: it leaves the hold and will not be written (R529). -/
def State.loseHeld (s : State) (k : Nat) : State × Nat :=
  match s.hold[k]? with
  | none => (s, 0)
  | some h =>
    let id := s.itemId h.item
    let s := { s with hold := s.hold.eraseIdx k }
    let s := if h.final then s.modPiece h.item (fun p => { p with finalDone := true }) else s
    (((s.stallCheck.divertHold).stallCheck).tidy, if h.item = 0 then 0 else id)

/-- The context whose checkpoint or journal a DRAM address belongs to: that of the job on the tile whose area it is (R224, R529); none without a job there. -/
def State.ckptOwner (s : State) (a : Nat) : Option Nat :=
  ((s.tileSt ((a - s.ckptArea 0) / 0x400000)).job.bind (tfind s.jobs)).map (·.ctx)

/-- Change a PIECE held for the source (R449). -/
def State.modRelay (s : State) (key : Nat) (f : RelayPiece → RelayPiece) : State := { s with kol := { s.kol with relayIn := tupd s.kol.relayIn key f } }

/-- What an uncorrectable word costs by its region, and the ITEM_ID for its record (R529). A read of retention takes the plane as in R66 itself (`State.retRead`); what Coach and Umpire memory cost is the scrubber's to say, which alone reads them. -/
def State.loseRegion (s : State) (code a : Nat) : State × Nat :=
  match code with
  | 2 =>
    match s.ckptOwner a with
    | some c => (if (s.ctxSt c).state = .undefined || (s.ctxSt c).tearing then s else s.faultCtx c (s.someTag c), 0)
    | none => (s, 0)
  | 3 => (s.loseFrame ((a - s.pair PGM_DRAM_BASE_LO / 4096 * 4096) / 4224), 0)
  | 4 => ((s.playbookAt a).elim s s.corruptPlaybook, 0)
  | 5 => (s.loseCrop a, 0)
  | 6 => match s.relayAt a with
    | some key => ((s.modRelay key (fun r => { r with gap := true })).raise KOL_G_IRQ_STAT 4, 0)
    | none => (s, 0)
  | 7 => match heldAtFrom a 0 Config.holdPlace s.hold with
    | some k => s.loseHeld k
    | none => (s, 0)
  | _ => (s, 0)

/-- An uncorrectable DRAM word was read: counter, address, interrupt, MEM_UNCORR record, effect by its region (R529, R538, R547). -/
def State.dramUncorr (s : State) (a : Nat) : State :=
  let word := rawAddr a / 32
  let ch := (Config.dramChannel word).val
  let code := s.dramRegion word a
  let s := ((s.setPair RAS_UNCORR_ADDR_LO (word * 32)).incFld (RAS_DRAM_ERR ch) RAS_DRAM_ERR_UNCORR).raise RAS_IRQ_STAT 0
  if code = 7 then let r := s.loseRegion code a; r.1.errorRec clsMemUncorr none ch r.2 word code
  else ((s.errorRec clsMemUncorr none ch 0 word code).loseRegion code a).1

/-- An uncorrectable word of on-chip memory makes the record with UNIT 0xFFFF (R538; log entry 99). -/
def State.chipUncorr (s : State) (word : Nat) : State := (s.raise RAS_IRQ_STAT 0).errorRec clsMemUncorr none 0xFFFF 0 word 0

/-! ### Reads (R526, R529) -/

/-- What a read of DRAM does beside delivering its bytes (`State.dread`): words corrected are counted for their channel, uncorrectable ones take effect by their region; true where none was uncorrectable (R526, R529). -/
def State.didRead (s : State) (a n : Nat) : State × Bool :=
  if s.ras.chk = [] then (s, true)
  else
    let bad := s.dramBad a n
    (bad.foldl (fun s w => s.dramUncorr (32 * w)) (s.readFixed a n), bad.isEmpty)

/-! ### Tiles that fail (R229-R233, R409, R533, R538, R542) -/

/-- Causes of R538. -/
def causeWatchdog : Nat := 1
def causeRs : Nat := 2
def causeRouter : Nat := 3
def causeTempo : Nat := 4

/-- A physical tile. -/
def State.ptile (s : State) (p : Nat) : PTile := tget default s.ptiles p

/-- The free liberos: row 16, in service and not mapped (R229). -/
def State.liberos (s : State) : List Nat :=
  ((List.range 16).map (· + 256)).filter (fun p => !(s.ptile p).failed && !(s.ptile p).removed && (s.logicalOf p).isNone)

/-- Distance in mesh hops. -/
def hops (p q : Nat) : Nat := ((p / 16 : Nat) - (q / 16 : Nat) : Int).natAbs + ((p % 16 : Nat) - (q % 16 : Nat) : Int).natAbs

/-- The free libero nearest to a tile, the lower index of equals. -/
def State.nearest (s : State) (p : Nat) : Option Nat :=
  s.liberos.foldl (fun (b : Option Nat) q =>
    match b with
    | none => some q
    | some r => if hops p q < hops p r then some q else some r) none

/-- Bits of a list of conditions, the first the lowest. -/
def maskBits (l : List Bool) : Nat := ((List.range l.length).zip l).foldl (fun a x => a + (if x.2 then 2 ^ x.1 else 0)) 0

/-- The map registers are brought up to date (R236). -/
def State.freshMap (s : State) : State :=
  let lib := s.liberos
  let s := (s.setFld PIT_STAT PIT_STAT_LIBEROS_FREE lib.length).setFld PIT_STAT PIT_STAT_MAPPED ((List.range 256).filter (fun t => (s.physOf t).isSome)).length
  (List.range 9).foldl (fun s k =>
    let bits (f : Nat → Bool) : Nat := maskBits ((List.range 32).map (fun j => f (32 * k + j)))
    (s.setNum (PIT_SPARE k) (bits (fun p => lib.contains p))).setNum (PIT_FAILED k) (bits (fun p => (s.ptile p).failed))) s

/-- The partition that a logical tile belongs to. -/
def State.partOf (s : State) (t : Nat) : Option Nat :=
  (List.range 8).find? (fun p => (s.partSt p).valid && decide ((s.partSt p).first ≤ t / 16) && decide (t / 16 < (s.partSt p).first + (s.partSt p).groups))

/-- Pages whose frames lay on a lost tile are gone: their entries become DROPPED, to be recomputed (R325, R409; log entry 52). -/
def State.losePages (s : State) (t : Nat) : State := s.seqs.foldl (fun s x => s.loseEntries x.1 (fun e => e.tier == .chip && e.frame / 64 == t)) s

/-- A job in flight on a lost group ends; the work of its items is opened again (R409). -/
def State.loseJob (s : State) (n : Nat) : State :=
  match tfind s.jobs n with
  | none => s
  | some j =>
    let s := (((s.chargeRun j).freeTiles j).dropJob n).freshLive j.ctx
    let s := { s with ready := s.ready.filter (fun r => r.job != some n) }
    let s := j.seqs.foldl (fun s i => s.stepReady i) s
    let s := if j.seqs.contains j.item || (s.jobInfo j.playbook j.info).rows ≠ 0 then s else s.addReady j.ctx j.info j.item
    ((s.retryReqs j.tiles).evictAfter j.part).roundCheck j.part

/-- A snapshot that waits for a physical tile takes it as LATE (R542). -/
def State.lateTile (s : State) (p : Nat) : State :=
  if s.snp.waitTiles.contains p then
    { s with snp := { s.snp with waitTiles := s.snp.waitTiles.erase p, sections := s.snp.sections ++ [s.tileSection p true] } }
  else s

/-- A tile's commands since its checkpoint are taken back: queues empty, messages on the way withdrawn, which are sent again; slices that the token unit has accepted stay there, and the halo rings that were open are held for those that send to them (R231). A teardown that waited for the tile goes on. -/
def State.haltTile (s : State) (t : Nat) : State :=
  let s := s.modTile t (fun x => { x with buf := [], mac := [], vec := [], msg := [], barrier := none, restoring := true, lostHalos := x.halos.foldl (fun l h => tput l h.1 h.2) x.lostHalos })
  ({ s with msgs := s.msgs.filter (fun m => m.src != t) }).tearAt t

/-- A logical tile becomes unmapped: DEGRADED sets with the first (R233, R539). -/
def State.degrade (s : State) : State :=
  let s := s.raise PIT_IRQ_STAT 1
  if s.on RAS_STAT RAS_STAT_DEGRADED then s
  else ((s.setFld PIT_STAT PIT_STAT_DEGRADED 1).setFld RAS_STAT RAS_STAT_DEGRADED 1).raise RAS_IRQ_STAT 3

/-- The TILE_REMAP records of the remaps of a logical tile go out (R533, R538). -/
def State.remapRecords (s : State) (t : Nat) : State :=
  (s.tileSt t).fails.foldl (fun s f => s.sysRecord false clsTileRemap (s.partOf t) f.old 0 (f.new * 65536 + t * 256 + f.cause) f.steps f.stamp) (s.modTile t (fun x => { x with fails := [] }))

/-- A physical tile fails in service: it is isolated, its logical tile moves to the nearest libero and is restored there, or is unmapped and its group lost, after the records of the remaps before (R229-R233, R409, R533). -/
def State.failTile (s : State) (p cause : Nat) : State :=
  if (s.ptile p).failed then s
  else
    let t? := s.logicalOf p
    let s := { s with ptiles := tput s.ptiles p { s.ptile p with failed := true } }
    let s := (s.setFld (PIT_TILE_TEMPO p) PIT_TILE_TEMPO_MAPPED 0).lateTile p
    match t? with
    | none => s.freshMap
    | some t =>
      match s.nearest p with
      | some q =>
        let s := ((s.setFld (PIT_MAP t) PIT_MAP_PHYS q).setFld (PIT_TILE_TEMPO q) PIT_TILE_TEMPO_MAPPED 1).haltTile t
        let s := s.modTile t (fun x => { x with fails := x.fails ++ [{ old := p, new := q, cause := cause, stamp := s.now, steps := x.stepsDone }] })
        ((s.incReg PIT_REMAP_CNT).raise PIT_IRQ_STAT 0).freshMap
      | none =>
        let s := (s.setFld (PIT_MAP t) PIT_MAP_VALID 0).degrade
        let job := (s.tileSt t).job
        let s := ((s.remapRecords t).modTile t (fun x => { x with restoring := false })).losePages t
        let s := job.elim s s.loseJob
        let part := s.partOf t
        let s := match part with
          | some k => (s.modPart k (fun x => { x with variantDue := true })).freshPart k
          | none => s
        (s.errorRec clsTileLost part p 0 (t * 256 + cause) ((part.map s.usable).getD 0)).freshMap

/-- Bad words that a read of a range of a tile's store meets. -/
def State.storeWords (s : State) (t a n : Nat) (how : RsRead → Bool) : List Nat := badWords s.tile s.ras.tchk (tileAt t a) n how

/-- What a tile's read of a range of its store does beside delivering its bytes (`State.tread`): words corrected are counted, an uncorrectable one fails the tile; true where none was uncorrectable (R526, R528). -/
def State.didTread (s : State) (t a n : Nat) : State × Bool :=
  if s.ras.tchk = [] then (s, true)
  else
    let s' := (s.storeWords t a n RsRead.fixed).foldl (fun s _ => (s.incReg RAS_TILE_CORR).countCorr 8) s
    match s.storeWords t a n RsRead.bad with
    | [] => (s', true)
    | w :: _ => ((s'.chipUncorr w).failTile ((s.physOf t).getD 272) causeRs, false)

end Sys2Proof.Machine
end

