-- ==== Sys2Proof/Machine/Tiles.lean ====
section
/-! DEFINITION. The dispatcher of a tile: its list buffer, its three queues, barriers (R205, R207, R210, R212, R216, R222). -/

namespace Sys2Proof.Machine

/-! ### The dispatcher of a tile (R207, R216, R222) -/

/-- The engine of an opcode: 0 MAC, 1 VEC, 2 MSG, 3 for a barrier, 4 for NOP; none for an opcode that is not recognised (R216). -/
def engineOf (op : Nat) : Option Nat :=
  if op = 0 then some 4
  else if op = 1 || op = 2 then some 3
  else if 0x10 ≤ op && op ≤ 0x13 then some 0
  else if 0x20 ≤ op && op ≤ 0x27 then some 1
  else if 0x30 ≤ op && op ≤ 0x38 then some 2
  else none

/-- The queue of an engine. -/
def Tile.queue (x : Tile) : Engine → List QCmd
  | .mac => x.mac
  | .vec => x.vec
  | .msg => x.msg

/-- Set the queue of an engine. -/
def Tile.setQueue (x : Tile) (e : Engine) (q : List QCmd) : Tile :=
  match e with
  | .mac => { x with mac := q }
  | .vec => { x with vec := q }
  | .msg => { x with msg := q }

/-- The engine that takes a NOP: the one with the shortest queue, MAC before VEC before MSG (R216; log entry 41). -/
def Tile.nopEngine (x : Tile) : Engine :=
  if x.mac.length ≤ x.vec.length && x.mac.length ≤ x.msg.length then .mac else if x.vec.length ≤ x.msg.length then .vec else .msg

/-- A tile's list buffer is filled: 8 KiB, 128 commands, fetched ahead of execution from the position of the list on (R212); a list with an uncorrectable word faults the job with code MEM (R529; log entry 68). -/
def State.fetchList (s : State) (t : Nat) : State :=
  let x := s.tileSt t
  if x.job.isNone then s
  else
    let from_ := x.pos + x.buf.length
    let n := min 128 (x.listLen - x.pos) - x.buf.length
    if n = 0 then s
    else
      match s.didRead (x.listAddr + 64 * from_) (64 * n) with
      | (u, false) => u.jobFault t fMem 0 from_
      | (u, true) => u.modTile t (fun x => { x with buf := x.buf ++ (List.range n).map (fun k => s.dread (x.listAddr + 64 * (from_ + k)) 64) })

/-- Place commands of the list buffer into the queues while they have room, in order; at most `n` of them. -/
def State.dispatchN (s : State) (t : Nat) : Nat → State
  | 0 => s
  | n + 1 =>
    let x := s.tileSt t
    if x.job.isNone || x.stopped || x.ended || x.restoring || x.atCut || x.barrier.isSome then s
    else
     match x.buf with
     | [] => s
     | b :: rest =>
      let op := leAt b 0 1
      let wcet := leAt b 8 4
      let c : QCmd := { index := x.pos, bytes := b, started := false, startTb := 0, done := 0, before := [], released := [], sent := 0 }
      match engineOf op with
      | none => s.jobFault t fOpcode op x.pos
      | some k =>
        if 160000 < wcet || 160000 < x.wcetSum + wcet then s.jobFault t fWcet op x.pos
        else
          let y := { x with pos := x.pos + 1, buf := rest, wcetSum := x.wcetSum + wcet }
          if k = 3 then ({ s with tiles := tput s.tiles t { y with barrier := some c } }).fetchList t
          else
            let e : Engine := match k with
              | 0 => .mac
              | 1 => .vec
              | 2 => .msg
              | _ => x.nopEngine
            if 8 ≤ (x.queue e).length then s
            else State.dispatchN (({ s with tiles := tput s.tiles t (y.setQueue e (x.queue e ++ [c])) }).fetchList t) t n

/-- The semaphore wait of a command is satisfied (R210). -/
def Tile.waitMet (x : Tile) (c : QCmd) : Bool :=
  let k := leAt c.bytes 2 1
  !bit k 7 || decide (0 ≤ sdiff 16 (tget 0 x.sems (k % 16)) (leAt c.bytes 4 2))

/-- A barrier command starts, and its timer with it, once the three engines are idle and its semaphore wait is satisfied (R210, R223, R224). -/
def Tile.startBarrier (x : Tile) (tb : Nat) : Tile :=
  match x.barrier with
  | some c => if !c.started && !x.stopped && x.mac.isEmpty && x.vec.isEmpty && x.msg.isEmpty && x.waitMet c then { x with barrier := some { c with started := true, startTb := tb } } else x
  | none => x

/-- The dispatcher of a tile works on. -/
def State.dispatchTile (s : State) (t : Nat) : State :=
  let s := (s.fetchList t).dispatchN t 25
  if (s.tileSt t).barrier.isSome then s.modTile t (fun x => x.startBarrier s.tb) else s

end Sys2Proof.Machine
end

