-- ==== Sys2Proof/Machine/Arrays.lean ====
section
/-! DEFINITION. Commands of a tile as they lie in its queues: fields, operand arrays, reading and writing elements, completion (R172, R174, R188-R190, R210, R213-R215, R238). -/

namespace Sys2Proof.Machine

/-! ### Fields (R213) -/

/-- A field of a command: `n` bytes at byte `i`, as a number. -/
def QCmd.u (c : QCmd) (i n : Nat) : Nat := leAt c.bytes i n

/-- A tile store address of a command. -/
def QCmd.addr (c : QCmd) (i : Nat) : Nat := c.u i 4 % 2 ^ 20

/-- OPCODE, and the format codes of the operands. -/
def QCmd.op (c : QCmd) : Nat := c.u 0 1
def QCmd.aFmt (c : QCmd) : Nat := c.u 15 1 / 16
def QCmd.bFmt (c : QCmd) : Nat := c.u 19 1 / 16
def QCmd.outFmt (c : QCmd) : Nat := c.u 23 1 / 16
def QCmd.accFmt (c : QCmd) : Nat := c.u 27 1 / 16

/-- Addresses of the operands. -/
def QCmd.aAddr (c : QCmd) : Nat := c.addr 12
def QCmd.bAddr (c : QCmd) : Nat := c.addr 16
def QCmd.outAddr (c : QCmd) : Nat := c.addr 20
def QCmd.accAddr (c : QCmd) : Nat := c.addr 24

/-- SAT_EN, ACC_EN. -/
def QCmd.satEn (c : QCmd) : Bool := bit (c.u 1 1) 6
def QCmd.accEn (c : QCmd) : Bool := bit (c.u 1 1) 5

/-- WCET_STEPS, WBASE, OSHIFT. -/
def QCmd.wcet (c : QCmd) : Nat := c.u 8 4
def QCmd.wbase (c : QCmd) : Int := sgn 16 (c.u 28 2)
def QCmd.oshift (c : QCmd) : Int := sgn 8 (c.u 30 1)

/-! ### Arrays (R172, R174, R214) -/

/-- An operand array: rows of `cols` elements, `pitch` bytes apart. -/
structure Arr where
  fmt : Nat
  addr : Nat
  pitch : Nat
  rows : Nat
  cols : Nat
  deriving DecidableEq, Repr, Inhabited

/-- A vector of `n` elements (R172, R174). -/
def Arr.vec (fmt addr n : Nat) : Arr := ⟨fmt, addr, fmtBytes fmt n, 1, n⟩

/-- Round up to the next 32-byte boundary. -/
def up32 (n : Nat) : Nat := cdiv n 32 * 32

/-- Bytes of an array's elements, from the first of the first row to the last of the last. -/
def Arr.elemSpan (a : Arr) : Nat := if a.rows = 0 then 0 else (a.rows - 1) * a.pitch + fmtBytes a.fmt a.cols

/-- Where the scale array of an MX operand begins: at the first 32-byte boundary after its elements (R214). -/
def Arr.scales (a : Arr) : Nat := up32 (a.addr + a.elemSpan)

/-- Bytes that an array spans from its address, its scales included. -/
def Arr.span (a : Arr) : Nat := if fmtMx a.fmt then a.scales + a.rows * cdiv a.cols 32 - a.addr else a.elemSpan

/-- The bits of element `k` of packed elements from byte `addr` on (R172). -/
def State.elemBits (s : State) (t fmt addr k : Nat) : Nat :=
  let w := fmtBits fmt
  if w = 4 then leNat (s.tread t (addr + k / 2) 1) / (if k % 2 = 0 then 1 else 16) % 16
  else leNat (s.tread t (addr + k * (w / 8)) (w / 8))

/-- The value of element `k` of row `r` of an array. -/
def State.elemAt (s : State) (t : Nat) (a : Arr) (r k : Nat) : FVal :=
  let v := decElem a.fmt (s.elemBits t a.fmt (a.addr + r * a.pitch) k)
  if fmtMx a.fmt then mxScaled (leNat (s.tread t (a.scales + r * cdiv a.cols 32 + k / 32) 1)) v else v

/-- The EXACT element at an address (R176). -/
def State.exactAt (s : State) (t addr : Nat) : Lane := Lane.decode (s.tread t addr 32)

/-- Pack element bits into bytes (R172). -/
def packBits (w : Nat) : List Nat → List Byte
  | [] => []
  | [a] => if w = 4 then [BitVec.ofNat 8 (a % 16)] else leBytes (w / 8) a
  | a :: b :: t =>
    if w = 4 then BitVec.ofNat 8 (a % 16 + 16 * (b % 16)) :: packBits w t
    else leBytes (w / 8) a ++ packBits w (b :: t)

/-- Count substitutions and NaNs of an output (R188, R189). -/
def State.countEnc (s : State) (es : List Enc) : State :=
  (s.incFld PIT_ARITH_CNT PIT_ARITH_CNT_SAT_CNT ((es.map (·.sat)).foldl (· + ·) 0)).incFld PIT_ARITH_CNT PIT_ARITH_CNT_NAN_INT_CNT
    ((es.map (·.nanInt)).foldl (· + ·) 0)

/-- Blocks of 32. -/
def chunks32 {α : Type} : Nat → List α → List (List α)
  | 0, _ => []
  | n + 1, l => if l.isEmpty then [] else l.take 32 :: chunks32 n (l.drop 32)

/-- Write one row of an output array: each lane times 2^OSHIFT, rounded once (R185-R190). -/
def State.writeRow (s : State) (t : Nat) (a : Arr) (r : Nat) (wbase oshift : Int) (satEn : Bool) (ls : List Lane) : State :=
  let ls := ls.map (fun l => l.wide.scale oshift)
  let at_ := a.addr + r * a.pitch
  if a.fmt = 0xE then
    let es := ls.map (Lane.encode wbase)
    (s.twrite t at_ (es.flatMap (·.1))).incReg PIT_ROUNDED_CNT (es.filter (·.2)).length
  else if fmtMx a.fmt then
    let bs := (chunks32 ls.length (ls.map Lane.val)).map (mxBlock a.fmt)
    let es := bs.flatMap (·.2)
    ((s.twrite t at_ (packBits (fmtBits a.fmt) (es.map (·.bits)))).twrite t (a.scales + r * cdiv a.cols 32) (bs.map (fun b => BitVec.ofNat 8 b.1))).countEnc es
  else
    let es := ls.map (fun l => encElem a.fmt satEn l.val)
    (s.twrite t at_ (packBits (fmtBits a.fmt) (es.map (·.bits)))).countEnc es

/-- Write rows of an output array from row `r` on. -/
def State.writeRows (s : State) (t : Nat) (a : Arr) (wbase oshift : Int) (satEn : Bool) : Nat → List (List Lane) → State
  | _, [] => s
  | r, l :: ls => (s.writeRow t a r wbase oshift satEn l).writeRows t a wbase oshift satEn (r + 1) ls

/-- A lane that holds one value. -/
def FVal.lane : FVal → Lane
  | .nan => { Lane.zero with nan := true }
  | .inf true => { Lane.zero with ninf := true }
  | .inf false => { Lane.zero with pinf := true }
  | .fin q => { Lane.zero with q := q }

/-- Element `k` of a bias vector: EXACT elements of 32 bytes, or elements of a format (R190, R217, R286). -/
def State.biasAt (s : State) (t fmt addr n k : Nat) : Lane :=
  if fmt = 0xE then s.exactAt t (addr + 32 * k) else (s.elemAt t (Arr.vec fmt addr n) 0 k).lane

/-- A dot product added to a lane (R180, R187). -/
def dotInto (wbase : Int) (acc : Lane) (n : Nat) (a b : Nat → FVal) : Lane :=
  (List.range n).foldl (fun l k => l.add wbase (fmul (a k) (b k))) acc

/-- A window miss sends the command to the full-width path (R182): the result is the same, the counters rise. -/
def State.countMiss (s : State) (t : Nat) (rows : List (List Lane)) : State :=
  if rows.any (fun r => r.any (·.miss)) then
    let s := s.incReg PIT_MISS_TOTAL
    match s.physOf t with
    | some p => s.incReg (PIT_TILE_MISS p)
    | none => s
  else s

/-- Products formed in a lane class, for the power estimate (R196). -/
def State.countProducts (s : State) (cls n : Nat) : State :=
  { s with gov := { s.gov with products := tput s.gov.products cls (tget 0 s.gov.products cls + n) } }

/-! ### Starting and completing -/

/-- A tile works: it holds a job, is mapped, and is not being restored. -/
def State.tileRuns (s : State) (t : Nat) : Bool :=
  let x := s.tileSt t
  x.job.isSome && !x.restoring &&
  match s.physOf t with
  | some p => !(tget default s.ptiles p).failed
  | none => false

/-- The started command at the head of an engine's queue, if it has an opcode. -/
def State.running (s : State) (t : Nat) (e : Engine) (op : Nat) : Option QCmd :=
  if !s.tileRuns t then none
  else
    match (s.tileSt t).queue e with
    | c :: _ => if c.started && c.op = op then some c else none
    | [] => none

/-- A semaphore one higher (R210). -/
def Tile.signal (x : Tile) (c : QCmd) : Tile :=
  let k := c.u 3 1
  if bit k 7 then { x with sems := tset 0 x.sems (k % 16) ((tget 0 x.sems (k % 16) + 1) % 65536) } else x

/-- A command of a tile has completed: counters, its context's scoreboard. -/
def State.countCmd (s : State) (t : Nat) : State :=
  let s := s.setPair PIT_CMD_DONE_LO (s.pair PIT_CMD_DONE_LO + 1)
  match (s.tileSt t).job.bind (fun j => tfind s.jobs j) with
  | some j => s.modCtx j.ctx (fun x => { x with cmds := x.cmds + 1 })
  | none => s

/-- The command at the head of an engine's queue completes: it signals, its place frees, the dispatcher goes on (R207, R210). -/
def State.finish (s : State) (t : Nat) (e : Engine) : State :=
  let x := s.tileSt t
  match x.queue e with
  | [] => s
  | c :: rest =>
    let x := { (x.setQueue e rest).signal c with stepsDone := x.stepsDone + c.wcet, hsTb := s.tb }
    ((({ s with tiles := tput s.tiles t x }).countCmd t).dispatchTile t).tearAt t

/-- Change the command at the head of an engine's queue: the tile has made a handshake (R230). -/
def State.modHead (s : State) (t : Nat) (e : Engine) (f : QCmd → QCmd) : State :=
  s.modTile t (fun x =>
    match x.queue e with
    | c :: rest => { x.setQueue e (f c :: rest) with hsTb := s.tb }
    | [] => x)

/-- What a range of a tile's store holds: its place, its length, its bytes other than 0. -/
def State.keepRange (s : State) (t a n : Nat) : Nat × Nat × List Host.Cell :=
  (tileAt t a, n, s.stores.filter (fun e => tileAt t a ≤ e.1 && e.1 < tileAt t a + n))

/-- A range of the tile stores holds again what it held. -/
def State.putRange (s : State) (r : Nat × Nat × List Host.Cell) : State :=
  s.setStores (r.2.2.foldl (fun m e => tset 0 m e.1 e.2) (s.tile.filter (fun e => !(r.1 ≤ e.1 && e.1 < r.1 + r.2.1)))) (wordIn r.1 r.2.1)

/-- The job that a tile runs. -/
def State.jobOf (s : State) (t : Nat) : Option Job := (s.tileSt t).job.bind (fun j => tfind s.jobs j)

/-- The tile of the same job whose ring on a channel has this tile as its peer: the receiver of HALO_PUT. -/
def State.haloPeer (s : State) (t ch : Nat) : Option (Nat × Halo) :=
  match s.jobOf t with
  | none => none
  | some j => j.tiles.findSome? (fun u =>
      match tfind (s.tileSt u).halos ch with
      | some h => if h.peer = t then some (u, h) else none
      | none => none)

/-- A command's effect outside its write ranges is taken back: what it has released, and the rows in its peer's ring (R235). -/
def State.unrelease (s : State) (t : Nat) (c : QCmd) : State :=
  let s := c.released.foldl (fun s e =>
    if e.1 = 4 then s.twrite t (c.aAddr + 8) (leBytes 3 e.2) else s.modTile t (fun x => { x with halos := tupd x.halos e.1 (fun h => { h with released := e.2 }) })) s
  if c.sent = 0 then s
  else
    match s.haloPeer t (c.u 32 1) with
    | some (u, _) => s.modTile u (fun x => { x with halos := tupd x.halos (c.u 32 1) (fun h => { h with head := h.head - c.sent }) })
    | none => s

/-- A command ends with a fault: it has written nothing, so rows that it had written hold again what they held (R235). -/
def State.cmdFault (s : State) (t : Nat) (c : QCmd) (code : Nat) : State := ((c.before.foldl State.putRange s).unrelease t c).jobFault t code c.op c.index

/-- Run the started command of an opcode on an engine: its effect, or a fault. -/
def State.runCmd (s : State) (t : Nat) (e : Engine) (op : Nat) (f : State → QCmd → Except Nat State) : State :=
  match s.running t e op with
  | none => s
  | some c =>
    match f s c with
    | .ok s => s.finish t e
    | .error code => s.cmdFault t c code

end Sys2Proof.Machine
end

