-- ==== Sys2Proof/Machine/Maps.lean ====
section
/-! DEFINITION. MATMUL, CONVERT, and the commands over maps: CONV, POOL, ARGMAX_C with rolling rings and halo columns (R217, R238-R264, R269). -/

namespace Sys2Proof.Machine

/-! ### MATMUL (R217) -/

/-- The A, B and output arrays of a MATMUL. -/
def mmA (c : QCmd) : Arr := ⟨c.aFmt, c.aAddr, c.u 40 4, c.u 36 2, c.u 32 4⟩
def mmB (c : QCmd) : Arr := ⟨c.bFmt, c.bAddr, c.u 44 4, c.u 38 2, c.u 32 4⟩
def mmOut (c : QCmd) : Arr := ⟨c.outFmt, c.outAddr, c.u 48 4, c.u 36 2, c.u 38 2⟩

/-- The PARAMS of a MATMUL are in range. -/
def mmOk (c : QCmd) : Bool :=
  1 ≤ c.u 32 4 && c.u 32 4 ≤ 2 ^ 26 && 1 ≤ c.u 36 2 && 1 ≤ c.u 38 2 && c.u 40 4 % 32 = 0 && c.u 44 4 % 32 = 0 && c.u 48 4 % 32 = 0 && c.u 52 12 = 0

/-- The lane that an output element starts from: 0, a bias element, or an EXACT input (R180, R217); `i` numbers the EXACT elements, `n` the bias elements. -/
def State.accLane (s : State) (t : Nat) (c : QCmd) (i n count : Nat) : Lane :=
  if !c.accEn then Lane.zero
  else if c.accFmt = 0xE then Lane.zero.addExact c.wbase (s.exactAt t (c.accAddr + 32 * i))
  else Lane.zero.add c.wbase (s.elemAt t (Arr.vec c.accFmt c.accAddr count) 0 n)

/-- MATMUL: out[m][n] is the exact sum of A[m][k] × B[n][k] and acc, rounded once. -/
def State.matmul (s : State) (t : Nat) (c : QCmd) : State :=
  let a := mmA c
  let b := mmB c
  let rows := (List.range a.rows).map (fun m => (List.range b.rows).map (fun n =>
    dotInto c.wbase (s.accLane t c (m * b.rows + n) n b.rows) a.cols (fun k => s.elemAt t a m k) (fun k => s.elemAt t b n k)))
  ((s.countMiss t rows).countProducts (max (fmtClass a.fmt) (fmtClass b.fmt)) (a.rows * b.rows * a.cols)).writeRows t (mmOut c) c.wbase c.oshift c.satEn 0 rows

/-- MATMUL completes. -/
def execMatmul (t : Fin 256) (s : State) : Out := s.onMain (fun s => s.runCmd t .mac 0x10 (fun s c => .ok (s.matmul t c)))

/-! ### CONVERT (R186, R216) -/

/-- The arrays of a CONVERT: as many elements as its PARAMS say, whose layout the manual does not give (log entry 37). -/
def cvIn (c : QCmd) : Arr := Arr.vec c.aFmt c.aAddr (Config.convertCount (c.bytes.drop 32))
def cvOut (c : QCmd) : Arr := Arr.vec c.outFmt c.outAddr (Config.convertCount (c.bytes.drop 32))

/-- CONVERT completes: each element is rounded once into OUT_FMT. -/
def execConvert (t : Fin 256) (s : State) : Out :=
  s.onMain (fun s => s.runCmd t .vec 0x20 (fun s c =>
    .ok (s.writeRow t (cvOut c) 0 c.wbase c.oshift c.satEn ((List.range (cvIn c).cols).map (fun k => (s.elemAt t (cvIn c) 0 k).lane)))))

/-! ### Rings (R259-R262) -/

/-- A ring header (R259). -/
structure Ring where
  rows : Nat
  head : Nat
  endRow : Nat
  rel : Nat
  pitch : Nat
  deriving DecidableEq, Repr, Inhabited

/-- END_ROW while the map is open. -/
def openEnd : Nat := 0xFFFFFF

/-- The ring header at an address. -/
def State.ringAt (s : State) (t addr : Nat) : Ring :=
  let l := s.tread t addr 32
  { rows := leAt l 3 1, head := leAt l 0 3, endRow := leAt l 4 3, rel := leAt l 8 3, pitch := leAt l 12 2 * 32 }

/-- Write a ring header. -/
def State.putRing (s : State) (t addr : Nat) (r : Ring) : State :=
  s.twrite t addr (leBytes 3 r.head ++ leBytes 1 r.rows ++ leBytes 3 r.endRow ++ zeros 1 ++ leBytes 3 r.rel ++ zeros 1 ++ leBytes 2 (r.pitch / 32) ++ zeros 18)

/-! ### Geometry (R238, R241-R246) -/

/-- Fields of the PARAMS of R241. -/
structure Geo where
  kh : Nat
  kw : Nat
  sh : Nat
  sw : Nat
  dh : Nat
  dw : Nat
  pt : Nat
  pb : Nat
  pl : Nat
  pr : Nat
  mode : Nat
  c32 : Bool
  dep : Bool
  rollIn : Bool
  rollOut : Bool
  countPad : Bool
  hl : Option Nat
  hr : Option Nat
  ringRows : Nat
  cin : Nat
  cout : Nat
  imgW : Nat
  c0 : Nat
  bw : Nat
  oc0 : Nat
  ocn : Nat
  orn : Nat
  or0 : Nat
  ta : Nat
  tb : Nat
  imgH : Nat
  padC : Nat
  deriving DecidableEq, Repr, Inhabited

/-- The PARAMS of a map command. -/
def geo (c : QCmd) : Geo :=
  let b (i : Nat) := c.u i 1
  { kh := b 32 / 16, kw := b 32 % 16, sh := b 33 / 16, sw := b 33 % 16, dh := b 34 / 16, dw := b 34 % 16, pt := b 35 / 16, pb := b 35 % 16
    pl := b 36 / 16, pr := b 36 % 16, mode := b 37 / 64, c32 := bit (b 37) 5, dep := bit (b 37) 4, rollIn := bit (b 37) 3, rollOut := bit (b 37) 2
    countPad := bit (b 37) 1, hl := if bit (b 38) 7 then some (b 38 / 32 % 4) else none, hr := if bit (b 38) 3 then some (b 38 / 2 % 4) else none
    ringRows := b 39, cin := c.u 40 2, cout := c.u 42 2, imgW := c.u 44 2, c0 := c.u 46 2, bw := c.u 48 2, oc0 := c.u 50 2, ocn := c.u 52 2
    orn := b 57, or0 := c.u 54 3, ta := b 61 / 16, tb := b 61 % 16, imgH := c.u 58 3, padC := c.u 62 2 }

/-- Channels of a block. -/
def Geo.blk (g : Geo) : Nat := if g.c32 then 32 else 16

/-- Elements of one pixel, whole blocks of channels. -/
def Geo.pix (g : Geo) (ch : Nat) : Nat := cdiv ch g.blk * g.blk

/-- Gp: bytes of one pixel (R238). -/
def Geo.gp (g : Geo) (fmt ch : Nat) : Nat := fmtBits fmt * g.pix ch / 8

/-- Pitch of a row of `cols` pixels (R238). -/
def Geo.rowPitch (g : Geo) (fmt ch cols : Nat) : Nat := up32 (g.gp fmt ch * cols)

/-- The filter header: KH_F and KW_F (R243). -/
def State.filterSize (s : State) (t : Nat) (c : QCmd) : Nat × Nat := (leNat (s.tread t c.bAddr 1), leNat (s.tread t (c.bAddr + 1) 1))

/-- Whole filter size of a command: the header for CONV, the window for POOL (R245). -/
def State.fullSize (s : State) (t : Nat) (c : QCmd) (g : Geo) : Nat × Nat := if c.op = 0x11 then s.filterSize t c else (g.kh, g.kw)

/-- Output size of an axis; the division floors (R245). -/
def outSize (inp lo hi dil k stride : Nat) : Int := ((inp + lo + hi : Nat) - (dil * (k - 1) : Nat) - 1 : Int).fdiv stride + 1

/-- Rows of the input map for the output size: IMG_H, or END_ROW of the ring once it is set (R245). -/
def State.inRows (s : State) (t : Nat) (c : QCmd) (g : Geo) : Option Nat :=
  if g.imgH ≠ 0 then some g.imgH
  else
    let r := s.ringAt t c.aAddr
    if r.endRow = openEnd then none else some r.endRow

/-- Rows of the input map as far as they are known: from END_ROW on they are padded (R261). -/
def State.mapEnd (s : State) (t : Nat) (c : QCmd) (g : Geo) : Option Nat :=
  let e := (s.ringAt t c.aAddr).endRow
  if g.rollIn && e ≠ openEnd then some e else s.inRows t c g

/-- Output columns of a map command. -/
def State.outCols (s : State) (t : Nat) (c : QCmd) (g : Geo) : Int := outSize g.imgW g.pl g.pr g.dw (s.fullSize t c g).2 g.sw

/-- Output rows, once the input rows are known. -/
def State.outRows (s : State) (t : Nat) (c : QCmd) (g : Geo) : Option Int :=
  (s.inRows t c g).map (fun h => outSize h g.pt g.pb g.dh (s.fullSize t c g).1 g.sh)

/-- A halo ring of a tile's side: its channel's ring and the columns it holds (R269). -/
def State.haloOf (s : State) (t : Nat) (ch : Option Nat) : Option Halo := ch.bind (fun k => tfind (s.tileSt t).halos k)

/-- Columns of a halo row. -/
def Geo.hw (g : Geo) (fmt : Nat) (h : Halo) : Nat := h.rowBytes / g.gp fmt g.cin

/-- Address of the pixel of row `y`, column `x` inside the map, and the number of its MX block 0 with the address of its scale array: in the band, or in a halo ring (R238, R240, R259, R269). -/
def State.pixelAt (s : State) (t : Nat) (c : QCmd) (g : Geo) (y x : Nat) : Nat × Nat × Nat :=
  let gp := g.gp c.aFmt g.cin
  let cb := cdiv g.cin g.blk
  let halo (h : Halo) (i : Nat) : Nat × Nat × Nat :=
    let k := y % (h.depth + 2)
    (h.addr + k * h.rowBytes + i * gp, up32 (h.addr + (h.depth + 2) * h.rowBytes), (k * g.hw c.aFmt h + i) * cb)
  if x < g.c0 then
    match s.haloOf t g.hl with
    | some h => halo h (x + g.hw c.aFmt h - g.c0)
    | none => (0, 0, 0)
  else if g.c0 + g.bw ≤ x then
    match s.haloOf t g.hr with
    | some h => halo h (x - (g.c0 + g.bw))
    | none => (0, 0, 0)
  else
    let pitch := g.rowPitch c.aFmt g.cin g.bw
    if g.rollIn then
      let rr := (s.ringAt t c.aAddr).rows
      let k := y % rr
      (c.aAddr + 32 + k * pitch + (x - g.c0) * gp, up32 (c.aAddr + 32 + rr * pitch), (k * g.bw + (x - g.c0)) * cb)
    else (c.aAddr + y * pitch + (x - g.c0) * gp, up32 (c.aAddr + g.imgH * pitch), (y * g.bw + (x - g.c0)) * cb)

/-- The bits of channel `ch` at a position inside the map. -/
def State.inBits (s : State) (t : Nat) (c : QCmd) (g : Geo) (y x ch : Nat) : Nat := s.elemBits t c.aFmt (s.pixelAt t c g y x).1 ch

/-- The value that the bits of channel `ch` at a position inside the map stand for. -/
def State.inScaled (s : State) (t : Nat) (c : QCmd) (g : Geo) (y x ch bits : Nat) : FVal :=
  let v := decElem c.aFmt bits
  if fmtMx c.aFmt then
    let (_, sc, b) := s.pixelAt t c g y x
    mxScaled (leNat (s.tread t (sc + b + ch / 32) 1)) v
  else v

/-- The value of channel `ch` at a position inside the map. -/
def State.inMap (s : State) (t : Nat) (c : QCmd) (g : Geo) (y x ch : Nat) : FVal := s.inScaled t c g y x ch (s.inBits t c g y x ch)

/-- Clamp a position to 0 to n - 1. -/
def clampPos (i : Int) (n : Nat) : Nat := (max 0 (min i (n - 1 : Int))).toNat

/-- A position lies inside the map. -/
def Geo.inside (g : Geo) (h : Nat) (y x : Int) : Bool := decide (0 ≤ y) && decide (y < h) && decide (0 ≤ x) && decide (x < g.imgW)

/-- Where in the map the element at a position comes from: its own place, the nearest one for a padded position in EDGE mode, else none (R249). -/
def Geo.source (g : Geo) (h : Nat) (y x : Int) : Option (Nat × Nat) :=
  if g.inside h y x then some (y.toNat, x.toNat) else if g.mode = 1 then some (clampPos y h, clampPos x g.imgW) else none

/-- The bits of a padded position that no place of the map gives: ZERO or CONST (R249). -/
def Geo.padBits (g : Geo) : Nat := if g.mode = 2 then g.padC else 0

/-- The value at a position, inside the map or padded; none for a position left out (R249). -/
def State.inAt (s : State) (t : Nat) (c : QCmd) (g : Geo) (h : Nat) (y x : Int) (ch : Nat) : Option FVal :=
  match g.source h y x with
  | some (a, b) => some (s.inMap t c g a b ch)
  | none => if g.mode = 3 then none else some (decElem c.aFmt g.padBits)

/-- Row and column of tap (ky, kx) of an output position (R242). -/
def Geo.tapY (g : Geo) (r ky : Nat) : Int := (r * g.sh : Nat) - (g.pt : Int) + (g.dh * (7 * g.ta + ky) : Nat)
def Geo.tapX (g : Geo) (j kx : Nat) : Int := (j * g.sw : Nat) - (g.pl : Int) + (g.dw * (7 * g.tb + kx) : Nat)

/-- The columns that the computed outputs use are held or padded (R269). -/
def State.colsOk (s : State) (t : Nat) (c : QCmd) (g : Geo) (cols : Nat) : Bool :=
  (List.range cols).all (fun j => (List.range g.kw).all (fun kx =>
    let x0 := g.tapX (g.oc0 + j) kx
    let x := if g.mode = 1 then ((clampPos x0 g.imgW : Nat) : Int) else x0
    if x < 0 || g.imgW ≤ x then true
    else if x < g.c0 then
      match s.haloOf t g.hl with
      | some h => decide ((g.c0 : Int) - g.hw c.aFmt h ≤ x)
      | none => false
    else if (g.c0 + g.bw : Int) ≤ x then
      match s.haloOf t g.hr with
      | some h => decide (x < (g.c0 + g.bw + g.hw c.aFmt h : Int))
      | none => false
    else true))

/-- The reserved bits of R241 are 0. -/
def mapReserved (c : QCmd) : Bool := !bit (c.u 37 1) 0 && !bit (c.u 38 1) 4 && !bit (c.u 38 1) 0

/-- Common field ranges of CONV and POOL (R241, R244, R246, R249, R250). -/
def Geo.ok (g : Geo) (aFmt : Nat) (conv : Bool) : Bool :=
  1 ≤ g.kh && g.kh ≤ 7 && 1 ≤ g.kw && g.kw ≤ 7 && 1 ≤ g.sh && 1 ≤ g.sw && 1 ≤ g.dh && 1 ≤ g.dw
    && (g.mode ≠ 3 || !conv) && (g.mode ≠ 2 || !fmtMx aFmt) && (g.c32 || !fmtMx aFmt)
    && (!g.rollOut || g.or0 ≠ 0 || 2 ≤ g.ringRows) && 1 ≤ g.cin && g.cin ≤ 4096 && 1 ≤ g.cout && g.cout ≤ 4096
    && 1 ≤ g.imgW && g.imgW ≤ 32768 && 1 ≤ g.bw && g.bw ≤ 8192 && 1 ≤ g.ocn && g.ocn ≤ 8192 && 1 ≤ g.orn
    && (g.imgH ≠ 0 || g.rollIn) && g.c0 + g.bw ≤ g.imgW
    && (if conv then !g.dep || g.cin = g.cout else g.cin = g.cout && g.ta = 0 && g.tb = 0)
    && g.kh * g.kw * g.gp aFmt g.cin ≤ 32768

/-- The rings that a map command names agree with its geometry: pitches, the rows of a finished input ring, whole pixels in a halo row (R244, R261). -/
def State.ringsOk (s : State) (t : Nat) (c : QCmd) (g : Geo) : Bool :=
  let inOk :=
    if g.rollIn then
      let r := s.ringAt t c.aAddr
      r.pitch == g.rowPitch c.aFmt g.cin g.bw && decide (g.dh * (g.kh - 1) + 1 ≤ r.rows) && (g.imgH == 0 || r.endRow == openEnd || r.endRow == g.imgH)
    else true
  let outOk :=
    if g.rollOut && g.or0 ≠ 0 then (s.ringAt t c.outAddr).pitch == g.rowPitch c.outFmt g.cout g.ocn else true
  let haloOk (k : Option Nat) : Bool := k.isNone || (s.haloOf t k).any (fun h => h.rowBytes % g.gp c.aFmt g.cin == 0)
  inOk && outOk && haloOk g.hl && haloOk g.hr

/-- A map command's PARAMS and rings are in order. -/
def State.mapOk (s : State) (t : Nat) (c : QCmd) : Bool :=
  let g := geo c
  let conv := c.op == 0x11
  let f := s.filterSize t c
  g.ok c.aFmt conv && mapReserved c
    && (if conv then 1 ≤ f.1 && f.1 ≤ 112 && 1 ≤ f.2 && f.2 ≤ 112 && s.tread t (c.bAddr + 2) 30 == zeros 30 && 7 * g.ta + g.kh ≤ f.1 && 7 * g.tb + g.kw ≤ f.2
          && (g.c32 || !(fmtMx c.bFmt || fmtMx c.outFmt || (c.accEn && fmtMx c.accFmt)))
        else !(c.outFmt == 0xB || c.outFmt == 0xC || c.outFmt == 0xE))
    && s.ringsOk t c g && s.colsOk t c g (min g.ocn ((s.outCols t c g) - g.oc0).toNat)

/-- ARGMAX_C's PARAMS are in range: of them it uses LAYOUT, ROLL_IN, CIN, BAND_W, OR0 and ORN, and the others are 0 (R246, R258). -/
def State.argmaxOk (s : State) (t : Nat) (c : QCmd) : Bool :=
  let g := geo c
  c.outFmt = 4 && 1 ≤ g.cin && g.cin ≤ 4096 && 1 ≤ g.bw && g.bw ≤ 8192 && 1 ≤ g.orn
    && c.u 32 5 = 0 && c.u 37 1 &&& 0xD7 = 0 && c.u 38 2 = 0 && c.u 42 4 = 0 && c.u 46 2 = 0 && c.u 50 4 = 0 && c.u 58 6 = 0
    && (g.c32 || !fmtMx c.aFmt) && (!g.rollIn || (s.ringAt t c.aAddr).pitch == g.rowPitch c.aFmt g.cin g.bw)

/-! ### One output row -/

/-- The output array: a ring, or rows from the first one computed (R238, R259; log entry 42). -/
def State.mapOut (s : State) (t : Nat) (c : QCmd) (g : Geo) : Arr :=
  let ch := if c.op = 0x11 then g.cout else g.cin
  let pitch := g.rowPitch c.outFmt ch g.ocn
  if g.rollOut then ⟨c.outFmt, c.outAddr + 32, pitch, (s.ringAt t c.outAddr).rows, g.ocn * g.pix ch⟩
  else ⟨c.outFmt, c.outAddr, pitch, g.orn, g.ocn * g.pix ch⟩

/-- The input patch of an output position as the address generator copies it into a slot of the expansion buffer: taps in row order, whole blocks of channels, with the padded elements and zeros for the channels beyond the last (R239, R249, R250). -/
def State.patch (s : State) (t : Nat) (c : QCmd) (g : Geo) (h r j : Nat) : List Nat :=
  (List.range g.kh).flatMap (fun ky => (List.range g.kw).flatMap (fun kx => (List.range (g.pix g.cin)).map (fun ch =>
    if g.cin ≤ ch then 0
    else match g.source h (g.tapY r ky) (g.tapX j kx) with
      | some (y, x) => s.inBits t c g y x ch
      | none => g.padBits)))

/-- The value of an element of a patch, with the scale of the place that it comes from (R240). -/
def State.patchVal (s : State) (t : Nat) (c : QCmd) (g : Geo) (h r j ky kx ch bits : Nat) : FVal :=
  match g.source h (g.tapY r ky) (g.tapX j kx) with
  | some (y, x) => s.inScaled t c g y x ch bits
  | none => decElem c.aFmt bits

/-- The two patch slots after row `k` of a command, of `cols` positions: the positions of its rows, one after another, take them alternately, the first of a command slot 0 (R250). -/
def State.rowPatches (s : State) (t : Nat) (c : QCmd) (g : Geo) (h r k cols : Nat) : List (List Byte) :=
  (List.range 2).map (fun b =>
    match ((List.range cols).filter (fun j => (k * cols + j) % 2 == b)).getLast? with
    | some j => packBits (fmtBits c.aFmt) (s.patch t c g h r (g.oc0 + j))
    | none => (s.tileSt t).patches.getD b [])

/-- The lane of output channel `n` at (r, j) of a CONV, from the patch of its position (R242, R250). -/
def State.convLane (s : State) (t : Nat) (c : QCmd) (g : Geo) (h r j n : Nat) (patch : List Nat) : Lane :=
  let taps := g.kh * g.kw
  let cbf := if g.dep then 1 else cdiv g.cin g.blk
  let tapBytes := fmtBits c.bFmt * (cbf * g.blk) / 8
  let fp := up32 (taps * tapBytes)
  let scales := up32 (c.bAddr + 32 + g.cout * fp)
  let filt (tap k : Nat) : FVal :=
    let v := decElem c.bFmt (s.elemBits t c.bFmt (c.bAddr + 32 + n * fp + tap * tapBytes) k)
    if fmtMx c.bFmt then mxScaled (leNat (s.tread t (scales + (n * taps + tap) * cbf + k / 32) 1)) v else v
  let acc :=
    if !c.accEn then Lane.zero
    else if c.accFmt = 0xE then
      Lane.zero.addExact c.wbase (s.exactAt t (c.accAddr + (r - g.or0) * g.rowPitch 0xE g.cout g.ocn + (j - g.oc0) * g.gp 0xE g.cout + 32 * n))
    else Lane.zero.add c.wbase (s.elemAt t (Arr.vec c.accFmt c.accAddr g.cout) 0 n)
  (List.range g.kh).foldl (fun l ky => (List.range g.kw).foldl (fun l kx =>
    (if g.dep then [n] else List.range g.cin).foldl (fun l ch =>
      let v := s.patchVal t c g h r j ky kx ch (patch.getD ((ky * g.kw + kx) * g.pix g.cin + ch) 0)
      l.add c.wbase (fmul v (filt (ky * g.kw + kx) (if g.dep then n % g.blk else ch)))) l) l) acc

/-- The larger of two values of a window; NaN wins (R255). -/
def fmaxNan : FVal → FVal → FVal
  | .nan, _ => .nan
  | _, .nan => .nan
  | .inf true, y => y
  | x, .inf true => x
  | .inf false, _ => .inf false
  | _, .inf false => .inf false
  | .fin a, .fin b => .fin (max a b)

/-- The positions of a window of POOL with what each counts for: (value, inside the map). -/
def State.window (s : State) (t : Nat) (c : QCmd) (g : Geo) (h r j ch : Nat) : List (FVal × Bool) :=
  (List.range g.kh).flatMap (fun ky => (List.range g.kw).filterMap (fun kx =>
    let y := g.tapY r ky
    let x := g.tapX j kx
    (s.inAt t c g h y x ch).map (fun v => (v, g.inside h y x))))

/-- The output of POOL for one channel; a MAX window that holds no position gives a value that the manual does not state (R255, R256; log entry 76). -/
def State.poolLane (s : State) (t : Nat) (c : QCmd) (g : Geo) (h r j ch : Nat) : Lane :=
  let w := s.window t c g h r j ch
  if g.dep then
    let inside := (w.filter (·.2)).length
    let count := if g.mode = 3 then inside else if g.countPad then g.kh * g.kw else inside
    let sum := w.foldl (fun l x => l.add 0 x.1) Lane.zero
    if count = 0 then Lane.zero else { sum with q := sum.q / (count : Rat) }
  else
    match w with
    | [] => (decElem c.outFmt (Config.emptyMax c.bytes r j ch % 2 ^ 32)).lane
    | x :: rest => (rest.foldl (fun m y => fmaxNan m y.1) x.1).lane

/-- Output row `r` of CONV or POOL: `cols` pixels, with zeros in the channels beyond the last (R239, R242). -/
def State.mapRow (s : State) (t : Nat) (c : QCmd) (g : Geo) (h r cols : Nat) : List Lane :=
  let conv := c.op == 0x11
  let ch := if conv then g.cout else g.cin
  (List.range cols).flatMap (fun j =>
    let patch := if conv then s.patch t c g h r (g.oc0 + j) else []
    (List.range (g.pix ch)).map (fun n =>
      if ch ≤ n then Lane.zero
      else if conv then s.convLane t c g h r (g.oc0 + j) n patch else s.poolLane t c g h r (g.oc0 + j) n))

/-! ### Row by row -/

/-- The rows of the map that output row `r` reads: those of its taps that lie inside, and in EDGE mode the nearest ones for the others (R249, R261). -/
def State.needRows (s : State) (t : Nat) (c : QCmd) (g : Geo) (r : Nat) : List Nat :=
  let top := (s.mapEnd t c g).getD openEnd
  ((List.range g.kh).map (fun ky => g.tapY r ky)).filterMap (fun y =>
    let y := if g.mode = 1 then max 0 (min y ((top : Int) - 1)) else y
    if 0 ≤ y && y < top then some y.toNat else none)

/-- The ring and halo rows that output row `r` needs have arrived (R220, R261). -/
def State.rowsIn (s : State) (t : Nat) (c : QCmd) (g : Geo) (r : Nat) : Bool :=
  let need := s.needRows t c g r
  let arrived (head : Nat) : Bool := need.all (fun y => decide (y < head))
  (!g.rollIn || arrived (s.ringAt t c.aAddr).head)
    && (match s.haloOf t g.hl with | some h => arrived h.head | none => true)
    && (match s.haloOf t g.hr with | some h => arrived h.head | none => true)

/-- Output row `r` lies below the output size: in open mode the rows that have arrived must say so, since no row from the output size on is written (R245, R247). -/
def State.rowCounts (s : State) (t : Nat) (c : QCmd) (g : Geo) (r : Nat) : Bool :=
  match s.inRows t c g with
  | some _ => true
  | none => decide ((r : Int) < outSize (s.ringAt t c.aAddr).head g.pt g.pb g.dh (s.fullSize t c g).1 g.sh)

/-- A needed row was released already (R261). -/
def State.rowsGone (s : State) (t : Nat) (c : QCmd) (g : Geo) (r : Nat) : Bool :=
  g.rollIn && (s.needRows t c g r).any (fun y => decide (y < (s.ringAt t c.aAddr).rel))

/-- The output ring has room for row `r`; row 0 sets it up (R260). -/
def State.outRoom (s : State) (t : Nat) (c : QCmd) (g : Geo) (r : Nat) : Bool :=
  let o := s.ringAt t c.outAddr
  !g.rollOut || r == 0 || decide (o.head - o.rel < o.rows)

/-- CONV or POOL may begin output row `r`. -/
def State.rowReady (s : State) (t : Nat) (c : QCmd) (g : Geo) (r : Nat) : Bool := s.rowsIn t c g r && s.rowCounts t c g r && s.outRoom t c g r

/-- Move halo rows that wait in the replayed journal into rings with room (R231). -/
def feedHalo (t : Nat) : Nat → State → State
  | 0, s => s
  | n + 1, s =>
    let x := s.tileSt t
    match x.replay.find? (fun j => match j with
        | .halo ch _ => match tfind x.halos ch with
          | some h => decide (h.head - h.released < h.depth + 2)
          | none => false
        | _ => false) with
    | some (.halo ch row) =>
      match tfind x.halos ch with
      | some h =>
        let s := s.twrite t (h.addr + h.head % (h.depth + 2) * h.rowBytes) row
        feedHalo t n (s.modTile t (fun x => { x with replay := x.replay.erase (.halo ch row), halos := tput x.halos ch { h with head := h.head + 1 } }))
      | none => s
    | _ => s

/-- Release the ring rows below the first that row `r + 1` needs, the last of the map excepted, and halo rows in the same number (R220, R262): END_ROW is the ring header's, and IMG_H of a command without a ring (log entry 80). -/
def State.releaseRows (s : State) (t : Nat) (c : QCmd) (g : Geo) (r : Nat) : State :=
  let ring := s.ringAt t c.aAddr
  let last : Int := ((if g.rollIn then ring.endRow else g.imgH : Nat) : Int) - 1
  let upTo := (min (g.tapY (r + 1) 0) last).toNat
  let s := if g.rollIn then s.putRing t c.aAddr { ring with rel := max ring.rel upTo } else s
  let rel (s : State) (k : Option Nat) : State :=
    match k with
    | none => s
    | some k => s.modTile t (fun x => { x with halos := tupd x.halos k (fun h => { h with released := max h.released upTo }) })
  feedHalo t (s.tileSt t).replay.length (rel (rel s g.hl) g.hr)

/-- Rows that a command may still compute: its own, cut to the output size where that is known. -/
def State.rowLimit (s : State) (t : Nat) (c : QCmd) (g : Geo) : Nat :=
  match s.outRows t c g with
  | some n => min g.orn (n - g.or0).toNat
  | none => g.orn

/-- Row `r` of an output ring is about to be written: row 0 sets its header up (R260). -/
def State.initRing (s : State) (t : Nat) (c : QCmd) (g : Geo) (r : Nat) : State :=
  if g.rollOut && r = 0 then
    s.putRing t c.outAddr { rows := g.ringRows, head := 0, endRow := openEnd, rel := 0, pitch := g.rowPitch c.outFmt (if c.op = 0x11 then g.cout else g.cin) g.ocn }
  else s

/-- The writer of a ring sets END_ROW to its output height once that is known and the height's last row is written (R260; log entry 79). -/
def State.closeRing (s : State) (t : Nat) (c : QCmd) (g : Geo) : State :=
  let o := s.ringAt t c.outAddr
  if g.rollOut && o.endRow = openEnd && s.outRows t c g = some (o.head : Int) then s.putRing t c.outAddr { o with endRow := o.head } else s

/-- Write output row `r` and advance the ring (R242, R260). -/
def State.putRow (s : State) (t : Nat) (c : QCmd) (g : Geo) (r k : Nat) (row : List Lane) : State :=
  let s := s.initRing t c g r
  let out := s.mapOut t c g
  let s := s.writeRow t out (if g.rollOut then r % out.rows else k) c.wbase c.oshift c.satEn row
  if g.rollOut then
    let o := s.ringAt t c.outAddr
    (s.putRing t c.outAddr { o with head := o.head + 1 }).closeRing t c g
  else s

/-- CONV or POOL has no further row: a consumer without a ring releases its halo rows now (R220, R262; log entry 80). -/
def State.endMap (s : State) (t : Nat) (e : Engine) (c : QCmd) (g : Geo) : State :=
  let s := s.closeRing t c g
  (if g.rollIn then s else s.releaseRows t c g (g.or0 + g.orn - 1)).finish t e

/-- Work on a CONV or POOL row by row while its rows are there: `n` rows at most; completes after the last (R242, R255, R260-R262). QCmd.done counts rows, plus 1,024 once a term has missed. -/
def State.mapSteps (s : State) (t : Nat) (e : Engine) (c0 : QCmd) : Nat → State
  | 0 => s
  | n + 1 =>
    match s.running t e c0.op with
    | none => s
    | some c =>
      let g := geo c
      let k := c.done % 1024
      if s.rowLimit t c g ≤ k then s.endMap t e c g
      else
        let r := g.or0 + k
        if s.rowsGone t c g r then s.cmdFault t c fParam
        else if !s.rowReady t c g r then s
        else
          let h := (s.mapEnd t c g).getD openEnd
          let cols := min g.ocn (s.outCols t c g - g.oc0).toNat
          let row := s.mapRow t c g h r cols
          let missed := row.any (·.miss) && c.op == 0x11
          let s := if c.op = 0x11 then (let ps := s.rowPatches t c g h r k cols; s.modTile t (fun x => { x with patches := ps })) else s
          let s := if missed && c.done < 1024 then s.countMiss t [row] else s
          let s := s.putRow t c g r k row
          let s := if c.op = 0x11 then s.countProducts (max (fmtClass c.aFmt) (fmtClass c.bFmt)) (cols * g.cout * g.kh * g.kw * (if g.dep then 1 else g.cin)) else s
          let s := if g.rollIn then s.releaseRows t c g r else s
          let s := s.modHead t e (fun c => { c with done := (if missed && c.done < 1024 then c.done + 1024 else c.done) + 1 })
          State.mapSteps s t e c0 n

/-- CONV or POOL: EMPTY when an axis has no output or the first one lies beyond it, else row by row (R247). -/
def State.mapCmd (s : State) (t : Nat) (e : Engine) (op : Nat) : State :=
  match s.running t e op with
  | none => s
  | some c =>
    let g := geo c
    let oc := s.outCols t c g
    let empty := oc ≤ 0 || oc ≤ (g.oc0 : Int) ||
      match s.outRows t c g with
      | some n => n ≤ 0 || n ≤ (g.or0 : Int)
      | none => false
    if empty && c.done = 0 then ((if g.or0 = 0 then s else s.closeRing t c g).incReg PIT_CONV_EMPTY).finish t e
    else s.mapSteps t e c (g.orn + 1)

/-- A CONV pass works on its rows, and completes after the last. -/
def execConv (t : Fin 256) (s : State) : Out := s.onMain (fun s => s.mapCmd t .mac 0x11)

/-- A POOL works on its rows, and completes after the last. -/
def execPool (t : Fin 256) (s : State) : Out := s.onMain (fun s => s.mapCmd t .vec 0x21)

/-! ### ARGMAX_C (R258) -/

/-- Whether a channel's value takes the place of the best so far: NaN is left out, the lowest index wins ties. -/
def argBetter (best v : FVal) : Bool :=
  match best, v with
  | _, .nan => false
  | .nan, _ => true
  | .fin a, .fin b => decide (a < b)
  | .inf true, .inf true => false
  | .inf true, _ => true
  | .fin _, .inf false => true
  | _, _ => false

/-- The index of the largest channel of a pixel of a map of `h` rows; 0xFFFF when all are NaN. Rows from the map's end on are padded with 0 (R249, R261). -/
def State.argmaxAt (s : State) (t : Nat) (c : QCmd) (g : Geo) (h y x : Nat) : Nat :=
  ((List.range g.cin).foldl (fun (b : FVal × Nat) k =>
    let v := (s.inAt t c g h y x k).getD .nan
    if argBetter b.1 v then (v, k) else b) (.nan, 0xFFFF)).2

/-- Work on an ARGMAX_C row by row: ORN rows, those from END_ROW on padded (R258, R261; log entry 42). -/
def State.argSteps (s : State) (t : Nat) : Nat → State
  | 0 => s
  | n + 1 =>
    match s.running t .vec 0x22 with
    | none => s
    | some c =>
      let g0 := geo c
      let g := { g0 with kh := 1, sh := 1, dh := 1, imgW := g0.bw, imgH := if g0.rollIn then 0 else g0.or0 + g0.orn }
      let r := g.or0 + c.done
      let ring := s.ringAt t c.aAddr
      if g.orn ≤ c.done then s.finish t .vec
      else if g.rollIn && r < ring.rel && r < ring.endRow then s.cmdFault t c fParam
      else if g.rollIn && ring.head ≤ r && r < ring.endRow then s
      else
        let row := (List.range g.bw).map (fun x => s.argmaxAt t c g (if g.rollIn then ring.endRow else g.imgH) r x)
        let s := s.twrite t (c.outAddr + c.done * up32 (2 * g.bw)) (packBits 16 row)
        let s := if g.rollIn then s.releaseRows t c g r else s
        State.argSteps (s.modHead t .vec (fun c => { c with done := c.done + 1 })) t n

/-- An ARGMAX_C works on its rows, and completes after the last. -/
def execArgmaxC (t : Fin 256) (s : State) : Out := s.onMain (fun s => s.argSteps t 257)

end Sys2Proof.Machine
end

