-- ==== Sys2Proof/Machine/Attn.lean ====
section
/-! DEFINITION. Attention on the Pitch: length table and visible set, ATTN_SCORE, SOFTMAX_STEP, ATTN_VALUE, MERGE_EXACT, ROTARY, NORM, and KV_QUANT with the PAGED layout (R272-R292, R298-R309). -/

namespace Sys2Proof.Machine

/-! ### The length table and the visible set (R272-R274) -/

/-- An entry of the length table (R272). -/
structure LenRow where
  seq : Nat
  len : Nat
  qpos : Nat
  kbase : Nat
  vbase : Nat
  deriving DecidableEq, Repr, Inhabited

/-- Entry `r` of the length table at an address. -/
def State.lenRow (s : State) (t addr r : Nat) : LenRow :=
  let l := s.tread t (addr + 16 * r) 16
  { seq := leAt l 0 4, len := leAt l 4 2, qpos := leAt l 6 2, kbase := leAt l 8 4 % 2 ^ 20, vbase := leAt l 12 4 % 2 ^ 20 }

/-- A non-empty entry is in range. -/
def LenRow.ok (r : LenRow) : Bool := r.seq = 0 || (1 ≤ r.len && r.len ≤ 32768 && r.qpos < r.len)

/-- Fields of the PARAMS of R275. -/
structure AttF where
  rows : Nat
  qpg : Nat
  layout : Nat
  scaled : Bool
  causal : Bool
  dh : Nat
  k0 : Nat
  kn : Nat
  lenAddr : Nat
  stateAddr : Nat
  win : Nat
  nglob : Nat
  globAddr : Nat
  ringSlots : Nat
  deriving DecidableEq, Repr, Inhabited

/-- The PARAMS of an attention command. -/
def attF (c : QCmd) : AttF :=
  let b := c.u 35 1
  { rows := c.u 32 2, qpg := c.u 34 1, layout := b / 64, scaled := bit b 5, causal := bit b 4, dh := c.u 36 2, k0 := c.u 40 2, kn := c.u 42 2
    lenAddr := c.addr 44, stateAddr := c.addr 48, win := c.u 52 2, nglob := c.u 54 1, globAddr := c.addr 56, ringSlots := c.u 60 2 }

/-- The list of global positions. -/
def State.globs (s : State) (t : Nat) (f : AttF) : List Nat := (List.range f.nglob).map (fun i => leNat (s.tread t (f.globAddr + 2 * i) 2))

/-- Strictly ascending. -/
def ascending : List Nat → Bool
  | a :: b :: t => a < b && ascending (b :: t)
  | _ => true

/-- The visible set of a row in the order of its visible indices (R273, R274). -/
def visible (f : AttF) (globs : List Nat) (r : LenRow) : List Nat :=
  let lo : Int := if f.causal then (r.qpos : Int) - f.win + 1 else (r.qpos : Int) - (f.win / 2 : Nat)
  let hi : Int := if f.causal then r.qpos else min ((r.len : Int) - 1) (lo + f.win - 1)
  let a := (max 0 lo).toNat
  let n := (hi + 1 - a).toNat
  let g := globs.filter (fun p => p < r.len && (!f.causal || p ≤ r.qpos) && !(a ≤ p && p < a + n))
  g ++ (List.range n).map (· + a)

/-! ### Key and value layouts (R291, R292, R298-R305) -/

/-- A view (R304). -/
structure KView where
  ent : Nat
  lane : Nat
  nl : Nat
  npage : Nat
  pool : Nat
  side : Nat
  deriving DecidableEq, Repr, Inhabited

/-- The view at an address. -/
def State.viewAt (s : State) (t addr : Nat) : KView :=
  let l := s.tread t addr 32
  { ent := leAt l 0 4 % 2 ^ 20, lane := leAt l 4 1 % 8, nl := leAt l 5 1 % 16, npage := leAt l 6 2, pool := leAt l 8 4 % 2 ^ 20, side := leAt l 12 4 % 2 ^ 20 }

/-- The local frame of position `p` in a view, and FILL of its entry, when it is resident on the tile (R305). -/
def State.pageOf (s : State) (t : Nat) (v : KView) (p : Nat) : Option (Nat × Nat) :=
  let w := leNat (s.tread t (v.ent + 4 * (p / 16)) 4)
  if v.npage ≤ p / 16 || v.nl ≤ v.lane || w / 2 ^ 30 ≠ 1 || w / 64 % 256 ≠ t then none else some (w % 64, w / 2 ^ 24 % 32)

/-- SS: slot size without the scales (R298). -/
def slotBytes (fmt dh : Nat) : Nat := up32 (fmtBytes fmt dh)

/-- KS: slot size with the scales (R291). -/
def slotPitch (fmt dh : Nat) (scaled : Bool) : Nat := up32 (fmtBytes fmt dh + if scaled then dh / 16 else 0)

/-- Where position `p` lies: its elements, and its scales when SCALED is 1; none when it fails its condition (R291). -/
def State.slotAt (s : State) (t : Nat) (f : AttF) (fmt base : Nat) (r : LenRow) (p : Nat) : Option (Nat × Nat) :=
  let ks := slotPitch fmt f.dh f.scaled
  let dense (a : Nat) := some (a, a + fmtBytes fmt f.dh)
  match f.layout with
  | 0 => dense (base + p * ks)
  | 1 => if r.len ≤ p + f.ringSlots then dense (base + p % f.ringSlots * ks) else none
  | _ =>
    let v := s.viewAt t base
    match s.pageOf t v p with
    | some (fr, _) =>
      let l := v.lane * 16 + p % 16
      some (v.pool + 4096 * fr + l * slotBytes fmt f.dh, v.side + 128 * fr + 2 * (l * (f.dh / 32)))
    | none => none

/-- Where the scales of position `p` of an MX format begin: after the slots of its array (R214; log entry 43). -/
def AttF.mxScaleAt (f : AttF) (fmt base : Nat) (r : LenRow) (p : Nat) : Nat :=
  let slots := if f.layout = 1 then f.ringSlots else r.len
  up32 (base + slots * slotPitch fmt f.dh false) + (if f.layout = 1 then p % f.ringSlots else p) * (f.dh / 32)

/-- Element `d` of the key or value at a position (R280, R284). -/
def State.kvElem (s : State) (t : Nat) (f : AttF) (fmt base : Nat) (r : LenRow) (p d : Nat) : FVal :=
  match s.slotAt t f fmt base r p with
  | none => .nan
  | some (a, sc) =>
    let v := decElem fmt (s.elemBits t fmt a d)
    if f.scaled then fmul v (decElem 0x8 (leNat (s.tread t (sc + 2 * (d / 32)) 2)))
    else if fmtMx fmt then mxScaled (leNat (s.tread t (f.mxScaleAt fmt base r p + d / 32) 1)) v
    else v

/-! ### Checks (R272-R275, R284, R291, R292) -/

/-- Fields that every attention command uses. -/
def AttF.ok (f : AttF) : Bool :=
  1 ≤ f.rows && f.rows ≤ 256 && 1 ≤ f.qpg && f.qpg ≤ 16 && 32 ≤ f.dh && f.dh ≤ 256 && f.dh % 32 = 0

/-- Reserved bits, and the fields that a command does not use, are 0; the length table is 32-byte aligned (R275; log entry 81). -/
def attReserved (c : QCmd) : Bool :=
  let f := attF c
  c.u 35 1 % 16 = 0 && c.u 38 2 = 0 && c.u 55 1 = 0 && c.u 62 2 = 0 && c.u 44 4 < 2 ^ 20 && c.u 48 4 < 2 ^ 20 && c.u 56 4 < 2 ^ 20
    && (match c.op with
      | 0x12 => c.u 48 4 = 0 && f.lenAddr % 32 = 0 && (f.layout = 1 || f.ringSlots = 0)
      | 0x13 => f.lenAddr % 32 = 0 && (f.layout = 1 || f.ringSlots = 0)
      | 0x23 => c.u 35 1 = 0 && c.u 44 4 = 0 && c.u 52 10 = 0
      | _ => c.u 35 1 = 0 && c.u 40 22 = 0)

/-- The key block is in range. -/
def AttF.blockOk (f : AttF) : Bool := 1 ≤ f.kn && f.kn ≤ 4160

/-- Visible indices of a row that the block holds: (place in the block, position). -/
def blockKeys (f : AttF) (vis : List Nat) : List (Nat × Nat) :=
  (List.range f.kn).filterMap (fun i => (vis[f.k0 + i]?).map (fun p => (i, p)))

/-- ATTN_SCORE and ATTN_VALUE: fields, length table, global positions, and every visible position of the block meets its condition. -/
def State.attOk (s : State) (t : Nat) (c : QCmd) : Bool :=
  let f := attF c
  let globs := s.globs t f
  let value := c.op == 0x13
  let rows := (List.range f.rows).map (fun r => s.lenRow t f.lenAddr r)
  f.ok && attReserved c && f.blockOk && f.layout ≠ 3 && (!f.scaled || c.bFmt = 0 || c.bFmt = 2) && 1 ≤ f.win && f.win ≤ 4096 && f.nglob ≤ 64 && ascending globs
    && (f.layout ≠ 1 || (16 ≤ f.ringSlots && f.ringSlots ≤ 8192 && f.nglob = 0 && f.win ≤ f.ringSlots))
    && (if value then c.outFmt = 0xE && c.accFmt = 0xE && c.aFmt = 8 else c.outFmt = 0xA)
    && rows.all LenRow.ok
    && rows.all (fun r => r.seq = 0 || (blockKeys f (visible f globs r)).all (fun k =>
        (s.slotAt t f c.bFmt (if value then r.vbase else r.kbase) r k.2).isSome))

/-! ### ATTN_SCORE (R280) -/

/-- Pitch of the rows of scores and weights (R276). -/
def AttF.sp (f : AttF) : Nat := up32 (4 * f.kn)

/-- −∞ as a lane. -/
def minusInf : Lane := { Lane.zero with ninf := true }

/-- The scores of row `r`, head `h`. -/
def State.scoreRow (s : State) (t : Nat) (c : QCmd) (f : AttF) (globs : List Nat) (r h : Nat) : List Lane :=
  let e := s.lenRow t f.lenAddr r
  let qp := up32 (fmtBytes c.aFmt f.dh)
  let q : Arr := ⟨c.aFmt, c.aAddr, qp, f.rows * f.qpg, f.dh⟩
  let vis := visible f globs e
  (List.range f.kn).map (fun i =>
    match vis[f.k0 + i]? with
    | some p =>
      if e.seq = 0 then minusInf
      else dotInto c.wbase Lane.zero f.dh (fun d => s.elemAt t q (r * f.qpg + h) d) (fun d => s.kvElem t f c.bFmt e.kbase e p d)
    | none => minusInf)

/-- Every (row, head) in order. -/
def AttF.pairs (f : AttF) : List (Nat × Nat) := (List.range f.rows).flatMap (fun r => (List.range f.qpg).map (fun h => (r, h)))

/-- ATTN_SCORE: exact dot products of queries and visible keys, rounded once. -/
def State.attnScore (s : State) (t : Nat) (c : QCmd) : State :=
  let f := attF c
  let globs := s.globs t f
  let rows := f.pairs.map (fun x => s.scoreRow t c f globs x.1 x.2)
  let out : Arr := ⟨c.outFmt, c.outAddr, f.sp, f.rows * f.qpg, f.kn⟩
  ((s.countMiss t rows).countProducts (max (fmtClass c.aFmt) (fmtClass c.bFmt)) (f.rows * f.qpg * f.kn * f.dh)).writeRows t out c.wbase c.oshift c.satEn 0 rows

/-- ATTN_SCORE completes. -/
def execAttnScore (t : Fin 256) (s : State) : Out := s.onMain (fun s => s.runCmd t .mac 0x12 (fun s c => .ok (s.attnScore t c)))

/-! ### SOFTMAX_STEP (R281-R283) -/

/-- A row state (R282). -/
structure RowState where
  l : Lane
  m : Int
  delta : Nat
  nan : Bool
  deriving DecidableEq, Repr, Inhabited

/-- The row state at an address. -/
def State.rowState (s : State) (t addr : Nat) : RowState :=
  let b := s.tread t addr 64
  { l := Lane.decode b, m := sgn 16 (leAt b 32 2), delta := leAt b 34 2, nan := bit (leAt b 36 1) 0 }

/-- Bytes of a row state; BASE of L lies lower than WBASE by the shift it has taken. -/
def RowState.bytes (x : RowState) (base : Int) : List Byte :=
  (x.l.encode base).1 ++ leBytes 2 (uns 16 x.m) ++ leBytes 2 x.delta ++ leBytes 1 (b2n x.nan) ++ zeros 27

/-- BASE of an EXACT element at an address. -/
def State.baseAt (s : State) (t addr : Nat) : Int := sgn 16 (leNat (s.tread t (addr + 16) 2))

/-- The old state of a (row, head) with the BASE of its L (R282). -/
def State.oldState (s : State) (t : Nat) (c : QCmd) (k : Nat) : RowState × Int :=
  if c.accEn then (s.rowState t (c.accAddr + 64 * k), s.baseAt t (c.accAddr + 64 * k))
  else ({ l := Lane.zero, m := -48, delta := 0, nan := false }, c.wbase)

/-- A score after the clamp: none for −∞; whether it was clamped, whether it was NaN (R283). -/
def clampScore : FVal → Option Rat × Bool × Bool
  | .nan => (none, false, true)
  | .inf true => (none, false, false)
  | .inf false => (some 47, true, false)
  | .fin q => if q < -48 then (some (-48), true, false) else if 47 < q then (some 47, true, false) else (some q, false, false)

/-- ceil of a rational. -/
def ratCeil (q : Rat) : Int := -(ratFloor (-q))

/-- A weight word (R281). -/
def weightWord : Option (Nat × Int) → Nat
  | none => 2 ^ 31
  | some (t, n) => (-n).toNat % 256 * 2 ^ 23 + (t - 1024) % 1024

/-- The value of a weight word; none for a zero weight. -/
def weightOf (w : Nat) : Option Rat :=
  if bit w 31 then none else some ((1024 + w % 1024 : Nat) / 1024 * pow2 (-(w / 2 ^ 23 % 256 : Nat)))

/-- One (row, head) of a SOFTMAX_STEP: weights, new state with the BASE of its L, scores clamped (R283). -/
def softmaxRow (old : RowState × Int) (scores : List FVal) : List Nat × RowState × Int × Nat :=
  let cs := scores.map clampScore
  let nan := old.1.nan || cs.any (fun x => x.2.2)
  let best := cs.foldl (fun (b : Option Rat) x =>
    match b, x.1 with
    | none, y => y
    | some a, some y => some (max a y)
    | some a, none => some a) none
  let m := match best with
    | some b => max old.1.m (ratCeil b)
    | none => old.1.m
  let d := (m - old.1.m).toNat
  let ws := cs.map (fun x => x.1.map (fun q => expWeight (q - m)))
  let l0 := old.1.l.scale (-(d : Int))
  let l := ws.foldl (fun (l : Lane) w =>
    match w with
    | some (t, n) => { l with q := l.q + (t : Rat) / 1024 * pow2 n }
    | none => l) l0
  (ws.map weightWord, { l := l, m := m, delta := d, nan := nan }, old.2 - d, (cs.filter (fun x => x.2.1)).length)

/-- SOFTMAX_STEP for the pairs from `k` on; faults where an old state holds M out of range. -/
def State.softmaxRows (s : State) (t : Nat) (c : QCmd) (f : AttF) : Nat → State
  | 0 => s
  | n + 1 =>
    let k := f.rows * f.qpg - (n + 1)
    let old := s.oldState t c k
    let a : Arr := ⟨0xA, c.aAddr, f.sp, f.rows * f.qpg, f.kn⟩
    let (ws, x, base, cl) := softmaxRow old ((List.range f.kn).map (fun i => s.elemAt t a k i))
    let s := s.twrite t (c.outAddr + k * f.sp) (packBits 32 ws)
    let s := s.twrite t (f.stateAddr + 64 * k) (x.bytes base)
    let s := s.incFld PIT_ATTN_CNT PIT_ATTN_CNT_CLAMP_CNT cl
    let s := if x.nan && !old.1.nan then s.incFld PIT_ATTN_CNT PIT_ATTN_CNT_NAN_ROW_CNT else s
    State.softmaxRows s t c f n

/-- SOFTMAX_STEP completes. -/
def execSoftmaxStep (t : Fin 256) (s : State) : Out :=
  s.onMain (fun s => s.runCmd t .vec 0x23 (fun s c =>
    let f := attF c
    let bad := (List.range (f.rows * f.qpg)).any (fun k => let m := (s.oldState t c k).1.m; decide (m < -48) || decide (47 < m))
    if bad then .error fParam else .ok (s.softmaxRows t c f (f.rows * f.qpg))))

/-! ### ATTN_VALUE (R284, R285) -/

/-- The lane of row `r`, head `h`, dimension `d`. The window lies at WBASE (R180); O_old is an EXACT term whose BASE is lower by DELTA (R284; log entry 75). -/
def State.valueLane (s : State) (t : Nat) (c : QCmd) (f : AttF) (globs : List Nat) (r h d : Nat) : Lane :=
  let e := s.lenRow t f.lenAddr r
  let k := r * f.qpg + h
  let delta := (s.rowState t (f.stateAddr + 64 * k)).delta
  let old := if c.accEn then (s.exactAt t (c.accAddr + k * 32 * f.dh + 32 * d)).scale (-(delta : Int)) else Lane.zero
  let start := if c.accEn then Lane.zero.addExact c.wbase old else Lane.zero
  if e.seq = 0 then start
  else
    (blockKeys f (visible f globs e)).foldl (fun l x =>
      match weightOf (leNat (s.tread t (c.aAddr + k * f.sp + 4 * x.1) 4)) with
      | none => l
      | some w => l.add c.wbase (fmul (.fin w) (s.kvElem t f c.bFmt e.vbase e x.2 d))) start

/-- ATTN_VALUE: O = O_old × 2^−DELTA and the weighted sum of the visible values, exact, times 2^OSHIFT (R185; log entry 45). -/
def State.attnValue (s : State) (t : Nat) (c : QCmd) : State :=
  let f := attF c
  let globs := s.globs t f
  let rows := f.pairs.map (fun x => (List.range f.dh).map (fun d => s.valueLane t c f globs x.1 x.2 d))
  let out : Arr := ⟨0xE, c.outAddr, 32 * f.dh, f.rows * f.qpg, f.dh⟩
  ((s.countMiss t rows).countProducts (max 3 (fmtClass c.bFmt)) (f.rows * f.qpg * f.kn * f.dh)).writeRows t out c.wbase c.oshift c.satEn 0 rows

/-- ATTN_VALUE completes. -/
def execAttnValue (t : Fin 256) (s : State) : Out := s.onMain (fun s => s.runCmd t .mac 0x13 (fun s c => .ok (s.attnValue t c)))

/-! ### MERGE_EXACT (R287, R288) -/

/-- Two lanes added, their flags ORed. -/
def Lane.plus (a b : Lane) : Lane :=
  { q := a.q + b.q, nan := a.nan || b.nan, pinf := a.pinf || b.pinf, ninf := a.ninf || b.ninf, rnd := a.rnd || b.rnd, miss := false }

/-- One (row, head) of a merge; OSHIFT acts on O and not on the row state (R185; log entry 45). -/
def State.mergePair (s : State) (t : Nat) (c : QCmd) (f : AttF) (k : Nat) : State :=
  let n := f.rows * f.qpg
  let o (base d : Nat) : Nat := base + 64 * n + (k * f.dh + d) * 32
  let a := s.rowState t (c.aAddr + 64 * k)
  let b := s.rowState t (c.bAddr + 64 * k)
  let m := max a.m b.m
  let x : RowState := { l := (a.l.scale (a.m - m)).plus (b.l.scale (b.m - m)), m := m, delta := 0, nan := a.nan || b.nan }
  let row := (List.range f.dh).map (fun d => ((s.exactAt t (o c.aAddr d)).scale (a.m - m)).plus ((s.exactAt t (o c.bAddr d)).scale (b.m - m)))
  let s := s.twrite t (c.outAddr + 64 * k) (x.bytes c.wbase)
  s.writeRow t ⟨0xE, c.outAddr + 64 * n, 32 * f.dh, n, f.dh⟩ k c.wbase c.oshift c.satEn row

/-- MERGE_EXACT completes. -/
def execMergeExact (t : Fin 256) (s : State) : Out :=
  s.onMain (fun s => s.runCmd t .vec 0x24 (fun s c =>
    let f := attF c
    .ok ((List.range (f.rows * f.qpg)).foldl (fun s k => s.mergePair t c f k) s)))

/-! ### ROTARY (R277, R278) -/

/-- The partner and the pair index of dimension `d`: (a, b, i); none for a dimension in no pair. -/
def rotPair (pairing rotD d : Nat) : Option (Nat × Nat × Nat) :=
  match pairing with
  | 0 => if d < rotD then some (d / 2 * 2, d / 2 * 2 + 1, d / 2) else none
  | 1 => if d < rotD then (let i := d % (rotD / 2); some (i, i + rotD / 2, i)) else none
  | _ => none

/-- The PARAMS of ROTARY are in range. -/
def rotOk (c : QCmd) : Bool :=
  let p := c.u 34 1 % 4
  let dh := c.u 36 2
  let rd := c.u 38 2
  1 ≤ c.u 32 2 && c.u 32 2 ≤ 4096 && c.u 34 1 < 4 && p ≠ 3 && 32 ≤ dh && dh ≤ 256 && dh % 32 = 0 && rd % 2 = 0 && rd ≤ dh && (p ≠ 2 || rd = 0)

/-- Positions of ROTARY lie in 0 to 32,767. -/
def State.rotPosOk (s : State) (t : Nat) (c : QCmd) : Bool :=
  (List.range (c.u 32 2)).all (fun v => leNat (s.tread t (c.addr 44 + 2 * v) 2) ≤ 32767)

/-- Vector `v` rotated. -/
def State.rotRow (s : State) (t : Nat) (c : QCmd) (v : Nat) : List Lane :=
  let dh := c.u 36 2
  let rd := c.u 38 2
  let a : Arr := ⟨c.aFmt, c.aAddr, up32 (fmtBytes c.aFmt dh), c.u 32 2, dh⟩
  let pos := leNat (s.tread t (c.addr 44 + 2 * v) 2)
  let sc := fp32 (c.u 40 4)
  (List.range dh).map (fun d =>
    let y : FVal :=
      match rotPair (c.u 34 1 % 4) rd d with
      | none => s.elemAt t a v d
      | some (p, q, i) =>
        match fp32 (leNat (s.tread t (c.bAddr + 4 * i) 4)) with
        | .fin fr =>
          let w : Rat := (pos : Rat) * fr
          let k := (ratFloor ((w - ratFloor w) * 65536)).toNat
          let x := s.elemAt t a v p
          let z := s.elemAt t a v q
          if d = p then fadd (fmul x (.fin (cosT k))) (fmul z (.fin (-(sinT k)))) else fadd (fmul x (.fin (sinT k))) (fmul z (.fin (cosT k)))
        | _ => .nan
    (fmul sc y).lane)

/-- ROTARY completes. -/
def execRotary (t : Fin 256) (s : State) : Out :=
  s.onMain (fun s => s.runCmd t .vec 0x25 (fun s c =>
    let dh := c.u 36 2
    let out : Arr := ⟨c.outFmt, c.outAddr, up32 (fmtBytes c.outFmt dh), c.u 32 2, dh⟩
    if s.rotPosOk t c then .ok (s.writeRows t out c.wbase c.oshift c.satEn 0 ((List.range (c.u 32 2)).map (fun v => s.rotRow t c v))) else .error fParam))

/-! ### NORM (R286) -/

/-- The PARAMS of NORM are in range: EPS finite and at least 0. -/
def normOk (c : QCmd) : Bool :=
  let mode := c.u 34 1 % 4
  let n := c.u 36 2
  1 ≤ c.u 32 2 && c.u 32 2 ≤ 4096 && mode ≠ 3 && 1 ≤ n && n ≤ 8192 && (mode ≠ 0 || n % 32 = 0)
    && (match fp32 (c.u 40 4) with
      | .fin q => decide (0 ≤ q)
      | _ => false)

/-- Row `r` of SOFTDIV. -/
def State.softdivRow (s : State) (t : Nat) (c : QCmd) (r : Nat) : List Lane :=
  let rows := c.u 32 2
  let n := c.u 36 2
  let x := s.rowState t (c.aAddr + 64 * r)
  (List.range n).map (fun d =>
    let o := s.exactAt t (c.aAddr + 64 * rows + (r * n + d) * 32)
    if x.nan then FVal.nan.lane else if x.l.q = 0 then { Lane.zero with rnd := x.l.rnd } else { o with q := o.q / x.l.q, rnd := o.rnd || x.l.rnd })

/-- Special terms of a sum of squares: NaN and infinities of the input. -/
def rowSpecial (xs : List FVal) : Bool := xs.any FVal.special

/-- Row `r` of RMS or LAYER. A row that holds a NaN or an infinity has no exact statistics: by R187 its sums are NaN or an infinity, and what the steps after them give is NaN but for an element divided by an infinite root (log entry 44). -/
def State.normRow (s : State) (t : Nat) (c : QCmd) (r : Nat) : List Lane :=
  let n := c.u 36 2
  let a : Arr := ⟨c.aFmt, c.aAddr, up32 (fmtBytes c.aFmt n), c.u 32 2, n⟩
  let xs := (List.range n).map (fun k => s.elemAt t a r k)
  let g (k : Nat) := s.elemAt t (Arr.vec c.bFmt c.bAddr n) 0 k
  let bias (k : Nat) : Lane := if c.accEn then s.biasAt t c.accFmt c.accAddr n k else Lane.zero
  let out (k : Nat) (v : FVal) : Lane := { (fadd v (bias k).val).lane with rnd := (bias k).rnd }
  let eps : Rat := match fp32 (c.u 40 4) with
    | .fin q => q
    | _ => 0
  let num (v : FVal) : Rat := match v with
    | .fin q => q
    | _ => 0
  let layer := c.u 34 1 % 4 == 2
  if rowSpecial xs then
    (List.range n).map (fun k =>
      let inv : FVal := if layer || xs.any (fun v => v == .nan) then .nan else .fin 0
      out k (fmul (fmul (xs.getD k .nan) (g k)) inv))
  else
    let mu : Rat := if layer then (xs.map num).foldl (· + ·) 0 / (n : Rat) else 0
    let arg : Rat := (xs.map (fun v => (num v - mu) * (num v - mu))).foldl (· + ·) 0 / (n : Rat) + eps
    (List.range n).map (fun k =>
      if arg = 0 then out k (.fin 0)
      else out k (fmul (fmul (.fin (num (xs.getD k (.fin 0)) - mu)) (g k)) (rsqrtVal arg)))

/-- NORM completes. -/
def execNorm (t : Fin 256) (s : State) : Out :=
  s.onMain (fun s => s.runCmd t .vec 0x26 (fun s c =>
    let n := c.u 36 2
    let out : Arr := ⟨c.outFmt, c.outAddr, up32 (fmtBytes c.outFmt n), c.u 32 2, n⟩
    .ok (s.writeRows t out c.wbase c.oshift c.satEn 0
      ((List.range (c.u 32 2)).map (fun r => if c.u 34 1 % 4 = 0 then s.softdivRow t c r else s.normRow t c r)))))

/-! ### KV_QUANT (R308, R309) -/

/-- The PARAMS and formats of KV_QUANT are in range. -/
def kvqOk (c : QCmd) : Bool :=
  let dh := c.u 36 2
  let scaled := bit (c.u 34 1) 0
  1 ≤ c.u 32 2 && c.u 32 2 ≤ 256 && c.u 34 1 < 2 && 32 ≤ dh && dh ≤ 256 && dh % 32 = 0 && (c.aFmt = 8 || c.aFmt = 9 || c.aFmt = 0xA)
    && (if scaled then c.outFmt = 0 || c.outFmt = 2 else c.outFmt = 6 || c.outFmt = 7 || c.outFmt = 8 || c.outFmt = 9)

/-- The address of the view of vector `v`. -/
def State.kvqView (s : State) (t : Nat) (c : QCmd) (v : Nat) : Nat := leNat (s.tread t (c.addr 40 + 8 * v) 4) % 2 ^ 20

/-- Destination of vector `v`: its view and its position. -/
def State.kvqDest (s : State) (t : Nat) (c : QCmd) (v : Nat) : KView × Nat :=
  (s.viewAt t (s.kvqView t c v), leNat (s.tread t (c.addr 40 + 8 * v + 4) 2))

/-- Every destination is resident and its slot reserved. -/
def State.kvqDestOk (s : State) (t : Nat) (c : QCmd) : Bool :=
  (List.range (c.u 32 2)).all (fun v =>
    let (w, p) := s.kvqDest t c v
    match s.pageOf t w p with
    | some (_, fill) => p % 16 < fill
    | none => false)

/-- A group of 32 elements quantised: scale bits, element bits, clamps, NaN groups (R309). -/
def quantGroup (fmt : Nat) (xs : List FVal) : Nat × List Nat × Nat × Nat :=
  let qmax : Int := if fmt = 2 then 127 else 7
  let w := fmtBits fmt
  if xs.any FVal.special then (0x7E00, xs.map (fun _ => 0), 0, 1)
  else
    let a := (xs.map FVal.mag).foldl max 0
    if a = 0 then (0, xs.map (fun _ => 0), 0, 0)
    else
      let e := encFloat 0x8 true (.fin (a / qmax))
      let bits := if e.bits = 0 then 1 else e.bits
      let sc : Rat := match decElem 0x8 bits with
        | .fin q => q
        | _ => 1
      let qs := xs.map (fun v =>
        match v with
        | .fin q => roundEven (q / sc)
        | _ => 0)
      (bits, qs.map (fun i => uns w (max (-qmax) (min qmax i))), (qs.filter (fun i => i < -qmax || qmax < i)).length, 0)

/-- One vector into its slot. -/
def State.kvqRow (s : State) (t : Nat) (c : QCmd) (v : Nat) : State :=
  let dh := c.u 36 2
  let a : Arr := ⟨c.aFmt, c.aAddr, up32 (fmtBytes c.aFmt dh), c.u 32 2, dh⟩
  let xs := (List.range dh).map (fun d => s.elemAt t a v d)
  let (w, p) := s.kvqDest t c v
  match s.pageOf t w p with
  | none => s
  | some (fr, _) =>
    let l := w.lane * 16 + p % 16
    let at_ := w.pool + 4096 * fr + l * slotBytes c.outFmt dh
    if bit (c.u 34 1) 0 then
      let gs := (chunks32 dh xs).map (quantGroup c.outFmt)
      let s := s.twrite t at_ (packBits (fmtBits c.outFmt) (gs.flatMap (fun g => g.2.1)))
      let s := s.twrite t (w.side + 128 * fr + 2 * (l * (dh / 32))) (gs.flatMap (fun g => leBytes 2 g.1))
      (s.incFld PIT_ARITH_CNT PIT_ARITH_CNT_SAT_CNT ((gs.map (fun g => g.2.2.1)).foldl (· + ·) 0)).incFld PIT_ARITH_CNT PIT_ARITH_CNT_NAN_INT_CNT
        ((gs.map (fun g => g.2.2.2)).foldl (· + ·) 0)
    else
      let es := xs.map (fun x => encElem c.outFmt c.satEn (fshift c.oshift x))
      (s.twrite t at_ (packBits (fmtBits c.outFmt) (es.map (·.bits)))).countEnc es

/-- KV_QUANT completes. -/
def execKvQuant (t : Fin 256) (s : State) : Out :=
  s.onMain (fun s => s.runCmd t .vec 0x27 (fun s c =>
    if s.kvqDestOk t c then .ok ((List.range (c.u 32 2)).foldl (fun s v => s.kvqRow t c v) s) else .error fParam))

end Sys2Proof.Machine
end

