-- ==== Sys2Proof/Machine/Commands.lean ====
section
/-! DEFINITION. Starting a command with its checks, barriers, and the commands of the MSG engine (R205-R228, R259-R268, R340). -/

namespace Sys2Proof.Machine

/-! ### Ranges (R208, R209, R215) -/

/-- How a command names a range: plainly, or as the writer or the consumer of a rolling ring, whose header then orders their access (R263). -/
inductive Role where
  | plain | writer | consumer
  deriving DecidableEq, Repr, Inhabited

/-- A range of the tile store that a command reads or writes. -/
structure Rng where
  addr : Nat
  len : Nat
  role : Role
  deriving DecidableEq, Repr, Inhabited

/-- An array's range. -/
def Arr.rng (a : Arr) : Rng := ⟨a.addr, a.span, .plain⟩

/-- Two ranges share a byte (R209). -/
def Rng.overlaps (a b : Rng) : Bool := 0 < a.len && 0 < b.len && a.addr < b.addr + b.len && b.addr < a.addr + a.len

/-- Two ranges of different commands share a byte, those of the writer and the consumer of one ring apart (R208, R263). -/
def Rng.meets (a b : Rng) : Bool :=
  a.overlaps b && !(a.addr == b.addr && ((a.role == .writer && b.role == .consumer) || (a.role == .consumer && b.role == .writer)))

/-- The range of the ACC operand of MATMUL and CONV: EXACT elements or a bias vector. -/
def accRng (c : QCmd) (exact count : Nat) : List Rng :=
  if !c.accEn then [] else if c.accFmt = 0xE then [⟨c.accAddr, exact, .plain⟩] else [(Arr.vec c.accFmt c.accAddr count).rng]

/-- The input map of a map command. -/
def State.inRng (s : State) (t : Nat) (c : QCmd) (g : Geo) (rows : Nat) : Rng :=
  let pitch := g.rowPitch c.aFmt g.cin g.bw
  let scales (k : Nat) : Nat := if fmtMx c.aFmt then k * g.bw * cdiv g.cin g.blk else 0
  if g.rollIn then let k := (s.ringAt t c.aAddr).rows; ⟨c.aAddr, 32 + k * pitch + scales k, .consumer⟩
  else ⟨c.aAddr, rows * pitch + scales rows, .plain⟩

/-- The output map of CONV and POOL. -/
def State.outRng (s : State) (t : Nat) (c : QCmd) (g : Geo) : Rng :=
  if g.rollOut then
    let k := if g.or0 = 0 then g.ringRows else (s.ringAt t c.outAddr).rows
    ⟨c.outAddr, 32 + ({ s.mapOut t c g with rows := k }).span, .writer⟩
  else (s.mapOut t c g).rng

/-- The halo ring of a channel as a map command finds it: what the last earlier HALO_OPEN that still waits sets up, else what the tile holds (R208, R269). -/
def State.haloRng (s : State) (t : Nat) (c : QCmd) (g : Geo) (ch : Option Nat) : List Rng :=
  match ch with
  | none => []
  | some k =>
    match ((s.tileSt t).msg.filter (fun o => o.op = 0x32 && o.u 32 1 = k && o.index < c.index)).getLast? with
    | some o => [⟨o.outAddr, (o.u 33 1 + 2) * o.u 36 2, .plain⟩]
    | none =>
      match tfind (s.tileSt t).halos k with
      | some h =>
        let n := h.depth + 2
        [⟨h.addr, n * h.rowBytes + if fmtMx c.aFmt then n * g.hw c.aFmt h * cdiv g.cin g.blk else 0, .plain⟩]
      | none => []

/-- The halo rings that a map command reads. -/
def State.haloRngs (s : State) (t : Nat) (c : QCmd) (g : Geo) : List Rng := s.haloRng t c g g.hl ++ s.haloRng t c g g.hr

/-- Bytes of the filters of a CONV with their header and scales (R243). -/
def filtSpan (c : QCmd) (g : Geo) : Nat :=
  let cbf := if g.dep then 1 else cdiv g.cin g.blk
  let fp := up32 (g.kh * g.kw * (fmtBits c.bFmt * (cbf * g.blk) / 8))
  32 + g.cout * fp + if fmtMx c.bFmt then g.cout * g.kh * g.kw * cbf else 0

/-- The view and the page table entry through which a position is found in PAGED layout (R304, R305). -/
def pageRngs (v : KView) (base p : Nat) (paged : Bool) : List Rng := if paged then [⟨base, 32, .plain⟩, ⟨v.ent + 4 * (p / 16), 4, .plain⟩] else []

/-- The slots of keys or values that an attention command reads. -/
def State.slotRngs (s : State) (t : Nat) (c : QCmd) (f : AttF) (value : Bool) : List Rng :=
  let globs := s.globs t f
  (List.range f.rows).flatMap (fun r =>
    let e := s.lenRow t f.lenAddr r
    let base := if value then e.vbase else e.kbase
    if e.seq = 0 then []
    else
      (blockKeys f (visible f globs e)).flatMap (fun k =>
        (match s.slotAt t f c.bFmt base e k.2 with
        | some (a, sc) => [⟨a, fmtBytes c.bFmt f.dh, .plain⟩, if f.scaled then ⟨sc, f.dh / 16, .plain⟩ else ⟨f.mxScaleAt c.bFmt base e k.2, if fmtMx c.bFmt then f.dh / 32 else 0, .plain⟩]
        | none => []) ++ pageRngs (s.viewAt t base) base k.2 (f.layout == 2)))

/-- The tile of the same job whose ring on a channel was open when that tile failed, and which its replay will open again: the receiver of HALO_PUT for the time being (R231). -/
def State.haloComing (s : State) (t ch : Nat) : Option (Nat × Halo) :=
  match s.jobOf t with
  | none => none
  | some j => j.tiles.findSome? (fun u =>
      match tfind (s.tileSt u).halos ch, tfind (s.tileSt u).lostHalos ch with
      | none, some h => if h.peer = t then some (u, h) else none
      | _, _ => none)

/-- The ring that HALO_PUT or HALO_CLOSE of a tile works on. -/
def State.haloRing (s : State) (t ch : Nat) : Option (Nat × Halo) := (s.haloPeer t ch).or (s.haloComing t ch)

/-- The next output of a tile is one that its receiver accepted before a remap (R231). -/
def State.outOld (s : State) (t : Nat) : Bool := (s.tileSt t).outSeq + 1 ≤ (s.tileSt t).accepted

/-- A tile is restored, or rows of a channel wait in its replayed journal (R231). -/
def State.haloReplays (s : State) (u ch : Nat) : Bool :=
  (s.tileSt u).restoring || (s.tileSt u).replay.any (fun j => match j with
    | .halo k _ => k == ch
    | _ => false)

/-- The next row of a HALO_PUT waits for room in its peer's ring, or for a peer that is restored, replays, or has yet to open its ring again (R220, R231). -/
def State.putWaits (s : State) (t : Nat) (c : QCmd) : Bool :=
  let ch := c.u 32 1
  decide (c.done < c.u 33 1) && !s.outOld t &&
  match s.haloPeer t ch with
  | some (u, h) => h.depth + 2 ≤ h.head - h.released || s.haloReplays u ch
  | none => (s.haloComing t ch).isSome

/-- Bytes of a partial (R287). -/
def AttF.partial_ (f : AttF) : Nat := f.rows * f.qpg * (64 + 32 * f.dh)

/-- The ranges a command reads. -/
def State.readsOf (s : State) (t : Nat) (c : QCmd) : List Rng :=
  let g := geo c
  let f := attF c
  let n := f.rows * f.qpg
  match c.op with
  | 0x10 => [(mmA c).rng, (mmB c).rng] ++ accRng c (32 * (c.u 36 2) * (c.u 38 2)) (c.u 38 2)
  | 0x11 => [s.inRng t c g g.imgH, ⟨c.bAddr, filtSpan c g, .plain⟩] ++ s.haloRngs t c g ++ accRng c (g.rowPitch 0xE g.cout g.ocn * g.orn) g.cout
  | 0x12 => [(Arr.mk c.aFmt c.aAddr (up32 (fmtBytes c.aFmt f.dh)) n f.dh).rng, ⟨f.lenAddr, 16 * f.rows, .plain⟩, ⟨f.globAddr, 2 * f.nglob, .plain⟩] ++ s.slotRngs t c f false
  | 0x13 => [⟨c.aAddr, n * f.sp, .plain⟩, ⟨f.lenAddr, 16 * f.rows, .plain⟩, ⟨f.globAddr, 2 * f.nglob, .plain⟩, ⟨f.stateAddr, 64 * n, .plain⟩]
      ++ (if c.accEn then [⟨c.accAddr, n * 32 * f.dh, .plain⟩] else []) ++ s.slotRngs t c f true
  | 0x20 => [(cvIn c).rng]
  | 0x21 => [s.inRng t c g g.imgH] ++ s.haloRngs t c g
  | 0x22 => [s.inRng t c g (g.or0 + g.orn)]
  | 0x23 => [⟨c.aAddr, n * f.sp, .plain⟩] ++ (if c.accEn then [⟨c.accAddr, 64 * n, .plain⟩] else [])
  | 0x24 => [⟨c.aAddr, f.partial_, .plain⟩, ⟨c.bAddr, f.partial_, .plain⟩]
  | 0x25 => [(Arr.mk c.aFmt c.aAddr (up32 (fmtBytes c.aFmt (c.u 36 2))) (c.u 32 2) (c.u 36 2)).rng, ⟨c.bAddr, 2 * c.u 38 2, .plain⟩, ⟨c.addr 44, 2 * c.u 32 2, .plain⟩]
  | 0x26 =>
      if c.u 34 1 % 4 = 0 then [⟨c.aAddr, c.u 32 2 * (64 + 32 * c.u 36 2), .plain⟩]
      else [(Arr.mk c.aFmt c.aAddr (up32 (fmtBytes c.aFmt (c.u 36 2))) (c.u 32 2) (c.u 36 2)).rng, (Arr.vec c.bFmt c.bAddr (c.u 36 2)).rng]
        ++ accRng c (32 * c.u 36 2) (c.u 36 2)
  | 0x27 => [(Arr.mk c.aFmt c.aAddr (up32 (fmtBytes c.aFmt (c.u 36 2))) (c.u 32 2) (c.u 36 2)).rng, ⟨c.addr 40, 8 * c.u 32 2, .plain⟩]
        ++ (List.range (c.u 32 2)).flatMap (fun v => let (w, p) := s.kvqDest t c v; pageRngs w (s.kvqView t c v) p true)
  | 0x30 => [⟨c.aAddr, c.u 40 4, .plain⟩]
  | 0x33 => match s.haloRing t (c.u 32 1) with
    | some (_, h) => [⟨c.aAddr, c.u 33 1 * h.rowBytes, .plain⟩]
    | none => []
  | 0x36 => [⟨c.aAddr, c.u 40 4, .plain⟩]
  | 0x38 => [⟨c.aAddr, c.u 32 2 * up32 (fmtBytes c.aFmt (c.u 48 4 % 2 ^ 17)), .plain⟩, ⟨c.addr 44, 16 * c.u 32 2, .plain⟩]
  | _ => []

/-- The ranges a command writes. -/
def State.writesOf (s : State) (t : Nat) (c : QCmd) : List Rng :=
  let g := geo c
  let f := attF c
  let n := f.rows * f.qpg
  match c.op with
  | 0x10 => [(mmOut c).rng]
  | 0x11 => [s.outRng t c g]
  | 0x12 => [⟨c.outAddr, n * f.sp, .plain⟩]
  | 0x13 => [⟨c.outAddr, n * 32 * f.dh, .plain⟩]
  | 0x20 => [(cvOut c).rng]
  | 0x21 => [s.outRng t c g]
  | 0x22 => [⟨c.outAddr, g.orn * up32 (2 * g.bw), .plain⟩]
  | 0x23 => [⟨c.outAddr, n * f.sp, .plain⟩, ⟨f.stateAddr, 64 * n, .plain⟩]
  | 0x24 => [⟨c.outAddr, f.partial_, .plain⟩]
  | 0x25 => [(Arr.mk c.outFmt c.outAddr (up32 (fmtBytes c.outFmt (c.u 36 2))) (c.u 32 2) (c.u 36 2)).rng]
  | 0x26 => [(Arr.mk c.outFmt c.outAddr (up32 (fmtBytes c.outFmt (c.u 36 2))) (c.u 32 2) (c.u 36 2)).rng]
  | 0x27 => (List.range (c.u 32 2)).flatMap (fun v =>
      let (w, p) := s.kvqDest t c v
      match s.pageOf t w p with
      | some (fr, _) =>
        let l := w.lane * 16 + p % 16
        [⟨w.pool + 4096 * fr + l * slotBytes c.outFmt (c.u 36 2), fmtBytes c.outFmt (c.u 36 2), .plain⟩, ⟨w.side + 128 * fr + 2 * (l * (c.u 36 2 / 32)), if bit (c.u 34 1) 0 then c.u 36 2 / 16 else 0, .plain⟩]
      | none => [])
  | 0x31 => [⟨c.outAddr, c.u 40 4, .plain⟩]
  | 0x32 => [⟨c.outAddr, (c.u 33 1 + 2) * c.u 36 2, .plain⟩]
  | 0x34 => match tfind (s.tileSt t).halos (c.u 32 1) with
    | some h => [⟨h.addr, (h.depth + 2) * h.rowBytes, .plain⟩]
    | none => []
  | 0x35 => [⟨c.outAddr, c.u 40 4, .plain⟩]
  | 0x37 =>
      let k := if bit (c.u 32 1) 5 then c.u 33 1 else (s.ringAt t c.outAddr).rows
      [⟨c.outAddr, 32 + k * 32 * c.u 36 2, .writer⟩]
  | 0x38 => [⟨c.outAddr, 4 * c.u 32 2, .plain⟩]
  | _ => []

/-! ### Checks -/

/-- LEN or MAX_LEN of a MSG command is in range. -/
def msgLenOk (c : QCmd) : Bool := let n := c.u 40 4; n % 32 = 0 && 32 ≤ n && n ≤ 65536

/-- PARAMS of the MSG commands (R216, R220, R265, R340). -/
def msgOk (s : State) (c : QCmd) : Bool :=
  match c.op with
  | 0x30 => msgLenOk c
  | 0x31 => msgLenOk c
  | 0x32 => c.u 32 1 ≤ 3 && 1 ≤ c.u 33 1 && c.u 33 1 ≤ 14 && c.u 36 2 % 32 = 0 && 32 ≤ c.u 36 2 && c.u 36 2 ≤ 8192 && (c.u 33 1 + 2) * c.u 36 2 ≤ 65536
  | 0x33 => c.u 32 1 ≤ 3 && 1 ≤ c.u 33 1 && c.u 33 1 ≤ 16
  | 0x34 => c.u 32 1 ≤ 3
  | 0x35 => msgLenOk c && c.u 32 8 % 32 = 0
  | 0x36 => msgLenOk c && c.u 32 8 % 32 = 0
  | 0x37 => c.u 32 1 &&& 0xDC = 0 && (!bit (c.u 32 1) 5 || 2 ≤ c.u 33 1) && 1 ≤ c.u 36 2 && c.u 36 2 ≤ 8192 && 1 ≤ c.u 38 1 && c.outAddr % 32 = 0
      && c.u 34 2 + c.u 36 2 ≤ s.fld (LIN_PORT_CFG (c.u 32 1 % 4)) LIN_PORT_CFG_PIX
  | 0x38 => 1 ≤ c.u 32 2 && c.u 32 2 ≤ 256 && 1 ≤ c.u 36 4 && c.u 36 4 ≤ 65536 && c.u 40 4 + c.u 48 4 ≤ c.u 36 4 && 1 ≤ c.u 52 1 && c.u 52 1 ≤ 16
      && c.u 53 1 < c.u 52 1 && (c.aFmt = 8 || c.aFmt = 0xA)
  | _ => true

/-- PARAMS of an opcode. -/
def State.paramsOk (s : State) (t : Nat) (c : QCmd) : Bool :=
  let f := attF c
  match c.op with
  | 0x10 => mmOk c
  | 0x11 => s.mapOk t c
  | 0x12 => s.attOk t c
  | 0x13 => s.attOk t c
  | 0x21 => s.mapOk t c
  | 0x22 => s.argmaxOk t c
  | 0x23 => f.ok && attReserved c && f.blockOk
  | 0x24 => f.ok && attReserved c
  | 0x25 => rotOk c
  | 0x26 => normOk c
  | 0x27 => kvqOk c
  | 0x33 => msgOk s c && ((s.haloRing t (c.u 32 1)).isSome || (s.tileSt t).outSeq + c.u 33 1 ≤ (s.tileSt t).accepted)
  | _ => msgOk s c

/-- Terms of an output lane (R179). -/
def termCount (c : QCmd) : Nat :=
  match c.op with
  | 0x10 => c.u 32 4 + b2n c.accEn
  | _ => 0

/-- The code with which a command is refused as it starts, if any (R171, R179, R209, R215, R235; WBASE and OSHIFT outside their ranges as PARAM, log entry 45). -/
def State.refusal (s : State) (t : Nat) (c : QCmd) : Option Nat :=
  let arith := 0x10 ≤ c.op && c.op < 0x30
  let badMul (f : Nat) : Bool := f = 5 || f = 0xE || f = 0xF
  let rs := s.readsOf t c
  let ws := s.writesOf t c
  if arith && (badMul c.aFmt || badMul c.bFmt || c.outFmt = 0xF || (c.accEn && c.accFmt = 0xF) || 2 ^ 26 < termCount c) then some fFormat
  else if arith && (c.wbase < -320 || 192 < c.wbase || c.oshift < -64 || 63 < c.oshift) then some fParam
  else if !s.paramsOk t c then some fParam
  else if (rs ++ ws).any (fun r => 0 < r.len && 2 ^ 20 < r.addr + r.len) then some fAddr
  else if ws.any (fun w => rs.any (fun r => w.overlaps r)) then some fAlias
  else none

/-- The ranges that a command reads, as the interlock takes them: of a HALO_PUT whose peer has no ring open yet, as much as rows of the largest size fill (R208, R220; log entry 47). -/
def State.mayRead (s : State) (t : Nat) (c : QCmd) : List Rng :=
  if c.op = 0x33 && (s.haloRing t (c.u 32 1)).isNone then [⟨c.aAddr, c.u 33 1 * 8192, .plain⟩] else s.readsOf t c

/-- An earlier command of the tile that has not completed and lies on another engine keeps this one from starting (R208). -/
def State.interlocked (s : State) (t : Nat) (e : Engine) (c : QCmd) : Bool :=
  let x := s.tileSt t
  let others := ([Engine.mac, .vec, .msg].filter (fun k => k != e)).flatMap (fun k => x.queue k)
  let hits (a b : List Rng) : Bool := a.any (fun r => b.any (fun q => r.meets q))
  (others.filter (fun o => o.index < c.index)).any (fun o =>
    hits (s.writesOf t o) (s.mayRead t c ++ s.writesOf t c) || hits (s.mayRead t o) (s.writesOf t c))

/-! ### Messages (R219, R226) -/

/-- The next output number of a tile; an output that its receiver accepted before a remap is not sent again (R231). -/
def State.nextOut (s : State) (t : Nat) : Nat × Bool × State :=
  let x := s.tileSt t
  (x.outSeq + 1, x.outSeq + 1 ≤ x.accepted, s.modTile t (fun x => { x with outSeq := x.outSeq + 1 }))

/-- A receiver has accepted an output of a tile. -/
def State.accept (s : State) (t seq : Nat) : State := s.modTile t (fun x => { x with accepted := max x.accepted seq })

/-- What starting a MSG command sets going: SEND puts its message on the way, a STREAM_IN with FIRST notes when it began; replayed, it keeps the moment noted before (R231, R268). -/
def State.startMsg (s : State) (t : Nat) (c : QCmd) : State :=
  match c.op with
  | 0x30 =>
    let (seq, old, s) := s.nextOut t
    let s := s.modHead t .msg (fun c => { c with done := seq })
    if old then s
    else { s with msgs := s.msgs ++ [{ src := t, dst := c.u 32 1, tag := c.u 34 2, ckptNo := (s.tileSt t).ckptNo, seq := seq, data := s.tread t c.aAddr (c.u 40 4) }] }
  | 0x37 =>
    if bit (c.u 32 1) 5 then s.modTile t (fun x => { x with streamAt := none, binds := if (tfind x.binds c.index).isSome then x.binds else tput x.binds c.index (ns48 s.now, none) })
    else s
  | _ => s

/-- A command that works row by row can fault after its first row: what its write ranges hold, the ring of its peer for HALO_PUT among them, and what is released of the rings that it reads is kept (R235). -/
def State.keepBefore (s : State) (t : Nat) (c : QCmd) : QCmd :=
  let rows := c.op = 0x11 || c.op = 0x21 || c.op = 0x22
  let g := geo c
  let halo (k : Option Nat) : Tbl Nat := match k with
    | some k => ((tfind (s.tileSt t).halos k).map (fun h => (k, h.released))).toList
    | none => []
  { c with
    before :=
      if rows || c.op = 0x37 then (s.writesOf t c).map (fun r => s.keepRange t r.addr r.len)
      else if c.op = 0x33 then ((s.haloPeer t (c.u 32 1)).map (fun p => s.keepRange p.1 p.2.addr ((p.2.depth + 2) * p.2.rowBytes))).toList
      else []
    released := if rows then (if c.op = 0x22 then [] else halo g.hl ++ halo g.hr) ++ (if g.rollIn then [(4, (s.ringAt t c.aAddr).rel)] else []) else [] }

/-- Frames that an attention command reads in PAGED layout stay until the tile's next CKPT (R227, R315). -/
def State.noteFrames (s : State) (t : Nat) (c : QCmd) : State :=
  let f := attF c
  if (c.op = 0x12 || c.op = 0x13) && f.layout = 2 then
    let globs := s.globs t f
    let fs := (List.range f.rows).flatMap (fun r =>
      let e := s.lenRow t f.lenAddr r
      if e.seq = 0 then []
      else (blockKeys f (visible f globs e)).filterMap (fun k => (s.pageOf t (s.viewAt t (if c.op = 0x13 then e.vbase else e.kbase)) k.2).map (fun p => chipKey t p.1)))
    s.modTile t (fun x => { x with readFrames := (x.readFrames ++ fs).eraseDups })
  else s

/-- A queued command starts once its semaphore wait and the interlock are satisfied, or is refused; it then reads its operands: an uncorrectable word fails the tile (R210, R211, R235, R526, R528; log entry 68). -/
def execCommandStart (t : Fin 256) (e : Engine) (s : State) : Out :=
  s.onMain (fun s =>
    let x := s.tileSt t
    match x.queue e with
    | [] => s
    | c :: _ =>
      if c.started || x.stopped || !s.tileRuns t || !x.waitMet c || s.interlocked t e c then s
      else
        match s.refusal t c with
        | some code => s.cmdFault t c code
        | none =>
          let (s, good) := (s.readsOf t c).foldl (fun (y : State × Bool) r => if y.2 then y.1.didTread t r.addr r.len else y) (s, true)
          if !good then s
          else ((s.modHead t e (fun c => { s.keepBefore t c with started := true, startTb := s.tb, done := 0, sent := 0 })).startMsg t c).noteFrames t c)

/-- A NOP acts through its semaphore fields only (R216). -/
def execNop (t : Fin 256) (e : Engine) (s : State) : Out := s.onMain (fun s => s.runCmd t e 0 (fun s _ => .ok s))

/-! ### CKPT and END (R224) -/

/-- The regions of a CKPT: page numbers. -/
def ckptPages (c : QCmd) : List Nat :=
  (List.range (min 8 (c.u 34 1))).flatMap (fun k =>
    let w := c.u (36 + 2 * k) 2
    (List.range (w % 256 + 1)).map (fun i => w / 256 + i))

/-- A barrier command with an opcode stands at a tile whose engines are idle, and its wait is met. -/
def State.barrierAt (s : State) (t op : Nat) : Option QCmd :=
  let x := s.tileSt t
  match x.barrier with
  | some c => if c.op = op && s.tileRuns t && !x.stopped && x.mac = [] && x.vec = [] && x.msg = [] && x.waitMet c then some c else none
  | none => none

/-- A CKPT or END completes: the pages that are live and dirty go to the slots that the current checkpoint does not use, the other record makes the new checkpoint, the journal is cleared, the tile is at a cut or its end; an uncorrectable word among those pages fails the tile instead (R224-R228, R302, R528). The bits of a record and of the journal are not in the manual; both are held as state (log entry 46). -/
def State.checkpoint (s : State) (t op : Nat) : State :=
  match s.barrierAt t op, s.jobOf t with
  | some c, some j =>
    let named := (ckptPages c).eraseDups
    let pages := (named ++ s.poolPages t).eraseDups
    let due := pages.filter (fun p => s.dirty.contains (256 * t + p))
    if 8 < c.u 34 1 || c.u 35 1 ≠ 0 || c.u 52 12 ≠ 0 then s.jobFault t fParam op c.index
    else if named.any (fun p => 256 ≤ p) then s.jobFault t fAddr op c.index
    else if !Config.dramGranted j.part (s.ckptArea t) 0x400000 then s.jobFault t fPerm op c.index
    else
      match s.regulate j.part .dram (s.ctxSt j.ctx).cls (due.length * 4096 + 4096) (whoOf 1 t) with
      | (s, false) => s
      | (s, true) =>
       match due.foldl (fun (y : State × Bool) p => if y.2 then y.1.didTread t (4096 * p) 4096 else y) (s, true) with
       | (s, false) => s
       | (s, true) =>
        let x := (s.tileSt t).signal c
        let no := c.u 32 2
        let slots := due.foldl (fun l p => tput l p (1 - tget 1 l p)) ((x.ckpt.map (·.slots)).getD [])
        let s := due.foldl (fun s p => s.pageToSlot t p (tget 0 slots p)) s
        let k : Ckpt := { pos := c.index + 1, sems := x.sems, halos := x.halos, pages := pages, live := named.length, slots := slots, no := no, outSeq := x.outSeq, streamAt := x.streamAt }
        let x := { x with barrier := none, ckpt := some k, prior := x.ckpt, ckptNo := no, journal := [], journalBytes := 0, replay := [], wcetSum := 0, readFrames := [], newFrames := [], lostHalos := []
                          binds := [], stepsDone := 0, atCut := true, ended := op == 2 }
        (({ s with tiles := tput s.tiles t x, dirty := s.dirty.filter (fun p => !(p / 256 = t && due.contains (p % 256))) }).countCmd t).tileAtCut t
  | _, _ => s

/-- CKPT completes. -/
def execCkpt (t : Fin 256) (s : State) : Out := s.onMain (fun s => s.checkpoint t 1)

/-- END completes and ends the tile's list. -/
def execEndList (t : Fin 256) (s : State) : Out := s.onMain (fun s => s.checkpoint t 2)

/-! ### SEND and RECV (R219, R225, R226) -/

/-- An input joins a tile's journal; false when it would overflow the 256 KiB (R225). -/
def State.journal (s : State) (t : Nat) (j : JIn) (bytes : Nat) : State × Bool :=
  let x := s.tileSt t
  if 262144 < x.journalBytes + bytes then (s, false)
  else (s.modTile t (fun x => { x with journal := x.journal ++ [j], journalBytes := x.journalBytes + bytes }), true)

/-- A SEND completes once the matching RECV has written its message. -/
def execSend (t : Fin 256) (s : State) : Out :=
  s.onMain (fun s =>
    match s.running t .msg 0x30 with
    | none => s
    | some c => if s.msgs.any (fun m => m.src == t && m.seq == c.done) then s else s.finish t .msg)

/-- Take the first replayed message of a source and TAG. -/
def takeReplay (src tag : Nat) : List JIn → Option (List Byte × List JIn)
  | [] => none
  | .msg a b d :: l => if a = src && b = tag then some (d, l) else (takeReplay src tag l).map (fun x => (x.1, .msg a b d :: x.2))
  | j :: l => (takeReplay src tag l).map (fun x => (x.1, j :: x.2))

/-- A RECV writes the matching message: from the replayed journal, which keeps it, else the first that its source sent; it faults on length or cut. -/
def execRecv (t : Fin 256) (s : State) : Out :=
  s.onMain (fun s =>
    match s.running t .msg 0x31 with
    | none => s
    | some c =>
      let src := c.u 32 1
      let tag := c.u 34 2
      match takeReplay src tag (s.tileSt t).replay with
      | some (d, rest) =>
        ((s.modTile t (fun x => { x with replay := rest })).twrite t c.outAddr d).finish t .msg
      | none =>
        match s.msgs.find? (fun m => m.src == src && m.dst == t.val && m.tag == tag) with
        | none => s
        | some m =>
          if c.u 40 4 < m.data.length then s.cmdFault t c fMsgLen
          else if m.ckptNo ≠ (s.tileSt t).ckptNo then s.cmdFault t c fCut
          else
            match s.journal t (.msg src tag m.data) m.data.length with
            | (s, false) => s.cmdFault t c fJournal
            | (s, true) => (((({ s with msgs := s.msgs.erase m }).accept src m.seq)).twrite t c.outAddr m.data).finish t .msg)

/-! ### Halo channels (R220, R269) -/

/-- HALO_OPEN sets up the ring of DEPTH + 2 rows; a channel opened again begins anew. -/
def execHaloOpen (t : Fin 256) (s : State) : Out :=
  s.onMain (fun s => s.runCmd t .msg 0x32 (fun s c =>
    let h : Halo := { cmd := c.index, addr := c.outAddr, depth := c.u 33 1, rowBytes := c.u 36 2, peer := c.u 34 1, head := 0, released := 0 }
    .ok (feedHalo t (s.tileSt t).replay.length (s.modTile t (fun x => { x with halos := tput x.halos (c.u 32 1) h, lostHalos := tdel x.lostHalos (c.u 32 1) })))))

/-- Send rows of a HALO_PUT while the peer's ring has room; `n` at most. A row sent again after a remap is discarded (R231). A row that would overflow the peer's journal ends the job: the fault is the peer's, at its place in its list (R225; log entry 47). -/
def State.putRows (s : State) (t : Nat) : Nat → State
  | 0 => s
  | n + 1 =>
    match s.running t .msg 0x33 with
    | none => s
    | some c =>
      let ch := c.u 32 1
      if c.u 33 1 ≤ c.done then s.finish t .msg
      else if s.outOld t then State.putRows ((s.nextOut t).2.2.modHead t .msg (fun c => { c with done := c.done + 1 })) t n
      else if s.putWaits t c then s
      else
        match s.haloPeer t ch with
        | none => s.cmdFault t c fParam
        | some (u, h) =>
          if 2 ^ 20 < c.aAddr + c.u 33 1 * h.rowBytes then s.cmdFault t c fAddr
          else
            let row := s.tread t (c.aAddr + c.done * h.rowBytes) h.rowBytes
            match s.journal u (.halo ch row) row.length with
            | (s, false) => (((c.before.foldl State.putRange s).unrelease t c).modTile t (fun x => x.without c.index)).jobFault u fJournal c.op (s.tileSt u).pos
            | (s, true) =>
              let (seq, _, s) := s.nextOut t
              let s := (s.accept t seq).twrite u (h.addr + h.head % (h.depth + 2) * h.rowBytes) row
              let s := s.modTile u (fun x => { x with halos := tput x.halos ch { h with head := h.head + 1 } })
              State.putRows (s.modHead t .msg (fun c => { c with done := c.done + 1, sent := c.sent + 1 })) t n

/-- A HALO_PUT sends rows as the peer's ring has room, and completes after the last; its rows must lie in the store. -/
def execHaloPut (t : Fin 256) (s : State) : Out := s.onMain (fun s => s.putRows t 17)

/-- A HALO_CLOSE of a peer's ring waits for a peer that is restored or has yet to open that ring again (R231). -/
def State.closeWaits (s : State) (t : Nat) (c : QCmd) : Bool :=
  let ch := c.u 32 1
  (tfind (s.tileSt t).halos ch).isNone && !s.outOld t &&
  match s.haloPeer t ch with
  | some (u, _) => s.haloReplays u ch
  | none => (s.haloComing t ch).isSome

/-- HALO_CLOSE closes the tile's own ring on the channel, or the peer's ring that it feeds; that is an output, which a replay does not send again (R231; log entry 47). -/
def execHaloClose (t : Fin 256) (s : State) : Out :=
  s.onMain (fun s =>
    match s.running t .msg 0x34 with
    | none => s
    | some c =>
      let ch := c.u 32 1
      let drop (s : State) (u : Nat) : State := s.modTile u (fun x => { x with halos := tdel x.halos ch, lostHalos := tdel x.lostHalos ch })
      if (tfind (s.tileSt t).halos ch).isSome then (drop s t).finish t .msg
      else if s.outOld t then (s.nextOut t).2.2.finish t .msg
      else if s.closeWaits t c then s
      else
        match s.haloPeer t ch with
        | some (u, _) => let (seq, _, s) := s.nextOut t; (drop (s.accept t seq) u).finish t .msg
        | none => s.cmdFault t c fParam)

/-! ### STREAM_IN (R265-R267) -/

/-- The bytes of a ring row from a line's planes: C16 UQ12, `n` pixels from `c0` on. -/
def streamRow (planes : List (List Nat)) (c0 n : Nat) : List Byte :=
  (List.range n).flatMap (fun i => planes.flatMap (fun p => leBytes 2 (p.getD (c0 + i) 0 % 4096)) ++ zeros (32 - 2 * planes.length))

/-- The SIDE that a STREAM_IN with FIRST streams, by its ID: the one it took before a replay, the one named, or the first that opened on its port since it started (R265, R268). -/
def State.streamTarget (s : State) (t : Nat) (c : QCmd) : Option Nat :=
  let b := (tfind (s.tileSt t).binds c.index).getD (0, none)
  let id := c.u 40 4
  if b.2.isSome then b.2
  else if id ≠ 0 then (if (s.liveItem id).isSome || (tfind s.sideEnds id).isSome then some id else none)
  else
    (((s.sides.filter (fun x => x.2.port == c.u 32 1 % 4 && decide (0 ≤ nsDiff (s.item x.1).openStamp b.1))).foldl (fun (b : Option Nat) x =>
      match b with
      | none => some x.1
      | some y => if nsDiff (s.item x.1).openStamp (s.item y).openStamp < 0 then some x.1 else some y) none).map s.itemId)

/-- Lines of a SIDE, by its ID, that no tile needs any more leave the port's buffer (R99): every tile that streams it has taken them. -/
def State.trimStream (s : State) (n side : Nat) : State :=
  let needs (l : StreamLine) : Bool := s.tiles.any (fun x => x.2.streamAt.any (fun a => a.1 == side && a.2 ≤ l.lineNo))
  s.modLin n (fun p => { p with stream := p.stream.filter (fun l => l.side != side || needs l) })

/-- The next line of a SIDE that a tile takes: from the replayed journal, else from the buffer, with its number not below `y`. -/
def State.nextLine (s : State) (t n side y : Nat) : Option (StreamLine × Bool) :=
  match (s.tileSt t).replay.findSome? (fun j => match j with
      | .line l => if l.side = side && y ≤ l.lineNo then some l else none
      | _ => none) with
  | some l => some (l, true)
  | none => ((s.linPort n).stream.find? (fun l => l.side == side && y ≤ l.lineNo)).map (fun l => (l, false))

/-- A STREAM_IN starts its map at row 0. -/
def QCmd.first (c : QCmd) : Bool := bit (c.u 32 1) 5

/-- The ring as a STREAM_IN finds it before row `y`: set up anew before row 0 (R260). -/
def State.streamRing (s : State) (t : Nat) (c : QCmd) (y : Nat) : Ring :=
  if c.first && y = 0 then { rows := c.u 33 1, head := 0, endRow := openEnd, rel := 0, pitch := 32 * c.u 36 2 } else s.ringAt t c.outAddr

/-- A ring holds as many unreleased rows as it can (R260). -/
def Ring.full (r : Ring) : Bool := r.rows ≤ r.head - r.rel

/-- What a SIDE gives a stream, by its ID: its port, whether it has sealed, and the number of its lines as far as it is known; one whose entry is free again has sealed with the lines it had (R267). -/
def State.streamEnd (s : State) (c : QCmd) (side y : Nat) : Nat × Bool × Nat :=
  match (s.liveItem side).bind (tfind s.sides) with
  | some d => (d.port, d.flushed || (s.item (side % 2 ^ 20)).state == .done, d.lines)
  | none =>
    match tfind s.sideEnds side with
    | some e => (e.1, true, e.2)
    | none => (c.u 32 1 % 4, true, y)

/-- Write one row of the stream ring and go on to the next. -/
def State.putStreamRow (s : State) (t : Nat) (c : QCmd) (side y : Nat) (row : List Byte) : State :=
  let r := s.streamRing t c y
  let s := s.twrite t (c.outAddr + 32 + y % r.rows * r.pitch) row
  let s := s.putRing t c.outAddr { r with head := r.head + 1 }
  (s.modTile t (fun x => { x with streamAt := some (side, y + 1) })).modHead t .msg (fun c => { c with done := c.done + 1 })

/-- A row that stands for a missing line: a copy of the row before, or zeros (R266). -/
def State.fillStreamRow (s : State) (t : Nat) (c : QCmd) (side y : Nat) : State :=
  let r := s.streamRing t c y
  let n := 32 * c.u 36 2
  let row := if y = 0 then zeros n else s.tread t (c.outAddr + 32 + (y - 1) % r.rows * r.pitch) n
  (s.putStreamRow t c side y row).incReg PIT_STREAM_FILL

/-- Work on a STREAM_IN row by row; `n` rows at most. One that goes on in a ring whose map has ended completes at once (R267). -/
def State.streamSteps (s : State) (t : Nat) : Nat → State
  | 0 => s
  | n + 1 =>
    match s.running t .msg 0x37 with
    | none => s
    | some c =>
      match (s.tileSt t).streamAt with
      | none => if !c.first && (s.ringAt t c.outAddr).endRow ≠ openEnd then s.finish t .msg else s
      | some (side, y) =>
        let r := s.streamRing t c y
        let (port, sealedSide, last) := s.streamEnd c side y
        if c.u 38 1 ≤ c.done then s.finish t .msg
        else
          match s.nextLine t port side y with
          | some (l, old) =>
            if r.full then s
            else if l.lineNo = y then
              let row := streamRow l.planes (c.u 34 2) (c.u 36 2)
              if old then State.streamSteps ((s.modTile t (fun x => { x with replay := x.replay.erase (.line l) })).putStreamRow t c side y row) t n
              else
                match s.journal t (.line l) row.length with
                | (s, false) => s.cmdFault t c fJournal
                | (s, true) => State.streamSteps ((s.putStreamRow t c side y row).trimStream port side) t n
            else State.streamSteps (s.fillStreamRow t c side y) t n
          | none =>
            if !sealedSide then s
            else if y < last then (if r.full then s else State.streamSteps (s.fillStreamRow t c side y) t n)
            else ((s.putRing t c.outAddr { r with endRow := last }).modTile t (fun x => { x with streamAt := none })).finish t .msg

/-- A STREAM_IN waits for its SIDE, for a line, or for ring space (R264). -/
def State.streamWaits (s : State) (t : Nat) (c : QCmd) : Bool :=
  match (s.tileSt t).streamAt with
  | none => if c.first then (s.streamTarget t c).isNone else (s.ringAt t c.outAddr).endRow == openEnd
  | some (side, y) =>
    let (port, sealedSide, last) := s.streamEnd c side y
    let full := (s.streamRing t c y).full
    decide (c.done < c.u 38 1) && (match s.nextLine t port side y with
      | some _ => full
      | none => !sealedSide || (decide (y < last) && full))

/-- A STREAM_IN binds its SIDE and writes lines as they come. -/
def execStreamIn (t : Fin 256) (s : State) : Out :=
  s.onMain (fun s =>
    match s.running t .msg 0x37 with
    | none => s
    | some c =>
      let s :=
        if c.first && c.done = 0 && (s.tileSt t).streamAt.isNone then
          match s.streamTarget t c with
          | some side => s.modTile t (fun x => { x with streamAt := some (side, 0), binds := tput x.binds c.index (((tfind x.binds c.index).map (·.1)).getD 0, some side) })
          | none => s
        else s
      s.streamSteps t 600)

/-! ### EMIT (R340) -/

/-- The rows of an EMIT: SEQ_ID and the bits of its logits. -/
def State.emitRows (s : State) (t : Nat) (c : QCmd) : List (Nat × List Nat) :=
  let vn := c.u 48 4
  let pitch := up32 (fmtBytes c.aFmt vn)
  (List.range (c.u 32 2)).map (fun r =>
    let q := leNat (s.tread t (c.addr 44 + 16 * r) 4)
    (q, if q = 0 then [] else (List.range vn).map (fun k => s.elemBits t c.aFmt (c.aAddr + r * pitch) k)))

/-- V of the table set of a SEQUENCE by its ID. -/
def State.vocabOf (s : State) (id : Nat) : Option Nat :=
  (s.liveItem id).bind (fun i => (tfind s.seqs i).bind (fun q => (s.tableSet q.playbook q.model).map (·.v)))

/-- The first EMIT acknowledgement of a replayed journal. -/
def replayedAck (l : List JIn) : Option (List Nat) :=
  l.findSome? (fun j => match j with
    | .ack rows => some rows
    | _ => none)

/-- EMIT sends its slice to the token unit, which answers when it has decided. Replayed, it takes the recorded results, or waits for the answer to the slice that the unit has accepted already (R231, R344). -/
def execEmit (t : Fin 256) (s : State) : Out :=
  s.onMain (fun s =>
    match s.running t .msg 0x38, (s.tileSt t).job with
    | some c, some n =>
      if c.done ≠ 0 then s
      else
        match replayedAck (s.tileSt t).replay with
        | some rows =>
          let s := s.modTile t (fun x => { x with replay := x.replay.erase (.ack rows), outSeq := x.outSeq + 1 })
          (s.twrite t c.outAddr (rows.flatMap (leBytes 4))).finish t .msg
        | none =>
          let rows := s.emitRows t c
          if rows.any (fun r => r.1 != 0 && s.vocabOf r.1 != some (c.u 36 4)) then s.cmdFault t c fParam
          else
            let (seq, old, s) := s.nextOut t
            let s := s.modHead t .msg (fun c => { c with done := seq })
            if old then s
            else { s.accept t seq with slices := s.slices ++ [{ tile := t, job := n, part := c.u 53 1, npart := c.u 52 1, vtotal := c.u 36 4, v0 := c.u 40 4, vn := c.u 48 4, fmt := c.aFmt, out := c.outAddr, rows := rows, cmd := c.index }] }
    | _, _ => s)

/-- The slices of the EMIT group that a partition's scan lane serves next: all the parts of a job, of the job whose last part arrived first (R354). -/
def State.gather (s : State) (p : Nat) : Option (List EmitSlice) :=
  let mine := s.slices.filter (fun e => (tfind s.jobs e.job).any (fun j => j.part == p))
  (List.range mine.length).findSome? (fun i =>
    let g := (mine.take (i + 1)).filter (fun x => x.job == (mine.getD i default).job)
    if (g.headD default).npart ≤ g.length then some (g.mergeSort (fun a b => decide (a.v0 ≤ b.v0))) else none)

/-! ### The command timer (R223) -/

/-- A command's timer has reached 2 × WCET_STEPS × 1.25 ns. -/
def State.timedOut (s : State) (t : Nat) (c : QCmd) : Bool := c.started && s.tileRuns t && decide (5 * c.wcet ≤ 2 * (s.tb - c.startTb))

/-- A command's timer reaches 2 × WCET_STEPS × 1.25 ns: fault TIMEOUT. CKPT and END have a timer too, while the engines are idle for them. -/
def execCommandTimeout (t : Fin 256) (e : Engine) (s : State) : Out :=
  s.onMain (fun s =>
    match (s.tileSt t).queue e, (s.tileSt t).barrier with
    | c :: _, _ => if s.timedOut t c then s.cmdFault t c fTimeout else s
    | [], some c => if s.timedOut t c then s.cmdFault t c fTimeout else s
    | [], none => s)

/-- A command waits for ring or halo rows, ring space, or a streamed line, which pauses its timer (R223, R264). -/
def State.pausedCmd (s : State) (t : Nat) (c : QCmd) : Bool :=
  let g := geo c
  (s.tileSt t).restoring ||
  match c.op with
  | 0x11 => decide (c.done % 1024 < s.rowLimit t c g) && !s.rowsGone t c g (g.or0 + c.done % 1024) && !s.rowReady t c g (g.or0 + c.done % 1024)
  | 0x21 => decide (c.done % 1024 < s.rowLimit t c g) && !s.rowsGone t c g (g.or0 + c.done % 1024) && !s.rowReady t c g (g.or0 + c.done % 1024)
  | 0x22 => let r := s.ringAt t c.aAddr; g.rollIn && decide (c.done < g.orn) && decide (g.or0 + c.done < r.endRow) && decide (r.head ≤ g.or0 + c.done)
  | 0x33 => s.putWaits t c
  | 0x34 => s.closeWaits t c
  | 0x37 => s.streamWaits t c
  | _ => false

/-- A command waits for what another unit brings or takes: rows, ring space or a streamed line, a SEND's message that no RECV has taken, a RECV's message, the answer to an EMIT (R230; log entry 78). -/
def State.waitsCmd (s : State) (t : Nat) (c : QCmd) : Bool :=
  s.pausedCmd t c ||
  match c.op with
  | 0x30 => s.msgs.any (fun m => m.src == t && m.seq == c.done)
  | 0x31 => (takeReplay (c.u 32 1) (c.u 34 2) (s.tileSt t).replay).isNone && !s.msgs.any (fun m => m.src == c.u 32 1 && m.dst == t && m.tag == c.u 34 2)
  | 0x38 => c.done != 0
  | _ => false

/-- A tile has a started command that waits for nothing, so that handshakes are due (R230). -/
def State.shouldHandshake (s : State) (t : Nat) : Bool :=
  [Engine.mac, .vec, .msg].any (fun e =>
    match (s.tileSt t).queue e with
    | c :: _ => c.started && !s.waitsCmd t c
    | [] => false)

end Sys2Proof.Machine
end

