-- ==== Sys2Proof/Machine/KolCode.lean ====
section
/-! DEFINITION. Codewords of a Koliad port: the RS(544,514) encoder and decoder, the codeword header, the packing of the flit stream into symbols, their lanes and PAM4 levels (R417, R418, R420; log entry 85). -/

namespace Sys2Proof.Machine

/-! ### RS(544,514) over GF(2^10) (R417) -/

/-- Product in GF(2^10) by x^10 + x^3 + 1: the low `n` bits of the second factor, from the highest on (PRESUMED: the field of clause 119 of IEEE 802.3, log entry 85). -/
def gf10Mul (a b : Nat) : Nat → Nat → Nat
  | 0, acc => acc
  | n + 1, acc =>
    let d := 2 * acc
    let d := if 1024 ≤ d then d ^^^ 0x409 else d
    gf10Mul a b n (if bit b n then d ^^^ a else d)

/-- Multiply a polynomial, its highest coefficient first, by x + r. -/
def gf10Root (r : Nat) (g : List Nat) : List Nat := (g ++ [0]).zipWith (fun x y => x ^^^ gf10Mul y r 10 0) (0 :: g)

/-- The powers of 2 from 2^0 on in GF(2^10). -/
def gf10Powers : Nat → Nat → List Nat
  | 0, _ => []
  | n + 1, a => a :: gf10Powers n (gf10Mul a 2 10 0)

/-- The 30 lower coefficients of the generator polynomial, whose roots are the powers 0 to 29 (PRESUMED: clause 119, log entry 85). -/
def rs544Gen : List Nat := ((gf10Powers 30 1).foldl (fun g r => gf10Root r g) [1]).drop 1

/-- The 30 parity symbols of a message, the highest first: division by the generator, one symbol at a time. -/
def rs544Parity (msg : List Nat) : List Nat :=
  msg.foldl (fun reg m =>
    let f := m ^^^ reg.headD 0
    (reg.drop 1 ++ [0]).zipWith (fun x g => x ^^^ gf10Mul g f 10 0) rs544Gen) (List.replicate 30 0)

/-! ### The decoder (R417, R420) -/

/-- Syndromes of a received word, its first symbol the highest coefficient: its values at the 30 roots. -/
def rs544Syndromes (w : List Nat) : List Nat := (gf10Powers 30 1).map (fun r => w.foldl (fun s b => gf10Mul s r 10 0 ^^^ b) 0)

/-- Sum of two polynomials, the lowest coefficient first. -/
def polyXor (a b : List Nat) : List Nat := (List.range (max a.length b.length)).map (fun i => a.getD i 0 ^^^ b.getD i 0)

/-- A field element to the power `n`. -/
def gf10Pow (a : Nat) : Nat → Nat
  | 0 => 1
  | n + 1 => gf10Mul (gf10Pow a n) a 10 0

/-- The inverse of a field element: its power 1,022. -/
def gf10Inv (a : Nat) : Nat := gf10Pow a 1022

/-- A polynomial, the lowest coefficient first, at a point. -/
def polyAt (p : List Nat) (x : Nat) : Nat := p.foldr (fun c acc => gf10Mul acc x 10 0 ^^^ c) 0

/-- The error locator as it grows (Berlekamp-Massey): locator, locator before its last change of length, its discrepancy, steps since then, number of errors. -/
structure Locator where
  now : List Nat
  before : List Nat
  disc : Nat
  gap : Nat
  errors : Nat
  deriving DecidableEq, Repr

/-- One step, with syndrome `n`. -/
def Locator.step (l : Locator) (synd : List Nat) (n : Nat) : Locator :=
  let d := (List.range (l.errors + 1)).foldl (fun a i => a ^^^ gf10Mul (l.now.getD i 0) (synd.getD (n - i) 0) 10 0) 0
  if d = 0 then { l with gap := l.gap + 1 }
  else
    let k := gf10Mul d (gf10Inv l.disc) 10 0
    let c := polyXor l.now (List.replicate l.gap 0 ++ l.before.map (fun x => gf10Mul x k 10 0))
    if 2 * l.errors ≤ n then { now := c, before := l.now, disc := d, gap := 1, errors := n + 1 - l.errors }
    else { l with now := c, gap := l.gap + 1 }

/-- A received word corrected, with the number of symbols corrected: at most 15; none for a word further from every codeword (R420). -/
def rs544Decode (w : List Nat) : Option (List Nat × Nat) :=
  let synd := rs544Syndromes w
  if w.length ≠ 544 then none
  else if synd.all (· == 0) then some (w, 0)
  else
    let l := (List.range 30).foldl (fun l n => Locator.step l synd n) { now := [1], before := [1], disc := 1, gap := 1, errors := 0 }
    let powers := gf10Powers 1023 1
    let alpha (i : Nat) : Nat := powers.getD (i % 1023) 0
    let omega := (List.range 30).map (fun n => (List.range (n + 1)).foldl (fun a i => a ^^^ gf10Mul (l.now.getD i 0) (synd.getD (n - i) 0) 10 0) 0)
    let slope := (List.range l.now.length).map (fun i => if i % 2 = 0 then l.now.getD (i + 1) 0 else 0)
    let at_ := (List.range 544).filter (fun i => polyAt l.now (alpha (1023 - (543 - i))) == 0)
    if 15 < l.errors || at_.length ≠ l.errors then none
    else
      let fixed := at_.foldl (fun v i =>
        let x := alpha (1023 - (543 - i))
        let e := gf10Mul (alpha (543 - i)) (gf10Mul (polyAt omega x) (gf10Inv (polyAt slope x)) 10 0) 10 0
        v.set i (v.getD i 0 ^^^ e)) w
      if (rs544Syndromes fixed).all (· == 0) then some (fixed, l.errors) else none

/-! ### Packing (R418) -/

/-- The 10-bit symbols of bytes, MSB first, five bytes to four symbols. -/
def symbols10 : List Byte → List Nat
  | a :: b :: c :: d :: e :: t =>
    let v := (((a.toNat * 256 + b.toNat) * 256 + c.toNat) * 256 + d.toNat) * 256 + e.toNat
    [v / 2 ^ 30, v / 2 ^ 20 % 1024, v / 2 ^ 10 % 1024, v % 1024] ++ symbols10 t
  | _ => []

/-- The two symbols of a codeword header: CW_SEQ in bits [19:8], 0xA5 in bits [7:0]. -/
def cwHeader (seq : Nat) : List Nat :=
  let h := seq % 4096 * 256 + 0xA5
  [h / 1024, h % 1024]

/-- A whole codeword: header, 5,120 bits of the flit stream, parity. -/
def codeword544 (seq : Nat) (stream : List Byte) : List Nat :=
  let m := cwHeader seq ++ symbols10 (stream.take 640)
  m ++ rs544Parity m

/-- The symbols of a codeword that travel on lane `l`: every fourth from `l` on. -/
def laneSymbols (l : Nat) (cw : List Nat) : List Nat := (cw.zipIdx.filter (fun x => x.2 % 4 == l)).map (·.1)

/-! ### PAM4 (R417) -/

/-- Bits of a 10-bit symbol, the lowest first (PRESUMED: clause 120, log entry 85). -/
def symbolBits (v : Nat) : List Bool := (List.range 10).map (bit v)

/-- PAM4 levels of bits, two by two in Gray order: 00, 01, 11, 10 are the levels 0 to 3. -/
def grayLevels : List Bool → List Nat
  | a :: b :: t => (if a then (if b then 2 else 3) else b2n b) :: grayLevels t
  | _ => []

/-- Precoding by 1/(1+D) mod 4, after the level `last` (R417, R458). -/
def precode : Nat → List Nat → List Nat
  | _, [] => []
  | last, g :: t => let p := (g + 4 - last) % 4; p :: precode p t

/-- The levels that a lane sends for its symbols, after the levels it sent before. -/
def laneLevels (pre : Bool) (before : List Nat) (symbols : List Nat) : List Nat :=
  let g := grayLevels (symbols.flatMap symbolBits)
  if pre then precode (before.getLast?.getD 0) g else g

/-! ### Codewords leave -/

/-- IDLE flits fill the flit stream up to a codeword (R423); at most `n`. -/
def KPort.fillStream : Nat → KPort → KPort
  | 0, p => p
  | n + 1, p => if 640 ≤ p.stream.length then p else KPort.fillStream n (p.sendNull 0 [])

/-- The next codeword of a port leaves on its four lanes, `pre` with precoding. -/
def KPort.sendCodeword (p : KPort) (pre : Bool) : KPort :=
  let p := KPort.fillStream 3 p
  let cw := codeword544 p.cwSeq p.stream
  let lanes := (List.range 4).map (fun l => laneSymbols l cw)
  { p with stream := p.stream.drop 640, cwSeq := (p.cwSeq + 1) % 4096, lanes := lanes, levels := lanes.zipIdx.map (fun x => laneLevels pre (p.levels.getD x.2 []) x.1) }

/-- A codeword leaves every trained port each 25.6 ns, 544 symbols of 10 bits at 212.5 Gb/s. -/
def State.codewordTick (s : State) : State :=
  if s.tb * 5 / 128 = (s.tb + 1) * 5 / 128 then s
  else (List.range 6).foldl (fun s n => if s.on (KOL_PORT_STAT n) KOL_PORT_STAT_TRAINED then s.modKport n (fun p => p.sendCodeword (s.on (KOL_PORT_CTL n) KOL_PORT_CTL_PRECODE)) else s) s

end Sys2Proof.Machine
end

