-- ==== Sys2Proof/Machine/Kv.lean ====
section
/-! DEFINITION. The page manager's events: frame requests, waits, spills, prefetches, copies and drops (R312-R326). -/

namespace Sys2Proof.Machine

/-- A frame request is served by the exhaustion order when its turn has come; else it waits for it (R318-R320). -/
def execFrameRequest (req : Nat) (s : State) : Out :=
  s.onMain (fun s =>
    match s.firstReq with
    | none => s
    | some (n, r) =>
      if n ≠ req || s.reqBusy then s
      else
        match s.tryReq n r with
        | (s, true) => s
        | (_, false) => s.unserved n r)

/-- A frame was freed or unlocked on a tile: the requests that wait there run steps 1 to 3 again (R319). -/
def execFrameFreed (t : Fin 256) (s : State) : Out := s.onMain (fun s => s.frameFreed t)

/-- WAIT_US has passed for an LC request: every BE job of its partition that locks a frame on the tile is pre-empted at its next cut; without one the request fails (R319, R321). -/
def execFrameWaitExpiry (req : Nat) (s : State) : Out :=
  s.onMain (fun s =>
    match tfind s.reqs req with
    | none => s
    | some r =>
      let due := r.since + s.fld PGM_WAIT_LIMIT PGM_WAIT_LIMIT_WAIT_US * 1000 ≤ s.tb
      let busy := s.xfers.any (fun x => match x.2 with
        | .spill _ _ _ _ _ q => q == some req
        | .drop _ q => q == some req
        | _ => false)
      if r.cls ≠ .lc || r.preempted || !due || busy || !r.waiting then s
      else
        let js := s.jobs.filter (fun j => j.2.part == r.part && (s.ctxSt j.2.ctx).cls == .be && j.2.holding && s.jobLocks j.2 r.tile)
        if js = [] then s.failReq req r
        else
          let s := { s with reqs := tupd s.reqs req (fun r => { r with preempted := true }) }
          let s := js.foldl (fun s j => s.modJob j.1 (fun j => { j with preempt := true })) s
          js.foldl (fun s j => s.askPreempt j.1 false) s)

/-- A transfer leaves the table. -/
def State.endXfer (s : State) (n : Nat) : State := { s with xfers := tdel s.xfers n }

/-- A request takes a frame that was freed for it, before the others go on (R319). -/
def State.takeFreed (s : State) (req : Option Nat) (t : Nat) : State :=
  match req.bind (fun n => (tfind s.reqs n).map (fun r => (n, r))) with
  | some (n, r) =>
    match s.tryReq n r with
    | (s, true) => s.frameFreed t
    | (_, false) => (s.unserved n r).frameFreed t
  | none => s.frameFreed t

/-- The page manager reads a frame to copy it; true where none of its words was uncorrectable: such a word of DRAM costs the frame, one of a store fails the tile (R526, R528, R529). -/
def State.readFrame (s : State) (k : Nat) : State × Bool :=
  if 2 ^ 24 ≤ k then s.didRead (s.dramFrameAt (k - 2 ^ 24)) 4224
  else
    match s.poolOf (k / 64) with
    | none => (s, true)
    | some p =>
      match s.didTread (k / 64) (p.poolBase + 4096 * (k % 64)) 4096 with
      | (s, true) => s.didTread (k / 64) (p.sideBase + 128 * (k % 64)) 128
      | x => x

/-- A spill has been copied: the entry names the DRAM frame, the CHIP frame is free for the request (R314, R319). Its DRAM transfer is regulated (R387). -/
def execSpillDone (xfer : Nat) (s : State) : Out :=
  s.onMain (fun s =>
    match tfind s.xfers xfer with
    | some (.spill seq _ _ c d req) =>
      match s.regulate (s.item seq).part .dram (s.item seq).cls 4224 (whoOf 3 xfer) with
      | (s, false) => s
      | (s, true) =>
        match s.readFrame c with
        | (s, true) => ((s.endXfer xfer).spillNow c d).takeFreed req (c / 64)
        | (s, false) => (s.endXfer xfer).takeFreed req (c / 64)
    | _ => s)

/-- When the jobs of a context are due: the start of the slot that serves an LC context, in ns from now; a BE job is due whenever it is ready (R316; log entry 48). -/
def State.dueIn (s : State) (c : Nat) : Option Nat :=
  let x := s.ctxSt c
  if x.cls = .be then some (2 ^ 40)
  else if (s.openSlot x.part).any (fun l => l.ctx == c) then some 0
  else
    match s.activeTable x.part with
    | none => none
    | some t =>
      let p := s.partSt x.part
      let cand := ((List.range t.slots.length).zip t.slots).filterMap (fun l =>
        if l.2.ctx = c then
          let at_ := if p.nextSlot ≤ l.1 then p.frameStart + l.2.start * 10000 else p.frameStart + (t.major + l.2.start) * 10000
          some (nsDiff (at_ % 2 ^ 48) (ns48 s.now)).toNat
        else none)
      match cand with
      | [] => none
      | a :: l => some (l.foldl min a)

/-- The sequences that a ready job serves: its own, and the rows of its context for a decode batch (R399). -/
def State.jobSeqs (s : State) (r : ReadyJob) : List Nat :=
  let x := s.ctxSt r.ctx
  if (s.jobInfo x.playbook r.info).rows = 0 then [r.item] else r.item :: x.rows.filter (fun i => i ≠ 0 && i ≠ r.item)

/-- Ask for CHIP frames for the DRAM pages of a sequence. -/
def State.prefetchSeq (s : State) (i : Nat) (cls : Cls) : State :=
  match tfind s.seqs i with
  | none => s
  | some q =>
    match s.model q.playbook q.model with
    | none => s
    | some m =>
      (List.range q.tables.length).foldl (fun s k =>
        (List.range (q.tables.getD k []).length).foldl (fun s p =>
          let e := q.pte k p
          let home := (m.kv.getD k default).home p
          if e.tier = .dram && !s.xfers.any (fun x => x.2.frames.contains (dramKey e.frame)) then
            s.addReq { s.reqOf i k p home e.fill none with cls := cls }
          else s) s) s

/-- The DRAM pages of the jobs due within LEAD_US get their frames, in the order of their dispatch times: the requests of one job are served as far as frames go before those of the next are made (R316). -/
def execPrefetchStart (part : Fin 8) (s : State) : Out :=
  s.onMain (fun s =>
    let lead := s.fld PGM_PREFETCH PGM_PREFETCH_LEAD_US * 1000
    let due := s.ready.filterMap (fun r =>
      let x := s.ctxSt r.ctx
      if x.part ≠ part.val then none
      else (s.dueIn r.ctx).bind (fun d => if x.cls = .be || d ≤ lead then some (d, r) else none))
    let js := due.mergeSort (fun a b => decide (a.1 ≤ b.1))
    js.foldl (fun s j =>
      let s := (s.jobSeqs j.2).foldl (fun s i => s.prefetchSeq i (s.ctxSt j.2.ctx).cls) s
      ((s.reqs.map (fun r => r.2.tile)).eraseDups).foldl (fun s t => s.frameFreed t) s) s)

/-- A prefetch has been copied: every entry that named the DRAM frame names the CHIP frame, the DRAM frame is free (R314). -/
def execPrefetchDone (xfer : Nat) (s : State) : Out :=
  s.onMain (fun s =>
    match tfind s.xfers xfer with
    | some (.prefetch seq _ _ d c) =>
      match s.regulate (s.item seq).part .dram (s.item seq).cls 4224 (whoOf 3 xfer) with
      | (s, false) => s
      | (s, true) =>
        let s := (s.endXfer xfer).readFrame d |>.1
        if tget 0 s.refs d = 0 then s.frameFreed (c / 64)
        else ((s.setFrame c (s.frameBytes d)).renameFrame d c).incReg PGM_PREFETCH_CNT
    | _ => s)

/-- A copy of a shared frame is done: the sequence's entry names the copy, the original has one reference less; an entry that waited for a private copy of a prefix's frame names it; where the read of a store's frame fails its tile, the copy is made after the restore (R311, R312, R528). -/
def execCowDone (xfer : Nat) (s : State) : Out :=
  s.onMain (fun s =>
    match tfind s.xfers xfer with
    | some (.cow seq set page src dst) =>
      match s.regulate (s.item seq).part .dram (s.item seq).cls 4224 (whoOf 3 xfer) with
      | (s, false) => s
      | (s, true) =>
       let (s, good) := s.readFrame src
       if !good && src < 2 ^ 24 then s
       else
        let s := s.endXfer xfer
        match tfind s.seqs seq with
        | none => s.frameFreed (dst / 64)
        | some q =>
          let e := q.pte set page
          let own : Bool := e.tier == .chip && e.frame == src
          if q.ending ≠ .running || !(own || e.tier == .none) then s.frameFreed (dst / 64)
          else
            let s := (s.setFrame dst (s.frameBytes src)).ref dst
            let s := if own then (s.unref src).incReg PGM_COW_CNT else s
            s.modSeq seq (fun q => { q with tables := setPte q.tables set page { e with tier := .chip, frame := dst } })
    | _ => s)

/-- A drop is done: the sequence's frames are freed and the request runs step 1 again (R319, R324). -/
def execDropDone (xfer : Nat) (s : State) : Out :=
  s.onMain (fun s =>
    match tfind s.xfers xfer with
    | some (.drop seq req) =>
      let tiles := (((tfind s.seqs seq).map Seq.chips).getD []).map (· / 64)
      let s := (s.endXfer xfer).dropSeq seq
      let s := s.takeFreed req ((req.bind (fun n => tfind s.reqs n)).map (·.tile) |>.getD 0)
      tiles.eraseDups.foldl State.frameFreed s
    | _ => s)

end Sys2Proof.Machine
end

