-- ==== Sys2Proof/Machine/Cache.lean ====
section
/-! DEFINITION. The model cache: residency, eviction and loading of models with their table sets, and what the fabric is told of them (R331, R387, R401, R402, R455, R539). -/

namespace Sys2Proof.Machine

/-- TSETS shows the table sets of the models that are loaded (R331). -/
def State.freshTsets (s : State) : State := s.setFld TOK_STAT TOK_STAT_TSETS (s.models.filter (fun m => !m.loading)).length

/-- Flood the models resident here when they have changed; a halted partition's are withdrawn (R455, R539). -/
def State.advertise (s : State) : State :=
  let l := ((s.models.filter (fun m => !m.loading && !(s.partSt m.part).halted)).map (·.model)).eraseDups
  if l = s.kol.myModels then s
  else ({ s with kol := { s.kol with myModels := l } }).sendFlood 0x08 (Config.msgBody 0x08 l)

/-- The cached model of a playbook. -/
def State.modelRes (s : State) (pb m : Nat) : Option ModelRes := s.models.find? (fun x => x.playbook == pb && x.model == m)

/-- Change the cache entry of a model. -/
def State.modRes (s : State) (pb m : Nat) (f : ModelRes → ModelRes) : State :=
  { s with models := s.models.map (fun x => if x.playbook = pb && x.model = m then f x else x) }

/-- A model leaves the cache with its TSET and prefixes (R402). -/
def State.dropModel (s : State) (pb m : Nat) : State :=
  let gone := (s.models.filter (fun x => x.playbook == pb && x.model == m)).map (·.slot)
  (({ s with models := s.models.filter (fun x => !(x.playbook == pb && x.model == m)), masks := s.masks.filter (fun k => !gone.contains k.1)
             maskAsks := s.maskAsks.filter (fun k => !gone.contains k.1) }).dropPrefix pb m).freshTsets.advertise

/-- A job on its tiles, or one due within LEAD_US in the active table, uses a model (R402). -/
def State.modelBusy (s : State) (r : ModelRes) : Bool :=
  s.jobs.any (fun j => j.2.holding && j.2.playbook == r.playbook && (s.jobInfo j.2.playbook j.2.info).model == r.model)
  || s.ready.any (fun j =>
    let x := s.ctxSt j.ctx
    x.cls == .lc && x.playbook == r.playbook && (s.jobInfo x.playbook j.info).model == r.model
      && (s.dueIn j.ctx).any (fun d => d ≤ s.fld PGM_PREFETCH PGM_PREFETCH_LEAD_US * 1000))

/-- The model of a partition to evict: BE before LC, least recently used, lower number (R402). -/
def State.modelVictim (s : State) (p : Nat) : Option ModelRes :=
  let before (a b : ModelRes) : Bool :=
    if a.cls ≠ b.cls then a.cls == .be else if a.lastUse ≠ b.lastUse then a.lastUse < b.lastUse else a.model < b.model
  (s.models.filter (fun r => r.part == p && !r.pinned && !r.loading && !s.modelBusy r)).foldl (fun (b : Option ModelRes) r =>
    match b with
    | none => some r
    | some c => if before r c then some r else some c) none

/-- Bytes of the models of a partition. -/
def State.modelBytes (s : State) (p : Nat) : Nat :=
  ((s.models.filter (fun r => r.part == p)).map (fun r => ((s.model r.playbook r.model).map (·.bytes)).getD 0)).foldl (· + ·) 0

/-- Evict models until `need` more bytes and one more model find room; at most `n` of them. -/
def State.modelRoom (s : State) (p need : Nat) : Nat → State × Bool
  | 0 => (s, s.models.length < 32 && s.modelBytes p + need ≤ Config.weightArea p)
  | n + 1 =>
    if s.models.length < 32 && s.modelBytes p + need ≤ Config.weightArea p then (s, true)
    else
      match s.modelVictim p with
      | none => (s, false)
      | some r => State.modelRoom (s.dropModel r.playbook r.model) p need n

/-- The lowest table set number that no model in the cache has (R331; log entry 63). -/
def State.freeSlot (s : State) : Nat := ((List.range 32).find? (fun k => !s.models.any (fun m => m.slot == k))).getD 0

/-- A table set as it lies in the token unit's DRAM region: the numbers of its vocabulary descriptor, then its tables in the order of R331 (log entry 31). -/
def TSetImage.image (t : TSetImage) : List Byte :=
  leBytes 4 t.v ++ leBytes 2 t.eos ++ leBytes 1 t.norm ++ leBytes 1 t.foldEn ++ t.byteMap ++ t.merges ++ t.detok ++ t.pool ++ t.folds.flatten ++ t.states ++ t.trans ++ t.masks ++ t.fields

/-- The table set of a model as its playbook carries it (R331). -/
def State.tsetImage (s : State) (pb m : Nat) : List Byte :=
  (((tfind s.playbooks pb).bind (fun l => (l.pb.models[m]?).bind (fun x => l.pb.tsets[x.tset]?))).map TSetImage.image).getD []

/-- The load of a model begins; its table set gets a DRAM region (R331, R401). -/
def State.startLoad (s : State) (p pb m : Nat) (x : Model) : State :=
  { s with models := s.models ++ [{ playbook := pb, model := m, part := p, slot := s.freeSlot, pinned := x.pinned, cls := x.cls, lastUse := s.tb, loading := true
                                    region := Config.tsetRegion s.freeSlot, tsetBytes := (s.tsetImage pb m).length }] }

/-- A job's model is resident; when it is not, its load begins once it has room (R401). -/
def State.modelReady (s : State) (p pb m : Nat) : State × Bool :=
  match s.model pb m with
  | none => (s, true)
  | some x =>
    match s.modelRes pb m with
    | some r => if r.loading then (s, false) else (s.modRes pb m (fun r => { r with lastUse := s.tb }), true)
    | none =>
      match s.modelRoom p x.bytes (s.models.length + 1) with
      | (s, false) => (s, false)
      | (s, true) => (s.startLoad p pb m x, false)

/-- The weights and the table set of a model are written to their places, from the playbook as DRAM holds it; with an uncorrectable word in that the model is not loaded (R331, R401, R529). -/
def State.writeModel (s : State) (r : ModelRes) : State :=
  let place := Config.playbookPlace r.playbook
  let n := ((tfind s.playbooks r.playbook).map (·.bytes)).getD 0
  match s.didRead place n with
  | (u, false) => u.dropModel r.playbook r.model
  | (u, true) =>
    let u := (u.dwrite (Config.modelPlace r.playbook r.model) (Config.modelImage (s.dread place n) r.model)).dwrite r.region (s.tsetImage r.playbook r.model)
    (u.modRes r.playbook r.model (fun r => { r with loading := false, lastUse := s.tb })).freshTsets.advertise

/-- A model and its TSET have been loaded within the partition's DRAM regulator (R331, R387, R401). -/
def execModelLoadDone (playbook : Word) (model : Nat) (s : State) : Out :=
  s.onMain (fun s =>
    let pb := playbook.toNat
    match s.modelRes pb model with
    | none => s
    | some r =>
      if !r.loading then s
      else
        match s.regulate r.part .dram r.cls (((s.model pb model).map (·.bytes)).getD 0) (whoOf 4 (pb * 65536 + model)) with
        | (s, false) => s
        | (s, true) => s.writeModel r)

end Sys2Proof.Machine
end

