-- ==== Sys2Proof/Machine/Sched.lean ====
section
/-! DEFINITION. The scheduler's events: dispatch with batches and placement, slots, major frames, regulators, saturation, the end of switches and teardowns (R205, R206, R304, R383-R412). -/

namespace Sys2Proof.Machine

/-! ### Groups (R205, R394) -/

/-- A group has no job on it. -/
def State.groupFree (s : State) (g : Nat) : Bool :=
  !s.jobs.any (fun j => j.2.holding && decide (j.2.first < 16 * g + 16) && decide (16 * g < j.2.first + j.2.count))

/-- Groups that `n` tiles from `first` on touch. -/
def groupsOf (first n : Nat) : List Nat := (List.range (n / 16)).map (· + first / 16)

/-! ### Deficit round-robin (R398) -/

/-- Rounds end and begin until the round that is on keeps a context with a ready job going; at most `n`. Nothing begins while no BE context has a ready job (R398; log entry 95). -/
def State.roundsOn (s : State) (p : Nat) : Nat → State
  | 0 => s
  | n + 1 =>
    if !(s.beCtxs p).any (fun y => s.runnable y.1) || (!(s.partSt p).roundOver && s.roundLives p) then s
    else State.roundsOn ((if (s.partSt p).roundOver then s else s.endRound p).startRound p) p n

/-- Rounds that may pass before a context's deficit is positive. -/
def State.roundsMax (s : State) (x : Ctx) : Nat :=
  let q := s.quantum x
  if q = 0 then 1 else (ratFloor (((x.debt : Rat) / 1000 - x.deficit) / (q : Rat))).toNat + 2

/-- BE work of a partition may be dispatched for this job: no OUTPUT_STALL, no saturated resource that an LC job waits for (R412, R510). -/
def State.beAllowed (s : State) (p : Nat) (info : JobInfo) : Bool :=
  let hit := (s.partSt p).saturated &&& info.resources
  !s.on HIF_STAT HIF_STAT_OUTPUT_STALL
  && !s.ready.any (fun r => (s.ctxSt r.ctx).part == p && (s.ctxSt r.ctx).cls == .lc && (s.jobInfo (s.ctxSt r.ctx).playbook r.info).resources &&& hit != 0)

/-! ### Decode batches (R294, R399) -/

/-- Order of waiting sequences: first reads and received escalations before re-reads, earlier deadline with 0 as latest, lower index. -/
def State.batchBefore (s : State) (a b : Nat) : Bool :=
  let late (i : Nat) : Bool := match tfind s.seqs i with
    | some q => !(q.pass == 0 || q.esc.isSome)
    | none => true
  let d (i : Nat) : Nat := (s.item i).deadline
  if late a ≠ late b then late b
  else if d a ≠ d b then
    (if d a = 0 then false else if d b = 0 then true else decide (nsDiff (d a) (d b) < 0))
  else decide (a ≤ b)

/-- Give a waiting sequence the first free row. -/
def fillRow (i : Nat) : List Nat → List Nat
  | [] => []
  | r :: t => if r = 0 then i :: t else r :: fillRow i t

/-- The rows of a context before a decode step: those of sequences that continue stay, free ones are filled in order; an LC context holds at most ADMIT_ROWS. -/
def State.formBatch (s : State) (c info : Nat) : State :=
  let x := s.ctxSt c
  let cap := min 256 (s.jobInfo x.playbook info).rows
  let most := if x.cls = .lc then min cap ((((s.playbook x.playbook).bind (fun p => p.fns[x.fn]?)).map (·.admitRows)).getD 0) else cap
  let keep := ((x.rows.map (fun i =>
    match tfind s.seqs i with
    | some q => if q.ending = .running && (s.item i).cls = x.cls then i else 0
    | none => 0)) ++ List.replicate (cap - x.rows.length) 0)
  let wait := (((s.ready.filter (fun r => r.ctx == c && r.info == info && r.job.isNone)).map (·.item)).filter (fun i => !keep.contains i)).mergeSort (fun a b => s.batchBefore a b)
  let rows := wait.foldl (fun rows i => if (rows.filter (· ≠ 0)).length < most then fillRow i rows else rows) keep
  s.modCtx c (fun x => { x with rows := rows })

/-- The rows that a decode step of a job works on: 0 for a row that this job does not serve. -/
def State.stepRows (s : State) (c info : Nat) : List Nat :=
  let x := s.ctxSt c
  (x.rows.take (s.jobInfo x.playbook info).rows).map (fun i => if s.ready.any (fun r => r.ctx == c && r.info == info && r.item == i && r.job.isNone) then i else 0)

/-- The batch of a context as a job of it would find it (R399). -/
def State.withBatch (s : State) (c info : Nat) : State := if (s.jobInfo (s.ctxSt c).playbook info).rows = 0 then s else s.formBatch c info

/-- The sequence of each row of a new job: its batch, or the one sequence of its item, once for each position before the next; none for a job of no sequence. -/
def State.jobRows (s : State) (c info : Nat) (r : ReadyJob) : List Nat :=
  if (s.jobInfo (s.ctxSt c).playbook info).rows ≠ 0 then s.stepRows c info
  else match tfind s.seqs r.item with
    | some q => List.replicate (max 1 (s.needPositions q - 1)) r.item
    | none => []

/-- The sequences of some rows. -/
def rowSeqs (rows : List Nat) : List Nat := (rows.filter (· ≠ 0)).eraseDups

/-! ### Placement (R205, R206, R400) -/

/-- A placement variant by its descriptor (R205). -/
structure Place where
  addr : Nat
  tag : Nat
  first : Nat
  groups : Nat
  deriving DecidableEq, Repr, Inhabited

/-- Read a job descriptor. -/
def State.place (s : State) (addr : Nat) : Place :=
  let l := s.dread addr 8
  { addr := addr, tag := leAt l 0 4, first := leAt l 4 1, groups := leAt l 5 1 }

/-- List j of a descriptor: address and length in commands. -/
def State.listOf (s : State) (addr j : Nat) : Nat × Nat :=
  let v := leNat (s.dread (addr + 64 + 8 * j) 8)
  (v / 2 ^ 24 * 32, v % 2 ^ 24)

/-- The tiles of a variant lie in its partition (R206). -/
def Place.inPart (d : Place) (p : PartSt) : Bool :=
  1 ≤ d.groups && d.first + 16 * d.groups ≤ 256 && 16 * p.first ≤ d.first && d.first + 16 * d.groups ≤ 16 * (p.first + p.groups) && d.first % 16 == 0

/-- Bytes of a stretch of DRAM that a tile's store holds, as LOADs have brought them (R400). -/
def Tile.heldOf (x : Tile) (a n : Nat) : Nat := (x.loads.map (fun l => min (l.1 + l.2.2) (a + n) - max l.1 a)).foldl (· + ·) 0

/-- Bytes of the model and of the KV pages of a job that a variant's tiles hold (R400). -/
def State.heldAt (s : State) (pb m : Nat) (chips : List Nat) (d : Place) : Nat :=
  let size := ((s.model pb m).map (·.bytes)).getD 0
  ((List.range (16 * d.groups)).map (fun k => (s.tileSt (d.first + k)).heldOf (Config.modelPlace pb m) size)).foldl (· + ·) 0
    + 4096 * (chips.filter (fun k => d.first ≤ k / 64 && k / 64 < d.first + 16 * d.groups)).length

/-- The variant that holds the most bytes, the lower FIRST_LTILE of equals (R400). -/
def State.bestPlace (s : State) (pb m : Nat) (chips : List Nat) (ds : List Place) : Option Place :=
  ds.foldl (fun (b : Option Place) d =>
    match b with
    | none => some d
    | some c =>
      let x := s.heldAt pb m chips d
      let y := s.heldAt pb m chips c
      if y < x || (x = y && d.first < c.first) then some d else some c) none

/-! ### Tables that a job reads (R272, R294, R303, R304) -/

/-- A page table entry as a word (R303). -/
def Pte.word (e : Pte) : Nat :=
  (match e.tier with
    | .none => 0
    | .chip => 1
    | .dram => 2
    | .dropped => 3) * 2 ^ 30 + e.fill % 32 * 2 ^ 24 + e.frame % 2 ^ 22

/-- Write the views of a job with their entry arrays: `rows` the sequence of each row. -/
def State.writeViews (s : State) (first : Nat) (info : JobInfo) (rows : List Nat) : State :=
  info.views.foldl (fun s v =>
    let t := first + v.tile
    match tfind s.seqs (rows.getD v.row 0) with
    | none => s
    | some q =>
      let ptes := q.tables.getD v.set []
      let k := ((s.model q.playbook q.model).bind (fun m => m.kv[v.set]?)).getD default
      let pool := (s.poolOf t).getD default
      let view := leBytes 4 (v.ent % 2 ^ 20) ++ leBytes 1 (v.lane % 8) ++ leBytes 1 (k.nl % 16) ++ leBytes 2 ptes.length ++ leBytes 4 (pool.poolBase % 2 ^ 20)
        ++ leBytes 4 (pool.sideBase % 2 ^ 20) ++ zeros 16
      (s.twrite t v.addr view).twrite t v.ent (ptes.flatMap (fun e => leBytes 4 e.word))) s

/-- K_BASE or V_BASE of a row: its view, else what the table holds. -/
def State.rowBase (s : State) (t addr r : Nat) (info : JobInfo) (tile : Nat) (key : Bool) : Nat :=
  match info.views.find? (fun v => v.tile == tile && v.row == r && v.table == addr && v.key == key) with
  | some v => v.addr % 2 ^ 20
  | none => leNat (s.tread t (addr + 16 * r + if key then 8 else 12) 4)

/-- Write the length tables of a job: SEQ_ID, LEN and QPOS of each row, empty for a row without a sequence (R272, R294). `qpos` gives LEN and QPOS of a row. -/
def State.writeLens (s : State) (first : Nat) (info : JobInfo) (rows : List Nat) (pos : Nat → Nat → Nat × Nat) : State :=
  info.lens.foldl (fun s l =>
    let t := first + l.1
    (List.range rows.length).foldl (fun s r =>
      let i := rows.getD r 0
      let e := if i = 0 then zeros 8 else leBytes 4 (s.itemId i) ++ leBytes 2 (pos r i).1 ++ leBytes 2 (pos r i).2
      s.twrite t (l.2 + 16 * r) (e ++ leBytes 4 (s.rowBase t l.2 r info l.1 true) ++ leBytes 4 (s.rowBase t l.2 r info l.1 false))) s) s

/-! ### Dispatch (R394-R406) -/

/-- CHIP frames that the sequences of a job name (R315). -/
def State.chipsOf (s : State) (seqs : List Nat) : List Nat :=
  seqs.flatMap (fun i => ((tfind s.seqs i).map Seq.chips).getD [])

/-- Queue wait of dispatched jobs joins the scoreboard (R410). -/
def State.countWait (s : State) (c : Nat) (rs : List ReadyJob) : State :=
  let ws := rs.map (fun r => s.tb - r.since)
  s.modCtx c (fun x => { x with waitSum := (x.waitSum + ws.foldl (· + ·) 0) % 2 ^ 64, waitMax := min 0xFFFFFFFF (ws.foldl max x.waitMax), lastRun := s.tb })

/-- Ready jobs that are dispatched leave the list. -/
def State.unready (s : State) (rs : List ReadyJob) : State := { s with ready := s.ready.filter (fun r => !rs.contains r) }

/-- A BE context takes its turn in the round. -/
def State.tookTurn (s : State) (c : Nat) : State :=
  if (s.ctxSt c).cls = .be then s.modPart (s.ctxSt c).part (fun p => { p with round := [c] }) else s

/-- A job is refused before any tile starts: the fault is recorded and its context torn down (R206, R233, R235). -/
def State.refuseJob (s : State) (c code : Nat) (d : Place) : State :=
  (s.recordFault code 0 (s.ctxSt c).part d.first 0 d.tag).faultCtx c d.tag

/-- Start a job on a variant's tiles. -/
def State.startJob (s : State) (c info : Nat) (d : Place) (item : Nat) (rows : List Nat) (rs : List ReadyJob) : State :=
  let x := s.ctxSt c
  let ji := s.jobInfo x.playbook info
  let n := s.nextJob
  let seqs := rowSeqs rows
  let j : Job := { ctx := c, part := x.part, playbook := x.playbook, info := info, interval := 0, item := item, seqs := seqs, tag := d.tag, first := d.first
                   count := 16 * d.groups, startTb := s.tb, boundary := (s.boundary c).join, preempt := false, evicting := false, atCut := false, cutNo := 0
                   frames := s.chipsOf seqs, undo := [], marks := s.seqMarks seqs, saved := [] }
  let s := ({ s with jobs := tput s.jobs n j, nextJob := n + 1 }).countWait c rs
  let s := (s.unready rs).tookTurn c
  let s := (List.range j.count).foldl (fun s k =>
    let (a, l) := s.listOf d.addr k
    s.modTile (d.first + k) (fun x => { x.cleared with job := some n, listAddr := a, listLen := l })) s
  let s := s.writeViews d.first ji rows
  let need (i : Nat) : Nat := ((tfind s.seqs i).map s.needPositions).getD 0
  let s := s.writeLens d.first ji rows (fun r i => if ji.rows = 0 then (max 1 (need i - 1), r) else (need i, need i - 1))
  j.tiles.foldl (fun s t => s.dispatchTile t) s

/-- Put back the bytes of a saved tile's live pages, in its store and in the slots of its checkpoint, which other jobs have used since. The pages of the frame pool keep what the page manager has made of them, and the checkpoint takes that (R228, R302, R404). -/
def State.putSaved (s : State) (t : Nat) (x : SavedTile) : State :=
  match x.tile.ckpt with
  | none => s
  | some k =>
    let mine (o : Nat) : Bool := k.pages.contains (o / 4096) && !s.pooled t o
    let s := s.setStores (x.data.foldl (fun m e => tset 0 m (tileAt t e.1) e.2) (s.tile.filter (fun e => !(e.1 / 0x100000 = t && mine (e.1 % 0x100000)))))
      (fun w => 32 * w / 0x100000 == t && mine (32 * w % 0x100000))
    let pool := (s.poolPages t).filter (fun p => k.pages.contains p && (tfind k.slots p).isNone)
    let slots := pool.foldl (fun l p => tput l p 0) k.slots
    let s := { s with dirty := s.dirty.filter (fun p => !(p / 256 = t && k.pages.contains (p % 256))) }
    (slots.foldl (fun s e => s.pageToSlot t e.1 e.2) s).modTile t (fun y => { y with ckpt := some { k with slots := slots } })

/-- A job goes on past its cut on tiles it holds, or on the same tiles after its state is put back (R228, R395). -/
def State.goOn (s : State) (n : Nat) (j : Job) (r : ReadyJob) : State :=
  let c := j.ctx
  let s := ((s.countWait c [r]).unready [r]).tookTurn c
  let s := j.saved.foldl (fun s x => (s.modTile x.1 (fun y => { x.2.tile with restoring := y.restoring, fails := y.fails, newFrames := y.newFrames })).putSaved x.1 x.2) s
  let s := s.modJob n (fun y => { y with atCut := false, preempt := false, evicting := false, startTb := s.tb, boundary := (s.boundary c).join, saved := [], frames := s.chipsOf y.seqs,
                                          undo := [], marks := s.seqMarks y.seqs })
  let s := if j.holding then s else s.writeViews j.first (s.jobInfo j.playbook j.info) (if (s.jobInfo j.playbook j.info).rows = 0 then j.seqs else s.ctxSt c |>.rows)
  let s := j.tiles.foldl (fun s t => s.modTile t (fun x => { x with atCut := false })) s
  j.tiles.foldl (fun s t => s.dispatchTile t) s

/-- A group that a job of the open slot can have: no job on it, or a BE job that waits at a cut (R394). -/
def State.groupOpen (s : State) (g : Nat) : Bool :=
  !s.jobs.any (fun j => j.2.holding && (groupsOf j.2.first j.2.count).contains g && !(j.2.atCut && (s.ctxSt j.2.ctx).cls == .be))

/-- The model of a job is there. -/
def State.modelThere (s : State) (pb m : Nat) : Bool := (s.model pb m).isNone || (s.modelRes pb m).any (fun r => !r.loading)

/-- The sequences of a job that left its tiles are as it left them: gone, or resident with nothing of them to compute again, but for the job that does so (R228, R325). -/
def State.seqsThere (s : State) (j : Job) : Bool :=
  j.seqs.all (fun i => match tfind s.seqs i with
    | none => true
    | some q => s.resident i && ((s.jobInfo j.playbook j.info).recompute || q.lost.isEmpty))

/-- The descriptors of the variants of a job that lie in its partition (R206). -/
def State.placesIn (s : State) (c info : Nat) : List Place :=
  let x := s.ctxSt c
  ((s.jobInfo x.playbook info).variants.map s.place).filter (fun d => d.inPart (s.partSt x.part))

/-- The groups of a variant. -/
def Place.groupList (d : Place) : List Nat := groupsOf d.first (16 * d.groups)

/-- The lists of usable groups that a ready job can run on: those of its tiles once it has any, else of its variants (R228, R400). -/
def State.groupsFor (s : State) (r : ReadyJob) : List (List Nat) :=
  match r.job.bind (fun n => tfind s.jobs n) with
  | some j => [groupsOf j.first j.count].filter (fun gs => gs.all s.groupUsable)
  | none => ((s.placesIn r.ctx r.info).map Place.groupList).filter (fun gs => gs.all s.groupUsable)

/-- Nothing but its groups keeps a ready job from being dispatched: its context resident, its model loaded, its pages there, its next interval within the boundary (R316, R394, R395, R401, R403). -/
def State.canStart (s : State) (r : ReadyJob) : Bool :=
  let x := s.ctxSt r.ctx
  let ji := s.jobInfo x.playbook r.info
  x.state == .resident && !x.tearing && s.modelThere x.playbook ji.model && s.fits r.ctx (ji.wcets.getD r.interval 0) &&
  match r.job.bind (fun n => tfind s.jobs n) with
  | some j => j.holding && !j.preempt || !j.holding && s.seqsThere j
  | none =>
    let u := s.withBatch r.ctx r.info
    let seqs := rowSeqs (u.jobRows r.ctx r.info r)
    (ji.rows == 0 || !seqs.isEmpty) && seqs.all u.pagesReady

/-- A ready job holds its tiles: it waits at a cut. -/
def State.holdsTiles (s : State) (r : ReadyJob) : Bool := r.job.any (fun n => (tfind s.jobs n).any Job.holding)

/-- What the open slot of a partition claims: for each job of its context that waits for nothing but groups, the group lists it could take (R394, R406). -/
def State.lcClaims (s : State) (p : Nat) : List (List (List Nat)) :=
  match s.openSlot p with
  | none => []
  | some l => (s.ready.filter (fun r => r.ctx == l.ctx && !s.holdsTiles r && s.canStart r)).map s.groupsFor

/-- The most claims that can be met at once beside groups in use. -/
def maxPlaced (free : Nat → Bool) : List (List (List Nat)) → List Nat → Nat
  | [], _ => 0
  | vs :: rest, used =>
    (vs.filter (fun v => v.all (fun g => free g && !used.contains g))).foldl (fun n v => max n (1 + maxPlaced free rest (v ++ used))) (maxPlaced free rest used)

/-- BE work may take groups: as many claims of the open slot can be met beside them as without (R394). -/
def State.beMay (s : State) (p : Nat) (gs : List Nat) : Bool :=
  let cs := s.lcClaims p
  maxPlaced s.groupOpen cs gs == maxPlaced s.groupOpen cs []

/-- Whether a context may take groups: an LC context first, a BE one where the open slot leaves them. -/
def State.mayTake (s : State) (c : Nat) (gs : List Nat) : Bool := (s.ctxSt c).cls == .lc || s.beMay (s.ctxSt c).part gs

/-- A ready job can be dispatched on some groups now: on those it holds, or on free ones (R394, R406). -/
def State.canPlace (s : State) (r : ReadyJob) : Bool := (s.groupsFor r).any (fun gs => (s.holdsTiles r || gs.all s.groupFree) && s.mayTake r.ctx gs)

/-- The BE context whose turn it is: the next in cyclic ascending order with a positive deficit and a ready job that can be dispatched now (R398, R406, R412). -/
def State.beTurn (s : State) (p : Nat) : Option Nat :=
  let can := (s.beCtxs p).filter (fun y => decide (0 < y.2.deficit)
    && s.ready.any (fun r => r.ctx == y.1 && s.beAllowed p (s.jobInfo y.2.playbook r.info) && s.canStart r && s.canPlace r))
  match (s.partSt p).round with
  | [] => (can.head?).map (·.1)
  | last :: _ => ((can.find? (fun y => last < y.1)).or can.head?).map (·.1)

/-- BE jobs that wait at a cut leave the groups that a job of the open slot could take (R394). -/
def State.clearGroups (s : State) (p : Nat) (gs : List Nat) : State :=
  let inWay := s.jobs.filter (fun j => j.2.part == p && j.2.holding && j.2.atCut && (s.ctxSt j.2.ctx).cls == .be && (groupsOf j.2.first j.2.count).any gs.contains)
  inWay.foldl (fun s j => s.preemptJob j.1 false) s

/-- A ready job that continues: past its cut when the next interval still fits, else it leaves its tiles; a pre-empted one returns when its tiles are free and its sequences are there again, and is refused when one of its tiles is unmapped (R228, R233, R325, R395). -/
def State.continueJob (s : State) (r : ReadyJob) (n : Nat) : State :=
  match tfind s.jobs n with
  | none => s.unready [r]
  | some j =>
    let fit := s.fits j.ctx ((s.jobInfo j.playbook j.info).wcets.getD r.interval 0)
    let gs := groupsOf j.first j.count
    if j.holding then
      if j.preempt || !fit || !s.mayTake j.ctx gs then s.preemptJob n (!fit) else s.goOn n j r
    else if !gs.all s.groupUsable then s.refuseJob j.ctx fUnmapped { addr := 0, tag := j.tag, first := j.first, groups := j.count / 16 }
    else if gs.all s.groupFree && s.seqsThere j && fit && s.mayTake j.ctx gs then s.goOn n j r
    else s

/-- What a new job needs before its turn comes: its sequences start from their prefix and get their slots (R307, R311). -/
def State.prepare (s : State) (c info : Nat) (r : ReadyJob) : State :=
  let ji := s.jobInfo (s.ctxSt c).playbook info
  let s := s.withBatch c info
  (rowSeqs (s.jobRows c info r)).foldl (fun s i => (if ji.recompute then s else s.sharePrefix i).reserve i) s

/-- A new job of a context starts where its pages are there, a variant is free and usable, and its first interval lies within the boundary; for an LC job BE jobs at a cut make room. A descriptor with an uncorrectable word starts nothing (R206, R233, R394-R400, R529). -/
def State.newJob (s : State) (c info : Nat) (r : ReadyJob) : State :=
  let x := s.ctxSt c
  let ji := s.jobInfo x.playbook info
  let rows := s.jobRows c info r
  let seqs := rowSeqs rows
  let mine := s.placesIn c info
  let usable := mine.filter (fun d => d.groupList.all s.groupUsable)
  if (ji.rows ≠ 0 && seqs = []) || !seqs.all s.pagesReady then s
  else if mine = [] then s.refuseJob c fParam ((ji.variants.map s.place).headD default)
  else if usable = [] then s.refuseJob c fUnmapped (mine.headD default)
  else if !s.fits c (ji.wcets.getD 0 0) then s
  else
    let open_ (s : State) (d : Place) : Bool := d.groupList.all s.groupFree && s.mayTake c d.groupList
    let s := if x.cls = .lc && !usable.any (open_ s) then
        s.clearGroups x.part (((usable.find? (fun d => d.groupList.all s.groupOpen)).map Place.groupList).getD [])
      else s
    match s.bestPlace x.playbook ji.model (s.chipsOf seqs) (usable.filter (open_ s)) with
    | none => s
    | some d =>
      match s.didRead d.addr (64 + 8 * (16 * d.groups)) with
      | (s, false) => s
      | (s, true) =>
        let rs := if ji.rows = 0 then [r] else s.ready.filter (fun y => y.ctx == c && y.info == info && y.job.isNone && seqs.contains y.item)
        s.startJob c info d r.item rows rs

/-- A BE job has its turn: one at a cut while its context has deficit, another when its context is the next of the round (R398). -/
def State.hasTurn (s : State) (c : Nat) (r : ReadyJob) : Bool :=
  (s.ctxSt c).cls == .lc || if s.holdsTiles r then decide (0 < (s.ctxSt c).deficit) else s.beTurn (s.ctxSt c).part == some c

/-- Dispatch of a job of a context (R206, R307, R394-R406, R412, R510, R534, R563): nothing happens where a rule holds the job back. -/
def execJobDispatch (ctx : Fin 4096) (job : Nat) (s : State) : Out :=
  s.onMain (fun s =>
    let c := ctx.val
    let x := s.ctxSt c
    let mine := s.ready.filter (fun r => r.ctx == c && r.info == job)
    match (mine.find? (fun r => r.job.isSome)).or mine.head? with
    | none => s
    | some r =>
      let ji := s.jobInfo x.playbook job
      let p := s.partSt x.part
      if !s.on HIF_STAT HIF_STAT_COACH_UP || s.standby || !p.valid || p.halted || x.tearing || (x.state ≠ .idle && x.state ≠ .resident) || p.switchIn == some c then s
      else
        let s := s.bringIn c
        if (s.ctxSt c).state ≠ .resident then s
        else
          match s.modelReady x.part x.playbook ji.model with
          | (s, false) => s
          | (s, true) =>
            let s := if r.job.isSome then s else s.prepare c job r
            if x.cls = .be && !s.beAllowed x.part ji then s
            else
              let s := if x.cls = .be then s.roundsOn x.part (s.roundsMax x) else s
              if !s.hasTurn c r then (if s.holdsTiles r then r.job.elim s (fun n => s.preemptJob n false) else s)
              else
                match r.job with
                | some n => s.continueJob r n
                | none => s.newJob c job r)

/-- A context switch completes: the incoming context is resident (R405), once the engine has left STANDBY (R564). -/
def execCtxSwitchDone (part : Fin 8) (s : State) : Out :=
  s.onMain (fun s =>
    let p := s.partSt part
    match p.switchIn with
    | some c =>
      if s.tb < p.switchTb || s.standby then s
      else
        let s := s.modPart part (fun p => { p with switchIn := none })
        if (s.ctxSt c).state = .idle then (s.modCtx c (fun x => { x with state := .resident })).freshSch else s
    | none => s)

/-- What waits for a context that stays FAULTED ends ERROR, CTX_FAULT (R408). -/
def State.faultItem (s : State) (i : Nat) : State :=
  match tfind s.seqs i with
  | some _ => s.endSeq i .ctxFault
  | none =>
    match tfind s.sides i with
    | some d => s.endPiece d.piece .error .ctxFault
    | none =>
      match tfind s.images i with
      | some _ => s.endPiece i .error .ctxFault
      | none => s

/-- Teardown completes: with RESTART 1 the context is IDLE again; else its queued items end (R408). Commands of its tiles that only wait are given up; while another runs on, teardown has not completed (log entry 77). -/
def execCtxTeardownDone (ctx : Fin 4096) (s : State) : Out :=
  s.onMain (fun s =>
    let c := ctx.val
    let busy := (s.ctxSt c).stopping && (s.ctxTiles c).any s.shouldHandshake
    let s := if (s.ctxSt c).stopping && !busy then s.teardown c else s
    let x := s.ctxSt c
    if !x.tearing || busy then s
    else
      let s := s.modCtx c (fun x => { x with tearing := false })
      if x.restart then (s.modCtx c (fun x => { x with state := .idle })).freshSch
      else
        let q := (s.ready.filter (fun r => r.ctx == c)).map (·.item)
        q.foldl State.faultItem { s with ready := s.ready.filter (fun r => r.ctx != c) })

/-! ### Slots and frames (R393-R397, R409) -/

/-- A job of a partition runs past its boundary (R396). -/
def State.overrunning (s : State) (p : Nat) : Bool :=
  s.jobs.any (fun j => j.2.part == p && j.2.holding && !j.2.atCut && j.2.boundary.any (fun b => decide (nsDiff b (ns48 s.now) ≤ 0)))

/-- A slot begins, at the cut of a job that overran; DEBT of its context ends it earlier, or leaves it to BE (R394, R396, R397). -/
def execSlotStart (part : Fin 8) (s : State) : Out :=
  s.onMain (fun s =>
    let x := s.partSt part
    match s.activeTable part with
    | none => s
    | some t =>
      match t.slots[x.nextSlot]? with
      | none => s
      | some l =>
        let at_ := (x.frameStart + l.start * 10000) % 2 ^ 48
        if x.halted || !s.reached at_ || s.overrunning part then s
        else
          let debt := (s.ctxSt l.ctx).debt
          let len := l.len * 10000
          let s := s.modPart part (fun p => { p with nextSlot := x.nextSlot + 1, slot := none })
          if len ≤ debt then s.modCtx l.ctx (fun c => { c with debt := debt - len })
          else
            let s := s.modCtx l.ctx (fun c => { c with debt := 0 })
            s.modPart part (fun p => { p with slot := some x.nextSlot, slotEndTb := (at_ + len - debt) % 2 ^ 48 }))

/-- A slot ends; BE time begins (R394, R397). -/
def execSlotEnd (part : Fin 8) (s : State) : Out :=
  s.onMain (fun s =>
    let x := s.partSt part
    if x.slot.isSome && s.reached x.slotEndTb then s.modPart part (fun p => { p with slot := none }) else s)

/-- Make a table active from a moment of fabric time on (R393). -/
def State.activate (s : State) (p : Nat) (tab : Nat × Nat) (at_ : Nat) : State :=
  (s.modPart p (fun x => { x with table := some tab, nextTable := none, frameStart := at_, slot := none, nextSlot := 0 })).freshPart p

/-- Coach selects the variant for the usable groups, or halts the partition (R409, R538). -/
def State.selectVariant (s : State) (p at_ : Nat) : State :=
  if !(s.partSt p).variantDue then s
  else
    let s := s.modPart p (fun x => { x with variantDue := false })
    match (s.partSt p).table.bind (s.variantFor p) with
    | some tab => (s.activate p tab at_).raise SCH_IRQ_STAT 2
    | none => ((s.modPart p (fun x => { x with halted := true })).freshPart p).errorRec clsPartHalted (some p) p 0 (s.usable p) 0 |>.advertise

/-- A major frame ends and the next begins, with a selected table or variant (R393, R409). -/
def execMajorFrame (part : Fin 8) (s : State) : Out :=
  s.onMain (fun s =>
    let p := part.val
    let x := s.partSt p
    match s.activeTable p with
    | none => s
    | some t =>
      let at_ := (x.frameStart + t.major * 10000) % 2 ^ 48
      if !s.reached at_ then s
      else
        let s := s.addWrap (SCH_PART_FRAMES p) SCH_PART_FRAMES_FRAMES
        let s := s.modPart p (fun x => { x with frameStart := at_, slot := none, nextSlot := 0 })
        let s := match x.nextTable with
          | some tab => s.activate p tab at_
          | none => s
        s.selectVariant p at_)

/-! ### Regulators and saturation (R386, R411) -/

/-- The resources of a partition that are busy now (R411). -/
def State.busyNow (s : State) (p : Nat) : List Bool :=
  let x := s.partSt p
  let us := x.groupList.filter s.groupUsable
  [ us ≠ [] && us.all (fun g => !s.groupFree g)
  , (tfind s.groups p).isSome || (s.gather p).isSome
  , s.images.any (fun im => !im.2.decoded && (s.item im.1).part == p) || s.regions.any (fun r => r.2.needCrop && !r.2.crop && (s.item r.1).part == p)
  , x.dramWait ≠ []
  , x.fabWait ≠ [] || s.egressWaits p
  , x.hdmaWait ≠ []
  , s.reqs.any (fun r => r.2.part == p && r.2.waiting) ]

/-- One µs of a partition: its buckets fill, waiting requests pass, busy resources are counted. -/
def State.tickPart (s : State) (p : Nat) : State :=
  let x := s.partSt p
  if !x.valid then s
  else
    let held := x.dramWait ≠ [] || x.fabWait ≠ [] || x.hdmaWait ≠ []
    let busy := (List.range 7).map (fun k => x.busy.getD k 0 + b2n ((s.busyNow p).getD k false))
    let s := if held then s.incReg (SCH_PART_THROTTLE p) else s
    s.modPart p (fun x =>
      let fill (b : Bucket) : Bucket := { b with level := min (b.level + b.rate) b.burst }
      let x := { x with dram := fill x.dram, fab := fill x.fab, hdma := fill x.hdma, busy := busy }
      ((x.grant .dram (if s.busHeld .dram then 0 else x.dramWait.length)).grant .fab x.fabWait.length).grant .hdma x.hdmaWait.length)

/-- An escalation that waits goes out once its regulators let it; a crop with an uncorrectable word costs what R529 says. -/
def State.escTick (s : State) (i : Nat) : State :=
  match s.cropOf i with
  | some c => if s.dramBad (s.cropAddr c) c.size = [] then s.escStart i else (s.didRead (s.cropAddr c) c.size).1
  | none => s

/-- One µs of the timebase for every bucket (R386); escalations and their replies that the regulators have let pass are sent. -/
def execBucketTick (s : State) : Out :=
  s.onMain (fun s => (s.regions.filter (fun r => r.2.escPending.isSome)).foldl (fun s r => s.escTick r.1) (s.kol.escOut.foldl State.escOutOne ((List.range 8).foldl State.tickPart s)))

/-- The end of a 1 ms window: resources busy for more than 950 µs are saturated; the scan lanes show their load (R357, R411, R412). -/
def execSaturationWindow (s : State) : Out :=
  s.onMain (fun s =>
    let s := (List.range 8).foldl (fun s p =>
      let x := s.partSt p
      let s := if x.valid then s.setFld (TOK_SCAN p) TOK_SCAN_SCAN_LOAD (min 1000 (x.busy.getD 1 0)) else s
      if x.valid then s.modPart p (fun x => { x with saturated := maskBits ((List.range 7).map (fun k => decide (950 < x.busy.getD k 0))), busy := [] }) else s) s
    let sat := (List.range 8).map (fun p => (s.partSt p).saturated)
    let res := sat.foldl (· ||| ·) 0
    let old := s.fld SCH_SATURATION SCH_SATURATION_RESOURCE
    let s := (s.setFld SCH_SATURATION SCH_SATURATION_RESOURCE res).setFld SCH_SATURATION SCH_SATURATION_PART_MASK (maskBits (sat.map (fun m => m != 0)))
    let s := s.setFld SCH_SAT_SEEN SCH_SAT_SEEN_SEEN (s.fld SCH_SAT_SEEN SCH_SAT_SEEN_SEEN ||| res)
    if res &&& (0x7F ^^^ old) != 0 then s.raise SCH_IRQ_STAT 1 else s)

end Sys2Proof.Machine
end

