-- ==== Sys2Proof/Machine/TimeUnit.lean ====
section
/-! DEFINITION. The time unit: root and parent, TIME messages, link delay, servo, holdover, steps, transmit stamp queues, PTP and ARP on the Ethernet port (R461-R483, R512, R560). -/

namespace Sys2Proof.Machine

/-! ### Flooded messages received (R433, R435) -/

/-- How many floods a device remembers as already accepted (log entry 54). -/
def floodMemory : Nat := 32768

/-- Forward a flooded message of device `src` that came in on port `n` on every other UP port (R435). -/
def State.forwardFlood (s : State) (n src vc : Nat) (data : List Byte) : State :=
  let fs := fragment 0 src 14 1 0 s.kol.nextMsg vc (cdiv data.length 240) 0 data
  ((s.upPorts.filter (fun p => p != n)).foldl (fun s p => s.queueFlits p fs) s).bumpMsg

/-- A flooded message has been received whole: accepted once per (SRC, FLOOD_SEQ), and forwarded unless its flits already were (R435). A device without an address takes none outside a huddle (R444). -/
def State.floodIn (s : State) (n src seq vc : Nat) (data : List Byte) (f : State → State) : State :=
  let s := s.took src (leAt data 0 1)
  if !s.linkUp n || s.addr? == some src || (s.addr?.isNone && !s.kol.huddle.running) || s.kol.floodDone.contains (src, seq) then s
  else
    let seen := s.kol.floodSeen.contains (src, seq)
    let s := { s with kol := { s.kol with floodDone := ((src, seq) :: s.kol.floodDone).take floodMemory
                                          floodSeen := if seen then s.kol.floodSeen else ((src, seq) :: s.kol.floodSeen).take floodMemory } }
    f (if seen then s else s.forwardFlood n src vc data)

/-! ### Root and parent (R467) -/

/-- SRC of TIM_CFG (R482). -/
def State.timeSrc (s : State) : Nat := s.fld TIM_CFG TIM_CFG_SRC

/-- The device is PTP slave in state SLAVE, and so announces itself (R467, R468; log entry 55). -/
def State.ptpLocked (s : State) : Bool := s.timeSrc == 1 && s.fld TIM_STAT TIM_STAT_PTP_STATE == 3

/-- Hops to an address over the port that routes there now (R434). -/
def State.hopsTo (s : State) (d : Nat) : Option Nat :=
  match s.routePort d with
  | none => none
  | some 6 => some 0
  | some p => some (s.fld (KOL_ROUTE d) (if s.fld (KOL_ROUTE d) KOL_ROUTE_PRI = p then KOL_ROUTE_HOPS_PRI else KOL_ROUTE_HOPS_ALT))

/-- The time root: the lowest address that announces itself and can be reached, else 0 (R467; log entry 55). -/
def State.timeRoot (s : State) : Nat :=
  let own := match s.addr? with
    | some a => if s.ptpLocked then [a] else []
    | none => []
  let l := own ++ (s.tim.announcers.map (·.1)).filter (fun a => (s.hopsTo a).isSome)
  match l with
  | [] => 0
  | a :: t => t.foldl min a

/-- This device is the time root (R467). -/
def State.isTimeRoot (s : State) : Bool := s.addr? == some s.timeRoot

/-- The parent port: PRI of the route to the time root, or ALT while PRI is DOWN (R467). -/
def State.parentPort (s : State) : Option Nat :=
  if s.addr?.isNone || s.isTimeRoot then none
  else
    match s.routePort s.timeRoot with
    | some p => if p < 6 then some p else none
    | none => none

/-- HOPS of the messages sent: own hops to the time root, 0xFF for none (R468). -/
def State.timeHops (s : State) : Nat :=
  if s.isTimeRoot then 0 else if s.addr?.isNone then 0xFF else (s.hopsTo s.timeRoot).getD 0xFF

/-- The parent port may have changed: a new one runs the burst of R468, and holds over when a route change moved it (R478). -/
def State.parentCheck (s : State) (route : Bool) : State :=
  let p := s.parentPort
  let s := s.setBit TIM_STAT TIM_STAT_TIME_ROOT s.isTimeRoot
  if p = s.tim.parent then s
  else
    let s := { s with tim := { s.tim with parent := p, burstEnded := false } }
    match p with
    | none => s
    | some n =>
      let s := s.modTport n (fun t => { t with burst := 16, syncRx := [] })
      if route then s.setFld TIM_STAT TIM_STAT_REROUTE_HOLD 1 else s

/-! ### Steps (R475-R477, R560) -/

/-- An accepted step of `c` units of 2^-16 ns reaches Norentum, which applies it when no measurement is under way; fabric time stands still for `still` ns after it (R475, R477). -/
def Met.takeStep (m : Met) (c : Int) (still : Nat) : Met :=
  if m.on && c != 0 then ({ m with stepDue := m.stepDue + c }).applyStep still else m

/-- Fabric time and TAI move by `c` units of 2^-16 ns at once; a backward step stops the counter for as long instead (R475). -/
def State.stepTime (s : State) (c : Int) : State :=
  if 0 ≤ c then
    let ns := s.tim.taiNs * 65536 + s.now.toNat % 65536 + c.toNat
    let ns := ns / 65536
    { s with tim := { s.tim with now := s.tim.now + BitVec.ofNat 64 c.toNat, tai := (s.tim.tai + ns / 1000000000) % 2 ^ 48, taiNs := ns % 1000000000 } }
  else { s with tim := { s.tim with stopNs := s.tim.stopNs + cdiv c.natAbs 65536 } }

/-- Add `c` ns to a stamp48 value; 0 stands for none. -/
def addNs (c : Int) (d : Nat) : Nat := if d = 0 then 0 else uns 48 ((d : Int) + c)

/-- An accepted step adds `c` ns to the DEADLINE of every item that is not FREE (R476). -/
def State.shiftDeadlines (s : State) (c : Int) : State :=
  { s with items := tmap s.items (fun _ e => if e.state = .free then e else { e with deadline := addNs c e.deadline })
           pieces := tmap s.pieces (fun _ p => { p with emitPoint := p.emitPoint.map (addNs c), lateDue := p.lateDue.map (addNs c) }) }

/-! ### Servo (R472-R474) -/

/-- A rational in the nearest whole number, ties to even (log entry 56). -/
def ratRound (r : Rat) : Int := divEven r.num r.den

/-- A signed value that saturates in 32 bits. -/
def sat32 (i : Int) : Word := BitVec.ofInt 32 (max (-(2 ^ 31)) (min (2 ^ 31 - 1) i))

/-- Absolute value of a rational. -/
def ratAbs (r : Rat) : Rat := if r < 0 then -r else r

/-- The rate within ±100 ppm (R472, R473). -/
def clampRate (r : Rat) : Rat := max (-100000) (min 100000 r)

/-- Put the rate, which never leaves ±100 ppm (R472, R473). -/
def State.setRate (s : State) (r : Rat) : State :=
  { s with tim := { s.tim with rate := clampRate r } }.setReg TIM_RATE (sat32 (ratRound (clampRate r)))

/-- refuse(off) of R474; the rate frozen at freq keeps within the bound of R473 (log entry 55). -/
def State.refuseStep (s : State) (off : Rat) : State :=
  let s := s.setPair TIM_PENDING_LO (uns 64 (ratRound (-off)))
  let s := (s.setFld TIM_STAT TIM_STAT_STEP_REFUSED 1).setFld TIM_STAT TIM_STAT_HOLDOVER 1
  ({ s with tim := { s.tim with good := 0 } }.setRate s.tim.freq).raise TIM_IRQ_STAT 0

/-- Holdover ends and PENDING_STEP is written 0 (R474). -/
def State.endHoldover (s : State) : State :=
  { (s.setFld TIM_STAT TIM_STAT_HOLDOVER 0).setPair TIM_PENDING_LO 0 with tim := { s.tim with good := 0 } }

/-- LOCKED: the last 16 offsets lie within 100 ns (R482). -/
def State.setLocked (s : State) : State :=
  let l := s.tim.recent.length == 16 && s.tim.recent.all (fun o => decide (ratAbs o ≤ 100))
  let was := s.on TIM_STAT TIM_STAT_LOCKED
  let s := s.setBit TIM_STAT TIM_STAT_LOCKED l
  if was && !l then s.raise TIM_IRQ_STAT 1 else s

/-- The integral and proportional terms of R472. -/
def State.slew (s : State) (off : Rat) : State :=
  let f := s.tim.freq - off / (2 ^ s.fld TIM_CFG TIM_CFG_KI_SHIFT) / (s.fld TIM_CFG TIM_CFG_SYNC_US)
  let r := f - off / (s.fld TIM_CFG TIM_CFG_SLEW_WIN_MS)
  { s with tim := { s.tim with freq := f } }.setRate r

/-- An offset, in ns, has been measured (R472-R474, R560): the state after it, and the step that it makes in units of 2^-16 ns. -/
def State.offsetIn (s : State) (off : Rat) : State × Int :=
  let first := s.tim.recent = []
  let s := ({ s with tim := { s.tim with recent := (off :: s.tim.recent).take 16 } }.setReg TIM_OFFSET (sat32 (ratRound off))).setLocked
  if first && !s.on HIF_STAT HIF_STAT_READY then (s.stepTime (ratRound (-off * 65536)), ratRound (-off * 65536))
  else if s.on TIM_STAT TIM_STAT_REROUTE_HOLD then (s, 0)
  else if s.on TIM_STAT TIM_STAT_HOLDOVER then
    if ratAbs off ≤ (s.num TIM_STEP_LIMIT) then
      if s.tim.good = 2 then (s.endHoldover, 0) else ({ s with tim := { s.tim with good := s.tim.good + 1 } }, 0)
    else ({ s with tim := { s.tim with good := 0 } }, 0)
  else if (s.num TIM_STEP_LIMIT : Rat) < ratAbs off then (s.refuseStep off, 0)
  else (s.slew off, 0)

/-- USER_ASYM_NS of a port in ns (R470). -/
def State.asym (s : State) (p : Nat) : Rat := mkRat (sgn 32 (s.num (TIM_PORT_ASYM p))) 256

/-- The delay applied to a SYNC received on a port (R470). -/
def State.delayOf (s : State) (p : Nat) : Rat := mkRat (s.num (TIM_PORT_DELAY p)) 256 + s.asym p

/-! ### Rows of the exchange (R468-R471) -/

/-- SYNC_SEND: a SYNC on every UP port; FOLLOW goes out after each (R468). A device without an address sends none (R444). -/
def execSyncSend (s : State) : Out :=
  s.onMain (fun s =>
    if s.addr?.isNone then s
    else s.upPorts.foldl (fun s n =>
      let id := (s.tim.syncId + 1) % 65536
      ({ s with tim := { s.tim with syncId := id } }).sendLocal n vcTime (timeMsg 0 1 s.timeHops id s.now 0)) s)

/-- PD_REQ_SEND: a PD_REQ on port `n`, one of the burst while one runs (R468, R478). A device without an address sends none (R444). -/
def execPdReqSend (n : Fin 6) (s : State) : Out :=
  s.onMain (fun s =>
    let n := n.val
    if !s.linkUp n || s.addr?.isNone then s
    else
      let t := s.tport n
      let id := (t.reqId + 1) % 65536
      let s := { s with tim := { s.tim with burstEnded := s.tim.burstEnded || (s.tim.parent == some n && t.burst == 0) } }
      let s := s.modTport n (fun t => { t with reqId := id, t1 := none, t2 := none, t4 := none, burst := t.burst - 1 })
      s.sendLocal n vcTime (timeMsg 0 3 s.timeHops id s.now 0))

/-- ANNOUNCE_SEND: a PTP-locked device announces itself to every device (R467, R468). -/
def execAnnounceSend (s : State) : Out :=
  s.onMain (fun s => if s.ptpLocked then s.sendFloodOn vcTime (fun seq => timeMsg seq 6 s.timeHops seq s.now 0) else s)

/-- Fabric offsets discipline the clock unless SRC is PTP_SLAVE or FREE (R482; log entry 55). -/
def State.fabricTime (s : State) : Bool := s.timeSrc == 0 || s.timeSrc == 2

/-- SYNC received on port `n` at the stamp `rx`, taken inside: ignored unless it comes from the parent with lower HOPS (R465, R471). -/
def execSync (n : Fin 6) (id : BitVec 16) (hops : BitVec 8) (rx : Stamp) (s : State) : Out :=
  s.onMain (fun s =>
    let s := s.took (256 + n) 0x40
    if s.linkUp n && s.tim.parent == some n.val && decide (hops.toNat < s.timeHops) then
      s.modTport n (fun t => { t with syncRx := ((id.toNat, s.rxStamp n rx) :: t.syncRx).take 8 })
    else s)

/-- FOLLOW received on port `n`: the offset of its SYNC disciplines the clock (R470-R474, R478, R560). -/
def execFollow (n : Fin 6) (id : BitVec 16) (_hops : BitVec 8) (stamp : Stamp) (s : State) : Out :=
  s.onTime (fun s =>
    let n := n.val
    let s := s.took (256 + n) 0x40
    match (s.tport n).syncRx.find? (fun x => x.1 == id.toNat) with
    | none => (s, 0)
    | some (_, rx) =>
      if !s.linkUp n || s.tim.parent != some n then (s, 0)
      else
        let s := s.modTport n (fun t => { t with syncRx := t.syncRx.filter (fun x => x.1 != id.toNat) })
        let s := if s.on TIM_STAT TIM_STAT_REROUTE_HOLD && s.tim.burstEnded then s.setFld TIM_STAT TIM_STAT_REROUTE_HOLD 0 else s
        if s.fabricTime then s.offsetIn (mkRat (stampDiff rx stamp) 65536 - s.delayOf n) else (s, 0)) Met.takeStep

/-- PD_REQ received on port `n` at the stamp `rx`, taken inside: answered by PD_RESP and PD_FOLLOW (R465, R468). A device without an address answers none (R444). -/
def execPdReq (n : Fin 6) (id : BitVec 16) (rx : Stamp) (s : State) : Out :=
  s.onMain (fun s =>
    let s := s.took (256 + n) 0x40
    if s.addr?.isNone then s else s.sendLocal n vcTime (timeMsg 0 4 s.timeHops id.toNat s.now (s.rxStamp n rx)))

/-- PD_RESP received on port `n` at the stamp `rx`, taken inside (R465, R469). -/
def execPdResp (n : Fin 6) (id : BitVec 16) (t2 : Stamp) (rx : Stamp) (s : State) : Out :=
  s.onMain (fun s =>
    let s := s.took (256 + n) 0x40
    let t := s.tport n
    if s.linkUp n && t.reqId == id.toNat && t.t1.isSome then s.modTport n (fun t => { t with t2 := some t2, t4 := some (s.rxStamp n rx) }) else s)

/-- Mean of the samples (R469). -/
def meanOf (l : List Rat) : Rat := l.foldl (· + ·) 0 / (l.length : Nat)

/-- PD_FOLLOW received on port `n`: one sample of the link delay (R469). -/
def execPdFollow (n : Fin 6) (id : BitVec 16) (t3 : Stamp) (s : State) : Out :=
  s.onMain (fun s =>
    let n := n.val
    let s := s.took (256 + n) 0x40
    let t := s.tport n
    match t.t1, t.t2, t.t4 with
    | some t1, some t2, some t4 =>
      if !s.linkUp n || t.reqId != id.toNat then s
      else
        let x := mkRat (stampDiff t4 t1 - stampDiff t3 t2) 131072
        let s := { s with tim := { s.tim with burstEnded := s.tim.burstEnded || (s.tim.parent == some n && t.burst == 0) } }
        let s := s.modTport n (fun t => { t with t1 := none, t2 := none, t4 := none })
        if x < 0 || 2000 < x then s.incFld (TIM_PORT_CNT n) TIM_PORT_CNT_PD_BAD
        else
          let l := (x :: t.samples).take 16
          (s.modTport n (fun t => { t with samples := l })).setNum (TIM_PORT_DELAY n) (ratRound (meanOf l * 256)).toNat
    | _, _, _ => s)

/-- ANNOUNCE received on port `n` (R467, R468). -/
def execAnnounce (n : Fin 6) (src : BitVec 8) (seq : BitVec 16) (hops : BitVec 8) (s : State) : Out :=
  s.onMain (fun s =>
    s.floodIn n src.toNat seq.toNat vcTime (timeMsg seq.toNat 6 hops.toNat seq.toNat s.now 0) (fun s =>
      ({ s with tim := { s.tim with announcers := tput s.tim.announcers src.toNat s.tb } }).parentCheck false))

/-- Devices whose last ANNOUNCE, which is due every 1 ms, lies too far back announce themselves no more: the root, and with it the parent, may change (R467, R468; log entry 55). -/
def State.announceTick (s : State) : State :=
  if s.tim.announcers.any (fun a => decide (a.2 + 1000000 + Config.announceGrace < s.tb)) then
    ({ s with tim := { s.tim with announcers := s.tim.announcers.filter (fun a => !decide (a.2 + 1000000 + Config.announceGrace < s.tb)) } }).parentCheck false
  else s

/-! ### Transmit stamp queues (R479) -/

/-- A transmit stamp enters the queue of port `p`. -/
def State.txqPush (s : State) (p id : Nat) (stamp : Stamp) : State :=
  if 8 ≤ (s.tport p).txq.length then
    let s := s.incFld (TIM_PORT_CNT p) TIM_PORT_CNT_TXQ_OVF_CNT
    (s.setNum TIM_TXQ_OVF (s.num TIM_TXQ_OVF ||| 2 ^ p)).raise TIM_IRQ_STAT 2
  else s.modTport p (fun t => { t with txq := t.txq ++ [(id, stamp)] })

/-- TXQ_POP: a read of TIM_PORTp_POP removes the oldest entry and latches its stamp; an empty queue returns VALID 0 (R479). -/
def State.txqPop (s : State) (p : Nat) : State :=
  match (s.tport p).txq with
  | [] => { s.setReg (TIM_PORT_POP p) 0 with rdata := 0 }
  | (id, stamp) :: rest =>
    let v := fset (fset 0 TIM_PORT_POP_VALID 1) TIM_PORT_POP_STAMP_ID id
    let s := (s.modTport p (fun t => { t with txq := rest })).setPair (TIM_PORT_STAMP_LO p) stamp.toNat
    { s.setReg (TIM_PORT_POP p) v with rdata := v }

/-! ### The Ethernet port (R480, R512) -/

/-- The Ethernet port runs. -/
def State.ethOn (s : State) : Bool := s.on ETH_CFG ETH_CFG_EN && s.on ETH_STAT ETH_STAT_LINK_UP

/-- A frame of this port's domain and transport (R480, R482). -/
def State.ptpMine (s : State) (f : PtpFrame) : Bool :=
  f.domain.toNat == s.fld TIM_PTP_CFG TIM_PTP_CFG_DOMAIN && f.l2 == s.on TIM_PTP_CFG TIM_PTP_CFG_L2

/-- The peer-to-peer mechanism is chosen (R482). -/
def State.ptpPeer (s : State) : Bool := s.on TIM_PTP_CFG TIM_PTP_CFG_PEER

/-- Change what PTP keeps of the Ethernet port. -/
def State.modPtp (s : State) (f : PtpPort → PtpPort) : State := { s with tim := { s.tim with ptp := f s.tim.ptp } }

/-- A PTP message leaves in the port's domain, over its transport (R480, R482). -/
def State.ptpSend (s : State) (m : PtpMsg) (stamp : Stamp) : State :=
  s.modPtp (fun p => { p with sent := { msg := m, domain := s.fld TIM_PTP_CFG TIM_PTP_CFG_DOMAIN, l2 := s.on TIM_PTP_CFG TIM_PTP_CFG_L2, stamp := stamp } :: p.sent })

/-- The device may be MASTER: SRC says so, and it is the time root or synchronised to it (R480; log entry 55). -/
def State.mayMaster (s : State) : Bool := s.timeSrc == 2 && (s.isTimeRoot || s.on TIM_STAT TIM_STAT_LOCKED)

/-- The port is MASTER (R480). -/
def State.ptpMaster (s : State) : Bool := s.mayMaster && s.fld TIM_STAT TIM_STAT_PTP_STATE == 4

/-- The port follows a master: SRC is PTP_SLAVE, in state UNCALIBRATED or SLAVE (R480, R482). -/
def State.ptpSlave (s : State) : Bool := s.timeSrc == 1 && (s.fld TIM_STAT TIM_STAT_PTP_STATE == 2 || s.fld TIM_STAT TIM_STAT_PTP_STATE == 3)

/-- A state that BMCA may give the port: UNCALIBRATED and SLAVE as PTP_SLAVE, MASTER where the device may be master, INITIALIZING, LISTENING and FAULTY always; other codes name none (R480, R482). -/
def State.ptpStateOk (s : State) (st : Nat) : Bool :=
  match st with
  | 0 => true
  | 1 => true
  | 2 => s.timeSrc == 1
  | 3 => s.timeSrc == 1
  | 4 => s.mayMaster
  | 5 => true
  | _ => false

/-- The next Sync of a master is due: 2^LOG_SYNC s after the last (R480, R482). -/
def State.ptpSyncDue (s : State) : Bool :=
  let k := sgn 4 (s.fld TIM_PTP_CFG TIM_PTP_CFG_LOG_SYNC)
  match s.tim.ptp.syncTb with
  | none => true
  | some t => if 0 ≤ k then decide (t + 1000000000 * 2 ^ k.toNat ≤ s.tb) else decide (1000000000 ≤ (s.tb - t) * 2 ^ (-k).toNat)

/-- A Sync gives an offset, once the path delay is known: receive stamp less origin stamp less corrections less path delay, and less USER_ASYM_NS of the port (R470, R480; log entry 55). -/
def State.ptpSync (s : State) (origin : Stamp) (correction : Int) (rx : Stamp) : State × Int :=
  let s := s.modPtp (fun p => { p with origin := some (origin + BitVec.ofInt 64 correction), rx := rx })
  match s.tim.ptp.delay with
  | none => (s, 0)
  | some d => s.offsetIn (((stampDiff rx origin - correction : Int) - d) / 65536 - s.asym 6)

/-- A Delay_Resp gives the path delay: the mean of both directions (R480; log entry 55). -/
def State.ptpDelay (s : State) (rx : Stamp) (correction : Int) : State :=
  match s.tim.ptp.origin, s.tim.ptp.request with
  | some t1, some t3 => s.modPtp (fun p => { p with request := none, delay := some (mkRat (stampDiff p.rx t1 + stampDiff rx t3 - correction) 2) })
  | _, _ => s

/-- A Pdelay_Resp gives the delay of the link: round trip less the peer's turnaround, halved (R480; log entry 55). -/
def State.ptpPdelay (s : State) (peerRx peerTx : Stamp) (correction : Int) (rx : Stamp) : State :=
  match s.tim.ptp.request with
  | some t1 => s.modPtp (fun p => { p with request := none, delay := some (mkRat (stampDiff rx t1 - stampDiff peerTx peerRx - correction) 2) })
  | none => s

/-- PTP_EVENT_FRAME: what PTP does on the Ethernet port, at a stamp taken inside, which is corrected to the pin (R465, R470, R472, R479, R480; log entry 55). -/
def execPtpEventFrame (ev : PtpEvent) (stamp : Stamp) (s : State) : Out :=
  s.onTime (fun s =>
    match ev with
    | .sync f origin corr => if s.ethOn && s.ptpMine f && s.ptpSlave then s.ptpSync origin corr (s.rxStamp 6 stamp) else (s, 0)
    | .delayResp f rx corr => (if s.ethOn && s.ptpMine f && s.ptpSlave && !s.ptpPeer then s.ptpDelay rx corr else s, 0)
    | .pdelayResp f rx tx corr => (if s.ethOn && s.ptpMine f && s.ptpPeer then s.ptpPdelay rx tx corr (s.rxStamp 6 stamp) else s, 0)
    | .request f peer =>
      (if !s.ethOn || !s.ptpMine f || peer != s.ptpPeer then s
      else if peer then (s.ptpSend .pdelayResp (s.rxStamp 6 stamp)).ptpSend .pdelayRespFollowUp (s.txStamp 6 s.now)
      else if s.ptpMaster then s.ptpSend .delayResp (s.rxStamp 6 stamp) else s, 0)
    | .other => (s, 0)
    | .sendSync =>
      (if s.ethOn && s.ptpMaster && s.ptpSyncDue then ((s.modPtp (fun p => { p with syncTb := some s.tb })).ptpSend .sync s.now).ptpSend .followUp (s.txStamp 6 stamp) else s, 0)
    | .sendRequest =>
      (if !s.ethOn || !(s.ptpPeer || s.ptpSlave) then s
      else (s.ptpSend (if s.ptpPeer then .pdelayReq else .delayReq) 0).modPtp (fun p => { p with request := some (s.txStamp 6 stamp) }), 0)
    | .sent p id => (if (if p.val < 6 then s.linkUp p else s.ethOn) then s.txqPush p id.toNat (s.txStamp p stamp) else s, 0)
    | .state st => (if s.ptpStateOk st.toNat then (s.setFld TIM_STAT TIM_STAT_PTP_STATE st.toNat).parentCheck false else s, 0)) Met.takeStep

/-- ARP_REQUEST: a request for ETH_IP is answered under RFC 826 (R512). -/
def execArpRequest (target : Word) (senderIp : Word) (senderMac : BitVec 48) (s : State) : Out :=
  s.onMain (fun s =>
    if !s.ethOn || target != s.reg ETH_IP then s
    else
      let mac := beBytes 6 (s.pair ETH_MAC_LO)
      let r := beBytes 6 senderMac.toNat ++ mac ++ beBytes 2 0x0806 ++ beBytes 2 1 ++ beBytes 2 0x0800 ++ beBytes 1 6 ++ beBytes 1 4
        ++ beBytes 2 2 ++ mac ++ beBytes 4 target.toNat ++ beBytes 6 senderMac.toNat ++ beBytes 4 senderIp.toNat
      { s with eth := { s.eth with replies := r :: s.eth.replies } })

/-- ETH_FRAME_DISCARD: every other received frame is discarded (R512). -/
def execEthFrameDiscard (_frame : List Byte) (s : State) : Out := s.onMain (fun s => s)

/-- ETH_LINK_DOWN: the datagrams that wait are discarded and counted (R514, R520). -/
def execEthLinkDown (s : State) : Out :=
  s.onMain (fun s => { (s.setFld ETH_STAT ETH_STAT_LINK_UP 0).incReg ETH_DROP_CNT s.eth.queue.length with eth := { s.eth with queue := [] } })

/-- ETH_LINK_UP: block lock and no remote fault; held records may leave during a stall (R510, R520). -/
def execEthLinkUp (s : State) : Out :=
  s.onMain (fun s => ((s.setFld ETH_STAT ETH_STAT_LINK_UP 1).divertHold.stallCheck).tidy)

end Sys2Proof.Machine
end

