-- ==== Sys2Proof/Machine/KolLink.lean ====
section
/-! DEFINITION. Koliad links: training and alignment, flits in and out of order, replay, credits, forwarding, reassembly, link up and down, the routing table, transactions that fail (R417-R436, R438, R445). -/

namespace Sys2Proof.Machine

/-! ### The routing table (R436) -/

/-- A link end reported DOWN (R445). -/
def State.endDown (s : State) (a p : Nat) : Bool := s.kol.down.contains (a, p)

/-- Neighbours of a device in the map, links reported DOWN at either end left out: (port, neighbour address). -/
def State.mapLinks (s : State) (a : Nat) : List (Nat × Nat) :=
  match s.kol.huddle.map.find? (fun d => d.addr == a) with
  | none => []
  | some d => (d.links.filter (fun l => !s.endDown a l.port && !s.endDown l.naddr l.nport)).map (fun l => (l.port, l.naddr))

/-- Distances from a set of devices, breadth first: devices seen so far with their distance, those of the last level, the next distance; `me` is never entered. -/
def State.spread (s : State) (me : Nat) : Nat → Tbl Nat → List Nat → Nat → Tbl Nat
  | 0, seen, _, _ => seen
  | n + 1, seen, level, d =>
    let next := ((level.flatMap (fun a => (s.mapLinks a).map (·.2))).filter (fun a => a != me && (tfind seen a).isNone)).eraseDups
    if next = [] then seen else s.spread me n (next.foldl (fun t a => tput t a d) seen) next (d + 1)

/-- Hops from device `a` to every device that it reaches in at most 15 hops, avoiding `me` (R436). -/
def State.distances (s : State) (me a : Nat) : Tbl Nat :=
  if a = me then [] else s.spread me 15 [(a, 0)] [a] 1

/-- The better of two ports with their hops: fewer hops, then the lower port. -/
def betterPort (b : Option (Nat × Nat)) (c : Nat × Nat) : Option (Nat × Nat) :=
  match b with
  | none => some c
  | some d => if c.2 < d.2 || (c.2 = d.2 && c.1 < d.1) then some c else some d

/-- The entry KOL_ROUTE_d of this device `me`, from the distances over each port (R436). -/
def routeEntry (me d : Nat) (dist : List (Nat × Tbl Nat)) : Word :=
  let put (valid pri alt hp ha : Nat) : Word :=
    fset (fset (fset (fset (fset 0 KOL_ROUTE_VALID valid) KOL_ROUTE_PRI pri) KOL_ROUTE_ALT alt) KOL_ROUTE_HOPS_PRI hp) KOL_ROUTE_HOPS_ALT ha
  if d = me then put 1 6 7 0 0
  else
    let ps := dist.filterMap (fun x => (tfind x.2 d).map (fun h => (x.1, h + 1)))
    match ps.foldl betterPort none with
    | none => put 0 7 7 0 0
    | some (p, h) =>
      match (ps.filter (fun x => x.1 != p)).foldl betterPort none with
      | none => put 1 p 7 h 0
      | some (q, k) => put 1 p q h k

/-- The device computes its table from the map; one without an address has no route (R436, R443). -/
def State.setRoutes (s : State) : State :=
  match s.addr? with
  | none => (List.range 256).foldl (fun s d => s.setReg (KOL_ROUTE d) (routeEntry 256 d [])) s
  | some me =>
    let dist := (s.mapLinks me).map (fun x => (x.1, s.distances me x.2))
    (List.range 256).foldl (fun s d => s.setReg (KOL_ROUTE d) (routeEntry me d dist)) s

/-- Whether every mapped device has a route that is UP. -/
def State.lostRoutes (s : State) : List Nat := (s.kol.huddle.map.map (·.addr)).filter (fun a => (s.routePort a).isNone)

/-- A link end is reported DOWN or UP: the table is recomputed and ROUTE_CHANGE sets (R445). -/
def State.linkReport (s : State) (down : Bool) (a p : Nat) : State :=
  let l := s.kol.down.filter (fun e => e != (a, p))
  let s := { s with kol := { s.kol with down := if down then (a, p) :: l else l } }
  ((s.setRoutes).raise KOL_G_IRQ_STAT 0).parentCheck true

/-! ### Transactions that fail (R434, R438) -/

/-- A REGION whose escalation failed keeps its own value (R377, R378, R456). -/
def State.escOwn (s : State) (seq : Nat) : State :=
  match tfind s.seqs seq with
  | none => s
  | some q =>
    let s := s.endSeq seq .aborted
    match tfind s.regions q.region with
    | some r =>
      if r.result.isSome then s
      else (s.closeRegion q.region (voteRegion (s.quorumOf r) r)).tidy
    | none => s

/-- A transaction ends without its reply: the command completes with a status, an escalation leaves the value as it is (R434, R438). -/
def State.failTxn (s : State) (txn : Nat) (st : Status) : State :=
  match tfind s.kol.txns txn with
  | none => s
  | some t =>
    let s := { s with kol := { s.kol with txns := tdel s.kol.txns txn } }
    let s := match t.cmd with
      | some (q, pos) => s.complete q pos st 0 txn
      | none => s
    match t.seq with
    | some i => s.escOwn i
    | none => s

/-- The transaction of this device that a message carries, by its TYPE (R437). -/
def carries (data : List Byte) : Option Nat :=
  if [0x10, 0x11, 0x30, 0x31].contains (leAt data 0 1) then some (leAt data 8 4) else none

/-- The partition whose work a transaction serves. -/
def State.txnPart (s : State) (t : Txn) : Option Nat :=
  match t.seq, t.cmd with
  | some i, _ => some (s.item i).part
  | none, some (q, _) => some (s.fld (HIF_SQ_PERM q) HIF_SQ_PERM_PART)
  | none, none => none

/-- Send a routed message; without a route the transaction that it carries fails (R434). -/
def State.sendTxn (s : State) (dst vc : Nat) (data : List Byte) (part : Option Nat := none) : State :=
  match s.sendRouted dst vc data part with
  | (s, true) => s
  | (s, false) => (carries data).elim s (fun t => s.failTxn t .fabNoRoute)

/-! ### Link state (R427, R428, R445) -/

/-- The port's receiver is aligned (R419). -/
def State.aligned (s : State) (n : Nat) : Bool := n < 6 && s.on (KOL_PORT_STAT n) KOL_PORT_STAT_ALIGNED

/-- The VC split as buffers by VC (R429). -/
def State.vcSplit (s : State) (n : Nat) : Tbl Nat :=
  [(vcCtl, s.fld (KOL_VC_SPLIT n) KOL_VC_SPLIT_CTL), (vcLc, s.fld (KOL_VC_SPLIT n) KOL_VC_SPLIT_LC),
   (vcBe, s.fld (KOL_VC_SPLIT n) KOL_VC_SPLIT_BE), (vcTime, s.fld (KOL_VC_SPLIT n) KOL_VC_SPLIT_TIME)]

/-- Send what is ready, then IDLE flits for the credits still owed (R429; log entry 19). -/
def State.serve (s : State) (n : Nat) : State :=
  let s := s.pump n
  if s.aligned n then s.modKport n (KPort.idle 64) else s

/-- A port that aligns starts afresh and returns its full VC split as credits; flits that came in on it before and still wait to be forwarded hold no buffer of it any more (R427, R429). -/
def State.freshPort (s : State) (n : Nat) : State :=
  let s := { s with kol := { s.kol with ports := tmap s.kol.ports (fun _ p => { p with ready := p.ready.map (fun (f : RFlit) => if f.origin = some n then { f with origin := some 6 } else f) }) } }
  let p := s.kport n
  (s.setKport n { (default : KPort) with
    owed := s.vcSplit n, lastOwed := 3, lastGood := s.tb, ackTb := s.tb, neighSerial := p.neighSerial, sent := p.sent, stream := p.stream, cwSeq := p.cwSeq, lanes := p.lanes, levels := p.levels }).serve n

/-- Flood LINK_DOWN or LINK_UP for port `n` of this device, once it has an address (R432, R445; log entry 11). -/
def State.floodLink (s : State) (typ n : Nat) : State :=
  match s.addr? with
  | some a => s.sendFlood typ (Config.msgBody typ [a, n])
  | none => s

/-- A message under way: its source, channel and MSG_ID (R433). -/
def RFlit.key (f : RFlit) : Nat × Nat × Nat := (leAt f.data 1 1, f.vc, leAt f.data 4 2)

/-- A flit goes no further: a forwarded one frees its buffer (R429), the first of an own message is dropped at the source with the transaction that it carries (R434). -/
def State.loseFlit (s : State) (f : RFlit) : State :=
  let ctl := leAt f.data 2 1
  match f.origin with
  | some o => s.freeBuffer o f.vc
  | none =>
    if bit ctl 0 || bit ctl 1 || !bit ctl 3 then s
    else (carries (f.data.drop 8)).elim id (fun t s => s.failTxn t .fabNoRoute) (s.incFld KOL_DROP_CNT KOL_DROP_CNT_NO_ROUTE)

/-- The rest of a message takes another port. -/
def State.turnPath (s : State) (key : Nat × Nat × Nat) (p : Nat) : State :=
  { s with kol := { s.kol with paths := s.kol.paths.map (fun x => if x.1 = key.1 && x.2.1 = key.2.1 && x.2.2.1 = key.2.2 then (x.1, x.2.1, x.2.2.1, p) else x) } }

/-- The flits that were ready on a port that is now DOWN: a routed message whose FIRST flit has not left takes the port that the table gives now, the others are lost (R428, R433, R434; log entry 87). `turned` holds the messages that took another port. -/
def State.reroute : List RFlit → List ((Nat × Nat × Nat) × Nat) → State → State
  | [], _, s => s
  | f :: t, turned, s =>
    let ctl := leAt f.data 2 1
    let port :=
      if bit ctl 0 || bit ctl 1 then none
      else if bit ctl 3 then (s.routePort (leAt f.data 0 1)).filter (fun p => decide (p < 6))
      else (turned.find? (fun x => x.1 == f.key)).map (·.2)
    match port with
    | some p => State.reroute t ((f.key, p) :: turned) ((s.turnPath f.key p).queueFlits p [f])
    | none => State.reroute t turned (s.loseFlit f)

/-- A link becomes DOWN: its buffers and the messages under way on it are lost, traffic moves to ALT, the fabric is told, and a LINK record follows (R428, R433, R445, R538; log entry 87). -/
def State.linkDown (s : State) (n : Nat) : State :=
  if !s.linkUp n then s
  else
    let neigh := s.fld (KOL_NEIGH n) KOL_NEIGH_ADDR
    let ready := (s.kport n).ready
    let s := ((s.setFld (KOL_PORT_STAT n) KOL_PORT_STAT_LINK_UP 0).incReg (KOL_DOWN_CNT n)).raise (KOL_IRQ_STAT n) 0
    let s := s.modKport n (fun p => { p with buffer := [], ready := [], gotKeepalive := false, seenCredit := [], credit := [] })
    let s := { s with kol := { s.kol with partials := s.kol.partials.filter (fun m => m.port != n)
                                          paths := s.kol.paths.map (fun (x : Nat × Nat × Nat × Nat) => if x.2.2.2 = n then (x.1, x.2.1, x.2.2.1, 7) else x) } }
    let s := match s.addr? with
      | some a => s.linkReport true a n
      | none => s
    let s := State.reroute ready [] (s.floodLink 0x06 n)
    let noAlt := s.on (KOL_NEIGH n) KOL_NEIGH_ADDR_VALID && (s.routePort neigh).isNone
    s.sysRecord (s.lostRoutes != []) clsLink none n 0 (s.num (KOL_DOWN_CNT n)) (256 * b2n noAlt + neigh) s.now

/-- The port restarts at training (R428): what its flit stream still held is lost. -/
def State.retrain (s : State) (n : Nat) : State :=
  ((s.modKport n (fun p => { p with stream := [] })).setFld (KOL_PORT_STAT n) KOL_PORT_STAT_TRAINED 0).setFld (KOL_PORT_STAT n) KOL_PORT_STAT_ALIGNED 0

/-- The link becomes UP once a good KEEPALIVE and credits on all four VCs have come (R427, R445, R468). -/
def State.tryUp (s : State) (n : Nat) : State :=
  let p := s.kport n
  if s.linkUp n || !s.aligned n || !p.gotKeepalive || !(List.range 4).all p.seenCredit.contains then s
  else
    let s := (s.setFld (KOL_PORT_STAT n) KOL_PORT_STAT_LINK_UP 1).raise (KOL_IRQ_STAT n) 1
    let s := s.modTport n (fun t => { t with burst := 16 })
    match s.addr? with
    | none => s
    | some a =>
      let known := s.kol.huddle.map.any (fun d => d.addr == a && d.links.any (fun l => l.port == n))
      if known then (s.linkReport false a n).floodLink 0x07 n else s.parentCheck true

/-- A write of EN 1 to a port that was off: it trains (R427). -/
def State.kolEnable (s : State) (n : Nat) : State :=
  if s.on (KOL_PORT_CTL n) KOL_PORT_CTL_EN then s else (s.retrain n).setFld (KOL_PORT_CTL n) KOL_PORT_CTL_EN 1

/-- A write of EN 0: the link is DOWN and the port stays off (R428). -/
def State.kolDisable (s : State) (n : Nat) : State :=
  ((s.linkDown n).retrain n).setFld (KOL_PORT_CTL n) KOL_PORT_CTL_EN 0

/-! ### Reassembly and forwarding (R432, R433) -/

/-- Take a flit of a message for this device: the message is complete with its LAST flit. `src` is the sender, 256 + port for a link-local message. -/
def State.reassemble (s : State) (n src vc msg : Nat) (first last : Bool) (data : List Byte) : State :=
  let here (m : Partial) : Bool := m.src == src && m.vc == vc && m.msg == msg
  let old := if first then none else s.kol.partials.find? here
  if !first && old.isNone then s
  else
    let l := (match old with | some m => m.data | none => []) ++ data
    let rest := s.kol.partials.filter (fun m => !here m)
    if last then { s with kol := { s.kol with partials := rest, inbox := s.kol.inbox ++ [(src, l)] } }
    else { s with kol := { s.kol with partials := rest ++ [{ src := src, vc := vc, msg := msg, port := n, data := l }] } }

/-- The path that the FIRST flit of a message took; 7 drops the rest, 8 is a flood. -/
def State.pathOf (s : State) (src vc msg : Nat) : Option Nat :=
  (s.kol.paths.find? (fun x => x.1 == src && x.2.1 == vc && x.2.2.1 == msg)).map (·.2.2.2)

/-- Keep the path of a message until its LAST flit. -/
def State.setPath (s : State) (src vc msg p : Nat) (last : Bool) : State :=
  let rest := s.kol.paths.filter (fun x => !(x.1 == src && x.2.1 == vc && x.2.2.1 == msg))
  { s with kol := { s.kol with paths := if last then rest else (src, vc, msg, p) :: rest } }

/-- A flit's bytes from byte 4 on with HOP_LEFT less one. -/
def lessHop (data : List Byte) : List Byte := data.take 2 ++ leBytes 1 (leAt data 2 1 - 16) ++ data.drop 3

/-- A non-NULL flit has been accepted on port `n`; `data` are its bytes from byte 4 to 251 (R432, R433, R435). A device without an address, outside a huddle, takes link-local messages only (R443, R444). -/
def State.routeFlit (s : State) (n vc : Nat) (data : List Byte) : State :=
  let dst := leAt data 0 1
  let src := leAt data 1 1
  let ctl := leAt data 2 1
  let msg := leAt data 4 2
  let first := bit ctl 3
  let last := bit ctl 2
  let body := (data.drop 8).take (leAt data 3 1)
  if !bit ctl 0 && s.addr?.isNone && !s.kol.huddle.running then s.freeBuffer n vc
  else if bit ctl 0 then (s.reassemble n (256 + n) vc msg first last body).freeBuffer n vc
  else if bit ctl 1 then
    let key := (src, leAt data 10 2)
    let path := if first then (if s.kol.floodSeen.contains key then 7 else 8) else (s.pathOf src vc msg).getD 7
    let s := s.setPath src vc msg path last
    let s := if first && path = 8 then { s with kol := { s.kol with floodSeen := (key :: s.kol.floodSeen).take floodMemory } } else s
    if path = 7 then s.freeBuffer n vc
    else
      let s := s.reassemble n src vc msg first last body
      let s := if ctl < 16 then s.incFld KOL_DROP_CNT KOL_DROP_CNT_HOP_DROP
        else (s.upPorts.filter (fun p => p != n)).foldl (fun s p => s.queueFlits p [{ vc := vc, origin := none, data := lessHop data }]) s
      s.freeBuffer n vc
  else if s.addr? == some dst then (s.reassemble n src vc msg first last body).freeBuffer n vc
  else if ctl < 16 then (s.incFld KOL_DROP_CNT KOL_DROP_CNT_HOP_DROP).freeBuffer n vc
  else
    let path := if first then (s.routePort dst).getD 7 else (s.pathOf src vc msg).getD 7
    let s := s.setPath src vc msg path last
    if path < 6 && s.linkUp path then s.queueFlits path [{ vc := vc, origin := some n, data := lessHop data }]
    else s.freeBuffer n vc

/-! ### Flits received (R424-R426) -/

/-- The CRC of a whole flit is good (R421). -/
def flitGood (f : List Byte) : Bool := f.length == 256 && leAt f 252 4 == crc32 (f.take 252)

/-- An ACK covers the buffered flits up to its SEQ (R426). -/
def KPort.applyAck (p : KPort) (tb ack : Nat) : KPort :=
  if p.buffer.any (fun b => b.1 == ack) then
    { p with buffer := (p.buffer.dropWhile (fun b => b.1 != ack)).drop 1, ackTb := tb }
  else p

/-- Credits returned for a VC (R429). -/
def KPort.addCredit (p : KPort) (vc k : Nat) : KPort :=
  if k = 0 then p else { p with credit := tset 0 p.credit vc (tget 0 p.credit vc + k), seenCredit := if p.seenCredit.contains vc then p.seenCredit else vc :: p.seenCredit }

/-- What every accepted flit brings in its header. -/
def State.takeHeader (s : State) (n h : Nat) : State :=
  s.modKport n (fun p => (p.applyAck s.tb (h / 32 % 4096)).addCredit (h / 8 % 4) (h % 8))

/-- Send every buffered flit again, in order (R425). -/
def State.resend (s : State) (n : Nat) : State :=
  let s := s.incFld (KOL_LINK_ERR n) KOL_LINK_ERR_REPLAYS
  s.modKport n (fun p => { p.buffer.foldl (fun p b => p.emit b.2) p with ackTb := s.tb })

/-- A received KEEPALIVE names the neighbour; a serial number that changes while the link is UP shows a cable moved (R423, R458). A neighbour with an address that this device's map does not know belongs to another fabric (R440; log entry 57). -/
def State.keepaliveIn (s : State) (n : Nat) (f : List Byte) : State :=
  let serial := leAt f 8 8
  let old := (s.kport n).neighSerial
  let s := ((s.setFld (KOL_NEIGH n) KOL_NEIGH_ADDR (leAt f 5 1)).setFld (KOL_NEIGH n) KOL_NEIGH_PORT (leAt f 6 1)).setFld (KOL_NEIGH n) KOL_NEIGH_ADDR_VALID (leAt f 7 1 % 2)
  let s := (s.setPair (KOL_NEIGH_SERIAL_LO n) serial).modKport n (fun p => { p with neighSerial := some serial, gotKeepalive := true })
  let s := if leAt f 7 1 % 2 = 1 && s.addr?.isSome && !s.kol.huddle.map.any (fun d => d.serial.toNat == serial) then
      { s with kol := { s.kol with huddle := { s.kol.huddle with other := true } } } else s
  if s.linkUp n && old.isSome && old != some serial then s.raise (KOL_IRQ_STAT n) 2 else s

/-- The receiver discards a non-NULL flit: one REPLAY after the first discard that follows an accepted flit, and no more until one is accepted or 2 µs have passed (R424, R425). -/
def State.discardFlit (s : State) (n : Nat) : State :=
  let due := match (s.kport n).replayTb with
    | none => true
    | some t => decide (t + 2000 ≤ s.tb)
  if due then s.modKport n (fun p => { p.sendNull 2 [] with replayTb := some s.tb }) else s

/-- A good NULL flit (R423, R424). -/
def State.nullIn (s : State) (n : Nat) (f : List Byte) : State :=
  let s := s.takeHeader n (leAt f 0 4)
  let s := match leAt f 4 1 with
    | 1 => s.keepaliveIn n f
    | 2 => s.resend n
    | _ => s
  (s.tryUp n).serve n

/-- A flit has been received on port `n` (R424). -/
def State.flitIn (s : State) (n : Nat) (f : List Byte) : State :=
  if !s.aligned n || f.length ≠ 256 then s
  else
    let h := leAt f 0 4
    if !flitGood f then
      let s := s.incFld (KOL_LINK_ERR n) KOL_LINK_ERR_CRC_BAD
      if bit h 29 then s else s.discardFlit n
    else
      let s := s.modKport n (fun p => { p with lastGood := s.tb })
      if bit h 29 then s.nullIn n f
      else if h / 2 ^ 17 % 4096 ≠ (s.kport n).rxExp then s.discardFlit n
      else
        let s := s.modKport n (fun p => { p with rxExp := (p.rxExp + 1) % 4096, replayTb := none })
        let s := s.takeHeader n h
        ((s.routeFlit n (h / 2 ^ 30) ((f.take 252).drop 4)).tryUp n).serve n

/-! ### Rows -/

/-- A codeword has come: the symbols that the decoder corrects are counted; of an uncorrectable one every flit is discarded, and replay recovers them (R420, R425; log entry 85). -/
def State.codewordIn (s : State) (n : Nat) (w : List Nat) : State :=
  match rs544Decode w with
  | some (_, k) => s.incReg (KOL_FEC_CORR n) k
  | none =>
    let s := (s.incReg (KOL_FEC_UNCORR n)).raise (KOL_IRQ_STAT n) 3
    if s.aligned n then s.discardFlit n else s

/-- CODEWORD_UNCORRECTABLE: codewords of 544 symbols as they were received, which the decoder reads; the flits of such as it corrects come by FLIT_RECEIVED (R417, R420). -/
def execCodewordUncorrectable (n : Fin 6) (words : List (List Nat)) (s : State) : Out :=
  s.onMain (fun s => if !s.on (KOL_PORT_STAT n) KOL_PORT_STAT_TRAINED then s else words.foldl (fun s w => s.codewordIn n w) s)

/-- TRAINING_DONE (R417, R427). -/
def execTrainingDone (n : Fin 6) (s : State) : Out :=
  s.onMain (fun s => if s.on (KOL_PORT_CTL n) KOL_PORT_CTL_EN then s.setFld (KOL_PORT_STAT n) KOL_PORT_STAT_TRAINED 1 else s)

/-- PORT_ALIGNED: 8 good codewords on every lane (R419, R427). -/
def execPortAligned (n : Fin 6) (s : State) : Out :=
  s.onMain (fun s =>
    if !s.on (KOL_PORT_STAT n) KOL_PORT_STAT_TRAINED || s.aligned n then s
    else (s.setFld (KOL_PORT_STAT n) KOL_PORT_STAT_ALIGNED 1).freshPort n)

/-- ALIGN_LOST: the link is DOWN and the port trains again (R419, R428). -/
def execAlignLost (n : Fin 6) (s : State) : Out :=
  s.onMain (fun s => if s.aligned n then (s.linkDown n).retrain n else s)

/-- FLIT_RECEIVED (R424, R432, R433). -/
def execFlitReceived (n : Fin 6) (flit : List Byte) (s : State) : Out := s.onMain (fun s => s.flitIn n flit)

/-- IDLE: a NULL flit delivers its ACK and credits (R423, R424). -/
def execIdleFlit (n : Fin 6) (flit : List Byte) (s : State) : Out := s.onMain (fun s => s.flitIn n flit)

/-- KEEPALIVE received (R423, R427). -/
def execKeepalive (n : Fin 6) (flit : List Byte) (s : State) : Out := s.onMain (fun s => s.flitIn n flit)

/-- REPLAY received (R425). -/
def execReplayReq (n : Fin 6) (flit : List Byte) (s : State) : Out := s.onMain (fun s => s.flitIn n flit)

/-- ACK_STALL_REPLAY: ACK has not advanced for 4 µs while flits are buffered (R425). -/
def execAckStallReplay (n : Fin 6) (s : State) : Out :=
  s.onMain (fun s =>
    let p := s.kport n
    if p.buffer ≠ [] && p.ackTb + 4000 ≤ s.tb then s.resend n else s)

/-- KEEPALIVE_SEND: own address, port, validity and serial number (R423). -/
def execKeepaliveSend (n : Fin 6) (s : State) : Out :=
  s.onMain (fun s =>
    if !s.aligned n then s
    else
      let rest := leBytes 1 (s.addr?.getD 0) ++ leBytes 1 n.val ++ leBytes 1 (b2n s.addr?.isSome) ++ leBytes 8 (s.pair SYS_SERIAL_LO)
      s.modKport n (fun p => p.sendNull 1 rest))

/-- LINK_SILENCE: no good flit for 50 µs (R428). -/
def execLinkSilence (n : Fin 6) (s : State) : Out :=
  s.onMain (fun s => if s.linkUp n && (s.kport n).lastGood + 50000 ≤ s.tb then (s.linkDown n).retrain n else s)

/-- LINK_DOWN received (R445, R467, R478; log entry 11). -/
def execLinkDownMsg (n : Fin 6) (src : BitVec 8) (seq : BitVec 16) (link : LinkEnd) (s : State) : Out :=
  s.onMain (fun s =>
    s.floodIn n src.toNat seq.toNat vcCtl (mkMsg 0x06 0 seq.toNat 0 s.now [] (Config.msgBody 0x06 [link.addr, link.port])) (fun s => s.linkReport true link.addr link.port))

/-- LINK_UP received (R445). -/
def execLinkUpMsg (n : Fin 6) (src : BitVec 8) (seq : BitVec 16) (link : LinkEnd) (s : State) : Out :=
  s.onMain (fun s =>
    s.floodIn n src.toNat seq.toNat vcCtl (mkMsg 0x07 0 seq.toNat 0 s.now [] (Config.msgBody 0x07 [link.addr, link.port])) (fun s => s.linkReport false link.addr link.port))

/-- MODEL_ADVERT received: the escalation models resident on a device (R455). -/
def execModelAdvert (n : Fin 6) (src : BitVec 8) (seq : BitVec 16) (models : List Nat) (s : State) : Out :=
  s.onMain (fun s =>
    s.floodIn n src.toNat seq.toNat vcCtl (mkMsg 0x08 0 seq.toNat 0 s.now [] (Config.msgBody 0x08 models)) (fun s =>
      { s with kol := { s.kol with adverts := tput s.kol.adverts src.toNat models } }))

end Sys2Proof.Machine
end

