-- ==== Sys2Proof/Machine/KolHuddle.lean ====
section
/-! DEFINITION. The huddle: HELLO, root, ASSIGN, REPORT, MAP and DONE (R440-R444, R561). -/

namespace Sys2Proof.Machine

/-! ### Starting and following (R440, R444) -/

/-- The device is a root candidate (R440). -/
def State.rootElig (s : State) : Bool := s.on KOL_HUDDLE_CFG KOL_HUDDLE_CFG_ROOT_ELIG

/-- Own serial number. -/
def State.serial (s : State) : Nat := s.pair SYS_SERIAL_LO

/-- HUDDLE_EPOCH. -/
def State.epoch (s : State) : Nat := s.fld KOL_STAT KOL_STAT_EPOCH

/-- A huddle starts, or is followed: addresses end, and with them the floods known by source (R440, R444; log entry 57). -/
def State.startHuddle (s : State) (epoch : Nat) : State :=
  let h : HuddleSt := { (default : HuddleSt) with
    running := true, lowest := if s.rootElig then s.serial else 2 ^ 64 - 1, lowestTb := s.tb, map := s.kol.huddle.map, cmds := s.kol.huddle.cmds }
  let s := { s with kol := { s.kol with huddle := h, floodSeen := [], floodDone := [] } }
  let s := (((s.setFld KOL_STAT KOL_STAT_EPOCH epoch).setFld KOL_STAT KOL_STAT_ROOT 0).setFld KOL_STAT KOL_STAT_OVERFLOW 0).setFld KOL_STAT KOL_STAT_ADDR_VALID 0
  s.parentCheck false

/-- Change the huddle. -/
def State.modHuddle (s : State) (f : HuddleSt → HuddleSt) : State := { s with kol := { s.kol with huddle := f s.kol.huddle } }

/-- HELLO_SEND: a HELLO on each UP link (R440; log entry 11). -/
def execHelloSend (s : State) : Out :=
  s.onMain (fun s =>
    s.upPorts.foldl (fun s n => s.sendLocal n vcCtl (mkMsg 0x01 0 0 0 s.now [] (Config.msgBody 0x01 [s.serial, n, s.epoch, s.kol.huddle.lowest]))) s)

/-- HELLO received: the highest epoch is followed; within it the lowest candidate is kept (R440). -/
def execHello (n : Fin 6) (_serial : BitVec 64) (_sport : BitVec 3) (epoch : BitVec 16) (lowest : BitVec 64) (s : State) : Out :=
  s.onMain (fun s =>
    let s := s.took (256 + n) 0x01
    if !s.linkUp n then s
    else
      let d := sdiff 16 epoch.toNat s.epoch
      let s := if 0 < d then s.startHuddle epoch.toNat else s
      if d < 0 || s.kol.huddle.lowest ≤ lowest.toNat then s
      else s.modHuddle (fun h => { h with lowest := lowest.toNat, lowestTb := s.tb }))

/-! ### Addresses, level by level (R441, R443) -/

/-- The neighbours of this device by port, from their KEEPALIVEs (R441). -/
def State.ownReport (s : State) : List NeighRep :=
  s.upPorts.map (fun p => { port := p, serial := BitVec.ofNat 64 (s.pair (KOL_NEIGH_SERIAL_LO p)), nport := s.fld (KOL_NEIGH p) KOL_NEIGH_PORT })

/-- The REPORT of a device by its serial. -/
def HuddleSt.reportOf (h : HuddleSt) (serial : Nat) : Option (List NeighRep) := (h.reports.find? (fun r => r.1 == serial)).map (·.2)

/-- The port toward a device that is to be addressed: through the lowest (parent address, parent port) known here (R441). -/
def State.assignPort (s : State) (serial : Nat) : Option Nat :=
  match s.ownReport.find? (fun r => r.serial.toNat == serial) with
  | some r => some r.port
  | none =>
    let h := s.kol.huddle
    let ps := (h.known.mergeSort (fun a b => decide (a.1 ≤ b.1))).filter (fun k => ((h.reportOf k.2).getD []).any (fun r => r.serial.toNat == serial))
    match ps.head? with
    | some (_, parent) => (h.via.find? (fun v => v.1 == parent)).map (·.2)
    | none => none

/-- Send ASSIGN toward a device (R441; log entry 11). -/
def State.sendAssign (s : State) (serial addr : Nat) : State :=
  let s := s.modHuddle (fun h => { h with known := (addr, serial) :: h.known.filter (fun k => k.2 != serial) })
  match s.assignPort serial with
  | some p => s.sendLocal p vcCtl (mkMsg 0x02 0 0 0 s.now [] (Config.msgBody 0x02 [serial, addr, s.epoch]))
  | none => s

/-- Send a REPORT toward the root (R441; log entry 11). -/
def State.sendReport (s : State) (serial : Nat) (l : List NeighRep) : State :=
  match s.kol.huddle.parentPort with
  | some p => s.sendLocal p vcCtl (mkMsg 0x03 0 0 0 s.now [] (Config.msgBody 0x03 (serial :: l.flatMap (fun r => [r.port, r.serial.toNat, r.nport]))))
  | none => s

/-- The devices not yet addressed that neighbour the current level, by the lowest (parent address, parent port) (R441). -/
def HuddleSt.candidates (h : HuddleSt) : List Nat :=
  let level := (h.known.filter (fun k => h.levelFrom ≤ k.1)).mergeSort (fun a b => decide (a.1 ≤ b.1))
  let all := level.flatMap (fun k => (((h.reportOf k.2).getD []).mergeSort (fun a b => decide (a.port ≤ b.port))).map (fun r => r.serial.toNat))
  (all.filter (fun x => !h.known.any (fun k => k.2 == x))).eraseDups

/-- The MAP of every addressed device with its adjacency (R442). -/
def HuddleSt.mapOf (h : HuddleSt) : List MapDev :=
  (h.known.mergeSort (fun a b => decide (a.1 ≤ b.1))).map (fun k =>
    { addr := k.1, serial := BitVec.ofNat 64 k.2
      links := ((h.reportOf k.2).getD []).filterMap (fun r => (h.known.find? (fun x => x.2 == r.serial.toNat)).map (fun x => { port := r.port, naddr := x.1, nport := r.nport })) })

/-- The numbers of a MAP in a message body (log entry 11). -/
def mapNumbers (l : List MapDev) : List Nat :=
  l.flatMap (fun d => [d.addr, d.serial.toNat, d.links.length] ++ d.links.flatMap (fun x => [x.port, x.naddr, x.nport]))

/-! ### MAP and DONE (R442, R444) -/

/-- Messages held at their source during the huddle leave in order (R444). -/
def State.flushHeld (s : State) : State :=
  let l := s.kol.held
  l.foldl (fun s m => s.sendTxn m.1 m.2.1 m.2.2.1 m.2.2.2) { s with kol := { s.kol with held := [] } }

/-- The huddle ends on this device: held messages leave, transaction timers run on, the commands complete, models are advertised afresh (R444, R455, R457). -/
def State.endHuddle (s : State) : State :=
  let cmds := s.kol.huddle.cmds
  let s := s.modHuddle (fun h => { h with running := false, cmds := [] })
  let s := { s with kol := { s.kol with myModels := [] } }.flushHeld
  let s := cmds.foldl (fun s c => s.complete c.1 c.2 .ok 0 (s.fld KOL_DEVICES KOL_DEVICES_DEVICES)) s
  s.advertise

/-- Step 9 of kickoff ends, and step 10 begins (R555). -/
def State.kickHuddle (s : State) : State :=
  let s := { s with sys := { s.sys with huddleEnd := true } }
  if s.isReady then s else s.setFld SYS_BOOT_STAT SYS_BOOT_STAT_STAGE 10

/-- HUDDLE_DONE sets (R442; log entry 57). -/
def State.huddleDone (s : State) : State :=
  ((if s.sys.coachRan then s.kickHuddle else s).raise KOL_G_IRQ_STAT 1).endHuddle

/-- The map of the last huddle is taken: own address, routing table, what was known of other addresses forgotten (R436, R442); true when this device has an address. One that the map leaves out has no route (R443). -/
def State.applyMap (s : State) (devs : List MapDev) : State × Bool :=
  let s := { s with kol := { s.kol with down := [], adverts := [] }, tim := { s.tim with announcers := [] } }
  let s := (s.modHuddle (fun h => { h with map := devs })).setFld KOL_DEVICES KOL_DEVICES_DEVICES devs.length
  match devs.find? (fun d => d.serial.toNat == s.serial) with
  | some d => ((((s.setFld KOL_STAT KOL_STAT_ADDR d.addr).setFld KOL_STAT KOL_STAT_ADDR_VALID 1).setRoutes).parentCheck false, true)
  | none => ((s.setRoutes).parentCheck false, false)

/-- The root has every DONE: it floods DONE and sets HUDDLE_DONE (R442). -/
def State.doneCheck (s : State) : State :=
  let h := s.kol.huddle
  if h.known.all (fun k => h.dones.contains k.1) then (s.sendFlood 0x05 []).huddleDone else s

/-- The root floods the MAP and takes it itself (R442). -/
def State.sendMap (s : State) : State :=
  let devs := s.kol.huddle.mapOf
  let s := (s.applyMap devs).1
  ((s.sendFlood 0x04 (Config.msgBody 0x04 (mapNumbers devs))).modHuddle (fun h => { h with dones := 0 :: h.dones })).doneCheck

/-- The root, once it holds the REPORTs of a whole level, addresses the next one; when there is none it floods the MAP (R441, R443). -/
def State.levelStep (s : State) : State :=
  let h := s.kol.huddle
  if !(h.known.filter (fun k => h.levelFrom ≤ k.1)).all (fun k => (h.reportOf k.2).isSome) then s
  else
    let cs := h.candidates
    let room := if 16 ≤ h.level then 0 else 256 - h.nextAddr
    let s := if room < cs.length then s.setFld KOL_STAT KOL_STAT_OVERFLOW 1 else s
    let cs := cs.take room
    if cs = [] then s.sendMap
    else
      let s := s.modHuddle (fun h => { h with level := h.level + 1, levelFrom := h.nextAddr, nextAddr := h.nextAddr + cs.length })
      (List.range cs.length).foldl (fun s k => s.sendAssign (cs.getD k 0) (h.nextAddr + k)) s

/-- Some neighbour already has an address of this epoch. -/
def State.neighAddressed (s : State) : Bool := s.upPorts.any (fun p => s.on (KOL_NEIGH p) KOL_NEIGH_ADDR_VALID)

/-- HUDDLE_ROOT_START: a candidate whose own serial has been the lowest for 1 ms starts the assignment; one that appears beside devices already addressed, having an address itself or not, starts a new huddle with HUDDLE_EPOCH + 1; without an UP link it is root alone (R440, R441, R561; log entry 57). -/
def execHuddleRootStart (s : State) : Out :=
  s.onMain (fun s =>
    let h := s.kol.huddle
    let due := s.rootElig && h.lowest == s.serial && decide (h.lowestTb + 1000000 ≤ s.tb)
    let alone := s.upPorts = [] && h.running
    if due && h.other && s.upPorts ≠ [] then s.startHuddle ((s.epoch + 1) % 65536)
    else if !due && !alone || s.addr?.isSome || s.on KOL_STAT KOL_STAT_ROOT then s
    else if !h.running || s.neighAddressed then s.startHuddle ((s.epoch + 1) % 65536)
    else
      let s := (s.setFld KOL_STAT KOL_STAT_ROOT 1).setFld KOL_STAT KOL_STAT_ADDR 0
      (s.modHuddle (fun h => { h with level := 0, levelFrom := 0, nextAddr := 1, known := [(0, s.serial)], reports := [(s.serial, s.ownReport)], dones := [] })).levelStep)

/-- ASSIGN received: the device it names takes the address and reports its neighbours; another passes it on (R441). -/
def execAssign (n : Fin 6) (serial : BitVec 64) (addr : BitVec 8) (epoch : BitVec 16) (s : State) : Out :=
  s.onMain (fun s =>
    let s := s.took (256 + n) 0x02
    if !s.linkUp n || !s.kol.huddle.running || s.on KOL_STAT KOL_STAT_ROOT || epoch.toNat != s.epoch then s
    else if serial.toNat = s.serial then
      let s := (s.setFld KOL_STAT KOL_STAT_ADDR addr.toNat).modHuddle (fun h => { h with parentPort := some n.val })
      s.sendReport s.serial s.ownReport
    else s.sendAssign serial.toNat addr.toNat)

/-- REPORT received: the root takes it, another device passes it on toward the root (R441). -/
def execReport (n : Fin 6) (serial : BitVec 64) (neigh : List NeighRep) (s : State) : Out :=
  s.onMain (fun s =>
    let s := s.took (256 + n) 0x03
    if !s.linkUp n || !s.kol.huddle.running then s
    else
      let s := s.modHuddle (fun h =>
        { h with via := (serial.toNat, n.val) :: h.via.filter (fun v => v.1 != serial.toNat)
                 reports := (serial.toNat, neigh) :: h.reports.filter (fun r => r.1 != serial.toNat) })
      if s.on KOL_STAT KOL_STAT_ROOT then s.levelStep else s.sendReport serial.toNat neigh)

/-- MAP received: the device takes it and sends DONE to the root; one that the map leaves out has no address (R442, R443). -/
def execMapMsg (n : Fin 6) (src : BitVec 8) (seq : BitVec 16) (devs : List MapDev) (s : State) : Out :=
  s.onMain (fun s =>
    if !s.kol.huddle.running then s.took src.toNat 0x04
    else
      s.floodIn n src.toNat seq.toNat vcCtl (mkMsg 0x04 0 seq.toNat 0 s.now [] (Config.msgBody 0x04 (mapNumbers devs))) (fun s =>
        match s.applyMap devs with
        | (s, true) =>
          match s.routePort src.toNat with
          | some p => if p < 6 then (s.queueFlits p (s.msgFlits src.toNat 0 0 vcCtl (mkMsg 0x05 0 0 0 s.now [] []))).bumpMsg else s
          | none => s
        | (s, false) => s.endHuddle))

/-- DONE received: the root collects them; the one it floods ends the huddle (R442). -/
def execDoneMsg (n : Fin 6) (src : BitVec 8) (flood : Bool) (seq : BitVec 16) (s : State) : Out :=
  s.onMain (fun s =>
    if flood && s.kol.huddle.running && s.addr?.isSome then
      s.floodIn n src.toNat seq.toNat vcCtl (mkMsg 0x05 0 seq.toNat 0 s.now [] []) State.huddleDone
    else
      let s := s.took src.toNat 0x05
      if !flood && s.kol.huddle.running && s.addr?.isSome && s.on KOL_STAT KOL_STAT_ROOT then
        (s.modHuddle (fun h => { h with dones := src.toNat :: h.dones })).doneCheck
      else s)

/-- HUDDLE_WAIT_EXPIRY: kickoff goes on without an address (R561). -/
def execHuddleWaitExpiry (s : State) : Out :=
  s.onMain (fun s =>
    if !s.on HIF_STAT HIF_STAT_COACH_UP || s.sys.huddleEnd || s.tb < s.sys.huddleWait + s.num SYS_HUDDLE_WAIT * 1000000 then s
    else
      let s := s.kickHuddle
      ((s.setFld SYS_BOOT_STAT SYS_BOOT_STAT_HUDDLE_TIMEOUT 1).setFld KOL_STAT KOL_STAT_ADDR_VALID 0).setRoutes.endHuddle)

end Sys2Proof.Machine
end

