-- ==== Sys2Proof/Machine/Clock.lean ====
section
/-! DEFINITION. The clock: what passes by itself in one nanosecond of the timebase (log entry 2): fabric time and TAI, Norentum's counter, timers that stand still, announcements that end, and the Ethernet transmit queue (R140, R223, R444, R461, R463, R467, R472-R475, R512-R514). -/

namespace Sys2Proof.Machine

/-- Units of 2^-16 ns that the counter of fabric time advances in one nanosecond of the timebase, and the rest that is carried on (R472, R473). -/
def timeAdvance (rate acc : Rat) : Nat × Rat :=
  let x := 65536 * (1 + rate / 1000000000) + acc
  (x.floor.toNat, x - (x.floor : Int))

/-- Fabric time and TAI advance by `k` units; TAI_SEC counts each time TAI nanoseconds pass 10^9 (R461, R463). -/
def Tim.advance (t : Tim) (k : Nat) : Tim :=
  let ns := t.taiNs + (t.now.toNat % 65536 + k) / 65536
  { t with now := t.now + BitVec.ofNat 64 k, tai := (t.tai + ns / 1000000000) % 2 ^ 48, taiNs := ns % 1000000000 }

/-- The time unit for one nanosecond: a backward step under way stops the counter (R475). -/
def State.timeTick (s : State) : State :=
  if !s.sys.released then s
  else
    let (k, acc) := timeAdvance s.tim.rate s.tim.acc
    let t := { s.tim with acc := acc }
    if 0 < t.stopNs then { s with tim := { t with stopNs := t.stopNs - 1 } } else { s with tim := t.advance k }

/-- Norentum for one nanosecond: its heartbeat counts while its core runs (R168); its counter advances at the rate of fabric time while the time unit runs, at the timebase's rate otherwise, and stands still for a backward step (R140, R477; log entry 15). -/
def State.metTick (s : State) : State :=
  let s := if s.met.on then { s with met := { s.met with beatNs := s.met.beatNs + 1 } } else s
  if !s.met.on then s
  else if 0 < s.met.stopNs then { s with met := { s.met with stopNs := s.met.stopNs - 1 } }
  else
    let k := if s.sys.released then (timeAdvance s.tim.rate s.tim.acc).1 else 65536
    { s with met := { s.met with time := s.met.time + BitVec.ofNat 64 k } }

/-- The command timer of every command that waits for rows or a line stands still, and no handshake is due of a tile without a started command that waits for nothing (R223, R230, R264). -/
def State.pauseTick (s : State) : State :=
  let hold (t : Nat) (q : List QCmd) : List QCmd :=
    match q with
    | c :: r => if c.started && s.pausedCmd t c then { c with startTb := c.startTb + 1 } :: r else q
    | [] => []
  { s with tiles := tmap s.tiles (fun t x => { x with mac := hold t x.mac, vec := hold t x.vec, msg := hold t x.msg, hsTb := if s.shouldHandshake t then x.hsTb else s.tb }) }

/-- Transaction timers stand still while a huddle runs (R444). -/
def State.txnTick (s : State) : State :=
  if s.kol.huddle.running then { s with kol := { s.kol with txns := tmap s.kol.txns (fun _ t => { t with sentTb := t.sentTb + 1 }) } } else s

/-- The IPv4 fragments of a UDP payload as offset and length, each within the MTU (R512). -/
def fragmentsOf (mtu total : Nat) : Nat → Nat → List (Nat × Nat)
  | 0, _ => []
  | fuel + 1, off =>
    let room := if total - off ≤ mtu - 20 then total - off else (mtu - 20) / 8 * 8
    (off, room) :: (if off + room < total then fragmentsOf mtu total fuel (off + room) else [])

/-- The datagram at the head of the transmit queue leaves, with its SEND_STAMP; the room it leaves may take held records (R510, R512-R514). -/
def State.ethTick (s : State) : State :=
  match s.eth.queue with
  | [] => s
  | d :: rest =>
    if !s.ethOn then s
    else
      let pay := d.take 8 ++ leBytes 8 s.now.toNat ++ d.drop 16
      let mtu := if s.on ETH_CFG ETH_CFG_JUMBO then 9000 else 1500
      let u : UdpOut := { dstMac := s.pair ETH_DST_MAC_LO, srcIp := s.num ETH_IP, dstIp := s.num ETH_DST_IP
                          srcPort := s.fld ETH_UDP ETH_UDP_SRC_PORT, dstPort := s.fld ETH_UDP ETH_UDP_DST_PORT
                          payload := pay, frags := fragmentsOf mtu (8 + pay.length) 64 0 }
      (({ s with eth := { s.eth with queue := rest, sent := u :: s.eth.sent } }.incReg ETH_TX_CNT).divertHold.stallCheck).tidy

/-- DRAM takes an entry of the retention write queue, or is busy: the manual does not say when (R100; log entries 10 and 84). -/
def State.retTick (s : State) : State :=
  if s.retQueue = [] then s
  else
    let (w, s) := s.free
    if w % 2 = 1 then s.retServe else s

/-- One nanosecond of the timebase passes. -/
def tick (s : State) : State :=
  let s := s.metTick.timeTick
  let s := if s.sys.released then s.pauseTick.txnTick.announceTick.ethTick.retTick.codewordTick else s
  { s with tb := s.tb + 1 }

end Sys2Proof.Machine
end

