-- ==== Sys2Proof/Machine/Emission.lean ====
section
/-! DEFINITION. The emission point and the end of continued work (R32, R41-R46, R48, R51, R376). -/

namespace Sys2Proof.Machine

/-- The emission point, which R42 compares close stamps with: the TIME point or the moment the count was reached, whichever came first (R31). -/
def State.pointNs (s : State) (p : Piece) : Nat :=
  match (if s.timeReached p then p.emitPoint else none), p.countAt with
  | some t, some c => if nsDiff c t < 0 then c else t
  | some t, none => t
  | none, some c => c
  | none, none => ns48 s.now

/-- A REGION counts as DONE at the emission point (R42). -/
def Region.doneBy (r : Region) (point : Nat) : Bool :=
  match r.result, r.close with
  | some _, some c => decide (nsDiff c point ≤ 0)
  | _, _ => false

/-- The field list of a model of the playbook that reads a top-level item. -/
def State.fieldListOf (s : State) (i m : Nat) : List FieldEnt :=
  match tfind s.pieces i with
  | some p => s.fieldList p.playbook m
  | none => []

/-- Some REQUIRED work of a top-level item is unfinished at its emission point (R43): a REQUIRED REGION, be it one that waits for an entry, or a HOSTIMAGE of which nothing is detected yet (log entry 30). -/
def State.unfinished (s : State) (i point : Nat) : Bool :=
  s.decoding i
  || (s.regionsOf i).any (fun r => s.regionRequired r.2 && !r.2.doneBy point)
  || s.beWait.any (fun w => w.typ == .region && w.key == i && w.found.any (fun f => s.fieldListOf i f.model |>.any (·.required)))

/-- The fields that a record built at the emission point carries: those of REGIONs that are DONE; of an unfinished REGION the vote over its ended passes, and, where `blank`, what an abort gives (R43, R351, R376). -/
def State.pointFields (s : State) (i point : Nat) (blank : Bool) : List (Nat × FieldRes) :=
  ((s.keepWaiting i).regionsOf i).flatMap (fun r =>
    let aborted := (s.fieldList r.2.playbook r.2.model).map (fun t => blankField t .aborted .none)
    let fs :=
      if r.2.doneBy point || r.2.result.isNone && (blank || (tfind r.2.passes 0).isSome) then s.regionFields r
      else if blank then aborted else []
    (sortFields fs).map (fun f => (r.2.sidePort, f)))

/-- The votes taken at the emission point over REGIONs whose work goes on are counted (R376, R381). -/
def State.pointVotes (s : State) (i : Nat) : State :=
  (s.regions.filter (fun r => r.2.top == i && r.2.result.isNone && r.2.reread && (tfind r.2.passes 0).isSome)).foldl (fun s r => s.countVotes (s.regionFields r)) s

/-- The emission point is reached: SIDEs still OPEN seal with TRAIL_MISSING; the record is built as at completion, or NO_READ_BY_DEADLINE and the work goes on as BE or is aborted (R41-R45, R51). -/
def State.emitAtPoint (s : State) (i : Nat) : State :=
  match tfind s.pieces i with
  | none => s
  | some p0 =>
    let point := s.pointNs p0
    let late := s.sides.any (fun x => x.2.piece == i && (s.item x.1).state == .opened)
    let s := s.modPiece i (fun p => { p with trailMissing := p.trailMissing || late })
    if s.unfinished i point then
      let s := s.emitPiece i .noReadByDeadline .none (s.pointFields i point false) (!p0.lateEn)
      let s := s.modPiece i (fun p => { p with lateDue := if p.lateEn && p.lateNs ≠ 0 then some ((point + p.lateNs) % 2 ^ 48) else none })
      let s := s.modItem i (fun e => { e with state := .overtime })
      if p0.lateEn then
        let s := ((s.pointVotes i).demoteBelow i).sealSides i
        let s := (s.sides.filter (fun x => x.2.piece == i)).foldl (fun s x => s.sealReady x.1 none) s
        s.pieceCheck i
      else
        let s := (s.abortBelow i .aborted).sealSides i
        { s with images := tupd s.images i (fun m => { m with decoded := true }) }.finishTop i
    else
      let fs := s.pointFields i point true
      let (st, re) := match tfind s.pieces i with
        | some p => s.topStatus p fs
        | none => (.read, .none)
      (((s.abortBelow i .aborted).sealSides i).emitPiece i st re fs true).finishTop i

/-- The record of an emission point that has been reached goes out; nothing happens before the point or after the record. What falls after the point finds it done (R31, R41, R51). -/
def State.duePoint (s : State) (i : Nat) : State :=
  match tfind s.pieces i with
  | some p =>
    let st := (s.item i).state
    if !p.recorded && (st = .opened || st = .sealed) && s.pointReached p then s.emitAtPoint i else s
  | none => s

/-- EMISSION_POINT (R31, R41-R45, R51). -/
def execEmissionPoint (item : Nat) (s : State) : Out := s.onMain (fun s => s.duePoint item)

/-- An opening event on a port, after the emission points that the port's PIECEs have reached: it opens a new PIECE then (R36-R38, R51). -/
def State.openEvent (s : State) (n src : Nat) (stamp : Stamp) (sq : Option (Nat × Nat)) : Option Nat × State :=
  let mine := s.pieces.filter (fun p => !p.2.image && !p.2.takenOver && (p.2.port == n || p.2.port == s.masterOf n))
  (mine.foldl (fun s p => s.duePoint p.1) s).openingEvent n src stamp sq

/-- LATE_LIMIT_EXPIRY: LATE_NS after the emission point the LATE record goes out with its unfinished fields ABORTED (R45). -/
def execLateLimitExpiry (item : Nat) (s : State) : Out :=
  s.onMain (fun s =>
    match tfind s.pieces item with
    | some p =>
      match p.lateDue with
      | some d =>
        if (s.item item).state = .overtime && p.lateEn && !p.lateDone && s.reached d then
          let s := (s.abortBelow item .aborted).sealSides item
          let s := { s with images := tupd s.images item (fun m => { m with decoded := true }) }
          s.pieceCheck item
        else s
      | none => s
    | none => s)

/-- The host aborts a top-level item (R48). -/
def State.abortItem (s : State) (i : Nat) : State :=
  let s := s.duePoint i
  match tfind s.pieces i with
  | none => s
  | some p =>
    match (s.item i).state with
    | .opened => s.endPiece i .aborted .none
    | .sealed => s.endPiece i .aborted .none
    | .overtime => if p.lateEn then s.endPiece i .aborted .none else s
    | _ => s

end Sys2Proof.Machine
end

