-- ==== Sys2Proof/Machine/Cal.lean ====
section
/-! DEFINITION. Reference strip calibration: the equation, captures, derivation, banks, host access (chapter 3, R110-R136). -/

namespace Sys2Proof.Machine

/-- Colours of a port: 1 in mono, 3 in colour. -/
def State.colours (s : State) (n : Nat) : Nat := if s.on (LIN_PORT_CFG n) LIN_PORT_CFG_COLOUR then 3 else 1

/-- PIX of a port. -/
def State.pix (s : State) (n : Nat) : Nat := s.fld (LIN_PORT_CFG n) LIN_PORT_CFG_PIX

/-- BUSY of the port's calibration. -/
def State.calBusy (s : State) (n : Nat) : Bool := s.on (CAL_STAT n) CAL_STAT_BUSY

/-- The identity entry: GAIN 1.0, DARK 0 (R112). -/
def calIdentity : Word := 0x10000000

/-- Place of entry (colour, pixel) in a bank. -/
def calKey (c i : Nat) : Nat := c * 2 ^ 15 + i

/-- A bank by number. -/
def CalPort.bank (p : CalPort) (b : Nat) : Tbl Word := if b = 0 then p.bank0 else p.bank1

/-- Check bytes of a bank, by number (R522). -/
def CalPort.chk (p : CalPort) (b : Nat) : Checks := if b = 0 then p.chk0 else p.chk1

/-- Put a bank with its check bytes. -/
def CalPort.setCoded (p : CalPort) (b : Nat) (x : Tbl Word × Checks) : CalPort :=
  if b = 0 then { p with bank0 := x.1, chk0 := x.2 } else { p with bank1 := x.1, chk1 := x.2 }

/-! ### The tables under the code (R522-R528; log entry 68) -/

/-- The 32 bytes of word `w` of a table: entries 8w to 8w + 7. -/
def calBytes (t : Tbl Word) (w : Nat) : List Byte := (List.range 8).flatMap (fun j => leBytes 4 (tget calIdentity t (8 * w + j)).toNat)

/-- Put the 32 bytes of a word into a table. -/
def calPutWord (t : Tbl Word) (w : Nat) (d : List Byte) : Tbl Word :=
  (List.range 8).foldl (fun t j => tset calIdentity t (8 * w + j) (BitVec.ofNat 32 (leAt d (4 * j) 4))) t

/-- How a read of a word of a table ends (R524). -/
def calWordRead (t : Tbl Word) (k : Checks) (w : Nat) : RsRead :=
  match tfind k w with
  | none => .good
  | some c => rsRead (calBytes t w ++ c)

/-- A table as reads deliver it: corrected words deliver their corrected entries (R526). -/
def calDelivered (t : Tbl Word) (k : Checks) : Tbl Word :=
  k.foldl (fun v e =>
    match calWordRead t k e.1 with
    | .corrected w => calPutWord v e.1 (w.take 32)
    | _ => v) t

/-- Write one entry: its word is read first, and where that read finds it uncorrectable its error stays in it (R526). -/
def calPutEntry (x : Tbl Word × Checks) (key : Nat) (v : Word) : Tbl Word × Checks :=
  let w := key / 8
  match calWordRead x.1 x.2 w with
  | .good => (tset calIdentity x.1 key v, tdel x.2 w)
  | .corrected d => (tset calIdentity (calPutWord x.1 w (d.take 32)) key v, tdel x.2 w)
  | .uncorrectable =>
    let t := tset calIdentity x.1 key v
    (t, tput x.2 w (xorBytes (rsBytes (calBytes t w)) (xorBytes ((tfind x.2 w).getD []) (rsBytes (calBytes x.1 w)))))

/-- Write a whole table: its words carry fresh check bytes. -/
def calPutAll (x : Tbl Word × Checks) (new : Tbl Word) : Tbl Word × Checks :=
  (new.foldl (fun a e => tset calIdentity a e.1 e.2) x.1, x.2.filter (fun c => !(List.range 8).all (fun j => (tfind new (8 * c.1 + j)).isSome)))

/-- A bank as reads deliver it (R526). -/
def CalPort.data (p : CalPort) (b : Nat) : Tbl Word := calDelivered (p.bank b) (p.chk b)

/-- Number of the ACTIVE bank (R110). -/
def State.activeBank (s : State) (n : Nat) : Nat := s.fld (CAL_STAT n) CAL_STAT_ACTIVE_BANK

/-- Number of the WORKING bank. -/
def State.workBank (s : State) (n : Nat) : Nat := 1 - s.activeBank n

/-! ### The calibration equation (R113, R114, R130) -/

/-- Fields of an entry (R111). -/
def entDefect (w : Word) : Bool := bit w.toNat 31
def entForced (w : Word) : Bool := bit w.toNat 30
def entGain (w : Word) : Nat := w.toNat / 65536 % 2 ^ 14
def entDark (w : Word) : Int := sgn 16 w.toNat

/-- The calibrated value of one raw pixel: exact up to one rounding, ties to even, clamped (R113, R114). Terms are scaled by 2^31. -/
def calPixel (fofs : Int) (fgain black : Nat) (e : Word) (x : Nat) : Nat :=
  let y2 : Int := (16 * (x : Int) - fofs) * fgain
  let y5 : Int := (y2 - entDark e * 65536) * entGain e + black * 2 ^ 31
  let y := divEven y5 (2 ^ 31)
  if y < 0 then 0 else if 4095 < y then 4095 else y.toNat

/-- For every position, the nearest good pixel at or before it. -/
def goodBefore : List (Nat × Bool) → Nat → Option (Nat × Nat) → List (Option (Nat × Nat))
  | [], _, _ => []
  | (y, bad) :: t, i, g =>
    let g' := if bad then g else some (i, y)
    g' :: goodBefore t (i + 1) g'

/-- Replace defective pixels from the nearest good ones of the line (R130). -/
def fillDefects (l : List (Nat × Bool)) : List Nat :=
  let n := l.length
  let left := goodBefore l 0 none
  let right := (goodBefore l.reverse 0 none).reverse
  (List.range n).zip (l.zip (left.zip right)) |>.map (fun (i, (y, bad), a, b) =>
    if !bad then y
    else
      match a, b with
      | some (li, yl), some (ri, yr) =>
        let r := n - 1 - ri
        (divEven ((yl : Int) * (r - li : Nat) + ((yr : Int) - yl) * (i - li : Nat)) (r - li)).toNat
      | some (_, yl), none => yl
      | none, some (_, yr) => yr
      | none, none => 0)

/-- What a read of the entries at places `lo` to `hi` - 1 of a bank does beside delivering them: words corrected are counted, uncorrectable ones are counted and recorded (R526, R528, R538, R547; log entry 99); `skip` says which words are not read. -/
def State.calRead (s : State) (n bank lo hi : Nat) (skip : Nat → Bool) : State × List Nat :=
  let p := s.calPort n
  (p.chk bank).foldl (fun (x : State × List Nat) e =>
    if e.1 < lo / 8 || hi ≤ 8 * e.1 || skip e.1 then x
    else
      match calWordRead (p.bank bank) (p.chk bank) e.1 with
      | .good => x
      | .corrected _ => (x.1.incFld RAS_BUF_CORR RAS_BUF_CORR_BUF_CORR, x.2)
      | .uncorrectable => ((x.1.incFld RAS_BUF_CORR RAS_BUF_CORR_BUF_UNCORR).chipUncorr e.1, e.1 :: x.2)) (s, [])

/-- Place of an entry in the list of uncorrectable ones. -/
def badKey (bank k : Nat) : Nat := bank * 2 ^ 17 + k

/-- The entries of colour `c` are read to calibrate a line: an uncorrectable one stays defective until the next bank swap (R526, R528). -/
def State.calUse (s : State) (n bank c : Nat) : State :=
  let x := s.calRead n bank (calKey c 0) (calKey c (s.pix n)) (fun w => (s.calPort n).uncorr.contains (badKey bank (8 * w)))
  x.1.modCal n (fun p => { p with uncorr := x.2.flatMap (fun w => (List.range 8).map (fun j => badKey bank (8 * w + j))) ++ p.uncorr })

/-- Calibrate a plane of colour `c` with a bank of port `n`; an uncorrectable entry makes its pixel defective (R113, R130, R528). -/
def State.calPlane (s : State) (n bank c : Nat) (xs : List Nat) : List Nat :=
  let p := s.calPort n
  let t := p.data bank
  let fofs := sgn 16 (s.fld (CAL_FAC n c) CAL_FAC_FOFS)
  let fgain := s.fld (CAL_FAC n c) CAL_FAC_FGAIN
  let black := s.fld (CAL_LEVEL n) CAL_LEVEL_BLACK
  fillDefects ((List.range xs.length).zip xs |>.map (fun (i, x) =>
    let e := tget calIdentity t (calKey c i)
    (calPixel fofs fgain black e x, entDefect e || p.uncorr.contains (badKey bank (calKey c i)))))

/-! ### Captures (R116-R123) -/

/-- Lines of a strip: 8 × 2^n. -/
def stripLines (k : Nat) : Nat := 8 * 2 ^ k

/-- The plan of a capture: whether white comes first, and skip and strip lengths in order (R117). -/
structure CapPlan where
  whiteFirst : Bool
  skip1 : Nat
  need1 : Nat
  skip2 : Nat
  need2 : Nat
  deriving DecidableEq, Repr, Inhabited

/-- The plan that CAL_CFG and CAL_SKIP give. -/
def State.capPlan (s : State) (n : Nat) : CapPlan :=
  let ws := s.fld (CAL_SKIP n) CAL_SKIP_WHITE_SKIP
  let ds := s.fld (CAL_SKIP n) CAL_SKIP_DARK_SKIP
  let nw := stripLines (s.fld (CAL_CFG n) CAL_CFG_WHITE_N)
  let nd := stripLines (s.fld (CAL_CFG n) CAL_CFG_DARK_N)
  if s.on (CAL_CFG n) CAL_CFG_ORDER then ⟨false, ds, nd, ws, nw⟩ else ⟨true, ws, nw, ds, nd⟩

/-- A phase of skipping ends once its lines have passed. -/
def CalPort.skipDone (p : CalPort) (pl : CapPlan) : CalPort :=
  match p.phase with
  | .skip1 => if pl.skip1 ≤ p.count then { p with phase := .strip1, count := 0 } else p
  | .skip2 => if pl.skip2 ≤ p.count then { p with phase := .strip2, count := 0 } else p
  | _ => p

/-- A capture ends with a result (R119-R123, R126); AUTO arms again (R116). -/
def State.capEnd (s : State) (n result : Nat) : State :=
  let s := s.modCal n (fun p => { p with phase := .idle, white := [], dark := [], waitOk := false, okTable := [] })
  let s := (s.setFld (CAL_STAT n) CAL_STAT_RESULT result).setBit (CAL_STAT n) CAL_STAT_BUSY (s.calPort n).copying
  let s := if s.on (CAL_CTL n) CAL_CTL_AUTO then s.setFld (CAL_CTL n) CAL_CTL_ARM 1 else s
  s.raise (CAL_IRQ_STAT n) (if result = 1 then 0 else 1)

/-- A capture is under way or computing (R122); an OK result that waits for the copy has ended its computation (R129). -/
def CalPort.capturing (p : CalPort) : Bool := p.phase != .idle && !p.waitOk

/-- A capture is aborted (R122). -/
def State.capAbort (s : State) (n : Nat) : State := if (s.calPort n).capturing then s.capEnd n 6 else s

/-- A reference event (R116, R121). -/
def State.refEvent (s : State) (n : Nat) : State :=
  if !s.on (CAL_CTL n) CAL_CTL_ARM then s
  else if s.calBusy n then s.raise (CAL_IRQ_STAT n) 2
  else
    let s := (s.setFld (CAL_CTL n) CAL_CTL_ARM 0).setFld (CAL_STAT n) CAL_STAT_BUSY 1
    let pl := s.capPlan n
    s.modCal n (fun p => { p with capNo := p.capNo + 1, phase := .skip1, count := 0, white := [], dark := [], waitOk := false, okTable := [] }.skipDone pl)

/-- One colour of a strip takes a line: only good lines, and only until its count is complete (R119). -/
def StripSum.take (t : StripSum) (need : Nat) (good : Bool) (px : List Nat) : StripSum :=
  if good && t.good < need then
    { good := t.good + 1, sums := if t.sums = [] then px else List.zipWith (· + ·) t.sums px }
  else t

/-- A strip takes a line, plane by plane. -/
def takeStrip (need : Nat) (l : LineRec) (t : Tbl StripSum) : Tbl StripSum :=
  l.planes.foldl (fun t x =>
    tput t x.1 ((tget default t x.1).take need (!x.2.repaired && !bit l.lampFault x.1) x.2.pixels)) t

/-- Every colour of a strip holds its count. -/
def stripFull (need colours : Nat) (t : Tbl StripSum) : Bool :=
  (List.range colours).all (fun c => decide (need ≤ (tget default t c).good))

/-- Whether a line's lamps are as a strip needs them: with DARK_SRC 1 the dark lines are those with every lamp held off, and no white line is one (R118; log entry 73). -/
def State.lampsFit (s : State) (n : Nat) (white : Bool) (l : LineRec) : Bool := !s.on (CAL_CFG n) CAL_CFG_DARK_SRC || l.dark != white

/-- A completed line passes an active capture (R117-R120). -/
def State.capLine (s : State) (n : Nat) (l : LineRec) : State :=
  let p := s.calPort n
  let pl := s.capPlan n
  let strip (first : Bool) (need : Nat) : State :=
    let white := first == pl.whiteFirst
    if !s.lampsFit n white l then s
    else
    let p := if white then { p with white := takeStrip need l p.white } else { p with dark := takeStrip need l p.dark }
    let p := { p with count := p.count + 1 }
    let t := if white then p.white else p.dark
    if stripFull need (s.colours n) t then
      let q := if first then { p with phase := .skip2, count := 0 }.skipDone pl else { p with phase := .computing }
      s.modCal n (fun _ => q)
    else if 2 * need ≤ p.count then (s.modCal n (fun _ => p)).capEnd n 3
    else s.modCal n (fun _ => p)
  if l.cap ≠ p.capNo then s
  else
    match p.phase with
    | .idle => s
    | .computing => s
    | ph =>
      if l.side.isSome then s.capEnd n 2
      else
        match ph with
        | .strip1 => strip true pl.need1
        | .strip2 => strip false pl.need2
        | _ => s.modCal n (fun p => { p with count := p.count + 1 }.skipDone pl)

/-- Good lines that every colour of a strip holds. -/
def stripGood (colours : Nat) (t : Tbl StripSum) : Nat :=
  (List.range colours).foldl (fun m c => min m (tget default t c).good) (tget default t 0).good

/-- A phase with what it has counted, moved on where that is all it needs. -/
def CapPlan.norm (pl : CapPlan) : CapPhase × Nat → CapPhase × Nat
  | (.skip1, k) => if pl.skip1 ≤ k then (.strip1, 0) else (.skip1, k)
  | (.strip1, k) => if pl.need1 ≤ k then (if pl.skip2 = 0 then (.strip2, 0) else (.skip2, 0)) else (.strip1, k)
  | (.skip2, k) => if pl.skip2 ≤ k then (.strip2, 0) else (.skip2, k)
  | (.strip2, k) => if pl.need2 ≤ k then (.computing, 0) else (.strip2, k)
  | x => x

/-- What a line under way, if it is good, will have done to the phase: a strip counts it only with the lamps that the strip needs (R118). -/
def CapPlan.pass (pl : CapPlan) (x : CapPhase × Nat) (dark : Bool) : CapPhase × Nat :=
  match x.1 with
  | .strip1 => if dark != pl.whiteFirst then pl.norm (.strip1, x.2 + 1) else x
  | .strip2 => if dark == pl.whiteFirst then pl.norm (.strip2, x.2 + 1) else x
  | _ => pl.norm (x.1, x.2 + 1)

/-- Whether the line that starts now is to have its lamps held off (R118): it lies in the dark strip if every line under way is good; lines after a dark strip that is not yet complete stay dark while they are skipped or come after the last strip, since they may yet be taken for it. -/
def State.darkLine (s : State) (n : Nat) : Bool :=
  let p := s.calPort n
  let pl := s.capPlan n
  let good (first : Bool) := stripGood (s.colours n) (if first == pl.whiteFirst then p.white else p.dark)
  let now := match p.phase with
    | .strip1 => good true
    | .strip2 => good false
    | _ => p.count
  let out := (s.linPort n).lines.filter (fun l => l.cap == p.capNo && !l.flush)
  let first := p.phase == .skip1 || p.phase == .strip1
  s.on (CAL_CFG n) CAL_CFG_DARK_SRC && p.phase != .idle && p.phase != .computing &&
  match (out.foldl (fun x l => pl.pass x l.dark) (p.phase, now)).1 with
  | .strip1 => !pl.whiteFirst
  | .skip2 => !pl.whiteFirst && first
  | .strip2 => pl.whiteFirst
  | .computing => pl.whiteFirst
  | _ => false

/-! ### Derivation (R124-R127) -/

/-- Entry of one pixel from its strip sums, and whether it is defective (R124, R125). -/
def deriveEntry (fofs : Int) (fgain target black gmin gmax darkMax nw nd : Nat) (old : Word) (w d : Nat) : Word × Bool :=
  let y2 (sum cnt : Nat) : Rat := (mkRat (16 * sum) cnt - fofs) * fgain / 524288
  let dEx := roundEven (y2 d nd * 8)
  let d8 : Int := if dEx < -32768 then -32768 else if 32767 < dEx then 32767 else dEx
  let span : Rat := y2 w nw - mkRat d8 8
  let g : Rat := (((target : Int) - black : Int) : Rat) / span
  let bad := decide (span ≤ 0) || decide (g * 4096 < (gmin : Nat)) || decide ((gmax : Nat) < g * 4096)
    || decide ((darkMax : Int) * 8 < d8) || dEx != d8 || entForced old
  let gain : Nat := if bad then 0x1000 else (roundEven (g * 4096)).toNat
  (BitVec.ofNat 32 (b2n bad * 2 ^ 31 + (if bad && entForced old then 2 ^ 30 else 0) + gain % 2 ^ 14 * 65536 + uns 16 d8), bad)

/-- The new entries of one colour. FORCED counts as the WORKING bank holds it; while the copy of a swap runs, as it will hold it once the copy is complete (R125, R129). -/
def State.deriveColour (s : State) (n c : Nat) : List (Word × Bool) :=
  let p := s.calPort n
  let work := p.data (if p.copying then s.activeBank n else s.workBank n)
  let w := tget default p.white c
  let d := tget default p.dark c
  let nw := stripLines (s.fld (CAL_CFG n) CAL_CFG_WHITE_N)
  let nd := stripLines (s.fld (CAL_CFG n) CAL_CFG_DARK_N)
  (List.range (s.pix n)).map (fun i =>
    deriveEntry (sgn 16 (s.fld (CAL_FAC n c) CAL_FAC_FOFS)) (s.fld (CAL_FAC n c) CAL_FAC_FGAIN)
      (s.fld (CAL_LEVEL n) CAL_LEVEL_TARGET) (s.fld (CAL_LEVEL n) CAL_LEVEL_BLACK)
      (s.fld (CAL_LIMIT n) CAL_LIMIT_GAIN_MIN) (s.fld (CAL_LIMIT n) CAL_LIMIT_GAIN_MAX)
      (s.fld (CAL_DEF_LIMIT n) CAL_DEF_LIMIT_DARK_MAX) nw nd (tget calIdentity work (calKey c i)) (w.sums.getD i 0) (d.sums.getD i 0))

/-- Longest run of adjacent defective pixels. -/
def longestRun (l : List Bool) : Nat :=
  (l.foldl (fun (b : Nat × Nat) x => if x then (b.1 + 1, max b.2 (b.1 + 1)) else (0, b.2)) (0, 0)).2

/-- Write an OK table to the WORKING bank and make it due (R127). -/
def State.writeOk (s : State) (n : Nat) (t : Tbl Word) (defects : Nat) : State :=
  let b := s.workBank n
  let s := s.modCal n (fun p => { p.setCoded b (calPutAll (p.bank b, p.chk b) t) with swapDue := true })
  ((s.addWrap (CAL_EPOCH n) CAL_EPOCH_EPOCH).setFld (CAL_STAT n) CAL_STAT_DEFECTS defects).capEnd n 1

/-- The computation of a capture ends (R124-R127, R129). -/
def State.capDone (s : State) (n : Nat) : State :=
  let p := s.calPort n
  if p.phase ≠ .computing || p.waitOk then s
  else
    let cols := (List.range (s.colours n)).map (s.deriveColour n)
    let s := (s.calRead n (if p.copying then s.activeBank n else s.workBank n) 0 (2 ^ 17) (fun _ => false)).1
    let defects := (cols.map (fun c => (c.filter (·.2)).length)).foldl max 0
    let beyond := decide (s.fld (CAL_DEF_LIMIT n) CAL_DEF_LIMIT_DEFECT_LIMIT < defects)
    let run := cols.any (fun c => decide (s.fld (CAL_CFG n) CAL_CFG_MAX_RUN < longestRun (c.map (·.2))))
    if beyond then (s.setFld (CAL_STAT n) CAL_STAT_DEFECTS defects).capEnd n 4
    else if run then (s.setFld (CAL_STAT n) CAL_STAT_DEFECTS defects).capEnd n 5
    else
      let t : Tbl Word := ((List.range cols.length).zip cols).flatMap (fun (c, es) =>
        ((List.range es.length).zip es).map (fun (i, e) => (calKey c i, e.1)))
      if p.copying then s.modCal n (fun p => { p with waitOk := true, okTable := t, okDefects := defects })
      else s.writeOk n t defects

/-! ### The rows -/

/-- A write of CAL_CTL: ARM and AUTO first, then ABORT, then START, which acts on the ARM just written; ARM as written stands also where AUTO arms again after the ABORT (R116, R122, R580; log entry 26). -/
def State.calCtl (s : State) (n : Nat) (w : Word) : State :=
  let s := (s.setFld (CAL_CTL n) CAL_CTL_ARM (fget w CAL_CTL_ARM)).setFld (CAL_CTL n) CAL_CTL_AUTO (fget w CAL_CTL_AUTO)
  let s := if fget w CAL_CTL_ABORT = 1 then (s.capAbort n).setFld (CAL_CTL n) CAL_CTL_ARM (fget w CAL_CTL_ARM) else s
  if fget w CAL_CTL_START = 1 && fget w CAL_CTL_ARM = 1 then s.refEvent n else s

/-- CAL_START: a write of CAL_CTL with START 1 (R116, R121). -/
def execCalStart (n : Fin 4) (ctl : Word) (s : State) : Out := s.onHost (fun s => s.calCtl n.val (fset ctl CAL_CTL_START 1))

/-- CAL_ABORT: a write of CAL_CTL with ABORT 1 (R122). -/
def execCalAbort (n : Fin 4) (ctl : Word) (s : State) : Out := s.onHost (fun s => s.calCtl n.val (fset ctl CAL_CTL_ABORT 1))

/-- The entry that CAL_TAB_ADDR names lies within the table (R131). -/
def State.tabInside (s : State) (n : Nat) : Bool :=
  s.fld (CAL_TAB_ADDR n) CAL_TAB_ADDR_COL < s.colours n && s.fld (CAL_TAB_ADDR n) CAL_TAB_ADDR_PIX_IDX < s.pix n

/-- Place of the entry that CAL_TAB_ADDR names. -/
def State.tabKey (s : State) (n : Nat) : Nat := calKey (s.fld (CAL_TAB_ADDR n) CAL_TAB_ADDR_COL) (s.fld (CAL_TAB_ADDR n) CAL_TAB_ADDR_PIX_IDX)

/-- CAL_TAB_ADDR advances (R131). -/
def State.tabNext (s : State) (n : Nat) : State :=
  let i := s.fld (CAL_TAB_ADDR n) CAL_TAB_ADDR_PIX_IDX
  let c := s.fld (CAL_TAB_ADDR n) CAL_TAB_ADDR_COL
  if s.pix n ≤ i + 1 then
    (s.setFld (CAL_TAB_ADDR n) CAL_TAB_ADDR_PIX_IDX 0).setFld (CAL_TAB_ADDR n) CAL_TAB_ADDR_COL (if c + 1 < s.colours n then c + 1 else 0)
  else s.setFld (CAL_TAB_ADDR n) CAL_TAB_ADDR_PIX_IDX (i + 1)

/-- A host read of CAL_TAB_DATA: the WORKING entry, and the address advances (R131). -/
def State.tabRead (s : State) (n : Nat) : State :=
  let k := s.tabKey n
  if s.tabInside n then
    let v := tget calIdentity ((s.calPort n).data (s.workBank n)) k
    { (s.calRead n (s.workBank n) k (k + 1) (fun _ => false)).1 with rdata := v }.tabNext n
  else { s with rdata := 0 }.tabNext n

/-- A host write of CAL_TAB_DATA; refused while BUSY (R131, R133). -/
def State.tabWrite (s : State) (n : Nat) (v : Word) : State :=
  if s.calBusy n then s.reject (CAL_WR_REJECT n) 5
  else
    let b := s.workBank n
    let k := s.tabKey n
    let s := if s.tabInside n then s.modCal n (fun p => p.setCoded b (calPutEntry (p.bank b, p.chk b) k v)) else s
    s.tabNext n

/-- A write of 1 to COMMIT; refused while BUSY (R132, R133). -/
def State.tabCommit (s : State) (n : Nat) : State :=
  if s.calBusy n then s.reject (CAL_WR_REJECT n) 6
  else (s.modCal n (fun p => { p with swapDue := true })).addWrap (CAL_EPOCH n) CAL_EPOCH_EPOCH

/-- CAL_TAB_READ (R131). -/
def execCalTabRead (n : Fin 4) (s : State) : Out := s.onHost (fun s => s.tabRead n.val)

/-- CAL_TAB_WRITE (R131, R133). -/
def execCalTabWrite (n : Fin 4) (v : Word) (s : State) : Out := s.onHost (fun s => s.tabWrite n.val v)

/-- CAL_COMMIT (R132, R133). -/
def execCalCommit (n : Fin 4) (s : State) : Out := s.onHost (fun s => s.tabCommit n.val)

/-- CAL_CAPTURE_DONE (R124-R127). -/
def execCalCaptureDone (n : Fin 4) (s : State) : Out := s.onMain (fun s => s.capDone n.val)

/-- CAL_COPY_DONE: WORKING holds the ACTIVE table, words that cannot be corrected with their errors (log entry 99); BUSY clears, and a waiting OK table is written (R129). -/
def execCalCopyDone (n : Fin 4) (s : State) : Out :=
  s.onMain (fun s =>
    let n := n.val
    let p := s.calPort n
    if !p.copying then s
    else
      let a := s.activeBank n
      let b := s.workBank n
      let bad := (p.chk a).filter (fun e => (calWordRead (p.bank a) (p.chk a) e.1).bad)
      let s := (s.calRead n a 0 (2 ^ 17) (fun _ => false)).1.modCal n (fun q => { q.setCoded b (p.data a, bad) with copying := false })
      if p.waitOk then s.writeOk n p.okTable p.okDefects
      else s.setBit (CAL_STAT n) CAL_STAT_BUSY (p.phase != .idle))

end Sys2Proof.Machine
end

