-- ==== Sys2Proof/Machine/Lines.lean ====
section
/-! DEFINITION. Line intake up to the received line: admission, sensor link, encoders, line triggering, exposure, packets (R57-R93). -/

namespace Sys2Proof.Machine

/-! ### Port admission (R70-R72, R108) -/

/-- Lanes of a port's link (R57). -/
def State.lanes (s : State) (n : Nat) : Nat := 2 ^ s.fld (LIN_PORT_CFG n) LIN_PORT_CFG_LANES

/-- Data blocks on every lane of a packet (R60). -/
def pktBlocks (pix lanes : Nat) : Nat := cdiv (80 + 3 * pix) (16 * lanes)

/-- Smallest line period of the link in ps (R57, R70). -/
def State.linkMinPs (s : State) (n : Nat) : Nat :=
  s.colours n * (pktBlocks (s.pix n) (s.lanes n) + 3) * (if s.on (LIN_PORT_CFG n) LIN_PORT_CFG_RATE then 8250 else 4125)

/-- Pixel rate of a port in pixels per ns. -/
def State.portRate (s : State) (n : Nat) : Rat := mkRat (s.pix n * s.colours n) (s.num (LIN_LINE_MIN n))

/-- Sum of the pixel rates of ports. -/
def State.rateSum (s : State) (l : List Nat) : Rat := (l.map s.portRate).foldl (· + ·) 0

/-- The enabled ports. -/
def State.onPorts (s : State) : List Nat := (List.range 4).filter s.linOn

/-- LIN_ADMIT: the admitted sum rounded up to whole Mpx/s (R72). -/
def State.setAdmit (s : State) : State := s.setNum LIN_ADMIT (s.rateSum s.onPorts * 1000).ceil.toNat

/-- The registers of port `n`'s LIN block, for its LINE boundary. -/
def lineScope (n a : Nat) : Bool := 0x200000 + 0x10000 * n ≤ a && a < 0x210000 + 0x10000 * n

/-- REVERSED of a port follows its encoder (R80). -/
def State.setReversed (s : State) (n : Nat) : State :=
  let e := s.encSel n
  s.setBit (LIN_PORT_STAT n) LIN_PORT_STAT_REVERSED (decide (sdiff 32 (s.num (LIN_ENC_POS e)) (s.num (LIN_ENC_HWM e)) < 0))

/-- A port that passes admission starts: lanes train, the phase and the requests start afresh, HWM restarts where no enabled port selected the encoder (R67, R71, R78, R79). EN is no line boundary: LINE values wait for the first line start (R84), and the busy time of a line started before runs on (R85, R86). The ring keeps its place and its lines also where BASE or SIZE_MIB was rewritten, and the port's ENC_STALL stays 0 until its encoder stalls anew (log entry 72). -/
def State.startPort (s : State) (n : Nat) : State :=
  let e := s.encSel n
  let first := s.selectors e = []
  let s := (s.setFld (LIN_PORT_CTL n) LIN_PORT_CTL_EN 1).setFld (LIN_PORT_STAT n) LIN_PORT_STAT_ENABLED 1
  let s := ((s.setFld (LIN_PORT_STAT n) LIN_PORT_STAT_LINK_UP 0).setFld (LIN_LINK_STAT n) LIN_LINK_STAT_LANE_LOCK 0).setNum (LIN_LINE_CNT n) 0
  let s := s.modLin n (fun p => { p with
    lanes := (List.range 8).map (fun k => (k, { locked := false, clean := s.tb, errors := [] })), snsNext := none, pEdge := 0, linesDue := 0, frozen := false, tInt := none, tAdv := none, waiting := false
    lastFlush := s.tb, skip := false, gap := false, resume := false, ringOn := true })
  let s := if first then
      let s := s.setNum (LIN_ENC_HWM e) (s.num (LIN_ENC_POS e))
      { s with enc := tput s.enc e { tget default s.enc e with raising := [], lastTb := s.tb, stalled := false, selected := true, below := false } }
    else s
  ((s.setReversed n).setAdmit).freshRet

/-- A write of EN 1 (R71, R108); refused in STANDBY (R564). -/
def State.portEnable (s : State) (n : Nat) : State :=
  if s.linOn n then s
  else if s.standby then s.reject (LIN_WR_REJECT n) 0
  else
    let link := decide (s.num (LIN_LINE_MIN n) * 1000 < s.linkMinPs n)
    let rate := decide (24 < s.rateSum (n :: s.onPorts))
    let grant := Config.retGranted n (s.pair (LIN_RET_BASE_LO n) / 4096 * 4096) (s.retSize n)
    let s := (s.setBit (LIN_PORT_STAT n) LIN_PORT_STAT_ADMIT_FAIL_LINK link).setBit (LIN_PORT_STAT n) LIN_PORT_STAT_ADMIT_FAIL_RATE rate
    if link || rate || !grant then s.reject (LIN_WR_REJECT n) 0 else s.startPort n

/-- A write of EN 0: no more lines start; a capture is aborted (R72, R73, R86, R122). Every write of EN 0 aborts the port's capture, also where EN was 0 before, since a capture may run on such a port: the manual does not say whether such a write clears EN (DESIGN CHOICE, log entry 26). -/
def State.portDisable (s : State) (n : Nat) : State :=
  let s := (s.setFld (LIN_PORT_CTL n) LIN_PORT_CTL_EN 0).setFld (LIN_PORT_STAT n) LIN_PORT_STAT_ENABLED 0
  let s := (s.setFld (LIN_PORT_STAT n) LIN_PORT_STAT_ENC_STALL 0).setFld (LIN_PORT_STAT n) LIN_PORT_STAT_REVERSED 0
  ((s.modLin n (fun p => { p with waiting := false })).setAdmit).capAbort n

/-- LIN_PORT_ENABLE (R71, R72, R78, R79, R108). -/
def execLinPortEnable (n : Fin 4) (s : State) : Out := s.onHost (fun s => s.portEnable n.val)

/-- LIN_PORT_DISABLE (R72, R86, R122). -/
def execLinPortDisable (n : Fin 4) (s : State) : Out := s.onHost (fun s => s.portDisable n.val)

/-! ### Sensor link (R57-R69) -/

/-- A lane of a port's link. -/
def State.lane (s : State) (n k : Nat) : LaneSt := tget default (s.linPort n).lanes k

/-- Put a lane, and its LANE_LOCK bit. -/
def State.setLane (s : State) (n k : Nat) (l : LaneSt) : State :=
  let w := s.fld (LIN_LINK_STAT n) LIN_LINK_STAT_LANE_LOCK
  let w' := if l.locked then w ||| 2 ^ k else w &&& (0xFF ^^^ 2 ^ k)
  (s.modLin n (fun p => { p with lanes := tput p.lanes k l })).setFld (LIN_LINK_STAT n) LIN_LINK_STAT_LANE_LOCK w'

/-- A lane that the link uses, on a running port. -/
def State.laneUsed (s : State) (n k : Nat) : Bool := s.linOn n && k < s.lanes n

/-- Every configured lane is locked. -/
def State.allLocked (s : State) (n : Nat) : Bool := (List.range (s.lanes n)).all (fun k => (s.lane n k).locked)

/-- Block time of a port's link in ps (R57). -/
def State.blockPs (s : State) (n : Nat) : Nat := if s.on (LIN_PORT_CFG n) LIN_PORT_CFG_RATE then 8250 else 4125

/-- SYNC_ERROR: a bad sync header where `header`, else a control block of unknown type under a valid one, counts on its lane; a bad header ends the run of valid ones that lock needs (R58, R59, R67). -/
def execSyncError (n : Fin 4) (lane : Fin 8) (header : Bool) (s : State) : Out :=
  s.onMain (fun s =>
    if s.laneUsed n lane then
      let l := s.lane n lane
      s.setLane n lane { l with clean := if header then s.tb else l.clean, errors := (s.tb :: l.errors).take 16 }
    else s)

/-- LANE_LOCK: a lane that seeks lock has had 64 consecutive valid sync headers (R67). The sync errors counted before the lock are forgotten at it: the manual does not say whether they count toward the next loss (DESIGN CHOICE, log entry 72). -/
def execLaneLock (n : Fin 4) (lane : Fin 8) (s : State) : Out :=
  s.onMain (fun s =>
    let l := s.lane n lane
    if s.laneUsed n lane && !l.locked && l.clean * 1000 + 64 * s.blockPs n ≤ s.tb * 1000 then
      s.setLane n lane { locked := true, clean := s.tb, errors := [] }
    else s)

/-- The sync errors of a lane that lie within the last 1,024 block times (R67). -/
def State.recentErrors (s : State) (n : Nat) (l : LaneSt) : List Nat :=
  l.errors.filter (fun t => s.tb * 1000 ≤ t * 1000 + 1024 * s.blockPs n)

/-- LANE_LOCK_LOSS: 16 sync errors within 1,024 block times; the link is down and trains again (R67, R69). -/
def execLaneLockLoss (n : Fin 4) (lane : Fin 8) (s : State) : Out :=
  s.onMain (fun s =>
    let l := s.lane n lane
    if s.laneUsed n lane && l.locked && 16 ≤ (s.recentErrors n l).length then
      let s := s.setLane n lane { locked := false, clean := s.tb, errors := [] }
      let s := s.setFld (LIN_PORT_STAT n) LIN_PORT_STAT_LINK_UP 0
      (s.incFld (LIN_LINK_ERR n) LIN_LINK_ERR_RELOCK_CNT).raise (LIN_IRQ_STAT n) 0
    else s)

/-- ALIGN: seen on all lanes with a largest skew in block times; within 4 the link comes up (R68). -/
def execAlign (n : Fin 4) (skew : Nat) (s : State) : Out :=
  s.onMain (fun s =>
    if s.linOn n && s.allLocked n then
      let s := s.setFld (LIN_LINK_STAT n) LIN_LINK_STAT_SKEW (min 7 (max (s.fld (LIN_LINK_STAT n) LIN_LINK_STAT_SKEW) skew))
      if skew ≤ 4 then s.setFld (LIN_PORT_STAT n) LIN_PORT_STAT_LINK_UP 1 else s
    else s)

/-! ### Line triggering (R82-R88) -/

/-- Slot of a sub-exposure and time of the exposure sequence (R90). -/
def Expo.slot (x : Expo) : Nat := x.lead + x.exp + x.tail + x.dead
def Expo.seqNs (x : Expo) : Nat := x.lamps.length * x.slot - x.dead

/-- The moment at which the last lamp of a sequence went off, as far as it has run: the end of the last lit sub-exposure begun, or, with none, what went before it (R90). -/
def Expo.lastOff (x : Expo) (tb : Nat) : Nat :=
  (((List.range x.lamps.length).filter (fun k => x.lamps.getD k 0 != 0 && x.start + k * x.slot ≤ tb)).map
    (fun k => x.start + k * x.slot + x.lead + x.exp + x.tail)).foldl max x.offTb

/-- The moment at which the last lamp of a port went off, if none is on. -/
def State.lampsOff (s : State) (n : Nat) : Nat := ((s.linPort n).expo.map (fun x => x.lastOff s.tb)).getD 0

/-- The exposure that the port's fields call for; `lamps` by sub-exposure (R89, R90). -/
def State.exposure (s : State) (n : Nat) (lamps : List Nat) : Expo :=
  { start := s.tb, offTb := s.lampsOff n, lamps := lamps, lead := s.fld (LIN_LAMP_TIME n) LIN_LAMP_TIME_LEAD_NS, exp := s.num (LIN_EXP_TIME n)
    tail := s.fld (LIN_LAMP_TIME n) LIN_LAMP_TIME_TAIL_NS, dead := s.fld (LIN_LAMP_DEAD n) LIN_LAMP_DEAD_DEAD_NS }

/-- Sub-exposure and time within its slot, at a moment of the timebase. -/
def Expo.at (x : Expo) (tb : Nat) : Nat × Nat := let d := tb - x.start; (d / (max 1 x.slot), d % (max 1 x.slot))

/-- SNSn_EXP is high (R90). -/
def State.expPin (s : State) (n : Nat) : Bool :=
  match (s.linPort n).expo with
  | some x =>
    let (k, t) := x.at s.tb
    decide (k < x.lamps.length) && decide (x.lead ≤ t) && decide (t < x.lead + x.exp)
  | none => false

/-- The lamps of SNSn_LMP that are on: bit 0 R, 1 G, 2 B (R90). -/
def State.lampPins (s : State) (n : Nat) : Nat :=
  match (s.linPort n).expo with
  | some x =>
    let (k, t) := x.at s.tb
    if k < x.lamps.length && t < x.lead + x.exp + x.tail then x.lamps.getD k 0 else 0
  | none => 0

/-- The rate of HWM edges: intervals, and their span in units of 2^-16 ns (R33). -/
def EncSt.rate (e : EncSt) : Option (Nat × Nat) :=
  let k := min 64 (e.raising.length - 1)
  match e.raising.head?, e.raising[k]? with
  | some a, some b => if k = 0 then none else some (k, (sdiff 64 a b).toNat)
  | _, _ => none

/-- DEADLINE of a COUNT-mode PIECE is estimated anew (R33). -/
def State.estimate (s : State) (i : Nat) (p : Piece) : State :=
  match p.emitCount with
  | none => s
  | some c =>
    let e := tget default s.enc p.encSel
    let still := match e.lastEdge with
      | some t => decide (1000000 * 65536 ≤ sdiff 64 s.now.toNat t)
      | none => true
    let put (d : Nat) : State := s.modItem i (fun x => { x with deadline := d })
    match e.rate with
    | none => put (p.emitPoint.getD 0)
    | some (k, span) =>
      if still then s
      else
        let left := (sdiff 32 c p.hiPos).toNat
        let est := (ns48 s.now + left * span / (k * 65536)) % 2 ^ 48
        put (match p.emitPoint with
          | some t => if nsDiff t est < 0 then t else est
          | none => est)

/-- A line starts (R84-R86, R89, R96): LINE values apply, the exposure runs, the line belongs to the port's OPEN SIDE, COUNT-mode deadlines are estimated. -/
def State.startLine (s : State) (n : Nat) : State :=
  let s := s.applyShadow .line (lineScope n)
  let dark := s.darkLine n
  let on : List Nat := if s.colours n = 3 then [1, 2, 4] else [s.fld (LIN_PORT_CFG n) LIN_PORT_CFG_LAMP_MONO]
  let x := s.exposure n (if dark then on.map (fun _ => 0) else on)
  let p := s.linPort n
  let c := s.calPort n
  let active := c.phase != .idle && c.phase != .computing
  let side := match p.curSide with
    | some i => if (s.item i).state = .opened then some i else none
    | none => none
  let l : LineRec :=
    { seqNs := x.seqNs, slotNs := x.slot, gateNs := x.lead + x.exp, lanes := s.lanes n, blockPs := s.blockPs n, lampFault := 0, bank := s.activeBank n, cap := if active then c.capNo else 0, stamp := s.now, startTb := s.tb
      hwm := s.num (LIN_ENC_HWM (s.encSel n)), colour := s.colours n == 3, pix := s.pix n, flush := false, dark := dark
      resumed := p.resume, gap := p.gap, skipped := p.skip, side := side, planes := [] }
  let s := s.modLin n (fun p => { p with
    waiting := false, resume := false, gap := false, skip := false, lines := p.lines ++ [l], expo := some x
    busyUntil := s.tb + max (s.num (LIN_LINE_MIN n)) x.seqNs, lastFlush := s.tb })
  let s := s.addWrap (LIN_LINE_CNT n) LIN_LINE_CNT_LINE_CNT
  (s.pieces.filter (fun p => !p.2.image && !p.2.takenOver && p.2.port == n && !p.2.recorded)).foldl (fun s p => s.estimate p.1 p.2) s

/-- A line becomes due: it starts, waits for the busy port, or is dropped as an overrun (R85). -/
def State.requestLine (s : State) (n : Nat) : State :=
  let p := s.linPort n
  if p.waiting then
    ((s.modLin n (fun p => { p with skip := true })).incReg (LIN_OVERRUN n)).raise (LIN_IRQ_STAT n) 2
  else if s.tb < p.busyUntil then s.modLin n (fun p => { p with waiting := true })
  else s.startLine n

/-- Request the lines that a phase makes due, at most `k` of them. -/
def State.advanceN : Nat → Nat → Nat → State → State
  | 0, _, _, s => s
  | k + 1, n, p, s =>
    if 0 < sdiff 32 (p / 2 ^ 24) (s.linPort n).linesDue then
      State.advanceN k n p ((s.modLin n (fun q => { q with linesDue := (q.linesDue + 1) % 2 ^ 32 })).requestLine n)
    else s

/-- advance_to of R82: one edge advances the phase by less than 256 lines. -/
def State.advanceTo (s : State) (n p : Nat) : State := State.advanceN 256 n p s

/-- A counted edge at a port that selects its encoder (R82). -/
def State.edgeAt (s : State) (n : Nat) (raised : Bool) (stamp : Nat) : State :=
  if !raised then s.modLin n (fun p => { p with frozen := true })
  else
    let step := s.num (LIN_TRIG_STEP n)
    let p := s.linPort n
    let edge := (p.pEdge + step) % 2 ^ 56
    (s.modLin n (fun p => { p with
      tInt := p.tAdv.map (fun t => (sdiff 64 stamp t).toNat), tAdv := some stamp, pEdge := edge, frozen := false })).advanceTo n edge

/-- The interpolated phase at `now` (R82, R83); every product and quotient is truncated to 2^-24. Before two advances of HWM have come since EN there is no t_int, and nothing is interpolated (log entry 72). -/
def State.interpPhase (s : State) (n : Nat) : Option Nat :=
  let p := s.linPort n
  let step := s.num (LIN_TRIG_STEP n)
  let on := s.on (LIN_PORT_CFG n) LIN_PORT_CFG_INTERP || 0x1000000 ≤ step
  match p.tAdv, p.tInt with
  | some t, some iv =>
    if !on || p.frozen || 10000000 * 65536 < iv then none
    else
      let d := (sdiff 64 s.now.toNat t).toNat
      let q := if iv = 0 then 2 ^ 24 else min (d * 2 ^ 24 / iv) (2 ^ 24)
      some ((p.pEdge + min (step * q / 2 ^ 24) (step - 1)) % 2 ^ 56)
  | _, _ => none

/-- LINE_INTERP_DUE: an interpolated phase crossing makes a line due (R82, R83). -/
def execLineInterpDue (n : Fin 4) (s : State) : Out :=
  s.onMain (fun s =>
    match s.interpPhase n with
    | some p => if s.linOn n then s.advanceTo n p else s
    | none => s)

/-- LINE_START: a waiting request starts its line when the port ceases to be busy (R85). -/
def execLineStart (n : Fin 4) (s : State) : Out :=
  s.onMain (fun s =>
    let p := s.linPort n
    if s.linOn n && p.waiting && p.busyUntil ≤ s.tb then s.startLine n else s)

/-- FLUSH_EXPOSURE: 10 ms without a line start; every lamp is off and the packets are discarded (R87). In colour the flush is a whole exposure sequence, three gate pulses, where the manual speaks of a gate pulse (DESIGN CHOICE, log entry 32). -/
def execFlushExposure (n : Fin 4) (s : State) : Out :=
  s.onMain (fun s =>
    let n := n.val
    let p := s.linPort n
    if s.linOn n && p.lastFlush + 10000000 ≤ s.tb && p.busyUntil ≤ s.tb then
      let x := s.exposure n (List.replicate (s.colours n) 0)
      let l : LineRec := { (default : LineRec) with seqNs := x.seqNs, slotNs := x.slot, gateNs := x.lead + x.exp, lanes := s.lanes n, blockPs := s.blockPs n, stamp := s.now, startTb := s.tb, colour := s.colours n == 3, pix := s.pix n, flush := true }
      s.modLin n (fun p => { p with gap := true, lastFlush := s.tb, expo := some x, lines := p.lines ++ [l], busyUntil := max p.busyUntil (s.tb + x.seqNs) })
    else s)

/-! ### Encoders (R73-R80) -/

/-- Set a bit of LIN_IRQ_STAT in every enabled port that selects an encoder (R73). -/
def State.encRaise (s : State) (e bit : Nat) : State := (s.selectors e).foldl (fun s n => s.raise (LIN_IRQ_STAT n) bit) s

/-- The moment at which a position reaches an emission count (R32, R42). -/
def countReached (count : Option Nat) (pos ns : Nat) : Option Nat :=
  match count with
  | some c => if 0 ≤ sdiff 32 pos c then some ns else none
  | none => none

/-- A counted edge (R75, R76, R78-R80, R82); HWM stands still until a port first selects the encoder (R79). -/
def State.countEdge (s : State) (e : Nat) (up : Bool) (stamp : Stamp) : State :=
  let c := tget default s.enc e
  let old := s.num (LIN_ENC_POS e)
  let pos := if up then (old + 1) % 2 ^ 32 else (old + 2 ^ 32 - 1) % 2 ^ 32
  let s := s.setNum (LIN_ENC_POS e) pos
  let fast := match c.lastEdge with
    | some t => decide (sdiff 64 stamp.toNat t < (s.fld (LIN_ENC_CFG e) LIN_ENC_CFG_MIN_EDGE_NS * 65536 : Nat))
    | none => false
  let s := if fast then (s.incFld (LIN_ENC_ERR e) LIN_ENC_ERR_OVERSPEED_CNT).encRaise e 4 else s
  let hwm := s.num (LIN_ENC_HWM e)
  let raised := c.selected && decide (0 < sdiff 32 pos hwm)
  let low := c.selected && decide (sdiff 32 pos hwm < 0)
  let c' : EncSt := { c with
    lastDir := some up, lastEdge := some stamp.toNat, lastTb := s.tbAt stamp, stalled := false, below := low
    raising := if raised then (stamp.toNat :: c.raising).take 65 else c.raising
    zTurned := c.zTurned || c.zDir == some (!up) }
  let s := { s with enc := tput s.enc e c' }
  let s := if raised then s.setNum (LIN_ENC_HWM e) pos else s
  let s := if low && !c.below then s.encRaise e 7 else s
  let s := { s with
    pieces := tmap s.pieces (fun _ p =>
      if p.emitCount.isSome && p.encSel = e && !p.recorded && 0 < sdiff 32 pos p.hiPos then
        { p with hiPos := pos, countAt := p.countAt.orElse (fun _ => countReached p.emitCount pos (ns48 stamp)) } else p)
    beWait := s.beWait.map (fun (w : BeWait) => if w.at_.enc = e && 0 < sdiff 32 pos w.at_.high then { w with at_ := { w.at_ with high := pos } } else w) }
  (s.selectors e).foldl (fun s n =>
    let s := (s.setFld (LIN_PORT_STAT n) LIN_PORT_STAT_ENC_STALL 0).setReversed n
    let s := if c.below && !low then s.modLin n (fun p => { p with resume := true }) else s
    s.edgeAt n raised stamp.toNat) s

/-- FILT_NS of an encoder, at most 20 (R74). -/
def State.filtNs (s : State) (e : Nat) : Nat := min 20 (s.fld (LIN_ENC_CFG e) LIN_ENC_CFG_FILT_NS)

/-- A level has stood for `ns` ns since its first transition, so that a glitch filter accepts it (R74, R94); while fabric time stands still for a backward step its stamps tell nothing of that. -/
def State.stood (s : State) (stamp : Stamp) (ns : Nat) : Bool := 0 < s.tim.stopNs || decide ((ns * 65536 : Nat) ≤ stampDiff s.now stamp)

/-- ENC_EDGE: the levels of A and B after a transition at `stamp`, accepted once they have stood for FILT_NS (R74-R76, R80, R82). A and B accepted together are no counted edge for STALL_US and MIN_EDGE_NS: last edge, stall time and stall stay as they are, which the manual leaves open (DESIGN CHOICE, log entry 72). -/
def execEncEdge (e : Fin 4) (a b : Bool) (stamp : Stamp) (s : State) : Out :=
  s.onMain (fun s =>
    let e := e.val
    let c := tget default s.enc e
    if a == c.a && b == c.b || !s.stood stamp (s.filtNs e) then s
    else
      let s' := { s with enc := tput s.enc e { c with a := a, b := b } }
      if a != c.a && b != c.b then (s'.incFld (LIN_ENC_ERR e) LIN_ENC_ERR_ILLEGAL_CNT).encRaise e 3
      else s'.countEdge e (if a != c.a then a != b else a == b) stamp)

/-- ENC_Z_EDGE: a rising edge of Z at `stamp`, accepted once Z has stood for FILT_NS (R74, R77). -/
def execEncZEdge (e : Fin 4) (stamp : Stamp) (s : State) : Out :=
  s.onMain (fun s =>
    let e := e.val
    let c := tget default s.enc e
    let pos := s.num (LIN_ENC_POS e)
    let counts := s.num (LIN_ENC_LIMIT e)
    if !s.on (LIN_ENC_CFG e) LIN_ENC_CFG_Z_EN || counts = 0 || !s.stood stamp (s.filtNs e) then s
    else
      let wrong := match c.zPos, c.zDir, c.lastDir with
        | some z, some d, some d' => d == d' && !c.zTurned && (sdiff 32 pos z).natAbs != counts
        | _, _, _ => false
      let s := { s with enc := tput s.enc e { c with zPos := some pos, zDir := c.lastDir, zTurned := false } }
      if wrong then (s.incFld (LIN_ENC_ERR e) LIN_ENC_ERR_ZERR_CNT).encRaise e 5 else s)

/-- ENC_STALL: no counted edge for STALL_US (R78). -/
def execEncStall (e : Fin 4) (s : State) : Out :=
  s.onMain (fun s =>
    let e := e.val
    let c := tget default s.enc e
    if c.stalled || s.tb < c.lastTb + s.fld (LIN_ENC_CFG e) LIN_ENC_CFG_STALL_US * 1000 then s
    else
      let s := { s with enc := tput s.enc e { c with stalled := true } }
      ((s.selectors e).foldl (fun s n => s.setFld (LIN_PORT_STAT n) LIN_PORT_STAT_ENC_STALL 1) s).encRaise e 6)

/-! ### Lamps (R91, R92) -/

/-- Change the newest line of a port that is no flush exposure. -/
def State.modLastLine (s : State) (n : Nat) (f : LineRec → LineRec) : State :=
  s.modLin n (fun p => { p with lines := match p.lines.reverse with
    | l :: t => (if l.flush then l :: t else f l :: t).reverse
    | [] => [] })

/-- LAMP_FAULT: SNSn_LOK has been low for more than 50 ns while SNSn_EXP is high (R91); a flush exposure has no line tag to carry it (log entry 33). -/
def execLampFault (n : Fin 4) (s : State) : Out :=
  s.onMain (fun s =>
    let n := n.val
    match (s.linPort n).expo with
    | some x =>
      let (k, t) := x.at s.tb
      if s.on (LIN_LAMP_DEAD n) LIN_LAMP_DEAD_LOK_EN && k < x.lamps.length && x.lead + 50 < t && t ≤ x.lead + x.exp then
        ((s.modLastLine n (fun l => { l with lampFault := l.lampFault ||| 2 ^ k })).incFld (LIN_LAMP_STAT n) LIN_LAMP_STAT_LAMP_FAULT_CNT).raise (LIN_IRQ_STAT n) 8
      else s
    | none => s)

/-- LAMP_STUCK: SNSn_LOK has been high for more than 1 µs with every lamp off (R92). -/
def execLampStuck (n : Fin 4) (s : State) : Out :=
  s.onMain (fun s =>
    if s.on (LIN_LAMP_DEAD n) LIN_LAMP_DEAD_LOK_EN && s.lampPins n == 0 && s.lampsOff n + 1000 < s.tb then s.setFld (LIN_LAMP_STAT n) LIN_LAMP_STAT_LAMP_STUCK 1 else s)

/-! ### Packets (R60-R66) -/

/-- Unpack 12-bit pixels, two from every three bytes (R61). -/
def unpack12 : List Byte → List Nat
  | a :: b :: c :: t => (a.toNat + b.toNat % 16 * 256) :: (b.toNat / 16 + c.toNat * 16) :: unpack12 t
  | _ => []

/-- Pack 12-bit pixels (R61). -/
def pack12 : List Nat → List Byte
  | x :: y :: t => BitVec.ofNat 8 x :: BitVec.ofNat 8 (x / 256 % 16 + y % 16 * 16) :: BitVec.ofNat 8 (y / 16) :: pack12 t
  | [x] => [BitVec.ofNat 8 x, BitVec.ofNat 8 (x / 256 % 16)]
  | [] => []

/-- COLOUR code that sub-exposure `k` of a line expects (R62, R89). -/
def expectColour (colour : Bool) (k : Nat) : Nat := if colour then k + 1 else 0

/-- The CRC of a packet holds (R63). -/
def pktCrcOk (pix : Nat) (st : List Byte) : Bool :=
  let n := 32 + 3 * pix / 2
  n + 4 ≤ st.length && crc32 (st.take n) == leAt st n 4

/-- The plane that replaces a bad or missing packet (R66): the last good one of its colour, or zeros when the SIDE has had none. -/
def LinPort.repair (p : LinPort) (l : LineRec) (code : Nat) : List Nat :=
  match tfind p.lastGood code with
  | some (sd, px) => if l.side.isNone || l.side == some sd then px else List.replicate l.pix 0
  | none => List.replicate l.pix 0

/-- Packets that a line gives (R89). -/
def LineRec.want (l : LineRec) : Nat := if l.colour then 3 else 1

/-- The packets of a line that has them all, in order of its sub-exposures. -/
def LineRec.packets (l : LineRec) : List PktPlane := l.planes.map (·.2)

/-- Every packet of the line has arrived or is missing. -/
def LineRec.full (l : LineRec) : Bool := decide (l.want ≤ l.planes.length)

/-- The gate pulses that wait for their packet: line by place, and sub-exposure, in time order (R60). -/
def LinPort.waits (p : LinPort) : List (Nat × Nat) :=
  ((List.range p.lines.length).zip p.lines).flatMap (fun x =>
    (List.range x.2.want).filterMap (fun k => if (tfind x.2.planes k).isNone then some (x.1, k) else none))

/-- The gate pulse of sub-exposure `k` of the line at place `i` has ended at a time of the timebase, within the 2 ns of R90. -/
def LinPort.gateOver (p : LinPort) (tb : Nat) (x : Nat × Nat) : Bool :=
  match p.lines[x.1]? with
  | some l => decide (l.startTb + x.2 * l.slotNs + l.gateNs ≤ tb + 2)
  | none => false

/-- The gate pulse that a packet with its SOL at `tb` answers: the latest that has ended and waits, otherwise the oldest that waits (R60; log entry 70). -/
def LinPort.answers (p : LinPort) (tb : Nat) : Option (Nat × Nat) :=
  ((p.waits.filter (p.gateOver tb)).getLast?).orElse (fun _ => p.waits.head?)

/-- Flush exposures whose packets have all passed are over. -/
def LinPort.dropFlush (p : LinPort) : LinPort :=
  { p with lines := p.lines.filter (fun l => !(l.flush && l.full)) }

/-- Put the packet of sub-exposure `k` into the line at place `i`. -/
def LinPort.place (p : LinPort) (i k : Nat) (x : PktPlane) : LinPort :=
  { p with lines := p.lines.modify i (fun l => { l with planes := tput l.planes k x }) }

/-- What Norentum's own tap sees of a packet (R98, R139): port, stamp of the line, plane, whether the packet is good, pixels. -/
structure TapIn where
  port : Nat
  stamp : Stamp
  plane : Nat
  good : Bool
  px : List Nat
  deriving DecidableEq, Repr

/-- The tap takes a packet. -/
def Met.takeTap (m : Met) (x : TapIn) : Met := m.tap x.port x.stamp x.plane x.good x.px

/-- The plane of sub-exposure `k` arrives for the line `l` at place `i`: from a good packet or as a repair (R65, R66); Norentum's tap sees it with its validity and with the line's stamp in fabric time (R98, R139; log entry 13). -/
def State.putPlane (s : State) (n i k : Nat) (l : LineRec) (good : Bool) (px : List Nat) (aux : List Byte) (sat slip : Bool) : State × Option TapIn :=
  let code := expectColour l.colour k
  if l.flush then (s.modLin n (fun p => (p.place i k default).dropFlush), none)
  else
    let x : PktPlane := { colour := code, pixels := if good then px else (s.linPort n).repair l code, aux := aux, repaired := !good, sat := sat, slip := slip }
    let s := s.modLin n (fun p => { p.place i k x with
      lastGood := if good then tput p.lastGood code (l.side.getD 0, px) else p.lastGood })
    (if good then s else (s.incFld (LIN_LINK_ERR n) LIN_LINK_ERR_BAD_LINE_CNT).raise (LIN_IRQ_STAT n) 1, some { port := n, stamp := l.stamp, plane := k, good := good, px := px })

/-- The pixel bytes of a packet as the line buffer delivers them, given the bytes that upsets flip in the codewords of its words while it holds them: words corrected, words uncorrectable, and the bytes (R522-R526). -/
def lineBuffer (px : List Byte) (upsets : List (Nat × List Byte)) : Nat × List Nat × List Byte :=
  upsets.foldl (fun (x : Nat × List Nat × List Byte) u =>
    let d := fitTo 32 (px.drop (32 * u.1))
    if px.length ≤ 32 * u.1 then x
    else
      let c := xorBytes (rsEncode d) (fitTo 35 u.2)
      let put (w : List Byte) : List Byte := x.2.2.take (32 * u.1) ++ w.take (min 32 (px.length - 32 * u.1)) ++ x.2.2.drop (32 * u.1 + 32)
      match rsRead c with
      | .good => (x.1, x.2.1, put c)
      | .corrected w => (x.1 + 1, x.2.1, put w)
      | .uncorrectable => (x.1, u.1 :: x.2.1, x.2.2)) (0, [], px)

/-- The line buffer is read: corrections are counted, an uncorrectable word is counted and recorded, and makes its packet bad (R526, R528, R538, R547; log entry 99). -/
def State.readBuffer (s : State) (px : List Byte) (upsets : List (Nat × List Byte)) : State × Option (List Byte) :=
  let x := lineBuffer px upsets
  let s := (List.range x.1).foldl (fun s _ => s.incFld RAS_BUF_CORR RAS_BUF_CORR_BUF_CORR) s
  (x.2.1.foldl (fun s w => (s.incFld RAS_BUF_CORR RAS_BUF_CORR_BUF_UNCORR).chipUncorr w) s, if x.2.1.isEmpty then some x.2.2 else none)

/-- A packet is received from SOL to EOL: its data stream and the number of its data blocks (R60, R62-R66), given what upsets do to it in the line buffer (R528). Norentum taps the packet ahead of the line buffer (log entry 68). The first packet after EN slips against nothing, one whose CRC or MAGIC fails leaves the expected SNS_LINE_NO as it is, and SAT counts from good packets only (log entry 72). -/
def State.packet (s : State) (n : Nat) (st : List Byte) (blocks : Nat) (upsets : List (Nat × List Byte)) : State × Option TapIn :=
  let p := s.linPort n
  let ps := (blocks + 1) * s.blockPs n
  match p.answers (s.tb - ps / 1000) with
  | none => (s, none)
  | some (i, k) =>
    match p.lines[i]? with
    | none => (s, none)
    | some l =>
      if !s.on (LIN_PORT_STAT n) LIN_PORT_STAT_LINK_UP then (s, none)
      else
        let whole := pktCrcOk l.pix st && leAt st 0 2 == 0x5A3C
        let ok := whole && leAt st 4 2 == l.pix && leAt st 2 1 / 64 == expectColour l.colour k && blocks == pktBlocks l.pix l.lanes
        let no := leAt st 8 4
        let slip := whole && (match p.snsNext with
          | some e => e != no
          | none => false)
        let s := if whole then s.modLin n (fun p => { p with snsNext := some ((no + 1) % 2 ^ 32) }) else s
        let s := if slip then s.incFld (LIN_LINK_ERR n) LIN_LINK_ERR_SEQ_SLIP_CNT else s
        let raw := (st.drop 32).take (3 * l.pix / 2)
        let (s, held) := s.readBuffer raw upsets
        let (s, tap) := s.putPlane n i k l (ok && held.isSome) (unpack12 (held.getD raw)) ((st.drop 16).take 16) (ok && held.isSome && bit (leAt st 3 1) 0) slip
        (s, tap.map (fun x => { x with good := ok, px := unpack12 raw }))

/-- SENSOR_PACKET (R60-R66, R528). -/
def execSensorPacket (n : Fin 4) (stream : List Byte) (blocks : Nat) (upsets : List (Nat × List Byte)) (s : State) : Out :=
  s.onIntake (fun s => s.packet n.val stream blocks upsets) Met.takeTap

/-- PACKET_MISSING: no SOL within the sequence time plus 4,000 ns after line start (R64, R66). -/
def execPacketMissing (n : Fin 4) (s : State) : Out :=
  s.onIntake (fun s =>
    match (s.linPort n).waits.head? with
    | none => (s, none)
    | some (i, k) =>
      match (s.linPort n).lines[i]? with
      | some l => if l.startTb + l.seqNs + 4000 ≤ s.tb then s.putPlane n.val i k l false [] [] false false else (s, none)
      | none => (s, none)) Met.takeTap

end Sys2Proof.Machine
end

