-- ==== Sys2Proof/Machine/Retain.lean ====
section
/-! DEFINITION. A completed line: tag, retention record and its coding, ring, relay, stream, detection; light barriers and the sealing of SIDEs (R19, R36-R38, R51, R88, R94-R104, R116, R448, R454). -/

namespace Sys2Proof.Machine

/-! ### Coding of a plane (R101-R103) -/

/-- Median of three. -/
def median3 (a b c : Int) : Int := max (min a b) (min (max a b) c)

/-- The coded magnitudes of a plane against its reference plane (R102). -/
def residuals : List Nat → List Nat → Int → Int → List Nat
  | [], _, _, _ => []
  | x :: xs, ps, a, c =>
    let b : Int := ps.headD 0
    let pred := median3 a b (a + b - c)
    let e := ((x : Int) - pred + 2048) % 4096 - 2048
    let m := if 0 ≤ e then (2 * e).toNat else (-2 * e - 1).toNat
    m :: residuals xs ps.tail x b

/-- Bits of one magnitude with parameter `k`. -/
def codeBits (k m : Nat) : List Bool :=
  let bits (w v : Nat) : List Bool := (List.range w).reverse.map (fun i => bit v i)
  let q := m >>> k
  if q < 24 then List.replicate q true ++ [false] ++ bits k m else List.replicate 24 true ++ bits 12 m

/-- Number of bits of a group with parameter `k`. -/
def groupLen (k : Nat) (ms : List Nat) : Nat := (ms.map (fun m => if m >>> k < 24 then (m >>> k) + 1 + k else 36)).foldl (· + ·) 0

/-- The smallest k in 0..11 that gives the fewest bits. -/
def groupK (ms : List Nat) : Nat :=
  ((List.range 12).foldl (fun (b : Nat × Nat) k => let l := groupLen k ms; if l < b.2 then (k, l) else b) (0, groupLen 0 ms)).1

/-- Bits of a plane, group by group of 16 pixels; `n` bounds the groups. -/
def groupBits : Nat → List Nat → List Bool
  | 0, _ => []
  | n + 1, ms =>
    if ms = [] then []
    else
      let g := ms.take 16
      let k := groupK g
      (List.range 4).reverse.map (fun i => bit k i) ++ g.flatMap (codeBits k) ++ groupBits n (ms.drop 16)

/-- Bits packed MSB first, zero-padded to a byte; `n` bounds the bytes. -/
def packRow : Nat → List Bool → List Byte
  | 0, _ => []
  | n + 1, l =>
    if l = [] then []
    else
      let g := l.take 8
      BitVec.ofNat 8 (((List.range 8).map (fun i => if g.getD i false then 2 ^ (7 - i) else 0)).foldl (· + ·) 0) :: packRow n (l.drop 8)

/-- A plane's header and body: coded, or RAW when coding would exceed 1.5 × N bytes (R101-R103). -/
def codePlane (xs ref : List Nat) : List Byte :=
  let bits := groupBits (xs.length + 1) (residuals xs ref 0 0)
  let body := packRow (bits.length + 1) bits
  if 3 * xs.length < 2 * body.length then
    let raw := pack12 xs
    leBytes 4 (2 ^ 31 + raw.length) ++ raw
  else leBytes 4 body.length ++ body

/-! ### Tag and record (R97, R101) -/

/-- Bits of a list of flags, the first the lowest. -/
def flagBits (l : List Bool) : Nat := ((List.range l.length).zip l).foldl (fun a x => a + (if x.2 then 2 ^ x.1 else 0)) 0

/-- The 32-byte line tag (R97). -/
def lineTag (sideId lineNo port : Nat) (l : LineRec) (streamGap : Bool) (recBytes : Nat) : List Byte :=
  let f := flagBits (l.packets.map (·.repaired)) + l.lampFault % 8 * 8 + b2n l.skipped * 64 + b2n l.gap * 128 + b2n l.resumed * 256
    + b2n streamGap * 512 + b2n (l.packets.any (·.sat)) * 1024 + b2n (l.packets.any (·.slip)) * 2048
  leBytes 4 sideId ++ leBytes 4 lineNo ++ leBytes 8 l.stamp.toNat ++ leBytes 4 l.hwm ++ leBytes 2 f ++ leBytes 1 port ++ zeros 1
    ++ leBytes 4 recBytes ++ zeros 4

/-- Bytes of the planes of a record. -/
def codedPlanes (planes prev : List (List Nat)) : List (List Byte) :=
  ((List.range planes.length).zip planes).map (fun x => codePlane x.2 (prev.getD x.1 []))

/-- Length of a retention record: the tag and its planes, padded to 32 bytes. -/
def recLength (coded : List (List Byte)) : Nat := cdiv (32 + (coded.map (·.length)).foldl (· + ·) 0) 32 * 32

/-! ### The retention ring (R104) -/

/-- Two stretches of a ring of `size` bytes overlap. -/
def ringOverlap (size a la b lb : Nat) : Bool := (b + size - a) % size < la || (a + size - b) % size < lb

/-- Whether a record of `len` bytes can be retained at the ring's place without overwriting a line of an unreleased PIECE. -/
def State.retFits (s : State) (n len : Nat) : Bool :=
  let size := s.retSize n
  let p := s.linPort n
  len ≤ size && !(p.retLines.any (fun l => ringOverlap size l.addr l.bytes.length p.retPos len && s.retKept l))

/-- Queue bytes for the ring, around its end (R98). -/
def State.retBytes (s : State) (n pos : Nat) (bs : List Byte) : State :=
  let base := s.pair (LIN_RET_BASE_LO n) / 4096 * 4096
  let room := s.retSize n - pos
  (s.retPush (base + pos) (bs.take room)).retPush base (bs.drop room)

/-- Retain a line's record. -/
def State.retain (s : State) (n side piece lineNo : Nat) (bs : List Byte) (planes : List (List Nat)) (repaired : Nat) (aux : List (List Byte)) : State :=
  let size := s.retSize n
  let pos := (s.linPort n).retPos
  let s := s.retBytes n pos bs
  s.modLin n (fun p => { p with
    retLines := (p.retLines.filter (fun l => !ringOverlap size l.addr l.bytes.length pos bs.length))
      ++ [{ side := s.itemId side, piece := s.itemId piece, lineNo := lineNo, addr := pos, bytes := bs, planes := planes, repaired := repaired, aux := aux }]
    retPos := (pos + bs.length) % size, prevPlanes := planes, prevSide := side })

/-! ### Reading retention back (R66, R529) -/

/-- The stretches of DRAM that a record of a port's ring lies in, around the ring's end. -/
def State.retSpans (s : State) (n : Nat) (l : RetLine) : List (Nat × Nat) :=
  let base := s.pair (LIN_RET_BASE_LO n) / 4096 * 4096
  let room := s.retSize n - l.addr
  [(base + l.addr, min room l.bytes.length), (base, l.bytes.length - room)].filter (fun p => p.2 ≠ 0)

/-- The plane of a record that a byte lies in, by the lengths in the plane headers; a byte of the tag or beyond the planes lies in none. -/
def planeAt (bytes : List Byte) (o : Nat) : Nat → Nat → Nat → Option Nat
  | 0, _, _ => none
  | n + 1, k, p =>
    let len := 4 + leAt bytes p 4 % 2 ^ 24
    if o < p then none else if o < p + len then some k else planeAt bytes o n (k + 1) (p + len)

/-- The planes of a record that lie, at least in part, in uncorrectable words. -/
def State.badPlanes (s : State) (n : Nat) (l : RetLine) : List Nat :=
  let base := s.pair (LIN_RET_BASE_LO n) / 4096 * 4096
  let size := max 1 (s.retSize n)
  let words := (s.retSpans n l).flatMap (fun p => s.dramBad p.1 p.2)
  (List.range l.planes.length).filter (fun k => words.any (fun w => (List.range 32).any (fun j =>
    let o := (32 * w + j + size - base % size + size - l.addr % size) % size
    base ≤ 32 * w + j && o < l.bytes.length && planeAt l.bytes o l.planes.length 0 32 == some k)))

/-- A record with some planes replaced by those of the line read before it, or by zeros: REPAIRED sets in its tag and its planes are coded anew (R66, R529; log entry 68). -/
def RetLine.patched (l : RetLine) (bad : List Nat) (prev : Option RetLine) : RetLine :=
  if bad = [] then l
  else
    let before (k : Nat) : List Nat := (prev.map (fun m => m.planes.getD k [])).getD []
    let planes := ((List.range l.planes.length).zip l.planes).map (fun x => if bad.contains x.1 then (before x.1 ++ List.replicate x.2.length 0).take x.2.length else x.2)
    let rep := (bad.map (fun k => 2 ^ k)).foldl (· ||| ·) l.repaired
    let coded := codedPlanes planes ((prev.map (·.planes)).getD [])
    let len := recLength coded
    let tag := l.bytes.take 20 ++ leBytes 2 (leAt l.bytes 20 2 ||| rep % 8) ++ (l.bytes.drop 22).take 2 ++ leBytes 4 len ++ zeros 4
    { l with bytes := fitTo len (tag ++ coded.flatten), planes := planes, repaired := rep }

/-- Read records of a port's ring, in order: a plane in an uncorrectable word is taken as in R66 from the line before it (R526, R529). `prev` is the line before the first. -/
def State.retRead (s : State) (n : Nat) : Option RetLine → List RetLine → State × List RetLine
  | _, [] => (s, [])
  | prev, l :: t =>
    let l' := l.patched (s.badPlanes n l) prev
    let s := (s.retSpans n l).foldl (fun s p => (s.didRead p.1 p.2).1) s
    let r := s.retRead n (some l') t
    (r.1, l' :: r.2)

/-- The retained line of a SIDE just before a line. -/
def State.lineBefore (s : State) (n : Nat) (l : RetLine) : Option RetLine :=
  (s.linPort n).retLines.find? (fun m => m.side == l.side && m.lineNo + 1 == l.lineNo)

/-- Read records of a SIDE on port `n`: those of this device's rings may meet bad words; lines taken over are read from the relay ring where they lie (R449, R529). -/
def State.readLines (s : State) (n : Nat) (ls : List RetLine) : State × List RetLine :=
  match ls with
  | [] => (s, [])
  | l :: _ => if n < 4 then s.retRead n (s.lineBefore n l) ls else (s, ls)

/-! ### A completed line (R88, R98-R104) -/

/-- A line of a SIDE that is not retained: the PIECE ends; RET_FULL sets, and retention stops, on a port whose own ring cannot take it or has stayed full (R104). -/
def State.retOverflow (s : State) (n i : Nat) (full : Bool) : State :=
  let s := if full then (s.raise (LIN_IRQ_STAT n) 10).modLin n (fun p => { p with retStopped := true }) else s
  if s.on HIF_STAT HIF_STAT_OUTPUT_STALL then s.endPiece i .notReadOutputStall .none else s.endPiece i .error .retOverflow

/-- Stream a line to the Pitch, or leave a gap when the port's buffer is full (R99). Lines that nothing takes any more leave the buffer. -/
def State.streamLine (s : State) (n side lineNo : Nat) (tag : List Byte) (planes : List (List Nat)) : State :=
  let live := (s.linPort n).stream.filter s.streamLive
  if live.length < 16 then
    s.modLin n (fun p => { p with stream := live ++ [{ tag := tag, side := s.itemId side, lineNo := lineNo, planes := planes }], streamGap := false })
  else
    ((s.modLin n (fun p => { p with stream := live, streamGap := true })).incFld (LIN_RET_STAT n) LIN_RET_STAT_STREAM_GAP_CNT).raise (LIN_IRQ_STAT n) 9

/-- Relay the planes of a retained line (R448). -/
def State.relayLine (s : State) (i : Nat) (tag : List Byte) (coded : List (List Byte)) : State :=
  match tfind s.pieces i with
  | none => s
  | some p =>
    if !p.relayed then s
    else ((List.range coded.length).zip coded).foldl (fun s x =>
      s.relay 0x21 i (tag ++ leBytes 1 x.1 ++ zeros 1 ++ leBytes 6 (s.item i).deadline ++ x.2)) s

/-- A line that lies in an OPEN SIDE: calibrated, retained, relayed, streamed; detection opens and seals REGIONs (R19, R98-R104, R113). Lines after the emission point are not streamed or retained (R51). Where the buffer toward the Pitch is full, so that the line itself is not streamed, its retained tag carries STREAM_GAP 0 whether or not the line before it was streamed: R97 and R99 leave that open (DESIGN CHOICE, log entry 72). -/
def State.sideLine (s : State) (n x : Nat) (l : LineRec) (found : List Found) : State :=
  match tfind s.sides x with
  | none => s
  | some d =>
    match tfind s.pieces d.piece with
    | none => s
    | some p =>
      if p.recorded then s
      else
      let p0 := s.linPort n
      let s := (List.range l.packets.length).foldl (fun s c => s.calUse n l.bank c) s
      let planes := ((List.range l.packets.length).zip l.packets).map (fun y => s.calPlane n l.bank y.1 y.2.pixels)
      let coded := codedPlanes planes (if p0.prevSide = x && d.nextLine ≠ 0 then p0.prevPlanes else [])
      let len := recLength coded
      if p.retStop || !s.retFits n len then s.retOverflow n d.piece (!s.retFits n len || p0.retStopped)
      else
        let full := 16 ≤ (p0.stream.filter s.streamLive).length
        let tag := lineTag (s.itemId x) d.nextLine n l (p0.streamGap && !full) len
        let s := s.retain n x d.piece d.nextLine (fitTo len (tag ++ coded.flatten)) planes (flagBits (l.packets.map (·.repaired))) (l.packets.map (·.aux))
        let s := s.relayLine d.piece tag coded
        let s := s.streamLine n x d.nextLine tag planes
        let s := { s with sides := tput s.sides x { d with nextLine := d.nextLine + 1, lastLine := some d.nextLine } }
        let s := found.foldl (fun s f => s.openRegion x n d.piece f) s
        (s.sealReady x (some d.nextLine)).freshRet

/-- LINE_COMPLETE: the oldest line of a port has all its packets (R51, R88, R98, R119). `leading` says that detection sees an image leading edge on a line outside every SIDE, `found` the text areas that this line completes. -/
def execLineComplete (n : Fin 4) (leading : Bool) (found : List Found) (s : State) : Out :=
  s.onMain (fun s =>
    let n := n.val
    match (s.linPort n).lines with
    | [] => s
    | l :: rest =>
      if !l.full || l.flush then s
      else
        let s := (s.modLin n (fun p => { p with lines := rest })).capLine n l
        match l.side with
        | some x =>
          let s := (tfind s.sides x).elim s (fun d => s.duePoint d.piece)
          if (s.item x).state = .opened then s.sideLine n x l found else s
        | none =>
          let src := s.asWritten (LIN_GATE_CFG n) LIN_GATE_CFG_OPEN_SRC
          if leading && (src = 1 || src = 2) then (s.openEvent n 2 l.stamp none).2 else s)

/-! ### Light barriers (R94, R95) -/

/-- A level of barrier `k` counts as blocked (R94). -/
def State.blockedLevel (s : State) (k : Nat) (level : Bool) : Bool := level != s.on (LIN_BAR_CFG k) LIN_BAR_CFG_POL

/-- Set the BLOCKED bit of a barrier. -/
def State.setBlocked (s : State) (k : Nat) (b : Bool) : State :=
  let w := s.fld LIN_BAR_STAT LIN_BAR_STAT_BLOCKED
  s.setFld LIN_BAR_STAT LIN_BAR_STAT_BLOCKED (if b then w ||| 2 ^ k else w &&& (0xFF ^^^ 2 ^ k))

/-- Ports whose opening event is the blocking edge of barrier `k`, masters before slaves (R36, R38). -/
def State.barrierPorts (s : State) (k : Nat) : List Nat :=
  let mine := (List.range 4).filter (fun n =>
    let src := s.asWritten (LIN_GATE_CFG n) LIN_GATE_CFG_OPEN_SRC
    s.asWritten (LIN_GATE_CFG n) LIN_GATE_CFG_BAR_SEL = k && (src = 0 || src = 2))
  mine.filter (fun n => !s.isSlave n) ++ mine.filter s.isSlave

/-- The filters of the encoders and barriers start: the levels found at the pins become the accepted levels without an edge, and BLOCKED follows (R74, R94; log entry 25). -/
def State.findLevels (s : State) (enc : Tbl (Bool × Bool)) (bar : Tbl Bool) : State :=
  let s := { s with
    enc := enc.map (fun e => (e.1, { (default : EncSt) with a := e.2.1, b := e.2.2 }))
    bar := bar.map (fun k => (k.1, { known := true, level := k.2, since := s.tb, jammed := false })) }
  bar.foldl (fun s k => s.setBlocked k.1 (s.blockedLevel k.1 k.2)) s

/-- The filters of the encoders and barriers start, with the levels of every pin. -/
def State.findPins (s : State) (pins : PinLevels) : State :=
  s.findLevels ((List.range 4).map (fun e => (e, pinAb pins e))) ((List.range 8).map (fun k => (k, pins.bar.getD k false)))

/-- A blocking edge: reference events first (log entry 73), then opening events and shadow pieces (R36, R37, R95, R116, R454). -/
def State.blockEdge (s : State) (k : Nat) (stamp : Stamp) : State :=
  let s := ((List.range 4).filter (fun n => s.fld (CAL_CFG n) CAL_CFG_REF_BAR = k && s.fld (CAL_CFG n) CAL_CFG_REF_SRC = 0)).foldl (fun s n => s.refEvent n) s
  let s := if (tget default s.bar k).jammed then s
           else (s.barrierPorts k).foldl (fun s n => (s.openEvent n 1 stamp none).2) s
  if !s.kol.tookOver then s
  else
    ((List.range 4).filter (fun p => bit (s.fld KOL_CATCH_CFG KOL_CATCH_CFG_SHADOW_EN) p && s.fld KOL_CATCH_CFG KOL_CATCH_CFG_SHADOW_BAR / 8 ^ p % 8 = k)).foldl
      (fun s p => s.shadowPiece p stamp) s

/-- BARRIER_EDGE: an edge of barrier `k` to `level` at `stamp`, accepted once the level has stood for BAR_FILT_US (R94). -/
def execBarrierEdge (k : Fin 8) (level : Bool) (stamp : Stamp) (s : State) : Out :=
  s.onMain (fun s =>
    let k := k.val
    let b := tget default s.bar k
    if b.known && b.level == level || !s.stood stamp (s.fld (LIN_BAR_CFG k) LIN_BAR_CFG_BAR_FILT_US * 1000) then s
    else
      let blocked := s.blockedLevel k level
      let s := { s with bar := tput s.bar k { known := true, level := level, since := s.tbAt stamp, jammed := b.jammed && blocked } }.setBlocked k blocked
      if blocked then s.blockEdge k stamp
      else ((List.range 4).filter (fun n => s.fld (LIN_GATE_CFG n) LIN_GATE_CFG_BAR_SEL = k)).foldl (fun s n => s.trailingEdge n stamp) s)

/-- BARRIER_JAM: a barrier has stayed blocked longer than JAM_MS (R95). -/
def execBarrierJam (k : Fin 8) (s : State) : Out :=
  s.onMain (fun s =>
    let k := k.val
    let b := tget default s.bar k
    let ms := s.fld (LIN_BAR_CFG k) LIN_BAR_CFG_JAM_MS
    if b.known && s.blockedLevel k b.level && ms ≠ 0 && b.since + ms * 1000000 < s.tb then
      let s := { s with bar := tput s.bar k { b with jammed := true } }
      s.setFld LIN_BAR_STAT LIN_BAR_STAT_JAM_SEEN (s.fld LIN_BAR_STAT LIN_BAR_STAT_JAM_SEEN ||| 2 ^ k)
    else s)

/-! ### SIDE_SEAL (R19) -/

/-- SIDE_SEAL: the trailing edge has passed and detection has flushed its look-ahead, finding the text areas `found`; a SIDE whose edge detection itself finds ends at its last line (R19; log entry 34). -/
def execSideSeal (side : Nat) (found : List Found) (s : State) : Out :=
  s.onMain (fun s =>
    match tfind s.sides side with
    | none => s
    | some d =>
      let s := s.duePoint d.piece
      if (s.item side).state ≠ .opened || (d.barrier && d.trail.isNone) || (s.linPort d.port).lines.any (fun l => l.side == some side) then s
      else
        let s := if d.trail.isSome then s
          else
            let t := s.now
            let s := { s with sides := tput s.sides side { d with trail := some t } }
            let s := s.modPiece d.piece (fun p => if p.port = d.port || p.pairFault && p.trailStamp.isNone then { p with trailStamp := some t } else p)
            s.modLin d.port (fun p => if p.curSide = some side then { p with curSide := none } else p)
        let s := s.sealSide side
        let s := found.foldl (fun s f => s.openRegion side d.port d.piece f) s
        ((s.sealReady side none).pieceCheck d.piece).tidy)

end Sys2Proof.Machine
end

