-- ==== Sys2Proof/Machine/Takeover.lean ====
section
/-! DEFINITION. Taking over a relayed PIECE: its planes decoded, its SIDEs and lines put in place, or its record with DEVICE_LOST (R101-R103, R452, R453). -/

namespace Sys2Proof.Machine

/-! ### Decoding of a plane (R101-R103) -/

/-- A number of `w` bits, MSB first, and the bits after it. -/
def takeNat : Nat → List Bool → Nat × List Bool
  | 0, l => (0, l)
  | w + 1, l => let r := takeNat w l.tail; (b2n (l.headD false) * 2 ^ w + r.1, r.2)

/-- Count ones up to `n`; a zero that ends them earlier is taken as well. -/
def takeOnes : Nat → List Bool → Nat × List Bool
  | 0, l => (0, l)
  | _ + 1, [] => (0, [])
  | _ + 1, false :: t => (0, t)
  | n + 1, true :: t => let r := takeOnes n t; (r.1 + 1, r.2)

/-- `n` magnitudes of a group with parameter `k`. -/
def takeMags (k : Nat) : Nat → List Bool → List Nat × List Bool
  | 0, l => ([], l)
  | n + 1, l =>
    let q := takeOnes 24 l
    let v := if q.1 = 24 then takeNat 12 q.2 else let r := takeNat k q.2; (q.1 * 2 ^ k + r.1, r.2)
    let t := takeMags k n v.2
    (v.1 :: t.1, t.2)

/-- The magnitudes of `left` pixels, group by group of 16; `n` bounds the groups. -/
def takeGroups : Nat → Nat → List Bool → List Nat
  | 0, _, _ => []
  | n + 1, left, l =>
    if left = 0 then []
    else
      let k := takeNat 4 l
      let g := takeMags k.1 (min 16 left) k.2
      g.1 ++ takeGroups n (left - 16) g.2

/-- Pixels from magnitudes and the reference plane (R102). -/
def fromMags : List Nat → List Nat → Int → Int → List Nat
  | [], _, _, _ => []
  | m :: ms, ps, a, c =>
    let b : Int := ps.headD 0
    let e : Int := if m % 2 = 0 then (m / 2 : Nat) else -(((m + 1) / 2 : Nat) : Int)
    let x := (median3 a b (a + b - c) + e) % 4096
    x.toNat :: fromMags ms ps.tail x b

/-- Bits of bytes, MSB first. -/
def bitsOf (l : List Byte) : List Bool := l.flatMap (fun b => (List.range 8).map (fun i => bit b.toNat (7 - i)))

/-- A plane of `n` pixels from its header and body, against its reference (R101-R103). -/
def decodePlane (n : Nat) (d : List Byte) (ref : List Nat) : List Nat :=
  let h := leAt d 0 4
  let body := (d.drop 4).take (h % 2 ^ 24)
  if bit h 31 then ((unpack12 body) ++ List.replicate n 0).take n
  else fromMags (takeGroups (n / 16 + 1) n (bitsOf body)) ref 0 0

/-! ### Relayed lines by SIDE -/

/-- The SIDE, the line number and the port in a line tag (R97). -/
def tagSide (t : List Byte) : Nat := leAt t 0 4
def tagLine (t : List Byte) : Nat := leAt t 4 4
def tagPort (t : List Byte) : Nat := leAt t 22 1

/-- The SIDEs that the lines of a relayed PIECE name, in the order of their first line. -/
def RelayPiece.sideIds (r : RelayPiece) : List Nat := (r.lines.map (fun l => tagSide l.1)).eraseDups

/-- The SIDEs of a relayed PIECE with their ports: those that its lines name, then those sealed without a line, which count as its own port's; its own port's SIDE is there even where nothing of it has come (log entry 61). -/
def RelayPiece.sidePorts (r : RelayPiece) : List (Nat × Nat) :=
  let own := r.body.port
  let l := r.sideIds.map (fun id => (((r.lines.find? (fun l => tagSide l.1 == id)).map (fun l => tagPort l.1)).getD own, id))
  let bare := ((r.seals.map (fun y => y.1.toNat)).filter (fun id => !r.sideIds.contains id)).eraseDups.map (fun id => (own, id))
  let l := l ++ bare
  if l.any (fun x => x.1 == own) then l else (own, 0) :: l

/-- The trailing-edge stamp of a SIDE relayed as sealed. -/
def RelayPiece.sealOf (r : RelayPiece) (id : Nat) : Option Stamp := (r.seals.find? (fun y => y.1.toNat == id)).map (·.2.2)

/-- The lines of a SIDE decoded in order: tag and planes (log entry 59: a plane has as many pixels as this device's port of the same number). -/
def decodeLines (n : Nat) (lines : List (List Byte × Byte × List Byte)) : List (Nat × List Byte × List (List Nat)) :=
  let nos := (lines.map (fun l => tagLine l.1)).eraseDups
  (nos.foldl (fun (acc : List (Nat × List Byte × List (List Nat)) × List (List Nat)) k =>
    let mine := (lines.filter (fun l => tagLine l.1 == k)).mergeSort (fun a b => decide (a.2.1.toNat ≤ b.2.1.toNat))
    let planes := mine.map (fun l => decodePlane n l.2.2 (acc.2.getD l.2.1.toNat []))
    (acc.1 ++ [(k, (mine.headD default).1, planes)], planes)) ([], [])).1

/-! ### A PIECE taken over (R452, R453) -/

/-- Open a SIDE of a taken-over PIECE with its relayed lines, which seals once detection has flushed; none when no entry may be taken. -/
def State.takeSide (s : State) (i port id : Nat) (r : RelayPiece) : Option State :=
  let e := s.item i
  if !s.canOpen e.cls then none
  else
    match s.alloc none .side e.cls i e.part (4 + port) e.orderKey e.deadline e.openStamp with
    | none => none
    | some (x, s) =>
      let lines := decodeLines (s.fld (LIN_PORT_CFG port) LIN_PORT_CFG_PIX) (r.lines.filter (fun l => tagSide l.1 == id))
      let edge := r.sealOf id
      let last := (lines.getLast?).map (·.1)
      let d : Side := { piece := i, port := 4 + port, nextLine := (last.map (· + 1)).getD 0, lastLine := last, trail := some (edge.getD s.now), barrier := false, flushed := false }
      let s := { s with sides := tput s.sides x d }
      let ret := lines.map (fun l => ({ side := s.itemId x, piece := s.itemId i, lineNo := l.1, addr := 0, bytes := [], planes := l.2.2, repaired := leAt l.2.1 20 2 % 8, aux := [] } : RetLine))
      let str := lines.map (fun l => ({ tag := l.2.1, side := s.itemId x, lineNo := l.1, planes := l.2.2 } : StreamLine))
      let s := s.modLin (4 + port) (fun p => { p with retLines := p.retLines.filter (fun l => (s.liveItem l.side).isSome) ++ ret, stream := p.stream.filter s.streamLive ++ str })
      match tfind s.pieces i with
      | some p => some (s.detectReady p.playbook p.fn x)
      | none => some s

/-- Open the SIDEs of a taken-over PIECE, each with its source port and ID; a BE one waits while entries are short. True when none failed (R26, R27). -/
def State.takeSides (s : State) (i : Nat) (r : RelayPiece) : List (Nat × Nat) → State × Bool
  | [] => (s, true)
  | (port, id) :: t =>
    match s.takeSide i port id r with
    | some s => s.takeSides i r t
    | none =>
      if (s.item i).cls = .be then
        State.takeSides { s with beWait := s.beWait ++ [{ (default : BeWait) with typ := .side, parent := i, side := port, key := id, taken := some r }] } i r t
      else (s, false)

/-- Take over a relayed PIECE whose entry is free: it is read in `CATCH_PART`, or ends with DEVICE_LOST at its emission point (R452, R453; log entries 58 and 59). -/
def State.placeTaken (s : State) (r : RelayPiece) : State :=
  let b := r.body
  let part := s.fld KOL_CATCH_CFG KOL_CATCH_CFG_CATCH_PART
  let cls : Cls := if b.cls = 0 then .lc else .be
  let pb := b.playbook.toNat
  let lost := r.gap || (s.playbook pb).isNone
  let ctx := s.fabricCtx part cls pb
  let point := if b.gateMode = 0 || r.deadline = 0 then none else some r.deadline
  let sides := r.sidePorts
  let sealed := sides.all (fun x => (r.sealOf x.2).isSome)
  let trail := (sides.find? (fun x => x.1 == b.port)).bind (fun x => r.sealOf x.2)
  let p : Piece := { (default : Piece) with
    takenOver := true, origin := s.kol.source, srcItem := b.item.toNat, srcPort := b.port, srcKey := b.orderKey.toNat, port := 4 + b.port, gateMode := b.gateMode
    lateEn := true, emitPoint := point, openStamp := b.openStamp, playbook := pb, fn := (ctx.map (·.2.fn)).getD 0, trailStamp := trail
    trailMissing := !sealed, reason := if lost then .deviceLost else .none }
  match s.alloc none .piece cls 0 part (4 + b.port) b.orderKey.toNat (point.getD 0) (ns48 b.openStamp) with
  | none => s.exhausted p part b.orderKey.toNat cls
  | some (i, s) =>
    let s := { s with pieces := tput s.pieces i p }
    if lost then (if point.isNone then s.endPiece i .error .deviceLost else s)
    else if ctx.isNone then s.endPiece i .error .noContext
    else
      match s.takeSides i r sides with
      | (s, true) => s
      | (s, false) => s.endPiece i .error .itemExhausted

/-- Take over one relayed PIECE: its messages are read from the relay ring, where an uncorrectable word makes it a gap (R529); without a free entry an LC one is answered at once, a BE one waits (R26, R27, R452). -/
def State.takePiece (s : State) (key : Nat) (r : RelayPiece) : State :=
  let cls : Cls := if r.body.cls = 0 then .lc else .be
  if cls = .be && 0 < s.freeItems && !s.canOpen .be then { s with beWait := s.beWait ++ [{ (default : BeWait) with typ := .piece, relay := some key }] }
  else
    let s := r.places.foldl (fun s p => (s.didRead p.1 p.2).1) s
    let s := s.placeTaken ((tfind s.kol.relayIn key).getD r)
    { s with kol := { s.kol with relayIn := tdel s.kol.relayIn key } }

end Sys2Proof.Machine
end

