-- ==== Sys2Proof/Machine/KolMsg.lean ====
section
/-! DEFINITION. Messages of the fabric: transactions, line relay and the catch partner, escalation (R437-R439, R447-R456). -/

namespace Sys2Proof.Machine

/-! ### Transactions (R437-R439) -/

/-- The stored reply of a transaction that has been completed (R438). -/
def State.doneTxn (s : State) (src txn : Nat) : Option (List Byte) := (s.kol.txnDone.find? (fun t => t.src == src && t.txn == txn)).map (·.reply)

/-- Answer a transaction with RESP and keep the reply for repeats (R438). -/
def State.resp (s : State) (src vc txn status : Nat) : State :=
  let msg := mkMsg 0x12 status 0 txn s.now [] []
  ({ s with kol := { s.kol with txnDone := (TxnDone.mk src txn msg :: s.kol.txnDone).take 1024 } }).sendTo src vc msg

/-- A FABRIC_POST record (R508). -/
def postRecord (src vc txn : Nat) (stamp : Stamp) (arg : Nat) (body : List Byte) : List Byte :=
  padTo 32 (leBytes 1 5 ++ zeros 1 ++ leBytes 2 (cdiv (32 + body.length) 32) ++ leBytes 1 src ++ leBytes 1 vc ++ zeros 2 ++ leBytes 4 txn ++ leBytes 4 body.length
    ++ leBytes 8 stamp.toNat ++ leBytes 8 arg ++ body)

/-- POST received: its record goes to ring ARG[5:0], or RESP carries QUEUE_FULL (R438, R439, R508). -/
def execPost (src : BitVec 8) (vc : BitVec 2) (txn : Word) (stamp : Stamp) (arg : BitVec 64) (body : List Byte) (s : State) : Out :=
  s.onMain (fun s =>
    let s := s.took src.toNat 0x10
    if s.addr?.isNone then s
    else
      match s.doneTxn src.toNat txn.toNat with
      | some m => s.sendTo src.toNat vc.toNat m
      | none =>
        let ring := arg.toNat % 64
        match (if s.hold.any (fun h => h.ring == ring) then none else s.ringWrite ring [postRecord src.toNat vc.toNat txn.toNat stamp arg.toNat body]) with
        | some s => s.resp src.toNat vc.toNat txn.toNat 0
        | none => s.resp src.toNat vc.toNat txn.toNat 2)

/-- WRITE received: the body goes into the window ARG[2:0] at offset ARG[63:32] when the range lies in it and it admits the source, or RESP carries WINDOW (R438, R439). -/
def execWriteMsg (src : BitVec 8) (vc : BitVec 2) (txn : Word) (arg : BitVec 64) (body : List Byte) (s : State) : Out :=
  s.onMain (fun s =>
    let s := s.took src.toNat 0x11
    if s.addr?.isNone then s
    else
      match s.doneTxn src.toNat txn.toNat with
      | some m => s.sendTo src.toNat vc.toNat m
      | none =>
        let k := arg.toNat % 8
        let off := arg.toNat / 2 ^ 32
        let cfg := KOL_WIN_CFG k
        let admits := s.on cfg KOL_WIN_CFG_VALID && (s.on cfg KOL_WIN_CFG_ANY_SRC || s.fld cfg KOL_WIN_CFG_SRC == src.toNat)
        if admits && off + body.length ≤ s.num (KOL_WIN_SIZE k) * 1024 then
          (s.dwrite (s.pair (KOL_WIN_BASE_LO k) / 4096 * 4096 + off) body).resp src.toNat vc.toNat txn.toNat 0
        else s.resp src.toNat vc.toNat txn.toNat 1)

/-- RESP received: the command that waits for it completes (R438, R439; log entry 60). -/
def execResp (src : BitVec 8) (txn : Word) (status : Byte) (s : State) : Out :=
  s.onMain (fun s =>
    let s := s.took src.toNat 0x12
    match tfind s.kol.txns txn.toNat with
    | none => s
    | some t =>
      match t.cmd with
      | some (q, pos) =>
        if t.dst ≠ src.toNat then s
        else
          let s := { s with kol := { s.kol with txns := tdel s.kol.txns txn.toNat } }
          s.complete q pos (if status = 0 then .ok else Config.respStatus status.toNat) 0 txn.toNat
      | none => s)

/-- TXN_TIMEOUT: unanswered for 500 µs, a transaction is sent again; after the third resend it fails (R438, R444). -/
def execTxnTimeout (txn : Word) (s : State) : Out :=
  s.onMain (fun s =>
    let n := txn.toNat
    match tfind s.kol.txns n with
    | none => s
    | some t =>
      if s.kol.huddle.running || s.tb < t.sentTb + 500000 then s
      else if t.sends < 4 then
        let s := { s with kol := { s.kol with txns := tput s.kol.txns n { t with sends := t.sends + 1, sentTb := s.tb } } }
        t.msgs.foldl (fun s d => if (tfind s.kol.txns n).isSome then s.sendTxn t.dst t.vc d (s.txnPart t) else s) (s.incFld KOL_TXN_CNT KOL_TXN_CNT_TXN_RETRY)
      else ((s.incFld KOL_TXN_CNT KOL_TXN_CNT_TXN_FAIL).raise KOL_G_IRQ_STAT 5).failTxn n .fabTimeout)

/-! ### Relay, on the partner (R448-R450) -/

/-- A relay message is accepted when its sequence is the next one (R449). -/
def State.relayNext (s : State) (seq : Word) (f : State → State) : State :=
  if s.kol.source.isNone || seq.toNat ≠ (s.kol.relayExp + 1) % 2 ^ 32 then s
  else f { s with kol := { s.kol with relayExp := seq.toNat } }

/-- The stretches of DRAM that `n` bytes of the relay ring take from the next place on, around its end (R449). -/
def State.relaySpans (s : State) (n : Nat) : List (Nat × Nat) :=
  let base := s.pair KOL_RELAY_BASE_LO / 4096 * 4096
  let size := s.fld KOL_RELAY_SIZE KOL_RELAY_SIZE_SIZE_MIB * 0x100000
  [(base + s.kol.relayPos, min n (size - s.kol.relayPos)), (base, n - (size - s.kol.relayPos))].filter (fun p => p.2 ≠ 0)

/-- `n` bytes fit in the relay ring without covering a message of a PIECE that is held (R449). -/
def State.relayFits (s : State) (n : Nat) : Bool :=
  n ≤ s.fld KOL_RELAY_SIZE KOL_RELAY_SIZE_SIZE_MIB * 0x100000
    && (s.relaySpans n).all (fun p => s.kol.relayIn.all (fun r => r.2.places.all (fun q => p.1 + p.2 ≤ q.1 || q.1 + q.2 ≤ p.1)))

/-- Store the `n` body bytes of a message of one PIECE in the relay ring, in order; without room the PIECE's messages are discarded and it is marked RELAY_GAP (R449; log entry 61). -/
def State.relayStore (s : State) (key n : Nat) (body : List Byte) : State × Bool :=
  match tfind s.kol.relayIn key with
  | none => (s, false)
  | some r =>
    if r.gap then (s, false)
    else if s.relayFits n then
      let spans := s.relaySpans n
      let t := spans.foldl (fun (x : State × List Byte) p => (x.1.dwrite p.1 (fitTo p.2 x.2), x.2.drop p.2)) (s, body)
      let size := s.fld KOL_RELAY_SIZE KOL_RELAY_SIZE_SIZE_MIB * 0x100000
      (({ t.1 with kol := { t.1.kol with relayPos := (s.kol.relayPos + n) % size } }).modRelay key (fun r => { r with places := r.places ++ spans }), true)
    else ((s.modRelay key (fun r => { r with gap := true, places := [], lines := [], seals := [] })).raise KOL_G_IRQ_STAT 4, false)

/-- RELAY_OPEN received (R448, R449). -/
def execRelayOpen (seq : Word) (body : RelayOpenBody) (s : State) : Out :=
  s.onMain (fun s =>
    let s := s.took (s.kol.source.getD 0) 0x20
    s.relayNext seq (fun s =>
      let key := body.item.toNat
      let r : RelayPiece := { body := body, lines := [], places := [], deadline := body.deadline.toNat, seals := [], gap := false, done := false }
      let s := { s with kol := { s.kol with relayIn := tput s.kol.relayIn key r, lastKey := tput s.kol.lastKey (body.port % 4) body.orderKey.toNat } }
      (s.relayStore key 40 (Config.msgBody 0x20 [key, body.orderKey.toNat, body.port, body.cls, body.openStamp.toNat, body.gateMode, body.deadline.toNat, body.playbook.toNat])).1))

/-- The relayed PIECE that a line belongs to: the one that holds its SIDE; for a new SIDE the latest opened on its port without lines from there, else the oldest without a SIDE from its port, as R36 pairs them (log entry 61). -/
def State.relayOwner (s : State) (tag : List Byte) : Option Nat :=
  let l := s.kol.relayIn
  let key (x : Nat × RelayPiece) : Nat := x.2.body.orderKey.toNat
  match l.find? (fun x => x.2.lines.any (fun y => tagSide y.1 == tagSide tag)) with
  | some x => some x.1
  | none =>
    let free := l.filter (fun x => !x.2.lines.any (fun y => tagPort y.1 == tagPort tag))
    let own := free.filter (fun x => x.2.body.port == tagPort tag)
    let best (later : Bool) (xs : List (Nat × RelayPiece)) : Option (Nat × RelayPiece) :=
      xs.foldl (fun (b : Option (Nat × RelayPiece)) x =>
        match b with
        | none => some x
        | some y => if decide (0 < sdiff 32 (key x) (key y)) == later then some x else some y) none
    ((best true own).or (best false free)).map (·.1)

/-- RELAY_LINE received: a plane of a retained line, and the DEADLINE now in force (R448, R449). -/
def execRelayLine (seq : Word) (tag : List Byte) (plane : Byte) (deadline : BitVec 48) (data : List Byte) (s : State) : Out :=
  s.onMain (fun s =>
    let s := s.took (s.kol.source.getD 0) 0x21
    s.relayNext seq (fun s =>
      match s.relayOwner tag with
      | none => s
      | some key =>
        let s := s.modRelay key (fun r => { r with deadline := deadline.toNat })
        match s.relayStore key (40 + data.length) (tag ++ leBytes 1 plane.toNat ++ zeros 1 ++ leBytes 6 deadline.toNat ++ data) with
        | (s, true) => s.modRelay key (fun r => { r with lines := r.lines ++ [(tag, plane, data)] })
        | (s, false) => s))

/-- The relayed PIECE whose SIDE seals: the one that holds its lines; for a SIDE without a line the oldest that has neither line nor seal (log entry 61). -/
def State.sealOwner (s : State) (side : Nat) : Option Nat :=
  match s.kol.relayIn.find? (fun x => x.2.lines.any (fun y => tagSide y.1 == side)) with
  | some x => some x.1
  | none =>
    ((s.kol.relayIn.filter (fun x => x.2.lines = [] && x.2.seals = [])).foldl (fun (b : Option (Nat × RelayPiece)) x =>
      match b with
      | none => some x
      | some y => if sdiff 32 x.2.body.orderKey.toNat y.2.body.orderKey.toNat < 0 then some x else some y) none).map (·.1)

/-- RELAY_SEAL received (R448, R449, R452). -/
def execRelaySeal (seq : Word) (item : Word) (lastLine : Word) (trail : Stamp) (s : State) : Out :=
  s.onMain (fun s =>
    let s := s.took (s.kol.source.getD 0) 0x22
    s.relayNext seq (fun s =>
      match s.sealOwner item.toNat with
      | none => s
      | some key =>
        match s.relayStore key 16 (Config.msgBody 0x22 [item.toNat, lastLine.toNat, trail.toNat]) with
        | (s, true) => s.modRelay key (fun r => { r with seals := r.seals ++ [(item, lastLine, trail)] })
        | (s, false) => s))

/-- RELAY_RESULT received: with the last part of the record RESULT_ACK goes back, and the PIECE's relay data are freed (R450, R506; log entries 11 and 102). -/
def execRelayResult (seq : Word) (record : List Byte) (s : State) : Out :=
  s.onMain (fun s =>
    let s := s.took (s.kol.source.getD 0) 0x23
    s.relayNext seq (fun s =>
      let key := leAt record 4 4
      if bit (leAt record 17 1) 0 then s
      else
      let s := { s with kol := { s.kol with relayIn := tdel s.kol.relayIn key } }
      s.sendTo (s.kol.source.getD 0) vcLc (mkMsg 0x24 0 0 0 s.now [] (Config.msgBody 0x24 [key]))))

/-! ### Relay, on the source (R447-R451) -/

/-- RESULT_ACK received: the retained image is released (R52, R450). -/
def execResultAck (item : Word) (s : State) : Out :=
  s.onMain (fun s =>
    let s := s.took ((s.partner?).getD 0) 0x24
    match s.liveItem item.toNat with
    | none => s
    | some i =>
      let s := { s with kol := { s.kol with relayOut := s.kol.relayOut.filter (fun m => m.item != i) } }
      (s.modPiece i (fun p => { p with released := true })).tidy)

/-- HEARTBEAT_SEND: the highest relay sequence accepted from the partner (R447). -/
def execHeartbeatSend (s : State) : Out :=
  s.onMain (fun s =>
    match s.partner? with
    | some d => s.sendTo d vcCtl (mkMsg 0x25 0 0 0 s.now (leBytes 4 s.kol.relayExp) [])
    | none => s)

/-- A relay message as it is sent again: a RELAY_LINE is read from retention again, and carries the DEADLINE of now; a plane that an uncorrectable word has cost is sent as its replacement with its REPAIRED flag (R449, R529). -/
def State.relayBody (s : State) (m : RelayOut) : State × List Byte :=
  if m.kind = 0x21 then
    let b := m.bytes.take 34 ++ leBytes 6 (s.item m.item).deadline ++ m.bytes.drop 40
    let k := leAt b 32 1
    let n := tagPort b
    match (s.linPort n).retLines.find? (fun l => l.side == tagSide b && l.lineNo == leAt b 4 4) with
    | some l =>
      let r := s.readLines n [l]
      match r.2 with
      | l' :: _ =>
        if !bit l'.repaired k || bit (leAt b 20 2) k then (r.1, b)
        else
          let prev := ((s.lineBefore n l).map (fun p => p.planes.getD k [])).getD []
          (r.1, b.take 20 ++ leBytes 2 (leAt b 20 2 + 2 ^ k) ++ (b.drop 22).take 18 ++ codePlane (l'.planes.getD k []) prev)
      | [] => (r.1, b)
    | none => (s, b)
  else (s, m.bytes)

/-- HEARTBEAT received: the silence timer restarts; a report that stands still before messages not yet accepted shows a gap, and every message after it is sent again (R447, R449, R451; log entry 61). -/
def execHeartbeat (src : BitVec 8) (accepted : Word) (s : State) : Out :=
  s.onMain (fun s =>
    let s := s.took src.toNat 0x25
    if s.partner? ≠ some src.toNat then s
    else
      let a := accepted.toNat
      let rest := s.kol.relayOut.filter (fun m => decide (0 < sdiff 32 m.seq a))
      let still := s.kol.hbTb.isSome && s.kol.hbAccepted == a
      let s := { s with kol := { s.kol with hbTb := some s.tb, hbAccepted := a, partnerLost := false, tookOver := false, relayOut := rest } }
      if still && !s.kol.relayStopped then
        rest.foldl (fun s m => let b := s.relayBody m; b.1.sendTo src.toNat vcLc (mkMsg m.kind 0 0 0 s.now (leBytes 4 m.seq) b.2)) s
      else s)

/-- The source stops relaying to a partner that is lost (R451, R538). -/
def State.partnerGone (s : State) (d : Nat) : State :=
  let s := { s with kol := { s.kol with partnerLost := true, relayStopped := true, relayOut := [] }
                    pieces := tmap s.pieces (fun _ p => { p with relayed := false }) }
  ((s.raise KOL_G_IRQ_STAT 2).errorRec clsPartnerLost none d 0 s.kol.hbAccepted 0).tidy

/-- The partner takes over what its source has relayed (R452, R538). -/
def State.takeOver (s : State) (d : Nat) : State :=
  let l := s.kol.relayIn
  let s := (s.raise KOL_G_IRQ_STAT 3).incReg KOL_TAKEOVER_CNT l.length
  let s := { s with kol := { s.kol with tookOver := true, relayExp := 0 } }
  let s := l.foldl (fun s x => s.takePiece x.1 x.2) s
  s.recoveryRec clsTakeover none d 0 l.length 0

/-- HEARTBEAT_TIMEOUT: 310 µs without a HEARTBEAT (R446, R451, R452). -/
def execHeartbeatTimeout (s : State) : Out :=
  s.onMain (fun s =>
    match s.partner?, s.kol.hbTb with
    | some d, some t =>
      if s.tb < t + 310000 then s
      else
        let s := ({ s with kol := { s.kol with hbTb := none } }).partnerGone d
        match s.kol.source with
        | some src => s.takeOver src
        | none => s
    | _, _ => s)

/-! ### Escalation (R377, R378, R456) -/

/-- An escalation from a device is being read, waits for an entry, or its reply waits for the regulator. -/
def State.escBusy (s : State) (src txn : Nat) : Bool :=
  s.seqs.any (fun q => q.2.esc == some (src, txn)) || s.kol.escOut.any (fun o => o.src == src && o.txn == txn) || s.beWait.any (fun w => w.esc.any (fun e => e.src == src && e.txn == txn))

/-- ESC_HEAD received: the read is prepared, or refused without its model or context (R438, R456). -/
def execEscHead (src : BitVec 8) (txn : Word) (body : EscHeadBody) (s : State) : Out :=
  s.onMain (fun s =>
    let s := s.took src.toNat 0x30
    let e : EscIn := { src := src.toNat, txn := txn.toNat, head := body, data := [] }
    match s.doneTxn e.src e.txn with
    | some m => s.sendTo e.src (vcOf e.cls) m
    | none =>
      if s.addr?.isNone || s.escBusy e.src e.txn then s
      else if (s.escModel e).isNone then s.escReply e.src e.txn (vcOf e.cls) 3 []
      else { s with kol := { s.kol with escIn := s.kol.escIn.filter (fun x => !(x.src == e.src && x.txn == e.txn)) ++ [e] } })

/-- ESC_DATA received: after the last of the crop the read begins as a SEQUENCE; more than 4 MiB are refused (R456). -/
def execEscData (src : BitVec 8) (txn : Word) (data : List Byte) (last : Bool) (s : State) : Out :=
  s.onMain (fun s =>
    let s := s.took src.toNat 0x31
    match s.kol.escIn.find? (fun x => x.src == src.toNat && x.txn == txn.toNat) with
    | none => s
    | some e =>
      let rest := s.kol.escIn.filter (fun x => !(x.src == e.src && x.txn == e.txn))
      let e := { e with data := e.data ++ data }
      if 0x400000 < e.data.length then ({ s with kol := { s.kol with escIn := rest } }).escReply e.src e.txn (vcOf e.cls) 3 []
      else if last then ({ s with kol := { s.kol with escIn := rest } }).openEsc e
      else { s with kol := { s.kol with escIn := rest ++ [e] } })

/-- The field entries of a reply (R352): field, status, confidence, flags and value; `n` bounds them. -/
def replyFields : Nat → List Byte → List (Nat × Nat × Nat × Nat × List Byte)
  | 0, _ => []
  | n + 1, l =>
    if l.length < 12 then []
    else
      let len := leAt l 6 2
      (leAt l 0 2, leAt l 3 1, leAt l 4 2, leAt l 8 1, (l.drop 12).take len) :: replyFields n (l.drop (cdiv (12 + len) 4 * 4))

/-- An escalated field takes a reply that is READ (R378). -/
def takeReply (rs : List (Nat × Nat × Nat × Nat × List Byte)) (f : FieldRes) : FieldRes :=
  if !wantsEsc [f] then f
  else
    match rs.find? (fun r => r.1 == f.id) with
    | some (_, st, conf, flags, value) =>
      if st = 1 then { f with status := .read, conf := conf, reason := .none, value := value, escalated := true, repaired := bit flags 0 } else f
    | none => f

/-- ESC_REPLY received: fields that it reads replace the REGION's own; one for a REGION that has its result already is discarded (R378, R438, R456). -/
def execEscReply (src : BitVec 8) (txn : Word) (status : Byte) (fields : List Byte) (s : State) : Out :=
  s.onMain (fun s =>
    let s := s.took src.toNat 0x32
    match tfind s.kol.txns txn.toNat with
    | none => s
    | some t =>
      match t.seq with
      | none => s
      | some i =>
        if t.dst ≠ src.toNat then s
        else
          let s := { s with kol := { s.kol with txns := tdel s.kol.txns txn.toNat } }
          match tfind s.seqs i with
          | none => s
          | some q =>
            match tfind s.regions q.region with
            | none => s.escOwn i
            | some r =>
              if status ≠ 0 || r.result.isSome then s.escOwn i
              else
                let own := voteRegion (s.quorumOf r) r
                let fs := own.map (takeReply (replyFields (fields.length + 1) fields))
                let s := s.incFld DEC_ESC_CNT DEC_ESC_CNT_ESC_READ (fs.filter (·.escalated)).length
                ((s.endSeq i .aborted).closeRegion q.region fs).tidy)

end Sys2Proof.Machine
end

