-- ==== Sys2Proof/Machine/T6.lean ====
section
/-! DEFINITION. Bilevel images under ITU-T T.6: modes, run codes, rows (R361, R366; log entry 9). -/

namespace Sys2Proof.Machine

/-- A number of `w` bits, MSB first, where as many are left. -/
def takeBits (w : Nat) (l : List Bool) : Option (Nat × List Bool) := if (l.take w).length = w then some (takeNat w l) else none

/-! ### Codes -/

/-- Codes of white runs of 0 to 63 as (length, value). -/
def t6WhiteShort : List (Nat × Nat) :=
  [(8, 53), (6, 7), (4, 7), (4, 8), (4, 11), (4, 12), (4, 14), (4, 15), (5, 19), (5, 20), (5, 7), (5, 8), (6, 8), (6, 3), (6, 52), (6, 53)]
    ++ [(6, 42), (6, 43), (7, 39), (7, 12), (7, 8), (7, 23), (7, 3), (7, 4), (7, 40), (7, 43), (7, 19), (7, 36), (7, 24), (8, 2), (8, 3), (8, 26)]
    ++ [(8, 27), (8, 18), (8, 19), (8, 20), (8, 21), (8, 22), (8, 23), (8, 40), (8, 41), (8, 42), (8, 43), (8, 44), (8, 45), (8, 4), (8, 5), (8, 10)]
    ++ [(8, 11), (8, 82), (8, 83), (8, 84), (8, 85), (8, 36), (8, 37), (8, 88), (8, 89), (8, 90), (8, 91), (8, 74), (8, 75), (8, 50), (8, 51), (8, 52)]

/-- Codes of white runs of 64, 128, … 1,728. -/
def t6WhiteLong : List (Nat × Nat) :=
  [(5, 27), (5, 18), (6, 23), (7, 55), (8, 54), (8, 55), (8, 100), (8, 101), (8, 104), (8, 103), (9, 204), (9, 205), (9, 210), (9, 211), (9, 212), (9, 213)]
    ++ [(9, 214), (9, 215), (9, 216), (9, 217), (9, 218), (9, 219), (9, 152), (9, 153), (9, 154), (6, 24), (9, 155)]

/-- Codes of black runs of 0 to 63. -/
def t6BlackShort : List (Nat × Nat) :=
  [(10, 55), (3, 2), (2, 3), (2, 2), (3, 3), (4, 3), (4, 2), (5, 3), (6, 5), (6, 4), (7, 4), (7, 5), (7, 7), (8, 4), (8, 7), (9, 24)]
    ++ [(10, 23), (10, 24), (10, 8), (11, 103), (11, 104), (11, 108), (11, 55), (11, 40), (11, 23), (11, 24), (12, 202), (12, 203), (12, 204), (12, 205), (12, 104), (12, 105)]
    ++ [(12, 106), (12, 107), (12, 210), (12, 211), (12, 212), (12, 213), (12, 214), (12, 215), (12, 108), (12, 109), (12, 218), (12, 219), (12, 84), (12, 85), (12, 86), (12, 87)]
    ++ [(12, 100), (12, 101), (12, 82), (12, 83), (12, 36), (12, 55), (12, 56), (12, 39), (12, 40), (12, 88), (12, 89), (12, 43), (12, 44), (12, 90), (12, 102), (12, 103)]

/-- Codes of black runs of 64, 128, … 1,728. -/
def t6BlackLong : List (Nat × Nat) :=
  [(10, 15), (12, 200), (12, 201), (12, 91), (12, 51), (12, 52), (12, 53), (13, 108), (13, 109), (13, 74), (13, 75), (13, 76), (13, 77), (13, 114), (13, 115), (13, 116)]
    ++ [(13, 117), (13, 118), (13, 119), (13, 82), (13, 83), (13, 84), (13, 85), (13, 90), (13, 91), (13, 100), (13, 101)]

/-- Codes of runs of 1,792, 1,856, … 2,560 of either colour. -/
def t6Longer : List (Nat × Nat) :=
  [(11, 8), (11, 12), (11, 13), (12, 18), (12, 19), (12, 20), (12, 21), (12, 22), (12, 23), (12, 28), (12, 29), (12, 30), (12, 31)]

/-- The run codes of a colour: (run, length, value). -/
def t6Runs (black : Bool) : List (Nat × Nat × Nat) :=
  let from_ (start step : Nat) (l : List (Nat × Nat)) : List (Nat × Nat × Nat) := l.zipIdx.map (fun x => (start + step * x.2, x.1.1, x.1.2))
  from_ 0 1 (if black then t6BlackShort else t6WhiteShort) ++ from_ 64 64 (if black then t6BlackLong else t6WhiteLong) ++ from_ 1792 64 t6Longer

/-- How the next part of a row is coded. -/
inductive T6Mode where
  | pass | horizontal | extension
  | vertical (d : Int)
  deriving DecidableEq, Repr

/-- The mode codes: (length, value, mode). -/
def t6Modes : List (Nat × Nat × T6Mode) :=
  [ (1, 1, .vertical 0), (3, 1, .horizontal), (3, 2, .vertical (-1)), (3, 3, .vertical 1), (4, 1, .pass)
  , (6, 2, .vertical (-2)), (6, 3, .vertical 2), (7, 2, .vertical (-3)), (7, 3, .vertical 3), (7, 1, .extension) ]

/-- The entry of a code table that the bits begin with, and the bits after it. -/
def takeCode {α : Type} (table : List (Nat × Nat × α)) (bits : List Bool) : Option (α × List Bool) :=
  table.findSome? (fun e =>
    match takeBits e.1 bits with
    | some (v, rest) => if v = e.2.1 then some (e.2.2, rest) else none
    | none => none)

/-- What stands against an image where no code fits: the data end, or they are corrupt. -/
def t6Short (bits : List Bool) : Reason := if (bits.take 13).length < 13 then .decTruncated else .decCorrupt

/-- A run: codes of 64 and more, then one below 64; `n` bounds the codes. -/
def t6Run (black : Bool) : Nat → Nat → List Bool → Except Reason (Nat × List Bool)
  | 0, _, _ => .error .decCorrupt
  | n + 1, sum, bits =>
    match takeCode ((t6Runs black).map (fun e => (e.2.1, e.2.2, e.1))) bits with
    | none => .error (t6Short bits)
    | some (r, rest) => if r < 64 then .ok (sum + r, rest) else t6Run black n (sum + r) rest

/-! ### Rows -/

/-- The changing elements of a row, with their colour, from position `i` after a pixel of colour `c`. -/
def t6Changes (c : Bool) (i : Nat) : List Bool → List (Nat × Bool)
  | [] => []
  | p :: t => if p = c then t6Changes c (i + 1) t else (i, p) :: t6Changes p (i + 1) t

/-- b1 and b2: the first changing element of the reference row right of a0 and of the other colour, and the next one; `fresh` while a0 stands before the row. -/
def t6Next (w : Nat) (ch : List (Nat × Bool)) (fresh : Bool) (a0 : Nat) (c : Bool) : Nat × Nat :=
  match ch.dropWhile (fun x => (!fresh && decide (x.1 ≤ a0)) || x.2 == c) with
  | [] => (w, w)
  | [x] => (x.1, w)
  | x :: y :: _ => (x.1, y.1)

/-- The rest of a row of `w` pixels: `row` holds the pixels so far, the last first; `n` bounds the codes. -/
def t6Row (w : Nat) (ch : List (Nat × Bool)) : Nat → Bool → Bool → List Bool → List Bool → Except Reason (List Bool × List Bool)
  | 0, _, _, _, _ => .error .decCorrupt
  | n + 1, fresh, c, row, bits =>
    let a0 := row.length
    let fill (c : Bool) (upTo : Nat) (row : List Bool) : List Bool := List.replicate (upTo - row.length) c ++ row
    if w ≤ a0 then .ok (row.reverse, bits)
    else
      let b := t6Next w ch fresh a0 c
      match takeCode t6Modes bits with
      | none => .error (t6Short bits)
      | some (.extension, _) => .error .decUnsupported
      | some (.pass, rest) => t6Row w ch n false c (fill c b.2 row) rest
      | some (.horizontal, rest) =>
        match t6Run c 16 0 rest with
        | .error e => .error e
        | .ok (r1, rest1) =>
          match t6Run (!c) 16 0 rest1 with
          | .error e => .error e
          | .ok (r2, rest2) =>
            if w < a0 + r1 + r2 then .error .decCorrupt
            else t6Row w ch n false c (fill (!c) (a0 + r1 + r2) (fill c (a0 + r1) row)) rest2
      | some (.vertical d, rest) =>
        let a1 : Int := b.1 + d
        if a1 < a0 || (a1 = a0 && !fresh) || (w : Int) < a1 then .error .decCorrupt
        else t6Row w ch n false (!c) (fill c a1.toNat row) rest

/-- The rows of an image, each coded against the row before it, the first against a white one; EOFB before the last row cuts the image short. -/
def t6Rows (w : Nat) : Nat → List Bool → List Bool → Except Reason (List Bool)
  | 0, _, _ => .ok []
  | h + 1, ref, bits =>
    if (takeBits 24 bits).any (fun x => x.1 == 0x1001) then .error .decTruncated
    else
      match t6Row w (t6Changes false 0 ref) (2 * w + 8) true false [] bits with
      | .error e => .error e
      | .ok (row, rest) =>
        match t6Rows w h row rest with
        | .error e => .error e
        | .ok l => .ok (row ++ l)

/-- The pixels of a T.6 image, black as true, row by row, or why it cannot be decoded (R361, R366). -/
def t6Image (w h : Nat) (data : List Byte) : Except Reason (List Bool) := t6Rows w h (List.replicate w false) (bitsOf data)

end Sys2Proof.Machine
end

