-- ==== Sys2Proof/Machine/Jpeg.lean ====
section
/-! DEFINITION. Baseline JPEG under ITU-T T.81: markers, tables, scans, entropy decoding, dequantisation (R361, R366; log entry 9). -/

namespace Sys2Proof.Machine

/-- A Huffman table: the number of codes of each length from 1 to 16, and the values in the order of their codes. -/
structure Huff where
  counts : List Nat
  vals : List Nat
  deriving DecidableEq, Repr, Inhabited

/-- A component of the frame: identifier, sampling factors, quantisation table. -/
structure JpegFrameComp where
  id : Nat
  h : Nat
  v : Nat
  tq : Nat
  deriving DecidableEq, Repr, Inhabited

/-- What the markers so far have brought: tables, frame, restart interval, number of scans, dequantised blocks by component. -/
structure JpegSt where
  quant : Tbl (List Nat)
  dc : Tbl Huff
  ac : Tbl Huff
  frame : Option (List JpegFrameComp)
  interval : Nat
  scans : Nat
  done : Tbl JpegComp
  deriving DecidableEq, Repr, Inhabited

/-! ### Entropy coding -/

/-- The value of the next code: `d` counts how far the bits so far lie beyond the codes of their length. -/
def huffNext : List Nat → List Nat → Nat → List Bool → Option (Nat × List Bool)
  | [], _, _, _ => none
  | _ :: _, _, _, [] => none
  | c :: cs, vals, d, b :: bits =>
    let d := 2 * d + b2n b
    if d < c then some (vals.getD d 0, bits) else huffNext cs (vals.drop c) (d - c) bits

/-- Decode the next value under a table. -/
def Huff.next (h : Huff) (bits : List Bool) : Option (Nat × List Bool) := huffNext h.counts h.vals 0 bits

/-- A number of `t` bits that stands for a signed value (EXTEND of T.81). -/
def extendBits (t v : Nat) : Int := if t ≠ 0 && v < 2 ^ (t - 1) then (v : Int) - 2 ^ t + 1 else v

/-- Places of the coefficients of a block in zigzag order, 8 × row + column: along each diagonal in turn, up and down. -/
def zigzag : List Nat :=
  (List.range 15).flatMap (fun s =>
    let rows := (List.range 8).filter (fun r => r ≤ s && s - r < 8)
    (if s % 2 = 0 then rows.reverse else rows).map (fun r => 8 * r + (s - r)))

/-- The AC coefficients of a block from place `k` of the zigzag on, as (place, value); `n` bounds the codes. -/
def acCoefs (h : Huff) : Nat → Nat → List Bool → Option (List (Nat × Int) × List Bool)
  | 0, _, bits => some ([], bits)
  | n + 1, k, bits =>
    if 64 ≤ k then some ([], bits)
    else
      match h.next bits with
      | none => none
      | some (rs, rest) =>
        let r := rs / 16
        let t := rs % 16
        if t = 0 then
          if r = 0 then some ([], rest) else if r = 15 && k + 16 < 64 then acCoefs h n (k + 16) rest else none
        else if 10 < t || 63 < k + r then none
        else
          match takeBits t rest with
          | none => none
          | some (v, rest) => (acCoefs h n (k + r + 1) rest).map (fun x => ((k + r, extendBits t v) :: x.1, x.2))

/-- A component of a scan: its place in the frame, its entry there, its tables. -/
structure ScanComp where
  idx : Nat
  comp : JpegFrameComp
  dc : Huff
  ac : Huff
  quant : List Nat
  deriving DecidableEq, Repr, Inhabited

/-- A dequantised block after the DC value `pred`: its DC value, its 64 coefficients by row, the bits after it. -/
def ScanComp.block (c : ScanComp) (pred : Int) (bits : List Bool) : Option (Int × List Int × List Bool) :=
  match c.dc.next bits with
  | none => none
  | some (t, rest) =>
    if 11 < t then none
    else
      match takeBits t rest with
      | none => none
      | some (v, rest) =>
        let dc := pred + extendBits t v
        match acCoefs c.ac 64 1 rest with
        | none => none
        | some (l, rest) =>
          let q := (0, dc) :: l
          let coef (i : Nat) : Int :=
            match q.find? (fun x => zigzag.getD x.1 0 == i) with
            | some x => x.2 * (c.quant.getD x.1 0 : Nat)
            | none => 0
          some (dc, (List.range 64).map coef, rest)

/-! ### Scans -/

/-- Blocks decoded so far: (place in the scan, place in the component's grid, coefficients). -/
abbrev Blocks := List (Nat × Nat × List Int)

/-- The blocks of an MCU: (component of the scan, place in its grid). -/
def mcuUnits (cs : List ScanComp) (across mcu : Nat) : List (Nat × Nat) :=
  match cs with
  | [_] => [(0, mcu)]
  | _ =>
    cs.zipIdx.flatMap (fun c =>
      (List.range c.1.comp.v).flatMap (fun y => (List.range c.1.comp.h).map (fun x =>
        (c.2, (mcu / across * c.1.comp.v + y) * (across * c.1.comp.h) + mcu % across * c.1.comp.h + x))))

/-- Decode the blocks of units in order, with the DC predictions by component. -/
def decodeUnits (cs : List ScanComp) : List (Nat × Nat) → Tbl Int → List Bool → Option (Blocks × List Bool)
  | [], _, bits => some ([], bits)
  | (k, place) :: t, preds, bits =>
    match (cs.getD k default).block (tget 0 preds k) bits with
    | none => none
    | some (dc, coefs, rest) => (decodeUnits cs t (tput preds k dc) rest).map (fun x => ((k, place, coefs) :: x.1, x.2))

/-- A restart interval, from MCU `first` to before `last`: nothing but padding may follow its last code. -/
def decodeSeg (cs : List ScanComp) (across first last : Nat) (seg : List Byte) : Option Blocks :=
  let units := (List.range (last - first)).flatMap (fun k => mcuUnits cs across (first + k))
  match decodeUnits cs units [] (bitsOf seg) with
  | some (l, rest) => if (rest.take 8).length < 8 then some l else none
  | none => none

/-- The entropy-coded bytes after a scan header, cut at the restart markers, and what follows from the next marker on; `k` counts the restart markers. -/
def entropyBytes : Nat → List Byte → Nat → List Byte → List (List Byte) → Except Reason (List (List Byte) × List Byte)
  | 0, _, _, _, _ => .error .decTruncated
  | n + 1, l, k, cur, segs =>
    match l with
    | [] => .error .decTruncated
    | [_] => .error .decTruncated
    | b :: m :: t =>
      if b ≠ 0xFF then entropyBytes n (m :: t) k (b :: cur) segs
      else if m = 0 then entropyBytes n t k (b :: cur) segs
      else if m = 0xFF then entropyBytes n (m :: t) k cur segs
      else if 0xD0 ≤ m.toNat && m.toNat ≤ 0xD7 then
        if m.toNat = 0xD0 + k % 8 then entropyBytes n t (k + 1) [] (cur.reverse :: segs) else .error .decCorrupt
      else .ok ((cur.reverse :: segs).reverse, l)

/-- Blocks across and down that a scan of one component has for it, in an image of `w` by `h`. -/
def soloGrid (w h hmax vmax : Nat) (c : JpegFrameComp) : Nat × Nat := (cdiv (cdiv (w * c.h) hmax) 8, cdiv (cdiv (h * c.v) vmax) 8)

/-- A scan takes its components' blocks into the state. -/
def JpegSt.scan (st : JpegSt) (w h : Nat) (frame : List JpegFrameComp) (cs : List ScanComp) (segs : List (List Byte)) : Except Reason JpegSt :=
  let hmax := (frame.map (·.h)).foldl max 1
  let vmax := (frame.map (·.v)).foldl max 1
  let solo := soloGrid w h hmax vmax ((cs.headD default).comp)
  let across := if cs.length = 1 then solo.1 else cdiv w (8 * hmax)
  let total := if cs.length = 1 then solo.1 * solo.2 else across * cdiv h (8 * vmax)
  let step := if st.interval = 0 then total else st.interval
  if segs.length ≠ cdiv total step then .error .decCorrupt
  else
    let parts := segs.zipIdx.map (fun s => decodeSeg cs across (step * s.2) (min total (step * (s.2 + 1))) s.1)
    if parts.any Option.isNone then .error .decCorrupt
    else
      let blocks := parts.flatMap (fun p => p.getD [])
      let put (d : Tbl JpegComp) (c : ScanComp × Nat) : Tbl JpegComp :=
        let mine := (blocks.filter (fun b => b.1 == c.2)).mergeSort (fun a b => decide (a.2.1 ≤ b.2.1))
        tput d c.1.idx { h := c.1.comp.h, v := c.1.comp.v, across := if cs.length = 1 then across else across * c.1.comp.h, blocks := mine.map (·.2.2) }
      .ok { st with scans := st.scans + 1, done := cs.zipIdx.foldl put st.done }

/-! ### Marker segments -/

/-- Quantisation tables: 8-bit entries, none of them 0 (DQT). -/
def JpegSt.dqt : Nat → JpegSt → List Byte → Except Reason JpegSt
  | 0, st, _ => .ok st
  | n + 1, st, l =>
    match l with
    | [] => .ok st
    | b :: t =>
      let q := (t.take 64).map (·.toNat)
      if 16 ≤ b.toNat then .error (if b.toNat < 32 then .decUnsupported else .decCorrupt)
      else if q.length < 64 || q.contains 0 || 4 ≤ b.toNat then .error .decCorrupt
      else JpegSt.dqt n { st with quant := tput st.quant b.toNat q } (t.drop 64)

/-- Huffman tables, two of each kind; no code consists of ones alone (DHT). -/
def JpegSt.dht : Nat → JpegSt → List Byte → Except Reason JpegSt
  | 0, st, _ => .ok st
  | n + 1, st, l =>
    match l with
    | [] => .ok st
    | b :: t =>
      let counts := (t.take 16).map (·.toNat)
      let size := counts.foldl (· + ·) 0
      let vals := ((t.drop 16).take size).map (·.toNat)
      let room := counts.zipIdx.foldl (fun s c => s + c.1 * 2 ^ (15 - c.2)) 0
      let h : Huff := { counts := counts, vals := vals }
      if counts.length < 16 || vals.length < size || 256 < size || 2 ^ 16 ≤ room || 32 ≤ b.toNat || 4 ≤ b.toNat % 16 then .error .decCorrupt
      else if 2 ≤ b.toNat % 16 then .error .decUnsupported
      else JpegSt.dht n (if b.toNat < 16 then { st with dc := tput st.dc b.toNat h } else { st with ac := tput st.ac (b.toNat % 16) h }) (t.drop (16 + size))

/-- The components of a frame are one, or three sampled 4:4:4, 4:2:2 or 4:2:0 (R361). -/
def samplingOk : List JpegFrameComp → Bool
  | [_] => true
  | [y, cb, cr] => [(1, 1), (2, 1), (2, 2)].contains (y.h, y.v) && (cb.h, cb.v) == (1, 1) && (cr.h, cr.v) == (1, 1)
  | _ => false

/-- The frame (SOF0), which has the size that the command states; a component alone has no sampling to speak of. -/
def JpegSt.sof (st : JpegSt) (w h : Nat) (l : List Byte) : Except Reason JpegSt :=
  let at_ (i : Nat) : Nat := (l.getD i 0).toNat
  let n := at_ 5
  let cs := (List.range n).map (fun k => ({ id := at_ (6 + 3 * k), h := at_ (7 + 3 * k) / 16, v := at_ (7 + 3 * k) % 16, tq := at_ (8 + 3 * k) } : JpegFrameComp))
  let cs := match cs with
    | [c] => [{ c with h := 1, v := 1 }]
    | _ => cs
  if l.length < 6 || l.length ≠ 6 + 3 * n || st.frame.isSome || !distinct (cs.map (·.id)) || cs.any (fun c => 4 ≤ c.tq) then .error .decCorrupt
  else if at_ 0 ≠ 8 || at_ 1 * 256 + at_ 2 = 0 || !samplingOk cs then .error .decUnsupported
  else if at_ 1 * 256 + at_ 2 ≠ h || at_ 3 * 256 + at_ 4 ≠ w then .error .decCorrupt
  else .ok { st with frame := some cs }

/-- The components that a scan header names, none twice and none that has had its scan (SOS). -/
def JpegSt.scanComps (st : JpegSt) (frame : List JpegFrameComp) (l : List Byte) : Option (List ScanComp) :=
  let at_ (i : Nat) : Nat := (l.getD i 0).toNat
  let n := at_ 0
  let comp (k : Nat) : Option ScanComp :=
    match frame.zipIdx.find? (fun c => c.1.id == at_ (1 + 2 * k)) with
    | none => none
    | some (c, i) =>
      match tfind st.dc (at_ (2 + 2 * k) / 16), tfind st.ac (at_ (2 + 2 * k) % 16), tfind st.quant c.tq with
      | some d, some a, some q => if (tfind st.done i).isSome then none else some { idx := i, comp := c, dc := d, ac := a, quant := q }
      | _, _, _ => none
  let cs := (List.range n).filterMap comp
  if 1 ≤ n && l.length = 4 + 2 * n && cs.length = n && distinct (cs.map (·.idx)) && at_ (1 + 2 * n) = 0 && at_ (2 + 2 * n) = 63 && at_ (3 + 2 * n) = 0 then some cs
  else none

/-- Marker codes of the processes and segments that R361 refuses: every frame but the baseline one, arithmetic coding, DNL, hierarchical. -/
def jpegRefused (m : Nat) : Bool :=
  (0xC1 ≤ m && m ≤ 0xCF && m != 0xC4) || m == 0xDC || m == 0xDE || m == 0xDF

/-- Read the markers of an image of `w` by `h` up to EOI; `n` bounds them. -/
def JpegSt.read (w h : Nat) : Nat → JpegSt → List Byte → Except Reason JpegSt
  | 0, _, _ => .error .decTruncated
  | n + 1, st, l =>
    match l with
    | a :: b :: t =>
      let m := b.toNat
      if a ≠ 0xFF then .error .decCorrupt
      else if m = 0xFF then JpegSt.read w h n st (b :: t)
      else if m = 0xD9 then .ok st
      else if jpegRefused m then .error .decUnsupported
      else if !(List.contains [0xC0, 0xC4, 0xDA, 0xDB, 0xDD, 0xFE] m) && !(0xE0 ≤ m && m ≤ 0xEF) then .error .decCorrupt
      else
        let len := (t.getD 0 0).toNat * 256 + (t.getD 1 0).toNat
        let seg := (t.drop 2).take (len - 2)
        if (t.take 2).length < 2 || 2 ≤ len && seg.length < len - 2 then .error .decTruncated
        else if len < 2 then .error .decCorrupt
        else
          let next (r : Except Reason JpegSt) : Except Reason JpegSt :=
            match r with
            | .ok st => JpegSt.read w h n st (t.drop len)
            | .error e => .error e
          if m = 0xDB then next (JpegSt.dqt len st seg)
          else if m = 0xC4 then next (JpegSt.dht len st seg)
          else if m = 0xDD then if seg.length ≠ 2 then .error .decCorrupt else next (.ok { st with interval := (seg.getD 0 0).toNat * 256 + (seg.getD 1 0).toNat })
          else if m = 0xC0 then next (st.sof w h seg)
          else if m = 0xDA then
            match st.frame with
            | none => .error .decCorrupt
            | some frame =>
              match st.scanComps frame seg with
              | none => .error .decCorrupt
              | some cs =>
                if st.scans = 3 then .error .decUnsupported
                else
                  match entropyBytes (t.length + 1) (t.drop len) 0 [] [] with
                  | .error e => .error e
                  | .ok (segs, rest) =>
                    match st.scan w h frame cs segs with
                    | .error e => .error e
                    | .ok st => JpegSt.read w h n st rest
          else next (.ok st)
    | _ => .error .decTruncated

/-- The components of a baseline JPEG of a width and height, dequantised, or why it cannot be decoded (R361, R366). -/
def jpegImage (w h : Nat) (data : List Byte) : Except Reason (List JpegComp) :=
  match data with
  | a :: b :: t =>
    if a ≠ 0xFF || b ≠ 0xD8 then .error .decCorrupt
    else
      match JpegSt.read w h (t.length + 1) default t with
      | .error e => .error e
      | .ok st =>
        match st.frame with
        | none => .error .decCorrupt
        | some cs => if (List.range cs.length).all (fun k => (tfind st.done k).isSome) then .ok ((List.range cs.length).map (fun k => tget default st.done k)) else .error .decCorrupt
  | _ => .error .decTruncated

end Sys2Proof.Machine
end

