-- ==== Sys2Proof/Machine/Dec.lean ====
section
/-! DEFINITION. The decode engine: host images, crops, perturbed inputs, and BE openings that waited (R26, R361-R376, R498). -/

namespace Sys2Proof.Machine

/-! ### Host images (R361-R366, R498) -/

/-- A HOSTIMAGE command's packet (R497): FORMAT, WIDTH, HEIGHT, ROW_PITCH, BYTES in range (R362), addresses aligned, reserved bits 0. -/
def imagePacketOk (b : List Byte) : Bool :=
  let f := leAt b 16 1
  let w := leAt b 20 2
  let h := leAt b 22 2
  let n := leAt b 40 4
  leAt b 17 1 < 4 && leAt b 18 2 == 0 && 1 ≤ w && w ≤ 32768 && 1 ≤ h && 1 ≤ n && n ≤ 2 ^ 28 && leAt b 32 8 % 32 == 0
    && (!(3 ≤ f && f ≤ 5) || leAt b 28 4 % 32 == 0) && leAt b 50 6 == 0

/-- The image being decoded: an LC one before a BE one. -/
def State.currentImage (s : State) : Option (Nat × Image) :=
  let l := s.images.filter (fun m => m.2.fetched && m.2.started && !m.2.decoded)
  (l.find? (fun m => (s.item m.1).cls == .lc)).or l.head?

/-- The HOSTIMAGE of an IMAGE_SUBMIT packet (R497). -/
def imagePiece (b : List Byte) (now : Stamp) : Piece :=
  { (default : Piece) with
    image := true, lateEn := true, emitPoint := if leAt b 56 8 = 0 then none else some (leAt b 56 8 / 65536), openStamp := now
    ring := some (leAt b 2 1 % 64), playbook := leAt b 44 4, fn := leAt b 48 2 }

/-- Fill a free entry with the HOSTIMAGE of a command; without a context it ends at once, after its reply (R56, R390, R491; log entries 28 and 30). -/
def State.placeImage (s : State) (q pos : Nat) (cls : Cls) (b : List Byte) : State :=
  let deadline := leAt b 56 8 / 65536
  let part := s.fld (HIF_SQ_PERM q) HIF_SQ_PERM_PART
  match s.alloc none .image cls 0 part 0 (leAt b 24 4) (if leAt b 56 8 = 0 then 0 else deadline) (ns48 s.now) with
  | none => s
  | some (i, s) =>
    let fmt := leAt b 16 1
    let p := imagePiece b s.now
    let im : Image := { item := i, format := fmt, colour := bit (leAt b 17 1) 1 && fmt ≠ 2 && fmt ≠ 5, width := leAt b 20 2, height := leAt b 22 2
                        pitch := leAt b 28 4, addr := leAt b 32 8, bytes := leAt b 40 4, fetched := false, decoded := false, started := false
                        data := [], sq := q, pos := pos, readTb := s.tb }
    let s := { s with pieces := tput s.pieces i p, images := tput s.images i im }
    let s := { s with fetched := s.fetched.map (fun f => if f.sq = q && f.pos = pos then { f with running := true, openedItem := i } else f) }
    if (s.findCtx part cls p.playbook p.fn).isSome then s
    else (s.complete q pos .ok (s.itemId i) 0).endPiece i .error .noContext

/-- The decode engine fetches the bytes of an image within the partition's host DMA regulator: the HOSTIMAGE seals and its command completes (R367, R387, R498). -/
def State.fetchImage (s : State) (i : Nat) (m : Image) : State :=
  match s.regulate (s.item i).part .hdma (s.item i).cls m.bytes (whoOf 6 i) with
  | (s, false) => s
  | (s, true) =>
    let s := { s with images := tput s.images i { m with fetched := true, data := s.hread m.addr m.bytes } }
    ((s.complete m.sq m.pos .ok (s.itemId i) 0).modItem i (fun e => if e.state = .opened then { e with state := .sealed } else e)).startImage

/-- Pixel values of 8 bits as UQ12 (R365). -/
def px8 (v : Nat) : Nat := v * 16 + v / 16

/-- W[x][u] of R363. -/
def dctW (x u : Nat) : Int :=
  let c : List Int := [16384, 16069, 15137, 13623, 11585, 9102, 6270, 3196, 0]
  if u = 0 then 11585
  else
    let k := (2 * x + 1) * u % 32
    let k := if 16 < k then 32 - k else k
    if k ≤ 8 then c.getD k 0 else -(c.getD (16 - k) 0)

/-- A sample of a block (R363). -/
def dctSample (d : List Int) (x y : Nat) : Int :=
  let sum := (List.range 8).foldl (fun (a : Int) v => (List.range 8).foldl (fun a u => a + dctW x u * dctW y v * d.getD (8 * v + u) 0) a) 0
  max 0 (min 255 (128 + divEven sum (2 ^ 30)))

/-- The sample of a component at its own place (x, y). -/
def compSample (c : JpegComp) (x y : Nat) : Int := dctSample (c.blocks.getD (y / 8 * c.across + x / 8) []) (x % 8) (y % 8)

/-- The sample of component `k` at an image position, chroma by replication (R364). -/
def jpegAt (cs : List JpegComp) (k x y : Nat) : Int :=
  let c0 := cs.headD default
  let c := cs.getD k default
  compSample c (x * c.h / max 1 c0.h) (y * c.v / max 1 c0.v)

/-- Clamp to 0-255. -/
def clamp255 (v : Int) : Nat := (max 0 (min 255 v)).toNat

/-- The planes of a JPEG (R363-R365): mono output is Y, colour output of a one-component image has equal planes (log entry 50). -/
def jpegPlanes (colour : Bool) (w h : Nat) (cs : List JpegComp) : List (List Nat) :=
  let pts := (List.range h).flatMap (fun y => (List.range w).map (fun x => (x, y)))
  let three := decide (3 ≤ cs.length)
  let yy (p : Nat × Nat) : Int := jpegAt cs 0 p.1 p.2
  let cb (p : Nat × Nat) : Int := if three then jpegAt cs 1 p.1 p.2 - 128 else 0
  let cr (p : Nat × Nat) : Int := if three then jpegAt cs 2 p.1 p.2 - 128 else 0
  if !colour then [pts.map (fun p => px8 (clamp255 (yy p)))]
  else
    [ pts.map (fun p => px8 (clamp255 (yy p + divEven (91881 * cr p) 65536)))
    , pts.map (fun p => px8 (clamp255 (yy p - divEven (22554 * cb p + 46802 * cr p) 65536)))
    , pts.map (fun p => px8 (clamp255 (yy p + divEven (116130 * cb p) 65536))) ]

/-- A plane of a raw format: `read` gives the pixels of a row's bytes. -/
def rawPlane (data : List Byte) (at_ pitch w h : Nat) (read : List Byte → List Nat) : List Nat :=
  (List.range h).flatMap (fun y => ((read ((data.drop (at_ + y * pitch)).take pitch)) ++ List.replicate w 0).take w)

/-- Bytes that a raw image needs. -/
def Image.rawBytes (m : Image) : Nat := (if m.colour then 3 else 1) * m.pitch * m.height

/-- The planes of a host image, or why it cannot be decoded (R361-R366). -/
def Image.decode (m : Image) : Except Reason (List (List Nat)) :=
  let raw (read : List Byte → List Nat) : Except Reason (List (List Nat)) :=
    if m.data.length < m.rawBytes then .error .decTruncated
    else .ok ((List.range (if m.colour then 3 else 1)).map (fun k => rawPlane m.data (k * m.pitch * m.height) m.pitch m.width m.height read))
  match m.format with
  | 1 =>
    match jpegImage m.width m.height m.data with
    | .ok cs => .ok (jpegPlanes m.colour m.width m.height cs)
    | .error e => .error e
  | 2 =>
    match t6Image m.width m.height m.data with
    | .ok l => .ok [l.map (fun b => if b then 0 else 4095)]
    | .error e => .error e
  | 3 => raw (fun r => r.map (fun b => px8 b.toNat))
  | 4 => raw unpack12
  | 5 => raw (fun r => r.flatMap (fun b => (List.range 8).map (fun k => if bit b.toNat (7 - k) then 0 else 4095)))
  | _ => .error .decUnsupported

/-- A host image cannot be decoded: its item ends ERROR with the reason (R366). -/
def State.imageError (s : State) (i : Nat) (re : Reason) : State :=
  let s := s.incFld DEC_ERR_CNT (if re = .decUnsupported then DEC_ERR_CNT_UNSUP_CNT else DEC_ERR_CNT_CORRUPT_CNT)
  ((s.raise DEC_IRQ_STAT 0).duePoint i).endPiece i .error re

/-- The decode engine finishes the current image: its base crop is written within the partition's DRAM regulator and detection finds the text areas `found`, or it ends with an error; without room for the crop it waits (R365-R370, R387). -/
def execImageDecodeDone (found : List Found) (s : State) : Out :=
  s.onMain (fun s =>
    match s.currentImage with
    | none => s
    | some (i, m) =>
      match m.decode with
      | .error re => s.imageError i re
      | .ok planes =>
        match s.cropRoom (cropBytes m.width m.height planes.length) with
        | (s, none) => s
        | (s, some a) =>
          match s.regulate (s.item i).part .dram (s.item i).cls (cropBytes m.width m.height planes.length) (whoOf 12 i) with
          | (s, false) => s
          | (s, true) =>
          let s := s.putCrop { item := s.itemId i, top := s.itemId i, width := m.width, height := m.height, x0 := 0, y0 := 0, planes := planes, stamp := s.now, used := s.tb, place := a, repaired := 0 }
          let s := { s with images := tput s.images i { m with decoded := true, data := [] } }
          let s := s.incReg DEC_IMG_CNT
          let p := (tfind s.pieces i).getD default
          let s := s.detectReady p.playbook p.fn i
          let s := found.foldl (fun s f => s.openRegion i 0 i f) s
          ((s.sealReady i none).pieceCheck i).startImage)

/-! ### Crops of REGIONs (R368, R369) -/

/-- A box out of row-major pixels of width `w`. -/
def cutBox (px : List Nat) (w x0 y0 bw bh : Nat) : List Nat :=
  (List.range bh).flatMap (fun y => (px.drop ((y0 + y) * w + x0)).take bw)

/-- The retained lines of a live REGION's crop, by line number, once all its rows have arrived. -/
def State.liveLines (s : State) (r : Region) : Option (List RetLine) :=
  let (_, y0, _, h) := s.cropBox r
  let all := match s.linesIn r.side with
    | some k => decide (y0 + h ≤ k + 1)
    | none => true
  if !all then none
  else some (((s.linPort r.sidePort).retLines.filter (fun l => l.side == s.itemId r.side && y0 ≤ l.lineNo && l.lineNo < y0 + h)).mergeSort (fun a b => decide (a.lineNo ≤ b.lineNo)))

/-- Where the rows of a box of a crop lie in DRAM (R369). -/
def State.boxSpans (s : State) (c : Crop) (x0 y0 w h : Nat) : List (Nat × Nat) :=
  (List.range c.planes.length).flatMap (fun k => (List.range h).map (fun y =>
    (s.cropAddr c + 64 + (k * c.height + y0 + y) * cropPitch c.width + 2 * x0, 2 * w)))

/-- Rows and planes of the crop that a REGION needs, once there is all to make it of: its retained lines, or the base crop. -/
def State.cropReady (s : State) (r : Region) : Option (Nat × Nat) :=
  if (tfind s.images r.top).isSome then (s.cropOf r.top).map (fun c => ((s.cropBox r).2.2.2, c.planes.length))
  else (s.liveLines r).map (fun ls => (ls.length, (ls.map (fun l => l.planes.length)).foldl max 1))

/-- Read what a REGION's crop is made of: the base crop, none of it where a word of it is uncorrectable, or retained lines; planes and the colours replaced (R368, R370, R529). -/
def State.cropPixels (s : State) (r : Region) : State × Option (List (List Nat) × Nat) :=
  let (x0, y0, w, h) := s.cropBox r
  if (tfind s.images r.top).isSome then
    match s.cropOf r.top with
    | none => (s, none)
    | some c =>
      let s := s.useCrops (s.cropAddr c) c.size
      let t := (s.boxSpans c x0 y0 w h).foldl (fun (x : State × Bool) p => if x.2 then x.1.didRead p.1 p.2 else x) (s, true)
      (t.1, if t.2 then some (c.planes.map (fun p => cutBox p c.width x0 y0 w h), 0) else none)
  else
    let (s, ls) := s.readLines r.sidePort ((s.liveLines r).getD [])
    let n := (ls.map (fun l => l.planes.length)).foldl max 1
    (s, some ((List.range n).map (fun k => ls.flatMap (fun l => ((l.planes.getD k []).drop x0).take w)), (ls.map (·.repaired)).foldl (· ||| ·) 0))

/-- A REGION's crop is written to the crop cache; an escalation that waited for it is sent (R368, R369, R387, R456). -/
def execCropWritten (region : Nat) (s : State) : Out :=
  s.onMain (fun s =>
    match tfind s.regions region with
    | none => s
    | some r =>
      if !r.needCrop || r.crop then s
      else
        match s.cropReady r with
        | none => s
        | some (h, n) =>
          let (x0, y0, w, _) := s.cropBox r
          match s.regulate (s.item region).part .dram (s.item region).cls (cropBytes w h n) (whoOf 5 region) with
          | (s, false) => s
          | (s, true) =>
            match s.cropPixels r with
            | (s, none) => s
            | (s, some (planes, repaired)) =>
              let s := s.putCrop { item := s.itemId region, top := s.itemId r.top, width := w, height := h, x0 := x0, y0 := y0, planes := planes, stamp := s.now, used := s.tb, place := r.cropAt, repaired := repaired }
              (s.modRegion region (fun r => { r with crop := true })).escStart region)

/-! ### Perturbed inputs (R371-R373) -/

/-- The parameters of a pass (R372): shifts in 1/16 px, rotation in 0.01°, scale and gain in 1/1,024, offset, blur level. -/
structure Perturb where
  dx : Int
  dy : Int
  rot : Int
  scale : Int
  gain : Int
  ofs : Int
  blur : Nat
  deriving DecidableEq, Repr, Inhabited

/-- A symmetric parameter with a limit from a word, in units of its resolution (R372). -/
def symParam (limit : Rat) (u : Nat) (unit : Nat) : Int :=
  roundEven (limit * (unit : Rat) * ((2 * (u : Rat) - (2 ^ 32 : Nat)) / (2 ^ 32 : Nat)))

/-- The parameters of pass `k` of the REGION with an originating INDEX (R371, R372). -/
def perturbOf (seed index k : Nat) (m : Model) : Perturb :=
  let d := sha256 (leBytes 8 seed ++ leBytes 3 index ++ leBytes 1 k ++ zeros 4)
  let u (i : Nat) : Nat := leAt d (4 * i) 4
  { dx := symParam m.maxShift (u 0) 16, dy := symParam m.maxShift (u 1) 16, rot := symParam m.maxRot (u 2) 100
    scale := symParam m.maxScale (u 3) 1024, gain := symParam m.maxGain (u 4) 1024, ofs := symParam (m.maxOfs : Rat) (u 5) 1
    blur := u 6 * (m.blurMax + 1) / 2 ^ 32 }

/-- A pixel with positions outside taking the nearest edge pixel. -/
def edgePx (px : List Nat) (w h : Nat) (x y : Int) : Nat :=
  px.getD ((max 0 (min y ((h : Int) - 1))).toNat * w + (max 0 (min x ((w : Int) - 1))).toNat) 0

/-- The source position of an output pixel in Q16: about the crop's centre, scaled, rotated, shifted (R373; log entry 51). -/
def srcPos (p : Perturb) (w h x y : Nat) : Int × Int :=
  let k := ((roundEven ((p.rot : Rat) / 100 / 360 * 65536)) % 65536).toNat
  let cx : Rat := ((w : Rat) - 1) / 2
  let cy : Rat := ((h : Rat) - 1) / 2
  let ax := (x : Rat) - cx
  let ay := (y : Rat) - cy
  let g : Rat := 1 + (p.scale : Rat) / 1024
  let sx := cx + g * (cosT k * ax - sinT k * ay) + (p.dx : Rat) / 16
  let sy := cy + g * (sinT k * ax + cosT k * ay) + (p.dy : Rat) / 16
  (roundEven (sx * 65536), roundEven (sy * 65536))

/-- Bilinear sampling at a Q16 position, rounded once. -/
def bilinear (px : List Nat) (w h : Nat) (pos : Int × Int) : Nat :=
  let x := pos.1.fdiv 65536
  let y := pos.2.fdiv 65536
  let fx := pos.1 - x * 65536
  let fy := pos.2 - y * 65536
  let v (a b : Int) : Int := edgePx px w h (x + a) (y + b)
  (divEven ((65536 - fx) * (65536 - fy) * v 0 0 + fx * (65536 - fy) * v 1 0 + (65536 - fx) * fy * v 0 1 + fx * fy * v 1 1) (2 ^ 32)).toNat

/-- The blur kernels (R373). -/
def blurKernel (level : Nat) : List Int :=
  match level with
  | 0 => [1]
  | 1 => [1, 2, 1]
  | _ => [1, 4, 6, 4, 1]

/-- One pixel of the separable blur, both axes exact, rounded once. -/
def blurPx (px : List Nat) (w h level x y : Nat) : Nat :=
  let k := blurKernel level
  let r : Int := (k.length / 2 : Nat)
  let sum := (List.range k.length).foldl (fun (a : Int) j => (List.range k.length).foldl (fun a i =>
    a + k.getD i 0 * k.getD j 0 * (edgePx px w h ((x : Int) + i - r) ((y : Int) + j - r) : Int)) a) 0
  let n := (k.foldl (· + ·) 0).toNat
  (divEven sum (n * n)).toNat

/-- A plane perturbed: geometry, blur, contrast (R373). -/
def perturbPlane (p : Perturb) (w h : Nat) (px : List Nat) : List Nat :=
  let pts := (List.range h).flatMap (fun y => (List.range w).map (fun x => (x, y)))
  let a := pts.map (fun q => bilinear px w h (srcPos p w h q.1 q.2))
  let b := pts.map (fun q => blurPx a w h p.blur q.1 q.2)
  b.map (fun (v : Nat) => (max 0 (min 4095 (divEven ((v : Int) * (1024 + p.gain) + 1024 * p.ofs) 1024))).toNat)

/-- The perturbed input of a re-read pass is written, and its job becomes ready (R371-R374); without a context the pass ends (R390). -/
def execPassInputWritten (seq : Nat) (s : State) : Out :=
  s.onMain (fun s =>
    match tfind s.seqs seq with
    | none => s
    | some q =>
      if q.inputReady || q.ending ≠ .running || q.pass = 0 || 8 < q.pass then s
      else
        match s.cropOf q.region, s.model q.playbook q.model, s.playbook q.playbook with
        | some c, some m, some pb =>
          let p := perturbOf pb.seed q.index q.pass m
          match s.regulate (s.item seq).part .dram (s.item seq).cls (cropBytes c.width c.height c.planes.length) (whoOf 9 seq) with
          | (s, false) => s
          | (s, true) =>
          let (s, good) := (s.useCrops (s.cropAddr c) c.size).didRead (s.cropAddr c) c.size
          if !good then s
          else (s.modSeq seq (fun q => { q with inputReady := true, input := c.planes.map (perturbPlane p c.width c.height) })).stepReady seq
        | _, _, _ => s)

/-! ### BE items that waited (R26) -/

/-- The first BE opening that waits opens once more entries than the reserve are free (R26). -/
def execBeItemOpenWait (s : State) : Out :=
  s.onMain (fun s =>
    match s.beWait with
    | [] => s
    | w :: rest =>
      if !s.canOpen .be then s
      else
        let s := { s with beWait := rest }
        match w.relay, w.taken with
        | some key, _ => (tfind s.kol.relayIn key).elim s (s.takePiece key)
        | none, some r => (s.takeSide w.parent w.side w.key r).getD s
        | none, none =>
        match w.typ, s.packetOf w.sq with
        | .image, some (q, pos, b) => s.placeImage q pos .be b
        | .image, none => s
        | _, _ => s.openWaiting w)

end Sys2Proof.Machine
end

