-- ==== Sys2Proof/Machine/HostReg.lean ====
section
/-! DEFINITION. Host accesses to BAR0: what a write and a read of a register do, and the commands of the host register accesses (R4-R14, R559, R572-R582 and the register rules of each chapter). -/

namespace Sys2Proof.Machine

/-! ### Write rules of the blocks -/

/-- Whether the block or instance that holds a register's IDLE fields runs (R14). -/
def State.blockRuns (s : State) (a : Nat) : Bool :=
  match a / 0x100000 with
  | 0 => if a < 0x2000 then s.on (HIF_SQ_CFG ((a - 0x1000) / 0x40)) HIF_SQ_CFG_EN else s.on (HIF_RING_CFG ((a - 0x2000) / 0x40)) HIF_RING_CFG_EN
  | 2 => if a < 0x240000 then s.on (LIN_PORT_CTL ((a - 0x200000) / 0x10000)) LIN_PORT_CTL_EN
         else if a < 0x280000 then false else s.calBusy ((a - 0x280000) / 0x10000)
  | 8 => if a < 0x880000 then s.on (KOL_PORT_CTL ((a - 0x800000) / 0x10000)) KOL_PORT_CTL_EN else false
  | 9 => (List.range 4).any s.linOn || s.items.any (fun e => e.2.state != .free)
  | 13 => s.on ETH_CFG ETH_CFG_EN
  | _ => false

/-- A word keeps every field of register `a` in its range (R93, R136, R329, R359, R382, R416, R460, R483, R521, R549, R571); `b` is the register's first offset. -/
def State.inRange (s : State) (b : Nat) (v : Word) : Bool :=
  let f := fget v
  let ring (x : Fld) := s.on (HIF_RING_PERM (f x)) HIF_RING_PERM_VALID
  if b = LIN_EXP_TIME 0 then inside v.toNat 100 10000000
  else if b = LIN_LINE_MIN 0 then inside v.toNat 2000 10000000
  else if b = LIN_RET_SIZE 0 then inside (f LIN_RET_SIZE_SIZE_MIB) 16 8192
  else if b = CAL_CFG 0 then f CAL_CFG_WHITE_N ≤ 5 && f CAL_CFG_DARK_N ≤ 5 && f CAL_CFG_REF_SRC ≤ 1
  else if b = CAL_LIMIT 0 then f CAL_LIMIT_GAIN_MIN ≤ f CAL_LIMIT_GAIN_MAX
  else if b = CAL_LEVEL 0 then f CAL_LEVEL_BLACK < f CAL_LEVEL_TARGET
  else if b = PGM_ITEM_LC_RESERVE then f PGM_ITEM_LC_RESERVE_LC_RESERVE ≤ 524288
  else if b = PGM_WAIT_LIMIT then inside (f PGM_WAIT_LIMIT_WAIT_US) 10 1000
  else if b = PGM_PREFETCH then inside (f PGM_PREFETCH_LEAD_US) 10 10000
  else if b = TOK_LIVE_CFG then inside (f TOK_LIVE_CFG_MAX_US) 10 10000 && inside (f TOK_LIVE_CFG_MIN_BYTES) 1 255
  else if b = DEC_CROP_CFG then f DEC_CROP_CFG_MARGIN ≤ 64
  else if b = SCH_BE_CFG then inside (f SCH_BE_CFG_BE_QUANTUM_US) 10 1000
  else if b = KOL_VC_SPLIT 0 then
    [KOL_VC_SPLIT_TIME, KOL_VC_SPLIT_BE, KOL_VC_SPLIT_LC, KOL_VC_SPLIT_CTL].all (fun x => 4 ≤ f x) &&
      f KOL_VC_SPLIT_TIME + f KOL_VC_SPLIT_BE + f KOL_VC_SPLIT_LC + f KOL_VC_SPLIT_CTL ≤ 256
  else if b = TIM_CFG then
    f TIM_CFG_KI_SHIFT ≤ 31 && inside (f TIM_CFG_SLEW_WIN_MS) 1 4000 && inside (f TIM_CFG_SYNC_US) 16 1000
  else if b = TIM_STEP_LIMIT then inside v.toNat 100 1000000000
  else if b = TIM_PTP_CFG then
    decide (-7 ≤ sgn 4 (f TIM_PTP_CFG_LOG_SYNC)) && decide (sgn 4 (f TIM_PTP_CFG_LOG_SYNC) ≤ 4) && f TIM_PTP_CFG_DOMAIN ≤ 127
  else if b = TIM_PORT_ASYM 0 then decide (-256000 ≤ sgn 32 v.toNat) && decide (sgn 32 v.toNat ≤ 256000)
  else if b = HIF_RESULT_BUDGET then inside v.toNat 1024 (s.num HIF_HOLD_SIZE)
  else if b = HIF_SQ_CFG 0 then inside (f HIF_SQ_CFG_LOG2_SIZE) 4 12
  else if b = HIF_RING_CFG 0 then inside (f HIF_RING_CFG_LOG2_SLOTS) 12 20
  else if b = HIF_PORT_RING then [HIF_PORT_RING_P3, HIF_PORT_RING_P2, HIF_PORT_RING_P1, HIF_PORT_RING_P0].all ring
  else if b = HIF_SYS_RING then [HIF_SYS_RING_CATCH_RING, HIF_SYS_RING_SYS_RING].all ring
  else if b = RAS_SCRUB_CFG then inside (f RAS_SCRUB_CFG_DRAM_PASS_H) 1 168 && inside (f RAS_SCRUB_CFG_TILE_PASS_MS) 1 10000
  else if b = RAS_CORR_LIMIT then inside v.toNat 1 1000000
  else if b = SYS_THERM_CFG then inside (f SYS_THERM_CFG_WARN_C) 60 110
  else if b = SYS_HUDDLE_WAIT then inside (f SYS_HUDDLE_WAIT_HUDDLE_WAIT_MS) 10 10000
  else if b = SNP_CTL then f SNP_CTL_TIME_EN = 0 || decide (stampDiff s.now (BitVec.ofNat 64 (s.pair SNP_TIME_CMP_LO)) ≤ 0)
  else true

/-! ### A write to a register (R5, R7, R10-R13, R575-R580) -/

/-- Set the reject bit of register `a`, where the block has one (R577, R578). -/
def State.rejectOf (s : State) (d : RegD) (a : Nat) : State :=
  match d.rej, rejectReg a with
  | some i, some r => s.reject r i
  | _, _ => s

/-- A register has a writable field of a code. -/
def RegD.writes (d : RegD) (e : Eff) : Bool := d.fields.any (fun f => f.acc == .rw && f.eff == e)

/-- What the fields of register `d` hold after an access writes `v`: IMM fields at once, IDLE fields unless the block runs, W1C bits cleared; the rest as it stands. -/
def newWord (fs : List FieldD) (run : Bool) (old v : Word) : Word :=
  fs.foldl (fun w f =>
    match f.acc, f.eff with
    | .rw, .imm => fset w f.fld (fget v f.fld)
    | .rw, .idle => if run then w else fset w f.fld (fget v f.fld)
    | .w1c, _ => fset w f.fld (fget w f.fld - (fget w f.fld &&& fget v f.fld))
    | _, _ => w) old

/-- The written word with the IDLE fields of a running block as they stand (R576). -/
def keepIdle (fs : List FieldD) (run : Bool) (old v : Word) : Word :=
  if run then fs.foldl (fun w f => if f.acc = .rw ∧ f.eff = .idle then fset w f.fld (fget old f.fld) else w) v else v

/-- Fields of one register take a written word: the range rule first, then each field under its own code (R575-R577). True when the access was taken. -/
def State.applyWrite (s : State) (d : RegD) (a : Nat) (v : Word) : State × Bool :=
  let run := d.writes .idle && s.blockRuns a
  let v := keepIdle d.fields run (s.reg a) v
  let s := if run then s.rejectOf d a else s
  if !s.inRange d.base v then (s.rejectOf d a, false)
  else
    let s := s.setReg a (newWord d.fields run (s.reg a) v)
    let s := if d.writes .line || d.writes .cmd || d.writes .item then { s with shadow := tput s.shadow a v } else s
    (if d.writes .boot then { s with bootPend := tput s.bootPend a v } else s, true)

/-- A write to one register or one word of a pair: a low word waits, a high word commits both (R5, R14); a low word whose high word is rejected is discarded (log entry 62); a write of 0 clears counters (R579). -/
def State.plainWrite (s : State) (d : RegD) (a : Nat) (v : Word) : State :=
  if d.clr then
    if v = 0 then
      s.setReg a (d.fields.foldl (fun w f => if f.acc = .ro ∧ f.fld ≠ LIN_RET_STAT_FREE_MIB ∨ d.base ≠ LIN_RET_STAT 0 ∧ f.acc = .ro then fset w f.fld 0 else w) (s.reg a))
    else s
  else
    match d.pair with
    | .one => (s.applyWrite d a v).1
    | .lo => { s with loWord := tput s.loWord a v }
    | .hi =>
      let low := tfind s.loWord (a - 4)
      let s := { s with loWord := tdel s.loWord (a - 4) }
      if d.writes .idle && s.blockRuns a then s.rejectOf d a
      else
        let s := s.setReg a (newWord d.fields false (s.reg a) v)
        match low, findReg (a - 4) with
        | some w, some (e, _, _) => s.setReg (a - 4) (newWord e.fields false (s.reg (a - 4)) w)
        | _, _ => s

/-! ### Registers whose write does more -/

/-- A write of HIF_SQq_CFG; EN going to 1 sets HEAD and TAIL to 0, clears CODE and lets a stopped queue run again (R486, R521; log entry 62). -/
def State.writeSqCfg (s : State) (d : RegD) (q : Nat) (v : Word) : State :=
  let was := s.on (HIF_SQ_CFG q) HIF_SQ_CFG_EN
  let (s, ok) := s.applyWrite d (HIF_SQ_CFG q) v
  if ok && !was && s.on (HIF_SQ_CFG q) HIF_SQ_CFG_EN then
    let s := ((s.setNum (HIF_SQ_HEAD q) 0).setNum (HIF_SQ_TAIL q) 0).setFld (HIF_SQ_ERR q) HIF_SQ_ERR_CODE 0
    { s with sqs := tupd (tput s.sqs q (tget default s.sqs q)) q (fun x => { stopped := false, enabled := x.enabled + 1, readTb := s.tb }) }
  else s

/-- A queue stops with an error code (R486). -/
def State.stopQueue (s : State) (q code : Nat) : State :=
  let s := s.setFld (HIF_SQ_ERR q) HIF_SQ_ERR_CODE code
  { s with sqs := tput s.sqs q { tget default s.sqs q with stopped := true } }.raise HIF_IRQ_STAT 1

/-- A write of HIF_SQq_TAIL: one further ahead of HEAD than the queue holds, which takes in all that lies behind HEAD, or behind the previous TAIL stops the queue (R486). The first packet that it brings is to be read from then on (R530). -/
def State.doorbell (s : State) (q tail : Nat) : State :=
  let old := s.fld (HIF_SQ_TAIL q) HIF_SQ_TAIL_TAIL
  let size := 2 ^ s.fld (HIF_SQ_CFG q) HIF_SQ_CFG_LOG2_SIZE
  let head := s.fld (HIF_SQ_HEAD q) HIF_SQ_HEAD_HEAD
  if size < (tail + 65536 - head) % 65536 || sdiff 16 tail old < 0 then s.stopQueue q 1
  else (if head = old then { s with sqs := tput s.sqs q { tget default s.sqs q with readTb := s.tb } } else s).setFld (HIF_SQ_TAIL q) HIF_SQ_TAIL_TAIL tail

/-- A write of HIF_RINGr_CFG; EN going to 1 sets HEAD and TAIL to 0, and held records may leave (R488, R509; log entry 62). -/
def State.writeRingCfg (s : State) (d : RegD) (r : Nat) (v : Word) : State :=
  let was := s.on (HIF_RING_CFG r) HIF_RING_CFG_EN
  let (s, ok) := s.applyWrite d (HIF_RING_CFG r) v
  if ok && !was && s.on (HIF_RING_CFG r) HIF_RING_CFG_EN then
    let s := (s.setNum (HIF_RING_HEAD r) 0).setNum (HIF_RING_TAIL r) 0
    ({ s with rings := tput s.rings r default }.drain).tidy
  else s

/-- A write of HIF_RINGr_HEAD (R490, R509). -/
def State.ringHead (s : State) (r : Nat) (v : Word) : State :=
  if 0 < sdiff 32 v.toNat (s.num (HIF_RING_TAIL r)) || sdiff 32 v.toNat (s.num (HIF_RING_HEAD r)) < 0 then
    s.setFld (HIF_RING_CFG r) HIF_RING_CFG_HEAD_ERR 1
  else ((s.setReg (HIF_RING_HEAD r) v).drain).tidy

/-- A write of SCH_SB_SEL: the scoreboard registers show the named context, 0 for an undefined one (R410, R415, R416). -/
def State.sbSelect (s : State) (v : Word) : State :=
  let k := fget v SCH_SB_SEL_CTX
  let c0 := tget default s.ctxs k
  let c := if c0.state = .undefined then default else c0
  let st := match c.state with | .undefined => 0 | .idle => 1 | .resident => 2 | .faulted => 3
  let cap (x : Nat) := min x 0xFFFFFFFF
  let s := s.setFld SCH_SB_SEL SCH_SB_SEL_CTX k
  let s := ((s.setFld SCH_SB_STATE SCH_SB_STATE_PART c.part).setFld SCH_SB_STATE SCH_SB_STATE_CLASS (if c.cls = .lc then 0 else 1)).setFld SCH_SB_STATE SCH_SB_STATE_STATE st
  let s := ((s.setPair SCH_SB_WAIT_SUM_LO c.waitSum).setNum SCH_SB_WAIT_MAX (cap c.waitMax)).setPair SCH_SB_CMDS_LO c.cmds
  let s := ((s.setNum SCH_SB_PREEMPT (cap c.preempts)).setFld SCH_SB_EVICT SCH_SB_EVICT_EVICTS (min c.evicts 0xFFFF)).setFld SCH_SB_EVICT SCH_SB_EVICT_FAULTS (min c.faults 0xFFFF)
  (s.setNum SCH_SB_DEBT c.debt).setPair SCH_SB_TILE_LO c.tileTime

/-- A write of 1 to CLEAR of SCH_SB_CLR: the selected context's scoreboard quantities but DEBT (R410, R415). -/
def State.sbClear (s : State) : State :=
  { s with ctxs := tupd s.ctxs (s.fld SCH_SB_SEL SCH_SB_SEL_CTX) (fun c =>
      { c with waitSum := 0, waitMax := 0, cmds := 0, preempts := 0, evicts := 0, faults := 0, tileTime := 0 }) }

/-- A write of SNP_CTL: ARM sets ARMED, then TRIGGER triggers (R540, R541, R549; log entry 62). -/
def State.writeSnpCtl (s : State) (d : RegD) (v : Word) : State :=
  let (s, ok) := s.applyWrite d SNP_CTL v
  if !ok then s
  else
    let s := if fget v SNP_CTL_ARM = 1 then s.setFld SNP_STAT SNP_STAT_ARMED 1 else s
    if fget v SNP_CTL_TRIGGER = 1 then (s.snapTrigger s.now 0 0).1 else s

/-- FIXED_OVERRIDE is set whenever the setpoint differs from V_FIXED_MV in FIXED mode; a clear while it does leaves it set (R8, R195). -/
def State.freshOverride (s : State) : State :=
  if s.on PIT_GOV_CFG PIT_GOV_CFG_MODE && s.fld PIT_GOV_STAT PIT_GOV_STAT_V_SET_MV != s.fld PIT_GOV_FIXED PIT_GOV_FIXED_V_FIXED_MV then
    s.setFld PIT_GOV_STAT PIT_GOV_STAT_FIXED_OVERRIDE 1
  else s

/-- Put the setpoint of VDD_PIT; another value goes to the regulator as a VOUT_COMMAND (R195, R551). -/
def State.setVolt (s : State) (mv : Nat) : State :=
  let sent := if s.fld PIT_GOV_STAT PIT_GOV_STAT_V_SET_MV = mv then s.gov.vout else mv :: s.gov.vout
  ({ s with gov := { s.gov with vout := sent } }.setFld PIT_GOV_STAT PIT_GOV_STAT_V_SET_MV mv).freshOverride

/-- In FIXED mode the governor sets VDD_PIT to V_FIXED_MV (R195). -/
def State.fixedVolt (s : State) : State :=
  if s.gov.on && s.on PIT_GOV_CFG PIT_GOV_CFG_MODE && !s.standby then s.setVolt (s.fld PIT_GOV_FIXED PIT_GOV_FIXED_V_FIXED_MV) else s

/-- Store a governor field at the nearest value in its range; CFG_CLAMPED sets where that is another value (R203). -/
def State.clampFld (s : State) (a : Nat) (f : Fld) (v lo hi : Nat) : State :=
  let w := max lo (min hi v)
  let s := s.setFld a f w
  if w = v then s else s.setFld PIT_GOV_STAT PIT_GOV_STAT_CFG_CLAMPED 1

/-- V_FIXED_MV stays between V_MIN_MV and V_MAX_MV (R202, R203). -/
def State.clampFixed (s : State) (v : Nat) : State :=
  s.clampFld PIT_GOV_FIXED PIT_GOV_FIXED_V_FIXED_MV v (s.fld PIT_GOV_VLIM PIT_GOV_VLIM_V_MIN_MV) (s.fld PIT_GOV_VLIM PIT_GOV_VLIM_V_MAX_MV)

/-- A write of a governor register; in STANDBY the Pitch stays at V_MIN_MV (R195, R202, R203, R563). -/
def State.writeGov (s : State) (a : Nat) (v : Word) : State :=
  if a = PIT_GOV_CFG then
    ((s.clampFld PIT_GOV_CFG PIT_GOV_CFG_MARGIN_PCT (fget v PIT_GOV_CFG_MARGIN_PCT) 3 25).setFld PIT_GOV_CFG PIT_GOV_CFG_MODE (fget v PIT_GOV_CFG_MODE)).fixedVolt
  else if a = PIT_GOV_VLIM then
    let s := s.clampFld PIT_GOV_VLIM PIT_GOV_VLIM_V_MAX_MV (fget v PIT_GOV_VLIM_V_MAX_MV) 700 850
    let s := s.clampFld PIT_GOV_VLIM PIT_GOV_VLIM_V_MIN_MV (fget v PIT_GOV_VLIM_V_MIN_MV) 600 750
    let hi := s.fld PIT_GOV_VLIM PIT_GOV_VLIM_V_MAX_MV
    let s := s.clampFld PIT_GOV_VLIM PIT_GOV_VLIM_V_MIN_MV (s.fld PIT_GOV_VLIM PIT_GOV_VLIM_V_MIN_MV) 0 hi
    let old := s.fld PIT_GOV_FIXED PIT_GOV_FIXED_V_FIXED_MV
    let s := s.clampFixed old
    let s := if s.standby then s.setVolt (s.fld PIT_GOV_VLIM PIT_GOV_VLIM_V_MIN_MV) else s
    if s.fld PIT_GOV_FIXED PIT_GOV_FIXED_V_FIXED_MV = old then s else s.fixedVolt
  else if a = PIT_GOV_FIXED then (s.clampFixed (fget v PIT_GOV_FIXED_V_FIXED_MV)).fixedVolt
  else s.clampFld PIT_PWR_CAP PIT_PWR_CAP_PWR_CAP_W (fget v PIT_PWR_CAP_PWR_CAP_W) 10 70

/-- What stands against STANDBY (R564). -/
def State.standbyBusy (s : State) : Bool :=
  (List.range 4).any s.linOn || s.items.any (fun e => e.2.state != .free) || s.ctxs.any (fun c => c.2.state == .resident)
    || s.on KOL_CATCH_CFG KOL_CATCH_CFG_PARTNER_VALID

/-- Fetches that were held back for Coach are made from now on (R516, R530, R564). -/
def State.readsAnew (s : State) : State := { s with sqs := tmap s.sqs (fun _ x => { x with readTb := s.tb }) }

/-- A write of SYS_PWR_CTL: STANDBY 1 enters STANDBY unless the engine is at work, DRAM goes into self-refresh, and the Pitch idles at V_MIN_MV; 0 returns to ACTIVE (R563, R564). -/
def State.writePwr (s : State) (v : Word) : State :=
  if fget v SYS_PWR_CTL_STANDBY = 1 then
    if s.standbyBusy then s.reject SYS_WR_REJECT 0
    else
      ({ ((s.setFld SYS_PWR_CTL SYS_PWR_CTL_STANDBY 1).setFld SYS_PWR_STAT SYS_PWR_STAT_STATE 4) with sys := { s.sys with selfRefresh := true } }).setVolt
        (s.fld PIT_GOV_VLIM PIT_GOV_VLIM_V_MIN_MV)
  else ({ ((s.setFld SYS_PWR_CTL SYS_PWR_CTL_STANDBY 0).setFld SYS_PWR_STAT SYS_PWR_STAT_STATE 3) with sys := { s.sys with selfRefresh := false } }).readsAnew.fixedVolt

/-- A write of 0 to SYS_THERM sets TEMP_MAX to TEMP_C (R571). -/
def State.thermReset (s : State) : State := s.setFld SYS_THERM SYS_THERM_TEMP_MAX (s.fld SYS_THERM SYS_THERM_TEMP_C)

/-- A write of KOL_PORT_CTL: PRECODE is IDLE, EN starts or stops the port (R13, R427, R428). -/
def State.writeKolCtl (s : State) (d : RegD) (n : Nat) (v : Word) : State :=
  let s := (s.applyWrite d (KOL_PORT_CTL n) (fset v KOL_PORT_CTL_EN (s.fld (KOL_PORT_CTL n) KOL_PORT_CTL_EN))).1
  if fget v KOL_PORT_CTL_EN = 1 then s.kolEnable n else s.kolDisable n

/-- A write of ETH_CFG: EN going to 1 restarts DGRAM_SEQ (R512, R513). -/
def State.writeEthCfg (s : State) (d : RegD) (v : Word) : State :=
  let was := s.on ETH_CFG ETH_CFG_EN
  let s := (s.applyWrite d ETH_CFG v).1
  let s := if !was && s.on ETH_CFG ETH_CFG_EN then { s with eth := { s.eth with seq := 0 } } else s
  (s.divertHold.stallCheck).tidy

/-- A write of POL changes at once which level counts as blocked (R94); jam timing starts afresh (R95; log entry 72). -/
def State.rePole (s : State) (k : Nat) (was : Bool) : State :=
  let b := tget default s.bar k
  if was == s.on (LIN_BAR_CFG k) LIN_BAR_CFG_POL || !b.known then s
  else
    let blocked := s.blockedLevel k b.level
    { s with bar := tput s.bar k { b with since := s.tb, jammed := b.jammed && blocked } }.setBlocked k blocked

/-- The IRQ_STAT register that a register belongs to, when it is an IRQ_STAT or IRQ_EN. -/
def irqStatOf (b a : Nat) : Option Nat :=
  let stats := [LIN_IRQ_STAT 0, CAL_IRQ_STAT 0, PIT_IRQ_STAT, PGM_IRQ_STAT, TOK_IRQ_STAT, DEC_IRQ_STAT, SCH_IRQ_STAT, KOL_IRQ_STAT 0, KOL_G_IRQ_STAT,
    TIM_IRQ_STAT, HIF_IRQ_STAT, RAS_IRQ_STAT, SNP_IRQ_STAT, SYS_IRQ_STAT]
  if stats.contains b then some a else if stats.contains (b - 4) then some (a - 4) else none

/-- What a write of a register sets going beyond its fields (R77, R102, R326, R467, R510, R515). -/
def State.afterWrite (s : State) (b a i : Nat) : State :=
  match irqStatOf b a with
  | some st => if s.irqCond st then s.sendIrq st else s
  | none =>
    if b = HIF_RESULT_BUDGET then (s.stallCheck.divertHold.stallCheck).tidy
    else if b = PGM_ITEM_LC_RESERVE then s.itemLow
    else if b = LIN_RET_SIZE 0 then s.freshRet
    else if b = TIM_CFG then s.parentCheck false
    else if b = PIT_GOV_STAT then s.freshOverride
    else if b = LIN_ENC_CFG 0 || b = LIN_ENC_LIMIT 0 then { s with enc := tupd s.enc i (fun e => { e with zPos := none }) }
    else s

/-! ### The two accesses -/

/-- A host write of `bytes` bytes at BAR0 offset `a` (R4, R9, R559, R573, R575-R580). -/
def State.hostWrite (s : State) (a bytes : Nat) (v : Word) : State :=
  if bytes ≠ 4 || a % 4 ≠ 0 || a / 0x100000 = 10 then s
  else
    match findReg a with
    | none => s
    | some (d, i, j) =>
      if !s.isReady then
        if d.base = HIF_SQ_TAIL 0 then s.setFld (HIF_SQ_ERR j) HIF_SQ_ERR_CODE 3 else s
      else if d.base = LIN_PORT_CTL 0 then if fget v LIN_PORT_CTL_EN = 1 then s.portEnable i else s.portDisable i
      else if d.base = CAL_CTL 0 then s.calCtl i v
      else if d.base = CAL_TAB_DATA 0 then s.tabWrite i v
      else if d.base = CAL_TAB_COMMIT 0 then if fget v CAL_TAB_COMMIT_COMMIT = 1 || s.calBusy i then s.tabCommit i else s
      else if d.base = HIF_SQ_CFG 0 then s.writeSqCfg d j v
      else if d.base = HIF_SQ_TAIL 0 then s.doorbell j (fget v HIF_SQ_TAIL_TAIL)
      else if d.base = HIF_RING_CFG 0 then s.writeRingCfg d j v
      else if d.base = HIF_RING_HEAD 0 then s.ringHead j v
      else if d.base = SCH_SB_SEL then s.sbSelect v
      else if d.base = SCH_SB_CLR then if fget v SCH_SB_CLR_CLEAR = 1 then s.sbClear else s
      else if d.base = SNP_CTL then s.writeSnpCtl d v
      else if [PIT_GOV_CFG, PIT_GOV_VLIM, PIT_GOV_FIXED, PIT_PWR_CAP].contains d.base then (s.writeGov a v).freshOverride
      else if d.base = SYS_PWR_CTL then s.writePwr v
      else if d.base = SYS_THERM then if v = 0 then s.thermReset else s
      else if d.base = KOL_PORT_CTL 0 then s.writeKolCtl d i v
      else if d.base = ETH_CFG then s.writeEthCfg d v
      else if d.base = LIN_BAR_CFG 0 then (s.plainWrite d a v).rePole j (s.on (LIN_BAR_CFG j) LIN_BAR_CFG_POL)
      else (s.plainWrite d a v).afterWrite d.base a i

/-- What a host read of a register returns, and which words it latches: the low word of a pair latches its high word, and TIM_NOW_LO all of the time; a latched word is returned once (R5, R464). -/
def State.readLatch (s : State) (d : RegD) (a : Nat) : State :=
  let put (s : State) (b : Nat) : State := { s with hiLatch := tput s.hiLatch b (s.readReg b) }
  let t := { s with rdata := s.readReg a }
  if a = TIM_NOW_LO then put (put (put t TIM_NOW_HI) TIM_TAI_LO) TIM_TAI_HI
  else if d.pair = .lo ∧ a ≠ TIM_TAI_LO then put t (a + 4)
  else
    match tfind s.hiLatch a with
    | some w => { s with hiLatch := tdel s.hiLatch a, rdata := w }
    | none => if a = TIM_TAI_LO then put t TIM_TAI_HI else t

/-- A host read of `bytes` bytes at BAR0 offset `a`; one that is not an aligned 32-bit read returns 0 and latches nothing (R4, R5, R131, R479, R559, R573). -/
def State.hostRead (s : State) (a bytes : Nat) : State :=
  if bytes ≠ 4 || a % 4 ≠ 0 || (!s.isReady && a / 0x100000 ≠ 1 && a ≠ HIF_STAT) then { s with rdata := 0 }
  else
    match findReg a with
    | none => { s with rdata := s.readReg a }
    | some (d, i, j) =>
      if d.base = CAL_TAB_DATA 0 then s.tabRead i
      else if d.base = TIM_PORT_POP 0 then s.txqPop j
      else s.readLatch d a

/-! ### The rows -/

/-- REG_WRITE (R4-R13, R575-R580). -/
def execRegWrite (addr : BitVec 26) (bytes : Nat) (v : Word) (s : State) : Out := s.onMain (fun s => s.hostWrite addr.toNat bytes v)

/-- LOW_WORD_READ: a host read, which latches the high word where it reads the low word of a pair (R5). -/
def execLowWordRead (addr : BitVec 26) (bytes : Nat) (s : State) : Out := s.onMain (fun s => s.hostRead addr.toNat bytes)

/-- TIM_NOW_READ (R464). -/
def execTimNowRead (s : State) : Out := s.onMain (fun s => s.hostRead TIM_NOW_LO 4)

/-- COUNTER_CLEAR: a write to a counter register (R579). -/
def execCounterClear (addr : BitVec 26) (v : Word) (s : State) : Out :=
  s.onMain (fun s =>
    match findReg addr.toNat with
    | some (d, _, _) => if d.clr then s.hostWrite addr.toNat 4 v else s
    | none => s)

/-- SQ_DOORBELL (R485, R486). -/
def execSqDoorbell (q : Fin 64) (tail : BitVec 16) (s : State) : Out := s.onMain (fun s => s.hostWrite (HIF_SQ_TAIL q) 4 (BitVec.ofNat 32 tail.toNat))

/-- SQ_ENABLE: a write of HIF_SQq_CFG with EN 1 (R486). -/
def execSqEnable (q : Fin 64) (cfg : Word) (s : State) : Out := s.onMain (fun s => s.hostWrite (HIF_SQ_CFG q) 4 (fset cfg HIF_SQ_CFG_EN 1))

/-- SQ_DISABLE: a write of HIF_SQq_CFG with EN 0 (R486). -/
def execSqDisable (q : Fin 64) (cfg : Word) (s : State) : Out := s.onMain (fun s => s.hostWrite (HIF_SQ_CFG q) 4 (fset cfg HIF_SQ_CFG_EN 0))

/-- RING_ENABLE: a write of HIF_RINGr_CFG with EN 1 (R488). -/
def execRingEnable (r : Fin 64) (cfg : Word) (s : State) : Out := s.onMain (fun s => s.hostWrite (HIF_RING_CFG r) 4 (fset cfg HIF_RING_CFG_EN 1))

/-- RING_HEAD_WRITE (R490, R509, R510). -/
def execRingHeadWrite (r : Fin 64) (v : Word) (s : State) : Out := s.onMain (fun s => s.hostWrite (HIF_RING_HEAD r) 4 v)

/-- SB_SELECT (R415, R416). -/
def execSbSelect (v : Word) (s : State) : Out := s.onMain (fun s => s.hostWrite SCH_SB_SEL 4 v)

/-- SB_CLEAR (R415). -/
def execSbClear (s : State) : Out := s.onMain (fun s => s.hostWrite SCH_SB_CLR 4 1)

/-- SNAP_REG_TRIGGER: a write of SNP_CTL with TRIGGER 1 (R540, R541). -/
def execSnapRegTrigger (ctl : Word) (s : State) : Out := s.onMain (fun s => s.hostWrite SNP_CTL 4 (fset ctl SNP_CTL_TRIGGER 1))

/-- SNAP_ARM: a write of SNP_CTL with ARM 1 (R541). -/
def execSnapArm (ctl : Word) (s : State) : Out := s.onMain (fun s => s.hostWrite SNP_CTL 4 (fset ctl SNP_CTL_ARM 1))

/-- STANDBY_ENTER (R564). -/
def execStandbyEnter (s : State) : Out := s.onMain (fun s => s.hostWrite SYS_PWR_CTL 4 1)

/-- STANDBY_EXIT (R564). -/
def execStandbyExit (s : State) : Out := s.onMain (fun s => s.hostWrite SYS_PWR_CTL 4 0)

/-- THERM_MAX_RESET (R571). -/
def execThermMaxReset (s : State) : Out := s.onMain (fun s => s.hostWrite SYS_THERM 4 0)

/-- KOL_PORT_ENABLE: a write of KOL_PORT_CTL with EN 1 (R427). -/
def execKolPortEnable (n : Fin 6) (ctl : Word) (s : State) : Out := s.onMain (fun s => s.hostWrite (KOL_PORT_CTL n) 4 (fset ctl KOL_PORT_CTL_EN 1))

/-- KOL_PORT_DISABLE: a write of KOL_PORT_CTL with EN 0 (R428). -/
def execKolPortDisable (n : Fin 6) (ctl : Word) (s : State) : Out := s.onMain (fun s => s.hostWrite (KOL_PORT_CTL n) 4 (fset ctl KOL_PORT_CTL_EN 0))

/-- ETH_ENABLE: a write of ETH_CFG with EN 1 (R512, R513). -/
def execEthEnable (cfg : Word) (s : State) : Out := s.onMain (fun s => s.hostWrite ETH_CFG 4 (fset cfg ETH_CFG_EN 1))

/-- TXQ_POP (R479). -/
def execTxqPop (p : Fin 7) (s : State) : Out := s.onMain (fun s => s.hostRead (TIM_PORT_POP p) 4)

/-- RING_IRQ_TIMER: TIME_US has passed since the first unsignalled record of a ring (R515). -/
def execRingIrqTimer (r : Fin 64) (s : State) : Out :=
  s.onMain (fun s =>
    let x := tget default s.rings r.val
    if x.unsig ≠ 0 && s.fld (HIF_RING_IRQ r) HIF_RING_IRQ_COUNT ≠ 0 && x.firstTb + s.fld (HIF_RING_IRQ r) HIF_RING_IRQ_TIME_US * 1000 ≤ s.tb then
      ({ s with rings := tput s.rings r.val { x with unsig := 0 } }).message (s.fld (HIF_RING_VEC r) HIF_RING_VEC_VEC)
    else s)

end Sys2Proof.Machine
end

