-- ==== Sys2Proof/Machine/Packets.lean ====
section
/-! DEFINITION. Command packets: the opcode table, the fetch with its checks, how a fetched command starts and completes, and the item and intake commands (R15, R25-R28, R48, R484-R500, R585; log entry 64). -/

namespace Sys2Proof.Machine

/-! ### The checks of a packet (R15, R389, R494, R497) -/

/-- A number without the bits of the given fields. -/
def withoutFields (fs : List (Nat × Nat)) (v : Nat) : Nat := fs.foldl (fun v f => v - (v >>> f.1) % 2 ^ f.2 * 2 ^ f.1) v

/-- The ranges that R497 and R389 state for fields of an opcode, beside what the field's width says. -/
def rangesOk (b : List Byte) : Bool :=
  match leAt b 0 1 with
  | 0x02 => imagePacketOk b
  | 0x05 => inside (leAt b 24 4) 1 4096
  | 0x61 => leAt b 16 2 ≤ 4095 && 1 ≤ leAt b 20 1
  | 0x62 => leAt b 16 2 ≤ 4095
  | 0x64 => leAt b 16 2 ≤ 4095
  | 0x82 => leAt b 16 1 ≤ 5
  | 0x83 => leAt b 20 4 ≤ 65504
  | 0xE1 => inside (leAt b 16 2) 1 1024 && inside (leAt b 18 2) 1 1024
  | _ => true

/-- Reserved bits 0, addresses aligned, fields in range (R15, R494, R497). -/
def OpRow.packetOk (r : OpRow) (b : List Byte) : Bool :=
  withoutFields (headerFields ++ r.fields) (leNat b) == 0 && r.addrs.all (fun a => leAt b a 8 % 32 == 0) && rangesOk b

/-! ### The fetch (R484-R487, R493, R495, R516, R564) -/

/-- What a packet is answered at its fetch, if it is not carried out (R15, R493, R495). -/
def State.packetRefusal (s : State) (q : Nat) (b : List Byte) : Option Status :=
  match opRow (leAt b 0 1) with
  | none => some .invalidOpcode
  | some r =>
    if r.exec = .umpire && !s.on (HIF_SQ_PERM q) HIF_SQ_PERM_PRIV then some .perm
    else if !s.ringOk q (leAt b 2 1 % 64) || !r.packetOk b then some .invalidField
    else none

/-- A Coach-executed command is not fetched while Coach is down or in STANDBY (R516, R564). -/
def State.coachHeld (s : State) (b : List Byte) : Bool :=
  coachRuns (leAt b 0 1) && (!s.on HIF_STAT HIF_STAT_COACH_UP || s.standby)

/-- The packet that lies at HEAD of a queue. -/
def State.headPacket (s : State) (q : Nat) : List Byte :=
  s.hread (s.pair (HIF_SQ_BASE_LO q) / 4096 * 4096 + s.fld (HIF_SQ_HEAD q) HIF_SQ_HEAD_HEAD % 2 ^ s.fld (HIF_SQ_CFG q) HIF_SQ_CFG_LOG2_SIZE * 64) 64

/-- PACKET_FETCH: copy the packet at HEAD and advance HEAD; one that is refused completes at once (R485, R495). -/
def execPacketFetch (q : Fin 64) (s : State) : Out :=
  s.onMain (fun s =>
    let q := q.val
    let pos := s.fld (HIF_SQ_HEAD q) HIF_SQ_HEAD_HEAD
    let b := s.headPacket q
    if !s.on (HIF_SQ_CFG q) HIF_SQ_CFG_EN || (tget default s.sqs q).stopped || pos = s.fld (HIF_SQ_TAIL q) HIF_SQ_TAIL_TAIL || s.coachHeld b then s
    else
      let s := s.setFld (HIF_SQ_HEAD q) HIF_SQ_HEAD_HEAD (pos + 1)
      let s := { s with sqs := tput s.sqs q { tget default s.sqs q with readTb := s.tb } }
      match s.packetRefusal q b with
      | some st => s.reply q pos b st 0 0
      | none => { s with fetched := s.fetched ++ [{ sq := q, pos := pos + 65536 * (tget default s.sqs q).enabled, bytes := b, running := false, openedItem := 0 }] })

/-! ### Starting a command (R487) -/

/-- The key of the command that waits to start at a position of a queue: its position, above that how often the queue had been enabled when it was fetched, so that a command of an earlier enabling keeps its own (R486, R487). -/
def State.cmdKey (s : State) (q : Fin 64) (pos : BitVec 16) : Nat :=
  ((s.fetched.find? (fun f => f.sq == q.val && f.pos % 65536 == pos.toNat && !f.running)).map (·.pos)).getD pos.toNat

/-- The bytes of a fetched command that may start now: it is the first of its queue that waits to start, with FENCE none is incomplete, and Coach runs its commands only while it is up. -/
def State.startable (s : State) (q : Fin 64) (pos : BitVec 16) (op : Nat) : Option (List Byte) :=
  match s.fetched.find? (fun g => g.sq == q.val && !g.running) with
  | none => none
  | some f =>
    let alone := (s.fetched.find? (fun g => g.sq == q.val)).any (fun g => g.pos == f.pos)
    if f.pos % 65536 = pos.toNat && leAt f.bytes 0 1 = op && (!bit (leAt f.bytes 1 1) 7 || alone) && !s.coachHeld f.bytes then some f.bytes else none

/-- Run a command that may start, by its key; nothing happens to one that may not. -/
def State.command (s : State) (q : Fin 64) (pos : BitVec 16) (op : Nat) (f : State → Nat → List Byte → State) : State :=
  match s.startable q pos op with
  | some b => f s (s.cmdKey q pos) b
  | none => s

/-- A command that has started and completes later. -/
def State.setRunning (s : State) (q pos : Nat) : State :=
  { s with fetched := s.fetched.map (fun f => if f.sq = q && f.pos = pos then { f with running := true } else f) }

/-- A command that started and still waits (for a transfer that a regulator holds): its key and its bytes. -/
def State.waitingOn (s : State) (q : Fin 64) (pos : BitVec 16) (op : Nat) : Option (Nat × List Byte) :=
  (s.fetched.find? (fun f => f.sq == q.val && f.pos % 65536 == pos.toNat && f.running && leAt f.bytes 0 1 == op)).map (fun f => (f.pos, f.bytes))

/-- Partition of a queue (R495). -/
def State.sqPart (s : State) (q : Nat) : Nat := s.fld (HIF_SQ_PERM q) HIF_SQ_PERM_PART

/-- A command on an item: it completes STALE_ITEM where its ID names none (R25). -/
def State.onItem (s : State) (q : Fin 64) (k : Nat) (b : List Byte) (f : State → Nat → State) : State :=
  match s.liveItem (leAt b 8 4) with
  | some i => f s i
  | none => s.complete q k .staleItem (leAt b 8 4) 0

/-! ### Items (R25-R28, R36-R38, R48, R497, R498) -/

/-- ITEM_OPEN: an opening event by the host; its command waits with an opening that waits (R26, R37, R497; log entry 64). -/
def execItemOpen (q : Fin 64) (pos : BitVec 16) (s : State) : Out :=
  s.onMain (fun s => s.command q pos 0x01 (fun s k b =>
    let n := leAt b 16 1 % 4
    if s.asWritten (LIN_GATE_CFG n) LIN_GATE_CFG_OPEN_SRC ≠ 3 && s.isSlave n then s.complete q k .invalidField 0 0
    else ((s.setRunning q k).openEvent n 3 s.now (some (q.val, k))).2))

/-- The HOSTIMAGE of a command at a position of a queue whose bytes are still to be read. -/
def State.imageOf (s : State) (q : Fin 64) (pos : BitVec 16) : Option (Nat × Image) :=
  s.images.find? (fun m => m.2.sq == q.val && m.2.pos % 65536 == pos.toNat && !m.2.fetched && (s.item m.1).state != .done)

/-- IMAGE_SUBMIT: open the HOSTIMAGE; when it has its entry, the decode engine fetches its bytes (R26, R27, R361, R367, R387, R498, R501); an LC one without a free entry is answered by its record, as a PIECE is (log entry 28). -/
def execImageSubmit (q : Fin 64) (pos : BitVec 16) (s : State) : Out :=
  s.onMain (fun s =>
    let fetch (s : State) : State := (s.imageOf q pos).elim s (fun m => s.fetchImage m.1 m.2)
    if (s.imageOf q pos).isSome then fetch s
    else s.command q pos 0x02 (fun s k b =>
        let cls : Cls := if bit (leAt b 17 1) 0 then .be else .lc
        if (tfind s.playbooks (leAt b 44 4)).isNone then s.complete q k .notFound 0 0
        else
          if s.canOpen cls then fetch (s.placeImage q k cls b)
          else if cls = .be then
            { s.setRunning q k with beWait := s.beWait ++ [{ (default : BeWait) with typ := .image, stamp := s.now, sq := some (q.val, k) }] }
          else (s.complete q k .ok 0 0).exhausted (imagePiece b s.now) (s.sqPart q) (leAt b 24 4) cls))

/-- ITEM_ABORT (R25, R48). -/
def execItemAbort (q : Fin 64) (pos : BitVec 16) (s : State) : Out :=
  s.onMain (fun s => s.command q pos 0x03 (fun s k b => s.onItem q k b (fun s i => ((s.abortItem i).complete q k .ok (leAt b 8 4) 0).tidy)))

/-- Code of a TYPE (R19). -/
def ItemType.code : ItemType → Nat
  | .none => 0 | .piece => 1 | .side => 2 | .region => 3 | .seq => 4 | .image => 5

/-- Code of a STATE (R29). -/
def ItemState.code : ItemState → Nat
  | .free => 0 | .opened => 1 | .sealed => 2 | .overtime => 3 | .done => 4

/-- The 32 bytes of an item table entry (R28). -/
def State.entryBytes (s : State) (i : Nat) : List Byte :=
  let e := s.item i
  leBytes 4 (s.itemId i) ++ leBytes 4 (s.itemId e.parent) ++ leBytes 1 (e.state.code * 16 + clsNum e.cls * 8 + e.typ.code)
    ++ leBytes 1 (b2n e.demoted * 32 + e.part % 8 * 4 + e.port % 4) ++ leBytes 2 e.children ++ leBytes 4 e.orderKey ++ leBytes 6 e.deadline ++ zeros 2
    ++ leBytes 6 e.openStamp ++ zeros 2

/-- ITEM_QUERY (R25, R28). -/
def execItemQuery (q : Fin 64) (pos : BitVec 16) (s : State) : Out :=
  s.onMain (fun s => s.command q pos 0x04 (fun s k b => s.onItem q k b (fun s i =>
    (s.hwrite (leAt b 16 8) (s.entryBytes i)).complete q k .ok (leAt b 8 4) 0)))

/-- The loaded table set of a number (R331). -/
def State.tsetAt (s : State) (k : Nat) : Option TSet :=
  (s.models.find? (fun m => m.slot == k && !m.loading)).bind (fun m => s.tableSet m.playbook m.model)

/-- TOKENIZE (R333-R335, R500). -/
def execTokenize (q : Fin 64) (pos : BitVec 16) (s : State) : Out :=
  s.onMain (fun s => s.command q pos 0x05 (fun s k b =>
    match s.tsetAt (leAt b 28 1) with
    | none => s.complete q k .notFound 0 0
    | some ts =>
      let r := tokenize ts (s.hread (leAt b 16 8) (leAt b 24 4))
      let out := r.1.take (leAt b 40 4)
      let s := { s with textNo := s.textNo + 1, repairedTexts := if 0 < r.2 then s.repairedTexts ++ [s.textNo] else s.repairedTexts }
      let s := if 0 < r.2 then (s.incReg TOK_REPAIR_CNT r.2).raise TOK_IRQ_STAT 2 else s
      (s.hwrite (leAt b 32 8) (out.flatMap (leBytes 2))).complete q k .ok 0 out.length (decide (0 < r.2))))

/-! ### Retained lines (R585) -/

/-- The lines of a SIDE from a line number on: up to `n` of them, whole, within `room` bytes, as far as they are held. -/
def copyLines (held : Nat → Option RetLine) : Nat → Nat → Nat → List RetLine
  | 0, _, _ => []
  | n + 1, k, room =>
    match held k with
    | none => []
    | some r => if room < r.bytes.length then [] else r :: copyLines held n (k + 1) (room - r.bytes.length)

/-- The records that lie whole within `room` bytes. -/
def wholeWithin : Nat → List (List Byte) → List (List Byte)
  | _, [] => []
  | room, r :: t => if room < r.length then [] else r :: wholeWithin (room - r.length) t

/-- A line of a SIDE as the ring in DRAM holds it, while no later record has overwritten it. -/
def State.heldLine (s : State) (port side k : Nat) : Option RetLine := (s.linPort port).retLines.find? (fun l => l.side == side && l.lineNo == k)

/-- RET_READ: a plane in an uncorrectable word is taken as in R66 (R25, R500, R529, R585). -/
def execRetRead (q : Fin 64) (pos : BitVec 16) (s : State) : Out :=
  s.onMain (fun s => s.command q pos 0x20 (fun s k b => s.onItem q k b (fun s i =>
    match tfind s.sides i with
    | none => s.complete q k .invalidField (leAt b 8 4) 0
    | some d =>
      let r := s.readLines d.port (copyLines (s.heldLine d.port (s.itemId i)) (min (leAt b 20 4) ((s.linPort d.port).retLines.length)) (leAt b 16 4) (leAt b 32 4))
      let ls := wholeWithin (leAt b 32 4) (r.2.map (·.bytes))
      (r.1.hwrite (leAt b 24 8) ls.flatten).complete q k .ok (leAt b 8 4) (ls.flatten.length + 2 ^ 32 * ls.length))))

end Sys2Proof.Machine
end

