-- ==== Sys2Proof/Machine/Load.lean ====
section
/-! DEFINITION. Playbooks and models: the load checks, loading and unloading, pinning, the binding of a port (R300, R331-R337, R348-R350, R372, R375, R379, R391, R392, R399-R402, R497; log entries 6, 7 and 65). -/

namespace Sys2Proof.Machine

/-! ### Limits of models, jobs, tables and pools -/

/-- A model keeps its limits (R344, R348, R351, R371-R375, R379). -/
def Model.ok (p : Playbook) (m : Model) : Bool :=
  m.tset < p.tsets.length && inside m.maxTokens 1 32768 && m.stops.length ≤ 4
    && m.stops.all (fun l => inside l.length 1 32 && (asmText l).all (fun c => !c.repair)) && distinct m.fieldList
    && inside m.budgetTok 1 32768 && inside m.budgetUs 10 1000000 && m.npass ≤ 8 && (m.npass = 0 || inside m.voteQuorum 2 9)
    && decide (0 ≤ m.maxShift) && decide (m.maxShift ≤ 2) && decide (0 ≤ m.maxRot) && decide (m.maxRot ≤ 3)
    && decide (0 ≤ m.maxScale) && decide (m.maxScale ≤ 1 / 20) && decide (0 ≤ m.maxGain) && decide (m.maxGain ≤ 1 / 5) && m.maxOfs ≤ 256 && m.blurMax ≤ 2

/-- The slots of a cyclic table stand in order, apart, and within the major frame (R392). -/
def slotsOk (major : Nat) : Nat → List Slot → Bool
  | _, [] => true
  | at_, l :: t => at_ ≤ l.start && 1 ≤ l.len && l.start + l.len ≤ major && slotsOk major (l.start + l.len) t

/-- The context of a slot is LC in the table's partition, where it is defined (R392; log entry 65). -/
def State.slotCtxOk (s : State) (part : Nat) (l : Slot) : Bool :=
  let c := s.ctxSt l.ctx
  l.ctx < 4096 && (c.state = .undefined || (c.cls = .lc && c.part == part))

/-- A cyclic table keeps R391 and R392. -/
def State.tableOk (s : State) (part : Nat) (t : CycTable) : Bool :=
  inside t.major 1 1000 && t.slots.length ≤ 256 && inside t.vgroups 1 16 && rising (t.slots.map (·.start)) && slotsOk t.major 0 t.slots && t.slots.all (s.slotCtxOk part)

/-- The frame pools of a playbook (R300). -/
def poolsOk (l : List PoolCfg) : Bool :=
  l.all (fun p => p.tile < 256 && p.size ≤ 64) && distinct (l.map (·.tile)) && (l.map (·.size)).foldl (· + ·) 0 ≤ 16384

/-- The pinned models of a playbook, by number. -/
def Playbook.pinned (p : Playbook) : List (Nat × Model) := ((List.range p.models.length).zip p.models).filter (fun m => m.2.pinned)

/-- Umpire and Coach take a playbook for a partition (R300, R331, R392, R400). -/
def State.playbookOk (s : State) (part : Nat) (p : Playbook) : Bool :=
  p.tsets.all TSetImage.ok && p.models.all (Model.ok p) && p.tables.all tableBytesOk && p.cyclic.all (s.tableOk part) && poolsOk p.pools
    && p.jobs.all (fun j => inside j.variants.length 1 4) && p.fns.all (fun f => f.admitRows ≤ 256)

/-- Load the pinned models of a playbook; false when one does not fit (R401). -/
def State.loadPinned (s : State) (part id : Nat) : List (Nat × Model) → State × Bool
  | [] => (s, true)
  | (k, m) :: t =>
    match s.modelRoom part m.bytes (s.models.length + 1) with
    | (s, true) => State.loadPinned (s.startLoad part id k m) part id t
    | (s, false) => (s, false)

/-! ### The commands (R497) -/

/-- PLAYBOOK_LOAD: RESULT is the number under which it is loaded, counted up from 1 (R497, R501, R529; log entry 65). -/
def execPlaybookLoad (q : Fin 64) (pos : BitVec 16) (s : State) : Out :=
  s.onMain (fun s => s.command q pos 0x40 (fun s k b =>
    let data := s.hread (leAt b 16 8) (leAt b 24 4)
    let part := s.sqPart q
    let no (s : State) := s.complete q k .playbookRejected 0 0
    match Config.playbookOf data with
    | none => no s
    | some p =>
      if !Config.playbookSigned data || !s.playbookOk part p then no s
      else
        let id := (s.nextPb + 1) % 2 ^ 32
        let t := { s with nextPb := id, playbooks := tput s.playbooks id { pb := p, tsets := p.tsets.map TSetImage.read, bytes := data.length, part := part, corrupt := false } }.dwrite
          (Config.playbookPlace id) data
        match t.loadPinned part id p.pinned with
        | (t, true) => t.freshTsets.complete q k .ok 0 id
        | (_, false) => no s))

/-- A playbook is in use: a port, a context, an open item, a table or a prefix of a sequence depends on it (R501; log entry 65). -/
def State.playbookUsed (s : State) (id : Nat) : Bool :=
  s.lin.any (fun p => (p.2.bound && p.2.bindPb == id) || (p.2.nextBound && p.2.nextPb == id))
    || s.ctxs.any (fun c => c.2.state != .undefined && c.2.playbook == id)
    || s.pieces.any (fun p => p.2.playbook == id && (s.item p.1).state != .done)
    || s.seqs.any (fun x => x.2.playbook == id && x.2.ending == .running)
    || s.parts.any (fun p => (p.2.table.any (fun t => t.1 == id)) || (p.2.nextTable.any (fun t => t.1 == id)))

/-- PLAYBOOK_UNLOAD: its models leave with it (R402, R497, R501). -/
def execPlaybookUnload (q : Fin 64) (pos : BitVec 16) (s : State) : Out :=
  s.onMain (fun s => s.command q pos 0x41 (fun s k b =>
    let id := leAt b 16 4
    if (tfind s.playbooks id).isNone then s.complete q k .notFound 0 0
    else if s.playbookUsed id then s.complete q k .busy 0 0
    else
      let s := (s.models.filter (fun m => m.playbook == id)).foldl (fun s m => s.dropModel id m.model) s
      ({ s with playbooks := tdel s.playbooks id }).complete q k .ok 0 0))

/-- MODEL_PIN (R401, R497, R501). -/
def execModelPin (q : Fin 64) (pos : BitVec 16) (s : State) : Out :=
  s.onMain (fun s => s.command q pos 0x42 (fun s k b =>
    let id := leAt b 16 4
    let m := leAt b 20 2
    let pin := bit (leAt b 22 1) 0
    match (tfind s.playbooks id).bind (fun l => l.pb.models[m]?) with
    | none => s.complete q k .notFound 0 0
    | some _ =>
      let s := s.modRes id m (fun r => { r with pinned := pin })
      ({ s with playbooks := tupd s.playbooks id (fun l => { l with pb := { l.pb with models := l.pb.models.modify m (fun x => { x with pinned := pin }) } }) }).complete
        q k .ok 0 0))

/-- A function of a loaded playbook exists. -/
def State.hasFn (s : State) (id fn : Nat) : Bool := (tfind s.playbooks id).any (fun l => decide (fn < l.pb.fns.length))

/-- PORT_BIND: the binding takes effect when the next item opens on the port (R11, R497). -/
def execPortBind (q : Fin 64) (pos : BitVec 16) (s : State) : Out :=
  s.onMain (fun s => s.command q pos 0x43 (fun s k b =>
    let id := leAt b 20 4
    if !s.hasFn id (leAt b 24 2) then s.complete q k .notFound 0 0
    else
      (s.modLin (leAt b 16 1 % 4) (fun p => { p with nextPb := id, nextFn := leAt b 24 2, nextBound := true })).complete q k .ok 0 0))

end Sys2Proof.Machine
end

