-- ==== Sys2Proof/Machine/SchedCmd.lean ====
section
/-! DEFINITION. The scheduling commands: partitions, contexts and tables (R383-R393, R408, R410, R413; log entry 65). -/

namespace Sys2Proof.Machine

/-! ### Partitions (R384-R386) -/

/-- The fields of a partition descriptor lie in their ranges and its reserved bits are 0 (R384, R385). -/
def descriptorOk (d : List Byte) : Bool :=
  leAt d 0 1 < 8 && leAt d 1 1 < 16 && leAt d 1 1 + leAt d 2 1 ≤ 16 && inside (leAt d 3 1) 1 64
    && inside (leAt d 4 4) 1000 100000 && inside (leAt d 8 4) 4096 16777216 && leAt d 12 4 ≤ 120000 && inside (leAt d 16 4) 4096 16777216
    && leAt d 20 4 ≤ 24000 && inside (leAt d 24 4) 4096 16777216 && leAt d 32 32 == 0

/-- The partition that a descriptor describes; a bucket starts at its burst (R386). -/
def partOf64 (d : List Byte) : PartSt :=
  let bucket (i : Nat) : Bucket := { level := leAt d (i + 4) 4, rate := leAt d i 4, burst := leAt d (i + 4) 4 }
  { (default : PartSt) with
    valid := leAt d 2 1 != 0, first := leAt d 1 1, groups := leAt d 2 1, resMax := leAt d 3 1
    dram := bucket 4, fab := bucket 12, hdma := bucket 20, kvBudget := leAt d 28 4 }

/-- With these partitions, two share a group or a sum passes its limit (R385). -/
def State.conflict (s : State) (ps : List PartSt) : Bool :=
  let sum (f : PartSt → Nat) : Nat := (ps.map f).foldl (· + ·) 0
  !distinct (ps.flatMap PartSt.groupList) || 100000 < sum (·.dram.rate) || 120000 < sum (·.fab.rate) || 24000 < sum (·.hdma.rate)
    || 64 < sum (·.resMax) || s.fld PGM_DRAM_FRAMES PGM_DRAM_FRAMES_DRAM_FRAMES < sum (·.kvBudget)

/-- Put a partition and its registers (R328, R384, R415); one with GROUPS 0 is deleted. -/
def State.putPart (s : State) (p : Nat) (x : PartSt) : State :=
  let x := if x.valid then x else default
  let a := SCH_PART_CFG p
  let s := { s with parts := tput s.parts p x }
  let s := (((s.setFld a SCH_PART_CFG_VALID (b2n x.valid)).setFld a SCH_PART_CFG_RES_MAX x.resMax).setFld a SCH_PART_CFG_GROUPS x.groups).setFld a SCH_PART_CFG_FIRST_GROUP x.first
  let s := ((s.setFld (SCH_PART_DRAM_RATE p) SCH_PART_DRAM_RATE_RATE_MBS x.dram.rate).setFld (SCH_PART_FAB_RATE p) SCH_PART_FAB_RATE_RATE_MBS x.fab.rate).setFld
    (SCH_PART_HDMA_RATE p) SCH_PART_HDMA_RATE_RATE_MBS x.hdma.rate
  (s.setFld (PGM_PART_DRAM p) PGM_PART_DRAM_BUDGET x.kvBudget).freshPart p

/-- PART_CONFIG (R384, R385, R413). What a partition that stays keeps: its table, frame and transfers that wait. -/
def execPartConfig (q : Fin 64) (pos : BitVec 16) (s : State) : Out :=
  s.onMain (fun s => s.command q pos 0x60 (fun s k b =>
    let d := s.hread (leAt b 16 8) 64
    let p := leAt d 0 1
    let x := partOf64 d
    let others := (s.parts.filter (fun y => y.1 != p && y.2.valid)).map (·.2)
    if !descriptorOk d then s.complete q k .invalidField 0 0
    else if 0 < s.residents p then s.complete q k .partBusy 0 0
    else if x.valid && s.conflict (x :: others) then s.complete q k .partConflict 0 0
    else
      let o := s.partSt p
      let x := { x with dramWait := o.dramWait, fabWait := o.fabWait, hdmaWait := o.hdmaWait, granted := o.granted, table := o.table, nextTable := o.nextTable
                        variantDue := o.variantDue, halted := o.halted, frameStart := o.frameStart, slot := o.slot, slotEndTb := o.slotEndTb, nextSlot := o.nextSlot }
      (s.putPart p x).complete q k .ok 0 0))

/-! ### Contexts (R389, R408, R410, R413) -/

/-- CTX_DEFINE (R389, R410, R413, R501). -/
def execCtxDefine (q : Fin 64) (pos : BitVec 16) (s : State) : Out :=
  s.onMain (fun s => s.command q pos 0x61 (fun s k b =>
    let c := leAt b 16 2
    if (s.ctxSt c).state ≠ .undefined then s.complete q k .ctxBusy 0 0
    else if !s.hasFn (leAt b 24 4) (leAt b 28 2) then s.complete q k .notFound 0 0
    else
      let x : Ctx := { (default : Ctx) with
        state := .idle, part := leAt b 18 1 % 8, cls := if bit (leAt b 19 1) 0 then .be else .lc, restart := bit (leAt b 19 1) 1, weight := leAt b 20 1
        playbook := leAt b 24 4, fn := leAt b 28 2 }
      ({ s with ctxs := tput s.ctxs c x }.freshSch).complete q k .ok 0 0))

/-- What waits for a context that is deleted ends ERROR, NO_CONTEXT (R390). -/
def State.orphan (s : State) (i : Nat) : State :=
  match tfind s.seqs i with
  | some _ => s.endSeq i .noContext
  | none =>
    match tfind s.sides i with
    | some d => s.endPiece d.piece .error .noContext
    | none =>
      match tfind s.images i with
      | some _ => s.endPiece i .error .noContext
      | none => s

/-- CTX_DELETE of an IDLE or FAULTED context: its jobs that left their tiles at a cut end with it, and it is switched in no more (R390, R413). -/
def execCtxDelete (q : Fin 64) (pos : BitVec 16) (s : State) : Out :=
  s.onMain (fun s => s.command q pos 0x62 (fun s k b =>
    let c := leAt b 16 2
    let x := s.ctxSt c
    if x.state ≠ .idle && x.state ≠ .faulted then s.complete q k .ctxBusy 0 0
    else
      let js := s.jobs.filter (fun j => j.2.ctx == c)
      let items := ((s.ready.filter (fun r => r.ctx == c)).map (·.item) ++ js.flatMap (fun j => j.2.item :: j.2.seqs)).eraseDups
      let s := { s with jobs := s.jobs.filter (fun j => j.2.ctx != c), ready := s.ready.filter (fun r => r.ctx != c), ctxs := tdel s.ctxs c }
      let s := s.modPart x.part (fun p => { p with switchIn := p.switchIn.filter (· != c), evictee := p.evictee.filter (fun e => e.2 != c) })
      ((items.foldl State.orphan s).freshSch).complete q k .ok 0 0))

/-- CTX_RESTART: FAULTED becomes IDLE (R408, R413). -/
def execCtxRestart (q : Fin 64) (pos : BitVec 16) (s : State) : Out :=
  s.onMain (fun s => s.command q pos 0x64 (fun s k b =>
    let c := leAt b 16 2
    let x := s.ctxSt c
    if x.state ≠ .faulted then s.complete q k .ctxBusy 0 0
    else ((s.modCtx c (fun x => { x with state := .idle, tearing := false })).freshSch).complete q k .ok 0 0))

/-! ### Tables (R393) -/

/-- The table of a playbook that an identifier names: the variant for the usable groups before others (R391, R409). -/
def State.tableNamed (s : State) (p pb id : Nat) : Option (Nat × Nat) :=
  let ts := ((s.playbook pb).map Playbook.cyclic).getD []
  let named := ((List.range ts.length).zip ts).filter (fun x => x.2.id == id)
  ((named.find? (fun x => x.2.vgroups == s.usable p)).or named.head?).map (fun x => (pb, x.1))

/-- TABLE_SELECT: active at the next major frame boundary, or at once where no table is (R393). -/
def execTableSelect (q : Fin 64) (pos : BitVec 16) (s : State) : Out :=
  s.onMain (fun s => s.command q pos 0x63 (fun s k b =>
    let p := leAt b 16 1 % 8
    match s.tableNamed p (leAt b 20 4) (leAt b 18 2) with
    | none => s.complete q k .notFound 0 0
    | some t =>
      (if (s.activeTable p).isNone then s.activate p t (ns48 s.now) else s.modPart p (fun x => { x with nextTable := some t })).complete q k .ok 0 0))

end Sys2Proof.Machine
end

