-- ==== Sys2Proof/Machine/Admin.lean ====
section
/-! DEFINITION. The fabric, time, diagnostics and Norentum commands (R439, R444, R447, R457, R474-R477, R481, R497, R499, R540-R544; log entry 66). -/

namespace Sys2Proof.Machine

/-! ### Fabric (R457) -/

/-- HUDDLE: it completes when the huddle ends, with the device count (R444, R497). -/
def execHuddle (q : Fin 64) (pos : BitVec 16) (s : State) : Out :=
  s.onMain (fun s => s.command q pos 0x80 (fun s k _ =>
    let s := (s.setRunning q k).startHuddle ((s.epoch + 1) % 65536)
    s.modHuddle (fun h => { h with cmds := h.cmds ++ [(q.val, k)] })))

/-- The partnership ends: nothing is relayed or caught any more (R447, R451). -/
def State.endPartner (s : State) : State :=
  ({ s.setFld KOL_CATCH_CFG KOL_CATCH_CFG_PARTNER_VALID 0 with
      pieces := tmap s.pieces (fun _ p => { p with relayed := false })
      kol := { s.kol with source := none, hbTb := none, relayOut := [], relayIn := [], relayPos := 0, relayStopped := false, partnerLost := false, tookOver := false } }).tidy

/-- CATCH_SET: a partner to relay to and to catch for, or the end of the partnership; another source than the one caught for is refused (R447, R454, R457). -/
def execCatchSet (q : Fin 64) (pos : BitVec 16) (s : State) : Out :=
  s.onMain (fun s => s.command q pos 0x81 (fun s k b =>
    if bit (leAt b 19 1) 0 then s.endPartner.complete q k .ok 0 0
    else
      let d := leAt b 16 1
      if s.partner?.any (fun p => p != d) then s.complete q k .partnerBusy 0 0
      else
        let same := s.partner? == some d
        let a := KOL_CATCH_CFG
        let s := ((s.setFld a KOL_CATCH_CFG_PARTNER_VALID 1).setFld a KOL_CATCH_CFG_PARTNER d).setFld a KOL_CATCH_CFG_CATCH_PART (leAt b 17 1)
        let s := (s.setFld a KOL_CATCH_CFG_SHADOW_EN (leAt b 18 1)).setFld a KOL_CATCH_CFG_SHADOW_BAR (leAt b 20 2)
        let s := if same then s else
          { s with kol := { s.kol with source := some d, hbTb := some s.tb, relaySeq := 0, relayOut := [], relayStopped := false, relayIn := [], relayExp := 0
                                       relayPos := 0, lastKey := [], hbAccepted := 0, partnerLost := false, tookOver := false } }
        s.complete q k .ok 0 0))

/-- LINK_RESET: clears and sets EN of a port (R457). -/
def execLinkReset (q : Fin 64) (pos : BitVec 16) (s : State) : Out :=
  s.onMain (fun s => s.command q pos 0x82 (fun s k b => ((s.kolDisable (leAt b 16 1)).kolEnable (leAt b 16 1)).complete q k .ok 0 0))

/-- Send the POST of a command once the partition's fabric regulator lets it pass (R387, R434, R438, R439). -/
def State.sendPost (s : State) (q pos : Nat) (b : List Byte) : State :=
  let vc := if bit (leAt b 18 1) 0 then vcBe else vcLc
  let len := leAt b 20 4
  match s.regulate (s.sqPart q) .fab (if vc = vcLc then .lc else .be) len (whoOf 7 (q * 2 ^ 32 + pos)) with
  | (s, false) => s
  | (s, true) =>
    let txn := s.kol.nextTxn
    let msg := mkMsg 0x10 0 0 txn s.now (leBytes 1 (leAt b 17 1 % 64)) (s.hread (leAt b 24 8) len)
    let t : Txn := { dst := leAt b 16 1, vc := vc, msgs := [msg], sends := 1, sentTb := s.tb, cmd := some (q, pos), seq := none }
    ({ s with kol := { s.kol with nextTxn := (txn + 1) % 2 ^ 32, txns := tput s.kol.txns txn t } }).sendTxn t.dst vc msg (some (s.sqPart q))

/-- REMOTE_POST: it completes with its transaction, whose TXN_ID is the RESULT (R439, R457, R497). -/
def execRemotePost (q : Fin 64) (pos : BitVec 16) (s : State) : Out :=
  s.onMain (fun s =>
    match s.waitingOn q pos 0x83 with
    | some (k, b) => if s.kol.txns.any (fun t => t.2.cmd == some (q.val, k)) then s else s.sendPost q k b
    | none => s.command q pos 0x83 (fun s k b => (s.setRunning q k).sendPost q k b))

/-! ### Time (R474-R477, R481) -/

/-- TIME_STEP_ACCEPT; a step of more than 1 s either way is out of range (R474-R477). -/
def execTimeStepAccept (q : Fin 64) (pos : BitVec 16) (s : State) : Out :=
  s.onTime (fun s =>
    match s.startable q pos 0xA0 with
    | none => (s, 0)
    | some b =>
      let c := sgn 64 (leAt b 16 8)
      if leAt b 16 8 ≠ s.pair TIM_PENDING_LO then (s.complete q (s.cmdKey q pos) .timeMismatch 0 0, 0)
      else if 1000000000 < c.natAbs then (s.complete q (s.cmdKey q pos) .timeRange 0 0, 0)
      else ((((s.stepTime (c * 65536)).shiftDeadlines c).endHoldover).complete q (s.cmdKey q pos) .ok 0 0, c * 65536)) Met.takeStep

/-- Fabric time and TAI are set together: TAI nanoseconds follow from R463 (R463, R481). -/
def State.setTime (s : State) (t tai : Nat) : State :=
  { s with tim := { s.tim with now := BitVec.ofNat 64 t, tai := tai, stopNs := 0, taiNs := (t / 65536 + 2 ^ 48 - tai * 1000000000 % 2 ^ 48) % 2 ^ 48 % 1000000000 } }

/-- TIME_SET: only while no item is open and no intake port has EN 1; Norentum takes the difference as a step (R477, R481). -/
def execTimeSet (q : Fin 64) (pos : BitVec 16) (s : State) : Out :=
  s.onTime (fun s =>
    match s.startable q pos 0xA1 with
    | none => (s, 0)
    | some b =>
      if s.items.any (fun e => e.2.state != .free) || (List.range 4).any (fun n => s.on (LIN_PORT_CTL n) LIN_PORT_CTL_EN) then (s.complete q (s.cmdKey q pos) .timeBusy 0 0, 0)
      else
        (((s.setTime (leAt b 16 8) (leAt b 24 6)).addWrap TIM_TAI_HI TIM_TAI_HI_EPOCH).complete q (s.cmdKey q pos) .ok 0 0, sdiff 64 (leAt b 16 8) s.now.toNat + (s.tim.stopNs * 65536 : Nat))) Met.takeStep

/-- TIME_QUERY: TAI_SEC and TIM_STAT [15:0]; fabric time is the reply's DONE_STAMP (R481, R497). -/
def execTimeQuery (q : Fin 64) (pos : BitVec 16) (s : State) : Out :=
  s.onMain (fun s => s.command q pos 0xA2 (fun s k _ => s.complete q k .ok 0 (s.tim.tai % 2 ^ 48 + (s.readReg TIM_STAT).toNat % 65536 * 2 ^ 48)))

/-! ### Diagnostics and snapshot (R497, R540, R541, R544) -/

/-- ECHO (R497). -/
def execEcho (q : Fin 64) (pos : BitVec 16) (s : State) : Out :=
  s.onMain (fun s => s.command q pos 0xC0 (fun s k b => s.complete q k .ok 0 (leAt b 4 4 + 2 ^ 32 * leAt b 4 4)))

/-- SNAP_TRIGGER: RESULT is the trigger stamp, 0 when the trigger does not act (R541, R497). -/
def execSnapTrigger (q : Fin 64) (pos : BitVec 16) (s : State) : Out :=
  s.onMain (fun s => s.command q pos 0xC1 (fun s k _ =>
    let stamp := s.now
    match s.snapTrigger stamp 4 0 with
    | (s, true) => s.complete q k .ok 0 stamp.toNat
    | (s, false) => s.complete q k .ok 0 0))

/-- SNAP_READ: at most MAX_BYTES of the snapshot, nothing without VALID (R544). -/
def execSnapRead (q : Fin 64) (pos : BitVec 16) (s : State) : Out :=
  s.onMain (fun s => s.command q pos 0xC2 (fun s k b =>
    if !s.on SNP_STAT SNP_STAT_VALID then s.complete q k .ok 0 0
    else
      let base := s.pair SNP_BASE_LO / 4096 * 4096
      let n := min (leAt b 24 4) (leNat (s.dread base 4))
      ((s.didRead base n).1.hwrite (leAt b 16 8) (s.dread base n)).complete q k .ok 0 n))

/-- The 128 bytes of BIST_REPORT: PIT_STAT, PIT_SPARE_k, PIT_FAILED_k, then zeros (R497; log entry 66). -/
def State.bistReport (s : State) : List Byte :=
  fitTo 128 (([PIT_STAT] ++ (List.range 9).map PIT_SPARE ++ (List.range 9).map PIT_FAILED).flatMap (fun a => leBytes 4 (s.readReg a).toNat))

/-- BIST_REPORT (R497). -/
def execBistReport (q : Fin 64) (pos : BitVec 16) (s : State) : Out :=
  s.onMain (fun s => s.command q pos 0xC3 (fun s k b => (s.hwrite (leAt b 16 8) s.bistReport).complete q k .ok 0 0))

/-! ### Norentum queries (R153, R162, R165, R499) -/

/-- Bytes of the MET window (R168). -/
def State.metBytes (s : State) (off n : Nat) : List Byte := (List.range (n / 4)).flatMap (fun k => leBytes 4 (s.metReg (0xA00000 + off + 4 * k)).toNat)

/-- MET_RECORD_READ (R499). -/
def execMetRecordRead (q : Fin 64) (pos : BitVec 16) (s : State) : Out :=
  s.onMain (fun s => s.command q pos 0xE0 (fun s k b =>
    let m := leAt b 16 4
    let r := s.metBytes (0x10000 + m % 4096 * 64) 64
    if leAt r 0 4 ≠ m || m = 0 then s.complete q k .metUnavailable 0 0
    else (s.hwrite (leAt b 24 8) r).complete q k .ok 0 0))

/-- MET_LOG_READ: the entries from SEQ on that the log holds (R162, R497). -/
def execMetLogRead (q : Fin 64) (pos : BitVec 16) (s : State) : Out :=
  s.onMain (fun s => s.command q pos 0xE1 (fun s k b =>
    let first := leAt b 16 2
    let have_ := if s.met.on then s.met.log.length else 0
    let n := min (leAt b 18 2) (have_ + 1 - first)
    (s.hwrite (leAt b 24 8) (s.metBytes (0x8000 + (first - 1) * 32) (n * 32))).complete q k .ok 0 n))

/-- MET_ID_READ (R165, R497). -/
def execMetIdRead (q : Fin 64) (pos : BitVec 16) (s : State) : Out :=
  s.onMain (fun s => s.command q pos 0xE2 (fun s k b =>
    (s.hwrite (leAt b 24 8) (if s.met.on then s.met.idBlock else zeros 64)).complete q k .ok 0 0))

end Sys2Proof.Machine
end

