-- ==== Sys2Proof/Machine/Ecdsa.lean ====
section
/-! DEFINITION. The checks of kickoff's firmware images: SHA-384 (FIPS 180-4) and the verification of an ECDSA P-384 signature (FIPS 186-5), computed by structural recursion (R557). -/

namespace Sys2Proof.Machine

/-! ### SHA-384 -/

/-- The first 64 bits of the fraction of the `k`-th root of a prime below 2^10 (FIPS 180-4, 4.2.3 and 5.3.4). -/
def rootFraction64 (k p : Nat) : Nat := rootBits k (p * 2 ^ (64 * k)) 70 0 % 2 ^ 64

/-- The first 80 primes. -/
def sha384Primes : List Nat := (List.range 410).filter (fun p => decide (2 ≤ p) && (List.range 21).all (fun d => decide (d < 2) || d == p || p % d != 0))

/-- Round constants: from the cube roots of the first 80 primes. -/
def sha384K : List Nat := sha384Primes.map (rootFraction64 3)

/-- Initial hash value: from the square roots of the ninth to the sixteenth prime. -/
def sha384Init : List Nat := ((sha384Primes.drop 8).take 8).map (rootFraction64 2)

/-- Rotate a 64-bit number right. -/
def rotr64 (n x : Nat) : Nat := (x >>> n) ||| ((x <<< (64 - n)) % 2 ^ 64)

/-- Extend the message schedule by `n` words; the newest word stands first. -/
def sha384Extend : Nat → List Nat → List Nat
  | 0, w => w
  | n + 1, w =>
    let x15 := w.getD 14 0
    let x2 := w.getD 1 0
    let s0 := rotr64 1 x15 ^^^ rotr64 8 x15 ^^^ (x15 >>> 7)
    let s1 := rotr64 19 x2 ^^^ rotr64 61 x2 ^^^ (x2 >>> 6)
    sha384Extend n (((w.getD 15 0 + s0 + w.getD 6 0 + s1) % 2 ^ 64) :: w)

/-- One round on the working variables a to h. -/
def sha384Round (v : List Nat) (kw : Nat) : List Nat :=
  match v with
  | [a, b, c, d, e, f, g, h] =>
    let s1 := rotr64 14 e ^^^ rotr64 18 e ^^^ rotr64 41 e
    let ch := (e &&& f) ^^^ ((0xFFFFFFFFFFFFFFFF ^^^ e) &&& g)
    let t1 := h + s1 + ch + kw
    let s0 := rotr64 28 a ^^^ rotr64 34 a ^^^ rotr64 39 a
    let mj := (a &&& b) ^^^ (a &&& c) ^^^ (b &&& c)
    [(t1 + s0 + mj) % 2 ^ 64, a, b, c, (d + t1) % 2 ^ 64, e, f, g]
  | _ => v

/-- Take one 128-byte block into the hash value. -/
def sha384Block (h : List Nat) (blk : List Byte) : List Nat :=
  let w16 := (List.range 16).map (fun i => beNat ((blk.drop (8 * i)).take 8))
  let v := (List.zipWith (· + ·) sha384K (sha384Extend 64 w16.reverse).reverse).foldl sha384Round h
  List.zipWith (fun a b => (a + b) % 2 ^ 64) h v

/-- The blocks of a padded message, `n` of them. -/
def sha384Blocks : Nat → List Nat → List Byte → List Nat
  | 0, h, _ => h
  | n + 1, h, l => sha384Blocks n (sha384Block h (l.take 128)) (l.drop 128)

/-- SHA-384 (FIPS 180-4). -/
def sha384 (l : List Byte) : List Byte :=
  let n := l.length
  let p := l ++ [0x80] ++ zeros ((239 - n % 128) % 128) ++ beBytes 16 (8 * n)
  ((sha384Blocks (p.length / 128) sha384Init p).take 6).flatMap (beBytes 8)

/-! ### The curve P-384 (FIPS 186-5, SP 800-186) -/

/-- The prime of the field, the order of the base point, and the coefficient b; a is -3. -/
def p384 : Nat := 2 ^ 384 - 2 ^ 128 - 2 ^ 96 + 2 ^ 32 - 1
def n384 : Nat := 0xFFFFFFFFFFFFFFFFFFFFFFFFFFFFFFFFFFFFFFFFFFFFFFFFC7634D81F4372DDF581A0DB248B0A77AECEC196ACCC52973
def b384 : Nat := 0xB3312FA7E23EE7E4988E056BE3F82D19181D9C6EFE8141120314088F5013875AC656398D8A2ED19D2A85C8EDD3EC2AEF

/-- A point with x = X / Z^2 and y = Y / Z^3; Z = 0 is the point at infinity. -/
structure Jac where
  x : Nat
  y : Nat
  z : Nat
  deriving DecidableEq, Repr, Inhabited

/-- The base point. -/
def base384 : Jac := {
  x := 0xAA87CA22BE8B05378EB1C71EF320AD746E1D3B628BA79B9859F741E082542A385502F25DBF55296C3A545E3872760AB7
  y := 0x3617DE4A96262C6F5D9E98BF9292DC29F8F41DBD289A147CE9DA3113B5F0B8C00A60B1CE1D7E819D7A431D7C90EA0E5F
  z := 1 }

/-- A difference in the field. -/
def fsub (a b : Nat) : Nat := (a + (p384 - b % p384)) % p384

/-- Twice a point. -/
def Jac.dbl (a : Jac) : Jac :=
  let zz := a.z * a.z % p384
  let m := 3 * fsub a.x zz * ((a.x + zz) % p384) % p384
  let yy := a.y * a.y % p384
  let s := 4 * a.x * yy % p384
  let x := fsub (m * m) (2 * s)
  { x := x, y := fsub (m * fsub s x) (8 * yy * yy), z := 2 * a.y * a.z % p384 }

/-- The sum of two points. -/
def Jac.add (a b : Jac) : Jac :=
  if a.z = 0 then b
  else if b.z = 0 then a
  else
    let za := a.z * a.z % p384
    let zb := b.z * b.z % p384
    let u := a.x * zb % p384
    let s := a.y * (zb * b.z % p384) % p384
    let h := fsub (b.x * za) u
    let r := fsub (b.y * (za * a.z % p384)) s
    if h = 0 then if r = 0 then a.dbl else { x := 1, y := 1, z := 0 }
    else
      let hh := h * h % p384
      let v := u * hh % p384
      let x := fsub (r * r) (hh * h + 2 * v)
      { x := x, y := fsub (r * fsub v x) (s * (hh * h % p384)), z := a.z * b.z % p384 * h % p384 }

/-- u × G + v × Q from the top `k` bits of both, `t` holding G, Q and G + Q. -/
def twoMul (g q gq : Jac) (u v : Nat) : Nat → Jac → Jac
  | 0, r => r
  | k + 1, r =>
    let d := r.dbl
    twoMul g q gq u v k (match u.testBit k, v.testBit k with
      | true, true => d.add gq
      | true, false => d.add g
      | false, true => d.add q
      | false, false => d)

/-- x^e modulo the order, from the lowest `k` bits of e. -/
def powOrder (e : Nat) : Nat → Nat → Nat
  | 0, _ => 1
  | k + 1, x => (if e.testBit 0 then x else 1) * powOrder (e / 2) k (x * x % n384) % n384

/-- A point of the curve other than infinity, with its coordinates reduced. -/
def onCurve (x y : Nat) : Bool := x < p384 && y < p384 && y * y % p384 == fsub (x * x * x + b384) (3 * x)

/-- ECDSA verification with P-384 and SHA-384 (FIPS 186-5, 6.4.2): key (x, y), signature (r, s). -/
def ecdsaOk (x y r s : Nat) (msg : List Byte) : Bool :=
  onCurve x y && 0 < r && r < n384 && 0 < s && s < n384 &&
    (let w := powOrder (n384 - 2) 384 s
     let q : Jac := { x := x, y := y, z := 1 }
     let pt := twoMul base384 q (base384.add q) (beNat (sha384 msg) * w % n384) (r * w % n384) 384 { x := 1, y := 1, z := 0 }
     let zz := pt.z * pt.z % p384
     pt.z != 0 && (pt.x == r * zz % p384 || (r + n384 < p384 && pt.x == (r + n384) * zz % p384)))

end Sys2Proof.Machine
end

