-- ==== Sys2Proof/Machine/Tok.lean ====
section
/-! DEFINITION. The token unit: the decision of a row, its confidence, the mask cache, LIVE chunks, decode budgets (R339-R347, R379). -/

namespace Sys2Proof.Machine

/-! ### Groups of slices (R340, R354) -/

/-- Slices in order cover 0 to VTOTAL − 1 without overlap. -/
def covers (total : Nat) : Nat → List EmitSlice → Bool
  | at_, [] => at_ == total
  | at_, e :: t => e.v0 == at_ && covers total (at_ + e.vn) t

/-- The slices of a group agree: their number, parts, vocabulary, rows, and the tokens they cover. -/
def groupOk (g : List EmitSlice) : Bool :=
  match g with
  | [] => false
  | e :: _ =>
    g.length == e.npart && g.all (fun x => x.npart == e.npart && x.vtotal == e.vtotal && x.rows.map (·.1) == e.rows.map (·.1))
      && (List.range e.npart).all (fun k => g.any (fun x => x.part == k))
      && covers e.vtotal 0 g

/-! ### Choosing a token (R341-R343) -/

/-- A token is allowed by a mask (R337). -/
def maskBit (m : List Byte) (t : Nat) : Bool := bit ((m.getD (t / 8) 0).toNat) (t % 8)

/-- A logit is larger than the best so far: NaN and −∞ never are. -/
def logitOver (best : Option (Nat × FVal)) (v : FVal) : Bool :=
  match best, v with
  | _, .nan => false
  | _, .inf true => false
  | none, _ => true
  | some (_, .inf false), _ => false
  | some _, .inf false => true
  | some (_, .fin a), .fin b => decide (a < b)
  | some _, .fin _ => true

/-- The allowed token with the largest logit, the lowest index of equals. -/
def chooseToken (ls : List (Nat × FVal)) : Option (Nat × FVal) :=
  ls.foldl (fun b x => if logitOver b x.2 then some x else b) none

/-- The weight of a logit against the largest (R343). -/
def logitWeight (top v : FVal) : Rat :=
  match top, v with
  | .inf false, .inf false => 1
  | .inf false, _ => 0
  | .fin a, .fin b =>
    let z := (b - a) * log2e
    if z < -48 then 0 else (let w := expWeight z; (w.1 : Rat) / 1024 * pow2 w.2)
  | _, _ => 0

/-- The confidence: 1 ÷ the sum of the weights, rounded once to UQ0.16 (R343). -/
def confidence (top : FVal) (ls : List (Nat × FVal)) : Nat :=
  let sum := (ls.map (fun x => logitWeight top x.2)).foldl (· + ·) 0
  if sum = 0 then 0xFFFF else min 0xFFFF (roundEven (65536 / sum)).toNat

/-! ### The mask cache (R339) -/

/-- Masks that rows still to decide use: those of groups under way and of slices that wait for their group (R339). -/
def State.masksInUse (s : State) : List (Nat × Nat) :=
  let ids := s.slices.flatMap (fun e => e.rows.map (·.1)) ++ s.groups.flatMap (fun g => (g.2.slices.take 1).flatMap (fun e => (e.rows.drop g.2.next).map (·.1)))
  ids.filterMap (fun id => (s.liveItem id).bind (fun i => (tfind s.seqs i).bind s.maskKey))

/-- Bring a cache back to 128 masks: the least recently used that no EMIT in progress uses leaves, the last of the list; where every one is in use, the newest does not stay (R339). -/
def trimMasks (inUse l : List (Nat × Nat)) : List (Nat × Nat) :=
  if l.length ≤ 128 then l
  else
    match l.reverse.find? (fun k => !inUse.contains k) with
    | some k => l.erase k
    | none => l.drop 1

/-- A mask enters the cache, or becomes the most recently used; its fetch is done. -/
def State.touchMask (s : State) (k : Nat × Nat) : State := { s with masks := trimMasks s.masksInUse (k :: s.masks.erase k), maskAsks := s.maskAsks.erase k }

/-- A mask whose fetch is under way enters the cache and serves every row that waits for it (R339). -/
def execMaskFetchDone (tset mask : Nat) (s : State) : Out := s.onMain (fun s => if s.maskAsks.contains (tset, mask) then s.touchMask (tset, mask) else s)

/-! ### The decision of a row -/

/-- Decide one row from its logits: its result word, and the state with its sequence advanced (R340-R343). The TOKEN beside NONE of R342 is not stated (log entry 10). -/
def State.decideRow (s : State) (id : Nat) (vals : List FVal) : State × Nat :=
  if id = 0 then (s, 0x1FFFF)
  else
    let s := s.incReg TOK_NAN_CNT ((vals.filter (fun v => v == .nan)).length)
    match s.liveItem id with
    | none => (s, 0x1FFFF)
    | some i =>
      match tfind s.seqs i with
      | none => (s, 0x1FFFF)
      | some q =>
        match s.tableSet q.playbook q.model with
        | none => (s, 0x1FFFF)
        | some ts =>
          if q.ending ≠ .running then (s, 0x1FFFF)
          else
            let g := ts.stateAt q.state
            let key := s.maskKey q
            let s := if key.any s.masks.contains then s.incReg TOK_MCACHE_HIT else s.incReg TOK_MCACHE_MISS
            let s := match key with
              | some k => s.touchMask k
              | none => s
            let mask := ts.maskAt g.maskId
            let allowed := (vals.zipIdx.map (fun x => (x.2, x.1))).filter (fun x => maskBit mask x.1)
            match chooseToken allowed with
            | none =>
              let (w, s) := s.free
              let res := w % 65536 + 2 ^ 16 + 2 ^ 18
              ((s.modSeq i (fun q => { q with lastStep := q.lastStep + 1, lastResult := res })).endSeq i .noToken, res)
            | some (tok, top) => s.takeToken i tok (confidence top allowed)

/-- The logits of row `k` of a group, by token; each slice is in the format of its EMIT. -/
def groupLogits (g : List EmitSlice) (k : Nat) : List FVal := g.flatMap (fun e => ((e.rows.getD k (0, [])).2).map (decElem e.fmt))

/-- The tile of a slice stands at the EMIT that brought it. -/
def State.atEmit (s : State) (e : EmitSlice) : Bool := (s.running e.tile .msg 0x38).any (fun c => c.index == e.cmd)

/-- The tile of a slice still works for its job, and has yet to come to the EMIT again after a remap (R231). -/
def State.emitAgain (s : State) (e : EmitSlice) : Bool := (s.tileSt e.tile).job == some e.job && !s.atEmit e

/-- An acknowledgement of `n` rows would overflow a tile's journal (R225). -/
def State.ackOver (s : State) (e : EmitSlice) (n : Nat) : Bool := decide (262144 < (s.tileSt e.tile).journalBytes + 4 * n)

/-- Answer one part of a group (R225, R231, R344): the acknowledgement is journaled, the results are written and the EMIT completes; a tile that is being restored, or has yet to come to the EMIT again, takes them then. An overflow of the journal faults the EMIT, which then writes nothing. -/
def State.answerPart (s : State) (results : List Nat) (e : EmitSlice) : State :=
  if (s.tileSt e.tile).job ≠ some e.job then s
  else
    match s.journal e.tile (.ack results) (4 * results.length) with
    | (s, false) => s.jobFault e.tile fJournal 0x38 e.cmd
    | (s, true) =>
      if s.atEmit e then (s.twrite e.tile e.out (results.flatMap (leBytes 4))).finish e.tile .msg
      else if (s.tileSt e.tile).restoring then s
      else s.modTile e.tile (fun x => { x with replay := x.replay ++ [.ack results] })

/-- A group whose slices do not agree: every part ends with fault PARAM, once each stands at its EMIT; a remap is recovered first (R232, R340). -/
def State.refuseGroup (s : State) (part : Nat) (g : EmitGroup) : State :=
  if g.slices.any s.emitAgain then s
  else g.slices.foldl (fun s x =>
    match s.running x.tile .msg 0x38 with
    | some c => s.cmdFault x.tile c fParam
    | none => s) { s with groups := tdel s.groups part }

/-- A group whose rows are decided: the results go to every part, once each part whose journal would overflow stands at its EMIT (R232, R340-R344). -/
def State.answerGroup (s : State) (part : Nat) (g : EmitGroup) : State :=
  if g.slices.any (fun e => s.emitAgain e && s.ackOver e g.results.length) then { s with groups := tput s.groups part g }
  else g.slices.foldl (fun s x => s.answerPart g.results x) { s with groups := tdel s.groups part }

/-- The scan lane of a partition takes up the group that it serves next (R354). -/
def State.takeGroup (s : State) (part : Nat) : State :=
  match tfind s.groups part, s.gather part with
  | none, some g => { s with slices := s.slices.filter (fun e => !g.contains e), groups := tput s.groups part { slices := g, next := 0, results := [] } }
  | _, _ => s

/-- The scan lane of a partition decides the next row of its EMIT group; after the last row the results go to every part (R340-R344, R354). -/
def execEmitDecide (part : Fin 8) (s : State) : Out :=
  s.onMain (fun s =>
    let s := s.takeGroup part
    match tfind s.groups part.val with
    | none => s
    | some g =>
      match g.slices with
      | [] => s
      | e :: _ =>
        if !groupOk g.slices then s.refuseGroup part g
        else if e.rows.length ≤ g.next then s.answerGroup part g
        else
          let (s, w) := s.decideRow (e.rows.getD g.next (0, [])).1 (groupLogits g.slices g.next)
          let g := { g with next := g.next + 1, results := g.results ++ [w] }
          if g.next < e.rows.length then { s with groups := tput s.groups part g } else s.answerGroup part g)

/-! ### Timers of sequences -/

/-- MAX_US after the first pending character a LIVE chunk closes (R347). -/
def execLiveChunkTimeout (seq : Nat) (s : State) : Out :=
  s.onMain (fun s =>
    match tfind s.seqs seq with
    | some q =>
      match q.liveSince with
      | some t => if q.ending = .running && t + s.fld TOK_LIVE_CFG TOK_LIVE_CFG_MAX_US * 1000 ≤ s.tb then s.liveChunk seq false else s
      | none => s
    | none => s)

/-- BUDGET_US after its opening a SEQUENCE with work left is demoted (R21, R379). -/
def execDecodeBudgetExpiry (seq : Nat) (s : State) : Out :=
  s.onMain (fun s =>
    match tfind s.seqs seq with
    | some q =>
      match s.model q.playbook q.model with
      | some m => if q.ending = .running && q.openTb + m.budgetUs * 1000 ≤ s.tb then s.demoteSeq seq else s
      | none => s
    | none => s)

end Sys2Proof.Machine
end

