-- ==== Sys2Proof/Machine/Fail.lean ====
section
/-! DEFINITION. What makes a tile fail in service, and the restore of its logical tile on a libero (R197, R230-R234, R302, R533). -/

namespace Sys2Proof.Machine

/-- The handshake watchdog of a tile expires: 10 µs since the last handshake while a command that waits for nothing is started (R230, R530). -/
def execHandshakeWatchdog (p : Fin 272) (s : State) : Out :=
  s.onMain (fun s =>
    match s.logicalOf p with
    | some t => if s.tileRuns t && s.shouldHandshake t && decide ((s.tileSt t).hsTb + 10000 ≤ s.tb) then s.failTile p causeWatchdog else s
    | none => s)

/-- A tile's router reports a link error (R230). -/
def execRouterLinkError (p : Fin 272) (s : State) : Out := s.onMain (fun s => s.failTile p causeRouter)

/-- A tile has stayed below 8,000 steps for 1 ms at V_MAX_MV: it fails; an idle libero leaves the spare pool (R197). -/
def execTempoLow (p : Fin 272) (s : State) : Out :=
  s.onMain (fun s =>
    let x := s.ptile p
    let due := match x.low with
      | some t => decide (t + 1000000 ≤ s.tb)
      | none => false
    if !due || x.failed || x.removed then s
    else
      match s.logicalOf p with
      | some _ => (s.setBit PIT_GOV_STAT PIT_GOV_STAT_TEMPO_LOW true).failTile p causeTempo
      | none => ({ s with ptiles := tput s.ptiles p { x with removed := true } }).freshMap)

/-- A tile's store takes the live pages of its last checkpoint: each from the slot that holds it, or empty where none was written. Frames that the page manager has written since keep their bytes, and so does the frame pool where there is no checkpoint; the rest is empty (R231, R302; log entry 53). -/
def State.restoreStore (s : State) (t : Nat) : State :=
  let x := s.tileSt t
  let p := (s.poolOf t).getD default
  let fresh (o : Nat) : Bool := x.newFrames.any (fun f => (p.poolBase + 4096 * f ≤ o && o < p.poolBase + 4096 * f + 4096) || (p.sideBase + 128 * f ≤ o && o < p.sideBase + 128 * f + 128))
  let keep (o : Nat) : Bool := if x.ckpt.isSome then fresh o else p.holds o
  let m := s.stores.filter (fun e => e.1 / 0x100000 != t || keep (e.1 % 0x100000))
  let k := x.ckpt.getD default
  let now := s.dramNow
  let dram := delivered now.1 now.2
  let m := k.pages.foldl (fun m pg =>
    match tfind k.slots pg with
    | none => m
    | some i =>
      let a := s.slotPlace t pg i
      (dram.filter (fun e => a ≤ e.1 && e.1 < a + 4096)).foldl (fun m e =>
        let o := 4096 * pg + (e.1 - a)
        if keep o then m else tset 0 m (tileAt t o) e.2) m) m
  let lost := (k.slots.map (·.1)).filter (fun pg => !k.pages.contains pg)
  let s := s.setStores (m.filter (fun e => e.1 / 0x100000 = t) |>.foldl (fun n e => tset 0 n e.1 e.2) (s.tile.filter (fun e => e.1 / 0x100000 != t))) (fun w => 32 * w / 0x100000 == t)
  { s with dirty := addPages (s.dirty.filter (fun pg => pg / 256 != t)) (lost.map (fun pg => 256 * t + pg) ++ x.newFrames.flatMap (fun f => pagesAt t (p.poolBase + 4096 * f) 4096 ++ pagesAt t (p.sideBase + 128 * f) 128)) }

/-- The restore reads the pages of the checkpoint from DRAM; false where a word of them is uncorrectable, and with it the checkpoint (R526, R529). -/
def State.readCkpt (s : State) (t : Nat) : State × Bool :=
  let k := (s.tileSt t).ckpt.getD default
  k.pages.foldl (fun (x : State × Bool) pg =>
    match tfind k.slots pg with
    | some i => if x.2 then x.1.didRead (x.1.slotPlace t pg i) 4096 else x
    | none => x) (s, true)

/-- The libero has the checkpoint and journal: the tile's list goes on from the checkpoint's position, its inputs from the journal, which is kept for another failure; a bad word of the checkpoint tears the context down instead (R231, R302, R529, R533; log entry 53). -/
def execTileRestoreDone (t : Fin 256) (s : State) : Out :=
  s.onMain (fun s =>
    let t := t.val
    if !(s.tileSt t).restoring then s
    else
      let (s, good) := s.readCkpt t
      let x := s.tileSt t
      let k : Ckpt := x.ckpt.getD { (default : Ckpt) with pos := 0 }
      let y := { x with restoring := false, replay := x.journal, wcetSum := 0, stepsDone := 0
                        pos := k.pos, sems := k.sems, halos := k.halos, outSeq := k.outSeq, streamAt := k.streamAt, ckptNo := k.no }
      let s := s.remapRecords t
      let s := if good then feedHalo t x.journal.length { s.restoreStore t with tiles := tput s.tiles t { y with fails := [] } } else s.modTile t (fun x => { x with restoring := false })
      let s := match s.physOf t with
        | some p => s.lateTile p
        | none => s
      if good then s.dispatchTile t else s.tearAt t)

end Sys2Proof.Machine
end

