-- ==== Sys2Proof/Machine/Boot.lean ====
section
/-! DEFINITION. Resets, kickoff and the firmware: PORESET_N, Umpire, DRAM, Coach, Pitch BIST, READY, the Coach restart and the warm reset (R229, R516, R517, R534, R535, R551-R563, R581, R582; log entry 67). -/

namespace Sys2Proof.Machine

/-! ### Registers at a reset (R10, R571, R581, R582) -/

/-- Register values that wait for the next reset take effect (R10, R571). -/
def State.applyBoot (s : State) (pend : Tbl Word) : State :=
  pend.foldl (fun s x =>
    match findReg x.1 with
    | some (d, _, _) => s.setReg x.1 (copyFields (d.ofEff .boot) x.2 (s.reg x.1))
    | none => s) s

/-- Every copy of every register of the main domain that has fields whose reset value is of a kind, with those fields. -/
def rstRegs (k : Rst) : List (Nat × List FieldD) :=
  (regTable.filter (fun d => d.base / 0x100000 != 10 && d.fields.any (fun f => f.rst == k))).flatMap
    (fun d => d.addrs.map (fun a => (a, d.fields.filter (fun f => f.rst == k))))

/-- Fields whose reset value is OTP, or Umpire, take that value (R581). -/
def State.fillRst (s : State) (k : Rst) (v : Nat → Word) : State :=
  (rstRegs k).foldl (fun s x => s.setReg x.1 (copyFields x.2 (v x.1) (s.reg x.1))) s

/-- The engine's own state as a reset leaves it, with the registers that keep their values; the setpoint of VDD_PIT is 0.75 V again (R551); the queue of commands, Norentum, memories outside, and what has already left the engine stay (R137, R535, R553, R582). -/
def State.engineReset (s : State) (keep : Tbl Word) : State :=
  let start := 750
  let h : HuddleSt := { (default : HuddleSt) with lowest := 2 ^ 64 - 1 }
  { State.reset with
    pending := s.pending, met := s.met, regs := keep, rdata := s.rdata, msix := s.msix, msixMask := s.msixMask, msixPend := s.msixPend, host := s.host, dram := s.dram, tile := s.tile
    ras := { (default : Ras) with chk := s.ras.chk, tchk := s.ras.tchk }
    otp := s.otp, gov := { (default : Gov) with vout := if s.fld PIT_GOV_STAT PIT_GOV_STAT_V_SET_MV = start then s.gov.vout else start :: s.gov.vout }
    freeCtr := s.freeCtr, tb := s.tb, eth := { (default : Eth) with sent := s.eth.sent, replies := s.eth.replies }
    kol := { (default : Kol) with huddle := h } }

/-- A register keeps its value through a warm reset: the SYS_ registers, RAS_RESET_CAUSE, TIM_NOW and TIM_TAI (R582). -/
def keepsWarm (a : Nat) : Bool := a / 0x100000 == 1 || a == RAS_RESET_CAUSE || a == TIM_TAI_LO || a == TIM_TAI_HI

/-! ### PORESET_N (R551-R555) -/

/-- Norentum follows fabric time, which starts at 0: at once while no measurement is under way, else as a step that waits (R140, R477). -/
def Met.timeZero (m : Met) : Met :=
  if !m.on then m
  else if m.ports.any (fun e => e.2.busy) then { m with stepDue := (m.stopNs * 65536 : Nat) - (m.time.toNat : Int) }
  else { m with time := 0, stepDue := 0, stopNs := 0 }

/-- PORESET_N is released: fabric time starts at 0, OTP values are read, values written for the next reset take effect, the filters of encoders and barriers start at the levels found; kickoff is at its ROM (R10, R74, R94, R555, R563, R581). -/
def execPoresetRelease (pins : PinLevels) (s : State) : Out :=
  if s.sys.released then .next s
  else
    let t := s.engineReset (s.regs.filter (fun r => r.1 == RAS_RESET_CAUSE))
    let t := ((t.fillRst .otp Config.otp).setPair SYS_SERIAL_LO Config.serial.toNat).applyBoot s.bootPend
    let t := (t.setFld RAS_RESET_CAUSE RAS_RESET_CAUSE_RESET_CAUSE (b2n s.sys.wasOn)).setFld SYS_BOOT_STAT SYS_BOOT_STAT_STAGE 3
    let t := { t with tb := s.tb }.findPins pins
    .next { t with met := s.met.timeZero, otp := Config.bootOtp, sys := { (default : Sys) with released := true, wasOn := true, startTb := s.tb } }

/-- PORESET_N goes low: the main domain is reset, and SYS_THERM_TRIP_N is let go; Norentum goes on (R141, R553, R566). -/
def execPoresetAssert (s : State) : Out :=
  if !s.sys.released then .next s
  else
    let t := s.engineReset (s.regs.filter (fun r => r.1 == RAS_RESET_CAUSE))
    .next { t with bootPend := s.bootPend, sys := { (default : Sys) with wasOn := true } }

/-! ### Warm reset (R535, R562, R582) -/

/-- A warm reset: kickoff runs again from the Umpire image; fabric time and TAI count on; the filters start at the levels found at the pins (R74, R94; log entry 25). -/
def State.warmReset (s : State) (cause : Nat) (pins : PinLevels) : State :=
  let t := ((s.engineReset (s.regs.filter (fun r => keepsWarm r.1))).applyBoot s.bootPend).findPins pins
  let t := { t.fillRst .otp Config.otp with
    tim := { (default : Tim) with now := s.tim.now, tai := s.tim.tai, taiNs := s.tim.taiNs, acc := s.tim.acc, stopNs := s.tim.stopNs }
    sys := { (default : Sys) with released := true, wasOn := true, startTb := s.tb, warm := some s.now, thermTrip := s.sys.thermTrip } }
  let t := (t.setPair SYS_SERIAL_LO (s.pair SYS_SERIAL_LO)).incFld RAS_RESET_CAUSE RAS_RESET_CAUSE_RESETS
  ((t.setFld RAS_RESET_CAUSE RAS_RESET_CAUSE_RESET_CAUSE cause).setFld SYS_BOOT_STAT SYS_BOOT_STAT_STAGE 4).setFld SYS_PWR_STAT SYS_PWR_STAT_STATE 2

/-- Umpire runs. -/
def State.umpireUp (s : State) : Bool := s.on HIF_STAT HIF_STAT_UMPIRE_UP

/-- The Umpire watchdog expires, 20 ms after the last kick, at `kick` of the timebase; the filters that the reset starts find `pins` (R530, R535). -/
def execUmpireWatchdog (kick : Nat) (pins : PinLevels) (s : State) : Out := s.onMain (fun s => if s.umpireUp && kick + 20000000 ≤ s.tb then s.warmReset 2 pins else s)

/-- The lockstep pair disagrees; the filters that the reset starts find `pins` (R535). -/
def execLockstepMismatch (pins : PinLevels) (s : State) : Out := s.onMain (fun s => s.warmReset 3 pins)

/-! ### Kickoff (R555-R562) -/

/-- Kickoff has stopped (R558). -/
def State.kickStopped (s : State) : Bool := s.fld SYS_BOOT_STAT SYS_BOOT_STAT_STAGE == 15

/-- Kickoff stops with a code (R558). -/
def State.stopKick (s : State) (code detail : Nat) : State :=
  ((s.setFld SYS_BOOT_STAT SYS_BOOT_STAT_STAGE 15).setFld SYS_BOOT_STAT SYS_BOOT_STAT_CODE code).setFld SYS_BOOT_STAT SYS_BOOT_STAT_DETAIL detail

/-- The bytes of an image that its signature covers: version and body (log entry 67). -/
def imageSigned (m : BootImage) : List Byte := leBytes 4 m.version.toNat ++ m.body

/-- The key of an image as bytes, x before y, the most significant byte first (log entry 67). -/
def imageKey (m : BootImage) : List Byte := beBytes 48 m.keyX ++ beBytes 48 m.keyY

/-- An image is accepted: key, signature, length with key and signature, version (R557). -/
def imageAccepted (m : BootImage) (o : BootOtp) (coach : Bool) : Bool :=
  sha384 (imageKey m) == o.keyDigest && ecdsaOk m.keyX m.keyY m.r m.s (imageSigned m)
    && (imageSigned m).length + 192 ≤ (if coach then 16777216 else 524288) && (if coach then o.coachFloor else o.umpireFloor) ≤ m.version.toNat

/-- Place of a slot in the boot flash, true for slot B (R557). -/
def slotPlace (coach b : Bool) : Nat := if coach then (if b then 0x1100000 else 0x100000) else (if b then 0x80000 else 0)

/-- The slot that kickoff takes, A before B, and its image; none while SYS_BOOT_OE_N is low, since the pins of the boot flash are then at high impedance (R557, R558). -/
def bootSlot (o : BootOtp) (coach : Bool) (flash : List (Nat × BootImage)) (oe : Bool) : Option (Bool × BootImage) :=
  [false, true].findSome? (fun b => (tfind flash (slotPlace coach b)).bind (fun m => if oe && imageAccepted m o coach then some (b, m) else none))

/-- The level of SYS_BOOT_OE_N, high where `oe`, holds the pins of the boot flash (R558). -/
def State.flashPins (s : State) (oe : Bool) : State := { s with sys := { s.sys with flashHiZ := !oe } }

/-- The Umpire image starts from a slot of the boot flash, or both slots fail; Umpire writes the fields that are its own (R557, R558, R581). -/
def execUmpireUp (flash : List (Nat × BootImage)) (oe : Bool) (s : State) : Out :=
  s.onMain (fun s =>
    let s := s.flashPins oe
    if s.umpireUp || s.kickStopped then s
    else
      match bootSlot s.otp false flash oe with
      | none => s.stopKick 1 0
      | some (b, m) =>
        let s := (s.setBit SYS_BOOT_STAT SYS_BOOT_STAT_UMPIRE_SLOT b).setReg SYS_UMP_VER m.version
        ((s.setFld SYS_BOOT_STAT SYS_BOOT_STAT_STAGE 5).fillRst .umpire Config.umpire).setFld HIF_STAT HIF_STAT_UMPIRE_UP 1)

/-- All 8 channels of DRAM are trained, or one fails (R555, R558). -/
def execDramTrained (failed : Option (Fin 8)) (s : State) : Out :=
  s.onMain (fun s =>
    if !s.umpireUp || s.kickStopped || s.sys.trained then s
    else
      match failed with
      | some c => s.stopKick 2 c.val
      | none => { s with sys := { s.sys with trained := true } })

/-- All of DRAM holds zero data with valid check bytes (R555). -/
def execDramWritten (s : State) : Out :=
  s.onMain (fun s =>
    if s.kickStopped || !s.sys.trained || s.sys.written then s
    else { s.setFld SYS_BOOT_STAT SYS_BOOT_STAT_STAGE 6 with dram := [], ras := { s.ras with chk := [] }, sys := { s.sys with written := true } })

/-- The Coach image is verified in a slot of the boot flash, or both slots fail (R557, R558). -/
def execCoachImage (flash : List (Nat × BootImage)) (oe : Bool) (s : State) : Out :=
  s.onMain (fun s =>
    let s := s.flashPins oe
    if s.kickStopped || !s.sys.trained || s.sys.coachImg then s
    else
      match bootSlot s.otp true flash oe with
      | none => s.stopKick 3 0
      | some (b, m) =>
        { (s.setBit SYS_BOOT_STAT SYS_BOOT_STAT_COACH_SLOT b).setReg SYS_COACH_VER m.version with sys := { s.sys with coachImg := true } })

/-- A command that Coach had fetched ends with no effect, or OK with the item that it had opened (R516); true for one that ended FIRMWARE_RESTART. -/
def State.restartCmd (s : State) (f : Fetched) : State × Bool :=
  let s := { s with beWait := s.beWait.filter (fun w => w.sq != some (f.sq, f.pos))
                    kol := { s.kol with txns := s.kol.txns.filter (fun t => t.2.cmd != some (f.sq, f.pos))
                                        huddle := { s.kol.huddle with cmds := s.kol.huddle.cmds.filter (fun c => c != (f.sq, f.pos)) } } }
  if f.openedItem = 0 then (s.complete f.sq f.pos .firmwareRestart 0 0, true) else (s.complete f.sq f.pos .ok (s.itemId f.openedItem) 0, false)

/-- Coach runs again after a restart: the commands it had fetched end, COACH_RESTART sets, and the record follows (R516, R534, R538). -/
def State.coachAgain (s : State) (cause : Nat) (stamp : Stamp) : State :=
  let s := { s.setFld HIF_STAT HIF_STAT_COACH_UP 1 with sys := { s.sys with coachDown := none } }.readsAnew
  let own := s.fetched.filter (fun f => coachRuns (leAt f.bytes 0 1))
  let (s, n) := own.foldl (fun (x : State × Nat) f => let r := x.1.restartCmd f; (r.1, x.2 + b2n r.2)) (s, 0)
  (s.raise HIF_IRQ_STAT 2).sysRecord false clsCoachRestart none 0 0 cause n stamp

/-- Coach is up: in kickoff it starts the huddle; after a restart it ends what it had fetched (R444, R516, R534, R555). -/
def execCoachUp (s : State) : Out :=
  s.onMain (fun s =>
    if s.on HIF_STAT HIF_STAT_COACH_UP then s
    else
      match s.sys.coachDown with
      | some (cause, stamp) => s.coachAgain cause stamp
      | none =>
        if s.kickStopped || !s.sys.written || !s.sys.coachImg || s.sys.coachRan then s
        else
          let s := { (s.setFld HIF_STAT HIF_STAT_COACH_UP 1).setFld SYS_BOOT_STAT SYS_BOOT_STAT_STAGE 9 with sys := { s.sys with coachRan := true, huddleWait := s.tb } }
          s.startHuddle s.epoch)

/-- Umpire restarts Coach (R529, R534). -/
def State.restartCoach (s : State) (cause : Nat) : State :=
  if !s.on HIF_STAT HIF_STAT_COACH_UP then s
  else { s.setFld HIF_STAT HIF_STAT_COACH_UP 0 with sys := { s.sys with coachDown := some (cause, s.now) } }

/-- The Coach watchdog expires, 5 ms after the last kick, at `kick` of the timebase (R530, R534). -/
def execCoachWatchdog (kick : Nat) (s : State) : Out := s.onMain (fun s => if kick + 5000000 ≤ s.tb then s.restartCoach 1 else s)

/-- Coach takes an unrecoverable exception (R534). -/
def execCoachException (s : State) : Out := s.onMain (fun s => s.restartCoach 2)

/-- Map one logical tile at kickoff: its own physical tile, or for a failed one the nearest libero, or none (R229, R233). -/
def State.mapTile (s : State) (t : Nat) : State :=
  if !(s.ptile t).failed then s
  else
    match s.nearest t with
    | some q => s.setFld (PIT_MAP t) PIT_MAP_PHYS q
    | none => (s.setFld (PIT_MAP t) PIT_MAP_VALID 0).degrade

/-- Pitch BIST ends: failed tiles are isolated, the map is written in ascending order of logical index, and the governor takes the regulator after the tempo test at V_MAX_MV, whose two VOUT_COMMANDs are shown once it is over (R229, R551, R555, R558; log entry 67). -/
def execBistDone (failed : List Nat) (s : State) : Out :=
  s.onMain (fun s =>
    if !s.umpireUp || s.kickStopped || s.sys.bist then s
    else
      let bad := (List.range 272).filter failed.contains
      let s := { s with tile := [], ras := { s.ras with tchk := [] }, dirty := [], ptiles := bad.map (fun p => (p, { (default : PTile) with failed := true })), gov := { s.gov with on := true, vout := 750 :: s.fld PIT_GOV_VLIM PIT_GOV_VLIM_V_MAX_MV :: s.gov.vout }, sys := { s.sys with bist := true } }
      let s := (List.range 256).foldl State.mapTile s
      ((List.range 272).foldl (fun s p => s.setBit (PIT_TILE_TEMPO p) PIT_TILE_TEMPO_MAPPED (s.logicalOf p).isSome) s).freshMap)

/-- The record of a warm reset, the first on SYS_RING (R535, R538). -/
def State.resetRecord (s : State) : State :=
  match s.sys.warm with
  | none => s
  | some stamp =>
    let h := s.hold
    let t := { s with hold := [], sys := { s.sys with warm := none } }
    let t := t.sysRecord false clsDeviceReset none 0 0 (s.fld RAS_RESET_CAUSE RAS_RESET_CAUSE_RESET_CAUSE) (s.fld RAS_RESET_CAUSE RAS_RESET_CAUSE_RESETS) stamp
    { t with hold := t.hold ++ h }

/-- READY sets (R517, R535, R555, R563). -/
def execReady (s : State) : Out :=
  s.onMain (fun s =>
    if s.isReady || s.kickStopped || !s.on HIF_STAT HIF_STAT_COACH_UP || !s.sys.huddleEnd || !s.sys.bist then s
    else
      let s := (s.setFld HIF_STAT HIF_STAT_READY 1).setFld SYS_BOOT_STAT SYS_BOOT_STAT_STAGE 10
      ((s.setFld SYS_PWR_STAT SYS_PWR_STAT_STATE 3).setNum SYS_BOOT_TIME ((s.tb - s.sys.startTb) / 1000000)).resetRecord)

end Sys2Proof.Machine
end

