-- ==== Sys2Proof/Machine/Ras.lean ====
section
/-! DEFINITION. Memory faults and their timers: upsets, the scrubber, corrections per second, LOAD and STORE, expired requests (R522-R532; log entry 68). -/

namespace Sys2Proof.Machine

/-! ### Upsets (R522-R528; log entry 68) -/

/-- An upset flips bits of a word of DRAM, by raw word number: of its data and of its check bytes, which stand in the check block (R525). -/
def State.upsetDram (s : State) (word : Nat) (p : List Byte) : State :=
  match visibleAddr word with
  | none => s
  | some a =>
    let m := upset s.dram s.ras.chk (a / 32) p
    { s with dram := m.1, ras := { s.ras with chk := m.2 } }

/-- An upset flips bits of a word of a physical tile's store; a store that is not mapped holds nothing that the state keeps. -/
def State.upsetTile (s : State) (p word : Nat) (x : List Byte) : State :=
  match s.logicalOf p with
  | none => s
  | some t =>
    let m := upset s.tile s.ras.tchk (tileAt t 0 / 32 + word) x
    { s with tile := m.1, ras := { s.ras with tchk := m.2 } }

/-- An upset flips bits of a word of a calibration table. -/
def CalPort.upset (q : CalPort) (bank w : Nat) (p : List Byte) : CalPort :=
  let old := calBytes (q.bank bank) w
  let c := xorBytes (old ++ (tfind (q.chk bank) w).getD (rsBytes old)) (fitTo 35 p)
  let d := c.take 32
  q.setCoded bank (calPutWord (q.bank bank) w d, if c.drop 32 = rsBytes d then tdel (q.chk bank) w else tins (q.chk bank) w (c.drop 32))

/-- An upset takes effect. -/
def State.upset (s : State) (u : UpsetAt × List Byte) : State :=
  match u.1 with
  | .dram word => if word < 2 ^ 31 then s.upsetDram word u.2 else s
  | .tile p word => if p < 272 && word < 2 ^ 15 then s.upsetTile p word u.2 else s
  | .cal n bank w => if n < 4 && bank < 2 && w < 2 ^ 14 then s.modCal n (fun q => q.upset bank w u.2) else s

/-! ### The scrubber (R526-R529) -/

/-- What an uncorrectable word costs that the scrubber finds: in Coach's memory Coach restarts, in Umpire's a warm reset follows; a place in the hold is free once its record is discarded (R529, R534, R535). -/
def State.scrubLost (s : State) (word a : Nat) (pins : PinLevels) : State :=
  let code := s.dramRegion word a
  let s := s.dramUncorr a
  if code = 7 then { s with ras := { s.ras with chk := tdel s.ras.chk (a / 32) } }
  else if code = 8 then s.restartCoach 3
  else if code = 9 then s.warmReset 5 pins
  else s

/-- The scrubber reads a DRAM word, unless a retention write to it waits; a corrected word is written back (R524-R529). -/
def State.scrubDram (s : State) (word : Nat) (pins : PinLevels) : State :=
  match visibleAddr word with
  | none => s
  | some a =>
    if s.retQueue.any (fun w => wordIn w.1 w.2.length (a / 32)) then s
    else
      match rsRead (codeword s.dram s.ras.chk (a / 32)) with
      | .good => s
      | .corrected w =>
        let ch := (Config.dramChannel word).val
        ((s.incReg (RAS_DRAM_CORR ch)).countCorr ch).dput a (w.take 32)
      | .uncorrectable => s.scrubLost word a pins

/-- A started command of a tile is to write a word of its store (R527). -/
def State.wordAwaited (s : State) (t word : Nat) : Bool :=
  let x := s.tileSt t
  [x.mac, x.vec, x.msg].any (fun q => q.head?.any (fun c => c.started && (s.writesOf t c).any (fun r => wordIn r.addr r.len word)))

/-- The scrubber reads a word of a physical tile's store; the store of an isolated tile is not read any more, nor a word that a running command is to write (R229, R524-R528). -/
def State.scrubTile (s : State) (p word : Nat) : State :=
  match s.logicalOf p with
  | none => s
  | some t =>
    if (s.ptile p).failed || s.wordAwaited t word then s
    else
      let w := tileAt t 0 / 32 + word
      match rsRead (codeword s.tile s.ras.tchk w) with
      | .good => s
      | .corrected d =>
        let m := codeWrite s.tile s.ras.tchk (32 * w) (d.take 32)
        { ((s.incReg RAS_TILE_CORR).countCorr 8) with tile := m.1, ras := { ((s.incReg RAS_TILE_CORR).countCorr 8).ras with tchk := m.2 } }
      | .uncorrectable => (s.chipUncorr word).failTile p causeRs

/-- SCRUB_STEP: the upsets since the step before, then the read of the place that the scrubber has come to; a place that does not exist faults. -/
def execScrubStep (place : ScrubAt) (upsets : List (UpsetAt × List Byte)) (pins : PinLevels) (s : State) : Out :=
  match place with
  | .dram word => if word < 2 ^ 31 then s.onMain (fun s => (upsets.foldl State.upset s).scrubDram word pins) else .fault .addressHole
  | .tile p word => if p < 272 && word < 2 ^ 15 then s.onMain (fun s => (upsets.foldl State.upset s).scrubTile p word) else .fault .addressHole

/-- CORR_RATE_WINDOW: a second ends; more corrections than CORR_PER_S in a channel, or in the tile stores together, make a record (R527, R538). -/
def execCorrRateWindow (s : State) : Out :=
  s.onMain (fun s =>
    let t := { s with ras := { s.ras with second := [] } }
    (List.range 9).foldl (fun t k =>
      let n := tget 0 s.ras.second k
      if n ≤ s.num RAS_CORR_LIMIT then t
      else (t.raise RAS_IRQ_STAT 1).recoveryRec clsMemCorrRate none (if k = 8 then 0xFFFF else k) 0 n 0) t)

/-! ### LOAD and STORE (R235, R387, R529) -/

/-- A transfer between store and DRAM: refused outside what the partition was granted and beyond the visible 56 GiB, regulated, then made (R235, R525). -/
def State.transfer (s : State) (t op : Nat) (f : State → QCmd → State) : State :=
  match s.running t .msg op, s.jobOf t with
  | some c, some j =>
    if !Config.dramGranted j.part (c.u 32 8) (c.u 40 4) || decide (dramBytes < c.u 32 8 + c.u 40 4) then s.cmdFault t c fPerm
    else
      match s.regulate j.part .dram (s.ctxSt j.ctx).cls (c.u 40 4) (whoOf 2 t) with
      | (s, false) => s
      | (s, true) => f s c
  | _, _ => s

/-- What LOADs have brought into a store, after another (R400). -/
def noteLoad (l : List (Nat × Nat × Nat)) (dram store n : Nat) : List (Nat × Nat × Nat) :=
  (dram, store, n) :: l.filter (fun x => !(x.2.1 < store + n && store < x.2.1 + x.2.2))

/-- LOAD copies a DRAM range into the store; an uncorrectable word in the range faults it with code MEM (R526, R529). -/
def execLoad (t : Fin 256) (s : State) : Out :=
  s.onMain (fun s => s.transfer t 0x35 (fun s c =>
    let a := c.u 32 8
    let n := c.u 40 4
    if s.dramBad a n ≠ [] then ((s.cmdFault t c fMem).didRead a n).1
    else
      let u := (((s.useCrops a n).didRead a n).1.twrite t c.outAddr (s.dread a n)).modTile t (fun x => { x with loads := noteLoad x.loads a c.outAddr n })
      u.finish t .msg))

/-- STORE copies a range of the store into DRAM; what DRAM held before can be taken back until the job's next cut (R407). -/
def execStore (t : Fin 256) (s : State) : Out :=
  s.onMain (fun s => s.transfer t 0x36 (fun s c =>
    let a := c.u 32 8
    let n := c.u 40 4
    let old := s.dread a n
    let s := match (s.tileSt t).job with
      | some k => s.modJob k (fun j => { j with undo := (a, old) :: j.undo })
      | none => s
    (s.dwrite a (s.tread t c.aAddr n)).finish t .msg))

/-! ### Expired requests (R530-R532) -/

/-- DRAM_REQUEST_TIMEOUT: 20 µs after its issue at `issued` of the timebase a request is issued once more; 20 µs after that, unanswered too, the channel is failed, and a warm reset follows. -/
def execDramRequestTimeout (ch : Fin 8) (again : Bool) (issued : Nat) (pins : PinLevels) (s : State) : Out :=
  s.onMain (fun s =>
    if again then
      match tfind s.ras.requested ch.val with
      | some t => if t + 20000 ≤ s.tb then s.warmReset 4 pins else s
      | none => s
    else if s.tb < issued + 20000 then s
    else
      let s := (s.incFld (RAS_DRAM_ERR ch) RAS_DRAM_ERR_TIMEOUT_CNT).raise RAS_IRQ_STAT 2
      { s with ras := { s.ras with requested := tput s.ras.requested ch.val s.tb } })

/-- HOST_READ_TIMEOUT: unanswered for 10 ms, a packet fetch stops its queue, unless its command is held back for Coach, an image fetch ends its HOSTIMAGE (R486, R530, R532). -/
def execHostReadTimeout (rd : HostRead) (s : State) : Out :=
  s.onMain (fun s =>
    match rd with
    | .fetch q =>
      let x := tget default s.sqs q.val
      let here := s.fld (HIF_SQ_HEAD q) HIF_SQ_HEAD_HEAD == s.fld (HIF_SQ_TAIL q) HIF_SQ_TAIL_TAIL
      if !s.on (HIF_SQ_CFG q) HIF_SQ_CFG_EN || x.stopped || here || s.coachHeld (s.headPacket q) || s.tb < x.readTb + 10000000 then s else s.stopQueue q 2
    | .image i =>
      match tfind s.images i with
      | none => s
      | some m => if m.fetched || m.decoded || s.tb < m.readTb + 10000000 then s else (s.complete m.sq m.pos .ok (s.itemId i) 0).imageError i .decTruncated)

end Sys2Proof.Machine
end

