-- ==== Sys2Proof/Machine/Tempo.lean ====
section
/-! DEFINITION. Tempo and the governor, the thermal sensors, and the triggers and the end of a snapshot (R192-R199, R540-R545, R566; log entry 69). -/

namespace Sys2Proof.Machine

/-! ### Tempo (R192-R197) -/

/-- The floor F of the tempo (R194). -/
def floorSteps : Nat := 8000

/-- The setpoint of VDD_PIT in mV. -/
def State.volt (s : State) : Nat := s.fld PIT_GOV_STAT PIT_GOV_STAT_V_SET_MV

/-- V_MAX_MV and V_MIN_MV (R202). -/
def State.vMax (s : State) : Nat := s.fld PIT_GOV_VLIM PIT_GOV_VLIM_V_MAX_MV
def State.vMin (s : State) : Nat := s.fld PIT_GOV_VLIM PIT_GOV_VLIM_V_MIN_MV

/-- MARGIN_PCT (R194). -/
def State.margin (s : State) : Nat := s.fld PIT_GOV_CFG PIT_GOV_CFG_MARGIN_PCT

/-- The governor acts: it has the regulator, and the Pitch is not in STANDBY (R551, R563). -/
def State.governs (s : State) : Bool := s.gov.on && !s.standby

/-- The mapped tile with the lowest STEPS, the lower index of equals (R194, R202). -/
def State.slowest (s : State) : Option (Nat × Nat) :=
  ((List.range 272).filter (fun p => s.on (PIT_TILE_TEMPO p) PIT_TILE_TEMPO_MAPPED)).foldl (fun (b : Option (Nat × Nat)) p =>
    let n := s.fld (PIT_TILE_TEMPO p) PIT_TILE_TEMPO_STEPS
    match b with
    | none => some (p, n)
    | some (q, m) => if n < m then some (p, n) else some (q, m)) none

/-- Since when a tile's STEPS has been below the floor at V_MAX_MV (R197). -/
def State.trackLow (s : State) : State :=
  let top := s.volt == s.vMax
  (List.range 272).foldl (fun s p =>
    let x := s.ptile p
    let low := if top && s.fld (PIT_TILE_TEMPO p) PIT_TILE_TEMPO_STEPS < floorSteps then some (x.low.getD s.tb) else none
    if low = x.low then s else { s with ptiles := tput s.ptiles p { x with low := low } }) s

/-- TEMPO_WINDOW: a window of 10 µs ends with each tile's count; STEPS and PIT_TEMPO_MIN follow, and the governor may raise urgently, in both modes (R192, R194, R195). -/
def execTempoWindow (steps : List Nat) (s : State) : Out :=
  s.onMain (fun s =>
    let s := ((List.range 272).foldl (fun s p => s.setFld (PIT_TILE_TEMPO p) PIT_TILE_TEMPO_STEPS (steps.getD p 0)) s).trackLow
    match s.slowest with
    | none => s
    | some (p, n) =>
      let s := (s.setFld PIT_TEMPO_MIN PIT_TEMPO_MIN_TILE p).setFld PIT_TEMPO_MIN PIT_TEMPO_MIN_STEPS n
      let s := { s with gov := { s.gov with low := some (min n (s.gov.low.getD n)) } }
      if s.governs && decide (200 * n < floorSteps * (200 + s.margin)) then s.setVolt (min (s.volt + 10) s.vMax) else s)

/-! ### The governor's period (R194-R196) -/

/-- The power estimate of the period in W (R196). -/
def State.powerEst (s : State) : Rat :=
  let fj : Nat := (s.gov.products.map (fun p => p.2 * Config.energy p.1)).foldl (· + ·) 0
  (fj : Rat) / 100000000000 * ((s.volt : Rat) / 750) * ((s.volt : Rat) / 750)

/-- The cap: 5 mV lower, but never where the lowest tempo would fall below F × (1 + M); the floor wins with CAP_HIT (R196). -/
def State.capVolt (s : State) (low v : Nat) : State :=
  let need := floorSteps * (100 + s.margin)
  if 100 * low < need || 100 * Config.tempoBelow low v < need then (s.setFld PIT_GOV_STAT PIT_GOV_STAT_CAP_HIT 1).setVolt v
  else s.setVolt (max (v - 5) s.vMin)

/-- The regular raise and lower of GOVERN: the new setpoint and quiet count (R194). -/
def State.regular (s : State) (low : Nat) : Nat × Nat :=
  let m := s.margin
  if 100 * low < floorSteps * (100 + m) then (min (s.volt + 5) s.vMax, 0)
  else
    let quiet := if floorSteps * (100 + 2 * m) ≤ 100 * low then s.gov.quiet + 1 else 0
    if 10 ≤ quiet then (max (s.volt - 5) s.vMin, 0) else (s.volt, quiet)

/-- GOVERNOR_PERIOD: 100 µs end (R194-R196). -/
def execGovernorPeriod (s : State) : Out :=
  s.onMain (fun s =>
    let est := s.powerEst
    let cap : Rat := (s.fld PIT_PWR_CAP PIT_PWR_CAP_PWR_CAP_W : Nat)
    let t := (s.setFld PIT_GOV_STAT PIT_GOV_STAT_PWR_EST_W (min est.floor.toNat 255))
    let t := { t with gov := { t.gov with low := none, products := [] } }
    match s.gov.low with
    | none => t
    | some low =>
      if !t.governs then t
      else if t.on PIT_GOV_CFG PIT_GOV_CFG_MODE then
        let fixed := t.fld PIT_GOV_FIXED PIT_GOV_FIXED_V_FIXED_MV
        if cap < est then t.capVolt low t.volt
        else if est < cap && t.volt < fixed then t.setVolt (min (t.volt + 5) fixed)
        else t.setVolt t.volt
      else
        let (v, quiet) := t.regular low
        let t := { t with gov := { t.gov with quiet := quiet } }
        if cap < est && t.volt ≤ v then t.capVolt low v else t.setVolt v)

/-! ### Temperature (R566) -/

/-- THERM_SAMPLE: the highest reading of the sensors, in signed °C. -/
def execThermSample (temp : BitVec 8) (s : State) : Out :=
  s.onMain (fun s =>
    let most := if sgn 8 (s.fld SYS_THERM SYS_THERM_TEMP_MAX) < temp.toInt then temp.toNat else s.fld SYS_THERM SYS_THERM_TEMP_MAX
    let s := (s.setFld SYS_THERM SYS_THERM_TEMP_C temp.toNat).setFld SYS_THERM SYS_THERM_TEMP_MAX most
    let s := if (s.fld SYS_THERM_CFG SYS_THERM_CFG_WARN_C : Int) ≤ temp.toInt then s.raise SYS_IRQ_STAT 0 else s
    if 115 ≤ temp.toInt then { s with sys := { s.sys with thermTrip := true } } else s)

/-! ### Snapshot (R540-R545) -/

/-- SNAP_PIN: a rising edge on SNAP_IN, stable for 100 ns, with the stamp of the edge. -/
def execSnapPin (stamp : Stamp) (s : State) : Out :=
  s.onMain (fun s => if s.on SNP_CTL SNP_CTL_PIN_EN then (s.snapTrigger stamp 1 0).1 else s)

/-- SNAP_TIME_MATCH: fabric time reaches TIME_CMP; TIME_EN clears. -/
def execSnapTimeMatch (s : State) : Out :=
  s.onMain (fun s =>
    if s.on SNP_CTL SNP_CTL_TIME_EN && decide (0 ≤ sdiff 64 s.now.toNat (s.pair SNP_TIME_CMP_LO)) then
      ((s.setFld SNP_CTL SNP_CTL_TIME_EN 0).snapTrigger s.now 2 0).1
    else s)

/-- A section with its header (R545). -/
def Section.encode (x : Section) : List Byte :=
  leBytes 1 x.block ++ leBytes 1 x.flags ++ leBytes 2 x.inst ++ leBytes 4 x.body.length ++ leBytes 8 x.latch.toNat ++ x.body

/-- The snapshot: header and sections (R544). -/
def State.snapBytes (s : State) : List Byte :=
  let body := s.snp.sections.flatMap Section.encode
  leBytes 4 (64 + body.length) ++ leBytes 4 s.snp.no ++ leBytes 8 s.snp.trig.toNat ++ leBytes 8 (s.pair SYS_SERIAL_LO)
    ++ leBytes 1 s.snp.cause ++ leBytes 1 s.snp.faultClass ++ leBytes 2 s.snp.sections.length ++ zeros 36 ++ body

/-- SNAP_WRITTEN: every section has latched and is written; VALID sets and SNP_DONE is raised. -/
def execSnapWritten (s : State) : Out :=
  s.onMain (fun s =>
    if !s.on SNP_STAT SNP_STAT_BUSY || s.snp.waitTiles != [] then s
    else
      let s := s.dwrite (s.pair SNP_BASE_LO / 4096 * 4096) s.snapBytes
      ((s.setFld SNP_STAT SNP_STAT_VALID 1).setFld SNP_STAT SNP_STAT_BUSY 0).raise SNP_IRQ_STAT 0)

end Sys2Proof.Machine
end

