-- ==== Sys2Proof/Machine/Dispatch.lean ====
section
/-! DEFINITION. What a command does: one arm for each command, each a call of that command's own meaning. -/

namespace Sys2Proof.Machine

/-- The effect of a command on everything but the queue. -/
def exec (i : Instr) (s : State) : Host.Outcome State Fault Refusal :=
  match i with
  | .regWrite addr bytes v => Sys2Proof.Machine.execRegWrite addr bytes v s
  | .lowWordRead addr bytes => Sys2Proof.Machine.execLowWordRead addr bytes s
  | .timNowRead => Sys2Proof.Machine.execTimNowRead s
  | .counterClear addr v => Sys2Proof.Machine.execCounterClear addr v s
  | .linPortEnable n => Sys2Proof.Machine.execLinPortEnable n s
  | .linPortDisable n => Sys2Proof.Machine.execLinPortDisable n s
  | .calStart n ctl => Sys2Proof.Machine.execCalStart n ctl s
  | .calAbort n ctl => Sys2Proof.Machine.execCalAbort n ctl s
  | .calTabRead n => Sys2Proof.Machine.execCalTabRead n s
  | .calTabWrite n v => Sys2Proof.Machine.execCalTabWrite n v s
  | .calCommit n => Sys2Proof.Machine.execCalCommit n s
  | .sqDoorbell q tail => Sys2Proof.Machine.execSqDoorbell q tail s
  | .sqEnable q cfg => Sys2Proof.Machine.execSqEnable q cfg s
  | .sqDisable q cfg => Sys2Proof.Machine.execSqDisable q cfg s
  | .ringEnable r cfg => Sys2Proof.Machine.execRingEnable r cfg s
  | .ringHeadWrite r v => Sys2Proof.Machine.execRingHeadWrite r v s
  | .sbSelect v => Sys2Proof.Machine.execSbSelect v s
  | .sbClear => Sys2Proof.Machine.execSbClear s
  | .snapRegTrigger ctl => Sys2Proof.Machine.execSnapRegTrigger ctl s
  | .snapArm ctl => Sys2Proof.Machine.execSnapArm ctl s
  | .standbyEnter => Sys2Proof.Machine.execStandbyEnter s
  | .standbyExit => Sys2Proof.Machine.execStandbyExit s
  | .thermMaxReset => Sys2Proof.Machine.execThermMaxReset s
  | .kolPortEnable n ctl => Sys2Proof.Machine.execKolPortEnable n ctl s
  | .kolPortDisable n ctl => Sys2Proof.Machine.execKolPortDisable n ctl s
  | .ethEnable cfg => Sys2Proof.Machine.execEthEnable cfg s
  | .txqPop p => Sys2Proof.Machine.execTxqPop p s
  | .packetFetch q => Sys2Proof.Machine.execPacketFetch q s
  | .itemOpen q pos => Sys2Proof.Machine.execItemOpen q pos s
  | .imageSubmit q pos => Sys2Proof.Machine.execImageSubmit q pos s
  | .itemAbort q pos => Sys2Proof.Machine.execItemAbort q pos s
  | .itemQuery q pos => Sys2Proof.Machine.execItemQuery q pos s
  | .tokenize q pos => Sys2Proof.Machine.execTokenize q pos s
  | .retRead q pos => Sys2Proof.Machine.execRetRead q pos s
  | .playbookLoad q pos => Sys2Proof.Machine.execPlaybookLoad q pos s
  | .playbookUnload q pos => Sys2Proof.Machine.execPlaybookUnload q pos s
  | .modelPin q pos => Sys2Proof.Machine.execModelPin q pos s
  | .portBind q pos => Sys2Proof.Machine.execPortBind q pos s
  | .partConfig q pos => Sys2Proof.Machine.execPartConfig q pos s
  | .ctxDefine q pos => Sys2Proof.Machine.execCtxDefine q pos s
  | .ctxDelete q pos => Sys2Proof.Machine.execCtxDelete q pos s
  | .tableSelect q pos => Sys2Proof.Machine.execTableSelect q pos s
  | .ctxRestart q pos => Sys2Proof.Machine.execCtxRestart q pos s
  | .huddle q pos => Sys2Proof.Machine.execHuddle q pos s
  | .catchSet q pos => Sys2Proof.Machine.execCatchSet q pos s
  | .linkReset q pos => Sys2Proof.Machine.execLinkReset q pos s
  | .remotePost q pos => Sys2Proof.Machine.execRemotePost q pos s
  | .timeStepAccept q pos => Sys2Proof.Machine.execTimeStepAccept q pos s
  | .timeSet q pos => Sys2Proof.Machine.execTimeSet q pos s
  | .timeQuery q pos => Sys2Proof.Machine.execTimeQuery q pos s
  | .echo q pos => Sys2Proof.Machine.execEcho q pos s
  | .snapTrigger q pos => Sys2Proof.Machine.execSnapTrigger q pos s
  | .snapRead q pos => Sys2Proof.Machine.execSnapRead q pos s
  | .bistReport q pos => Sys2Proof.Machine.execBistReport q pos s
  | .metRecordRead q pos => Sys2Proof.Machine.execMetRecordRead q pos s
  | .metLogRead q pos => Sys2Proof.Machine.execMetLogRead q pos s
  | .metIdRead q pos => Sys2Proof.Machine.execMetIdRead q pos s
  | .readId payload => Sys2Proof.Machine.execReadId payload s
  | .readLog payload => Sys2Proof.Machine.execReadLog payload s
  | .uartStage payload => Sys2Proof.Machine.execUartStage payload s
  | .uartCommit payload pins => Sys2Proof.Machine.execUartCommit payload pins s
  | .uartDiscard payload => Sys2Proof.Machine.execUartDiscard payload s
  | .imageBlock payload => Sys2Proof.Machine.execImageBlock payload s
  | .imageEnd payload pins => Sys2Proof.Machine.execImageEnd payload pins s
  | .uartVerify payload => Sys2Proof.Machine.execUartVerify payload s
  | .uartFrameBad frame => Sys2Proof.Machine.execUartFrameBad frame s
  | .uartUnknown typ payload => Sys2Proof.Machine.execUartUnknown typ payload s
  | .jobDispatch ctx job => Sys2Proof.Machine.execJobDispatch ctx job s
  | .ctxSwitchDone part => Sys2Proof.Machine.execCtxSwitchDone part s
  | .commandStart t e => Sys2Proof.Machine.execCommandStart t e s
  | .nop t e => Sys2Proof.Machine.execNop t e s
  | .ckpt t => Sys2Proof.Machine.execCkpt t s
  | .endList t => Sys2Proof.Machine.execEndList t s
  | .matmul t => Sys2Proof.Machine.execMatmul t s
  | .conv t => Sys2Proof.Machine.execConv t s
  | .attnScore t => Sys2Proof.Machine.execAttnScore t s
  | .attnValue t => Sys2Proof.Machine.execAttnValue t s
  | .convert t => Sys2Proof.Machine.execConvert t s
  | .pool t => Sys2Proof.Machine.execPool t s
  | .argmaxC t => Sys2Proof.Machine.execArgmaxC t s
  | .softmaxStep t => Sys2Proof.Machine.execSoftmaxStep t s
  | .mergeExact t => Sys2Proof.Machine.execMergeExact t s
  | .rotary t => Sys2Proof.Machine.execRotary t s
  | .norm t => Sys2Proof.Machine.execNorm t s
  | .kvQuant t => Sys2Proof.Machine.execKvQuant t s
  | .send t => Sys2Proof.Machine.execSend t s
  | .recv t => Sys2Proof.Machine.execRecv t s
  | .haloOpen t => Sys2Proof.Machine.execHaloOpen t s
  | .haloPut t => Sys2Proof.Machine.execHaloPut t s
  | .haloClose t => Sys2Proof.Machine.execHaloClose t s
  | .load t => Sys2Proof.Machine.execLoad t s
  | .store t => Sys2Proof.Machine.execStore t s
  | .streamIn t => Sys2Proof.Machine.execStreamIn t s
  | .emit t => Sys2Proof.Machine.execEmit t s
  | .commandTimeout t e => Sys2Proof.Machine.execCommandTimeout t e s
  | .ctxTeardownDone ctx => Sys2Proof.Machine.execCtxTeardownDone ctx s
  | .handshakeWatchdog p => Sys2Proof.Machine.execHandshakeWatchdog p s
  | .routerLinkError p => Sys2Proof.Machine.execRouterLinkError p s
  | .tileRestoreDone t => Sys2Proof.Machine.execTileRestoreDone t s
  | .slotStart part => Sys2Proof.Machine.execSlotStart part s
  | .slotEnd part => Sys2Proof.Machine.execSlotEnd part s
  | .majorFrame part => Sys2Proof.Machine.execMajorFrame part s
  | .modelLoadDone playbook model => Sys2Proof.Machine.execModelLoadDone playbook model s
  | .saturationWindow => Sys2Proof.Machine.execSaturationWindow s
  | .bucketTick => Sys2Proof.Machine.execBucketTick s
  | .frameRequest req => Sys2Proof.Machine.execFrameRequest req s
  | .frameFreed t => Sys2Proof.Machine.execFrameFreed t s
  | .frameWaitExpiry req => Sys2Proof.Machine.execFrameWaitExpiry req s
  | .spillDone xfer => Sys2Proof.Machine.execSpillDone xfer s
  | .prefetchStart part => Sys2Proof.Machine.execPrefetchStart part s
  | .prefetchDone xfer => Sys2Proof.Machine.execPrefetchDone xfer s
  | .cowDone xfer => Sys2Proof.Machine.execCowDone xfer s
  | .dropDone xfer => Sys2Proof.Machine.execDropDone xfer s
  | .beItemOpenWait => Sys2Proof.Machine.execBeItemOpenWait s
  | .syncError n lane header => Sys2Proof.Machine.execSyncError n lane header s
  | .laneLock n lane => Sys2Proof.Machine.execLaneLock n lane s
  | .laneLockLoss n lane => Sys2Proof.Machine.execLaneLockLoss n lane s
  | .align n skew => Sys2Proof.Machine.execAlign n skew s
  | .sensorPacket n stream blocks upsets => Sys2Proof.Machine.execSensorPacket n stream blocks upsets s
  | .packetMissing n => Sys2Proof.Machine.execPacketMissing n s
  | .encEdge e a b stamp => Sys2Proof.Machine.execEncEdge e a b stamp s
  | .encZEdge e stamp => Sys2Proof.Machine.execEncZEdge e stamp s
  | .encStall e => Sys2Proof.Machine.execEncStall e s
  | .lineInterpDue n => Sys2Proof.Machine.execLineInterpDue n s
  | .lineStart n => Sys2Proof.Machine.execLineStart n s
  | .flushExposure n => Sys2Proof.Machine.execFlushExposure n s
  | .lampFault n => Sys2Proof.Machine.execLampFault n s
  | .lampStuck n => Sys2Proof.Machine.execLampStuck n s
  | .lineComplete n leading found => Sys2Proof.Machine.execLineComplete n leading found s
  | .calCaptureDone n => Sys2Proof.Machine.execCalCaptureDone n s
  | .calCopyDone n => Sys2Proof.Machine.execCalCopyDone n s
  | .barrierEdge k level stamp => Sys2Proof.Machine.execBarrierEdge k level stamp s
  | .barrierJam k => Sys2Proof.Machine.execBarrierJam k s
  | .sideSeal side found => Sys2Proof.Machine.execSideSeal side found s
  | .emissionPoint item => Sys2Proof.Machine.execEmissionPoint item s
  | .lateLimitExpiry item => Sys2Proof.Machine.execLateLimitExpiry item s
  | .ringIrqTimer r => Sys2Proof.Machine.execRingIrqTimer r s
  | .decodeBudgetExpiry seq => Sys2Proof.Machine.execDecodeBudgetExpiry seq s
  | .emitDecide part => Sys2Proof.Machine.execEmitDecide part s
  | .liveChunkTimeout seq => Sys2Proof.Machine.execLiveChunkTimeout seq s
  | .maskFetchDone tset mask => Sys2Proof.Machine.execMaskFetchDone tset mask s
  | .imageDecodeDone found => Sys2Proof.Machine.execImageDecodeDone found s
  | .cropWritten region => Sys2Proof.Machine.execCropWritten region s
  | .passInputWritten seq => Sys2Proof.Machine.execPassInputWritten seq s
  | .codewordUncorrectable n words => Sys2Proof.Machine.execCodewordUncorrectable n words s
  | .portAligned n => Sys2Proof.Machine.execPortAligned n s
  | .alignLost n => Sys2Proof.Machine.execAlignLost n s
  | .trainingDone n => Sys2Proof.Machine.execTrainingDone n s
  | .flitReceived n flit => Sys2Proof.Machine.execFlitReceived n flit s
  | .idleFlit n flit => Sys2Proof.Machine.execIdleFlit n flit s
  | .keepalive n flit => Sys2Proof.Machine.execKeepalive n flit s
  | .replayReq n flit => Sys2Proof.Machine.execReplayReq n flit s
  | .ackStallReplay n => Sys2Proof.Machine.execAckStallReplay n s
  | .keepaliveSend n => Sys2Proof.Machine.execKeepaliveSend n s
  | .linkSilence n => Sys2Proof.Machine.execLinkSilence n s
  | .helloSend => Sys2Proof.Machine.execHelloSend s
  | .hello n serial sport epoch lowest => Sys2Proof.Machine.execHello n serial sport epoch lowest s
  | .huddleRootStart => Sys2Proof.Machine.execHuddleRootStart s
  | .assign n serial addr epoch => Sys2Proof.Machine.execAssign n serial addr epoch s
  | .report n serial neigh => Sys2Proof.Machine.execReport n serial neigh s
  | .mapMsg n src seq devs => Sys2Proof.Machine.execMapMsg n src seq devs s
  | .doneMsg n src flood seq => Sys2Proof.Machine.execDoneMsg n src flood seq s
  | .huddleWaitExpiry => Sys2Proof.Machine.execHuddleWaitExpiry s
  | .linkDownMsg n src seq link => Sys2Proof.Machine.execLinkDownMsg n src seq link s
  | .linkUpMsg n src seq link => Sys2Proof.Machine.execLinkUpMsg n src seq link s
  | .modelAdvert n src seq models => Sys2Proof.Machine.execModelAdvert n src seq models s
  | .post src vc txn stamp arg body => Sys2Proof.Machine.execPost src vc txn stamp arg body s
  | .writeMsg src vc txn arg body => Sys2Proof.Machine.execWriteMsg src vc txn arg body s
  | .resp src txn status => Sys2Proof.Machine.execResp src txn status s
  | .txnTimeout txn => Sys2Proof.Machine.execTxnTimeout txn s
  | .relayOpen seq body => Sys2Proof.Machine.execRelayOpen seq body s
  | .relayLine seq tag plane deadline data => Sys2Proof.Machine.execRelayLine seq tag plane deadline data s
  | .relaySeal seq item lastLine trail => Sys2Proof.Machine.execRelaySeal seq item lastLine trail s
  | .relayResult seq record => Sys2Proof.Machine.execRelayResult seq record s
  | .resultAck item => Sys2Proof.Machine.execResultAck item s
  | .heartbeatSend => Sys2Proof.Machine.execHeartbeatSend s
  | .heartbeat src accepted => Sys2Proof.Machine.execHeartbeat src accepted s
  | .heartbeatTimeout => Sys2Proof.Machine.execHeartbeatTimeout s
  | .escHead src txn body => Sys2Proof.Machine.execEscHead src txn body s
  | .escData src txn data last => Sys2Proof.Machine.execEscData src txn data last s
  | .escReply src txn status fields => Sys2Proof.Machine.execEscReply src txn status fields s
  | .syncSend => Sys2Proof.Machine.execSyncSend s
  | .pdReqSend n => Sys2Proof.Machine.execPdReqSend n s
  | .announceSend => Sys2Proof.Machine.execAnnounceSend s
  | .sync n id hops rx => Sys2Proof.Machine.execSync n id hops rx s
  | .follow n id hops stamp => Sys2Proof.Machine.execFollow n id hops stamp s
  | .pdReq n id rx => Sys2Proof.Machine.execPdReq n id rx s
  | .pdResp n id t2 rx => Sys2Proof.Machine.execPdResp n id t2 rx s
  | .pdFollow n id t3 => Sys2Proof.Machine.execPdFollow n id t3 s
  | .announce n src seq hops => Sys2Proof.Machine.execAnnounce n src seq hops s
  | .ptpEventFrame ev stamp => Sys2Proof.Machine.execPtpEventFrame ev stamp s
  | .arpRequest target senderIp senderMac => Sys2Proof.Machine.execArpRequest target senderIp senderMac s
  | .ethFrameDiscard frame => Sys2Proof.Machine.execEthFrameDiscard frame s
  | .metEncEdge e a b stamp pins => Sys2Proof.Machine.execMetEncEdge e a b stamp pins s
  | .metLeadEdge n stamp => Sys2Proof.Machine.execMetLeadEdge n stamp s
  | .metTrailEdge n stamp pins => Sys2Proof.Machine.execMetTrailEdge n stamp pins s
  | .metInterpTimeout n => Sys2Proof.Machine.execMetInterpTimeout n s
  | .metRecordDone n => Sys2Proof.Machine.execMetRecordDone n s
  | .sealChange level => Sys2Proof.Machine.execSealChange level s
  | .metBootDone image params otp => Sys2Proof.Machine.execMetBootDone image params otp s
  | .metWatchdog kick pins => Sys2Proof.Machine.execMetWatchdog kick pins s
  | .metPowerOn pins => Sys2Proof.Machine.execMetPowerOn pins s
  | .metPowerOff => Sys2Proof.Machine.execMetPowerOff s
  | .scrubStep place upsets pins => Sys2Proof.Machine.execScrubStep place upsets pins s
  | .corrRateWindow => Sys2Proof.Machine.execCorrRateWindow s
  | .dramRequestTimeout ch again issued pins => Sys2Proof.Machine.execDramRequestTimeout ch again issued pins s
  | .hostReadTimeout rd => Sys2Proof.Machine.execHostReadTimeout rd s
  | .coachWatchdog kick => Sys2Proof.Machine.execCoachWatchdog kick s
  | .coachUp => Sys2Proof.Machine.execCoachUp s
  | .umpireWatchdog kick pins => Sys2Proof.Machine.execUmpireWatchdog kick pins s
  | .lockstepMismatch pins => Sys2Proof.Machine.execLockstepMismatch pins s
  | .tempoWindow steps => Sys2Proof.Machine.execTempoWindow steps s
  | .governorPeriod => Sys2Proof.Machine.execGovernorPeriod s
  | .tempoLow p => Sys2Proof.Machine.execTempoLow p s
  | .thermSample temp => Sys2Proof.Machine.execThermSample temp s
  | .snapPin stamp => Sys2Proof.Machine.execSnapPin stamp s
  | .snapTimeMatch => Sys2Proof.Machine.execSnapTimeMatch s
  | .snapWritten => Sys2Proof.Machine.execSnapWritten s
  | .poresetRelease pins => Sys2Proof.Machine.execPoresetRelease pins s
  | .poresetAssert => Sys2Proof.Machine.execPoresetAssert s
  | .umpireUp flash oe => Sys2Proof.Machine.execUmpireUp flash oe s
  | .dramTrained failed => Sys2Proof.Machine.execDramTrained failed s
  | .dramWritten => Sys2Proof.Machine.execDramWritten s
  | .bistDone failed => Sys2Proof.Machine.execBistDone failed s
  | .ready => Sys2Proof.Machine.execReady s
  | .coachException => Sys2Proof.Machine.execCoachException s
  | .coachImage flash oe => Sys2Proof.Machine.execCoachImage flash oe s
  | .ethLinkDown => Sys2Proof.Machine.execEthLinkDown s
  | .ethLinkUp => Sys2Proof.Machine.execEthLinkUp s

end Sys2Proof.Machine
end

