-- ==== Sys2Proof/WellFormed.lean ====
section
/-! DEFINITION. When a command's operands are such as the manual gives them: sizes of frames, flits and messages, and numbers of ports, planes, tiles and places. -/

namespace Sys2Proof

/-- A text area covers at least one column, and its lines come in order (R19). -/
def Found.wf (f : Found) : Bool := f.firstLine ≤ f.lastLine && f.lastLine ≤ f.needLine && 1 ≤ f.cols

/-- A REPORT names ports 0 to 5 (R441). -/
def NeighRep.wf (r : NeighRep) : Bool := r.port < 6 && r.nport < 6

/-- A MAP entry names a device address and ports 0 to 5 (R442). -/
def MapDev.wf (d : MapDev) : Bool := d.addr < 256 && d.links.all (fun l => l.port < 6 && l.naddr < 256 && l.nport < 6)

/-- A link end is a device address and a port (R445). -/
def LinkEnd.wf (l : LinkEnd) : Bool := l.addr < 256 && l.port < 6

/-- The payload of a UART frame has a 2-byte length (R166). -/
def uartFits (p : List Byte) : Bool := p.length ≤ 65535

/-- A message holds at most 65,536 bytes, its 32-byte header included (R437). -/
def msgFits (b : List Byte) : Bool := b.length ≤ 65504

/-- A RELAY_OPEN names a port, a class and a gate mode (R448). -/
def RelayOpenBody.wf (b : RelayOpenBody) : Bool := b.port < 4 && b.cls < 2 && b.gateMode < 4

/-- An ESC_HEAD names a class, and 16-bit numbers (R456). -/
def EscHeadBody.wf (b : EscHeadBody) : Bool := b.cls < 2 && b.model < 65536

/-- A word of the 2^31 words of raw DRAM, or a word of a tile's store (R2, R527). -/
def ScrubAt.wf : ScrubAt → Bool
  | .dram w => w < 2 ^ 31
  | .tile p w => p < 272 && w < 2 ^ 15

/-- A place under the Reed-Solomon code exists (R2, R111, R527). -/
def UpsetAt.wf : UpsetAt → Bool
  | .dram w => w < 2 ^ 31
  | .tile p w => p < 272 && w < 2 ^ 15
  | .cal n b w => n < 4 && b < 2 && w < 2 ^ 14

/-- An upset names a place and has a pattern of 35 bytes (R522). -/
def upsetWf (u : UpsetAt × List Byte) : Bool := u.1.wf && u.2.length == 35

/-- Key and signature are numbers of 384 bits (R557). -/
def BootImage.wf (m : BootImage) : Bool := m.keyX < 2 ^ 384 && m.keyY < 2 ^ 384 && m.r < 2 ^ 384 && m.s < 2 ^ 384

/-- The index of an image is an item index (R24). -/
def HostRead.wf : HostRead → Bool
  | .fetch _ => true
  | .image i => i < 2 ^ 20

/-- Four encoders and eight barriers (R2). -/
def PinLevels.wf (p : PinLevels) : Bool := p.enc.length == 4 && p.bar.length == 8

/-- The operands are such as the manual gives them. -/
def Instr.wf : Instr → Bool
  | .regWrite _ bytes _ => 1 ≤ bytes && bytes ≤ 8
  | .readId payload => uartFits payload
  | .readLog payload => uartFits payload
  | .uartStage payload => uartFits payload
  | .uartCommit payload pins => uartFits payload && pins.wf
  | .uartDiscard payload => uartFits payload
  | .imageBlock payload => uartFits payload
  | .imageEnd payload pins => uartFits payload && pins.wf
  | .uartVerify payload => uartFits payload
  | .uartUnknown _ payload => uartFits payload
  | .sensorPacket _ stream blocks upsets => 1 ≤ blocks && stream.length ≤ 64 * blocks && upsets.all (fun u => u.2.length == 35)
  | .lineComplete _ _ found => found.all (·.wf)
  | .sideSeal _ found => found.all (·.wf)
  | .imageDecodeDone found => found.all (·.wf)
  | .codewordUncorrectable _ words => words.all (fun w => w.length == 544 && w.all (fun x => decide (x < 1024)))
  | .flitReceived _ flit => flit.length == 256
  | .idleFlit _ flit => flit.length == 256
  | .keepalive _ flit => flit.length == 256
  | .replayReq _ flit => flit.length == 256
  | .hello _ _ sport _ _ => sport.toNat < 6
  | .report _ _ neigh => neigh.all (·.wf)
  | .mapMsg _ _ _ devs => devs.all (·.wf)
  | .linkDownMsg _ _ _ link => link.wf
  | .linkUpMsg _ _ _ link => link.wf
  | .post _ _ _ _ _ body => msgFits body
  | .writeMsg _ _ _ _ body => msgFits body
  | .relayOpen _ body => body.wf
  | .relayLine _ tag plane _ data => tag.length == 32 && plane.toNat < 3 && msgFits data
  | .relayResult _ record => record.length % 32 == 0 && msgFits record
  | .escHead _ _ body => body.wf
  | .escData _ _ data _ => msgFits data
  | .escReply _ _ _ fields => msgFits fields
  | .metEncEdge _ _ _ _ pins => pins.wf
  | .metTrailEdge _ _ pins => pins.wf
  | .metWatchdog _ pins => pins.wf
  | .metPowerOn pins => pins.wf
  | .scrubStep place upsets pins => place.wf && upsets.all upsetWf && pins.wf
  | .dramRequestTimeout _ _ _ pins => pins.wf
  | .hostReadTimeout rd => rd.wf
  | .umpireWatchdog _ pins => pins.wf
  | .lockstepMismatch pins => pins.wf
  | .tempoWindow steps => steps.length == 272
  | .poresetRelease pins => pins.wf
  | .umpireUp flash _ => flash.all (·.2.wf)
  | .bistDone failed => failed.all (fun p => decide (p < 272))
  | .coachImage flash _ => flash.all (·.2.wf)
  | .lowWordRead .. | .timNowRead | .counterClear .. | .linPortEnable .. | .linPortDisable .. | .calStart .. => true
  | .calAbort .. | .calTabRead .. | .calTabWrite .. | .calCommit .. | .sqDoorbell .. | .sqEnable .. => true
  | .sqDisable .. | .ringEnable .. | .ringHeadWrite .. | .sbSelect .. | .sbClear | .snapRegTrigger .. => true
  | .snapArm .. | .standbyEnter | .standbyExit | .thermMaxReset | .kolPortEnable .. | .kolPortDisable .. => true
  | .ethEnable .. | .txqPop .. | .packetFetch .. | .itemOpen .. | .imageSubmit .. | .itemAbort .. => true
  | .itemQuery .. | .tokenize .. | .retRead .. | .playbookLoad .. | .playbookUnload .. | .modelPin .. => true
  | .portBind .. | .partConfig .. | .ctxDefine .. | .ctxDelete .. | .tableSelect .. | .ctxRestart .. => true
  | .huddle .. | .catchSet .. | .linkReset .. | .remotePost .. | .timeStepAccept .. | .timeSet .. => true
  | .timeQuery .. | .echo .. | .snapTrigger .. | .snapRead .. | .bistReport .. | .metRecordRead .. => true
  | .metLogRead .. | .metIdRead .. | .uartFrameBad .. | .jobDispatch .. | .ctxSwitchDone .. | .commandStart .. => true
  | .nop .. | .ckpt .. | .endList .. | .matmul .. | .conv .. | .attnScore .. => true
  | .attnValue .. | .convert .. | .pool .. | .argmaxC .. | .softmaxStep .. | .mergeExact .. => true
  | .rotary .. | .norm .. | .kvQuant .. | .send .. | .recv .. | .haloOpen .. => true
  | .haloPut .. | .haloClose .. | .load .. | .store .. | .streamIn .. | .emit .. => true
  | .commandTimeout .. | .ctxTeardownDone .. | .handshakeWatchdog .. | .routerLinkError .. | .tileRestoreDone .. | .slotStart .. => true
  | .slotEnd .. | .majorFrame .. | .modelLoadDone .. | .saturationWindow | .bucketTick | .frameRequest .. => true
  | .frameFreed .. | .frameWaitExpiry .. | .spillDone .. | .prefetchStart .. | .prefetchDone .. | .cowDone .. => true
  | .dropDone .. | .beItemOpenWait | .syncError .. | .laneLock .. | .laneLockLoss .. | .align .. => true
  | .packetMissing .. | .encEdge .. | .encZEdge .. | .encStall .. | .lineInterpDue .. | .lineStart .. => true
  | .flushExposure .. | .lampFault .. | .lampStuck .. | .calCaptureDone .. | .calCopyDone .. | .barrierEdge .. => true
  | .barrierJam .. | .emissionPoint .. | .lateLimitExpiry .. | .ringIrqTimer .. | .decodeBudgetExpiry .. | .emitDecide .. => true
  | .liveChunkTimeout .. | .maskFetchDone .. | .cropWritten .. | .passInputWritten .. | .portAligned .. | .alignLost .. => true
  | .trainingDone .. | .ackStallReplay .. | .keepaliveSend .. | .linkSilence .. | .helloSend | .huddleRootStart => true
  | .assign .. | .doneMsg .. | .huddleWaitExpiry | .modelAdvert .. | .resp .. | .txnTimeout .. => true
  | .relaySeal .. | .resultAck .. | .heartbeatSend | .heartbeat .. | .heartbeatTimeout | .syncSend => true
  | .pdReqSend .. | .announceSend | .sync .. | .follow .. | .pdReq .. | .pdResp .. => true
  | .pdFollow .. | .announce .. | .ptpEventFrame .. | .arpRequest .. | .ethFrameDiscard .. | .metLeadEdge .. => true
  | .metInterpTimeout .. | .metRecordDone .. | .sealChange .. | .metBootDone .. | .metPowerOff | .corrRateWindow => true
  | .coachWatchdog .. | .coachUp | .governorPeriod | .tempoLow .. | .thermSample .. | .snapPin .. => true
  | .snapTimeMatch | .snapWritten | .poresetAssert | .dramTrained .. | .dramWritten | .ready => true
  | .coachException | .ethLinkDown | .ethLinkUp => true

end Sys2Proof
end

