-- ==== Sys2Proof/Safety.lean ====
section
/-! DEFINITION. What counts as a safe run, in the terms the claims use: where commands act, what a command leaves alone, and the invariants of the state. -/

namespace Sys2Proof.Machine

/-- A step answers a next state: it neither faults nor refuses. -/
def State.runs (s : State) : Prop := ∃ t, step s = .next t

/-- Host accesses act: PORESET_N is released and READY reads 1 (R517, R559). -/
def State.awake (s : State) : Prop := s.sys.released = true ∧ s.isReady = true

/-- The fetched packet `b` of opcode `op` at (`q`, `pos`) may start now (R487). -/
def State.starts (s : State) (q : Fin 64) (pos : BitVec 16) (op : Nat) (b : List Byte) : Prop :=
  s.sys.released = true ∧ s.startable q pos op = some b

/-- `t` with the queue and the Norentum of `s`: what a main-domain command that computes `t` answers (R137, R138). -/
def State.keeps (s t : State) : State := { t with pending := s.pending, met := s.met }

/-- Every byte of host memory, of device DRAM (as it reads, log entry 84) and of the tile stores reads in `t` as in `s`. -/
def State.memSame (s t : State) : Prop :=
  ∀ a, tget 0 t.host a = tget 0 s.host a ∧ t.dread a 1 = s.dread a 1 ∧ tget 0 t.tile a = tget 0 s.tile a

/-- Every register but those at the listed offsets reads in `t` as in `s`. -/
def State.regsSame (s t : State) (except : List Nat) : Prop := ∀ a, a ∉ except → t.reg a = s.reg a

/-- The canonical form: the register file and the three memories are sorted and list no entry that equals what an unlisted place reads as (log entry 5). -/
def State.canonical (s : State) : Prop :=
  Tbl.wf regReset s.regs = true ∧ memWf s.host = true ∧ memWf s.dram = true ∧ memWf s.tile = true

/-- The commands of Norentum: its service UART, its pins and its supply (R137, R141, R166). -/
def isMet : Instr → Bool
  | .readId _ => true
  | .readLog _ => true
  | .uartStage _ => true
  | .uartCommit _ _ => true
  | .uartDiscard _ => true
  | .imageBlock _ => true
  | .imageEnd _ _ => true
  | .uartVerify _ => true
  | .uartFrameBad _ => true
  | .uartUnknown _ _ => true
  | .metEncEdge .. => true
  | .metLeadEdge _ _ => true
  | .metTrailEdge .. => true
  | .metInterpTimeout _ => true
  | .metRecordDone _ => true
  | .sealChange _ => true
  | .metBootDone .. => true
  | .metWatchdog .. => true
  | .metPowerOn _ => true
  | .metPowerOff => true
  | _ => false

/-- The legal states of Norentum (R140-R144, R161, R163): the log fits its 1,024 entries, a state past boot has ROM run, and a sealed or opened state agrees with the seal pin. -/
def Met.legal (m : Met) : Prop :=
  m.log.length ≤ 1024
    ∧ (m.state = .sealed → m.sealKnown = true ∧ m.sealLow = true)
    ∧ (m.state = .opened → m.sealKnown = true ∧ m.sealLow = false)

end Sys2Proof.Machine
end

