-- ==== Sys2Proof/Certificates/Slice0/Obligations.lean ====
section
/-! DEFINITION. The statements for the provers, one definition each; a clause that rests on a choice of the model names its log entry. -/

open Sys2Proof Sys2Proof.Machine

/-- A step takes the command at the front of the queue and is exec of it on the state with the queue's rest; on an empty queue one nanosecond passes, which is the model's choice of log entry 2. -/
def Obligations.StepRunsFront : Prop :=
  (∀ (c : Instr) (rest : List Instr) (s : State), s.pending = c :: rest → step s = exec c { s with pending := rest })
  ∧ (∀ (c : Instr) (rest : List Instr) (s t : State), s.pending = c :: rest → step s = .next t → t.pending = rest)
  ∧ ∀ s : State, s.pending = [] → step s = .next (tick s)

/-- On an empty queue a nanosecond of the timebase passes: fabric time and Norentum's counter advance by one nanosecond at rate 0 unless a backward step holds them; while no datagram waits nothing but clocks, timers, announcements that end, one entry of the retention write queue, whose bytes read as before, and one codeword of each trained port changes; else the first datagram leaves with its SEND_STAMP, and held records may take its room (R100, R140, R168, R418, R461, R467, R475, R510, R513; log entries 2, 84, 85). -/
def Obligations.IdleTick : Prop :=
  ∀ s : State, s.pending = [] →
    ((s.eth.queue = [] ∨ s.ethOn = false ∨ s.sys.released = false) → ∃ t, step s = .next t ∧ t.tb = s.tb + 1 ∧ t.pending = []
      ∧ (s.sys.released = true → s.tim.rate = 0 → s.tim.acc = 0 →
          (s.tim.stopNs = 0 → t.tim.now = s.tim.now + 65536) ∧ (0 < s.tim.stopNs → t.tim.now = s.tim.now ∧ t.tim.stopNs = s.tim.stopNs - 1)
          ∧ (s.met.on = true → s.met.stopNs = 0 → t.met.time = s.met.time + 65536))
      ∧ (s.sys.released = false → t.tim = s.tim ∧ t.kol = s.kol ∧ t.retQueue = s.retQueue ∧ (s.met.on = true → s.met.stopNs = 0 → t.met.time = s.met.time + 65536))
      ∧ (s.met.on = false → t.met = s.met) ∧ (s.met.on = true → t.met.beatNs = s.met.beatNs + 1) ∧ (s.met.on = true → 0 < s.met.stopNs → t.met.time = s.met.time)
      ∧ t.met.log = s.met.log ∧ t.met.records = s.met.records ∧ t.items = s.items ∧ t.host = s.host ∧ t.tile = s.tile ∧ t.eth = s.eth ∧ s.regsSame t [TIM_STAT]
      ∧ (∀ a n, t.dread a n = s.dread a n) ∧ (t.retQueue = s.retQueue ∧ t.dram = s.dram ∨ ∃ w, s.retQueue = w :: t.retQueue ∧ t.dram = (s.dput w.1 w.2).dram)
      ∧ (∀ n : Fin 6, t.kport n = if s.sys.released = true ∧ s.tb * 5 / 128 ≠ (s.tb + 1) * 5 / 128 ∧ s.on (KOL_PORT_STAT n) KOL_PORT_STAT_TRAINED = true
          then (s.kport n).sendCodeword (s.on (KOL_PORT_CTL n) KOL_PORT_CTL_PRECODE) else s.kport n))
    ∧ (∀ d rest, s.sys.released = true → s.ethOn = true → s.eth.queue = d :: rest → ∃ (u : State) (o : UdpOut),
      step s = .next { (((u.divertHold.stallCheck).tidy).retTick).codewordTick with tb := s.tb + 1 } ∧ u.eth = { s.eth with queue := rest, sent := o :: s.eth.sent }
        ∧ o.payload = d.take 8 ++ leBytes 8 u.now.toNat ++ d.drop 16 ∧ o.dstMac = s.pair ETH_DST_MAC_LO ∧ o.dstIp = s.num ETH_DST_IP ∧ u.num ETH_TX_CNT = min (s.num ETH_TX_CNT + 1) 0xFFFFFFFF
        ∧ u = { s with tim := u.tim, met := u.met, tiles := u.tiles, kol := u.kol, eth := u.eth, regs := u.regs } ∧ s.regsSame u [TIM_STAT, ETH_TX_CNT])

/-- Right after reset the registers read their reset values, no command waits, nothing is open, fetched or held, and the register file and the memories have their canonical form (R24, R555, R581). Norentum right after reset is in a legal state. -/
def Obligations.ResetState : Prop :=
  (State.reset.pending = [] ∧ (∀ a, State.reset.reg a = regReset a) ∧ State.reset.items = [] ∧ State.reset.fetched = [] ∧ State.reset.hold = [] ∧ State.reset.sys.released = false
      ∧ State.reset.met.on = false ∧ State.reset.canonical)
  ∧
  (State.reset.met.legal)

/-- Registers and memories: a register reads as it was written and no other changes, a write of bytes is read back and changes no other byte (of DRAM and the stores, where no word carries an upset), and each of these keeps the canonical form (log entry 5 for the form). -/
def Obligations.WritesReadBack : Prop :=
  ∀ (s : State) (a n t : Nat) (v : Word) (l : List Byte), s.canonical →
    (s.setReg a v).reg a = v ∧ s.regsSame (s.setReg a v) [a] ∧ s.memSame (s.setReg a v)
    ∧ (s.hwrite n l).hread n l.length = l ∧ (n + l.length ≤ dramBytes → mread (s.dwrite n l).dram n l.length = l ∧ (s.ras.chk = [] → (s.dwrite n l).dread n l.length = l))
    ∧ (s.ras.tchk = [] → (s.twrite t n l).tread t n l.length = l)
    ∧ (∀ x, x < n ∨ n + l.length ≤ x → tget 0 (s.hwrite n l).host x = tget 0 s.host x ∧ (s.ras.chk = [] → (s.dwrite n l).dread x 1 = s.dread x 1))
    ∧ (s.setReg a v).canonical ∧ (s.hwrite n l).canonical ∧ (s.dwrite n l).canonical ∧ (s.twrite t n l).canonical

/-- While PORESET_N is low every command but those of Norentum and the release of PORESET_N leaves the state as it is, or stops on a place that does not exist (R141, R553). -/
def Obligations.ResetHoldsMainDomain : Prop :=
  ∀ (s : State) (c : Instr), s.sys.released = false → isMet c = false → (∀ pins, c ≠ .poresetRelease pins) →
    exec c s = .next s ∨ exec c s = .fault .addressHole

/-- READ_ID, READ_LOG and VERIFY answer ACK with their data, and NAK RANGE where the payload is not theirs or the log has no such entry; a bad frame is discarded, an unlisted TYPE answered NAK UNKNOWN (R165-R167). Each changes nothing but Norentum's transmitted frames, and a frame has the layout of R166. -/
def Obligations.MetUartReads : Prop :=
  ∀ s : State, s.met.on = true →
    exec (.readId []) s = .next { s with met := s.met.ack s.met.idBlock }
    ∧ (∀ p : List Byte, p.length = 2 → 1 ≤ leAt p 0 2 → leAt p 0 2 ≤ s.met.log.length →
        exec (.readLog p) s = .next { s with met := s.met.ack (s.met.log.getD (leAt p 0 2 - 1) []) })
    ∧ (∀ p : List Byte, p.length = 64 →
        exec (.uartVerify p) s = .next { s with met := s.met.ack [if metMac (p.take 56) = p.drop 56 then 1 else 0] })
    ∧ (∀ p : List Byte, (p ≠ [] → exec (.readId p) s = .next { s with met := s.met.nak 2 })
        ∧ (p.length ≠ 2 ∨ leAt p 0 2 = 0 ∨ s.met.log.length < leAt p 0 2 → exec (.readLog p) s = .next { s with met := s.met.nak 2 })
        ∧ (p.length ≠ 64 → exec (.uartVerify p) s = .next { s with met := s.met.nak 2 }))
    ∧ (∀ f : List Byte, exec (.uartFrameBad f) s = .next s)
    ∧ (∀ (y : Byte) (p : List Byte), (y.toNat < 0x10 ∨ 0x17 < y.toNat) → exec (.uartUnknown y p) s = .next { s with met := s.met.nak 5 })
    ∧ (∀ p : List Byte, s.met.ack p = { s.met with uartTx := s.met.uartTx ++
        [[0x7E, 0x20] ++ leBytes 2 p.length ++ p ++ leBytes 4 (crc32 ([0x20] ++ leBytes 2 p.length ++ p))] })

/-- In OPEN, STAGE puts an in-range value into the staged set, DISCARD returns the staged set to the committed one, and IMAGE_BLOCK keeps its bytes; each answers ACK and changes nothing else. A payload of another length, a port, number or value outside its range is answered NAK RANGE and changes nothing (R143, R159, R167). An accepted COMMIT in OPEN makes the staged set the committed one, counts one event and appends one log entry of type PARAM; the records, the image and everything outside Norentum stay (R159, R160). IMAGE_END in OPEN takes the buffered image when its signature verifies: one event, one log entry of type IMAGE, a restart into BOOT; a failed load leaves the previous image in place and is answered NAK SIGNATURE (R160, R163, R164, R167). In SEALED the commands that change anything are answered NAK SEALED and change nothing else, and in BOOT NAK STATE; with a full log COMMIT and IMAGE_END are answered NAK LOG_FULL (R161, R167). -/
def Obligations.MetChanges : Prop :=
  (∀ s : State, s.met.on = true → s.met.state = .opened →
      (∀ p : List Byte, p.length = 6 → leAt p 0 1 ≤ 3 → leAt p 1 1 ≤ 14 → leAt p 1 1 ≠ 5 →
          (metRange (leAt p 1 1)).1 ≤ (leAt p 2 4 : Nat) → ((leAt p 2 4 : Nat) : Int) ≤ (metRange (leAt p 1 1)).2 →
          exec (.uartStage p) s = .next { s with met := ({ s.met with staged := tput s.met.staged (leAt p 0 1 * 16 + leAt p 1 1) (leAt p 2 4 : Nat) }).ack [] })
      ∧ (∀ p : List Byte, p.length = 6 → leAt p 0 1 ≤ 3 → leAt p 1 1 = 5 → -10000 ≤ sgn 32 (leAt p 2 4) → sgn 32 (leAt p 2 4) ≤ 10000 →
          exec (.uartStage p) s = .next { s with met := ({ s.met with staged := tput s.met.staged (leAt p 0 1 * 16 + 5) (sgn 32 (leAt p 2 4)) }).ack [] })
      ∧ exec (.uartDiscard []) s = .next { s with met := ({ s.met with staged := s.met.committed }).ack [] }
      ∧ (∀ p : List Byte, 5 ≤ p.length → p.length ≤ 4100 → ∃ b, exec (.imageBlock p) s = .next { s with met := ({ s.met with imageBuf := b }).ack [] }
          ∧ (∀ i, i < p.length - 4 → tfind b (leAt p 0 4 + i) = (p.drop 4)[i]?)
          ∧ ∀ k, k < leAt p 0 4 ∨ leAt p 0 4 + (p.length - 4) ≤ k → tfind b k = tfind s.met.imageBuf k)
      ∧ (∀ p : List Byte, (p.length ≠ 6 ∨ 3 < leAt p 0 1 ∨ 14 < leAt p 1 1 ∨ (leAt p 1 1 ≠ 5 ∧ (((leAt p 2 4 : Nat) : Int) < (metRange (leAt p 1 1)).1
            ∨ (metRange (leAt p 1 1)).2 < ((leAt p 2 4 : Nat) : Int))) ∨ (leAt p 1 1 = 5 ∧ (sgn 32 (leAt p 2 4) < -10000 ∨ 10000 < sgn 32 (leAt p 2 4))) →
            exec (.uartStage p) s = .next { s with met := s.met.nak 2 })
          ∧ (p ≠ [] → exec (.uartDiscard p) s = .next { s with met := s.met.nak 2 })
          ∧ (p.length < 5 ∨ 4100 < p.length → exec (.imageBlock p) s = .next { s with met := s.met.nak 2 })))
  ∧
  (∀ (s : State) (pins : PinLevels), s.met.on = true → s.met.state = .opened → s.met.log.length < 1024 →
      (∀ n, n < 4 → metParam s.met.staged n 13 ≤ metParam s.met.staged n 14) →
      ∃ t e, exec (.uartCommit [] pins) s = .next t ∧ t = { s with met := t.met }
        ∧ t.met.committed = s.met.staged ∧ t.met.events = s.met.events + 1 ∧ t.met.log = s.met.log ++ [e] ∧ e.getD 2 0 = 4
        ∧ t.met.uartTx = (s.met.ack []).uartTx ∧ t.met.state = .opened
        ∧ t.met.records = s.met.records ∧ t.met.mref = s.met.mref ∧ t.met.image = s.met.image ∧ t.met.imageSet = s.met.imageSet)
  ∧
  (∀ (s : State) (p : List Byte) (pins : PinLevels), s.met.on = true → s.met.state = .opened → s.met.log.length < 1024 → p.length = 96 →
      ∃ t, exec (.imageEnd p pins) s = .next t ∧ t = { s with met := t.met }
        ∧ (Config.metImageSigned s.met.bufferBytes p = true → t.met.image = s.met.bufferBytes ∧ t.met.imageSet = true ∧ t.met.events = s.met.events + 1
          ∧ (∃ e : List Byte, t.met.log = s.met.log ++ [e] ∧ e.getD 2 0 = 5) ∧ t.met.state = .boot ∧ t.met.committed = s.met.committed)
        ∧ (Config.metImageSigned s.met.bufferBytes p = false → t.met = (({ s.met with imageBuf := [] }).nak 4).applyStep s.tim.stopNs))
  ∧
  (∀ (s : State) (p : List Byte) (pins : PinLevels), s.met.on = true →
      (s.met.state = .sealed →
        exec (.uartStage p) s = .next { s with met := s.met.nak 1 }
        ∧ exec (.uartDiscard p) s = .next { s with met := s.met.nak 1 }
        ∧ exec (.imageBlock p) s = .next { s with met := s.met.nak 1 }
        ∧ exec (.imageEnd p pins) s = .next { s with met := (s.met.nak 1).applyStep s.tim.stopNs }
        ∧ exec (.uartCommit p pins) s = .next { s with met := (s.met.nak 1).applyStep s.tim.stopNs })
      ∧ (s.met.state = .boot →
        exec (.uartStage p) s = .next { s with met := s.met.nak 6 }
        ∧ exec (.uartDiscard p) s = .next { s with met := s.met.nak 6 }
        ∧ exec (.imageBlock p) s = .next { s with met := s.met.nak 6 }
        ∧ exec (.imageEnd p pins) s = .next { s with met := (s.met.nak 6).applyStep s.tim.stopNs }
        ∧ exec (.uartCommit p pins) s = .next { s with met := (s.met.nak 6).applyStep s.tim.stopNs })
      ∧ (s.met.state = .opened → 1024 ≤ s.met.log.length →
        exec (.imageEnd p pins) s = .next { s with met := (s.met.nak 3).applyStep s.tim.stopNs }
        ∧ exec (.uartCommit p pins) s = .next { s with met := (s.met.nak 3).applyStep s.tim.stopNs }))

/-- Norentum's own encoder: a transition that has stood for 5 ns is accepted. One of A and B alone moves the position by one count, modulo 2^32, up in the phase order 00, 10, 11, 01; the highest position follows it upward only; a transition of both moves nothing. A transition that has not stood moves nothing either. Where no committed set waits, the levels become those of the transition and every other encoder stays (R143, R584). A blocking edge of MBAR that has stood for MBAR_FILT_NS starts a measurement in SEALED or OPEN on a port that has none under way, with the parameters in force, SEAL_OPEN in OPEN, and the packets of plane CHAN from its stamp on that have come already; the unblocking edge ends its extent; a level that has not stood is no edge; after 10 ms without a counted edge the interpolation ends (R144, R145, R148, R158, R159, R584). -/
def Obligations.MetEdges : Prop :=
  (∀ (s : State) (e : Fin 4) (a b : Bool) (stamp : Stamp) (pins : PinLevels), s.met.on = true →
      let c := s.met.enc e
      (s.met.stood stamp 5 = true → ∃ t, exec (.metEncEdge e a b stamp pins) s = .next t ∧ t = { s with met := t.met }
        ∧ (s.met.ports.all (fun p => !p.2.applyDue) = true → (t.met.enc e).a = a ∧ (t.met.enc e).b = b ∧ (∀ k, k ≠ e.val → t.met.enc k = s.met.enc k))
        ∧ (a ≠ c.a → b ≠ c.b → (t.met.enc e).pos = c.pos)
        ∧ (a = c.a → b = c.b → t.met = (s.met.applyParams pins).applyStep s.tim.stopNs)
        ∧ (a ≠ c.a → b = c.b → (t.met.enc e).pos = if a ≠ b then (c.pos + 1) % 2 ^ 32 else (c.pos + 2 ^ 32 - 1) % 2 ^ 32)
        ∧ (a = c.a → b ≠ c.b → (t.met.enc e).pos = if a = b then (c.pos + 1) % 2 ^ 32 else (c.pos + 2 ^ 32 - 1) % 2 ^ 32)
        ∧ ((t.met.enc e).high = c.high ∨ (t.met.enc e).high = (t.met.enc e).pos ∧ 0 < sdiff 32 (t.met.enc e).pos c.high)
        ∧ (∀ k, k ≠ e.val → (t.met.enc k).pos = (s.met.enc k).pos ∧ (t.met.enc k).high = (s.met.enc k).high)
        ∧ t.met.log = s.met.log ∧ t.met.records = s.met.records ∧ t.met.committed = s.met.committed)
      ∧ (s.met.stood stamp 5 = false → exec (.metEncEdge e a b stamp pins) s = .next { s with met := (s.met.applyParams pins).applyStep s.tim.stopNs }))
  ∧
  (∀ (s : State) (n : Fin 4) (stamp : Stamp) (pins : PinLevels), s.met.on = true →
      ((s.met.state = .sealed ∨ s.met.state = .opened) → (s.met.port n).blocked = false → (s.met.port n).busy = false →
          s.met.stood stamp (s.met.port n).inForce.mbarFilt = true →
        ∃ t q, exec (.metLeadEdge n stamp) s = .next t ∧ t = { s with met := t.met } ∧ (t.met.port n).meas = (s.met.port n).meas ++ [q]
          ∧ (t.met.port n).blocked = true ∧ q.lead = stamp ∧ q.prm = (s.met.port n).inForce ∧ q.trail = none ∧ q.evt = s.met.eventCnt
          ∧ q.lines = ((s.met.port n).taps.reverse.filter (fun x => x.plane == q.prm.chan && decide (0 ≤ stampDiff x.stamp stamp))).map (fun x => x.line q.prm)
          ∧ (q.sealOpen = true ↔ s.met.state = .opened)
          ∧ (∀ k, k ≠ n.val → t.met.port k = s.met.port k))
      ∧ ((s.met.port n).blocked = true ∨ s.met.stood stamp (s.met.port n).inForce.mbarFilt = false → exec (.metLeadEdge n stamp) s = .next s)
      ∧ (s.met.stood stamp (s.met.port n).barFilt = true →
        ∃ t, exec (.metTrailEdge n stamp pins) s = .next t ∧ t = { s with met := t.met }
          ∧ ((s.met.port n).applyDue = false → (t.met.port n).blocked = false ∧ (t.met.port n).inForce = (s.met.port n).inForce)
          ∧ ((s.met.port n).applyDue = true → (t.met.port n).applyDue = false ∧ (t.met.port n).inForce = metSet s.met.committed n)
          ∧ (t.met.port n).meas = (s.met.port n).meas.map (fun q =>
              if q.open then { q with trail := some stamp, interpDone := (s.met.enc q.prm.menc).edges.any (fun x => decide (0 < stampDiff x.1 stamp)) } else q)
          ∧ t.met.log = s.met.log ∧ t.met.records = s.met.records ∧ t.met.committed = s.met.committed)
      ∧ (s.met.stood stamp (s.met.port n).barFilt = false → exec (.metTrailEdge n stamp pins) s = .next { s with met := (s.met.applyParams pins).applyStep s.tim.stopNs })
      ∧ (∃ t, exec (.metInterpTimeout n) s = .next t ∧ t = { s with met := t.met }
          ∧ (∀ q ∈ (s.met.port n).meas, ∀ x, q.trail = some x → 10000000 * 65536 ≤ stampDiff s.met.time x →
              ({ q with interpDone := true } : Meas) ∈ (t.met.port n).meas)
          ∧ (∀ k, k ≠ n.val → t.met.port k = s.met.port k) ∧ t.met.log = s.met.log ∧ t.met.records = s.met.records))

/-- A finished measurement becomes a record: MREF counts on without 0, the record of 64 bytes ends in the first 8 bytes of its HMAC, stands in slot MREF mod 4,096, and leaves as a UART frame of TYPE 0x01 (R151, R153, R166). -/
def Obligations.MetRecordMade : Prop :=
  ∀ (s : State) (n : Fin 4) (q : Meas) (rest : List Meas), s.met.on = true → (s.met.state = .sealed ∨ s.met.state = .opened) →
    (s.met.port n).meas = q :: rest → q.open = false → q.interpDone = true →
    ∃ t body, exec (.metRecordDone n) s = .next t ∧ t = { s with met := t.met, freeCtr := s.freeCtr + 1 }
      ∧ t.met.mref = (if (s.met.mref + 1) % 2 ^ 32 = 0 then 1 else s.met.mref + 1)
      ∧ tfind t.met.records (t.met.mref % 4096) = some (body ++ (hmac256 Config.metKey body).take 8)
      ∧ body.length = 56 ∧ leAt body 0 4 = t.met.mref % 2 ^ 32
      ∧ t.met.uartTx = s.met.uartTx ++ [[0x7E, 1] ++ leBytes 2 64 ++ body ++ (hmac256 Config.metKey body).take 8
          ++ leBytes 4 (crc32 ([1] ++ leBytes 2 64 ++ body ++ (hmac256 Config.metKey body).take 8))]
      ∧ t.met.log = s.met.log ∧ t.met.committed = s.met.committed ∧ t.met.events = s.met.events

/-- Once its ROM, image and parameters verify, Norentum enters SEALED or OPEN by the accepted level of SEAL_N; where one of them does not, it enters FAULT with that cause; POWER_ON is logged once; a change of SEAL_N moves it between SEALED and OPEN and is logged; the watchdog, 10 ms after the last kick, logs FAULT and restarts into BOOT with no measurement (R142, R156, R157, R160, R530). VDD_MET powers on with the counter and the positions at 0 in BOOT, its filters at the levels found, the log, the committed set, the image and the event counter as they were; while VDD_MET is off every MET register reads 0 and no other command of Norentum does anything (R137, R140, R168). -/
def Obligations.MetStatesAndSupply : Prop :=
  (∀ s : State, s.met.on = true → s.met.log.length < 1024 →
      (s.met.state = .boot → s.met.imageBad = false → s.met.flashBad = false → s.met.otpBad = false → s.met.sealKnown = true →
        ∃ t, exec (.metBootDone false false false) s = .next t ∧ t = { s with met := t.met } ∧ t.met.romDone = true
          ∧ t.met.state = (if s.met.sealLow then .sealed else .opened)
          ∧ (s.met.powerLogged = true → t.met.log = s.met.log) ∧ (s.met.powerLogged = false → ∃ e, t.met.log = s.met.log ++ [e] ∧ e.getD 2 0 = 1)
          ∧ t.met.events = s.met.events)
      ∧ (∀ image params otp : Bool, s.met.state = .boot → (image || params || otp) = true →
        ∃ t, exec (.metBootDone image params otp) s = .next t ∧ t = { s with met := t.met } ∧ t.met.state = .fault
          ∧ t.met.cause = (if s.met.imageBad || image then 2 else if s.met.flashBad || params then 3 else 4)
          ∧ t.met.committed = s.met.committed ∧ t.met.events = s.met.events)
      ∧ (s.met.state = .sealed → s.met.sealKnown = true → s.met.sealLow = true →
        ∃ t e, exec (.sealChange true) s = .next t ∧ t = { s with met := t.met } ∧ t.met.state = .opened ∧ t.met.sealLow = false
          ∧ t.met.log = s.met.log ++ [e] ∧ e.getD 2 0 = 2 ∧ t.met.events = s.met.events ∧ t.met.committed = s.met.committed)
      ∧ (s.met.state = .opened → s.met.sealKnown = true → s.met.sealLow = false →
        ∃ t e, exec (.sealChange false) s = .next t ∧ t = { s with met := t.met } ∧ t.met.state = .sealed ∧ t.met.sealLow = true
          ∧ t.met.log = s.met.log ++ [e] ∧ e.getD 2 0 = 3 ∧ t.met.events = s.met.events ∧ t.met.committed = s.met.committed)
      ∧ (∀ (kick : Nat) (pins : PinLevels), s.tb < kick + 10000000 → exec (.metWatchdog kick pins) s = .next { s with met := s.met.applyStep s.tim.stopNs })
      ∧ (∀ (kick : Nat) (pins : PinLevels), kick + 10000000 ≤ s.tb → ∃ t e, exec (.metWatchdog kick pins) s = .next t ∧ t = { s with met := t.met } ∧ t.met.state = .boot ∧ t.met.log = s.met.log ++ [e] ∧ e.getD 2 0 = 6
          ∧ (∀ n, (t.met.port n).meas = []) ∧ (∀ k, (t.met.enc k).pos = 0) ∧ t.met.committed = s.met.committed ∧ t.met.records = s.met.records))
  ∧
  (∀ s : State,
      (∀ pins : PinLevels, s.met.on = false → ∃ t, exec (.metPowerOn pins) s = .next t ∧ t = { s with met := t.met } ∧ t.met.on = true ∧ t.met.state = .boot ∧ t.met.time = 0
        ∧ (∀ k, (t.met.enc k).pos = 0) ∧ (∀ k : Fin 4, ((t.met.enc k).a, (t.met.enc k).b) = pins.enc.getD k (false, false))
        ∧ t.met.log = s.met.log ∧ t.met.committed = s.met.committed ∧ t.met.image = s.met.image
        ∧ t.met.imageSet = s.met.imageSet ∧ t.met.events = s.met.events)
      ∧ (∀ pins, s.met.on = true → exec (.metPowerOn pins) s = .next s)
      ∧ exec .metPowerOff s = .next { s with met := { s.met with on := false } }
      ∧ (s.met.on = false → (∀ a, s.metReg a = 0) ∧ ∀ c : Instr, isMet c = true → (∀ pins, c ≠ .metPowerOn pins) → exec c s = .next s))

/-- The legal states of Norentum are kept by every step, whatever command is in front: at most 1,024 log entries, SEALED only under an accepted low SEAL_N and OPEN only under an accepted high one (R156, R157, R161). -/
def Obligations.MetLegalKept : Prop := ∀ s t : State, s.met.legal → step s = .next t → t.met.legal

/-- The log is never erased and the event counter never decreases: every step, of any command or of the clock, leaves the log a prefix of what it was before, and the accepted changes at least as many (R160, R161). -/
def Obligations.MetLogAppendOnly : Prop :=
  ∀ s t : State, step s = .next t → s.met.log <+: t.met.log ∧ s.met.events ≤ t.met.events

/-- While Norentum is SEALED no step of anything changes its committed parameters, its image or its event counter, whether the command comes over the UART, from the host, or from the engine (R137, R138, R164, R167). -/
def Obligations.MetSealedUnchanged : Prop :=
  ∀ s t : State, s.met.state = .sealed → step s = .next t →
    t.met.committed = s.met.committed ∧ t.met.image = s.met.image ∧ t.met.imageSet = s.met.imageSet ∧ t.met.events = s.met.events

/-- A write to a register of its own fields only, which no other rule touches: while its block does not run, each IMM and IDLE field takes its bits of the word, each W1C field loses the bits written 1, and every other field and register stays (R7, R10, R13). An access of another size, or one that is not aligned, does nothing (R4). LINE fields of exposure and gate times do not change at the write: the word waits in the shadow, and the register file stays (R10, R11). A write to a register that has no rule of its own beyond its fields is `State.plainWrite` and what `State.afterWrite` sets going; a register alone takes it by `State.applyWrite` (R4, R7, R575). What one access does to the fields of a register. A word out of the register's range is rejected whole. Of one in range, IMM fields take their bits at once; IDLE fields take theirs unless their block runs, and then stay while the reject bit sets and the other fields apply; W1C fields lose the bits written 1; LINE, CMD, ITEM and BOOT fields stay, and the word waits for their boundary or the next reset (R7, R10, R11, R13, R575, R576, R577). A write of the low word of a pair changes no register, and the high word commits both words at once; while the block of an IDLE pair runs the high word is rejected, and the low word that waited is discarded (R5, R13; log entry 62 for the discard). The boundary at which a waiting word takes effect: its LINE fields at the start of a line of that port, its ITEM fields at the opening of an item, its BOOT fields at the next reset. At each, exactly the fields of that code take their bits together, and a word that took effect waits no more (R10, R11, R12). -/
def Obligations.RegisterWrites : Prop :=
  (∀ (s : State) (a : BitVec 26) (d : RegD) (i j : Nat) (v : Word), s.awake → findReg a.toNat = some (d, i, j) → a.toNat % 4 = 0 →
      a.toNat / 0x100000 ≠ 10 → d.pair = .one → d.clr = false → irqStatOf d.base a.toNat = none →
      d.base ∉ [LIN_PORT_CTL 0, CAL_CTL 0, CAL_TAB_DATA 0, CAL_TAB_COMMIT 0, HIF_SQ_CFG 0, HIF_SQ_TAIL 0, HIF_RING_CFG 0, HIF_RING_HEAD 0, SCH_SB_SEL,
        SCH_SB_CLR, SNP_CTL, PIT_GOV_CFG, PIT_GOV_VLIM, PIT_GOV_FIXED, PIT_PWR_CAP, SYS_PWR_CTL, SYS_THERM, KOL_PORT_CTL 0, ETH_CFG, LIN_BAR_CFG 0,
        HIF_RESULT_BUDGET, PGM_ITEM_LC_RESERVE, LIN_RET_SIZE 0, LIN_ENC_CFG 0, LIN_ENC_LIMIT 0, PIT_GOV_STAT, TIM_CFG] →
      (d.fields.all (fun f => f.acc != .rw || f.eff == .imm || f.eff == .idle)) = true → s.blockRuns a.toNat = false → s.inRange d.base v = true →
      ∃ t, exec (.regWrite a 4 v) s = .next t
        ∧ (∀ f ∈ d.fields, f.acc = .rw → fget (t.reg a.toNat) f.fld = fget v f.fld)
        ∧ (∀ f ∈ d.fields, f.acc = .w1c → fget (t.reg a.toNat) f.fld = fget (s.reg a.toNat) f.fld - (fget (s.reg a.toNat) f.fld &&& fget v f.fld))
        ∧ (∀ f ∈ d.fields, f.acc = .ro → fget (t.reg a.toNat) f.fld = fget (s.reg a.toNat) f.fld)
        ∧ s.regsSame t [a.toNat] ∧ t = { s with regs := t.regs }
        ∧ (∀ b : Nat, b ≠ 4 → exec (.regWrite a b v) s = .next s)
        ∧ (∀ b : BitVec 26, b.toNat % 4 ≠ 0 → exec (.regWrite b 4 v) s = .next s))
  ∧
  (∀ (s : State) (n : Fin 4) (v : Word), s.awake →
      (∃ t, exec (.regWrite (BitVec.ofNat 26 (LIN_LAMP_TIME n)) 4 v) s = .next t ∧ tfind t.shadow (LIN_LAMP_TIME n) = some v ∧ s.regsSame t [] ∧ s.memSame t)
      ∧ (∃ t, exec (.regWrite (BitVec.ofNat 26 (LIN_GATE_TIME n)) 4 v) s = .next t ∧ tfind t.shadow (LIN_GATE_TIME n) = some v ∧ s.regsSame t [] ∧ s.memSame t))
  ∧
  (∀ (s : State) (a : BitVec 26) (d : RegD) (i j : Nat) (v : Word), s.awake → findReg a.toNat = some (d, i, j) → a.toNat % 4 = 0 → a.toNat / 0x100000 ≠ 10 →
      d.base ∉ [LIN_PORT_CTL 0, CAL_CTL 0, CAL_TAB_DATA 0, CAL_TAB_COMMIT 0, HIF_SQ_CFG 0, HIF_SQ_TAIL 0, HIF_RING_CFG 0, HIF_RING_HEAD 0, SCH_SB_SEL,
        SCH_SB_CLR, SNP_CTL, PIT_GOV_CFG, PIT_GOV_VLIM, PIT_GOV_FIXED, PIT_PWR_CAP, SYS_PWR_CTL, SYS_THERM, KOL_PORT_CTL 0, ETH_CFG, LIN_BAR_CFG 0] →
      exec (.regWrite a 4 v) s = .next (s.keeps ((s.plainWrite d a.toNat v).afterWrite d.base a.toNat i))
        ∧ (d.clr = false → d.pair = .one → s.plainWrite d a.toNat v = (s.applyWrite d a.toNat v).1))
  ∧
  (∀ (s : State) (a : Nat) (d : RegD) (i j : Nat) (v : Word), findReg a = some (d, i, j) → a / 0x100000 ≠ 10 →
      ∃ (w : Word) (t : State) (ok : Bool), s.applyWrite d a v = (t, ok) ∧ ok = s.inRange d.base w
        ∧ (∀ f ∈ d.fields, fget w f.fld = if f.acc = .rw ∧ f.eff = .idle ∧ s.blockRuns a = true then fget (s.reg a) f.fld else fget v f.fld)
        ∧ t = { s with regs := t.regs, shadow := t.shadow, bootPend := t.bootPend }
        ∧ (∀ b r, d.rej = some b → rejectReg a = some r → (ok = false ∨ d.writes .idle = true ∧ s.blockRuns a = true) →
            t.reg r = s.reg r ||| BitVec.ofNat 32 (2 ^ b) ∧ s.regsSame t [a, r])
        ∧ (ok = false → (∀ r, rejectReg a = some r → s.regsSame t [r]) ∧ (d.rej = none ∨ rejectReg a = none → s.regsSame t []) ∧ t.shadow = s.shadow ∧ t.bootPend = s.bootPend)
        ∧ (ok = true → (d.writes .idle && s.blockRuns a) = false → s.regsSame t [a])
        ∧ (ok = true → ∀ f ∈ d.fields,
            (f.acc = .rw → f.eff = .imm ∨ f.eff = .idle → fget (t.reg a) f.fld = fget w f.fld)
            ∧ (f.acc = .w1c → fget (t.reg a) f.fld = fget (s.reg a) f.fld - (fget (s.reg a) f.fld &&& fget v f.fld))
            ∧ (f.acc = .rw → f.eff ∉ [.imm, .idle] → fget (t.reg a) f.fld = fget (s.reg a) f.fld)
            ∧ (f.acc = .rw → f.eff ∈ [.line, .cmd, .item] → tfind t.shadow a = some w)
            ∧ (f.acc = .rw → f.eff = .boot → tfind t.bootPend a = some w))
        ∧ (ok = true → (∀ k, k ≠ a ∨ ([Eff.line, .cmd, .item].any d.writes) = false → tfind t.shadow k = tfind s.shadow k)
            ∧ ∀ k, k ≠ a ∨ d.writes .boot = false → tfind t.bootPend k = tfind s.bootPend k))
  ∧
  (∀ (s : State) (a : Nat) (d : RegD) (i j : Nat) (v : Word), findReg a = some (d, i, j) → d.clr = false →
      (d.pair = .lo → ∃ t, s.plainWrite d a v = t ∧ t = { s with loWord := t.loWord } ∧ tfind t.loWord a = some v)
      ∧ (d.pair = .hi → d.writes .idle = true → s.blockRuns a = true → ∃ t, s.plainWrite d a v = t ∧ t = { s with regs := t.regs, loWord := t.loWord } ∧ tfind t.loWord (a - 4) = none
          ∧ ∀ b r, d.rej = some b → rejectReg a = some r → t.reg r = s.reg r ||| BitVec.ofNat 32 (2 ^ b) ∧ s.regsSame t [r])
      ∧ (d.pair = .hi → (d.writes .idle && s.blockRuns a) = false → ∃ t, s.plainWrite d a v = t ∧ t = { s with regs := t.regs, loWord := t.loWord } ∧ s.regsSame t [a - 4, a]
          ∧ tfind t.loWord (a - 4) = none ∧ (∀ f ∈ d.fields, f.acc = .rw → fget (t.reg a) f.fld = fget v f.fld)
          ∧ (tfind s.loWord (a - 4) = none → t.reg (a - 4) = s.reg (a - 4))
          ∧ ∀ w e i' j', tfind s.loWord (a - 4) = some w → findReg (a - 4) = some (e, i', j') → ∀ f ∈ e.fields, f.acc = .rw → fget (t.reg (a - 4)) f.fld = fget w f.fld))
  ∧
  (∀ (s : State) (a : Nat) (d : RegD) (i j : Nat) (v : Word), findReg a = some (d, i, j) →
      ((a, v) ∈ s.shadow → (∀ w, (a, w) ∈ s.shadow → w = v) →
        (∀ (e : Eff) (p : Nat → Bool), d.ofEff e ≠ [] →
          (p a = true → (∀ f ∈ d.fields, fget ((s.applyShadow e p).reg a) f.fld = if f.eff = e then fget v f.fld else fget (s.reg a) f.fld) ∧ tfind (s.applyShadow e p).shadow a = none)
          ∧ (p a = false → (s.applyShadow e p).reg a = s.reg a ∧ (a, v) ∈ (s.applyShadow e p).shadow))
        ∧ (∀ n : Fin 4, lineScope n a = true → ∀ f ∈ d.fields, f.eff = .line → fget ((s.startLine n).reg a) f.fld = fget v f.fld)
        ∧ (∀ m : Option Nat, itemScope m a = true → ∀ f ∈ d.fields, f.eff = .item → fget ((s.itemBoundary m).reg a) f.fld = fget v f.fld))
      ∧ (∀ a, (∀ w, (a, w) ∉ s.shadow) → ∀ e p, (s.applyShadow e p).reg a = s.reg a)
      ∧ ((a, v) ∈ s.bootPend → (∀ w, (a, w) ∈ s.bootPend → w = v) → s.sys.released = true → ∀ pins : PinLevels,
        ∃ t, exec (.lockstepMismatch pins) s = .next t ∧ ∀ f ∈ d.fields, f.eff = .boot → fget (t.reg a) f.fld = fget v f.fld))

/-- A read of the low word of a pair latches its high word, and the next read of the high word returns the latched value, whatever the pair holds by then; a read that is not an aligned 32-bit read returns 0 and latches nothing; a write of 0 to a link error counter register clears its counters (R4, R5, R579). -/
def Obligations.LowWordLatch : Prop :=
  ∀ (s : State), s.awake →
    (∀ (a : BitVec 26) (d : RegD) (i j : Nat), findReg a.toNat = some (d, i, j) → a.toNat % 4 = 0 → d.pair = .lo → a.toNat ≠ TIM_NOW_LO → a.toNat ≠ TIM_TAI_LO →
      d.base ≠ CAL_TAB_DATA 0 → d.base ≠ TIM_PORT_POP 0 →
      exec (.lowWordRead a 4) s = .next { s with rdata := s.readReg a.toNat, hiLatch := tput s.hiLatch (a.toNat + 4) (s.readReg (a.toNat + 4)) })
    ∧ (∀ (a : BitVec 26) (d : RegD) (i j : Nat) (w : Word), findReg a.toNat = some (d, i, j) → a.toNat % 4 = 0 → d.pair = .hi → tfind s.hiLatch a.toNat = some w →
      d.base ≠ CAL_TAB_DATA 0 → d.base ≠ TIM_PORT_POP 0 →
      exec (.lowWordRead a 4) s = .next { s with rdata := w, hiLatch := tdel s.hiLatch a.toNat })
    ∧ (∀ (a : BitVec 26) (n : Nat), n ≠ 4 ∨ a.toNat % 4 ≠ 0 → exec (.lowWordRead a n) s = .next { s with rdata := 0 })
    ∧ (∀ n : Fin 4, ∃ t, exec (.counterClear (BitVec.ofNat 26 (LIN_LINK_ERR n)) 0) s = .next t ∧ t.fld (LIN_LINK_ERR n) LIN_LINK_ERR_BAD_LINE_CNT = 0
        ∧ t.fld (LIN_LINK_ERR n) LIN_LINK_ERR_SEQ_SLIP_CNT = 0 ∧ t.fld (LIN_LINK_ERR n) LIN_LINK_ERR_RELOCK_CNT = 0 ∧ t = s.setReg (LIN_LINK_ERR n) (t.reg (LIN_LINK_ERR n)))

/-- Reading TIM_NOW_LO returns the low word of fabric time and latches the other three words of the time at the same instant, whatever was latched before (R464). -/
def Obligations.TimNowLatch : Prop :=
  ∀ s : State, s.awake → ∃ t, exec .timNowRead s = .next t ∧ t = { s with rdata := BitVec.ofNat 32 s.tim.now.toNat, hiLatch := t.hiLatch }
    ∧ tfind t.hiLatch TIM_NOW_HI = some (BitVec.ofNat 32 (s.tim.now.toNat / 2 ^ 32)) ∧ tfind t.hiLatch TIM_TAI_LO = some (s.readReg TIM_TAI_LO)
    ∧ tfind t.hiLatch TIM_TAI_HI = some (s.readReg TIM_TAI_HI)
    ∧ fget (s.readReg TIM_TAI_LO) TIM_TAI_LO_TAI_SEC + 2 ^ 32 * fget (s.readReg TIM_TAI_HI) TIM_TAI_HI_TAI_SEC = s.tim.tai % 2 ^ 48

/-- When a counter register is one that a write of 0 clears, a write of any other value to it has no effect, by whichever command it comes (R579). -/
def Obligations.CounterWriteIgnored : Prop :=
  ∀ (s : State) (a : BitVec 26) (d : RegD) (i j : Nat) (v : Word), s.sys.released = true → findReg a.toNat = some (d, i, j) → d.clr = true → v ≠ 0 →
    exec (.counterClear a v) s = .next s ∧ exec (.regWrite a 4 v) s = .next s

/-- A doorbell moves TAIL forward to at most HEAD plus the size of the queue; one that moves backward, or further from HEAD than the queue holds, is no doorbell: the queue stops with CODE 1 and QUEUE_ERR (R486). Enabling a submission queue sets HEAD and TAIL to 0 and lets it run; enabling a ring sets its HEAD and TAIL to 0 before held records may leave; disabling a queue clears EN alone, and its LOG2_SIZE stays (R13, R486, R488). A write of a ring's HEAD that lies between HEAD and TAIL frees its slots, and held records may leave; another sets HEAD_ERR alone. The ring's timer raises its vector once for unsignalled records; a masked vector becomes pending (R490, R509, R515). -/
def Obligations.QueuesAndRings : Prop :=
  (∀ (s : State) (q : Fin 64) (tail : BitVec 16), s.awake →
      (0 ≤ sdiff 16 tail.toNat (s.fld (HIF_SQ_TAIL q) HIF_SQ_TAIL_TAIL) →
        (tail.toNat + 65536 - s.fld (HIF_SQ_HEAD q) HIF_SQ_HEAD_HEAD) % 65536 ≤ 2 ^ s.fld (HIF_SQ_CFG q) HIF_SQ_CFG_LOG2_SIZE →
        ∃ t, exec (.sqDoorbell q tail) s = .next t ∧ t.fld (HIF_SQ_TAIL q) HIF_SQ_TAIL_TAIL = tail.toNat ∧ s.regsSame t [HIF_SQ_TAIL q]
          ∧ t = { s with regs := t.regs, sqs := t.sqs } ∧ (tget default t.sqs q).stopped = (tget default s.sqs q).stopped
          ∧ ∀ k, k ≠ q.val → tget default t.sqs k = tget default s.sqs k)
      ∧ ((sdiff 16 tail.toNat (s.fld (HIF_SQ_TAIL q) HIF_SQ_TAIL_TAIL) < 0 ∨
          2 ^ s.fld (HIF_SQ_CFG q) HIF_SQ_CFG_LOG2_SIZE < (tail.toNat + 65536 - s.fld (HIF_SQ_HEAD q) HIF_SQ_HEAD_HEAD) % 65536) →
        ∃ t, exec (.sqDoorbell q tail) s = .next t ∧ t.fld (HIF_SQ_ERR q) HIF_SQ_ERR_CODE = 1 ∧ (tget default t.sqs q).stopped = true
          ∧ bit (t.num HIF_IRQ_STAT) 1 = true ∧ t.reg (HIF_SQ_TAIL q) = s.reg (HIF_SQ_TAIL q) ∧ s.memSame t))
  ∧
  (∀ (s : State) (q : Fin 64) (cfg : Word), s.awake →
      (s.on (HIF_SQ_CFG q) HIF_SQ_CFG_EN = false → 4 ≤ fget cfg HIF_SQ_CFG_LOG2_SIZE → fget cfg HIF_SQ_CFG_LOG2_SIZE ≤ 12 →
        ∃ t, exec (.sqEnable q cfg) s = .next t ∧ t.on (HIF_SQ_CFG q) HIF_SQ_CFG_EN = true ∧ t.num (HIF_SQ_HEAD q) = 0 ∧ t.num (HIF_SQ_TAIL q) = 0
          ∧ t.fld (HIF_SQ_CFG q) HIF_SQ_CFG_LOG2_SIZE = fget cfg HIF_SQ_CFG_LOG2_SIZE ∧ (tget default t.sqs q).stopped = false
          ∧ s.regsSame t [HIF_SQ_CFG q, HIF_SQ_HEAD q, HIF_SQ_TAIL q, HIF_SQ_ERR q] ∧ s.memSame t)
      ∧ (s.on (HIF_SQ_CFG q) HIF_SQ_CFG_EN = true → 4 ≤ s.fld (HIF_SQ_CFG q) HIF_SQ_CFG_LOG2_SIZE → s.fld (HIF_SQ_CFG q) HIF_SQ_CFG_LOG2_SIZE ≤ 12 →
        ∃ t, exec (.sqDisable q cfg) s = .next t ∧ t.on (HIF_SQ_CFG q) HIF_SQ_CFG_EN = false
          ∧ t.fld (HIF_SQ_CFG q) HIF_SQ_CFG_LOG2_SIZE = s.fld (HIF_SQ_CFG q) HIF_SQ_CFG_LOG2_SIZE ∧ s.regsSame t [HIF_SQ_CFG q, HIF_WR_REJECT] ∧ s.memSame t)
      ∧ (s.on (HIF_RING_CFG q) HIF_RING_CFG_EN = false → 12 ≤ fget cfg HIF_RING_CFG_LOG2_SLOTS → fget cfg HIF_RING_CFG_LOG2_SLOTS ≤ 20 →
        ∃ u : State, exec (.ringEnable q cfg) s = .next (s.keeps u.drain.tidy) ∧ u.on (HIF_RING_CFG q) HIF_RING_CFG_EN = true
          ∧ u.num (HIF_RING_HEAD q) = 0 ∧ u.num (HIF_RING_TAIL q) = 0 ∧ u.fld (HIF_RING_CFG q) HIF_RING_CFG_LOG2_SLOTS = fget cfg HIF_RING_CFG_LOG2_SLOTS
          ∧ s.regsSame u [HIF_RING_CFG q, HIF_RING_HEAD q, HIF_RING_TAIL q] ∧ s.memSame u))
  ∧
  (∀ (s : State) (r : Fin 64) (v : Word), s.awake →
      (0 ≤ sdiff 32 v.toNat (s.num (HIF_RING_HEAD r)) → sdiff 32 v.toNat (s.num (HIF_RING_TAIL r)) ≤ 0 →
        exec (.ringHeadWrite r v) s = .next (s.keeps (s.setReg (HIF_RING_HEAD r) v).drain.tidy))
      ∧ ((sdiff 32 v.toNat (s.num (HIF_RING_HEAD r)) < 0 ∨ 0 < sdiff 32 v.toNat (s.num (HIF_RING_TAIL r))) →
        exec (.ringHeadWrite r v) s = .next (s.setFld (HIF_RING_CFG r) HIF_RING_CFG_HEAD_ERR 1))
      ∧ ((tget default s.rings r).unsig ≠ 0 → s.fld (HIF_RING_IRQ r) HIF_RING_IRQ_COUNT ≠ 0 →
        (tget default s.rings r).firstTb + s.fld (HIF_RING_IRQ r) HIF_RING_IRQ_TIME_US * 1000 ≤ s.tb →
        ∃ t, exec (.ringIrqTimer r) s = .next t ∧ t = { s with rings := tput s.rings r { tget default s.rings r with unsig := 0 }, msix := t.msix, msixPend := t.msixPend }
          ∧ (s.msixMask.contains (s.fld (HIF_RING_VEC r) HIF_RING_VEC_VEC) = false → t.msix = s.fld (HIF_RING_VEC r) HIF_RING_VEC_VEC :: s.msix ∧ t.msixPend = s.msixPend)
          ∧ (s.msixMask.contains (s.fld (HIF_RING_VEC r) HIF_RING_VEC_VEC) = true → t.msix = s.msix ∧ s.fld (HIF_RING_VEC r) HIF_RING_VEC_VEC ∈ t.msixPend)))

/-- SCH_SB_SEL shows the scoreboard of the named context, SCH_SB_CLR clears the quantities of the selected one but its debt, and neither touches memory (R410, R415, R416). An armed snapshot takes the register trigger: it disarms, is BUSY with its cause and stamp, and every block and every tile not in recovery has latched; one that finds it not armed, with no trigger yet, is lost (R540-R542). Writing ARM arms it. -/
def Obligations.ScoreboardAndSnapshot : Prop :=
  (∀ (s : State) (v : Word), s.awake →
      (∃ t, exec (.sbSelect v) s = .next t ∧ t.fld SCH_SB_SEL SCH_SB_SEL_CTX = fget v SCH_SB_SEL_CTX
        ∧ ((tget default s.ctxs (fget v SCH_SB_SEL_CTX)).state ≠ .undefined →
            t.pair SCH_SB_WAIT_SUM_LO = (tget default s.ctxs (fget v SCH_SB_SEL_CTX)).waitSum % 2 ^ 64
            ∧ t.pair SCH_SB_CMDS_LO = (tget default s.ctxs (fget v SCH_SB_SEL_CTX)).cmds % 2 ^ 64
            ∧ t.num SCH_SB_DEBT = (tget default s.ctxs (fget v SCH_SB_SEL_CTX)).debt % 2 ^ 32)
        ∧ ((tget default s.ctxs (fget v SCH_SB_SEL_CTX)).state = .undefined → t.pair SCH_SB_CMDS_LO = 0 ∧ t.num SCH_SB_DEBT = 0)
        ∧ t = { s with regs := t.regs })
      ∧ (∀ c, tfind s.ctxs (s.fld SCH_SB_SEL SCH_SB_SEL_CTX) = some c →
        ∃ t, exec .sbClear s = .next t ∧ t = { s with ctxs := t.ctxs }
          ∧ tfind t.ctxs (s.fld SCH_SB_SEL SCH_SB_SEL_CTX) = some { c with waitSum := 0, waitMax := 0, cmds := 0, preempts := 0, evicts := 0, faults := 0, tileTime := 0 }
          ∧ ∀ k, k ≠ s.fld SCH_SB_SEL SCH_SB_SEL_CTX → tfind t.ctxs k = tfind s.ctxs k))
  ∧
  (∀ (s : State) (ctl : Word), s.awake → fget ctl SNP_CTL_TIME_EN = 0 →
      (s.on SNP_STAT SNP_STAT_ARMED = true ∨ fget ctl SNP_CTL_ARM = 1 →
        ∃ t, exec (.snapRegTrigger ctl) s = .next t ∧ t.on SNP_STAT SNP_STAT_ARMED = false ∧ t.on SNP_STAT SNP_STAT_BUSY = true
          ∧ t.fld SNP_STAT SNP_STAT_CAUSE = 1 ∧ t.snp.trig = s.now ∧ t.snp.no = (s.snp.no + 1) % 2 ^ 32
          ∧ t.snp.waitTiles = (List.range 272).filter s.recovering ∧ s.memSame t)
      ∧ (s.on SNP_STAT SNP_STAT_ARMED = false → fget ctl SNP_CTL_ARM = 0 → s.snp.lastTrig = none →
        ∃ t, exec (.snapRegTrigger ctl) s = .next t ∧ t.num SNP_LOST = min (s.num SNP_LOST + 1) 0xFFFFFFFF ∧ bit (t.num SNP_IRQ_STAT) 1 = true
          ∧ t.snp = s.snp ∧ s.regsSame t [SNP_CTL, SNP_LOST, SNP_IRQ_STAT] ∧ s.memSame t)
      ∧ (fget ctl SNP_CTL_TRIGGER = 0 → ∃ t, exec (.snapArm ctl) s = .next t ∧ t.on SNP_STAT SNP_STAT_ARMED = true
          ∧ s.regsSame t [SNP_CTL, SNP_STAT] ∧ t = { s with regs := t.regs }))

/-- STANDBY is entered only while no port is enabled, no item is open, no context is resident and there is no catch partner; otherwise the write is rejected. In it DRAM is in self-refresh and the Pitch at V_MIN_MV. Leaving it returns to ACTIVE. TEMP_MAX restarts at TEMP_C (R563, R564, R571). A Koliad port that is enabled trains from the start, and one that is disabled is down and off; ETH_CFG.EN starts the datagram sequence at 0; a read of TIM_PORTp_POP removes the oldest transmit stamp and latches it (R427, R428, R479, R513). -/
def Obligations.StandbyPortsAndStamps : Prop :=
  (∀ s : State, s.awake →
      (s.standbyBusy = false → ∃ t, exec .standbyEnter s = .next t ∧ t.fld SYS_PWR_STAT SYS_PWR_STAT_STATE = 4 ∧ t.fld SYS_PWR_CTL SYS_PWR_CTL_STANDBY = 1
        ∧ t.sys.selfRefresh = true ∧ t.fld PIT_GOV_STAT PIT_GOV_STAT_V_SET_MV = s.fld PIT_GOV_VLIM PIT_GOV_VLIM_V_MIN_MV
        ∧ s.regsSame t [SYS_PWR_CTL, SYS_PWR_STAT, PIT_GOV_STAT]
        ∧ t = { s with regs := t.regs, sys := { s.sys with selfRefresh := true }, gov := { s.gov with vout := t.gov.vout } })
      ∧ (s.standbyBusy = true → exec .standbyEnter s = .next (s.reject SYS_WR_REJECT 0))
      ∧ (∃ t, exec .standbyExit s = .next t ∧ t.fld SYS_PWR_STAT SYS_PWR_STAT_STATE = 3 ∧ t.fld SYS_PWR_CTL SYS_PWR_CTL_STANDBY = 0
        ∧ t.sys.selfRefresh = false ∧ s.regsSame t [SYS_PWR_CTL, SYS_PWR_STAT, PIT_GOV_STAT]
        ∧ t = { s with regs := t.regs, sys := { s.sys with selfRefresh := false }, gov := { s.gov with vout := t.gov.vout }, sqs := s.readsAnew.sqs })
      ∧ exec .thermMaxReset s = .next (s.setFld SYS_THERM SYS_THERM_TEMP_MAX (s.fld SYS_THERM SYS_THERM_TEMP_C)))
  ∧
  (∀ s : State, s.awake →
      (∀ (n : Fin 6) (ctl : Word), s.on (KOL_PORT_CTL n) KOL_PORT_CTL_EN = false →
        ∃ t, exec (.kolPortEnable n ctl) s = .next t ∧ t.on (KOL_PORT_CTL n) KOL_PORT_CTL_EN = true ∧ t.on (KOL_PORT_STAT n) KOL_PORT_STAT_TRAINED = false
          ∧ t.on (KOL_PORT_STAT n) KOL_PORT_STAT_ALIGNED = false ∧ s.regsSame t [KOL_PORT_CTL n, KOL_PORT_STAT n] ∧ t = { s with regs := t.regs, kol := { s.kol with ports := t.kol.ports } }
          ∧ t.kport n = { s.kport n with stream := [] } ∧ ∀ k, k ≠ n.val → t.kport k = s.kport k)
      ∧ (∀ (n : Fin 6) (ctl : Word), ∃ t u : State, exec (.kolPortDisable n ctl) s = .next t ∧ t = s.keeps (u.kolDisable n) ∧ u = { s with regs := u.regs }
        ∧ s.regsSame u [KOL_PORT_CTL n, KOL_WR_REJECT n] ∧ t.on (KOL_PORT_CTL n) KOL_PORT_CTL_EN = false ∧ t.on (KOL_PORT_STAT n) KOL_PORT_STAT_TRAINED = false)
      ∧ (∀ cfg : Word, s.on ETH_CFG ETH_CFG_EN = false → ∃ u : State, exec (.ethEnable cfg) s = .next (s.keeps (u.divertHold.stallCheck).tidy)
        ∧ u.on ETH_CFG ETH_CFG_EN = true ∧ u.eth.seq = 0 ∧ u = { s with regs := u.regs, eth := u.eth } ∧ s.regsSame u [ETH_CFG])
      ∧ (∀ (p : Fin 7) (id : Nat) (x : Stamp) (rest : List (Nat × Stamp)), (s.tport p).txq = (id, x) :: rest →
        ∃ t, exec (.txqPop p) s = .next t ∧ (t.tport p).txq = rest ∧ t.pair (TIM_PORT_STAMP_LO p) = x.toNat
          ∧ fget t.rdata TIM_PORT_POP_VALID = 1 ∧ fget t.rdata TIM_PORT_POP_STAMP_ID = id % 2 ^ 16 ∧ s.memSame t))

/-- A port that is not in STANDBY and passes admission by link and by rate starts with its link down and its line count at 0 where Umpire has granted its retention ring, and is rejected otherwise; one that fails admission by link or by rate is rejected and its reason shows; in STANDBY it is rejected, and an enabled port stays as it is; a disabled port is off and drops its waiting line (R71, R72, R86, R108, R564). -/
def Obligations.PortAdmission : Prop :=
  ∀ (s : State) (n : Fin 4), s.awake →
    (s.linOn n = false → s.standby = false → s.linkMinPs n ≤ s.num (LIN_LINE_MIN n) * 1000 → s.rateSum (n.val :: s.onPorts) ≤ 24 →
      ∃ t, exec (.linPortEnable n) s = .next t ∧ s.memSame t
        ∧ (Config.retGranted n (s.pair (LIN_RET_BASE_LO n) / 4096 * 4096) (s.retSize n) = true → t.linOn n = true
            ∧ t.on (LIN_PORT_CTL n) LIN_PORT_CTL_EN = true ∧ t.on (LIN_PORT_STAT n) LIN_PORT_STAT_LINK_UP = false ∧ t.num (LIN_LINE_CNT n) = 0
            ∧ (t.linPort n).waiting = false ∧ (t.linPort n).pEdge = 0)
        ∧ (Config.retGranted n (s.pair (LIN_RET_BASE_LO n) / 4096 * 4096) (s.retSize n) = false → t.linOn n = false ∧ bit (t.num (LIN_WR_REJECT n)) 0 = true))
    ∧ (s.linOn n = false → s.standby = false → s.num (LIN_LINE_MIN n) * 1000 < s.linkMinPs n →
      ∃ t, exec (.linPortEnable n) s = .next t ∧ t.linOn n = false ∧ t.on (LIN_PORT_STAT n) LIN_PORT_STAT_ADMIT_FAIL_LINK = true
        ∧ bit (t.num (LIN_WR_REJECT n)) 0 = true ∧ s.regsSame t [LIN_PORT_STAT n, LIN_WR_REJECT n])
    ∧ (s.linOn n = false → s.standby = false → 24 < s.rateSum (n.val :: s.onPorts) →
      ∃ t, exec (.linPortEnable n) s = .next t ∧ t.linOn n = false ∧ t.on (LIN_PORT_STAT n) LIN_PORT_STAT_ADMIT_FAIL_RATE = true
        ∧ bit (t.num (LIN_WR_REJECT n)) 0 = true ∧ s.regsSame t [LIN_PORT_STAT n, LIN_WR_REJECT n])
    ∧ (s.linOn n = false → s.standby = true → exec (.linPortEnable n) s = .next (s.reject (LIN_WR_REJECT n) 0))
    ∧ (s.linOn n = true → exec (.linPortEnable n) s = .next s)
    ∧ (∃ t, exec (.linPortDisable n) s = .next t ∧ t.linOn n = false ∧ t.on (LIN_PORT_CTL n) LIN_PORT_CTL_EN = false ∧ (t.linPort n).waiting = false
        ∧ (∀ k, k < 4 → k ≠ n.val → t.linOn k = s.linOn k ∧ t.linPort k = s.linPort k) ∧ s.memSame t)

/-- CAL_CTL: START with ARM set while not BUSY begins a capture, which disarms; while BUSY it sets REF_IGNORED alone, and without ARM it starts and sets nothing; ABORT of a capture under way ends it with ABORTED and CAL_REJECT (R116, R121, R122; log entry 26 for the interrupt). The calibration table: a read returns the WORKING entry that CAL_TAB_ADDR names, corrected where its word needs it, and a write puts it there and leaves every other entry as it reads, and either advances the address; COMMIT makes the swap due and counts the epoch; all while not BUSY for the writes (R131-R133, R526). -/
def Obligations.CalibrationCommands : Prop :=
  (∀ (s : State) (n : Fin 4) (ctl : Word), s.awake →
      (fget ctl CAL_CTL_ARM = 1 → fget ctl CAL_CTL_ABORT = 0 → s.calBusy n = false →
        ∃ t, exec (.calStart n ctl) s = .next t ∧ t.on (CAL_CTL n) CAL_CTL_ARM = false ∧ t.calBusy n = true ∧ (t.calPort n).capNo = (s.calPort n).capNo + 1
          ∧ ((t.calPort n).phase = .skip1 ∨ (t.calPort n).phase = .strip1) ∧ (t.calPort n).count = 0 ∧ s.regsSame t [CAL_CTL n, CAL_STAT n] ∧ s.memSame t)
      ∧ (fget ctl CAL_CTL_ARM = 1 → fget ctl CAL_CTL_ABORT = 0 → s.calBusy n = true →
        ∃ t, exec (.calStart n ctl) s = .next t ∧ t.on (CAL_CTL n) CAL_CTL_ARM = true ∧ bit (t.num (CAL_IRQ_STAT n)) 2 = true ∧ t.cal = s.cal
          ∧ s.regsSame t [CAL_CTL n, CAL_IRQ_STAT n] ∧ s.memSame t)
      ∧ (fget ctl CAL_CTL_ARM = 0 → fget ctl CAL_CTL_ABORT = 0 →
        ∃ t, exec (.calStart n ctl) s = .next t ∧ t.on (CAL_CTL n) CAL_CTL_ARM = false ∧ s.regsSame t [CAL_CTL n] ∧ t = { s with regs := t.regs })
      ∧ (fget ctl CAL_CTL_START = 0 → (s.calPort n).capturing = true →
        ∃ t, exec (.calAbort n ctl) s = .next t ∧ t.fld (CAL_STAT n) CAL_STAT_RESULT = 6 ∧ (t.calPort n).phase = .idle
          ∧ t.calBusy n = (s.calPort n).copying ∧ bit (t.num (CAL_IRQ_STAT n)) 1 = true
          ∧ (t.calPort n).bank0 = (s.calPort n).bank0 ∧ (t.calPort n).bank1 = (s.calPort n).bank1 ∧ s.memSame t))
  ∧
  (∀ (s : State) (n : Fin 4) (v : Word), s.awake → s.tabInside n = true →
      (∃ t, exec (.calTabRead n) s = .next t ∧ t.rdata = tget calIdentity ((s.calPort n).data (s.workBank n)) (s.tabKey n)
        ∧ ((∀ e ∈ (s.calPort n).chk (s.workBank n), e.1 ≠ s.tabKey n / 8) →
            t.rdata = tget calIdentity ((s.calPort n).bank (s.workBank n)) (s.tabKey n) ∧ t.cal = s.cal ∧ s.regsSame t [CAL_TAB_ADDR n] ∧ s.memSame t))
      ∧ (s.calBusy n = false →
        ∃ t, exec (.calTabWrite n v) s = .next t ∧ tget calIdentity ((t.calPort n).data (s.workBank n)) (s.tabKey n) = v
          ∧ (∀ k, k ≠ s.tabKey n → tget calIdentity ((t.calPort n).data (s.workBank n)) k = tget calIdentity ((s.calPort n).data (s.workBank n)) k)
          ∧ (t.calPort n).data (s.activeBank n) = (s.calPort n).data (s.activeBank n) ∧ s.regsSame t [CAL_TAB_ADDR n] ∧ s.memSame t)
      ∧ (s.calBusy n = false →
        ∃ t, exec (.calCommit n) s = .next t ∧ (t.calPort n).swapDue = true
          ∧ t.fld (CAL_EPOCH n) CAL_EPOCH_EPOCH = (s.fld (CAL_EPOCH n) CAL_EPOCH_EPOCH + 1) % 2 ^ (CAL_EPOCH_EPOCH.hi + 1 - CAL_EPOCH_EPOCH.lo)
          ∧ s.regsSame t [CAL_EPOCH n] ∧ s.memSame t))

/-- While BUSY is 1 a write to CAL_TAB_DATA or CAL_TAB_COMMIT has no effect but its bit in CAL_WR_REJECT, and the block of the port counts as running for IDLE fields exactly while BUSY is 1 (R133). -/
def Obligations.CalBusyRejects : Prop :=
  ∀ (s : State) (n : Fin 4) (v : Word), s.awake →
    (s.calBusy n = true → exec (.calTabWrite n v) s = .next (s.reject (CAL_WR_REJECT n) 5) ∧ exec (.calCommit n) s = .next (s.reject (CAL_WR_REJECT n) 6)
      ∧ exec (.regWrite (BitVec.ofNat 26 (CAL_TAB_DATA n)) 4 v) s = .next (s.reject (CAL_WR_REJECT n) 5)
      ∧ exec (.regWrite (BitVec.ofNat 26 (CAL_TAB_COMMIT n)) 4 v) s = .next (s.reject (CAL_WR_REJECT n) 6)
      ∧ bit ((s.reject (CAL_WR_REJECT n) 5).num (CAL_WR_REJECT n)) 5 = true ∧ bit ((s.reject (CAL_WR_REJECT n) 6).num (CAL_WR_REJECT n)) 6 = true)
    ∧ ∀ a, a / 0x10000 = 0x28 + n.val → s.blockRuns a = s.calBusy n

/-- A capture whose strips are complete derives its table: too many defects end it with RESULT 4, too long a run with 5, and neither writes the WORKING bank; otherwise, with no copy under way, the derived entries stand in the WORKING bank, the swap is due and the RESULT is OK (R124-R127). A finished copy leaves in the WORKING bank what the ACTIVE one reads as (R129, R526). Memory stays unless a word of the tables is found uncorrectable. -/
def Obligations.CaptureResult : Prop :=
  ∀ (s : State) (n : Fin 4), s.sys.released = true →
    (let cols := (List.range (s.colours n)).map (s.deriveColour n)
     let defects := (cols.map (fun c => (c.filter (·.2)).length)).foldl max 0
     let long := cols.any (fun c => decide (s.fld (CAL_CFG n) CAL_CFG_MAX_RUN < longestRun (c.map (·.2))))
     (s.calPort n).phase = .computing → (s.calPort n).waitOk = false →
      ∃ t, exec (.calCaptureDone n) s = .next t
        ∧ ((s.calPort n).chk 0 = [] → (s.calPort n).chk 1 = [] → s.memSame t)
        ∧ (s.fld (CAL_DEF_LIMIT n) CAL_DEF_LIMIT_DEFECT_LIMIT < defects → t.fld (CAL_STAT n) CAL_STAT_RESULT = 4 ∧ (t.calPort n).phase = .idle
            ∧ (t.calPort n).bank (s.workBank n) = (s.calPort n).bank (s.workBank n))
        ∧ (defects ≤ s.fld (CAL_DEF_LIMIT n) CAL_DEF_LIMIT_DEFECT_LIMIT → long = true → t.fld (CAL_STAT n) CAL_STAT_RESULT = 5 ∧ (t.calPort n).phase = .idle
            ∧ (t.calPort n).bank (s.workBank n) = (s.calPort n).bank (s.workBank n))
        ∧ (defects ≤ s.fld (CAL_DEF_LIMIT n) CAL_DEF_LIMIT_DEFECT_LIMIT → long = false → (s.calPort n).copying = false →
            t.fld (CAL_STAT n) CAL_STAT_RESULT = 1 ∧ (t.calPort n).phase = .idle ∧ (t.calPort n).swapDue = true
            ∧ ∀ c i e, (cols.getD c [])[i]? = some e → tget calIdentity ((t.calPort n).bank (s.workBank n)) (calKey c i) = e.1))
    ∧ ((s.calPort n).copying = true → (s.calPort n).waitOk = false →
      ∃ t, exec (.calCopyDone n) s = .next t ∧ (t.calPort n).bank (s.workBank n) = (s.calPort n).data (s.activeBank n)
        ∧ (t.calPort n).copying = false ∧ (t.calBusy n = true ↔ (s.calPort n).phase ≠ .idle)
        ∧ ((s.calPort n).chk (s.activeBank n) = [] → s.regsSame t [CAL_STAT n] ∧ s.memSame t))

/-- The lanes of a sensor link: a sync error is noted with its time, and one of the sync header ends the run of valid headers; 64 block times without one lock a lane that seeks lock; 16 errors within 1,024 block times lose the lock, take the link down and count RELOCK, and fewer do nothing; ALIGN on locked lanes with a skew within 4 block times brings the link up and keeps the largest skew (R58, R67-R69). A packet that is whole and fits its line brings its pixels, unpacked two from three bytes, with SNS_AUX and SAT_ANY to the plane it answers; words of it that upsets corrupt in the line buffer are corrected and counted, and one that cannot be corrected makes the packet bad; Norentum's own tap sees the pixels as good, since it taps ahead of the line buffer. A missing packet is repaired, counted and raised, and Norentum's tap sees it as bad (R60-R66, R98, R139, R526, R528; log entries 70 for the plane it answers, 68 for the tap). -/
def Obligations.SensorLinks : Prop :=
  (∀ (s : State) (n : Fin 4) (k : Fin 8) (skew : Nat), s.sys.released = true →
      (s.laneUsed n k = true →
        exec (.syncError n k true) s = .next (s.setLane n k { s.lane n k with clean := s.tb, errors := (s.tb :: (s.lane n k).errors).take 16 })
        ∧ exec (.syncError n k false) s = .next (s.setLane n k { s.lane n k with errors := (s.tb :: (s.lane n k).errors).take 16 }))
      ∧ (s.laneUsed n k = true → (s.lane n k).locked = false → (s.lane n k).clean * 1000 + 64 * s.blockPs n ≤ s.tb * 1000 →
        exec (.laneLock n k) s = .next (s.setLane n k { locked := true, clean := s.tb, errors := [] }))
      ∧ (s.tb * 1000 < (s.lane n k).clean * 1000 + 64 * s.blockPs n → exec (.laneLock n k) s = .next s)
      ∧ (s.laneUsed n k = true → (s.lane n k).locked = true → 16 ≤ (s.recentErrors n (s.lane n k)).length →
        ∃ t, exec (.laneLockLoss n k) s = .next t ∧ (t.lane n k).locked = false ∧ t.on (LIN_PORT_STAT n) LIN_PORT_STAT_LINK_UP = false
          ∧ t.fld (LIN_LINK_ERR n) LIN_LINK_ERR_RELOCK_CNT = min (s.fld (LIN_LINK_ERR n) LIN_LINK_ERR_RELOCK_CNT + 1) (fmax LIN_LINK_ERR_RELOCK_CNT)
          ∧ bit (t.num (LIN_IRQ_STAT n)) 0 = true ∧ s.regsSame t [LIN_PORT_STAT n, LIN_LINK_STAT n, LIN_LINK_ERR n, LIN_IRQ_STAT n] ∧ s.memSame t)
      ∧ ((s.recentErrors n (s.lane n k)).length < 16 → exec (.laneLockLoss n k) s = .next s)
      ∧ (s.linOn n = true → s.allLocked n = true →
        ∃ t, exec (.align n skew) s = .next t ∧ t.fld (LIN_LINK_STAT n) LIN_LINK_STAT_SKEW = min 7 (max (s.fld (LIN_LINK_STAT n) LIN_LINK_STAT_SKEW) skew)
          ∧ (skew ≤ 4 → t.on (LIN_PORT_STAT n) LIN_PORT_STAT_LINK_UP = true)
          ∧ (4 < skew → t.on (LIN_PORT_STAT n) LIN_PORT_STAT_LINK_UP = s.on (LIN_PORT_STAT n) LIN_PORT_STAT_LINK_UP)
          ∧ s.regsSame t [LIN_LINK_STAT n, LIN_PORT_STAT n] ∧ t = { s with regs := t.regs }))
  ∧
  (∀ (s : State) (n : Fin 4) (i k : Nat) (l : LineRec), s.sys.released = true → (s.linPort n).lines[i]? = some l → l.flush = false →
      (∀ (st : List Byte) (blocks : Nat) (u : List (Nat × List Byte)), s.on (LIN_PORT_STAT n) LIN_PORT_STAT_LINK_UP = true →
        (s.linPort n).answers (s.tb - (blocks + 1) * s.blockPs n / 1000) = some (i, k) →
        pktCrcOk l.pix st = true → leAt st 0 2 = 0x5A3C → leAt st 4 2 = l.pix → leAt st 2 1 / 64 = expectColour l.colour k →
        blocks = pktBlocks l.pix l.lanes →
        let raw := (st.drop 32).take (3 * l.pix / 2)
        let b := lineBuffer raw u
        ∃ t, exec (.sensorPacket n st blocks u) s = .next t
          ∧ t.met = s.met.takeTap { port := n, stamp := l.stamp, plane := k, good := true, px := unpack12 raw }
          ∧ (b.2.1 = [] → ∃ x, (t.linPort n).lines[i]? = some { l with planes := tput l.planes k x }
            ∧ x.pixels = unpack12 b.2.2 ∧ x.repaired = false ∧ x.colour = expectColour l.colour k
            ∧ x.aux = (st.drop 16).take 16 ∧ x.sat = bit (leAt st 3 1) 0
            ∧ (t.linPort n).snsNext = some ((leAt st 8 4 + 1) % 2 ^ 32) ∧ s.regsSame t [LIN_LINK_ERR n, RAS_BUF_CORR] ∧ s.memSame t
            ∧ t.fld RAS_BUF_CORR RAS_BUF_CORR_BUF_CORR = min (s.fld RAS_BUF_CORR RAS_BUF_CORR_BUF_CORR + b.1) (fmax RAS_BUF_CORR_BUF_CORR))
          ∧ (u = [] → b = (0, [], raw))
          ∧ (b.2.1 ≠ [] → ∃ (w : State) (slip : Bool), w = { s with regs := w.regs, lin := w.lin } ∧ s.regsSame w [LIN_LINK_ERR n]
            ∧ t = { ((w.readBuffer raw u).1.putPlane n i k l false (unpack12 raw) ((st.drop 16).take 16) false slip).1 with pending := s.pending, met := t.met }))
      ∧ ((s.linPort n).waits.head? = some (i, k) → l.startTb + l.seqNs + 4000 ≤ s.tb →
        ∃ t x, exec (.packetMissing n) s = .next t ∧ (t.linPort n).lines[i]? = some { l with planes := tput l.planes k x }
          ∧ x.repaired = true ∧ x.pixels = (s.linPort n).repair l (expectColour l.colour k)
          ∧ t.met = s.met.takeTap { port := n, stamp := l.stamp, plane := k, good := false, px := [] }
          ∧ t.fld (LIN_LINK_ERR n) LIN_LINK_ERR_BAD_LINE_CNT = min (s.fld (LIN_LINK_ERR n) LIN_LINK_ERR_BAD_LINE_CNT + 1) (fmax LIN_LINK_ERR_BAD_LINE_CNT)
          ∧ bit (t.num (LIN_IRQ_STAT n)) 1 = true ∧ s.regsSame t [LIN_LINK_ERR n, LIN_IRQ_STAT n] ∧ s.memSame t))

/-- The encoders: a transition counts once its levels have stood for FILT_NS, at most 20 ns. One of A and B alone is a counted edge, up in the phase order 00, 10, 11, 01 and down against it, which moves LIN_ENC_POS by one; a transition of both counts ILLEGAL and moves nothing; a Z edge is kept with its position, and one that does not lie LIMIT counts from the last in the same direction counts ZERR; an encoder without an edge for STALL_US stalls the ports that select it (R74-R78). A counted edge moves LIN_ENC_POS by one modulo 2^32, and LIN_ENC_HWM follows it upward only, where no enabled port selects the encoder (R75, R79). -/
def Obligations.EncoderEdges : Prop :=
  (∀ (s : State) (e : Fin 4) (a b : Bool) (stamp : Stamp), s.sys.released = true →
      (let c := tget default s.enc e
       let s' := { s with enc := tput s.enc e { c with a := a, b := b } }
       (a ≠ c.a → b = c.b → s.stood stamp (s.filtNs e) = true → exec (.encEdge e a b stamp) s = .next (s.keeps (s'.countEdge e (a != b) stamp)))
       ∧ (a = c.a → b ≠ c.b → s.stood stamp (s.filtNs e) = true → exec (.encEdge e a b stamp) s = .next (s.keeps (s'.countEdge e (a == b) stamp)))
       ∧ (a ≠ c.a → b ≠ c.b → s.stood stamp (s.filtNs e) = true → ∃ t, exec (.encEdge e a b stamp) s = .next t ∧ t.reg (LIN_ENC_POS e) = s.reg (LIN_ENC_POS e)
          ∧ t.fld (LIN_ENC_ERR e) LIN_ENC_ERR_ILLEGAL_CNT = min (s.fld (LIN_ENC_ERR e) LIN_ENC_ERR_ILLEGAL_CNT + 1) (fmax LIN_ENC_ERR_ILLEGAL_CNT) ∧ s.memSame t)
       ∧ (a = c.a → b = c.b → exec (.encEdge e a b stamp) s = .next s)
       ∧ (s.stood stamp (s.filtNs e) = false → exec (.encEdge e a b stamp) s = .next s)
       ∧ s.filtNs e ≤ 20)
      ∧ (s.on (LIN_ENC_CFG e) LIN_ENC_CFG_Z_EN = true → s.num (LIN_ENC_LIMIT e) ≠ 0 → s.stood stamp (s.filtNs e) = true →
        ∃ t, exec (.encZEdge e stamp) s = .next t ∧ (tget default t.enc e).zPos = some (s.num (LIN_ENC_POS e)) ∧ (tget default t.enc e).zTurned = false
          ∧ t.reg (LIN_ENC_POS e) = s.reg (LIN_ENC_POS e) ∧ s.memSame t
          ∧ (∀ z d, (tget default s.enc e).zPos = some z → (tget default s.enc e).zDir = some d → (tget default s.enc e).lastDir = some d →
              (tget default s.enc e).zTurned = false → (sdiff 32 (s.num (LIN_ENC_POS e)) z).natAbs ≠ s.num (LIN_ENC_LIMIT e) →
              t.fld (LIN_ENC_ERR e) LIN_ENC_ERR_ZERR_CNT = min (s.fld (LIN_ENC_ERR e) LIN_ENC_ERR_ZERR_CNT + 1) (fmax LIN_ENC_ERR_ZERR_CNT)))
      ∧ (s.on (LIN_ENC_CFG e) LIN_ENC_CFG_Z_EN = false → exec (.encZEdge e stamp) s = .next s)
      ∧ ((tget default s.enc e).stalled = false → (tget default s.enc e).lastTb + s.fld (LIN_ENC_CFG e) LIN_ENC_CFG_STALL_US * 1000 ≤ s.tb →
        ∃ t, exec (.encStall e) s = .next t ∧ (tget default t.enc e).stalled = true
          ∧ (∀ n ∈ s.selectors e, t.on (LIN_PORT_STAT n) LIN_PORT_STAT_ENC_STALL = true ∧ bit (t.num (LIN_IRQ_STAT n)) 6 = true) ∧ s.memSame t))
  ∧
  (∀ (s : State) (e : Fin 4) (up : Bool) (stamp : Stamp), s.selectors e = [] →
      let t := s.countEdge e up stamp
      t.num (LIN_ENC_POS e) = (if up then (s.num (LIN_ENC_POS e) + 1) % 2 ^ 32 else (s.num (LIN_ENC_POS e) + 2 ^ 32 - 1) % 2 ^ 32)
        ∧ (t.num (LIN_ENC_HWM e) = s.num (LIN_ENC_HWM e)
            ∨ t.num (LIN_ENC_HWM e) = t.num (LIN_ENC_POS e) ∧ 0 < sdiff 32 (t.num (LIN_ENC_POS e)) (s.num (LIN_ENC_HWM e)))
        ∧ (tget default t.enc e).lastDir = some up ∧ (∀ k, k ≠ e.val → tget default t.enc k = tget default s.enc k)
        ∧ s.regsSame t [LIN_ENC_POS e, LIN_ENC_HWM e, LIN_ENC_ERR e])

/-- Lines: a waiting request starts when the port ceases to be busy, an interpolated crossing makes lines due, 10 ms without a line expose a flush line with every lamp off, and a started line joins the lines under way with the stamp of now (R82, R85, R87, R89, R96). -/
def Obligations.LinesStart : Prop :=
  ∀ (s : State) (n : Fin 4), s.sys.released = true → s.linOn n = true →
    (∀ p, s.interpPhase n = some p → exec (.lineInterpDue n) s = .next (s.keeps (s.advanceTo n p)))
    ∧ ((s.linPort n).waiting = true → (s.linPort n).busyUntil ≤ s.tb →
      ∃ t l, exec (.lineStart n) s = .next t ∧ (t.linPort n).lines = (s.linPort n).lines ++ [l] ∧ l.stamp = s.now ∧ l.startTb = s.tb ∧ l.flush = false
        ∧ l.planes = [] ∧ (t.linPort n).waiting = false ∧ s.memSame t)
    ∧ ((s.linPort n).lastFlush + 10000000 ≤ s.tb → (s.linPort n).busyUntil ≤ s.tb →
      ∃ t l, exec (.flushExposure n) s = .next t ∧ (t.linPort n).lines = (s.linPort n).lines ++ [l] ∧ l.flush = true ∧ (t.linPort n).gap = true
        ∧ (∃ x, (t.linPort n).expo = some x ∧ ∀ y ∈ x.lamps, y = 0) ∧ t = { s with lin := t.lin })

/-- Lamps and barriers: SNSn_LOK low for more than 50 ns of an exposure is counted and raised, SNSn_LOK high more than 1 µs after the last lamp went off shows LAMP_STUCK; a barrier edge whose level has stood for BAR_FILT_US sets BLOCKED by its level and polarity and acts as an opening or a trailing edge; one blocked longer than JAM_MS shows JAM_SEEN (R91, R92, R94, R95). -/
def Obligations.LampsAndBarriers : Prop :=
  ∀ (s : State), s.sys.released = true →
    (∀ (n : Fin 4) (x : Expo), (s.linPort n).expo = some x → s.on (LIN_LAMP_DEAD n) LIN_LAMP_DEAD_LOK_EN = true →
      (x.at s.tb).1 < x.lamps.length → x.lead + 50 < (x.at s.tb).2 → (x.at s.tb).2 ≤ x.lead + x.exp →
      ∃ t, exec (.lampFault n) s = .next t ∧ bit (t.num (LIN_IRQ_STAT n)) 8 = true ∧ s.regsSame t [LIN_LAMP_STAT n, LIN_IRQ_STAT n] ∧ s.memSame t
        ∧ t.fld (LIN_LAMP_STAT n) LIN_LAMP_STAT_LAMP_FAULT_CNT = min (s.fld (LIN_LAMP_STAT n) LIN_LAMP_STAT_LAMP_FAULT_CNT + 1) (fmax LIN_LAMP_STAT_LAMP_FAULT_CNT))
    ∧ (∀ n : Fin 4, s.on (LIN_LAMP_DEAD n) LIN_LAMP_DEAD_LOK_EN = true → s.lampPins n = 0 → s.lampsOff n + 1000 < s.tb →
      exec (.lampStuck n) s = .next (s.setFld (LIN_LAMP_STAT n) LIN_LAMP_STAT_LAMP_STUCK 1))
    ∧ (∀ (k : Fin 8) (level : Bool) (stamp : Stamp), ¬((tget default s.bar k).known = true ∧ (tget default s.bar k).level = level) →
        s.stood stamp (s.fld (LIN_BAR_CFG k) LIN_BAR_CFG_BAR_FILT_US * 1000) = true →
      ∃ u : State, u = ({ s with bar := tput s.bar k { known := true, level := level, since := s.tbAt stamp, jammed := (tget default s.bar k).jammed && s.blockedLevel k level } }).setBlocked k (s.blockedLevel k level)
        ∧ bit (u.fld LIN_BAR_STAT LIN_BAR_STAT_BLOCKED) k = s.blockedLevel k level
        ∧ (s.blockedLevel k level = true → exec (.barrierEdge k level stamp) s = .next (s.keeps (u.blockEdge k stamp)))
        ∧ (s.blockedLevel k level = false → exec (.barrierEdge k level stamp) s = .next (s.keeps
            (((List.range 4).filter (fun n => u.fld (LIN_GATE_CFG n) LIN_GATE_CFG_BAR_SEL = k.val)).foldl (fun s n => s.trailingEdge n stamp) u))))
    ∧ (∀ (k : Fin 8) (level : Bool) (stamp : Stamp), s.stood stamp (s.fld (LIN_BAR_CFG k) LIN_BAR_CFG_BAR_FILT_US * 1000) = false →
      exec (.barrierEdge k level stamp) s = .next s)
    ∧ (∀ k : Fin 8, (tget default s.bar k).known = true → s.blockedLevel k (tget default s.bar k).level = true → s.fld (LIN_BAR_CFG k) LIN_BAR_CFG_JAM_MS ≠ 0 →
      (tget default s.bar k).since + s.fld (LIN_BAR_CFG k) LIN_BAR_CFG_JAM_MS * 1000000 < s.tb →
      ∃ t, exec (.barrierJam k) s = .next t ∧ (tget default t.bar k).jammed = true ∧ bit (t.fld LIN_BAR_STAT LIN_BAR_STAT_JAM_SEEN) k = true
        ∧ s.regsSame t [LIN_BAR_STAT] ∧ t = { s with regs := t.regs, bar := t.bar })

/-- A line with all its packets leaves the lines under way and passes the capture; an emission point that its PIECE has reached comes first; in an OPEN SIDE it is calibrated, retained and streamed, in a SIDE that is no longer OPEN and outside every SIDE nothing is kept of it; there an image leading edge that detection sees is an opening event where OPEN_SRC asks for one. An unfinished line completes nothing. A SIDE whose trailing edge has passed and whose lines are done seals, with the text areas found last, and its piece is looked at for completion; one whose barrier edge has not passed stays OPEN; there too an emission point that has been reached comes first (R19, R31, R36, R51, R98, R119; log entry 27 for OPEN_SRC as last written). The emission point acts once it is reached and not before; LATE_NS after it the LATE record goes out with what is unfinished aborted (R31, R32, R41, R45). -/
def Obligations.LinesAndEmission : Prop :=
  (∀ (s : State) (n : Fin 4) (l : LineRec) (rest : List LineRec) (leading : Bool) (found : List Found), s.sys.released = true → (s.linPort n).lines = l :: rest →
      (l.full = true → l.flush = false →
        (∀ x, l.side = some x →
          let u := (s.modLin n (fun p => { p with lines := rest })).capLine n l
          let v := (tfind u.sides x).elim u (fun d => u.duePoint d.piece)
          ((v.item x).state = .opened → exec (.lineComplete n leading found) s = .next (s.keeps (v.sideLine n x l found)))
          ∧ ((v.item x).state ≠ .opened → exec (.lineComplete n leading found) s = .next (s.keeps v)))
        ∧ (l.side = none → (leading = true ∧ (s.asWritten (LIN_GATE_CFG n) LIN_GATE_CFG_OPEN_SRC = 1 ∨ s.asWritten (LIN_GATE_CFG n) LIN_GATE_CFG_OPEN_SRC = 2) →
          exec (.lineComplete n leading found) s = .next (s.keeps (((s.modLin n (fun p => { p with lines := rest })).capLine n l).openEvent n 2 l.stamp none).2)))
        ∧ (l.side = none → (leading = false ∨ s.asWritten (LIN_GATE_CFG n) LIN_GATE_CFG_OPEN_SRC ≠ 1 ∧ s.asWritten (LIN_GATE_CFG n) LIN_GATE_CFG_OPEN_SRC ≠ 2) →
          exec (.lineComplete n leading found) s = .next (s.keeps ((s.modLin n (fun p => { p with lines := rest })).capLine n l))))
      ∧ (l.full = false ∨ l.flush = true → exec (.lineComplete n leading found) s = .next s)
      ∧ (∀ (x : Nat) (d : Side), tfind s.sides x = some d →
        let u := s.duePoint d.piece
        ((u.item x).state = .opened → d.trail.isSome = true → (u.linPort d.port).lines.any (fun l => l.side == some x) = false →
          exec (.sideSeal x found) s = .next (s.keeps
            ((((found.foldl (fun s f => s.openRegion x d.port d.piece f) (u.sealSide x)).sealReady x none).pieceCheck d.piece).tidy)))
        ∧ ((u.item x).state ≠ .opened ∨ (d.barrier = true ∧ d.trail = none) ∨ (u.linPort d.port).lines.any (fun l => l.side == some x) = true →
          exec (.sideSeal x found) s = .next (s.keeps u))))
  ∧
  (∀ (s : State) (i : Nat) (p : Piece), s.sys.released = true → tfind s.pieces i = some p →
      (p.recorded = false → ((s.item i).state = .opened ∨ (s.item i).state = .sealed) → s.pointReached p = true →
        exec (.emissionPoint i) s = .next (s.keeps (s.emitAtPoint i)))
      ∧ (s.pointReached p = false → exec (.emissionPoint i) s = .next s)
      ∧ (∀ d, p.lateDue = some d → (s.item i).state = .overtime → p.lateEn = true → p.lateDone = false → s.reached d = true →
        exec (.lateLimitExpiry i) s = .next (s.keeps (({ (s.abortBelow i .aborted).sealSides i with images := tupd ((s.abortBelow i .aborted).sealSides i).images i (fun m => { m with decoded := true }) }).pieceCheck i)))
      ∧ (∀ d, p.lateDue = some d → s.reached d = false → exec (.lateLimitExpiry i) s = .next s))

/-- A running queue with a packet whose executor is up fetches it: HEAD moves on by one, and the packet waits to start under a key that tells it from those of an earlier enabling of the queue, or is answered at once where the opcode, the permission, the ring or the fields refuse it (R485, R493, R495). A status reply lands on the packet's ring: its 32 bytes, with PHASE, at TAIL, which moves on by one; the packet leaves the fetched ones; no other byte of any memory changes (R488, R489, R490, R496). -/
def Obligations.PacketsAndReplies : Prop :=
  (∀ (s : State) (q : Fin 64), s.sys.released = true → s.on (HIF_SQ_CFG q) HIF_SQ_CFG_EN = true → (tget default s.sqs q).stopped = false →
      s.fld (HIF_SQ_HEAD q) HIF_SQ_HEAD_HEAD ≠ s.fld (HIF_SQ_TAIL q) HIF_SQ_TAIL_TAIL → s.coachHeld (s.headPacket q) = false →
      let pos := s.fld (HIF_SQ_HEAD q) HIF_SQ_HEAD_HEAD
      let b := s.headPacket q
      let u : State := { s.setFld (HIF_SQ_HEAD q) HIF_SQ_HEAD_HEAD (pos + 1) with sqs := tput s.sqs q { tget default s.sqs q with readTb := s.tb } }
      u.fld (HIF_SQ_HEAD q) HIF_SQ_HEAD_HEAD = (pos + 1) % 2 ^ 16
        ∧ (u.packetRefusal q b = none →
            exec (.packetFetch q) s = .next { u with fetched := s.fetched ++ [{ sq := q, pos := pos + 65536 * (tget default s.sqs q).enabled, bytes := b, running := false, openedItem := 0 }] })
        ∧ (∀ st, u.packetRefusal q b = some st → exec (.packetFetch q) s = .next (s.keeps (u.reply q pos b st 0 0))))
  ∧
  (∀ (s : State) (q pos item result : Nat) (st : Status) (f : Fetched),
      s.fetched.find? (fun f => f.sq == q && f.pos == pos) = some f →
      let r := leAt f.bytes 2 1 % 64
      (bit (leAt f.bytes 1 1) 6 = false ∨ st ≠ .ok) → s.heldBack f item = false → s.ringOk q r = true → s.hold.any (fun h => h.ring == r) = false →
      (s.num (HIF_RING_TAIL r) + 2 ^ 32 - s.num (HIF_RING_HEAD r)) % 2 ^ 32 + 1 ≤ s.ringSize r →
      let t := s.complete q pos st item result
      let a := s.ringBase r + s.num (HIF_RING_TAIL r) % s.ringSize r * 32
      t.num (HIF_RING_TAIL r) = (s.num (HIF_RING_TAIL r) + 1) % 2 ^ 32
        ∧ t.hread a 32 = withPhase (ringPhase (s.ringSize r) (s.num (HIF_RING_TAIL r)))
            (leBytes 1 1 ++ leBytes 1 (leAt f.bytes 0 1) ++ leBytes 1 st.code ++ leBytes 1 0 ++ leBytes 4 (leAt f.bytes 4 4) ++ leBytes 4 item
              ++ leBytes 1 q ++ zeros 1 ++ leBytes 2 pos ++ leBytes 8 s.now.toNat ++ leBytes 8 result)
        ∧ (∀ x, x < a ∨ a + 32 ≤ x → tget 0 t.host x = tget 0 s.host x) ∧ t.dram = s.dram ∧ t.tile = s.tile
        ∧ t.fetched = s.fetched.filter (fun g => !(g.sq == q && g.pos == pos))
        ∧ s.regsSame t [HIF_RING_TAIL r])

/-- The diagnostic and query commands answer OK with what they read: ECHO its COMMAND_ID twice, TIME_QUERY the time of TAI with TIM_STAT, ITEM_QUERY the 32 bytes of the entry, BIST_REPORT and the MET_ reads their bytes in host memory; an item that does not exist is answered STALE_ITEM, a record that is not in the window MET_UNAVAILABLE (R28, R481, R497, R499). The snapshot commands: an armed SNAP_TRIGGER acts and its RESULT is the trigger stamp, one that finds no armed snapshot is lost and its RESULT is 0; SNAP_READ copies at most MAX_BYTES of a valid snapshot, and nothing without one (R541, R544, R497). -/
def Obligations.QueriesAndSnapshots : Prop :=
  (∀ (s : State) (q : Fin 64) (pos : BitVec 16) (b : List Byte),
      (s.starts q pos 0xC0 b → exec (.echo q pos) s = .next (s.keeps (s.complete q (s.cmdKey q pos) .ok 0 (leAt b 4 4 + 2 ^ 32 * leAt b 4 4))))
      ∧ (s.starts q pos 0xA2 b → exec (.timeQuery q pos) s = .next (s.keeps (s.complete q (s.cmdKey q pos) .ok 0
          (s.tim.tai % 2 ^ 48 + (s.readReg TIM_STAT).toNat % 65536 * 2 ^ 48))))
      ∧ (s.starts q pos 0x04 b → ∀ i, s.liveItem (leAt b 8 4) = some i → exec (.itemQuery q pos) s = .next (s.keeps
          ((s.hwrite (leAt b 16 8) (s.entryBytes i)).complete q (s.cmdKey q pos) .ok (leAt b 8 4) 0)))
      ∧ (s.starts q pos 0x04 b → s.liveItem (leAt b 8 4) = none → exec (.itemQuery q pos) s = .next (s.keeps (s.complete q (s.cmdKey q pos) .staleItem (leAt b 8 4) 0)))
      ∧ (s.starts q pos 0xC3 b → exec (.bistReport q pos) s = .next (s.keeps ((s.hwrite (leAt b 16 8) s.bistReport).complete q (s.cmdKey q pos) .ok 0 0)))
      ∧ (s.starts q pos 0xE0 b → leAt b 16 4 ≠ 0 → leAt (s.metBytes (0x10000 + leAt b 16 4 % 4096 * 64) 64) 0 4 = leAt b 16 4 →
          exec (.metRecordRead q pos) s = .next (s.keeps ((s.hwrite (leAt b 24 8) (s.metBytes (0x10000 + leAt b 16 4 % 4096 * 64) 64)).complete q (s.cmdKey q pos) .ok 0 0)))
      ∧ (s.starts q pos 0xE0 b → leAt b 16 4 = 0 ∨ leAt (s.metBytes (0x10000 + leAt b 16 4 % 4096 * 64) 64) 0 4 ≠ leAt b 16 4 →
          exec (.metRecordRead q pos) s = .next (s.keeps (s.complete q (s.cmdKey q pos) .metUnavailable 0 0)))
      ∧ (s.starts q pos 0xE1 b → s.met.on = true → exec (.metLogRead q pos) s = .next (s.keeps
          ((s.hwrite (leAt b 24 8) (s.metBytes (0x8000 + (leAt b 16 2 - 1) * 32) (min (leAt b 18 2) (s.met.log.length + 1 - leAt b 16 2) * 32))).complete
            q (s.cmdKey q pos) .ok 0 (min (leAt b 18 2) (s.met.log.length + 1 - leAt b 16 2)))))
      ∧ (s.starts q pos 0xE2 b → s.met.on = true → exec (.metIdRead q pos) s = .next (s.keeps ((s.hwrite (leAt b 24 8) s.met.idBlock).complete q (s.cmdKey q pos) .ok 0 0))))
  ∧
  (∀ (s : State) (q : Fin 64) (pos : BitVec 16) (b : List Byte),
      (s.starts q pos 0xC1 b → s.on SNP_STAT SNP_STAT_ARMED = true →
        exec (.snapTrigger q pos) s = .next (s.keeps ((s.snapAct s.now 4 0).complete q (s.cmdKey q pos) .ok 0 s.now.toNat)))
      ∧ (s.starts q pos 0xC1 b → s.on SNP_STAT SNP_STAT_ARMED = false → s.snp.lastTrig = none →
        exec (.snapTrigger q pos) s = .next (s.keeps (((s.incReg SNP_LOST).raise SNP_IRQ_STAT 1).complete q (s.cmdKey q pos) .ok 0 0)))
      ∧ (s.starts q pos 0xC2 b → s.on SNP_STAT SNP_STAT_VALID = true →
        let n := min (leAt b 24 4) (leNat (s.dread (s.pair SNP_BASE_LO / 4096 * 4096) 4))
        exec (.snapRead q pos) s = .next (s.keeps (((s.didRead (s.pair SNP_BASE_LO / 4096 * 4096) n).1.hwrite (leAt b 16 8) (s.dread (s.pair SNP_BASE_LO / 4096 * 4096) n)).complete q (s.cmdKey q pos) .ok 0 n)))
      ∧ (s.starts q pos 0xC2 b → s.on SNP_STAT SNP_STAT_VALID = false → exec (.snapRead q pos) s = .next (s.keeps (s.complete q (s.cmdKey q pos) .ok 0 0))))

/-- The item commands: ITEM_OPEN is an opening event of the host on its port, refused on a slave whose OPEN_SRC is another; IMAGE_SUBMIT of a loaded playbook that finds an entry opens its HOSTIMAGE; ITEM_ABORT ends the item and replies; RET_READ copies whole records of a SIDE's retained lines, exactly as retained where no word of DRAM is in error; TOKENIZE writes the token IDs, and counts and notes the repairs of its text. A command on an item that does not exist is answered STALE_ITEM, one that names a playbook or a table set that is not loaded NOT_FOUND (R25, R37, R48, R333, R335, R497, R498, R500, R501, R585). A BE HOSTIMAGE that finds no entry beyond the reserve waits, in order, and its command with it; an LC HOSTIMAGE that finds none is answered OK with ID 0, and its ITEM_EXHAUSTED record goes out (R26, R27; log entry 28 for the reply and the record). -/
def Obligations.ItemsAndImages : Prop :=
  (∀ (s : State) (q : Fin 64) (pos : BitVec 16) (b : List Byte),
      (s.starts q pos 0x01 b → (s.asWritten (LIN_GATE_CFG (leAt b 16 1 % 4)) LIN_GATE_CFG_OPEN_SRC = 3 ∨ s.isSlave (leAt b 16 1 % 4) = false) →
        exec (.itemOpen q pos) s = .next (s.keeps ((s.setRunning q (s.cmdKey q pos)).openEvent (leAt b 16 1 % 4) 3 s.now (some (q.val, s.cmdKey q pos))).2))
      ∧ (s.starts q pos 0x01 b → s.asWritten (LIN_GATE_CFG (leAt b 16 1 % 4)) LIN_GATE_CFG_OPEN_SRC ≠ 3 → s.isSlave (leAt b 16 1 % 4) = true →
        exec (.itemOpen q pos) s = .next (s.keeps (s.complete q (s.cmdKey q pos) .invalidField 0 0)))
      ∧ (s.starts q pos 0x02 b → s.imageOf q pos = none → (tfind s.playbooks (leAt b 44 4)).isSome = true →
        let cls : Cls := if bit (leAt b 17 1) 0 then .be else .lc
        let u := s.placeImage q (s.cmdKey q pos) cls b
        s.canOpen cls = true →
        exec (.imageSubmit q pos) s = .next (s.keeps ((u.imageOf q pos).elim u (fun m => u.fetchImage m.1 m.2))))
      ∧ (s.starts q pos 0x02 b → s.imageOf q pos = none → tfind s.playbooks (leAt b 44 4) = none →
        exec (.imageSubmit q pos) s = .next (s.keeps (s.complete q (s.cmdKey q pos) .notFound 0 0)))
      ∧ (s.starts q pos 0x03 b → ∀ i, s.liveItem (leAt b 8 4) = some i →
        exec (.itemAbort q pos) s = .next (s.keeps ((s.abortItem i).complete q (s.cmdKey q pos) .ok (leAt b 8 4) 0).tidy))
      ∧ (s.starts q pos 0x03 b → s.liveItem (leAt b 8 4) = none → exec (.itemAbort q pos) s = .next (s.keeps (s.complete q (s.cmdKey q pos) .staleItem (leAt b 8 4) 0)))
      ∧ (s.starts q pos 0x20 b → s.liveItem (leAt b 8 4) = none → exec (.retRead q pos) s = .next (s.keeps (s.complete q (s.cmdKey q pos) .staleItem (leAt b 8 4) 0)))
      ∧ (s.starts q pos 0x20 b → ∀ i, s.liveItem (leAt b 8 4) = some i → tfind s.sides i = none →
        exec (.retRead q pos) s = .next (s.keeps (s.complete q (s.cmdKey q pos) .invalidField (leAt b 8 4) 0)))
      ∧ (s.starts q pos 0x20 b → ∀ i d, s.liveItem (leAt b 8 4) = some i → tfind s.sides i = some d →
        let r := s.readLines d.port (copyLines (s.heldLine d.port (s.itemId i)) (min (leAt b 20 4) ((s.linPort d.port).retLines.length)) (leAt b 16 4) (leAt b 32 4))
        let ls := wholeWithin (leAt b 32 4) (r.2.map (·.bytes))
        exec (.retRead q pos) s = .next (s.keeps ((r.1.hwrite (leAt b 24 8) ls.flatten).complete q (s.cmdKey q pos) .ok (leAt b 8 4) (ls.flatten.length + 2 ^ 32 * ls.length)))
          ∧ ls.flatten.length ≤ leAt b 32 4
          ∧ (s.ras.chk = [] → ls = (copyLines (s.heldLine d.port (s.itemId i)) (min (leAt b 20 4) ((s.linPort d.port).retLines.length)) (leAt b 16 4) (leAt b 32 4)).map (·.bytes)))
      ∧ (s.starts q pos 0x05 b → ∀ ts, s.tsetAt (leAt b 28 1) = some ts →
        let r := tokenize ts (s.hread (leAt b 16 8) (leAt b 24 4))
        let u : State := { s with textNo := s.textNo + 1, repairedTexts := if 0 < r.2 then s.repairedTexts ++ [s.textNo] else s.repairedTexts }
        let v := if 0 < r.2 then (u.incReg TOK_REPAIR_CNT r.2).raise TOK_IRQ_STAT 2 else u
        exec (.tokenize q pos) s = .next (s.keeps ((v.hwrite (leAt b 32 8) ((r.1.take (leAt b 40 4)).flatMap (leBytes 2))).complete q (s.cmdKey q pos) .ok 0
          (r.1.take (leAt b 40 4)).length (decide (0 < r.2)))))
      ∧ (s.starts q pos 0x05 b → s.tsetAt (leAt b 28 1) = none → exec (.tokenize q pos) s = .next (s.keeps (s.complete q (s.cmdKey q pos) .notFound 0 0))))
  ∧
  (∀ (s : State) (q : Fin 64) (pos : BitVec 16) (b : List Byte), s.starts q pos 0x02 b → s.imageOf q pos = none → (tfind s.playbooks (leAt b 44 4)).isSome = true →
      (bit (leAt b 17 1) 0 = true → s.canOpen .be = false →
        ∃ t w, exec (.imageSubmit q pos) s = .next t ∧ t.beWait = s.beWait ++ [w] ∧ w.typ = .image ∧ w.sq = some (q.val, s.cmdKey q pos) ∧ t.items = s.items ∧ s.memSame t)
      ∧ (bit (leAt b 17 1) 0 = false → s.canOpen .lc = false →
        exec (.imageSubmit q pos) s = .next (s.keeps ((s.complete q (s.cmdKey q pos) .ok 0 0).exhausted (imagePiece b s.now) (s.sqPart q) (leAt b 24 4) .lc))))

/-- PLAYBOOK_LOAD rejects what Umpire rejects and loads the rest under the next number with its pinned models; PLAYBOOK_UNLOAD removes a playbook that nothing uses, and is answered BUSY for one in use; MODEL_PIN marks a model; PORT_BIND binds a port from its next item on; what is not loaded is answered NOT_FOUND (R401, R497, R501; log entry 65 for the numbers). -/
def Obligations.PlaybookCommands : Prop :=
  ∀ (s : State) (q : Fin 64) (pos : BitVec 16) (b : List Byte),
    (s.starts q pos 0x40 b → ∃ t, exec (.playbookLoad q pos) s = .next t
      ∧ (Config.playbookOf (s.hread (leAt b 16 8) (leAt b 24 4)) = none ∨ Config.playbookSigned (s.hread (leAt b 16 8) (leAt b 24 4)) = false → t = s.keeps (s.complete q (s.cmdKey q pos) .playbookRejected 0 0))
      ∧ (∀ p, Config.playbookOf (s.hread (leAt b 16 8) (leAt b 24 4)) = some p → s.playbookOk (s.sqPart q) p = false → t = s.keeps (s.complete q (s.cmdKey q pos) .playbookRejected 0 0))
      ∧ (∀ p u, Config.playbookOf (s.hread (leAt b 16 8) (leAt b 24 4)) = some p → Config.playbookSigned (s.hread (leAt b 16 8) (leAt b 24 4)) = true →
          s.playbookOk (s.sqPart q) p = true →
          (({ s with nextPb := (s.nextPb + 1) % 2 ^ 32, playbooks := tput s.playbooks ((s.nextPb + 1) % 2 ^ 32) { pb := p, tsets := p.tsets.map TSetImage.read, bytes := (s.hread (leAt b 16 8) (leAt b 24 4)).length, part := s.sqPart q, corrupt := false } } : State).dwrite
            (Config.playbookPlace ((s.nextPb + 1) % 2 ^ 32)) (s.hread (leAt b 16 8) (leAt b 24 4))).loadPinned
            (s.sqPart q) ((s.nextPb + 1) % 2 ^ 32) p.pinned = (u, true) →
          t = s.keeps (u.freshTsets.complete q (s.cmdKey q pos) .ok 0 ((s.nextPb + 1) % 2 ^ 32))))
    ∧ (s.starts q pos 0x41 b → (tfind s.playbooks (leAt b 16 4)).isSome = true → s.playbookUsed (leAt b 16 4) = false →
      ∃ u : State, exec (.playbookUnload q pos) s = .next (s.keeps (u.complete q (s.cmdKey q pos) .ok 0 0)) ∧ tfind u.playbooks (leAt b 16 4) = none)
    ∧ (s.starts q pos 0x41 b → (tfind s.playbooks (leAt b 16 4)).isSome = true → s.playbookUsed (leAt b 16 4) = true →
      exec (.playbookUnload q pos) s = .next (s.keeps (s.complete q (s.cmdKey q pos) .busy 0 0)))
    ∧ (s.starts q pos 0x41 b → tfind s.playbooks (leAt b 16 4) = none → exec (.playbookUnload q pos) s = .next (s.keeps (s.complete q (s.cmdKey q pos) .notFound 0 0)))
    ∧ (s.starts q pos 0x42 b → tfind s.playbooks (leAt b 16 4) = none → exec (.modelPin q pos) s = .next (s.keeps (s.complete q (s.cmdKey q pos) .notFound 0 0)))
    ∧ (s.starts q pos 0x43 b → s.hasFn (leAt b 20 4) (leAt b 24 2) = false → exec (.portBind q pos) s = .next (s.keeps (s.complete q (s.cmdKey q pos) .notFound 0 0)))
    ∧ (s.starts q pos 0x42 b → ∀ m, (tfind s.playbooks (leAt b 16 4)).bind (fun l => l.pb.models[leAt b 20 2]?) = some m →
      ∃ u : State, exec (.modelPin q pos) s = .next (s.keeps (u.complete q (s.cmdKey q pos) .ok 0 0))
        ∧ (tfind u.playbooks (leAt b 16 4)).bind (fun l => l.pb.models[leAt b 20 2]?) = some { m with pinned := bit (leAt b 22 1) 0 })
    ∧ (s.starts q pos 0x43 b → s.hasFn (leAt b 20 4) (leAt b 24 2) = true →
      ∃ u : State, exec (.portBind q pos) s = .next (s.keeps (u.complete q (s.cmdKey q pos) .ok 0 0)) ∧ u = { s with lin := u.lin }
        ∧ u.linPort (leAt b 16 1 % 4) = { s.linPort (leAt b 16 1 % 4) with nextPb := leAt b 20 4, nextFn := leAt b 24 2, nextBound := true })

/-- PART_CONFIG of a partition without resident contexts and without a conflict puts its descriptor; CTX_DEFINE defines an undefined context of a loaded function; CTX_RESTART makes a FAULTED one IDLE; CTX_DELETE removes an IDLE or FAULTED one; TABLE_SELECT of a partition without a table makes it active at once, and of another at its next major frame; PART_BUSY, PART_CONFLICT, CTX_BUSY and NOT_FOUND answer what cannot be (R384, R385, R389, R390, R393, R408, R413). -/
def Obligations.SchedulingCommands : Prop :=
  ∀ (s : State) (q : Fin 64) (pos : BitVec 16) (b : List Byte),
    (s.starts q pos 0x60 b → let d := s.hread (leAt b 16 8) 64
      descriptorOk d = true → s.residents (leAt d 0 1) = 0 →
      ((partOf64 d).valid = true → s.conflict (partOf64 d :: (s.parts.filter (fun y => y.1 != leAt d 0 1 && y.2.valid)).map (·.2)) = false) →
      ∃ x : PartSt, exec (.partConfig q pos) s = .next (s.keeps ((s.putPart (leAt d 0 1) x).complete q (s.cmdKey q pos) .ok 0 0)) ∧ x.valid = (partOf64 d).valid
        ∧ x.first = leAt d 1 1 ∧ x.groups = leAt d 2 1 ∧ x.resMax = leAt d 3 1 ∧ x.kvBudget = leAt d 28 4 ∧ x.dram = (partOf64 d).dram)
    ∧ (s.starts q pos 0x60 b → let d := s.hread (leAt b 16 8) 64
      descriptorOk d = true →
        (0 < s.residents (leAt d 0 1) → exec (.partConfig q pos) s = .next (s.keeps (s.complete q (s.cmdKey q pos) .partBusy 0 0)))
        ∧ (s.residents (leAt d 0 1) = 0 → (partOf64 d).valid = true →
            s.conflict (partOf64 d :: (s.parts.filter (fun y => y.1 != leAt d 0 1 && y.2.valid)).map (·.2)) = true →
            exec (.partConfig q pos) s = .next (s.keeps (s.complete q (s.cmdKey q pos) .partConflict 0 0))))
    ∧ (s.starts q pos 0x61 b → (s.ctxSt (leAt b 16 2)).state ≠ .undefined → exec (.ctxDefine q pos) s = .next (s.keeps (s.complete q (s.cmdKey q pos) .ctxBusy 0 0)))
    ∧ (s.starts q pos 0x62 b → (s.ctxSt (leAt b 16 2)).state = .resident ∨ (s.ctxSt (leAt b 16 2)).state = .undefined →
      exec (.ctxDelete q pos) s = .next (s.keeps (s.complete q (s.cmdKey q pos) .ctxBusy 0 0)))
    ∧ (s.starts q pos 0x64 b → (s.ctxSt (leAt b 16 2)).state ≠ .faulted → exec (.ctxRestart q pos) s = .next (s.keeps (s.complete q (s.cmdKey q pos) .ctxBusy 0 0)))
    ∧ (s.starts q pos 0x63 b → s.tableNamed (leAt b 16 1 % 8) (leAt b 20 4) (leAt b 18 2) = none →
      exec (.tableSelect q pos) s = .next (s.keeps (s.complete q (s.cmdKey q pos) .notFound 0 0)))
    ∧ (s.starts q pos 0x61 b → (s.ctxSt (leAt b 16 2)).state = .undefined → s.hasFn (leAt b 24 4) (leAt b 28 2) = true →
      ∃ (u : State) (x : Ctx), exec (.ctxDefine q pos) s = .next (s.keeps (u.freshSch.complete q (s.cmdKey q pos) .ok 0 0)) ∧ u = { s with ctxs := tput s.ctxs (leAt b 16 2) x }
        ∧ x.state = .idle ∧ x.part = leAt b 18 1 % 8 ∧ x.weight = leAt b 20 1 ∧ x.playbook = leAt b 24 4 ∧ x.fn = leAt b 28 2 ∧ x.cmds = 0 ∧ x.debt = 0)
    ∧ (s.starts q pos 0x64 b → (s.ctxSt (leAt b 16 2)).state = .faulted →
      exec (.ctxRestart q pos) s = .next (s.keeps ((s.modCtx (leAt b 16 2) (fun x => { x with state := .idle, tearing := false })).freshSch.complete q (s.cmdKey q pos) .ok 0 0)))
    ∧ (s.starts q pos 0x62 b → (s.ctxSt (leAt b 16 2)).state = .idle ∨ (s.ctxSt (leAt b 16 2)).state = .faulted → s.ready.any (fun r => r.ctx == leAt b 16 2) = false →
      s.jobs.any (fun j => j.2.ctx == leAt b 16 2) = false →
      ∃ u : State, exec (.ctxDelete q pos) s = .next (s.keeps (u.freshSch.complete q (s.cmdKey q pos) .ok 0 0)) ∧ u.ctxs = tdel s.ctxs (leAt b 16 2) ∧ u.items = s.items ∧ u.regs = s.regs)
    ∧ (s.starts q pos 0x63 b → ∀ x, s.tableNamed (leAt b 16 1 % 8) (leAt b 20 4) (leAt b 18 2) = some x →
      ((s.activeTable (leAt b 16 1 % 8)).isNone = true →
        exec (.tableSelect q pos) s = .next (s.keeps ((s.activate (leAt b 16 1 % 8) x (ns48 s.now)).complete q (s.cmdKey q pos) .ok 0 0)))
      ∧ ((s.activeTable (leAt b 16 1 % 8)).isNone = false →
        exec (.tableSelect q pos) s = .next (s.keeps ((s.modPart (leAt b 16 1 % 8) (fun y => { y with nextTable := some x })).complete q (s.cmdKey q pos) .ok 0 0))))

/-- HUDDLE starts the next epoch, gives up the address and waits for its end; CATCH_SET without a partner, or with the same one, takes it, with END it ends the partnership, and for another device it is answered PARTNER_BUSY; LINK_RESET clears and sets EN, and the port trains; REMOTE_POST that the regulator lets pass sends its POST under the next TXN_ID and waits for its reply, and one that it holds waits (R387, R427, R439, R444, R447, R457). TIME_STEP_ACCEPT of the pending offset moves fabric time by it, shifts the deadlines of the open items, ends holdover, and hands the same step to Norentum; TIME_SET with no item and no port open sets fabric time and TAI and counts the epoch; an offset that is not the pending one, a step of more than 1 s either way, or a TIME_SET while something is open is answered so and changes no time (R474-R477, R481). -/
def Obligations.FabricAndTimeCommands : Prop :=
  (∀ (s : State) (q : Fin 64) (pos : BitVec 16) (b : List Byte),
      (s.starts q pos 0x80 b → ∃ t, exec (.huddle q pos) s = .next t ∧ t.kol.huddle.running = true ∧ t.fld KOL_STAT KOL_STAT_EPOCH = (s.fld KOL_STAT KOL_STAT_EPOCH + 1) % 65536
        ∧ t.on KOL_STAT KOL_STAT_ADDR_VALID = false ∧ t.on KOL_STAT KOL_STAT_ROOT = false ∧ t.kol.huddle.cmds = s.kol.huddle.cmds ++ [(q.val, s.cmdKey q pos)]
        ∧ t.fetched = (s.setRunning q (s.cmdKey q pos)).fetched ∧ s.regsSame t [KOL_STAT, TIM_STAT] ∧ s.memSame t)
      ∧ (s.starts q pos 0x81 b → bit (leAt b 19 1) 0 = false → s.partner? = none →
        ∃ u : State, exec (.catchSet q pos) s = .next (s.keeps (u.complete q (s.cmdKey q pos) .ok 0 0)) ∧ u.on KOL_CATCH_CFG KOL_CATCH_CFG_PARTNER_VALID = true
          ∧ u.fld KOL_CATCH_CFG KOL_CATCH_CFG_PARTNER = leAt b 16 1 ∧ u.kol.source = some (leAt b 16 1) ∧ u.kol.relayOut = [] ∧ u.kol.relayStopped = false
          ∧ s.regsSame u [KOL_CATCH_CFG] ∧ s.memSame u)
      ∧ (s.starts q pos 0x81 b → bit (leAt b 19 1) 0 = false → s.partner? = some (leAt b 16 1) →
        ∃ u : State, exec (.catchSet q pos) s = .next (s.keeps (u.complete q (s.cmdKey q pos) .ok 0 0)) ∧ u.partner? = some (leAt b 16 1) ∧ u.kol = s.kol
          ∧ s.regsSame u [KOL_CATCH_CFG] ∧ s.memSame u)
      ∧ (s.starts q pos 0x81 b → bit (leAt b 19 1) 0 = false → ∀ d, s.partner? = some d → d ≠ leAt b 16 1 →
        exec (.catchSet q pos) s = .next (s.keeps (s.complete q (s.cmdKey q pos) .partnerBusy 0 0)))
      ∧ (s.starts q pos 0x81 b → bit (leAt b 19 1) 0 = true → exec (.catchSet q pos) s = .next (s.keeps (s.endPartner.complete q (s.cmdKey q pos) .ok 0 0)))
      ∧ (s.starts q pos 0x82 b → leAt b 16 1 < 6 →
        ∃ u : State, exec (.linkReset q pos) s = .next (s.keeps (u.complete q (s.cmdKey q pos) .ok 0 0)) ∧ u = (s.kolDisable (leAt b 16 1)).kolEnable (leAt b 16 1)
          ∧ u.on (KOL_PORT_CTL (leAt b 16 1)) KOL_PORT_CTL_EN = true ∧ u.on (KOL_PORT_STAT (leAt b 16 1)) KOL_PORT_STAT_TRAINED = false
          ∧ u.on (KOL_PORT_STAT (leAt b 16 1)) KOL_PORT_STAT_ALIGNED = false)
      ∧ (s.starts q pos 0x83 b → s.waitingOn q pos 0x83 = none → exec (.remotePost q pos) s = .next (s.keeps ((s.setRunning q (s.cmdKey q pos)).sendPost q (s.cmdKey q pos) b)))
      ∧ (∀ k : Nat,
        let vc := if bit (leAt b 18 1) 0 then vcBe else vcLc
        let r := s.regulate (s.sqPart q) .fab (if vc = vcLc then .lc else .be) (leAt b 20 4) (whoOf 7 (q * 2 ^ 32 + k))
        (r.2 = true →
          let u := r.1
          let msg := mkMsg 0x10 0 0 u.kol.nextTxn u.now (leBytes 1 (leAt b 17 1 % 64)) (u.hread (leAt b 24 8) (leAt b 20 4))
          s.sendPost q k b = ({ u with kol := { u.kol with nextTxn := (u.kol.nextTxn + 1) % 2 ^ 32, txns := tput u.kol.txns u.kol.nextTxn { dst := leAt b 16 1, vc := vc, msgs := [msg], sends := 1, sentTb := u.tb, cmd := some (q.val, k), seq := none } } }).sendTxn
            (leAt b 16 1) vc msg (some (s.sqPart q)))
        ∧ (r.2 = false → s.sendPost q k b = r.1))
      ∧ (s.sys.released = true → ∀ k, s.waitingOn q pos 0x83 = some (k, b) →
        (s.kol.txns.any (fun t => t.2.cmd == some (q.val, k)) = true → exec (.remotePost q pos) s = .next s)
        ∧ (s.kol.txns.any (fun t => t.2.cmd == some (q.val, k)) = false → exec (.remotePost q pos) s = .next (s.keeps (s.sendPost q k b)))))
  ∧
  (∀ (s : State) (q : Fin 64) (pos : BitVec 16) (b : List Byte),
      (s.starts q pos 0xA0 b → leAt b 16 8 = s.pair TIM_PENDING_LO → (sgn 64 (leAt b 16 8)).natAbs ≤ 1000000000 →
        ∃ u : State, exec (.timeStepAccept q pos) s = .next { u.complete q (s.cmdKey q pos) .ok 0 0 with pending := s.pending, met := s.met.takeStep (sgn 64 (leAt b 16 8) * 65536) (u.complete q (s.cmdKey q pos) .ok 0 0).tim.stopNs }
          ∧ (0 ≤ sgn 64 (leAt b 16 8) → u.tim.now = s.tim.now + BitVec.ofNat 64 (sgn 64 (leAt b 16 8) * 65536).toNat ∧ u.tim.stopNs = s.tim.stopNs)
          ∧ (sgn 64 (leAt b 16 8) < 0 → u.tim.now = s.tim.now ∧ u.tim.stopNs = s.tim.stopNs + (sgn 64 (leAt b 16 8)).natAbs)
          ∧ (∀ i e, tfind s.items i = some e → tfind u.items i = some (if e.state = .free then e else { e with deadline := addNs (sgn 64 (leAt b 16 8)) e.deadline }))
          ∧ u.pair TIM_PENDING_LO = 0 ∧ u.on TIM_STAT TIM_STAT_HOLDOVER = false ∧ s.regsSame u [TIM_STAT, TIM_PENDING_LO, TIM_PENDING_HI] ∧ s.memSame u)
      ∧ (s.starts q pos 0xA0 b → leAt b 16 8 = s.pair TIM_PENDING_LO → 1000000000 < (sgn 64 (leAt b 16 8)).natAbs →
        exec (.timeStepAccept q pos) s = .next (s.keeps (s.complete q (s.cmdKey q pos) .timeRange 0 0)))
      ∧ (s.starts q pos 0xA0 b → leAt b 16 8 ≠ s.pair TIM_PENDING_LO →
        exec (.timeStepAccept q pos) s = .next (s.keeps (s.complete q (s.cmdKey q pos) .timeMismatch 0 0)))
      ∧ (s.starts q pos 0xA1 b → s.items.any (fun e => e.2.state != .free) = false →
        (List.range 4).any (fun n => s.on (LIN_PORT_CTL n) LIN_PORT_CTL_EN) = false →
        ∃ u : State, exec (.timeSet q pos) s = .next { u.complete q (s.cmdKey q pos) .ok 0 0 with pending := s.pending, met := s.met.takeStep (sdiff 64 (leAt b 16 8) s.now.toNat + (s.tim.stopNs * 65536 : Nat)) (u.complete q (s.cmdKey q pos) .ok 0 0).tim.stopNs }
          ∧ u.tim.now = BitVec.ofNat 64 (leAt b 16 8) ∧ u.tim.tai = leAt b 24 6 ∧ u.tim.stopNs = 0
          ∧ u.fld TIM_TAI_HI TIM_TAI_HI_EPOCH = (s.fld TIM_TAI_HI TIM_TAI_HI_EPOCH + 1) % 2 ^ (TIM_TAI_HI_EPOCH.hi + 1 - TIM_TAI_HI_EPOCH.lo)
          ∧ s.regsSame u [TIM_TAI_HI] ∧ s.memSame u)
      ∧ (s.starts q pos 0xA1 b → s.items.any (fun e => e.2.state != .free) = true ∨ (List.range 4).any (fun n => s.on (LIN_PORT_CTL n) LIN_PORT_CTL_EN) = true →
        exec (.timeSet q pos) s = .next (s.keeps (s.complete q (s.cmdKey q pos) .timeBusy 0 0))))

/-- The decode engine: a host image of 8-bit raw pixels that is whole becomes its base crop with each pixel v read as 16 v + v / 16, the detection job becomes ready, and the text areas found become REGIONs; one that is short ends ERROR; one whose crop finds no room, or that the DRAM regulator holds, waits (R361, R365, R366, R370, R387). The crop of a REGION whose rows are there, let pass by the DRAM regulator, enters the crop cache at its place, waits while the regulator holds it, and is not made of words that cannot be corrected; the perturbed input of a re-read pass is made of a crop that reads well, and the pass goes on; the first BE opening that waits opens once more entries than the reserve are free, and none before (R26, R368, R371-R374, R387, R529). -/
def Obligations.ImagesAndCrops : Prop :=
  (∀ (s : State) (i : Nat) (m : Image) (found : List Found), s.sys.released = true → s.currentImage = some (i, m) → m.format = 3 →
      (m.data.length < m.rawBytes → exec (.imageDecodeDone found) s = .next (s.keeps (s.imageError i .decTruncated)))
      ∧ (m.rawBytes ≤ m.data.length →
        let planes := (List.range (if m.colour then 3 else 1)).map (fun k => rawPlane m.data (k * m.pitch * m.height) m.pitch m.width m.height (fun r => r.map (fun b => b.toNat * 16 + b.toNat / 16)))
        let n := cropBytes m.width m.height planes.length
        (∀ u, s.cropRoom n = (u, none) → exec (.imageDecodeDone found) s = .next (s.keeps u))
        ∧ (∀ u a v, s.cropRoom n = (u, some a) → u.regulate (u.item i).part .dram (u.item i).cls n (whoOf 12 i) = (v, false) → exec (.imageDecodeDone found) s = .next (s.keeps v))
        ∧ ∀ u a v, s.cropRoom n = (u, some a) → u.regulate (u.item i).part .dram (u.item i).cls n (whoOf 12 i) = (v, true) →
        let w := ({ v.putCrop { item := v.itemId i, top := v.itemId i, width := m.width, height := m.height, x0 := 0, y0 := 0, planes := planes, stamp := v.now, used := v.tb, place := a, repaired := 0 } with
          images := tput v.images i { m with decoded := true, data := [] } } : State).incReg DEC_IMG_CNT
        exec (.imageDecodeDone found) s = .next (s.keeps
            (((found.foldl (fun s f => s.openRegion i 0 i f) (w.detectReady ((tfind v.pieces i).getD default).playbook ((tfind v.pieces i).getD default).fn i)).sealReady i none).pieceCheck i).startImage)
          ∧ w.num DEC_IMG_CNT = min (v.num DEC_IMG_CNT + 1) 0xFFFFFFFF ∧ w.crops.getLast?.map (·.planes) = some planes))
  ∧
  (∀ s : State, s.sys.released = true →
      (∀ i r h n, tfind s.regions i = some r → r.needCrop = true → r.crop = false → s.cropReady r = some (h, n) →
        (∀ u, s.regulate (s.item i).part .dram (s.item i).cls (cropBytes (s.cropBox r).2.2.1 h n) (whoOf 5 i) = (u, false) → exec (.cropWritten i) s = .next (s.keeps u))
        ∧ ∀ u, s.regulate (s.item i).part .dram (s.item i).cls (cropBytes (s.cropBox r).2.2.1 h n) (whoOf 5 i) = (u, true) →
          (∀ v, u.cropPixels r = (v, none) → exec (.cropWritten i) s = .next (s.keeps v))
          ∧ ∀ v planes rep, u.cropPixels r = (v, some (planes, rep)) →
            let c : Crop := { item := v.itemId i, top := v.itemId r.top, width := (s.cropBox r).2.2.1, height := h, x0 := (s.cropBox r).1, y0 := (s.cropBox r).2.1, planes := planes, stamp := v.now, used := v.tb, place := r.cropAt, repaired := rep }
            exec (.cropWritten i) s = .next (s.keeps (((v.putCrop c).modRegion i (fun r => { r with crop := true })).escStart i)) ∧ (v.putCrop c).crops = v.crops ++ [c])
      ∧ (∀ i q c m pb u, tfind s.seqs i = some q → q.inputReady = false → q.ending = .running → 1 ≤ q.pass → q.pass ≤ 8 → s.cropOf q.region = some c →
        s.model q.playbook q.model = some m → s.playbook q.playbook = some pb →
        s.regulate (s.item i).part .dram (s.item i).cls (cropBytes c.width c.height c.planes.length) (whoOf 9 i) = (u, true) →
        ∀ v, (∀ good, (u.useCrops (u.cropAddr c) c.size).didRead (u.cropAddr c) c.size = (v, good) →
          (good = true → exec (.passInputWritten i) s = .next (s.keeps ((v.modSeq i (fun x => { x with inputReady := true, input := c.planes.map (perturbPlane (perturbOf pb.seed q.index q.pass m) c.width c.height) })).stepReady i)))
          ∧ (good = false → exec (.passInputWritten i) s = .next (s.keeps v))))
      ∧ (s.canOpen .be = false → exec .beItemOpenWait s = .next s)
      ∧ (∀ w rest, s.beWait = w :: rest → s.canOpen .be = true → w.relay = none → w.taken = none → w.typ ≠ .image →
        exec .beItemOpenWait s = .next (s.keeps (({ s with beWait := rest }).openWaiting w))))

/-- The token unit: a mask that was asked for enters the cache when its fetch is done, one that was not changes nothing; the cache keeps at most 128 masks, and none in use leaves it; a LIVE chunk closes MAX_US after its first character, and not before; a SEQUENCE with work left is demoted BUDGET_US after its opening, and not before (R21, R339, R347, R379). A row of an EMIT group is decided in order, from the logits of all slices: a row of SEQ_ID 0 takes the result 0x1FFFF; while rows are left the group waits with one result more, and the last row answers every part. A group whose slices do not fit together is refused (R340, R354). -/
def Obligations.TokenTimersAndRows : Prop :=
  (∀ s : State, s.sys.released = true →
      (∀ t m, let l := trimMasks s.masksInUse ((t, m) :: s.masks.erase (t, m))
        (s.maskAsks.contains (t, m) = true → exec (.maskFetchDone t m) s = .next { s with masks := l, maskAsks := s.maskAsks.erase (t, m) })
        ∧ (s.maskAsks.contains (t, m) = false → exec (.maskFetchDone t m) s = .next s)
        ∧ (s.masks.length ≤ 128 → l.length ≤ 128 ∧ ∀ k ∈ s.masks, s.masksInUse.contains k = true → k ∈ l))
      ∧ (∀ i q t, tfind s.seqs i = some q → q.liveSince = some t → q.ending = .running → t + s.fld TOK_LIVE_CFG TOK_LIVE_CFG_MAX_US * 1000 ≤ s.tb →
        exec (.liveChunkTimeout i) s = .next (s.keeps (s.liveChunk i false)))
      ∧ (∀ i q t, tfind s.seqs i = some q → q.liveSince = some t → s.tb < t + s.fld TOK_LIVE_CFG TOK_LIVE_CFG_MAX_US * 1000 → exec (.liveChunkTimeout i) s = .next s)
      ∧ (∀ i q m, tfind s.seqs i = some q → s.model q.playbook q.model = some m → s.tb < q.openTb + m.budgetUs * 1000 → exec (.decodeBudgetExpiry i) s = .next s)
      ∧ (∀ i q m, tfind s.seqs i = some q → s.model q.playbook q.model = some m → q.ending = .running → q.openTb + m.budgetUs * 1000 ≤ s.tb →
        exec (.decodeBudgetExpiry i) s = .next (s.keeps (s.demoteSeq i))))
  ∧
  (∀ (s : State) (p : Fin 8) (g : EmitGroup) (e : EmitSlice) (rest : List EmitSlice), s.sys.released = true → tfind s.groups p = some g →
      g.slices = e :: rest →
      (groupOk g.slices = true → g.next < e.rows.length →
        let w := s.decideRow (e.rows.getD g.next (0, [])).1 (groupLogits g.slices g.next)
        let h : EmitGroup := { g with next := g.next + 1, results := g.results ++ [w.2] }
        ((e.rows.getD g.next (0, [])).1 = 0 → w = (s, 0x1FFFF))
        ∧ (g.next + 1 < e.rows.length → exec (.emitDecide p) s = .next (s.keeps { w.1 with groups := tput w.1.groups p h }))
        ∧ (e.rows.length ≤ g.next + 1 → exec (.emitDecide p) s = .next (s.keeps (w.1.answerGroup p h))))
      ∧ (groupOk g.slices = false → exec (.emitDecide p) s = .next (s.keeps (s.refuseGroup p g)))
      ∧ (g.slices.any s.emitAgain = false →
        s.answerGroup p g = g.slices.foldl (fun s x => s.answerPart g.results x) { s with groups := tdel s.groups p }
        ∧ s.refuseGroup p g = g.slices.foldl (fun s x => match s.running x.tile .msg 0x38 with
            | some c => s.cmdFault x.tile c fParam
            | none => s) { s with groups := tdel s.groups p }))

/-- The token chosen from a row is the allowed one with the largest logit, the lowest index of equals: no allowed token with an ordinary logit has a larger one, and none before it has an equal one (R341). -/
def Obligations.TokenChoice : Prop :=
  ∀ (ls : List (Nat × FVal)) (tok : Nat) (a : Rat), ls.Pairwise (fun x y => x.1 < y.1) → chooseToken ls = some (tok, .fin a) →
    (tok, .fin a) ∈ ls ∧ ∀ k b, (k, FVal.fin b) ∈ ls → b ≤ a ∧ (b = a → tok ≤ k)

/-- A queued command whose semaphore wait is met and which no earlier command holds back reads its operands and starts with its timer at now, or is refused with its fault; an operand word that cannot be corrected fails the tile instead; before that it stays. A SEND puts its message on the way unless its receiver has it already; a STREAM_IN with FIRST forgets the SIDE before. A NOP completes as it runs; a command past 2 × WCET_STEPS × 1.25 ns faults TIMEOUT (R208-R211, R216, R223, R231, R235, R265, R526, R528). A command that completes leaves its queue, signals its semaphore, counts as done, the dispatcher of its tile goes on, and a teardown that waits for it (R207, R210, R235, R407, R410). A barrier command completes once its tile's engines are idle: within what the partition was granted and its DRAM regulator, the live pages that are dirty go to the slots not in use, and with the others become the tile's checkpoint; the journal is cleared, and the tile is at its cut, or at its end with END. More than 8 regions or a nonzero reserved byte, a page beyond the store, an area outside the grant, and a timer that has run out fault; a word of those pages that cannot be corrected fails the tile (R212, R223-R225, R228, R235, R302, R528; log entries 46, 81). -/
def Obligations.CommandsOnTiles : Prop :=
  (∀ (s : State) (t : Fin 256) (e : Engine) (c : QCmd) (rest : List QCmd), s.sys.released = true → (s.tileSt t).queue e = c :: rest → s.tileRuns t = true →
      let rd := (s.readsOf t c).foldl (fun (y : State × Bool) r => if y.2 then y.1.didTread t r.addr r.len else y) (s, true)
      let begun := { rd.1.keepBefore t c with started := true, startTb := s.tb, done := 0, sent := 0 }
      (c.started = false → (s.tileSt t).stopped = false → (s.tileSt t).waitMet c = true → s.interlocked t e c = false →
        (∀ code, s.refusal t c = some code → exec (.commandStart t e) s = .next (s.keeps (s.cmdFault t c code)))
        ∧ (s.refusal t c = none → rd.2 = false → exec (.commandStart t e) s = .next (s.keeps rd.1))
        ∧ (s.refusal t c = none → rd.2 = true → c.op ≠ 0x30 → ∃ u, exec (.commandStart t e) s = .next u ∧ (u.tileSt t).queue e = begun :: rest
              ∧ u = { rd.1 with tiles := u.tiles } ∧ (∀ k, k ≠ t.val → u.tileSt k = s.tileSt k) ∧ (c.op = 0x37 → c.first = true → (u.tileSt t).streamAt = none))
        ∧ (s.refusal t c = none → rd.2 = true → c.op = 0x30 → e = .msg →
            ∃ u, exec (.commandStart t e) s = .next u ∧ u = { rd.1 with tiles := u.tiles, msgs := u.msgs } ∧ (u.tileSt t).queue e = { begun with done := (s.tileSt t).outSeq + 1 } :: rest
              ∧ (u.tileSt t).outSeq = (s.tileSt t).outSeq + 1
              ∧ u.msgs = if (s.tileSt t).outSeq + 1 ≤ (s.tileSt t).accepted then s.msgs
                else s.msgs ++ [{ src := t, dst := c.u 32 1, tag := c.u 34 2, ckptNo := (s.tileSt t).ckptNo, seq := (s.tileSt t).outSeq + 1, data := s.tread t c.aAddr (c.u 40 4) }])
        ∧ (s.ras.tchk = [] → rd = (s, true)))
      ∧ ((c.started = true ∨ (s.tileSt t).stopped = true ∨ (s.tileSt t).waitMet c = false ∨ s.interlocked t e c = true) → exec (.commandStart t e) s = .next s)
      ∧ (c.started = true → 5 * c.wcet ≤ 2 * (s.tb - c.startTb) → exec (.commandTimeout t e) s = .next (s.keeps (s.cmdFault t c 11)))
      ∧ (c.started = true → 2 * (s.tb - c.startTb) < 5 * c.wcet → exec (.commandTimeout t e) s = .next s)
      ∧ (c.started = true → c.op = 0 → exec (.nop t e) s = .next (s.keeps (s.finish t e))))
  ∧
  (∀ (s : State) (t : Nat) (e : Engine) (c : QCmd) (rest : List QCmd), (s.tileSt t).queue e = c :: rest →
      ∃ u : State, s.finish t e = (u.dispatchTile t).tearAt t ∧ (u.tileSt t).queue e = rest
        ∧ (∀ k, k ≠ e → (u.tileSt t).queue k = (s.tileSt t).queue k)
        ∧ (bit (c.u 3 1) 7 = true → tget 0 (u.tileSt t).sems (c.u 3 1 % 16) = (tget 0 (s.tileSt t).sems (c.u 3 1 % 16) + 1) % 65536)
        ∧ (bit (c.u 3 1) 7 = false → (u.tileSt t).sems = (s.tileSt t).sems)
        ∧ u.pair PIT_CMD_DONE_LO = (s.pair PIT_CMD_DONE_LO + 1) % 2 ^ 64
        ∧ (∀ k, k ≠ t → u.tileSt k = s.tileSt k) ∧ s.memSame u ∧ s.regsSame u [PIT_CMD_DONE_LO, PIT_CMD_DONE_LO + 4])
  ∧
  (∀ (s : State) (t : Fin 256) (fin : Bool) (c : QCmd) (j : Job), s.sys.released = true → s.barrierAt t (if fin then 2 else 1) = some c → s.jobOf t = some j →
      let i : Instr := if fin then .endList t else .ckpt t
      let faults (code : Nat) : Prop := exec i s = .next (s.keeps (s.jobFault t code (if fin then 2 else 1) c.index))
      let named := (ckptPages c).eraseDups
      let pages := (named ++ s.poolPages t).eraseDups
      let due := pages.filter (fun p => s.dirty.contains (256 * t + p))
      let bad := 8 < c.u 34 1 ∨ c.u 35 1 ≠ 0 ∨ c.u 52 12 ≠ 0
      let old := (((s.tileSt t).ckpt.map (·.slots)).getD [])
      (bad → faults 12)
      ∧ (¬bad → (∃ p ∈ named, 256 ≤ p) → faults 3)
      ∧ (¬bad → (∀ p ∈ named, p < 256) → Config.dramGranted j.part (s.ckptArea t) 0x400000 = false → faults 10)
      ∧ (¬bad → (∀ p ∈ named, p < 256) → Config.dramGranted j.part (s.ckptArea t) 0x400000 = true →
        ∀ u ok, s.regulate j.part .dram (s.ctxSt j.ctx).cls (due.length * 4096 + 4096) (whoOf 1 t) = (u, ok) →
        (ok = false → exec i s = .next (s.keeps u))
        ∧ (ok = true → ∀ v good, due.foldl (fun (y : State × Bool) p => if y.2 then y.1.didTread t (4096 * p) 4096 else y) (u, true) = (v, good) →
          (good = false → exec i s = .next (s.keeps v))
          ∧ (good = true → ∃ (x : Tile) (k : Ckpt), exec i s = .next (s.keeps ((({ due.foldl (fun (s : State) p => s.pageToSlot t p (tget 0 k.slots p)) v with
                tiles := tput v.tiles t x, dirty := v.dirty.filter (fun p => !(p / 256 = t && due.contains (p % 256))) }).countCmd t).tileAtCut t))
            ∧ x.barrier = none ∧ x.atCut = true ∧ x.ended = fin ∧ x.journal = [] ∧ x.journalBytes = 0 ∧ x.wcetSum = 0 ∧ x.ckptNo = c.u 32 2 ∧ x.ckpt = some k ∧ x.prior = (s.tileSt t).ckpt
            ∧ k.pos = c.index + 1 ∧ k.sems = x.sems ∧ k.halos = x.halos ∧ k.pages = pages ∧ k.no = c.u 32 2 ∧ k.outSeq = x.outSeq ∧ k.streamAt = x.streamAt
            ∧ (∀ p ∈ due, tget 0 k.slots p = 1 - tget 1 old p) ∧ (∀ p, p ∉ due → tget 0 k.slots p = tget 0 old p)
            ∧ x.mac = (s.tileSt t).mac ∧ x.vec = (s.tileSt t).vec ∧ x.msg = (s.tileSt t).msg)))
      ∧ (s.timedOut t c = true → ∀ e, exec (.commandTimeout t e) s = .next (s.keeps (s.cmdFault t c 11))))

/-- The arithmetic commands that read whole arrays: each writes its results to the tile stores, counts, and completes; SOFTMAX_STEP over a stored M out of range, ROTARY over a position beyond 32,767 and KV_QUANT over a page that is not there fault PARAM (R186, R216, R217, R277-R288, R308, R309). -/
def Obligations.ArithmeticCommands : Prop :=
  ∀ (s : State) (t : Fin 256) (c : QCmd), s.sys.released = true →
    let only (u : State) : Prop := u = { s with tile := u.tile, dirty := u.dirty, regs := u.regs, gov := u.gov, ras := { s.ras with tchk := u.ras.tchk } }
    (s.running t .mac 0x10 = some c → exec (.matmul t) s = .next (s.keeps ((s.matmul t c).finish t .mac)) ∧ only (s.matmul t c))
    ∧ (s.running t .mac 0x12 = some c → exec (.attnScore t) s = .next (s.keeps ((s.attnScore t c).finish t .mac)) ∧ only (s.attnScore t c))
    ∧ (s.running t .mac 0x13 = some c → exec (.attnValue t) s = .next (s.keeps ((s.attnValue t c).finish t .mac)) ∧ only (s.attnValue t c))
    ∧ (s.running t .vec 0x20 = some c → ∃ u : State, exec (.convert t) s = .next (s.keeps (u.finish t .vec)) ∧ only u
        ∧ u = s.writeRow t (cvOut c) 0 c.wbase c.oshift c.satEn ((List.range (cvIn c).cols).map (fun k => (s.elemAt t (cvIn c) 0 k).lane)))
    ∧ (s.running t .vec 0x23 = some c →
        (((List.range ((attF c).rows * (attF c).qpg)).all (fun k => decide (-48 ≤ (s.oldState t c k).1.m) && decide ((s.oldState t c k).1.m ≤ 47))) = true →
          ∃ u : State, exec (.softmaxStep t) s = .next (s.keeps (u.finish t .vec)) ∧ only u ∧ u = s.softmaxRows t c (attF c) ((attF c).rows * (attF c).qpg))
        ∧ (((List.range ((attF c).rows * (attF c).qpg)).all (fun k => decide (-48 ≤ (s.oldState t c k).1.m) && decide ((s.oldState t c k).1.m ≤ 47))) = false →
          exec (.softmaxStep t) s = .next (s.keeps (s.cmdFault t c 12))))
    ∧ (s.running t .vec 0x24 = some c → ∃ u : State, exec (.mergeExact t) s = .next (s.keeps (u.finish t .vec)) ∧ only u
        ∧ u = (List.range ((attF c).rows * (attF c).qpg)).foldl (fun s k => s.mergePair t c (attF c) k) s)
    ∧ (s.running t .vec 0x25 = some c → (s.rotPosOk t c = true →
          ∃ u : State, exec (.rotary t) s = .next (s.keeps (u.finish t .vec)) ∧ only u ∧ u = s.writeRows t ⟨c.outFmt, c.outAddr, up32 (fmtBytes c.outFmt (c.u 36 2)), c.u 32 2, c.u 36 2⟩
            c.wbase c.oshift c.satEn 0 ((List.range (c.u 32 2)).map (fun v => s.rotRow t c v)))
        ∧ (s.rotPosOk t c = false → exec (.rotary t) s = .next (s.keeps (s.cmdFault t c 12))))
    ∧ (s.running t .vec 0x26 = some c → ∃ u : State, exec (.norm t) s = .next (s.keeps (u.finish t .vec)) ∧ only u
        ∧ u = s.writeRows t ⟨c.outFmt, c.outAddr, up32 (fmtBytes c.outFmt (c.u 36 2)), c.u 32 2, c.u 36 2⟩ c.wbase c.oshift c.satEn 0
          ((List.range (c.u 32 2)).map (fun r => if c.u 34 1 % 4 = 0 then s.softdivRow t c r else s.normRow t c r)))
    ∧ (s.running t .vec 0x27 = some c → (s.kvqDestOk t c = true →
          ∃ u : State, exec (.kvQuant t) s = .next (s.keeps (u.finish t .vec)) ∧ only u ∧ u = (List.range (c.u 32 2)).foldl (fun s v => s.kvqRow t c v) s)
        ∧ (s.kvqDestOk t c = false → exec (.kvQuant t) s = .next (s.keeps (s.cmdFault t c 12))))

/-- In stores without a memory error each element of an output in a format of 8 bits or more that is neither MX nor EXACT is its lane times 2^OSHIFT, rounded once into the format; nothing outside the rows of the output changes (R185, R186). -/
def Obligations.ElementsWritten : Prop :=
  ∀ (s : State) (t : Nat) (a : Arr) (wbase oshift : Int) (satEn : Bool) (rows : List (List Lane)), s.ras.tchk = [] → fmtMx a.fmt = false → a.fmt ≠ 0xE → fmtBits a.fmt ∈ [8, 16, 32] →
    (∀ l ∈ rows, l.length = a.cols) → a.cols * (fmtBits a.fmt / 8) ≤ a.pitch →
    let u := s.writeRows t a wbase oshift satEn 0 rows
    (∀ r k l x, rows[r]? = some l → l[k]? = some x →
        u.elemBits t a.fmt (a.addr + r * a.pitch) k = (encElem a.fmt satEn (x.wide.scale oshift).val).bits % 2 ^ fmtBits a.fmt)
    ∧ (∀ p, p < tileAt t a.addr ∨ tileAt t (a.addr + rows.length * a.pitch) ≤ p → tget 0 u.tile p = tget 0 s.tile p)

/-- The exact sum of a lane does not depend on the order of its terms: a lane that takes the same products in another order is the same lane, its special flags and its window miss included (R180, R184, R187). An EXACT element holds its lane exactly whenever the value is an integer below 2^127 in units of 2^WBASE: it reads back with the same sum and the same flags (R176, R190). -/
def Obligations.ExactNumbers : Prop :=
  (∀ (wbase : Int) (a : Lane) (xs ys : List FVal), xs.Perm ys → xs.foldl (Lane.add wbase) a = ys.foldl (Lane.add wbase) a)
  ∧
  (∀ (wbase : Int) (a : Lane) (w : Int), -320 ≤ wbase → wbase ≤ 192 → w.natAbs < 2 ^ 127 → a.q = (w : Rat) * pow2 wbase →
      let b := Lane.decode (a.encode wbase).1
      (a.encode wbase).1.length = 32 ∧ (a.encode wbase).2 = false ∧ b.q = a.q ∧ b.pinf = a.pinf ∧ b.ninf = a.ninf ∧ b.rnd = a.rnd ∧ b.val = a.val)

/-- CONV and POOL: an axis without an output, or one that the first output lies beyond, counts as EMPTY and completes; with every row written the command completes; a row that was released faults PARAM; a row that has not arrived, or has no room, waits; one row that is ready is written from its window, and the command completes (R242, R247, R255, R260-R262). ARGMAX_C writes for each pixel of a row the index of its largest channel as 16 bits, and completes after its ORN rows, those from END_ROW on of a map that ended being padded; 0xFFFF stands where every channel is NaN; a row of a ring that was released faults, one that has not arrived waits (R258, R261; log entry 42). -/
def Obligations.MapsAndArgmax : Prop :=
  (∀ (s : State) (t : Fin 256) (conv : Bool) (c : QCmd), s.sys.released = true → s.running t (if conv then .mac else .vec) (if conv then 0x11 else 0x21) = some c →
      let i : Instr := if conv then .conv t else .pool t
      let e : Engine := if conv then .mac else .vec
      let g := geo c
      let r := g.or0 + c.done % 1024
      let empty := s.outCols t c g ≤ 0 ∨ s.outCols t c g ≤ (g.oc0 : Int) ∨ ∃ n, s.outRows t c g = some n ∧ (n ≤ 0 ∨ n ≤ (g.or0 : Int))
      (c.done = 0 → empty → exec i s = .next (s.keeps (((if g.or0 = 0 then s else s.closeRing t c g).incReg PIT_CONV_EMPTY).finish t e)))
      ∧ ((c.done ≠ 0 ∨ ¬empty) →
        (s.rowLimit t c g ≤ c.done % 1024 → exec i s = .next (s.keeps (s.endMap t e c g)))
        ∧ (c.done % 1024 < s.rowLimit t c g →
          (s.rowsGone t c g r = true → exec i s = .next (s.keeps (s.cmdFault t c 12)))
          ∧ (s.rowsGone t c g r = false → s.rowReady t c g r = false → exec i s = .next s)
          ∧ (s.rowsGone t c g r = false → s.rowReady t c g r = true → c.done = 0 → g.orn = 1 →
            let row := s.mapRow t c g ((s.mapEnd t c g).getD openEnd) r (min g.ocn (s.outCols t c g - g.oc0).toNat)
            ∃ (v : State) (d : Nat), exec i s = .next (s.keeps (v.endMap t e { c with done := d } g))
              ∧ v = { s with tile := v.tile, dirty := v.dirty, regs := v.regs, gov := v.gov, tiles := v.tiles, ras := { s.ras with tchk := v.ras.tchk } }
              ∧ (g.rollIn = false → v.tile = (s.putRow t c g r 0 row).tile ∧ v.dirty = (s.putRow t c g r 0 row).dirty)
              ∧ (conv = true → (v.tileSt t).patches = s.rowPatches t c g ((s.mapEnd t c g).getD openEnd) r 0 (min g.ocn (s.outCols t c g - g.oc0).toNat))))))
  ∧
  (∀ (s : State) (t : Fin 256) (c : QCmd), s.sys.released = true → s.running t .vec 0x22 = some c →
      let g0 := geo c
      let g : Geo := { g0 with kh := 1, sh := 1, dh := 1, imgW := g0.bw, imgH := if g0.rollIn then 0 else g0.or0 + g0.orn }
      let r := g.or0 + c.done
      let ring := s.ringAt t c.aAddr
      (g.orn ≤ c.done → exec (.argmaxC t) s = .next (s.keeps (s.finish t .vec)))
      ∧ (c.done < g.orn → g.rollIn = true → r < ring.endRow → r < ring.rel → exec (.argmaxC t) s = .next (s.keeps (s.cmdFault t c 12)))
      ∧ (c.done < g.orn → g.rollIn = true → r < ring.endRow → ring.rel ≤ r → ring.head ≤ r → exec (.argmaxC t) s = .next s)
      ∧ (g.orn = c.done + 1 → (g.rollIn = true → r < ring.endRow → ring.rel ≤ r ∧ r < ring.head) →
        ∃ v : State, exec (.argmaxC t) s = .next (s.keeps (v.finish t .vec)) ∧ v = { s with tile := v.tile, dirty := v.dirty, tiles := v.tiles, ras := { s.ras with tchk := v.ras.tchk } }
          ∧ (g.rollIn = false → v.tile = (s.twrite t (c.outAddr + c.done * up32 (2 * g.bw)) (packBits 16 ((List.range g.bw).map (fun x => s.argmaxAt t c g g.imgH r x)))).tile))
      ∧ ∀ h y x : Nat, (∀ k, k < g.cin → s.inAt t c g h y x k = some .nan) → s.argmaxAt t c g h y x = 0xFFFF)

/-- Messages and halos: a SEND completes when its message has been taken; a RECV writes a replayed message, else the first its source sent, which it journals, and completes, waits while there is none, or faults on a message too long, of another cut, or that the journal cannot hold; HALO_OPEN sets up its ring and takes the replayed rows; HALO_PUT sends its row into the peer's ring, waits for room and for the peer's restore and replay, skips a row the peer has, and faults without a peer; HALO_CLOSE closes a ring, and is an output like a row where the ring is the peer's (R219, R220, R225, R226, R231, R235; log entry 47). LOAD and STORE copy between the store and DRAM within what the partition was granted, once their regulator lets them, and fault PERM outside it or beyond the DRAM there is; a LOAD of a word that cannot be corrected faults MEM, and a STORE can be taken back until the next cut; a STREAM_IN writes the row of the line it waits for, waits while the ring is full, and completes after its last, or where its map has ended; an EMIT hands its slice to the token unit, takes its answer from a replayed journal, or faults PARAM where a row's SEQUENCE has another vocabulary (R231, R235, R265-R268, R340, R344, R387, R407, R525, R529). -/
def Obligations.MessagesAndTransfers : Prop :=
  (∀ (s : State) (t : Fin 256) (c : QCmd), s.sys.released = true →
      let x := s.tileSt t
      let ch := c.u 32 1
      (s.running t .msg 0x30 = some c →
        (s.msgs.any (fun m => m.src == t.val && m.seq == c.done) = false → exec (.send t) s = .next (s.keeps (s.finish t .msg)))
        ∧ (s.msgs.any (fun m => m.src == t.val && m.seq == c.done) = true → exec (.send t) s = .next s))
      ∧ (s.running t .msg 0x31 = some c → ∀ d l, takeReplay ch (c.u 34 2) x.replay = some (d, l) →
        ∃ u : State, exec (.recv t) s = .next (s.keeps (u.finish t .msg)) ∧ u = { s with tile := u.tile, dirty := u.dirty, tiles := u.tiles, ras := { s.ras with tchk := u.ras.tchk } }
          ∧ u.tile = (s.twrite t c.outAddr d).tile ∧ (s.ras.tchk = [] → u.tread t c.outAddr d.length = d) ∧ (u.tileSt t).replay = l ∧ (u.tileSt t).journal = x.journal)
      ∧ (s.running t .msg 0x31 = some c → takeReplay ch (c.u 34 2) x.replay = none →
        (s.msgs.find? (fun m => m.src == ch && m.dst == t.val && m.tag == c.u 34 2) = none → exec (.recv t) s = .next s)
        ∧ ∀ m, s.msgs.find? (fun m => m.src == ch && m.dst == t.val && m.tag == c.u 34 2) = some m →
        (c.u 40 4 < m.data.length → exec (.recv t) s = .next (s.keeps (s.cmdFault t c 7)))
        ∧ (m.data.length ≤ c.u 40 4 → m.ckptNo ≠ x.ckptNo → exec (.recv t) s = .next (s.keeps (s.cmdFault t c 8)))
        ∧ (m.data.length ≤ c.u 40 4 → m.ckptNo = x.ckptNo → 262144 < x.journalBytes + m.data.length → exec (.recv t) s = .next (s.keeps (s.cmdFault t c 9)))
        ∧ (m.data.length ≤ c.u 40 4 → m.ckptNo = x.ckptNo → x.journalBytes + m.data.length ≤ 262144 →
          ∃ u : State, exec (.recv t) s = .next (s.keeps (u.finish t .msg)) ∧ u = { s with tile := u.tile, dirty := u.dirty, tiles := u.tiles, msgs := s.msgs.erase m, ras := { s.ras with tchk := u.ras.tchk } }
            ∧ u.tile = (s.twrite t c.outAddr m.data).tile ∧ (s.ras.tchk = [] → u.tread t c.outAddr m.data.length = m.data) ∧ (u.tileSt t).journal = x.journal ++ [.msg ch (c.u 34 2) m.data]))
      ∧ (s.running t .msg 0x32 = some c →
        ∃ u : State, exec (.haloOpen t) s = .next (s.keeps ((feedHalo t x.replay.length u).finish t .msg)) ∧ u = { s with tiles := u.tiles } ∧ (∀ k, k ≠ t.val → u.tileSt k = s.tileSt k)
          ∧ tfind (u.tileSt t).halos ch = some { cmd := c.index, addr := c.outAddr, depth := c.u 33 1, rowBytes := c.u 36 2, peer := c.u 34 1, head := 0, released := 0 })
      ∧ (s.running t .msg 0x33 = some c →
        (c.u 33 1 ≤ c.done → exec (.haloPut t) s = .next (s.keeps (s.finish t .msg)))
        ∧ (s.putWaits t c = true → exec (.haloPut t) s = .next s)
        ∧ (c.u 33 1 = c.done + 1 → s.outOld t = true →
          ∃ u : State, exec (.haloPut t) s = .next (s.keeps (u.finish t .msg)) ∧ u = { s with tiles := u.tiles } ∧ (u.tileSt t).outSeq = x.outSeq + 1 ∧ (u.tileSt t).halos = x.halos)
        ∧ (c.done < c.u 33 1 → s.outOld t = false → s.putWaits t c = false →
          (s.haloPeer t ch = none → exec (.haloPut t) s = .next (s.keeps (s.cmdFault t c 12)))
          ∧ ∀ k h, s.haloPeer t ch = some (k, h) →
          (2 ^ 20 < c.aAddr + c.u 33 1 * h.rowBytes → exec (.haloPut t) s = .next (s.keeps (s.cmdFault t c 3)))
          ∧ (c.aAddr + c.u 33 1 * h.rowBytes ≤ 2 ^ 20 →
            (262144 < (s.tileSt k).journalBytes + h.rowBytes →
              exec (.haloPut t) s = .next (s.keeps ((((c.before.foldl State.putRange s).unrelease t c).modTile t (fun x => x.without c.index)).jobFault k 9 0x33 (s.tileSt k).pos)))
            ∧ (c.u 33 1 = c.done + 1 → (s.tileSt k).journalBytes + h.rowBytes ≤ 262144 →
              ∃ u : State, exec (.haloPut t) s = .next (s.keeps (u.finish t .msg)) ∧ u = { s with tile := u.tile, dirty := u.dirty, tiles := u.tiles, ras := { s.ras with tchk := u.ras.tchk } }
                ∧ u.tile = (s.twrite k (h.addr + h.head % (h.depth + 2) * h.rowBytes) (s.tread t (c.aAddr + c.done * h.rowBytes) h.rowBytes)).tile
                ∧ tfind (u.tileSt k).halos ch = some { h with head := h.head + 1 }))))
      ∧ (s.running t .msg 0x34 = some c →
        ((tfind x.halos ch).isSome = true → ∃ u : State, exec (.haloClose t) s = .next (s.keeps (u.finish t .msg)) ∧ u = { s with tiles := u.tiles }
            ∧ tfind (u.tileSt t).halos ch = none ∧ ∀ k, k ≠ t.val → u.tileSt k = s.tileSt k)
        ∧ (s.closeWaits t c = true → exec (.haloClose t) s = .next s)
        ∧ (tfind x.halos ch = none → s.outOld t = true → ∃ u : State, exec (.haloClose t) s = .next (s.keeps (u.finish t .msg)) ∧ u = { s with tiles := u.tiles }
            ∧ (u.tileSt t).outSeq = x.outSeq + 1 ∧ ∀ k, (u.tileSt k).halos = (s.tileSt k).halos)
        ∧ (tfind x.halos ch = none → s.outOld t = false → s.closeWaits t c = false →
          (s.haloPeer t ch = none → exec (.haloClose t) s = .next (s.keeps (s.cmdFault t c 12)))
          ∧ ∀ k h, s.haloPeer t ch = some (k, h) → ∃ u : State, exec (.haloClose t) s = .next (s.keeps (u.finish t .msg)) ∧ u = { s with tiles := u.tiles }
            ∧ tfind (u.tileSt k).halos ch = none ∧ (u.tileSt t).outSeq = x.outSeq + 1 ∧ ∀ n, n ≠ k → (u.tileSt n).halos = (s.tileSt n).halos)))
  ∧
  (∀ (s : State) (t : Fin 256) (c : QCmd), s.sys.released = true →
      let x := s.tileSt t
      (∀ j, s.jobOf t = some j →
        let a := c.u 32 8
        let n := c.u 40 4
        let inGrant : Bool := Config.dramGranted j.part a n && decide (a + n ≤ 56 * 2 ^ 30)
        let moves (op : Nat) (i : Instr) (done : State → Prop) : Prop := s.running t .msg op = some c →
          (inGrant = false → exec i s = .next (s.keeps (s.cmdFault t c 10)))
          ∧ (inGrant = true → ∀ u ok, s.regulate j.part .dram (s.ctxSt j.ctx).cls n (whoOf 2 t) = (u, ok) → (ok = false → exec i s = .next (s.keeps u)) ∧ (ok = true → done u))
        moves 0x35 (.load t) (fun u =>
          (u.dramBad a n ≠ [] → exec (.load t) s = .next (s.keeps ((u.cmdFault t c 13).didRead a n).1))
          ∧ (u.dramBad a n = [] → exec (.load t) s = .next (s.keeps (((((u.useCrops a n).didRead a n).1.twrite t c.outAddr (s.dread a n)).modTile t
              (fun x => { x with loads := noteLoad x.loads a c.outAddr n })).finish t .msg))))
        ∧ moves 0x36 (.store t) (fun u => ∃ (k : Nat) (w : State), x.job = some k ∧ w = { u with jobs := w.jobs } ∧ tfind w.jobs k = some { j with undo := (a, s.dread a n) :: j.undo }
            ∧ exec (.store t) s = .next (s.keeps ((w.dwrite a (s.tread t c.aAddr n)).finish t .msg))))
      ∧ (s.running t .msg 0x37 = some c → x.streamAt = none → c.first = false →
        exec (.streamIn t) s = .next (if (s.ringAt t c.outAddr).endRow = openEnd then s else s.keeps (s.finish t .msg)))
      ∧ (s.running t .msg 0x37 = some c → ∀ side y, x.streamAt = some (side, y) →
        let n := (s.streamEnd c side y).1
        let r := s.streamRing t c y
        (c.u 38 1 ≤ c.done → exec (.streamIn t) s = .next (s.keeps (s.finish t .msg)))
        ∧ (∀ l o, c.done < c.u 38 1 → s.nextLine t n side y = some (l, o) → r.full = true → exec (.streamIn t) s = .next s)
        ∧ (c.u 38 1 = c.done + 1 → ∀ l o, s.nextLine t n side y = some (l, o) → l.lineNo = y → r.full = false →
          let row := streamRow l.planes (c.u 34 2) (c.u 36 2)
          (o = false → 262144 < x.journalBytes + row.length → exec (.streamIn t) s = .next (s.keeps (s.cmdFault t c 9)))
          ∧ (o = true ∨ x.journalBytes + row.length ≤ 262144 →
            ∃ u : State, exec (.streamIn t) s = .next (s.keeps (u.finish t .msg)) ∧ u = { s with tile := u.tile, dirty := u.dirty, tiles := u.tiles, lin := u.lin, ras := { s.ras with tchk := u.ras.tchk } }
              ∧ u.tile = ((s.twrite t (c.outAddr + 32 + y % r.rows * r.pitch) row).putRing t c.outAddr { r with head := r.head + 1 }).tile
              ∧ (u.tileSt t).streamAt = some (side, y + 1)
              ∧ (u.tileSt t).journal = if o then x.journal else x.journal ++ [.line l])))
      ∧ (s.running t .msg 0x38 = some c → ∀ n, x.job = some n →
        (c.done ≠ 0 → exec (.emit t) s = .next s)
        ∧ (c.done = 0 → ∀ rows, replayedAck x.replay = some rows →
          ∃ u : State, exec (.emit t) s = .next (s.keeps (u.finish t .msg)) ∧ u = { s with tile := u.tile, dirty := u.dirty, tiles := u.tiles, ras := { s.ras with tchk := u.ras.tchk } }
            ∧ u.tile = (s.twrite t c.outAddr (rows.flatMap (leBytes 4))).tile ∧ (u.tileSt t).outSeq = x.outSeq + 1)
        ∧ (c.done = 0 → replayedAck x.replay = none →
          ((s.emitRows t c).any (fun r => r.1 != 0 && s.vocabOf r.1 != some (c.u 36 4)) = true → exec (.emit t) s = .next (s.keeps (s.cmdFault t c 12)))
          ∧ ((s.emitRows t c).any (fun r => r.1 != 0 && s.vocabOf r.1 != some (c.u 36 4)) = false →
            ∃ u : State, exec (.emit t) s = .next u ∧ u = { s with tiles := u.tiles, slices := u.slices } ∧ (u.tileSt t).outSeq = x.outSeq + 1
              ∧ u.slices = if x.outSeq + 1 ≤ x.accepted then s.slices
                else s.slices ++ [{ tile := t, job := n, part := c.u 53 1, npart := c.u 52 1, vtotal := c.u 36 4, v0 := c.u 40 4, vn := c.u 48 4, fmt := c.aFmt, out := c.outAddr, rows := s.emitRows t c, cmd := c.index }]))))

/-- A tile that fails in service with a libero free is isolated, its logical tile moves there, its queues are taken back, its messages on the way withdrawn, and it is restored; without one it becomes unmapped. Restored, it goes on from its checkpoint with its journal to replay, or its context is torn down where a word of the checkpoint cannot be corrected (R229-R233, R529). The handshake watchdog 10 µs after the last handshake, a router's link error and a tempo below the floor for 1 ms at V_MAX_MV are such failures; an idle libero too slow leaves the spare pool (R197, R230, R530). -/
def Obligations.TileFailures : Prop :=
  ∀ (s : State), s.sys.released = true →
    (∀ (p : Fin 272) (t q cause : Nat), (s.ptile p).failed = false → s.logicalOf p = some t → s.nearest p = some q → (s.jobOf t).all (fun j => !(s.ctxSt j.ctx).stopping) = true →
      let u := s.failTile p cause
      (u.ptile p).failed = true ∧ (u.tileSt t).restoring = true ∧ (u.tileSt t).mac = [] ∧ (u.tileSt t).vec = [] ∧ (u.tileSt t).msg = [] ∧ (u.tileSt t).barrier = none ∧ (u.tileSt t).buf = []
        ∧ (u.tileSt t).journal = (s.tileSt t).journal ∧ (u.tileSt t).ckpt = (s.tileSt t).ckpt
        ∧ u.fld (PIT_MAP t) PIT_MAP_PHYS = q ∧ bit (u.num PIT_IRQ_STAT) 0 = true ∧ s.memSame u
        ∧ (u.msgs = s.msgs.filter (fun m => m.src != t)) ∧ u.slices = s.slices ∧ ∀ k, k ≠ t → u.tileSt k = s.tileSt k)
    ∧ (∀ (p : Fin 272) (t cause : Nat), (s.ptile p).failed = false → s.logicalOf p = some t → s.nearest p = none → (s.tileSt t).job = none → s.seqs = [] →
      let u := s.failTile p cause
      (u.ptile p).failed = true ∧ u.fld (PIT_MAP t) PIT_MAP_VALID = 0 ∧ bit (u.num PIT_IRQ_STAT) 1 = true)
    ∧ (∀ (p : Fin 272) (cause : Nat), (s.ptile p).failed = true → s.failTile p cause = s)
    ∧ (∀ p : Fin 272, exec (.routerLinkError p) s = .next (s.keeps (s.failTile p 3)))
    ∧ (∀ (p : Fin 272) t, s.logicalOf p = some t → exec (.handshakeWatchdog p) s = .next (if s.tileRuns t = true ∧ s.shouldHandshake t = true ∧ (s.tileSt t).hsTb + 10000 ≤ s.tb then s.keeps (s.failTile p 1) else s))
    ∧ (∀ (p : Fin 272) b, (s.ptile p).low = some b → b + 1000000 ≤ s.tb → (s.ptile p).failed = false → (s.ptile p).removed = false →
      ((s.logicalOf p).isSome = true → exec (.tempoLow p) s = .next (s.keeps ((s.setFld PIT_GOV_STAT PIT_GOV_STAT_TEMPO_LOW 1).failTile p 4)))
      ∧ (s.logicalOf p = none → ∃ u : State, exec (.tempoLow p) s = .next u ∧ (u.ptile p).removed = true ∧ u.tiles = s.tiles ∧ s.memSame u))
    ∧ (∀ (t : Fin 256) k v, (s.tileSt t).restoring = true → (s.tileSt t).ckpt = some k → s.readCkpt t = (v, true) →
      ∃ u : State, exec (.tileRestoreDone t) s = .next (s.keeps (u.dispatchTile t)) ∧ (u.tileSt t).restoring = false ∧ (u.tileSt t).pos = k.pos
        ∧ (u.tileSt t).sems = k.sems ∧ (u.tileSt t).outSeq = k.outSeq ∧ (u.tileSt t).streamAt = k.streamAt ∧ (u.tileSt t).ckptNo = k.no ∧ (u.tileSt t).fails = []
        ∧ (u.tileSt t).journal = (s.tileSt t).journal ∧ ((s.tileSt t).journal = [] → (u.tileSt t).halos = k.halos ∧ (u.tileSt t).replay = []))
    ∧ (∀ (t : Fin 256) v, (s.tileSt t).restoring = true → s.readCkpt t = (v, false) →
      ∃ u : State, exec (.tileRestoreDone t) s = .next (s.keeps (u.tearAt t)) ∧ (u.tileSt t).restoring = false)

/-- A ready job of an LC context that is resident and whose model is there is placed: its first interval fits before the boundary, its pages are there, its descriptor reads well, and of the variants whose tiles it may take the one that holds most of its bytes takes them, BE jobs at a cut making room; before that it waits; where no variant lies in the partition, or all have unmapped tiles, the context is refused. A switch that has taken its time makes its context resident unless the engine is in STANDBY, and a teardown done with RESTART leaves its context IDLE (R206, R233, R394, R395, R400, R405, R407, R408, R529, R564). -/
def Obligations.JobsPlaced : Prop :=
  ∀ (s : State), s.sys.released = true →
    (∀ (ctx : Fin 4096) (job : Nat) (r : ReadyJob), s.on HIF_STAT HIF_STAT_COACH_UP = true → s.standby = false →
      let x := s.ctxSt ctx
      s.ready.filter (fun r => r.ctx == ctx.val && r.info == job) = [r] → x.cls = .lc → x.state = .resident → x.tearing = false →
      (s.partSt x.part).valid = true → (s.partSt x.part).halted = false → (s.partSt x.part).switchIn = none →
      ∀ u ok, s.modelReady x.part x.playbook (s.jobInfo x.playbook job).model = (u, ok) →
        exec (.jobDispatch ctx job) s = .next (s.keeps (if ok then (match r.job with
          | some n => u.continueJob r n
          | none => (u.prepare ctx job r).newJob ctx job r) else u)))
    ∧ (∀ (c job : Nat) (r : ReadyJob),
      let x := s.ctxSt c
      let ji := s.jobInfo x.playbook job
      let rows := s.jobRows c job r
      let mine := s.placesIn c job
      let usable := mine.filter (fun d => d.groupList.all s.groupUsable)
      let fits := s.fits c (ji.wcets.getD 0 0)
      let may (y : State) (d : Place) : Bool := d.groupList.all y.groupFree && y.mayTake c d.groupList
      let u := if x.cls = .lc ∧ usable.any (may s) = false then s.clearGroups x.part (((usable.find? (fun d => d.groupList.all s.groupOpen)).map Place.groupList).getD []) else s
      ((ji.rows ≠ 0 ∧ rowSeqs rows = []) ∨ (rowSeqs rows).all s.pagesReady = false → s.newJob c job r = s)
      ∧ (ji.rows = 0 ∨ rowSeqs rows ≠ [] → (rowSeqs rows).all s.pagesReady = true →
        (mine = [] → s.newJob c job r = s.refuseJob c 12 ((ji.variants.map s.place).headD default))
        ∧ (mine ≠ [] → usable = [] → s.newJob c job r = s.refuseJob c 6 (mine.headD default))
        ∧ (usable ≠ [] → fits = false → s.newJob c job r = s)
        ∧ (usable ≠ [] → fits = true → usable.filter (may u) = [] → s.newJob c job r = u)
        ∧ (fits = true → ∀ d, u.bestPlace x.playbook ji.model (u.chipsOf (rowSeqs rows)) (usable.filter (may u)) = some d → ∀ v good, u.didRead d.addr (64 + 128 * d.groups) = (v, good) →
          (good = false → s.newJob c job r = v)
          ∧ (good = true → s.newJob c job r = v.startJob c job d r.item rows
              (if ji.rows = 0 then [r] else v.ready.filter (fun y => y.ctx == c && y.info == job && y.job.isNone && (rowSeqs rows).contains y.item))))))
    ∧ (∀ (p : Fin 8) c, (s.partSt p).switchIn = some c →
      (s.tb < (s.partSt p).switchTb ∨ s.standby = true → exec (.ctxSwitchDone p) s = .next s)
      ∧ ((s.partSt p).switchTb ≤ s.tb → s.standby = false → (s.ctxSt c).state = .idle →
        ∃ t, exec (.ctxSwitchDone p) s = .next t ∧ (t.ctxSt c).state = .resident ∧ (t.partSt p).switchIn = none ∧ t = { s with parts := t.parts, ctxs := t.ctxs, regs := t.regs }
          ∧ s.regsSame t [SCH_STAT]))
    ∧ (∀ ctx : Fin 4096, (s.ctxSt ctx).tearing = true →
      ((s.ctxSt ctx).state ≠ .faulted → (s.ctxTiles ctx).any s.shouldHandshake = true → exec (.ctxTeardownDone ctx) s = .next s)
      ∧ ((s.ctxSt ctx).state = .faulted → (s.ctxSt ctx).restart = true →
        ∃ t, exec (.ctxTeardownDone ctx) s = .next t ∧ (t.ctxSt ctx).state = .idle ∧ (t.ctxSt ctx).tearing = false ∧ t = { s with ctxs := t.ctxs, regs := t.regs } ∧ s.regsSame t [SCH_STAT])
      ∧ ((s.ctxSt ctx).state = .faulted → (s.ctxSt ctx).restart = false → s.ready.any (fun r => r.ctx == ctx.val) = false →
        ∃ t, exec (.ctxTeardownDone ctx) s = .next t ∧ (t.ctxSt ctx).state = .faulted ∧ (t.ctxSt ctx).tearing = false ∧ t = { s with ctxs := t.ctxs }))

/-- A slot opens at its start less its context's debt, or passes to BE when the debt covers it; it waits for a job that overruns; it ends at its end. A major frame ends at its period: the count of frames goes up, the next begins there, with a selected table in force, and a variant that is due is selected (R393, R394, R396, R397, R409). -/
def Obligations.SlotsAndFrames : Prop :=
  ∀ (s : State) (p : Fin 8) (tab : CycTable), s.sys.released = true → s.activeTable p = some tab →
    let x := s.partSt p
    (∀ l, tab.slots[x.nextSlot]? = some l →
      (x.halted = true ∨ s.reached ((x.frameStart + l.start * 10000) % 2 ^ 48) = false → exec (.slotStart p) s = .next s) ∧ (x.halted = false → s.reached ((x.frameStart + l.start * 10000) % 2 ^ 48) = true →
      (s.overrunning p = true → exec (.slotStart p) s = .next s)
      ∧ (s.overrunning p = false → (s.ctxSt l.ctx).debt < l.len * 10000 →
        ∃ t, exec (.slotStart p) s = .next t ∧ t = { s with parts := t.parts, ctxs := t.ctxs } ∧ (t.partSt p).slot = some x.nextSlot ∧ (t.partSt p).nextSlot = x.nextSlot + 1
          ∧ (t.partSt p).slotEndTb = ((x.frameStart + l.start * 10000) % 2 ^ 48 + l.len * 10000 - (s.ctxSt l.ctx).debt) % 2 ^ 48
          ∧ (t.ctxSt l.ctx).debt = 0 ∧ (∀ k, k ≠ p.val → t.partSt k = s.partSt k) ∧ ∀ k, k ≠ l.ctx → t.ctxSt k = s.ctxSt k)
      ∧ (s.overrunning p = false → l.len * 10000 ≤ (s.ctxSt l.ctx).debt →
        ∃ t, exec (.slotStart p) s = .next t ∧ t = { s with parts := t.parts, ctxs := t.ctxs } ∧ (t.partSt p).slot = none ∧ (t.partSt p).nextSlot = x.nextSlot + 1
          ∧ (t.ctxSt l.ctx).debt = (s.ctxSt l.ctx).debt - l.len * 10000 ∧ ∀ k, k ≠ l.ctx → t.ctxSt k = s.ctxSt k)))
    ∧ (x.slot.isSome = true → s.reached x.slotEndTb = true →
      ∃ t, exec (.slotEnd p) s = .next t ∧ t = { s with parts := t.parts } ∧ t.partSt p = { x with slot := none } ∧ ∀ k, k ≠ p.val → t.partSt k = s.partSt k)
    ∧ (let at_ := (x.frameStart + tab.major * 10000) % 2 ^ 48
      (s.reached at_ = false → exec (.majorFrame p) s = .next s)
      ∧ (s.reached at_ = true →
        ∃ t : State, exec (.majorFrame p) s = .next (s.keeps (t.selectVariant p at_)) ∧ (x.variantDue = false → t.selectVariant p at_ = t)
          ∧ t = { s with parts := t.parts, regs := t.regs } ∧ (t.partSt p).frameStart = at_ ∧ (t.partSt p).slot = none ∧ (t.partSt p).nextSlot = 0
          ∧ (t.partSt p).table = (match x.nextTable with | some k => some k | none => x.table)
          ∧ t.num (SCH_PART_FRAMES p) = (s.num (SCH_PART_FRAMES p) + 1) % 2 ^ 32 ∧ s.regsSame t [SCH_PART_FRAMES p, SCH_PART_TABLE p]))

/-- Every µs each bucket of a valid partition fills by its rate up to its burst, and DRAM requests wait on while the retention write queue is more than half full; escalations and replies that the regulators have let pass go out; at the end of each ms the resources of a partition that were busy for more than 950 µs are saturated, seen, and counted anew, and its scan load shows (R100, R345, R386, R388, R411; log entry 84). -/
def Obligations.BucketsAndSaturation : Prop :=
  ∀ s : State, s.sys.released = true →
    (∃ t : State, exec .bucketTick s = .next (s.keeps ((s.regions.filter (fun r => r.2.escPending.isSome)).foldl (fun s r => s.escTick r.1) (s.kol.escOut.foldl State.escOutOne t)))
      ∧ t = { s with parts := t.parts, regs := t.regs } ∧ ∀ p, p < 8 →
      ((s.partSt p).valid = false → t.partSt p = s.partSt p)
      ∧ ((s.partSt p).valid = true → s.retHeavy = true → (t.partSt p).dramWait = (s.partSt p).dramWait)
      ∧ ((s.partSt p).valid = true → (s.partSt p).dramWait = [] → (s.partSt p).fabWait = [] → (s.partSt p).hdmaWait = [] →
        (t.partSt p).dram = { (s.partSt p).dram with level := min ((s.partSt p).dram.level + (s.partSt p).dram.rate) (s.partSt p).dram.burst }
        ∧ (t.partSt p).fab = { (s.partSt p).fab with level := min ((s.partSt p).fab.level + (s.partSt p).fab.rate) (s.partSt p).fab.burst }
        ∧ (t.partSt p).hdma = { (s.partSt p).hdma with level := min ((s.partSt p).hdma.level + (s.partSt p).hdma.rate) (s.partSt p).hdma.burst }))
    ∧ (∃ t, exec .saturationWindow s = .next t ∧ (∀ p, p < 8 → (s.partSt p).valid = true → (t.partSt p).busy = []
          ∧ t.fld (TOK_SCAN p) TOK_SCAN_SCAN_LOAD = min 1000 ((s.partSt p).busy.getD 1 0)
          ∧ ∀ k, k < 7 → bit (t.partSt p).saturated k = decide (950 < (s.partSt p).busy.getD k 0))
        ∧ t.fld SCH_SATURATION SCH_SATURATION_RESOURCE = ((List.range 8).map (fun p => (t.partSt p).saturated)).foldl (· ||| ·) 0 % 2 ^ 7
        ∧ t.fld SCH_SAT_SEEN SCH_SAT_SEEN_SEEN = (s.fld SCH_SAT_SEEN SCH_SAT_SEEN_SEEN ||| t.fld SCH_SATURATION SCH_SATURATION_RESOURCE)
        ∧ t = { s with parts := t.parts, regs := t.regs, msix := t.msix, msixPend := t.msixPend })

/-- A model's load within its partition's DRAM regulator writes its weights and its table set to their places, makes it resident, and its table set shows; held back by the regulator it waits, and with a word of the playbook that cannot be corrected it is dropped. Frame requests are served one at a time in their order, and a free frame serves one: the page is on the chip with one reference more, its side car cleared; a freed frame starts the requests that wait on its tile again; an LC request that has waited its limit asks BE jobs for their frames, or fails (R299, R318-R321, R331, R387, R401, R529; log entry 98). The page manager's transfers, each within its partition's DRAM regulator, which may hold it back: a spilled page names its DRAM frame, a prefetched one its CHIP frame, a copied one its own copy, and each is counted; a frame whose read fails is not copied; a drop raises its interrupt unless a frame is locked by then; the DRAM pages of a job that is due get requests (R311, R312, R314-R316, R319, R324, R387, R526, R528; log entry 48). -/
def Obligations.FramesAndPages : Prop :=
  (∀ s : State, s.sys.released = true →
      (∀ (pb : Word) m r, s.modelRes pb.toNat m = some r → r.loading = true →
        let reg := s.regulate r.part .dram r.cls (((s.model pb.toNat m).map (·.bytes)).getD 0) (whoOf 4 (pb.toNat * 65536 + m))
        (reg.2 = false → exec (.modelLoadDone pb m) s = .next (s.keeps reg.1))
        ∧ (reg.2 = true → ∀ u good, reg.1.didRead (Config.playbookPlace pb.toNat) (((tfind s.playbooks pb.toNat).map (·.bytes)).getD 0) = (u, good) →
          (good = false → exec (.modelLoadDone pb m) s = .next (s.keeps (u.dropModel pb.toNat m)))
          ∧ (good = true → ∃ v : State, exec (.modelLoadDone pb m) s = .next (s.keeps v.freshTsets.advertise)
            ∧ v.modelRes pb.toNat m = some { r with loading := false, lastUse := s.tb } ∧ v = { u with models := v.models, dram := v.dram, retQueue := v.retQueue, ras := { u.ras with chk := v.ras.chk } }
            ∧ v.dram = ((u.dwrite (Config.modelPlace pb.toNat m) (Config.modelImage (s.dread (Config.playbookPlace pb.toNat) (((tfind s.playbooks pb.toNat).map (·.bytes)).getD 0)) m)).dwrite
                r.region (s.tsetImage pb.toNat m)).dram)))
      ∧ (∀ req n y, s.firstReq = some (n, y) →
        (n ≠ req ∨ s.reqBusy = true → exec (.frameRequest req) s = .next s)
        ∧ (n = req → s.reqBusy = false → ∀ u ok, s.tryReq req y = (u, ok) → exec (.frameRequest req) s = .next (s.keeps (if ok then u else s.unserved req y))))
      ∧ (∀ n r f q, s.freeLocal r.tile = some f → s.tryReq n r = (s.serveReq n r f, true)
          ∧ (tfind s.seqs r.seq = some q → q.ending = .running → r.copyOf = none → (q.pte r.set r.page).tier ≠ .dram → (q.pte r.set r.page).tier ≠ .chip → r.set < q.tables.length → r.page ≤ (q.tables.getD r.set []).length →
            ∃ w, tfind (s.serveReq n r f).seqs r.seq = some w ∧ w.pte r.set r.page = { tier := .chip, fill := r.fill, frame := chipKey r.tile f }
              ∧ tget 0 (s.serveReq n r f).refs (chipKey r.tile f) = tget 0 s.refs (chipKey r.tile f) + 1 ∧ (s.serveReq n r f).reqs = tdel s.reqs n)
          ∧ (tfind s.seqs r.seq = none → (s.serveReq n r f).seqs = s.seqs ∧ (s.serveReq n r f).refs = s.refs ∧ (s.serveReq n r f).reqs = tdel s.reqs n))
      ∧ (∀ t : Fin 256, (s.reqs = [] → exec (.frameFreed t) s = .next s)
          ∧ ∀ n r, s.reqs = [(n, r)] → r.tile = t → s.reqBusy = false →
            let again := { r with waiting := false }
            let v := { s with reqs := [(n, again)] }
            ∀ u ok, v.tryReq n again = (u, ok) → exec (.frameFreed t) s = .next (s.keeps (if ok then u else v.unserved n again)))
      ∧ (∀ req r, tfind s.reqs req = some r →
        let due := r.cls = .lc ∧ r.preempted = false ∧ r.waiting = true ∧ r.since + s.fld PGM_WAIT_LIMIT PGM_WAIT_LIMIT_WAIT_US * 1000 ≤ s.tb
        let js := s.jobs.filter (fun j => j.2.part == r.part && (s.ctxSt j.2.ctx).cls == .be && j.2.holding && s.jobLocks j.2 r.tile)
        (¬due → exec (.frameWaitExpiry req) s = .next s)
        ∧ (due → s.xfers = [] →
          (js = [] → exec (.frameWaitExpiry req) s = .next (s.keeps (s.failReq req r)))
          ∧ (js ≠ [] → exec (.frameWaitExpiry req) s = .next (s.keeps (js.foldl (fun s j => s.askPreempt j.1 false)
              (js.foldl (fun s j => s.modJob j.1 (fun j => { j with preempt := true })) { s with reqs := tupd s.reqs req (fun r => { r with preempted := true }) })))))))
  ∧
  (∀ (s : State) (n : Nat), s.sys.released = true →
      let passes (seq : Nat) (i : Instr) (done : State → Prop) : Prop :=
        ∀ u ok, s.regulate (s.item seq).part .dram (s.item seq).cls 4224 (whoOf 3 n) = (u, ok) → (ok = false → exec i s = .next (s.keeps u)) ∧ (ok = true → done u)
      (∀ seq set page c d req q, tfind s.xfers n = some (.spill seq set page c d req) → tfind s.seqs seq = some q → (q.pte set page).tier = .chip → (q.pte set page).frame = c → tget 0 s.refs c ≠ 0 →
        passes seq (.spillDone n) (fun u => ∀ v good, u.readFrame c = (v, good) →
          (good = false → exec (.spillDone n) s = .next (s.keeps (({ v with xfers := tdel v.xfers n } : State).takeFreed req (c / 64))))
          ∧ (good = true → ∃ (v : State) (w : Seq), exec (.spillDone n) s = .next (s.keeps (v.takeFreed req (c / 64))) ∧ tfind v.seqs seq = some w
            ∧ w.pte set page = { q.pte set page with tier := .dram, frame := d } ∧ tfind v.xfers n = none ∧ v.num PGM_SPILL_CNT = min (s.num PGM_SPILL_CNT + 1) 0xFFFFFFFF)))
      ∧ (∀ seq set page d c q, tfind s.xfers n = some (.prefetch seq set page d c) → tfind s.seqs seq = some q → (q.pte set page).tier = .dram → dramKey (q.pte set page).frame = d →
        c < 2 ^ 24 → tget 0 s.refs d ≠ 0 →
        passes seq (.prefetchDone n) (fun u => ∀ v good, ({ u with xfers := tdel u.xfers n } : State).readFrame d = (v, good) →
          (good = false → exec (.prefetchDone n) s = .next (s.keeps (if tget 0 v.refs d = 0 then v.frameFreed (c / 64) else ((v.setFrame c (v.frameBytes d)).renameFrame d c).incReg PGM_PREFETCH_CNT)))
          ∧ (good = true → ∃ t w, exec (.prefetchDone n) s = .next t ∧ tfind t.seqs seq = some w ∧ w.pte set page = { q.pte set page with tier := .chip, frame := c }
            ∧ tfind t.xfers n = none ∧ t.num PGM_PREFETCH_CNT = min (s.num PGM_PREFETCH_CNT + 1) 0xFFFFFFFF)))
      ∧ (∀ seq set page src dst q, tfind s.xfers n = some (.cow seq set page src dst) → tfind s.seqs seq = some q → q.ending = .running → (q.pte set page).tier = .chip → (q.pte set page).frame = src →
        passes seq (.cowDone n) (fun u => ∀ v good, u.readFrame src = (v, good) →
          (good = false → src < 2 ^ 24 → exec (.cowDone n) s = .next (s.keeps v))
          ∧ (good = true → ∃ t w, exec (.cowDone n) s = .next t ∧ tfind t.seqs seq = some w ∧ w.pte set page = { q.pte set page with frame := dst }
            ∧ tfind t.xfers n = none ∧ t.num PGM_COW_CNT = min (s.num PGM_COW_CNT + 1) 0xFFFFFFFF)))
      ∧ (∀ seq req q, tfind s.xfers n = some (.drop seq (some req)) → tfind s.seqs seq = some q →
        ∃ v : State, (∀ r, tfind s.reqs req = some r → exec (.dropDone n) s = .next (s.keeps ((((q.chips).map (· / 64)).eraseDups).foldl State.frameFreed (v.takeFreed (some req) r.tile))))
          ∧ tfind v.xfers n = none
          ∧ (((q.tables.flatMap id).filterMap frameKey).any ({ s with xfers := tdel s.xfers n } : State).locked = true → v = { s with xfers := tdel s.xfers n })
          ∧ (((q.tables.flatMap id).filterMap frameKey).any ({ s with xfers := tdel s.xfers n } : State).locked = false → bit (v.num PGM_IRQ_STAT) 1 = true))
      ∧ (∀ (p : Fin 8) r, s.ready = [r] → (s.ctxSt r.ctx).part = p → (s.ctxSt r.ctx).cls = .be →
        let v := (s.jobSeqs r).foldl (fun s i => s.prefetchSeq i (s.ctxSt r.ctx).cls) s
        exec (.prefetchStart p) s = .next (s.keeps (((v.reqs.map (fun r => r.2.tile)).eraseDups).foldl (fun s t => s.frameFreed t) v)))
      ∧ (∀ i q m k p cls, tfind s.seqs i = some q → s.model q.playbook q.model = some m → k < q.tables.length → p < (q.tables.getD k []).length → (q.pte k p).tier = .dram →
        s.xfers = [] → (∀ e ∈ s.reqs, e.1 < s.nextReq) →
        (s.prefetchSeq i cls).reqs.any (fun r => r.2.seq == i && r.2.set == k && r.2.page == p) = true))

/-- Links: the symbols that the decoder corrects in a codeword are counted; an uncorrectable one is counted and raised, and its discarded flits are asked for again; an enabled port that has trained says so, aligns afresh with nothing on the way, and restarts at training when alignment is lost or no good flit has come for 50 µs; a KEEPALIVE names this device; flits whose ACK stands still for 4 µs are all sent again. The flit stream leaves in codewords of 544 symbols: a header with CW_SEQ and 0xA5, 5,120 bits of the stream MSB first, each fourth symbol on its lane (R417-R420, R423, R425, R427, R428; log entry 85). Flits: nothing is taken on a port that is not aligned; a flit with a bad CRC, or out of order, is counted or discarded and one REPLAY asks for it; one in order moves the expected sequence on and is routed; a NULL flit brings its ACK and credits, a KEEPALIVE its neighbour, a REPLAY every buffered flit again; with a KEEPALIVE and credits on all VCs the link is UP (R421, R423-R427, R468). -/
def Obligations.LinksAndFlits : Prop :=
  (∀ (s : State) (n : Fin 6), s.sys.released = true →
      (∀ words, s.on (KOL_PORT_STAT n) KOL_PORT_STAT_TRAINED = false → exec (.codewordUncorrectable n words) s = .next s)
      ∧ (∀ w cw k, s.on (KOL_PORT_STAT n) KOL_PORT_STAT_TRAINED = true → rs544Decode w = some (cw, k) → ∃ t, exec (.codewordUncorrectable n [w]) s = .next t
          ∧ t.num (KOL_FEC_CORR n) = min (s.num (KOL_FEC_CORR n) + k) 0xFFFFFFFF ∧ t = { s with regs := t.regs } ∧ s.regsSame t [KOL_FEC_CORR n])
      ∧ (∀ w, s.on (KOL_PORT_STAT n) KOL_PORT_STAT_TRAINED = true → rs544Decode w = none → ∃ t, exec (.codewordUncorrectable n [w]) s = .next t
          ∧ t.num (KOL_FEC_UNCORR n) = min (s.num (KOL_FEC_UNCORR n) + 1) 0xFFFFFFFF ∧ bit (t.num (KOL_IRQ_STAT n)) 3 = true
          ∧ (s.aligned n = true → (s.kport n).replayTb = none → ∃ g, (t.kport n).sent = g :: (s.kport n).sent ∧ leAt g 4 1 = 2 ∧ flitGood g = true ∧ (t.kport n).replayTb = some s.tb)
          ∧ (s.aligned n = false → t.kol = s.kol)
          ∧ t = { s with regs := t.regs, msix := t.msix, msixPend := t.msixPend, kol := t.kol } ∧ s.regsSame t [KOL_FEC_UNCORR n, KOL_IRQ_STAT n])
      ∧ (s.on (KOL_PORT_CTL n) KOL_PORT_CTL_EN = true → exec (.trainingDone n) s = .next (s.setFld (KOL_PORT_STAT n) KOL_PORT_STAT_TRAINED 1))
      ∧ (s.on (KOL_PORT_CTL n) KOL_PORT_CTL_EN = false → exec (.trainingDone n) s = .next s)
      ∧ (s.on (KOL_PORT_STAT n) KOL_PORT_STAT_TRAINED = false ∨ s.aligned n = true → exec (.portAligned n) s = .next s)
      ∧ (s.on (KOL_PORT_STAT n) KOL_PORT_STAT_TRAINED = true → s.aligned n = false →
        ∃ t, exec (.portAligned n) s = .next t ∧ t.on (KOL_PORT_STAT n) KOL_PORT_STAT_ALIGNED = true ∧ (t.kport n).buffer = [] ∧ (t.kport n).ready = []
          ∧ (t.kport n).txSeq = 0 ∧ (t.kport n).rxExp = 0 ∧ (t.kport n).gotKeepalive = false ∧ t = { s with regs := t.regs, kol := t.kol } ∧ s.regsSame t [KOL_PORT_STAT n])
      ∧ (exec (.alignLost n) s = .next (if s.aligned n then s.keeps ((s.linkDown n).retrain n) else s))
      ∧ (s.linkUp n = true → (s.kport n).lastGood + 50000 ≤ s.tb → exec (.linkSilence n) s = .next (s.keeps ((s.linkDown n).retrain n)))
      ∧ (s.linkUp n = false → s.linkDown n = s)
      ∧ ((s.retrain n).on (KOL_PORT_STAT n) KOL_PORT_STAT_TRAINED = false ∧ (s.retrain n).on (KOL_PORT_STAT n) KOL_PORT_STAT_ALIGNED = false ∧ ((s.retrain n).kport n).stream = [])
      ∧ ((s.kport n).buffer ≠ [] → (s.kport n).ackTb + 4000 ≤ s.tb →
        ∃ t, exec (.ackStallReplay n) s = .next t ∧ (t.kport n).sent = ((s.kport n).buffer.map (·.2)).reverse ++ (s.kport n).sent ∧ (t.kport n).buffer = (s.kport n).buffer
          ∧ (t.kport n).stream = (s.kport n).stream ++ ((s.kport n).buffer.map (·.2)).flatten
          ∧ t.fld (KOL_LINK_ERR n) KOL_LINK_ERR_REPLAYS = min (s.fld (KOL_LINK_ERR n) KOL_LINK_ERR_REPLAYS + 1) (fmax KOL_LINK_ERR_REPLAYS)
          ∧ t = { s with regs := t.regs, kol := t.kol })
      ∧ (s.aligned n = true → ∃ t f, exec (.keepaliveSend n) s = .next t ∧ (t.kport n).sent = f :: (s.kport n).sent ∧ t = { s with kol := t.kol }
          ∧ (t.kport n).stream = (s.kport n).stream ++ f
          ∧ flitGood f = true ∧ leAt f 4 1 = 1 ∧ leAt f 6 1 = n.val ∧ leAt f 7 1 = (if s.addr?.isSome then 1 else 0) ∧ leAt f 8 8 = s.pair SYS_SERIAL_LO)
      ∧ (s.aligned n = false → exec (.keepaliveSend n) s = .next s)
      ∧ (∀ (p : KPort) (pre : Bool), 640 ≤ p.stream.length →
        let q := p.sendCodeword pre
        q.cwSeq = (p.cwSeq + 1) % 4096 ∧ q.stream = p.stream.drop 640
          ∧ ∃ cw : List Nat, cw.length = 544 ∧ cw.take 2 = [(p.cwSeq % 4096 * 256 + 0xA5) / 1024, (p.cwSeq % 4096 * 256 + 0xA5) % 1024] ∧ (∀ x ∈ cw.take 514, x < 1024)
            ∧ ((cw.drop 2).take 512).foldl (fun a x => a * 1024 + x) 0 = (p.stream.take 640).foldl (fun a b => a * 256 + b.toNat) 0
            ∧ ∀ l, l < 4 → q.lanes.getD l [] = (List.range 136).map (fun k => cw.getD (4 * k + l) 0)))
  ∧
  (∀ (s : State) (n : Fin 6) (f : List Byte), s.sys.released = true →
      let h := leAt f 0 4
      let u := s.modKport n (fun p => { p with lastGood := s.tb })
      (s.aligned n = false → exec (.flitReceived n f) s = .next s ∧ exec (.idleFlit n f) s = .next s ∧ exec (.keepalive n f) s = .next s ∧ exec (.replayReq n f) s = .next s)
      ∧ (s.aligned n = true → f.length = 256 →
        (flitGood f = false → bit h 29 = false →
          exec (.flitReceived n f) s = .next (s.keeps ((s.incFld (KOL_LINK_ERR n) KOL_LINK_ERR_CRC_BAD).discardFlit n)))
        ∧ (flitGood f = false → bit h 29 = true → exec (.flitReceived n f) s = .next (s.incFld (KOL_LINK_ERR n) KOL_LINK_ERR_CRC_BAD))
        ∧ (flitGood f = true → bit h 29 = false → h / 2 ^ 17 % 4096 ≠ (s.kport n).rxExp → exec (.flitReceived n f) s = .next (s.keeps (u.discardFlit n)))
        ∧ (flitGood f = true → bit h 29 = false → h / 2 ^ 17 % 4096 = (s.kport n).rxExp →
          ∃ v : State, exec (.flitReceived n f) s = .next (s.keeps (((v.routeFlit n (h / 2 ^ 30) ((f.take 252).drop 4)).tryUp n).serve n))
            ∧ (v.kport n).rxExp = ((s.kport n).rxExp + 1) % 4096 ∧ v = { s with kol := v.kol })
        ∧ (flitGood f = true → bit h 29 = true →
          (leAt f 4 1 = 0 → exec (.idleFlit n f) s = .next (s.keeps (((u.takeHeader n h).tryUp n).serve n)))
          ∧ (leAt f 4 1 = 1 → ∃ v : State, exec (.keepalive n f) s = .next (s.keeps ((v.tryUp n).serve n)) ∧ v.fld (KOL_NEIGH n) KOL_NEIGH_ADDR = leAt f 5 1
              ∧ v.fld (KOL_NEIGH n) KOL_NEIGH_ADDR_VALID = leAt f 7 1 % 2 ∧ (v.kport n).neighSerial = some (leAt f 8 8) ∧ (v.kport n).gotKeepalive = true
              ∧ v.pair (KOL_NEIGH_SERIAL_LO n) = leAt f 8 8)
          ∧ (leAt f 4 1 = 2 → exec (.replayReq n f) s = .next (s.keeps ((((u.takeHeader n h).resend n).tryUp n).serve n)))))
      ∧ (((s.kport n).replayTb = none → ∃ g, ((s.discardFlit n).kport n).sent = g :: (s.kport n).sent ∧ leAt g 4 1 = 2 ∧ flitGood g = true ∧ ((s.discardFlit n).kport n).replayTb = some s.tb)
        ∧ ∀ b, (s.kport n).replayTb = some b → s.tb < b + 2000 → s.discardFlit n = s)
      ∧ (s.linkUp n = true → s.tryUp n = s)
      ∧ (s.linkUp n = false → s.aligned n = true → (s.kport n).gotKeepalive = true → (∀ v, v < 4 → v ∈ (s.kport n).seenCredit) → s.addr? = none →
        (s.tryUp n).linkUp n = true ∧ bit ((s.tryUp n).num (KOL_IRQ_STAT n)) 1 = true ∧ ((s.tryUp n).tport n).burst = 16 ∧ s.tryUp n = { s with regs := (s.tryUp n).regs, msix := (s.tryUp n).msix, msixPend := (s.tryUp n).msixPend, tim := (s.tryUp n).tim }))

/-- The huddle: HELLO with a later epoch starts it, within it the lowest candidate is kept; the lowest candidate becomes root at address 0 after 1 ms, or starts a new huddle beside addressed devices and beside a device of another fabric; ASSIGN gives this device its address and sends its REPORT, or goes on; the root takes REPORTs and addresses level by level in ascending order (R440, R441; log entries 11 and 57). The huddle ends: a device in the MAP takes its address and route table and answers DONE, one left out ends without an address; the root collects every DONE, floods its own, and HUDDLE_DONE sets; without a huddle in time kickoff goes on with HUDDLE_TIMEOUT and no address (R436, R442-R444, R561). -/
def Obligations.Huddle : Prop :=
  (∀ (s : State) (n : Fin 6), s.sys.released = true →
      (exec .helloSend s = .next (s.keeps (s.upPorts.foldl (fun s n => s.sendLocal n vcCtl (mkMsg 0x01 0 0 0 s.now [] (Config.msgBody 0x01 [s.serial, n, s.epoch, s.kol.huddle.lowest]))) s)))
      ∧ (∀ (serial : BitVec 64) (sport : BitVec 3) (epoch : BitVec 16) (lowest : BitVec 64), 
        (s.linkUp n = false ∨ sdiff 16 epoch.toNat s.epoch < 0 ∨ (sdiff 16 epoch.toNat s.epoch = 0 ∧ s.kol.huddle.lowest ≤ lowest.toNat) → exec (.hello n serial sport epoch lowest) s = .next (s.took (256 + n) 0x01))
        ∧ (s.linkUp n = true → sdiff 16 epoch.toNat s.epoch = 0 → lowest.toNat < s.kol.huddle.lowest →
          ∃ t, exec (.hello n serial sport epoch lowest) s = .next t ∧ t.kol.huddle = { s.kol.huddle with lowest := lowest.toNat, lowestTb := s.tb } ∧ t = { s with kol := t.kol })
        ∧ (s.linkUp n = true → 0 < sdiff 16 epoch.toNat s.epoch →
          ∃ t, exec (.hello n serial sport epoch lowest) s = .next t ∧ t.epoch = epoch.toNat ∧ t.kol.huddle.running = true
            ∧ t.kol.huddle.lowest = min (if s.rootElig then s.serial else 2 ^ 64 - 1) lowest.toNat ∧ t.addr? = none))
      ∧ (let lowest := s.rootElig = true ∧ s.kol.huddle.lowest = s.serial ∧ s.kol.huddle.lowestTb + 1000000 ≤ s.tb
        let joins := lowest ∧ s.kol.huddle.other = true ∧ s.upPorts ≠ []
        let due := lowest ∨ (s.upPorts = [] ∧ s.kol.huddle.running = true)
        (joins → exec .huddleRootStart s = .next (s.keeps (s.startHuddle ((s.epoch + 1) % 65536))))
        ∧ (¬joins → ¬due ∨ s.addr?.isSome = true ∨ s.on KOL_STAT KOL_STAT_ROOT = true → exec .huddleRootStart s = .next s)
        ∧ (¬joins → due → s.addr? = none → s.on KOL_STAT KOL_STAT_ROOT = false →
        ((s.kol.huddle.running = false ∨ s.neighAddressed = true) → exec .huddleRootStart s = .next (s.keeps (s.startHuddle ((s.epoch + 1) % 65536))))
        ∧ (s.kol.huddle.running = true → s.neighAddressed = false → ∃ v : State, exec .huddleRootStart s = .next (s.keeps v.levelStep) ∧ v.on KOL_STAT KOL_STAT_ROOT = true
            ∧ v.fld KOL_STAT KOL_STAT_ADDR = 0 ∧ v.kol.huddle.known = [(0, s.serial)] ∧ v.kol.huddle.reports = [(s.serial, s.ownReport)] ∧ v.kol.huddle.nextAddr = 1 ∧ v.kol.huddle.level = 0)))
      ∧ (let h := s.kol.huddle
        (h.known.filter (fun k => h.levelFrom ≤ k.1)).all (fun k => (h.reportOf k.2).isSome) = true → h.candidates ≠ [] → h.level < 16 → h.candidates.length ≤ 256 - h.nextAddr →
        s.levelStep = (List.range h.candidates.length).foldl (fun s k => s.sendAssign (h.candidates.getD k 0) (h.nextAddr + k))
          (s.modHuddle (fun h => { h with level := h.level + 1, levelFrom := h.nextAddr, nextAddr := h.nextAddr + s.kol.huddle.candidates.length })))
      ∧ ((s.kol.huddle.known.filter (fun k => s.kol.huddle.levelFrom ≤ k.1)).all (fun k => (s.kol.huddle.reportOf k.2).isSome) = false → s.levelStep = s)
      ∧ ((s.kol.huddle.known.filter (fun k => s.kol.huddle.levelFrom ≤ k.1)).all (fun k => (s.kol.huddle.reportOf k.2).isSome) = true →
        (s.kol.huddle.candidates = [] → s.levelStep = s.sendMap) ∧ (s.kol.huddle.candidates ≠ [] → 16 ≤ s.kol.huddle.level ∨ 256 ≤ s.kol.huddle.nextAddr → s.levelStep = (s.setFld KOL_STAT KOL_STAT_OVERFLOW 1).sendMap)
        ∧ (s.kol.huddle.level < 16 → s.kol.huddle.nextAddr < 256 → 256 - s.kol.huddle.nextAddr < s.kol.huddle.candidates.length →
          s.levelStep = (List.range (256 - s.kol.huddle.nextAddr)).foldl (fun v k => v.sendAssign (s.kol.huddle.candidates.getD k 0) (s.kol.huddle.nextAddr + k))
            ((s.setFld KOL_STAT KOL_STAT_OVERFLOW 1).modHuddle (fun h => { h with level := h.level + 1, levelFrom := h.nextAddr, nextAddr := 256 }))))
      ∧ (∀ (serial : BitVec 64) (addr : BitVec 8) (epoch : BitVec 16), 
        let takes := s.linkUp n = true ∧ s.kol.huddle.running = true ∧ s.on KOL_STAT KOL_STAT_ROOT = false ∧ epoch.toNat = s.epoch
        (¬takes → exec (.assign n serial addr epoch) s = .next (s.took (256 + n) 0x02)) ∧ (takes →
        (serial.toNat = s.serial → ∃ v : State, exec (.assign n serial addr epoch) s = .next (s.keeps (v.sendReport s.serial s.ownReport)) ∧ v.fld KOL_STAT KOL_STAT_ADDR = addr.toNat
            ∧ v.kol.huddle.parentPort = some n.val)
        ∧ (serial.toNat ≠ s.serial → exec (.assign n serial addr epoch) s = .next (s.keeps ((s.took (256 + n) 0x02).sendAssign serial.toNat addr.toNat)))))
      ∧ (∀ (serial : BitVec 64) (neigh : List NeighRep),
        (s.linkUp n = false ∨ s.kol.huddle.running = false → exec (.report n serial neigh) s = .next (s.took (256 + n) 0x03)) ∧ (s.linkUp n = true → s.kol.huddle.running = true →
        ∃ v : State, v.kol.huddle.reportOf serial.toNat = some neigh ∧ v = { s with kol := v.kol }
          ∧ (s.on KOL_STAT KOL_STAT_ROOT = true → exec (.report n serial neigh) s = .next (s.keeps v.levelStep))
          ∧ (s.on KOL_STAT KOL_STAT_ROOT = false → exec (.report n serial neigh) s = .next (s.keeps (v.sendReport serial.toNat neigh))))))
  ∧
  (∀ (s : State) (n : Fin 6) (src : BitVec 8) (seq : BitVec 16), s.sys.released = true →
      (∀ devs : List MapDev, s.kol.huddle.running = false → exec (.mapMsg n src seq devs) s = .next (s.took src.toNat 0x04))
      ∧ (∀ devs : List MapDev, s.kol.huddle.running = true → s.linkUp n = true → s.addr? ≠ some src.toNat → s.kol.floodDone.contains (src.toNat, seq.toNat) = false →
        ∃ w : State, w = { s with kol := w.kol, tim := w.tim } ∧ w.kol.floodDone.contains (src.toNat, seq.toNat) = true
          ∧ (∀ v, w.applyMap devs = (v, false) → exec (.mapMsg n src seq devs) s = .next (s.keeps v.endHuddle))
          ∧ (∀ v p, w.applyMap devs = (v, true) → v.routePort src.toNat = some p → 
            exec (.mapMsg n src seq devs) s = .next (s.keeps (if p < 6 then (v.queueFlits p (v.msgFlits src.toNat 0 0 vcCtl (mkMsg 0x05 0 0 0 v.now [] []))).bumpMsg else v)))
          ∧ (∀ v, w.applyMap devs = (v, true) → v.routePort src.toNat = none → exec (.mapMsg n src seq devs) s = .next (s.keeps v)))
      ∧ (∀ (devs : List MapDev) d, devs.find? (fun d => d.serial.toNat == s.serial) = some d →
        ∃ v, s.applyMap devs = (v, true) ∧ v.addr? = some (d.addr % 256) ∧ v.kol.huddle.map = devs ∧ v.kol.down = [] ∧ v.kol.adverts = [])
      ∧ (s.kol.huddle.running = false ∨ s.addr? = none → ∀ flood, exec (.doneMsg n src flood seq) s = .next (s.took src.toNat 0x05))
      ∧ (s.on KOL_STAT KOL_STAT_ROOT = false → exec (.doneMsg n src false seq) s = .next (s.took src.toNat 0x05))
      ∧ (s.kol.huddle.running = true → s.addr?.isSome = true →
        (s.on KOL_STAT KOL_STAT_ROOT = true → exec (.doneMsg n src false seq) s = .next (s.keeps ((s.took src.toNat 0x05).modHuddle (fun h => { h with dones := src.toNat :: h.dones })).doneCheck))
        ∧ (s.linkUp n = true → s.addr? ≠ some src.toNat → s.kol.floodDone.contains (src.toNat, seq.toNat) = false →
          ∃ w : State, w = { s with kol := w.kol, tim := w.tim } ∧ exec (.doneMsg n src true seq) s = .next (s.keeps w.huddleDone)))
      ∧ ((s.kol.huddle.known.all (fun k => s.kol.huddle.dones.contains k.1) = true → s.doneCheck = (s.sendFlood 0x05 []).huddleDone)
        ∧ (s.kol.huddle.known.all (fun k => s.kol.huddle.dones.contains k.1) = false → s.doneCheck = s))
      ∧ ((s.on HIF_STAT HIF_STAT_COACH_UP = false ∨ s.sys.huddleEnd = true ∨ s.tb < s.sys.huddleWait + s.num SYS_HUDDLE_WAIT * 1000000) → exec .huddleWaitExpiry s = .next s)
      ∧ (s.on HIF_STAT HIF_STAT_COACH_UP = true → s.sys.huddleEnd = false → s.sys.huddleWait + s.num SYS_HUDDLE_WAIT * 1000000 ≤ s.tb →
        ∃ v : State, exec .huddleWaitExpiry s = .next (s.keeps v.endHuddle) ∧ v.on SYS_BOOT_STAT SYS_BOOT_STAT_HUDDLE_TIMEOUT = true ∧ v.addr? = none ∧ v.sys.huddleEnd = true
          ∧ v = { s with regs := v.regs, sys := v.sys }))

/-- Floods are taken once: a LINK_DOWN or LINK_UP marks its link end and recomputes the routes, a MODEL_ADVERT keeps what a device holds, and a repeat does nothing. POST and WRITE act once and answer RESP, QUEUE_FULL or WINDOW where they cannot; RESP completes its command; a transaction unanswered for 500 µs is sent again three times and then fails (R435, R438, R439, R445, R455). -/
def Obligations.FabricMessages : Prop :=
  ∀ (s : State) (n : Fin 6) (src : BitVec 8) (seq : BitVec 16), s.sys.released = true →
    ((s.linkUp n = false ∨ s.addr? = some src.toNat ∨ (s.addr? = none ∧ s.kol.huddle.running = false)) →
      (∀ link, exec (.linkDownMsg n src seq link) s = .next (s.took src.toNat 0x06)) ∧ (∀ link, exec (.linkUpMsg n src seq link) s = .next (s.took src.toNat 0x07))
        ∧ ∀ models, exec (.modelAdvert n src seq models) s = .next (s.took src.toNat 0x08))
    ∧ (s.linkUp n = true → s.addr? ≠ some src.toNat → (s.addr?.isSome = true ∨ s.kol.huddle.running = true) →
      (s.kol.floodDone.contains (src.toNat, seq.toNat) = false →
        (∀ link, ∃ w : State, exec (.linkDownMsg n src seq link) s = .next (s.keeps (w.linkReport true link.addr link.port)) ∧ w = { s with kol := w.kol, tim := w.tim })
        ∧ (∀ link, ∃ w : State, exec (.linkUpMsg n src seq link) s = .next (s.keeps (w.linkReport false link.addr link.port)) ∧ w = { s with kol := w.kol, tim := w.tim })
        ∧ (∀ models, ∃ t, exec (.modelAdvert n src seq models) s = .next t ∧ tfind t.kol.adverts src.toNat = some models ∧ t = { s with kol := t.kol, tim := t.tim }))
      ∧ (s.kol.floodDone.contains (src.toNat, seq.toNat) = true →
        (∀ link, exec (.linkDownMsg n src seq link) s = .next (s.took src.toNat 0x06)) ∧ (∀ link, exec (.linkUpMsg n src seq link) s = .next (s.took src.toNat 0x07))
        ∧ ∀ models, exec (.modelAdvert n src seq models) s = .next (s.took src.toNat 0x08)))
    ∧ (∀ (vc : BitVec 2) (txn : Word) (stamp : Stamp) (arg : BitVec 64) (body : List Byte),
      (s.addr? = none → exec (.post src vc txn stamp arg body) s = .next (s.took src.toNat 0x10) ∧ exec (.writeMsg src vc txn arg body) s = .next (s.took src.toNat 0x11))
      ∧ (s.addr?.isSome = true →
      (∀ m, s.doneTxn src.toNat txn.toNat = some m → exec (.post src vc txn stamp arg body) s = .next (s.keeps ((s.took src.toNat 0x10).sendTo src.toNat vc.toNat m))
          ∧ exec (.writeMsg src vc txn arg body) s = .next (s.keeps ((s.took src.toNat 0x11).sendTo src.toNat vc.toNat m)))
      ∧ (s.doneTxn src.toNat txn.toNat = none →
        (∀ w, s.hold.any (fun h => h.ring == arg.toNat % 64) = false →
          (s.took src.toNat 0x10).ringWrite (arg.toNat % 64) [postRecord src.toNat vc.toNat txn.toNat stamp arg.toNat body] = some w →
          exec (.post src vc txn stamp arg body) s = .next (s.keeps (w.resp src.toNat vc.toNat txn.toNat 0)))
        ∧ ((s.hold.any (fun h => h.ring == arg.toNat % 64) = true ∨ (s.took src.toNat 0x10).ringWrite (arg.toNat % 64) [postRecord src.toNat vc.toNat txn.toNat stamp arg.toNat body] = none) →
          exec (.post src vc txn stamp arg body) s = .next (s.keeps ((s.took src.toNat 0x10).resp src.toNat vc.toNat txn.toNat 2)))
        ∧ (let k := arg.toNat % 8
          let off := arg.toNat / 2 ^ 32
          let admits := s.on (KOL_WIN_CFG k) KOL_WIN_CFG_VALID && (s.on (KOL_WIN_CFG k) KOL_WIN_CFG_ANY_SRC || s.fld (KOL_WIN_CFG k) KOL_WIN_CFG_SRC == src.toNat)
          (admits = true → off + body.length ≤ s.num (KOL_WIN_SIZE k) * 1024 → exec (.writeMsg src vc txn arg body) s = .next
            (s.keeps (((s.took src.toNat 0x11).dwrite (s.pair (KOL_WIN_BASE_LO k) / 4096 * 4096 + off) body).resp src.toNat vc.toNat txn.toNat 0)))
          ∧ ((admits = false ∨ s.num (KOL_WIN_SIZE k) * 1024 < off + body.length) → exec (.writeMsg src vc txn arg body) s = .next
            (s.keeps ((s.took src.toNat 0x11).resp src.toNat vc.toNat txn.toNat 1)))))))
    ∧ (∀ (txn : Word), tfind s.kol.txns txn.toNat = none → (∀ status, exec (.resp src txn status) s = .next (s.took src.toNat 0x12)) ∧ exec (.txnTimeout txn) s = .next s)
    ∧ (∀ (txn : Word) t, tfind s.kol.txns txn.toNat = some t → (t.cmd = none ∨ t.dst ≠ src.toNat) → ∀ status, exec (.resp src txn status) s = .next (s.took src.toNat 0x12))
    ∧ (∀ (txn : Word) t, tfind s.kol.txns txn.toNat = some t →
      (∀ q pos (status : Byte), t.cmd = some (q, pos) → t.dst = src.toNat → ∃ v : State, tfind v.kol.txns txn.toNat = none ∧ v = { s with kol := v.kol }
          ∧ (status = 0 → exec (.resp src txn status) s = .next (s.keeps (v.complete q pos .ok 0 txn.toNat)))
          ∧ (status ≠ 0 → exec (.resp src txn status) s = .next (s.keeps (v.complete q pos (Config.respStatus status.toNat) 0 txn.toNat))))
      ∧ (s.kol.huddle.running = false → t.sentTb + 500000 ≤ s.tb → t.sends < 4 →
        exec (.txnTimeout txn) s = .next (s.keeps (t.msgs.foldl (fun s d => if (tfind s.kol.txns txn.toNat).isSome then s.sendTxn t.dst t.vc d (s.txnPart t) else s)
          ({ s with kol := { s.kol with txns := tput s.kol.txns txn.toNat { t with sends := t.sends + 1, sentTb := s.tb } } }.incFld KOL_TXN_CNT KOL_TXN_CNT_TXN_RETRY))))
      ∧ (s.kol.huddle.running = false → t.sentTb + 500000 ≤ s.tb → 4 ≤ t.sends →
        exec (.txnTimeout txn) s = .next (s.keeps (((s.incFld KOL_TXN_CNT KOL_TXN_CNT_TXN_FAIL).raise KOL_G_IRQ_STAT 5).failTxn txn.toNat .fabTimeout)))
      ∧ ((s.kol.huddle.running = true ∨ s.tb < t.sentTb + 500000) → exec (.txnTimeout txn) s = .next s))

/-- The catch partner takes the relay message that is next in sequence and no other: an opening, a plane of a line, a seal, each written into the DRAM ring while it has room; the last part of a result frees its PIECE's data and is acknowledged. The source releases an acknowledged PIECE, keeps what a HEARTBEAT does not report, and gives up a partner silent for 310 µs, which takes over (R447-R452; log entries 18 and 61). Escalation: a head whose model and context are here is kept, one without is refused; the crop's parts join in order, more than 4 MiB are refused, and with the last the read begins as a SEQUENCE; a reply READ replaces the REGION's fields, and one that fails leaves them (R377, R378, R456). -/
def Obligations.RelayAndEscalation : Prop :=
  (∀ (s : State) (seq : Word), s.sys.released = true →
      let src := s.kol.source.getD 0
      let size := s.fld KOL_RELAY_SIZE KOL_RELAY_SIZE_SIZE_MIB * 0x100000
      let stored (n : Nat) (b : List Byte) : State := ((s.relaySpans n).foldl (fun (x : State × List Byte) p => (x.1.dwrite p.1 (fitTo p.2 x.2), x.2.drop p.2)) (s, b)).1
      ((s.kol.source = none ∨ seq.toNat ≠ (s.kol.relayExp + 1) % 2 ^ 32) →
        (∀ b, exec (.relayOpen seq b) s = .next (s.took src 0x20)) ∧ (∀ tag k d l, exec (.relayLine seq tag k d l) s = .next (s.took src 0x21))
        ∧ (∀ i l t, exec (.relaySeal seq i l t) s = .next (s.took src 0x22)) ∧ ∀ r, exec (.relayResult seq r) s = .next (s.took src 0x23))
      ∧ (∀ n, s.relaySpans n = [(s.pair KOL_RELAY_BASE_LO / 4096 * 4096 + s.kol.relayPos, min n (size - s.kol.relayPos)), (s.pair KOL_RELAY_BASE_LO / 4096 * 4096, n - (size - s.kol.relayPos))].filter (fun p => p.2 ≠ 0))
      ∧ (s.kol.source.isSome = true → seq.toNat = (s.kol.relayExp + 1) % 2 ^ 32 →
        (∀ b : RelayOpenBody,
          let r : RelayPiece := { body := b, lines := [], places := [], deadline := b.deadline.toNat, seals := [], gap := false, done := false }
          let v : State := { s with kol := { s.kol with relayIn := tput s.kol.relayIn b.item.toNat r } }
          let body := Config.msgBody 0x20 [b.item.toNat, b.orderKey.toNat, b.port, b.cls, b.openStamp.toNat, b.gateMode, b.deadline.toNat, b.playbook.toNat]
          (v.relayFits 40 = true → ∃ t, exec (.relayOpen seq b) s = .next t ∧ t = { stored 40 body with kol := t.kol } ∧ t.kol.relayExp = seq.toNat
            ∧ t.kol.relayPos = (s.kol.relayPos + 40) % size ∧ tfind t.kol.relayIn b.item.toNat = some { r with places := s.relaySpans 40 } ∧ tfind t.kol.lastKey (b.port % 4) = some b.orderKey.toNat)
          ∧ (v.relayFits 40 = false → ∃ t, exec (.relayOpen seq b) s = .next t ∧ t = { s with regs := t.regs, msix := t.msix, msixPend := t.msixPend, kol := t.kol }
            ∧ tfind t.kol.relayIn b.item.toNat = some { r with gap := true } ∧ bit (t.num KOL_G_IRQ_STAT) 4 = true ∧ t.kol.relayPos = s.kol.relayPos))
        ∧ (∀ tag k (d : BitVec 48) l, s.relayOwner tag = none → ∃ t, exec (.relayLine seq tag k d l) s = .next t ∧ t = { s with kol := t.kol } ∧ t.kol.relayExp = seq.toNat ∧ t.kol.relayIn = s.kol.relayIn)
        ∧ (∀ tag (k : Byte) (d : BitVec 48) l key r, s.relayOwner tag = some key → tfind s.kol.relayIn key = some r → ∃ t, exec (.relayLine seq tag k d l) s = .next t ∧ t.kol.relayExp = seq.toNat
          ∧ (r.gap = true → t = { s with kol := t.kol } ∧ tfind t.kol.relayIn key = some { r with deadline := d.toNat })
          ∧ (r.gap = false → s.relayFits (40 + l.length) = false → t = { s with regs := t.regs, msix := t.msix, msixPend := t.msixPend, kol := t.kol } ∧ bit (t.num KOL_G_IRQ_STAT) 4 = true
            ∧ tfind t.kol.relayIn key = some { r with deadline := d.toNat, gap := true, places := [], lines := [], seals := [] } ∧ t.kol.relayPos = s.kol.relayPos)
          ∧ (r.gap = false → s.relayFits (40 + l.length) = true → t = { stored (40 + l.length) (tag ++ leBytes 1 k.toNat ++ zeros 1 ++ leBytes 6 d.toNat ++ l) with kol := t.kol }
            ∧ t.kol.relayPos = (s.kol.relayPos + (40 + l.length)) % size
            ∧ tfind t.kol.relayIn key = some { r with deadline := d.toNat, lines := r.lines ++ [(tag, k, l)], places := r.places ++ s.relaySpans (40 + l.length) }))
        ∧ (∀ (i : Word) l t0, s.sealOwner i.toNat = none → ∃ t, exec (.relaySeal seq i l t0) s = .next t ∧ t = { s with kol := t.kol } ∧ t.kol.relayExp = seq.toNat ∧ t.kol.relayIn = s.kol.relayIn)
        ∧ (∀ (i : Word) (l : Word) (t0 : Stamp) key r, s.sealOwner i.toNat = some key → tfind s.kol.relayIn key = some r → r.gap = false → s.relayFits 16 = true →
          ∃ t, exec (.relaySeal seq i l t0) s = .next t ∧ t = { stored 16 (Config.msgBody 0x22 [i.toNat, l.toNat, t0.toNat]) with kol := t.kol } ∧ t.kol.relayExp = seq.toNat
            ∧ t.kol.relayPos = (s.kol.relayPos + 16) % size ∧ tfind t.kol.relayIn key = some { r with seals := r.seals ++ [(i, l, t0)], places := r.places ++ s.relaySpans 16 })
        ∧ (∀ rec : List Byte, bit (leAt rec 17 1) 0 = true → ∃ t, exec (.relayResult seq rec) s = .next t ∧ t = { s with kol := t.kol } ∧ t.kol.relayExp = seq.toNat ∧ t.kol.relayIn = s.kol.relayIn)
        ∧ (∀ rec : List Byte, bit (leAt rec 17 1) 0 = false →
            ∃ v : State, exec (.relayResult seq rec) s = .next (s.keeps (v.sendTo src vcLc (mkMsg 0x24 0 0 0 s.now [] (Config.msgBody 0x24 [leAt rec 4 4]))))
            ∧ v = { s with kol := v.kol } ∧ tfind v.kol.relayIn (leAt rec 4 4) = none ∧ v.kol.relayExp = seq.toNat))
      ∧ (∀ item : Word, s.liveItem item.toNat = none → exec (.resultAck item) s = .next (s.took ((s.partner?).getD 0) 0x24))
      ∧ (∀ (item : Word) i, s.liveItem item.toNat = some i → ∃ v : State, exec (.resultAck item) s = .next (s.keeps (v.modPiece i (fun p => { p with released := true })).tidy)
          ∧ v = { s with kol := v.kol } ∧ v.kol.relayOut = s.kol.relayOut.filter (fun m => m.item != i))
      ∧ (s.partner? = none → exec .heartbeatSend s = .next s ∧ exec .heartbeatTimeout s = .next s ∧ ∀ b acc, exec (.heartbeat b acc) s = .next (s.took b.toNat 0x25))
      ∧ (∀ d, s.partner? = some d →
        exec .heartbeatSend s = .next (s.keeps (s.sendTo d vcCtl (mkMsg 0x25 0 0 0 s.now (leBytes 4 s.kol.relayExp) [])))
        ∧ (∀ (b : BitVec 8) (acc : Word), b.toNat = d → (s.kol.hbTb = none ∨ s.kol.hbAccepted ≠ acc.toNat) →
          ∃ t, exec (.heartbeat b acc) s = .next t ∧ t = { s with kol := t.kol } ∧ t.kol.hbTb = some s.tb ∧ t.kol.hbAccepted = acc.toNat
            ∧ t.kol.partnerLost = false ∧ t.kol.relayOut = s.kol.relayOut.filter (fun m => decide (0 < sdiff 32 m.seq acc.toNat)))
        ∧ (∀ (b : BitVec 8) (acc : Word), b.toNat ≠ d → exec (.heartbeat b acc) s = .next (s.took b.toNat 0x25))
        ∧ (∀ (b : BitVec 8) (acc : Word), b.toNat = d → s.kol.hbTb.isSome = true → s.kol.hbAccepted = acc.toNat → s.kol.relayStopped = false →
          ∃ t : State, t = { s with kol := t.kol } ∧ t.kol.hbTb = some s.tb ∧ t.kol.relayOut = s.kol.relayOut.filter (fun m => decide (0 < sdiff 32 m.seq acc.toNat))
            ∧ exec (.heartbeat b acc) s = .next (s.keeps (t.kol.relayOut.foldl (fun v m => (v.relayBody m).1.sendTo d vcLc (mkMsg m.kind 0 0 0 v.now (leBytes 4 m.seq) (v.relayBody m).2)) t)))
        ∧ (∀ t0, s.kol.hbTb = some t0 → (s.tb < t0 + 310000 → exec .heartbeatTimeout s = .next s)
          ∧ (t0 + 310000 ≤ s.tb → ∃ v : State, v = { s with kol := { s.kol with hbTb := none } }
            ∧ ((v.partnerGone d).kol.source = none → exec .heartbeatTimeout s = .next (s.keeps (v.partnerGone d)))
            ∧ ∀ x, (v.partnerGone d).kol.source = some x → exec .heartbeatTimeout s = .next (s.keeps ((v.partnerGone d).takeOver x))))))
  ∧
  (∀ (s : State) (src : BitVec 8) (txn : Word), s.sys.released = true →
      (∀ body : EscHeadBody,
        (∀ m, s.doneTxn src.toNat txn.toNat = some m → exec (.escHead src txn body) s = .next (s.keeps ((s.took src.toNat 0x30).sendTo src.toNat (vcOf ({ src := src.toNat, txn := txn.toNat, head := body, data := [] } : EscIn).cls) m)))
        ∧ (s.doneTxn src.toNat txn.toNat = none → (s.addr? = none ∨ s.escBusy src.toNat txn.toNat = true) → exec (.escHead src txn body) s = .next (s.took src.toNat 0x30)))
      ∧ (∀ body : EscHeadBody, s.doneTxn src.toNat txn.toNat = none → s.addr?.isSome = true → s.escBusy src.toNat txn.toNat = false →
        let e : EscIn := { src := src.toNat, txn := txn.toNat, head := body, data := [] }
        ((s.escModel e).isSome = true → ∃ t, exec (.escHead src txn body) s = .next t ∧ t = { s with kol := t.kol }
            ∧ t.kol.escIn = s.kol.escIn.filter (fun x => !(x.src == e.src && x.txn == e.txn)) ++ [e])
        ∧ (s.escModel e = none → exec (.escHead src txn body) s = .next (s.keeps ((s.took src.toNat 0x30).escReply e.src e.txn (vcOf e.cls) 3 []))))
      ∧ (s.kol.escIn.find? (fun x => x.src == src.toNat && x.txn == txn.toNat) = none → ∀ data last, exec (.escData src txn data last) s = .next (s.took src.toNat 0x31))
      ∧ (∀ e data, s.kol.escIn.find? (fun x => x.src == src.toNat && x.txn == txn.toNat) = some e →
        let rest := s.kol.escIn.filter (fun x => !(x.src == e.src && x.txn == e.txn))
        ∃ v : State, v = { s with kol := v.kol } ∧ v.kol.escIn = rest
          ∧ (0x400000 < (e.data ++ data).length → ∀ last, exec (.escData src txn data last) s = .next (s.keeps (v.escReply e.src e.txn (vcOf e.cls) 3 [])))
          ∧ ((e.data ++ data).length ≤ 0x400000 → exec (.escData src txn data true) s = .next (s.keeps (v.openEsc { e with data := e.data ++ data })))
          ∧ ((e.data ++ data).length ≤ 0x400000 → ∃ t, exec (.escData src txn data false) s = .next t ∧ t = { s with kol := t.kol } ∧ t.kol.escIn = rest ++ [{ e with data := e.data ++ data }]))
      ∧ (tfind s.kol.txns txn.toNat = none → ∀ (status : Byte) fields, exec (.escReply src txn status fields) s = .next (s.took src.toNat 0x32))
      ∧ (∀ t i q r (status : Byte) fields, tfind s.kol.txns txn.toNat = some t → t.seq = some i → t.dst = src.toNat → tfind s.seqs i = some q → tfind s.regions q.region = some r →
        ∃ v : State, v = { s with kol := v.kol } ∧ tfind v.kol.txns txn.toNat = none
          ∧ ((status ≠ 0 ∨ r.result.isSome = true) → exec (.escReply src txn status fields) s = .next (s.keeps (v.escOwn i)))
          ∧ (status = 0 → r.result = none →
            let fs := (voteRegion (s.quorumOf r) r).map (takeReply (replyFields (fields.length + 1) fields))
            exec (.escReply src txn status fields) s = .next (s.keeps
              (((v.incFld DEC_ESC_CNT DEC_ESC_CNT_ESC_READ (fs.filter (·.escalated)).length).endSeq i .aborted).closeRegion q.region fs).tidy)))
      ∧ (∀ rs (f : FieldRes) id conf flags value, wantsEsc [f] = true → rs.find? (fun (r : Nat × Nat × Nat × Nat × List Byte) => r.1 == f.id) = some (id, 1, conf, flags, value) →
        (takeReply rs f).status = .read ∧ (takeReply rs f).value = value ∧ (takeReply rs f).conf = conf ∧ (takeReply rs f).escalated = true))

/-- An offset that is measured from the parent disciplines the clock: within STEP_LIMIT it slews the rate by the integral and proportional terms, bounded to 100,000 ppb; beyond it the step is refused, the negated offset waits in PENDING_STEP, and holdover begins at the integral rate within the same bound; the first one before READY moves time at once, and the same step goes to Norentum; in holdover small offsets are counted and the third ends it. Without its SYNC, or from another port, a FOLLOW does nothing; before the burst of a new route has ended its offset changes no rate (R470-R475, R477, R478, R482, R560; log entries 55, 56). The TIME messages: a device with an address sends SYNC, PD_REQ and ANNOUNCE, FOLLOW carries the stamp that its SYNC left the pins at, stamps of receipt are corrected to the pins, a SYNC counts only from the parent with lower HOPS, PD_REQ is answered, and the four stamps of an exchange give one sample of the delay, out of range counted as bad; an ANNOUNCE makes its source an announcer (R444, R465, R467-R471). The Ethernet port: a Sync of its domain gives an offset once the path delay is known, a Delay_Resp or Pdelay_Resp the path delay, requests are answered, Syncs and requests that are due leave; a frame or flit for which software asked leaves its stamp, corrected to the pins, in the queue of its port, or counts an overflow when 8 wait; a PTP state that SRC admits shows in TIM_STAT; an ARP request for ETH_IP is answered with a frame of 42 bytes, one for another address is not; other frames are discarded; the link shows in ETH_STAT, and when it goes DOWN the datagrams that wait are discarded and counted (R465, R479, R480, R482, R512, R514, R520; log entry 55). -/
def Obligations.TimeAndEthernet : Prop :=
  (∀ (s : State) (n : Fin 6) (id : BitVec 16) (hops : BitVec 8) (stamp : Stamp), s.sys.released = true →
      let noted := (s.tport n).syncRx.find? (fun x => x.1 == id.toNat)
      (noted = none ∨ s.linkUp n = false ∨ s.tim.parent ≠ some n.val → exec (.follow n id hops stamp) s = .next (s.took (256 + n) 0x40))
      ∧ ∀ rx, (s.tport n).syncRx.find? (fun x => x.1 == id.toNat) = some (id.toNat, rx) →
      s.linkUp n = true → s.tim.parent = some n.val →
      let off := mkRat (stampDiff rx stamp) 65536 - s.delayOf n
      (s.fabricTime = false → ∃ t, exec (.follow n id hops stamp) s = .next t ∧ t = { s with tim := t.tim, kol := t.kol, regs := t.regs } ∧ t.tim.now = s.tim.now ∧ t.tim.rate = s.tim.rate
        ∧ t.tim.recent = s.tim.recent ∧ s.regsSame t [TIM_STAT])
      ∧ (s.fabricTime = true → s.on TIM_STAT TIM_STAT_REROUTE_HOLD = true → s.tim.burstEnded = false → (s.tim.recent ≠ [] ∨ s.isReady = true) →
        ∃ t, exec (.follow n id hops stamp) s = .next t ∧ t.met = s.met ∧ t.items = s.items ∧ s.memSame t ∧ t.tim.now = s.tim.now ∧ t.tim.rate = s.tim.rate ∧ t.tim.freq = s.tim.freq
          ∧ t.tim.good = s.tim.good ∧ t.num TIM_OFFSET = (sat32 (ratRound off)).toNat ∧ s.regsSame t [TIM_STAT, TIM_OFFSET, TIM_IRQ_STAT])
      ∧ (s.fabricTime = true → (s.on TIM_STAT TIM_STAT_REROUTE_HOLD = false ∨ s.tim.burstEnded = true) →
      ∃ t, exec (.follow n id hops stamp) s = .next t ∧ t.pending = s.pending ∧ t.items = s.items ∧ s.memSame t
        ∧ t.num TIM_OFFSET = (sat32 (ratRound off)).toNat ∧ t.tim.recent = (off :: s.tim.recent).take 16
        ∧ (s.tim.recent = [] → s.isReady = false → t.met = s.met.takeStep (ratRound (-off * 65536)) t.tim.stopNs
            ∧ (0 ≤ ratRound (-off * 65536) → t.tim.now = s.tim.now + BitVec.ofNat 64 (ratRound (-off * 65536)).toNat)
            ∧ (ratRound (-off * 65536) < 0 → t.tim.now = s.tim.now ∧ t.tim.stopNs = s.tim.stopNs + cdiv (ratRound (-off * 65536)).natAbs 65536))
        ∧ ((s.tim.recent ≠ [] ∨ s.isReady = true) → t.met = s.met ∧ t.tim.now = s.tim.now
            ∧ (s.on TIM_STAT TIM_STAT_HOLDOVER = false → ratAbs off ≤ (s.num TIM_STEP_LIMIT : Rat) →
                let f := s.tim.freq - off / (2 ^ s.fld TIM_CFG TIM_CFG_KI_SHIFT) / (s.fld TIM_CFG TIM_CFG_SYNC_US)
                t.tim.freq = f ∧ t.tim.rate = max (-100000) (min 100000 (f - off / (s.fld TIM_CFG TIM_CFG_SLEW_WIN_MS))))
            ∧ (s.on TIM_STAT TIM_STAT_HOLDOVER = false → (s.num TIM_STEP_LIMIT : Rat) < ratAbs off →
                t.pair TIM_PENDING_LO = uns 64 (ratRound (-off)) % 2 ^ 64 ∧ t.on TIM_STAT TIM_STAT_STEP_REFUSED = true ∧ t.on TIM_STAT TIM_STAT_HOLDOVER = true
                ∧ t.tim.rate = max (-100000) (min 100000 s.tim.freq) ∧ bit (t.num TIM_IRQ_STAT) 0 = true)
            ∧ (s.on TIM_STAT TIM_STAT_HOLDOVER = true → ratAbs off ≤ (s.num TIM_STEP_LIMIT : Rat) →
                (s.tim.good = 2 → t.on TIM_STAT TIM_STAT_HOLDOVER = false ∧ t.pair TIM_PENDING_LO = 0) ∧ (s.tim.good ≠ 2 → t.tim.good = s.tim.good + 1 ∧ t.on TIM_STAT TIM_STAT_HOLDOVER = true))
            ∧ (s.on TIM_STAT TIM_STAT_HOLDOVER = true → (s.num TIM_STEP_LIMIT : Rat) < ratAbs off → t.tim.good = 0 ∧ t.on TIM_STAT TIM_STAT_HOLDOVER = true))))
  ∧
  (∀ (s : State) (n : Fin 6) (id : BitVec 16), s.sys.released = true →
      (s.addr? = none → exec .syncSend s = .next s ∧ exec (.pdReqSend n) s = .next s ∧ ∀ rx, exec (.pdReq n id rx) s = .next (s.took (256 + n) 0x40))
      ∧ (s.addr?.isSome = true → exec .syncSend s = .next (s.keeps (s.upPorts.foldl (fun s n => ({ s with tim := { s.tim with syncId := (s.tim.syncId + 1) % 65536 } }).sendLocal n vcTime
          (timeMsg 0 1 s.timeHops ((s.tim.syncId + 1) % 65536) s.now 0)) s)))
      ∧ (∀ f : RFlit, f.vc = vcTime → f.origin = none → leAt f.data 32 1 = 1 → ((s.timeSent n f).kport n).ready = (s.kport n).ready
        ++ s.msgFlits 0 0 1 vcTime (timeMsg 0 2 (leAt f.data 33 1) (leAt f.data 34 2) s.now (s.now + BitVec.ofNat 64 (s.fld (TIM_PORT_LAT n) TIM_PORT_LAT_FAC_TX_NS * 4096))))
      ∧ (s.linkUp n = false → exec (.pdReqSend n) s = .next s)
      ∧ (s.linkUp n = true → s.addr?.isSome = true → ∃ v : State, exec (.pdReqSend n) s = .next (s.keeps (v.sendLocal n vcTime (timeMsg 0 3 s.timeHops (((s.tport n).reqId + 1) % 65536) s.now 0)))
          ∧ v = { s with tim := v.tim } ∧ v.tport n = { s.tport n with reqId := ((s.tport n).reqId + 1) % 65536, t1 := none, t2 := none, t4 := none, burst := (s.tport n).burst - 1 })
      ∧ ((s.ptpLocked = true → exec .announceSend s = .next (s.keeps (s.sendFloodOn vcTime (fun seq => timeMsg seq 6 s.timeHops seq s.now 0))))
        ∧ (s.ptpLocked = false → exec .announceSend s = .next s))
      ∧ (∀ (hops : BitVec 8) (rx : Stamp),
        (s.linkUp n = true → s.tim.parent = some n.val → hops.toNat < s.timeHops → ∃ t, exec (.sync n id hops rx) s = .next t
            ∧ (t.tport n).syncRx = ((id.toNat, rx - BitVec.ofNat 64 (s.fld (TIM_PORT_LAT n) TIM_PORT_LAT_FAC_RX_NS * 4096)) :: (s.tport n).syncRx).take 8 ∧ t = { s with tim := t.tim, kol := t.kol })
        ∧ ((s.linkUp n = false ∨ s.tim.parent ≠ some n.val ∨ s.timeHops ≤ hops.toNat) → exec (.sync n id hops rx) s = .next (s.took (256 + n) 0x40)))
      ∧ (∀ rx : Stamp, s.addr?.isSome = true → exec (.pdReq n id rx) s = .next (s.keeps ((s.took (256 + n) 0x40).sendLocal n vcTime (timeMsg 0 4 s.timeHops id.toNat s.now (s.rxStamp n rx)))))
      ∧ (∀ t2 rx : Stamp, (s.linkUp n = false ∨ (s.tport n).reqId ≠ id.toNat ∨ (s.tport n).t1 = none) → exec (.pdResp n id t2 rx) s = .next (s.took (256 + n) 0x40))
      ∧ (∀ t2 rx : Stamp, s.linkUp n = true → (s.tport n).reqId = id.toNat → (s.tport n).t1.isSome = true →
        ∃ t, exec (.pdResp n id t2 rx) s = .next t ∧ t.tport n = { s.tport n with t2 := some t2, t4 := some (s.rxStamp n rx) } ∧ t = { s with tim := t.tim, kol := t.kol })
      ∧ (∀ t3 : Stamp, (s.linkUp n = false ∨ (s.tport n).reqId ≠ id.toNat ∨ (s.tport n).t1 = none ∨ (s.tport n).t2 = none ∨ (s.tport n).t4 = none) →
        exec (.pdFollow n id t3) s = .next (s.took (256 + n) 0x40))
      ∧ (∀ t1 t2 t3 t4 : Stamp, s.linkUp n = true → (s.tport n).reqId = id.toNat → (s.tport n).t1 = some t1 → (s.tport n).t2 = some t2 → (s.tport n).t4 = some t4 →
        let x := mkRat (stampDiff t4 t1 - stampDiff t3 t2) 131072
        ∃ t, exec (.pdFollow n id t3) s = .next t ∧ (t.tport n).t1 = none ∧ t = { s with tim := t.tim, kol := t.kol, regs := t.regs }
          ∧ ((x < 0 ∨ 2000 < x) → t.fld (TIM_PORT_CNT n) TIM_PORT_CNT_PD_BAD = min (s.fld (TIM_PORT_CNT n) TIM_PORT_CNT_PD_BAD + 1) (fmax TIM_PORT_CNT_PD_BAD) ∧ (t.tport n).samples = (s.tport n).samples
              ∧ s.regsSame t [TIM_PORT_CNT n])
          ∧ (0 ≤ x → x ≤ 2000 → (t.tport n).samples = (x :: (s.tport n).samples).take 16
              ∧ t.num (TIM_PORT_DELAY n) = (ratRound (meanOf ((x :: (s.tport n).samples).take 16) * 256)).toNat % 2 ^ 32 ∧ s.regsSame t [TIM_PORT_DELAY n]))
      ∧ (∀ (src : BitVec 8) (seq : BitVec 16) (hops : BitVec 8), (s.linkUp n = false ∨ s.addr? = some src.toNat ∨ (s.addr? = none ∧ s.kol.huddle.running = false) ∨ s.kol.floodDone.contains (src.toNat, seq.toNat) = true) →
        exec (.announce n src seq hops) s = .next (s.took src.toNat 0x40))
      ∧ (∀ (src : BitVec 8) (seq : BitVec 16) (hops : BitVec 8), s.linkUp n = true → s.addr? ≠ some src.toNat → (s.addr?.isSome = true ∨ s.kol.huddle.running = true) → s.kol.floodDone.contains (src.toNat, seq.toNat) = false →
        ∃ t, exec (.announce n src seq hops) s = .next t ∧ tfind t.tim.announcers src.toNat = some s.tb ∧ t = { s with tim := t.tim, kol := t.kol, regs := t.regs }))
  ∧
  (∀ s : State, s.sys.released = true →
      let state := s.fld TIM_STAT TIM_STAT_PTP_STATE
      let follows := s.timeSrc = 1 ∧ (state = 2 ∨ state = 3)
      let leads := s.timeSrc = 2 ∧ (s.isTimeRoot = true ∨ s.on TIM_STAT TIM_STAT_LOCKED = true)
      let out (m : PtpMsg) (st : Stamp) : PtpOut := { msg := m, domain := s.fld TIM_PTP_CFG TIM_PTP_CFG_DOMAIN, l2 := s.on TIM_PTP_CFG TIM_PTP_CFG_L2, stamp := st }
      let peer := s.on TIM_PTP_CFG TIM_PTP_CFG_PEER
      (s.ethOn = false → (∀ target ip mac, exec (.arpRequest target ip mac) s = .next s) ∧ ∀ stamp,
        (∀ f o c, exec (.ptpEventFrame (.sync f o c) stamp) s = .next s) ∧ (∀ f r c, exec (.ptpEventFrame (.delayResp f r c) stamp) s = .next s)
        ∧ (∀ f r x c, exec (.ptpEventFrame (.pdelayResp f r x c) stamp) s = .next s) ∧ (∀ f b, exec (.ptpEventFrame (.request f b) stamp) s = .next s)
        ∧ exec (.ptpEventFrame .sendSync stamp) s = .next s ∧ exec (.ptpEventFrame .sendRequest stamp) s = .next s ∧ ∀ id, exec (.ptpEventFrame (.sent 6 id) stamp) s = .next s)
      ∧ (∀ (f : PtpFrame) (stamp : Stamp), s.ethOn = true →
        let mine := f.domain.toNat = s.fld TIM_PTP_CFG TIM_PTP_CFG_DOMAIN ∧ f.l2 = s.on TIM_PTP_CFG TIM_PTP_CFG_L2
        let rx := stamp - BitVec.ofNat 64 (s.fld (TIM_PORT_LAT 6) TIM_PORT_LAT_FAC_RX_NS * 4096)
        (∀ o c, ¬(mine ∧ follows) → exec (.ptpEventFrame (.sync f o c) stamp) s = .next s)
        ∧ (∀ o c, mine → follows → ∃ t, exec (.ptpEventFrame (.sync f o c) stamp) s = .next t ∧ t.tim.ptp = { s.tim.ptp with origin := some (o + BitVec.ofInt 64 c), rx := rx } ∧ t.items = s.items
          ∧ (s.tim.ptp.delay = none → t = { s with tim := { s.tim with ptp := t.tim.ptp } })
          ∧ ∀ d, s.tim.ptp.delay = some d → t.num TIM_OFFSET = (sat32 (ratRound (((stampDiff rx o - c : Int) - d) / 65536 - s.asym 6))).toNat)
        ∧ (∀ r c, ¬(mine ∧ follows ∧ peer = false) → exec (.ptpEventFrame (.delayResp f r c) stamp) s = .next s)
        ∧ (∀ r c t1 t3, mine → follows → peer = false → s.tim.ptp.origin = some t1 → s.tim.ptp.request = some t3 → exec (.ptpEventFrame (.delayResp f r c) stamp) s = .next
            (s.modPtp (fun p => { p with request := none, delay := some (mkRat (stampDiff p.rx t1 + stampDiff r t3 - c) 2) })))
        ∧ (∀ r x c, ¬(mine ∧ peer = true) → exec (.ptpEventFrame (.pdelayResp f r x c) stamp) s = .next s)
        ∧ (∀ r x c t1, mine → peer = true → s.tim.ptp.request = some t1 → exec (.ptpEventFrame (.pdelayResp f r x c) stamp) s = .next
            (s.modPtp (fun p => { p with request := none, delay := some (mkRat (stampDiff rx t1 - stampDiff x r - c) 2) })))
        ∧ (mine → peer = true → exec (.ptpEventFrame (.request f true) stamp) s = .next (s.modPtp (fun p => { p with sent := out .pdelayRespFollowUp (s.txStamp 6 s.now) :: out .pdelayResp rx :: p.sent })))
        ∧ (mine → peer = false → leads → state = 4 → exec (.ptpEventFrame (.request f false) stamp) s = .next (s.modPtp (fun p => { p with sent := out .delayResp rx :: p.sent })))
        ∧ (∀ b, ¬(mine ∧ b = peer ∧ (peer = true ∨ (leads ∧ state = 4))) → exec (.ptpEventFrame (.request f b) stamp) s = .next s)
        ∧ (leads → state = 4 → s.ptpSyncDue = true → exec (.ptpEventFrame .sendSync stamp) s = .next
            (s.modPtp (fun p => { p with syncTb := some s.tb, sent := out .followUp (s.txStamp 6 stamp) :: out .sync s.now :: p.sent })))
        ∧ (¬(leads ∧ state = 4 ∧ s.ptpSyncDue = true) → exec (.ptpEventFrame .sendSync stamp) s = .next s)
        ∧ ((peer = true ∨ follows) → exec (.ptpEventFrame .sendRequest stamp) s = .next
            (s.modPtp (fun p => { p with request := some (s.txStamp 6 stamp), sent := out (if peer then .pdelayReq else .delayReq) 0 :: p.sent })))
        ∧ (¬(peer = true ∨ follows) → exec (.ptpEventFrame .sendRequest stamp) s = .next s))
      ∧ (∀ (p : Fin 7) (id : BitVec 16) (stamp : Stamp),
        let on := if p.val < 6 then s.linkUp p else s.ethOn
        (on = false → exec (.ptpEventFrame (.sent p id) stamp) s = .next s)
        ∧ (on = true → (s.tport p).txq.length < 8 → ∃ t, exec (.ptpEventFrame (.sent p id) stamp) s = .next t
            ∧ (t.tport p).txq = (s.tport p).txq ++ [(id.toNat, stamp + BitVec.ofNat 64 (s.fld (TIM_PORT_LAT p) TIM_PORT_LAT_FAC_TX_NS * 4096))] ∧ t = { s with tim := t.tim })
        ∧ (on = true → 8 ≤ (s.tport p).txq.length → ∃ t, exec (.ptpEventFrame (.sent p id) stamp) s = .next t ∧ (t.tport p).txq = (s.tport p).txq ∧ bit (t.num TIM_TXQ_OVF) p = true
            ∧ bit (t.num TIM_IRQ_STAT) 2 = true ∧ t = { s with regs := t.regs, msix := t.msix, msixPend := t.msixPend }))
      ∧ (∀ (st : BitVec 3) (stamp : Stamp),
        let may := st = 0 ∨ st = 1 ∨ st = 5 ∨ ((st = 2 ∨ st = 3) ∧ s.timeSrc = 1) ∨ (st = 4 ∧ leads)
        (may → exec (.ptpEventFrame (.state st) stamp) s = .next (s.keeps ((s.setFld TIM_STAT TIM_STAT_PTP_STATE st.toNat).parentCheck false)))
        ∧ (¬may → exec (.ptpEventFrame (.state st) stamp) s = .next s))
      ∧ (∀ stamp, exec (.ptpEventFrame .other stamp) s = .next s)
      ∧ (s.ethOn = true →
        (∀ (ip : Word) (mac : BitVec 48), (∃ t r, exec (.arpRequest (s.reg ETH_IP) ip mac) s = .next t ∧ t.eth.replies = r :: s.eth.replies ∧ r.length = 42 ∧ r.take 6 = beBytes 6 mac.toNat
              ∧ t = { s with eth := t.eth }))
        ∧ (∀ (target ip : Word) (mac : BitVec 48), target ≠ s.reg ETH_IP → exec (.arpRequest target ip mac) s = .next s))
      ∧ (∀ f, exec (.ethFrameDiscard f) s = .next s)
      ∧ (∃ t, exec .ethLinkDown s = .next t ∧ t.on ETH_STAT ETH_STAT_LINK_UP = false ∧ t.eth.queue = [] ∧ t.num ETH_DROP_CNT = min (s.num ETH_DROP_CNT + s.eth.queue.length) 0xFFFFFFFF
        ∧ t = { s with regs := t.regs, eth := { s.eth with queue := [] } } ∧ s.regsSame t [ETH_STAT, ETH_DROP_CNT])
      ∧ (∃ u : State, exec .ethLinkUp s = .next (s.keeps (u.divertHold.stallCheck).tidy) ∧ u.on ETH_STAT ETH_STAT_LINK_UP = true ∧ s.regsSame u [ETH_STAT] ∧ u = { s with regs := u.regs }))

/-- The Reed-Solomon code: a codeword of 32 data bytes reads good, and one with any one byte changed is corrected to the codeword it was, wherever the byte stands, in the data or in the check bytes (R522-R524). -/
def Obligations.RsCorrectsOneByte : Prop :=
  ∀ data : List Byte, data.length = 32 →
    rsRead (rsEncode data) = .good ∧ (rsEncode data).length = 35
    ∧ ∀ (i : Nat) (e : Byte), i < 35 → e ≠ 0 → rsRead ((rsEncode data).set i ((rsEncode data).getD i 0 ^^^ e)) = .corrected (rsEncode data)

/-- The scrubber: an upset flips bits of the codeword that memory holds, its check bytes among them; a good word changes nothing, a corrected one is written back and counted, an uncorrectable one costs what its region says, or its tile; a word that a retention write or a running command is still to write is left out; a place that does not exist faults (R522-R529; log entry 68). Timers of memory and host reads: each second the corrections are counted anew, and a channel with more than CORR_PER_S makes a record; a DRAM request unanswered for 20 µs is counted and raised, and its second expiry, 20 µs on, resets the engine; a packet fetch unanswered for 10 ms stops its queue with CODE 2 and QUEUE_ERR, and an unanswered image fetch ends its HOSTIMAGE (R486, R527, R530-R532). -/
def Obligations.MemoryFaults : Prop :=
  (∀ (s : State) (word p : Nat) (ups : List (UpsetAt × List Byte)) (pins : PinLevels), s.sys.released = true →
      let v := ups.foldl State.upset s
      (2 ^ 31 ≤ word → exec (.scrubStep (.dram word) ups pins) s = .fault .addressHole)
      ∧ ((272 ≤ p ∨ 2 ^ 15 ≤ word) → exec (.scrubStep (.tile p word) ups pins) s = .fault .addressHole)
      ∧ (∀ u, s.upset u = { s with dram := (s.upset u).dram, tile := (s.upset u).tile, cal := (s.upset u).cal, ras := (s.upset u).ras })
      ∧ (∀ a x, word < 2 ^ 31 → visibleAddr word = some a →
        codeword (s.upset (.dram word, x)).dram (s.upset (.dram word, x)).ras.chk (a / 32) = xorBytes (codeword s.dram s.ras.chk (a / 32)) (fitTo 35 x)
          ∧ ∀ k, k ≠ a / 32 → codeword (s.upset (.dram word, x)).dram (s.upset (.dram word, x)).ras.chk k = codeword s.dram s.ras.chk k)
      ∧ (∀ t x, p < 272 → word < 2 ^ 15 → s.logicalOf p = some t → let k := tileAt t 0 / 32 + word
        codeword (s.upset (.tile p word, x)).tile (s.upset (.tile p word, x)).ras.tchk k = xorBytes (codeword s.tile s.ras.tchk k) (fitTo 35 x))
      ∧ (word < 2 ^ 31 → visibleAddr word = none → exec (.scrubStep (.dram word) ups pins) s = .next (s.keeps v))
      ∧ (∀ a, word < 2 ^ 31 → visibleAddr word = some a → let cw := codeword v.dram v.ras.chk (a / 32)
        (v.retQueue.any (fun w => wordIn w.1 w.2.length (a / 32)) = true ∨ rsRead cw = .good → exec (.scrubStep (.dram word) ups pins) s = .next (s.keeps v))
        ∧ (v.retQueue.any (fun w => wordIn w.1 w.2.length (a / 32)) = false →
          (∀ w, rsRead cw = .corrected w → w.length = 35 → ∃ t, exec (.scrubStep (.dram word) ups pins) s = .next t ∧ mread t.dram a 32 = w.take 32 ∧ tfind t.ras.chk (a / 32) = none
            ∧ t.num (RAS_DRAM_CORR (Config.dramChannel word).val) = min (s.num (RAS_DRAM_CORR (Config.dramChannel word).val) + 1) 0xFFFFFFFF
            ∧ (∀ x, x < a ∨ a + 32 ≤ x → tget 0 t.dram x = tget 0 v.dram x) ∧ t = { v with regs := t.regs, dram := t.dram, ras := t.ras })
          ∧ (rsRead cw = .uncorrectable → exec (.scrubStep (.dram word) ups pins) s = .next (s.keeps (v.scrubLost word a pins)))))
      ∧ (p < 272 → word < 2 ^ 15 →
        (v.logicalOf p = none → exec (.scrubStep (.tile p word) ups pins) s = .next (s.keeps v))
        ∧ ∀ t, v.logicalOf p = some t → let k := tileAt t 0 / 32 + word; let cw := codeword v.tile v.ras.tchk k
          (((v.ptile p).failed = true ∨ v.wordAwaited t word = true ∨ rsRead cw = .good) → exec (.scrubStep (.tile p word) ups pins) s = .next (s.keeps v))
          ∧ ((v.ptile p).failed = false → v.wordAwaited t word = false →
            (rsRead cw = .uncorrectable → exec (.scrubStep (.tile p word) ups pins) s = .next (s.keeps ((v.chipUncorr word).failTile p causeRs)))
            ∧ ∀ w, rsRead cw = .corrected w → w.length = 35 → ∃ u, exec (.scrubStep (.tile p word) ups pins) s = .next u ∧ mread u.tile (32 * k) 32 = w.take 32 ∧ tfind u.ras.tchk k = none
              ∧ u.num RAS_TILE_CORR = min (s.num RAS_TILE_CORR + 1) 0xFFFFFFFF ∧ u = { v with regs := u.regs, tile := u.tile, ras := u.ras })))
  ∧
  (∀ s : State, s.sys.released = true →
      ((∀ k, k < 9 → tget 0 s.ras.second k ≤ s.num RAS_CORR_LIMIT) → exec .corrRateWindow s = .next { s with ras := { s.ras with second := [] } })
      ∧ (∀ k, k < 9 → s.num RAS_CORR_LIMIT < tget 0 s.ras.second k → (∀ j, j < 9 → j ≠ k → tget 0 s.ras.second j ≤ s.num RAS_CORR_LIMIT) →
        exec .corrRateWindow s = .next (s.keeps (({ s with ras := { s.ras with second := [] } }.raise RAS_IRQ_STAT 1).recoveryRec 9 none (if k = 8 then 0xFFFF else k) 0 (tget 0 s.ras.second k) 0)))
      ∧ (∀ (ch : Fin 8) (issued : Nat) (pins : PinLevels),
        (s.tb < issued + 20000 → exec (.dramRequestTimeout ch false issued pins) s = .next s)
        ∧ (issued + 20000 ≤ s.tb → ∃ t, exec (.dramRequestTimeout ch false issued pins) s = .next t ∧ tfind t.ras.requested ch = some s.tb ∧ bit (t.num RAS_IRQ_STAT) 2 = true
            ∧ t.fld (RAS_DRAM_ERR ch) RAS_DRAM_ERR_TIMEOUT_CNT = min (s.fld (RAS_DRAM_ERR ch) RAS_DRAM_ERR_TIMEOUT_CNT + 1) (fmax RAS_DRAM_ERR_TIMEOUT_CNT)
            ∧ t = { s with regs := t.regs, ras := t.ras, msix := t.msix, msixPend := t.msixPend })
        ∧ (tfind s.ras.requested ch = none → exec (.dramRequestTimeout ch true issued pins) s = .next s)
        ∧ ∀ t0, tfind s.ras.requested ch = some t0 → (s.tb < t0 + 20000 → exec (.dramRequestTimeout ch true issued pins) s = .next s)
          ∧ (t0 + 20000 ≤ s.tb → exec (.dramRequestTimeout ch true issued pins) s = .next (s.keeps (s.warmReset 4 pins))))
      ∧ (∀ q : Fin 64, let x := tget default s.sqs q
        let waits := s.on (HIF_SQ_CFG q) HIF_SQ_CFG_EN = true ∧ x.stopped = false ∧ s.fld (HIF_SQ_HEAD q) HIF_SQ_HEAD_HEAD ≠ s.fld (HIF_SQ_TAIL q) HIF_SQ_TAIL_TAIL ∧ s.coachHeld (s.headPacket q) = false
        (waits → x.readTb + 10000000 ≤ s.tb → ∃ t, exec (.hostReadTimeout (.fetch q)) s = .next t ∧ t.fld (HIF_SQ_ERR q) HIF_SQ_ERR_CODE = 2 ∧ (tget default t.sqs q).stopped = true
          ∧ bit (t.num HIF_IRQ_STAT) 1 = true ∧ t = { s with regs := t.regs, sqs := t.sqs, msix := t.msix, msixPend := t.msixPend })
        ∧ (¬waits ∨ s.tb < x.readTb + 10000000 → exec (.hostReadTimeout (.fetch q)) s = .next s))
      ∧ (∀ i, (∀ m, tfind s.images i = some m → m.fetched = true ∨ m.decoded = true ∨ s.tb < m.readTb + 10000000) → exec (.hostReadTimeout (.image i)) s = .next s)
      ∧ (∀ i m, tfind s.images i = some m → m.fetched = false → m.decoded = false → m.readTb + 10000000 ≤ s.tb →
        exec (.hostReadTimeout (.image i)) s = .next (s.keeps ((s.complete m.sq m.pos .ok (s.itemId i) 0).imageError i .decTruncated))))

/-- The firmware: a watchdog not kicked for 5 ms or an exception stops Coach until it is up again; the watchdog of Umpire, not kicked for 20 ms, and a lockstep mismatch reset the engine with their causes. A warm reset empties the engine, keeps fabric time, TAI and the memories, takes the levels found at encoder and barrier pins, loses what the retention write queue held, and runs kickoff again from the Umpire image (R74, R94, R530, R534, R535, R562, R582; log entries 25, 67). -/
def Obligations.FirmwareResets : Prop :=
  ∀ s : State, s.sys.released = true →
    (s.on HIF_STAT HIF_STAT_COACH_UP = true →
      (∀ kick, kick + 5000000 ≤ s.tb → ∃ t, exec (.coachWatchdog kick) s = .next t ∧ t.on HIF_STAT HIF_STAT_COACH_UP = false ∧ t.sys.coachDown = some (1, s.now) ∧ t = { s with regs := t.regs, sys := t.sys } ∧ s.regsSame t [HIF_STAT])
      ∧ (∃ t, exec .coachException s = .next t ∧ t.on HIF_STAT HIF_STAT_COACH_UP = false ∧ t.sys.coachDown = some (2, s.now) ∧ t = { s with regs := t.regs, sys := t.sys } ∧ s.regsSame t [HIF_STAT]))
    ∧ (∀ kick, s.on HIF_STAT HIF_STAT_COACH_UP = false ∨ s.tb < kick + 5000000 → exec (.coachWatchdog kick) s = .next s)
    ∧ (s.on HIF_STAT HIF_STAT_COACH_UP = false → exec .coachException s = .next s)
    ∧ (s.on HIF_STAT HIF_STAT_COACH_UP = true → exec .coachUp s = .next s)
    ∧ (s.on HIF_STAT HIF_STAT_COACH_UP = false → ∀ c x, s.sys.coachDown = some (c, x) → exec .coachUp s = .next (s.keeps (s.coachAgain c x)))
    ∧ (∀ kick pins, (s.umpireUp = true → kick + 20000000 ≤ s.tb → exec (.umpireWatchdog kick pins) s = .next (s.keeps (s.warmReset 2 pins)))
      ∧ (s.umpireUp = false ∨ s.tb < kick + 20000000 → exec (.umpireWatchdog kick pins) s = .next s))
    ∧ (∀ pins, exec (.lockstepMismatch pins) s = .next (s.keeps (s.warmReset 3 pins)))
    ∧ (∀ cause (pins : PinLevels), cause < 16 → let t := s.warmReset cause pins
        t.tim.now = s.tim.now ∧ t.tim.tai = s.tim.tai ∧ t.tim.taiNs = s.tim.taiNs ∧ t.items = [] ∧ t.pieces = [] ∧ t.fetched = [] ∧ t.hold = [] ∧ t.ctxs = [] ∧ t.playbooks = []
        ∧ t.host = s.host ∧ t.dram = s.dram ∧ t.tile = s.tile ∧ t.retQueue = [] ∧ t.sys.released = true ∧ t.sys.warm = some s.now
        ∧ t.fld RAS_RESET_CAUSE RAS_RESET_CAUSE_RESET_CAUSE = cause ∧ t.fld SYS_BOOT_STAT SYS_BOOT_STAT_STAGE = 4 ∧ t.fld SYS_PWR_STAT SYS_PWR_STAT_STATE = 2
        ∧ (∀ n, n < 4 → tfind t.enc n = some { (default : EncSt) with a := (pins.enc.getD n (false, false)).1, b := (pins.enc.getD n (false, false)).2 })
        ∧ ∀ k, k < 8 → tfind t.bar k = some { known := true, level := pins.bar.getD k false, since := s.tb, jammed := false })

/-- Kickoff: the release of PORESET_N starts fabric time at 0 and stage 3, with the levels found at the pins; the first slot of the boot flash whose image carries the digested key, a good signature, a length within its limit and a version at its floor starts, none while SYS_BOOT_OE_N holds the flash pins at high impedance; Umpire, DRAM, the Coach image and the Pitch follow, and a failure stops kickoff at stage 15 with its code; Coach starts the huddle; READY sets once Coach, the huddle and BIST have ended. The assertion of PORESET_N resets the main domain and leaves Norentum (R74, R94, R141, R444, R517, R551, R553, R555-R558, R563; log entry 67). -/
def Obligations.Kickoff : Prop :=
  ∀ s : State,
    (s.sys.released = true → ∀ pins, exec (.poresetRelease pins) s = .next s) ∧ (s.sys.released = false → exec .poresetAssert s = .next s)
    ∧ (s.sys.released = false → ∀ pins : PinLevels, ∃ t, exec (.poresetRelease pins) s = .next t ∧ t.sys.released = true ∧ t.tim.now = 0 ∧ t.items = [] ∧ t.met = s.met.timeZero ∧ t.met.log = s.met.log
        ∧ t.fld SYS_BOOT_STAT SYS_BOOT_STAT_STAGE = 3 ∧ t.host = s.host ∧ t.pending = s.pending
        ∧ (∀ n, n < 4 → tfind t.enc n = some { (default : EncSt) with a := (pins.enc.getD n (false, false)).1, b := (pins.enc.getD n (false, false)).2 })
        ∧ ∀ k, k < 8 → tfind t.bar k = some { known := true, level := pins.bar.getD k false, since := s.tb, jammed := false })
    ∧ (s.sys.released = true → ∃ t, exec .poresetAssert s = .next t ∧ t.sys.released = false ∧ t.met = s.met ∧ t.items = [] ∧ t.fetched = [] ∧ t.host = s.host ∧ t.pending = s.pending
        ∧ ∀ a, a ≠ RAS_RESET_CAUSE → t.reg a = regReset a)
    ∧ (s.sys.released = true → s.kickStopped = true → (∀ flash oe, exec (.umpireUp flash oe) s = .next (s.flashPins oe) ∧ exec (.coachImage flash oe) s = .next (s.flashPins oe)) ∧ (∀ c, exec (.dramTrained c) s = .next s)
      ∧ exec .dramWritten s = .next s ∧ (∀ l, exec (.bistDone l) s = .next s) ∧ exec .ready s = .next s)
    ∧ (s.sys.released = true → s.kickStopped = false →
      (s.umpireUp = false → ∀ flash oe, (bootSlot s.otp false flash oe = none → exec (.umpireUp flash oe) s = .next ((s.flashPins oe).stopKick 1 0))
        ∧ ∀ b m, bootSlot s.otp false flash oe = some (b, m) → ∃ t, exec (.umpireUp flash oe) s = .next t ∧ t.umpireUp = true ∧ t.on SYS_BOOT_STAT SYS_BOOT_STAT_UMPIRE_SLOT = b
          ∧ t.fld SYS_BOOT_STAT SYS_BOOT_STAT_STAGE = 5 ∧ t = { s.flashPins oe with regs := t.regs })
      ∧ (s.umpireUp = true → s.sys.trained = false → (∀ c : Fin 8, exec (.dramTrained (some c)) s = .next (s.stopKick 2 c.val))
        ∧ exec (.dramTrained none) s = .next { s with sys := { s.sys with trained := true } })
      ∧ (s.sys.trained = true → s.sys.written = false → ∃ t, exec .dramWritten s = .next t ∧ t.dram = [] ∧ t.ras.chk = [] ∧ t.sys.written = true ∧ t.fld SYS_BOOT_STAT SYS_BOOT_STAT_STAGE = 6
          ∧ t.host = s.host ∧ t.tile = s.tile ∧ s.regsSame t [SYS_BOOT_STAT])
      ∧ (s.sys.trained = true → s.sys.coachImg = false → ∀ flash oe, (bootSlot s.otp true flash oe = none → exec (.coachImage flash oe) s = .next ((s.flashPins oe).stopKick 3 0))
        ∧ ∀ b m, bootSlot s.otp true flash oe = some (b, m) → ∃ t, exec (.coachImage flash oe) s = .next t ∧ t.sys.coachImg = true ∧ t.on SYS_BOOT_STAT SYS_BOOT_STAT_COACH_SLOT = b
          ∧ t.reg SYS_COACH_VER = m.version ∧ s.regsSame t [SYS_BOOT_STAT, SYS_COACH_VER] ∧ s.memSame t)
      ∧ (∀ (flash : List (Nat × BootImage)) (coach : Bool), bootSlot s.otp coach flash false = none
        ∧ (∀ b m, bootSlot s.otp coach flash true = some (b, m) → tfind flash (slotPlace coach b) = some m ∧ imageAccepted m s.otp coach = true
          ∧ (b = true → ∀ x, tfind flash (slotPlace coach false) = some x → imageAccepted x s.otp coach = false))
        ∧ ∀ m, imageAccepted m s.otp coach = true → sha384 (imageKey m) = s.otp.keyDigest ∧ ecdsaOk m.keyX m.keyY m.r m.s (imageSigned m) = true
          ∧ (imageSigned m).length + 192 ≤ (if coach then 16777216 else 524288) ∧ (if coach then s.otp.coachFloor else s.otp.umpireFloor) ≤ m.version.toNat)
      ∧ (∀ oe, (s.flashPins oe).sys.flashHiZ = !oe ∧ s.flashPins oe = { s with sys := { s.sys with flashHiZ := !oe } })
      ∧ (s.on HIF_STAT HIF_STAT_COACH_UP = false → s.sys.coachDown = none → s.sys.written = true → s.sys.coachImg = true → s.sys.coachRan = false →
        ∃ v : State, exec .coachUp s = .next (s.keeps (v.startHuddle s.epoch)) ∧ v.on HIF_STAT HIF_STAT_COACH_UP = true ∧ v.fld SYS_BOOT_STAT SYS_BOOT_STAT_STAGE = 9 ∧ v.sys.coachRan = true
          ∧ v = { s with regs := v.regs, sys := v.sys })
      ∧ (s.umpireUp = true → s.sys.bist = false → ∀ failed, ∃ t, exec (.bistDone failed) s = .next t ∧ t.tile = [] ∧ t.sys.bist = true ∧ t.gov.on = true ∧ t.gov.vout = 750 :: s.fld PIT_GOV_VLIM PIT_GOV_VLIM_V_MAX_MV :: s.gov.vout
          ∧ (∀ p, p < 272 → (t.ptile p).failed = failed.contains p) ∧ t.host = s.host ∧ t.dram = s.dram)
      ∧ (s.isReady = false → s.on HIF_STAT HIF_STAT_COACH_UP = true → s.sys.huddleEnd = true → s.sys.bist = true →
        ∃ v : State, exec .ready s = .next (s.keeps v.resetRecord) ∧ v.isReady = true ∧ v.fld SYS_BOOT_STAT SYS_BOOT_STAT_STAGE = 10 ∧ v.fld SYS_PWR_STAT SYS_PWR_STAT_STATE = 3
          ∧ v.num SYS_BOOT_TIME = (s.tb - s.sys.startTb) / 1000000 % 2 ^ 32 ∧ v = { s with regs := v.regs } ∧ (s.sys.warm = none → v.resetRecord = v)))
    ∧ (∀ code detail, code < 16 → detail < 16 → let t := s.stopKick code detail
        t.kickStopped = true ∧ t.fld SYS_BOOT_STAT SYS_BOOT_STAT_CODE = code ∧ t.fld SYS_BOOT_STAT SYS_BOOT_STAT_DETAIL = detail ∧ s.regsSame t [SYS_BOOT_STAT])

/-- Tempo: each window leaves the tiles' counts in STEPS and the lowest of the mapped tiles in PIT_TEMPO_MIN, the lower index of equals. The governor, at the end of a period without products, raises VDD_PIT by 5 mV where the lowest tempo lies below the floor with its margin, and lowers it after ten quiet periods, within its limits; in FIXED mode a setpoint other than V_FIXED_MV shows in FIXED_OVERRIDE (R192, R194-R196, R202; log entry 69). The sensors: a sample shows in TEMP_C, raises TEMP_MAX and, from WARN_C on, THERM_WARN; from 115 °C it drives SYS_THERM_TRIP_N. A snapshot: the pin and the time comparator trigger with their causes, a trigger within the same nanosecond joins, another one is lost; with every section latched it is written to its place, VALID, with SNP_DONE (R540-R542, R544, R545, R566). -/
def Obligations.TempoSensorsSnapshots : Prop :=
  (∀ s : State, s.sys.released = true →
      (∀ steps : List Nat, ∃ t, exec (.tempoWindow steps) s = .next t ∧ (∀ p, p < 272 → t.fld (PIT_TILE_TEMPO p) PIT_TILE_TEMPO_STEPS = steps.getD p 0 % 2 ^ 16)
        ∧ (∀ p n, t.slowest = some (p, n) → t.fld PIT_TEMPO_MIN PIT_TEMPO_MIN_TILE = p ∧ t.fld PIT_TEMPO_MIN PIT_TEMPO_MIN_STEPS = n)
        ∧ t = { s with regs := t.regs, ptiles := t.ptiles, gov := t.gov })
      ∧ (∀ p n, s.slowest = some (p, n) → p < 272 ∧ s.fld (PIT_TILE_TEMPO p) PIT_TILE_TEMPO_STEPS = n ∧ s.on (PIT_TILE_TEMPO p) PIT_TILE_TEMPO_MAPPED = true
          ∧ ∀ k, k < 272 → s.on (PIT_TILE_TEMPO k) PIT_TILE_TEMPO_MAPPED = true → n ≤ s.fld (PIT_TILE_TEMPO k) PIT_TILE_TEMPO_STEPS
            ∧ (s.fld (PIT_TILE_TEMPO k) PIT_TILE_TEMPO_STEPS = n → p ≤ k))
      ∧ (∀ low, s.gov.products = [] → s.gov.low = some low → s.governs = true → s.on PIT_GOV_CFG PIT_GOV_CFG_MODE = false →
        ∃ u : State, u = { s with regs := u.regs, gov := { s.gov with low := none, products := [], quiet := u.gov.quiet } } ∧ s.regsSame u [PIT_GOV_STAT]
          ∧ (100 * low < 8000 * (100 + s.margin) → exec .governorPeriod s = .next (u.setVolt (min (s.volt + 5) s.vMax)) ∧ u.gov.quiet = 0)
          ∧ (8000 * (100 + 2 * s.margin) ≤ 100 * low → 9 ≤ s.gov.quiet → exec .governorPeriod s = .next (u.setVolt (max (s.volt - 5) s.vMin)) ∧ u.gov.quiet = 0)
          ∧ (8000 * (100 + 2 * s.margin) ≤ 100 * low → s.gov.quiet < 9 → exec .governorPeriod s = .next (u.setVolt s.volt) ∧ u.gov.quiet = s.gov.quiet + 1))
      ∧ (∀ mv, mv < 2 ^ 10 → (s.setVolt mv).volt = mv ∧ s.regsSame (s.setVolt mv) [PIT_GOV_STAT] ∧ ((s.on PIT_GOV_CFG PIT_GOV_CFG_MODE = true ∧ mv ≠ s.fld PIT_GOV_FIXED PIT_GOV_FIXED_V_FIXED_MV) →
          (s.setVolt mv).on PIT_GOV_STAT PIT_GOV_STAT_FIXED_OVERRIDE = true))
      ∧ (s.gov.low = none ∨ s.governs = false → ∃ u, exec .governorPeriod s = .next u ∧ u.volt = s.volt ∧ u.gov.products = [] ∧ u.gov.low = none ∧ u.gov.quiet = s.gov.quiet ∧ s.regsSame u [PIT_GOV_STAT]))
  ∧
  (∀ s : State, s.sys.released = true →
      (∀ temp : BitVec 8, ∃ t, exec (.thermSample temp) s = .next t ∧ t.fld SYS_THERM SYS_THERM_TEMP_C = temp.toNat
        ∧ sgn 8 (t.fld SYS_THERM SYS_THERM_TEMP_MAX) = max (sgn 8 (s.fld SYS_THERM SYS_THERM_TEMP_MAX)) temp.toInt
        ∧ ((s.fld SYS_THERM_CFG SYS_THERM_CFG_WARN_C : Int) ≤ temp.toInt → bit (t.num SYS_IRQ_STAT) 0 = true)
        ∧ (temp.toInt < s.fld SYS_THERM_CFG SYS_THERM_CFG_WARN_C → t.reg SYS_IRQ_STAT = s.reg SYS_IRQ_STAT)
        ∧ (115 ≤ temp.toInt → t.sys.thermTrip = true) ∧ (temp.toInt < 115 → t.sys = s.sys) ∧ s.regsSame t [SYS_THERM, SYS_IRQ_STAT])
      ∧ (∀ stamp : Stamp, (s.on SNP_CTL SNP_CTL_PIN_EN = true → s.on SNP_STAT SNP_STAT_ARMED = true → exec (.snapPin stamp) s = .next (s.keeps (s.snapAct stamp 1 0)))
        ∧ (s.on SNP_CTL SNP_CTL_PIN_EN = false → exec (.snapPin stamp) s = .next s)
        ∧ (s.on SNP_CTL SNP_CTL_PIN_EN = true → s.on SNP_STAT SNP_STAT_ARMED = false →
          (∀ t, s.snp.lastTrig = some t → ns48 t = ns48 stamp → ∃ u, exec (.snapPin stamp) s = .next u ∧ bit (u.fld SNP_STAT SNP_STAT_CAUSE) 1 = true ∧ s.regsSame u [SNP_STAT])
          ∧ ((∀ t, s.snp.lastTrig = some t → ns48 t ≠ ns48 stamp) → ∃ u, exec (.snapPin stamp) s = .next u ∧ u.num SNP_LOST = min (s.num SNP_LOST + 1) 0xFFFFFFFF
            ∧ bit (u.num SNP_IRQ_STAT) 1 = true ∧ u = { s with regs := u.regs, msix := u.msix, msixPend := u.msixPend })))
      ∧ (s.on SNP_CTL SNP_CTL_TIME_EN = true → 0 ≤ sdiff 64 s.now.toNat (s.pair SNP_TIME_CMP_LO) → s.on SNP_STAT SNP_STAT_ARMED = true →
        ∃ u : State, exec .snapTimeMatch s = .next (s.keeps (u.snapAct s.now 2 0)) ∧ u.on SNP_CTL SNP_CTL_TIME_EN = false ∧ s.regsSame u [SNP_CTL] ∧ u = { s with regs := u.regs })
      ∧ (s.on SNP_CTL SNP_CTL_TIME_EN = true → sdiff 64 s.now.toNat (s.pair SNP_TIME_CMP_LO) < 0 → exec .snapTimeMatch s = .next s)
      ∧ ((s.on SNP_STAT SNP_STAT_BUSY = false ∨ s.snp.waitTiles ≠ []) → exec .snapWritten s = .next s)
      ∧ (s.on SNP_STAT SNP_STAT_BUSY = true → s.snp.waitTiles = [] → s.pair SNP_BASE_LO / 4096 * 4096 + s.snapBytes.length ≤ dramBytes →
        ∃ t, exec .snapWritten s = .next t ∧ t.on SNP_STAT SNP_STAT_VALID = true ∧ t.on SNP_STAT SNP_STAT_BUSY = false ∧ bit (t.num SNP_IRQ_STAT) 0 = true
          ∧ mread t.dram (s.pair SNP_BASE_LO / 4096 * 4096) s.snapBytes.length = s.snapBytes ∧ t = { s with regs := t.regs, dram := t.dram, retQueue := [], ras := { s.ras with chk := t.ras.chk }, msix := t.msix, msixPend := t.msixPend }))

/-- The pixels of a line survive retention: a plane coded against its reference, or stored RAW, decodes to the same pixels, whatever the reference (R61, R101-R103). -/
def Obligations.RetentionLossless : Prop :=
  ∀ xs ref : List Nat, (∀ x ∈ xs, x < 4096) → (∀ x ∈ ref, x < 4096) → xs.length % 2 = 0 → xs.length < 2 ^ 20 → decodePlane xs.length (codePlane xs ref) ref = xs
end

