-- ==== Sys2Proof/Laws/Bits.lean ====
section
/-! SUPPORT. The laws of bit fields and of little-endian bytes. -/

namespace Sys2Proof.Machine

/-- A word by its field: what lies above, the field, what lies below. -/
theorem word_split (w : Word) (f : Fld) :
    w.toNat = 2 ^ f.lo * (2 ^ (f.hi + 1 - f.lo) * (w.toNat / 2 ^ f.lo / 2 ^ (f.hi + 1 - f.lo)) + fget w f) + w.toNat % 2 ^ f.lo := by
  simp only [fget, Nat.shiftRight_eq_div_pow]
  rw [Nat.div_add_mod, Nat.div_add_mod]

/-- Putting a field changes the field alone. -/
theorem fset_toNat (w : Word) (f : Fld) (v : Nat) (h : f.lo ≤ f.hi) (h' : f.hi < 32) :
    (fset w f v).toNat = 2 ^ f.lo * (2 ^ (f.hi + 1 - f.lo) * (w.toNat / 2 ^ f.lo / 2 ^ (f.hi + 1 - f.lo)) + v % 2 ^ (f.hi + 1 - f.lo))
      + w.toNat % 2 ^ f.lo := by
  have e := word_split w f
  obtain ⟨hi, lo⟩ := f
  simp only at h h' e
  have hw : w.toNat < 2 ^ 32 := w.isLt
  have hp : 2 ^ 32 = 2 ^ lo * (2 ^ (hi + 1 - lo) * 2 ^ (31 - hi)) := by
    rw [← pow_add, ← pow_add]; congr 1; omega
  simp only [fset, BitVec.toNat_ofNat]
  generalize fget w ⟨hi, lo⟩ = b at *
  generalize 2 ^ (31 - hi) = r at *
  have mpos : 0 < 2 ^ (hi + 1 - lo) := by positivity
  have lpos : 0 < 2 ^ lo := by positivity
  generalize 2 ^ (hi + 1 - lo) = m at *
  generalize 2 ^ lo = l at *
  have l1 := Nat.mod_lt w.toNat lpos
  have l2 := Nat.mod_lt v mpos
  have q : w.toNat / l / m < r := by
    rw [Nat.div_div_eq_div_mul, Nat.div_lt_iff_lt_mul (by positivity)]
    rw [hp] at hw; calc w.toNat < _ := hw
      _ = r * (l * m) := by ring
  generalize w.toNat / l / m = a at *
  generalize w.toNat % l = c at *
  have k : w.toNat = l * (m * a) + c + b * l := by rw [e]; ring
  have s : w.toNat - b * l + v % m * l = l * (m * a + v % m) + c := by
    have k' : w.toNat - b * l = l * (m * a) + c := by omega
    rw [k']; ring
  have n : l * (m * a + v % m) + c < 2 ^ 32 := by
    rw [hp]
    have : m * a + v % m + 1 ≤ m * r := by
      calc m * a + v % m + 1 ≤ m * a + m := by omega
        _ = m * (a + 1) := by ring
        _ ≤ m * r := Nat.mul_le_mul_left m q
    nlinarith
  rw [s, Nat.mod_eq_of_lt n]

/-- A field reads as what was put into it, modulo its width. -/
theorem fget_fset_same (w : Word) (f : Fld) (v : Nat) (h : f.lo ≤ f.hi) (h' : f.hi < 32) :
    fget (fset w f v) f = v % 2 ^ (f.hi + 1 - f.lo) := by
  rw [fget, fset_toNat w f v h h', Nat.shiftRight_eq_div_pow, Nat.mul_add_div (by positivity),
    Nat.div_eq_of_lt (Nat.mod_lt _ (by positivity)), Nat.add_zero, Nat.mul_add_mod, Nat.mod_mod]

/-- Putting a field leaves the bits outside it. -/
theorem fset_testBit (w : Word) (f : Fld) (v i : Nat) (h : f.lo ≤ f.hi) (h' : f.hi < 32) (hi : i < f.lo ∨ f.hi < i) :
    (fset w f v).toNat.testBit i = w.toNat.testBit i := by
  have e := fset_toNat w f v h h'
  rcases hi with hi | hi
  · have : (fset w f v).toNat % 2 ^ f.lo = w.toNat % 2 ^ f.lo := by rw [e, Nat.mul_add_mod, Nat.mod_mod]
    have a := Nat.testBit_mod_two_pow (fset w f v).toNat f.lo i
    have b := Nat.testBit_mod_two_pow w.toNat f.lo i
    rw [this, b] at a
    simpa [hi] using a.symm
  · have n : f.lo + (f.hi + 1 - f.lo) ≤ i := by omega
    have d : (fset w f v).toNat / 2 ^ f.lo / 2 ^ (f.hi + 1 - f.lo) = w.toNat / 2 ^ f.lo / 2 ^ (f.hi + 1 - f.lo) := by
      rw [e, Nat.mul_add_div (by positivity), Nat.div_eq_of_lt (Nat.mod_lt _ (by positivity)), Nat.add_zero,
        Nat.mul_add_div (by positivity), Nat.div_eq_of_lt (Nat.mod_lt _ (by positivity)), Nat.add_zero]
    obtain ⟨j, rfl⟩ := Nat.exists_eq_add_of_le n
    have t (x : Nat) : x.testBit (f.lo + (f.hi + 1 - f.lo) + j) = (x / 2 ^ f.lo / 2 ^ (f.hi + 1 - f.lo)).testBit j := by
      rw [Nat.testBit_div_two_pow, Nat.testBit_div_two_pow]; congr 1; omega
    rw [t, t, d]

/-- Putting a field leaves every other field. -/
theorem fget_fset_other (w : Word) (f g : Fld) (v : Nat) (h : f.lo ≤ f.hi) (h' : f.hi < 32) (d : g.hi < f.lo ∨ f.hi < g.lo) :
    fget (fset w f v) g = fget w g := by
  apply Nat.eq_of_testBit_eq
  intro i
  simp only [fget, Nat.shiftRight_eq_div_pow, Nat.testBit_mod_two_pow, Nat.testBit_div_two_pow]
  by_cases k : i < g.hi + 1 - g.lo
  · rw [fset_testBit w f v _ h h' (by omega)]
  · simp [k]

@[simp] theorem leBytes_length (n v : Nat) : (leBytes n v).length = n := by
  induction n generalizing v with
  | zero => rfl
  | succ n ih => simp [leBytes, ih]

/-- The bytes of a number spell it, modulo their number. -/
theorem leNat_leBytes (n v : Nat) : leNat (leBytes n v) = v % 256 ^ n := by
  induction n generalizing v with
  | zero => simp [leBytes, leNat, Nat.mod_one]
  | succ n ih =>
    have e : (256 : Nat) ^ (n + 1) = 256 * 256 ^ n := by rw [pow_succ, Nat.mul_comm]
    rw [e, Nat.mod_mul]
    simp [leBytes, leNat, ih]

end Sys2Proof.Machine
end

