-- ==== Sys2Proof/Laws/State.lean ====
section
/-! SUPPORT. What a write of a register or of a memory leaves alone: one lemma for each field of the state. -/

namespace Sys2Proof.Machine

/-! ### setReg -/

@[simp] theorem State.setReg_pending (s : State) (a : Nat) (v : Word) : (s.setReg a v).pending = s.pending := rfl
@[simp] theorem State.setReg_shadow (s : State) (a : Nat) (v : Word) : (s.setReg a v).shadow = s.shadow := rfl
@[simp] theorem State.setReg_bootPend (s : State) (a : Nat) (v : Word) : (s.setReg a v).bootPend = s.bootPend := rfl
@[simp] theorem State.setReg_loWord (s : State) (a : Nat) (v : Word) : (s.setReg a v).loWord = s.loWord := rfl
@[simp] theorem State.setReg_hiLatch (s : State) (a : Nat) (v : Word) : (s.setReg a v).hiLatch = s.hiLatch := rfl
@[simp] theorem State.setReg_rdata (s : State) (a : Nat) (v : Word) : (s.setReg a v).rdata = s.rdata := rfl
@[simp] theorem State.setReg_msix (s : State) (a : Nat) (v : Word) : (s.setReg a v).msix = s.msix := rfl
@[simp] theorem State.setReg_msixMask (s : State) (a : Nat) (v : Word) : (s.setReg a v).msixMask = s.msixMask := rfl
@[simp] theorem State.setReg_msixPend (s : State) (a : Nat) (v : Word) : (s.setReg a v).msixPend = s.msixPend := rfl
@[simp] theorem State.setReg_host (s : State) (a : Nat) (v : Word) : (s.setReg a v).host = s.host := rfl
@[simp] theorem State.setReg_dram (s : State) (a : Nat) (v : Word) : (s.setReg a v).dram = s.dram := rfl
@[simp] theorem State.setReg_tile (s : State) (a : Nat) (v : Word) : (s.setReg a v).tile = s.tile := rfl
@[simp] theorem State.setReg_retQueue (s : State) (a : Nat) (v : Word) : (s.setReg a v).retQueue = s.retQueue := rfl
@[simp] theorem State.setReg_dirty (s : State) (a : Nat) (v : Word) : (s.setReg a v).dirty = s.dirty := rfl
@[simp] theorem State.setReg_freeCtr (s : State) (a : Nat) (v : Word) : (s.setReg a v).freeCtr = s.freeCtr := rfl
@[simp] theorem State.setReg_tb (s : State) (a : Nat) (v : Word) : (s.setReg a v).tb = s.tb := rfl
@[simp] theorem State.setReg_items (s : State) (a : Nat) (v : Word) : (s.setReg a v).items = s.items := rfl
@[simp] theorem State.setReg_freeNext (s : State) (a : Nat) (v : Word) : (s.setReg a v).freeNext = s.freeNext := rfl
@[simp] theorem State.setReg_freed (s : State) (a : Nat) (v : Word) : (s.setReg a v).freed = s.freed := rfl
@[simp] theorem State.setReg_beWait (s : State) (a : Nat) (v : Word) : (s.setReg a v).beWait = s.beWait := rfl
@[simp] theorem State.setReg_pieces (s : State) (a : Nat) (v : Word) : (s.setReg a v).pieces = s.pieces := rfl
@[simp] theorem State.setReg_sides (s : State) (a : Nat) (v : Word) : (s.setReg a v).sides = s.sides := rfl
@[simp] theorem State.setReg_sideEnds (s : State) (a : Nat) (v : Word) : (s.setReg a v).sideEnds = s.sideEnds := rfl
@[simp] theorem State.setReg_regions (s : State) (a : Nat) (v : Word) : (s.setReg a v).regions = s.regions := rfl
@[simp] theorem State.setReg_seqs (s : State) (a : Nat) (v : Word) : (s.setReg a v).seqs = s.seqs := rfl
@[simp] theorem State.setReg_images (s : State) (a : Nat) (v : Word) : (s.setReg a v).images = s.images := rfl
@[simp] theorem State.setReg_crops (s : State) (a : Nat) (v : Word) : (s.setReg a v).crops = s.crops := rfl
@[simp] theorem State.setReg_lin (s : State) (a : Nat) (v : Word) : (s.setReg a v).lin = s.lin := rfl
@[simp] theorem State.setReg_enc (s : State) (a : Nat) (v : Word) : (s.setReg a v).enc = s.enc := rfl
@[simp] theorem State.setReg_bar (s : State) (a : Nat) (v : Word) : (s.setReg a v).bar = s.bar := rfl
@[simp] theorem State.setReg_cal (s : State) (a : Nat) (v : Word) : (s.setReg a v).cal = s.cal := rfl
@[simp] theorem State.setReg_tiles (s : State) (a : Nat) (v : Word) : (s.setReg a v).tiles = s.tiles := rfl
@[simp] theorem State.setReg_ptiles (s : State) (a : Nat) (v : Word) : (s.setReg a v).ptiles = s.ptiles := rfl
@[simp] theorem State.setReg_jobs (s : State) (a : Nat) (v : Word) : (s.setReg a v).jobs = s.jobs := rfl
@[simp] theorem State.setReg_nextJob (s : State) (a : Nat) (v : Word) : (s.setReg a v).nextJob = s.nextJob := rfl
@[simp] theorem State.setReg_msgs (s : State) (a : Nat) (v : Word) : (s.setReg a v).msgs = s.msgs := rfl
@[simp] theorem State.setReg_gov (s : State) (a : Nat) (v : Word) : (s.setReg a v).gov = s.gov := rfl
@[simp] theorem State.setReg_reqs (s : State) (a : Nat) (v : Word) : (s.setReg a v).reqs = s.reqs := rfl
@[simp] theorem State.setReg_nextReq (s : State) (a : Nat) (v : Word) : (s.setReg a v).nextReq = s.nextReq := rfl
@[simp] theorem State.setReg_xfers (s : State) (a : Nat) (v : Word) : (s.setReg a v).xfers = s.xfers := rfl
@[simp] theorem State.setReg_nextXfer (s : State) (a : Nat) (v : Word) : (s.setReg a v).nextXfer = s.nextXfer := rfl
@[simp] theorem State.setReg_refs (s : State) (a : Nat) (v : Word) : (s.setReg a v).refs = s.refs := rfl
@[simp] theorem State.setReg_prefixes (s : State) (a : Nat) (v : Word) : (s.setReg a v).prefixes = s.prefixes := rfl
@[simp] theorem State.setReg_masks (s : State) (a : Nat) (v : Word) : (s.setReg a v).masks = s.masks := rfl
@[simp] theorem State.setReg_maskAsks (s : State) (a : Nat) (v : Word) : (s.setReg a v).maskAsks = s.maskAsks := rfl
@[simp] theorem State.setReg_slices (s : State) (a : Nat) (v : Word) : (s.setReg a v).slices = s.slices := rfl
@[simp] theorem State.setReg_groups (s : State) (a : Nat) (v : Word) : (s.setReg a v).groups = s.groups := rfl
@[simp] theorem State.setReg_parts (s : State) (a : Nat) (v : Word) : (s.setReg a v).parts = s.parts := rfl
@[simp] theorem State.setReg_ctxs (s : State) (a : Nat) (v : Word) : (s.setReg a v).ctxs = s.ctxs := rfl
@[simp] theorem State.setReg_ready (s : State) (a : Nat) (v : Word) : (s.setReg a v).ready = s.ready := rfl
@[simp] theorem State.setReg_models (s : State) (a : Nat) (v : Word) : (s.setReg a v).models = s.models := rfl
@[simp] theorem State.setReg_playbooks (s : State) (a : Nat) (v : Word) : (s.setReg a v).playbooks = s.playbooks := rfl
@[simp] theorem State.setReg_nextPb (s : State) (a : Nat) (v : Word) : (s.setReg a v).nextPb = s.nextPb := rfl
@[simp] theorem State.setReg_fetched (s : State) (a : Nat) (v : Word) : (s.setReg a v).fetched = s.fetched := rfl
@[simp] theorem State.setReg_hold (s : State) (a : Nat) (v : Word) : (s.setReg a v).hold = s.hold := rfl
@[simp] theorem State.setReg_rings (s : State) (a : Nat) (v : Word) : (s.setReg a v).rings = s.rings := rfl
@[simp] theorem State.setReg_sqs (s : State) (a : Nat) (v : Word) : (s.setReg a v).sqs = s.sqs := rfl
@[simp] theorem State.setReg_kol (s : State) (a : Nat) (v : Word) : (s.setReg a v).kol = s.kol := rfl
@[simp] theorem State.setReg_tim (s : State) (a : Nat) (v : Word) : (s.setReg a v).tim = s.tim := rfl
@[simp] theorem State.setReg_ras (s : State) (a : Nat) (v : Word) : (s.setReg a v).ras = s.ras := rfl
@[simp] theorem State.setReg_snp (s : State) (a : Nat) (v : Word) : (s.setReg a v).snp = s.snp := rfl
@[simp] theorem State.setReg_eth (s : State) (a : Nat) (v : Word) : (s.setReg a v).eth = s.eth := rfl
@[simp] theorem State.setReg_textNo (s : State) (a : Nat) (v : Word) : (s.setReg a v).textNo = s.textNo := rfl
@[simp] theorem State.setReg_repairedTexts (s : State) (a : Nat) (v : Word) : (s.setReg a v).repairedTexts = s.repairedTexts := rfl
@[simp] theorem State.setReg_metTaken (s : State) (a : Nat) (v : Word) : (s.setReg a v).metTaken = s.metTaken := rfl
@[simp] theorem State.setReg_sys (s : State) (a : Nat) (v : Word) : (s.setReg a v).sys = s.sys := rfl
@[simp] theorem State.setReg_otp (s : State) (a : Nat) (v : Word) : (s.setReg a v).otp = s.otp := rfl
@[simp] theorem State.setReg_met (s : State) (a : Nat) (v : Word) : (s.setReg a v).met = s.met := rfl

/-! ### hwrite -/

@[simp] theorem State.hwrite_pending (s : State) (a : Nat) (l : List Byte) : (s.hwrite a l).pending = s.pending := rfl
@[simp] theorem State.hwrite_regs (s : State) (a : Nat) (l : List Byte) : (s.hwrite a l).regs = s.regs := rfl
@[simp] theorem State.hwrite_shadow (s : State) (a : Nat) (l : List Byte) : (s.hwrite a l).shadow = s.shadow := rfl
@[simp] theorem State.hwrite_bootPend (s : State) (a : Nat) (l : List Byte) : (s.hwrite a l).bootPend = s.bootPend := rfl
@[simp] theorem State.hwrite_loWord (s : State) (a : Nat) (l : List Byte) : (s.hwrite a l).loWord = s.loWord := rfl
@[simp] theorem State.hwrite_hiLatch (s : State) (a : Nat) (l : List Byte) : (s.hwrite a l).hiLatch = s.hiLatch := rfl
@[simp] theorem State.hwrite_rdata (s : State) (a : Nat) (l : List Byte) : (s.hwrite a l).rdata = s.rdata := rfl
@[simp] theorem State.hwrite_msix (s : State) (a : Nat) (l : List Byte) : (s.hwrite a l).msix = s.msix := rfl
@[simp] theorem State.hwrite_msixMask (s : State) (a : Nat) (l : List Byte) : (s.hwrite a l).msixMask = s.msixMask := rfl
@[simp] theorem State.hwrite_msixPend (s : State) (a : Nat) (l : List Byte) : (s.hwrite a l).msixPend = s.msixPend := rfl
@[simp] theorem State.hwrite_dram (s : State) (a : Nat) (l : List Byte) : (s.hwrite a l).dram = s.dram := rfl
@[simp] theorem State.hwrite_tile (s : State) (a : Nat) (l : List Byte) : (s.hwrite a l).tile = s.tile := rfl
@[simp] theorem State.hwrite_retQueue (s : State) (a : Nat) (l : List Byte) : (s.hwrite a l).retQueue = s.retQueue := rfl
@[simp] theorem State.hwrite_dirty (s : State) (a : Nat) (l : List Byte) : (s.hwrite a l).dirty = s.dirty := rfl
@[simp] theorem State.hwrite_freeCtr (s : State) (a : Nat) (l : List Byte) : (s.hwrite a l).freeCtr = s.freeCtr := rfl
@[simp] theorem State.hwrite_tb (s : State) (a : Nat) (l : List Byte) : (s.hwrite a l).tb = s.tb := rfl
@[simp] theorem State.hwrite_items (s : State) (a : Nat) (l : List Byte) : (s.hwrite a l).items = s.items := rfl
@[simp] theorem State.hwrite_freeNext (s : State) (a : Nat) (l : List Byte) : (s.hwrite a l).freeNext = s.freeNext := rfl
@[simp] theorem State.hwrite_freed (s : State) (a : Nat) (l : List Byte) : (s.hwrite a l).freed = s.freed := rfl
@[simp] theorem State.hwrite_beWait (s : State) (a : Nat) (l : List Byte) : (s.hwrite a l).beWait = s.beWait := rfl
@[simp] theorem State.hwrite_pieces (s : State) (a : Nat) (l : List Byte) : (s.hwrite a l).pieces = s.pieces := rfl
@[simp] theorem State.hwrite_sides (s : State) (a : Nat) (l : List Byte) : (s.hwrite a l).sides = s.sides := rfl
@[simp] theorem State.hwrite_sideEnds (s : State) (a : Nat) (l : List Byte) : (s.hwrite a l).sideEnds = s.sideEnds := rfl
@[simp] theorem State.hwrite_regions (s : State) (a : Nat) (l : List Byte) : (s.hwrite a l).regions = s.regions := rfl
@[simp] theorem State.hwrite_seqs (s : State) (a : Nat) (l : List Byte) : (s.hwrite a l).seqs = s.seqs := rfl
@[simp] theorem State.hwrite_images (s : State) (a : Nat) (l : List Byte) : (s.hwrite a l).images = s.images := rfl
@[simp] theorem State.hwrite_crops (s : State) (a : Nat) (l : List Byte) : (s.hwrite a l).crops = s.crops := rfl
@[simp] theorem State.hwrite_lin (s : State) (a : Nat) (l : List Byte) : (s.hwrite a l).lin = s.lin := rfl
@[simp] theorem State.hwrite_enc (s : State) (a : Nat) (l : List Byte) : (s.hwrite a l).enc = s.enc := rfl
@[simp] theorem State.hwrite_bar (s : State) (a : Nat) (l : List Byte) : (s.hwrite a l).bar = s.bar := rfl
@[simp] theorem State.hwrite_cal (s : State) (a : Nat) (l : List Byte) : (s.hwrite a l).cal = s.cal := rfl
@[simp] theorem State.hwrite_tiles (s : State) (a : Nat) (l : List Byte) : (s.hwrite a l).tiles = s.tiles := rfl
@[simp] theorem State.hwrite_ptiles (s : State) (a : Nat) (l : List Byte) : (s.hwrite a l).ptiles = s.ptiles := rfl
@[simp] theorem State.hwrite_jobs (s : State) (a : Nat) (l : List Byte) : (s.hwrite a l).jobs = s.jobs := rfl
@[simp] theorem State.hwrite_nextJob (s : State) (a : Nat) (l : List Byte) : (s.hwrite a l).nextJob = s.nextJob := rfl
@[simp] theorem State.hwrite_msgs (s : State) (a : Nat) (l : List Byte) : (s.hwrite a l).msgs = s.msgs := rfl
@[simp] theorem State.hwrite_gov (s : State) (a : Nat) (l : List Byte) : (s.hwrite a l).gov = s.gov := rfl
@[simp] theorem State.hwrite_reqs (s : State) (a : Nat) (l : List Byte) : (s.hwrite a l).reqs = s.reqs := rfl
@[simp] theorem State.hwrite_nextReq (s : State) (a : Nat) (l : List Byte) : (s.hwrite a l).nextReq = s.nextReq := rfl
@[simp] theorem State.hwrite_xfers (s : State) (a : Nat) (l : List Byte) : (s.hwrite a l).xfers = s.xfers := rfl
@[simp] theorem State.hwrite_nextXfer (s : State) (a : Nat) (l : List Byte) : (s.hwrite a l).nextXfer = s.nextXfer := rfl
@[simp] theorem State.hwrite_refs (s : State) (a : Nat) (l : List Byte) : (s.hwrite a l).refs = s.refs := rfl
@[simp] theorem State.hwrite_prefixes (s : State) (a : Nat) (l : List Byte) : (s.hwrite a l).prefixes = s.prefixes := rfl
@[simp] theorem State.hwrite_masks (s : State) (a : Nat) (l : List Byte) : (s.hwrite a l).masks = s.masks := rfl
@[simp] theorem State.hwrite_maskAsks (s : State) (a : Nat) (l : List Byte) : (s.hwrite a l).maskAsks = s.maskAsks := rfl
@[simp] theorem State.hwrite_slices (s : State) (a : Nat) (l : List Byte) : (s.hwrite a l).slices = s.slices := rfl
@[simp] theorem State.hwrite_groups (s : State) (a : Nat) (l : List Byte) : (s.hwrite a l).groups = s.groups := rfl
@[simp] theorem State.hwrite_parts (s : State) (a : Nat) (l : List Byte) : (s.hwrite a l).parts = s.parts := rfl
@[simp] theorem State.hwrite_ctxs (s : State) (a : Nat) (l : List Byte) : (s.hwrite a l).ctxs = s.ctxs := rfl
@[simp] theorem State.hwrite_ready (s : State) (a : Nat) (l : List Byte) : (s.hwrite a l).ready = s.ready := rfl
@[simp] theorem State.hwrite_models (s : State) (a : Nat) (l : List Byte) : (s.hwrite a l).models = s.models := rfl
@[simp] theorem State.hwrite_playbooks (s : State) (a : Nat) (l : List Byte) : (s.hwrite a l).playbooks = s.playbooks := rfl
@[simp] theorem State.hwrite_nextPb (s : State) (a : Nat) (l : List Byte) : (s.hwrite a l).nextPb = s.nextPb := rfl
@[simp] theorem State.hwrite_fetched (s : State) (a : Nat) (l : List Byte) : (s.hwrite a l).fetched = s.fetched := rfl
@[simp] theorem State.hwrite_hold (s : State) (a : Nat) (l : List Byte) : (s.hwrite a l).hold = s.hold := rfl
@[simp] theorem State.hwrite_rings (s : State) (a : Nat) (l : List Byte) : (s.hwrite a l).rings = s.rings := rfl
@[simp] theorem State.hwrite_sqs (s : State) (a : Nat) (l : List Byte) : (s.hwrite a l).sqs = s.sqs := rfl
@[simp] theorem State.hwrite_kol (s : State) (a : Nat) (l : List Byte) : (s.hwrite a l).kol = s.kol := rfl
@[simp] theorem State.hwrite_tim (s : State) (a : Nat) (l : List Byte) : (s.hwrite a l).tim = s.tim := rfl
@[simp] theorem State.hwrite_ras (s : State) (a : Nat) (l : List Byte) : (s.hwrite a l).ras = s.ras := rfl
@[simp] theorem State.hwrite_snp (s : State) (a : Nat) (l : List Byte) : (s.hwrite a l).snp = s.snp := rfl
@[simp] theorem State.hwrite_eth (s : State) (a : Nat) (l : List Byte) : (s.hwrite a l).eth = s.eth := rfl
@[simp] theorem State.hwrite_textNo (s : State) (a : Nat) (l : List Byte) : (s.hwrite a l).textNo = s.textNo := rfl
@[simp] theorem State.hwrite_repairedTexts (s : State) (a : Nat) (l : List Byte) : (s.hwrite a l).repairedTexts = s.repairedTexts := rfl
@[simp] theorem State.hwrite_metTaken (s : State) (a : Nat) (l : List Byte) : (s.hwrite a l).metTaken = s.metTaken := rfl
@[simp] theorem State.hwrite_sys (s : State) (a : Nat) (l : List Byte) : (s.hwrite a l).sys = s.sys := rfl
@[simp] theorem State.hwrite_otp (s : State) (a : Nat) (l : List Byte) : (s.hwrite a l).otp = s.otp := rfl
@[simp] theorem State.hwrite_met (s : State) (a : Nat) (l : List Byte) : (s.hwrite a l).met = s.met := rfl

/-! ### dput -/

@[simp] theorem State.dput_pending (s : State) (a : Nat) (l : List Byte) : (s.dput a l).pending = s.pending := rfl
@[simp] theorem State.dput_regs (s : State) (a : Nat) (l : List Byte) : (s.dput a l).regs = s.regs := rfl
@[simp] theorem State.dput_shadow (s : State) (a : Nat) (l : List Byte) : (s.dput a l).shadow = s.shadow := rfl
@[simp] theorem State.dput_bootPend (s : State) (a : Nat) (l : List Byte) : (s.dput a l).bootPend = s.bootPend := rfl
@[simp] theorem State.dput_loWord (s : State) (a : Nat) (l : List Byte) : (s.dput a l).loWord = s.loWord := rfl
@[simp] theorem State.dput_hiLatch (s : State) (a : Nat) (l : List Byte) : (s.dput a l).hiLatch = s.hiLatch := rfl
@[simp] theorem State.dput_rdata (s : State) (a : Nat) (l : List Byte) : (s.dput a l).rdata = s.rdata := rfl
@[simp] theorem State.dput_msix (s : State) (a : Nat) (l : List Byte) : (s.dput a l).msix = s.msix := rfl
@[simp] theorem State.dput_msixMask (s : State) (a : Nat) (l : List Byte) : (s.dput a l).msixMask = s.msixMask := rfl
@[simp] theorem State.dput_msixPend (s : State) (a : Nat) (l : List Byte) : (s.dput a l).msixPend = s.msixPend := rfl
@[simp] theorem State.dput_host (s : State) (a : Nat) (l : List Byte) : (s.dput a l).host = s.host := rfl
@[simp] theorem State.dput_tile (s : State) (a : Nat) (l : List Byte) : (s.dput a l).tile = s.tile := rfl
@[simp] theorem State.dput_retQueue (s : State) (a : Nat) (l : List Byte) : (s.dput a l).retQueue = s.retQueue := rfl
@[simp] theorem State.dput_dirty (s : State) (a : Nat) (l : List Byte) : (s.dput a l).dirty = s.dirty := rfl
@[simp] theorem State.dput_freeCtr (s : State) (a : Nat) (l : List Byte) : (s.dput a l).freeCtr = s.freeCtr := rfl
@[simp] theorem State.dput_tb (s : State) (a : Nat) (l : List Byte) : (s.dput a l).tb = s.tb := rfl
@[simp] theorem State.dput_items (s : State) (a : Nat) (l : List Byte) : (s.dput a l).items = s.items := rfl
@[simp] theorem State.dput_freeNext (s : State) (a : Nat) (l : List Byte) : (s.dput a l).freeNext = s.freeNext := rfl
@[simp] theorem State.dput_freed (s : State) (a : Nat) (l : List Byte) : (s.dput a l).freed = s.freed := rfl
@[simp] theorem State.dput_beWait (s : State) (a : Nat) (l : List Byte) : (s.dput a l).beWait = s.beWait := rfl
@[simp] theorem State.dput_pieces (s : State) (a : Nat) (l : List Byte) : (s.dput a l).pieces = s.pieces := rfl
@[simp] theorem State.dput_sides (s : State) (a : Nat) (l : List Byte) : (s.dput a l).sides = s.sides := rfl
@[simp] theorem State.dput_sideEnds (s : State) (a : Nat) (l : List Byte) : (s.dput a l).sideEnds = s.sideEnds := rfl
@[simp] theorem State.dput_regions (s : State) (a : Nat) (l : List Byte) : (s.dput a l).regions = s.regions := rfl
@[simp] theorem State.dput_seqs (s : State) (a : Nat) (l : List Byte) : (s.dput a l).seqs = s.seqs := rfl
@[simp] theorem State.dput_images (s : State) (a : Nat) (l : List Byte) : (s.dput a l).images = s.images := rfl
@[simp] theorem State.dput_crops (s : State) (a : Nat) (l : List Byte) : (s.dput a l).crops = s.crops := rfl
@[simp] theorem State.dput_lin (s : State) (a : Nat) (l : List Byte) : (s.dput a l).lin = s.lin := rfl
@[simp] theorem State.dput_enc (s : State) (a : Nat) (l : List Byte) : (s.dput a l).enc = s.enc := rfl
@[simp] theorem State.dput_bar (s : State) (a : Nat) (l : List Byte) : (s.dput a l).bar = s.bar := rfl
@[simp] theorem State.dput_cal (s : State) (a : Nat) (l : List Byte) : (s.dput a l).cal = s.cal := rfl
@[simp] theorem State.dput_tiles (s : State) (a : Nat) (l : List Byte) : (s.dput a l).tiles = s.tiles := rfl
@[simp] theorem State.dput_ptiles (s : State) (a : Nat) (l : List Byte) : (s.dput a l).ptiles = s.ptiles := rfl
@[simp] theorem State.dput_jobs (s : State) (a : Nat) (l : List Byte) : (s.dput a l).jobs = s.jobs := rfl
@[simp] theorem State.dput_nextJob (s : State) (a : Nat) (l : List Byte) : (s.dput a l).nextJob = s.nextJob := rfl
@[simp] theorem State.dput_msgs (s : State) (a : Nat) (l : List Byte) : (s.dput a l).msgs = s.msgs := rfl
@[simp] theorem State.dput_gov (s : State) (a : Nat) (l : List Byte) : (s.dput a l).gov = s.gov := rfl
@[simp] theorem State.dput_reqs (s : State) (a : Nat) (l : List Byte) : (s.dput a l).reqs = s.reqs := rfl
@[simp] theorem State.dput_nextReq (s : State) (a : Nat) (l : List Byte) : (s.dput a l).nextReq = s.nextReq := rfl
@[simp] theorem State.dput_xfers (s : State) (a : Nat) (l : List Byte) : (s.dput a l).xfers = s.xfers := rfl
@[simp] theorem State.dput_nextXfer (s : State) (a : Nat) (l : List Byte) : (s.dput a l).nextXfer = s.nextXfer := rfl
@[simp] theorem State.dput_refs (s : State) (a : Nat) (l : List Byte) : (s.dput a l).refs = s.refs := rfl
@[simp] theorem State.dput_prefixes (s : State) (a : Nat) (l : List Byte) : (s.dput a l).prefixes = s.prefixes := rfl
@[simp] theorem State.dput_masks (s : State) (a : Nat) (l : List Byte) : (s.dput a l).masks = s.masks := rfl
@[simp] theorem State.dput_maskAsks (s : State) (a : Nat) (l : List Byte) : (s.dput a l).maskAsks = s.maskAsks := rfl
@[simp] theorem State.dput_slices (s : State) (a : Nat) (l : List Byte) : (s.dput a l).slices = s.slices := rfl
@[simp] theorem State.dput_groups (s : State) (a : Nat) (l : List Byte) : (s.dput a l).groups = s.groups := rfl
@[simp] theorem State.dput_parts (s : State) (a : Nat) (l : List Byte) : (s.dput a l).parts = s.parts := rfl
@[simp] theorem State.dput_ctxs (s : State) (a : Nat) (l : List Byte) : (s.dput a l).ctxs = s.ctxs := rfl
@[simp] theorem State.dput_ready (s : State) (a : Nat) (l : List Byte) : (s.dput a l).ready = s.ready := rfl
@[simp] theorem State.dput_models (s : State) (a : Nat) (l : List Byte) : (s.dput a l).models = s.models := rfl
@[simp] theorem State.dput_playbooks (s : State) (a : Nat) (l : List Byte) : (s.dput a l).playbooks = s.playbooks := rfl
@[simp] theorem State.dput_nextPb (s : State) (a : Nat) (l : List Byte) : (s.dput a l).nextPb = s.nextPb := rfl
@[simp] theorem State.dput_fetched (s : State) (a : Nat) (l : List Byte) : (s.dput a l).fetched = s.fetched := rfl
@[simp] theorem State.dput_hold (s : State) (a : Nat) (l : List Byte) : (s.dput a l).hold = s.hold := rfl
@[simp] theorem State.dput_rings (s : State) (a : Nat) (l : List Byte) : (s.dput a l).rings = s.rings := rfl
@[simp] theorem State.dput_sqs (s : State) (a : Nat) (l : List Byte) : (s.dput a l).sqs = s.sqs := rfl
@[simp] theorem State.dput_kol (s : State) (a : Nat) (l : List Byte) : (s.dput a l).kol = s.kol := rfl
@[simp] theorem State.dput_tim (s : State) (a : Nat) (l : List Byte) : (s.dput a l).tim = s.tim := rfl
@[simp] theorem State.dput_snp (s : State) (a : Nat) (l : List Byte) : (s.dput a l).snp = s.snp := rfl
@[simp] theorem State.dput_eth (s : State) (a : Nat) (l : List Byte) : (s.dput a l).eth = s.eth := rfl
@[simp] theorem State.dput_textNo (s : State) (a : Nat) (l : List Byte) : (s.dput a l).textNo = s.textNo := rfl
@[simp] theorem State.dput_repairedTexts (s : State) (a : Nat) (l : List Byte) : (s.dput a l).repairedTexts = s.repairedTexts := rfl
@[simp] theorem State.dput_metTaken (s : State) (a : Nat) (l : List Byte) : (s.dput a l).metTaken = s.metTaken := rfl
@[simp] theorem State.dput_sys (s : State) (a : Nat) (l : List Byte) : (s.dput a l).sys = s.sys := rfl
@[simp] theorem State.dput_otp (s : State) (a : Nat) (l : List Byte) : (s.dput a l).otp = s.otp := rfl
@[simp] theorem State.dput_met (s : State) (a : Nat) (l : List Byte) : (s.dput a l).met = s.met := rfl

/-! ### dwrite -/

/-- The waiting retention writes change DRAM and its check bytes only. -/
theorem State.dputs_eq (q : List (Nat × List Byte)) : ∀ s : State,
    q.foldl (fun s w => s.dput w.1 w.2) s =
      { s with dram := (q.foldl (fun s w => s.dput w.1 w.2) s).dram, ras := (q.foldl (fun s w => s.dput w.1 w.2) s).ras } := by
  induction q with
  | nil => intro s; rfl
  | cons w q ih => intro s; rw [List.foldl_cons, ih]; rfl

/-- A write to DRAM changes DRAM, its check bytes and the retention writes that wait, nothing else (R100). -/
theorem State.dwrite_eq (s : State) (a : Nat) (l : List Byte) :
    s.dwrite a l = { s with dram := (s.dwrite a l).dram, ras := (s.dwrite a l).ras, retQueue := [] } := by
  unfold State.dwrite State.retFlush
  rw [State.dputs_eq]; rfl

@[simp] theorem State.dwrite_retQueue (s : State) (a : Nat) (l : List Byte) : (s.dwrite a l).retQueue = [] := by rw [State.dwrite_eq]

@[simp] theorem State.dwrite_pending (s : State) (a : Nat) (l : List Byte) : (s.dwrite a l).pending = s.pending := by rw [State.dwrite_eq]
@[simp] theorem State.dwrite_regs (s : State) (a : Nat) (l : List Byte) : (s.dwrite a l).regs = s.regs := by rw [State.dwrite_eq]
@[simp] theorem State.dwrite_shadow (s : State) (a : Nat) (l : List Byte) : (s.dwrite a l).shadow = s.shadow := by rw [State.dwrite_eq]
@[simp] theorem State.dwrite_bootPend (s : State) (a : Nat) (l : List Byte) : (s.dwrite a l).bootPend = s.bootPend := by rw [State.dwrite_eq]
@[simp] theorem State.dwrite_loWord (s : State) (a : Nat) (l : List Byte) : (s.dwrite a l).loWord = s.loWord := by rw [State.dwrite_eq]
@[simp] theorem State.dwrite_hiLatch (s : State) (a : Nat) (l : List Byte) : (s.dwrite a l).hiLatch = s.hiLatch := by rw [State.dwrite_eq]
@[simp] theorem State.dwrite_rdata (s : State) (a : Nat) (l : List Byte) : (s.dwrite a l).rdata = s.rdata := by rw [State.dwrite_eq]
@[simp] theorem State.dwrite_msix (s : State) (a : Nat) (l : List Byte) : (s.dwrite a l).msix = s.msix := by rw [State.dwrite_eq]
@[simp] theorem State.dwrite_msixMask (s : State) (a : Nat) (l : List Byte) : (s.dwrite a l).msixMask = s.msixMask := by rw [State.dwrite_eq]
@[simp] theorem State.dwrite_msixPend (s : State) (a : Nat) (l : List Byte) : (s.dwrite a l).msixPend = s.msixPend := by rw [State.dwrite_eq]
@[simp] theorem State.dwrite_host (s : State) (a : Nat) (l : List Byte) : (s.dwrite a l).host = s.host := by rw [State.dwrite_eq]
@[simp] theorem State.dwrite_tile (s : State) (a : Nat) (l : List Byte) : (s.dwrite a l).tile = s.tile := by rw [State.dwrite_eq]
@[simp] theorem State.dwrite_dirty (s : State) (a : Nat) (l : List Byte) : (s.dwrite a l).dirty = s.dirty := by rw [State.dwrite_eq]
@[simp] theorem State.dwrite_freeCtr (s : State) (a : Nat) (l : List Byte) : (s.dwrite a l).freeCtr = s.freeCtr := by rw [State.dwrite_eq]
@[simp] theorem State.dwrite_tb (s : State) (a : Nat) (l : List Byte) : (s.dwrite a l).tb = s.tb := by rw [State.dwrite_eq]
@[simp] theorem State.dwrite_items (s : State) (a : Nat) (l : List Byte) : (s.dwrite a l).items = s.items := by rw [State.dwrite_eq]
@[simp] theorem State.dwrite_freeNext (s : State) (a : Nat) (l : List Byte) : (s.dwrite a l).freeNext = s.freeNext := by rw [State.dwrite_eq]
@[simp] theorem State.dwrite_freed (s : State) (a : Nat) (l : List Byte) : (s.dwrite a l).freed = s.freed := by rw [State.dwrite_eq]
@[simp] theorem State.dwrite_beWait (s : State) (a : Nat) (l : List Byte) : (s.dwrite a l).beWait = s.beWait := by rw [State.dwrite_eq]
@[simp] theorem State.dwrite_pieces (s : State) (a : Nat) (l : List Byte) : (s.dwrite a l).pieces = s.pieces := by rw [State.dwrite_eq]
@[simp] theorem State.dwrite_sides (s : State) (a : Nat) (l : List Byte) : (s.dwrite a l).sides = s.sides := by rw [State.dwrite_eq]
@[simp] theorem State.dwrite_sideEnds (s : State) (a : Nat) (l : List Byte) : (s.dwrite a l).sideEnds = s.sideEnds := by rw [State.dwrite_eq]
@[simp] theorem State.dwrite_regions (s : State) (a : Nat) (l : List Byte) : (s.dwrite a l).regions = s.regions := by rw [State.dwrite_eq]
@[simp] theorem State.dwrite_seqs (s : State) (a : Nat) (l : List Byte) : (s.dwrite a l).seqs = s.seqs := by rw [State.dwrite_eq]
@[simp] theorem State.dwrite_images (s : State) (a : Nat) (l : List Byte) : (s.dwrite a l).images = s.images := by rw [State.dwrite_eq]
@[simp] theorem State.dwrite_crops (s : State) (a : Nat) (l : List Byte) : (s.dwrite a l).crops = s.crops := by rw [State.dwrite_eq]
@[simp] theorem State.dwrite_lin (s : State) (a : Nat) (l : List Byte) : (s.dwrite a l).lin = s.lin := by rw [State.dwrite_eq]
@[simp] theorem State.dwrite_enc (s : State) (a : Nat) (l : List Byte) : (s.dwrite a l).enc = s.enc := by rw [State.dwrite_eq]
@[simp] theorem State.dwrite_bar (s : State) (a : Nat) (l : List Byte) : (s.dwrite a l).bar = s.bar := by rw [State.dwrite_eq]
@[simp] theorem State.dwrite_cal (s : State) (a : Nat) (l : List Byte) : (s.dwrite a l).cal = s.cal := by rw [State.dwrite_eq]
@[simp] theorem State.dwrite_tiles (s : State) (a : Nat) (l : List Byte) : (s.dwrite a l).tiles = s.tiles := by rw [State.dwrite_eq]
@[simp] theorem State.dwrite_ptiles (s : State) (a : Nat) (l : List Byte) : (s.dwrite a l).ptiles = s.ptiles := by rw [State.dwrite_eq]
@[simp] theorem State.dwrite_jobs (s : State) (a : Nat) (l : List Byte) : (s.dwrite a l).jobs = s.jobs := by rw [State.dwrite_eq]
@[simp] theorem State.dwrite_nextJob (s : State) (a : Nat) (l : List Byte) : (s.dwrite a l).nextJob = s.nextJob := by rw [State.dwrite_eq]
@[simp] theorem State.dwrite_msgs (s : State) (a : Nat) (l : List Byte) : (s.dwrite a l).msgs = s.msgs := by rw [State.dwrite_eq]
@[simp] theorem State.dwrite_gov (s : State) (a : Nat) (l : List Byte) : (s.dwrite a l).gov = s.gov := by rw [State.dwrite_eq]
@[simp] theorem State.dwrite_reqs (s : State) (a : Nat) (l : List Byte) : (s.dwrite a l).reqs = s.reqs := by rw [State.dwrite_eq]
@[simp] theorem State.dwrite_nextReq (s : State) (a : Nat) (l : List Byte) : (s.dwrite a l).nextReq = s.nextReq := by rw [State.dwrite_eq]
@[simp] theorem State.dwrite_xfers (s : State) (a : Nat) (l : List Byte) : (s.dwrite a l).xfers = s.xfers := by rw [State.dwrite_eq]
@[simp] theorem State.dwrite_nextXfer (s : State) (a : Nat) (l : List Byte) : (s.dwrite a l).nextXfer = s.nextXfer := by rw [State.dwrite_eq]
@[simp] theorem State.dwrite_refs (s : State) (a : Nat) (l : List Byte) : (s.dwrite a l).refs = s.refs := by rw [State.dwrite_eq]
@[simp] theorem State.dwrite_prefixes (s : State) (a : Nat) (l : List Byte) : (s.dwrite a l).prefixes = s.prefixes := by rw [State.dwrite_eq]
@[simp] theorem State.dwrite_masks (s : State) (a : Nat) (l : List Byte) : (s.dwrite a l).masks = s.masks := by rw [State.dwrite_eq]
@[simp] theorem State.dwrite_maskAsks (s : State) (a : Nat) (l : List Byte) : (s.dwrite a l).maskAsks = s.maskAsks := by rw [State.dwrite_eq]
@[simp] theorem State.dwrite_slices (s : State) (a : Nat) (l : List Byte) : (s.dwrite a l).slices = s.slices := by rw [State.dwrite_eq]
@[simp] theorem State.dwrite_groups (s : State) (a : Nat) (l : List Byte) : (s.dwrite a l).groups = s.groups := by rw [State.dwrite_eq]
@[simp] theorem State.dwrite_parts (s : State) (a : Nat) (l : List Byte) : (s.dwrite a l).parts = s.parts := by rw [State.dwrite_eq]
@[simp] theorem State.dwrite_ctxs (s : State) (a : Nat) (l : List Byte) : (s.dwrite a l).ctxs = s.ctxs := by rw [State.dwrite_eq]
@[simp] theorem State.dwrite_ready (s : State) (a : Nat) (l : List Byte) : (s.dwrite a l).ready = s.ready := by rw [State.dwrite_eq]
@[simp] theorem State.dwrite_models (s : State) (a : Nat) (l : List Byte) : (s.dwrite a l).models = s.models := by rw [State.dwrite_eq]
@[simp] theorem State.dwrite_playbooks (s : State) (a : Nat) (l : List Byte) : (s.dwrite a l).playbooks = s.playbooks := by rw [State.dwrite_eq]
@[simp] theorem State.dwrite_nextPb (s : State) (a : Nat) (l : List Byte) : (s.dwrite a l).nextPb = s.nextPb := by rw [State.dwrite_eq]
@[simp] theorem State.dwrite_fetched (s : State) (a : Nat) (l : List Byte) : (s.dwrite a l).fetched = s.fetched := by rw [State.dwrite_eq]
@[simp] theorem State.dwrite_hold (s : State) (a : Nat) (l : List Byte) : (s.dwrite a l).hold = s.hold := by rw [State.dwrite_eq]
@[simp] theorem State.dwrite_rings (s : State) (a : Nat) (l : List Byte) : (s.dwrite a l).rings = s.rings := by rw [State.dwrite_eq]
@[simp] theorem State.dwrite_sqs (s : State) (a : Nat) (l : List Byte) : (s.dwrite a l).sqs = s.sqs := by rw [State.dwrite_eq]
@[simp] theorem State.dwrite_kol (s : State) (a : Nat) (l : List Byte) : (s.dwrite a l).kol = s.kol := by rw [State.dwrite_eq]
@[simp] theorem State.dwrite_tim (s : State) (a : Nat) (l : List Byte) : (s.dwrite a l).tim = s.tim := by rw [State.dwrite_eq]
@[simp] theorem State.dwrite_snp (s : State) (a : Nat) (l : List Byte) : (s.dwrite a l).snp = s.snp := by rw [State.dwrite_eq]
@[simp] theorem State.dwrite_eth (s : State) (a : Nat) (l : List Byte) : (s.dwrite a l).eth = s.eth := by rw [State.dwrite_eq]
@[simp] theorem State.dwrite_textNo (s : State) (a : Nat) (l : List Byte) : (s.dwrite a l).textNo = s.textNo := by rw [State.dwrite_eq]
@[simp] theorem State.dwrite_repairedTexts (s : State) (a : Nat) (l : List Byte) : (s.dwrite a l).repairedTexts = s.repairedTexts := by rw [State.dwrite_eq]
@[simp] theorem State.dwrite_metTaken (s : State) (a : Nat) (l : List Byte) : (s.dwrite a l).metTaken = s.metTaken := by rw [State.dwrite_eq]
@[simp] theorem State.dwrite_sys (s : State) (a : Nat) (l : List Byte) : (s.dwrite a l).sys = s.sys := by rw [State.dwrite_eq]
@[simp] theorem State.dwrite_otp (s : State) (a : Nat) (l : List Byte) : (s.dwrite a l).otp = s.otp := by rw [State.dwrite_eq]
@[simp] theorem State.dwrite_met (s : State) (a : Nat) (l : List Byte) : (s.dwrite a l).met = s.met := by rw [State.dwrite_eq]

/-! ### twrite -/

@[simp] theorem State.twrite_pending (s : State) (t a : Nat) (l : List Byte) : (s.twrite t a l).pending = s.pending := rfl
@[simp] theorem State.twrite_regs (s : State) (t a : Nat) (l : List Byte) : (s.twrite t a l).regs = s.regs := rfl
@[simp] theorem State.twrite_shadow (s : State) (t a : Nat) (l : List Byte) : (s.twrite t a l).shadow = s.shadow := rfl
@[simp] theorem State.twrite_bootPend (s : State) (t a : Nat) (l : List Byte) : (s.twrite t a l).bootPend = s.bootPend := rfl
@[simp] theorem State.twrite_loWord (s : State) (t a : Nat) (l : List Byte) : (s.twrite t a l).loWord = s.loWord := rfl
@[simp] theorem State.twrite_hiLatch (s : State) (t a : Nat) (l : List Byte) : (s.twrite t a l).hiLatch = s.hiLatch := rfl
@[simp] theorem State.twrite_rdata (s : State) (t a : Nat) (l : List Byte) : (s.twrite t a l).rdata = s.rdata := rfl
@[simp] theorem State.twrite_msix (s : State) (t a : Nat) (l : List Byte) : (s.twrite t a l).msix = s.msix := rfl
@[simp] theorem State.twrite_msixMask (s : State) (t a : Nat) (l : List Byte) : (s.twrite t a l).msixMask = s.msixMask := rfl
@[simp] theorem State.twrite_msixPend (s : State) (t a : Nat) (l : List Byte) : (s.twrite t a l).msixPend = s.msixPend := rfl
@[simp] theorem State.twrite_host (s : State) (t a : Nat) (l : List Byte) : (s.twrite t a l).host = s.host := rfl
@[simp] theorem State.twrite_dram (s : State) (t a : Nat) (l : List Byte) : (s.twrite t a l).dram = s.dram := rfl
@[simp] theorem State.twrite_retQueue (s : State) (t a : Nat) (l : List Byte) : (s.twrite t a l).retQueue = s.retQueue := rfl
@[simp] theorem State.twrite_freeCtr (s : State) (t a : Nat) (l : List Byte) : (s.twrite t a l).freeCtr = s.freeCtr := rfl
@[simp] theorem State.twrite_tb (s : State) (t a : Nat) (l : List Byte) : (s.twrite t a l).tb = s.tb := rfl
@[simp] theorem State.twrite_items (s : State) (t a : Nat) (l : List Byte) : (s.twrite t a l).items = s.items := rfl
@[simp] theorem State.twrite_freeNext (s : State) (t a : Nat) (l : List Byte) : (s.twrite t a l).freeNext = s.freeNext := rfl
@[simp] theorem State.twrite_freed (s : State) (t a : Nat) (l : List Byte) : (s.twrite t a l).freed = s.freed := rfl
@[simp] theorem State.twrite_beWait (s : State) (t a : Nat) (l : List Byte) : (s.twrite t a l).beWait = s.beWait := rfl
@[simp] theorem State.twrite_pieces (s : State) (t a : Nat) (l : List Byte) : (s.twrite t a l).pieces = s.pieces := rfl
@[simp] theorem State.twrite_sides (s : State) (t a : Nat) (l : List Byte) : (s.twrite t a l).sides = s.sides := rfl
@[simp] theorem State.twrite_sideEnds (s : State) (t a : Nat) (l : List Byte) : (s.twrite t a l).sideEnds = s.sideEnds := rfl
@[simp] theorem State.twrite_regions (s : State) (t a : Nat) (l : List Byte) : (s.twrite t a l).regions = s.regions := rfl
@[simp] theorem State.twrite_seqs (s : State) (t a : Nat) (l : List Byte) : (s.twrite t a l).seqs = s.seqs := rfl
@[simp] theorem State.twrite_images (s : State) (t a : Nat) (l : List Byte) : (s.twrite t a l).images = s.images := rfl
@[simp] theorem State.twrite_crops (s : State) (t a : Nat) (l : List Byte) : (s.twrite t a l).crops = s.crops := rfl
@[simp] theorem State.twrite_lin (s : State) (t a : Nat) (l : List Byte) : (s.twrite t a l).lin = s.lin := rfl
@[simp] theorem State.twrite_enc (s : State) (t a : Nat) (l : List Byte) : (s.twrite t a l).enc = s.enc := rfl
@[simp] theorem State.twrite_bar (s : State) (t a : Nat) (l : List Byte) : (s.twrite t a l).bar = s.bar := rfl
@[simp] theorem State.twrite_cal (s : State) (t a : Nat) (l : List Byte) : (s.twrite t a l).cal = s.cal := rfl
@[simp] theorem State.twrite_tiles (s : State) (t a : Nat) (l : List Byte) : (s.twrite t a l).tiles = s.tiles := rfl
@[simp] theorem State.twrite_ptiles (s : State) (t a : Nat) (l : List Byte) : (s.twrite t a l).ptiles = s.ptiles := rfl
@[simp] theorem State.twrite_jobs (s : State) (t a : Nat) (l : List Byte) : (s.twrite t a l).jobs = s.jobs := rfl
@[simp] theorem State.twrite_nextJob (s : State) (t a : Nat) (l : List Byte) : (s.twrite t a l).nextJob = s.nextJob := rfl
@[simp] theorem State.twrite_msgs (s : State) (t a : Nat) (l : List Byte) : (s.twrite t a l).msgs = s.msgs := rfl
@[simp] theorem State.twrite_gov (s : State) (t a : Nat) (l : List Byte) : (s.twrite t a l).gov = s.gov := rfl
@[simp] theorem State.twrite_reqs (s : State) (t a : Nat) (l : List Byte) : (s.twrite t a l).reqs = s.reqs := rfl
@[simp] theorem State.twrite_nextReq (s : State) (t a : Nat) (l : List Byte) : (s.twrite t a l).nextReq = s.nextReq := rfl
@[simp] theorem State.twrite_xfers (s : State) (t a : Nat) (l : List Byte) : (s.twrite t a l).xfers = s.xfers := rfl
@[simp] theorem State.twrite_nextXfer (s : State) (t a : Nat) (l : List Byte) : (s.twrite t a l).nextXfer = s.nextXfer := rfl
@[simp] theorem State.twrite_refs (s : State) (t a : Nat) (l : List Byte) : (s.twrite t a l).refs = s.refs := rfl
@[simp] theorem State.twrite_prefixes (s : State) (t a : Nat) (l : List Byte) : (s.twrite t a l).prefixes = s.prefixes := rfl
@[simp] theorem State.twrite_masks (s : State) (t a : Nat) (l : List Byte) : (s.twrite t a l).masks = s.masks := rfl
@[simp] theorem State.twrite_maskAsks (s : State) (t a : Nat) (l : List Byte) : (s.twrite t a l).maskAsks = s.maskAsks := rfl
@[simp] theorem State.twrite_slices (s : State) (t a : Nat) (l : List Byte) : (s.twrite t a l).slices = s.slices := rfl
@[simp] theorem State.twrite_groups (s : State) (t a : Nat) (l : List Byte) : (s.twrite t a l).groups = s.groups := rfl
@[simp] theorem State.twrite_parts (s : State) (t a : Nat) (l : List Byte) : (s.twrite t a l).parts = s.parts := rfl
@[simp] theorem State.twrite_ctxs (s : State) (t a : Nat) (l : List Byte) : (s.twrite t a l).ctxs = s.ctxs := rfl
@[simp] theorem State.twrite_ready (s : State) (t a : Nat) (l : List Byte) : (s.twrite t a l).ready = s.ready := rfl
@[simp] theorem State.twrite_models (s : State) (t a : Nat) (l : List Byte) : (s.twrite t a l).models = s.models := rfl
@[simp] theorem State.twrite_playbooks (s : State) (t a : Nat) (l : List Byte) : (s.twrite t a l).playbooks = s.playbooks := rfl
@[simp] theorem State.twrite_nextPb (s : State) (t a : Nat) (l : List Byte) : (s.twrite t a l).nextPb = s.nextPb := rfl
@[simp] theorem State.twrite_fetched (s : State) (t a : Nat) (l : List Byte) : (s.twrite t a l).fetched = s.fetched := rfl
@[simp] theorem State.twrite_hold (s : State) (t a : Nat) (l : List Byte) : (s.twrite t a l).hold = s.hold := rfl
@[simp] theorem State.twrite_rings (s : State) (t a : Nat) (l : List Byte) : (s.twrite t a l).rings = s.rings := rfl
@[simp] theorem State.twrite_sqs (s : State) (t a : Nat) (l : List Byte) : (s.twrite t a l).sqs = s.sqs := rfl
@[simp] theorem State.twrite_kol (s : State) (t a : Nat) (l : List Byte) : (s.twrite t a l).kol = s.kol := rfl
@[simp] theorem State.twrite_tim (s : State) (t a : Nat) (l : List Byte) : (s.twrite t a l).tim = s.tim := rfl
@[simp] theorem State.twrite_snp (s : State) (t a : Nat) (l : List Byte) : (s.twrite t a l).snp = s.snp := rfl
@[simp] theorem State.twrite_eth (s : State) (t a : Nat) (l : List Byte) : (s.twrite t a l).eth = s.eth := rfl
@[simp] theorem State.twrite_textNo (s : State) (t a : Nat) (l : List Byte) : (s.twrite t a l).textNo = s.textNo := rfl
@[simp] theorem State.twrite_repairedTexts (s : State) (t a : Nat) (l : List Byte) : (s.twrite t a l).repairedTexts = s.repairedTexts := rfl
@[simp] theorem State.twrite_metTaken (s : State) (t a : Nat) (l : List Byte) : (s.twrite t a l).metTaken = s.metTaken := rfl
@[simp] theorem State.twrite_sys (s : State) (t a : Nat) (l : List Byte) : (s.twrite t a l).sys = s.sys := rfl
@[simp] theorem State.twrite_otp (s : State) (t a : Nat) (l : List Byte) : (s.twrite t a l).otp = s.otp := rfl
@[simp] theorem State.twrite_met (s : State) (t a : Nat) (l : List Byte) : (s.twrite t a l).met = s.met := rfl

end Sys2Proof.Machine
end

