-- ==== Sys2Proof/Laws/Table.lean ====
section
/-! SUPPORT. The laws of the finite tables: reading after writing, and the canonical form, which every write keeps. -/

namespace Sys2Proof.Machine

variable {β : Type}

@[simp] theorem tfind_tins_same (t : Tbl β) (k : Nat) (v : β) : tfind (tins t k v) k = some v := by
  induction t with
  | nil => simp [tins, tfind]
  | cons e t ih =>
    obtain ⟨a, b⟩ := e
    by_cases h : k < a
    · simp [tins, tfind, h]
    · by_cases h' : a = k <;> simp [tins, tfind, h, h', ih]

theorem tfind_tins_ne (t : Tbl β) {k j : Nat} (v : β) (hj : j ≠ k) : tfind (tins t k v) j = tfind t j := by
  induction t with
  | nil => simp [tins, tfind, Ne.symm hj]
  | cons e t ih =>
    obtain ⟨a, b⟩ := e
    by_cases h : k < a
    · simp [tins, tfind, h, Ne.symm hj]
    · by_cases h' : a = k
      · subst h'; simp [tins, tfind, Ne.symm hj]
      · simp [tins, tfind, h, h', ih]

@[simp] theorem tfind_tdel_same (t : Tbl β) (k : Nat) : tfind (tdel t k) k = none := by
  induction t with
  | nil => simp [tdel, tfind]
  | cons e t ih =>
    obtain ⟨a, b⟩ := e
    by_cases h' : a = k <;> simp [tdel, tfind, h', ih]

theorem tfind_tdel_ne (t : Tbl β) {k j : Nat} (hj : j ≠ k) : tfind (tdel t k) j = tfind t j := by
  induction t with
  | nil => simp [tdel, tfind]
  | cons e t ih =>
    obtain ⟨a, b⟩ := e
    by_cases h' : a = k
    · subst h'; simp [tdel, tfind, Ne.symm hj, ih]
    · simp [tdel, tfind, h', ih]

theorem tget_eq (d : β) (t : Tbl β) (k : Nat) : tget d t k = (tfind t k).getD d := by
  induction t with
  | nil => rfl
  | cons e t ih =>
    obtain ⟨a, b⟩ := e
    by_cases h : a = k <;> simp [tget, tfind, h, ih]

@[simp] theorem tfind_tput_same (t : Tbl β) (k : Nat) (v : β) : tfind (tput t k v) k = some v := tfind_tins_same t k v

theorem tfind_tput_ne (t : Tbl β) {k j : Nat} (v : β) (hj : j ≠ k) : tfind (tput t k v) j = tfind t j := tfind_tins_ne t v hj

@[simp] theorem tget_tput_same (d : β) (t : Tbl β) (k : Nat) (v : β) : tget d (tput t k v) k = v := by simp [tget_eq]

theorem tget_tput_ne (d : β) (t : Tbl β) {k j : Nat} (v : β) (hj : j ≠ k) : tget d (tput t k v) j = tget d t j := by
  simp [tget_eq, tfind_tput_ne t v hj]

@[simp] theorem tget_tset_same [DecidableEq β] (d : β) (t : Tbl β) (k : Nat) (v : β) : tget d (tset d t k v) k = v := by
  unfold tset; split <;> simp [tget_eq, *]

theorem tget_tset_ne [DecidableEq β] (d : β) (t : Tbl β) {k j : Nat} (v : β) (hj : j ≠ k) : tget d (tset d t k v) j = tget d t j := by
  unfold tset; split <;> simp [tget_eq, tfind_tdel_ne t hj, tfind_tins_ne t _ hj]

/-! ### The canonical form -/

variable [DecidableEq β]

theorem tokFrom_mono {d : Nat → β} {lo lo' : Nat} {t : Tbl β} (h : lo ≤ lo') (w : tokFrom d lo' t = true) : tokFrom d lo t = true := by
  cases t with
  | nil => rfl
  | cons e t => obtain ⟨a, b⟩ := e; simp only [tokFrom, Bool.and_eq_true, decide_eq_true_eq] at w ⊢; exact ⟨⟨h.trans w.1.1, w.1.2⟩, w.2⟩

theorem tokFrom_tins {d : Nat → β} {lo k : Nat} {v : β} {t : Tbl β} (hv : v ≠ d k) (hk : lo ≤ k)
    (w : tokFrom d lo t = true) : tokFrom d lo (tins t k v) = true := by
  induction t generalizing lo with
  | nil => simp [tins, tokFrom, hv, hk]
  | cons e t ih =>
    obtain ⟨a, b⟩ := e
    simp only [tokFrom, Bool.and_eq_true, decide_eq_true_eq] at w
    obtain ⟨⟨h1, h2⟩, h3⟩ := w
    by_cases h : k < a
    · simp [tins, tokFrom, h, hv, hk, h2, h3]
    · by_cases h' : a = k
      · subst h'; simp [tins, tokFrom, hv, hk, h3]
      · simp only [tins, h, h', if_false, tokFrom, Bool.and_eq_true, decide_eq_true_eq]
        exact ⟨⟨h1, h2⟩, ih (by omega) h3⟩

theorem tokFrom_tdel {d : Nat → β} {lo k : Nat} {t : Tbl β} (w : tokFrom d lo t = true) : tokFrom d lo (tdel t k) = true := by
  induction t generalizing lo with
  | nil => rfl
  | cons e t ih =>
    obtain ⟨a, b⟩ := e
    simp only [tokFrom, Bool.and_eq_true, decide_eq_true_eq] at w
    obtain ⟨⟨h1, h2⟩, h3⟩ := w
    by_cases h' : a = k
    · simp only [tdel, h', if_true]; exact tokFrom_mono (Nat.le_succ_of_le (h' ▸ h1)) (ih h3)
    · simp only [tdel, h', if_false, tokFrom, Bool.and_eq_true, decide_eq_true_eq]
      exact ⟨⟨h1, h2⟩, ih h3⟩

/-- Every write of a table keeps its canonical form. -/
theorem wf_tset (d : β) (t : Tbl β) (k : Nat) (v : β) (w : Tbl.wf (fun _ => d) t = true) : Tbl.wf (fun _ => d) (tset d t k v) = true := by
  unfold tset
  split
  · exact tokFrom_tdel w
  · exact tokFrom_tins (by assumption) (Nat.zero_le k) w

end Sys2Proof.Machine
end

