-- ==== Sys2Proof/Laws/Ops.lean ====
section
/-! SUPPORT. The laws of the named operations: what each of the ways a command acts can do, registers read after a write, memories read after a write and their canonical form. -/

namespace Sys2Proof.Machine

/-! ### The ways a command acts -/

/-- A main-domain command always answers a next state, with the queue and Norentum as they were; while PORESET_N is asserted nothing changes. -/
theorem State.onMain_cases {s t : State} {f : State → State} (h : s.onMain f = .next t) :
    t.pending = s.pending ∧ t.met = s.met ∧ (s.sys.released = false → t = s) := by
  unfold State.onMain at h
  split at h <;> cases h <;> simp_all

@[simp] theorem State.onMain_released {s : State} (f : State → State) (h : s.sys.released = true) :
    s.onMain f = .next { f s with pending := s.pending, met := s.met } := by simp [State.onMain, h]

/-- A command that can make a time step keeps the queue, and Norentum sees the step alone. -/
theorem State.onTime_cases {s t : State} {f : State → State × Int} {g : Met → Int → Nat → Met} (h : s.onTime f g = .next t) :
    t.pending = s.pending ∧ (t.met = s.met ∨ ∃ k n, t.met = g s.met k n) := by
  unfold State.onTime at h
  split at h <;> cases h
  · exact ⟨rfl, .inr ⟨_, _, rfl⟩⟩
  · exact ⟨rfl, .inl rfl⟩

/-- An intake command keeps the queue, and Norentum's tap sees at most one packet. -/
theorem State.onIntake_cases {α : Type} {s t : State} {f : State → State × Option α} {g : Met → α → Met} (h : s.onIntake f g = .next t) :
    t.pending = s.pending ∧ (t.met = s.met ∨ ∃ x, t.met = g s.met x) := by
  unfold State.onIntake at h
  split at h <;> cases h
  · refine ⟨rfl, ?_⟩
    cases (f s).2 with
    | none => exact .inl rfl
    | some x => exact .inr ⟨x, rfl⟩
  · exact ⟨rfl, .inl rfl⟩

/-- A command of Norentum changes Norentum and the counter of free values alone, and nothing while VDD_MET is off. -/
theorem State.onMet_cases {s t : State} {f : State → State} (h : s.onMet f = .next t) :
    t = { s with met := t.met, freeCtr := t.freeCtr } ∧ (s.met.on = false → t = s) ∧ (s.met.on = true → t.met = (f s).met) := by
  unfold State.onMet at h
  split at h <;> cases h <;> simp_all

/-! ### Registers -/

/-- A register reads as what was written. -/
@[simp] theorem State.reg_setReg_same (s : State) (a : Nat) (v : Word) : (s.setReg a v).reg a = v := by
  by_cases hv : v = regReset a <;> simp [State.reg, State.setReg, hv]

/-- A write of a register leaves every other register. -/
theorem State.reg_setReg_ne (s : State) {a b : Nat} (v : Word) (h : b ≠ a) : (s.setReg a v).reg b = s.reg b := by
  by_cases hv : v = regReset a <;> simp [State.reg, State.setReg, hv, tfind_tdel_ne _ h, tfind_tins_ne _ _ h]

/-- A field reads as what was put into it, modulo its width. -/
theorem State.fld_setFld_same (s : State) (a : Nat) (f : Fld) (v : Nat) (h : f.lo ≤ f.hi) (h' : f.hi < 32) :
    (s.setFld a f v).fld a f = v % 2 ^ (f.hi + 1 - f.lo) := by
  simp [State.fld, State.setFld, fget_fset_same _ f v h h']

/-- Putting a field of a register leaves its other fields. -/
theorem State.fld_setFld_other (s : State) (a : Nat) (f g : Fld) (v : Nat) (h : f.lo ≤ f.hi) (h' : f.hi < 32) (d : g.hi < f.lo ∨ f.hi < g.lo) :
    (s.setFld a f v).fld a g = s.fld a g := by
  simp [State.fld, State.setFld, fget_fset_other _ f g v h h' d]

/-- Putting a field leaves the fields of every other register. -/
theorem State.fld_setFld_ne (s : State) {a b : Nat} (f g : Fld) (v : Nat) (h : b ≠ a) : (s.setFld a f v).fld b g = s.fld b g := by
  simp [State.fld, State.setFld, State.reg_setReg_ne s _ h]

/-- The register file's canonical form: keys rise and no entry is the reset value. -/
theorem State.regs_setReg_wf (s : State) (a : Nat) (v : Word) (w : Tbl.wf regReset s.regs = true) : Tbl.wf regReset (s.setReg a v).regs = true := by
  simp only [State.setReg]
  split
  · exact tokFrom_tdel w
  · exact tokFrom_tins (by assumption) (Nat.zero_le a) w

/-! ### Memories -/

@[simp] theorem mread_length (m : List Host.Cell) (a n : Nat) : (mread m a n).length = n := by
  induction n generalizing a with
  | zero => rfl
  | succ n ih => simp [mread, ih]

/-- A write leaves every address outside the written bytes. -/
theorem mwrite_outside (m : List Host.Cell) (a x : Nat) (l : List Byte) (h : x < a ∨ a + l.length ≤ x) :
    tget 0 (mwrite m a l) x = tget 0 m x := by
  induction l generalizing m a with
  | nil => rfl
  | cons b l ih =>
    simp only [List.length_cons] at h
    rw [mwrite, ih _ _ (by omega), tget_tset_ne _ _ _ (by omega)]

/-- A written address reads as the byte written there. -/
theorem mwrite_inside (m : List Host.Cell) (a i : Nat) (l : List Byte) (h : i < l.length) :
    tget 0 (mwrite m a l) (a + i) = l.getD i 0 := by
  induction l generalizing m a i with
  | nil => simp at h
  | cons b l ih =>
    cases i with
    | zero => rw [mwrite, mwrite_outside _ _ _ _ (by omega)]; simp
    | succ i =>
      have := ih (tset 0 m a b) (a + 1) i (by simpa using h)
      rw [mwrite, show a + (i + 1) = a + 1 + i by omega, this]; simp

/-- A write keeps the canonical form of a memory. -/
theorem memWf_mwrite (m : List Host.Cell) (a : Nat) (l : List Byte) (w : memWf m = true) : memWf (mwrite m a l) = true := by
  induction l generalizing m a with
  | nil => exact w
  | cons b l ih => exact ih _ _ (wf_tset 0 m a b w)

/-- A write under the Reed-Solomon code keeps the canonical form of a memory. -/
theorem memWf_codeWrite (m : List Host.Cell) (k : Checks) (a : Nat) (l : List Byte) (w : memWf m = true) : memWf (codeWrite m k a l).1 = true := by
  refine memWf_mwrite _ _ _ ?_
  generalize k.filter _ = q
  suffices h : ∀ v, memWf v = true → memWf (q.foldl (fun v e => match rsRead (codeword m k e.1) with
      | .corrected w => mwrite v (32 * e.1) (w.take 32)
      | _ => v) v) = true from h m w
  induction q with
  | nil => exact fun v h => h
  | cons e q ih =>
    intro v h
    refine ih _ ?_
    dsimp only
    split <;> [exact memWf_mwrite _ _ _ h; exact h]

/-- A write under the code leaves, in a memory whose check bytes are those of its data, every address outside the written bytes, and an address written reads as the byte written there. -/
theorem codeWrite_plain (m : List Host.Cell) (a : Nat) (l : List Byte) : codeWrite m [] a l = (mwrite m a l, []) := rfl

/-- Bytes put into DRAM keep its canonical form. -/
theorem State.dput_wf (s : State) (a : Nat) (l : List Byte) (d : memWf s.dram = true) : memWf (s.dput a l).dram = true := memWf_codeWrite _ _ _ _ d

/-- The retention writes that wait keep DRAM's canonical form. -/
theorem State.dputs_wf (q : List (Nat × List Byte)) : ∀ s : State, memWf s.dram = true → memWf (q.foldl (fun s w => s.dput w.1 w.2) s).dram = true := by
  induction q with
  | nil => exact fun s h => h
  | cons w q ih => exact fun s h => ih _ (s.dput_wf _ _ h)

/-- Host memory, device DRAM and the tile stores keep their canonical form over every write. -/
theorem State.memories_wf (s : State) (a t : Nat) (l : List Byte) (h : memWf s.host = true) (d : memWf s.dram = true) (w : memWf s.tile = true) :
    memWf (s.hwrite a l).host = true ∧ memWf (s.dwrite a l).dram = true ∧ memWf (s.twrite t a l).tile = true :=
  ⟨memWf_mwrite _ _ _ h, State.dput_wf _ _ _ (State.dputs_wf _ _ d), memWf_codeWrite _ _ _ _ w⟩

/-- The memories of the reset state have the canonical form. -/
theorem State.reset_memories_wf : memWf State.reset.host = true ∧ memWf State.reset.dram = true ∧ memWf State.reset.tile = true ∧ Tbl.wf regReset State.reset.regs = true :=
  ⟨rfl, rfl, rfl, rfl⟩

/-! ### Time and free values -/

@[simp] theorem State.free_state (s : State) : s.free.2 = { s with freeCtr := s.freeCtr + 1 } := rfl

@[simp] theorem State.when_true (s : State) (f : State → State) : s.when true f = f s := rfl

@[simp] theorem State.when_false (s : State) (f : State → State) : s.when false f = s := rfl

end Sys2Proof.Machine
end

