-- ==== Sys2Proof/Laws/RegMap.lean ====
section
/-! SUPPORT. Where the register map finds the registers that the commands write and read, with their descriptions. -/

namespace Sys2Proof.Machine

theorem findReg_linPortCtl (n : Fin 4) :
    findReg (LIN_PORT_CTL n) = some (⟨LIN_PORT_CTL 0, 4, 0x10000, 1, 0x0, .one, some 0, false, [ ⟨LIN_PORT_CTL_EN, .rw, .val 0, .imm⟩]⟩, n.val, 0) := by
  revert n; decide

theorem findReg_calCtl (n : Fin 4) :
    findReg (CAL_CTL n) = some (⟨CAL_CTL 0, 4, 0x10000, 1, 0x0, .one, none, false, [ ⟨CAL_CTL_ABORT, .wo, .val 0, .imm⟩, ⟨CAL_CTL_START, .wo, .val 0, .imm⟩, ⟨CAL_CTL_AUTO, .rw, .val 0, .imm⟩, ⟨CAL_CTL_ARM, .rw, .val 0, .imm⟩]⟩, n.val, 0) := by
  revert n; decide

theorem findReg_calTabData (n : Fin 4) :
    findReg (CAL_TAB_DATA n) = some (⟨CAL_TAB_DATA 0, 4, 0x10000, 1, 0x0, .one, some 5, false, [ ⟨CAL_TAB_DATA_ENTRY, .rw, .open, .imm⟩]⟩, n.val, 0) := by
  revert n; decide

theorem findReg_calTabCommit (n : Fin 4) :
    findReg (CAL_TAB_COMMIT n) = some (⟨CAL_TAB_COMMIT 0, 4, 0x10000, 1, 0x0, .one, some 6, false, [ ⟨CAL_TAB_COMMIT_COMMIT, .wo, .val 0, .imm⟩]⟩, n.val, 0) := by
  revert n; decide

theorem findReg_hifSqCfg (n : Fin 64) :
    findReg (HIF_SQ_CFG n) = some (⟨HIF_SQ_CFG 0, 1, 0x0, 64, 0x40, .one, some 1, false, [ ⟨HIF_SQ_CFG_EN, .rw, .val 0, .imm⟩, ⟨HIF_SQ_CFG_LOG2_SIZE, .rw, .val 6, .idle⟩]⟩, 0, n.val) := by
  revert n; decide

theorem findReg_hifSqTail (n : Fin 64) :
    findReg (HIF_SQ_TAIL n) = some (⟨HIF_SQ_TAIL 0, 1, 0x0, 64, 0x40, .one, none, false, [ ⟨HIF_SQ_TAIL_TAIL, .rw, .val 0, .imm⟩]⟩, 0, n.val) := by
  revert n; decide

theorem findReg_hifRingCfg (n : Fin 64) :
    findReg (HIF_RING_CFG n) = some (⟨HIF_RING_CFG 0, 1, 0x0, 64, 0x40, .one, some 2, false, [ ⟨HIF_RING_CFG_EN, .rw, .val 0, .imm⟩, ⟨HIF_RING_CFG_HEAD_ERR, .w1c, .val 0, .imm⟩, ⟨HIF_RING_CFG_LOG2_SLOTS, .rw, .val 12, .idle⟩]⟩, 0, n.val) := by
  revert n; decide

theorem findReg_hifRingHead (n : Fin 64) :
    findReg (HIF_RING_HEAD n) = some (⟨HIF_RING_HEAD 0, 1, 0x0, 64, 0x40, .one, none, false, [ ⟨HIF_RING_HEAD_HEAD, .rw, .val 0, .imm⟩]⟩, 0, n.val) := by
  revert n; decide

theorem findReg_kolPortCtl (n : Fin 6) :
    findReg (KOL_PORT_CTL n) = some (⟨KOL_PORT_CTL 0, 6, 0x10000, 1, 0x0, .one, some 0, false, [ ⟨KOL_PORT_CTL_PRECODE, .rw, .val 0, .idle⟩, ⟨KOL_PORT_CTL_EN, .rw, .val 1, .imm⟩]⟩, n.val, 0) := by
  revert n; decide

theorem findReg_timPortPop (n : Fin 7) :
    findReg (TIM_PORT_POP n) = some (⟨TIM_PORT_POP 0, 1, 0x0, 7, 0x20, .one, none, false, [ ⟨TIM_PORT_POP_VALID, .ro, .val 0, .none⟩, ⟨TIM_PORT_POP_STAMP_ID, .ro, .val 0, .none⟩]⟩, 0, n.val) := by
  revert n; decide

theorem findReg_linBarCfg (n : Fin 8) :
    findReg (LIN_BAR_CFG n) = some (⟨LIN_BAR_CFG 0, 1, 0x0, 8, 0x4, .one, none, false, [ ⟨LIN_BAR_CFG_JAM_MS, .rw, .val 2000, .imm⟩, ⟨LIN_BAR_CFG_BAR_FILT_US, .rw, .val 20, .imm⟩, ⟨LIN_BAR_CFG_POL, .rw, .val 0, .imm⟩]⟩, 0, n.val) := by
  revert n; decide

theorem findReg_calCfg (n : Fin 4) :
    findReg (CAL_CFG n) = some (⟨CAL_CFG 0, 4, 0x10000, 1, 0x0, .one, some 0, false, [ ⟨CAL_CFG_MAX_RUN, .rw, .val 4, .idle⟩, ⟨CAL_CFG_DARK_N, .rw, .val 3, .idle⟩, ⟨CAL_CFG_WHITE_N, .rw, .val 3, .idle⟩, ⟨CAL_CFG_ORDER, .rw, .val 0, .idle⟩, ⟨CAL_CFG_DARK_SRC, .rw, .val 0, .idle⟩, ⟨CAL_CFG_REF_SRC, .rw, .val 0, .idle⟩, ⟨CAL_CFG_REF_BAR, .rw, .inst, .idle⟩]⟩, n.val, 0) := by
  revert n; decide

theorem findReg_linIrqStat (n : Fin 4) :
    findReg (LIN_IRQ_STAT n) = some (⟨LIN_IRQ_STAT 0, 4, 0x10000, 1, 0x0, .one, none, false, [ ⟨LIN_IRQ_STAT_IRQ, .w1c, .val 0, .imm⟩]⟩, n.val, 0) := by
  revert n; decide

theorem findReg_linLinkErr (n : Fin 4) :
    findReg (LIN_LINK_ERR n) = some (⟨LIN_LINK_ERR 0, 4, 0x10000, 1, 0x0, .one, none, true, [ ⟨LIN_LINK_ERR_BAD_LINE_CNT, .ro, .val 0, .none⟩, ⟨LIN_LINK_ERR_SEQ_SLIP_CNT, .ro, .val 0, .none⟩, ⟨LIN_LINK_ERR_RELOCK_CNT, .ro, .val 0, .none⟩]⟩, n.val, 0) := by
  revert n; decide

theorem findReg_schSbSel :
    findReg SCH_SB_SEL = some (⟨SCH_SB_SEL, 1, 0x0, 1, 0x0, .one, none, false, [ ⟨SCH_SB_SEL_CTX, .rw, .val 0, .imm⟩]⟩, 0, 0) := by
  decide

theorem findReg_schSbClr :
    findReg SCH_SB_CLR = some (⟨SCH_SB_CLR, 1, 0x0, 1, 0x0, .one, none, false, [ ⟨SCH_SB_CLR_CLEAR, .wo, .val 0, .imm⟩]⟩, 0, 0) := by
  decide

theorem findReg_snpCtl :
    findReg SNP_CTL = some (⟨SNP_CTL, 1, 0x0, 1, 0x0, .one, some 0, false, [ ⟨SNP_CTL_OUT_EN, .rw, .val 0, .imm⟩, ⟨SNP_CTL_TIME_EN, .rw, .val 0, .imm⟩, ⟨SNP_CTL_PIN_EN, .rw, .val 0, .imm⟩, ⟨SNP_CTL_TRIGGER, .wo, .val 0, .imm⟩, ⟨SNP_CTL_ARM, .w1s, .val 0, .imm⟩]⟩, 0, 0) := by
  decide

theorem findReg_sysPwrCtl :
    findReg SYS_PWR_CTL = some (⟨SYS_PWR_CTL, 1, 0x0, 1, 0x0, .one, some 0, false, [ ⟨SYS_PWR_CTL_STANDBY, .rw, .val 0, .idle⟩]⟩, 0, 0) := by
  decide

theorem findReg_sysTherm :
    findReg SYS_THERM = some (⟨SYS_THERM, 1, 0x0, 1, 0x0, .one, none, false, [ ⟨SYS_THERM_TEMP_MAX, .ro, .val 128, .none⟩, ⟨SYS_THERM_TEMP_C, .ro, .val 0, .none⟩]⟩, 0, 0) := by
  decide

theorem findReg_ethCfg :
    findReg ETH_CFG = some (⟨ETH_CFG, 1, 0x0, 1, 0x0, .one, some 0, false, [ ⟨ETH_CFG_JUMBO, .rw, .val 0, .idle⟩, ⟨ETH_CFG_DIVERT, .rw, .val 1, .imm⟩, ⟨ETH_CFG_SEND, .rw, .val 1, .imm⟩, ⟨ETH_CFG_EN, .rw, .val 0, .imm⟩]⟩, 0, 0) := by
  decide

theorem findReg_pitGovCfg :
    findReg PIT_GOV_CFG = some (⟨PIT_GOV_CFG, 1, 0x0, 1, 0x0, .one, none, false, [ ⟨PIT_GOV_CFG_MARGIN_PCT, .rw, .val 5, .imm⟩, ⟨PIT_GOV_CFG_MODE, .rw, .val 0, .imm⟩]⟩, 0, 0) := by
  decide

theorem findReg_pgmItemLcReserve :
    findReg PGM_ITEM_LC_RESERVE = some (⟨PGM_ITEM_LC_RESERVE, 1, 0x0, 1, 0x0, .one, some 0, false, [ ⟨PGM_ITEM_LC_RESERVE_LC_RESERVE, .rw, .val 65536, .imm⟩]⟩, 0, 0) := by
  decide

theorem findReg_rasCorrLimit :
    findReg RAS_CORR_LIMIT = some (⟨RAS_CORR_LIMIT, 1, 0x0, 1, 0x0, .one, some 1, false, [ ⟨RAS_CORR_LIMIT_CORR_PER_S, .rw, .val 1000, .imm⟩]⟩, 0, 0) := by
  decide

theorem findReg_timNowLo :
    findReg TIM_NOW_LO = some (⟨TIM_NOW_LO, 1, 0x0, 1, 0x0, .lo, none, false, [ ⟨TIM_NOW_LO_NOW, .ro, .val 0, .none⟩]⟩, 0, 0) := by
  decide

end Sys2Proof.Machine
end

