-- ==== Sys2Proof/Laws/Step.lean ====
section
/-! SUPPORT. What a step can do to the queue and to Norentum, said once for every command. -/

namespace Sys2Proof.Machine

/-- How a main-domain command may reach Norentum: a time step, a packet at its tap, or the start of fabric time (R98, R139, R140, R477). -/
def Reaches (m m' : Met) : Prop :=
  m' = m ∨ (∃ k n, m' = m.takeStep k n) ∨ (∃ x, m' = m.takeTap x) ∨ m' = m.timeZero

/-- What a main-domain command keeps: the queue, and Norentum but for `Reaches`. -/
def MainOut (s : State) (o : Out) : Prop := ∀ t, o = .next t → t.pending = s.pending ∧ Reaches s.met t.met

theorem mainOut_onMain (s : State) (f : State → State) : MainOut s (s.onMain f) :=
  fun _ h => ⟨(State.onMain_cases h).1, .inl (State.onMain_cases h).2.1⟩

theorem mainOut_onHost (s : State) (f : State → State) : MainOut s (s.onHost f) := mainOut_onMain s _

theorem mainOut_onTime (s : State) (f : State → State × Int) : MainOut s (s.onTime f Met.takeStep) :=
  fun _ h => ⟨(State.onTime_cases h).1, (State.onTime_cases h).2.elim .inl (fun x => .inr (.inl x))⟩

theorem mainOut_onIntake (s : State) (f : State → State × Option TapIn) : MainOut s (s.onIntake f Met.takeTap) :=
  fun _ h => ⟨(State.onIntake_cases h).1, (State.onIntake_cases h).2.elim .inl (fun x => .inr (.inr (.inl x)))⟩

theorem mainOut_scrub (p : ScrubAt) (u : List (UpsetAt × List Byte)) (pins : PinLevels) (s : State) : MainOut s (execScrubStep p u pins s) := by
  unfold execScrubStep
  cases p <;> (dsimp only; split) <;> first | exact mainOut_onMain s _ | exact fun _ h => nomatch h

/-- A fold that keeps the queue at every element keeps it. -/
theorem foldl_pending {α : Type} (l : List α) (f : State → α → State) (h : ∀ s x, (f s x).pending = s.pending) (s : State) :
    (l.foldl f s).pending = s.pending := by
  induction l generalizing s with
  | nil => rfl
  | cons x l ih => rw [List.foldl_cons, ih, h]

theorem State.applyBoot_pending (s : State) (p : Tbl Word) : (s.applyBoot p).pending = s.pending :=
  foldl_pending _ _ (fun s x => by split <;> rfl) s

theorem State.fillRst_pending (s : State) (k : Rst) (v : Nat → Word) : (s.fillRst k v).pending = s.pending :=
  foldl_pending (rstRegs k) (fun s x => s.setReg x.1 (copyFields x.2 (v x.1) (s.reg x.1))) (fun _ _ => rfl) s

theorem State.setFld_pending (s : State) (a : Nat) (f : Fld) (v : Nat) : (s.setFld a f v).pending = s.pending := rfl

theorem State.setPair_pending (s : State) (a v : Nat) : (s.setPair a v).pending = s.pending := rfl

theorem State.engineReset_pending (s : State) (k : Tbl Word) : (s.engineReset k).pending = s.pending := rfl

theorem State.findLevels_pending (s : State) (e : Tbl (Bool × Bool)) (b : Tbl Bool) : (s.findLevels e b).pending = s.pending :=
  (foldl_pending b (fun s k => s.setBlocked k.1 (s.blockedLevel k.1 k.2)) (fun _ _ => rfl) _).trans rfl

theorem State.findPins_pending (s : State) (p : PinLevels) : (s.findPins p).pending = s.pending := State.findLevels_pending _ _ _

theorem mainOut_release (pins : PinLevels) (s : State) : MainOut s (execPoresetRelease pins s) := by
  unfold execPoresetRelease
  split
  · rintro _ ⟨⟩; exact ⟨rfl, .inl rfl⟩
  · intro t h
    injection h with h
    rw [← h]
    refine ⟨?_, .inr (.inr (.inr rfl))⟩
    dsimp only
    rw [State.findPins_pending]
    dsimp only
    rw [State.setFld_pending, State.setFld_pending, State.applyBoot_pending, State.setPair_pending, State.fillRst_pending,
      State.engineReset_pending]

theorem mainOut_assert (s : State) : MainOut s (execPoresetAssert s) := by
  unfold execPoresetAssert
  split
  · rintro _ ⟨⟩; exact ⟨rfl, .inl rfl⟩
  · rintro _ ⟨⟩; exact ⟨rfl, .inl rfl⟩

/-- A main-domain command keeps the queue, and reaches Norentum in no other way than those of `Reaches`. -/
theorem exec_main {c : Instr} {s : State} (hc : isMet c = false) : MainOut s (exec c s) := by
  cases c <;> dsimp only [exec] <;> first
    | exact mainOut_onMain s _
    | exact mainOut_onTime s _
    | exact mainOut_onIntake s _
    | exact mainOut_scrub _ _ _ s
    | exact mainOut_release _ s
    | exact mainOut_assert s
    | exact mainOut_onHost s _
    | exact absurd (show true = false from hc) Bool.noConfusion

/-- What a command of Norentum changes: Norentum and the counter of free values alone. -/
def MetOut (s : State) (o : Out) : Prop := ∀ t, o = .next t → t = { s with met := t.met, freeCtr := t.freeCtr }

theorem metOut_onMet (s : State) (f : State → State) : MetOut s (s.onMet f) := fun _ h => (State.onMet_cases h).1

theorem metOut_metDo (s : State) (f : Met → Met) : MetOut s (s.metDo f) := metOut_onMet s _

theorem metOut_metStep (s : State) (f : Met → Met) : MetOut s (s.metStep f) := metOut_onMet s _

theorem metOut_set (s : State) (m : Met) : MetOut s (.next { s with met := m }) := by rintro _ ⟨⟩; rfl

/-- A command of Norentum changes Norentum alone (R137). -/
theorem exec_norentum {c : Instr} {s : State} (hc : isMet c = true) : MetOut s (exec c s) := by
  cases c <;> dsimp only [exec] <;> first
    | exact absurd (show false = true from hc) Bool.noConfusion
    | exact metOut_metDo s _
    | exact metOut_metStep s _
    | exact metOut_onMet s _
    | exact metOut_set s _

/-- Every command keeps the queue. -/
theorem exec_pending {c : Instr} {s t : State} (h : exec c s = .next t) : t.pending = s.pending := by
  cases hc : isMet c with
  | false => exact (exec_main hc t h).1
  | true => rw [exec_norentum hc t h]

end Sys2Proof.Machine
end

