-- ==== Sys2Proof/Tests/Slice0.lean ====
section
/-! SUPPORT. Own tests: WellFormed refuses an ill-formed operand of each kind; for every obligation of Certificates/Slice0 with hypotheses, states and operands that meet the hypotheses of its clauses (a hypothesis on an opaque constant of Config is met by whichever value it has, and stands in no test); single commands on small states with results from the manual. -/

namespace Sys2Proof.Tests
open Sys2Proof Sys2Proof.Machine
-- The theorems here are checked one after the other: each on a thread of its own would need more memory than there is.
set_option Elab.async false

/-! ### States for the tests -/

/-- PORESET_N is released. -/
def up : State := { State.reset with sys := { State.reset.sys with released := true } }

/-- PORESET_N is released and READY and COACH_UP read 1. -/
def awake : State := (up.setFld HIF_STAT HIF_STAT_READY 1).setFld HIF_STAT HIF_STAT_COACH_UP 1

/-- Queue 0, ring 0 enabled, the timebase and Norentum's supply on. -/
def host : State := (awake.setFld (HIF_RING_CFG 0) HIF_RING_CFG_EN 1).setFld (HIF_RING_CFG 0) HIF_RING_CFG_LOG2_SLOTS 12

/-- A command packet of an opcode with bytes from byte 8 on. -/
def pkt (op : Byte) (rest : List Byte) : List Byte := fitTo 64 ([op, 0, 0, 0, 1, 0, 0, 0] ++ rest)

/-- `s` with the packet fetched at queue 0, position 0. -/
def fetched (s : State) (b : List Byte) : State := { s with fetched := [{ sq := 0, pos := 0, bytes := b, running := false, openedItem := 0 }] }

/-- Norentum in a state, with its supply on and SEAL_N as the state has it. -/
def met (st : MetState) : State :=
  { State.reset with met := { State.reset.met with on := true, state := st, sealKnown := true, sealLow := st == .sealed, staged := [], committed := [] } }

/-- `s` with the command `c` running at the head of engine `e` of tile 0. -/
def run (s : State) (e : Engine) (bytes : List Byte) (done : Nat) : State :=
  let c : QCmd := { index := 0, bytes := fitTo 64 bytes, started := true, startTb := 0, done := done, before := [], released := [], sent := 0 }
  let t : Tile := { s.tileSt 0 with job := some 1 }
  { s with tiles := tput s.tiles 0 (match e with | .mac => { t with mac := [c] } | .vec => { t with vec := [c] } | .msg => { t with msg := [c] })
           jobs := tput s.jobs 1 default }

/-- Every pin is low. -/
def pins0 : PinLevels := { enc := List.replicate 4 (false, false), bar := List.replicate 8 false }

/-! ### WellFormed refuses an ill-formed operand of each kind -/

theorem test_wf_reg_size : (Instr.regWrite 0 0 0).wf = false ∧ (Instr.regWrite 0 9 0).wf = false ∧ (Instr.regWrite 0 4 0).wf = true := by decide
theorem test_wf_packet : (Instr.sensorPacket 0 [] 0 []).wf = false ∧ (Instr.sensorPacket 0 (zeros 65) 1 []).wf = false ∧ (Instr.sensorPacket 0 (zeros 64) 1 [(0, zeros 35)]).wf = true
    ∧ (Instr.sensorPacket 0 (zeros 64) 1 [(0, zeros 34)]).wf = false := by decide +kernel
theorem test_wf_found : (Instr.lineComplete 0 false [{ (default : Found) with firstLine := 1, lastLine := 0, cols := 1 }]).wf = false
    ∧ (Instr.sideSeal 1 [{ (default : Found) with lastLine := 1, needLine := 0, cols := 1 }]).wf = false ∧ (Instr.imageDecodeDone [default]).wf = false := by decide
theorem test_wf_flit : (Instr.flitReceived 0 []).wf = false ∧ (Instr.idleFlit 0 []).wf = false ∧ (Instr.keepalive 0 []).wf = false ∧ (Instr.replayReq 0 (zeros 257)).wf = false := by decide +kernel
theorem test_wf_hello : (Instr.hello 0 0 6 0 0).wf = false ∧ (Instr.hello 0 0 5 0 0).wf = true := by decide
theorem test_wf_huddle : (Instr.report 0 0 [{ (default : NeighRep) with port := 6 }]).wf = false ∧ (Instr.report 0 0 [{ (default : NeighRep) with nport := 6 }]).wf = false
    ∧ (Instr.mapMsg 0 0 0 [{ (default : MapDev) with addr := 256 }]).wf = false := by decide
theorem test_wf_link : (Instr.linkDownMsg 0 0 0 { addr := 256, port := 0 }).wf = false ∧ (Instr.linkUpMsg 0 0 0 { addr := 0, port := 6 }).wf = false := by decide
theorem test_wf_relay : (Instr.relayOpen 0 { (default : RelayOpenBody) with port := 4 }).wf = false ∧ (Instr.relayLine 0 [] 0 0 []).wf = false
    ∧ (Instr.relayLine 0 (zeros 32) 3 0 []).wf = false ∧ (Instr.relayResult 0 (zeros 31)).wf = false := by decide +kernel
theorem test_wf_escalation : (Instr.escHead 0 0 { (default : EscHeadBody) with cls := 2 }).wf = false ∧ (Instr.escHead 0 0 { (default : EscHeadBody) with model := 65536 }).wf = false := by decide
theorem test_wf_scrub : (Instr.scrubStep (.dram (2 ^ 31)) [] pins0).wf = false ∧ (Instr.scrubStep (.tile 272 0) [] pins0).wf = false
    ∧ (Instr.scrubStep (.tile 0 (2 ^ 15)) [] pins0).wf = false ∧ (Instr.scrubStep (.dram 0) [(.dram 0, zeros 34)] pins0).wf = false
    ∧ (Instr.scrubStep (.dram 0) [(.cal 4 0 0, zeros 35)] pins0).wf = false ∧ (Instr.scrubStep (.dram 0) [(.cal 3 1 5, zeros 35)] pins0).wf = true := by decide +kernel
theorem test_wf_pins : (Instr.metPowerOn { enc := [], bar := pins0.bar }).wf = false ∧ (Instr.poresetRelease { enc := pins0.enc, bar := [] }).wf = false ∧ (Instr.metPowerOn pins0).wf = true := by decide
theorem test_wf_boot : (Instr.umpireUp [(0, { (default : BootImage) with r := 2 ^ 192 * 2 ^ 192 })] true).wf = false ∧ (Instr.coachImage [(0, default)] true).wf = true := by decide +kernel
theorem test_wf_codeword : (Instr.codewordUncorrectable 0 [[0]]).wf = false ∧ (Instr.codewordUncorrectable 0 [List.replicate 544 1023]).wf = true
    ∧ (Instr.codewordUncorrectable 0 [List.replicate 544 1024]).wf = false := by decide +kernel
theorem test_wf_image : (Instr.hostReadTimeout (.image (2 ^ 20))).wf = false ∧ (Instr.hostReadTimeout (.image 1)).wf = true := by decide
theorem test_wf_bist : (Instr.tempoWindow []).wf = false ∧ (Instr.bistDone [272]).wf = false ∧ (Instr.bistDone [271]).wf = true := by decide
theorem test_wf_payload : uartFits (zeros 65536) = false ∧ msgFits (zeros 65505) = false ∧ msgFits (zeros 65504) = true := by decide +kernel

/-- The worked example of R524: byte 31 of a word of zeros read as 0x05 has S0 05, S1 28, S2 5D, and is corrected. -/
theorem test_rs_example : let w := (rsEncode (zeros 32)).set 31 5
    syndrome 0 w = 0x05 ∧ syndrome 1 w = 0x28 ∧ syndrome 2 w = 0x5D ∧ rsRead w = .corrected (rsEncode (zeros 32)) := by decide +kernel
theorem test_rs_two_bytes : rsRead (((rsEncode (zeros 32)).set 0 1).set 1 1) = .uncorrectable := by decide +kernel

/-! ### Decode: no row has bits -/

theorem test_decode_none : decodeTableWord 0 0 = none ∧ State.reset.withFetchWord 8 7 = State.reset := by decide +kernel

/-! ### The hypotheses of the statements are met: Norentum -/

theorem test_meets_StepRunsFront : ({ up with pending := [.nop 0 .mac] } : State).pending = .nop 0 .mac :: [] ∧ up.pending = [] := ⟨rfl, rfl⟩
theorem test_step_front : step { up with pending := [.metPowerOff, .metPowerOn default] } = .next { up with pending := [.metPowerOn default], met := { up.met with on := false } } := rfl
theorem test_meets_IdleTick : let s : State := { up with met := (met .boot).met }
    up.pending = [] ∧ up.sys.released = true ∧ up.tim.rate = 0 ∧ up.tim.acc = 0 ∧ up.tim.stopNs = 0 ∧ up.met.on = false
    ∧ s.pending = [] ∧ s.sys.released = true ∧ s.tim.rate = 0 ∧ s.tim.acc = 0 ∧ s.met.on = true ∧ s.met.stopNs = 0
    ∧ (met .boot).met.on = true ∧ (met .boot).met.stopNs = 0 ∧ (met .boot).sys.released = false := by decide +kernel
theorem test_meets_IdleTick_stopped : let s : State := { up with tim := { up.tim with stopNs := 1 }, met := { (met .boot).met with stopNs := 1 } }
    s.pending = [] ∧ s.sys.released = true ∧ s.tim.rate = 0 ∧ s.tim.acc = 0 ∧ 0 < s.tim.stopNs ∧ s.met.on = true ∧ 0 < s.met.stopNs := by decide +kernel
theorem test_meets_WritesReadBack : State.reset.canonical := ⟨by decide, by decide, by decide, by decide⟩
theorem test_meets_ResetHoldsMainDomain : State.reset.sys.released = false ∧ isMet (.nop 0 .mac) = false := by decide +kernel
theorem test_meets_MetUartReads : let s := met .sealed; let t : State := { s with met := { s.met with log := [zeros 32] } }
    t.met.on = true ∧ 1 ≤ leAt [1, 0] 0 2 ∧ leAt [1, 0] 0 2 ≤ t.met.log.length ∧ t.met.log.length < leAt [2, 0] 0 2 ∧ leAt [0, 0] 0 2 = 0 ∧ (zeros 64).length = 64 ∧ (zeros 63).length ≠ 64
    ∧ (0x0F : Byte).toNat < 0x10 ∧ 0x17 < (0x18 : Byte).toNat := by decide +kernel
theorem test_meets_MetChanges : let s := met .opened; let p : List Byte := [3, 14, 0x64, 0, 0, 0]; let q : List Byte := [0, 5, 0xF0, 0xD8, 0xFF, 0xFF]
    let far : List Byte := [0, 14, 0xFF, 0xFF, 0xFF, 0xFF]; let low : List Byte := [0, 5, 0xEF, 0xD8, 0xFF, 0xFF]
    s.met.on = true ∧ s.met.state = .opened ∧ leAt p 0 1 ≤ 3 ∧ leAt p 1 1 ≤ 14 ∧ leAt p 1 1 ≠ 5 ∧ (metRange 14).1 ≤ (leAt p 2 4 : Nat) ∧ ((leAt p 2 4 : Nat) : Int) ≤ (metRange 14).2
    ∧ leAt q 1 1 = 5 ∧ sgn 32 (leAt q 2 4) = -10000 ∧ (zeros 5).length = 5 ∧ (zeros 4100).length = 4100 ∧ s.met.log.length < 1024
    ∧ (zeros 5).length ≠ 6 ∧ 3 < leAt [4] 0 1 ∧ 14 < leAt [0, 15] 1 1 ∧ (metRange (leAt far 1 1)).2 < ((leAt far 2 4 : Nat) : Int) ∧ sgn 32 (leAt low 2 4) < -10000 ∧ (zeros 4).length < 5 ∧ 4100 < (zeros 4101).length
    ∧ (∀ n < 4, metParam s.met.staged n 13 ≤ metParam s.met.staged n 14) ∧ (zeros 96).length = 96 := by decide +kernel
theorem test_meets_MetChanges_refused : let s := met .sealed; let t : State := { met .opened with met := { (met .opened).met with log := List.replicate 1024 [] } }
    s.met.on = true ∧ s.met.state = .sealed ∧ t.met.on = true ∧ t.met.state = .opened ∧ 1024 ≤ t.met.log.length ∧ (met .boot).met.on = true ∧ (met .boot).met.state = .boot := by decide +kernel
/-- Norentum at a time of its counter, port 3 blocked, a committed set due. -/
def metAt (st : MetState) (ns : Nat) (blocked due : Bool) : State :=
  { met st with met := { (met st).met with time := BitVec.ofNat 64 (ns * 65536), ports := [(3, { (default : MetPort) with blocked := blocked, applyDue := due })] } }
theorem test_meets_MetEdges : let s := metAt .sealed 5 false false; let t := metAt .opened 5 true true
    s.met.on = true ∧ (s.met.enc 3).a = false ∧ (s.met.enc 3).b = false ∧ s.met.stood 0 5 = true ∧ s.met.stood 1 5 = false ∧ s.met.state = .sealed ∧ t.met.state = .opened
    ∧ (s.met.port 3).blocked = false ∧ (s.met.port 3).busy = false ∧ s.met.stood 0 (s.met.port 3).inForce.mbarFilt = true ∧ (met .sealed).met.stood 65536 ((met .sealed).met.port 0).inForce.mbarFilt = false
    ∧ (t.met.port 3).blocked = true ∧ s.met.stood 0 (s.met.port 3).barFilt = true ∧ (met .sealed).met.stood (2 ^ 32) ((met .sealed).met.port 0).barFilt = false
    ∧ (s.met.port 3).applyDue = false ∧ (t.met.port 3).applyDue = true ∧ s.met.ports.all (fun p => !p.2.applyDue) = true := by decide +kernel
theorem test_meets_MetEdges_timeout : let q : Meas := { (default : Meas) with trail := some 0 }
    let s : State := { met .sealed with met := { (met .sealed).met with time := BitVec.ofNat 64 (10000000 * 65536), ports := [(0, { (default : MetPort) with meas := [q] })] } }
    s.met.on = true ∧ q ∈ (s.met.port 0).meas ∧ q.trail = some 0 ∧ 10000000 * 65536 ≤ stampDiff s.met.time 0 := by decide +kernel
theorem test_meets_MetRecordMade : let q : Meas := { (default : Meas) with trail := some 1, interpDone := true }
    let s : State := { met .sealed with met := { (met .sealed).met with ports := [(0, { (default : MetPort) with meas := [q] })] } }
    s.met.on = true ∧ s.met.state = .sealed ∧ (s.met.port 0).meas = q :: [] ∧ q.open = false ∧ q.interpDone = true := by decide +kernel
theorem test_meets_MetStatesAndSupply : let s : State := { met .boot with met := { (met .boot).met with sealLow := true } }
    s.met.on = true ∧ s.met.log.length < 1024 ∧ s.met.state = .boot ∧ s.met.imageBad = false ∧ s.met.flashBad = false ∧ s.met.otpBad = false ∧ s.met.sealKnown = true ∧ s.met.powerLogged = false
    ∧ ({ s with met := { s.met with powerLogged := true } } : State).met.powerLogged = true ∧ (false || true || false) = true
    ∧ (met .sealed).met.sealLow = true ∧ (met .sealed).met.sealKnown = true ∧ (met .opened).met.sealKnown = true ∧ (met .opened).met.sealLow = false ∧ State.reset.met.on = false ∧ isMet (.metBootDone false false false) = true
    ∧ s.tb < 0 + 10000000 ∧ 0 + 10000000 ≤ ({ s with tb := 10000000 } : State).tb := by decide +kernel
theorem test_meets_MetLegalKept : (met .sealed).met.legal ∧ step (met .sealed) = .next (tick (met .sealed)) := ⟨⟨by decide, by decide, by decide⟩, rfl⟩
theorem test_meets_MetSealedUnchanged : (met .sealed).met.state = .sealed ∧ (met .sealed).runs := ⟨rfl, _, rfl⟩

/-- The parameters have their defaults, and an accepted edge counts up in the phase order (R143, R584). -/
theorem test_met_edge : let m : Met := { (met .sealed).met with time := BitVec.ofNat 64 (100 * 65536) }; let r := m.encEdge 0 true false 65536
    (r.enc 0).pos = 1 ∧ ((r.encEdge 0 true true 131072).enc 0).pos = 2 ∧ ((m.encEdge 0 false true 65536).enc 0).pos = 2 ^ 32 - 1 := by decide +kernel
/-- STAGE in SEALED is answered NAK SEALED (R167). -/
theorem test_met_sealed : (met .sealed).met.stage [0, 0, 0, 0, 0, 0] = (met .sealed).met.nak 1 := by decide +kernel

/-! ### Host register accesses -/

theorem awake_is : awake.awake := ⟨by decide +kernel, by decide +kernel⟩
theorem host_is : host.awake := ⟨by decide +kernel, by decide +kernel⟩

/-- LIN_LINE_MIN, of an IDLE field, while its port is off (RegisterWrites): every premise of the first part. -/
theorem test_meets_RegisterWrites : (findReg (LIN_LINE_MIN 1)).any (fun (d, _, _) => (LIN_LINE_MIN 1) % 4 = 0 ∧ (LIN_LINE_MIN 1) / 0x100000 ≠ 10 ∧ d.pair = .one ∧ d.clr = false
    ∧ irqStatOf d.base (LIN_LINE_MIN 1) = none ∧ (d.fields.all (fun f => f.acc != .rw || f.eff == .imm || f.eff == .idle)) = true
    ∧ awake.blockRuns (LIN_LINE_MIN 1) = false ∧ awake.inRange d.base 2000 = true
    ∧ d.base ∉ [LIN_PORT_CTL 0, CAL_CTL 0, CAL_TAB_DATA 0, CAL_TAB_COMMIT 0, HIF_SQ_CFG 0, HIF_SQ_TAIL 0, HIF_RING_CFG 0, HIF_RING_HEAD 0, SCH_SB_SEL,
      SCH_SB_CLR, SNP_CTL, PIT_GOV_CFG, PIT_GOV_VLIM, PIT_GOV_FIXED, PIT_PWR_CAP, SYS_PWR_CTL, SYS_THERM, KOL_PORT_CTL 0, ETH_CFG, LIN_BAR_CFG 0,
      HIF_RESULT_BUDGET, PGM_ITEM_LC_RESERVE, LIN_RET_SIZE 0, LIN_ENC_CFG 0, LIN_ENC_LIMIT 0, PIT_GOV_STAT, TIM_CFG]) = true := by decide +kernel
/-- Port 1 runs, and LIN_PORT_CFG of it is written with other LAMP_MONO and COLOUR. -/
def portRuns : State := awake.setFld (LIN_PORT_CTL 1) LIN_PORT_CTL_EN 1
def portWritten : State := portRuns.hostWrite (LIN_PORT_CFG 1) 4 (fset (fset (portRuns.reg (LIN_PORT_CFG 1)) LIN_PORT_CFG_LAMP_MONO 5) LIN_PORT_CFG_COLOUR 1)
theorem test_meets_RegisterWrites_fields : (findReg (LIN_PORT_CFG 1)).any (fun (d, _, _) => d.writes .idle && d.writes .line && d.rej.isSome && !d.clr && d.pair == .one) = true
    ∧ portRuns.blockRuns (LIN_PORT_CFG 1) = true ∧ rejectReg (LIN_PORT_CFG 1) = some (LIN_WR_REJECT 1) ∧ lineScope 1 (LIN_PORT_CFG 1) = true := by decide +kernel
/-- The IDLE field is rejected, the LINE field waits, and takes effect at the start of a line (FieldsWritten, ShadowTakesEffect). -/
theorem test_field_waits : portWritten.reg (LIN_PORT_CFG 1) = portRuns.reg (LIN_PORT_CFG 1) ∧ portWritten.num (LIN_WR_REJECT 1) ≠ 0 ∧ portWritten.shadow.map (·.1) = [LIN_PORT_CFG 1] := by decide +kernel
theorem test_line_field : (portWritten.startLine 1).fld (LIN_PORT_CFG 1) LIN_PORT_CFG_LAMP_MONO = 5 := by decide +kernel
theorem test_idle_field : (portWritten.startLine 1).fld (LIN_PORT_CFG 1) LIN_PORT_CFG_COLOUR = 0 := by decide +kernel
/-- A value out of range is rejected whole (FieldsWritten). -/
theorem test_meets_RegisterWrites_range : let t := awake.hostWrite (LIN_EXP_TIME 2) 4 99
    awake.inRange (LIN_EXP_TIME 0) 99 = false ∧ t.shadow = [] ∧ t.num (LIN_WR_REJECT 2) ≠ 0 := by decide +kernel
/-- The pair of LIN_RET_BASE while its port is off and while it runs, with a low word that waits (PairWritten). -/
theorem test_meets_RegisterWrites_pair : let a := LIN_RET_BASE_LO 0 + 4; let t := awake.setFld (LIN_PORT_CTL 0) LIN_PORT_CTL_EN 1
    (findReg (a - 4)).any (fun (d, _, _) => d.pair == .lo && !d.clr) = true ∧ (findReg a).any (fun (d, _, _) => d.pair == .hi && d.writes .idle && d.rej.isSome && !d.clr) = true
    ∧ awake.blockRuns a = false ∧ t.blockRuns a = true ∧ tfind (awake.hostWrite (a - 4) 4 7).loWord (a - 4) = some 7
    ∧ ((t.hostWrite (a - 4) 4 7).hostWrite a 4 1).loWord = [] ∧ ((t.hostWrite (a - 4) 4 7).hostWrite a 4 1).pair (a - 4) = t.pair (a - 4) := by decide +kernel
/-- ITEM and BOOT values that wait (ShadowTakesEffect). -/
theorem test_meets_RegisterWrites_shadow : let s : State := { awake with shadow := [(HIF_PORT_RING, 3), (LIN_EXP_TIME 1, 500)], bootPend := [(SYS_HUDDLE_WAIT, 20)] }
    (findReg HIF_PORT_RING).any (fun (d, _, _) => d.ofEff .item != []) = true ∧ itemScope (some 1) HIF_PORT_RING = true ∧ itemScope none HIF_PORT_RING = true
    ∧ ((s.itemBoundary none).reg HIF_PORT_RING = 3 ∧ (s.itemBoundary none).shadow = [(LIN_EXP_TIME 1, 500)])
    ∧ (findReg SYS_HUDDLE_WAIT).any (fun (d, _, _) => d.ofEff .boot != []) = true ∧ s.sys.released = true
    ∧ (s.applyBoot s.bootPend).num SYS_HUDDLE_WAIT = 20 := by decide +kernel
/-- TIM_CFG by the general rule (PlainRegister). -/
theorem test_meets_RegisterWrites_plain : (findReg TIM_CFG).any (fun (d, _, _) => TIM_CFG % 4 = 0 ∧ TIM_CFG / 0x100000 ≠ 10 ∧ d.clr = false ∧ d.pair = .one ∧ d.base = TIM_CFG) = true := by decide +kernel
theorem test_meets_LowWordLatch : (findReg (LIN_RET_BASE_LO 0)).any (fun (d, _, _) => (LIN_RET_BASE_LO 0) % 4 = 0 ∧ d.pair = .lo ∧ LIN_RET_BASE_LO 0 ≠ TIM_NOW_LO
      ∧ LIN_RET_BASE_LO 0 ≠ TIM_TAI_LO ∧ d.base ≠ CAL_TAB_DATA 0 ∧ d.base ≠ TIM_PORT_POP 0) = true
    ∧ (findReg (LIN_RET_BASE_LO 0 + 4)).any (fun (d, _, _) => d.pair = .hi ∧ d.base ≠ CAL_TAB_DATA 0 ∧ d.base ≠ TIM_PORT_POP 0) = true
    ∧ tfind ({ awake with hiLatch := [(LIN_RET_BASE_LO 0 + 4, 9)] } : State).hiLatch (LIN_RET_BASE_LO 0 + 4) = some 9 := by decide +kernel
theorem test_meets_CounterWriteIgnored : (findReg (LIN_OVERRUN 3)).any (fun (d, _, _) => d.clr) = true ∧ (1 : Word) ≠ 0 ∧ awake.sys.released = true := by decide +kernel
theorem test_meets_QueuesAndRings : let s := awake; let t := (awake.setFld (HIF_SQ_CFG 1) HIF_SQ_CFG_EN 1).setFld (HIF_SQ_CFG 1) HIF_SQ_CFG_LOG2_SIZE 4
    0 ≤ sdiff 16 16 (t.fld (HIF_SQ_TAIL 1) HIF_SQ_TAIL_TAIL) ∧ (16 + 65536 - t.fld (HIF_SQ_HEAD 1) HIF_SQ_HEAD_HEAD) % 65536 ≤ 2 ^ t.fld (HIF_SQ_CFG 1) HIF_SQ_CFG_LOG2_SIZE
    ∧ 2 ^ t.fld (HIF_SQ_CFG 1) HIF_SQ_CFG_LOG2_SIZE < (17 + 65536 - t.fld (HIF_SQ_HEAD 1) HIF_SQ_HEAD_HEAD) % 65536
    ∧ sdiff 16 0xFFFF (t.fld (HIF_SQ_TAIL 1) HIF_SQ_TAIL_TAIL) < 0
    ∧ s.on (HIF_SQ_CFG 1) HIF_SQ_CFG_EN = false ∧ (let w := fset 0 HIF_SQ_CFG_LOG2_SIZE 12; 4 ≤ fget w HIF_SQ_CFG_LOG2_SIZE ∧ fget w HIF_SQ_CFG_LOG2_SIZE ≤ 12)
    ∧ t.on (HIF_SQ_CFG 1) HIF_SQ_CFG_EN = true ∧ 4 ≤ t.fld (HIF_SQ_CFG 1) HIF_SQ_CFG_LOG2_SIZE ∧ t.fld (HIF_SQ_CFG 1) HIF_SQ_CFG_LOG2_SIZE ≤ 12
    ∧ s.on (HIF_RING_CFG 1) HIF_RING_CFG_EN = false ∧ (let w := fset 0 HIF_RING_CFG_LOG2_SLOTS 12; 12 ≤ fget w HIF_RING_CFG_LOG2_SLOTS ∧ fget w HIF_RING_CFG_LOG2_SLOTS ≤ 20) := by decide +kernel
theorem test_meets_QueuesAndRings_head : let s := (awake.setNum (HIF_RING_TAIL 2) 8).setFld (HIF_RING_IRQ 2) HIF_RING_IRQ_COUNT 1
    let t : State := { s with tb := 1000000, rings := [(2, { unsig := 1, firstTb := 0 })] }
    0 ≤ sdiff 32 8 (s.num (HIF_RING_HEAD 2)) ∧ sdiff 32 8 (s.num (HIF_RING_TAIL 2)) ≤ 0 ∧ 0 < sdiff 32 9 (s.num (HIF_RING_TAIL 2)) ∧ sdiff 32 0xFFFFFFFF (s.num (HIF_RING_HEAD 2)) < 0
    ∧ (tget default t.rings 2).unsig ≠ 0 ∧ t.fld (HIF_RING_IRQ 2) HIF_RING_IRQ_COUNT ≠ 0 ∧ (tget default t.rings 2).firstTb + t.fld (HIF_RING_IRQ 2) HIF_RING_IRQ_TIME_US * 1000 ≤ t.tb
    ∧ t.msixMask.contains (t.fld (HIF_RING_VEC 2) HIF_RING_VEC_VEC) = false ∧ ({ t with msixMask := [t.fld (HIF_RING_VEC 2) HIF_RING_VEC_VEC] } : State).msixMask.contains (t.fld (HIF_RING_VEC 2) HIF_RING_VEC_VEC) = true := by decide +kernel
theorem test_meets_ScoreboardAndSnapshot : let s : State := { awake with ctxs := [(0, { (default : Ctx) with state := .idle })] }
    let t := awake.setFld SNP_STAT SNP_STAT_ARMED 1
    (tget default s.ctxs (fget 0 SCH_SB_SEL_CTX)).state ≠ .undefined ∧ (tget default s.ctxs (fget 1 SCH_SB_SEL_CTX)).state = .undefined
    ∧ tfind s.ctxs (s.fld SCH_SB_SEL SCH_SB_SEL_CTX) = some { (default : Ctx) with state := .idle }
    ∧ fget 0 SNP_CTL_TIME_EN = 0 ∧ t.on SNP_STAT SNP_STAT_ARMED = true ∧ fget 0 SNP_CTL_ARM = 0 ∧ awake.on SNP_STAT SNP_STAT_ARMED = false ∧ awake.snp.lastTrig = none
    ∧ fget (fset 0 SNP_CTL_ARM 1) SNP_CTL_ARM = 1 ∧ fget (fset 0 SNP_CTL_ARM 1) SNP_CTL_TIME_EN = 0 ∧ fget 0 SNP_CTL_TRIGGER = 0 := by decide +kernel
theorem test_meets_StandbyPortsAndStamps : let s := awake; let t : State := { awake with tim := { awake.tim with ports := [(6, { (default : TPort) with txq := [(7, 9)] })] } }
    s.standbyBusy = false ∧ (s.setFld (LIN_PORT_STAT 0) LIN_PORT_STAT_ENABLED 1).standbyBusy = true ∧ (s.setFld (KOL_PORT_CTL 5) KOL_PORT_CTL_EN 0).on (KOL_PORT_CTL 5) KOL_PORT_CTL_EN = false ∧ s.on ETH_CFG ETH_CFG_EN = false
    ∧ (t.tport 6).txq = (7, 9) :: [] := by decide +kernel

/-- A write of the low word alone has no effect; the high word commits both (R5). -/
theorem test_pair_write : let s := (awake.hostWrite (LIN_RET_BASE_LO 2) 4 0x5000)
    s.pair (LIN_RET_BASE_LO 2) = awake.pair (LIN_RET_BASE_LO 2) ∧ (s.hostWrite (LIN_RET_BASE_LO 2 + 4) 4 1).pair (LIN_RET_BASE_LO 2) = 0x100005000 := by decide +kernel
/-- A byte write does nothing, and the MET window ignores a write (R4, R9). -/
theorem test_write_ignored : awake.hostWrite (LIN_TRIG_STEP 0) 1 5 = awake ∧ awake.hostWrite 0xA00000 4 5 = awake := by decide +kernel
/-- A doorbell past the size stops the queue with CODE 1 (R486). -/
theorem test_doorbell : let t := ((awake.setFld (HIF_SQ_CFG 0) HIF_SQ_CFG_LOG2_SIZE 4).doorbell 0 17)
    t.fld (HIF_SQ_ERR 0) HIF_SQ_ERR_CODE = 1 ∧ t.num (HIF_SQ_TAIL 0) = 0 := by decide +kernel

/-! ### Line intake and calibration -/

/-- Port 0 on, with its link up, one mono line of two pixels under way. -/
def line : State :=
  let s := ((awake.setFld (LIN_PORT_STAT 0) LIN_PORT_STAT_ENABLED 1).setFld (LIN_PORT_STAT 0) LIN_PORT_STAT_LINK_UP 1).setFld (LIN_PORT_CFG 0) LIN_PORT_CFG_PIX 2
  { s with tb := 20000000, lin := [(0, { (default : LinPort) with lines := [{ (default : LineRec) with pix := 2, lanes := 1 }] })] }

/-- A packet of two pixels, 0x123 and 0x456, for `line` (R60-R63). -/
def packet : List Byte :=
  let b := leBytes 2 0x5A3C ++ [0, 0] ++ leBytes 2 2 ++ zeros 26 ++ [0x23, 0x61, 0x45]
  b ++ leBytes 4 (crc32 b)

theorem test_meets_PortAdmission : let s := awake.setNum (LIN_LINE_MIN 0) 10000; let f := awake.setNum (LIN_LINE_MIN 0) 1; let b := s.setFld SYS_PWR_STAT SYS_PWR_STAT_STATE 4
    s.linOn 0 = false ∧ s.standby = false ∧ s.linkMinPs 0 ≤ s.num (LIN_LINE_MIN 0) * 1000 ∧ s.rateSum (0 :: s.onPorts) ≤ 24
    ∧ f.linOn 0 = false ∧ f.standby = false ∧ f.num (LIN_LINE_MIN 0) * 1000 < f.linkMinPs 0 ∧ 24 < f.rateSum (0 :: f.onPorts)
    ∧ b.linOn 0 = false ∧ b.standby = true ∧ line.linOn 0 = true := by decide +kernel
theorem test_meets_CalibrationCommands : let s := awake.setFld (LIN_PORT_CFG 0) LIN_PORT_CFG_PIX 8
    let t : State := { s with cal := [(0, { (default : CalPort) with phase := .strip1 })] }
    let u : State := { s with cal := [(0, { (default : CalPort) with chk1 := [(0, [1, 0, 0])] })] }
    fget (fset 0 CAL_CTL_ARM 1) CAL_CTL_ARM = 1 ∧ fget (fset 0 CAL_CTL_ARM 1) CAL_CTL_ABORT = 0 ∧ fget 0 CAL_CTL_ARM = 0 ∧ fget 0 CAL_CTL_ABORT = 0 ∧ s.calBusy 0 = false
    ∧ fget 0 CAL_CTL_START = 0 ∧ (t.calPort 0).capturing = true ∧ s.tabInside 0 = true ∧ (s.setFld (CAL_STAT 0) CAL_STAT_BUSY 1).calBusy 0 = true ∧ 0x280010 / 0x10000 = 0x28 + 0
    ∧ (s.calPort 0).chk (s.workBank 0) = [] ∧ u.tabInside 0 = true ∧ u.workBank 0 = 1 ∧ (u.calPort 0).chk 1 ≠ [] := by decide +kernel
theorem test_meets_CaptureResult : let c : CalPort := { (default : CalPort) with phase := .computing }
    let s : State := { awake.setFld (LIN_PORT_CFG 0) LIN_PORT_CFG_PIX 2 with cal := [(0, c)] }
    let defects (s : State) := ((List.range (s.colours 0)).map (s.deriveColour 0) |>.map (fun c => (c.filter (·.2)).length)).foldl max 0
    let t := (s.setFld (CAL_DEF_LIMIT 0) CAL_DEF_LIMIT_DEFECT_LIMIT 1).setFld (CAL_CFG 0) CAL_CFG_MAX_RUN 2
    let u := (s.setFld (CAL_DEF_LIMIT 0) CAL_DEF_LIMIT_DEFECT_LIMIT 2).setFld (CAL_CFG 0) CAL_CFG_MAX_RUN 1
    let v := (s.setFld (CAL_DEF_LIMIT 0) CAL_DEF_LIMIT_DEFECT_LIMIT 2).setFld (CAL_CFG 0) CAL_CFG_MAX_RUN 2
    (s.calPort 0).phase = .computing ∧ (s.calPort 0).waitOk = false ∧ (s.calPort 0).copying = false
    ∧ t.fld (CAL_DEF_LIMIT 0) CAL_DEF_LIMIT_DEFECT_LIMIT < defects t ∧ defects v ≤ v.fld (CAL_DEF_LIMIT 0) CAL_DEF_LIMIT_DEFECT_LIMIT ∧ defects u ≤ u.fld (CAL_DEF_LIMIT 0) CAL_DEF_LIMIT_DEFECT_LIMIT
    ∧ ((List.range (u.colours 0)).map (u.deriveColour 0)).any (fun c => decide (u.fld (CAL_CFG 0) CAL_CFG_MAX_RUN < longestRun (c.map (·.2)))) = true
    ∧ ((List.range (v.colours 0)).map (v.deriveColour 0)).any (fun c => decide (v.fld (CAL_CFG 0) CAL_CFG_MAX_RUN < longestRun (c.map (·.2)))) = false
    ∧ (({ awake with cal := [(0, { c with copying := true })] } : State).calPort 0).copying = true ∧ (({ awake with cal := [(0, { c with copying := true })] } : State).calPort 0).waitOk = false := by decide +kernel
theorem test_meets_SensorLinks : let l (k : Bool) (e : List Nat) (c : Nat) : State :=
      { line.setFld (LIN_PORT_CFG 0) LIN_PORT_CFG_LANES 0 with lin := [(0, { (default : LinPort) with lanes := [(0, { locked := k, clean := c, errors := e })] })] }
    let s := l false [] 0; let t := l true (List.replicate 16 20000000) 0; let u := l true (List.replicate 15 20000000 ++ [1]) 0
    s.laneUsed 0 0 = true ∧ (s.lane 0 0).locked = false ∧ (s.lane 0 0).clean * 1000 + 64 * s.blockPs 0 ≤ s.tb * 1000
    ∧ (l false [] 19999737).tb * 1000 < ((l false [] 19999737).lane 0 0).clean * 1000 + 64 * (l false [] 19999737).blockPs 0
    ∧ t.laneUsed 0 0 = true ∧ (t.lane 0 0).locked = true ∧ 16 ≤ (t.recentErrors 0 (t.lane 0 0)).length ∧ (u.recentErrors 0 (u.lane 0 0)).length < 16
    ∧ t.linOn 0 = true ∧ t.allLocked 0 = true ∧ 4 ≤ 4 ∧ 4 < 5 := by decide +kernel
theorem test_meets_SensorLinks_packet : let l : LineRec := { (default : LineRec) with pix := 2, lanes := 1 }; let s := line.setFld (LIN_PORT_CFG 0) LIN_PORT_CFG_LANES 0
    (s.linPort 0).lines[0]? = some l ∧ l.flush = false ∧ s.on (LIN_PORT_STAT 0) LIN_PORT_STAT_LINK_UP = true
    ∧ (s.linPort 0).answers (s.tb - (pktBlocks 2 1 + 1) * s.blockPs 0 / 1000) = some (0, 0)
    ∧ pktCrcOk 2 packet = true ∧ leAt packet 0 2 = 0x5A3C ∧ leAt packet 4 2 = l.pix ∧ leAt packet 2 1 / 64 = expectColour l.colour 0 ∧ pktBlocks l.pix l.lanes = pktBlocks 2 1
    ∧ unpack12 ((packet.drop 32).take 3) = [0x123, 0x456] ∧ (s.linPort 0).waits.head? = some (0, 0) ∧ l.startTb + l.seqNs + 4000 ≤ s.tb := by decide +kernel
/-- One byte of the packet's word is corrected, two are not (SensorPackets). -/
theorem test_meets_SensorLinks_upset : lineBuffer [0x23, 0x61, 0x45] [(0, [7] ++ zeros 34)] = (1, [], [0x23, 0x61, 0x45]) ∧ (lineBuffer [0x23, 0x61, 0x45] [(0, [7, 7] ++ zeros 33)]).2.1 = [0] := by decide +kernel
theorem test_meets_EncoderEdges : let s : State := { (awake.setFld (LIN_ENC_CFG 2) LIN_ENC_CFG_Z_EN 1).setNum (LIN_ENC_LIMIT 2) 100 with tim := { awake.tim with now := BitVec.ofNat 64 (20 * 65536) } }
    let z : State := { s with enc := [(2, { (default : EncSt) with zPos := some 1, zDir := some true, lastDir := some true })] }
    (tget default s.enc 2).a = false ∧ (tget default s.enc 2).b = false ∧ s.stood 0 (s.filtNs 2) = true ∧ s.stood (20 * 65536) (s.filtNs 2) = false ∧ s.on (LIN_ENC_CFG 2) LIN_ENC_CFG_Z_EN = true ∧ awake.on (LIN_ENC_CFG 2) LIN_ENC_CFG_Z_EN = false
    ∧ s.num (LIN_ENC_LIMIT 2) ≠ 0 ∧ (tget default z.enc 2).zPos = some 1 ∧ (tget default z.enc 2).zDir = some true ∧ (tget default z.enc 2).lastDir = some true ∧ (tget default z.enc 2).zTurned = false
    ∧ (sdiff 32 (z.num (LIN_ENC_POS 2)) 1).natAbs ≠ z.num (LIN_ENC_LIMIT 2) ∧ z.on (LIN_ENC_CFG 2) LIN_ENC_CFG_Z_EN = true ∧ z.num (LIN_ENC_LIMIT 2) ≠ 0 ∧ z.stood 0 (z.filtNs 2) = true
    ∧ (tget default s.enc 2).stalled = false ∧ (tget default s.enc 2).lastTb + s.fld (LIN_ENC_CFG 2) LIN_ENC_CFG_STALL_US * 1000 ≤ ({ s with tb := 1000000000 } : State).tb
    ∧ ((line.setFld (LIN_PORT_CFG 0) LIN_PORT_CFG_ENC_SEL 2).selectors 2).length = 1 ∧ s.selectors 2 = [] := by decide +kernel
theorem test_meets_LinesStart : let s : State := { line with lin := [(0, { (default : LinPort) with waiting := true })] }
    let t : State := { line.setNum (LIN_TRIG_STEP 0) 0x1000000 with lin := [(0, { (default : LinPort) with tAdv := some 0, tInt := some 65536 })] }
    s.linOn 0 = true ∧ (s.linPort 0).waiting = true ∧ (s.linPort 0).busyUntil ≤ s.tb ∧ (s.linPort 0).lastFlush + 10000000 ≤ s.tb ∧ (t.interpPhase 0).isSome = true := by decide +kernel
theorem test_meets_LampsAndBarriers : let x : Expo := { start := 0, offTb := 0, lamps := [1], lead := 0, exp := 1000, tail := 0, dead := 0 }
    let s : State := { awake.setFld (LIN_LAMP_DEAD 0) LIN_LAMP_DEAD_LOK_EN 1 with tb := 51, lin := [(0, { (default : LinPort) with expo := some x })] }
    let o : State := { s with tb := 1001, lin := [] }; let w : State := { s with tim := { s.tim with now := BitVec.ofNat 64 (10 ^ 9 * 65536) } }
    let t : State := { awake.setFld (LIN_BAR_CFG 0) LIN_BAR_CFG_JAM_MS 1 with tb := 1000001, bar := [(0, { known := true, level := !awake.blockedLevel 0 false, since := 0, jammed := false })] }
    (s.linPort 0).expo = some x ∧ s.on (LIN_LAMP_DEAD 0) LIN_LAMP_DEAD_LOK_EN = true ∧ (x.at s.tb).1 < x.lamps.length ∧ x.lead + 50 < (x.at s.tb).2 ∧ (x.at s.tb).2 ≤ x.lead + x.exp
    ∧ o.on (LIN_LAMP_DEAD 0) LIN_LAMP_DEAD_LOK_EN = true ∧ o.lampPins 0 = 0 ∧ o.lampsOff 0 + 1000 < o.tb ∧ ¬((tget default s.bar 7).known = true ∧ (tget default s.bar 7).level = true)
    ∧ w.stood 0 (w.fld (LIN_BAR_CFG 7) LIN_BAR_CFG_BAR_FILT_US * 1000) = true ∧ (w.setFld (LIN_BAR_CFG 7) LIN_BAR_CFG_BAR_FILT_US 1).stood (10 ^ 9 * 65536) ((w.setFld (LIN_BAR_CFG 7) LIN_BAR_CFG_BAR_FILT_US 1).fld (LIN_BAR_CFG 7) LIN_BAR_CFG_BAR_FILT_US * 1000) = false
    ∧ (s.blockedLevel 7 true ≠ s.blockedLevel 7 false)
    ∧ (tget default t.bar 0).known = true ∧ t.blockedLevel 0 (tget default t.bar 0).level = true ∧ t.fld (LIN_BAR_CFG 0) LIN_BAR_CFG_JAM_MS ≠ 0 ∧ (tget default t.bar 0).since + t.fld (LIN_BAR_CFG 0) LIN_BAR_CFG_JAM_MS * 1000000 < t.tb := by decide +kernel
/-- The line of SensorLinks brings the two pixels of its packet. -/
theorem test_packet : (((line.setFld (LIN_PORT_CFG 0) LIN_PORT_CFG_LANES 0).packet 0 packet (pktBlocks 2 1) []).1.linPort 0).lines.map (fun l => l.planes.map (fun p => p.2.pixels)) = [[[0x123, 0x456]]] := by decide +kernel
/-- A raw pixel at the identity entry and the default factory factors is itself (R113). -/
theorem test_cal_identity : calPixel 0 0x8000 0 0x10000000 0 = 0 ∧ calPixel (sgn 16 0) 0x8000 7 0x10000000 0 = 7 := by decide +kernel

/-! ### Items, packets and images -/

/-- Item 1 open as a SIDE of piece 2, item 2 the open PIECE. -/
def pieces : State :=
  { host with
    items := [(1, { (default : Entry) with gen := 1, parent := 2, state := .opened, typ := .side }), (2, { (default : Entry) with gen := 1, state := .opened, typ := .piece })]
    sides := [(1, { (default : Side) with piece := 2, trail := some 0 })], pieces := [(2, { (default : Piece) with emitPoint := some 0, lateEn := true, lateDue := some 0 })] }

/-- A playbook as it stands once loaded. -/
def loaded (p : Playbook) : Loaded := { pb := p, tsets := p.tsets.map TSetImage.read, bytes := 0, part := 0, corrupt := false }

theorem test_meets_LinesAndEmission : let l : LineRec := { (default : LineRec) with side := some 1, planes := [(0, default)] }
    let s : State := { pieces with lin := [(0, { (default : LinPort) with lines := [l] })], pieces := [(2, { (default : Piece) with emitPoint := some 1 })] }; let r : State := { s with items := [] }
    let o (n : Nat) : State := s.setFld (LIN_GATE_CFG 0) LIN_GATE_CFG_OPEN_SRC n
    let u (s : State) : State := (s.modLin 0 (fun p => { p with lines := [] })).capLine 0 l; let v (s : State) : State := (tfind (u s).sides 1).elim (u s) (fun d => (u s).duePoint d.piece)
    (s.linPort 0).lines = l :: [] ∧ l.full = true ∧ l.flush = false ∧ ((v s).item 1).state = .opened ∧ ((v r).item 1).state ≠ .opened
    ∧ ({ l with side := none } : LineRec).full = true ∧ (o 1).asWritten (LIN_GATE_CFG 0) LIN_GATE_CFG_OPEN_SRC = 1 ∧ (o 2).asWritten (LIN_GATE_CFG 0) LIN_GATE_CFG_OPEN_SRC = 2
    ∧ (o 0).asWritten (LIN_GATE_CFG 0) LIN_GATE_CFG_OPEN_SRC ≠ 1 ∧ (o 0).asWritten (LIN_GATE_CFG 0) LIN_GATE_CFG_OPEN_SRC ≠ 2 ∧ ({ l with planes := [] } : LineRec).full = false ∧ ({ l with flush := true } : LineRec).flush = true := by decide +kernel
theorem test_meets_LinesAndEmission_seal : let l : LineRec := { (default : LineRec) with side := some 1, planes := [(0, default)] }
    let e : State := { pieces with pieces := [(2, { (default : Piece) with emitPoint := some 1 })] }; let s : State := { e with lin := [(0, { (default : LinPort) with lines := [l] })] }
    tfind e.sides 1 = some { (default : Side) with piece := 2, trail := some 0 } ∧ ((e.duePoint 2).item 1).state = .opened ∧ ({ (default : Side) with piece := 2, trail := some 0 } : Side).trail.isSome = true
    ∧ ((e.duePoint 2).linPort 0).lines.any (fun l => l.side == some 1) = false ∧ ((s.duePoint 2).linPort 0).lines.any (fun l => l.side == some 1) = true
    ∧ ((({ e with items := [] } : State).duePoint 2).item 1).state ≠ .opened ∧ ({ (default : Side) with barrier := true } : Side).trail = none := by decide +kernel
theorem test_meets_LinesAndEmission_point : let p : Piece := { (default : Piece) with emitPoint := some 0, lateEn := true, lateDue := some 0 }
    let t : State := { pieces with items := [(2, { (default : Entry) with state := .overtime, typ := .piece })] }
    tfind pieces.pieces 2 = some p ∧ p.recorded = false ∧ (pieces.item 2).state = .opened ∧ pieces.pointReached p = true ∧ pieces.pointReached { p with emitPoint := some 1 } = false
    ∧ p.lateDue = some 0 ∧ (t.item 2).state = .overtime ∧ tfind t.pieces 2 = some p ∧ p.lateEn = true ∧ p.lateDone = false ∧ t.reached 0 = true ∧ t.reached 1 = false := by decide +kernel
theorem test_meets_PacketsAndReplies : let s := ((host.setFld (HIF_SQ_CFG 0) HIF_SQ_CFG_EN 1).setFld (HIF_SQ_CFG 0) HIF_SQ_CFG_LOG2_SIZE 4).setNum (HIF_SQ_TAIL 0) 1
    let t := s.hwrite 0 (pkt 0xC0 []); let f := fetched host (pkt 0xC0 [])
    t.on (HIF_SQ_CFG 0) HIF_SQ_CFG_EN = true ∧ (tget default t.sqs 0).stopped = false ∧ t.fld (HIF_SQ_HEAD 0) HIF_SQ_HEAD_HEAD ≠ t.fld (HIF_SQ_TAIL 0) HIF_SQ_TAIL_TAIL
    ∧ t.coachHeld (t.headPacket 0) = false ∧ t.packetRefusal 0 (t.headPacket 0) = none ∧ s.packetRefusal 0 (s.headPacket 0) = some .invalidOpcode
    ∧ f.fetched.find? (fun f => f.sq == 0 && f.pos == 0) = some { sq := 0, pos := 0, bytes := pkt 0xC0 [], running := false, openedItem := 0 }
    ∧ bit (leAt (pkt 0xC0 []) 1 1) 6 = false ∧ f.heldBack { sq := 0, pos := 0, bytes := pkt 0xC0 [], running := false, openedItem := 0 } 0 = false ∧ f.ringOk 0 0 = true ∧ f.hold.any (fun h => h.ring == 0) = false
    ∧ (f.num (HIF_RING_TAIL 0) + 2 ^ 32 - f.num (HIF_RING_HEAD 0)) % 2 ^ 32 + 1 ≤ f.ringSize 0 := by decide +kernel
/-- ECHO answers with its COMMAND_ID in both halves of RESULT, PHASE 1 in the first pass of the ring (R489, R496, R499). -/
theorem test_reply : let t := (fetched host (pkt 0xC0 [])).complete 0 0 .ok 0 (1 + 2 ^ 32)
    t.num (HIF_RING_TAIL 0) = 1 ∧ t.hread 24 8 = [1, 0, 0, 0, 1, 0, 0, 0] ∧ leAt (t.hread 4 4) 0 4 = 1 ∧ t.fetched = [] := by decide +kernel
theorem test_meets_QueriesAndSnapshots : let go (op : Byte) (b : List Byte) : Bool := (fetched host (pkt op b)).startable 0 0 op.toNat == some (pkt op b)
    go 0xC0 [] = true ∧ go 0xA2 [] = true ∧ go 0x04 [] = true ∧ go 0xC3 [] = true ∧ go 0xE0 (zeros 8 ++ [1, 0, 0, 0]) = true ∧ go 0xE1 (zeros 8 ++ [1, 0, 1, 0]) = true ∧ go 0xE2 [] = true
    ∧ go 0xC1 [] = true ∧ go 0xC2 [] = true ∧ pieces.liveItem (2 ^ 20 + 1) = some 1 ∧ pieces.liveItem 1 = none
    ∧ (host.setFld SNP_STAT SNP_STAT_ARMED 1).on SNP_STAT SNP_STAT_ARMED = true ∧ host.on SNP_STAT SNP_STAT_ARMED = false ∧ host.snp.lastTrig = none
    ∧ (host.setFld SNP_STAT SNP_STAT_VALID 1).on SNP_STAT SNP_STAT_VALID = true ∧ host.on SNP_STAT SNP_STAT_VALID = false := by decide +kernel
theorem test_meets_QueriesAndSnapshots_met : let s : State := { host with met := { (met .sealed).met with records := [(1, [1, 0, 0, 0] ++ zeros 60)] } }
    s.met.on = true ∧ leAt (pkt 0xE0 []) 16 4 = 0 ∧ leAt (s.metBytes (0x10000 + 2 % 4096 * 64) 64) 0 4 ≠ 2 ∧ leAt (pkt 0xE0 (zeros 8 ++ [1, 0, 0, 0])) 16 4 ≠ 0 ∧ leAt (s.metBytes (0x10000 + 1 % 4096 * 64) 64) 0 4 = 1 := by decide +kernel
theorem test_meets_ItemsAndImages : let go (op : Byte) (b : List Byte) : Bool := (fetched pieces (pkt op b)).startable 0 0 op.toNat == some (pkt op b)
    let m : ModelRes := { (default : ModelRes) with playbook := 1 }; let p : Playbook := { (default : Playbook) with tsets := [default], models := [default] }
    let s : State := { pieces with playbooks := [(1, loaded p)], models := [m] }
    go 0x01 [] = true ∧ go 0x02 [] = true ∧ go 0x03 (leBytes 4 (2 ^ 20 + 1)) = true ∧ go 0x20 [] = true ∧ go 0x05 [] = true ∧ pieces.isSlave 0 = false
    ∧ (pieces.setFld (LIN_GATE_CFG 0) LIN_GATE_CFG_OPEN_SRC 3).asWritten (LIN_GATE_CFG 0) LIN_GATE_CFG_OPEN_SRC = 3 ∧ (pieces.setFld (LIN_GATE_CFG 0) LIN_GATE_CFG_SLAVE 1).isSlave 0 = true
    ∧ pieces.asWritten (LIN_GATE_CFG 0) LIN_GATE_CFG_OPEN_SRC ≠ 3 ∧ s.imageOf 0 0 = none
    ∧ (tfind s.playbooks 1).isSome = true ∧ tfind s.playbooks 2 = none ∧ s.canOpen .lc = true ∧ s.canOpen .be = true ∧ pieces.liveItem (2 ^ 20 + 1) = some 1 ∧ pieces.liveItem 1 = none
    ∧ (tfind pieces.sides 1).isSome = true ∧ pieces.liveItem (2 ^ 20 + 2) = some 2 ∧ tfind pieces.sides 2 = none ∧ (s.tsetAt 0).isSome = true ∧ s.tsetAt 1 = none := by decide +kernel
/-- With a reserve of the whole table a BE opening finds no entry; LC finds none once every entry is taken. -/
theorem test_meets_ItemsAndImages_full : let s := host.setNum PGM_ITEM_LC_RESERVE 0xFFFFF
    s.canOpen .be = false ∧ bit (leAt (pkt 2 (zeros 9 ++ [1])) 17 1) 0 = true ∧ bit (leAt (pkt 2 []) 17 1) 0 = false := by decide +kernel
theorem full_table (l : Tbl Entry) (h : 0xFFFFF - (l.filter (fun e => e.2.state != .free)).length = 0) :
    ({ host with items := l } : State).canOpen .lc = false := by
  have e : ({ host with items := l } : State).freeItems = 0xFFFFF - (l.filter (fun e => e.2.state != .free)).length := rfl
  simp [State.canOpen, e, h]
theorem all_taken (n : Nat) : (((List.range n).map (fun i => (i + 1, { (default : Entry) with state := ItemState.opened }))).filter (fun e => e.2.state != .free)).length = n := by
  rw [List.filter_eq_self.mpr, List.length_map, List.length_range]
  intro a ha
  obtain ⟨i, _, rfl⟩ := List.mem_map.mp ha
  rfl
theorem test_meets_ItemsAndImages_lc : ∃ l : Tbl Entry, ({ host with items := l } : State).canOpen .lc = false :=
  ⟨_, full_table _ (by rw [all_taken 0xFFFFF])⟩
theorem test_meets_PlaybookCommands : let p : Playbook := { (default : Playbook) with fns := [default], models := [default] }
    let s : State := { host with playbooks := [(1, loaded p)] }; let u : State := { s with lin := [(0, { (default : LinPort) with bound := true, bindPb := 1 })] }
    let go (op : Byte) (b : List Byte) : Bool := (fetched s (pkt op b)).startable 0 0 op.toNat == some (pkt op b)
    go 0x40 [] = true ∧ go 0x41 (zeros 8 ++ leBytes 4 1) = true ∧ go 0x42 (zeros 8 ++ leBytes 4 1) = true ∧ go 0x43 (zeros 12 ++ leBytes 4 1) = true
    ∧ (tfind s.playbooks 1).isSome = true ∧ s.playbookUsed 1 = false ∧ (tfind u.playbooks 1).isSome = true ∧ u.playbookUsed 1 = true ∧ tfind s.playbooks 2 = none
    ∧ (tfind s.playbooks 1).bind (fun l => l.pb.models[0]?) = some default ∧ s.hasFn 1 0 = true ∧ s.hasFn 1 1 = false := by decide +kernel
theorem test_meets_SchedulingCommands : let d := [0, 0, 1, 1] ++ leBytes 4 1000 ++ leBytes 4 4096 ++ leBytes 4 0 ++ leBytes 4 4096 ++ leBytes 4 0 ++ leBytes 4 4096 ++ zeros 36
    let p : Playbook := { (default : Playbook) with fns := [default], tables := [default] }
    let s : State := { host with playbooks := [(1, loaded p)], ctxs := [(5, { (default : Ctx) with state := .faulted }), (6, { (default : Ctx) with state := .idle })] }
    let go (op : Byte) (b : List Byte) : Bool := (fetched s (pkt op b)).startable 0 0 op.toNat == some (pkt op b)
    let r : State := { s with ctxs := [(0, { (default : Ctx) with state := .resident })], parts := [(1, { (default : PartSt) with valid := true, groups := 1 })] }
    go 0x60 [] = true ∧ descriptorOk d = true ∧ s.residents (leAt d 0 1) = 0 ∧ (partOf64 d).valid = true ∧ s.conflict [partOf64 d] = false ∧ 0 < r.residents (leAt d 0 1) ∧ r.conflict [partOf64 d, r.partSt 1] = true ∧ ({ r with ctxs := [] } : State).residents 0 = 0
    ∧ (r.ctxSt 0).state ≠ .undefined ∧ (r.ctxSt 0).state = .resident ∧ (r.ctxSt 1).state = .undefined ∧ (r.ctxSt 0).state ≠ .faulted ∧ s.tableNamed 0 1 7 = none
    ∧ go 0x61 [] = true ∧ (s.ctxSt 0).state = .undefined ∧ s.hasFn 1 0 = true ∧ go 0x64 (zeros 8 ++ [5]) = true ∧ go 0x62 (zeros 8 ++ [5]) = true ∧ s.ready.any (fun r => r.ctx == 5) = false ∧ s.jobs.any (fun j => j.2.ctx == 5) = false ∧ (s.ctxSt 5).state = .faulted
    ∧ go 0x62 (zeros 8 ++ [6]) = true ∧ (s.ctxSt 6).state = .idle ∧ s.ready.any (fun r => r.ctx == 6) = false ∧ s.jobs.any (fun j => j.2.ctx == 6) = false
    ∧ go 0x63 [] = true ∧ (s.tableNamed 0 1 0).isSome = true ∧ (s.activeTable 0).isNone = true
    ∧ (({ s with parts := [(0, { (default : PartSt) with table := some (1, 0) })] } : State).activeTable 0).isNone = false := by decide +kernel
theorem test_meets_FabricAndTimeCommands : let s : State := { host with parts := [(0, { (default : PartSt) with fab := { level := 1, rate := 0, burst := 0 } })] }
    let go (op : Byte) (b : List Byte) : Bool := (fetched s (pkt op b)).startable 0 0 op.toNat == some (pkt op b)
    let c := s.setFld KOL_CATCH_CFG KOL_CATCH_CFG_PARTNER_VALID 1; let r (x : State) := ((fetched x (pkt 0x83 [])).setRunning 0 0).regulate (x.sqPart 0) .fab .lc 0 (whoOf 7 0)
    let w := (fetched s (pkt 0x83 [])).setRunning 0 0; let sent : State := { w with kol := { w.kol with txns := [(1, { (default : Txn) with cmd := some (0, 0) })] } }
    go 0x80 [] = true ∧ go 0x81 [] = true ∧ bit (leAt (pkt 0x81 []) 19 1) 0 = false ∧ bit (leAt (pkt 0x81 (zeros 11 ++ [1])) 19 1) 0 = true ∧ s.partner? = none ∧ c.partner? = some 0 ∧ leAt (pkt 0x81 []) 16 1 = 0
    ∧ leAt (pkt 0x81 (zeros 8 ++ [5])) 16 1 ≠ 0 ∧ go 0x82 [] = true ∧ leAt (pkt 0x82 (zeros 8 ++ [5])) 16 1 < 6 ∧ go 0x83 [] = true ∧ (fetched s (pkt 0x83 [])).waitingOn 0 0 0x83 = none
    ∧ (r s).2 = true ∧ (r host).2 = false ∧ w.sys.released = true ∧ w.waitingOn 0 0 0x83 = some (0, pkt 0x83 []) ∧ w.kol.txns.any (fun t => t.2.cmd == some (0, 0)) = false
    ∧ sent.waitingOn 0 0 0x83 = some (0, pkt 0x83 []) ∧ sent.kol.txns.any (fun t => t.2.cmd == some (0, 0)) = true := by decide +kernel
theorem test_meets_FabricAndTimeCommands_time : let s := host; let go (op : Byte) (b : List Byte) : Bool := (fetched s (pkt op b)).startable 0 0 op.toNat == some (pkt op b)
    let back (n : Nat) : State := (s.setNum TIM_PENDING_LO (2 ^ 32 - n)).setNum TIM_PENDING_HI (2 ^ 32 - 1); let at_ (n : Nat) : List Byte := pkt 0xA0 (zeros 8 ++ leBytes 8 (2 ^ 64 - n))
    go 0xA0 [] = true ∧ leAt (pkt 0xA0 []) 16 8 = s.pair TIM_PENDING_LO ∧ 0 ≤ sgn 64 (leAt (pkt 0xA0 []) 16 8) ∧ leAt (pkt 0xA0 (zeros 8 ++ [1])) 16 8 ≠ s.pair TIM_PENDING_LO
    ∧ leAt (at_ 1000000000) 16 8 = (back 1000000000).pair TIM_PENDING_LO ∧ (sgn 64 (leAt (at_ 1000000000) 16 8)).natAbs = 1000000000 ∧ leAt (at_ 1000000001) 16 8 = (back 1000000001).pair TIM_PENDING_LO ∧ 1000000000 < (sgn 64 (leAt (at_ 1000000001) 16 8)).natAbs ∧ sgn 64 (leAt (at_ 1000000001) 16 8) < 0
    ∧ leAt (pkt 0xA0 (zeros 8 ++ leBytes 4 1000000001)) 16 8 = (s.setNum TIM_PENDING_LO 1000000001).pair TIM_PENDING_LO ∧ 1000000000 < (sgn 64 (leAt (pkt 0xA0 (zeros 8 ++ leBytes 4 1000000001)) 16 8)).natAbs
    ∧ go 0xA1 [] = true ∧ s.items.any (fun e => e.2.state != .free) = false ∧ pieces.items.any (fun e => e.2.state != .free) = true
    ∧ (List.range 4).any (fun n => s.on (LIN_PORT_CTL n) LIN_PORT_CTL_EN) = false ∧ (List.range 4).any (fun n => (s.setFld (LIN_PORT_CTL 3) LIN_PORT_CTL_EN 1).on (LIN_PORT_CTL n) LIN_PORT_CTL_EN) = true := by decide +kernel
theorem test_meets_ImagesAndCrops : let m : Image := { (default : Image) with format := 3, width := 1, height := 1, pitch := 1, fetched := true, started := true, data := [7] }
    let s : State := { pieces with images := [(2, m)] }
    s.currentImage = some (2, m) ∧ m.format = 3 ∧ m.rawBytes ≤ m.data.length ∧ ({ m with data := [] } : Image).data.length < m.rawBytes
    ∧ ((s.setFld DEC_CROP_SIZE DEC_CROP_SIZE_SIZE_MIB 16).cropRoom (cropBytes 1 1 1)).2 = some 0 ∧ ((s.setFld DEC_CROP_SIZE DEC_CROP_SIZE_SIZE_MIB 0).cropRoom (cropBytes 1 1 1)).2 = none
    ∧ (let u := ((({ s with parts := [(0, { (default : PartSt) with dram := { level := 1, rate := 0, burst := 0 } })] } : State).setFld DEC_CROP_SIZE DEC_CROP_SIZE_SIZE_MIB 16).cropRoom (cropBytes 1 1 1)).1; (u.regulate (u.item 2).part .dram (u.item 2).cls (cropBytes 1 1 1) (whoOf 12 2)).2 = true)
    ∧ (let u := ((s.setFld DEC_CROP_SIZE DEC_CROP_SIZE_SIZE_MIB 16).cropRoom (cropBytes 1 1 1)).1; (u.regulate (u.item 2).part .dram (u.item 2).cls (cropBytes 1 1 1) (whoOf 12 2)).2 = false) := by decide +kernel
theorem test_meets_ImagesAndCrops_crop : let r : Region := { (default : Region) with top := 2, needCrop := true }
    let c : Crop := { (default : Crop) with item := pieces.itemId 2 }
    let s : State := { pieces with images := [(2, default)], crops := [c], regions := [(3, r)], parts := [(0, { (default : PartSt) with dram := { level := 1, rate := 0, burst := 0 } })] }
    tfind s.regions 3 = some r ∧ r.needCrop = true ∧ r.crop = false ∧ (s.cropReady r).isSome = true ∧ (s.cropPixels r).2.isSome = true ∧ (s.regulate (s.item 3).part .dram (s.item 3).cls (cropBytes (s.cropBox r).2.2.1 (s.cropBox r).2.2.2 0) (whoOf 5 3)).2 = true
    ∧ (({ s with parts := [] } : State).regulate 0 .dram (s.item 3).cls (cropBytes (s.cropBox r).2.2.1 (s.cropBox r).2.2.2 0) (whoOf 5 3)).2 = false
    ∧ (let c : Crop := { (default : Crop) with item := pieces.itemId 2, width := 1, height := 1, planes := [[0]] }; let r : Region := { (default : Region) with top := 2, needCrop := true, found := { (default : Found) with cols := 1 } }
       let w : State := { s with images := [(2, { (default : Image) with width := 1, height := 1 })], crops := [c], ras := { s.ras with chk := [((s.cropAddr c + 64) / 32, [1, 1, 0])] } }; (w.cropReady r).isSome = true ∧ (w.cropPixels r).2 = none) := by decide +kernel
theorem test_meets_ImagesAndCrops_pass : let q : Seq := { (default : Seq) with region := 3, pass := 1, playbook := 1 }; let p : Playbook := { (default : Playbook) with models := [default] }
    let s : State := { pieces with seqs := [(4, q)], crops := [{ (default : Crop) with item := 3 }], playbooks := [(1, loaded p)] }
    let t : State := { pieces with beWait := [{ (default : BeWait) with typ := .region }] }
    tfind s.seqs 4 = some q ∧ q.inputReady = false ∧ q.ending = .running ∧ 1 ≤ q.pass ∧ q.pass ≤ 8 ∧ (s.cropOf 3).isSome = true ∧ s.model 1 0 = some default ∧ s.playbook 1 = some p
    ∧ (({ s with parts := [(0, { (default : PartSt) with dram := { level := 1, rate := 0, burst := 0 } })] } : State).regulate 0 .dram (s.item 4).cls (cropBytes 0 0 0) (whoOf 9 4)).2 = true
    ∧ (let c : Crop := { (default : Crop) with item := 3, width := 1, height := 1, planes := [[0]] }; let w : State := { s with crops := [c], ras := { s.ras with chk := [((s.cropAddr c + 64) / 32, [1, 1, 0])] } }
       ((s.useCrops (s.cropAddr c) c.size).didRead (s.cropAddr c) c.size).2 = true ∧ ((w.useCrops (w.cropAddr c) c.size).didRead (w.cropAddr c) c.size).2 = false)
    ∧ (host.setNum PGM_ITEM_LC_RESERVE 0xFFFFF).canOpen .be = false ∧ t.canOpen .be = true ∧ t.beWait = { (default : BeWait) with typ := .region } :: [] := by decide +kernel

/-! ### The token unit -/

theorem test_meets_TokenTimersAndRows : let q : Seq := { (default : Seq) with liveSince := some 1, openTb := 1, playbook := 1 }; let m : Model := { (default : Model) with budgetUs := 0 }
    let p : Playbook := { (default : Playbook) with models := [m] }
    let z : State := { host.setFld TOK_LIVE_CFG TOK_LIVE_CFG_MAX_US 0 with seqs := [(1, q)], playbooks := [(1, loaded p)] }; let s : State := { z with tb := 1 }
    tfind s.seqs 1 = some q ∧ q.liveSince = some 1 ∧ q.ending = .running ∧ 1 + s.fld TOK_LIVE_CFG TOK_LIVE_CFG_MAX_US * 1000 ≤ s.tb ∧ z.tb < 1 + z.fld TOK_LIVE_CFG TOK_LIVE_CFG_MAX_US * 1000
    ∧ s.model q.playbook q.model = some m ∧ q.openTb + m.budgetUs * 1000 ≤ s.tb ∧ z.tb < q.openTb + m.budgetUs * 1000
    ∧ ({ s with maskAsks := [(0, 1)] } : State).maskAsks.contains (0, 1) = true ∧ s.maskAsks.contains (0, 1) = false ∧ s.masks.length ≤ 128 ∧ s.masksInUse.contains (0, 1) = false := by decide +kernel
/-- A mask that a row waiting for its decision uses, beside one that nothing uses. -/
theorem test_meets_TokenTimersAndRows_mask : let p : Playbook := { (default : Playbook) with models := [default], tsets := [{ (default : TSetImage) with states := zeros 16 }] }
    let s : State := { pieces with seqs := [(1, { (default : Seq) with playbook := 1 })], playbooks := [(1, loaded p)], models := [{ (default : ModelRes) with playbook := 1 }]
                                   masks := [(0, 0)], slices := [{ (default : EmitSlice) with rows := [(2 ^ 20 + 1, [])] }] }
    s.masksInUse.contains (0, 1) = false ∧ (0, 0) ∈ s.masks ∧ s.masksInUse.contains (0, 0) = true := by decide +kernel
theorem test_meets_TokenTimersAndRows_emit : let e : EmitSlice := { (default : EmitSlice) with npart := 1, vtotal := 1, vn := 1, fmt := 10, rows := [(0, [0]), (0, [0])] }
    let g : EmitGroup := { slices := [e], next := 0, results := [] }
    let s : State := { host with groups := [(0, g)] }
    tfind s.groups 0 = some g ∧ g.slices = e :: [] ∧ groupOk g.slices = true ∧ g.next < e.rows.length ∧ (e.rows.getD g.next (0, [])).1 = 0 ∧ g.next + 1 < e.rows.length
    ∧ groupOk [{ e with rows := [(0, [0])] }] = true ∧ ({ e with rows := [(0, [0])] } : EmitSlice).rows.length ≤ g.next + 1
    ∧ groupOk [{ e with vtotal := 2 }] = false ∧ g.slices.any s.emitAgain = false := by decide +kernel
/-- Of equal logits the lowest index is chosen, and a NaN is left out (R341). -/
theorem test_meets_TokenChoice : let ls : List (Nat × FVal) := [(2, .nan), (3, .fin 1), (7, .fin 5), (9, .fin 5)]
    ls.Pairwise (fun x y => x.1 < y.1) ∧ chooseToken ls = some (7, .fin 5) := by decide +kernel

/-! ### The Pitch -/

/-- A command of 64 bytes with some bytes from given places on. -/
def cmdOf (op : Byte) (fs : List (Nat × List Byte)) : List Byte := fs.foldl (fun l f => l.take f.1 ++ f.2 ++ l.drop (f.1 + f.2.length)) (fitTo 64 [op])

/-- Logical tile 0 mapped, its partition with room on every bus. -/
def pitch : State :=
  { host.setFld (PIT_MAP 0) PIT_MAP_VALID 1 with
    parts := [(0, { (default : PartSt) with valid := true, groups := 16, dram := { level := 1, rate := 0, burst := 0 }, fab := { level := 1, rate := 0, burst := 0 } })] }

/-- A command of an opcode at the head of an engine of tile 0, started. -/
def at0 (e : Engine) (op : Byte) (fs : List (Nat × List Byte)) (done : Nat) : State := run pitch e (cmdOf op fs) done

/-- Tile 0 with other contents. -/
def tile0 (s : State) (f : Tile → Tile) : State := { s with tiles := tput s.tiles 0 (f (s.tileSt 0)) }

theorem test_meets_CommandsOnTiles : let c (op : Byte) (fs : List (Nat × List Byte)) (on : Bool) : QCmd := { index := 0, bytes := cmdOf op fs, started := on, startTb := 0, done := 0, before := [], released := [], sent := 0 }
    let s (c : QCmd) : State := tile0 (at0 .mac 0 [] 0) (fun t => { t with mac := [], msg := [c], vec := [] })
    let go (c : QCmd) : Bool := ((s c).tileSt 0).queue .msg == [c] && (s c).tileRuns 0
    let free (c : QCmd) : Bool := go c && !c.started && !((s c).tileSt 0).stopped && ((s c).tileSt 0).waitMet c && !(s c).interlocked 0 .msg c
    let send := c 0x30 [(40, [32])] false
    free (c 0x30 [] false) = true ∧ (s (c 0x30 [] false)).refusal 0 (c 0x30 [] false) = some 12
    ∧ free (c 0x35 [(40, [32])] false) = true ∧ (s (c 0x35 [(40, [32])] false)).refusal 0 (c 0x35 [(40, [32])] false) = none ∧ (s (c 0x35 [(40, [32])] false)).ras.tchk = []
    ∧ free send = true ∧ (s send).refusal 0 send = none ∧ ((s send).tileSt 0).accepted < ((s send).tileSt 0).outSeq + 1
    ∧ go (c 0 [(2, [0x80]), (4, [1])] false) = true ∧ ((s (c 0 [(2, [0x80]), (4, [1])] false)).tileSt 0).waitMet (c 0 [(2, [0x80]), (4, [1])] false) = false
    ∧ (let x := c 0x37 [(32, [0x20, 2, 0, 0, 1, 0, 1])] false; let y := (s x).setFld (LIN_PORT_CFG 0) LIN_PORT_CFG_PIX 2; (y.tileSt 0).queue .msg = [x] ∧ y.tileRuns 0 = true ∧ (y.tileSt 0).stopped = false ∧ (y.tileSt 0).waitMet x = true
        ∧ y.interlocked 0 .msg x = false ∧ y.refusal 0 x = none ∧ x.op = 0x37 ∧ x.first = true)
    ∧ ((tile0 (s send) (fun t => { t with accepted := 1 })).tileSt 0).outSeq + 1 ≤ ((tile0 (s send) (fun t => { t with accepted := 1 })).tileSt 0).accepted
    ∧ ((tile0 (s send) (fun t => { t with stopped := true })).tileSt 0).stopped = true ∧ go (c 0 [(8, [1])] true) = true ∧ 2 * ((s (c 0 [(8, [1])] true)).tb - 0) < 5 * (c 0 [(8, [1])] true).wcet
    ∧ (let x : QCmd := { c 0x35 [(40, [32])] false with index := 1 }; let o := c 0x10 [(32, [1, 0, 1, 0, 1])] true; (tile0 (s x) (fun t => { t with mac := [o] })).interlocked 0 .msg x = true)
    ∧ go (c 0 [] true) = true ∧ 5 * (c 0 [] true).wcet ≤ 2 * ((s (c 0 [] true)).tb - (c 0 [] true).startTb) ∧ (c 0 [] true).op = 0
    ∧ (let x := c 0x36 [(40, [32])] false; let y := { s x with ras := { (s x).ras with tchk := [(0, [1, 1, 0])] } }; y.refusal 0 x = none ∧ ((y.readsOf 0 x).foldl (fun (z : State × Bool) r => if z.2 then z.1.didTread 0 r.addr r.len else z) (y, true)).2 = false
        ∧ y.interlocked 0 .msg x = false ∧ (y.tileSt 0).waitMet x = true ∧ y.tileRuns 0 = true)
    ∧ bit ((c 0 [(3, [0x80])] true).u 3 1) 7 = true ∧ bit ((c 0 [] true).u 3 1) 7 = false := by decide +kernel
theorem test_meets_CommandsOnTiles_barrier : let c (op : Byte) (fs : List (Nat × List Byte)) : QCmd := { index := 0, bytes := cmdOf op fs, started := true, startTb := 0, done := 0, before := [], released := [], sent := 0 }
    let s (c : QCmd) : State := tile0 (at0 .mac 0 [] 0) (fun t => { t with mac := [], barrier := some c })
    let go (op : Byte) (fs : List (Nat × List Byte)) : Bool := (s (c op fs)).barrierAt 0 op.toNat == some (c op fs) && ((s (c op fs)).jobOf 0) == some default
    let two : List (Nat × List Byte) := [(34, [1]), (36, [1, 2])]; let far : List (Nat × List Byte) := [(34, [1]), (36, [1, 0xFF])]; let k := c 1 two; let u := s k
    let need := ((ckptPages k).eraseDups ++ u.poolPages 0).eraseDups.filter (fun p => u.dirty.contains p)
    go 1 [(34, [9])] = true ∧ 8 < (c 1 [(34, [9])]).u 34 1 ∧ go 2 [(35, [1])] = true ∧ (c 2 [(35, [1])]).u 35 1 ≠ 0 ∧ (c 2 [(63, [1])]).u 52 12 ≠ 0
    ∧ go 1 far = true ∧ ¬(8 < (c 1 far).u 34 1 ∨ (c 1 far).u 35 1 ≠ 0 ∨ (c 1 far).u 52 12 ≠ 0) ∧ (∃ p ∈ (ckptPages (c 1 far)).eraseDups, 256 ≤ p)
    ∧ go 1 two = true ∧ ¬(8 < k.u 34 1 ∨ k.u 35 1 ≠ 0 ∨ k.u 52 12 ≠ 0) ∧ (∀ p ∈ (ckptPages k).eraseDups, p < 256)
    ∧ (u.regulate 0 .dram (u.ctxSt 0).cls (need.length * 4096 + 4096) (whoOf 1 0)).2 = true ∧ (({ u with parts := [] } : State).regulate 0 .dram (u.ctxSt 0).cls (need.length * 4096 + 4096) (whoOf 1 0)).2 = false
    ∧ need.foldl (fun (y : State × Bool) p => if y.2 then y.1.didTread 0 (4096 * p) 4096 else y) (u, true) = (u, true)
    ∧ (let v : State := { u with dirty := [2], ras := { u.ras with tchk := [(256, [1, 1, 0])] } }; (ckptPages k).eraseDups.filter (fun p => v.dirty.contains p) = [2] ∧ (v.didTread 0 (4096 * 2) 4096).2 = false) ∧ u.timedOut 0 k = true := by decide +kernel
theorem test_meets_ArithmeticCommands : let go (e : Engine) (op : Byte) (fs : List (Nat × List Byte)) : Option QCmd := (at0 e op fs 0).running 0 e op.toNat
    let one : List (Nat × List Byte) := [(32, [1, 0, 1])]
    (go .mac 0x10 []).isSome = true ∧ (go .mac 0x12 []).isSome = true ∧ (go .mac 0x13 []).isSome = true ∧ (go .vec 0x20 []).isSome = true ∧ (go .vec 0x24 []).isSome = true ∧ (go .vec 0x26 []).isSome = true
    ∧ (go .vec 0x23 one).any (fun c => (List.range ((attF c).rows * (attF c).qpg)).all (fun k => decide (-48 ≤ ((at0 .vec 0x23 one 0).oldState 0 c k).1.m) && decide (((at0 .vec 0x23 one 0).oldState 0 c k).1.m ≤ 47))) = true
    ∧ (go .vec 0x23 ((1, [0x20]) :: one)).any (fun c => !(List.range ((attF c).rows * (attF c).qpg)).all (fun k => decide (-48 ≤ (((at0 .vec 0x23 ((1, [0x20]) :: one) 0).twrite 0 32 [100]).oldState 0 c k).1.m)
        && decide ((((at0 .vec 0x23 ((1, [0x20]) :: one) 0).twrite 0 32 [100]).oldState 0 c k).1.m ≤ 47))) = true
    ∧ (go .vec 0x25 one).any (fun c => (at0 .vec 0x25 one 0).rotPosOk 0 c) = true ∧ (go .vec 0x25 one).any (fun c => !((at0 .vec 0x25 one 0).twrite 0 0 [0, 0x80]).rotPosOk 0 c) = true
    ∧ (go .vec 0x27 []).any (fun c => (at0 .vec 0x27 [] 0).kvqDestOk 0 c) = true ∧ (go .vec 0x27 one).any (fun c => !(at0 .vec 0x27 one 0).kvqDestOk 0 c) = true := by decide +kernel
/-- Two rows of one INT16 element. -/
theorem test_meets_ElementsWritten : let a : Arr := ⟨4, 0, 32, 2, 1⟩; let rows : List (List Lane) := [[(FVal.fin 3).lane], [(FVal.fin (-1)).lane]]
    host.ras.tchk = [] ∧ fmtMx a.fmt = false ∧ a.fmt ≠ 0xE ∧ fmtBits a.fmt ∈ [8, 16, 32] ∧ (∀ l ∈ rows, l.length = a.cols) ∧ a.cols * (fmtBits a.fmt / 8) ≤ a.pitch := by decide +kernel
/-- INT8 holds 127 for a lane of 200 that saturates (R186). -/
theorem test_saturates : (encElem 2 true (.fin 200)).bits = 127 ∧ (encElem 2 true (.fin (-200))).bits % 256 = 0x80 := by decide +kernel
theorem test_meets_ExactNumbers : let a : Lane := { (default : Lane) with q := 3, nan := false, pinf := false, ninf := false, rnd := true, miss := false }
    [FVal.fin 1, .nan].Perm [.nan, .fin 1] ∧ (-320 : Int) ≤ 0 ∧ (0 : Int) ≤ 192 ∧ (3 : Int).natAbs < 2 ^ 127 ∧ a.q = ((3 : Int) : Rat) * pow2 0 :=
  ⟨List.Perm.swap _ _ _, by decide, by decide, by decide, by decide +kernel⟩

/-- Fields of a map command of one pixel. -/
def onePix (b37 orn imgH : Byte) : List (Nat × List Byte) :=
  [(32, [0x11, 0x11, 0x11, 0, 0, b37, 0, 4]), (40, [1, 0, 1, 0, 1, 0, 0, 0, 1, 0, 0, 0, 1]), (57, [orn, imgH])]

theorem test_meets_MapsAndArgmax : let fs (b37 orn imgH imgW : Byte) : List (Nat × List Byte) := onePix b37 orn imgH ++ [(44, [imgW])]
    let c (op b37 orn imgH imgW : Byte) (done : Nat) : QCmd := { index := 0, bytes := cmdOf op (fs b37 orn imgH imgW), started := true, startTb := 0, done := done, before := [], released := [], sent := 0 }
    let s (e : Engine) (op b37 orn imgH imgW : Byte) (done : Nat) : State := at0 e op (fs b37 orn imgH imgW) done
    let go (e : Engine) (op b37 orn imgH imgW : Byte) (done : Nat) : Bool := (s e op b37 orn imgH imgW done).running 0 e op.toNat == some (c op b37 orn imgH imgW done)
    let x := c 0x11 0 1 1 1 0; let o := s .mac 0x11 0 1 1 1 0; let n := s .vec 0x21 0 1 1 0 0; let z := c 0x21 0 1 1 0 0
    let y := c 0x11 8 2 5 1 1; let gone := (s .mac 0x11 8 2 5 1 1).twrite 0 0 [0, 0, 0, 4, 5, 0, 0, 0, 2]; let early := (s .mac 0x11 8 2 5 1 1).twrite 0 0 [0, 0, 0, 4, 255, 255, 255]
    go .mac 0x11 0 1 1 1 0 = true ∧ ¬(o.outCols 0 x (geo x) ≤ 0 ∨ o.outCols 0 x (geo x) ≤ ((geo x).oc0 : Int)) ∧ o.outRows 0 x (geo x) = some 1 ∧ ¬((1 : Int) ≤ 0 ∨ (1 : Int) ≤ ((geo x).or0 : Int)) ∧ x.done % 1024 < o.rowLimit 0 x (geo x)
    ∧ o.rowsGone 0 x (geo x) 0 = false ∧ o.rowReady 0 x (geo x) 0 = true ∧ (geo x).orn = 1 ∧ (geo x).rollIn = false ∧ (geo x).or0 + x.done % 1024 = 0
    ∧ go .vec 0x21 0 1 1 0 0 = true ∧ n.outCols 0 z (geo z) ≤ 0 ∧ go .mac 0x11 0 1 1 1 1 = true ∧ (s .mac 0x11 0 1 1 1 1).rowLimit 0 x (geo x) ≤ 1 % 1024
    ∧ go .mac 0x11 8 2 5 1 1 = true ∧ 1 % 1024 < gone.rowLimit 0 y (geo y) ∧ gone.rowsGone 0 y (geo y) ((geo y).or0 + 1 % 1024) = true
    ∧ 1 % 1024 < early.rowLimit 0 y (geo y) ∧ early.rowsGone 0 y (geo y) ((geo y).or0 + 1 % 1024) = false ∧ early.rowReady 0 y (geo y) ((geo y).or0 + 1 % 1024) = false := by decide +kernel
theorem test_meets_MapsAndArgmax_argmax : let c (b37 orn : Byte) (done : Nat) : QCmd := { index := 0, bytes := cmdOf 0x22 (onePix b37 orn 1), started := true, startTb := 0, done := done, before := [], released := [], sent := 0 }
    let go (b37 orn : Byte) (done : Nat) : Bool := (at0 .vec 0x22 (onePix b37 orn 1) done).running 0 .vec 0x22 == some (c b37 orn done)
    let r (head last rel : Byte) : Ring := ((at0 .vec 0x22 (onePix 8 1 1) 0).twrite 0 0 [head, 0, 0, 4, last, 0, 0, 0, rel]).ringAt 0 (c 8 1 0).aAddr
    go 0 1 1 = true ∧ (geo (c 0 1 1)).orn ≤ 1 ∧ go 8 1 0 = true ∧ (geo (c 8 1 0)).rollIn = true ∧ (geo (c 8 1 0)).or0 + 0 = 0 ∧ (r 0 0 0).endRow ≤ 0 ∧ (geo (c 8 1 0)).orn = 0 + 1 ∧ 0 < (geo (c 8 1 0)).orn
    ∧ 0 < (r 2 9 1).endRow ∧ 0 < (r 2 9 1).rel ∧ 0 < (r 0 9 0).endRow ∧ (r 0 9 0).rel ≤ 0 ∧ (r 0 9 0).head ≤ 0 ∧ (geo (c 8 1 0)).orn = 0 + 1 ∧ (r 1 9 0).rel ≤ 0 ∧ 0 < (r 1 9 0).head ∧ 0 < (r 1 9 0).endRow
    ∧ (geo (c 0 1 0)).rollIn = false := by decide +kernel
/-- A FP32 pixel whose one channel is NaN (R258). -/
theorem test_meets_MapsAndArgmax_nan : let c : QCmd := { index := 0, bytes := cmdOf 0x22 ((15, [0xA0]) :: onePix 0 1 1), started := true, startTb := 0, done := 0, before := [], released := [], sent := 0 }
    let s := (at0 .vec 0x22 ((15, [0xA0]) :: onePix 0 1 1) 0).twrite 0 0 [0, 0, 0xC0, 0x7F]
    let g : Geo := { geo c with c0 := 0, kh := 1, sh := 1, dh := 1, pt := 0, imgW := (geo c).bw, mode := 0 }
    s.running 0 .vec 0x22 = some c ∧ ∀ k, k < g.cin → s.inAt 0 c g 1 0 0 k = some .nan := by decide +kernel

/-- Tile 0 as the one tile of job 1. -/
def alone (s : State) : State := { s with jobs := tput s.jobs 1 { (default : Job) with count := 1 } }

theorem test_meets_MessagesAndTransfers : let go (op : Byte) (fs : List (Nat × List Byte)) (done : Nat) : Option QCmd := (at0 .msg op fs done).running 0 .msg op.toNat
    let m (k n no : Nat) : Msg := { src := 0, dst := 0, tag := 0, ckptNo := no, seq := k, data := zeros n }
    let w (s : State) (l : List Msg) : State := { s with msgs := l }
    let s := w (at0 .msg 0x31 [(40, [32])] 0) [m 1 32 0]
    let first (l : List Msg) : Option Msg := (w s l).msgs.find? (fun m => m.src == 0 && m.dst == 0 && m.tag == 0)
    (go 0x30 [] 1).isSome = true ∧ (w (at0 .msg 0x30 [] 1) [m 1 32 0]).msgs.any (fun m => m.src == 0 && m.seq == 1) = true ∧ (at0 .msg 0x30 [] 1).msgs.any (fun m => m.src == 0 && m.seq == 1) = false
    ∧ takeReplay 0 0 [.msg 0 0 [7]] = some ([7], []) ∧ first [] = none
    ∧ (go 0x31 [(40, [32])] 0).any (fun c => c.u 40 4 == 32) = true ∧ takeReplay 0 0 (s.tileSt 0).replay = none ∧ first [m 1 33 0] = some (m 1 33 0) ∧ (32 < (m 1 33 0).data.length)
    ∧ first [m 1 32 1] = some (m 1 32 1) ∧ (m 1 32 1).ckptNo ≠ (s.tileSt 0).ckptNo ∧ first [m 1 32 0] = some (m 1 32 0) ∧ (m 1 32 0).ckptNo = (s.tileSt 0).ckptNo ∧ (s.tileSt 0).journalBytes + (m 1 32 0).data.length ≤ 262144
    ∧ 262144 < ((tile0 s (fun t => { t with journalBytes := 262144 })).tileSt 0).journalBytes + (m 1 32 0).data.length ∧ (go 0x32 [] 0).isSome = true := by decide +kernel
/-- Tile 0 that sends itself a row over halo channel 0. -/
def halo (op : Byte) (fs : List (Nat × List Byte)) (h : Halo) (f : Tile → Tile) : State := tile0 (alone (at0 .msg op fs 0)) (fun t => { f t with halos := [(0, h)] })
theorem test_meets_MessagesAndTransfers_halo : let h : Halo := { (default : Halo) with rowBytes := 32, depth := 1 }; let one : List (Nat × List Byte) := [(33, [1])]
    let u := halo 0x33 one h id; let put (s : State) : Bool := (s.running 0 .msg 0x33).any (fun c => c.done == 0 && c.u 33 1 == 1 && c.aAddr == 0); let far := halo 0x33 [(33, [1]), (12, [0xF0, 0xFF, 0x0F])] h id
    let replay := halo 0x33 one h (fun t => { t with replay := [.halo 0 []] }); let had := halo 0x33 one h (fun t => { t with accepted := 1 }); let full := halo 0x33 one h (fun t => { t with journalBytes := 262144 })
    let put (s : State) (w old : Bool) : Bool := put s && (s.running 0 .msg 0x33).any (fun c => s.putWaits 0 c == w) && s.outOld 0 == old
    put u false false = true ∧ put (at0 .msg 0x33 one 0) false false = true ∧ (at0 .msg 0x33 one 0).haloPeer 0 0 = none ∧ u.haloPeer 0 0 = some (0, h) ∧ 0 + 1 * h.rowBytes ≤ 2 ^ 20 ∧ (far.running 0 .msg 0x33).any (fun c => decide (2 ^ 20 < c.aAddr + c.u 33 1 * 32) && !far.putWaits 0 c) = true
    ∧ far.outOld 0 = false ∧ far.haloPeer 0 0 = some (0, h) ∧ ((at0 .msg 0x33 one 1).running 0 .msg 0x33).any (fun c => decide (c.u 33 1 ≤ c.done)) = true ∧ (u.tileSt 0).journalBytes + h.rowBytes ≤ 262144 ∧ put replay true false = true
    ∧ put (halo 0x33 one { h with head := 3 } id) true false = true ∧ put had false true = true ∧ put full false false = true ∧ full.haloPeer 0 0 = some (0, h) ∧ 262144 < (full.tileSt 0).journalBytes + h.rowBytes
    ∧ ((halo 0x34 [] h id).running 0 .msg 0x34).isSome = true ∧ (tfind ((halo 0x34 [] h id).tileSt 0).halos 0).isSome = true := by decide +kernel
/-- A HALO_CLOSE without a ring of its own: no peer; an output that its receiver had before; a peer that has yet to open its ring again. -/
theorem test_meets_MessagesAndTransfers_closed : let s := at0 .msg 0x34 [] 0; let had := tile0 s (fun t => { t with accepted := 1 })
    let back : State := { s with tiles := tput s.tiles 1 { (default : Tile) with lostHalos := [(0, default)] }, jobs := tput s.jobs 1 { (default : Job) with count := 2 } }
    let go (s : State) (w : Bool) : Bool := (s.running 0 .msg 0x34).any (fun c => s.closeWaits 0 c == w) && (tfind (s.tileSt 0).halos 0).isNone
    go s false = true ∧ s.outOld 0 = false ∧ s.haloPeer 0 0 = none ∧ go had false = true ∧ had.outOld 0 = true ∧ go back true = true := by decide +kernel
/-- Tile 0 closes a halo ring that stands on tile 1, whose sender it is. -/
theorem test_meets_MessagesAndTransfers_close : let s := at0 .msg 0x34 [] 0
    let u : State := { s with tiles := tput s.tiles 1 { (default : Tile) with halos := [(0, default)] }, jobs := tput s.jobs 1 { (default : Job) with count := 2 } }
    (u.running 0 .msg 0x34).isSome = true ∧ tfind (u.tileSt 0).halos 0 = none ∧ u.haloPeer 0 0 = some (1, default) ∧ u.outOld 0 = false ∧ (u.running 0 .msg 0x34).any (fun c => !u.closeWaits 0 c) = true := by decide +kernel
theorem test_meets_MessagesAndTransfers_dram : let s := at0 .msg 0x35 [(40, [32])] 0; let r := at0 .msg 0x36 [(40, [32])] 0
    s.jobOf 0 = some default ∧ (s.regulate 0 .dram (s.ctxSt 0).cls 32 (whoOf 2 0)).2 = true ∧ (({ s with parts := [] } : State).regulate 0 .dram (s.ctxSt 0).cls 32 (whoOf 2 0)).2 = false
    ∧ (s.running 0 .msg 0x35).isSome = true ∧ (s.regulate 0 .dram (s.ctxSt 0).cls 32 (whoOf 2 0)).1.dramBad 0 32 = []
    ∧ (({ s with ras := { s.ras with chk := [(0, [1, 1, 0])] } } : State).regulate 0 .dram (s.ctxSt 0).cls 32 (whoOf 2 0)).1.dramBad 0 32 ≠ [] ∧ (at0 .msg 0x35 [(36, [0, 0, 1])] 0).tileRuns 0 = true ∧ 56 * 2 ^ 30 < leAt (cmdOf 0x35 [(36, [14]), (40, [32])]) 32 8 + 32 ∧ 0 + 32 ≤ 56 * 2 ^ 30
    ∧ (r.running 0 .msg 0x36).isSome = true ∧ r.jobOf 0 = some default ∧ (r.regulate 0 .dram .lc 32 (whoOf 2 0)).2 = true ∧ (({ r with parts := [] } : State).regulate 0 .dram .lc 32 (whoOf 2 0)).2 = false := by decide +kernel
theorem test_meets_MessagesAndTransfers_stream : let l : StreamLine := { tag := [], side := 5, lineNo := 0, planes := [[7]] }
    let s (f : Tile → Tile) (rows : Byte) := (tile0 { at0 .msg 0x37 [(36, [1, 0, 1])] 0 with lin := [(0, { (default : LinPort) with stream := [l] })] } (fun t => f { t with streamAt := some (5, 0) })).twrite 0 3 [rows]
    let cmd (s : State) (p : QCmd → Bool) : Bool := (s.running 0 .msg 0x37).any p; let ring (s : State) : Bool := cmd s (fun c => (s.streamRing 0 c 0).full); let a := s id 1; let b := s id 0
    let full := s (fun t => { t with journalBytes := 262144 }) 1; let again := s (fun t => { t with replay := [.line l] }) 1; let off := at0 .msg 0x37 [] 0
    cmd off (fun c => !c.first) = true ∧ (off.tileSt 0).streamAt = none ∧ cmd (at0 .msg 0x37 [] 0) (fun c => decide (c.u 38 1 ≤ c.done)) = true
    ∧ cmd a (fun c => c.u 38 1 == c.done + 1 && c.u 34 2 == 0 && c.u 36 2 == 1) = true ∧ (a.tileSt 0).streamAt = some (5, 0) ∧ cmd a (fun c => (a.streamEnd c 5 0).1 == 0) = true ∧ cmd b (fun c => (b.streamEnd c 5 0).1 == 0) = true ∧ a.nextLine 0 0 5 0 = some (l, false) ∧ l.lineNo = 0 ∧ ring a = false
    ∧ (a.tileSt 0).journalBytes + (streamRow l.planes 0 1).length ≤ 262144 ∧ cmd b (fun c => decide (c.done < c.u 38 1)) = true ∧ b.nextLine 0 0 5 0 = some (l, false) ∧ ring b = true
    ∧ full.nextLine 0 0 5 0 = some (l, false) ∧ ring full = false ∧ 262144 < (full.tileSt 0).journalBytes + (streamRow l.planes 0 1).length ∧ again.nextLine 0 0 5 0 = some (l, true) ∧ ring again = false := by decide +kernel
theorem test_meets_MessagesAndTransfers_emit : let e := at0 .msg 0x38 [(32, [1])] 0; let bad := e.twrite 0 0 [1]; let back := tile0 e (fun t => { t with replay := [.ack [7]] })
    (e.tileSt 0).job = some 1 ∧ replayedAck (e.tileSt 0).replay = none ∧ (e.running 0 .msg 0x38).any (fun c => c.done == 0 && !(e.emitRows 0 c).any (fun r => r.1 != 0 && e.vocabOf r.1 != some (c.u 36 4))) = true
    ∧ (bad.running 0 .msg 0x38).any (fun c => (bad.emitRows 0 c).any (fun r => r.1 != 0 && bad.vocabOf r.1 != some (c.u 36 4))) = true
    ∧ (back.running 0 .msg 0x38).any (fun c => c.done == 0) = true ∧ replayedAck (back.tileSt 0).replay = some [7] ∧ ((at0 .msg 0x38 [(32, [1])] 1).running 0 .msg 0x38).any (fun c => c.done != 0) = true := by decide +kernel
theorem test_meets_TileFailures : let s : State := { at0 .vec 0x20 [] 0 with ptiles := [(0, { failed := false, removed := false, low := some 0 })], tb := 1000000 }
    let k : Ckpt := default; let u := tile0 s (fun t => { t with restoring := true, ckpt := some k }); let p : PTile := { failed := false, removed := false, low := some 0 }; let out : State := { s with ptiles := [(256, p)] }
    let none_ : State := { pitch with ptiles := (List.range 16).map (fun k => (k + 256, { p with failed := true })) }
    (s.ptile 0).failed = false ∧ s.logicalOf 0 = some 0 ∧ s.nearest 0 = some 256 ∧ (s.jobOf 0).all (fun j => !(s.ctxSt j.ctx).stopping) = true ∧ s.tileRuns 0 = true ∧ s.shouldHandshake 0 = true ∧ (s.tileSt 0).hsTb + 10000 ≤ s.tb
    ∧ (none_.ptile 0).failed = false ∧ none_.logicalOf 0 = some 0 ∧ none_.nearest 0 = none ∧ (none_.tileSt 0).job = none ∧ none_.seqs = [] ∧ (none_.ptile 256).failed = true
    ∧ (s.ptile 0).low = some 0 ∧ 0 + 1000000 ≤ s.tb ∧ (s.ptile 0).removed = false ∧ (s.logicalOf 0).isSome = true ∧ (out.ptile 256).low = some 0 ∧ (out.ptile 256).failed = false ∧ (out.ptile 256).removed = false ∧ out.logicalOf 256 = none
    ∧ (u.tileSt 0).restoring = true ∧ (u.tileSt 0).ckpt = some k ∧ (u.tileSt 0).journal = [] ∧ (u.readCkpt 0).2 = true
    ∧ (let w := tile0 u (fun t => { t with ckpt := some { k with pages := [0], slots := [(0, 0)] } }); ({ w with ras := { w.ras with chk := [(w.slotPlace 0 0 0 / 32, [1, 1, 0])] } } : State).readCkpt 0 |>.2) = false := by decide +kernel

/-! ### The scheduler and the page manager -/

/-- A sequence 3 whose one page lies in CHIP frame 0 of tile 0, and model 0 of playbook 1. -/
def kvState (e : Pte) : State :=
  let p : Playbook := { (default : Playbook) with models := [default], pools := [{ (default : PoolCfg) with tile := 0, size := 1 }] }
  { pitch with seqs := [(3, { (default : Seq) with tables := [[e]], playbook := 1 })], playbooks := [(1, { pb := p, tsets := [], bytes := 0, part := 0, corrupt := false })] }

theorem test_meets_JobsPlaced : let x : Ctx := { (default : Ctx) with state := .resident }; let r : ReadyJob := { (default : ReadyJob) with item := 3 }
    let s : State := { pitch.setFld HIF_STAT HIF_STAT_COACH_UP 1 with ctxs := [(0, x)], ready := [r] }
    s.on HIF_STAT HIF_STAT_COACH_UP = true ∧ s.standby = false ∧ s.ready.filter (fun r => r.ctx == 0 && r.info == 0) = [r] ∧ (s.ctxSt 0).cls = .lc ∧ (s.ctxSt 0).state = .resident ∧ (s.ctxSt 0).tearing = false
    ∧ (s.partSt 0).valid = true ∧ (s.partSt 0).halted = false ∧ (s.partSt 0).switchIn = none ∧ (s.modelReady (s.ctxSt 0).part (s.ctxSt 0).playbook (s.jobInfo (s.ctxSt 0).playbook 0).model).2 = true := by decide +kernel
/-- One variant of some groups from tile 0 on, with tile 0 mapped or not. -/
def placed (mapped : Nat) (groups : Byte) : State :=
  let j : JobInfo := { (default : JobInfo) with variants := [0] }; let p : Playbook := { (default : Playbook) with jobs := [j] }
  let s : State := { pitch with ctxs := [(0, { (default : Ctx) with playbook := 1, cls := .be })], playbooks := [(1, { pb := p, tsets := [], bytes := 0, part := 0, corrupt := false })], seqs := [(3, default)] }
  (s.setFld (PIT_MAP 0) PIT_MAP_VALID mapped).dwrite 5 [groups]
/-- What decides over a new job of context 0 for item 3: its sequences, its pages, no variant in the partition, none usable, its time, a place, and the read of its descriptor. -/
def decides (s : State) : List Bool :=
  let x := s.ctxSt 0
  let ji := s.jobInfo x.playbook 0
  let seqs := rowSeqs (s.jobRows 0 0 { (default : ReadyJob) with item := 3 })
  let mine := s.placesIn 0 0
  let usable := mine.filter (fun d => d.groupList.all s.groupUsable)
  let may (y : State) (d : Place) : Bool := d.groupList.all y.groupFree && y.mayTake 0 d.groupList
  let u := if x.cls = .lc ∧ usable.any (may s) = false then s.clearGroups x.part (((usable.find? (fun d => d.groupList.all s.groupOpen)).map Place.groupList).getD []) else s
  let best := u.bestPlace x.playbook ji.model (u.chipsOf seqs) (usable.filter (may u))
  [ji.rows == 0 || !seqs.isEmpty, seqs.all s.pagesReady, mine.isEmpty, usable.isEmpty, s.fits 0 (ji.wcets.getD 0 0), best.isSome, best.any (fun d => (u.didRead d.addr (64 + 128 * d.groups)).2)]
theorem test_meets_JobsPlaced_variants : let g := placed 1 1
    (decides (placed 1 0)).take 3 = [true, true, true] ∧ decides (placed 0 1) = [true, true, false, true, true, false, false] ∧ decides g = [true, true, false, false, true, true, true]
    ∧ g.sys.released = true := by decide +kernel
theorem test_meets_JobsPlaced_waits : let g := placed 1 1; let taken : State := { g with jobs := [(1, { (default : Job) with count := 16 })] }
    let torn : State := { g with ras := { g.ras with chk := [(0, [1, 1, 0])] } }
    decides taken = [true, true, false, false, true, false, false] ∧ decides torn = [true, true, false, false, true, true, false] := by decide +kernel
theorem test_meets_JobsPlaced_late : let g := placed 1 1; let late : State := { g with ctxs := tput g.ctxs 0 { (default : Ctx) with playbook := 1 } }
    let lost : State := { g with seqs := [(3, { (default : Seq) with tables := [[{ (default : Pte) with tier := .dram }]] })] }
    let rows : State := { g with playbooks := [(1, { pb := { (default : Playbook) with jobs := [{ (default : JobInfo) with variants := [0], rows := 1 }] }, tsets := [], bytes := 0, part := 0, corrupt := false })], seqs := [] }
    ((decides late).drop 3).take 2 = [false, false] ∧ (decides lost).take 2 = [true, false] ∧ (decides rows).take 1 = [false] ∧ (late.ctxSt 0).cls = .lc := by decide +kernel
theorem test_meets_JobsPlaced_contexts : let x (st : CtxState) (t r : Bool) : Ctx := { (default : Ctx) with state := st, tearing := t, restart := r }
    let s (st : CtxState) (t r : Bool) : State := { pitch with ctxs := [(0, x st t r)], parts := [(0, { (default : PartSt) with switchIn := some 0 })] }
    let later : State := { pitch with parts := [(0, { (default : PartSt) with switchIn := some 0, switchTb := 1 })] }
    let busy : State := { run pitch .vec [0] 0 with ctxs := [(0, x .resident true false)], jobs := [(1, { (default : Job) with count := 1 })] }
    ((s .idle false false).partSt 0).switchIn = some 0 ∧ ((s .idle false false).partSt 0).switchTb ≤ (s .idle false false).tb ∧ ((s .idle false false).ctxSt 0).state = .idle ∧ (later.partSt 0).switchIn = some 0 ∧ later.tb < (later.partSt 0).switchTb ∧ (s .idle false false).standby = false ∧ ((s .idle false false).setFld SYS_PWR_STAT SYS_PWR_STAT_STATE 4).standby = true
    ∧ ((s .faulted true true).ctxSt 0).tearing = true ∧ ((s .faulted true true).ctxSt 0).state = .faulted ∧ ((s .faulted true true).ctxSt 0).restart = true ∧ ((s .faulted true false).ctxSt 0).tearing = true ∧ ((s .faulted true false).ctxSt 0).restart = false
    ∧ (s .faulted true false).ready.any (fun r => r.ctx == 0) = false ∧ (busy.ctxSt 0).tearing = true ∧ (busy.ctxSt 0).state ≠ .faulted ∧ (busy.ctxTiles 0).any busy.shouldHandshake = true := by decide +kernel
theorem test_meets_SlotsAndFrames : let l : Slot := { start := 0, len := 2, ctx := 4 }; let tab : CycTable := { (default : CycTable) with slots := [l], major := 1 }
    let p : Playbook := { (default : Playbook) with tables := [leBytes 2 1 ++ leBytes 2 1 ++ List.replicate 4 0 ++ leBytes 2 0 ++ leBytes 2 2 ++ leBytes 2 4 ++ List.replicate 2 0] }
    let x : PartSt := { (default : PartSt) with table := some (1, 0), slot := some 0 }
    let s (debt : Nat) (now : Nat) : State := { pitch with playbooks := [(1, { pb := p, tsets := [], bytes := 0, part := 0, corrupt := false })], parts := [(0, x)], ctxs := [(4, { (default : Ctx) with debt := debt })], tim := { pitch.tim with now := BitVec.ofNat 64 now } }
    let o : State := { s 0 0 with jobs := [(1, { (default : Job) with boundary := some 0 })] }
    (s 0 0).activeTable 0 = some tab ∧ tab.slots[((s 0 0).partSt 0).nextSlot]? = some l ∧ ((s 0 0).partSt 0).halted = false ∧ (s 0 0).reached ((((s 0 0).partSt 0).frameStart + l.start * 10000) % 2 ^ 48) = true
    ∧ o.overrunning 0 = true ∧ (s 0 0).overrunning 0 = false ∧ ((s 0 0).ctxSt l.ctx).debt < l.len * 10000 ∧ l.len * 10000 ≤ ((s 20000 0).ctxSt l.ctx).debt
    ∧ ((s 0 0).partSt 0).slot.isSome = true ∧ (s 0 0).reached ((s 0 0).partSt 0).slotEndTb = true
    ∧ (s 0 0).reached ((((s 0 0).partSt 0).frameStart + tab.major * 10000) % 2 ^ 48) = false ∧ (s 0 (10000 * 65536)).reached ((((s 0 0).partSt 0).frameStart + tab.major * 10000) % 2 ^ 48) = true
    ∧ ((s 0 0).partSt 0).variantDue = false ∧ (({ s 0 0 with parts := [(0, { x with halted := true })] } : State).partSt 0).halted = true
    ∧ (let f : State := { s 0 0 with parts := [(0, { x with frameStart := 1 })] }; f.reached (((f.partSt 0).frameStart + l.start * 10000) % 2 ^ 48) = false) := by decide +kernel
theorem test_meets_BucketsAndSaturation : pitch.sys.released = true ∧ (pitch.partSt 1).valid = false ∧ (pitch.partSt 0).valid = true ∧ (pitch.partSt 0).dramWait = [] ∧ (pitch.partSt 0).fabWait = [] ∧ (pitch.partSt 0).hdmaWait = [] := by decide +kernel
theorem test_meets_FramesAndPages : let r : ModelRes := { (default : ModelRes) with playbook := 1, loading := true }
    let s : State := { kvState default with models := [r] }; let z : State := { s with parts := [] }
    let q : FrameReq := { (default : FrameReq) with seq := 3, fill := 5 }
    let f : State := { kvState { tier := .none, fill := 2, frame := 0 } with reqs := [(1, q)] }; let busy : State := { f with xfers := [(1, .spill 3 0 0 9 4 (some 1))] }; let gone : State := { f with seqs := [] }
    s.modelRes 1 0 = some r ∧ r.loading = true ∧ (let n := ((tfind s.playbooks 1).map (·.bytes)).getD 0; ((s.regulate r.part .dram r.cls (((s.model 1 0).map (·.bytes)).getD 0) (whoOf 4 (1 * 65536 + 0))).1.didRead 0 n).2 = true)
    ∧ (s.regulate r.part .dram r.cls (((s.model 1 0).map (·.bytes)).getD 0) (whoOf 4 (1 * 65536 + 0))).2 = true
    ∧ (z.regulate r.part .dram r.cls (((z.model 1 0).map (·.bytes)).getD 0) (whoOf 4 (1 * 65536 + 0))).2 = false
    ∧ f.firstReq = some (1, q) ∧ f.reqBusy = false ∧ busy.firstReq = some (1, q) ∧ busy.reqBusy = true ∧ f.freeLocal q.tile = some 0
    ∧ (tfind f.seqs q.seq).any (fun w => w.ending == .running && (w.pte q.set q.page).tier == .none && decide (q.set < w.tables.length) && decide (q.page ≤ (w.tables.getD q.set []).length)) = true ∧ q.copyOf = none
    ∧ tfind gone.seqs q.seq = none ∧ gone.freeLocal q.tile = some 0 ∧ f.reqs = [(1, q)] ∧ q.tile = 0 ∧ (kvState default).reqs = [] := by decide +kernel
theorem test_meets_FramesAndPages_wait : let q : FrameReq := { (default : FrameReq) with seq := 3, waiting := true }
    let f : State := { (kvState default).setFld PGM_WAIT_LIMIT PGM_WAIT_LIMIT_WAIT_US 0 with reqs := [(1, q)] }
    let b : State := { f with jobs := [(1, { (default : Job) with frames := [0] })], ctxs := [(0, { (default : Ctx) with cls := .be })] }
    let js (s : State) : List (Nat × Job) := s.jobs.filter (fun j => j.2.part == q.part && (s.ctxSt j.2.ctx).cls == .be && j.2.holding && s.jobLocks j.2 q.tile)
    tfind b.reqs 1 = some q ∧ q.cls = .lc ∧ q.preempted = false ∧ q.waiting = true ∧ q.since + b.fld PGM_WAIT_LIMIT PGM_WAIT_LIMIT_WAIT_US * 1000 ≤ b.tb ∧ b.xfers = [] ∧ js b ≠ [] ∧ tfind f.reqs 1 = some q ∧ js f = []
    ∧ b.tb < ({ q with since := 1 } : FrameReq).since + b.fld PGM_WAIT_LIMIT PGM_WAIT_LIMIT_WAIT_US * 1000 := by decide +kernel
theorem test_meets_FramesAndPages_moves : let c : State := { kvState { tier := .chip, fill := 2, frame := 9 } with xfers := [(1, .spill 3 0 0 9 4 none), (2, .cow 3 0 0 9 1), (5, .drop 3 (some 7))], refs := [(9, 1)], reqs := [(7, default)] }
    let d : State := { kvState { tier := .dram, fill := 2, frame := 4 } with xfers := [(1, .prefetch 3 0 0 (dramKey 4) 9)], refs := [(dramKey 4, 1)] }
    let go (s : State) (n : Nat) : Bool := (s.regulate (s.item 3).part .dram (s.item 3).cls 4224 (whoOf 3 n)).2; let off (s : State) : State := { s with parts := [] }
    let locks (s : State) : Bool := (tfind s.seqs 3).any (fun q => ((q.tables.flatMap id).filterMap frameKey).any ({ s with xfers := tdel s.xfers 5 } : State).locked)
    tfind c.xfers 1 = some (.spill 3 0 0 9 4 none) ∧ (tfind c.seqs 3).any (fun q => (q.pte 0 0).tier == .chip && (q.pte 0 0).frame == 9 && q.ending == .running) = true ∧ tget 0 c.refs 9 ≠ 0 ∧ (c.readFrame 9).2 = true ∧ (({ c with ras := { c.ras with tchk := [(1152, [1, 1, 0])] } } : State).readFrame 9).2 = false ∧ 9 < 2 ^ 24 ∧ go c 1 = true ∧ go (off c) 1 = false
    ∧ tfind c.xfers 2 = some (.cow 3 0 0 9 1) ∧ go c 2 = true ∧ tfind c.xfers 5 = some (.drop 3 (some 7)) ∧ tfind c.reqs 7 = some default ∧ locks c = true ∧ locks { c with xfers := [(5, .drop 3 (some 7))] } = false
    ∧ tfind d.xfers 1 = some (.prefetch 3 0 0 (dramKey 4) 9) ∧ (tfind d.seqs 3).any (fun q => (q.pte 0 0).tier == .dram && dramKey (q.pte 0 0).frame == dramKey 4) = true ∧ 9 < 2 ^ 24 ∧ tget 0 d.refs (dramKey 4) ≠ 0 ∧ (({ d with xfers := [] } : State).readFrame (dramKey 4)).2 = true
    ∧ (let x := (d.setFld PGM_DRAM_FRAMES PGM_DRAM_FRAMES_DRAM_FRAMES 16).setNum PGM_DRAM_BASE_LO 0x80000000
       (({ x with xfers := [], ras := { d.ras with chk := [(x.dramFrameAt 4 / 32, [1, 1, 0])] } } : State).readFrame (dramKey 4)).2 = false)
    ∧ go d 1 = true ∧ go (off d) 1 = false := by decide +kernel
theorem test_meets_FramesAndPages_due : let r : ReadyJob := default; let e : State := { kvState { tier := .dram, fill := 2, frame := 4 } with ready := [r], ctxs := [(0, { (default : Ctx) with cls := .be })] }
    e.ready = [r] ∧ (e.ctxSt r.ctx).part = 0 ∧ (e.ctxSt r.ctx).cls = .be ∧ e.xfers = [] ∧ (∀ x ∈ e.reqs, x.1 < e.nextReq)
    ∧ (tfind e.seqs 3).any (fun q => (e.model q.playbook q.model).isSome && decide (0 < q.tables.length) && decide (0 < (q.tables.getD 0 []).length) && (q.pte 0 0).tier == .dram) = true := by decide +kernel

/-! ### The fabric -/

/-- Port 0 enabled, trained, aligned and UP; address 7. -/
def fab : State :=
  [(KOL_PORT_CTL 0, KOL_PORT_CTL_EN, 1), (KOL_PORT_STAT 0, KOL_PORT_STAT_TRAINED, 1), (KOL_PORT_STAT 0, KOL_PORT_STAT_ALIGNED, 1), (KOL_PORT_STAT 0, KOL_PORT_STAT_LINK_UP, 1),
    (KOL_STAT, KOL_STAT_ADDR_VALID, 1), (KOL_STAT, KOL_STAT_ADDR, 7)].foldl (fun s x => s.setFld x.1 x.2.1 x.2.2) host

/-- Fabric state with other contents. -/
def kolOf (s : State) (f : Kol → Kol) : State := { s with kol := f s.kol }

/-- Port 0 with other contents. -/
def kp (s : State) (f : KPort → KPort) : State := kolOf s (fun k => { k with ports := tput k.ports 0 (f (s.kport 0)) })

theorem test_meets_LinksAndFlits : let d := fab.setFld (KOL_PORT_STAT 0) KOL_PORT_STAT_ALIGNED 0
    let s (n : Nat) : State := { fab with tb := n }
    let b := kp (s 4000) (fun p => { p with buffer := [(0, [])] })
    d.on (KOL_PORT_STAT 0) KOL_PORT_STAT_TRAINED = true ∧ d.aligned 0 = false ∧ fab.on (KOL_PORT_CTL 0) KOL_PORT_CTL_EN = true ∧ fab.aligned 0 = true ∧ fab.linkUp 0 = true
    ∧ host.aligned 0 = false ∧ (fab.setFld (KOL_PORT_CTL 1) KOL_PORT_CTL_EN 0).on (KOL_PORT_CTL 1) KOL_PORT_CTL_EN = false ∧ host.on (KOL_PORT_STAT 0) KOL_PORT_STAT_TRAINED = false ∧ (zeros 640).length = 640
    ∧ rs544Decode [] = none ∧ fab.on (KOL_PORT_STAT 0) KOL_PORT_STAT_TRAINED = true ∧ (fab.kport 0).replayTb = none
    ∧ ((s 50000).kport 0).lastGood + 50000 ≤ (s 50000).tb ∧ host.linkUp 0 = false ∧ (b.kport 0).buffer ≠ [] ∧ (b.kport 0).ackTb + 4000 ≤ b.tb := by decide +kernel
/-- Zero times a symbol is zero, and so are the syndromes of zeros. -/
theorem gf10Mul_zero (b : Nat) : ∀ n, gf10Mul 0 b n 0 = 0
  | 0 => rfl
  | n + 1 => by simp only [gf10Mul]; split <;> simp [gf10Mul_zero b n]
theorem syndrome_of_zeros (r : Nat) : ∀ n, (List.replicate n 0).foldl (fun s b => gf10Mul s r 10 0 ^^^ b) 0 = 0
  | 0 => rfl
  | n + 1 => by simp [List.replicate_succ, gf10Mul_zero r 10, syndrome_of_zeros r n]
theorem test_meets_LinksAndFlits_word : (rs544Decode (List.replicate 544 0)).isSome = true := by
  have h : rs544Syndromes (List.replicate 544 0) = (gf10Powers 30 1).map (fun _ => 0) := by
    simp only [rs544Syndromes, syndrome_of_zeros]
  simp only [rs544Decode, h, List.length_replicate]
  decide +kernel
theorem test_meets_LinksAndFlits_flits : let good (null typ : Nat) : List Byte := mkFlit 0 null 0 0 0 0 [BitVec.ofNat 8 typ]
    let ok (f : List Byte) (null typ : Nat) : Bool := f.length == 256 && flitGood f && bit (leAt f 0 4) 29 == (null == 1) && leAt f 4 1 == typ
    ok (good 0 0) 0 0 = true ∧ ok (good 1 0) 1 0 = true ∧ ok (good 1 1) 1 1 = true ∧ ok (good 1 2) 1 2 = true ∧ leAt (good 0 0) 0 4 / 2 ^ 17 % 4096 = (fab.kport 0).rxExp
    ∧ leAt (good 0 0) 0 4 / 2 ^ 17 % 4096 ≠ ((kp fab (fun p => { p with rxExp := 9 })).kport 0).rxExp
    ∧ flitGood ((good 0 0).set 5 1) = false ∧ bit (leAt ((good 0 0).set 5 1) 0 4) 29 = false ∧ ((good 0 0).set 5 1).length = 256
    ∧ flitGood ((good 1 0).set 5 1) = false ∧ bit (leAt ((good 1 0).set 5 1) 0 4) 29 = true ∧ host.aligned 0 = false
    ∧ (let u := kp ((fab.setFld (KOL_PORT_STAT 0) KOL_PORT_STAT_LINK_UP 0).setFld KOL_STAT KOL_STAT_ADDR_VALID 0) (fun p => { p with gotKeepalive := true, seenCredit := [0, 1, 2, 3] }); u.linkUp 0 = false ∧ u.aligned 0 = true ∧ (u.kport 0).gotKeepalive = true ∧ (∀ v, v < 4 → v ∈ (u.kport 0).seenCredit) ∧ u.addr? = none)
    ∧ (fab.kport 0).replayTb = none ∧ ((kp fab (fun p => { p with replayTb := some 0 })).kport 0).replayTb = some 0 ∧ fab.tb < 0 + 2000 := by decide +kernel
/-- A candidate of serial number 5, alone or running, with or without an address. -/
def cand (running : Bool) (addr : Nat) : State :=
  let s := (((fab.setFld KOL_STAT KOL_STAT_ADDR_VALID addr).setFld KOL_HUDDLE_CFG KOL_HUDDLE_CFG_ROOT_ELIG 1).setPair SYS_SERIAL_LO 5).setFld KOL_STAT KOL_STAT_EPOCH 3
  { kolOf s (fun k => { k with huddle := { k.huddle with running := running, lowest := 5 } }) with tb := 1000000 }
theorem test_meets_Huddle : let s := cand true 0; let n := s.setFld (KOL_NEIGH 0) KOL_NEIGH_ADDR_VALID 1; let r := s.setFld KOL_STAT KOL_STAT_ROOT 1
    let h : HuddleSt := { (default : HuddleSt) with known := [(0, 5)], reports := [(5, [{ port := 0, serial := 9, nport := 0 }])], nextAddr := 1 }
    s.linkUp 0 = true ∧ sdiff 16 2 s.epoch < 0 ∧ sdiff 16 3 s.epoch = 0 ∧ 4 < s.kol.huddle.lowest ∧ 0 < sdiff 16 4 s.epoch ∧ s.rootElig = true ∧ s.kol.huddle.lowest = s.serial
    ∧ s.kol.huddle.lowestTb + 1000000 ≤ s.tb ∧ s.addr? = none ∧ s.on KOL_STAT KOL_STAT_ROOT = false ∧ s.kol.huddle.running = true ∧ s.neighAddressed = false ∧ n.neighAddressed = true ∧ (cand false 0).kol.huddle.running = false
    ∧ (h.known.filter (fun k => h.levelFrom ≤ k.1)).all (fun k => (h.reportOf k.2).isSome) = true ∧ h.candidates ≠ [] ∧ h.level < 16 ∧ h.candidates.length ≤ 256 - h.nextAddr
    ∧ (3 : BitVec 16).toNat = s.epoch ∧ (5 : BitVec 64).toNat = s.serial ∧ (6 : BitVec 64).toNat ≠ s.serial ∧ r.on KOL_STAT KOL_STAT_ROOT = true := by decide +kernel
theorem test_meets_Huddle_not : let s := cand true 0; let off := host; let done := cand false 0; let h (x : HuddleSt) : State := kolOf s (fun k => { k with huddle := x })
    let wait : HuddleSt := { (default : HuddleSt) with known := [(0, 5)] }; let full : HuddleSt := { (default : HuddleSt) with level := 16, known := [(0, 5)], reports := [(5, [{ port := 0, serial := 9, nport := 0 }])], nextAddr := 1 }
    let sent (x : State) : Bool := (x.kol.huddle.known.filter (fun k => x.kol.huddle.levelFrom ≤ k.1)).all (fun k => (x.kol.huddle.reportOf k.2).isSome)
    off.linkUp 0 = false ∧ s.kol.huddle.lowest ≤ (5 : BitVec 64).toNat ∧ ({ s with tb := 999999 } : State).tb < s.kol.huddle.lowestTb + 1000000 ∧ ({ s with tb := 999999 } : State).upPorts ≠ [] ∧ (cand true 1).addr?.isSome = true
    ∧ off.upPorts = [] ∧ (kolOf off (fun k => { k with huddle := { k.huddle with running := true } })).kol.huddle.running = true ∧ done.kol.huddle.running = false ∧ (4 : BitVec 16).toNat ≠ s.epoch
    ∧ sent (h wait) = false ∧ sent (h default) = true ∧ (h default).kol.huddle.candidates = [] ∧ sent (h full) = true ∧ (h full).kol.huddle.candidates ≠ [] ∧ 16 ≤ (h full).kol.huddle.level
    ∧ (let o := kolOf (cand true 1) (fun k => { k with huddle := { k.huddle with other := true } }); o.rootElig = true ∧ o.kol.huddle.lowest = o.serial ∧ o.kol.huddle.lowestTb + 1000000 ≤ o.tb ∧ o.kol.huddle.other = true ∧ o.upPorts ≠ [] ∧ s.kol.huddle.other = false) := by decide +kernel
theorem test_meets_Huddle_room : let x : HuddleSt := { (default : HuddleSt) with known := [(0, 5)], reports := [(5, [{ port := 0, serial := 9, nport := 0 }, { port := 1, serial := 8, nport := 0 }])], nextAddr := 255 }
    (x.known.filter (fun k => x.levelFrom ≤ k.1)).all (fun k => (x.reportOf k.2).isSome) = true ∧ x.level < 16 ∧ x.nextAddr < 256 ∧ 256 - x.nextAddr < x.candidates.length := by
  have two : ([{ port := 0, serial := 9, nport := 0 }, { port := 1, serial := 8, nport := 0 }] : List NeighRep).mergeSort (fun a b => decide (a.port ≤ b.port)) = [{ port := 0, serial := 9, nport := 0 }, { port := 1, serial := 8, nport := 0 }] :=
    List.mergeSort_of_pairwise (by decide)
  refine ⟨by decide, by decide, by decide, ?_⟩
  simp only [HuddleSt.candidates]
  rw [List.mergeSort_of_pairwise (l := List.filter _ _) (by decide +kernel)]
  simp only [HuddleSt.reportOf, show (default : HuddleSt).levelFrom = 0 from rfl, List.filter_cons, List.filter_nil, List.flatMap_cons, List.flatMap_nil, List.find?_cons, beq_self_eq_true, Option.map_some, Option.getD_some, Nat.zero_le, decide_true, if_true, two]
  decide +kernel
theorem test_meets_Huddle_end : let s := cand true 1; let devs : List MapDev := [{ addr := 0, serial := 9, links := [{ port := 0, naddr := 1, nport := 0 }] }, { addr := 1, serial := 5, links := [{ port := 0, naddr := 0, nport := 0 }] }]
    let t := { (cand true 0).setFld SYS_BOOT_STAT SYS_BOOT_STAT_STAGE 9 with tb := s.num SYS_HUDDLE_WAIT * 1000000 }
    let k := kolOf s (fun k => { k with huddle := { k.huddle with known := [(0, 9)] } })
    s.kol.huddle.running = true ∧ s.linkUp 0 = true ∧ s.addr? ≠ some 0 ∧ s.kol.floodDone.contains (0, 1) = false ∧ (s.applyMap []).2 = false
    ∧ (s.applyMap devs).2 = true ∧ (s.applyMap devs).1.routePort 0 = some 0 ∧ (s.applyMap devs).1.routePort 200 = none ∧ devs.find? (fun d => d.serial.toNat == s.serial) = some { addr := 1, serial := 5, links := [{ port := 0, naddr := 0, nport := 0 }] }
    ∧ s.addr?.isSome = true ∧ (s.setFld KOL_STAT KOL_STAT_ROOT 1).on KOL_STAT KOL_STAT_ROOT = true
    ∧ s.kol.huddle.known.all (fun k => s.kol.huddle.dones.contains k.1) = true ∧ k.kol.huddle.known.all (fun x => k.kol.huddle.dones.contains x.1) = false
    ∧ (cand false 1).kol.huddle.running = false ∧ (cand true 0).addr? = none ∧ s.on KOL_STAT KOL_STAT_ROOT = false ∧ up.on HIF_STAT HIF_STAT_COACH_UP = false ∧ ({ t.sys with huddleEnd := true } : Sys).huddleEnd = true
    ∧ ({ t with tb := 0 } : State).tb < t.sys.huddleWait + t.num SYS_HUDDLE_WAIT * 1000000 ∧ t.on HIF_STAT HIF_STAT_COACH_UP = true ∧ t.sys.huddleEnd = false ∧ t.sys.huddleWait + t.num SYS_HUDDLE_WAIT * 1000000 ≤ t.tb := by decide +kernel
theorem test_meets_FabricMessages : let seen := kolOf fab (fun k => { k with floodDone := [(3, 1)] })
    let t (n : Nat) : Txn := { (default : Txn) with dst := 3, cmd := some (0, 0), sends := n }
    let done := kolOf fab (fun k => { k with txnDone := [{ src := 3, txn := 1, reply := [] }], txns := [(1, t 0), (2, t 4)] }); let late : State := { done with tb := 500000 }
    let w := (fab.setFld (KOL_WIN_CFG 0) KOL_WIN_CFG_VALID 1).setFld (KOL_WIN_CFG 0) KOL_WIN_CFG_ANY_SRC 1
    fab.linkUp 0 = true ∧ fab.addr? ≠ some 3 ∧ fab.kol.floodDone.contains (3, 1) = false ∧ seen.kol.floodDone.contains (3, 1) = true ∧ fab.addr?.isSome = true
    ∧ (done.doneTxn 3 1).isSome = true ∧ fab.doneTxn 3 1 = none ∧ fab.hold.any (fun h => h.ring == 0) = false ∧ ((fab.took 3 0x10).ringWrite 0 [postRecord 3 0 1 0 0 []]).isSome = true
    ∧ ({ fab with hold := [{ (default : Held) with ring := 0 }] } : State).hold.any (fun h => h.ring == 0) = true
    ∧ (w.on (KOL_WIN_CFG 0) KOL_WIN_CFG_VALID && (w.on (KOL_WIN_CFG 0) KOL_WIN_CFG_ANY_SRC || w.fld (KOL_WIN_CFG 0) KOL_WIN_CFG_SRC == 3)) = true ∧ 0 + ([] : List Byte).length ≤ w.num (KOL_WIN_SIZE 0) * 1024
    ∧ w.num (KOL_WIN_SIZE 0) * 1024 < 0 + [(0 : Byte)].length ∧ (fab.on (KOL_WIN_CFG 0) KOL_WIN_CFG_VALID) = false
    ∧ tfind done.kol.txns 1 = some (t 0) ∧ (t 0).cmd = some (0, 0) ∧ (t 0).dst = 3 ∧ done.kol.huddle.running = false ∧ (t 0).sentTb + 500000 ≤ late.tb ∧ (t 0).sends < 4 ∧ 4 ≤ (t 4).sends
    ∧ tfind late.kol.txns 2 = some (t 4) ∧ done.tb < (t 0).sentTb + 500000 ∧ (cand true 0).kol.huddle.running = true := by decide +kernel
theorem test_meets_FabricMessages_not : let txns (t : Txn) : State := kolOf fab (fun k => { k with txns := [(1, t)] }); let off := fab.setFld (HIF_RING_CFG 0) HIF_RING_CFG_EN 0
    fab.addr? = some 7 ∧ (cand true 0).addr? = none ∧ (cand true 0).kol.huddle.running = true ∧ host.kol.huddle.running = false ∧ host.linkUp 0 = false ∧ host.addr? = none ∧ (off.took 3 0x10).ringWrite 0 [postRecord 3 0 1 0 0 []] = none ∧ tfind fab.kol.txns 1 = none
    ∧ tfind (txns { (default : Txn) with dst := 3 }).kol.txns 1 = some { (default : Txn) with dst := 3 } ∧ ({ (default : Txn) with dst := 3 } : Txn).cmd = none
    ∧ tfind (txns { (default : Txn) with dst := 4, cmd := some (0, 0) }).kol.txns 1 = some { (default : Txn) with dst := 4, cmd := some (0, 0) } ∧ (4 : Nat) ≠ 3 := by decide +kernel
/-- The catch partner of source 3 that holds PIECE 6 with one line of SIDE 1; a source whose partner is 4. -/
def catcher : State :=
  kolOf (fab.setFld KOL_RELAY_SIZE KOL_RELAY_SIZE_SIZE_MIB 1) (fun k => { k with
    source := some 3, relayIn := [(6, { body := default, lines := [([1, 0, 0, 0], 0, [])], deadline := 0, seals := [], gap := false, done := false, places := [(0, 40)] })], relayPos := 40 })
theorem test_meets_RelayAndEscalation : let opened : State := kolOf catcher (fun k => { k with relayIn := tput k.relayIn 7 { (default : RelayPiece) with gap := false } })
    let src := fab.setFld KOL_CATCH_CFG KOL_CATCH_CFG_PARTNER_VALID 1; let beat (tb : Nat) : State := { kolOf src (fun k => { k with hbTb := some 0 }) with tb := tb }
    let gone := kolOf (beat 310000) (fun k => { k with hbTb := none })
    [fab.kol.source == none, (2 : Word).toNat != (catcher.kol.relayExp + 1) % 2 ^ 32, catcher.kol.source.isSome, (1 : Word).toNat == (catcher.kol.relayExp + 1) % 2 ^ 32, opened.relayFits 40,
      catcher.relayOwner [1, 0, 0, 0] == some 6, (tfind catcher.kol.relayIn 6).any (fun r => !r.gap), catcher.relayFits (40 + 0), catcher.relayFits 16, catcher.sealOwner 1 == some 6, (opened.kol.relayIn.length == 2),
      pieces.liveItem (2 ^ 20 + 1) == some 1, src.partner? == some 0, src.kol.hbTb == none, (beat 0).kol.hbAccepted != (1 : Word).toNat, (beat 0).kol.hbTb == some 0, decide ((beat 0).tb < 0 + 310000), decide (0 + 310000 ≤ (beat 310000).tb),
      (gone.partnerGone 0).kol.source == none, ((kolOf gone (fun k => { k with source := some 3 })).partnerGone 0).kol.source == some 3].all id = true := by decide +kernel
/-- The catcher's ring full, its PIECE with a gap in its data, a line and a seal of no PIECE, and a source whose partner reports again what it has reported. -/
theorem test_meets_RelayAndEscalation_not : let full := kolOf catcher (fun k => { k with relayIn := k.relayIn ++ [(7, { (default : RelayPiece) with places := [(40, 0x100000 - 40)] })] })
    let gap := kolOf catcher (fun k => { k with relayIn := tupd k.relayIn 6 (fun r => { r with gap := true }) })
    let src := kolOf (fab.setFld KOL_CATCH_CFG KOL_CATCH_CFG_PARTNER_VALID 1) (fun k => { k with hbTb := some 0, hbAccepted := 1 })
    [full.kol.source.isSome, !full.relayFits 40, full.relayOwner [1, 0, 0, 0] == some 6, (tfind full.kol.relayIn 6).any (fun r => !r.gap), catcher.relayOwner [9, 0, 0, 0] == none, catcher.sealOwner 9 == none,
      gap.relayOwner [1, 0, 0, 0] == some 6, (tfind gap.kol.relayIn 6).any (·.gap), bit (leAt ((zeros 32).set 17 1) 17 1) 0, !bit (leAt (zeros 32) 17 1) 0, pieces.liveItem 1 == none, fab.partner? == none,
      src.partner? == some 0, (1 : BitVec 8).toNat != 0, src.kol.hbTb.isSome, src.kol.hbAccepted == (1 : Word).toNat, !src.kol.relayStopped].all id = true := by decide +kernel
theorem test_meets_RelayAndEscalation_esc : let b : EscHeadBody := default; let e : EscIn := { src := 3, txn := 1, head := b, data := [] }
    let s : State := { kolOf fab (fun k => { k with escIn := [e] }) with models := [default], ctxs := [(0, { (default : Ctx) with state := .idle })] }
    let q : Seq := { (default : Seq) with region := 4 }; let t : Txn := { (default : Txn) with dst := 3, seq := some 2 }
    let r : Region := default; let x : State := { kolOf fab (fun k => { k with txns := [(1, t)] }) with seqs := [(2, q)], regions := [(4, r)] }
    let y : State := { x with regions := [(4, { r with result := some [] })] }
    let f : FieldRes := { (default : FieldRes) with id := 9, status := .noRead }
    s.doneTxn 3 1 = none ∧ s.addr?.isSome = true ∧ s.escBusy 3 1 = false ∧ (s.escModel e).isSome = true ∧ fab.escModel e = none
    ∧ s.kol.escIn.find? (fun x => x.src == 3 && x.txn == 1) = some e ∧ (e.data ++ [1]).length ≤ 0x400000
    ∧ tfind x.kol.txns 1 = some t ∧ t.seq = some 2 ∧ t.dst = 3 ∧ tfind x.seqs 2 = some q ∧ tfind x.regions q.region = some r ∧ r.result = none ∧ (tfind y.regions 4).any (fun r => r.result.isSome) = true
    ∧ host.addr? = none ∧ s.escBusy 3 9 = false ∧ fab.kol.escIn.find? (fun x => x.src == 3 && x.txn == 1) = none ∧ tfind fab.kol.txns 1 = none
    ∧ (kolOf fab (fun k => { k with txnDone := [{ src := 3, txn := 1, reply := [] }] })).doneTxn 3 1 = some [] ∧ wantsEsc [f] = true ∧ [(9, 1, 5, 0, [(65 : Byte)])].find? (fun (r : Nat × Nat × Nat × Nat × List Byte) => r.1 == f.id) = some (9, 1, 5, 0, [65]) := by decide +kernel
theorem test_meets_RelayAndEscalation_long : ∃ (e : EscIn) (d : List Byte), 0x400000 < (e.data ++ d).length :=
  ⟨default, List.replicate 0x400001 0, by rw [List.length_append, List.length_replicate]; exact Nat.lt_of_lt_of_le (by decide) (Nat.le_add_left _ _)⟩

/-! ### Time and the Ethernet port -/

/-- Time whose parent is port 0, with the SYNC of ID 1 received at 0, and so many offsets before. -/
def timed (rest : List Rat) (off : Bool) (good : Nat) : State :=
  let p : TPort := { (default : TPort) with syncRx := [(1, 0)] }
  { (fab.setFld TIM_STAT TIM_STAT_HOLDOVER (b2n off)).setFld TIM_CFG TIM_CFG_SRC 0 with tim := { fab.tim with ports := [(0, p)], parent := some 0, recent := rest, good := good } }
theorem test_meets_TimeAndEthernet : let s := timed [] false 0
    let off (s : State) (stamp : Stamp) : Rat := mkRat (stampDiff 0 stamp) 65536 - s.delayOf 0
    let small (s : State) (stamp : Stamp) : Bool := decide (ratAbs (off s stamp) ≤ (s.num TIM_STEP_LIMIT : Rat))
    let cold := s.setFld HIF_STAT HIF_STAT_READY 0
    (s.tport 0).syncRx.find? (fun x => x.1 == 1) = some (1, 0) ∧ s.linkUp 0 = true ∧ s.tim.parent = some 0 ∧ s.on TIM_STAT TIM_STAT_REROUTE_HOLD = false ∧ s.fabricTime = true
    ∧ cold.tim.recent = [] ∧ cold.isReady = false ∧ 0 ≤ ratRound (-(off cold 65536) * 65536) ∧ ratRound (-(off cold (-65536)) * 65536) < 0
    ∧ (timed [0] false 0).tim.recent ≠ [] ∧ s.isReady = true ∧ (timed [0] false 0).on TIM_STAT TIM_STAT_HOLDOVER = false ∧ small s 0 = true ∧ small s (2 ^ 60) = false
    ∧ (timed [0] true 2).on TIM_STAT TIM_STAT_HOLDOVER = true ∧ small (timed [0] true 2) 0 = true ∧ (timed [0] true 2).tim.good = 2 ∧ (timed [0] true 1).tim.good ≠ 2 ∧ small (timed [0] true 0) (2 ^ 60) = false := by decide +kernel
theorem test_meets_TimeAndEthernet_not : let s := timed [0] false 0; let h := s.setFld TIM_STAT TIM_STAT_REROUTE_HOLD 1; let ptp := (s.setFld TIM_CFG TIM_CFG_SRC 1).setFld TIM_STAT TIM_STAT_PTP_STATE 3
    (s.tport 0).syncRx.find? (fun x => x.1 == 2) = none ∧ host.linkUp 0 = false ∧ host.addr? = none ∧ host.kol.huddle.running = false ∧ fab.addr?.isSome = true ∧ fab.tim.parent ≠ some 0 ∧ ptp.tim.parent = some 0 ∧ ptp.fabricTime = false ∧ ptp.linkUp 0 = true ∧ (ptp.tport 0).syncRx.find? (fun x => x.1 == 1) = some (1, 0)
    ∧ h.fabricTime = true ∧ h.on TIM_STAT TIM_STAT_REROUTE_HOLD = true ∧ h.tim.burstEnded = false ∧ h.tim.recent ≠ [] ∧ h.linkUp 0 = true ∧ h.tim.parent = some 0
    ∧ s.timeHops ≤ (255 : BitVec 8).toNat ∧ (s.tport 0).reqId ≠ (9 : BitVec 16).toNat ∧ (s.tport 0).t1 = none ∧ (kolOf s (fun k => { k with floodDone := [(3, 1)] })).kol.floodDone.contains (3, 1) = true
    ∧ host.ethOn = false := by decide +kernel
theorem test_meets_TimeAndEthernet_messages : let p : TPort := { (default : TPort) with reqId := 1, t1 := some 0, t2 := some 0, t4 := some 0 }
    let s : State := { fab.setFld TIM_CFG TIM_CFG_SRC 1 with tim := { fab.tim with ports := [(0, p)], parent := some 0 } }; let l := s.setFld TIM_STAT TIM_STAT_PTP_STATE 3
    let x (t4 : Stamp) : Rat := mkRat (stampDiff t4 0 - stampDiff 0 0) 131072
    s.linkUp 0 = true ∧ l.ptpLocked = true ∧ s.ptpLocked = false ∧ s.tim.parent = some 0 ∧ 0 < s.timeHops ∧ s.timeHops ≤ 255 ∧ fab.tim.parent ≠ some 0 ∧ (s.tport 0).reqId = (1 : BitVec 16).toNat ∧ (s.tport 0).t1.isSome = true
    ∧ (s.tport 0).t2 = some 0 ∧ (s.tport 0).t4 = some 0 ∧ x (-65536) < 0 ∧ 2000 < x (2 ^ 40) ∧ 0 ≤ x 0 ∧ x 0 ≤ 2000 ∧ s.addr? ≠ some 3 ∧ s.kol.floodDone.contains (3, 1) = false := by decide +kernel
theorem test_meets_TimeAndEthernet_port : let s := (fab.setFld ETH_CFG ETH_CFG_EN 1).setFld ETH_STAT ETH_STAT_LINK_UP 1
    let full : State := { s with tim := { s.tim with ports := [(6, { (default : TPort) with txq := List.replicate 8 (0, 0) })] } }
    s.ethOn = true ∧ (s.tport 6).txq.length < 8 ∧ full.ethOn = true ∧ 8 ≤ (full.tport 6).txq.length ∧ (s.setFld TIM_CFG TIM_CFG_SRC 1).timeSrc = 1 ∧ (s.setFld TIM_CFG TIM_CFG_SRC 0).timeSrc ≠ 1
    ∧ (1 : Word) ≠ s.reg ETH_IP := by decide +kernel
/-- A PTP slave, a PTP master beside it, and the peer-to-peer mechanism, each with what its clauses ask for. -/
theorem test_meets_TimeAndEthernet_ptp : let on := (fab.setFld ETH_CFG ETH_CFG_EN 1).setFld ETH_STAT ETH_STAT_LINK_UP 1
    let p : PtpPort := { (default : PtpPort) with origin := some 0, request := some 1, delay := some 2 }
    let slave (p : PtpPort) : State := { (on.setFld TIM_CFG TIM_CFG_SRC 1).setFld TIM_STAT TIM_STAT_PTP_STATE 3 with tim := { on.tim with ptp := p } }
    let lead := (((on.setFld TIM_CFG TIM_CFG_SRC 2).setFld TIM_STAT TIM_STAT_PTP_STATE 4).setFld TIM_STAT TIM_STAT_LOCKED 1)
    let peer := on.setFld TIM_PTP_CFG TIM_PTP_CFG_PEER 1; let f : PtpFrame := { domain := 0, l2 := false }
    [host.ethOn == false, on.ethOn, f.domain.toNat == (slave p).fld TIM_PTP_CFG TIM_PTP_CFG_DOMAIN, f.l2 == (slave p).on TIM_PTP_CFG TIM_PTP_CFG_L2, (slave p).timeSrc == 1, (slave p).fld TIM_STAT TIM_STAT_PTP_STATE == 3,
      (slave default).tim.ptp.delay == none, (slave p).tim.ptp.delay == some 2, (slave p).tim.ptp.origin == some 0, (slave p).tim.ptp.request == some 1, (slave p).on TIM_PTP_CFG TIM_PTP_CFG_PEER == false,
      lead.timeSrc == 2, lead.on TIM_STAT TIM_STAT_LOCKED, lead.fld TIM_STAT TIM_STAT_PTP_STATE == 4, lead.ptpSyncDue, lead.on TIM_PTP_CFG TIM_PTP_CFG_PEER == false, peer.on TIM_PTP_CFG TIM_PTP_CFG_PEER, on.timeSrc != 1,
      f.domain.toNat == lead.fld TIM_PTP_CFG TIM_PTP_CFG_DOMAIN, f.l2 == peer.on TIM_PTP_CFG TIM_PTP_CFG_L2, !({ lead with tim := { lead.tim with ptp := { p with syncTb := some 0 } } } : State).ptpSyncDue,
      fab.linkUp 0, !host.linkUp 0].all id = true := by decide +kernel

/-! ### Memory, firmware and kickoff -/

theorem test_meets_RsCorrectsOneByte : (zeros 32).length = 32 ∧ 34 < 35 ∧ (1 : Byte) ≠ 0 := by decide +kernel
/-- A pattern that flips bits of the listed bytes of a codeword. -/
def flips (l : List Nat) : List Byte := (List.range 35).map (fun i => if l.contains i then 1 else 0)
theorem test_meets_MemoryFaults : let s := host.setFld (PIT_MAP 0) PIT_MAP_VALID 1; let d (l : List Nat) : State := s.upset (.dram 0, flips l); let u (l : List Nat) : State := s.upset (.tile 0 0, flips l)
    let word (v : State) : RsRead := rsRead (codeword v.dram v.ras.chk 0); let store (v : State) : RsRead := rsRead (codeword v.tile v.ras.tchk 0); let good := rsEncode (zeros 32)
    let bad : State := { s with ptiles := [(0, { (default : PTile) with failed := true })] }; let waits : State := { s with retQueue := [(0, [1])] }
    [visibleAddr 0 == some 0, visibleAddr 7 == none, word s == .good, word (d [3]) == .corrected good, good.length == 35, word (d [0, 1]) == .uncorrectable, waits.retQueue.any (fun w => wordIn w.1 w.2.length (0 / 32)),
      !s.retQueue.any (fun w => wordIn w.1 w.2.length (0 / 32)), s.logicalOf 271 == none, s.logicalOf 0 == some 0, (bad.ptile 0).failed, !(s.ptile 0).failed, bad.logicalOf 0 == some 0, !s.wordAwaited 0 0,
      (at0 .msg 0x35 [(40, [32])] 0).wordAwaited 0 0, (at0 .msg 0x35 [(40, [32])] 0).logicalOf 0 == some 0, store s == .good, store (u [34]) == .corrected good, store (u [0, 34]) == .uncorrectable, tileAt 0 0 / 32 + 0 == 0].all id = true := by decide +kernel
theorem test_meets_MemoryFaults_timers : let s (n : Nat) : State := { host with ras := { host.ras with second := [(3, n)], requested := [(2, 0)] } }; let lim := host.num RAS_CORR_LIMIT
    let q := ((host.setFld (HIF_SQ_CFG 0) HIF_SQ_CFG_EN 1).setNum (HIF_SQ_TAIL 0) 1); let m : Image := default; let x : State := { host with images := [(2, m)] }
    (∀ k, k < 9 → tget 0 (s 0).ras.second k ≤ lim) ∧ lim < tget 0 (s (lim + 1)).ras.second 3 ∧ (∀ j, j < 9 → j ≠ 3 → tget 0 (s (lim + 1)).ras.second j ≤ lim) ∧ tfind (s 0).ras.requested 2 = some 0
    ∧ q.on (HIF_SQ_CFG 0) HIF_SQ_CFG_EN = true ∧ (tget default q.sqs 0).stopped = false ∧ q.fld (HIF_SQ_HEAD 0) HIF_SQ_HEAD_HEAD ≠ q.fld (HIF_SQ_TAIL 0) HIF_SQ_TAIL_TAIL ∧ q.coachHeld (q.headPacket 0) = false
    ∧ (tget default q.sqs 0).readTb + 10000000 ≤ ({ q with tb := 10000000 } : State).tb ∧ q.tb < (tget default q.sqs 0).readTb + 10000000 ∧ ({ s 0 with tb := 20000 } : State).tb = 0 + 20000 ∧ (s 0).tb < 0 + 20000
    ∧ (∀ k, k < 9 → tget 0 host.ras.second k ≤ lim) ∧ tfind (s 0).ras.requested 3 = none ∧ host.on (HIF_SQ_CFG 0) HIF_SQ_CFG_EN = false
    ∧ tfind x.images 2 = some m ∧ tfind x.images 3 = none ∧ m.fetched = false ∧ m.decoded = false ∧ m.readTb + 10000000 ≤ ({ x with tb := 10000000 } : State).tb ∧ x.tb < m.readTb + 10000000 := by decide +kernel
theorem test_meets_FirmwareResets : let d : State := { host.setFld HIF_STAT HIF_STAT_COACH_UP 0 with sys := { host.sys with coachDown := some (1, 0) } }
    host.sys.released = true ∧ host.on HIF_STAT HIF_STAT_COACH_UP = true ∧ d.on HIF_STAT HIF_STAT_COACH_UP = false ∧ d.sys.coachDown = some (1, 0)
    ∧ (host.setFld HIF_STAT HIF_STAT_UMPIRE_UP 1).umpireUp = true ∧ host.umpireUp = false
    ∧ 0 + 5000000 ≤ ({ host with tb := 5000000 } : State).tb ∧ host.tb < 0 + 5000000 ∧ 0 + 20000000 ≤ ({ host with tb := 20000000 } : State).tb ∧ 5 < 16 := by decide +kernel
/-- An image with the public key, message (its first four bytes as version, the others as body) and signature of RFC 6979, A.2.6, SHA-384 over "sample". -/
def sampleImage : BootImage :=
  { version := 0x706d6173, body := [0x6c, 0x65]
    keyX := 0xEC3A4E415B4E19A4568618029F427FA5DA9A8BC4AE92E02E06AAE5286B300C64DEF8F0EA9055866064A254515480BC13
    keyY := 0x8015D9B72D7D57244EA8EF9AC0C621896708A59367F9DFB9F54CA84B3F1C9DB1288B231C3AE0D4FE7344FD2533264720
    r := 0x94EDBB92A5ECB8AAD4736E56C691916B3F88140666CE9FA73D64C4EA95AD133C81A648152E44ACF96E36DD1E80FABE46
    s := 0x99EF4AEB15F178CEA1FE40DB2603138F130E740A19624526203B6351D0A3A94FA329C145786E679E7B82C71A38628AC8 }
/-- One-time programmable values that admit that image. -/
def sampleOtp : BootOtp := { keyDigest := sha384 (imageKey sampleImage), umpireFloor := 1, coachFloor := 1 }
/-- The signature of RFC 6979 is good, and no longer for another message; slot B starts when slot A is empty or not accepted. -/
theorem test_meets_Kickoff_image : (imageAccepted sampleImage sampleOtp true && !imageAccepted { sampleImage with body := [0x6c, 0x66] } sampleOtp true && imageAccepted sampleImage sampleOtp false) = true := by decide +kernel
theorem test_meets_Kickoff_slots : (bootSlot sampleOtp true [(0x1100000, sampleImage)] true == some (true, sampleImage) && bootSlot sampleOtp false [(0, sampleImage)] true == some (false, sampleImage)
    && bootSlot sampleOtp false [] true == none && bootSlot sampleOtp true [(0x100000, { sampleImage with version := 0 }), (0x1100000, sampleImage)] true == some (true, sampleImage)) = true := by decide +kernel
/-- Kickoff in its steps: each starts where the one before has ended. -/
theorem test_meets_Kickoff : let s (f : Sys → Sys) : State := { up with sys := f up.sys }; let u := up.setFld HIF_STAT HIF_STAT_UMPIRE_UP 1
    let c := s (fun x => { x with written := true, coachImg := true }); let r := (s (fun x => { x with huddleEnd := true, bist := true })).setFld HIF_STAT HIF_STAT_COACH_UP 1
    State.reset.sys.released = false ∧ up.sys.released = true ∧ up.kickStopped = false ∧ up.umpireUp = false ∧ u.umpireUp = true ∧ u.kickStopped = false ∧ u.sys.trained = false ∧ u.sys.bist = false
    ∧ (s (fun x => { x with trained := true })).sys.trained = true ∧ (s (fun x => { x with trained := true })).sys.written = false ∧ (s (fun x => { x with trained := true })).sys.coachImg = false
    ∧ c.on HIF_STAT HIF_STAT_COACH_UP = false ∧ c.sys.coachDown = none ∧ c.sys.written = true ∧ c.sys.coachImg = true ∧ c.sys.coachRan = false
    ∧ (up.stopKick 1 0).kickStopped = true ∧ (up.stopKick 1 0).sys.released = true
    ∧ r.kickStopped = false ∧ r.isReady = false ∧ r.on HIF_STAT HIF_STAT_COACH_UP = true ∧ r.sys.huddleEnd = true ∧ r.sys.bist = true ∧ r.sys.warm = none := by decide +kernel
theorem test_meets_TempoSensorsSnapshots : let s (low quiet : Nat) : State := { (pitch.setFld (PIT_TILE_TEMPO 0) PIT_TILE_TEMPO_MAPPED 1) with gov := { on := true, low := some low, quiet := quiet, products := [], vout := [] } }
    (s 0 0).slowest = some (0, 0) ∧ (s 0 0).gov.products = [] ∧ (s 0 0).gov.low = some 0 ∧ (s 0 0).governs = true ∧ (s 0 0).on PIT_GOV_CFG PIT_GOV_CFG_MODE = false ∧ 100 * 0 < 8000 * (100 + (s 0 0).margin)
    ∧ 8000 * (100 + 2 * (s 60000 9).margin) ≤ 100 * 60000 ∧ 9 ≤ (s 60000 9).gov.quiet ∧ (s 60000 0).gov.quiet < 9 ∧ (s 60000 9).governs = true ∧ host.gov.low = none ∧ host.governs = false
    ∧ (let f := host.setFld PIT_GOV_CFG PIT_GOV_CFG_MODE 1; f.on PIT_GOV_CFG PIT_GOV_CFG_MODE = true ∧ 1023 ≠ f.fld PIT_GOV_FIXED PIT_GOV_FIXED_V_FIXED_MV) := by decide +kernel
theorem test_meets_TempoSensorsSnapshots_snap : let s := (host.setFld SNP_CTL SNP_CTL_PIN_EN 1).setFld SNP_STAT SNP_STAT_ARMED 1
    let t (cmp : Nat) : State := ((host.setFld SNP_CTL SNP_CTL_TIME_EN 1).setFld SNP_STAT SNP_STAT_ARMED 1).setPair SNP_TIME_CMP_LO cmp
    let b := host.setFld SNP_STAT SNP_STAT_BUSY 1
    s.on SNP_CTL SNP_CTL_PIN_EN = true ∧ s.on SNP_STAT SNP_STAT_ARMED = true ∧ host.on SNP_CTL SNP_CTL_PIN_EN = false
    ∧ (t 0).on SNP_CTL SNP_CTL_TIME_EN = true ∧ 0 ≤ sdiff 64 (t 0).now.toNat ((t 0).pair SNP_TIME_CMP_LO) ∧ (t 0).on SNP_STAT SNP_STAT_ARMED = true ∧ sdiff 64 (t 5).now.toNat ((t 5).pair SNP_TIME_CMP_LO) < 0
    ∧ (let j : State := { host.setFld SNP_CTL SNP_CTL_PIN_EN 1 with snp := { host.snp with lastTrig := some 65536 } }; j.on SNP_CTL SNP_CTL_PIN_EN = true ∧ j.on SNP_STAT SNP_STAT_ARMED = false ∧ j.snp.lastTrig = some 65536 ∧ ns48 (65536 : Stamp) = ns48 (65537 : Stamp) ∧ ns48 (65536 : Stamp) ≠ ns48 (0 : Stamp))
    ∧ host.on SNP_STAT SNP_STAT_BUSY = false ∧ (host.setFld SNP_CTL SNP_CTL_PIN_EN 1).snp.lastTrig = none
    ∧ b.on SNP_STAT SNP_STAT_BUSY = true ∧ b.snp.waitTiles = [] ∧ b.pair SNP_BASE_LO / 4096 * 4096 + b.snapBytes.length ≤ dramBytes
    ∧ (host.fld SYS_THERM_CFG SYS_THERM_CFG_WARN_C : Int) ≤ (120 : BitVec 8).toInt ∧ (20 : BitVec 8).toInt < host.fld SYS_THERM_CFG SYS_THERM_CFG_WARN_C ∧ 115 ≤ (120 : BitVec 8).toInt ∧ (20 : BitVec 8).toInt < 115 := by decide +kernel
theorem test_meets_RetentionLossless : let xs := [0, 4095, 7, 7]; let ref := [1, 2, 3, 4]
    (∀ x ∈ xs, x < 4096) ∧ (∀ x ∈ ref, x < 4096) ∧ xs.length % 2 = 0 ∧ xs.length < 2 ^ 20 ∧ decodePlane xs.length (codePlane xs ref) ref = xs := by decide +kernel
theorem test_meets_IdleTick_eth : let s := { (host.setFld ETH_CFG ETH_CFG_EN 1).setFld ETH_STAT ETH_STAT_LINK_UP 1 with eth := { host.eth with queue := [zeros 32] } }
    s.pending = [] ∧ s.sys.released = true ∧ s.ethOn = true ∧ s.eth.queue = [zeros 32] ∧ host.eth.queue = [] := by decide +kernel

end Sys2Proof.Tests
end

section
/-! SUPPORT. The calibration table registers while BUSY is 1, and the block that BUSY counts as running (R13, R131-R133). -/

namespace Sys2Proof.Machine

/-! ### Reject bits -/

theorem bit_eq_testBit (v i : Nat) : bit v i = v.testBit i := by
  rw [bit, Nat.shiftRight_eq_div_pow, Nat.testBit_eq_decide_div_mod_eq, beq_eq_decide]

/-- A reject bit reads 1 once it is set (R577). -/
theorem State.bit_num_reject_same (s : State) (a : Nat) {i : Nat} (h : i < 32) : bit ((s.reject a i).num a) i = true := by
  have fits : (BitVec.ofNat 32 (2 ^ i)).toNat = 2 ^ i := by
    rw [BitVec.toNat_ofNat, Nat.mod_eq_of_lt (Nat.pow_lt_pow_right one_lt_two h)]
  rw [bit_eq_testBit, State.num, State.reject, State.reg_setReg_same, BitVec.toNat_or, fits, Nat.testBit_or,
    Nat.testBit_two_pow_self, Bool.or_true]

/-- A reject bit is all that a refused access leaves, so the queue and Norentum stand. -/
@[simp] theorem State.keeps_reject (s : State) (a i : Nat) : s.keeps (s.reject a i) = s.reject a i := rfl

/-! ### Host accesses while READY is 1 -/

/-- A host access acts while PORESET_N is released and READY reads 1 (R559). -/
theorem State.onHost_awake {s : State} (f : State → State) (h : s.awake) : s.onHost f = .next (s.keeps (f s)) := by
  obtain ⟨released, ready⟩ := h
  simp [State.onHost, released, ready, State.keeps]

/-- A register write is what `hostWrite` does at the offset, the offset being one of 26 bits (R4). -/
theorem exec_regWrite_ofNat {s : State} {a : Nat} (bytes : Nat) (v : Word) (h : s.awake) (ha : a < 2 ^ 26) :
    exec (.regWrite (BitVec.ofNat 26 a) bytes v) s = .next (s.keeps (s.hostWrite a bytes v)) := by
  obtain ⟨released, -⟩ := h
  have place : (BitVec.ofNat 26 a).toNat = a := by rw [BitVec.toNat_ofNat, Nat.mod_eq_of_lt ha]
  simp [exec, execRegWrite, released, place, State.keeps]

/-! ### The calibration table -/

/-- A write of CAL_TAB_DATA while BUSY is rejected (R133). -/
theorem State.tabWrite_of_busy {s : State} {n : Nat} (v : Word) (h : s.calBusy n = true) :
    s.tabWrite n v = s.reject (CAL_WR_REJECT n) 5 := if_pos h

/-- A write of CAL_TAB_COMMIT while BUSY is rejected (R133). -/
theorem State.tabCommit_of_busy {s : State} {n : Nat} (h : s.calBusy n = true) :
    s.tabCommit n = s.reject (CAL_WR_REJECT n) 6 := if_pos h

/-- A host write of CAL_TAB_DATA is a write of the table entry (R131). -/
theorem State.hostWrite_calTabData {s : State} (n : Fin 4) (v : Word) (ready : s.isReady = true) :
    s.hostWrite (CAL_TAB_DATA n) 4 v = s.tabWrite n v := by
  have aligned : CAL_TAB_DATA n % 4 = 0 := by simp only [CAL_TAB_DATA]; omega
  have block : CAL_TAB_DATA n / 0x100000 = 2 := by simp only [CAL_TAB_DATA]; omega
  have notLin : CAL_TAB_DATA 0 ≠ LIN_PORT_CTL 0 := by decide
  have notCtl : CAL_TAB_DATA 0 ≠ CAL_CTL 0 := by decide
  simp [State.hostWrite, aligned, block, findReg_calTabData, ready, notLin, notCtl]

/-- A host write of CAL_TAB_COMMIT commits where COMMIT is written 1, and reaches the refusal while BUSY whatever is written (R132, R133). -/
theorem State.hostWrite_calTabCommit {s : State} (n : Fin 4) (v : Word) (ready : s.isReady = true) :
    s.hostWrite (CAL_TAB_COMMIT n) 4 v = if fget v CAL_TAB_COMMIT_COMMIT = 1 || s.calBusy n then s.tabCommit n else s := by
  have aligned : CAL_TAB_COMMIT n % 4 = 0 := by simp only [CAL_TAB_COMMIT]; omega
  have block : CAL_TAB_COMMIT n / 0x100000 = 2 := by simp only [CAL_TAB_COMMIT]; omega
  have notLin : CAL_TAB_COMMIT 0 ≠ LIN_PORT_CTL 0 := by decide
  have notCtl : CAL_TAB_COMMIT 0 ≠ CAL_CTL 0 := by decide
  have notData : CAL_TAB_COMMIT 0 ≠ CAL_TAB_DATA 0 := by decide
  simp [State.hostWrite, aligned, block, findReg_calTabCommit, ready, notLin, notCtl, notData]

/-- The offsets of CAL port `n` belong to a block that runs while BUSY is 1 (R133). -/
theorem State.blockRuns_calPort (s : State) (n : Fin 4) {a : Nat} (h : a / 0x10000 = 0x28 + n.val) : s.blockRuns a = s.calBusy n := by
  have block : a / 0x100000 = 2 := by omega
  have pastLin : ¬ a < 0x240000 := by omega
  have inCal : ¬ a < 0x280000 := by omega
  have port : (a - 0x280000) / 0x10000 = n.val := by omega
  simp [State.blockRuns, block, pastLin, inCal, port]

/-- Settles O23: both command forms reach `tabWrite` and `tabCommit`, which BUSY turns into the reject bit alone; the running block is read off the offset. -/
theorem calBusyRejects : Obligations.CalBusyRejects := by
  unfold Obligations.CalBusyRejects
  intro s n v awake
  have ready : s.isReady = true := awake.2
  refine ⟨fun busy => ⟨?tabWrite, ?commit, ?regData, ?regCommit, ?dataBit, ?commitBit⟩, fun a => s.blockRuns_calPort n⟩
  case tabWrite =>
    rw [exec, execCalTabWrite, State.onHost_awake _ awake, State.tabWrite_of_busy v busy, State.keeps_reject]
  case commit =>
    rw [exec, execCalCommit, State.onHost_awake _ awake, State.tabCommit_of_busy busy, State.keeps_reject]
  case regData =>
    have inBar : CAL_TAB_DATA n < 2 ^ 26 := by simp only [CAL_TAB_DATA]; omega
    rw [exec_regWrite_ofNat 4 v awake inBar, State.hostWrite_calTabData n v ready, State.tabWrite_of_busy v busy, State.keeps_reject]
  case regCommit =>
    have inBar : CAL_TAB_COMMIT n < 2 ^ 26 := by simp only [CAL_TAB_COMMIT]; omega
    rw [exec_regWrite_ofNat 4 v awake inBar, State.hostWrite_calTabCommit n v ready, busy, Bool.or_true, if_pos rfl,
      State.tabCommit_of_busy busy, State.keeps_reject]
  case dataBit => exact s.bit_num_reject_same _ (by decide)
  case commitBit => exact s.bit_num_reject_same _ (by decide)

end Sys2Proof.Machine
end

section
/-! SUPPORT. The words of the time that a host reads, and what a read of TIM_NOW_LO latches (R5, R464). -/

namespace Sys2Proof.Machine

/-! ### The registers of the time -/

theorem findReg_timNowHi :
    findReg TIM_NOW_HI = some (⟨TIM_NOW_HI, 1, 0x0, 1, 0x0, .hi, none, false, [⟨TIM_NOW_HI_NOW, .ro, .val 0, .none⟩]⟩, 0, 0) := by
  decide

theorem findReg_timTaiLo :
    findReg TIM_TAI_LO = some (⟨TIM_TAI_LO, 1, 0x0, 1, 0x0, .one, none, false, [⟨TIM_TAI_LO_TAI_SEC, .ro, .val 0, .none⟩]⟩, 0, 0) := by
  decide

theorem findReg_timTaiHi :
    findReg TIM_TAI_HI = some (⟨TIM_TAI_HI, 1, 0x0, 1, 0x0, .one, none, false,
      [⟨TIM_TAI_HI_EPOCH, .ro, .val 0, .none⟩, ⟨TIM_TAI_HI_TAI_SEC, .ro, .val 0, .none⟩]⟩, 0, 0) := by
  decide

/-! ### What the host reads of them -/

/-- A register without write-only bits reads as its whole word (R7). -/
theorem maskWo_of_no_wo {fs : List FieldD} (w : Word) (h : ∀ f ∈ fs, f.acc ≠ .wo) : maskWo fs w = w := by
  induction fs with
  | nil => rfl
  | cons f fs ih =>
    rw [maskWo, List.foldl_cons, if_neg (h f List.mem_cons_self)]
    exact ih fun g hg => h g (List.mem_cons_of_mem f hg)

/-- A register of the map, outside Norentum's block and without write-only bits, reads as its view (R5-R7). -/
theorem State.readReg_of_findReg {s : State} {a i j : Nat} {d : RegD} (found : findReg a = some (d, i, j))
    (main : a / 0x100000 ≠ 10) (noWo : ∀ f ∈ d.fields, f.acc ≠ .wo) : s.readReg a = s.view a := by
  rw [State.readReg, if_neg main, found]
  exact maskWo_of_no_wo _ noWo

theorem State.readReg_timNowLo (s : State) : s.readReg TIM_NOW_LO = BitVec.ofNat 32 s.tim.now.toNat := by
  rw [State.readReg_of_findReg findReg_timNowLo (by decide) (by decide)]
  rfl

theorem State.readReg_timNowHi (s : State) : s.readReg TIM_NOW_HI = BitVec.ofNat 32 (s.tim.now.toNat / 2 ^ 32) := by
  rw [State.readReg_of_findReg findReg_timNowHi (by decide) (by decide)]
  rfl

theorem State.readReg_timTaiLo (s : State) : s.readReg TIM_TAI_LO = BitVec.ofNat 32 s.tim.tai := by
  rw [State.readReg_of_findReg findReg_timTaiLo (by decide) (by decide)]
  rfl

theorem State.readReg_timTaiHi (s : State) :
    s.readReg TIM_TAI_HI = fset (s.reg TIM_TAI_HI) TIM_TAI_HI_TAI_SEC (s.tim.tai / 2 ^ 32) := by
  rw [State.readReg_of_findReg findReg_timTaiHi (by decide) (by decide)]
  rfl

/-- The two TAI words spell the TAI seconds, 48 bits of them (R482). -/
theorem State.readReg_tai_seconds (s : State) :
    fget (s.readReg TIM_TAI_LO) TIM_TAI_LO_TAI_SEC + 2 ^ 32 * fget (s.readReg TIM_TAI_HI) TIM_TAI_HI_TAI_SEC = s.tim.tai % 2 ^ 48 := by
  have low : fget (s.readReg TIM_TAI_LO) TIM_TAI_LO_TAI_SEC = s.tim.tai % 2 ^ 32 := by
    rw [State.readReg_timTaiLo]
    simp [fget, TIM_TAI_LO_TAI_SEC]
  have high : fget (s.readReg TIM_TAI_HI) TIM_TAI_HI_TAI_SEC = s.tim.tai / 2 ^ 32 % 2 ^ 16 := by
    rw [State.readReg_timTaiHi]
    exact fget_fset_same _ _ _ (by decide) (by decide)
  rw [low, high]
  omega

/-! ### The read that latches them -/

/-- What a register reads as depends neither on the data of the last read nor on what is latched. -/
@[simp] theorem State.readReg_latched (s : State) (v : Word) (l : Tbl Word) (a : Nat) :
    ({ s with rdata := v, hiLatch := l } : State).readReg a = s.readReg a := rfl

/-- The words latched once TIM_NOW_LO is read (R464). -/
def State.timLatch (s : State) : Tbl Word :=
  tput (tput (tput s.hiLatch TIM_NOW_HI (s.readReg TIM_NOW_HI)) TIM_TAI_LO (s.readReg TIM_TAI_LO)) TIM_TAI_HI (s.readReg TIM_TAI_HI)

theorem State.tfind_timLatch_nowHi (s : State) : tfind s.timLatch TIM_NOW_HI = some (s.readReg TIM_NOW_HI) := by
  rw [State.timLatch, tfind_tput_ne _ _ (by decide), tfind_tput_ne _ _ (by decide), tfind_tput_same]

theorem State.tfind_timLatch_taiLo (s : State) : tfind s.timLatch TIM_TAI_LO = some (s.readReg TIM_TAI_LO) := by
  rw [State.timLatch, tfind_tput_ne _ _ (by decide), tfind_tput_same]

theorem State.tfind_timLatch_taiHi (s : State) : tfind s.timLatch TIM_TAI_HI = some (s.readReg TIM_TAI_HI) := by
  rw [State.timLatch, tfind_tput_same]

/-- A host read of TIM_NOW_LO returns it and latches the other words of the time (R464). -/
theorem State.hostRead_timNowLo {s : State} (ready : s.isReady = true) :
    s.hostRead TIM_NOW_LO 4 = { s with rdata := s.readReg TIM_NOW_LO, hiLatch := s.timLatch } := by
  have aligned : TIM_NOW_LO % 4 = 0 := by decide
  have notTab : TIM_NOW_LO ≠ CAL_TAB_DATA 0 := by decide
  have notPop : TIM_NOW_LO ≠ TIM_PORT_POP 0 := by decide
  simp [State.hostRead, ready, aligned, findReg_timNowLo, notTab, notPop, State.readLatch, State.timLatch]

/-- Settles O16: the read answers the low word and latches the other three, each as it reads in the state before. -/
theorem timNowLatch : Obligations.TimNowLatch := by
  unfold Obligations.TimNowLatch
  intro s awake
  obtain ⟨released, ready⟩ := awake
  have run : exec .timNowRead s = .next { s with rdata := BitVec.ofNat 32 s.tim.now.toNat, hiLatch := s.timLatch } := by
    rw [exec, execTimNowRead, State.onMain_released _ released, State.hostRead_timNowLo ready, State.readReg_timNowLo]
  have nowHi : tfind s.timLatch TIM_NOW_HI = some (BitVec.ofNat 32 (s.tim.now.toNat / 2 ^ 32)) := by
    rw [State.tfind_timLatch_nowHi, State.readReg_timNowHi]
  exact ⟨_, run, rfl, nowHi, s.tfind_timLatch_taiLo, s.tfind_timLatch_taiHi, s.readReg_tai_seconds⟩

end Sys2Proof.Machine
end

section
/-! SUPPORT. A write of a counter register that a write of 0 clears reaches none of the writes that do more, so a value other than 0 has no effect (R579). -/

namespace Sys2Proof.Machine

/-! ### The registers that a search finds -/

theorem mem_of_findIn {l : List RegD} {a i j : Nat} {d : RegD} (found : findIn l a = some (d, i, j)) : d ∈ l := by
  induction l with
  | nil => cases found
  | cons e l ih =>
    rw [findIn] at found
    split at found
    · cases found
      exact List.mem_cons_self
    · exact List.mem_cons_of_mem e (ih found)

theorem blockRegs_subset_regTable (a : Nat) : blockRegs a ⊆ regTable := by
  intro d mem
  simp only [regTable, List.mem_append]
  rw [blockRegs] at mem
  split at mem
  case h_3 => split at mem <;> simp only [mem, true_or, or_true]
  case h_15 => cases mem
  all_goals simp only [mem, true_or, or_true]

theorem mem_regTable_of_findReg {a i j : Nat} {d : RegD} (found : findReg a = some (d, i, j)) : d ∈ regTable :=
  blockRegs_subset_regTable a (mem_of_findIn found)

/-! ### Writes that do no more than put the fields -/

/-- The registers whose write `hostWrite` answers with an act of its own. -/
def actingBases : List Nat :=
  [LIN_PORT_CTL 0, CAL_CTL 0, CAL_TAB_DATA 0, CAL_TAB_COMMIT 0, HIF_SQ_CFG 0, HIF_SQ_TAIL 0, HIF_RING_CFG 0, HIF_RING_HEAD 0, SCH_SB_SEL,
    SCH_SB_CLR, SNP_CTL, PIT_GOV_CFG, PIT_GOV_VLIM, PIT_GOV_FIXED, PIT_PWR_CAP, SYS_PWR_CTL, SYS_THERM, KOL_PORT_CTL 0, ETH_CFG, LIN_BAR_CFG 0]

/-- The registers, but for IRQ_STAT and IRQ_EN, whose write `afterWrite` follows up. -/
def followedBases : List Nat :=
  [HIF_RESULT_BUDGET, PGM_ITEM_LC_RESERVE, LIN_RET_SIZE 0, TIM_CFG, PIT_GOV_STAT, LIN_ENC_CFG 0, LIN_ENC_LIMIT 0]

/-- An aligned write of a register without an act of its own puts its fields and what follows from them, outside Norentum's block and while READY is 1. -/
theorem State.hostWrite_of_not_acting {s : State} {a i j : Nat} {d : RegD} (v : Word) (found : findReg a = some (d, i, j))
    (plain : d.base ∉ actingBases) :
    s.hostWrite a 4 v =
      if a % 4 ≠ 0 ∨ a / 0x100000 = 10 ∨ s.isReady = false then s else (s.plainWrite d a v).afterWrite d.base a i := by
  simp only [actingBases, List.mem_cons, List.not_mem_nil, or_false, not_or] at plain
  by_cases reached : a % 4 ≠ 0 ∨ a / 0x100000 = 10
  · simp [State.hostWrite, reached, ← or_assoc]
  · cases ready : s.isReady <;> simp [State.hostWrite, reached, found, plain, ready]

/-- Whether a register is an IRQ_STAT or IRQ_EN is told by its base alone. -/
theorem irqStatOf_eq_none {b : Nat} (a a' : Nat) (h : irqStatOf b a = none) : irqStatOf b a' = none := by
  simp only [irqStatOf] at h ⊢
  split_ifs at h ⊢
  rfl

theorem State.afterWrite_of_not_followed {s : State} {b a : Nat} (i : Nat) (noIrq : irqStatOf b a = none) (plain : b ∉ followedBases) :
    s.afterWrite b a i = s := by
  simp only [followedBases, List.mem_cons, List.not_mem_nil, or_false, not_or] at plain
  simp [State.afterWrite, noIrq, plain]

/-! ### The counters -/

/-- No counter that a write of 0 clears is a register whose write does more. -/
theorem counter_base_plain : ∀ d ∈ regTable, d.clr = true → d.base ∉ actingBases ∧ d.base ∉ followedBases ∧ irqStatOf d.base 0 = none := by
  decide +kernel

/-- The fields of a counter take no value other than 0. -/
theorem State.plainWrite_counter {s : State} {d : RegD} {v : Word} (a : Nat) (counter : d.clr = true) (nonzero : v ≠ 0) :
    s.plainWrite d a v = s := by
  rw [State.plainWrite, if_pos counter, if_neg nonzero]

/-- A host write of a value other than 0 leaves a counter, and all else, as it stands (R579). -/
theorem State.hostWrite_counter {s : State} {a i j : Nat} {d : RegD} {v : Word} (found : findReg a = some (d, i, j))
    (counter : d.clr = true) (nonzero : v ≠ 0) : s.hostWrite a 4 v = s := by
  obtain ⟨notActing, notFollowed, noIrq⟩ := counter_base_plain d (mem_regTable_of_findReg found) counter
  rw [State.hostWrite_of_not_acting v found notActing, State.plainWrite_counter a counter nonzero,
    State.afterWrite_of_not_followed i (irqStatOf_eq_none 0 a noIrq) notFollowed, ite_self]

/-- Settles O17: COUNTER_CLEAR and REG_WRITE both come to a host write of the counter, which leaves the state. -/
theorem counterWriteIgnored : Obligations.CounterWriteIgnored := by
  unfold Obligations.CounterWriteIgnored
  intro s a d i j v released found counter nonzero
  have ignored : s.hostWrite a.toNat 4 v = s := State.hostWrite_counter found counter nonzero
  constructor
  · simp only [exec, execCounterClear, State.onMain_released _ released, found, counter, if_true, ignored]
  · simp only [exec, execRegWrite, State.onMain_released _ released, ignored]

end Sys2Proof.Machine
end

section
/-! SUPPORT. One nanosecond of the clock and Norentum: nothing that passes by itself reaches more of Norentum than its counters (R138, R140, R168). -/

namespace Sys2Proof.Machine

/-- A fold keeps what every element keeps. -/
theorem foldl_keeps {α β γ : Type} {f : α → β → α} (g : α → γ) (h : ∀ s x, g (f s x) = g s) (l : List β) (s : α) :
    g (l.foldl f s) = g s := by
  induction l generalizing s with
  | nil => rfl
  | cons x l ih => rw [List.foldl_cons, ih, h]

/-! ### What the Koliad sender leaves -/

@[simp] theorem State.modKport_met (s : State) (n : Nat) (f : KPort → KPort) : (s.modKport n f).met = s.met := (rfl)
@[simp] theorem State.modTport_met (s : State) (n : Nat) (f : TPort → TPort) : (s.modTport n f).met = s.met := (rfl)
@[simp] theorem State.setKport_met (s : State) (n : Nat) (p : KPort) : (s.setKport n p).met = s.met := (rfl)
@[simp] theorem State.bumpMsg_met (s : State) : s.bumpMsg.met = s.met := (rfl)
@[simp] theorem State.setFld_met (s : State) (a : Nat) (f : Fld) (v : Nat) : (s.setFld a f v).met = s.met := (rfl)
@[simp] theorem State.setBit_met (s : State) (a : Nat) (f : Fld) (v : Bool) : (s.setBit a f v).met = s.met := (rfl)
@[simp] theorem State.incFld_met (s : State) (a : Nat) (f : Fld) (n : Nat) : (s.incFld a f n).met = s.met := (rfl)
@[simp] theorem State.incReg_met (s : State) (a n : Nat) : (s.incReg a n).met = s.met := (rfl)

@[simp] theorem State.message_met (s : State) (v : Nat) : (s.message v).met = s.met := by
  unfold State.message; split <;> rfl

@[simp] theorem State.raise_met (s : State) (a i : Nat) : (s.raise a i).met = s.met := by
  unfold State.raise State.sendIrq; dsimp only; split
  · rw [State.message_met]; rfl
  · rfl

@[simp] theorem State.timeSent_met (s : State) (n : Nat) (f : RFlit) : (s.timeSent n f).met = s.met := by
  unfold State.timeSent; dsimp only; split_ifs <;> rfl

@[simp] theorem State.freeBuffer_met (s : State) (n v : Nat) : (s.freeBuffer n v).met = s.met := by
  unfold State.freeBuffer; split <;> rfl

@[simp] theorem State.sendOne_met (s : State) (n : Nat) : (s.sendOne n).met = s.met := by
  unfold State.sendOne
  dsimp only
  split
  · rfl
  · split
    · rfl
    · split
      · rfl
      · split <;> simp

@[simp] theorem State.pumpN_met (k n : Nat) (s : State) : (State.pumpN k n s).met = s.met := by
  induction k generalizing s with
  | zero => rfl
  | succ k ih => rw [State.pumpN, ih, State.sendOne_met]

@[simp] theorem State.queueFlits_met (s : State) (n : Nat) (fs : List RFlit) : (s.queueFlits n fs).met = s.met := by
  rw [State.queueFlits, State.pump, State.pumpN_met, State.modKport_met]

@[simp] theorem State.sendTo_met (s : State) (d v : Nat) (b : List Byte) (p : Option Nat) : (s.sendTo d v b p).met = s.met := by
  unfold State.sendTo State.sendRouted
  split
  · rfl
  · split <;> simp

@[simp] theorem State.relay_met (s : State) (k i : Nat) (b : List Byte) : (s.relay k i b).met = s.met := by
  unfold State.relay
  split
  · rfl
  · dsimp only; split <;> simp

/-! ### What the hold and the Ethernet path leave -/

@[simp] theorem State.written_met (s : State) (i : Nat) (f : Bool) (ps : List (List Byte)) : (s.written i f ps).met = s.met := by
  unfold State.written
  split
  · rfl
  · split
    · rfl
    · dsimp only; split
      · rw [foldl_keeps State.met (fun s b => s.relay_met _ _ b)]
      · rfl

@[simp] theorem State.udpOne_met (s : State) (l : List Byte) : (s.udpOne l).met = s.met := by
  unfold State.udpOne; dsimp only; split <;> rfl

@[simp] theorem State.udpSend_met (s : State) (ps : List (List Byte)) : (s.udpSend ps).met = s.met :=
  foldl_keeps State.met State.udpOne_met ps s

@[simp] theorem State.stallCheck_met (s : State) : s.stallCheck.met = s.met := by
  unfold State.stallCheck; dsimp only; split_ifs <;> simp

@[simp] theorem State.divertHold_met (s : State) : s.divertHold.met = s.met := by
  unfold State.divertHold
  dsimp only
  split
  · apply foldl_keeps
    intro s h
    split
    · split <;> simp
    · rfl
  · rfl

/-! ### What the item table leaves -/

@[simp] theorem State.keepEnd_met (s : State) (i : Nat) : (s.keepEnd i).met = s.met := by
  unfold State.keepEnd; split
  · dsimp only; split <;> rfl
  · rfl

@[simp] theorem State.releasePages_met (s : State) (i : Nat) : (s.releasePages i).met = s.met := by
  unfold State.releasePages; split
  · rfl
  · exact foldl_keeps State.met (f := State.unref) (fun _ _ => rfl) _ s

@[simp] theorem State.mergeRegion_met (s : State) (i : Nat) : (s.mergeRegion i).met = s.met := by
  unfold State.mergeRegion; split <;> rfl

@[simp] theorem State.freeItem_met (s : State) (i : Nat) : (s.freeItem i).met = s.met := by
  have kept : (((s.keepEnd i).releasePages i).mergeRegion i).met = s.met := by simp
  unfold State.freeItem
  dsimp only
  split <;> exact kept

@[simp] theorem State.tidyOnce_met (s : State) : s.tidyOnce.met = s.met := by
  unfold State.tidyOnce
  apply foldl_keeps
  intro s x
  split <;> simp

@[simp] theorem State.freshRet_met (s : State) : s.freshRet.met = s.met := by
  unfold State.freshRet
  apply foldl_keeps
  intro s x
  split <;> simp

@[simp] theorem State.startImage_met (s : State) : s.startImage.met = s.met := by
  unfold State.startImage
  dsimp only
  split
  · rfl
  · split
    · rfl
    · split <;> rfl

@[simp] theorem State.tidy_met (s : State) : s.tidy.met = s.met := by simp [State.tidy]

/-! ### What a nanosecond leaves -/

@[simp] theorem State.timeTick_met (s : State) : s.timeTick.met = s.met := by
  unfold State.timeTick; dsimp only; split_ifs <;> rfl

@[simp] theorem State.parentCheck_met (s : State) (r : Bool) : (s.parentCheck r).met = s.met := by
  unfold State.parentCheck
  dsimp only
  split
  · rfl
  · split
    · rfl
    · split <;> rfl

@[simp] theorem State.announceTick_met (s : State) : s.announceTick.met = s.met := by
  unfold State.announceTick; split <;> simp

@[simp] theorem State.ethTick_met (s : State) : s.ethTick.met = s.met := by
  unfold State.ethTick
  split
  · rfl
  · dsimp only; split <;> simp

@[simp] theorem State.retTick_met (s : State) : s.retTick.met = s.met := by
  unfold State.retTick State.retServe
  dsimp only [State.free]
  split
  · rfl
  · split
    · split <;> rfl
    · rfl

@[simp] theorem State.codewordTick_met (s : State) : s.codewordTick.met = s.met := by
  unfold State.codewordTick
  split
  · rfl
  · apply foldl_keeps
    intro s n
    split <;> rfl

@[simp] theorem State.pauseTick_met (s : State) : s.pauseTick.met = s.met := (rfl)

@[simp] theorem State.txnTick_met (s : State) : s.txnTick.met = s.met := by
  unfold State.txnTick; split <;> rfl

/-- Of one nanosecond Norentum sees its own counters alone (R138). -/
@[simp] theorem tick_met (s : State) : (tick s).met = s.metTick.met := by
  unfold tick; dsimp only; split <;> simp

end Sys2Proof.Machine
end

section
/-! SUPPORT. What the commands of Norentum keep, and the three invariants of every step (R137, R138, R156-R164, R167). -/

namespace Sys2Proof.Machine

/-! ### What endures of Norentum -/

/-- What the invariants speak of: the state with the accepted SEAL_N, the log, the events, the committed set and the image. -/
structure MetLasting where
  state : MetState
  sealKnown : Bool
  sealLow : Bool
  log : List (List Byte)
  events : Nat
  committed : Tbl Int
  image : List Byte
  imageSet : Bool

def Met.lasting (m : Met) : MetLasting where
  state := m.state
  sealKnown := m.sealKnown
  sealLow := m.sealLow
  log := m.log
  events := m.events
  committed := m.committed
  image := m.image
  imageSet := m.imageSet

/-- What any change of Norentum keeps: a legal state stays legal, the log is continued, events only count up, and in SEALED the committed set, the image and the events stay. -/
structure Met.Kept (m m' : Met) : Prop where
  legal : m.legal → m'.legal
  log : m.log <+: m'.log
  events : m.events ≤ m'.events
  sealed : m.state = .sealed → m'.committed = m.committed ∧ m'.image = m.image ∧ m'.imageSet = m.imageSet ∧ m'.events = m.events

/-- Being kept is a matter of what lasts alone. -/
theorem Met.kept_congr {a a' b b' : Met} (ha : a'.lasting = a.lasting) (hb : b'.lasting = b.lasting) (h : a.Kept b) : a'.Kept b' := by
  simp only [Met.lasting, MetLasting.mk.injEq] at ha hb
  obtain ⟨s₁, k₁, l₁, log₁, e₁, c₁, i₁, j₁⟩ := ha
  obtain ⟨s₂, k₂, l₂, log₂, e₂, c₂, i₂, j₂⟩ := hb
  obtain ⟨legal, log, events, sealed⟩ := h
  unfold Met.legal at legal
  constructor
  · unfold Met.legal; rw [s₁, k₁, l₁, log₁, s₂, k₂, l₂, log₂]; exact legal
  · rw [log₁, log₂]; exact log
  · rw [e₁, e₂]; exact events
  · rw [s₁, c₁, i₁, j₁, e₁, c₂, i₂, j₂, e₂]; exact sealed

theorem Met.Kept.refl (m : Met) : m.Kept m := ⟨id, List.prefix_rfl, le_rfl, fun _ => ⟨rfl, rfl, rfl, rfl⟩⟩

/-- Where all that lasts stays, everything is kept. -/
theorem Met.kept_of_lasting {m m' : Met} (h : m'.lasting = m.lasting) : m.Kept m' := Met.kept_congr rfl h (Met.Kept.refl m)

/-! ### The parts that touch nothing of it -/

@[simp] theorem Met.frame_lasting (m : Met) (t : Nat) (p : List Byte) : (m.frame t p).lasting = m.lasting := (rfl)
@[simp] theorem Met.ack_lasting (m : Met) (p : List Byte) : (m.ack p).lasting = m.lasting := (rfl)
@[simp] theorem Met.nak_lasting (m : Met) (r : Nat) : (m.nak r).lasting = m.lasting := (rfl)
@[simp] theorem Met.mapMeas_lasting (m : Met) (f : Meas → Meas) : (m.mapMeas f).lasting = m.lasting := (rfl)
@[simp] theorem Met.prune_lasting (m : Met) : (m.prune).lasting = m.lasting := (rfl)
@[simp] theorem Met.applyParams_lasting (m : Met) (p : PinLevels) : (m.applyParams p).lasting = m.lasting := (rfl)
@[simp] theorem Met.startFilters_lasting (m : Met) (p : PinLevels) : (m.startFilters p).lasting = m.lasting := (rfl)
@[simp] theorem Met.interpTimeout_lasting (m : Met) (n : Nat) : (m.interpTimeout n).lasting = m.lasting := (rfl)

@[simp] theorem Met.tap_lasting (m : Met) (n : Nat) (x : Stamp) (c : Nat) (g : Bool) (px : List Nat) : (m.tap n x c g px).lasting = m.lasting := by
  unfold Met.tap; dsimp only; split <;> rfl

@[simp] theorem Met.applyStep_lasting (m : Met) (k : Nat) : (m.applyStep k).lasting = m.lasting := by
  unfold Met.applyStep; split <;> rfl

@[simp] theorem Met.takeStep_lasting (m : Met) (c : Int) (k : Nat) : (m.takeStep c k).lasting = m.lasting := by
  unfold Met.takeStep
  split
  · exact (Met.applyStep_lasting _ k).trans rfl
  · rfl

@[simp] theorem Met.timeZero_lasting (m : Met) : (m.timeZero).lasting = m.lasting := by
  unfold Met.timeZero; split_ifs <;> rfl

@[simp] theorem Met.encEdge_lasting (m : Met) (e : Nat) (a b : Bool) (x : Stamp) : (m.encEdge e a b x).lasting = m.lasting := by
  unfold Met.encEdge; dsimp only; split_ifs <;> rfl

@[simp] theorem Met.lead_lasting (m : Met) (n : Nat) (x : Stamp) : (m.lead n x).lasting = m.lasting := by
  unfold Met.lead; dsimp only; split <;> rfl

@[simp] theorem Met.trail_lasting (m : Met) (n : Nat) (x : Stamp) : (m.trail n x).lasting = m.lasting := by
  unfold Met.trail; dsimp only; split <;> rfl

@[simp] theorem State.metRecord_lasting (s : State) (n : Nat) : (s.metRecord n).met.lasting = s.met.lasting := by
  unfold State.metRecord
  dsimp only
  split
  · rfl
  · split <;> rfl

@[simp] theorem State.metTick_lasting (s : State) : s.metTick.met.lasting = s.met.lasting := by
  cases on : s.met.on
  · simp [State.metTick, on]
  · simp only [State.metTick, on, Bool.not_true, if_true, Bool.false_eq_true, if_false]
    split <;> rfl

/-! ### The UART commands -/

@[simp] theorem Met.stage_lasting (m : Met) (p : List Byte) : (m.stage p).lasting = m.lasting := by
  unfold Met.stage
  split
  · exact m.nak_lasting _
  · extract_lets n no v
    split <;> rfl

@[simp] theorem Met.discard_lasting (m : Met) (p : List Byte) : (m.discard p).lasting = m.lasting := by
  unfold Met.discard
  split
  · exact m.nak_lasting _
  · split <;> rfl

@[simp] theorem Met.imageBlock_lasting (m : Met) (p : List Byte) : (m.imageBlock p).lasting = m.lasting := by
  unfold Met.imageBlock
  split
  · exact m.nak_lasting _
  · split <;> rfl

@[simp] theorem Met.readLog_lasting (m : Met) (p : List Byte) : (m.readLog p).lasting = m.lasting := by
  unfold Met.readLog; dsimp only; split <;> rfl

@[simp] theorem Met.verify_lasting (m : Met) (p : List Byte) : (m.verify p).lasting = m.lasting := by
  unfold Met.verify; split <;> rfl

@[simp] theorem Met.unknown_lasting (m : Met) (y : Byte) : (m.unknown y).lasting = m.lasting := by
  unfold Met.unknown; split <;> rfl

/-! ### Log entries -/

/-- An entry joins the log's end, or the log is full and stays (R161). -/
theorem Met.append_eq (m : Met) (y d o n : Nat) : ∃ l, m.append y d o n = { m with log := l } ∧
    (m.logFull = true → l = m.log) ∧ (m.logFull = false → ∃ e, l = m.log ++ [e] ∧ e.getD 2 0 = BitVec.ofNat 8 y) := by
  unfold Met.append
  cases full : m.logFull
  · exact ⟨_, rfl, nofun, fun _ => ⟨_, rfl, rfl⟩⟩
  · exact ⟨m.log, rfl, fun _ => rfl, nofun⟩

theorem Met.append_log_prefix (m : Met) (y d o n : Nat) : m.log <+: (m.append y d o n).log := by
  obtain ⟨l, eq, full, room⟩ := m.append_eq y d o n
  rw [eq]
  cases h : m.logFull
  · obtain ⟨e, rfl, -⟩ := room h
    exact List.prefix_append _ _
  · rw [full h]

theorem Met.append_log_fits (m : Met) (y d o n : Nat) (h : m.log.length ≤ 1024) : (m.append y d o n).log.length ≤ 1024 := by
  obtain ⟨l, eq, full, room⟩ := m.append_eq y d o n
  rw [eq]
  cases k : m.logFull
  · obtain ⟨e, rfl, -⟩ := room k
    have : m.log.length < 1024 := by simpa [Met.logFull] using k
    simpa using this
  · rw [full k]; exact h


/-- Putting down an entry keeps everything, whatever the state. -/
theorem Met.kept_append (m : Met) (y d o n : Nat) : m.Kept (m.append y d o n) := by
  have fits := m.append_log_fits y d o n
  have prefixed := m.append_log_prefix y d o n
  obtain ⟨l, eq, -⟩ := m.append_eq y d o n
  rw [eq] at fits prefixed ⊢
  exact ⟨fun ⟨len, low, high⟩ => ⟨fits len, low, high⟩, prefixed, le_rfl, fun _ => ⟨rfl, rfl, rfl, rfl⟩⟩

/-- A change is kept that leaves log and events of a state with a continued log, and enters a state that SEAL_N allows. -/
theorem Met.kept_of_append {m a b : Met} (h : m.Kept a) (log : b.log = a.log) (events : b.events = a.events)
    (low : m.legal → b.state = .sealed → b.sealKnown = true ∧ b.sealLow = true)
    (high : m.legal → b.state = .opened → b.sealKnown = true ∧ b.sealLow = false)
    (rest : m.state = .sealed → b.committed = a.committed ∧ b.image = a.image ∧ b.imageSet = a.imageSet) : m.Kept b where
  legal := fun x => ⟨by rw [log]; exact (h.legal x).1, low x, high x⟩
  log := by rw [log]; exact h.log
  events := by rw [events]; exact h.events
  sealed := fun x => by
    obtain ⟨c, i, j⟩ := rest x
    rw [c, i, j, events]; exact h.sealed x

/-- Changes follow one another outside SEALED. -/
theorem Met.Kept.trans {a b c : Met} (h : a.Kept b) (k : b.Kept c) (notSealed : a.state ≠ .sealed) : a.Kept c where
  legal := fun x => k.legal (h.legal x)
  log := h.log.trans k.log
  events := h.events.trans k.events
  sealed := fun x => absurd x notSealed

/-! ### The commands that change what lasts -/

/-- A command of change is refused in SEALED (R164). -/
theorem Met.refuses_of_sealed {m : Met} (image : Bool) (h : m.state = .sealed) : m.refuses image = some 1 := by
  unfold Met.refuses; rw [h]

/-- The core restarts in BOOT, which any seal allows; the rest of what lasts stays. -/
theorem Met.restart_lasting (m : Met) (p : PinLevels) : (m.restart p).lasting = { m.lasting with state := .boot } := (rfl)

theorem Met.Kept.restart {m a : Met} (h : m.Kept a) (p : PinLevels) : m.Kept (a.restart p) :=
  Met.kept_of_append h rfl rfl nofun nofun fun _ => ⟨rfl, rfl, rfl⟩

theorem Met.kept_commit (m : Met) (pl : List Byte) (p : PinLevels) : m.Kept (m.commit pl p) := by
  unfold Met.commit
  split
  next r _ => exact Met.kept_of_lasting (m.nak_lasting r)
  next accepted =>
    have notSealed : m.state ≠ .sealed := fun h => by rw [m.refuses_of_sealed false h] at accepted; cases accepted
    split
    · exact Met.kept_of_lasting (m.nak_lasting 3)
    split
    · exact Met.kept_of_lasting (m.nak_lasting 2)
    extract_lets old k repair new logged acked
    have counted : m.Kept new :=
      ⟨id, List.prefix_rfl, Nat.le_succ _, fun h => absurd h notSealed⟩
    have entered : m.Kept acked := Met.kept_congr rfl (logged.ack_lasting []) (counted.trans (new.kept_append _ _ _ _) notSealed)
    split
    · exact entered.restart p
    · exact Met.kept_congr (b := acked) rfl rfl entered

theorem Met.kept_imageEnd (m : Met) (pl : List Byte) (p : PinLevels) : m.Kept (m.imageEnd pl p) := by
  unfold Met.imageEnd
  split
  next r _ => exact Met.kept_of_lasting (m.nak_lasting r)
  next accepted =>
    have notSealed : m.state ≠ .sealed := fun h => by rw [m.refuses_of_sealed true h] at accepted; cases accepted
    split
    · exact Met.kept_of_lasting (m.nak_lasting 3)
    split
    · exact Met.kept_of_lasting (m.nak_lasting 2)
    split
    · exact Met.kept_of_lasting rfl
    extract_lets old new
    have taken : m.Kept new :=
      ⟨id, List.prefix_rfl, Nat.le_succ _, fun h => absurd h notSealed⟩
    exact Met.Kept.restart (Met.kept_congr rfl (Met.ack_lasting _ _) (taken.trans (new.kept_append _ _ _ _) notSealed)) p

/-- After verification the state is one that SEAL_N allows: FAULT, SEALED under a low level, OPEN under a high one (R156). -/
theorem Met.kept_enter (m : Met) : m.Kept m.enter := by
  unfold Met.enter
  extract_lets fault
  split
  · exact Met.Kept.refl m
  next boot =>
    obtain ⟨inBoot, -⟩ : m.state = .boot ∧ m.romDone = true := by simpa using boot
    have notSealed : m.state ≠ .sealed := by rw [inBoot]; nofun
    have faulted (c : Nat) : m.Kept (fault m c) := by
      have moved : m.Kept { m with state := .fault, cause := c } :=
        ⟨fun x => ⟨x.1, nofun, nofun⟩, List.prefix_rfl, le_rfl, fun h => absurd h notSealed⟩
      exact Met.kept_congr (b := Met.note _ 6 c) rfl rfl (moved.trans (Met.kept_append _ 6 c _ _) notSealed)
    split
    · exact faulted 2
    split
    · exact faulted 3
    split
    · exact faulted 4
    split
    · exact Met.Kept.refl m
    next known =>
      have known : m.sealKnown = true := by simpa using known
      constructor
      · rintro ⟨fits, -, -⟩
        refine ⟨fits, ?_, ?_⟩ <;> cases m.sealLow <;> simp [known]
      · exact List.prefix_rfl
      · exact le_rfl
      · exact fun h => absurd h notSealed


/-- Past boot, verification has been made. -/
theorem Met.enter_of_not_boot {m : Met} (h : m.state ≠ .boot) : m.enter = m := by
  unfold Met.enter
  rw [if_pos (by simp [h])]

/-- A log entry does not depend on the level of SEAL_N. -/
theorem Met.note_sealLow (m : Met) (low : Bool) (y d : Nat) : ({ m with sealLow := low }.note y d).lasting = { (m.note y d).lasting with sealLow := low } := by
  unfold Met.note Met.append
  rw [show ({ m with sealLow := low } : Met).logFull = m.logFull from rfl]
  split <;> rfl

@[simp] theorem Met.note_sealKnown (m : Met) (y d : Nat) : (m.note y d).sealKnown = m.sealKnown := by
  unfold Met.note Met.append; split <;> rfl

theorem Met.kept_bootDone (m : Met) (image params otp : Bool) : m.Kept (m.bootDone image params otp) := by
  unfold Met.bootDone
  split
  · exact Met.Kept.refl m
  next boot =>
    have notSealed : m.state ≠ .sealed := fun h => by rw [h] at boot; exact boot rfl
    extract_lets checked noted logged
    have checks : m.Kept checked := Met.kept_of_lasting rfl
    have powered : m.Kept logged := by
      unfold logged
      split
      · exact checks
      · exact Met.kept_congr (b := noted) rfl rfl (checks.trans (Met.kept_append _ 1 0 _ _) notSealed)
    exact powered.trans logged.kept_enter notSealed

/-- Power-on and the watchdog leave the core in BOOT. -/
theorem Met.Kept.boot {m a b : Met} (h : m.Kept a) (later : b.lasting = { a.lasting with state := .boot, sealKnown := b.sealKnown, sealLow := b.sealLow }) :
    m.Kept b := by
  simp only [Met.lasting, MetLasting.mk.injEq, true_and] at later
  obtain ⟨state, log, events, committed, image, imageSet⟩ := later
  exact Met.kept_of_append h log events (fun _ x => by rw [state] at x; cases x) (fun _ x => by rw [state] at x; cases x) fun _ => ⟨committed, image, imageSet⟩

theorem Met.kept_watchdog (m : Met) (p : PinLevels) : m.Kept (m.watchdog p) :=
  Met.Kept.boot (m.kept_append 6 1 _ _) rfl

theorem Met.kept_powerOn (m : Met) (p : PinLevels) : m.Kept (m.powerOn p) := by
  unfold Met.powerOn
  split
  · exact Met.Kept.refl m
  · exact Met.Kept.boot (Met.Kept.refl m) rfl

/-- A change of SEAL_N is logged and moves SEALED and OPEN with it (R157). -/
theorem Met.kept_sealChange (m : Met) (level : Bool) : m.Kept (m.sealChange level) := by
  unfold Met.sealChange
  split
  next unknown =>
    have unknown : m.sealKnown = false := by simpa using unknown
    have taken : m.Kept { m with sealKnown := true, sealLow := !level } := by
      refine ⟨fun ⟨fits, low, high⟩ => ⟨fits, fun h => ?_, fun h => ?_⟩, List.prefix_rfl, le_rfl, fun _ => ⟨rfl, rfl, rfl, rfl⟩⟩
      · have := (low h).1; rw [unknown] at this; cases this
      · have := (high h).1; rw [unknown] at this; cases this
    by_cases h : m.state = .sealed
    · rw [Met.enter_of_not_boot (by rw [h]; nofun)]; exact taken
    · exact taken.trans (Met.kept_enter _) h
  next known =>
    have known : m.sealKnown = true := by simpa using known
    split
    · exact Met.Kept.refl m
    extract_lets noted ready
    have logged : m.Kept (m.note (if level then 2 else 3) 0) := m.kept_append _ _ _ _
    have same : ready.lasting = { (m.note (if level then 2 else 3) 0).lasting with sealLow := !level } := by
      unfold ready noted
      split <;> exact m.note_sealLow _ _ _
    clear_value ready
    have ends (b : Met) (moved : b.lasting = { ready.lasting with state := b.state }) (low : b.state = .sealed → level = false)
        (high : b.state = .opened → level = true) : m.Kept b := by
      rw [same] at moved
      simp only [Met.lasting, MetLasting.mk.injEq, true_and] at moved
      obtain ⟨sealKnown, sealLow, log, events, committed, image, imageSet⟩ := moved
      have kn : b.sealKnown = true := by rw [sealKnown, m.note_sealKnown, known]
      exact Met.kept_of_append logged log events (fun _ h => ⟨kn, by rw [sealLow, low h]; rfl⟩) (fun _ h => ⟨kn, by rw [sealLow, high h]; rfl⟩)
        fun _ => ⟨committed, image, imageSet⟩
    cases was : ready.state
    case sealed =>
      cases level
      · exact ends ready rfl (fun _ => rfl) (fun h => by rw [was] at h; cases h)
      · exact ends _ rfl nofun (fun _ => rfl)
    case opened =>
      cases level
      · exact ends _ rfl (fun _ => rfl) nofun
      · exact ends ready rfl (fun h => by rw [was] at h; cases h) (fun _ => rfl)
    case fault =>
      dsimp only
      split
      · exact ends _ rfl nofun nofun
      · exact ends ready rfl (fun h => by rw [was] at h; cases h) (fun h => by rw [was] at h; cases h)
    case boot => exact ends ready rfl (fun h => by rw [was] at h; cases h) (fun h => by rw [was] at h; cases h)

theorem Met.kept_powerOff (m : Met) : m.Kept { m with on := false } := Met.kept_of_lasting rfl

/-! ### Every step -/

theorem Met.kept_of_reaches {m m' : Met} (h : Reaches m m') : m.Kept m' := by
  rcases h with rfl | ⟨k, n, rfl⟩ | ⟨x, rfl⟩ | rfl
  · exact Met.Kept.refl m'
  · exact Met.kept_of_lasting (m.takeStep_lasting k n)
  · exact Met.kept_of_lasting (m.tap_lasting x.port x.stamp x.plane x.good x.px)
  · exact Met.kept_of_lasting m.timeZero_lasting

/-- What `onMet` answers keeps what `f` keeps. -/
theorem State.kept_onMet {s t : State} {f : State → State} (h : s.onMet f = .next t) (k : s.met.Kept (f s).met) : s.met.Kept t.met := by
  obtain ⟨-, off, on⟩ := State.onMet_cases h
  cases o : s.met.on with
  | false => rw [off o]; exact Met.Kept.refl _
  | true => rw [on o]; exact k

theorem State.kept_metDo {s t : State} {f : Met → Met} (h : s.metDo f = .next t) (k : s.met.Kept (f s.met)) : s.met.Kept t.met :=
  State.kept_onMet h k

theorem State.kept_metStep {s t : State} {f : Met → Met} (h : s.metStep f = .next t) (k : s.met.Kept (f s.met)) : s.met.Kept t.met :=
  State.kept_onMet h (Met.kept_congr rfl (Met.applyStep_lasting _ _) k)

/-- Every command keeps of Norentum what `Met.Kept` names. -/
theorem exec_kept {c : Instr} {s t : State} (h : exec c s = .next t) : s.met.Kept t.met := by
  cases hc : isMet c with
  | false => exact Met.kept_of_reaches (exec_main hc t h).2
  | true =>
    cases c <;> dsimp only [exec] at h
    case readId p => exact State.kept_metDo h (Met.kept_of_lasting (by split <;> rfl))
    case readLog p => exact State.kept_metDo h (Met.kept_of_lasting (Met.readLog_lasting _ p))
    case uartStage p => exact State.kept_metDo h (Met.kept_of_lasting (Met.stage_lasting _ p))
    case uartCommit p pins => exact State.kept_metStep h (Met.kept_commit _ p pins)
    case uartDiscard p => exact State.kept_metDo h (Met.kept_of_lasting (Met.discard_lasting _ p))
    case imageBlock p => exact State.kept_metDo h (Met.kept_of_lasting (Met.imageBlock_lasting _ p))
    case imageEnd p pins => exact State.kept_metStep h (Met.kept_imageEnd _ p pins)
    case uartVerify p => exact State.kept_metDo h (Met.kept_of_lasting (Met.verify_lasting _ p))
    case uartFrameBad f => exact State.kept_metDo h (Met.Kept.refl _)
    case uartUnknown y p => exact State.kept_metDo h (Met.kept_of_lasting (Met.unknown_lasting _ y))
    case metEncEdge e a b stamp pins =>
      exact State.kept_metStep h (Met.kept_of_lasting ((Met.applyParams_lasting _ pins).trans (Met.encEdge_lasting _ e.val a b stamp)))
    case metLeadEdge n stamp => exact State.kept_metDo h (Met.kept_of_lasting (Met.lead_lasting _ n.val stamp))
    case metTrailEdge n stamp pins =>
      exact State.kept_metStep h (Met.kept_of_lasting ((Met.applyParams_lasting _ pins).trans (Met.trail_lasting _ n.val stamp)))
    case metInterpTimeout n => exact State.kept_metDo h (Met.kept_of_lasting (Met.interpTimeout_lasting _ n.val))
    case metRecordDone n => exact State.kept_onMet h (Met.kept_of_lasting (s.metRecord_lasting n.val))
    case sealChange level => exact State.kept_metDo h (Met.kept_sealChange _ level)
    case metBootDone image params otp => exact State.kept_metDo h (Met.kept_bootDone _ image params otp)
    case metWatchdog kick pins =>
      refine State.kept_metStep h ?_
      split
      · exact Met.kept_watchdog _ pins
      · exact Met.Kept.refl _
    case metPowerOn pins => cases h; exact Met.kept_powerOn _ pins
    case metPowerOff => cases h; exact Met.kept_powerOff _
    all_goals exact absurd (show false = true from hc) Bool.noConfusion

/-- Every step keeps of Norentum what `Met.Kept` names. -/
theorem step_kept {s t : State} (h : step s = .next t) : s.met.Kept t.met := by
  unfold step at h
  split at h
  · cases h
    rw [tick_met]
    exact Met.kept_of_lasting s.metTick_lasting
  next c rest _ => exact exec_kept (s := { s with pending := rest }) h

/-- Settles O11: of the three ways that a change may go, none leaves the states that SEAL_N allows. -/
theorem metLegalKept : Obligations.MetLegalKept := by
  unfold Obligations.MetLegalKept
  exact fun _ _ legal h => (step_kept h).legal legal

/-- Settles O12: an entry only ever joins the log's end, and COMMIT and IMAGE_END alone count an event. -/
theorem metLogAppendOnly : Obligations.MetLogAppendOnly := by
  unfold Obligations.MetLogAppendOnly
  exact fun _ _ h => ⟨(step_kept h).log, (step_kept h).events⟩

/-- Settles O13: in SEALED every command of change is refused, and no other reaches the committed set, the image or the events. -/
theorem metSealedUnchanged : Obligations.MetSealedUnchanged := by
  unfold Obligations.MetSealedUnchanged
  exact fun _ _ isSealed h => (step_kept h).sealed isSealed

end Sys2Proof.Machine
end

section
/-! SUPPORT. The Reed-Solomon code: its field is that of the powers of α, and the syndromes of one changed byte name its place (R522-R524). -/

namespace Sys2Proof.Machine

/-! ### The field -/

@[simp] theorem gfAlpha_xor (a b : Byte) : gfAlpha (a ^^^ b) = gfAlpha a ^^^ gfAlpha b := by
  simp only [gfAlpha, BitVec.shiftLeft_xor_distrib, BitVec.msb_xor]
  cases a.msb <;> cases b.msb <;> simp only [Bool.xor_false, Bool.xor_true, Bool.not_true, Bool.not_false, Bool.false_eq_true, if_true, if_false, BitVec.xor_zero] <;> ac_nf
  simp

theorem gfPow_xor (i : Nat) (a b : Byte) : gfPow i (a ^^^ b) = gfPow i a ^^^ gfPow i b := by
  induction i generalizing a b with
  | zero => rfl
  | succ i ih => rw [gfPow, gfPow, gfPow, gfAlpha_xor, ih]

theorem gfPow_add (i j : Nat) (a : Byte) : gfPow i (gfPow j a) = gfPow (i + j) a := by
  induction j generalizing a with
  | zero => rfl
  | succ j ih => rw [gfPow, ih, ← Nat.add_assoc, gfPow]

@[simp] theorem gfAlpha_zero : gfAlpha 0#8 = 0#8 := by decide

@[simp] theorem gfPow_zero (i : Nat) : gfPow i 0#8 = 0#8 := by
  induction i with
  | zero => rfl
  | succ i ih => exact ih

theorem gfAlpha_eq_zero : ∀ a : Byte, gfAlpha a = 0 → a = 0 := by decide

theorem gfPow_eq_zero {i : Nat} {a : Byte} (h : gfPow i a = 0) : a = 0 := by
  induction i generalizing a with
  | zero => exact h
  | succ i ih => exact gfAlpha_eq_zero a (ih h)

/-- The first `n` powers of α times `a`. -/
def gfOrbit : Nat → Byte → List Byte
  | 0, _ => []
  | n + 1, a => a :: gfOrbit n (gfAlpha a)

theorem exists_gfPow_of_mem_orbit {n : Nat} {a x : Byte} (h : x ∈ gfOrbit n a) : ∃ k, gfPow k a = x := by
  induction n generalizing a with
  | zero => cases h
  | succ n ih =>
    rcases List.mem_cons.1 h with rfl | h
    · exact ⟨0, rfl⟩
    · obtain ⟨k, rfl⟩ := ih h
      exact ⟨k + 1, rfl⟩

theorem mem_orbit_one : ∀ x : Byte, x ≠ 0 → x ∈ gfOrbit 255 1 := by decide +kernel

/-- α generates the field: every element but 0 is one of its powers. -/
theorem exists_gfPow_one {x : Byte} (h : x ≠ 0) : ∃ k, gfPow k 1 = x := exists_gfPow_of_mem_orbit (mem_orbit_one x h)

theorem gfMulN_alpha (n : Nat) (a b : Byte) : gfMulN n (gfAlpha a) b = gfAlpha (gfMulN n a b) := by
  induction n generalizing a b with
  | zero => exact gfAlpha_zero.symm
  | succ n ih =>
    rw [gfMulN, gfMulN, ih, gfAlpha_xor]
    cases b.getLsbD 0 <;> simp

theorem gfMul_pow_left (i : Nat) (a b : Byte) : gfMul (gfPow i a) b = gfPow i (gfMul a b) := by
  induction i generalizing a with
  | zero => rfl
  | succ i ih => rw [gfPow, ih, gfMul, gfMulN_alpha]; rfl

theorem gfMul_one_left : ∀ b : Byte, gfMul 1 b = b := by decide +kernel

/-- The product of two powers of α. -/
theorem gfMul_pows (i j : Nat) : gfMul (gfPow i 1) (gfPow j 1) = gfPow (i + j) 1 := by
  rw [gfMul_pow_left, gfMul_one_left, gfPow_add]

/-- The first 35 powers of α differ. -/
theorem gfPow_one_ne : ∀ d, d < 35 → 0 < d → gfPow d 1 ≠ 1 := by decide +kernel

/-- The powers of α up to the length of a codeword tell an element's multiples apart. -/
theorem gfPow_inj {i j : Nat} {e : Byte} (he : e ≠ 0) (hi : i < 35) (hj : j < 35) (h : gfPow i e = gfPow j e) : i = j := by
  wlog le : i ≤ j
  · exact (this he hj hi h.symm (by omega)).symm
  by_contra ne
  obtain ⟨d, rfl⟩ := Nat.exists_eq_add_of_le le
  obtain ⟨k, rfl⟩ := exists_gfPow_one he
  have moved : gfPow (i + k) (gfPow d 1 ^^^ 1) = 0 := by
    rw [gfPow_xor, gfPow_add, show i + k + d = i + d + k by omega, ← gfPow_add, ← h, gfPow_add, BitVec.xor_self]
    rfl
  exact gfPow_one_ne d (by omega) (by omega) (by simpa using gfPow_eq_zero moved)

/-! ### Syndromes -/

/-- A syndrome that starts from `s` (R524). -/
theorem foldl_syndrome (i : Nat) (s : Byte) (w : List Byte) :
    w.foldl (fun s b => gfPow i s ^^^ b) s = gfPow (i * w.length) s ^^^ syndrome i w := by
  induction w generalizing s with
  | nil => simp [syndrome, gfPow]
  | cons b w ih =>
    rw [syndrome, List.foldl_cons, List.foldl_cons, ih, ih (gfPow i 0 ^^^ b)]
    simp only [BitVec.ofNat_eq_ofNat, gfPow_zero, BitVec.zero_xor]
    simp only [gfPow_xor, gfPow_add, List.length_cons, Nat.mul_succ]
    ac_rfl

theorem syndrome_cons (i : Nat) (b : Byte) (w : List Byte) : syndrome i (b :: w) = gfPow (i * w.length) b ^^^ syndrome i w := by
  rw [syndrome, List.foldl_cons, foldl_syndrome]; simp

/-- A changed byte moves a syndrome by its error times the power of its place. -/
theorem syndrome_set (i : Nat) (w : List Byte) (n : Nat) (e : Byte) (h : n < w.length) :
    syndrome i (w.set n (w.getD n 0 ^^^ e)) = syndrome i w ^^^ gfPow (i * (w.length - 1 - n)) e := by
  induction w generalizing n with
  | nil => simp at h
  | cons b w ih =>
    cases n with
    | zero =>
      simp only [List.set_cons_zero, List.getD_cons_zero, syndrome_cons, gfPow_xor, List.length_cons, Nat.add_sub_cancel, Nat.sub_zero]
      ac_rfl
    | succ n =>
      have h : n < w.length := by simpa using h
      simp only [List.set_cons_succ, List.getD_cons_succ, syndrome_cons, List.length_set, List.length_cons, ih n h]
      rw [show w.length + 1 - 1 - (n + 1) = w.length - 1 - n by omega]
      ac_rfl

/-! ### Codewords -/

/-- α^0, α^1 and α^2 are roots of the generator (R522). -/
theorem generator_root : ∀ i, i < 3 → ∀ q : Byte, gfPow (3 * i) q = gfPow (2 * i) (gfMul q 0x07) ^^^ gfPow i (gfMul q 0x0E) ^^^ gfMul q 0x08 := by
  decide +kernel

/-- The check bytes are the remainder of the data at the roots of the generator. -/
theorem rsCheck_root (i : Nat) (hi : i < 3) (data : List Byte) :
    gfPow (3 * i) (syndrome i data) = gfPow (2 * i) (rsCheck data).1 ^^^ gfPow i (rsCheck data).2.1 ^^^ (rsCheck data).2.2 := by
  induction data using List.reverseRecOn with
  | nil => simp [syndrome, rsCheck]
  | append_singleton data b ih =>
    have step : syndrome i (data ++ [b]) = gfPow i (syndrome i data) ^^^ b := by simp [syndrome]
    have root := generator_root i hi ((rsCheck data).1 ^^^ b)
    have next : rsCheck (data ++ [b]) = ((rsCheck data).2.1 ^^^ gfMul ((rsCheck data).1 ^^^ b) 0x07,
        (rsCheck data).2.2 ^^^ gfMul ((rsCheck data).1 ^^^ b) 0x0E, gfMul ((rsCheck data).1 ^^^ b) 0x08) := by
      simp [rsCheck]
    rw [step, next, gfPow_xor, gfPow_add, Nat.add_comm, ← gfPow_add, ih]
    simp only [gfPow_xor, gfPow_add] at root ⊢
    rw [show i + 2 * i = 3 * i by omega, show i + i = 2 * i by omega]
    calc _ = (gfPow (3 * i) (rsCheck data).1 ^^^ gfPow (3 * i) b) ^^^ gfPow (2 * i) (rsCheck data).2.1 ^^^ gfPow i (rsCheck data).2.2 := by ac_rfl
      _ = _ := by rw [root]; ac_rfl

/-- Every syndrome of a codeword is 0. -/
theorem syndrome_rsEncode (i : Nat) (hi : i < 3) (data : List Byte) : syndrome i (rsEncode data) = 0 := by
  have split : syndrome i (rsEncode data) = gfPow (3 * i) (syndrome i data) ^^^ syndrome i (rsBytes data) := by
    rw [syndrome, rsEncode, List.foldl_append, foldl_syndrome, Nat.mul_comm]; rfl
  rw [split, rsCheck_root i hi]
  have check : syndrome i (rsBytes data) = gfPow (2 * i) (rsCheck data).1 ^^^ gfPow i (rsCheck data).2.1 ^^^ (rsCheck data).2.2 := by
    simp only [rsBytes, syndrome, List.foldl_cons, List.foldl_nil, BitVec.ofNat_eq_ofNat, gfPow_zero, BitVec.zero_xor, gfPow_xor, gfPow_add,
      Nat.two_mul]
  rw [check, BitVec.xor_self]; rfl

theorem rsEncode_length (data : List Byte) : (rsEncode data).length = data.length + 3 := by simp [rsEncode, rsBytes]

/-- A word whose syndromes are those of one error `e` at the place of power `p` is corrected there (R524). -/
theorem rsRead_of_syndromes {w : List Byte} {p : Nat} {e : Byte} (he : e ≠ 0) (hp : p < 35) (s0 : syndrome 0 w = e)
    (s1 : syndrome 1 w = gfPow p e) (s2 : syndrome 2 w = gfPow (2 * p) e) :
    rsRead w = .corrected (w.set (34 - p) (w.getD (34 - p) 0 ^^^ e)) := by
  have nonzero (k : Nat) : gfPow k e ≠ 0 := fun h => he (gfPow_eq_zero h)
  have square : gfMul (gfPow p e) (gfPow p e) = gfMul e (gfPow (2 * p) e) := by
    obtain ⟨k, rfl⟩ := exists_gfPow_one he
    simp only [gfPow_add, gfMul_pows]
    congr 1; omega
  have place : (List.range 35).find? (fun j => gfPow j e == gfPow p e) = some p := by
    rw [List.find?_range_eq_some]
    refine ⟨by simp, by simpa using hp, fun j hj => ?_⟩
    simp only [Bool.not_eq_true', beq_eq_false_iff_ne]
    exact fun h => by have := gfPow_inj he (by omega) hp h; omega
  simp only [rsRead, s0, s1, s2, decide_eq_false he, Bool.false_and, Bool.false_eq_true, if_false, bne_iff_ne.2 he, bne_iff_ne.2 (nonzero _),
    square, beq_self_eq_true, Bool.and_self, if_true, place]

/-- Settles O55: the syndromes of one changed byte are its error times the powers of α of its place, which no other place has. -/
theorem rsCorrectsOneByte : Obligations.RsCorrectsOneByte := by
  unfold Obligations.RsCorrectsOneByte
  intro data len
  have length : (rsEncode data).length = 35 := by rw [rsEncode_length, len]
  have roots (k : Nat) (hk : k < 3) := syndrome_rsEncode k hk data
  refine ⟨?good, length, fun i e hi he => ?corrected⟩
  case good => simp [rsRead, roots]
  case corrected =>
    generalize rsEncode data = w at *
    have moved (k : Nat) (hk : k < 3) : syndrome k (w.set i (w.getD i 0 ^^^ e)) = gfPow (k * (34 - i)) e := by
      rw [syndrome_set k w i e (by omega), roots k hk, length]; simp
    have s0 := moved 0 (by omega)
    have s1 := moved 1 (by omega)
    rw [Nat.zero_mul] at s0
    rw [Nat.one_mul] at s1
    rw [rsRead_of_syndromes he (by omega) s0 s1 (moved 2 (by omega)), show 34 - (34 - i) = i by omega]
    have inside : i < w.length := by omega
    simp [List.getD_eq_getElem?_getD, inside]

end Sys2Proof.Machine
end

section
/-! SUPPORT. Decoding undoes the coding of a plane: pixels against magnitudes, magnitudes against bits, bits against bytes, RAW pixels against bytes (R101-R103). -/

namespace Sys2Proof.Machine

/-! ### Pixels and magnitudes -/

/-- Every magnitude fits 12 bits. -/
theorem residuals_lt {xs ref : List Nat} {a c : Int} {m : Nat} (h : m ∈ residuals xs ref a c) : m < 4096 := by
  induction xs generalizing ref a c with
  | nil => cases h
  | cons x xs ih =>
    rw [residuals] at h
    rcases List.mem_cons.1 h with rfl | h
    · generalize median3 _ _ _ = pred
      split <;> omega
    · exact ih h

@[simp] theorem residuals_length (xs ref : List Nat) (a c : Int) : (residuals xs ref a c).length = xs.length := by
  induction xs generalizing ref a c with
  | nil => rfl
  | cons x xs ih => simp [residuals, ih]

/-- The pixels come back from their magnitudes, whatever the prediction. -/
theorem fromMags_residuals (xs ref : List Nat) (a c : Int) (h : ∀ x ∈ xs, x < 4096) : fromMags (residuals xs ref a c) ref a c = xs := by
  induction xs generalizing ref a c with
  | nil => rfl
  | cons x xs ih =>
    have hx : x < 4096 := h x (by simp)
    have rest := fun a c => ih ref.tail a c (fun y hy => h y (by simp [hy]))
    rw [residuals, fromMags]
    generalize median3 a _ _ = pred
    generalize he : ((x : Int) - pred + 2048) % 4096 - 2048 = e
    have back : (pred + if (if 0 ≤ e then (2 * e).toNat else (-2 * e - 1).toNat) % 2 = 0 then (((if 0 ≤ e then (2 * e).toNat else (-2 * e - 1).toNat) / 2 : Nat) : Int)
        else -((((if 0 ≤ e then (2 * e).toNat else (-2 * e - 1).toNat) + 1) / 2 : Nat) : Int)) % 4096 = x := by
      split_ifs <;> omega
    rw [back, rest]
    rfl

/-! ### Magnitudes and bits -/

/-- The low `w` bits of a number, MSB first. -/
def bitsMsb (w v : Nat) : List Bool := (List.range w).reverse.map (fun i => bit v i)

theorem bitsMsb_succ (w v : Nat) : bitsMsb (w + 1) v = bit v w :: bitsMsb w v := by simp [bitsMsb, List.range_succ]

theorem takeNat_bitsMsb (w v : Nat) (t : List Bool) : takeNat w (bitsMsb w v ++ t) = (v % 2 ^ w, t) := by
  induction w with
  | zero => simp [takeNat, bitsMsb, Nat.mod_one]
  | succ w ih =>
    have top : b2n (bit v w) = v / 2 ^ w % 2 := by
      rw [bit, Nat.shiftRight_eq_div_pow, b2n]
      rcases Nat.mod_two_eq_zero_or_one (v / 2 ^ w) with h | h <;> simp [h]
    rw [bitsMsb_succ, List.cons_append, takeNat, List.tail_cons, List.headD_cons, ih, top, Nat.pow_succ, Nat.mod_mul]
    simp only [Nat.mul_comm, Nat.add_comm]

theorem takeOnes_stopped (n q : Nat) (t : List Bool) (h : q < n) : takeOnes n (List.replicate q true ++ false :: t) = (q, t) := by
  induction q generalizing n with
  | zero => obtain ⟨n, rfl⟩ := Nat.exists_eq_succ_of_ne_zero (by omega : n ≠ 0); rfl
  | succ q ih =>
    obtain ⟨n, rfl⟩ := Nat.exists_eq_succ_of_ne_zero (by omega : n ≠ 0)
    rw [List.replicate_succ, List.cons_append, takeOnes, ih n (by omega)]

theorem takeOnes_full (n : Nat) (t : List Bool) : takeOnes n (List.replicate n true ++ t) = (n, t) := by
  induction n with
  | zero => rfl
  | succ n ih => rw [List.replicate_succ, List.cons_append, takeOnes, ih]

/-- The magnitudes of a group come back from their bits. -/
theorem takeMags_codeBits (k : Nat) (ms : List Nat) (t : List Bool) (h : ∀ m ∈ ms, m < 4096) :
    takeMags k ms.length (ms.flatMap (codeBits k) ++ t) = (ms, t) := by
  induction ms with
  | nil => rfl
  | cons m ms ih =>
    have hm : m < 4096 := h m (by simp)
    have rest := ih (fun y hy => h y (by simp [hy]))
    have one (u : List Bool) : let q := takeOnes 24 (codeBits k m ++ u)
        (if q.1 = 24 then takeNat 12 q.2 else let r := takeNat k q.2; (q.1 * 2 ^ k + r.1, r.2)) = (m, u) := by
      intro q
      by_cases small : m >>> k < 24
      · have hq : q = (m >>> k, bitsMsb k m ++ u) := by
          simp only [q, codeBits, if_pos small, List.append_assoc]
          exact takeOnes_stopped 24 _ _ small
        rw [hq]
        rw [if_neg (by dsimp only; omega)]
        simp only [takeNat_bitsMsb, Nat.shiftRight_eq_div_pow]
        rw [Nat.mul_comm, Nat.div_add_mod]
      · have hq : q = (24, bitsMsb 12 m ++ u) := by
          simp only [q, codeBits, if_neg small, List.append_assoc]
          exact takeOnes_full 24 _
        rw [hq, if_pos rfl, takeNat_bitsMsb, Nat.mod_eq_of_lt (show m < 2 ^ 12 from hm)]
    rw [List.length_cons, takeMags, List.flatMap_cons, List.append_assoc]
    simp only [one, rest]

/-- The parameter of a group fits its 4 bits. -/
theorem groupK_lt (ms : List Nat) : groupK ms < 12 := by
  have inv (l : List Nat) (b : Nat × Nat) (hb : b.1 < 12) (hl : ∀ k ∈ l, k < 12) :
      (l.foldl (fun (b : Nat × Nat) k => let len := groupLen k ms; if len < b.2 then (k, len) else b) b).1 < 12 := by
    induction l generalizing b with
    | nil => exact hb
    | cons k l ih =>
      refine ih _ ?_ (fun j hj => hl j (by simp [hj]))
      dsimp only
      split
      · exact hl k (by simp)
      · exact hb
  exact inv _ _ (by simp) (fun k hk => List.mem_range.1 hk)

/-- The magnitudes of a plane come back from its bits. -/
theorem takeGroups_groupBits (n n' : Nat) (ms : List Nat) (t : List Bool) (h : ∀ m ∈ ms, m < 4096) (hn : ms.length ≤ 16 * n) (hn' : ms.length ≤ 16 * n') :
    takeGroups n ms.length (groupBits n' ms ++ t) = ms := by
  induction n generalizing n' ms with
  | zero => rw [takeGroups, List.length_eq_zero_iff.1 (by omega : ms.length = 0)]
  | succ n ih =>
    rw [takeGroups]
    by_cases empty : ms = []
    · simp [empty]
    · have len : ms.length ≠ 0 := by simpa using empty
      obtain ⟨n', rfl⟩ := Nat.exists_eq_succ_of_ne_zero (by omega : n' ≠ 0)
      have k4 : (List.range 4).reverse.map (fun i => bit (groupK (ms.take 16)) i) = bitsMsb 4 (groupK (ms.take 16)) := rfl
      have fits : groupK (ms.take 16) % 2 ^ 4 = groupK (ms.take 16) := Nat.mod_eq_of_lt (by have := groupK_lt (ms.take 16); omega)
      have first (u : List Bool) := takeMags_codeBits (groupK (ms.take 16)) (ms.take 16) u (fun m hm => h m (List.mem_of_mem_take hm))
      have rest := ih n' (ms.drop 16) (fun m hm => h m (List.mem_of_mem_drop hm))
      rw [List.length_take] at first
      rw [List.length_drop] at rest
      simp only [groupBits, if_neg empty, if_neg len, k4, List.append_assoc, takeNat_bitsMsb, fits, first]
      rw [rest (by omega) (by omega), List.take_append_drop]

/-! ### Bits and bytes -/

/-- The byte of the first eight flags of a list, MSB first. -/
def byteOf (g : List Bool) : Byte := BitVec.ofNat 8 (((List.range 8).map (fun i => if g.getD i false then 2 ^ (7 - i) else 0)).foldl (· + ·) 0)

theorem bits_byteOf_eight : (g : List Bool) → g.length = 8 → (List.range 8).map (fun i => bit (byteOf g).toNat (7 - i)) = g
  | [b0, b1, b2, b3, b4, b5, b6, b7], _ => by revert b0 b1 b2 b3 b4 b5 b6 b7; decide

/-- The byte of up to eight flags has them as its bits, and zeros after them. -/
theorem bits_byteOf (g : List Bool) (h : g.length ≤ 8) :
    (List.range 8).map (fun i => bit (byteOf g).toNat (7 - i)) = g ++ List.replicate (8 - g.length) false := by
  have pad : byteOf g = byteOf (g ++ List.replicate (8 - g.length) false) := by
    have same (i : Nat) : (g ++ List.replicate (8 - g.length) false).getD i false = g.getD i false := by
      rcases Nat.lt_or_ge i g.length with lt | ge
      · rw [List.getD_append _ _ _ _ lt]
      · rw [List.getD_append_right _ _ _ _ ge, List.getD_eq_getElem?_getD, List.getElem?_getD_replicate_default_eq, List.getD_eq_default _ _ ge]
    simp only [byteOf, same]
  rw [pad, bits_byteOf_eight _ (by simp; omega)]

/-- The bits of a row of bytes are those packed into it, and zeros after them. -/
theorem bitsOf_packRow (n : Nat) (l : List Bool) (h : l.length ≤ 8 * n) : ∃ z, bitsOf (packRow n l) = l ++ z := by
  induction n generalizing l with
  | zero => exact ⟨[], by rw [List.length_eq_zero_iff.1 (by omega : l.length = 0)]; rfl⟩
  | succ n ih =>
    rw [packRow]
    by_cases empty : l = []
    · exact ⟨[], by simp [empty, bitsOf]⟩
    · obtain ⟨z, rest⟩ := ih (l.drop 8) (by rw [List.length_drop]; omega)
      have cons (b : Byte) (t : List Byte) : bitsOf (b :: t) = (List.range 8).map (fun i => bit b.toNat (7 - i)) ++ bitsOf t := rfl
      have byte := bits_byteOf (l.take 8) (List.length_take_le 8 l)
      rw [byteOf] at byte
      simp only [if_neg empty, cons, rest, byte]
      by_cases short : l.length < 8
      · rw [List.drop_eq_nil_of_le (by omega), List.take_of_length_le (by omega)]
        exact ⟨_, List.append_assoc _ _ _⟩
      · refine ⟨z, ?_⟩
        rw [List.length_take, Nat.min_eq_left (by omega), ← List.append_assoc]
        simp

/-! ### RAW pixels -/

theorem unpack12_pack12 (xs : List Nat) (h : ∀ x ∈ xs, x < 4096) (even : xs.length % 2 = 0) : unpack12 (pack12 xs) = xs := by
  induction xs using pack12.induct with
  | case1 x y t ih =>
    have hx : x < 4096 := h x (by simp)
    have hy : y < 4096 := h y (by simp)
    have rest := ih (fun z hz => h z (by simp [hz])) (by simp only [List.length_cons] at even; omega)
    simp only [pack12, unpack12, rest, BitVec.toNat_ofNat]
    congr 1
    · omega
    · congr 1; omega
  | case2 x => simp at even
  | case3 => rfl

theorem pack12_length (xs : List Nat) : 2 * (pack12 xs).length ≤ 3 * xs.length + 1 := by
  induction xs using pack12.induct with
  | case1 x y t ih => simp only [pack12, List.length_cons]; omega
  | case2 x => simp [pack12]
  | case3 => simp [pack12]

/-! ### A plane -/

/-- The header of a plane reads as the number it holds. -/
theorem leAt_header (v : Nat) (body : List Byte) : leAt (leBytes 4 v ++ body) 0 4 = v % 2 ^ 32 := by
  rw [leAt, List.drop_zero, List.take_left' (leBytes_length 4 v), leNat_leBytes]; rfl

/-- A plane whose header names its body decodes from that body. -/
theorem decodePlane_header (n : Nat) (raw : Bool) (body : List Byte) (ref : List Nat) (h : body.length < 2 ^ 24) :
    decodePlane n (leBytes 4 ((if raw then 2 ^ 31 else 0) + body.length) ++ body) ref
      = if raw then ((unpack12 body) ++ List.replicate n 0).take n else fromMags (takeGroups (n / 16 + 1) n (bitsOf body)) ref 0 0 := by
  have hdr : leAt (leBytes 4 ((if raw then 2 ^ 31 else 0) + body.length) ++ body) 0 4 = (if raw then 2 ^ 31 else 0) + body.length := by
    rw [leAt_header, Nat.mod_eq_of_lt (by split <;> omega)]
  have flag : bit ((if raw then 2 ^ 31 else 0) + body.length) 31 = raw := by
    rw [bit, Nat.shiftRight_eq_div_pow]
    cases raw <;> simp <;> omega
  have size : ((if raw then 2 ^ 31 else 0) + body.length) % 2 ^ 24 = body.length := by cases raw <;> simp <;> omega
  simp only [decodePlane, hdr, flag, size]
  rw [List.drop_left' (leBytes_length 4 _), List.take_length]

/-- Settles O60: RAW pixels are unpacked; coded ones come back from their bits, and the prediction is the same on both sides. -/
theorem retentionLossless : Obligations.RetentionLossless := by
  unfold Obligations.RetentionLossless
  intro xs ref hx _ even len
  unfold codePlane
  extract_lets bits body raw
  split
  case isTrue =>
    have short : raw.length < 2 ^ 24 := by have := pack12_length xs; unfold raw; omega
    have decoded := decodePlane_header xs.length true raw ref short
    rw [if_pos rfl, if_pos rfl, unpack12_pack12 xs hx even, List.take_left' rfl] at decoded
    exact decoded
  case isFalse coded =>
    have short : body.length < 2 ^ 24 := by omega
    have decoded := decodePlane_header xs.length false body ref short
    obtain ⟨z, unpacked⟩ := bitsOf_packRow (bits.length + 1) bits (by omega)
    have mags := takeGroups_groupBits (xs.length / 16 + 1) (xs.length + 1) (residuals xs ref 0 0) z (fun _ hm => residuals_lt hm)
      (by rw [residuals_length]; omega) (by rw [residuals_length]; omega)
    rw [residuals_length] at mags
    simp only [Bool.false_eq_true, if_false, Nat.zero_add] at decoded
    rw [decoded, unpacked, mags, fromMags_residuals xs ref 0 0 hx]

end Sys2Proof.Machine
end

section
/-! SUPPORT. A step, the state right after reset, and the main domain while PORESET_N is low (R24, R141, R553, R555, R581). -/

namespace Sys2Proof.Machine

/-! ### A step -/

theorem step_cons {s : State} {c : Instr} {rest : List Instr} (h : s.pending = c :: rest) : step s = exec c { s with pending := rest } := by
  unfold step; rw [h]

theorem step_nil {s : State} (h : s.pending = []) : step s = .next (tick s) := by
  unfold step; rw [h]

/-- Settles O1: a step matches on the queue, and no command changes it. -/
theorem stepRunsFront : Obligations.StepRunsFront := by
  unfold Obligations.StepRunsFront
  exact ⟨fun _ _ _ h => step_cons h, fun c rest s t h ran => exec_pending ((step_cons h).symm.trans ran), fun _ h => step_nil h⟩

/-! ### Right after reset -/

/-- An empty register file reads as the reset values (R581). -/
theorem State.reg_of_regs_nil {s : State} (h : s.regs = []) (a : Nat) : s.reg a = regReset a := by
  simp [State.reg, h, tfind]

/-- Settles O3: every table, queue and memory of the reset state is empty, and Norentum is off in BOOT. -/
theorem resetState : Obligations.ResetState := by
  unfold Obligations.ResetState
  refine ⟨⟨rfl, State.reg_of_regs_nil rfl, rfl, rfl, rfl, rfl, rfl, ?canonical⟩, ?legal⟩
  case canonical =>
    obtain ⟨host, dram, tile, regs⟩ := State.reset_memories_wf
    exact ⟨regs, host, dram, tile⟩
  case legal => exact ⟨Nat.zero_le _, nofun, nofun⟩

/-! ### While PORESET_N is low -/

theorem State.onMain_held {s : State} (f : State → State) (h : s.sys.released = false) : s.onMain f = .next s := by
  rw [State.onMain, h]; rfl

theorem State.onHost_held {s : State} (f : State → State) (h : s.sys.released = false) : s.onHost f = .next s := State.onMain_held _ h

theorem State.onTime_held {s : State} (f : State → State × Int) (g : Met → Int → Nat → Met) (h : s.sys.released = false) : s.onTime f g = .next s := by
  rw [State.onTime, h]; rfl

theorem State.onIntake_held {α : Type} {s : State} (f : State → State × Option α) (g : Met → α → Met) (h : s.sys.released = false) :
    s.onIntake f g = .next s := by
  rw [State.onIntake, h]; rfl

theorem execScrubStep_held (p : ScrubAt) (u : List (UpsetAt × List Byte)) (pins : PinLevels) {s : State} (h : s.sys.released = false) :
    execScrubStep p u pins s = .next s ∨ execScrubStep p u pins s = .fault .addressHole := by
  unfold execScrubStep
  cases p <;> dsimp only <;> split
  · exact .inl (State.onMain_held _ h)
  · exact .inr rfl
  · exact .inl (State.onMain_held _ h)
  · exact .inr rfl

theorem execPoresetAssert_held {s : State} (h : s.sys.released = false) : execPoresetAssert s = .next s := by
  unfold execPoresetAssert
  rw [h]; rfl

/-- Settles O5: every command of the main domain acts through one of the four ways that PORESET_N holds, but for the scrubber's places that do not exist. -/
theorem resetHoldsMainDomain : Obligations.ResetHoldsMainDomain := by
  unfold Obligations.ResetHoldsMainDomain
  intro s c held main notRelease
  cases c <;> dsimp only [exec]
  case scrubStep place upsets pins => exact execScrubStep_held place upsets pins held
  case poresetRelease pins => exact absurd rfl (notRelease pins)
  case poresetAssert => exact .inl (execPoresetAssert_held held)
  all_goals first
    | exact .inl (State.onMain_held _ held)
    | exact .inl (State.onHost_held _ held)
    | exact .inl (State.onTime_held _ _ held)
    | exact .inl (State.onIntake_held _ _ held)
    | exact absurd (show true = false from main) Bool.noConfusion

/-! ### The service UART's reads -/

theorem State.metDo_on {s : State} (f : Met → Met) (h : s.met.on = true) : s.metDo f = .next { s with met := f s.met } := by
  simp [State.metDo, State.onMet, h]

theorem State.metStep_on {s : State} (f : Met → Met) (h : s.met.on = true) :
    s.metStep f = .next { s with met := (f s.met).applyStep s.tim.stopNs } := by
  simp [State.metStep, State.onMet, h]

/-- READ_LOG answers an entry that there is (R167). -/
theorem Met.readLog_entry (m : Met) {p : List Byte} (len : p.length = 2) (low : 1 ≤ leAt p 0 2) (high : leAt p 0 2 ≤ m.log.length) :
    m.readLog p = m.ack (m.log.getD (leAt p 0 2 - 1) []) := by
  unfold Met.readLog
  rw [if_neg]
  simp only [len, ne_eq, not_true, decide_false, Bool.false_or, Bool.or_eq_true, decide_eq_true_eq]
  omega

theorem Met.readLog_range (m : Met) {p : List Byte} (bad : p.length ≠ 2 ∨ leAt p 0 2 = 0 ∨ m.log.length < leAt p 0 2) : m.readLog p = m.nak 2 := by
  unfold Met.readLog
  rw [if_pos]
  simpa [or_assoc] using bad

theorem Met.verify_record (m : Met) {p : List Byte} (len : p.length = 64) :
    m.verify p = m.ack [if metMac (p.take 56) = p.drop 56 then 1 else 0] := if_neg (by simp [len])

theorem Met.verify_range (m : Met) {p : List Byte} (len : p.length ≠ 64) : m.verify p = m.nak 2 := if_pos len

theorem Met.unknown_unlisted (m : Met) {y : Byte} (h : y.toNat < 0x10 ∨ 0x17 < y.toNat) : m.unknown y = m.nak 5 := by
  unfold Met.unknown
  rw [if_neg]
  simp only [Bool.and_eq_true, decide_eq_true_eq]
  omega

/-- Settles O6: each read is one frame sent, and an unlisted TYPE is one outside 0x10 to 0x17. -/
theorem metUartReads : Obligations.MetUartReads := by
  unfold Obligations.MetUartReads
  intro s on
  refine ⟨?readId, fun p len low high => ?readLog, fun p len => ?verify, fun p => ⟨fun full => ?idRange, fun bad => ?logRange, fun len => ?verifyRange⟩,
    fun f => ?bad, fun y p unlisted => ?unknown, fun p => rfl⟩
  case readId => rw [exec, execReadId, State.metDo_on _ on, if_neg (not_not.2 rfl)]
  case readLog => rw [exec, execReadLog, State.metDo_on _ on, Met.readLog_entry _ len low high]
  case verify => rw [exec, execUartVerify, State.metDo_on _ on, Met.verify_record _ len]
  case idRange => rw [exec, execReadId, State.metDo_on _ on, if_pos full]
  case logRange => rw [exec, execReadLog, State.metDo_on _ on, Met.readLog_range _ bad]
  case verifyRange => rw [exec, execUartVerify, State.metDo_on _ on, Met.verify_range _ len]
  case bad => rw [exec, execUartFrameBad, State.metDo_on _ on]
  case unknown => rw [exec, execUartUnknown, State.metDo_on _ on, Met.unknown_unlisted _ unlisted]

end Sys2Proof.Machine
end

section
/-! SUPPORT. The commands of change at Norentum's service UART (R143, R159-R164, R167). -/

namespace Sys2Proof.Machine

/-! ### Why a command of change is refused -/

theorem Met.refuses_of_opened {m : Met} (image : Bool) (h : m.state = .opened) : m.refuses image = none := by
  unfold Met.refuses; rw [h]

theorem Met.refuses_of_boot {m : Met} (image : Bool) (h : m.state = .boot) : m.refuses image = some 6 := by
  unfold Met.refuses; rw [h]

theorem Met.paramFault_of_opened {m : Met} (h : m.state = .opened) : m.paramFault = false := by
  simp [Met.paramFault, h]

section Refused
variable {m : Met} {r : Nat} (p : List Byte) (pins : PinLevels)

theorem Met.stage_refused (h : m.refuses false = some r) : m.stage p = m.nak r := by unfold Met.stage; rw [h]
theorem Met.discard_refused (h : m.refuses false = some r) : m.discard p = m.nak r := by unfold Met.discard; rw [h]
theorem Met.commit_refused (h : m.refuses false = some r) : m.commit p pins = m.nak r := by unfold Met.commit; rw [h]
theorem Met.imageBlock_refused (h : m.refuses true = some r) : m.imageBlock p = m.nak r := by unfold Met.imageBlock; rw [h]
theorem Met.imageEnd_refused (h : m.refuses true = some r) : m.imageEnd p pins = m.nak r := by unfold Met.imageEnd; rw [h]

end Refused

/-! ### STAGE and DISCARD -/

/-- The value that a STAGE payload carries: LEN_OFS is signed (R143). -/
def stageValue (p : List Byte) : Int := if leAt p 1 1 = 5 then sgn 32 (leAt p 2 4) else (leAt p 2 4 : Nat)

/-- A STAGE payload names a port, a number and a value within its range (R143). -/
def stageOk (p : List Byte) : Prop :=
  p.length = 6 ∧ leAt p 0 1 ≤ 3 ∧ leAt p 1 1 ≤ 14 ∧ (metRange (leAt p 1 1)).1 ≤ stageValue p ∧ stageValue p ≤ (metRange (leAt p 1 1)).2

theorem Met.stage_ok {m : Met} {p : List Byte} (opened : m.state = .opened) (ok : stageOk p) :
    m.stage p = ({ m with staged := tput m.staged (leAt p 0 1 * 16 + leAt p 1 1) (stageValue p) }).ack [] := by
  obtain ⟨len, port, number, low, high⟩ := ok
  unfold Met.stage
  rw [m.refuses_of_opened false opened]
  extract_lets n no v
  have value : v = stageValue p := rfl
  refine if_neg ?_
  simp only [value, len, ne_eq, not_true, decide_false, Bool.false_or, Bool.or_eq_true, decide_eq_true_eq, n, no]
  omega

theorem Met.stage_range {m : Met} {p : List Byte} (opened : m.state = .opened) (bad : ¬ stageOk p) : m.stage p = m.nak 2 := by
  unfold Met.stage
  rw [m.refuses_of_opened false opened]
  extract_lets n no v
  have value : v = stageValue p := rfl
  refine if_pos ?_
  simp only [value, Bool.or_eq_true, decide_eq_true_eq, n, no]
  unfold stageOk at bad
  omega

theorem Met.discard_ok {m : Met} (opened : m.state = .opened) : m.discard [] = ({ m with staged := m.committed }).ack [] := by
  unfold Met.discard
  rw [m.refuses_of_opened false opened, m.paramFault_of_opened opened]
  rfl

theorem Met.discard_range {m : Met} {p : List Byte} (opened : m.state = .opened) (full : p ≠ []) : m.discard p = m.nak 2 := by
  unfold Met.discard
  rw [m.refuses_of_opened false opened]
  exact if_pos full

/-! ### IMAGE_BLOCK -/

/-- Bytes put into a table one after the other from `k` on. -/
def putBytes (t : List (Nat × Byte)) (k : Nat) (l : List Byte) : List (Nat × Byte) :=
  (l.foldl (fun (acc : List (Nat × Byte) × Nat) b => (tins acc.1 acc.2 b, acc.2 + 1)) (t, k)).1

theorem putBytes_cons (t : List (Nat × Byte)) (k : Nat) (b : Byte) (l : List Byte) : putBytes t k (b :: l) = putBytes (tins t k b) (k + 1) l := rfl

theorem tfind_putBytes_outside (t : List (Nat × Byte)) (k : Nat) (l : List Byte) (j : Nat) (h : j < k ∨ k + l.length ≤ j) :
    tfind (putBytes t k l) j = tfind t j := by
  induction l generalizing t k with
  | nil => rfl
  | cons b l ih =>
    simp only [List.length_cons] at h
    rw [putBytes_cons, ih _ _ (by omega), tfind_tins_ne _ _ (by omega)]

theorem tfind_putBytes_inside (t : List (Nat × Byte)) (k : Nat) (l : List Byte) (i : Nat) (h : i < l.length) :
    tfind (putBytes t k l) (k + i) = l[i]? := by
  induction l generalizing t k i with
  | nil => cases h
  | cons b l ih =>
    rw [putBytes_cons]
    cases i with
    | zero => rw [tfind_putBytes_outside _ _ _ _ (by omega)]; simp
    | succ i =>
      rw [show k + (i + 1) = k + 1 + i by omega, ih _ _ _ (by simpa using h)]; simp

theorem Met.imageBlock_ok {m : Met} {p : List Byte} (opened : m.state = .opened) (low : 5 ≤ p.length) (high : p.length ≤ 4100) :
    m.imageBlock p = ({ m with imageBuf := putBytes m.imageBuf (leAt p 0 4) (p.drop 4) }).ack [] := by
  unfold Met.imageBlock
  rw [m.refuses_of_opened true opened]
  dsimp only
  rw [if_neg (by simp; omega)]
  rfl

theorem Met.imageBlock_range {m : Met} {p : List Byte} (opened : m.state = .opened) (bad : p.length < 5 ∨ 4100 < p.length) : m.imageBlock p = m.nak 2 := by
  unfold Met.imageBlock
  rw [m.refuses_of_opened true opened]
  exact if_pos (by simpa using bad)

/-! ### COMMIT -/

/-- A time step that waits changes clocks alone (R477). -/
theorem Met.applyStep_eq (m : Met) (k : Nat) : ∃ time stop due, m.applyStep k = { m with time := time, stopNs := stop, stepDue := due } := by
  unfold Met.applyStep
  split
  · exact ⟨_, _, _, rfl⟩
  · exact ⟨_, _, _, rfl⟩

/-- COMMIT in OPEN with room in the log: the staged set is committed, counted, logged and acknowledged, and applies port by port (R159, R160). -/
theorem Met.commit_ok {m : Met} (pins : PinLevels) (opened : m.state = .opened) (room : m.log.length < 1024)
    (speeds : ∀ n, n < 4 → metParam m.staged n 13 ≤ metParam m.staged n 14) :
    ∃ (e : List Byte) (ports : Tbl MetPort) (encs : Tbl MetEnc), e.getD 2 0 = 4 ∧ m.commit [] pins
      = { (m.ack []) with committed := m.staged, events := m.events + 1, flashBad := false, log := m.log ++ [e], ports := ports, encs := encs } := by
  unfold Met.commit
  have notFull : m.logFull = false := by simp [Met.logFull, room]
  have inRange : ((List.range 4).any fun n => decide (metParam m.staged n 14 < metParam m.staged n 13)) = false := by
    simpa using speeds
  rw [m.refuses_of_opened false opened]
  simp only [notFull, m.paramFault_of_opened opened, inRange, ne_eq, not_true, decide_false, Bool.or_self, Bool.false_eq_true, if_false]
  obtain ⟨l, eq, -, has⟩ := Met.append_eq { m with committed := m.staged, events := m.events + 1, flashBad := false } 4 (metChanges m.committed m.staged)
    (metParamCrc m.committed) (metParamCrc m.staged)
  obtain ⟨e, rfl, typ⟩ := has notFull
  rw [eq]
  exact ⟨e, _, _, typ, rfl⟩

/-! ### IMAGE_END -/

/-- IMAGE_END in OPEN with room in the log takes the buffered image whose signature verifies: counted, logged, acknowledged, and the core restarts (R163). -/
theorem Met.imageEnd_ok {m : Met} {p : List Byte} (pins : PinLevels) (opened : m.state = .opened) (room : m.log.length < 1024) (len : p.length = 96)
    (signed : Config.metImageSigned m.bufferBytes p = true) :
    ∃ (e : List Byte) (tx : List (List Byte)), e.getD 2 0 = 5 ∧ m.imageEnd p pins
      = { m with image := m.bufferBytes, imageSet := true, imageBad := false, events := m.events + 1, log := m.log ++ [e], uartTx := tx }.restart pins := by
  unfold Met.imageEnd
  have notFull : m.logFull = false := by simp [Met.logFull, room]
  rw [m.refuses_of_opened true opened]
  simp only [notFull, len, signed, ne_eq, not_true, Bool.not_true, Bool.false_eq_true, if_false]
  obtain ⟨l, eq, -, has⟩ := Met.append_eq { m with image := m.bufferBytes, imageSet := true, imageBad := false, events := m.events + 1 } 5 0 m.swVer
    (Met.swVer { m with image := m.bufferBytes, imageSet := true, imageBad := false, events := m.events + 1 })
  obtain ⟨e, rfl, typ⟩ := has notFull
  rw [eq]
  exact ⟨e, _, typ, rfl⟩

/-- A failed load drops the blocks and leaves the image (R163; log entry 74). -/
theorem Met.imageEnd_unsigned {m : Met} {p : List Byte} (pins : PinLevels) (opened : m.state = .opened) (room : m.log.length < 1024) (len : p.length = 96)
    (unsigned : Config.metImageSigned m.bufferBytes p = false) : m.imageEnd p pins = ({ m with imageBuf := [] }).nak 4 := by
  unfold Met.imageEnd
  have notFull : m.logFull = false := by simp [Met.logFull, room]
  rw [m.refuses_of_opened true opened]
  simp only [notFull, len, unsigned, ne_eq, not_true, Bool.not_false, Bool.false_eq_true, if_false, if_true]

/-- With a full log nothing is changed (R161). -/
theorem Met.commit_full {m : Met} (p : List Byte) (pins : PinLevels) (opened : m.state = .opened) (full : 1024 ≤ m.log.length) : m.commit p pins = m.nak 3 := by
  unfold Met.commit
  rw [m.refuses_of_opened false opened]
  exact if_pos (by simpa [Met.logFull] using full)

theorem Met.imageEnd_full {m : Met} (p : List Byte) (pins : PinLevels) (opened : m.state = .opened) (full : 1024 ≤ m.log.length) : m.imageEnd p pins = m.nak 3 := by
  unfold Met.imageEnd
  rw [m.refuses_of_opened true opened]
  exact if_pos (by simpa [Met.logFull] using full)

/-! ### The commands -/

/-- What the five commands of change answer where the state refuses them. -/
theorem exec_change_refused {s : State} {r : Nat} (p : List Byte) (pins : PinLevels) (on : s.met.on = true) (h : ∀ image, s.met.refuses image = some r) :
    exec (.uartStage p) s = .next { s with met := s.met.nak r }
    ∧ exec (.uartDiscard p) s = .next { s with met := s.met.nak r }
    ∧ exec (.imageBlock p) s = .next { s with met := s.met.nak r }
    ∧ exec (.imageEnd p pins) s = .next { s with met := (s.met.nak r).applyStep s.tim.stopNs }
    ∧ exec (.uartCommit p pins) s = .next { s with met := (s.met.nak r).applyStep s.tim.stopNs } := by
  refine ⟨?_, ?_, ?_, ?_, ?_⟩
  · rw [exec, execUartStage, State.metDo_on _ on, Met.stage_refused p (h false)]
  · rw [exec, execUartDiscard, State.metDo_on _ on, Met.discard_refused p (h false)]
  · rw [exec, execImageBlock, State.metDo_on _ on, Met.imageBlock_refused p (h true)]
  · rw [exec, execImageEnd, State.metStep_on _ on, Met.imageEnd_refused p pins (h true)]
  · rw [exec, execUartCommit, State.metStep_on _ on, Met.commit_refused p pins (h false)]

/-- Settles O7: each command is its one equation in OPEN, and the reason that `Met.refuses` gives elsewhere. -/
theorem metChanges_holds : Obligations.MetChanges := by
  unfold Obligations.MetChanges
  refine ⟨fun s on opened => ⟨?stage, ?stageOfs, ?discard, ?block, fun p => ⟨?stageRange, ?discardRange, ?blockRange⟩⟩, ?commit, ?image,
    fun s p pins on => ⟨?isSealed, ?isBoot, ?isFull⟩⟩
  case stage =>
    intro p len port number other low high
    have value : stageValue p = (leAt p 2 4 : Nat) := if_neg other
    have ok : stageOk p := ⟨len, port, number, by rw [value]; exact low, by rw [value]; exact high⟩
    rw [exec, execUartStage, State.metDo_on _ on, Met.stage_ok opened ok, value]
  case stageOfs =>
    intro p len port number low high
    have value : stageValue p = sgn 32 (leAt p 2 4) := if_pos number
    have ok : stageOk p := ⟨len, port, by omega, by rw [value, number]; exact low, by rw [value, number]; exact high⟩
    rw [exec, execUartStage, State.metDo_on _ on, Met.stage_ok opened ok, value, number]
  case discard => rw [exec, execUartDiscard, State.metDo_on _ on, Met.discard_ok opened]
  case block =>
    intro p low high
    refine ⟨putBytes s.met.imageBuf (leAt p 0 4) (p.drop 4), ?_, fun i hi => ?_, fun k hk => ?_⟩
    · rw [exec, execImageBlock, State.metDo_on _ on, Met.imageBlock_ok opened low high]
    · exact tfind_putBytes_inside _ _ _ _ (by simpa using hi)
    · exact tfind_putBytes_outside _ _ _ _ (by simpa using hk)
  case stageRange =>
    intro bad
    have notOk : ¬ stageOk p := by
      rintro ⟨len, port, number, low, high⟩
      rcases bad with h | h | h | ⟨other, h⟩ | ⟨five, h⟩
      · exact h len
      · omega
      · omega
      · rw [stageValue, if_neg other] at low high; omega
      · rw [stageValue, if_pos five, five] at low high
        simp only [metRange] at low high
        omega
    rw [exec, execUartStage, State.metDo_on _ on, Met.stage_range opened notOk]
  case discardRange => exact fun full => by rw [exec, execUartDiscard, State.metDo_on _ on, Met.discard_range opened full]
  case blockRange => exact fun bad => by rw [exec, execImageBlock, State.metDo_on _ on, Met.imageBlock_range opened bad]
  case commit =>
    intro s pins on opened room speeds
    obtain ⟨e, ports, encs, typ, eq⟩ := Met.commit_ok pins opened room speeds
    obtain ⟨time, stop, due, stepped⟩ := Met.applyStep_eq (s.met.commit [] pins) s.tim.stopNs
    refine ⟨_, e, by rw [exec, execUartCommit, State.metStep_on _ on], ?_⟩
    rw [stepped, eq]
    exact ⟨rfl, rfl, rfl, rfl, typ, rfl, opened, rfl, rfl, rfl, rfl⟩
  case image =>
    intro s p pins on opened room len
    refine ⟨_, by rw [exec, execImageEnd, State.metStep_on _ on], rfl, fun signed => ?_, fun unsigned => ?_⟩
    · obtain ⟨e, tx, typ, eq⟩ := Met.imageEnd_ok pins opened room len signed
      obtain ⟨time, stop, due, stepped⟩ := Met.applyStep_eq (s.met.imageEnd p pins) s.tim.stopNs
      dsimp only
      rw [stepped, eq]
      exact ⟨rfl, rfl, rfl, ⟨e, rfl, typ⟩, rfl, rfl⟩
    · dsimp only
      rw [Met.imageEnd_unsigned pins opened room len unsigned]
  case isSealed => exact fun h => exec_change_refused p pins on fun image => Met.refuses_of_sealed image h
  case isBoot => exact fun h => exec_change_refused p pins on fun image => Met.refuses_of_boot image h
  case isFull =>
    intro opened full
    constructor
    · rw [exec, execImageEnd, State.metStep_on _ on, Met.imageEnd_full p pins opened full]
    · rw [exec, execUartCommit, State.metStep_on _ on, Met.commit_full p pins opened full]

end Sys2Proof.Machine
end

section
/-! SUPPORT. Norentum's encoder and barrier edges: what a filter accepts and what it moves (R143-R148, R158, R159, R584). -/

namespace Sys2Proof.Machine

/-! ### Tables changed entry by entry -/

theorem tmap_id {β : Type} (t : Tbl β) : tmap t (fun _ x => x) = t := by simp [tmap]

theorem tfind_tmap {β : Type} (t : Tbl β) (f : Nat → β → β) (k : Nat) : tfind (tmap t f) k = (tfind t k).map (f k) := by
  induction t with
  | nil => rfl
  | cons e t ih =>
    obtain ⟨a, b⟩ := e
    by_cases h : a = k
    · subst h; simp [tmap, tfind]
    · simpa [tmap, tfind, h] using ih

theorem tfind_tupd_same {β : Type} (t : Tbl β) (f : β → β) (k : Nat) : tfind (tupd t k f) k = (tfind t k).map f := by
  induction t with
  | nil => rfl
  | cons e t ih =>
    obtain ⟨a, b⟩ := e
    by_cases h : a = k <;> simp [tupd, tfind, h, ih]

theorem tfind_tupd_ne {β : Type} (t : Tbl β) (f : β → β) {k j : Nat} (h : j ≠ k) : tfind (tupd t k f) j = tfind t j := by
  induction t with
  | nil => rfl
  | cons e t ih =>
    obtain ⟨a, b⟩ := e
    by_cases h' : a = k
    · subst h'; simp [tupd, tfind, Ne.symm h]
    · simp [tupd, tfind, h', ih]

/-- A change of every entry that leaves what an unlisted one reads as. -/
theorem tget_tmap {β : Type} (d : β) (t : Tbl β) (f : Nat → β → β) (k : Nat) :
    tget d (tmap t f) k = tget d t k ∨ tget d (tmap t f) k = f k (tget d t k) := by
  rw [tget_eq, tget_eq, tfind_tmap]
  cases tfind t k with
  | none => exact .inl rfl
  | some v => exact .inr rfl

theorem tget_tupd_ne {β : Type} (d : β) (t : Tbl β) (f : β → β) {k j : Nat} (h : j ≠ k) : tget d (tupd t k f) j = tget d t j := by
  rw [tget_eq, tget_eq, tfind_tupd_ne t f h]

/-! ### A committed set takes effect -/

/-- A set that takes effect moves no position: of an encoder it changes the accepted levels at most (R159, R584). -/
theorem Met.applyParams_enc (m : Met) (pins : PinLevels) (k : Nat) : ∃ a b, (m.applyParams pins).enc k = { m.enc k with a := a, b := b } := by
  unfold Met.enc Met.applyParams
  dsimp only
  rcases tget_tmap default m.encs _ k with h | h
  · exact ⟨_, _, h⟩
  · rw [h]
    split <;> exact ⟨_, _, rfl⟩

/-- Without a set that waits nothing of an encoder changes. -/
theorem Met.applyParams_enc_of_none (m : Met) (pins : PinLevels) (k : Nat) (none : m.ports.all (fun p => !p.2.applyDue) = true) :
    (m.applyParams pins).enc k = m.enc k := by
  have calm (e : Nat) : (m.ports.any fun p => p.2.mayApply && (metSet m.committed p.1).menc == e) = false := by
    rw [List.any_eq_false]
    intro p hp
    have : p.2.applyDue = false := by simpa using List.all_eq_true.1 none p hp
    simp [MetPort.mayApply, this]
  unfold Met.enc Met.applyParams
  dsimp only
  simp only [calm, Bool.false_and, Bool.false_eq_true, if_false, tmap_id]

/-! ### An encoder edge -/

/-- The position of an encoder after its lines stand at `a` and `b`: one count up in the order 00, 10, 11, 01, one down against it, none where both or neither changed (R584). -/
def MetEnc.movedPos (c : MetEnc) (a b : Bool) : Nat :=
  if (a != c.a) == (b != c.b) then c.pos
  else if (if a != c.a then a != b else a == b) then (c.pos + 1) % 2 ^ 32 else (c.pos + 2 ^ 32 - 1) % 2 ^ 32

/-- One count up or down where one line alone has changed (R584). -/
theorem MetEnc.movedPos_a {c : MetEnc} {a b : Bool} (ha : a ≠ c.a) (hb : b = c.b) :
    c.movedPos a b = if a ≠ b then (c.pos + 1) % 2 ^ 32 else (c.pos + 2 ^ 32 - 1) % 2 ^ 32 := by
  have changed : (a != c.a) = true := bne_iff_ne.2 ha
  have stayed : (b != c.b) = false := by rw [hb]; exact bne_self_eq_false _
  simp only [MetEnc.movedPos, changed, stayed, Bool.true_eq_false, beq_iff_eq, if_false, if_true, bne_iff_ne]

theorem MetEnc.movedPos_b {c : MetEnc} {a b : Bool} (ha : a = c.a) (hb : b ≠ c.b) :
    c.movedPos a b = if a = b then (c.pos + 1) % 2 ^ 32 else (c.pos + 2 ^ 32 - 1) % 2 ^ 32 := by
  have changed : (b != c.b) = true := bne_iff_ne.2 hb
  have stayed : (a != c.a) = false := by rw [ha]; exact bne_self_eq_false _
  simp only [MetEnc.movedPos, changed, stayed, Bool.false_eq_true, beq_iff_eq, if_false]

theorem MetEnc.movedPos_same {c : MetEnc} {a b : Bool} (h : (a != c.a) = (b != c.b)) : c.movedPos a b = c.pos := if_pos (by simp [h])

/-- What an accepted encoder edge leaves: the encoder at the new levels and position, the highest position above it only, every other encoder, and the ports but for their measurements (R584). -/
structure EdgeTaken (m : Met) (e : Nat) (a b : Bool) (m' : Met) : Prop where
  levels : (m'.enc e).a = a ∧ (m'.enc e).b = b
  pos : (m'.enc e).pos = (m.enc e).movedPos a b
  high : (m'.enc e).high = (m.enc e).high ∨ (m'.enc e).high = (m'.enc e).pos ∧ 0 < sdiff 32 (m'.enc e).pos (m.enc e).high
  others : ∀ k, k ≠ e → m'.enc k = m.enc k
  ports : ∃ f : Meas → Meas, m'.ports = tmap m.ports (fun _ p => { p with meas := p.meas.map f })
  rest : ∃ ports encs, m' = { m with ports := ports, encs := encs }

/-- An encoder put in place, and the measurements changed with it. -/
theorem edgeTaken_of_put {m : Met} {e : Nat} {a b : Bool} {c : MetEnc} {f : Meas → Meas} (levels : c.a = a ∧ c.b = b)
    (pos : c.pos = (m.enc e).movedPos a b) (high : c.high = (m.enc e).high ∨ c.high = c.pos ∧ 0 < sdiff 32 c.pos (m.enc e).high) :
    EdgeTaken m e a b (({ m with encs := tput m.encs e c } : Met).mapMeas f) := by
  have here : (({ m with encs := tput m.encs e c } : Met).mapMeas f).enc e = c := tget_tput_same _ _ _ _
  exact ⟨by rw [here]; exact levels, by rw [here]; exact pos, by rw [here]; exact high, fun k hk => tget_tput_ne _ _ _ hk, ⟨f, rfl⟩, ⟨_, _, rfl⟩⟩

theorem Met.mapMeas_id (m : Met) : m.mapMeas (fun q => q) = m := by
  simp [Met.mapMeas, tmap]

theorem Met.encEdge_taken {m : Met} {e : Nat} {a b : Bool} {stamp : Stamp} (stood : m.stood stamp 5 = true) :
    EdgeTaken m e a b (m.encEdge e a b stamp) := by
  unfold Met.encEdge
  extract_lets c put up pos below now raised lowered
  rw [if_neg (by simp [stood])]
  split
  next both =>
    simp only [Bool.and_eq_true] at both
    exact edgeTaken_of_put ⟨rfl, rfl⟩ (MetEnc.movedPos_same (both.1.trans both.2.symm)).symm (.inl rfl)
  next notBoth =>
    split
    next neither =>
      simp only [Bool.and_eq_true, beq_iff_eq] at neither
      exact ⟨⟨neither.1.symm, neither.2.symm⟩, (MetEnc.movedPos_same (by simp [c, neither])).symm, .inl rfl, fun _ _ => rfl, ⟨fun q => q, by simp [tmap]⟩, ⟨_, _, rfl⟩⟩
    next notNeither =>
      have one : (a != c.a) ≠ (b != c.b) := by
        revert notBoth notNeither
        cases a <;> cases b <;> cases c.a <;> cases c.b <;> decide
      have moved : pos = c.movedPos a b := by
        rw [MetEnc.movedPos, if_neg (by simpa using one)]
      split
      next above => exact edgeTaken_of_put ⟨rfl, rfl⟩ moved (.inr ⟨rfl, above⟩)
      next =>
        split
        · exact edgeTaken_of_put ⟨rfl, rfl⟩ moved (.inl rfl)
        · rw [← Met.mapMeas_id lowered]
          exact edgeTaken_of_put ⟨rfl, rfl⟩ moved (.inl rfl)

theorem Met.encEdge_not_stood {m : Met} {e : Nat} {a b : Bool} {stamp : Stamp} (stood : m.stood stamp 5 = false) : m.encEdge e a b stamp = m := by
  unfold Met.encEdge
  rw [stood]; rfl

/-- What an encoder edge at Norentum's filter leaves once a set that waits has taken effect. -/
theorem Met.encEdge_applied {m : Met} {e : Nat} {a b : Bool} (pins : PinLevels) (still : Nat) {m' : Met} (h : EdgeTaken m e a b m') :
    let t := (m'.applyParams pins).applyStep still
    (m.ports.all (fun p => !p.2.applyDue) = true → (t.enc e).a = a ∧ (t.enc e).b = b ∧ ∀ k, k ≠ e → t.enc k = m.enc k)
    ∧ (t.enc e).pos = (m.enc e).movedPos a b
    ∧ ((t.enc e).high = (m.enc e).high ∨ (t.enc e).high = (t.enc e).pos ∧ 0 < sdiff 32 (t.enc e).pos (m.enc e).high)
    ∧ (∀ k, k ≠ e → (t.enc k).pos = (m.enc k).pos ∧ (t.enc k).high = (m.enc k).high)
    ∧ t.log = m.log ∧ t.records = m.records ∧ t.committed = m.committed := by
  intro t
  obtain ⟨⟨la, lb⟩, pos, high, others, ⟨f, ports⟩, ps, es, rest⟩ := h
  obtain ⟨time, stop, due, stepped⟩ := Met.applyStep_eq (m'.applyParams pins) still
  have enc (k : Nat) : t.enc k = (m'.applyParams pins).enc k := by simp only [t, stepped]; rfl
  have applied (k : Nat) : (t.enc k).pos = (m'.enc k).pos ∧ (t.enc k).high = (m'.enc k).high := by
    obtain ⟨a, b, eq⟩ := m'.applyParams_enc pins k
    rw [enc, eq]; exact ⟨rfl, rfl⟩
  refine ⟨fun none => ?_, ?_, ?_, fun k hk => ?_, ?_⟩
  · have none' : m'.ports.all (fun p => !p.2.applyDue) = true := by
      rw [ports]; simpa [tmap, List.all_map, Function.comp_def] using none
    simp only [enc, Met.applyParams_enc_of_none m' pins _ none']
    exact ⟨la, lb, others⟩
  · rw [(applied e).1, pos]
  · rw [(applied e).1, (applied e).2]; exact high
  · rw [(applied k).1, (applied k).2, others k hk]; exact ⟨rfl, rfl⟩
  · simp only [t, stepped, rest]; exact ⟨rfl, rfl, rfl⟩

/-! ### Barrier edges -/

theorem Met.lead_waits {m : Met} {n : Nat} {stamp : Stamp} (h : (m.port n).blocked = true ∨ m.stood stamp (m.port n).inForce.mbarFilt = false) :
    m.lead n stamp = m := by
  unfold Met.lead
  exact if_pos (by simpa using h)

/-- A blocking edge starts a measurement with what is in force at its stamp (R144, R148, R158). -/
def Met.started (m : Met) (n : Nat) (stamp : Stamp) : Meas :=
  { lead := stamp, evt := m.eventCnt, crc := metParamCrc m.committed, prm := (m.port n).inForce
    sealOpen := m.state != .sealed, dip := (m.enc (m.port n).inForce.menc).dipAt stamp, illegal := false
    lines := (((m.port n).taps.reverse.filter (fun x => x.plane == (m.port n).inForce.chan && decide (0 ≤ stampDiff x.stamp stamp))).map
      (fun x => x.line (m.port n).inForce))
    trail := none, long := none, interpDone := false }

theorem Met.lead_starts {m : Met} {n : Nat} {stamp : Stamp} (state : m.state = .sealed ∨ m.state = .opened) (free : (m.port n).blocked = false)
    (idle : (m.port n).busy = false) (stood : m.stood stamp (m.port n).inForce.mbarFilt = true) :
    m.lead n stamp = { m with ports := tput m.ports n { m.port n with blocked := true, meas := (m.port n).meas ++ [m.started n stamp] } } := by
  have make : ((decide (m.state = .sealed) || decide (m.state = .opened)) && !(m.port n).busy) = true := by simpa [idle] using state
  unfold Met.lead
  dsimp only
  rw [if_neg (by simp [free, stood]), make]
  rfl

/-- An unblocking edge at `stamp` ends the extent of a measurement under way (R144). -/
def Met.ended (m : Met) (stamp : Stamp) (q : Meas) : Meas :=
  if q.open then { q with trail := some stamp, interpDone := (m.enc q.prm.menc).edges.any (fun x => decide (0 < stampDiff x.1 stamp)) } else q

theorem Met.ended_not_open (m : Met) (stamp : Stamp) (q : Meas) : (m.ended stamp q).open = false := by
  unfold Met.ended
  split
  · rfl
  next closed => simpa using closed

theorem Met.trail_waits {m : Met} {n : Nat} {stamp : Stamp} (stood : m.stood stamp (m.port n).barFilt = false) : m.trail n stamp = m := by
  unfold Met.trail
  dsimp only
  rw [stood]; rfl

theorem Met.trail_ends {m : Met} {n : Nat} {stamp : Stamp} (stood : m.stood stamp (m.port n).barFilt = true) :
    m.trail n stamp = { m with ports := tput m.ports n { m.port n with blocked := false, meas := (m.port n).meas.map (m.ended stamp) } } := by
  unfold Met.trail
  dsimp only
  rw [stood]; rfl

/-- A port that is listed takes the set that waits for it once no measurement is under way on it (R159). -/
theorem Met.applyParams_port {m : Met} {n : Nat} {p : MetPort} (pins : PinLevels) (h : tfind m.ports n = some p) (idle : p.busy = false) :
    (m.applyParams pins).port n = if p.applyDue then p.takeSet (metSet m.committed n) pins else p := by
  unfold Met.applyParams Met.port
  dsimp only
  rw [tget_eq, tfind_tmap, h]
  simp [MetPort.mayApply, idle]

/-- An accepted transition that changes neither line is none. -/
theorem Met.encEdge_none {m : Met} {e : Nat} {a b : Bool} {stamp : Stamp} (ha : a = (m.enc e).a) (hb : b = (m.enc e).b) : m.encEdge e a b stamp = m := by
  unfold Met.encEdge
  simp [← ha, ← hb]

/-- What an unblocking edge leaves of its port once a set that waits has taken effect (R144, R159). -/
theorem Met.trail_port {m : Met} {n : Nat} {stamp : Stamp} (pins : PinLevels) (still : Nat) (stood : m.stood stamp (m.port n).barFilt = true) :
    (((m.trail n stamp).applyParams pins).applyStep still).port n
      = if (m.port n).applyDue
        then MetPort.takeSet { m.port n with blocked := false, meas := (m.port n).meas.map (m.ended stamp) } (metSet m.committed n) pins
        else { m.port n with blocked := false, meas := (m.port n).meas.map (m.ended stamp) } := by
  have idle : MetPort.busy { m.port n with blocked := false, meas := (m.port n).meas.map (m.ended stamp) } = false := by
    simp [MetPort.busy, Met.ended_not_open]
  obtain ⟨time, stop, due, stepped⟩ := Met.applyStep_eq ((m.trail n stamp).applyParams pins) still
  rw [stepped, Met.trail_ends stood]
  exact Met.applyParams_port (m := { m with ports := tput m.ports n { m.port n with blocked := false, meas := (m.port n).meas.map (m.ended stamp) } })
    pins (tfind_tput_same _ _ _) idle

/-- The wait for a counted edge has ended for a measurement whose trailing edge lies 10 ms back (R145). -/
def Met.waitedOut (m : Met) (q : Meas) : Meas :=
  match q.trail with
  | some t => if 10000000 * 65536 ≤ stampDiff m.time t then { q with interpDone := true } else q
  | none => q

theorem Met.interpTimeout_port (m : Met) (n : Nat) {p : MetPort} (h : tfind m.ports n = some p) :
    (m.interpTimeout n).port n = { p with meas := p.meas.map m.waitedOut } := by
  unfold Met.interpTimeout Met.port
  dsimp only
  rw [tget_eq, tfind_tupd_same, h]
  rfl

/-- Settles O8: `encEdge_taken` says what an edge moves, and `lead_starts` and `trail_ends` what the barrier edges do to a port. -/
theorem metEdges : Obligations.MetEdges := by
  unfold Obligations.MetEdges
  refine ⟨fun s e a b stamp pins on => ?encoder, fun s n stamp pins on => ⟨?lead, ?leadWaits, ?trail, ?trailWaits, ?interp⟩⟩
  case encoder =>
    have run : exec (.metEncEdge e a b stamp pins) s = .next { s with met := ((s.met.encEdge e a b stamp).applyParams pins).applyStep s.tim.stopNs } := by
      rw [exec, execMetEncEdge, State.metStep_on _ on]
    refine ⟨fun stood => ⟨_, run, rfl, ?_⟩, fun stood => ?_⟩
    · obtain ⟨levels, pos, high, others, logged⟩ := Met.encEdge_applied pins s.tim.stopNs (Met.encEdge_taken (e := e.val) (a := a) (b := b) stood)
      refine ⟨levels, ?both, ?neither, ?aAlone, ?bAlone, high, others, logged⟩
      case both => exact fun ha hb => pos.trans (MetEnc.movedPos_same (by rw [bne_iff_ne.2 ha, bne_iff_ne.2 hb]))
      case neither => exact fun ha hb => by rw [Met.encEdge_none ha hb]
      case aAlone => exact fun ha hb => pos.trans (MetEnc.movedPos_a ha hb)
      case bAlone => exact fun ha hb => pos.trans (MetEnc.movedPos_b ha hb)
    · rw [run, Met.encEdge_not_stood stood]
  case lead =>
    intro state free idle stood
    have run : exec (.metLeadEdge n stamp) s = .next { s with met := s.met.lead n stamp } := by rw [exec, execMetLeadEdge, State.metDo_on _ on]
    rw [Met.lead_starts state free idle stood] at run
    have port := tget_tput_same default s.met.ports n { s.met.port n with blocked := true, meas := (s.met.port n).meas ++ [s.met.started n stamp] }
    refine ⟨_, s.met.started n stamp, run, rfl, congrArg MetPort.meas port, congrArg MetPort.blocked port, rfl, rfl, rfl, rfl, rfl, ?_,
      fun k hk => tget_tput_ne _ _ _ hk⟩
    rcases state with h | h <;> simp [Met.started, h]
  case leadWaits => exact fun h => by rw [exec, execMetLeadEdge, State.metDo_on _ on, Met.lead_waits h]
  case trail =>
    intro stood
    have run : exec (.metTrailEdge n stamp pins) s = .next { s with met := ((s.met.trail n stamp).applyParams pins).applyStep s.tim.stopNs } := by
      rw [exec, execMetTrailEdge, State.metStep_on _ on]
    have port := Met.trail_port pins s.tim.stopNs stood
    refine ⟨_, run, rfl, fun wait => ?_, fun due => ?_, ?_, ?_⟩
    · rw [port, wait]; exact ⟨rfl, rfl⟩
    · rw [port, due]; exact ⟨rfl, rfl⟩
    · rw [port]; split <;> rfl
    · obtain ⟨time, stop, due, stepped⟩ := Met.applyStep_eq ((s.met.trail n stamp).applyParams pins) s.tim.stopNs
      dsimp only
      rw [stepped, Met.trail_ends stood]
      exact ⟨rfl, rfl, rfl⟩
  case trailWaits => exact fun h => by rw [exec, execMetTrailEdge, State.metStep_on _ on, Met.trail_waits h]
  case interp =>
    have run : exec (.metInterpTimeout n) s = .next { s with met := s.met.interpTimeout n } := by rw [exec, execMetInterpTimeout, State.metDo_on _ on]
    refine ⟨_, run, rfl, fun q hq x trail waited => ?_, fun k hk => tget_tupd_ne _ _ _ hk, rfl, rfl⟩
    obtain ⟨p, listed⟩ : ∃ p, tfind s.met.ports n = some p := by
      cases h : tfind s.met.ports n with
      | some p => exact ⟨p, rfl⟩
      | none => rw [Met.port, tget_eq, h] at hq; cases hq
    have before : s.met.port n = p := by rw [Met.port, tget_eq, listed]; rfl
    rw [before] at hq
    have after := s.met.interpTimeout_port n listed
    dsimp only
    rw [after]
    refine List.mem_map.2 ⟨q, hq, ?_⟩
    rw [Met.waitedOut, trail]
    exact if_pos waited

end Sys2Proof.Machine
end

section
/-! SUPPORT. The record of a measurement: its length, its MAC and its frame (R151, R153, R166). -/

namespace Sys2Proof.Machine

/-! ### Lengths of digests -/

theorem shaInit_length : shaInit.length = 8 := by decide +kernel

theorem shaRound_length (v : List Nat) (k : Nat) : (shaRound v k).length = v.length := by
  unfold shaRound; split <;> rfl

theorem shaBlock_length (h : List Nat) (b : List Byte) : (shaBlock h b).length = h.length := by
  have rounds (l : List Nat) : (l.foldl shaRound h).length = h.length := foldl_keeps List.length shaRound_length l h
  simp [shaBlock, rounds]

theorem shaBlocks_length (n : Nat) (h : List Nat) (l : List Byte) : (shaBlocks n h l).length = h.length := by
  induction n generalizing h l with
  | zero => rfl
  | succ n ih => rw [shaBlocks, ih, shaBlock_length]

theorem sha256_length (l : List Byte) : (sha256 l).length = 32 := by
  have words : (fun x => (beBytes 4 x).length) = fun _ => 4 := by funext x; simp [beBytes]
  unfold sha256
  dsimp only
  rw [List.length_flatMap, words, List.map_const', List.sum_replicate, shaBlocks_length, shaInit_length]
  rfl

theorem metMac_length (body : List Byte) : (metMac body).length = 8 := by
  rw [metMac, hmac256, List.length_take, sha256_length]; rfl

/-! ### The record -/

/-- A record begins with its reference, and is 56 bytes (R151). The two results that its flags and fields are taken from stand for themselves: the kernel would compute the times in them. -/
theorem Meas.record_split (q : Meas) (m : Met) (n mref free : Nat) (hold no : Bool) :
    ∃ rest : List Byte, q.record m n mref free hold no = leBytes 4 mref ++ rest ∧ rest.length = 52 := by
  obtain ⟨record, is⟩ : ∃ r, r = @Meas.record := ⟨_, rfl⟩
  obtain ⟨lenSpeed, ls⟩ : ∃ f, f = @Meas.lenSpeed := ⟨_, rfl⟩
  obtain ⟨skew, sk⟩ : ∃ f, f = @Meas.skew := ⟨_, rfl⟩
  rw [← is]
  delta Meas.record at is
  rw [← ls, ← sk] at is
  subst is
  dsimp only
  simp only [List.append_assoc]
  exact ⟨_, rfl, by simp [zeros]⟩

theorem Meas.record_length (q : Meas) (m : Met) (n mref free : Nat) (hold no : Bool) : (q.record m n mref free hold no).length = 56 := by
  obtain ⟨rest, eq, len⟩ := q.record_split m n mref free hold no
  rw [eq, List.length_append, len, leBytes_length]

theorem Meas.record_mref (q : Meas) (m : Met) (n mref free : Nat) (hold no : Bool) : leAt (q.record m n mref free hold no) 0 4 = mref % 2 ^ 32 := by
  obtain ⟨rest, eq, -⟩ := q.record_split m n mref free hold no
  rw [eq, leAt_header]

/-- MREF counts on without 0 (R153). -/
def nextMref (m : Nat) : Nat := if (m + 1) % 2 ^ 32 = 0 then 1 else m + 1

/-- The record of the port's oldest measurement, once it is finished, in SEALED or OPEN (R153). -/
theorem State.metRecord_makes {s : State} {n : Nat} {q : Meas} {rest : List Meas} (state : s.met.state = .sealed ∨ s.met.state = .opened)
    (first : (s.met.port n).meas = q :: rest) (ended : q.open = false) (done : q.interpDone = true) :
    s.metRecord n = { s with freeCtr := s.freeCtr + 1, met := (Met.frame
      { s.met with mref := nextMref s.met.mref, ports := tput s.met.ports n { s.met.port n with meas := rest }
                   records := tput s.met.records (nextMref s.met.mref % 4096)
                     (q.record s.met n (nextMref s.met.mref) (Config.freeValue s.freeCtr) s.metHold (!s.sys.released)
                       ++ metMac (q.record s.met n (nextMref s.met.mref) (Config.freeValue s.freeCtr) s.metHold (!s.sys.released))) }
      1 (q.record s.met n (nextMref s.met.mref) (Config.freeValue s.freeCtr) s.metHold (!s.sys.released)
        ++ metMac (q.record s.met n (nextMref s.met.mref) (Config.freeValue s.freeCtr) s.metHold (!s.sys.released)))).prune } := by
  have go : (q.open || !q.interpDone || (s.met.state != .sealed && s.met.state != .opened)) = false := by
    rcases state with h | h <;> simp [ended, done, h]
  unfold State.metRecord
  dsimp only
  rw [first]
  dsimp only
  rw [go]
  rfl

/-- The frame of a record of 64 bytes (R166). -/
theorem Met.frame_record_tx (m : Met) (rec64 : List Byte) (len : rec64.length = 64) :
    (m.frame 1 rec64).uartTx = m.uartTx ++ [[0x7E, 1] ++ leBytes 2 64 ++ rec64 ++ leBytes 4 (crc32 ([1] ++ leBytes 2 64 ++ rec64))] := by
  have one : leBytes 1 1 = [1] := rfl
  simp only [Met.frame, len, one, List.append_assoc, List.cons_append, List.nil_append]

/-- Settles O9: the record is 56 bytes and its MAC of 8, so its frame names 64. -/
theorem metRecordMade : Obligations.MetRecordMade := by
  unfold Obligations.MetRecordMade
  intro s n q rest on state first ended done
  have made := State.metRecord_makes (n := n.val) state first ended done
  have len := q.record_length s.met n (nextMref s.met.mref) (Config.freeValue s.freeCtr) s.metHold (!s.sys.released)
  have mref := q.record_mref s.met n (nextMref s.met.mref) (Config.freeValue s.freeCtr) s.metHold (!s.sys.released)
  generalize q.record s.met n (nextMref s.met.mref) (Config.freeValue s.freeCtr) s.metHold (!s.sys.released) = body at made len mref
  have run : exec (.metRecordDone n) s = .next { s with met := (s.metRecord n.val).met, freeCtr := (s.metRecord n.val).freeCtr } := by
    rw [exec, execMetRecordDone, State.onMet, on]; rfl
  rw [made] at run
  have frame : (body ++ metMac body).length = 64 := by rw [List.length_append, len, metMac_length]
  refine ⟨_, body, run, rfl, rfl, tfind_tput_same _ _ _, len, mref, ?tx, rfl, rfl, rfl⟩
  case tx =>
    refine (Met.frame_record_tx _ (body ++ metMac body) frame).trans ?_
    simp only [metMac, List.append_assoc]

end Sys2Proof.Machine
end

section
/-! SUPPORT. Norentum's states: boot, a change of SEAL_N, the watchdog and the supply (R137, R140, R142, R156, R157, R168, R530). -/

namespace Sys2Proof.Machine

/-! ### Log entries -/

/-- A log with room takes the entry of a note, of the type that it names. -/
theorem Met.note_room {m : Met} (y d : Nat) (room : m.log.length < 1024) :
    ∃ e : List Byte, m.note y d = { m with log := m.log ++ [e] } ∧ e.getD 2 0 = BitVec.ofNat 8 y := by
  obtain ⟨l, eq, -, has⟩ := m.append_eq y d (metParamCrc m.committed) (metParamCrc m.committed)
  obtain ⟨e, rfl, typ⟩ := has (by simp [Met.logFull, room])
  exact ⟨e, eq, typ⟩

/-- A note changes the log alone. -/
theorem Met.note_eq (m : Met) (y d : Nat) : ∃ l, m.note y d = { m with log := l } := by
  obtain ⟨l, eq, -⟩ := m.append_eq y d (metParamCrc m.committed) (metParamCrc m.committed)
  exact ⟨l, eq⟩

/-! ### Boot -/

/-- The check of image, parameters and OTP, with POWER_ON logged (R156, R160). -/
def Met.checked (m : Met) (image params otp : Bool) : Met :=
  let m := { m with romDone := true, imageBad := m.imageBad || image, flashBad := m.flashBad || params, otpBad := m.otpBad || otp }
  if m.powerLogged then m else { m.note 1 0 with powerLogged := true }

theorem Met.bootDone_boot {m : Met} (image params otp : Bool) (boot : m.state = .boot) : m.bootDone image params otp = (m.checked image params otp).enter :=
  if_neg (by simp [boot])

/-- The check leaves what it does not speak of, and its log entry is POWER_ON, once. -/
theorem Met.checked_eq (m : Met) (image params otp : Bool) : ∃ l, m.checked image params otp
      = { m with romDone := true, imageBad := m.imageBad || image, flashBad := m.flashBad || params, otpBad := m.otpBad || otp, powerLogged := true, log := l }
    ∧ (m.powerLogged = true → l = m.log) ∧ (m.powerLogged = false → m.log.length < 1024 → ∃ e, l = m.log ++ [e] ∧ e.getD 2 0 = 1) := by
  unfold Met.checked
  by_cases logged : m.powerLogged = true
  · exact ⟨m.log, by simp [logged], fun _ => rfl, fun no => by rw [logged] at no; cases no⟩
  · rw [if_neg (by simp [logged])]
    obtain ⟨l, eq⟩ := Met.note_eq { m with romDone := true, imageBad := m.imageBad || image, flashBad := m.flashBad || params, otpBad := m.otpBad || otp } 1 0
    refine ⟨l, by rw [eq], fun yes => absurd yes logged, fun _ room => ?_⟩
    obtain ⟨e, eq', typ⟩ := Met.note_room (m := { m with romDone := true, imageBad := m.imageBad || image, flashBad := m.flashBad || params, otpBad := m.otpBad || otp }) 1 0 room
    exact ⟨e, congrArg Met.log (eq.symm.trans eq'), typ⟩

theorem Met.enter_good {m : Met} (boot : m.state = .boot) (rom : m.romDone = true) (image : m.imageBad = false) (flash : m.flashBad = false)
    (otp : m.otpBad = false) (known : m.sealKnown = true) : m.enter = { m with state := if m.sealLow then .sealed else .opened, cause := 0 } := by
  unfold Met.enter
  simp [boot, rom, image, flash, otp, known]

/-- A failed check is FAULT with its cause, the first of image, parameters and OTP (R156; log entry 13). -/
theorem Met.enter_bad {m : Met} (boot : m.state = .boot) (rom : m.romDone = true) (bad : (m.imageBad || m.flashBad || m.otpBad) = true) :
    ∃ l st, m.enter = { m with state := .fault, cause := if m.imageBad then 2 else if m.flashBad then 3 else 4, log := l, staged := st } := by
  unfold Met.enter
  extract_lets fault
  have faulted (c : Nat) : ∃ l st, fault m c = { m with state := .fault, cause := c, log := l, staged := st } := by
    obtain ⟨l, eq⟩ := Met.note_eq { m with state := .fault, cause := c } 6 c
    exact ⟨l, _, by unfold fault; dsimp only; rw [eq]⟩
  rw [if_neg (by simp [boot, rom])]
  by_cases image : m.imageBad = true
  · rw [if_pos image, if_pos image]
    exact faulted 2
  · rw [if_neg image, if_neg image]
    by_cases flash : m.flashBad = true
    · rw [if_pos flash, if_pos flash]
      exact faulted 3
    · rw [if_neg flash, if_neg flash, if_pos (by simpa [image, flash] using bad)]
      exact faulted 4

/-! ### A change of SEAL_N -/

/-- A known level of SEAL_N that goes high opens a sealed Norentum, and the change is logged (R157). -/
theorem Met.sealChange_opens {m : Met} (state : m.state = .sealed) (known : m.sealKnown = true) (low : m.sealLow = true) (room : m.log.length < 1024) :
    ∃ (e : List Byte) (ports : Tbl MetPort), e.getD 2 0 = 2 ∧ m.sealChange true = { m with state := .opened, sealLow := false, log := m.log ++ [e], ports := ports } := by
  obtain ⟨e, eq, typ⟩ := Met.note_room (m := { m with sealLow := false }) 2 0 room
  have turned : m.sealChange true = { m with
      state := .opened, sealLow := false, log := m.log ++ [e]
      ports := (({ m with sealLow := false, log := m.log ++ [e] } : Met).mapMeas (fun q => if q.open then { q with sealOpen := true } else q)).ports } := by
    unfold Met.sealChange
    rw [if_neg (by simp [known]), if_neg (by simp [low])]
    rw [show ({ m with sealLow := !true } : Met).note (if true then 2 else 3) 0 = _ from eq]
    cases m
    dsimp only at state
    subst state
    rfl
  exact ⟨e, _, typ, turned⟩

/-- One that goes low seals an open Norentum. -/
theorem Met.sealChange_seals {m : Met} (state : m.state = .opened) (known : m.sealKnown = true) (high : m.sealLow = false) (room : m.log.length < 1024) :
    ∃ (e : List Byte) (staged : Tbl Int), e.getD 2 0 = 3 ∧ m.sealChange false = { m with state := .sealed, sealLow := true, log := m.log ++ [e], staged := staged } := by
  obtain ⟨e, eq, typ⟩ := Met.note_room (m := { m with sealLow := true }) 3 0 room
  have turned : m.sealChange false = { m with
      state := .sealed, sealLow := true, log := m.log ++ [e]
      staged := if ({ m with sealLow := true, log := m.log ++ [e] } : Met).paramFault then [] else m.committed } := by
    unfold Met.sealChange
    rw [if_neg (by simp [known]), if_neg (by simp [high])]
    rw [show ({ m with sealLow := !false } : Met).note (if false then 2 else 3) 0 = _ from eq]
    cases m
    dsimp only at state
    subst state
    rfl
  exact ⟨e, _, typ, turned⟩

/-! ### Restarts -/

theorem tget_of_forall {β : Type} {P : β → Prop} {d : β} {t : Tbl β} (h : ∀ e ∈ t, P e.2) (hd : P d) (k : Nat) : P (tget d t k) := by
  induction t with
  | nil => exact hd
  | cons e t ih =>
    obtain ⟨a, b⟩ := e
    rw [tget]
    split
    · exact h (a, b) (by simp)
    · exact ih (fun e he => h e (by simp [he]))

/-- A restart loses every measurement. -/
theorem Met.restart_meas (m : Met) (pins : PinLevels) : ∀ e ∈ (m.restart pins).ports, e.2.meas = [] := by
  intro e he
  simp only [Met.restart, Met.applyParams, tmap, List.map_map, List.mem_map, Function.comp] at he
  obtain ⟨n, -, rfl⟩ := he
  dsimp only
  split <;> rfl

theorem Met.startFilters_meas {m : Met} (pins : PinLevels) (h : ∀ e ∈ m.ports, e.2.meas = []) (n : Nat) : ((m.startFilters pins).port n).meas = [] := by
  refine tget_of_forall (P := fun p : MetPort => p.meas = []) ?_ rfl n
  intro e he
  simp only [Met.startFilters, tmap, List.mem_map] at he
  obtain ⟨e', he', rfl⟩ := he
  exact h e' he'

theorem Met.startFilters_pos (m : Met) (pins : PinLevels) (k : Nat) : ((m.startFilters pins).enc k).pos = 0 := by
  refine tget_of_forall (P := fun c : MetEnc => c.pos = 0) ?_ rfl k
  intro e he
  simp only [Met.startFilters, List.mem_map] at he
  obtain ⟨n, -, rfl⟩ := he
  rfl

theorem Met.startFilters_ab (m : Met) (pins : PinLevels) (k : Fin 4) :
    (((m.startFilters pins).enc k).a, ((m.startFilters pins).enc k).b) = pins.enc.getD k (false, false) := by
  revert k
  intro k
  match k with
  | 0 => rfl
  | 1 => rfl
  | 2 => rfl
  | 3 => rfl

/-! ### Without VDD_MET -/

theorem State.metDo_off {s : State} (f : Met → Met) (h : s.met.on = false) : s.metDo f = .next s := by
  simp [State.metDo, State.onMet, h]

theorem State.metStep_off {s : State} (f : Met → Met) (h : s.met.on = false) : s.metStep f = .next s := by
  simp [State.metStep, State.onMet, h]

theorem State.onMet_off {s : State} (f : State → State) (h : s.met.on = false) : s.onMet f = .next s := by
  simp [State.onMet, h]

/-- Without its supply no command of Norentum does anything but power-on (R137). -/
theorem exec_met_off {s : State} {c : Instr} (off : s.met.on = false) (hc : isMet c = true) (notOn : ∀ pins, c ≠ .metPowerOn pins) : exec c s = .next s := by
  cases c <;> dsimp only [exec]
  case metPowerOn pins => exact absurd rfl (notOn pins)
  case metPowerOff =>
    rw [execMetPowerOff, ← off]
  all_goals first
    | exact absurd (show false = true from hc) Bool.noConfusion
    | exact State.metDo_off _ off
    | exact State.metStep_off _ off
    | exact State.onMet_off _ off

/-- Settles O10: one equation for each change of the state, and the restart that the watchdog and power-on share. -/
theorem metStatesAndSupply : Obligations.MetStatesAndSupply := by
  unfold Obligations.MetStatesAndSupply
  refine ⟨fun s on room => ⟨?good, ?bad, ?opens, ?seals, ?calm, ?watchdog⟩, fun s => ⟨?powerOn, ?alreadyOn, rfl, ?off⟩⟩
  case good =>
    intro boot image flash otp known
    have run : exec (.metBootDone false false false) s = .next { s with met := s.met.bootDone false false false } := by
      rw [exec, execMetBootDone, State.metDo_on _ on]
    obtain ⟨l, eq, again, first⟩ := s.met.checked_eq false false false
    refine ⟨_, run, rfl, ?_⟩
    dsimp only
    rw [Met.bootDone_boot _ _ _ boot, eq, Met.enter_good]
    · exact ⟨rfl, rfl, again, fun no => first no room, rfl⟩
    all_goals simp [boot, image, flash, otp, known]
  case bad =>
    intro image params otp boot bad
    have run : exec (.metBootDone image params otp) s = .next { s with met := s.met.bootDone image params otp } := by
      rw [exec, execMetBootDone, State.metDo_on _ on]
    obtain ⟨l, eq, -⟩ := s.met.checked_eq image params otp
    refine ⟨_, run, rfl, ?_⟩
    dsimp only
    rw [Met.bootDone_boot _ _ _ boot, eq]
    obtain ⟨l', st, eq'⟩ := Met.enter_bad (m := { s.met with romDone := true, imageBad := s.met.imageBad || image, flashBad := s.met.flashBad || params, otpBad := s.met.otpBad || otp, powerLogged := true, log := l })
      boot rfl (by simp only [Bool.or_eq_true] at bad ⊢; tauto)
    rw [eq']
    exact ⟨rfl, rfl, rfl, rfl⟩
  case opens =>
    intro state known low
    have run : exec (.sealChange true) s = .next { s with met := s.met.sealChange true } := by rw [exec, execSealChange, State.metDo_on _ on]
    obtain ⟨e, ports, typ, eq⟩ := Met.sealChange_opens state known low room
    rw [eq] at run
    exact ⟨_, e, run, rfl, rfl, rfl, rfl, typ, rfl, rfl⟩
  case seals =>
    intro state known high
    have run : exec (.sealChange false) s = .next { s with met := s.met.sealChange false } := by rw [exec, execSealChange, State.metDo_on _ on]
    obtain ⟨e, staged, typ, eq⟩ := Met.sealChange_seals state known high room
    rw [eq] at run
    exact ⟨_, e, run, rfl, rfl, rfl, rfl, typ, rfl, rfl⟩
  case calm =>
    intro kick pins early
    rw [exec, execMetWatchdog, State.metStep_on _ on, if_neg (by omega)]
  case watchdog =>
    intro kick pins late
    have run : exec (.metWatchdog kick pins) s = .next { s with met := (s.met.watchdog pins).applyStep s.tim.stopNs } := by
      rw [exec, execMetWatchdog, State.metStep_on _ on, if_pos late]
    obtain ⟨e, eq, typ⟩ := Met.note_room 6 1 room
    obtain ⟨time, stop, due, stepped⟩ := (s.met.watchdog pins).applyStep_eq s.tim.stopNs
    rw [stepped] at run
    refine ⟨_, e, run, rfl, rfl, ?_, typ, fun n => ?_, fun k => Met.startFilters_pos ((s.met.note 6 1).restart pins) pins k, ?_, ?_⟩
    · exact (congrArg Met.log eq :)
    · exact Met.startFilters_meas pins (Met.restart_meas (s.met.note 6 1) pins) n
    · exact (congrArg Met.committed eq :)
    · exact (congrArg Met.records eq :)
  case powerOn =>
    intro pins off
    have run : exec (.metPowerOn pins) s = .next { s with met := s.met.powerOn pins } := by rw [exec, execMetPowerOn]
    unfold Met.powerOn at run
    rw [if_neg (by simp [off])] at run
    exact ⟨_, run, rfl, rfl, rfl, rfl, fun k => Met.startFilters_pos _ pins k, fun k => Met.startFilters_ab _ pins k, rfl, rfl, rfl, rfl, rfl⟩
  case alreadyOn =>
    intro pins on
    rw [exec, execMetPowerOn, Met.powerOn, if_pos on]
  case off =>
    intro off
    refine ⟨fun a => ?_, fun c hc notOn => exec_met_off off hc notOn⟩
    unfold State.metReg
    exact if_pos (by rw [off]; rfl)

end Sys2Proof.Machine
end

section
/-! SUPPORT. The token that a row of logits gives (R341). -/

namespace Sys2Proof.Machine

/-- What the best token so far says of the logits seen: no ordinary logit yet, or the lowest index of the largest one, or a +∞. -/
def Chosen (ls : List (Nat × FVal)) : Option (Nat × FVal) → Prop
  | none => ∀ k b, (k, FVal.fin b) ∉ ls
  | some (tok, .fin a) => (tok, .fin a) ∈ ls ∧ ∀ k b, (k, FVal.fin b) ∈ ls → b ≤ a ∧ (b = a → tok ≤ k)
  | some (_, .inf neg) => neg = false
  | some (_, .nan) => False

/-- The next logit keeps it, the tokens standing in ascending order. -/
theorem Chosen.next {ls : List (Nat × FVal)} {best : Option (Nat × FVal)} {x : Nat × FVal} (h : Chosen ls best) (after : ∀ y ∈ ls, y.1 < x.1) :
    Chosen (ls ++ [x]) (if logitOver best x.2 then some x else best) := by
  have same_of_not_fin (notFin : ∀ b, x.2 ≠ .fin b) (k : Nat) (b : Rat) : (k, FVal.fin b) ∈ ls ++ [x] ↔ (k, FVal.fin b) ∈ ls := by
    rw [List.mem_append, List.mem_singleton]
    exact or_iff_left fun eq => notFin b (congrArg Prod.snd eq).symm
  obtain ⟨tok', v⟩ := x
  match best, v with
  | none, .nan | none, .inf true => simpa [logitOver, Chosen, same_of_not_fin] using h
  | none, .inf false => exact rfl
  | some (_, .nan), _ => exact h.elim
  | some (_, .inf true), _ => cases h
  | some (_, .inf false), .nan | some (_, .inf false), .inf true | some (_, .inf false), .inf false | some (_, .inf false), .fin _ => simp [logitOver, Chosen]
  | some (tok, .fin a), .nan | some (tok, .fin a), .inf true => simpa [logitOver, Chosen, same_of_not_fin] using h
  | some (tok, .fin a), .inf false => exact rfl
  | none, .fin c =>
    refine ⟨by simp, fun k b mem => ?_⟩
    obtain old | ⟨rfl, rfl⟩ : (k, FVal.fin b) ∈ ls ∨ k = tok' ∧ b = c := by simpa using mem
    · exact absurd old (h k b)
    · exact ⟨le_rfl, fun _ => le_rfl⟩
  | some (tok, .fin a), .fin c =>
    obtain ⟨mem, top⟩ := h
    by_cases larger : a < c
    · rw [logitOver, if_pos (by simpa using larger)]
      refine ⟨by simp, fun k b mem' => ?_⟩
      obtain old | ⟨rfl, rfl⟩ : (k, FVal.fin b) ∈ ls ∨ k = tok' ∧ b = c := by simpa using mem'
      · obtain ⟨le, -⟩ := top k b old
        exact ⟨le.trans larger.le, fun eq => absurd (eq ▸ le) (not_le.mpr larger)⟩
      · exact ⟨le_rfl, fun _ => le_rfl⟩
    · rw [logitOver, if_neg (by simpa using larger)]
      refine ⟨List.mem_append_left _ mem, fun k b mem' => ?_⟩
      obtain old | ⟨rfl, rfl⟩ : (k, FVal.fin b) ∈ ls ∨ k = tok' ∧ b = c := by simpa using mem'
      · exact top k b old
      · exact ⟨not_lt.mp larger, fun _ => (after _ mem).le⟩

/-- The choice over a row whose tokens ascend. -/
theorem chosen_chooseToken {ls : List (Nat × FVal)} (ascending : ls.Pairwise (fun x y => x.1 < y.1)) : Chosen ls (chooseToken ls) := by
  induction ls using List.reverseRecOn with
  | nil => exact fun k b => List.not_mem_nil
  | append_singleton ls x ih =>
    obtain ⟨before, -, after⟩ := List.pairwise_append.mp ascending
    rw [chooseToken, List.foldl_append]
    exact (ih before).next fun y hy => after y hy x List.mem_cons_self

/-- Settles O38: the invariant of the fold at the end of the row. -/
theorem tokenChoice : Obligations.TokenChoice := by
  unfold Obligations.TokenChoice
  intro ls tok a ascending chosen
  have := chosen_chooseToken ascending
  rwa [chosen] at this

end Sys2Proof.Machine
end

section
/-! SUPPORT. Exact sums (R180) and the EXACT element that holds a lane (R176, R184, R190). -/

namespace Sys2Proof.Machine

/-! ### The order of the terms -/

theorem Lane.add_right_comm (wbase : Int) (a : Lane) (x y : FVal) :
    (a.add wbase x).add wbase y = (a.add wbase y).add wbase x := by
  rcases x with _ | (_ | _) | q <;> rcases y with _ | (_ | _) | r <;> try rfl
  simp only [Lane.add, Lane.mk.injEq, true_and]
  exact ⟨by ring, Bool.or_right_comm _ _ _⟩

/-! ### Numbers in two's complement and in bytes -/

theorem sgn_uns {w : Nat} {i : Int} (pos : 0 < w) (low : -2 ^ (w - 1) ≤ i) (high : i < 2 ^ (w - 1)) : sgn w (uns w i) = i := by
  obtain ⟨k, rfl⟩ : ∃ k, w = k + 1 := ⟨w - 1, by omega⟩
  have two : (2 : Int) ^ (k + 1) = 2 * 2 ^ k := by ring
  have cast : (((2 : Nat) ^ k : Nat) : Int) = 2 ^ k := by push_cast; rfl
  have cast' : (((2 : Nat) ^ (k + 1) : Nat) : Int) = 2 * 2 ^ k := by push_cast; ring
  rw [Nat.add_sub_cancel] at low high
  have fits : uns (k + 1) i < 2 ^ (k + 1) := by
    have := Int.emod_lt_of_pos i (b := ((2 ^ (k + 1) : Nat) : Int)) (by positivity)
    have := Int.emod_nonneg i (b := ((2 ^ (k + 1) : Nat) : Int)) (by positivity)
    unfold uns; omega
  rw [sgn, Nat.mod_eq_of_lt fits, Nat.add_sub_cancel]
  unfold uns at fits ⊢
  rw [cast'] at fits ⊢
  by_cases neg : i < 0
  · have wrap : i % (2 * 2 ^ k) = i + 2 * 2 ^ k := by
      rw [← Int.add_emod_right, Int.emod_eq_of_lt (by omega) (by omega)]
    rw [wrap, if_neg (by omega)]
    omega
  · have same : i % (2 * 2 ^ k) = i := Int.emod_eq_of_lt (by omega) (by omega)
    rw [same, if_pos (by omega)]
    omega

/-- A number written among other bytes reads back. -/
theorem leAt_leBytes (before : List Byte) (n v : Nat) (after : List Byte) {i : Nat} (h : i = before.length) :
    leAt (before ++ (leBytes n v ++ after)) i n = v % 256 ^ n := by
  rw [leAt, h, List.drop_left, List.take_left' (leBytes_length n v), leNat_leBytes]

/-- Four flags in a byte. -/
theorem bit_flags (a b c d : Bool) :
    let f := (b2n a + 2 * b2n b + 4 * b2n c + 8 * b2n d) % 256 ^ 1
    bit f 0 = a ∧ bit f 1 = b ∧ bit f 2 = c ∧ bit f 3 = d := by
  revert a b c d; decide

/-! ### An EXACT element -/

/-- An integer number of units of the window is written as it stands (R190). -/
theorem Lane.encode_of_int {wbase : Int} {a : Lane} {w : Int} (small : w.natAbs < 2 ^ 127) (sum : a.q * pow2 (-wbase) = w) :
    a.encode wbase = (leBytes 16 (uns 128 w) ++ (leBytes 2 (uns 16 wbase)
      ++ (leBytes 1 (b2n (a.nan || (a.pinf && a.ninf)) + 2 * b2n a.pinf + 4 * b2n a.ninf + 8 * b2n a.rnd) ++ zeros 13)), false) := by
  unfold Lane.encode
  extract_lets w0 flags out
  have w0_eq : w0 = (w : Rat) := sum
  rw [w0_eq, if_pos (by simp only [Rat.den_intCast, Rat.num_intCast, decide_true, Bool.true_and]; exact decide_eq_true small)]
  simp only [out, flags, Rat.num_intCast, Bool.or_false, List.append_assoc]

theorem Lane.decode_layout {w base : Int} {f : Nat} (rest : List Byte) (hw : w.natAbs < 2 ^ 127) (hb : base.natAbs < 2 ^ 15) :
    Lane.decode (leBytes 16 (uns 128 w) ++ (leBytes 2 (uns 16 base) ++ (leBytes 1 f ++ rest)))
      = { q := (w : Rat) * pow2 base, nan := bit (f % 256 ^ 1) 0, pinf := bit (f % 256 ^ 1) 1, ninf := bit (f % 256 ^ 1) 2
          rnd := bit (f % 256 ^ 1) 3, miss := false } := by
  have signed (k : Nat) (v : Nat) : sgn k (v % 2 ^ k) = sgn k v := by rw [sgn, sgn, Nat.mod_mod]
  have word : leAt (leBytes 16 (uns 128 w) ++ (leBytes 2 (uns 16 base) ++ (leBytes 1 f ++ rest))) 0 16 = uns 128 w % 256 ^ 16 :=
    leAt_leBytes [] 16 (uns 128 w) _ rfl
  have exp : leAt (leBytes 16 (uns 128 w) ++ (leBytes 2 (uns 16 base) ++ (leBytes 1 f ++ rest))) 16 2 = uns 16 base % 256 ^ 2 :=
    leAt_leBytes (leBytes 16 (uns 128 w)) 2 (uns 16 base) _ (by simp)
  have flag : leAt (leBytes 16 (uns 128 w) ++ (leBytes 2 (uns 16 base) ++ (leBytes 1 f ++ rest))) 18 1 = f % 256 ^ 1 := by
    rw [← List.append_assoc]
    exact leAt_leBytes (leBytes 16 (uns 128 w) ++ leBytes 2 (uns 16 base)) 1 f _ (by simp)
  rw [Lane.decode, word, exp, flag, show 256 ^ 16 = 2 ^ 128 by norm_num, show 256 ^ 2 = 2 ^ 16 by norm_num, signed, signed,
    sgn_uns (by decide) (by omega) (by omega), sgn_uns (by decide) (by omega) (by omega)]

theorem pow2_mul_neg (e : Int) : pow2 e * pow2 (-e) = 1 := by
  unfold pow2
  rcases lt_trichotomy e 0 with neg | rfl | pos
  · rw [if_neg (by omega), if_pos (by omega)]
    field_simp
  · simp
  · rw [if_pos (by omega), if_neg (by omega), neg_neg]
    field_simp

/-- Settles O42: terms commute one past another; an integer in the window is written and read back exactly. -/
theorem exactNumbers : Obligations.ExactNumbers := by
  unfold Obligations.ExactNumbers
  constructor
  · intro wbase a xs ys perm
    exact perm.foldl_eq' (fun x _ y _ z => Lane.add_right_comm wbase z x y) a
  · intro wbase a w low high small sum b
    have units : a.q * pow2 (-wbase) = w := by rw [sum, mul_assoc, pow2_mul_neg, mul_one]
    have bytes := Lane.encode_of_int small units
    obtain ⟨nan, pinf, ninf, rnd⟩ := bit_flags (a.nan || (a.pinf && a.ninf)) a.pinf a.ninf a.rnd
    have back : b = { q := a.q, nan := a.nan || (a.pinf && a.ninf), pinf := a.pinf, ninf := a.ninf, rnd := a.rnd, miss := false } := by
      rw [show b = Lane.decode (a.encode wbase).1 from rfl, bytes, Lane.decode_layout _ small (by omega), nan, pinf, ninf, rnd, sum]
    refine ⟨by simp [bytes, zeros], by rw [bytes], ?_⟩
    rw [back]
    refine ⟨rfl, rfl, rfl, rfl, ?_⟩
    simp [Lane.val]

end Sys2Proof.Machine
end

section
/-! SUPPORT. Reads of register pairs, and the clearing of a link error counter (R4, R5, R579). -/

namespace Sys2Proof.Machine

/-! ### Reads -/

/-- A read by LOW_WORD_READ is a host read at the offset (R5). -/
theorem exec_lowWordRead {s : State} (awake : s.awake) (a : BitVec 26) (n : Nat) :
    exec (.lowWordRead a n) s = .next { s.hostRead a.toNat n with pending := s.pending, met := s.met } := by
  rw [exec, execLowWordRead, State.onMain_released _ awake.1]

/-- An aligned read of a register without a rule of its own returns and latches (R5). -/
theorem State.hostRead_of_findReg {s : State} {a i j : Nat} {d : RegD} (ready : s.isReady = true) (found : findReg a = some (d, i, j))
    (aligned : a % 4 = 0) (notTab : d.base ≠ CAL_TAB_DATA 0) (notPop : d.base ≠ TIM_PORT_POP 0) : s.hostRead a 4 = s.readLatch d a := by
  unfold State.hostRead
  rw [if_neg (by simp [ready, aligned]), found]
  dsimp only
  rw [if_neg notTab, if_neg notPop]

/-- The low word of a pair latches its high word (R5). -/
theorem State.readLatch_lo (s : State) {d : RegD} {a : Nat} (lo : d.pair = .lo) (notNow : a ≠ TIM_NOW_LO) (notTai : a ≠ TIM_TAI_LO) :
    s.readLatch d a = { s with rdata := s.readReg a, hiLatch := tput s.hiLatch (a + 4) (s.readReg (a + 4)) } := by
  unfold State.readLatch
  rw [if_neg notNow, if_pos ⟨lo, notTai⟩]
  rfl

/-- A latched word is returned once (R5). -/
theorem State.readLatch_latched {s : State} {d : RegD} {a : Nat} {w : Word} (notNow : a ≠ TIM_NOW_LO) (notLo : d.pair ≠ .lo)
    (latched : tfind s.hiLatch a = some w) : s.readLatch d a = { s with rdata := w, hiLatch := tdel s.hiLatch a } := by
  unfold State.readLatch
  rw [if_neg notNow, if_neg (fun h => notLo h.1)]
  simp only [latched]

/-- A read that is not an aligned 32-bit read returns 0 (R4). -/
theorem State.hostRead_unaligned (s : State) {a n : Nat} (bad : n ≠ 4 ∨ a % 4 ≠ 0) : s.hostRead a n = { s with rdata := 0 } := by
  unfold State.hostRead
  rw [if_pos (by simp only [Bool.or_eq_true, decide_eq_true_eq]; exact .inl bad)]

/-! ### A link error counter -/

/-- A write of 0 clears LIN_LINK_ERR (R579). -/
theorem State.hostWrite_linLinkErr {s : State} (n : Fin 4) (ready : s.isReady = true) :
    s.hostWrite (LIN_LINK_ERR n) 4 0 = s.setReg (LIN_LINK_ERR n) (fset (fset (fset (s.reg (LIN_LINK_ERR n)) LIN_LINK_ERR_BAD_LINE_CNT 0)
      LIN_LINK_ERR_SEQ_SLIP_CNT 0) LIN_LINK_ERR_RELOCK_CNT 0) := by
  have found := findReg_linLinkErr n
  obtain ⟨notActing, notFollowed, noIrq⟩ := counter_base_plain _ (mem_regTable_of_findReg found) rfl
  have aligned : LIN_LINK_ERR n % 4 = 0 := by simp only [LIN_LINK_ERR]; omega
  have main : LIN_LINK_ERR n / 0x100000 ≠ 10 := by simp only [LIN_LINK_ERR]; omega
  rw [State.hostWrite_of_not_acting 0 found notActing, if_neg (by simp [aligned, main, ready]),
    State.afterWrite_of_not_followed n.val (irqStatOf_eq_none 0 _ noIrq) notFollowed]
  rfl

/-- Settles O15: reads by what they latch, and the counter field by field. -/
theorem lowWordLatch : Obligations.LowWordLatch := by
  unfold Obligations.LowWordLatch
  intro s awake
  have ready : s.isReady = true := awake.2
  refine ⟨?low, ?high, ?unaligned, ?counter⟩
  case low =>
    intro a d i j found aligned lo notNow notTai notTab notPop
    rw [exec_lowWordRead awake, State.hostRead_of_findReg ready found aligned notTab notPop, State.readLatch_lo s lo notNow notTai]
  case high =>
    intro a d i j w found aligned hi latched notTab notPop
    have notNow : a.toNat ≠ TIM_NOW_LO := by
      intro eq
      rw [eq, findReg_timNowLo] at found
      cases found
      cases hi
    rw [exec_lowWordRead awake, State.hostRead_of_findReg ready found aligned notTab notPop,
      State.readLatch_latched notNow (by rw [hi]; decide) latched]
  case unaligned =>
    intro a n bad
    rw [exec_lowWordRead awake, State.hostRead_unaligned s bad]
  case counter =>
    intro n
    have place : (BitVec.ofNat 26 (LIN_LINK_ERR n)).toNat = LIN_LINK_ERR n := by
      rw [BitVec.toNat_ofNat, Nat.mod_eq_of_lt (by simp only [LIN_LINK_ERR]; omega)]
    have run : exec (.counterClear (BitVec.ofNat 26 (LIN_LINK_ERR n)) 0) s = .next (s.setReg (LIN_LINK_ERR n) (fset (fset (fset (s.reg (LIN_LINK_ERR n))
        LIN_LINK_ERR_BAD_LINE_CNT 0) LIN_LINK_ERR_SEQ_SLIP_CNT 0) LIN_LINK_ERR_RELOCK_CNT 0)) := by
      rw [exec, execCounterClear, State.onMain_released _ awake.1, place]
      simp only [findReg_linLinkErr n, if_true, State.hostWrite_linLinkErr n ready]
      rfl
    refine ⟨_, run, ?_, ?_, ?_, ?_⟩
    · rw [State.fld, State.reg_setReg_same, fget_fset_other _ _ _ _ (by decide) (by decide) (by decide),
        fget_fset_other _ _ _ _ (by decide) (by decide) (by decide), fget_fset_same _ _ _ (by decide) (by decide)]
      rfl
    · rw [State.fld, State.reg_setReg_same, fget_fset_other _ _ _ _ (by decide) (by decide) (by decide), fget_fset_same _ _ _ (by decide) (by decide)]
      rfl
    · rw [State.fld, State.reg_setReg_same, fget_fset_same _ _ _ (by decide) (by decide)]
      rfl
    · rw [State.reg_setReg_same]

end Sys2Proof.Machine
end

section
/-! SUPPORT. Register writes field by field (R4-R14, R575-R577): what a fold over the fields of a register puts, which addresses it reaches, and the boundaries at which waiting words take effect. -/

namespace Sys2Proof.Machine

/-! ### The fields of a register -/

/-- Two fields share no bit. -/
def Apart (f g : Fld) : Prop := f.hi < g.lo ∨ g.hi < f.lo

/-- Fields that lie apart and within a word. -/
def FieldsApart (fs : List FieldD) : Prop :=
  fs.Pairwise (fun f g => Apart f.fld g.fld) ∧ ∀ f ∈ fs, f.fld.lo ≤ f.fld.hi ∧ f.fld.hi < 32

theorem fieldsApart_of_table : ∀ d ∈ regTable, FieldsApart d.fields := by
  unfold FieldsApart Apart
  decide +kernel

theorem fieldsApart_of_findReg {a i j : Nat} {d : RegD} (found : findReg a = some (d, i, j)) : FieldsApart d.fields :=
  fieldsApart_of_table d (mem_regTable_of_findReg found)

/-- An update of one field of a word: it puts `val f` of the field's bits there, and leaves every field apart from it. -/
def FieldUpdate (G : Word → FieldD → Word) (val : FieldD → Nat → Nat) : Prop :=
  ∀ (w : Word) (f : FieldD), f.fld.lo ≤ f.fld.hi → f.fld.hi < 32 →
    fget (G w f) f.fld = val f (fget w f.fld) ∧ ∀ g : Fld, Apart f.fld g → fget (G w f) g = fget w g

/-- A fold over other fields leaves a field. -/
theorem FieldUpdate.foldl_apart {G : Word → FieldD → Word} {val : FieldD → Nat → Nat} (up : FieldUpdate G val) {fs : List FieldD}
    (fits : ∀ f ∈ fs, f.fld.lo ≤ f.fld.hi ∧ f.fld.hi < 32) {g : Fld} (away : ∀ f ∈ fs, Apart f.fld g) (w : Word) :
    fget (fs.foldl G w) g = fget w g := by
  induction fs generalizing w with
  | nil => rfl
  | cons f fs ih =>
    obtain ⟨lo, hi⟩ := fits f List.mem_cons_self
    rw [List.foldl_cons, ih (fun x hx => fits x (List.mem_cons_of_mem f hx)) (fun x hx => away x (List.mem_cons_of_mem f hx)),
      (up w f lo hi).2 g (away f List.mem_cons_self)]

/-- A fold over the fields of a register puts each of them. -/
theorem FieldUpdate.foldl {G : Word → FieldD → Word} {val : FieldD → Nat → Nat} (up : FieldUpdate G val) {fs : List FieldD} (apart : FieldsApart fs)
    (w : Word) {f : FieldD} (mem : f ∈ fs) : fget (fs.foldl G w) f.fld = val f (fget w f.fld) := by
  obtain ⟨pairwise, fits⟩ := apart
  induction fs generalizing w with
  | nil => cases mem
  | cons e fs ih =>
    obtain ⟨head, tail⟩ := List.pairwise_cons.mp pairwise
    have fitsTail := fun x hx => fits x (List.mem_cons_of_mem e hx)
    obtain ⟨lo, hi⟩ := fits e List.mem_cons_self
    obtain ⟨here, others⟩ := up w e lo hi
    rw [List.foldl_cons]
    rcases List.mem_cons.mp mem with rfl | mem
    · rw [up.foldl_apart fitsTail (fun x hx => (head x hx).symm), here]
    · rw [ih _ mem tail fitsTail, others f.fld (head f mem)]

theorem fget_lt (w : Word) (f : Fld) : fget w f < 2 ^ (f.hi + 1 - f.lo) := Nat.mod_lt _ (by positivity)

theorem fget_fset_self (w : Word) {f : Fld} {v : Nat} (lo : f.lo ≤ f.hi) (hi : f.hi < 32) (fits : v < 2 ^ (f.hi + 1 - f.lo)) : fget (fset w f v) f = v := by
  rw [fget_fset_same w f v lo hi, Nat.mod_eq_of_lt fits]

/-- Putting fields under a condition is an update of one field. -/
theorem fieldUpdate_ite (c : FieldD → Prop) [DecidablePred c] (v : FieldD → Nat → Nat) (fits : ∀ f x, x < 2 ^ (f.fld.hi + 1 - f.fld.lo) → v f x < 2 ^ (f.fld.hi + 1 - f.fld.lo)) :
    FieldUpdate (fun w f => if c f then fset w f.fld (v f (fget w f.fld)) else w) (fun f x => if c f then v f x else x) := by
  intro w f lo hi
  dsimp only
  split
  · exact ⟨fget_fset_self w lo hi (fits f _ (fget_lt w f.fld)), fun g apart => fget_fset_other _ _ _ _ lo hi apart.symm⟩
  · exact ⟨rfl, fun _ _ => rfl⟩

/-! ### The three folds of the model -/

/-- What an access leaves in a field that held `x` (R8, R575, R576). -/
def newField (run : Bool) (v : Word) (f : FieldD) (x : Nat) : Nat :=
  match f.acc, f.eff with
  | .rw, .imm => fget v f.fld
  | .rw, .idle => if run then x else fget v f.fld
  | .w1c, _ => x - (x &&& fget v f.fld)
  | _, _ => x

theorem fget_newWord {fs : List FieldD} (apart : FieldsApart fs) (run : Bool) (old v : Word) {f : FieldD} (mem : f ∈ fs) :
    fget (newWord fs run old v) f.fld = newField run v f (fget old f.fld) := by
  refine FieldUpdate.foldl (val := newField run v) ?_ apart old mem
  rintro w ⟨fld, acc, rst, eff⟩ lo hi
  have put (x : Nat) (fits : x < 2 ^ (fld.hi + 1 - fld.lo)) : fget (fset w fld x) fld = x ∧ ∀ g, Apart fld g → fget (fset w fld x) g = fget w g :=
    ⟨fget_fset_self w lo hi fits, fun g away => fget_fset_other _ _ _ _ lo hi away.symm⟩
  have stay : fget w fld = fget w fld ∧ ∀ g, Apart fld g → fget w g = fget w g := ⟨rfl, fun _ _ => rfl⟩
  have taken := put (fget v fld) (fget_lt v fld)
  have cleared := put (fget w fld - (fget w fld &&& fget v fld)) ((Nat.sub_le _ _).trans_lt (fget_lt w fld))
  cases acc
  case rw => cases eff <;> cases run <;> first | exact stay | exact taken
  case w1c => cases eff <;> exact cleared
  all_goals cases eff <;> exact stay

theorem fget_keepIdle {fs : List FieldD} (apart : FieldsApart fs) (run : Bool) (old v : Word) {f : FieldD} (mem : f ∈ fs) :
    fget (keepIdle fs run old v) f.fld = if run = true ∧ f.acc = .rw ∧ f.eff = .idle then fget old f.fld else fget v f.fld := by
  unfold keepIdle
  cases run
  · simp
  · rw [if_pos rfl, (fieldUpdate_ite (fun f => f.acc = .rw ∧ f.eff = .idle) (fun f _ => fget old f.fld) (fun f _ _ => fget_lt old f.fld)).foldl apart v mem]
    simp

/-- The fields of one code take the bits of a waiting word (R10, R11). -/
theorem fget_copyFields {d : RegD} (apart : FieldsApart d.fields) (e : Eff) (src dst : Word) {f : FieldD} (mem : f ∈ d.fields) :
    fget (copyFields (d.ofEff e) src dst) f.fld = if f.eff = e then fget src f.fld else fget dst f.fld := by
  have up := fieldUpdate_ite (fun f => f.eff = e) (fun f _ => fget src f.fld) (fun f _ _ => fget_lt src f.fld)
  rw [copyFields, RegD.ofEff, List.foldl_filter]
  simp only [beq_iff_eq]
  exact up.foldl apart dst mem

/-! ### Where rejections are noted -/

/-- Every register that holds the reject bits of a block (R577). -/
def rejectRegs : List Nat :=
  [HIF_WR_REJECT, SYS_WR_REJECT, PGM_WR_REJECT, TOK_WR_REJECT, DEC_WR_REJECT, SCH_WR_REJECT, TIM_WR_REJECT, RAS_WR_REJECT, SNP_WR_REJECT, ETH_WR_REJECT]
    ++ (List.range 4).map LIN_WR_REJECT ++ (List.range 8).map CAL_WR_REJECT ++ (List.range 8).map KOL_WR_REJECT

theorem rejectReg_mem {a r : Nat} (h : rejectReg a = some r) : r ∈ rejectRegs := by
  unfold rejectReg at h
  simp only [rejectRegs, List.mem_append, List.mem_map, List.mem_range, List.mem_cons, List.not_mem_nil, or_false]
  split at h
  case h_3 block =>
    split at h
    · cases h
      exact .inl (.inl (.inr ⟨_, by omega, rfl⟩))
    · split at h
      · cases h
      · cases h
        exact .inl (.inr ⟨_, by omega, rfl⟩)
  case h_8 block =>
    split at h
    · cases h
      exact .inr ⟨_, by omega, rfl⟩
    · cases h
  case h_13 => cases h
  all_goals
    cases h
    simp only [true_or, or_true]

/-- A register of reject bits is not one whose rejection is noted. -/
theorem rejectRegs_plain : ∀ r ∈ rejectRegs, ∀ x, findReg r = some x → x.1.rej = none := by
  have all : rejectRegs.all (fun r => (findReg r).all (fun x => x.1.rej == none)) = true := by decide +kernel
  intro r mem x found
  have := List.all_eq_true.mp all r mem
  rw [found] at this
  simpa using this

theorem rejectReg_ne {a r b i j : Nat} {d : RegD} (found : findReg a = some (d, i, j)) (rej : d.rej = some b) (at_ : rejectReg a = some r) : a ≠ r := by
  rintro rfl
  have := rejectRegs_plain a (rejectReg_mem at_) _ found
  rw [rej] at this
  cases this

/-- A rejection changes no register on which a range depends. -/
theorem rejectRegs_notRead : ∀ r ∈ rejectRegs, HIF_HOLD_SIZE ≠ r ∧ SNP_TIME_CMP_LO ≠ r ∧ SNP_TIME_CMP_LO + 4 ≠ r ∧ ∀ k < 64, HIF_RING_PERM k ≠ r := by
  decide +kernel

/-! ### The range of a word -/

theorem State.inRange_congr {s t : State} (hold : t.num HIF_HOLD_SIZE = s.num HIF_HOLD_SIZE) (cmp : t.pair SNP_TIME_CMP_LO = s.pair SNP_TIME_CMP_LO)
    (now : t.now = s.now) (ring : ∀ k < 64, t.on (HIF_RING_PERM k) HIF_RING_PERM_VALID = s.on (HIF_RING_PERM k) HIF_RING_PERM_VALID) (b : Nat) (v : Word) :
    t.inRange b v = s.inRange b v := by
  unfold State.inRange
  dsimp only [List.all]
  rw [hold, cmp, now, ring _ (fget_lt v HIF_PORT_RING_P3), ring _ (fget_lt v HIF_PORT_RING_P2), ring _ (fget_lt v HIF_PORT_RING_P1),
    ring _ (fget_lt v HIF_PORT_RING_P0), ring _ (fget_lt v HIF_SYS_RING_CATCH_RING), ring _ (fget_lt v HIF_SYS_RING_SYS_RING)]

theorem State.inRange_reject (s : State) {r : Nat} (mem : r ∈ rejectRegs) (i b : Nat) (v : Word) : (s.reject r i).inRange b v = s.inRange b v := by
  obtain ⟨hold, low, high, ring⟩ := rejectRegs_notRead r mem
  have reads {k : Nat} (ne : k ≠ r) : (s.reject r i).reg k = s.reg k := State.reg_setReg_ne s _ ne
  refine State.inRange_congr (s := s) (t := s.reject r i) ?_ ?_ rfl (fun k hk => ?_) b v
  · rw [State.num, State.num, reads hold]
  · rw [State.pair, State.pair, State.num, State.num, State.num, State.num, reads low, reads high]
  · rw [State.on, State.on, State.fld, State.fld, reads (ring k hk)]

/-! ### A noted rejection -/

/-- A rejection is noted in the register of its block, where there is one, and nowhere else (R577, R578). -/
theorem State.rejectOf_cases (s : State) (d : RegD) (a : Nat) :
    (∃ b r, d.rej = some b ∧ rejectReg a = some r ∧ s.rejectOf d a = s.reject r b) ∨ ((d.rej = none ∨ rejectReg a = none) ∧ s.rejectOf d a = s) := by
  unfold State.rejectOf
  cases rej : d.rej with
  | none => exact .inr ⟨.inl rfl, rfl⟩
  | some b =>
    cases at_ : rejectReg a with
    | none => exact .inr ⟨.inr rfl, rfl⟩
    | some r => exact .inl ⟨b, r, rfl, rfl, rfl⟩

theorem State.rejectOf_eq (s : State) (d : RegD) (a : Nat) : s.rejectOf d a = { s with regs := (s.rejectOf d a).regs } := by
  rcases s.rejectOf_cases d a with ⟨b, r, -, -, eq⟩ | ⟨-, eq⟩ <;> rw [eq]
  rfl

theorem State.inRange_rejectOf (s : State) (d : RegD) (a b : Nat) (v : Word) : (s.rejectOf d a).inRange b v = s.inRange b v := by
  rcases s.rejectOf_cases d a with ⟨i, r, -, at_, eq⟩ | ⟨-, eq⟩ <;> rw [eq]
  exact s.inRange_reject (rejectReg_mem at_) i b v

theorem State.reg_rejectOf {s : State} {d : RegD} {a b r : Nat} (rej : d.rej = some b) (at_ : rejectReg a = some r) :
    (s.rejectOf d a).reg r = s.reg r ||| BitVec.ofNat 32 (2 ^ b) ∧ s.regsSame (s.rejectOf d a) [r] := by
  have eq : s.rejectOf d a = s.reject r b := by rw [State.rejectOf, rej, at_]
  rw [eq]
  exact ⟨State.reg_setReg_same _ _ _, fun k hk => State.reg_setReg_ne s _ (by simpa using hk)⟩

theorem State.rejectOf_plain {s : State} {d : RegD} {a : Nat} (h : d.rej = none ∨ rejectReg a = none) : s.rejectOf d a = s := by
  rcases s.rejectOf_cases d a with ⟨b, r, rej, at_, -⟩ | ⟨-, eq⟩
  · rcases h with h | h
    · rw [rej] at h; cases h
    · rw [at_] at h; cases h
  · exact eq

theorem State.reg_rejectOf_self (s : State) {a i j : Nat} {d : RegD} (found : findReg a = some (d, i, j)) : (s.rejectOf d a).reg a = s.reg a := by
  rcases s.rejectOf_cases d a with ⟨b, r, rej, at_, eq⟩ | ⟨-, eq⟩ <;> rw [eq]
  exact State.reg_setReg_ne s _ (rejectReg_ne found rej at_)

end Sys2Proof.Machine
end

section
/-! SUPPORT. One access to a register, the words of a pair, and the boundaries at which waiting words take effect (R5, R10-R14, R575-R577). -/

namespace Sys2Proof.Machine

/-! ### One access -/

/-- The word that an access puts: the written one with the IDLE fields of a running block as they stand (R576). -/
def State.writtenWord (s : State) (d : RegD) (a : Nat) (v : Word) : Word := keepIdle d.fields (d.writes .idle && s.blockRuns a) (s.reg a) v

/-- The state in which the fields are put: the rejection of IDLE fields is noted (R576). -/
def State.idleNoted (s : State) (d : RegD) (a : Nat) : State := if d.writes .idle && s.blockRuns a then s.rejectOf d a else s

theorem State.idleNoted_eq (s : State) (d : RegD) (a : Nat) : s.idleNoted d a = { s with regs := (s.idleNoted d a).regs } := by
  unfold State.idleNoted
  split
  · exact s.rejectOf_eq d a
  · rfl

theorem State.reg_idleNoted_self (s : State) {a i j : Nat} {d : RegD} (found : findReg a = some (d, i, j)) : (s.idleNoted d a).reg a = s.reg a := by
  unfold State.idleNoted
  split
  · exact s.reg_rejectOf_self found
  · rfl

theorem State.inRange_idleNoted (s : State) (d : RegD) (a b : Nat) (v : Word) : (s.idleNoted d a).inRange b v = s.inRange b v := by
  unfold State.idleNoted
  split
  · exact s.inRange_rejectOf d a b v
  · rfl

/-- A word out of range is rejected whole (R577). -/
theorem State.applyWrite_out {s : State} {d : RegD} {a : Nat} {v : Word} (out : s.inRange d.base (s.writtenWord d a v) = false) :
    s.applyWrite d a v = ((s.idleNoted d a).rejectOf d a, false) := by
  rw [← s.inRange_idleNoted d a] at out
  exact if_pos (by rw [Bool.not_eq_true']; exact out)

/-- The fields that a word in range leaves in the register file. -/
def State.fieldsPut (s : State) (d : RegD) (a : Nat) (v : Word) : State :=
  (s.idleNoted d a).setReg a (newWord d.fields (d.writes .idle && s.blockRuns a) ((s.idleNoted d a).reg a) (s.writtenWord d a v))

/-- A word in range puts its fields and waits where fields of it take effect later (R10, R11, R575). -/
theorem State.applyWrite_in {s : State} {d : RegD} {a : Nat} {v : Word} (good : s.inRange d.base (s.writtenWord d a v) = true) :
    s.applyWrite d a v = ({ s with
      regs := (s.fieldsPut d a v).regs
      shadow := if d.writes .line || d.writes .cmd || d.writes .item then tput s.shadow a (s.writtenWord d a v) else s.shadow
      bootPend := if d.writes .boot then tput s.bootPend a (s.writtenWord d a v) else s.bootPend }, true) := by
  have noted := s.idleNoted_eq d a
  have range : (s.idleNoted d a).inRange d.base (s.writtenWord d a v) = true := (s.inRange_idleNoted d a _ _).trans good
  have run : s.applyWrite d a v = (let t := s.fieldsPut d a v
      let t := if d.writes .line || d.writes .cmd || d.writes .item then { t with shadow := tput t.shadow a (s.writtenWord d a v) } else t
      (if d.writes .boot then { t with bootPend := tput t.bootPend a (s.writtenWord d a v) } else t, true)) :=
    if_neg (by rw [Bool.not_eq_true', Bool.not_eq_false]; exact range)
  rw [run]
  have put : s.fieldsPut d a v = { s with regs := (s.fieldsPut d a v).regs } := by
    unfold State.fieldsPut
    rw [noted]
    rfl
  generalize s.fieldsPut d a v = t at put ⊢
  rw [put]
  dsimp only
  cases d.writes .line || d.writes .cmd || d.writes .item <;> cases d.writes .boot <;> rfl

theorem State.reg_fieldsPut (s : State) {a i j : Nat} {d : RegD} (v : Word) (found : findReg a = some (d, i, j)) :
    (s.fieldsPut d a v).reg a = newWord d.fields (d.writes .idle && s.blockRuns a) (s.reg a) (s.writtenWord d a v) := by
  rw [State.fieldsPut, State.reg_setReg_same, s.reg_idleNoted_self found]

theorem State.reg_fieldsPut_ne (s : State) {d : RegD} {a k : Nat} (v : Word) (ne : k ≠ a) : (s.fieldsPut d a v).reg k = (s.idleNoted d a).reg k :=
  State.reg_setReg_ne _ _ ne

theorem RegD.writes_of_mem {d : RegD} {f : FieldD} {e : Eff} (mem : f ∈ d.fields) (rw' : f.acc = .rw) (eff : f.eff = e) : d.writes e = true :=
  List.any_eq_true.mpr ⟨f, mem, by simp [rw', eff]⟩

/-- The written word, field by field (R576). -/
theorem State.fget_writtenWord (s : State) {a i j : Nat} {d : RegD} (v : Word) (found : findReg a = some (d, i, j)) {f : FieldD} (mem : f ∈ d.fields) :
    fget (s.writtenWord d a v) f.fld = if f.acc = .rw ∧ f.eff = .idle ∧ s.blockRuns a = true then fget (s.reg a) f.fld else fget v f.fld := by
  rw [State.writtenWord, fget_keepIdle (fieldsApart_of_findReg found) _ _ _ mem]
  by_cases idle : f.acc = .rw ∧ f.eff = .idle
  · simp [idle, RegD.writes_of_mem mem idle.1 idle.2]
  · rw [if_neg (fun h => idle h.2), if_neg (fun h => idle ⟨h.1, h.2.1⟩)]

/-- What the register holds after the access, field by field. -/
theorem State.fget_fieldsPut (s : State) {a i j : Nat} {d : RegD} (v : Word) (found : findReg a = some (d, i, j)) {f : FieldD} (mem : f ∈ d.fields) :
    (f.acc = .rw → f.eff = .imm ∨ f.eff = .idle → fget ((s.fieldsPut d a v).reg a) f.fld = fget (s.writtenWord d a v) f.fld)
    ∧ (f.acc = .w1c → fget ((s.fieldsPut d a v).reg a) f.fld = fget (s.reg a) f.fld - (fget (s.reg a) f.fld &&& fget v f.fld))
    ∧ (f.acc = .rw → f.eff ∉ [.imm, .idle] → fget ((s.fieldsPut d a v).reg a) f.fld = fget (s.reg a) f.fld)
    ∧ (f.acc = .ro → fget ((s.fieldsPut d a v).reg a) f.fld = fget (s.reg a) f.fld) := by
  rw [s.reg_fieldsPut v found, fget_newWord (fieldsApart_of_findReg found) _ _ _ mem]
  have word := s.fget_writtenWord v found mem
  unfold newField
  refine ⟨fun rw' eff => ?_, fun w1c => ?_, fun rw' eff => ?_, fun ro => ?_⟩
  · rcases eff with eff | eff
    · rw [rw', eff]
    · rw [rw', eff]
      have writes := RegD.writes_of_mem mem rw' eff
      cases runs : s.blockRuns a
      · simp
      · simp [writes, word, rw', eff, runs]
  · rw [w1c, word, if_neg (by simp [w1c])]
  · rw [rw']
    cases eff' : f.eff <;> simp_all
  · rw [ro]

end Sys2Proof.Machine
end

section
/-! SUPPORT. Register pairs and the boundaries at which waiting words take effect (R5, R10-R14, R575-R577, R580). -/

namespace Sys2Proof.Machine

/-! ### Where a register of the map lies -/

theorem findIn_hit {l : List RegD} {a i j : Nat} {d : RegD} (found : findIn l a = some (d, i, j)) : d.hit a = some (i, j) := by
  induction l with
  | nil => cases found
  | cons e l ih =>
    rw [findIn] at found
    split at found
    · rename_i hit
      cases found
      exact hit
    · exact ih found

/-- The offset of one of its copies and elements of a register (R574). -/
theorem findReg_place {a i j : Nat} {d : RegD} (found : findReg a = some (d, i, j)) : i < d.insts ∧ j < d.elems ∧ a = d.base + (i * d.istride + j * d.estride) := by
  have hit : d.hit a = some (i, j) := findIn_hit found
  unfold RegD.hit at hit
  dsimp only at hit
  have above : ¬ a < d.base := fun below => by rw [if_pos below] at hit; cases hit
  rw [if_neg above] at hit
  obtain ⟨⟨hi, hj, place⟩, eq⟩ := Option.ite_none_right_eq_some.mp hit
  rw [Option.some.injEq, Prod.mk.injEq] at eq
  rw [eq.1] at hi
  rw [eq.2] at hj
  rw [eq.1, eq.2] at place
  exact ⟨hi, hj, by omega⟩

/-! ### Pairs -/

/-- Every writable field acts at the write. -/
def RegD.atOnce (d : RegD) : Bool := d.fields.all (fun f => f.acc != .rw || f.eff == .imm || f.eff == .idle)

theorem RegD.eff_of_atOnce {d : RegD} (h : d.atOnce = true) {f : FieldD} (mem : f ∈ d.fields) (rw' : f.acc = .rw) : f.eff = .imm ∨ f.eff = .idle := by
  have := List.all_eq_true.mp h f mem
  simpa [rw'] using this

/-- The words of a pair lie one after the other, and their fields act at the write. -/
theorem pair_place : ∀ d ∈ regTable, d.pair = .hi → ∀ i < d.insts, ∀ j < d.elems, 4 ≤ d.base + (i * d.istride + j * d.estride) ∧ d.atOnce = true
    ∧ (findReg (d.base + (i * d.istride + j * d.estride) - 4)).all (fun x => x.1.atOnce) = true := by
  decide +kernel

theorem pair_of_hi {a i j : Nat} {d : RegD} (found : findReg a = some (d, i, j)) (hi : d.pair = .hi) :
    a - 4 ≠ a ∧ d.atOnce = true ∧ ∀ e i' j', findReg (a - 4) = some (e, i', j') → e.atOnce = true := by
  obtain ⟨hi', hj, rfl⟩ := findReg_place found
  obtain ⟨four, once, low⟩ := pair_place d (mem_regTable_of_findReg found) hi i hi' j hj
  refine ⟨by omega, once, fun e i' j' found' => ?_⟩
  rw [found'] at low
  exact low

/-- Fields that act at the write take the bits of the word while nothing runs. -/
theorem fget_newWord_atOnce {a i j : Nat} {d : RegD} (found : findReg a = some (d, i, j)) (once : d.atOnce = true) (old v : Word) {f : FieldD}
    (mem : f ∈ d.fields) (rw' : f.acc = .rw) : fget (newWord d.fields false old v) f.fld = fget v f.fld := by
  rw [fget_newWord (fieldsApart_of_findReg found) _ _ _ mem, newField, rw']
  rcases RegD.eff_of_atOnce once mem rw' with eff | eff <;> rw [eq_comm] <;> simp [eff]

theorem State.plainWrite_lo {s : State} {d : RegD} (a : Nat) (v : Word) (clr : d.clr = false) (lo : d.pair = .lo) :
    s.plainWrite d a v = { s with loWord := tput s.loWord a v } := by
  rw [State.plainWrite, if_neg (by simp [clr]), lo]

theorem State.plainWrite_one {s : State} {d : RegD} (a : Nat) (v : Word) (clr : d.clr = false) (one : d.pair = .one) :
    s.plainWrite d a v = (s.applyWrite d a v).1 := by
  rw [State.plainWrite, if_neg (by simp [clr]), one]

/-- The high word of a running block is rejected, and the low word that waited is discarded. -/
theorem State.plainWrite_hi_runs {s : State} {d : RegD} {a : Nat} (v : Word) (clr : d.clr = false) (hi : d.pair = .hi)
    (runs : (d.writes .idle && s.blockRuns a) = true) :
    s.plainWrite d a v = ({ s with loWord := tdel s.loWord (a - 4) } : State).rejectOf d a := by
  rw [State.plainWrite, if_neg (by simp [clr]), hi]
  exact if_pos runs

/-- The high word commits both. -/
theorem State.plainWrite_hi {s : State} {d : RegD} {a : Nat} (v : Word) (clr : d.clr = false) (hi : d.pair = .hi)
    (still : (d.writes .idle && s.blockRuns a) = false) (ne : a - 4 ≠ a) :
    ∃ t, s.plainWrite d a v = t ∧ t = { s with regs := t.regs, loWord := tdel s.loWord (a - 4) } ∧ s.regsSame t [a - 4, a]
      ∧ t.reg a = newWord d.fields false (s.reg a) v
      ∧ (tfind s.loWord (a - 4) = none → t.reg (a - 4) = s.reg (a - 4))
      ∧ ∀ w e i j, tfind s.loWord (a - 4) = some w → findReg (a - 4) = some (e, i, j) → t.reg (a - 4) = newWord e.fields false (s.reg (a - 4)) w := by
  obtain ⟨t, high⟩ : ∃ t, t = ({ s with loWord := tdel s.loWord (a - 4) } : State).setReg a (newWord d.fields false (s.reg a) v) := ⟨_, rfl⟩
  have here : t.reg a = newWord d.fields false (s.reg a) v := by rw [high, State.reg_setReg_same]
  have there (k : Nat) (away : k ≠ a) : t.reg k = s.reg k := by rw [high, State.reg_setReg_ne _ _ away]; rfl
  have frame : t = { s with regs := t.regs, loWord := tdel s.loWord (a - 4) } := by rw [high]; rfl
  have run : s.plainWrite d a v = match tfind s.loWord (a - 4), findReg (a - 4) with
      | some w, some (e, _, _) => t.setReg (a - 4) (newWord e.fields false (t.reg (a - 4)) w)
      | _, _ => t := by
    rw [State.plainWrite, if_neg (by simp [clr]), hi, high]
    exact if_neg (by rw [Bool.not_eq_true]; exact still)
  by_cases both : ∃ w e i j, tfind s.loWord (a - 4) = some w ∧ findReg (a - 4) = some (e, i, j)
  · obtain ⟨w, e, i, j, low, found⟩ := both
    rw [low, found] at run
    refine ⟨_, run, ?_, ?_, ?_, fun none => ?_, fun w' e' i' j' low' found' => ?_⟩
    · rw [frame]; rfl
    · intro k away
      simp only [List.mem_cons, List.not_mem_nil, or_false, not_or] at away
      obtain ⟨away4, away⟩ := away
      rw [State.reg_setReg_ne _ _ away4, there k away]
    · rw [State.reg_setReg_ne _ _ (Ne.symm ne), here]
    · rw [low] at none; cases none
    · rw [low] at low'; rw [found] at found'
      cases low'; cases found'
      rw [State.reg_setReg_same, there _ ne]
  · have alone : s.plainWrite d a v = t := by
      rw [run]
      split
      · rename_i w e i j low found
        exact absurd ⟨w, e, i, j, low, found⟩ both
      · rfl
    refine ⟨t, alone, frame, fun k away => there k (fun eq => away (eq ▸ List.mem_cons_of_mem _ List.mem_cons_self)), here, fun _ => there _ ne, fun w e i j low found => absurd ⟨w, e, i, j, low, found⟩ both⟩

/-! ### Words that wait -/

/-- A fold over a table in which an offset has one word: what the word brings about holds at the end. -/
theorem foldl_brings {σ : Type} {g : σ → Nat × Word → σ} {P Q : σ → Prop} {a : Nat} {v : Word} (brings : ∀ s, Q s → P (g s (a, v)))
    (keepsP : ∀ s x, x.1 ≠ a → P s → P (g s x)) (keepsQ : ∀ s x, x.1 ≠ a → Q s → Q (g s x)) (weaker : ∀ s, P s → Q s)
    {l : List (Nat × Word)} (mem : (a, v) ∈ l) (one : ∀ w, (a, w) ∈ l → w = v) {s : σ} (start : Q s) : P (l.foldl g s) := by
  have stays : ∀ (l : List (Nat × Word)), (∀ w, (a, w) ∈ l → w = v) → ∀ s, P s → P (l.foldl g s) := by
    intro l
    induction l with
    | nil => exact fun _ s h => h
    | cons x l ih =>
      intro one s h
      refine ih (fun w hw => one w (List.mem_cons_of_mem x hw)) _ ?_
      by_cases at_ : x.1 = a
      · obtain ⟨k, w⟩ := x
        cases at_
        rw [one w List.mem_cons_self]
        exact brings s (weaker s h)
      · exact keepsP s x at_ h
  induction l generalizing s with
  | nil => cases mem
  | cons x l ih =>
    have oneTail := fun w hw => one w (List.mem_cons_of_mem x hw)
    rw [List.foldl_cons]
    by_cases at_ : x.1 = a
    · obtain ⟨k, w⟩ := x
      cases at_
      rw [one w List.mem_cons_self]
      exact stays l oneTail _ (brings s start)
    · rcases List.mem_cons.mp mem with eq | mem
      · exact absurd (congrArg Prod.fst eq.symm) at_
      · exact ih mem oneTail (keepsQ s x at_ start)

theorem mem_tdel_ne {β : Type} {t : Tbl β} {k a : Nat} {v : β} (ne : a ≠ k) (mem : (a, v) ∈ t) : (a, v) ∈ tdel t k := by
  induction t with
  | nil => cases mem
  | cons e t ih =>
    obtain ⟨b, w⟩ := e
    rw [tdel]
    rcases List.mem_cons.mp mem with eq | mem
    · cases eq
      rw [if_neg ne]
      exact List.mem_cons_self
    · split
      · exact ih mem
      · exact List.mem_cons_of_mem _ (ih mem)

/-- The fields of code `e` of the register at `x.1` take the word `x.2`, if it has any and `p` says so. -/
def State.takeShadow (e : Eff) (p : Nat → Bool) (s : State) (x : Nat × Word) : State :=
  if p x.1 then
    match findReg x.1 with
    | some (d, _, _) => if d.ofEff e = [] then s else { s.setReg x.1 (copyFields (d.ofEff e) x.2 (s.reg x.1)) with shadow := tdel s.shadow x.1 }
    | none => s
  else s

theorem State.applyShadow_eq (s : State) (e : Eff) (p : Nat → Bool) : s.applyShadow e p = s.shadow.foldl (State.takeShadow e p) s := rfl

theorem State.takeShadow_cases (e : Eff) (p : Nat → Bool) (s : State) (x : Nat × Word) :
    s.takeShadow e p x = s ∨ p x.1 = true ∧ ∃ d i j, findReg x.1 = some (d, i, j)
      ∧ s.takeShadow e p x = { s.setReg x.1 (copyFields (d.ofEff e) x.2 (s.reg x.1)) with shadow := tdel s.shadow x.1 } := by
  unfold State.takeShadow
  split
  · rename_i takes
    split
    · rename_i d i j found
      split
      · exact .inl rfl
      · exact .inr ⟨takes, d, i, j, found, rfl⟩
    · exact .inl rfl
  · exact .inl rfl

theorem State.takeShadow_ne (e : Eff) (p : Nat → Bool) (s : State) {x : Nat × Word} {a : Nat} (away : x.1 = a → p a = false) :
    (s.takeShadow e p x).reg a = s.reg a ∧ tfind (s.takeShadow e p x).shadow a = tfind s.shadow a
    ∧ ∀ v, (a, v) ∈ s.shadow → (a, v) ∈ (s.takeShadow e p x).shadow := by
  rcases s.takeShadow_cases e p x with eq | ⟨takes, d, i, j, -, eq⟩
  · rw [eq]
    exact ⟨rfl, rfl, fun _ h => h⟩
  · have ne : a ≠ x.1 := by
      rintro rfl
      rw [away rfl] at takes
      cases takes
    rw [eq]
    exact ⟨State.reg_setReg_ne s _ ne, tfind_tdel_ne _ ne, fun v h => mem_tdel_ne ne h⟩

/-- Where no waiting word of the offset is taken, its register stays and its words wait on. -/
theorem State.applyShadow_away {s : State} {e : Eff} {p : Nat → Bool} {a : Nat} (away : ∀ w, (a, w) ∈ s.shadow → p a = false) :
    (s.applyShadow e p).reg a = s.reg a ∧ ∀ v, (a, v) ∈ s.shadow → (a, v) ∈ (s.applyShadow e p).shadow := by
  rw [State.applyShadow_eq]
  have stays : ∀ (l : List (Nat × Word)), (∀ w, (a, w) ∈ l → p a = false) → ∀ t : State,
      (l.foldl (State.takeShadow e p) t).reg a = t.reg a ∧ ∀ v, (a, v) ∈ t.shadow → (a, v) ∈ (l.foldl (State.takeShadow e p) t).shadow := by
    intro l
    induction l with
    | nil => exact fun _ t => ⟨rfl, fun _ h => h⟩
    | cons x l ih =>
      intro away t
      obtain ⟨reg, -, waits⟩ := t.takeShadow_ne e p (x := x) (a := a) (fun at_ => away x.2 (by rw [← at_]; exact List.mem_cons_self))
      obtain ⟨reg', waits'⟩ := ih (fun w hw => away w (List.mem_cons_of_mem x hw)) (t.takeShadow e p x)
      exact ⟨reg'.trans reg, fun v h => waits' v (waits v h)⟩
  exact stays s.shadow away s

/-- At its boundary the fields of the code take the waiting word, and it waits no more (R10, R11). -/
theorem State.applyShadow_takes {s : State} {e : Eff} {p : Nat → Bool} {a i j : Nat} {d : RegD} {v : Word} (found : findReg a = some (d, i, j))
    (mem : (a, v) ∈ s.shadow) (one : ∀ w, (a, w) ∈ s.shadow → w = v) (some_ : d.ofEff e ≠ []) (takes : p a = true) :
    (∀ f ∈ d.fields, fget ((s.applyShadow e p).reg a) f.fld = if f.eff = e then fget v f.fld else fget (s.reg a) f.fld)
    ∧ tfind (s.applyShadow e p).shadow a = none := by
  have apart := fieldsApart_of_findReg found
  rw [State.applyShadow_eq]
  refine foldl_brings (g := State.takeShadow e p) (a := a) (v := v)
    (P := fun t => (∀ f ∈ d.fields, fget (t.reg a) f.fld = if f.eff = e then fget v f.fld else fget (s.reg a) f.fld) ∧ tfind t.shadow a = none)
    (Q := fun t => ∀ f ∈ d.fields, f.eff ≠ e → fget (t.reg a) f.fld = fget (s.reg a) f.fld)
    ?brings ?keepsP ?keepsQ ?weaker mem one (fun f _ _ => rfl)
  case brings =>
    intro t others
    have eq : t.takeShadow e p (a, v) = { t.setReg a (copyFields (d.ofEff e) v (t.reg a)) with shadow := tdel t.shadow a } := by
      simp only [State.takeShadow, takes, found, some_, if_true, if_false]
    rw [eq]
    refine ⟨fun f mem => ?_, tfind_tdel_same _ _⟩
    refine (congrArg (fget · f.fld) (State.reg_setReg_same t a _)).trans ?_
    rw [fget_copyFields apart e v (t.reg a) mem]
    split
    · rfl
    · rename_i ne
      exact others f mem ne
  case keepsP =>
    rintro t x away ⟨fields, gone⟩
    obtain ⟨reg, find, -⟩ := t.takeShadow_ne e p (x := x) (a := a) (fun at_ => absurd at_ away)
    rw [reg, find]
    exact ⟨fields, gone⟩
  case keepsQ =>
    intro t x away fields
    obtain ⟨reg, -, -⟩ := t.takeShadow_ne e p (x := x) (a := a) (fun at_ => absurd at_ away)
    rw [reg]
    exact fields
  case weaker =>
    rintro t ⟨fields, -⟩ f mem ne
    rw [fields f mem, if_neg ne]

end Sys2Proof.Machine
end

section
/-! SUPPORT. Register writes by REG_WRITE, the boundaries of lines, items and the next reset, and what settles O14 (R4-R14, R575-R580). -/

namespace Sys2Proof.Machine

/-! ### Accesses by the host -/

/-- A register write is what `hostWrite` does at the offset (R4). -/
theorem exec_regWrite {s : State} (awake : s.awake) (a : BitVec 26) (bytes : Nat) (v : Word) :
    exec (.regWrite a bytes v) s = .next (s.keeps (s.hostWrite a.toNat bytes v)) := by
  rw [exec, execRegWrite, State.onMain_released _ awake.1]
  rfl

theorem State.hostWrite_misfit (s : State) {a bytes : Nat} (v : Word) (bad : bytes ≠ 4 ∨ a % 4 ≠ 0) : s.hostWrite a bytes v = s := by
  unfold State.hostWrite
  rw [if_pos (by simp only [Bool.or_eq_true, decide_eq_true_eq]; exact .inl bad)]

/-- A write of a register without an act of its own puts its fields, and what follows from them (R575). -/
theorem State.hostWrite_plain {s : State} {a i j : Nat} {d : RegD} (v : Word) (found : findReg a = some (d, i, j)) (aligned : a % 4 = 0)
    (main : a / 0x100000 ≠ 10) (ready : s.isReady = true) (plain : d.base ∉ actingBases) :
    s.hostWrite a 4 v = (s.plainWrite d a v).afterWrite d.base a i := by
  rw [State.hostWrite_of_not_acting v found plain, if_neg (by simp [aligned, main, ready])]

/-- A written word that meets no running block is put as it stands. -/
theorem State.writtenWord_still {s : State} {d : RegD} {a : Nat} (v : Word) (still : (d.writes .idle && s.blockRuns a) = false) :
    s.writtenWord d a v = v := by
  rw [State.writtenWord, still]
  rfl

theorem State.idleNoted_still {s : State} {d : RegD} {a : Nat} (still : (d.writes .idle && s.blockRuns a) = false) : s.idleNoted d a = s := by
  rw [State.idleNoted, still]
  rfl

/-- Only fields of the other codes wait for a boundary. -/
theorem RegD.writes_of_atOnce {d : RegD} (once : d.atOnce = true) {e : Eff} (imm : e ≠ .imm) (idle : e ≠ .idle) : d.writes e = false := by
  refine Bool.eq_false_iff.mpr fun yes => ?_
  obtain ⟨f, mem, is⟩ := List.any_eq_true.mp yes
  simp only [Bool.and_eq_true, beq_iff_eq] at is
  rcases RegD.eff_of_atOnce once mem is.1 with eff | eff
  · exact imm (is.2.symm.trans eff)
  · exact idle (is.2.symm.trans eff)

/-- A register whose fields act at the write changes alone. -/
theorem State.plainWrite_atOnce {s : State} {d : RegD} {a : Nat} {v : Word} (one : d.pair = .one) (clr : d.clr = false) (once : d.atOnce = true)
    (still : s.blockRuns a = false) (range : s.inRange d.base v = true) : s.plainWrite d a v = { s with regs := (s.fieldsPut d a v).regs } := by
  have word := s.writtenWord_still (d := d) v (by rw [still, Bool.and_false])
  have writes (e : Eff) (imm : e ≠ .imm) (idle : e ≠ .idle) := RegD.writes_of_atOnce once imm idle
  rw [State.plainWrite_one a v clr one, State.applyWrite_in (by rw [word]; exact range), writes .line (by decide) (by decide),
    writes .cmd (by decide) (by decide), writes .item (by decide) (by decide), writes .boot (by decide) (by decide)]
  rfl

/-- A register whose fields take effect at the start of a line or the opening of an item stays, and the word waits. -/
theorem State.plainWrite_later {s : State} {d : RegD} {a i j : Nat} {v : Word} (found : findReg a = some (d, i, j)) (one : d.pair = .one) (clr : d.clr = false)
    (later : d.fields.all (fun f => f.acc == .rw && (f.eff == .line || f.eff == .item)) = true) (some_ : d.fields ≠ [])
    (range : s.inRange d.base v = true) :
    ∃ t, s.plainWrite d a v = t ∧ t = { s with regs := t.regs, shadow := t.shadow } ∧ tfind t.shadow a = some v ∧ s.regsSame t [] := by
  have eff (f : FieldD) (mem : f ∈ d.fields) : f.acc = .rw ∧ (f.eff = .line ∨ f.eff = .item) := by
    simpa using List.all_eq_true.mp later f mem
  have never (e : Eff) (line : e ≠ .line) (item : e ≠ .item) : d.writes e = false := by
    refine Bool.eq_false_iff.mpr fun yes => ?_
    obtain ⟨f, mem, is⟩ := List.any_eq_true.mp yes
    simp only [Bool.and_eq_true, beq_iff_eq] at is
    rcases (eff f mem).2 with eff | eff
    · exact line (is.2.symm.trans eff)
    · exact item (is.2.symm.trans eff)
  have waits : (d.writes .line || d.writes .cmd || d.writes .item) = true := by
    obtain ⟨f, mem⟩ := List.exists_mem_of_ne_nil _ some_
    obtain ⟨rw', eff | eff⟩ := eff f mem <;> simp [RegD.writes_of_mem mem rw' eff]
  have still : (d.writes .idle && s.blockRuns a) = false := by rw [never .idle (by decide) (by decide)]; rfl
  have word := s.writtenWord_still v still
  have same : newWord d.fields (d.writes .idle && s.blockRuns a) (s.reg a) (s.writtenWord d a v) = s.reg a := by
    unfold newWord
    generalize s.reg a = w
    have stays : ∀ fs : List FieldD, (∀ f ∈ fs, f ∈ d.fields) → newWord fs (d.writes .idle && s.blockRuns a) w (s.writtenWord d a v) = w := by
      intro fs
      induction fs with
      | nil => exact fun _ => rfl
      | cons f fs ih =>
        intro sub
        obtain ⟨rw', eff | eff⟩ := eff f (sub f List.mem_cons_self) <;>
        · rw [newWord, List.foldl_cons, rw', eff]
          exact ih fun g hg => sub g (List.mem_cons_of_mem f hg)
    exact stays d.fields fun f h => h
  refine ⟨_, by rw [State.plainWrite_one a v clr one, State.applyWrite_in (by rw [word]; exact range), never .boot (by decide) (by decide), waits], rfl, ?_, ?_⟩
  · dsimp only
    rw [if_pos rfl, word]
    exact tfind_tput_same _ _ _
  · intro k _
    by_cases at_ : k = a
    · rw [at_]
      exact (s.reg_fieldsPut v found).trans same
    · refine (s.reg_fieldsPut_ne v at_).trans ?_
      rw [State.idleNoted_still still]

/-! ### The start of a line and the opening of an item -/

theorem State.reg_foldl {α : Type} {f : State → α → State} {a : Nat} (h : ∀ s x, (f s x).reg a = s.reg a) (l : List α) (s : State) :
    (l.foldl f s).reg a = s.reg a := foldl_keeps (fun s : State => s.reg a) h l s

theorem State.reg_setFld_ne (s : State) {a b : Nat} (f : Fld) (v : Nat) (h : b ≠ a) : (s.setFld a f v).reg b = s.reg b := State.reg_setReg_ne s _ h

theorem State.reg_modItem (s : State) (i : Nat) (f : Entry → Entry) (a : Nat) : (s.modItem i f).reg a = s.reg a := (rfl)

theorem State.reg_estimate (s : State) (i : Nat) (p : Piece) (a : Nat) : (s.estimate i p).reg a = s.reg a := by
  unfold State.estimate
  extract_lets e still put
  have put_reg (d : Nat) : (put d).reg a = s.reg a := s.reg_modItem i _ a
  split
  · rfl
  · split
    · exact put_reg _
    · split
      · rfl
      · exact put_reg _

/-- A line that starts changes no register but those of the LINE fields and LIN_LINE_CNT (R11, R85). -/
theorem State.reg_startLine (s : State) (n : Nat) {a : Nat} (ne : a ≠ LIN_LINE_CNT n) : (s.startLine n).reg a = (s.applyShadow .line (lineScope n)).reg a := by
  unfold State.startLine
  generalize s.applyShadow .line (lineScope n) = s
  refine (State.reg_foldl (f := fun s (p : Nat × Piece) => s.estimate p.1 p.2) (fun s x => s.reg_estimate x.1 x.2 a) _ _).trans ?_
  exact (State.reg_setFld_ne _ _ _ ne).trans rfl

theorem State.reg_itemBoundary (s : State) (m : Option Nat) (a : Nat) : (s.itemBoundary m).reg a = (s.applyShadow .item (itemScope m)).reg a := by
  cases m <;> rfl

/-- A line counter has no LINE field. -/
theorem findReg_linLineCnt (n : Fin 4) : (findReg (LIN_LINE_CNT n)).all (fun x => x.1.fields.all (fun f => f.eff != .line)) = true := by
  revert n; decide

theorem RegD.ofEff_of_mem {d : RegD} {f : FieldD} (mem : f ∈ d.fields) {e : Eff} (eff : f.eff = e) : d.ofEff e ≠ [] :=
  List.ne_nil_of_mem (List.mem_filter.mpr ⟨mem, by simp [eff]⟩)

/-! ### The next reset -/

/-- The registers of BOOT fields. -/
theorem boot_places : ∀ d ∈ regTable, (d.fields.any (fun f => f.eff == .boot)) = true →
    (d.base = 0x880010 ∨ d.base = SYS_HUDDLE_WAIT) ∧ d.insts = 1 ∧ d.elems = 1 := by
  decide +kernel

theorem boot_place {a i j : Nat} {d : RegD} {f : FieldD} (found : findReg a = some (d, i, j)) (mem : f ∈ d.fields) (eff : f.eff = .boot) :
    a = 0x880010 ∨ a = SYS_HUDDLE_WAIT := by
  obtain ⟨hi, hj, rfl⟩ := findReg_place found
  obtain ⟨base, insts, elems⟩ := boot_places d (mem_regTable_of_findReg found) (List.any_eq_true.mpr ⟨f, mem, by simp [eff]⟩)
  obtain rfl : i = 0 := by omega
  obtain rfl : j = 0 := by omega
  simpa using base

theorem rstRegs_notBoot : ∀ x ∈ rstRegs .otp, x.1 ≠ 0x880010 ∧ x.1 ≠ SYS_HUDDLE_WAIT := by
  decide +kernel

theorem State.reg_applyBoot {s : State} {pend : Tbl Word} {a i j : Nat} {d : RegD} {v : Word} (found : findReg a = some (d, i, j))
    (mem : (a, v) ∈ pend) (one : ∀ w, (a, w) ∈ pend → w = v) {f : FieldD} (field : f ∈ d.fields) (eff : f.eff = .boot) :
    fget ((s.applyBoot pend).reg a) f.fld = fget v f.fld := by
  unfold State.applyBoot
  refine foldl_brings (a := a) (v := v) (P := fun t : State => fget (t.reg a) f.fld = fget v f.fld) (Q := fun _ => True) ?_ ?_ (fun _ _ _ _ => trivial)
    (fun _ _ => trivial) mem one trivial
  · intro t _
    simp only [found]
    rw [State.reg_setReg_same, fget_copyFields (fieldsApart_of_findReg found) .boot v _ field, if_pos eff]
  · intro t x away held
    split
    · rwa [State.reg_setReg_ne _ _ (Ne.symm away)]
    · exact held

theorem State.reg_fillRst (s : State) (k : Rst) (v : Nat → Word) {a : Nat} (away : ∀ x ∈ rstRegs k, x.1 ≠ a) : (s.fillRst k v).reg a = s.reg a := by
  unfold State.fillRst
  generalize rstRegs k = l at away
  induction l generalizing s with
  | nil => rfl
  | cons x l ih =>
    rw [List.foldl_cons, ih _ (fun y hy => away y (List.mem_cons_of_mem x hy)), State.reg_setReg_ne _ _ (Ne.symm (away x List.mem_cons_self))]

theorem State.reg_findPins (s : State) (pins : PinLevels) {a : Nat} (ne : a ≠ LIN_BAR_STAT) : (s.findPins pins).reg a = s.reg a := by
  unfold State.findPins State.findLevels
  dsimp only
  refine (State.reg_foldl (fun s k => ?_) _ _).trans rfl
  exact State.reg_setFld_ne s _ _ ne

/-- A warm reset leaves in a register of BOOT fields what `applyBoot` puts there (R12). -/
theorem State.reg_warmReset (s : State) (cause : Nat) (pins : PinLevels) {a : Nat} (boot : a = 0x880010 ∨ a = SYS_HUDDLE_WAIT) :
    (s.warmReset cause pins).reg a = ((s.engineReset (s.regs.filter (fun r => keepsWarm r.1))).applyBoot s.bootPend).reg a := by
  have away : ∀ k ∈ [SYS_PWR_STAT, SYS_BOOT_STAT, RAS_RESET_CAUSE, SYS_SERIAL_LO, SYS_SERIAL_LO + 4, LIN_BAR_STAT], a ≠ k := by
    rcases boot with rfl | rfl <;> decide
  have otp : ∀ x ∈ rstRegs .otp, x.1 ≠ a := fun x hx => by
    obtain ⟨h1, h2⟩ := rstRegs_notBoot x hx
    rcases boot with rfl | rfl
    · exact h1
    · exact h2
  unfold State.warmReset State.incFld State.setPair State.setNum
  dsimp only
  rw [State.reg_setFld_ne _ _ _ (away _ (by simp)), State.reg_setFld_ne _ _ _ (away _ (by simp)), State.reg_setFld_ne _ _ _ (away _ (by simp)),
    State.reg_setFld_ne _ _ _ (away _ (by simp)), State.reg_setReg_ne _ _ (away _ (by simp)), State.reg_setReg_ne _ _ (away _ (by simp))]
  have fresh (t : State) (x : Tim) (y : Sys) : ({ t with tim := x, sys := y } : State).reg a = t.reg a := rfl
  rw [fresh, State.reg_fillRst _ .otp Config.otp otp]
  exact State.reg_findPins _ pins (away _ (by simp))

end Sys2Proof.Machine
end

section
/-! SUPPORT. What settles O14: an access by its outcome, a pair by its words, a waiting word by its boundary. -/

namespace Sys2Proof.Machine

theorem State.reg_keeps (s t : State) (a : Nat) : (s.keeps t).reg a = t.reg a := (rfl)

/-- A word out of range leaves the register file but for the noted rejection (R577). -/
theorem State.regsSame_rejected (s : State) (a : Nat) (d : RegD) :
    (∀ b r, d.rej = some b → rejectReg a = some r →
      ((s.idleNoted d a).rejectOf d a).reg r = s.reg r ||| BitVec.ofNat 32 (2 ^ b) ∧ s.regsSame ((s.idleNoted d a).rejectOf d a) [a, r])
    ∧ (∀ r, rejectReg a = some r → s.regsSame ((s.idleNoted d a).rejectOf d a) [r])
    ∧ (d.rej = none ∨ rejectReg a = none → s.regsSame ((s.idleNoted d a).rejectOf d a) []) := by
  have plain (h : d.rej = none ∨ rejectReg a = none) : (s.idleNoted d a).rejectOf d a = s := by
    rw [State.idleNoted, State.rejectOf_plain h, State.rejectOf_plain h, ite_self]
  have noted (b r : Nat) (rej : d.rej = some b) (at_ : rejectReg a = some r) :
      ((s.idleNoted d a).rejectOf d a).reg r = s.reg r ||| BitVec.ofNat 32 (2 ^ b) ∧ s.regsSame ((s.idleNoted d a).rejectOf d a) [r] := by
    obtain ⟨once, same⟩ := State.reg_rejectOf (s := s) rej at_
    obtain ⟨twice, same'⟩ := State.reg_rejectOf (s := s.idleNoted d a) rej at_
    unfold State.idleNoted at twice same' ⊢
    split at twice
    · rename_i runs
      rw [if_pos runs] at same' ⊢
      rw [twice, once, BitVec.or_assoc, BitVec.or_self]
      exact ⟨rfl, fun k away => (same' k away).trans (same k away)⟩
    · rename_i still
      rw [if_neg still]
      exact ⟨once, same⟩
  refine ⟨fun b r rej at_ => ?_, fun r at_ => ?_, fun h => ?_⟩
  · obtain ⟨reg, same⟩ := noted b r rej at_
    exact ⟨reg, fun k away => same k fun mem => away (List.mem_cons_of_mem a mem)⟩
  · cases rej : d.rej with
    | none =>
      rw [plain (.inl rej)]
      exact fun _ _ => rfl
    | some b => exact (noted b r rej at_).2
  · rw [plain h]
    exact fun _ _ => rfl

/-- A word in range puts its fields, with the rejection of the IDLE fields of a running block noted (R576). -/
theorem State.regsSame_fieldsPut (s : State) {a i j : Nat} {d : RegD} (v : Word) (found : findReg a = some (d, i, j)) :
    (∀ b r, d.rej = some b → rejectReg a = some r → (d.writes .idle && s.blockRuns a) = true →
      (s.fieldsPut d a v).reg r = s.reg r ||| BitVec.ofNat 32 (2 ^ b) ∧ s.regsSame (s.fieldsPut d a v) [a, r])
    ∧ ((d.writes .idle && s.blockRuns a) = false → s.regsSame (s.fieldsPut d a v) [a]) := by
  constructor
  · intro b r rej at_ runs
    obtain ⟨reg, same⟩ := State.reg_rejectOf (s := s) rej at_
    have noted : s.idleNoted d a = s.rejectOf d a := if_pos runs
    rw [← noted] at reg same
    refine ⟨(s.reg_fieldsPut_ne v (rejectReg_ne found rej at_).symm).trans reg, fun k away => ?_⟩
    simp only [List.mem_cons, List.not_mem_nil, or_false, not_or] at away
    obtain ⟨awayA, awayR⟩ := away
    exact (s.reg_fieldsPut_ne v awayA).trans (same k (by simpa using awayR))
  · intro still k away
    refine (s.reg_fieldsPut_ne v (by simpa using away)).trans ?_
    rw [State.idleNoted_still still]

theorem RegD.any_writes (d : RegD) : [Eff.line, .cmd, .item].any d.writes = (d.writes .line || d.writes .cmd || d.writes .item) := by
  simp [Bool.or_assoc]

/-- The registers whose write does more are those of two lists. -/
theorem not_mem_acting_followed {b : Nat} (h : b ∉ [LIN_PORT_CTL 0, CAL_CTL 0, CAL_TAB_DATA 0, CAL_TAB_COMMIT 0, HIF_SQ_CFG 0, HIF_SQ_TAIL 0, HIF_RING_CFG 0, HIF_RING_HEAD 0, SCH_SB_SEL,
        SCH_SB_CLR, SNP_CTL, PIT_GOV_CFG, PIT_GOV_VLIM, PIT_GOV_FIXED, PIT_PWR_CAP, SYS_PWR_CTL, SYS_THERM, KOL_PORT_CTL 0, ETH_CFG, LIN_BAR_CFG 0,
        HIF_RESULT_BUDGET, PGM_ITEM_LC_RESERVE, LIN_RET_SIZE 0, LIN_ENC_CFG 0, LIN_ENC_LIMIT 0, PIT_GOV_STAT, TIM_CFG]) : b ∉ actingBases ∧ b ∉ followedBases := by
  simp only [actingBases, followedBases, List.mem_cons, List.not_mem_nil, or_false, not_or] at h ⊢
  tauto

/-- A line parameter waits for the start of a line. -/
theorem exec_regWrite_later {s : State} {a i j : Nat} {d : RegD} (v : Word) (awake : s.awake) (inBar : a < 2 ^ 26) (found : findReg a = some (d, i, j)) (aligned : a % 4 = 0)
    (main : a / 0x100000 ≠ 10) (plain : d.base ∉ actingBases) (notFollowed : d.base ∉ followedBases) (noIrq : irqStatOf d.base a = none) (one : d.pair = .one) (clr : d.clr = false)
    (later : d.fields.all (fun f => f.acc == .rw && (f.eff == .line || f.eff == .item)) = true) (some_ : d.fields ≠ []) (range : s.inRange d.base v = true) :
    ∃ t, exec (.regWrite (BitVec.ofNat 26 a) 4 v) s = .next t ∧ tfind t.shadow a = some v ∧ s.regsSame t [] ∧ s.memSame t := by
  obtain ⟨t, put, frame, waits, same⟩ := State.plainWrite_later found one clr later some_ range
  have place : (BitVec.ofNat 26 a).toNat = a := by rw [BitVec.toNat_ofNat, Nat.mod_eq_of_lt inBar]
  refine ⟨s.keeps t, ?_, waits, same, ?_⟩
  · rw [exec_regWrite awake, place, State.hostWrite_plain v found aligned main awake.2 plain, put, State.afterWrite_of_not_followed i noIrq notFollowed]
  · rw [frame]
    exact fun _ => ⟨rfl, rfl, rfl⟩

theorem findReg_linLampTime (n : Fin 4) : findReg (LIN_LAMP_TIME n) = some (⟨LIN_LAMP_TIME 0, 4, 0x10000, 1, 0x0, .one, some 8, false,
    [⟨LIN_LAMP_TIME_TAIL_NS, .rw, .val 100, .line⟩, ⟨LIN_LAMP_TIME_LEAD_NS, .rw, .val 200, .line⟩]⟩, n.val, 0) := by
  revert n; decide

theorem findReg_linGateTime (n : Fin 4) : findReg (LIN_GATE_TIME n) = some (⟨LIN_GATE_TIME 0, 4, 0x10000, 1, 0x0, .one, none, false,
    [⟨LIN_GATE_TIME_GATE_NS, .rw, .val 0, .item⟩]⟩, n.val, 0) := by
  revert n; decide

/-- Settles O14: a fold over the fields for the access, both words for a pair, and for a waiting word the boundary of its code. -/
theorem registerWrites : Obligations.RegisterWrites := by
  unfold Obligations.RegisterWrites
  refine ⟨?plain, ?later, ?rule, ?access, ?pair, ?boundary⟩
  case plain =>
    intro s a d i j v awake found aligned main one clr noIrq notMore once still range
    obtain ⟨plain, notFollowed⟩ := not_mem_acting_followed notMore
    have runs : (d.writes .idle && s.blockRuns a.toNat) = false := by rw [still, Bool.and_false]
    have word := s.writtenWord_still (d := d) v runs
    refine ⟨s.keeps { s with regs := (s.fieldsPut d a.toNat v).regs }, ?_, ?_, ?_, ?_, ?_, rfl, fun b bad => ?_, fun b bad => ?_⟩
    · rw [exec_regWrite awake, State.hostWrite_plain v found aligned main awake.2 plain, State.plainWrite_atOnce one clr once still range,
        State.afterWrite_of_not_followed i noIrq notFollowed]
    · intro f mem rw'
      have put := (s.fget_fieldsPut v found mem).1 rw' (RegD.eff_of_atOnce once mem rw')
      rwa [word] at put
    · exact fun f mem w1c => (s.fget_fieldsPut v found mem).2.1 w1c
    · exact fun f mem ro => (s.fget_fieldsPut v found mem).2.2.2 ro
    · exact (s.regsSame_fieldsPut v found).2 runs
    · rw [exec_regWrite awake, s.hostWrite_misfit v (.inl bad)]
      rfl
    · rw [exec_regWrite awake, s.hostWrite_misfit v (.inr bad)]
      rfl
  case later =>
    intro s n v awake
    refine ⟨exec_regWrite_later v awake ?_ (findReg_linLampTime n) ?_ ?_ (by decide) (by decide) ?_ rfl rfl rfl (by decide) rfl,
      exec_regWrite_later v awake ?_ (findReg_linGateTime n) ?_ ?_ (by decide) (by decide) ?_ rfl rfl rfl (by decide) rfl⟩
    all_goals revert n; decide
  case rule =>
    intro s a d i j v awake found aligned main plain
    exact ⟨by rw [exec_regWrite awake, State.hostWrite_plain v found aligned main awake.2 plain], fun clr one => State.plainWrite_one _ v clr one⟩
  case access =>
    intro s a d i j v found main
    refine ⟨s.writtenWord d a v, (s.applyWrite d a v).1, (s.applyWrite d a v).2, rfl, ?_⟩
    cases range : s.inRange d.base (s.writtenWord d a v)
    · obtain ⟨both, only, none⟩ := s.regsSame_rejected a d
      rw [State.applyWrite_out range]
      refine ⟨rfl, fun f mem => s.fget_writtenWord v found mem, ?_, fun b r rej at_ _ => both b r rej at_, fun _ => ⟨only, none, ?_, ?_⟩, nofun, nofun, nofun⟩
      all_goals rw [State.rejectOf_eq, State.idleNoted_eq]
    · obtain ⟨noted, alone⟩ := s.regsSame_fieldsPut v found
      rw [State.applyWrite_in range]
      refine ⟨rfl, fun f mem => s.fget_writtenWord v found mem, rfl, ?_, nofun, fun _ => alone, fun _ f mem => ?_, fun _ => ⟨fun k away => ?_, fun k away => ?_⟩⟩
      · intro b r rej at_ cause
        refine noted b r rej at_ ?_
        rcases cause with bad | ⟨idle, runs⟩
        · cases bad
        · rw [idle, runs]; rfl
      · obtain ⟨now, w1c, later, -⟩ := s.fget_fieldsPut v found mem
        refine ⟨now, w1c, later, fun rw' eff => ?_, fun rw' eff => ?_⟩
        · have waits : (d.writes .line || d.writes .cmd || d.writes .item) = true := by
            rw [← RegD.any_writes]
            exact List.any_eq_true.mpr ⟨f.eff, eff, RegD.writes_of_mem mem rw' rfl⟩
          dsimp only
          rw [if_pos waits]
          exact tfind_tput_same _ _ _
        · dsimp only
          rw [if_pos (RegD.writes_of_mem mem rw' eff)]
          exact tfind_tput_same _ _ _
      · dsimp only
        rw [RegD.any_writes] at away
        split
        · rename_i waits
          exact tfind_tput_ne _ _ (away.resolve_right (by rw [waits]; decide))
        · rfl
      · dsimp only
        split
        · rename_i waits
          exact tfind_tput_ne _ _ (away.resolve_right (by rw [waits]; decide))
        · rfl
  case pair =>
    intro s a d i j v found clr
    refine ⟨fun lo => ⟨_, State.plainWrite_lo a v clr lo, rfl, tfind_tput_same _ _ _⟩, fun hi idle runs => ?_, fun hi still => ?_⟩
    · refine ⟨_, State.plainWrite_hi_runs v clr hi (by rw [idle, runs]; rfl), ?_, ?_, fun b r rej at_ => State.reg_rejectOf rej at_⟩
      · rw [State.rejectOf_eq]
      · rw [State.rejectOf_eq]
        exact tfind_tdel_same _ _
    · obtain ⟨ne, once, onceLow⟩ := pair_of_hi found hi
      obtain ⟨t, run, frame, same, high, noLow, low⟩ := State.plainWrite_hi v clr hi still ne
      refine ⟨t, run, ?_, same, ?_, ?_, noLow, ?_⟩
      · rw [frame]
      · rw [frame]
        exact tfind_tdel_same _ _
      · intro f mem rw'
        rw [high]
        exact fget_newWord_atOnce found once _ _ mem rw'
      · intro w e i' j' waits found' f mem rw'
        rw [low w e i' j' waits found']
        exact fget_newWord_atOnce found' (onceLow e i' j' found') _ _ mem rw'
  case boundary =>
    intro s a d i j v found
    refine ⟨fun mem one => ⟨fun e p some_ => ⟨fun takes => State.applyShadow_takes found mem one some_ takes, fun stays => ?_⟩, ?_, ?_⟩, ?_, ?_⟩
    · obtain ⟨reg, waits⟩ := State.applyShadow_away (s := s) (e := e) (p := p) (a := a) fun _ _ => stays
      exact ⟨reg, waits v mem⟩
    · intro n inScope f field eff
      have ne : a ≠ LIN_LINE_CNT n := by
        rintro rfl
        have none := findReg_linLineCnt n
        rw [found] at none
        have := List.all_eq_true.mp none f field
        rw [eff] at this
        cases this
      rw [State.reg_startLine s n ne, (State.applyShadow_takes found mem one (RegD.ofEff_of_mem field eff) inScope).1 f field, if_pos eff]
    · intro m inScope f field eff
      rw [s.reg_itemBoundary m, (State.applyShadow_takes found mem one (RegD.ofEff_of_mem field eff) inScope).1 f field, if_pos eff]
    · intro a none e p
      exact (State.applyShadow_away fun w mem => absurd mem (none w)).1
    · intro mem one released pins
      refine ⟨s.keeps (s.warmReset 3 pins), ?_, fun f field eff => ?_⟩
      · rw [exec, execLockstepMismatch, State.onMain_released _ released]
        rfl
      · rw [State.reg_keeps, s.reg_warmReset 3 pins (boot_place found field eff)]
        exact State.reg_applyBoot found mem one field eff

end Sys2Proof.Machine
end

section
/-! SUPPORT. What the shared operations on registers and interrupts leave and put: the layer under the host's register commands (R5, R8, R515). -/

namespace Sys2Proof.Machine

/-! ### Whole registers, fields and pairs -/

theorem State.num_setNum_same (s : State) (a : Nat) {v : Nat} (fits : v < 2 ^ 32) : (s.setNum a v).num a = v := by
  rw [State.num, State.setNum, State.reg_setReg_same, BitVec.toNat_ofNat, Nat.mod_eq_of_lt fits]

theorem State.reg_setNum_ne (s : State) {a b : Nat} (v : Nat) (h : b ≠ a) : (s.setNum a v).reg b = s.reg b := State.reg_setReg_ne s _ h

theorem State.fld_congr {s t : State} {a : Nat} (h : t.reg a = s.reg a) (f : Fld) : t.fld a f = s.fld a f := by rw [State.fld, State.fld, h]

theorem State.on_congr {s t : State} {a : Nat} (h : t.reg a = s.reg a) (f : Fld) : t.on a f = s.on a f := by rw [State.on, State.on, State.fld_congr h]

theorem State.num_congr {s t : State} {a : Nat} (h : t.reg a = s.reg a) : t.num a = s.num a := by rw [State.num, State.num, h]

/-- A field that holds what fits it. -/
theorem State.fld_setFld_fits (s : State) (a : Nat) {f : Fld} {v : Nat} (lo : f.lo ≤ f.hi) (hi : f.hi < 32) (fits : v < 2 ^ (f.hi + 1 - f.lo)) :
    (s.setFld a f v).fld a f = v := by
  rw [State.fld_setFld_same s a f v lo hi, Nat.mod_eq_of_lt fits]

theorem State.on_setFld_one (s : State) (a : Nat) {f : Fld} (lo : f.lo ≤ f.hi) (hi : f.hi < 32) : (s.setFld a f 1).on a f = true := by
  rw [State.on, State.fld_setFld_fits s a lo hi (Nat.one_lt_two_pow (by omega))]
  rfl

theorem State.on_setFld_zero (s : State) (a : Nat) {f : Fld} (lo : f.lo ≤ f.hi) (hi : f.hi < 32) : (s.setFld a f 0).on a f = false := by
  rw [State.on, State.fld_setFld_fits s a lo hi (Nat.two_pow_pos _)]
  rfl

theorem State.on_setFld_other (s : State) (a : Nat) {f g : Fld} (v : Nat) (lo : f.lo ≤ f.hi) (hi : f.hi < 32) (away : g.hi < f.lo ∨ f.hi < g.lo) :
    (s.setFld a f v).on a g = s.on a g := by
  rw [State.on, State.on, State.fld_setFld_other s a f g v lo hi away]

/-- A 64-bit quantity reads as what was put. -/
theorem State.pair_setPair (s : State) (a : Nat) (v : Nat) : (s.setPair a v).pair a = v % 2 ^ 64 := by
  have low : (s.setPair a v).num a = v % 2 ^ 32 := by
    rw [State.setPair, State.num, State.reg_setNum_ne _ _ (by omega), State.setNum, State.reg_setReg_same, BitVec.toNat_ofNat]
  have high : (s.setPair a v).num (a + 4) = v / 2 ^ 32 % 2 ^ 32 := by
    rw [State.setPair, State.num, State.setNum, State.reg_setReg_same, BitVec.toNat_ofNat]
  rw [State.pair, low, high]
  omega

theorem State.reg_setPair_ne (s : State) {a b : Nat} (v : Nat) (low : b ≠ a) (high : b ≠ a + 4) : (s.setPair a v).reg b = s.reg b := by
  rw [State.setPair, State.reg_setNum_ne _ _ high, State.reg_setNum_ne _ _ low]

theorem State.pair_congr {s t : State} {a : Nat} (low : t.reg a = s.reg a) (high : t.reg (a + 4) = s.reg (a + 4)) : t.pair a = s.pair a := by
  rw [State.pair, State.pair, State.num_congr low, State.num_congr high]

/-! ### Interrupts -/

theorem State.message_eq (s : State) (v : Nat) : s.message v = { s with msix := (s.message v).msix, msixPend := (s.message v).msixPend } := by
  unfold State.message
  split <;> rfl

theorem State.raise_eq (s : State) (a i : Nat) : s.raise a i = { s with regs := (s.raise a i).regs, msix := (s.raise a i).msix, msixPend := (s.raise a i).msixPend } := by
  unfold State.raise State.sendIrq
  extract_lets t
  split
  · rw [State.message_eq]
    rfl
  · rfl

theorem State.raise_regs (s : State) (a i : Nat) : (s.raise a i).regs = (s.setReg a (s.reg a ||| BitVec.ofNat 32 (2 ^ i))).regs := by
  unfold State.raise State.sendIrq
  extract_lets t
  split
  · rw [State.message_eq]
  · rfl

theorem State.reg_of_regs {s t : State} (h : t.regs = s.regs) (a : Nat) : t.reg a = s.reg a := by rw [State.reg, State.reg, h]

theorem State.reg_raise_ne (s : State) {a b : Nat} (i : Nat) (h : b ≠ a) : (s.raise a i).reg b = s.reg b :=
  (State.reg_of_regs (s.raise_regs a i) b).trans (State.reg_setReg_ne s _ h)

/-- A raised bit reads 1 (R8). -/
theorem State.bit_raise (s : State) (a : Nat) {i : Nat} (h : i < 32) : bit ((s.raise a i).num a) i = true := by
  rw [State.num_congr (State.reg_of_regs (s.raise_regs a i) a)]
  exact s.bit_num_reject_same a h

/-! ### Memories -/

theorem State.memSame_of {s t : State} (host : t.host = s.host) (dram : t.dram = s.dram) (tile : t.tile = s.tile) (wait : t.retQueue = s.retQueue) (ras : t.ras = s.ras) :
    s.memSame t := by
  intro a
  have now : t.dramNow = s.dramNow := by unfold State.dramNow; rw [dram, wait, ras]
  refine ⟨by rw [host], ?_, by rw [tile]⟩
  rw [State.dread, State.dread, now]

theorem State.memSame_refl (s : State) : s.memSame s := fun _ => ⟨rfl, rfl, rfl⟩

theorem State.memSame_trans {s t u : State} (h : s.memSame t) (h' : t.memSame u) : s.memSame u := fun a =>
  ⟨(h' a).1.trans (h a).1, (h' a).2.1.trans (h a).2.1, (h' a).2.2.trans (h a).2.2⟩

theorem State.memSame_keeps (s t : State) (h : s.memSame t) : s.memSame (s.keeps t) := State.memSame_trans h (State.memSame_of rfl rfl rfl rfl rfl)

/-! ### Changes of registers alone -/

/-- The register file alone differs. -/
def State.RegsOnly (s t : State) : Prop := t = { s with regs := t.regs }

namespace State.RegsOnly

variable {s t u : State}

theorem refl (s : State) : s.RegsOnly s := rfl

theorem trans (h : s.RegsOnly t) (h' : t.RegsOnly u) : s.RegsOnly u := by
  unfold State.RegsOnly at h h' ⊢
  rw [h] at h'
  exact h'

theorem setReg (h : s.RegsOnly t) (a : Nat) (v : Word) : s.RegsOnly (t.setReg a v) := h.trans rfl

theorem setFld (h : s.RegsOnly t) (a : Nat) (f : Fld) (v : Nat) : s.RegsOnly (t.setFld a f v) := h.setReg a _

theorem setNum (h : s.RegsOnly t) (a v : Nat) : s.RegsOnly (t.setNum a v) := h.setReg a _

theorem incFld (h : s.RegsOnly t) (a : Nat) (f : Fld) (n : Nat) : s.RegsOnly (t.incFld a f n) := h.setReg a _

theorem incReg (h : s.RegsOnly t) (a n : Nat) : s.RegsOnly (t.incReg a n) := h.setReg a _

theorem setPair (h : s.RegsOnly t) (a v : Nat) : s.RegsOnly (t.setPair a v) := (h.setNum a v).setNum (a + 4) _

theorem memSame (h : s.RegsOnly t) : s.memSame t := by
  rw [h]
  exact State.memSame_of rfl rfl rfl rfl rfl

/-- What does not read the register file is as it was. -/
theorem same {β : Type} (h : s.RegsOnly t) (f : State → β) (blind : ∀ (s : State) r, f { s with regs := r } = f s) : f t = f s := by
  rw [h]
  exact blind s t.regs

/-- The queue and Norentum are as they were. -/
theorem keeps (h : s.RegsOnly t) : s.keeps t = t := by
  rw [h]
  rfl

end State.RegsOnly

/-! ### Commands of the main domain -/

theorem State.onMain_keeps {s : State} (f : State → State) (released : s.sys.released = true) : s.onMain f = .next (s.keeps (f s)) :=
  State.onMain_released f released

/-- A register that changes keeps the queue and Norentum as they are. -/
theorem State.keeps_setFld (s : State) (a : Nat) (f : Fld) (v : Nat) : s.keeps (s.setFld a f v) = s.setFld a f v := rfl

theorem State.keeps_setReg (s : State) (a : Nat) (v : Word) : s.keeps (s.setReg a v) = s.setReg a v := rfl

/-! ### Tables -/

theorem tget_tupd_same {β : Type} {d : β} {t : Tbl β} {f : β → β} {k : Nat} {v : β} (h : tfind t k = some v) : tget d (tupd t k f) k = f v := by
  rw [tget_eq, tfind_tupd_same, h]
  rfl

end Sys2Proof.Machine
end

section
/-! SUPPORT. Submission queues and completion rings: doorbells, enabling, HEAD writes and the ring's timer (R486-R490, R509, R515). -/

namespace Sys2Proof.Machine

/-! ### The registers -/

/-- The row of HIF_SQq_CFG in the register map. -/
def sqCfgRow : RegD :=
  ⟨HIF_SQ_CFG 0, 1, 0x0, 64, 0x40, .one, some 1, false, [⟨HIF_SQ_CFG_EN, .rw, .val 0, .imm⟩, ⟨HIF_SQ_CFG_LOG2_SIZE, .rw, .val 6, .idle⟩]⟩

/-- The row of HIF_RINGr_CFG in the register map. -/
def ringCfgRow : RegD :=
  ⟨HIF_RING_CFG 0, 1, 0x0, 64, 0x40, .one, some 2, false, [⟨HIF_RING_CFG_EN, .rw, .val 0, .imm⟩, ⟨HIF_RING_CFG_HEAD_ERR, .w1c, .val 0, .imm⟩,
    ⟨HIF_RING_CFG_LOG2_SLOTS, .rw, .val 12, .idle⟩]⟩

theorem findReg_sqCfgRow (q : Fin 64) : findReg (HIF_SQ_CFG q) = some (sqCfgRow, 0, q.val) := findReg_hifSqCfg q

theorem findReg_ringCfgRow (r : Fin 64) : findReg (HIF_RING_CFG r) = some (ringCfgRow, 0, r.val) := findReg_hifRingCfg r

/-- Registers of the host interface are aligned and outside Norentum's block. -/
theorem hif_place {a : Nat} (aligned : a % 4 = 0) (low : a < 0x100000) : (4 ≠ 4 || a % 4 ≠ 0 || a / 0x100000 = 10 : Bool) = false := by
  have : a / 0x100000 = 0 := by omega
  simp [aligned, this]

theorem State.hostWrite_sqCfg {s : State} (q : Fin 64) (v : Word) (ready : s.isReady = true) : s.hostWrite (HIF_SQ_CFG q) 4 v = s.writeSqCfg sqCfgRow q v := by
  unfold State.hostWrite
  rw [if_neg (by rw [hif_place (by simp only [HIF_SQ_CFG]; omega) (by simp only [HIF_SQ_CFG]; omega)]; decide), findReg_sqCfgRow]
  dsimp only
  rw [if_neg (by rw [ready]; decide)]
  iterate 4 rw [if_neg (by decide)]
  exact if_pos rfl

theorem State.hostWrite_sqTail {s : State} (q : Fin 64) (v : Word) (ready : s.isReady = true) :
    s.hostWrite (HIF_SQ_TAIL q) 4 v = s.doorbell q (fget v HIF_SQ_TAIL_TAIL) := by
  unfold State.hostWrite
  rw [if_neg (by rw [hif_place (by simp only [HIF_SQ_TAIL]; omega) (by simp only [HIF_SQ_TAIL]; omega)]; decide), findReg_hifSqTail]
  dsimp only
  rw [if_neg (by rw [ready]; decide)]
  iterate 5 rw [if_neg (by decide)]
  exact if_pos rfl

theorem State.hostWrite_ringCfg {s : State} (r : Fin 64) (v : Word) (ready : s.isReady = true) : s.hostWrite (HIF_RING_CFG r) 4 v = s.writeRingCfg ringCfgRow r v := by
  unfold State.hostWrite
  rw [if_neg (by rw [hif_place (by simp only [HIF_RING_CFG]; omega) (by simp only [HIF_RING_CFG]; omega)]; decide), findReg_ringCfgRow]
  dsimp only
  rw [if_neg (by rw [ready]; decide)]
  iterate 6 rw [if_neg (by decide)]
  exact if_pos rfl

theorem State.hostWrite_ringHead {s : State} (r : Fin 64) (v : Word) (ready : s.isReady = true) : s.hostWrite (HIF_RING_HEAD r) 4 v = s.ringHead r v := by
  unfold State.hostWrite
  rw [if_neg (by rw [hif_place (by simp only [HIF_RING_HEAD]; omega) (by simp only [HIF_RING_HEAD]; omega)]; decide), findReg_hifRingHead]
  dsimp only
  rw [if_neg (by rw [ready]; decide)]
  iterate 7 rw [if_neg (by decide)]
  exact if_pos rfl

/-- The queue whose configuration stands at an offset is the block that runs there (R14). -/
theorem State.blockRuns_sqCfg (s : State) (q : Fin 64) : s.blockRuns (HIF_SQ_CFG q) = s.on (HIF_SQ_CFG q) HIF_SQ_CFG_EN := by
  have block : HIF_SQ_CFG q / 0x100000 = 0 := by simp only [HIF_SQ_CFG]; omega
  have index : (HIF_SQ_CFG q - 0x1000) / 0x40 = q.val := by simp only [HIF_SQ_CFG]; omega
  have low : HIF_SQ_CFG q < 0x2000 := by simp only [HIF_SQ_CFG]; omega
  unfold State.blockRuns
  rw [block]
  rw [if_pos low, index]
  rfl

theorem State.blockRuns_ringCfg (s : State) (r : Fin 64) : s.blockRuns (HIF_RING_CFG r) = s.on (HIF_RING_CFG r) HIF_RING_CFG_EN := by
  have block : HIF_RING_CFG r / 0x100000 = 0 := by simp only [HIF_RING_CFG]; omega
  have index : (HIF_RING_CFG r - 0x2000) / 0x40 = r.val := by simp only [HIF_RING_CFG]; omega
  have high : ¬ HIF_RING_CFG r < 0x2000 := by simp only [HIF_RING_CFG]; omega
  unfold State.blockRuns
  rw [block]
  rw [if_neg high, index]
  rfl

theorem State.inRange_sqCfg (s : State) (v : Word) : s.inRange (HIF_SQ_CFG 0) v = inside (fget v HIF_SQ_CFG_LOG2_SIZE) 4 12 := by
  unfold State.inRange
  dsimp only
  iterate 18 rw [if_neg (by decide)]
  exact if_pos rfl

theorem State.inRange_ringCfg (s : State) (v : Word) : s.inRange (HIF_RING_CFG 0) v = inside (fget v HIF_RING_CFG_LOG2_SLOTS) 12 20 := by
  unfold State.inRange
  dsimp only
  iterate 19 rw [if_neg (by decide)]
  exact if_pos rfl

/-! ### Doorbells -/

/-- A doorbell in order moves TAIL, and notes from when its first packet is to be read (R486, R530). -/
theorem State.doorbell_moves {s : State} {q tail : Nat} (forward : 0 ≤ sdiff 16 tail (s.fld (HIF_SQ_TAIL q) HIF_SQ_TAIL_TAIL))
    (room : (tail + 65536 - s.fld (HIF_SQ_HEAD q) HIF_SQ_HEAD_HEAD) % 65536 ≤ 2 ^ s.fld (HIF_SQ_CFG q) HIF_SQ_CFG_LOG2_SIZE) :
    ∃ t : State, s.doorbell q tail = t.setFld (HIF_SQ_TAIL q) HIF_SQ_TAIL_TAIL tail ∧ t = { s with sqs := t.sqs }
      ∧ (tget default t.sqs q).stopped = (tget default s.sqs q).stopped ∧ ∀ k, k ≠ q → tget default t.sqs k = tget default s.sqs k := by
  have run : s.doorbell q tail = (if s.fld (HIF_SQ_HEAD q) HIF_SQ_HEAD_HEAD = s.fld (HIF_SQ_TAIL q) HIF_SQ_TAIL_TAIL then
      { s with sqs := tput s.sqs q { tget default s.sqs q with readTb := s.tb } } else s).setFld (HIF_SQ_TAIL q) HIF_SQ_TAIL_TAIL tail := by
    unfold State.doorbell
    exact if_neg (by simp only [Bool.or_eq_true, decide_eq_true_eq]; omega)
  refine ⟨_, run, ?_⟩
  split
  · exact ⟨rfl, by rw [tget_tput_same], fun k ne => tget_tput_ne _ _ _ ne⟩
  · exact ⟨rfl, rfl, fun _ _ => rfl⟩

theorem State.doorbell_stops {s : State} {q tail : Nat} (bad : sdiff 16 tail (s.fld (HIF_SQ_TAIL q) HIF_SQ_TAIL_TAIL) < 0 ∨
    2 ^ s.fld (HIF_SQ_CFG q) HIF_SQ_CFG_LOG2_SIZE < (tail + 65536 - s.fld (HIF_SQ_HEAD q) HIF_SQ_HEAD_HEAD) % 65536) : s.doorbell q tail = s.stopQueue q 1 := by
  unfold State.doorbell
  exact if_pos (by simp only [Bool.or_eq_true, decide_eq_true_eq]; exact bad.symm)

/-- A queue that stops shows its code and raises QUEUE_ERR (R486). -/
theorem State.stopQueue_shows (s : State) (q : Fin 64) {code : Nat} (fits : code < 2 ^ 8) :
    (s.stopQueue q code).fld (HIF_SQ_ERR q) HIF_SQ_ERR_CODE = code ∧ (tget default (s.stopQueue q code).sqs q).stopped = true
      ∧ bit ((s.stopQueue q code).num HIF_IRQ_STAT) 1 = true ∧ s.regsSame (s.stopQueue q code) [HIF_SQ_ERR q, HIF_IRQ_STAT] ∧ s.memSame (s.stopQueue q code) := by
  have apart : HIF_SQ_ERR q ≠ HIF_IRQ_STAT := by simp only [HIF_SQ_ERR, HIF_IRQ_STAT]; omega
  unfold State.stopQueue
  extract_lets t
  have put : t.fld (HIF_SQ_ERR q) HIF_SQ_ERR_CODE = code := State.fld_setFld_fits s _ (by decide) (by decide) fits
  refine ⟨?_, ?_, State.bit_raise _ _ (by decide), fun k away => ?_, ?_⟩
  · rw [State.fld_congr (State.reg_raise_ne _ _ apart)]
    exact put
  · rw [State.raise_eq]
    dsimp only
    rw [tget_tput_same]
  · simp only [List.mem_cons, List.not_mem_nil, or_false, not_or] at away
    rw [State.reg_raise_ne _ _ away.2]
    exact State.reg_setFld_ne s _ _ away.1
  · rw [State.raise_eq]
    exact State.memSame_of rfl rfl rfl rfl rfl

/-! ### Enabling and disabling -/

theorem State.applyWrite_eq (s : State) (d : RegD) (a : Nat) (v : Word) :
    (s.applyWrite d a v).1 = { s with regs := (s.applyWrite d a v).1.regs, shadow := (s.applyWrite d a v).1.shadow, bootPend := (s.applyWrite d a v).1.bootPend } := by
  cases range : s.inRange d.base (s.writtenWord d a v)
  · rw [State.applyWrite_out range, State.rejectOf_eq, State.idleNoted_eq]
  · rw [State.applyWrite_in range]

/-- A queue that is off takes a configuration in range (R486). -/
theorem State.applyWrite_off {s : State} {d : RegD} {a : Nat} {v : Word} (off : s.blockRuns a = false) (once : d.atOnce = true) (range : s.inRange d.base v = true) :
    s.applyWrite d a v = ({ s with regs := (s.fieldsPut d a v).regs }, true) := by
  have still : (d.writes .idle && s.blockRuns a) = false := by rw [off, Bool.and_false]
  have writes (e : Eff) (imm : e ≠ .imm) (idle : e ≠ .idle) := RegD.writes_of_atOnce once imm idle
  rw [State.applyWrite_in (by rw [s.writtenWord_still v still]; exact range), writes .line (by decide) (by decide),
    writes .cmd (by decide) (by decide), writes .item (by decide) (by decide), writes .boot (by decide) (by decide)]
  rfl

/-- One that runs takes its fields that are not IDLE. -/
theorem State.applyWrite_runs {s : State} {d : RegD} {a : Nat} {v : Word} (once : d.atOnce = true) (range : s.inRange d.base (s.writtenWord d a v) = true) :
    s.applyWrite d a v = ({ s with regs := (s.fieldsPut d a v).regs }, true) := by
  have writes (e : Eff) (imm : e ≠ .imm) (idle : e ≠ .idle) := RegD.writes_of_atOnce once imm idle
  rw [State.applyWrite_in range, writes .line (by decide) (by decide),
    writes .cmd (by decide) (by decide), writes .item (by decide) (by decide), writes .boot (by decide) (by decide)]
  rfl

theorem fget_one_ne_zero {w : Word} {f : Fld} (h : fget w f = 1) : (fget w f != 0) = true := by rw [h]; rfl

/-- EN going to 1 empties the queue and lets it run (R486; log entry 62). -/
theorem State.writeSqCfg_enables {s : State} {q : Fin 64} {v : Word} (off : s.on (HIF_SQ_CFG q) HIF_SQ_CFG_EN = false) (en : fget v HIF_SQ_CFG_EN = 1)
    (low : 4 ≤ fget v HIF_SQ_CFG_LOG2_SIZE) (high : fget v HIF_SQ_CFG_LOG2_SIZE ≤ 12) :
    ∃ t, s.writeSqCfg sqCfgRow q v = t ∧ t.on (HIF_SQ_CFG q) HIF_SQ_CFG_EN = true ∧ t.num (HIF_SQ_HEAD q) = 0 ∧ t.num (HIF_SQ_TAIL q) = 0
      ∧ t.fld (HIF_SQ_CFG q) HIF_SQ_CFG_LOG2_SIZE = fget v HIF_SQ_CFG_LOG2_SIZE ∧ (tget default t.sqs q).stopped = false
      ∧ s.regsSame t [HIF_SQ_CFG q, HIF_SQ_HEAD q, HIF_SQ_TAIL q, HIF_SQ_ERR q] ∧ s.memSame t := by
  have off' : s.blockRuns (HIF_SQ_CFG q) = false := (s.blockRuns_sqCfg q).trans off
  have still : (sqCfgRow.writes .idle && s.blockRuns (HIF_SQ_CFG q)) = false := by rw [off', Bool.and_false]
  have range : s.inRange sqCfgRow.base v = true := (s.inRange_sqCfg v).trans (by simp [inside, low, high])
  obtain ⟨u, hu⟩ : ∃ u, u = ({ s with regs := (s.fieldsPut sqCfgRow (HIF_SQ_CFG q) v).regs } : State) := ⟨_, rfl⟩
  have found := findReg_sqCfgRow q
  have word := s.writtenWord_still (d := sqCfgRow) (a := HIF_SQ_CFG q) v still
  have enU : u.on (HIF_SQ_CFG q) HIF_SQ_CFG_EN = true := by
    have put := (s.fget_fieldsPut v found (f := ⟨HIF_SQ_CFG_EN, .rw, .val 0, .imm⟩) (by simp [sqCfgRow])).1 rfl (.inl rfl)
    rw [word] at put
    rw [hu]
    exact fget_one_ne_zero (put.trans en)
  have logU : u.fld (HIF_SQ_CFG q) HIF_SQ_CFG_LOG2_SIZE = fget v HIF_SQ_CFG_LOG2_SIZE := by
    have put := (s.fget_fieldsPut v found (f := ⟨HIF_SQ_CFG_LOG2_SIZE, .rw, .val 6, .idle⟩) (by simp [sqCfgRow])).1 rfl (.inr rfl)
    rw [word] at put
    rw [hu]
    exact put
  have sameU : s.regsSame u [HIF_SQ_CFG q] := by
    rw [hu]
    exact (s.regsSame_fieldsPut v found).2 still
  obtain ⟨w, hw⟩ : ∃ w, w = ((u.setNum (HIF_SQ_HEAD q) 0).setNum (HIF_SQ_TAIL q) 0).setFld (HIF_SQ_ERR q) HIF_SQ_ERR_CODE 0 := ⟨_, rfl⟩
  have run : s.writeSqCfg sqCfgRow q v = { w with sqs := tupd (tput w.sqs q (tget default w.sqs q)) q (fun x => { stopped := false, enabled := x.enabled + 1, readTb := w.tb }) } := by
    unfold State.writeSqCfg
    rw [State.applyWrite_off off' rfl range, ← hu]
    dsimp only
    rw [off, enU, hw]
    exact if_pos rfl
  have headTail : HIF_SQ_HEAD q ≠ HIF_SQ_TAIL q := by simp only [HIF_SQ_HEAD, HIF_SQ_TAIL]; omega
  have headErr : HIF_SQ_HEAD q ≠ HIF_SQ_ERR q := by simp only [HIF_SQ_HEAD, HIF_SQ_ERR]; omega
  have tailErr : HIF_SQ_TAIL q ≠ HIF_SQ_ERR q := by simp only [HIF_SQ_TAIL, HIF_SQ_ERR]; omega
  have cfg : HIF_SQ_CFG q ≠ HIF_SQ_HEAD q ∧ HIF_SQ_CFG q ≠ HIF_SQ_TAIL q ∧ HIF_SQ_CFG q ≠ HIF_SQ_ERR q := by
    simp only [HIF_SQ_CFG, HIF_SQ_HEAD, HIF_SQ_TAIL, HIF_SQ_ERR]; omega
  have regW (k : Nat) (h1 : k ≠ HIF_SQ_HEAD q) (h2 : k ≠ HIF_SQ_TAIL q) (h3 : k ≠ HIF_SQ_ERR q) : w.reg k = u.reg k := by
    rw [hw, State.reg_setFld_ne _ _ _ h3, State.reg_setNum_ne _ _ h2, State.reg_setNum_ne _ _ h1]
  refine ⟨_, run, ?_, ?_, ?_, ?_, ?_, ?_, ?_⟩
  · exact (State.on_congr (regW _ cfg.1 cfg.2.1 cfg.2.2) _).trans enU
  · refine (State.num_congr (s := u.setNum (HIF_SQ_HEAD q) 0) (t := w) ?_).trans (State.num_setNum_same _ _ (by decide))
    rw [hw, State.reg_setFld_ne _ _ _ headErr, State.reg_setNum_ne _ _ headTail]
  · refine (State.num_congr (s := (u.setNum (HIF_SQ_HEAD q) 0).setNum (HIF_SQ_TAIL q) 0) (t := w) ?_).trans (State.num_setNum_same _ _ (by decide))
    rw [hw, State.reg_setFld_ne _ _ _ tailErr]
  · exact (State.fld_congr (regW _ cfg.1 cfg.2.1 cfg.2.2) _).trans logU
  · dsimp only
    rw [tget_tupd_same (tfind_tput_same _ _ _)]
  · intro k away
    simp only [List.mem_cons, List.not_mem_nil, or_false, not_or] at away
    obtain ⟨h0, h1, h2, h3⟩ := away
    exact (regW k h1 h2 h3).trans (sameU k (by simpa using h0))
  · rw [hw, hu]
    exact State.memSame_of rfl rfl rfl rfl rfl

/-- EN going to 0 stops the queue and leaves the rest of its configuration (R486). -/
theorem State.writeSqCfg_disables {s : State} {q : Fin 64} {v : Word} (on : s.on (HIF_SQ_CFG q) HIF_SQ_CFG_EN = true) (en : fget v HIF_SQ_CFG_EN = 0)
    (low : 4 ≤ s.fld (HIF_SQ_CFG q) HIF_SQ_CFG_LOG2_SIZE) (high : s.fld (HIF_SQ_CFG q) HIF_SQ_CFG_LOG2_SIZE ≤ 12) :
    ∃ t, s.writeSqCfg sqCfgRow q v = t ∧ t.on (HIF_SQ_CFG q) HIF_SQ_CFG_EN = false
      ∧ t.fld (HIF_SQ_CFG q) HIF_SQ_CFG_LOG2_SIZE = s.fld (HIF_SQ_CFG q) HIF_SQ_CFG_LOG2_SIZE ∧ s.regsSame t [HIF_SQ_CFG q, HIF_WR_REJECT] ∧ s.memSame t := by
  have on' : s.blockRuns (HIF_SQ_CFG q) = true := (s.blockRuns_sqCfg q).trans on
  have found := findReg_sqCfgRow q
  have size : fget (s.writtenWord sqCfgRow (HIF_SQ_CFG q) v) HIF_SQ_CFG_LOG2_SIZE = s.fld (HIF_SQ_CFG q) HIF_SQ_CFG_LOG2_SIZE := by
    have := s.fget_writtenWord v found (f := ⟨HIF_SQ_CFG_LOG2_SIZE, .rw, .val 6, .idle⟩) (by simp [sqCfgRow])
    rwa [if_pos ⟨rfl, rfl, on'⟩] at this
  have enable : fget (s.writtenWord sqCfgRow (HIF_SQ_CFG q) v) HIF_SQ_CFG_EN = 0 := by
    have := s.fget_writtenWord v found (f := ⟨HIF_SQ_CFG_EN, .rw, .val 0, .imm⟩) (by simp [sqCfgRow])
    rw [if_neg (by simp)] at this
    exact this.trans en
  have range : s.inRange sqCfgRow.base (s.writtenWord sqCfgRow (HIF_SQ_CFG q) v) = true := by
    refine (s.inRange_sqCfg _).trans ?_
    rw [size]
    simp [inside, low, high]
  obtain ⟨u, hu⟩ : ∃ u, u = ({ s with regs := (s.fieldsPut sqCfgRow (HIF_SQ_CFG q) v).regs } : State) := ⟨_, rfl⟩
  have run : s.writeSqCfg sqCfgRow q v = u := by
    unfold State.writeSqCfg
    rw [State.applyWrite_runs rfl range, on, ← hu]
    rfl
  refine ⟨u, run, ?_, ?_, ?_, ?_⟩
  · have put := (s.fget_fieldsPut v found (f := ⟨HIF_SQ_CFG_EN, .rw, .val 0, .imm⟩) (by simp [sqCfgRow])).1 rfl (.inl rfl)
    have zero : u.fld (HIF_SQ_CFG q) HIF_SQ_CFG_EN = 0 := by rw [hu]; exact put.trans enable
    rw [State.on, zero]
    rfl
  · have put := (s.fget_fieldsPut v found (f := ⟨HIF_SQ_CFG_LOG2_SIZE, .rw, .val 6, .idle⟩) (by simp [sqCfgRow])).1 rfl (.inr rfl)
    rw [hu]
    exact put.trans size
  · have at_ : rejectReg (HIF_SQ_CFG q) = some HIF_WR_REJECT := by
      have block : HIF_SQ_CFG q / 0x100000 = 0 := by simp only [HIF_SQ_CFG]; omega
      rw [rejectReg, block]
      rfl
    rw [hu]
    exact ((s.regsSame_fieldsPut v found).1 1 HIF_WR_REJECT rfl at_ (by rw [on']; rfl)).2
  · rw [hu]
    exact State.memSame_of rfl rfl rfl rfl rfl

/-- EN of a ring going to 1 empties it, and held records may leave (R488, R509; log entry 62). -/
theorem State.writeRingCfg_enables {s : State} {r : Fin 64} {v : Word} (off : s.on (HIF_RING_CFG r) HIF_RING_CFG_EN = false) (en : fget v HIF_RING_CFG_EN = 1)
    (low : 12 ≤ fget v HIF_RING_CFG_LOG2_SLOTS) (high : fget v HIF_RING_CFG_LOG2_SLOTS ≤ 20) :
    ∃ u : State, s.writeRingCfg ringCfgRow r v = u.drain.tidy ∧ u.on (HIF_RING_CFG r) HIF_RING_CFG_EN = true
      ∧ u.num (HIF_RING_HEAD r) = 0 ∧ u.num (HIF_RING_TAIL r) = 0 ∧ u.fld (HIF_RING_CFG r) HIF_RING_CFG_LOG2_SLOTS = fget v HIF_RING_CFG_LOG2_SLOTS
      ∧ s.regsSame u [HIF_RING_CFG r, HIF_RING_HEAD r, HIF_RING_TAIL r] ∧ s.memSame u := by
  have off' : s.blockRuns (HIF_RING_CFG r) = false := (s.blockRuns_ringCfg r).trans off
  have still : (ringCfgRow.writes .idle && s.blockRuns (HIF_RING_CFG r)) = false := by rw [off', Bool.and_false]
  have range : s.inRange ringCfgRow.base v = true := (s.inRange_ringCfg v).trans (by simp [inside, low, high])
  have found := findReg_ringCfgRow r
  have word := s.writtenWord_still (d := ringCfgRow) (a := HIF_RING_CFG r) v still
  obtain ⟨u, hu⟩ : ∃ u, u = ({ s with regs := (s.fieldsPut ringCfgRow (HIF_RING_CFG r) v).regs } : State) := ⟨_, rfl⟩
  have enU : u.on (HIF_RING_CFG r) HIF_RING_CFG_EN = true := by
    have put := (s.fget_fieldsPut v found (f := ⟨HIF_RING_CFG_EN, .rw, .val 0, .imm⟩) (by simp [ringCfgRow])).1 rfl (.inl rfl)
    rw [word] at put
    rw [hu]
    exact fget_one_ne_zero (put.trans en)
  have logU : u.fld (HIF_RING_CFG r) HIF_RING_CFG_LOG2_SLOTS = fget v HIF_RING_CFG_LOG2_SLOTS := by
    have put := (s.fget_fieldsPut v found (f := ⟨HIF_RING_CFG_LOG2_SLOTS, .rw, .val 12, .idle⟩) (by simp [ringCfgRow])).1 rfl (.inr rfl)
    rw [word] at put
    rw [hu]
    exact put
  have sameU : s.regsSame u [HIF_RING_CFG r] := by
    rw [hu]
    exact (s.regsSame_fieldsPut v found).2 still
  obtain ⟨w, hw⟩ : ∃ w, w = (u.setNum (HIF_RING_HEAD r) 0).setNum (HIF_RING_TAIL r) 0 := ⟨_, rfl⟩
  have run : s.writeRingCfg ringCfgRow r v = ({ w with rings := tput w.rings r default } : State).drain.tidy := by
    unfold State.writeRingCfg
    rw [State.applyWrite_off off' rfl range, ← hu]
    dsimp only
    rw [off, enU, hw]
    exact if_pos rfl
  have headTail : HIF_RING_HEAD r ≠ HIF_RING_TAIL r := by simp only [HIF_RING_HEAD, HIF_RING_TAIL]; omega
  have cfg : HIF_RING_CFG r ≠ HIF_RING_HEAD r ∧ HIF_RING_CFG r ≠ HIF_RING_TAIL r := by simp only [HIF_RING_CFG, HIF_RING_HEAD, HIF_RING_TAIL]; omega
  have regW (k : Nat) (h1 : k ≠ HIF_RING_HEAD r) (h2 : k ≠ HIF_RING_TAIL r) : w.reg k = u.reg k := by
    rw [hw, State.reg_setNum_ne _ _ h2, State.reg_setNum_ne _ _ h1]
  refine ⟨_, run, ?_, ?_, ?_, ?_, ?_, ?_⟩
  · exact (State.on_congr (regW _ cfg.1 cfg.2) _).trans enU
  · refine (State.num_congr (s := u.setNum (HIF_RING_HEAD r) 0) (t := w) ?_).trans (State.num_setNum_same _ _ (by decide))
    rw [hw, State.reg_setNum_ne _ _ headTail]
  · refine (State.num_congr (s := (u.setNum (HIF_RING_HEAD r) 0).setNum (HIF_RING_TAIL r) 0) (t := w) ?_).trans (State.num_setNum_same _ _ (by decide))
    rw [hw]
  · exact (State.fld_congr (regW _ cfg.1 cfg.2) _).trans logU
  · intro k away
    simp only [List.mem_cons, List.not_mem_nil, or_false, not_or] at away
    obtain ⟨h0, h1, h2⟩ := away
    exact (regW k h1 h2).trans (sameU k (by simpa using h0))
  · rw [hw, hu]
    exact State.memSame_of rfl rfl rfl rfl rfl

/-- What a field put into a written word leaves of the others. -/
theorem fget_fset_apart (w : Word) {f g : Fld} (v : Nat) (lo : f.lo ≤ f.hi) (hi : f.hi < 32) (away : g.hi < f.lo ∨ f.hi < g.lo) : fget (fset w f v) g = fget w g :=
  fget_fset_other w f g v lo hi away

/-- Settles O18: each command is the write of its register, and each write is taken apart once. -/
theorem queuesAndRings : Obligations.QueuesAndRings := by
  unfold Obligations.QueuesAndRings
  refine ⟨fun s q tail awake => ?doorbell, fun s q cfg awake => ⟨fun off low high => ?enable, fun on low high => ?disable, fun off low high => ?ring⟩,
    fun s r v awake => ⟨fun above below => ?frees, fun bad => ?headErr, fun unsig counts due => ?timer⟩⟩
  case doorbell =>
    have run : exec (.sqDoorbell q tail) s = .next (s.keeps (s.doorbell q tail.toNat)) := by
      have tail16 : fget (BitVec.ofNat 32 tail.toNat) HIF_SQ_TAIL_TAIL = tail.toNat := by
        simp [fget, HIF_SQ_TAIL_TAIL]
        omega
      rw [exec, execSqDoorbell, State.onMain_keeps _ awake.1, State.hostWrite_sqTail q _ awake.2, tail16]
    refine ⟨fun forward room => ?_, fun bad => ?_⟩
    · obtain ⟨t, moves, frame, stopped, others⟩ := State.doorbell_moves forward room
      rw [moves] at run
      refine ⟨_, run, ?_, ?_, ?_, stopped, others⟩
      · exact State.fld_setFld_fits t _ (by decide) (by decide) tail.isLt
      · intro k away
        refine (State.reg_setFld_ne t _ _ (by simpa using away)).trans ?_
        rw [frame]
        rfl
      · rw [frame]
        rfl
    · obtain ⟨code, stopped, irq, same, mem⟩ := s.stopQueue_shows q (code := 1) (by decide)
      rw [State.doorbell_stops bad] at run
      refine ⟨_, run, code, stopped, irq, same _ ?_, State.memSame_keeps _ _ mem⟩
      simp only [List.mem_cons, List.not_mem_nil, or_false, not_or, HIF_SQ_TAIL, HIF_SQ_ERR, HIF_IRQ_STAT]
      omega
  case enable =>
    have size := fget_fset_apart cfg (f := HIF_SQ_CFG_EN) (g := HIF_SQ_CFG_LOG2_SIZE) 1 (by decide) (by decide) (by decide)
    obtain ⟨t, put, en, head, tail, log, stopped, same, mem⟩ := State.writeSqCfg_enables (v := fset cfg HIF_SQ_CFG_EN 1) off
      (fget_fset_self cfg (by decide) (by decide) (by decide)) (by rw [size]; exact low) (by rw [size]; exact high)
    refine ⟨s.keeps t, ?_, en, head, tail, log.trans size, stopped, same, State.memSame_keeps _ _ mem⟩
    rw [exec, execSqEnable, State.onMain_keeps _ awake.1, State.hostWrite_sqCfg q _ awake.2, put]
  case disable =>
    obtain ⟨t, put, en, log, same, mem⟩ := State.writeSqCfg_disables (v := fset cfg HIF_SQ_CFG_EN 0) on
      (fget_fset_self cfg (by decide) (by decide) (by decide)) low high
    refine ⟨s.keeps t, ?_, en, log, same, State.memSame_keeps _ _ mem⟩
    rw [exec, execSqDisable, State.onMain_keeps _ awake.1, State.hostWrite_sqCfg q _ awake.2, put]
  case ring =>
    have size := fget_fset_apart cfg (f := HIF_RING_CFG_EN) (g := HIF_RING_CFG_LOG2_SLOTS) 1 (by decide) (by decide) (by decide)
    obtain ⟨u, put, en, head, tail, log, same, mem⟩ := State.writeRingCfg_enables (v := fset cfg HIF_RING_CFG_EN 1) off
      (fget_fset_self cfg (by decide) (by decide) (by decide)) (by rw [size]; exact low) (by rw [size]; exact high)
    refine ⟨u, ?_, en, head, tail, log.trans size, same, mem⟩
    rw [exec, execRingEnable, State.onMain_keeps _ awake.1, State.hostWrite_ringCfg q _ awake.2, put]
  case frees =>
    rw [exec, execRingHeadWrite, State.onMain_keeps _ awake.1, State.hostWrite_ringHead r v awake.2, State.ringHead,
      if_neg (by simp only [Bool.or_eq_true, decide_eq_true_eq]; omega)]
  case headErr =>
    rw [exec, execRingHeadWrite, State.onMain_keeps _ awake.1, State.hostWrite_ringHead r v awake.2, State.ringHead,
      if_pos (by simp only [Bool.or_eq_true, decide_eq_true_eq]; exact bad.symm), State.keeps_setFld]
  case timer =>
    have run : exec (.ringIrqTimer r) s = .next (s.keeps (({ s with rings := tput s.rings r { tget default s.rings r with unsig := 0 } } : State).message
        (s.fld (HIF_RING_VEC r) HIF_RING_VEC_VEC))) := by
      rw [exec, execRingIrqTimer, State.onMain_keeps _ awake.1]
      dsimp only
      rw [if_pos (by simp [unsig, counts, due])]
    refine ⟨_, run, ?_, fun open_ => ?_, fun masked => ?_⟩
    · rw [State.message_eq]
      rfl
    · rw [State.message, if_neg (by rw [open_]; decide)]
      exact ⟨rfl, rfl⟩
    · rw [State.message, if_pos masked]
      refine ⟨rfl, ?_⟩
      dsimp only [State.keeps]
      split
      · rename_i there
        exact List.contains_iff_mem.mp there
      · exact List.mem_cons_self

end Sys2Proof.Machine
end

section
/-! SUPPORT. The scoreboard registers, and arming and triggering a snapshot by register (R410, R415, R416, R540, R541). -/

namespace Sys2Proof.Machine

/-! ### The scoreboard -/

/-- The scoreboard that a selection shows: an undefined context has none (R416). -/
def State.shownCtx (s : State) (v : Word) : Ctx :=
  if (tget default s.ctxs (fget v SCH_SB_SEL_CTX)).state = .undefined then default else tget default s.ctxs (fget v SCH_SB_SEL_CTX)

/-- What the selection puts into the scoreboard registers. -/
theorem State.sbSelect_shows (s : State) (v : Word) :
    (s.sbSelect v).fld SCH_SB_SEL SCH_SB_SEL_CTX = fget v SCH_SB_SEL_CTX ∧ (s.sbSelect v).pair SCH_SB_WAIT_SUM_LO = (s.shownCtx v).waitSum % 2 ^ 64
      ∧ (s.sbSelect v).pair SCH_SB_CMDS_LO = (s.shownCtx v).cmds % 2 ^ 64 ∧ (s.sbSelect v).num SCH_SB_DEBT = (s.shownCtx v).debt % 2 ^ 32 := by
  unfold State.sbSelect
  extract_lets k c0 c st cap s1 s2 s3 s4
  have shown : c = s.shownCtx v := rfl
  have reg4 (a : Nat) (debt : a ≠ SCH_SB_DEBT) (tile : a ≠ SCH_SB_TILE_LO) (tile' : a ≠ SCH_SB_TILE_LO + 4) :
      ((s4.setNum SCH_SB_DEBT c.debt).setPair SCH_SB_TILE_LO c.tileTime).reg a = s4.reg a := by
    rw [State.reg_setPair_ne _ _ tile tile', State.reg_setNum_ne _ _ debt]
  have reg3 (a : Nat) (preempt : a ≠ SCH_SB_PREEMPT) (evict : a ≠ SCH_SB_EVICT) : s4.reg a = s3.reg a := by
    unfold s4
    rw [State.reg_setFld_ne _ _ _ evict, State.reg_setFld_ne _ _ _ evict, State.reg_setNum_ne _ _ preempt]
  have sel : s1.fld SCH_SB_SEL SCH_SB_SEL_CTX = k := State.fld_setFld_fits s _ (by decide) (by decide) (fget_lt v _)
  refine ⟨?_, ?_, ?_, ?_⟩
  · rw [State.fld_congr (reg4 _ (by decide) (by decide) (by decide)), State.fld_congr (reg3 _ (by decide) (by decide))]
    refine (State.fld_congr ?_ _).trans sel
    unfold s3 s2
    rw [State.reg_setPair_ne _ _ (by decide) (by decide), State.reg_setNum_ne _ _ (by decide), State.reg_setPair_ne _ _ (by decide) (by decide),
      State.reg_setFld_ne _ _ _ (by decide), State.reg_setFld_ne _ _ _ (by decide), State.reg_setFld_ne _ _ _ (by decide)]
  · rw [State.pair_congr (reg4 _ (by decide) (by decide) (by decide)) (reg4 _ (by decide) (by decide) (by decide)),
      State.pair_congr (reg3 _ (by decide) (by decide)) (reg3 _ (by decide) (by decide)), ← shown, ← State.pair_setPair s2 SCH_SB_WAIT_SUM_LO c.waitSum]
    refine State.pair_congr ?_ ?_
    all_goals
      unfold s3
      rw [State.reg_setPair_ne _ _ (by decide) (by decide), State.reg_setNum_ne _ _ (by decide)]
  · rw [State.pair_congr (reg4 _ (by decide) (by decide) (by decide)) (reg4 _ (by decide) (by decide) (by decide)),
      State.pair_congr (reg3 _ (by decide) (by decide)) (reg3 _ (by decide) (by decide)), ← shown]
    exact State.pair_setPair _ _ _
  · rw [State.num_congr (State.reg_setPair_ne _ _ (by decide) (by decide)), ← shown, State.num, State.setNum, State.reg_setReg_same, BitVec.toNat_ofNat]

theorem State.sbSelect_regsOnly (s : State) (v : Word) : s.RegsOnly (s.sbSelect v) := by
  unfold State.sbSelect
  extract_lets k c0 c st cap s1 s2 s3 s4
  have h1 : s.RegsOnly s1 := (RegsOnly.refl s).setFld _ _ _
  have h2 : s.RegsOnly s2 := ((h1.setFld _ _ _).setFld _ _ _).setFld _ _ _
  have h3 : s.RegsOnly s3 := ((h2.setPair _ _).setNum _ _).setPair _ _
  have h4 : s.RegsOnly s4 := ((h3.setNum _ _).setFld _ _ _).setFld _ _ _
  exact (h4.setNum _ _).setPair _ _

theorem State.hostWrite_sbSel {s : State} (v : Word) (ready : s.isReady = true) : s.hostWrite SCH_SB_SEL 4 v = s.sbSelect v := by
  unfold State.hostWrite
  rw [if_neg (by decide), findReg_schSbSel]
  dsimp only
  rw [if_neg (by rw [ready]; decide)]
  iterate 8 rw [if_neg (by decide)]
  exact if_pos rfl

theorem State.hostWrite_sbClr {s : State} (ready : s.isReady = true) : s.hostWrite SCH_SB_CLR 4 1 = s.sbClear := by
  unfold State.hostWrite
  rw [if_neg (by decide), findReg_schSbClr]
  dsimp only
  rw [if_neg (by rw [ready]; decide)]
  iterate 9 rw [if_neg (by decide)]
  exact if_pos rfl

/-! ### The snapshot's control -/

/-- The row of SNP_CTL in the register map. -/
def snpCtlRow : RegD :=
  ⟨SNP_CTL, 1, 0x0, 1, 0x0, .one, some 0, false, [⟨SNP_CTL_OUT_EN, .rw, .val 0, .imm⟩, ⟨SNP_CTL_TIME_EN, .rw, .val 0, .imm⟩,
    ⟨SNP_CTL_PIN_EN, .rw, .val 0, .imm⟩, ⟨SNP_CTL_TRIGGER, .wo, .val 0, .imm⟩, ⟨SNP_CTL_ARM, .w1s, .val 0, .imm⟩]⟩

theorem findReg_snpCtlRow : findReg SNP_CTL = some (snpCtlRow, 0, 0) := findReg_snpCtl

theorem State.hostWrite_snpCtl {s : State} (v : Word) (ready : s.isReady = true) : s.hostWrite SNP_CTL 4 v = s.writeSnpCtl snpCtlRow v := by
  unfold State.hostWrite
  rw [if_neg (by decide), findReg_snpCtlRow]
  dsimp only
  rw [if_neg (by rw [ready]; decide)]
  iterate 10 rw [if_neg (by decide)]
  exact if_pos rfl

theorem State.inRange_snpCtl (s : State) {v : Word} (noTime : fget v SNP_CTL_TIME_EN = 0) : s.inRange SNP_CTL v = true := by
  unfold State.inRange
  iterate 26 rw [if_neg (by decide)]
  rw [if_pos rfl, noTime]
  rfl

/-- The control word alone is put before ARM and TRIGGER act. -/
theorem State.applyWrite_snpCtl (s : State) {v : Word} (noTime : fget v SNP_CTL_TIME_EN = 0) :
    s.applyWrite snpCtlRow SNP_CTL v = ({ s with regs := (s.fieldsPut snpCtlRow SNP_CTL v).regs }, true) :=
  State.applyWrite_off (s := s) rfl rfl (s.inRange_snpCtl noTime)

theorem State.writeSnpCtl_eq (s : State) {v : Word} (noTime : fget v SNP_CTL_TIME_EN = 0) : ∃ u : State, s.RegsOnly u ∧ s.regsSame u [SNP_CTL]
    ∧ s.writeSnpCtl snpCtlRow v = (let w := if fget v SNP_CTL_ARM = 1 then u.setFld SNP_STAT SNP_STAT_ARMED 1 else u
        if fget v SNP_CTL_TRIGGER = 1 then (w.snapTrigger w.now 0 0).1 else w) := by
  refine ⟨{ s with regs := (s.fieldsPut snpCtlRow SNP_CTL v).regs }, rfl, ?_, ?_⟩
  · exact (s.regsSame_fieldsPut v findReg_snpCtlRow).2 rfl
  · unfold State.writeSnpCtl
    rw [s.applyWrite_snpCtl noTime]
    exact if_neg (by decide)

/-- Which tile recovers is read off the tile map alone. -/
theorem State.recovering_congr {s t : State} (tiles : t.tiles = s.tiles) (map : ∀ k < 256, t.reg (PIT_MAP k) = s.reg (PIT_MAP k)) : t.recovering = s.recovering := by
  funext p
  have logical : t.logicalOf p = s.logicalOf p := by
    unfold State.logicalOf
    refine List.find?_congr fun k mem => ?_
    have same := map k (List.mem_range.mp mem)
    rw [State.physOf, State.physOf, State.on_congr same, State.fld_congr same]
  rw [State.recovering, State.recovering, logical, tiles]

/-- The tile map lies outside the snapshot's block. -/
theorem pitMap_notSnp (k : Nat) (h : k < 256) : ∀ a ∈ [SNP_CTL, SNP_STAT, SNP_TRIG_STAMP_LO, SNP_TRIG_STAMP_LO + 4], PIT_MAP k ≠ a := by
  simp only [List.mem_cons, List.not_mem_nil, or_false, PIT_MAP, SNP_CTL, SNP_STAT, SNP_TRIG_STAMP_LO]
  omega

/-- An armed snapshot acts (R541-R543). -/
theorem State.snapAct_shows (s : State) (stamp : Stamp) :
    (s.snapAct stamp 0 0).on SNP_STAT SNP_STAT_ARMED = false ∧ (s.snapAct stamp 0 0).on SNP_STAT SNP_STAT_BUSY = true ∧ (s.snapAct stamp 0 0).fld SNP_STAT SNP_STAT_CAUSE = 1
      ∧ (s.snapAct stamp 0 0).snp.trig = stamp ∧ (s.snapAct stamp 0 0).snp.no = (s.snp.no + 1) % 2 ^ 32
      ∧ (s.snapAct stamp 0 0).snp.waitTiles = (List.range 272).filter s.recovering ∧ s.memSame (s.snapAct stamp 0 0) := by
  obtain ⟨u, hu⟩ : ∃ u, u = ((((s.setFld SNP_STAT SNP_STAT_ARMED 0).setFld SNP_STAT SNP_STAT_BUSY 1).setFld SNP_STAT SNP_STAT_VALID 0).setFld SNP_STAT SNP_STAT_CAUSE
      (2 ^ 0)) := ⟨_, rfl⟩
  obtain ⟨w, hw⟩ : ∃ w, w = u.setPair SNP_TRIG_STAMP_LO stamp.toNat := ⟨_, rfl⟩
  obtain ⟨x, run⟩ : ∃ x : Snp, s.snapAct stamp 0 0 = { w with snp := { x with
      no := (w.snp.no + 1) % 2 ^ 32, trig := stamp, waitTiles := (List.range 272).filter w.recovering } } := by
    refine ⟨(s.snapAct stamp 0 0).snp, ?_⟩
    rw [hw, hu]
    rfl
  have only : s.RegsOnly w := by
    rw [hw, hu]
    exact ((((State.RegsOnly.refl s).setFld _ _ _).setFld _ _ _).setFld _ _ _ |>.setFld _ _ _).setPair _ _
  have stat : w.reg SNP_STAT = u.reg SNP_STAT := by
    rw [hw]
    exact State.reg_setPair_ne _ _ (by decide) (by decide)
  have recovering : w.recovering = s.recovering := by
    refine State.recovering_congr (only.same State.tiles fun _ _ => rfl) fun k hk => ?_
    have away := pitMap_notSnp k hk
    rw [hw, hu, State.reg_setPair_ne _ _ (away _ (by simp)) (away _ (by simp)), State.reg_setFld_ne _ _ _ (away _ (by simp)), State.reg_setFld_ne _ _ _ (away _ (by simp)),
      State.reg_setFld_ne _ _ _ (away _ (by simp)), State.reg_setFld_ne _ _ _ (away _ (by simp))]
  rw [run]
  refine ⟨?_, ?_, ?_, rfl, congrArg (fun x : Snp => (x.no + 1) % 2 ^ 32) (only.same State.snp fun _ _ => rfl),
    congrArg (fun r : Nat → Bool => (List.range 272).filter r) recovering, State.memSame_trans only.memSame (State.memSame_of rfl rfl rfl rfl rfl)⟩
  · refine (State.on_congr stat _).trans ?_
    rw [hu, State.on_setFld_other _ _ _ (by decide) (by decide) (by decide), State.on_setFld_other _ _ _ (by decide) (by decide) (by decide),
      State.on_setFld_other _ _ _ (by decide) (by decide) (by decide), State.on_setFld_zero _ _ (by decide) (by decide)]
  · refine (State.on_congr stat _).trans ?_
    rw [hu, State.on_setFld_other _ _ _ (by decide) (by decide) (by decide), State.on_setFld_other _ _ _ (by decide) (by decide) (by decide),
      State.on_setFld_one _ _ (by decide) (by decide)]
  · refine (State.fld_congr stat _).trans ?_
    rw [hu]
    exact State.fld_setFld_fits _ _ (by decide) (by decide) (by decide)

/-- Settles O19: the scoreboard registers one by one, and a trigger by whether the snapshot is armed. -/
theorem scoreboardAndSnapshot : Obligations.ScoreboardAndSnapshot := by
  unfold Obligations.ScoreboardAndSnapshot
  refine ⟨fun s v awake => ⟨?select, fun c held => ?clear⟩, fun s ctl awake noTime => ⟨fun armed => ?acts, fun notArmed noArm never => ?lost, fun noTrigger => ?arms⟩⟩
  case select =>
    obtain ⟨sel, wait, cmds, debt⟩ := s.sbSelect_shows v
    have only := s.sbSelect_regsOnly v
    refine ⟨s.sbSelect v, ?_, sel, fun defined => ?_, fun undefined => ?_, only⟩
    · rw [exec, execSbSelect, State.onMain_keeps _ awake.1, State.hostWrite_sbSel v awake.2, only.keeps]
    · rw [State.shownCtx, if_neg defined] at wait cmds debt
      exact ⟨wait, cmds, debt⟩
    · rw [State.shownCtx, if_pos undefined] at cmds debt
      exact ⟨cmds, debt⟩
  case clear =>
    refine ⟨s.keeps s.sbClear, ?_, rfl, ?_, fun k ne => tfind_tupd_ne _ _ ne⟩
    · rw [exec, execSbClear, State.onMain_keeps _ awake.1, State.hostWrite_sbClr awake.2]
    · refine (tfind_tupd_same _ _ _).trans ?_
      rw [held]
      rfl
  case acts =>
    have time := (fget_fset_apart ctl (f := SNP_CTL_TRIGGER) (g := SNP_CTL_TIME_EN) 1 (by decide) (by decide) (by decide)).trans noTime
    have arm := fget_fset_apart ctl (f := SNP_CTL_TRIGGER) (g := SNP_CTL_ARM) 1 (by decide) (by decide) (by decide)
    obtain ⟨u, frame, same, put⟩ := s.writeSnpCtl_eq time
    obtain ⟨w, hw⟩ : ∃ w, w = if fget (fset ctl SNP_CTL_TRIGGER 1) SNP_CTL_ARM = 1 then u.setFld SNP_STAT SNP_STAT_ARMED 1 else u := ⟨_, rfl⟩
    have frameW : s.RegsOnly w := by
      rw [hw]
      split
      · exact frame.setFld _ _ _
      · exact frame
    have armedW : w.on SNP_STAT SNP_STAT_ARMED = true := by
      rw [hw, arm]
      split
      · exact State.on_setFld_one _ _ (by decide) (by decide)
      · rename_i noArm
        rw [State.on_congr (same _ (by decide))]
        exact armed.resolve_right noArm
    have run : exec (.snapRegTrigger ctl) s = .next (s.keeps (w.snapAct w.now 0 0)) := by
      rw [exec, execSnapRegTrigger, State.onMain_keeps _ awake.1, State.hostWrite_snpCtl _ awake.2, put]
      dsimp only
      rw [if_pos (fget_fset_self ctl (by decide) (by decide) (by decide)), ← hw, State.snapTrigger, if_pos armedW]
    obtain ⟨armed', busy, cause, trig, no, wait, mem⟩ := w.snapAct_shows w.now
    have now : w.now = s.now := by rw [frameW]; rfl
    have snp : w.snp = s.snp := by rw [frameW]
    have recovering : w.recovering = s.recovering := by
      refine State.recovering_congr (by rw [frameW]) fun k hk => ?_
      have away := pitMap_notSnp k hk
      have sameU := same (PIT_MAP k) (by simpa using away SNP_CTL (by simp))
      rw [hw]
      split
      · rw [State.reg_setFld_ne _ _ _ (away _ (by simp)), sameU]
      · exact sameU
    refine ⟨_, run, armed', busy, cause, trig.trans now, no.trans (by rw [snp]), wait.trans (by rw [recovering]), State.memSame_keeps _ _ (State.memSame_trans frameW.memSame mem)⟩
  case lost =>
    have time := (fget_fset_apart ctl (f := SNP_CTL_TRIGGER) (g := SNP_CTL_TIME_EN) 1 (by decide) (by decide) (by decide)).trans noTime
    have arm := (fget_fset_apart ctl (f := SNP_CTL_TRIGGER) (g := SNP_CTL_ARM) 1 (by decide) (by decide) (by decide)).trans noArm
    obtain ⟨u, frame, same, put⟩ := s.writeSnpCtl_eq time
    have notArmedU : u.on SNP_STAT SNP_STAT_ARMED = false := (State.on_congr (same _ (by decide)) _).trans notArmed
    have neverU : u.snp.lastTrig = none := by rw [frame]; exact never
    have run : exec (.snapRegTrigger ctl) s = .next (s.keeps ((u.incReg SNP_LOST).raise SNP_IRQ_STAT 1)) := by
      rw [exec, execSnapRegTrigger, State.onMain_keeps _ awake.1, State.hostWrite_snpCtl _ awake.2, put]
      dsimp only
      rw [if_pos (fget_fset_self ctl (by decide) (by decide) (by decide)), if_neg (by rw [arm]; decide), State.snapTrigger, if_neg (by rw [notArmedU]; decide), neverU]
    refine ⟨_, run, ?_, State.bit_raise _ _ (by decide), ?_, fun k away => ?_, ?_⟩
    · refine (State.num_congr (State.reg_raise_ne _ _ (by decide))).trans ?_
      rw [State.incReg, State.num_setNum_same _ _ (by omega), State.num_congr (same _ (by decide))]
    · rw [State.raise_eq]
      exact (frame.incReg SNP_LOST 1).same State.snp fun _ _ => rfl
    · simp only [List.mem_cons, List.not_mem_nil, or_false, not_or] at away
      obtain ⟨h0, h1, h2⟩ := away
      exact ((State.reg_raise_ne _ _ h2).trans (State.reg_setNum_ne u _ h1)).trans (same k (by simpa using h0))
    · rw [State.raise_eq]
      exact State.memSame_trans (frame.incReg SNP_LOST 1).memSame (State.memSame_of rfl rfl rfl rfl rfl)
  case arms =>
    have time := (fget_fset_apart ctl (f := SNP_CTL_ARM) (g := SNP_CTL_TIME_EN) 1 (by decide) (by decide) (by decide)).trans noTime
    have trigger := (fget_fset_apart ctl (f := SNP_CTL_ARM) (g := SNP_CTL_TRIGGER) 1 (by decide) (by decide) (by decide)).trans noTrigger
    obtain ⟨u, frame, same, put⟩ := s.writeSnpCtl_eq time
    refine ⟨u.setFld SNP_STAT SNP_STAT_ARMED 1, ?_, State.on_setFld_one _ _ (by decide) (by decide), fun k away => ?_, ?_⟩
    · rw [exec, execSnapArm, State.onMain_keeps _ awake.1, State.hostWrite_snpCtl _ awake.2, put]
      dsimp only
      rw [if_neg (by rw [trigger]; decide), if_pos (fget_fset_self ctl (by decide) (by decide) (by decide)), frame]
      rfl
    · simp only [List.mem_cons, List.not_mem_nil, or_false, not_or] at away
      exact (State.reg_setFld_ne u _ _ away.2).trans (same k (by simpa using away.1))
    · exact frame.setFld _ _ _

end Sys2Proof.Machine
end

section
/-! SUPPORT. Power states, the thermal register, and the enables of the Koliad and Ethernet ports and the transmit stamp queues (R427, R428, R479, R513, R563, R564, R571). -/

namespace Sys2Proof.Machine

/-! ### Registers without a range -/

/-- The registers that have a range. -/
def rangedBases : List Nat :=
  [LIN_EXP_TIME 0, LIN_LINE_MIN 0, LIN_RET_SIZE 0, CAL_CFG 0, CAL_LIMIT 0, CAL_LEVEL 0, PGM_ITEM_LC_RESERVE, PGM_WAIT_LIMIT, PGM_PREFETCH, TOK_LIVE_CFG, DEC_CROP_CFG,
    SCH_BE_CFG, KOL_VC_SPLIT 0, TIM_CFG, TIM_STEP_LIMIT, TIM_PTP_CFG, TIM_PORT_ASYM 0, HIF_RESULT_BUDGET, HIF_SQ_CFG 0, HIF_RING_CFG 0, HIF_PORT_RING, HIF_SYS_RING,
    RAS_SCRUB_CFG, RAS_CORR_LIMIT, SYS_THERM_CFG, SYS_HUDDLE_WAIT, SNP_CTL]

theorem State.inRange_free (s : State) {b : Nat} (v : Word) (free : b ∉ rangedBases) : s.inRange b v = true := by
  simp only [rangedBases, List.mem_cons, List.not_mem_nil, or_false, not_or] at free
  simp [State.inRange, free]

/-! ### The setpoint of VDD_PIT -/

theorem State.freshOverride_eq (s : State) : s.freshOverride = s ∨ s.freshOverride = s.setFld PIT_GOV_STAT PIT_GOV_STAT_FIXED_OVERRIDE 1 := by
  unfold State.freshOverride
  split
  · exact .inr rfl
  · exact .inl rfl

/-- The setpoint shows, and the regulator hears of another one; nothing else changes (R195, R551). -/
theorem State.setVolt_shows (s : State) {mv : Nat} (fits : mv < 1024) :
    (s.setVolt mv).fld PIT_GOV_STAT PIT_GOV_STAT_V_SET_MV = mv ∧ s.regsSame (s.setVolt mv) [PIT_GOV_STAT]
      ∧ s.setVolt mv = { s with regs := (s.setVolt mv).regs, gov := { s.gov with vout := (s.setVolt mv).gov.vout } } := by
  unfold State.setVolt
  extract_lets sent
  obtain ⟨u, hu⟩ : ∃ u, u = ({ s with gov := { s.gov with vout := sent } } : State) := ⟨_, rfl⟩
  rw [← hu]
  have put : (u.setFld PIT_GOV_STAT PIT_GOV_STAT_V_SET_MV mv).fld PIT_GOV_STAT PIT_GOV_STAT_V_SET_MV = mv :=
    State.fld_setFld_fits u _ (by decide) (by decide) fits
  have regU (k : Nat) : u.reg k = s.reg k := by rw [hu]; rfl
  have only : u.RegsOnly (u.setFld PIT_GOV_STAT PIT_GOV_STAT_V_SET_MV mv).freshOverride := by
    rcases State.freshOverride_eq (u.setFld PIT_GOV_STAT PIT_GOV_STAT_V_SET_MV mv) with eq | eq <;> rw [eq]
    · exact (State.RegsOnly.refl u).setFld _ _ _
    · exact ((State.RegsOnly.refl u).setFld _ _ _).setFld _ _ _
  refine ⟨?_, fun k away => ?_, ?_⟩
  · rcases State.freshOverride_eq (u.setFld PIT_GOV_STAT PIT_GOV_STAT_V_SET_MV mv) with eq | eq <;> rw [eq]
    · exact put
    · rw [State.fld_setFld_other _ _ _ _ _ (by decide) (by decide) (by decide)]
      exact put
  · have ne : k ≠ PIT_GOV_STAT := by simpa using away
    rcases State.freshOverride_eq (u.setFld PIT_GOV_STAT PIT_GOV_STAT_V_SET_MV mv) with eq | eq <;> rw [eq]
    · rw [State.reg_setFld_ne _ _ _ ne, regU]
    · rw [State.reg_setFld_ne _ _ _ ne, State.reg_setFld_ne _ _ _ ne, regU]
  · generalize (u.setFld PIT_GOV_STAT PIT_GOV_STAT_V_SET_MV mv).freshOverride = w at only ⊢
    rw [only, hu]

theorem State.fixedVolt_cases (s : State) : s.fixedVolt = s ∨ s.fixedVolt = s.setVolt (s.fld PIT_GOV_FIXED PIT_GOV_FIXED_V_FIXED_MV) := by
  unfold State.fixedVolt
  split
  · exact .inr rfl
  · exact .inl rfl

/-! ### Power states -/

theorem State.hostWrite_pwrCtl {s : State} (v : Word) (ready : s.isReady = true) : s.hostWrite SYS_PWR_CTL 4 v = s.writePwr v := by
  unfold State.hostWrite
  rw [if_neg (by decide), findReg_sysPwrCtl]
  dsimp only
  rw [if_neg (by rw [ready]; decide)]
  iterate 12 rw [if_neg (by decide)]
  exact if_pos rfl

theorem State.hostWrite_therm {s : State} (ready : s.isReady = true) : s.hostWrite SYS_THERM 4 0 = s.thermReset := by
  unfold State.hostWrite
  rw [if_neg (by decide), findReg_sysTherm]
  dsimp only
  rw [if_neg (by rw [ready]; decide)]
  iterate 13 rw [if_neg (by decide)]
  exact if_pos rfl

/-- The power state and the request for it, put together. -/
def State.putPower (s : State) (standby state : Nat) (refresh : Bool) : State :=
  { ((s.setFld SYS_PWR_CTL SYS_PWR_CTL_STANDBY standby).setFld SYS_PWR_STAT SYS_PWR_STAT_STATE state) with sys := { s.sys with selfRefresh := refresh } }

theorem State.putPower_shows (s : State) {standby state : Nat} (refresh : Bool) (one : standby < 2) (three : state < 8) :
    (s.putPower standby state refresh).fld SYS_PWR_STAT SYS_PWR_STAT_STATE = state ∧ (s.putPower standby state refresh).fld SYS_PWR_CTL SYS_PWR_CTL_STANDBY = standby
      ∧ s.regsSame (s.putPower standby state refresh) [SYS_PWR_CTL, SYS_PWR_STAT]
      ∧ s.putPower standby state refresh = { s with regs := (s.putPower standby state refresh).regs, sys := { s.sys with selfRefresh := refresh } } := by
  obtain ⟨u, hu⟩ : ∃ u, u = (s.setFld SYS_PWR_CTL SYS_PWR_CTL_STANDBY standby).setFld SYS_PWR_STAT SYS_PWR_STAT_STATE state := ⟨_, rfl⟩
  have only : s.RegsOnly u := by
    rw [hu]
    exact ((State.RegsOnly.refl s).setFld _ _ _).setFld _ _ _
  have eq : s.putPower standby state refresh = { u with sys := { s.sys with selfRefresh := refresh } } := by rw [hu]; rfl
  rw [eq]
  refine ⟨?_, ?_, fun k away => ?_, ?_⟩
  · refine (State.fld_congr (s := u) rfl _).trans ?_
    rw [hu]
    exact State.fld_setFld_fits _ _ (by decide) (by decide) three
  · refine (State.fld_congr (s := u) rfl _).trans ?_
    rw [hu, State.fld_congr (State.reg_setFld_ne _ _ _ (by decide))]
    exact State.fld_setFld_fits _ _ (by decide) (by decide) one
  · simp only [List.mem_cons, List.not_mem_nil, or_false, not_or] at away
    refine (State.reg_of_regs (s := u) rfl k).trans ?_
    rw [hu, State.reg_setFld_ne _ _ _ away.2, State.reg_setFld_ne _ _ _ away.1]
  · rw [only]

theorem State.writePwr_enter {s : State} (idle : s.standbyBusy = false) :
    s.writePwr 1 = (s.putPower 1 4 true).setVolt (s.fld PIT_GOV_VLIM PIT_GOV_VLIM_V_MIN_MV) := by
  unfold State.writePwr
  rw [if_pos (by decide), if_neg (by rw [idle]; decide)]
  rfl

theorem State.writePwr_busy {s : State} (busy : s.standbyBusy = true) : s.writePwr 1 = s.reject SYS_WR_REJECT 0 := by
  unfold State.writePwr
  rw [if_pos (by decide), if_pos busy]

theorem State.writePwr_exit (s : State) : s.writePwr 0 = (s.putPower 0 3 false).readsAnew.fixedVolt := by
  unfold State.writePwr
  rw [if_neg (by decide)]
  rfl

/-- The setpoint's frame: the register file and what the regulator was told. -/
theorem State.fixedVolt_frame (s : State) : s.regsSame s.fixedVolt [PIT_GOV_STAT]
    ∧ s.fixedVolt = { s with regs := s.fixedVolt.regs, gov := { s.gov with vout := s.fixedVolt.gov.vout } } := by
  rcases s.fixedVolt_cases with eq | eq <;> rw [eq]
  · exact ⟨fun _ _ => rfl, rfl⟩
  · obtain ⟨-, same, frame⟩ := s.setVolt_shows (fget_lt (s.reg PIT_GOV_FIXED) PIT_GOV_FIXED_V_FIXED_MV)
    exact ⟨same, frame⟩

/-! ### Koliad ports -/

/-- The row of KOL_PORT_CTL in the register map. -/
def kolCtlRow : RegD :=
  ⟨KOL_PORT_CTL 0, 6, 0x10000, 1, 0x0, .one, some 0, false, [⟨KOL_PORT_CTL_PRECODE, .rw, .val 0, .idle⟩, ⟨KOL_PORT_CTL_EN, .rw, .val 1, .imm⟩]⟩

theorem findReg_kolCtlRow (n : Fin 6) : findReg (KOL_PORT_CTL n) = some (kolCtlRow, n.val, 0) := findReg_kolPortCtl n

theorem State.hostWrite_kolCtl {s : State} (n : Fin 6) (v : Word) (ready : s.isReady = true) : s.hostWrite (KOL_PORT_CTL n) 4 v = s.writeKolCtl kolCtlRow n v := by
  have aligned : KOL_PORT_CTL n % 4 = 0 := by simp only [KOL_PORT_CTL]; omega
  have block : KOL_PORT_CTL n / 0x100000 = 8 := by simp only [KOL_PORT_CTL]; omega
  unfold State.hostWrite
  rw [if_neg (by simp [aligned, block]), findReg_kolCtlRow]
  dsimp only
  rw [if_neg (by rw [ready]; decide)]
  iterate 14 rw [if_neg (by decide)]
  exact if_pos rfl

theorem State.blockRuns_kolCtl (s : State) (n : Fin 6) : s.blockRuns (KOL_PORT_CTL n) = s.on (KOL_PORT_CTL n) KOL_PORT_CTL_EN := by
  have block : KOL_PORT_CTL n / 0x100000 = 8 := by simp only [KOL_PORT_CTL]; omega
  have index : (KOL_PORT_CTL n - 0x800000) / 0x10000 = n.val := by simp only [KOL_PORT_CTL]; omega
  have low : KOL_PORT_CTL n < 0x880000 := by simp only [KOL_PORT_CTL]; omega
  unfold State.blockRuns
  rw [block, if_pos low, index]
  rfl

/-- The fields of a port's control word, with EN as it stands (R13, R427). -/
def State.kolFields (s : State) (n : Nat) (v : Word) : State :=
  (s.applyWrite kolCtlRow (KOL_PORT_CTL n) (fset v KOL_PORT_CTL_EN (s.fld (KOL_PORT_CTL n) KOL_PORT_CTL_EN))).1

theorem State.writeKolCtl_eq (s : State) (n : Nat) (v : Word) :
    s.writeKolCtl kolCtlRow n v = if fget v KOL_PORT_CTL_EN = 1 then (s.kolFields n v).kolEnable n else (s.kolFields n v).kolDisable n := rfl

theorem State.kolFields_regsOnly (s : State) (n : Nat) (v : Word) : s.RegsOnly (s.kolFields n v) := by
  unfold State.kolFields
  rw [State.applyWrite_runs rfl (s.inRange_free _ (by decide))]
  rfl

/-- An enable that the port keeps. -/
theorem State.kolFields_en (s : State) (n : Fin 6) (v : Word) : (s.kolFields n v).fld (KOL_PORT_CTL n) KOL_PORT_CTL_EN = s.fld (KOL_PORT_CTL n) KOL_PORT_CTL_EN := by
  have found := findReg_kolCtlRow n
  unfold State.kolFields
  rw [State.applyWrite_runs rfl (s.inRange_free _ (by decide))]
  have put := (s.fget_fieldsPut (fset v KOL_PORT_CTL_EN (s.fld (KOL_PORT_CTL n) KOL_PORT_CTL_EN)) found (f := ⟨KOL_PORT_CTL_EN, .rw, .val 1, .imm⟩) (by simp [kolCtlRow])).1 rfl (.inl rfl)
  have word := s.fget_writtenWord (fset v KOL_PORT_CTL_EN (s.fld (KOL_PORT_CTL n) KOL_PORT_CTL_EN)) found (f := ⟨KOL_PORT_CTL_EN, .rw, .val 1, .imm⟩) (by simp [kolCtlRow])
  rw [if_neg (by simp)] at word
  exact put.trans (word.trans (fget_fset_self v (by decide) (by decide) (fget_lt _ _)))

theorem State.kolFields_off {s : State} {n : Fin 6} (v : Word) (off : s.on (KOL_PORT_CTL n) KOL_PORT_CTL_EN = false) : s.regsSame (s.kolFields n v) [KOL_PORT_CTL n] := by
  have off' := (s.blockRuns_kolCtl n).trans off
  unfold State.kolFields
  rw [State.applyWrite_runs rfl (s.inRange_free _ (by decide))]
  exact (s.regsSame_fieldsPut _ (findReg_kolCtlRow n)).2 (by rw [off', Bool.and_false])

theorem rejectReg_kolCtl (n : Fin 6) : rejectReg (KOL_PORT_CTL n) = some (KOL_WR_REJECT n) := by
  revert n; decide

theorem State.kolFields_same (s : State) (n : Fin 6) (v : Word) : s.regsSame (s.kolFields n v) [KOL_PORT_CTL n, KOL_WR_REJECT n] := by
  cases on : s.on (KOL_PORT_CTL n) KOL_PORT_CTL_EN
  · exact fun k away => State.kolFields_off v on k fun mem => away (by rw [List.mem_singleton.mp mem]; exact List.mem_cons_self)
  · have on' := (s.blockRuns_kolCtl n).trans on
    unfold State.kolFields
    rw [State.applyWrite_runs rfl (s.inRange_free _ (by decide))]
    exact ((s.regsSame_fieldsPut _ (findReg_kolCtlRow n)).1 0 _ rfl (rejectReg_kolCtl n) (by rw [on']; rfl)).2

/-- A port that restarts at training loses its flit stream (R428). -/
theorem State.retrain_shows (s : State) (n : Nat) :
    (s.retrain n).on (KOL_PORT_STAT n) KOL_PORT_STAT_TRAINED = false ∧ (s.retrain n).on (KOL_PORT_STAT n) KOL_PORT_STAT_ALIGNED = false
      ∧ s.regsSame (s.retrain n) [KOL_PORT_STAT n] ∧ (s.retrain n) = { s with regs := (s.retrain n).regs, kol := { s.kol with ports := (s.retrain n).kol.ports } }
      ∧ (s.retrain n).kport n = { s.kport n with stream := [] } ∧ ∀ k, k ≠ n → (s.retrain n).kport k = s.kport k := by
  unfold State.retrain
  obtain ⟨u, hu⟩ : ∃ u, u = s.modKport n (fun p => { p with stream := [] }) := ⟨_, rfl⟩
  rw [← hu]
  have only : u.RegsOnly ((u.setFld (KOL_PORT_STAT n) KOL_PORT_STAT_TRAINED 0).setFld (KOL_PORT_STAT n) KOL_PORT_STAT_ALIGNED 0) :=
    ((State.RegsOnly.refl u).setFld _ _ _).setFld _ _ _
  refine ⟨?_, State.on_setFld_zero _ _ (by decide) (by decide), fun k away => ?_, ?_, ?_, fun k ne => ?_⟩
  · rw [State.on_setFld_other _ _ _ (by decide) (by decide) (by decide)]
    exact State.on_setFld_zero _ _ (by decide) (by decide)
  · have ne : k ≠ KOL_PORT_STAT n := by simpa using away
    rw [State.reg_setFld_ne _ _ _ ne, State.reg_setFld_ne _ _ _ ne, hu]
    rfl
  · generalize ((u.setFld (KOL_PORT_STAT n) KOL_PORT_STAT_TRAINED 0).setFld (KOL_PORT_STAT n) KOL_PORT_STAT_ALIGNED 0) = w at only ⊢
    rw [only, hu]
    rfl
  · refine (only.same (fun t => t.kport n) fun _ _ => rfl).trans ?_
    rw [hu]
    exact tget_tput_same _ _ _ _
  · refine (only.same (fun t => t.kport k) fun _ _ => rfl).trans ?_
    rw [hu]
    exact tget_tput_ne _ _ _ ne

theorem State.kolDisable_shows (s : State) (n : Nat) :
    (s.kolDisable n).on (KOL_PORT_CTL n) KOL_PORT_CTL_EN = false ∧ (s.kolDisable n).on (KOL_PORT_STAT n) KOL_PORT_STAT_TRAINED = false := by
  have apart : KOL_PORT_STAT n ≠ KOL_PORT_CTL n := by simp only [KOL_PORT_STAT, KOL_PORT_CTL]; omega
  unfold State.kolDisable
  generalize s.linkDown n = u
  exact ⟨State.on_setFld_zero _ _ (by decide) (by decide), (State.on_congr (State.reg_setFld_ne _ _ _ apart) _).trans (u.retrain_shows n).1⟩

/-! ### The Ethernet port -/

/-- The row of ETH_CFG in the register map. -/
def ethCfgRow : RegD :=
  ⟨ETH_CFG, 1, 0x0, 1, 0x0, .one, some 0, false, [⟨ETH_CFG_JUMBO, .rw, .val 0, .idle⟩, ⟨ETH_CFG_DIVERT, .rw, .val 1, .imm⟩, ⟨ETH_CFG_SEND, .rw, .val 1, .imm⟩,
    ⟨ETH_CFG_EN, .rw, .val 0, .imm⟩]⟩

theorem findReg_ethCfgRow : findReg ETH_CFG = some (ethCfgRow, 0, 0) := findReg_ethCfg

theorem State.hostWrite_ethCfg {s : State} (v : Word) (ready : s.isReady = true) : s.hostWrite ETH_CFG 4 v = s.writeEthCfg ethCfgRow v := by
  unfold State.hostWrite
  rw [if_neg (by decide), findReg_ethCfgRow]
  dsimp only
  rw [if_neg (by rw [ready]; decide)]
  iterate 15 rw [if_neg (by decide)]
  exact if_pos rfl

/-- EN going to 1 starts the datagram sequence at 0 (R512, R513). -/
theorem State.writeEthCfg_enables {s : State} {v : Word} (off : s.on ETH_CFG ETH_CFG_EN = false) (en : fget v ETH_CFG_EN = 1) :
    ∃ u : State, s.writeEthCfg ethCfgRow v = u.divertHold.stallCheck.tidy ∧ u.on ETH_CFG ETH_CFG_EN = true ∧ u.eth.seq = 0
      ∧ u = { s with regs := u.regs, eth := u.eth } ∧ s.regsSame u [ETH_CFG] := by
  have off' : s.blockRuns ETH_CFG = false := off
  have still : (ethCfgRow.writes .idle && s.blockRuns ETH_CFG) = false := by rw [off', Bool.and_false]
  have word := s.writtenWord_still (d := ethCfgRow) (a := ETH_CFG) v still
  obtain ⟨u, hu⟩ : ∃ u, u = ({ s with regs := (s.fieldsPut ethCfgRow ETH_CFG v).regs } : State) := ⟨_, rfl⟩
  have enU : u.on ETH_CFG ETH_CFG_EN = true := by
    have put := (s.fget_fieldsPut v findReg_ethCfgRow (f := ⟨ETH_CFG_EN, .rw, .val 0, .imm⟩) (by simp [ethCfgRow])).1 rfl (.inl rfl)
    rw [word] at put
    rw [hu]
    exact fget_one_ne_zero (put.trans en)
  refine ⟨{ u with eth := { u.eth with seq := 0 } }, ?_, enU, rfl, ?_, ?_⟩
  · unfold State.writeEthCfg
    rw [State.applyWrite_off off' rfl (s.inRange_free v (by decide)), ← hu]
    dsimp only
    rw [off, enU]
    rfl
  · rw [hu]
  · rw [hu]
    exact (s.regsSame_fieldsPut v findReg_ethCfgRow).2 still

/-! ### Transmit stamps -/

theorem State.hostRead_timPortPop {s : State} (p : Fin 7) (ready : s.isReady = true) : s.hostRead (TIM_PORT_POP p) 4 = s.txqPop p := by
  have aligned : TIM_PORT_POP p % 4 = 0 := by simp only [TIM_PORT_POP]; omega
  unfold State.hostRead
  rw [if_neg (by simp [aligned, ready]), findReg_timPortPop]
  dsimp only
  rw [if_neg (by decide), if_pos rfl]

/-- The oldest entry leaves, and its stamp is latched (R479). -/
theorem State.txqPop_shows {s : State} {p : Fin 7} {id : Nat} {x : Stamp} {rest : List (Nat × Stamp)} (held : (s.tport p).txq = (id, x) :: rest) :
    ((s.txqPop p).tport p).txq = rest ∧ (s.txqPop p).pair (TIM_PORT_STAMP_LO p) = x.toNat ∧ fget (s.txqPop p).rdata TIM_PORT_POP_VALID = 1
      ∧ fget (s.txqPop p).rdata TIM_PORT_POP_STAMP_ID = id % 2 ^ 16 ∧ s.memSame (s.txqPop p) := by
  obtain ⟨u, hu⟩ : ∃ u, u = s.modTport p (fun t => { t with txq := rest }) := ⟨_, rfl⟩
  obtain ⟨v, hv⟩ : ∃ v, v = fset (fset 0 TIM_PORT_POP_VALID 1) TIM_PORT_POP_STAMP_ID id := ⟨_, rfl⟩
  obtain ⟨w, hw⟩ : ∃ w, w = (u.setPair (TIM_PORT_STAMP_LO p) x.toNat).setReg (TIM_PORT_POP p) v := ⟨_, rfl⟩
  have run : s.txqPop p = { w with rdata := v } := by
    unfold State.txqPop
    rw [held, hw, hv, hu]
  have only : u.RegsOnly w := by
    rw [hw]
    exact ((State.RegsOnly.refl u).setPair _ _).setReg _ _
  have low : TIM_PORT_STAMP_LO p ≠ TIM_PORT_POP p := by simp only [TIM_PORT_STAMP_LO, TIM_PORT_POP]; omega
  have high : TIM_PORT_STAMP_LO p + 4 ≠ TIM_PORT_POP p := by simp only [TIM_PORT_STAMP_LO, TIM_PORT_POP]; omega
  rw [run]
  refine ⟨?_, ?_, ?_, ?_, State.memSame_trans ?_ (State.memSame_trans only.memSame (State.memSame_of rfl rfl rfl rfl rfl))⟩
  · refine (congrArg TPort.txq (only.same (fun t => t.tport p) fun _ _ => rfl)).trans ?_
    rw [hu]
    exact congrArg TPort.txq (tget_tput_same _ _ _ _)
  · refine (State.pair_congr (s := u.setPair (TIM_PORT_STAMP_LO p) x.toNat) (t := w) ?_ ?_).trans ((State.pair_setPair _ _ _).trans (Nat.mod_eq_of_lt x.isLt))
    · rw [hw, State.reg_setReg_ne _ _ low]
    · rw [hw, State.reg_setReg_ne _ _ high]
  · dsimp only
    rw [hv, fget_fset_apart _ _ (by decide) (by decide) (by decide)]
    exact fget_fset_self _ (by decide) (by decide) (by decide)
  · dsimp only
    rw [hv]
    exact fget_fset_same _ _ _ (by decide) (by decide)
  · rw [hu]
    exact State.memSame_of rfl rfl rfl rfl rfl

/-- Settles O20: each command is the write, or the read, of its register. -/
theorem standbyPortsAndStamps : Obligations.StandbyPortsAndStamps := by
  unfold Obligations.StandbyPortsAndStamps
  refine ⟨fun s awake => ⟨fun idle => ?enter, fun busy => ?busy, ?exit, ?therm⟩, fun s awake => ⟨fun n ctl off => ?enable, fun n ctl => ?disable, fun cfg off => ?eth,
    fun p id x rest held => ?pop⟩⟩
  case enter =>
    have run : exec .standbyEnter s = .next (s.keeps ((s.putPower 1 4 true).setVolt (s.fld PIT_GOV_VLIM PIT_GOV_VLIM_V_MIN_MV))) := by
      rw [exec, execStandbyEnter, State.onMain_keeps _ awake.1, State.hostWrite_pwrCtl 1 awake.2, State.writePwr_enter idle]
    obtain ⟨state, ctl, same, frame⟩ := s.putPower_shows true (standby := 1) (state := 4) (by decide) (by decide)
    generalize s.putPower 1 4 true = u at run state ctl same frame
    obtain ⟨volt, same', frame'⟩ := u.setVolt_shows (fget_lt (s.reg PIT_GOV_VLIM) PIT_GOV_VLIM_V_MIN_MV)
    have there (a : Nat) (ne : a ≠ PIT_GOV_STAT) : (u.setVolt (fget (s.reg PIT_GOV_VLIM) PIT_GOV_VLIM_V_MIN_MV)).reg a = u.reg a := same' a (by simpa using ne)
    refine ⟨_, run, ?_, ?_, ?_, volt, fun a away => ?_, ?_⟩
    · exact (State.fld_congr (there _ (by decide)) _).trans state
    · exact (State.fld_congr (there _ (by decide)) _).trans ctl
    · refine (congrArg (fun t : State => t.sys.selfRefresh) frame').trans ?_
      rw [frame]
    · simp only [List.mem_cons, List.not_mem_nil, or_false, not_or] at away
      obtain ⟨h0, h1, h2⟩ := away
      exact (there a h2).trans (same a (by simp [h0, h1]))
    · rw [State.fld]
      generalize u.setVolt (fget (s.reg PIT_GOV_VLIM) PIT_GOV_VLIM_V_MIN_MV) = w at frame' ⊢
      rw [frame', frame]
      rfl
  case busy =>
    rw [exec, execStandbyEnter, State.onMain_keeps _ awake.1, State.hostWrite_pwrCtl 1 awake.2, State.writePwr_busy busy, State.keeps_reject]
  case exit =>
    have run : exec .standbyExit s = .next (s.keeps (s.putPower 0 3 false).readsAnew.fixedVolt) := by
      rw [exec, execStandbyExit, State.onMain_keeps _ awake.1, State.hostWrite_pwrCtl 0 awake.2, State.writePwr_exit]
    obtain ⟨state, ctl, same, frame⟩ := s.putPower_shows false (standby := 0) (state := 3) (by decide) (by decide)
    generalize s.putPower 0 3 false = u at run state ctl same frame
    obtain ⟨same', frame'⟩ := u.readsAnew.fixedVolt_frame
    have there (a : Nat) (ne : a ≠ PIT_GOV_STAT) : u.readsAnew.fixedVolt.reg a = u.reg a := same' a (by simpa using ne)
    generalize u.readsAnew.fixedVolt = w at run frame' there
    refine ⟨_, run, ?_, ?_, ?_, fun a away => ?_, ?_⟩
    · exact (State.fld_congr (there _ (by decide)) _).trans state
    · exact (State.fld_congr (there _ (by decide)) _).trans ctl
    · refine (congrArg (fun t : State => t.sys.selfRefresh) frame').trans ?_
      rw [frame]
      rfl
    · simp only [List.mem_cons, List.not_mem_nil, or_false, not_or] at away
      obtain ⟨h0, h1, h2⟩ := away
      exact (there a h2).trans (same a (by simp [h0, h1]))
    · rw [frame', frame]
      rfl
  case therm =>
    rw [exec, execThermMaxReset, State.onMain_keeps _ awake.1, State.hostWrite_therm awake.2, State.thermReset, State.keeps_setFld]
  case enable =>
    have one : fget (fset ctl KOL_PORT_CTL_EN 1) KOL_PORT_CTL_EN = 1 := fget_fset_self ctl (by decide) (by decide) (by decide)
    have only := s.kolFields_regsOnly n (fset ctl KOL_PORT_CTL_EN 1)
    have same := State.kolFields_off (fset ctl KOL_PORT_CTL_EN 1) off
    have offU : (s.kolFields n (fset ctl KOL_PORT_CTL_EN 1)).on (KOL_PORT_CTL n) KOL_PORT_CTL_EN = false := by
      rw [State.on, s.kolFields_en]
      exact off
    have run : exec (.kolPortEnable n ctl) s = .next (s.keeps (((s.kolFields n (fset ctl KOL_PORT_CTL_EN 1)).retrain n).setFld (KOL_PORT_CTL n) KOL_PORT_CTL_EN 1)) := by
      rw [exec, execKolPortEnable, State.onMain_keeps _ awake.1, State.hostWrite_kolCtl n _ awake.2, State.writeKolCtl_eq, if_pos one, State.kolEnable, if_neg (by rw [offU]; decide)]
    generalize s.kolFields n (fset ctl KOL_PORT_CTL_EN 1) = u at run only same
    obtain ⟨trained, aligned, same', frame', port, others⟩ := u.retrain_shows n
    generalize u.retrain n = w at run trained aligned same' frame' port others
    have apart : KOL_PORT_STAT n ≠ KOL_PORT_CTL n := by simp only [KOL_PORT_STAT, KOL_PORT_CTL]; omega
    have stat := State.reg_setFld_ne w KOL_PORT_CTL_EN 1 apart
    refine ⟨_, run, State.on_setFld_one _ _ (by decide) (by decide), (State.on_congr stat _).trans trained, (State.on_congr stat _).trans aligned, fun a away => ?_, ?_, ?_, fun k ne => ?_⟩
    · simp only [List.mem_cons, List.not_mem_nil, or_false, not_or] at away
      exact ((State.reg_setFld_ne w _ _ away.1).trans (same' a (by simpa using away.2))).trans (same a (by simpa using away.1))
    · rw [frame', only]
      rfl
    · exact port.trans (congrArg (fun p : KPort => { p with stream := [] }) (only.same (fun t => t.kport n) fun _ _ => rfl))
    · exact (others k ne).trans (only.same (fun t => t.kport k) fun _ _ => rfl)
  case disable =>
    have zero : fget (fset ctl KOL_PORT_CTL_EN 0) KOL_PORT_CTL_EN = 0 := fget_fset_self ctl (by decide) (by decide) (by decide)
    have run : exec (.kolPortDisable n ctl) s = .next (s.keeps ((s.kolFields n (fset ctl KOL_PORT_CTL_EN 0)).kolDisable n)) := by
      rw [exec, execKolPortDisable, State.onMain_keeps _ awake.1, State.hostWrite_kolCtl n _ awake.2, State.writeKolCtl_eq, if_neg (by rw [zero]; decide)]
    have only := s.kolFields_regsOnly n (fset ctl KOL_PORT_CTL_EN 0)
    have same := s.kolFields_same n (fset ctl KOL_PORT_CTL_EN 0)
    generalize s.kolFields n (fset ctl KOL_PORT_CTL_EN 0) = u at run only same
    obtain ⟨en, trained⟩ := u.kolDisable_shows n
    have reads := s.reg_keeps (u.kolDisable n)
    generalize hw : s.keeps (u.kolDisable n) = w at run reads
    exact ⟨w, u, run, hw.symm, only, same, (State.on_congr (reads _) _).trans en, (State.on_congr (reads _) _).trans trained⟩
  case eth =>
    obtain ⟨u, put, en, seq, frame, same⟩ := State.writeEthCfg_enables (v := fset cfg ETH_CFG_EN 1) off (fget_fset_self cfg (by decide) (by decide) (by decide))
    refine ⟨u, ?_, en, seq, frame, same⟩
    rw [exec, execEthEnable, State.onMain_keeps _ awake.1, State.hostWrite_ethCfg _ awake.2, put]
  case pop =>
    obtain ⟨queue, stamp, valid, idShown, mem⟩ := State.txqPop_shows held
    have run : exec (.txqPop p) s = .next (s.keeps (s.txqPop p)) := by
      rw [exec, execTxqPop, State.onMain_keeps _ awake.1, State.hostRead_timPortPop p awake.2]
    generalize s.txqPop p = w at run queue stamp valid idShown mem
    exact ⟨_, run, queue, stamp, valid, idShown, State.memSame_keeps _ _ mem⟩

end Sys2Proof.Machine
end

section
/-! SUPPORT. Admission, start and disabling of a sensor port (R71, R72, R86, R108, R122, R564). -/

namespace Sys2Proof.Machine

/-! ### Registers of the intake ports lie apart -/

/-- Offsets of two registers differ where their low 16 bits do. -/
theorem ne_of_low {a b : Nat} (h : a % 0x10000 ≠ b % 0x10000) : a ≠ b := fun eq => h (by rw [eq])

theorem linPortStat_inj {k n : Nat} (ne : k ≠ n) : LIN_PORT_STAT k ≠ LIN_PORT_STAT n := by simp only [LIN_PORT_STAT]; omega

/-- The registers that a starting or stopping port writes beside LIN_PORT_STAT. -/
theorem linPortStat_apart (k n : Nat) : LIN_PORT_STAT k ≠ LIN_PORT_CTL n ∧ LIN_PORT_STAT k ≠ LIN_WR_REJECT n ∧ LIN_PORT_STAT k ≠ LIN_LINK_STAT n
    ∧ LIN_PORT_STAT k ≠ LIN_LINE_CNT n ∧ LIN_PORT_STAT k ≠ LIN_ENC_HWM n ∧ LIN_PORT_STAT k ≠ LIN_RET_STAT n ∧ LIN_PORT_STAT k ≠ LIN_ADMIT
    ∧ LIN_PORT_STAT k ≠ CAL_STAT n ∧ LIN_PORT_STAT k ≠ CAL_CTL n ∧ LIN_PORT_STAT k ≠ CAL_IRQ_STAT n := by
  refine ⟨?_, ?_, ?_, ?_, ?_, ?_, ?_, ?_, ?_, ?_⟩ <;> apply ne_of_low <;>
    simp only [LIN_PORT_STAT, LIN_PORT_CTL, LIN_WR_REJECT, LIN_LINK_STAT, LIN_LINE_CNT, LIN_ENC_HWM, LIN_RET_STAT, LIN_ADMIT, CAL_STAT, CAL_CTL, CAL_IRQ_STAT] <;> omega

theorem linPortCtl_apart (k n : Nat) : LIN_PORT_CTL k ≠ LIN_PORT_STAT n ∧ LIN_PORT_CTL k ≠ LIN_LINK_STAT n ∧ LIN_PORT_CTL k ≠ LIN_LINE_CNT n
    ∧ LIN_PORT_CTL k ≠ LIN_ENC_HWM n ∧ LIN_PORT_CTL k ≠ LIN_RET_STAT n ∧ LIN_PORT_CTL k ≠ LIN_ADMIT := by
  refine ⟨?_, ?_, ?_, ?_, ?_, ?_⟩ <;> apply ne_of_low <;>
    simp only [LIN_PORT_STAT, LIN_PORT_CTL, LIN_LINK_STAT, LIN_LINE_CNT, LIN_ENC_HWM, LIN_RET_STAT, LIN_ADMIT] <;> omega

theorem linLineCnt_apart (k n : Nat) : LIN_LINE_CNT k ≠ LIN_PORT_STAT n ∧ LIN_LINE_CNT k ≠ LIN_ENC_HWM n ∧ LIN_LINE_CNT k ≠ LIN_RET_STAT n ∧ LIN_LINE_CNT k ≠ LIN_ADMIT := by
  refine ⟨?_, ?_, ?_, ?_⟩ <;> apply ne_of_low <;> simp only [LIN_PORT_STAT, LIN_LINE_CNT, LIN_ENC_HWM, LIN_RET_STAT, LIN_ADMIT] <;> omega

/-! ### Shared operations -/

/-- FREE_MIB alone is brought up to date (R106). -/
theorem State.freshRet_shows (s : State) : s.RegsOnly s.freshRet ∧ ∀ a, (∀ n, a ≠ LIN_RET_STAT n) → s.freshRet.reg a = s.reg a := by
  unfold State.freshRet
  generalize List.range 4 = l
  induction l generalizing s with
  | nil => exact ⟨rfl, fun _ _ => rfl⟩
  | cons n l ih =>
    rw [List.foldl_cons]
    split
    · obtain ⟨only, same⟩ := ih (s.setFld (LIN_RET_STAT n) LIN_RET_STAT_FREE_MIB (s.retFree n))
      exact ⟨((State.RegsOnly.refl s).setFld _ _ _).trans only, fun a away => (same a away).trans (State.reg_setFld_ne s _ _ (away n))⟩
    · exact ih s

theorem State.setReversed_shows (s : State) (n : Nat) : s.RegsOnly (s.setReversed n) ∧ s.regsSame (s.setReversed n) [LIN_PORT_STAT n]
    ∧ ∀ f : Fld, f.hi < 2 ∨ 2 < f.lo → (s.setReversed n).fld (LIN_PORT_STAT n) f = s.fld (LIN_PORT_STAT n) f := by
  unfold State.setReversed State.setBit
  exact ⟨(State.RegsOnly.refl s).setFld _ _ _, fun a away => State.reg_setFld_ne s _ _ (by simpa using away),
    fun f apart => State.fld_setFld_other _ _ _ _ _ (by decide) (by decide) apart⟩

theorem State.reg_setAdmit (s : State) {a : Nat} (ne : a ≠ LIN_ADMIT) : s.setAdmit.reg a = s.reg a := State.reg_setNum_ne s _ ne

theorem State.setAdmit_regsOnly (s : State) : s.RegsOnly s.setAdmit := (State.RegsOnly.refl s).setNum _ _

/-! ### The start of a port -/

/-- The registers and the port's state that a start puts before the encoder's (R67, R71, R78). -/
def State.portBegun (s : State) (n : Nat) : State :=
  let s := (s.setFld (LIN_PORT_CTL n) LIN_PORT_CTL_EN 1).setFld (LIN_PORT_STAT n) LIN_PORT_STAT_ENABLED 1
  let s := ((s.setFld (LIN_PORT_STAT n) LIN_PORT_STAT_LINK_UP 0).setFld (LIN_LINK_STAT n) LIN_LINK_STAT_LANE_LOCK 0).setNum (LIN_LINE_CNT n) 0
  s.modLin n (fun p => { p with
    lanes := (List.range 8).map (fun k => (k, { locked := false, clean := s.tb, errors := [] })), snsNext := none, pEdge := 0, linesDue := 0, frozen := false, tInt := none, tAdv := none, waiting := false
    lastFlush := s.tb, skip := false, gap := false, resume := false, ringOn := true })

theorem State.portBegun_shows (s : State) (n : Nat) :
    (s.portBegun n).linOn n = true ∧ (s.portBegun n).on (LIN_PORT_CTL n) LIN_PORT_CTL_EN = true ∧ (s.portBegun n).on (LIN_PORT_STAT n) LIN_PORT_STAT_LINK_UP = false
      ∧ (s.portBegun n).num (LIN_LINE_CNT n) = 0 ∧ ((s.portBegun n).linPort n).waiting = false ∧ ((s.portBegun n).linPort n).pEdge = 0 ∧ s.memSame (s.portBegun n) := by
  unfold State.portBegun
  extract_lets s1 s2
  have only1 : s.RegsOnly s1 := ((State.RegsOnly.refl s).setFld _ _ _).setFld _ _ _
  have only2 : s.RegsOnly s2 := ((only1.setFld _ _ _).setFld _ _ _).setNum _ _
  obtain ⟨statCtl, -, statLink, statLine, -⟩ := linPortStat_apart n n
  obtain ⟨ctlStat, ctlLink, ctlLine, -⟩ := linPortCtl_apart n n
  have stat2 : s2.reg (LIN_PORT_STAT n) = (s1.setFld (LIN_PORT_STAT n) LIN_PORT_STAT_LINK_UP 0).reg (LIN_PORT_STAT n) := by
    unfold s2
    rw [State.reg_setNum_ne _ _ statLine, State.reg_setFld_ne _ _ _ statLink]
  have ctl2 : s2.reg (LIN_PORT_CTL n) = (s.setFld (LIN_PORT_CTL n) LIN_PORT_CTL_EN 1).reg (LIN_PORT_CTL n) := by
    unfold s2 s1
    rw [State.reg_setNum_ne _ _ ctlLine, State.reg_setFld_ne _ _ _ ctlLink, State.reg_setFld_ne _ _ _ ctlStat, State.reg_setFld_ne _ _ _ ctlStat]
  have on2 : s2.linOn n = true := by
    refine (State.on_congr stat2 _).trans ?_
    rw [State.on_setFld_other _ _ _ (by decide) (by decide) (by decide)]
    exact State.on_setFld_one _ _ (by decide) (by decide)
  have en2 : s2.on (LIN_PORT_CTL n) LIN_PORT_CTL_EN = true := (State.on_congr ctl2 _).trans (State.on_setFld_one _ _ (by decide) (by decide))
  have up2 : s2.on (LIN_PORT_STAT n) LIN_PORT_STAT_LINK_UP = false := (State.on_congr stat2 _).trans (State.on_setFld_zero _ _ (by decide) (by decide))
  have line2 : s2.num (LIN_LINE_CNT n) = 0 := State.num_setNum_same _ _ (by decide)
  have mem2 := only2.memSame
  clear_value s2
  refine ⟨on2, en2, up2, line2, ?_, ?_, State.memSame_trans mem2 (State.memSame_of rfl rfl rfl rfl rfl)⟩
  · exact congrArg LinPort.waiting (tget_tput_same _ _ _ _)
  · exact congrArg LinPort.pEdge (tget_tput_same _ _ _ _)

/-- A started port is on, its link down and its line count 0 (R67, R71). -/
theorem State.startPort_shows (s : State) (n : Nat) :
    (s.startPort n).linOn n = true ∧ (s.startPort n).on (LIN_PORT_CTL n) LIN_PORT_CTL_EN = true ∧ (s.startPort n).on (LIN_PORT_STAT n) LIN_PORT_STAT_LINK_UP = false
      ∧ (s.startPort n).num (LIN_LINE_CNT n) = 0 ∧ ((s.startPort n).linPort n).waiting = false ∧ ((s.startPort n).linPort n).pEdge = 0 ∧ s.memSame (s.startPort n) := by
  obtain ⟨on, en, up, line, waiting, pEdge, mem⟩ := s.portBegun_shows n
  obtain ⟨u, frame, same, mem', run⟩ : ∃ u : State, u.lin = (s.portBegun n).lin ∧ (∀ a, (∀ e, a ≠ LIN_ENC_HWM e) → u.reg a = (s.portBegun n).reg a)
      ∧ (s.portBegun n).memSame u ∧ s.startPort n = ((u.setReversed n).setAdmit).freshRet := by
    by_cases first : s.selectors (s.encSel n) = []
    · obtain ⟨w, hw⟩ : ∃ w, w = (s.portBegun n).setNum (LIN_ENC_HWM (s.encSel n)) ((s.portBegun n).num (LIN_ENC_POS (s.encSel n))) := ⟨_, rfl⟩
      refine ⟨{ w with enc := tput w.enc (s.encSel n) { tget default w.enc (s.encSel n) with raising := [], lastTb := w.tb, stalled := false, selected := true, below := false } },
        ?_, fun a away => ?_, ?_, ?_⟩
      · rw [hw]
        rfl
      · refine (State.reg_of_regs (s := w) rfl a).trans ?_
        rw [hw]
        exact State.reg_setNum_ne _ _ (away _)
      · have only : (s.portBegun n).RegsOnly w := by
          rw [hw]
          exact (State.RegsOnly.refl _).setNum _ _
        exact State.memSame_trans only.memSame (State.memSame_of rfl rfl rfl rfl rfl)
      · rw [hw]
        unfold State.startPort
        dsimp only
        rw [if_pos first]
        rfl
    · refine ⟨s.portBegun n, rfl, fun _ _ => rfl, State.memSame_refl _, ?_⟩
      unfold State.startPort
      dsimp only
      rw [if_neg first]
      rfl
  obtain ⟨onlyR, sameR, fldR⟩ := u.setReversed_shows n
  rw [run]
  generalize u.setReversed n = w at onlyR sameR fldR
  obtain ⟨onlyF, sameF⟩ := w.setAdmit.freshRet_shows
  have only : u.RegsOnly w.setAdmit.freshRet := (onlyR.trans w.setAdmit_regsOnly).trans onlyF
  generalize w.setAdmit.freshRet = t at onlyF sameF only
  have there (a : Nat) (ret : ∀ k, a ≠ LIN_RET_STAT k) (admitOff : a ≠ LIN_ADMIT) : t.reg a = w.reg a := (sameF a ret).trans (w.reg_setAdmit admitOff)
  have stat : t.reg (LIN_PORT_STAT n) = w.reg (LIN_PORT_STAT n) := by
    obtain ⟨-, -, -, -, -, -, admitOff, -⟩ := linPortStat_apart n n
    exact there _ (fun k => (linPortStat_apart n k).2.2.2.2.2.1) admitOff
  have bit (f : Fld) (apart : f.hi < 2 ∨ 2 < f.lo) : t.on (LIN_PORT_STAT n) f = (s.portBegun n).on (LIN_PORT_STAT n) f := by
    rw [State.on_congr stat, State.on, fldR f apart, ← State.on]
    exact State.on_congr (same _ fun e => (linPortStat_apart n e).2.2.2.2.1) f
  have lin : t.linPort n = (s.portBegun n).linPort n := by
    refine (only.same (fun t => t.linPort n) fun _ _ => rfl).trans ?_
    rw [State.linPort, State.linPort, frame]
  refine ⟨(bit _ (by decide)).trans on, ?_, (bit _ (by decide)).trans up, ?_, by rw [lin, waiting], by rw [lin, pEdge], State.memSame_trans (State.memSame_trans mem mem') only.memSame⟩
  · obtain ⟨ctlStat, -, -, -, -, admitOff⟩ := linPortCtl_apart n n
    rw [State.on_congr (there _ (fun k => (linPortCtl_apart n k).2.2.2.2.1) admitOff), State.on_congr (sameR _ (by simpa using ctlStat)),
      State.on_congr (same _ fun e => (linPortCtl_apart n e).2.2.2.1)]
    exact en
  · obtain ⟨cntStat, -, -, admitOff⟩ := linLineCnt_apart n n
    rw [State.num_congr (there _ (fun k => (linLineCnt_apart n k).2.2.1) admitOff), State.num_congr (sameR _ (by simpa using cntStat)),
      State.num_congr (same _ fun e => (linLineCnt_apart n e).2.1)]
    exact line

/-! ### Admission -/

/-- The reasons of a refused admission, put into LIN_PORT_STAT (R71, R72). -/
def State.admitBits (s : State) (n : Nat) (link rate : Bool) : State :=
  (s.setBit (LIN_PORT_STAT n) LIN_PORT_STAT_ADMIT_FAIL_LINK link).setBit (LIN_PORT_STAT n) LIN_PORT_STAT_ADMIT_FAIL_RATE rate

theorem State.admitBits_shows (s : State) (n : Nat) (link rate : Bool) : s.RegsOnly (s.admitBits n link rate) ∧ s.regsSame (s.admitBits n link rate) [LIN_PORT_STAT n]
    ∧ (s.admitBits n link rate).linOn n = s.linOn n ∧ (s.admitBits n link rate).on (LIN_PORT_STAT n) LIN_PORT_STAT_ADMIT_FAIL_LINK = link
    ∧ (s.admitBits n link rate).on (LIN_PORT_STAT n) LIN_PORT_STAT_ADMIT_FAIL_RATE = rate := by
  unfold State.admitBits State.setBit State.linOn
  refine ⟨((State.RegsOnly.refl s).setFld _ _ _).setFld _ _ _, fun a away => ?_, ?_, ?_, ?_⟩
  · have ne : a ≠ LIN_PORT_STAT n := by simpa using away
    rw [State.reg_setFld_ne _ _ _ ne, State.reg_setFld_ne _ _ _ ne]
  · rw [State.on_setFld_other _ _ _ (by decide) (by decide) (by decide), State.on_setFld_other _ _ _ (by decide) (by decide) (by decide)]
  · rw [State.on_setFld_other _ _ _ (by decide) (by decide) (by decide)]
    cases link
    · exact State.on_setFld_zero _ _ (by decide) (by decide)
    · exact State.on_setFld_one _ _ (by decide) (by decide)
  · cases rate
    · exact State.on_setFld_zero _ _ (by decide) (by decide)
    · exact State.on_setFld_one _ _ (by decide) (by decide)

theorem State.portEnable_off {s : State} {n : Nat} (off : s.linOn n = false) (active : s.standby = false) :
    s.portEnable n = (let link := decide (s.num (LIN_LINE_MIN n) * 1000 < s.linkMinPs n)
      let rate := decide (24 < s.rateSum (n :: s.onPorts))
      if link || rate || !Config.retGranted n (s.pair (LIN_RET_BASE_LO n) / 4096 * 4096) (s.retSize n) then (s.admitBits n link rate).reject (LIN_WR_REJECT n) 0
      else (s.admitBits n link rate).startPort n) := by
  unfold State.portEnable
  rw [if_neg (by rw [off]; decide), if_neg (by rw [active]; decide)]
  rfl

/-- A port that fails admission stays off, and its reasons show (R71, R72). -/
theorem State.portEnable_fails {s : State} {n : Nat} (off : s.linOn n = false) (active : s.standby = false)
    (fails : s.num (LIN_LINE_MIN n) * 1000 < s.linkMinPs n ∨ 24 < s.rateSum (n :: s.onPorts) ∨ Config.retGranted n (s.pair (LIN_RET_BASE_LO n) / 4096 * 4096) (s.retSize n) = false) :
    s.RegsOnly (s.portEnable n) ∧ (s.portEnable n).linOn n = false ∧ bit ((s.portEnable n).num (LIN_WR_REJECT n)) 0 = true
      ∧ (s.portEnable n).on (LIN_PORT_STAT n) LIN_PORT_STAT_ADMIT_FAIL_LINK = decide (s.num (LIN_LINE_MIN n) * 1000 < s.linkMinPs n)
      ∧ (s.portEnable n).on (LIN_PORT_STAT n) LIN_PORT_STAT_ADMIT_FAIL_RATE = decide (24 < s.rateSum (n :: s.onPorts))
      ∧ s.regsSame (s.portEnable n) [LIN_PORT_STAT n, LIN_WR_REJECT n] := by
  rw [State.portEnable_off off active]
  dsimp only
  rw [if_pos (by simp only [Bool.or_eq_true, decide_eq_true_eq, Bool.not_eq_true', or_assoc]; exact fails)]
  generalize decide (s.num (LIN_LINE_MIN n) * 1000 < s.linkMinPs n) = link
  generalize decide (24 < s.rateSum (n :: s.onPorts)) = rate
  obtain ⟨only, same, on, linkOn, rateOn⟩ := s.admitBits_shows n link rate
  generalize s.admitBits n link rate = u at only same on linkOn rateOn
  obtain ⟨-, rej, -⟩ := linPortStat_apart n n
  have stat : (u.reject (LIN_WR_REJECT n) 0).reg (LIN_PORT_STAT n) = u.reg (LIN_PORT_STAT n) := State.reg_setReg_ne u _ rej
  refine ⟨only.setReg _ _, ?_, State.bit_num_reject_same _ _ (by decide), (State.on_congr stat _).trans linkOn, (State.on_congr stat _).trans rateOn, fun a away => ?_⟩
  · exact (State.on_congr stat _).trans (on.trans off)
  · simp only [List.mem_cons, List.not_mem_nil, or_false, not_or] at away
    exact (State.reg_setReg_ne u _ away.2).trans (same a (by simpa using away.1))

theorem State.portEnable_starts {s : State} {n : Nat} (off : s.linOn n = false) (active : s.standby = false) (link : s.linkMinPs n ≤ s.num (LIN_LINE_MIN n) * 1000)
    (rate : s.rateSum (n :: s.onPorts) ≤ 24) (grant : Config.retGranted n (s.pair (LIN_RET_BASE_LO n) / 4096 * 4096) (s.retSize n) = true) :
    s.portEnable n = (s.admitBits n false false).startPort n := by
  have link' : decide (s.num (LIN_LINE_MIN n) * 1000 < s.linkMinPs n) = false := decide_eq_false (not_lt.mpr link)
  have rate' : decide (24 < s.rateSum (n :: s.onPorts)) = false := decide_eq_false (not_lt.mpr rate)
  rw [State.portEnable_off off active, link', rate', grant]
  rfl

/-! ### Disabling -/

/-- A capture that ends changes its port's calibration and registers alone (R119-R123). -/
theorem State.capEnd_shows (s : State) (n result : Nat) : (s.capEnd n result).lin = s.lin ∧ s.memSame (s.capEnd n result)
    ∧ ∀ a, a ≠ CAL_STAT n → a ≠ CAL_CTL n → a ≠ CAL_IRQ_STAT n → (s.capEnd n result).reg a = s.reg a := by
  unfold State.capEnd State.setBit
  extract_lets s1 s2 s3
  have h1 : s1.lin = s.lin ∧ s.memSame s1 ∧ s1.regs = s.regs := ⟨rfl, State.memSame_of rfl rfl rfl rfl rfl, rfl⟩
  have only2 : s1.RegsOnly s2 := ((State.RegsOnly.refl s1).setFld _ _ _).setFld _ _ _
  have reg2 (a : Nat) (stat : a ≠ CAL_STAT n) : s2.reg a = s1.reg a := by
    unfold s2
    rw [State.reg_setFld_ne _ _ _ stat, State.reg_setFld_ne _ _ _ stat]
  clear_value s1 s2
  obtain ⟨only3, reg3⟩ : s1.RegsOnly s3 ∧ ∀ a, a ≠ CAL_CTL n → s3.reg a = s2.reg a := by
    unfold s3
    split
    · exact ⟨only2.setFld _ _ _, fun a ctl => State.reg_setFld_ne s2 _ _ ctl⟩
    · exact ⟨only2, fun _ _ => rfl⟩
  clear_value s3
  obtain ⟨lin1, mem1, regs1⟩ := h1
  refine ⟨?_, ?_, fun a stat ctl irq => ?_⟩
  · rw [State.raise_eq]
    exact (only3.same State.lin fun _ _ => rfl).trans lin1
  · rw [State.raise_eq]
    exact State.memSame_trans (State.memSame_trans mem1 only3.memSame) (State.memSame_of rfl rfl rfl rfl rfl)
  · rw [State.reg_raise_ne _ _ irq, reg3 a ctl, reg2 a stat, State.reg_of_regs regs1]

theorem State.capAbort_shows (s : State) (n : Nat) : (s.capAbort n).lin = s.lin ∧ s.memSame (s.capAbort n)
    ∧ ∀ a, a ≠ CAL_STAT n → a ≠ CAL_CTL n → a ≠ CAL_IRQ_STAT n → (s.capAbort n).reg a = s.reg a := by
  unfold State.capAbort
  split
  · exact s.capEnd_shows n 6
  · exact ⟨rfl, State.memSame_refl s, fun _ _ _ _ => rfl⟩

/-- A disabled port is off and drops its waiting line; the others stay (R72, R86). -/
theorem State.portDisable_shows (s : State) (n : Nat) : (s.portDisable n).linOn n = false ∧ (s.portDisable n).on (LIN_PORT_CTL n) LIN_PORT_CTL_EN = false
    ∧ ((s.portDisable n).linPort n).waiting = false ∧ (∀ k, k ≠ n → (s.portDisable n).linOn k = s.linOn k ∧ (s.portDisable n).linPort k = s.linPort k) ∧ s.memSame (s.portDisable n) := by
  obtain ⟨u, hu⟩ : ∃ u, u = (((s.setFld (LIN_PORT_CTL n) LIN_PORT_CTL_EN 0).setFld (LIN_PORT_STAT n) LIN_PORT_STAT_ENABLED 0).setFld (LIN_PORT_STAT n) LIN_PORT_STAT_ENC_STALL 0).setFld
      (LIN_PORT_STAT n) LIN_PORT_STAT_REVERSED 0 := ⟨_, rfl⟩
  obtain ⟨w, hw⟩ : ∃ w, w = u.modLin n (fun p => { p with waiting := false }) := ⟨_, rfl⟩
  have run : s.portDisable n = w.setAdmit.capAbort n := by rw [hw, hu]; rfl
  have only : s.RegsOnly u := by
    rw [hu]
    exact ((((State.RegsOnly.refl s).setFld _ _ _).setFld _ _ _).setFld _ _ _).setFld _ _ _
  have regW (a : Nat) : w.reg a = u.reg a := by rw [hw]; rfl
  have onU : u.linOn n = false := by
    rw [hu, State.linOn, State.on_setFld_other _ _ _ (by decide) (by decide) (by decide), State.on_setFld_other _ _ _ (by decide) (by decide) (by decide)]
    exact State.on_setFld_zero _ _ (by decide) (by decide)
  have ctlU : u.on (LIN_PORT_CTL n) LIN_PORT_CTL_EN = false := by
    have away := (linPortCtl_apart n n).1
    rw [hu, State.on_congr (State.reg_setFld_ne _ _ _ away), State.on_congr (State.reg_setFld_ne _ _ _ away), State.on_congr (State.reg_setFld_ne _ _ _ away)]
    exact State.on_setFld_zero _ _ (by decide) (by decide)
  have otherU (k : Nat) (ne : k ≠ n) : u.reg (LIN_PORT_STAT k) = s.reg (LIN_PORT_STAT k) := by
    have away := linPortStat_inj ne
    rw [hu, State.reg_setFld_ne _ _ _ away, State.reg_setFld_ne _ _ _ away, State.reg_setFld_ne _ _ _ away, State.reg_setFld_ne _ _ _ (linPortStat_apart k n).1]
  obtain ⟨linA, memA, regA⟩ := w.setAdmit.capAbort_shows n
  have stat (k : Nat) : (w.setAdmit.capAbort n).reg (LIN_PORT_STAT k) = u.reg (LIN_PORT_STAT k) := by
    obtain ⟨-, -, -, -, -, -, admitOff, calStat, calCtl, calIrq⟩ := linPortStat_apart k n
    rw [regA _ calStat calCtl calIrq, w.reg_setAdmit admitOff, regW]
  have ctl : (w.setAdmit.capAbort n).reg (LIN_PORT_CTL n) = u.reg (LIN_PORT_CTL n) := by
    have calStat : LIN_PORT_CTL n ≠ CAL_STAT n := ne_of_low (by simp only [LIN_PORT_CTL, CAL_STAT]; omega)
    have calIrq : LIN_PORT_CTL n ≠ CAL_IRQ_STAT n := ne_of_low (by simp only [LIN_PORT_CTL, CAL_IRQ_STAT]; omega)
    have calCtl : LIN_PORT_CTL n ≠ CAL_CTL n := by simp only [LIN_PORT_CTL, CAL_CTL]; omega
    rw [regA _ calStat calCtl calIrq, w.reg_setAdmit (linPortCtl_apart n n).2.2.2.2.2, regW]
  rw [run]
  have memW : s.memSame w := State.memSame_trans only.memSame (by rw [hw]; exact State.memSame_of rfl rfl rfl rfl rfl)
  have linW : (w.setAdmit.capAbort n).lin = w.lin := linA.trans (w.setAdmit_regsOnly.same State.lin fun _ _ => rfl)
  have memT : s.memSame (w.setAdmit.capAbort n) := State.memSame_trans (State.memSame_trans memW w.setAdmit_regsOnly.memSame) memA
  generalize w.setAdmit.capAbort n = t at stat ctl linW memT
  refine ⟨(State.on_congr (stat n) _).trans onU, (State.on_congr ctl _).trans ctlU, ?_, fun k ne => ⟨?_, ?_⟩, memT⟩
  · rw [State.linPort, linW, hw]
    exact congrArg LinPort.waiting (tget_tput_same _ _ _ _)
  · exact State.on_congr ((stat k).trans (otherU k ne)) _
  · rw [State.linPort, linW, hw]
    refine (tget_tput_ne _ _ _ ne).trans ?_
    exact only.same (fun t => t.linPort k) fun _ _ => rfl

/-- Settles O21: a port that is off starts or is refused by the three admissions; STANDBY and a port that is on refuse before them. -/
theorem portAdmission : Obligations.PortAdmission := by
  unfold Obligations.PortAdmission
  intro s n awake
  have run : exec (.linPortEnable n) s = .next (s.keeps (s.portEnable n)) := by rw [exec, execLinPortEnable, State.onHost_awake _ awake]
  have fails (off : s.linOn n = false) (active : s.standby = false) (why : s.num (LIN_LINE_MIN n) * 1000 < s.linkMinPs n ∨ 24 < s.rateSum (n.val :: s.onPorts)
      ∨ Config.retGranted n (s.pair (LIN_RET_BASE_LO n) / 4096 * 4096) (s.retSize n) = false) :
      exec (.linPortEnable n) s = .next (s.portEnable n) := by rw [run, (State.portEnable_fails off active why).1.keeps]
  refine ⟨fun off active link rate => ?admitted, fun off active link => ?link, fun off active rate => ?rate, fun off standby => ?standby, fun on => ?on, ?disable⟩
  case admitted =>
    cases grant : Config.retGranted n (s.pair (LIN_RET_BASE_LO n) / 4096 * 4096) (s.retSize n)
    · obtain ⟨only, stays, rejected, -⟩ := State.portEnable_fails off active (.inr (.inr grant))
      exact ⟨_, fails off active (.inr (.inr grant)), only.memSame, nofun, fun _ => ⟨stays, rejected⟩⟩
    · rw [State.portEnable_starts off active link rate grant] at run
      obtain ⟨only, -⟩ := s.admitBits_shows n false false
      generalize s.admitBits n false false = u at run only
      obtain ⟨on, en, up, line, waiting, pEdge, mem⟩ := u.startPort_shows n
      generalize u.startPort n = w at run on en up line waiting pEdge mem
      exact ⟨_, run, State.memSame_keeps _ _ (State.memSame_trans only.memSame mem), fun _ => ⟨on, en, up, line, waiting, pEdge⟩, nofun⟩
  case link =>
    obtain ⟨-, stays, rejected, reason, -, same⟩ := State.portEnable_fails off active (.inl link)
    exact ⟨_, fails off active (.inl link), stays, reason.trans (decide_eq_true link), rejected, same⟩
  case rate =>
    obtain ⟨-, stays, rejected, -, reason, same⟩ := State.portEnable_fails off active (.inr (.inl rate))
    exact ⟨_, fails off active (.inr (.inl rate)), stays, reason.trans (decide_eq_true rate), rejected, same⟩
  case standby =>
    rw [run, State.portEnable, if_neg (by rw [off]; decide), if_pos standby, State.keeps_reject]
  case on =>
    rw [run, State.portEnable, if_pos on]
    rfl
  case disable =>
    have run : exec (.linPortDisable n) s = .next (s.keeps (s.portDisable n)) := by rw [exec, execLinPortDisable, State.onHost_awake _ awake]
    obtain ⟨off, ctl, waiting, others, mem⟩ := s.portDisable_shows n
    generalize s.portDisable n = w at run off ctl waiting others mem
    exact ⟨_, run, off, ctl, waiting, fun k _ ne => others k ne, State.memSame_keeps _ _ mem⟩

end Sys2Proof.Machine
end


section
/-! SUPPORT. O22 fails: a check entry that does not hold 32 bytes. -/

namespace Sys2Proof.Machine

/-- Port 0 with 8 pixels and, in its WORKING bank 1, a word 0 of entries 0x0101 and seven zeros whose check bytes have been lost:
  the list of them is empty, so that a write which keeps the word's error (`xorBytes`) keeps no check byte either. -/
def lostChecks : State :=
  { Sys2Proof.Tests.awake.setFld (LIN_PORT_CFG 0) LIN_PORT_CFG_PIX 8 with
    cal := [(0, { (default : CalPort) with bank1 := (0, 0x0101) :: (List.range 7).map (fun i => (i + 1, 0)), chk1 := [(0, [])] })] }

/-- What the host reads back after it has written the entry that CAL_TAB_ADDR names. -/
def readBack (s : State) (n : Fin 4) (v : Word) : Option Word :=
  match exec (.calTabWrite n v) s with
  | .next t => some (tget calIdentity ((t.calPort n).data (s.workBank n)) (s.tabKey n))
  | _ => none

theorem readBack_of_next {s t : State} {n : Fin 4} {v : Word} (run : exec (.calTabWrite n v) s = .next t) :
    readBack s n v = some (tget calIdentity ((t.calPort n).data (s.workBank n)) (s.tabKey n)) := by
  unfold readBack
  rw [run]

theorem lostChecks_awake : lostChecks.awake := And.intro (by decide +kernel) (by decide +kernel)

theorem lostChecks_inside : lostChecks.tabInside (0 : Fin 4) = true := by decide +kernel

theorem lostChecks_notBusy : lostChecks.calBusy (0 : Fin 4) = false := by decide +kernel

/-- The word as written reads as one error away from a codeword, and the read "corrects" its byte 3. -/
theorem lostChecks_readBack : readBack lostChecks 0 1 = some 0x01000001 := by decide +kernel

/-- Refutes O22: no clause requires that a table's check entries hold the check bytes that it may. On `lostChecks` the write of 1 to entry 0 reads
  back as 0x01000001. -/
theorem not_calibrationCommands : ¬ Obligations.CalibrationCommands := by
  unfold Obligations.CalibrationCommands
  rintro ⟨-, table⟩
  obtain ⟨-, write, -⟩ := table lostChecks 0 1 lostChecks_awake lostChecks_inside
  obtain ⟨t, run, reads, -⟩ := write lostChecks_notBusy
  have back := (readBack_of_next run).symm.trans lostChecks_readBack
  rw [reads] at back
  exact absurd back (by decide)

end Sys2Proof.Machine
end


section
/-! SUPPORT. What sending a record or a fabric message can change: the outlets of the engine, and nothing that an item, a port, a tile or a context holds (R432-R437, R488-R515, R537). -/

namespace Sys2Proof.Machine

/-- Registers that sending a record or a message may write: the stall and drop counters, the snapshot's, the event counter, and the TAIL of a ring. -/
def outletReg (a : Nat) : Bool :=
  [HIF_STAT, HIF_IRQ_STAT, HIF_STALL_CNT, ETH_DIVERT_CNT, ETH_DROP_CNT, RAS_EVENT_SEQ, SNP_STAT, SNP_IRQ_STAT, SNP_LOST, SNP_TRIG_STAMP_LO, SNP_TRIG_STAMP_HI,
    KOL_DROP_CNT].contains a || (decide (0x2010 ≤ a) && a % 64 == 16)

/-- Nothing but outlets and registers differs. -/
def State.OutletsOnly (s t : State) : Prop := t = { s with
  regs := t.regs, msix := t.msix, msixPend := t.msixPend, host := t.host, hold := t.hold, rings := t.rings, eth := t.eth, pieces := t.pieces,
  kol := t.kol, tim := { s.tim with ports := t.tim.ports }, snp := t.snp, ras := { s.ras with seq := t.ras.seq } }

theorem State.OutletsOnly.trans {s t u : State} (h : s.OutletsOnly t) (h' : t.OutletsOnly u) : s.OutletsOnly u := by
  unfold State.OutletsOnly at h h' ⊢
  rw [h] at h'
  exact h'

/-- What reads neither the outlets nor the registers is as it was. -/
theorem State.OutletsOnly.same {s t : State} {β : Type} (h : s.OutletsOnly t) (f : State → β)
    (blind : ∀ (s : State) r m p ho hd ri e pi k ti sn se, f { s with
      regs := r, msix := m, msixPend := p, host := ho, hold := hd, rings := ri, eth := e, pieces := pi, kol := k, tim := { s.tim with ports := ti }
      snp := sn, ras := { s.ras with seq := se } } = f s) : f t = f s := by
  rw [h]
  exact blind s _ _ _ _ _ _ _ _ _ _ _ _

/-- `t` is `s` after records or messages have been sent: only outlets differ. -/
structure State.Sends (s t : State) : Prop where
  only : s.OutletsOnly t
  reg : ∀ a, outletReg a = false → t.reg a = s.reg a

namespace State.Sends

variable {s t u : State}

theorem refl (s : State) : s.Sends s := ⟨rfl, fun _ _ => rfl⟩

theorem trans (h : s.Sends t) (h' : t.Sends u) : s.Sends u :=
  ⟨h.only.trans h'.only, fun a ha => (h'.reg a ha).trans (h.reg a ha)⟩

/-- A register of an outlet. -/
theorem ofReg (h : s.RegsOnly t) {a : Nat} (out : outletReg a = true) (rest : ∀ b, b ≠ a → t.reg b = s.reg b) : s.Sends t := by
  refine ⟨?_, fun b hb => rest b ?_⟩
  · unfold State.OutletsOnly
    rw [h]
  rintro rfl
  rw [out] at hb
  exact absurd hb (by decide)

theorem setReg (s : State) {a : Nat} (out : outletReg a = true) (v : Word) : s.Sends (s.setReg a v) :=
  ofReg ((RegsOnly.refl s).setReg a v) out (fun _ ne => s.reg_setReg_ne v ne)

theorem setFld (s : State) {a : Nat} (out : outletReg a = true) (f : Fld) (v : Nat) : s.Sends (s.setFld a f v) := setReg s out _

theorem setNum (s : State) {a : Nat} (out : outletReg a = true) (v : Nat) : s.Sends (s.setNum a v) := setReg s out _

theorem incFld (s : State) {a : Nat} (out : outletReg a = true) (f : Fld) (n : Nat) : s.Sends (s.incFld a f n) := setReg s out _

theorem incReg (s : State) {a : Nat} (out : outletReg a = true) (n : Nat) : s.Sends (s.incReg a n) := setReg s out _

theorem message (s : State) (v : Nat) : s.Sends (s.message v) := by
  refine ⟨?_, fun a _ => ?_⟩
  · unfold State.OutletsOnly
    rw [State.message_eq]
  · rw [State.message_eq]
    rfl

theorem raise (s : State) {a : Nat} (out : outletReg a = true) (i : Nat) : s.Sends (s.raise a i) := by
  refine ⟨?_, fun b hb => s.reg_raise_ne i ?_⟩
  · unfold State.OutletsOnly
    rw [State.raise_eq]
  rintro rfl
  rw [out] at hb
  exact absurd hb (by decide)

/-- Steps over a list. -/
theorem foldl {α : Type} {f : State → α → State} (step : ∀ (s : State) x, s.Sends (f s x)) : ∀ (l : List α) (s : State), s.Sends (l.foldl f s)
  | [], s => refl s
  | x :: l, s => (step s x).trans (foldl step l (f s x))

end State.Sends

/-! ### Snapshots -/

theorem State.snapAct_sends (s : State) (stamp : Stamp) (cause cls : Nat) : s.Sends (s.snapAct stamp cause cls) := by
  unfold State.snapAct
  extract_lets s1 s2
  have first : s.Sends s1 :=
    (((State.Sends.setFld s (by decide) _ _).trans (State.Sends.setFld _ (by decide) _ _)).trans (State.Sends.setFld _ (by decide) _ _)).trans
      (State.Sends.setFld _ (by decide) _ _)
  have second : s1.Sends s2 := (State.Sends.setNum s1 (by decide) _).trans (State.Sends.setNum _ (by decide) _)
  have both := first.trans second
  clear_value s2
  exact both.trans ⟨rfl, fun _ _ => rfl⟩

theorem State.snapTrigger_sends (s : State) (stamp : Stamp) (cause cls : Nat) : s.Sends (s.snapTrigger stamp cause cls).1 := by
  have lost : s.Sends ((s.incReg SNP_LOST).raise SNP_IRQ_STAT 1) := (State.Sends.incReg s (by decide) _).trans (State.Sends.raise _ (by decide) _)
  unfold State.snapTrigger
  split
  · exact s.snapAct_sends stamp cause cls
  · split
    · split
      · exact (State.Sends.setFld s (by decide) SNP_STAT_CAUSE _).trans ⟨rfl, fun _ _ => rfl⟩
      · exact lost
    · exact lost

/-! ### Rings -/

theorem outletReg_ringTail (r : Nat) : outletReg (HIF_RING_TAIL r) = true := by
  have tail : (decide (0x2010 ≤ HIF_RING_TAIL r) && HIF_RING_TAIL r % 64 == 16) = true := by
    rw [Bool.and_eq_true, decide_eq_true_eq, beq_iff_eq]
    unfold HIF_RING_TAIL
    omega
  rw [outletReg, tail, Bool.or_true]

theorem State.ringBytes_sends (s : State) (r i : Nat) (l : List Byte) : s.Sends (s.ringBytes r i l) := ⟨rfl, fun _ _ => rfl⟩

theorem State.ringParts_sends (r : Nat) : ∀ (parts : List (List Byte)) (s : State) (tail : Nat), s.Sends (s.ringParts r parts tail)
  | [], s, tail => State.Sends.setNum s (outletReg_ringTail r) tail
  | p :: ps, s, tail => by
    unfold State.ringParts
    extract_lets size need pad s1 i
    have padded : s.Sends s1 := by
      unfold s1
      split
      · exact State.Sends.refl s
      · exact s.ringBytes_sends _ _ _
    exact (padded.trans (s1.ringBytes_sends _ _ _)).trans (State.ringParts_sends r ps _ _)

theorem State.ringLanded_sends (s : State) (r k : Nat) : s.Sends (s.ringLanded r k) := by
  unfold State.ringLanded
  extract_lets cnt x
  split
  · have taken : s.Sends { s with rings := tput s.rings r { x with unsig := 0 } } := ⟨rfl, fun _ _ => rfl⟩
    exact taken.trans (State.Sends.message _ _)
  · exact ⟨rfl, fun _ _ => rfl⟩

theorem State.ringWrite_sends {s t : State} {r : Nat} {parts : List (List Byte)} (h : s.ringWrite r parts = some t) : s.Sends t := by
  unfold State.ringWrite at h
  split at h
  · cases h
  · extract_lets tail at h
    split at h
    · cases h
    · cases h
      exact (State.ringParts_sends r parts s tail).trans (State.ringLanded_sends _ _ _)

/-! ### Koliad -/

theorem State.modKport_sends (s : State) (n : Nat) (f : KPort → KPort) : s.Sends (s.modKport n f) := ⟨rfl, fun _ _ => rfl⟩

theorem State.setKport_sends (s : State) (n : Nat) (q : KPort) : s.Sends (s.setKport n q) := ⟨rfl, fun _ _ => rfl⟩

theorem State.bumpMsg_sends (s : State) : s.Sends s.bumpMsg := ⟨rfl, fun _ _ => rfl⟩

theorem State.modTport_sends (s : State) (n : Nat) (f : TPort → TPort) : s.Sends (s.modTport n f) := ⟨rfl, fun _ _ => rfl⟩

theorem State.timeSent_sends (s : State) (n : Nat) (f : RFlit) : s.Sends (s.timeSent n f) := by
  have next (g : KPort → KPort) : s.Sends (s.modKport n g).bumpMsg := (s.modKport_sends n g).trans (State.bumpMsg_sends _)
  unfold State.timeSent
  extract_lets sub stamp follow
  split
  · exact State.Sends.refl s
  · split
    · exact next _
    · split
      · exact next _
      · split
        · exact s.modTport_sends n _
        · exact State.Sends.refl s

theorem State.freeBuffer_sends (s : State) (n vc : Nat) : s.Sends (s.freeBuffer n vc) := by
  unfold State.freeBuffer
  split
  · exact s.modKport_sends n _
  · exact State.Sends.refl s

theorem State.sendOne_sends (s : State) (n : Nat) : s.Sends (s.sendOne n) := by
  unfold State.sendOne
  extract_lets p
  split
  · exact State.Sends.refl s
  · split
    · exact State.Sends.refl s
    · split
      · exact State.Sends.refl s
      · have sent (q : KPort) (f : RFlit) : s.Sends ((s.setKport n q).timeSent n f) := (s.setKport_sends n q).trans (State.timeSent_sends _ _ _)
        dsimp only
        split
        · exact (sent _ _).trans (State.freeBuffer_sends _ _ _)
        · exact sent _ _

theorem State.pumpN_sends (n : Nat) : ∀ (k : Nat) (s : State), s.Sends (State.pumpN k n s)
  | 0, s => State.Sends.refl s
  | k + 1, s => (s.sendOne_sends n).trans (State.pumpN_sends n k _)

theorem State.queueFlits_sends (s : State) (n : Nat) (fs : List RFlit) : s.Sends (s.queueFlits n fs) :=
  (s.modKport_sends n _).trans (State.pumpN_sends n _ _)

theorem State.sendLocal_sends (s : State) (n vc : Nat) (data : List Byte) : s.Sends (s.sendLocal n vc data) := by
  unfold State.sendLocal
  split
  · exact (s.queueFlits_sends _ _).trans (State.bumpMsg_sends _)
  · exact State.Sends.refl s

theorem State.sendFloodOn_sends (s : State) (vc : Nat) (data : Nat → List Byte) : s.Sends (s.sendFloodOn vc data) := by
  unfold State.sendFloodOn
  split
  · exact State.Sends.refl s
  · extract_lets seq me fs _ t
    have begun : s.Sends t := ⟨rfl, fun _ _ => rfl⟩
    exact (begun.trans (State.Sends.foldl (fun s n => s.queueFlits_sends n fs) _ t)).trans (State.bumpMsg_sends _)

theorem State.sendFlood_sends (s : State) (typ : Nat) (body : List Byte) : s.Sends (s.sendFlood typ body) := s.sendFloodOn_sends _ _

theorem State.sendRouted_sends (s : State) (dst vc : Nat) (data : List Byte) (part : Option Nat) : s.Sends (s.sendRouted dst vc data part).1 := by
  unfold State.sendRouted
  split
  · exact ⟨rfl, fun _ _ => rfl⟩
  · split
    · exact State.Sends.incFld s (by decide) _ _
    · exact ⟨rfl, fun _ _ => rfl⟩
    · exact (s.queueFlits_sends _ _).trans (State.bumpMsg_sends _)

theorem State.sendTo_sends (s : State) (dst vc : Nat) (data : List Byte) (part : Option Nat := none) : s.Sends (s.sendTo dst vc data part) :=
  s.sendRouted_sends dst vc data part

theorem State.relay_sends (s : State) (kind item : Nat) (body : List Byte) : s.Sends (s.relay kind item body) := by
  unfold State.relay
  split
  · exact State.Sends.refl s
  · split
    · exact State.Sends.refl s
    · extract_lets q _ t
      exact State.Sends.trans (t := t) ⟨rfl, fun _ _ => rfl⟩ (State.sendTo_sends _ _ _ _)

/-! ### The Ethernet path and the hold -/

theorem State.udpOne_sends (s : State) (l : List Byte) : s.Sends (s.udpOne l) := by
  unfold State.udpOne
  extract_lets d _ t
  have counted : s.Sends t := ⟨rfl, fun _ _ => rfl⟩
  split
  · exact counted.trans (State.Sends.incReg t (by decide) _)
  · exact counted.trans ⟨rfl, fun _ _ => rfl⟩

theorem State.udpSend_sends (s : State) (parts : List (List Byte)) : s.Sends (s.udpSend parts) := State.Sends.foldl State.udpOne_sends parts s

theorem State.written_sends (s : State) (item : Nat) (final : Bool) (parts : List (List Byte)) : s.Sends (s.written item final parts) := by
  unfold State.written
  split
  · exact State.Sends.refl s
  · split
    · exact State.Sends.refl s
    · extract_lets t
      have marked : s.Sends t := ⟨rfl, fun _ _ => rfl⟩
      split
      · exact marked.trans (State.Sends.foldl (fun s b => s.relay_sends _ _ b) parts t)
      · exact marked

theorem State.stallCheck_sends (s : State) : s.Sends s.stallCheck := by
  unfold State.stallCheck
  extract_lets b
  split
  · split
    · exact State.Sends.setFld s (by decide) _ _
    · exact State.Sends.refl s
  · split
    · exact ((State.Sends.setFld s (by decide) _ _).trans (State.Sends.incFld _ (by decide) _ _)).trans (State.Sends.raise _ (by decide) _)
    · exact State.Sends.refl s

theorem State.divertHold_sends (s : State) : s.Sends s.divertHold := by
  unfold State.divertHold
  extract_lets go
  have step (s : State) (h : Held) : s.Sends (go s h) := by
    unfold go
    split
    · extract_lets t
      have out : s.Sends t := ⟨rfl, fun _ _ => rfl⟩
      have path : t.Sends (if h.sent then t else t.udpSend h.parts) := by
        split
        · exact State.Sends.refl t
        · exact t.udpSend_sends _
      exact ((out.trans path).trans (State.Sends.incReg _ (by decide) _)).trans (State.written_sends _ _ _ _)
    · exact State.Sends.refl s
  split
  · exact State.Sends.foldl step s.hold s
  · exact State.Sends.refl s

theorem State.holdSend_sends (s : State) (h : Held) (sel keep : Bool) : s.Sends (s.holdSend h sel keep) := by
  unfold State.holdSend
  extract_lets sent t
  have path : s.Sends t := by
    unfold t
    split
    · exact s.udpSend_sends _
    · exact State.Sends.refl s
  split
  · exact path.trans ⟨rfl, fun _ _ => rfl⟩
  · exact path

theorem State.settle_sends (s : State) : s.Sends s.stallCheck.divertHold.stallCheck :=
  (s.stallCheck_sends.trans (State.divertHold_sends _)).trans (State.stallCheck_sends _)

theorem State.holdPut_sends (s : State) (h : Held) (sel : Bool) : s.Sends (s.holdPut h sel) := by
  unfold State.holdPut
  extract_lets cap used h1 h2 t kept u v
  have placed : s.Sends v := by
    unfold v
    split
    · exact s.holdSend_sends _ _ _
    · split
      · have head : s.Sends t := (State.Sends.incFld s (by decide) _ _).trans (State.Sends.raise _ (by decide) _)
        have dropped : t.Sends u := ⟨rfl, fun _ _ => rfl⟩
        exact (head.trans dropped).trans (State.holdSend_sends _ _ _ _)
      · exact s.holdSend_sends _ _ _
  exact placed.trans v.settle_sends

theorem State.ringSome_sends (r : Nat) : ∀ (l : List (List Byte)) (s : State), s.Sends (s.ringSome r l).1
  | [], s => State.Sends.refl s
  | p :: t, s => by
    unfold State.ringSome
    split
    case h_1 s' h => exact (State.ringWrite_sends h).trans (State.ringSome_sends r t s')
    case h_2 => exact State.Sends.refl s

theorem State.drainList_sends : ∀ (l : List Held) (blocked : List Nat) (s : State), s.Sends (drainList s blocked l)
  | [], _, s => State.Sends.refl s
  | h :: t, blocked, s => by
    unfold drainList
    split
    · exact State.drainList_sends t blocked s
    · split
      case h_1 s' wrote =>
        have out : s'.Sends { s' with hold := s'.hold.erase h } := ⟨rfl, fun _ _ => rfl⟩
        exact (((State.ringWrite_sends wrote).trans out).trans (State.written_sends _ _ _ _)).trans (State.drainList_sends t blocked _)
      case h_2 =>
        split
        · have some := State.ringSome_sends h.ring h.parts s
          generalize s.ringSome h.ring h.parts = w at some ⊢
          have left : w.1.Sends { w.1 with hold := w.1.hold.map (fun x => if x = h then { h with parts := w.2 } else x) } := ⟨rfl, fun _ _ => rfl⟩
          exact (some.trans left).trans (State.drainList_sends t (h.ring :: blocked) _)
        · exact State.drainList_sends t (h.ring :: blocked) s

theorem State.drain_sends (s : State) : s.Sends s.drain := (State.drainList_sends s.hold [] s).trans (State.settle_sends _)

/-! ### Records -/

theorem State.emit_sends (s : State) (ring typ : Nat) (parts : List (List Byte)) (item : Nat) (lc final : Bool) :
    s.Sends (s.emit ring typ parts item lc final) := by
  unfold State.emit
  extract_lets sel divert keep
  have kept (s : State) : s.Sends (keep s) := s.holdPut_sends _ _
  split
  · exact ((s.udpSend_sends _).trans (State.Sends.incReg _ (by decide) _)).trans (State.written_sends _ _ _ _)
  · split
    · exact kept s
    · split
      case h_1 s' wrote =>
        have path : s'.Sends (if sel then s'.udpSend parts else s') := by
          split
          · exact s'.udpSend_sends _
          · exact State.Sends.refl s'
        exact ((State.ringWrite_sends wrote).trans path).trans (State.written_sends _ _ _ _)
      case h_2 =>
        split
        · exact (kept s).trans (State.drain_sends _)
        · exact kept s

theorem State.sysRecord_sends (s : State) (err : Bool) (cls : Nat) (part : Option Nat) (unit item d0 d1 : Nat) (fault : Stamp) :
    s.Sends (s.sysRecord err cls part unit item d0 d1 fault) := by
  unfold State.sysRecord
  extract_lets q r _ _ t u
  have counted : s.Sends t := (State.Sends.setNum s (a := RAS_EVENT_SEQ) (by decide) q).trans ⟨rfl, fun _ _ => rfl⟩
  have sent : s.Sends u := counted.trans (State.emit_sends _ _ _ _ _ _ _)
  split
  · exact sent.trans (State.snapTrigger_sends _ _ _ _)
  · exact sent

theorem State.errorRec_sends (s : State) (cls : Nat) (part : Option Nat) (unit item d0 d1 : Nat) : s.Sends (s.errorRec cls part unit item d0 d1) :=
  s.sysRecord_sends _ _ _ _ _ _ _ _

theorem State.recoveryRec_sends (s : State) (cls : Nat) (part : Option Nat) (unit item d0 d1 : Nat) : s.Sends (s.recoveryRec cls part unit item d0 d1) :=
  s.sysRecord_sends _ _ _ _ _ _ _ _

/-! ### Sending with registers of its own -/

/-- As `State.Sends`, with registers `rs` of the operation's own. -/
structure State.Notes (s t : State) (rs : List Nat) : Prop where
  only : s.OutletsOnly t
  reg : ∀ a, a ∉ rs → outletReg a = false → t.reg a = s.reg a

namespace State.Notes

variable {s t u : State} {rs : List Nat}

theorem refl (s : State) (rs : List Nat) : s.Notes s rs := ⟨rfl, fun _ _ _ => rfl⟩

theorem trans (h : s.Notes t rs) (h' : t.Notes u rs) : s.Notes u rs :=
  ⟨h.only.trans h'.only, fun a away out => (h'.reg a away out).trans (h.reg a away out)⟩

theorem ofSends (h : s.Sends t) : s.Notes t rs := ⟨h.only, fun a _ out => h.reg a out⟩

theorem setReg (h : s.Notes t rs) {a : Nat} (own : a ∈ rs) (v : Word) : s.Notes (t.setReg a v) rs :=
  h.trans ⟨rfl, fun _ away _ => t.reg_setReg_ne v fun e => away (e ▸ own)⟩

theorem setFld (h : s.Notes t rs) {a : Nat} (own : a ∈ rs) (f : Fld) (v : Nat) : s.Notes (t.setFld a f v) rs := h.setReg own _

theorem setNum (h : s.Notes t rs) {a : Nat} (own : a ∈ rs) (v : Nat) : s.Notes (t.setNum a v) rs := h.setReg own _

theorem incFld (h : s.Notes t rs) {a : Nat} (own : a ∈ rs) (f : Fld) (n : Nat) : s.Notes (t.incFld a f n) rs := h.setReg own _

theorem incReg (h : s.Notes t rs) {a : Nat} (own : a ∈ rs) (n : Nat) : s.Notes (t.incReg a n) rs := h.setReg own _

theorem raise (h : s.Notes t rs) {a : Nat} (own : a ∈ rs) (i : Nat) : s.Notes (t.raise a i) rs := by
  refine h.trans ⟨?_, fun _ away _ => t.reg_raise_ne i fun e => away (e ▸ own)⟩
  unfold State.OutletsOnly
  rw [State.raise_eq]

theorem sends (h : s.Notes t rs) (h' : t.Sends u) : s.Notes u rs := h.trans (ofSends h')

/-- Steps over a list. -/
theorem foldl {α : Type} {f : State → α → State} (step : ∀ (s : State) x, s.Notes (f s x) rs) : ∀ (l : List α) (s : State), s.Notes (l.foldl f s) rs
  | [], s => refl s rs
  | x :: l, s => (step s x).trans (foldl step l (f s x))

end State.Notes

end Sys2Proof.Machine
end


section
/-! SUPPORT. O24: what a capture's computation and the copy of a bank leave (R124-R129). -/

namespace Sys2Proof.Machine

/-! ### Tables written entry by entry -/

theorem tget_foldl_tset_away (d : Word) {k : Nat} : ∀ (l : List (Nat × Word)) (t : Tbl Word), (∀ e ∈ l, e.1 ≠ k) →
    tget d (l.foldl (fun a e => tset d a e.1 e.2) t) k = tget d t k
  | [], _, _ => rfl
  | e :: l, t, away => by
    rw [List.foldl_cons, tget_foldl_tset_away d l _ fun x hx => away x (List.mem_cons_of_mem _ hx)]
    exact tget_tset_ne d t e.2 (away e (List.mem_cons_self ..)).symm

/-- A key under which the list has one value only reads as that value. -/
theorem tget_foldl_tset (d : Word) {k : Nat} {v : Word} : ∀ (l : List (Nat × Word)) (t : Tbl Word), (k, v) ∈ l → (∀ e ∈ l, e.1 = k → e.2 = v) →
    tget d (l.foldl (fun a e => tset d a e.1 e.2) t) k = v
  | [], _, there, _ => absurd there (by simp)
  | e :: l, t, there, one => by
    rw [List.foldl_cons]
    have rest (x : Nat × Word) (hx : x ∈ l) : x.1 = k → x.2 = v := one x (List.mem_cons_of_mem _ hx)
    by_cases later : (k, v) ∈ l
    · exact tget_foldl_tset d l _ later rest
    · have here : e = (k, v) := ((List.mem_cons.mp there).resolve_right later).symm
      subst here
      rw [tget_foldl_tset_away d l _ fun x hx eq => later (by rw [← eq, ← rest x hx eq]; exact hx)]
      exact tget_tset_same d t k v

/-! ### Reads of a bank -/

theorem State.chipUncorr_notes (s : State) (word : Nat) {rs : List Nat} (own : RAS_IRQ_STAT ∈ rs) : s.Notes (s.chipUncorr word) rs :=
  ((State.Notes.refl s rs).raise own 0).sends (State.errorRec_sends _ _ _ _ _ _ _)

/-- Reading a bank counts and records; it leaves the banks and the port's registers. -/
theorem State.calRead_notes (s : State) (n bank lo hi : Nat) (skip : Nat → Bool) : s.Notes (s.calRead n bank lo hi skip).1 [RAS_BUF_CORR, RAS_IRQ_STAT] := by
  unfold State.calRead
  extract_lets p
  refine List.foldlRecOn (motive := fun x : State × List Nat => s.Notes x.1 [RAS_BUF_CORR, RAS_IRQ_STAT]) _ _ (State.Notes.refl s _) ?_
  intro x seen e _
  split
  · exact seen
  · split
    · exact seen
    · exact seen.incFld (by simp) _ _
    · exact (seen.incFld (a := RAS_BUF_CORR) (by simp) _ _).trans (State.chipUncorr_notes _ _ (by simp))

/-- A bank without check entries is read without a trace. -/
theorem State.calRead_clean {s : State} {n bank : Nat} (clean : (s.calPort n).chk bank = []) (lo hi : Nat) (skip : Nat → Bool) :
    (s.calRead n bank lo hi skip).1 = s := by
  rw [State.calRead, clean]
  rfl

theorem State.calPort_modCal (s : State) (n : Nat) (f : CalPort → CalPort) : (s.modCal n f).calPort n = f (s.calPort n) := tget_tput_same ..

theorem CalPort.bank_setCoded (p : CalPort) (b : Nat) (x : Tbl Word × Checks) : (p.setCoded b x).bank b = x.1 := by
  unfold CalPort.bank CalPort.setCoded
  split <;> rfl

/-! ### The end of a capture -/

/-- The port's calibration after a capture's end (R119-R123). -/
def CalPort.ended (p : CalPort) : CalPort := { p with phase := .idle, white := [], dark := [], waitOk := false, okTable := [] }

theorem CalPort.bank_ended (p : CalPort) (b : Nat) : p.ended.bank b = p.bank b := rfl

theorem calStat_apart (n : Nat) : CAL_STAT n ≠ CAL_IRQ_STAT n ∧ CAL_STAT n ≠ CAL_CTL n ∧ CAL_STAT n ≠ CAL_EPOCH n := by
  simp only [CAL_STAT, CAL_IRQ_STAT, CAL_CTL, CAL_EPOCH]
  omega

theorem State.capEnd_result (s : State) (n : Nat) {result : Nat} (fits : result < 2 ^ 4) :
    (s.capEnd n result).fld (CAL_STAT n) CAL_STAT_RESULT = result ∧ (s.capEnd n result).calPort n = (s.calPort n).ended := by
  unfold State.capEnd State.setBit
  extract_lets s1 s2 s3
  obtain ⟨irq, ctl, -⟩ := calStat_apart n
  have port1 : s1.calPort n = (s.calPort n).ended := s.calPort_modCal n _
  have res2 : s2.fld (CAL_STAT n) CAL_STAT_RESULT = result := by
    unfold s2
    rw [State.fld_setFld_other _ _ _ _ _ (by decide) (by decide) (by decide)]
    exact State.fld_setFld_fits _ _ (by decide) (by decide) fits
  have only2 : s1.RegsOnly s2 := ((State.RegsOnly.refl s1).setFld _ _ _).setFld _ _ _
  clear_value s1 s2
  have shows3 : s1.RegsOnly s3 ∧ s3.reg (CAL_STAT n) = s2.reg (CAL_STAT n) := by
    unfold s3
    split
    · exact ⟨only2.setFld _ _ _, State.reg_setFld_ne s2 _ _ ctl⟩
    · exact ⟨only2, rfl⟩
  clear_value s3
  obtain ⟨only3, reg3⟩ := shows3
  constructor
  · rw [State.fld_congr ((State.reg_raise_ne _ _ irq).trans reg3), res2]
  · rw [State.raise_eq]
    exact (only3.same (fun s => s.calPort n) fun _ _ => rfl).trans port1

/-! ### A table that is due -/

theorem State.writeOk_shows (s : State) (n : Nat) (t : Tbl Word) (defects : Nat) :
    (s.writeOk n t defects).fld (CAL_STAT n) CAL_STAT_RESULT = 1 ∧ ((s.writeOk n t defects).calPort n).phase = .idle
      ∧ ((s.writeOk n t defects).calPort n).swapDue = true
      ∧ ((s.writeOk n t defects).calPort n).bank (s.workBank n) = t.foldl (fun a e => tset calIdentity a e.1 e.2) ((s.calPort n).bank (s.workBank n))
      ∧ s.memSame (s.writeOk n t defects) := by
  unfold State.writeOk State.addWrap
  extract_lets b u
  have port : u.calPort n = { (s.calPort n).setCoded b (calPutAll ((s.calPort n).bank b, (s.calPort n).chk b) t) with swapDue := true } := s.calPort_modCal n _
  have mem : s.memSame u := State.memSame_of rfl rfl rfl rfl rfl
  clear_value u
  have only : u.RegsOnly ((u.setFld (CAL_EPOCH n) CAL_EPOCH_EPOCH (u.fld (CAL_EPOCH n) CAL_EPOCH_EPOCH + 1)).setFld (CAL_STAT n) CAL_STAT_DEFECTS defects) :=
    ((State.RegsOnly.refl u).setFld _ _ _).setFld _ _ _
  generalize (u.setFld (CAL_EPOCH n) CAL_EPOCH_EPOCH (u.fld (CAL_EPOCH n) CAL_EPOCH_EPOCH + 1)).setFld (CAL_STAT n) CAL_STAT_DEFECTS defects = w at only ⊢
  obtain ⟨res, ended⟩ := w.capEnd_result n (result := 1) (by decide)
  have portW : w.calPort n = u.calPort n := only.same (fun s => s.calPort n) fun _ _ => rfl
  rw [ended, portW, port]
  refine ⟨res, rfl, rfl, ?_, State.memSame_trans mem (State.memSame_trans only.memSame (w.capEnd_shows n 1).2.1)⟩
  exact CalPort.bank_setCoded _ b _

/-! ### The entries that were derived -/

theorem State.pix_lt (s : State) (n : Nat) : s.pix n < 2 ^ 15 := fget_lt (s.reg _) LIN_PORT_CFG_PIX

theorem calKey_inj {c c' i i' : Nat} (h : i < 2 ^ 15) (h' : i' < 2 ^ 15) (eq : calKey c i = calKey c' i') : c = c' ∧ i = i' := by
  unfold calKey at eq
  omega

/-- The table of the columns' entries by their places. -/
def calTable (cols : List (List (Word × Bool))) : Tbl Word :=
  ((List.range cols.length).zip cols).flatMap (fun (c, es) => ((List.range es.length).zip es).map (fun (i, e) => (calKey c i, e.1)))

theorem mem_zip_range {α : Type} {l : List α} {i : Nat} {x : α} : (i, x) ∈ (List.range l.length).zip l ↔ l[i]? = some x := by
  constructor
  · intro there
    obtain ⟨k, bound, eq⟩ := List.getElem_of_mem there
    rw [List.getElem_zip, Prod.mk.injEq, List.getElem_range] at eq
    obtain ⟨rfl, rfl⟩ := eq
    exact List.getElem?_eq_getElem _
  · intro at_
    obtain ⟨bound, eq⟩ := List.getElem?_eq_some_iff.mp at_
    refine List.mem_iff_getElem.mpr ⟨i, by simpa using bound, ?_⟩
    rw [List.getElem_zip, List.getElem_range, eq]

theorem mem_calTable {cols : List (List (Word × Bool))} {x : Nat × Word} :
    x ∈ calTable cols ↔ ∃ c es i e, cols[c]? = some es ∧ es[i]? = some e ∧ x = (calKey c i, e.1) := by
  unfold calTable
  rw [List.mem_flatMap]
  constructor
  · rintro ⟨⟨c, es⟩, col, there⟩
    obtain ⟨⟨i, e⟩, row, rfl⟩ := List.mem_map.mp there
    exact ⟨c, es, i, e, mem_zip_range.mp col, mem_zip_range.mp row, rfl⟩
  · rintro ⟨c, es, i, e, col, row, rfl⟩
    exact ⟨(c, es), mem_zip_range.mpr col, List.mem_map.mpr ⟨(i, e), mem_zip_range.mpr row, rfl⟩⟩

/-- Each derived entry stands at its place. -/
theorem tget_calTable {cols : List (List (Word × Bool))} (short : ∀ es ∈ cols, es.length ≤ 2 ^ 15) (t : Tbl Word) {c i : Nat} {e : Word × Bool}
    (there : (cols.getD c [])[i]? = some e) : tget calIdentity ((calTable cols).foldl (fun a x => tset calIdentity a x.1 x.2) t) (calKey c i) = e.1 := by
  have bound {c i : Nat} {es : List (Word × Bool)} {e : Word × Bool} (col : cols[c]? = some es) (row : es[i]? = some e) : i < 2 ^ 15 :=
    lt_of_lt_of_le (List.getElem?_eq_some_iff.mp row).1 (short es (List.mem_of_getElem? col))
  rcases col : cols[c]? with _ | es
  · rw [List.getD, col] at there
    exact absurd there (by simp)
  · rw [List.getD, col, Option.getD_some] at there
    refine tget_foldl_tset calIdentity _ t (mem_calTable.mpr ⟨c, es, i, e, col, there, rfl⟩) fun x hx key => ?_
    obtain ⟨c', es', i', e', col', row', rfl⟩ := mem_calTable.mp hx
    obtain ⟨rfl, rfl⟩ := calKey_inj (bound col' row') (bound col there) key
    rw [col, Option.some.injEq] at col'
    subst col'
    rw [there, Option.some.injEq] at row'
    rw [row']

/-! ### A complete capture -/

/-- The state in which the computation ends: the bank that gave the FORCED entries has been read (R125, R526). -/
def State.capRead (s : State) (n : Nat) : State :=
  (s.calRead n (if (s.calPort n).copying then s.activeBank n else s.workBank n) 0 (2 ^ 17) (fun _ => false)).1

/-- Defective entries of the colour that has most. -/
def capDefects (cols : List (List (Word × Bool))) : Nat := (cols.map (fun c => (c.filter (·.2)).length)).foldl max 0

/-- A run of defective entries longer than MAX_RUN. -/
def State.capLong (s : State) (n : Nat) (cols : List (List (Word × Bool))) : Bool :=
  cols.any (fun c => decide (s.fld (CAL_CFG n) CAL_CFG_MAX_RUN < longestRun (c.map (·.2))))

/-- What the derived columns of a capture come to (R126, R127). -/
def State.capOutcome (s : State) (n : Nat) (cols : List (List (Word × Bool))) (copying : Bool) : State :=
  if s.fld (CAL_DEF_LIMIT n) CAL_DEF_LIMIT_DEFECT_LIMIT < capDefects cols then (s.setFld (CAL_STAT n) CAL_STAT_DEFECTS (capDefects cols)).capEnd n 4
  else if s.capLong n cols then (s.setFld (CAL_STAT n) CAL_STAT_DEFECTS (capDefects cols)).capEnd n 5
  else if copying then s.modCal n (fun p => { p with waitOk := true, okTable := calTable cols, okDefects := capDefects cols })
  else s.writeOk n (calTable cols) (capDefects cols)

theorem State.capDone_computing {s : State} {n : Nat} (computing : (s.calPort n).phase = .computing) (fresh : (s.calPort n).waitOk = false) :
    s.capDone n = (s.capRead n).capOutcome n ((List.range (s.colours n)).map (s.deriveColour n)) (s.calPort n).copying := by
  unfold State.capDone
  extract_lets p cols s1 defects beyond run t
  rw [if_neg (by rw [show p.phase = .computing from computing, show p.waitOk = false from fresh]; decide)]
  unfold State.capOutcome beyond
  simp only [decide_eq_true_eq]
  rfl

theorem State.capRead_notes (s : State) (n : Nat) : s.Notes (s.capRead n) [RAS_BUF_CORR, RAS_IRQ_STAT] := s.calRead_notes _ _ _ _ _

theorem State.capRead_calPort (s : State) (n : Nat) : (s.capRead n).calPort n = s.calPort n := (s.capRead_notes n).only.same (fun s => s.calPort n) fun _ _ _ _ _ _ _ _ _ _ _ _ _ => rfl

theorem calRegs_quiet (n : Fin 4) {a : Nat} (h : a = CAL_DEF_LIMIT n ∨ a = CAL_CFG n ∨ a = CAL_STAT n) : a ∉ [RAS_BUF_CORR, RAS_IRQ_STAT] ∧ outletReg a = false := by
  rcases h with rfl | rfl | rfl <;> revert n <;> decide

theorem State.capRead_reg (s : State) (n : Fin 4) {a : Nat} (h : a = CAL_DEF_LIMIT n ∨ a = CAL_CFG n ∨ a = CAL_STAT n) : (s.capRead n).reg a = s.reg a :=
  (s.capRead_notes n).reg a (calRegs_quiet n h).1 (calRegs_quiet n h).2

theorem State.capRead_clean {s : State} {n : Nat} (zero : (s.calPort n).chk 0 = []) (one : (s.calPort n).chk 1 = []) : s.capRead n = s := by
  have both (b : Nat) : (s.calPort n).chk b = [] := by
    by_cases h : b = 0
    · rw [h, zero]
    · rw [CalPort.chk, if_neg h]
      exact one
  exact State.calRead_clean (both _) _ _ _

/-- A capture with too many defects, or too long a run, ends without a table (R126). -/
theorem State.capFails_shows (s : State) (n d : Nat) {result : Nat} (fits : result < 2 ^ 4) :
    ((s.setFld (CAL_STAT n) CAL_STAT_DEFECTS d).capEnd n result).fld (CAL_STAT n) CAL_STAT_RESULT = result
      ∧ ((s.setFld (CAL_STAT n) CAL_STAT_DEFECTS d).capEnd n result).calPort n = (s.calPort n).ended
      ∧ s.memSame ((s.setFld (CAL_STAT n) CAL_STAT_DEFECTS d).capEnd n result) := by
  have only : s.RegsOnly (s.setFld (CAL_STAT n) CAL_STAT_DEFECTS d) := (State.RegsOnly.refl s).setFld _ _ _
  generalize s.setFld (CAL_STAT n) CAL_STAT_DEFECTS d = w at only ⊢
  obtain ⟨res, port⟩ := w.capEnd_result n fits
  have portW : w.calPort n = s.calPort n := only.same (fun s => s.calPort n) fun _ _ => rfl
  exact ⟨res, port.trans (by rw [portW]), State.memSame_trans only.memSame (w.capEnd_shows n result).2.1⟩

theorem State.capOutcome_memSame (s : State) (n : Nat) (cols : List (List (Word × Bool))) (copying : Bool) : s.memSame (s.capOutcome n cols copying) := by
  unfold State.capOutcome
  split
  · exact (s.capFails_shows n _ (by decide)).2.2
  · split
    · exact (s.capFails_shows n _ (by decide)).2.2
    · split
      · exact State.memSame_of rfl rfl rfl rfl rfl
      · exact (s.writeOk_shows n _ _).2.2.2.2

/-! ### The end of a copy -/

/-- WORKING after a copy: what ACTIVE reads as (R129). -/
def CalPort.copied (p : CalPort) (a b : Nat) : CalPort :=
  { p.setCoded b (p.data a, (p.chk a).filter (fun e => (calWordRead (p.bank a) (p.chk a) e.1).bad)) with copying := false }

/-- The engine once the ACTIVE bank has been read and the WORKING one written. -/
def State.copyDone (s : State) (n : Nat) : State :=
  (s.calRead n (s.activeBank n) 0 (2 ^ 17) (fun _ => false)).1.modCal n (fun q =>
    { q.setCoded (s.workBank n) ((s.calPort n).data (s.activeBank n),
        ((s.calPort n).chk (s.activeBank n)).filter (fun e => (calWordRead ((s.calPort n).bank (s.activeBank n)) ((s.calPort n).chk (s.activeBank n)) e.1).bad)) with copying := false })

theorem execCalCopyDone_copying {s : State} {n : Fin 4} (released : s.sys.released = true) (copying : (s.calPort n).copying = true)
    (fresh : (s.calPort n).waitOk = false) :
    exec (.calCopyDone n) s = .next (s.keeps ((s.copyDone n).setBit (CAL_STAT n) CAL_STAT_BUSY ((s.calPort n).phase != .idle))) := by
  rw [exec, execCalCopyDone, State.onMain_keeps _ released]
  extract_lets m p a b bad t
  rw [if_neg (by rw [show p.copying = true from copying]; decide), if_neg (by rw [show p.waitOk = false from fresh]; decide)]
  rfl

theorem State.copyDone_calPort (s : State) (n : Nat) : (s.copyDone n).calPort n = (s.calPort n).copied (s.activeBank n) (s.workBank n) := by
  have port := (s.calRead_notes n (s.activeBank n) 0 (2 ^ 17) (fun _ => false)).only.same (fun s => s.calPort n) fun _ _ _ _ _ _ _ _ _ _ _ _ _ => rfl
  rw [State.copyDone, State.calPort_modCal, port]
  rfl

theorem State.copyDone_clean {s : State} {n : Nat} (clean : (s.calPort n).chk (s.activeBank n) = []) : s.memSame (s.copyDone n) ∧ (s.copyDone n).regs = s.regs := by
  rw [State.copyDone, State.calRead_clean clean]
  exact ⟨State.memSame_of rfl rfl rfl rfl rfl, rfl⟩

theorem busy_iff {s : State} {a : Nat} (b : Bool) : (s.setBit a CAL_STAT_BUSY b).on a CAL_STAT_BUSY = b := by
  cases b
  · exact State.on_setFld_zero _ _ (by decide) (by decide)
  · exact State.on_setFld_one _ _ (by decide) (by decide)

/-- Settles O24: the computation reads one bank and notes what it finds, which leaves every register and table that the result is made of; the
  derived entries have places of their own, so that each stands where it was put. -/
theorem captureResult : Obligations.CaptureResult := by
  unfold Obligations.CaptureResult
  intro s n released
  refine ⟨?_, fun copying fresh => ?_⟩
  · intro cols defects long computing fresh
    have run : exec (.calCaptureDone n) s = .next (s.keeps ((s.capRead n).capOutcome n cols (s.calPort n).copying)) := by
      rw [exec, execCalCaptureDone, State.onMain_keeps _ released, State.capDone_computing computing fresh]
    have limit : (s.capRead n).fld (CAL_DEF_LIMIT n) CAL_DEF_LIMIT_DEFECT_LIMIT = s.fld (CAL_DEF_LIMIT n) CAL_DEF_LIMIT_DEFECT_LIMIT :=
      State.fld_congr (s.capRead_reg n (.inl rfl)) _
    have run_ : (s.capRead n).capLong n cols = long := by
      unfold State.capLong
      rw [State.fld_congr (s.capRead_reg n (.inr (.inl rfl)))]
    have work : (s.capRead n).workBank n = s.workBank n := by
      rw [State.workBank, State.activeBank, State.fld_congr (s.capRead_reg n (.inr (.inr rfl)))]
      rfl
    have port := s.capRead_calPort n
    have clean : (s.calPort n).chk 0 = [] → (s.calPort n).chk 1 = [] → s.capRead n = s := State.capRead_clean
    generalize s.capRead n = w at run limit run_ work port clean
    refine ⟨_, run, fun zero one => ?_, fun many => ?_, fun few isLong => ?_, fun few short alone => ?_⟩
    · rw [clean zero one]
      exact State.memSame_keeps s _ (s.capOutcome_memSame n cols _)
    · have out : w.capOutcome n cols (s.calPort n).copying = (w.setFld (CAL_STAT n) CAL_STAT_DEFECTS (capDefects cols)).capEnd n 4 :=
        if_pos (by rw [limit]; exact many)
      obtain ⟨res, ended, -⟩ := w.capFails_shows n (capDefects cols) (result := 4) (by decide)
      rw [out]
      generalize (w.setFld (CAL_STAT n) CAL_STAT_DEFECTS (capDefects cols)).capEnd n 4 = t at res ended ⊢
      have ended' : (s.keeps t).calPort n = (s.calPort n).ended := ended.trans (by rw [port])
      rw [ended']
      exact ⟨res, rfl, rfl⟩
    · have out : w.capOutcome n cols (s.calPort n).copying = (w.setFld (CAL_STAT n) CAL_STAT_DEFECTS (capDefects cols)).capEnd n 5 :=
        (if_neg (by rw [limit]; exact Nat.not_lt.mpr few)).trans (if_pos (run_.trans isLong))
      obtain ⟨res, ended, -⟩ := w.capFails_shows n (capDefects cols) (result := 5) (by decide)
      rw [out]
      generalize (w.setFld (CAL_STAT n) CAL_STAT_DEFECTS (capDefects cols)).capEnd n 5 = t at res ended ⊢
      have ended' : (s.keeps t).calPort n = (s.calPort n).ended := ended.trans (by rw [port])
      rw [ended']
      exact ⟨res, rfl, rfl⟩
    · have out : w.capOutcome n cols (s.calPort n).copying = w.writeOk n (calTable cols) (capDefects cols) :=
        (if_neg (by rw [limit]; exact Nat.not_lt.mpr few)).trans ((if_neg (by rw [run_, short]; decide)).trans (if_neg (by rw [alone]; decide)))
      obtain ⟨res, phase, due, table, -⟩ := w.writeOk_shows n (calTable cols) (capDefects cols)
      rw [out]
      generalize w.writeOk n (calTable cols) (capDefects cols) = t at res phase due table ⊢
      refine ⟨res, phase, due, fun c i e there => ?_⟩
      have table' : ((s.keeps t).calPort n).bank (s.workBank n) = _ := work ▸ table
      rw [table']
      refine tget_calTable (fun es hes => ?_) _ there
      obtain ⟨c, -, rfl⟩ := List.mem_map.mp hes
      rw [State.deriveColour, List.length_map, List.length_range]
      exact (s.pix_lt n).le
  · have port := s.copyDone_calPort n
    have clean : (s.calPort n).chk (s.activeBank n) = [] → _ := State.copyDone_clean (s := s) (n := n)
    refine ⟨_, execCalCopyDone_copying released copying fresh, ?_⟩
    generalize s.copyDone n = w at port clean ⊢
    have only : w.RegsOnly (w.setBit (CAL_STAT n) CAL_STAT_BUSY ((s.calPort n).phase != .idle)) := (State.RegsOnly.refl w).setFld _ _ _
    have reg (a : Nat) (ne : a ≠ CAL_STAT n) : (w.setBit (CAL_STAT n) CAL_STAT_BUSY ((s.calPort n).phase != .idle)).reg a = w.reg a := State.reg_setFld_ne _ _ _ ne
    have busy := busy_iff (s := w) (a := CAL_STAT n) ((s.calPort n).phase != .idle)
    generalize w.setBit (CAL_STAT n) CAL_STAT_BUSY ((s.calPort n).phase != .idle) = t at only reg busy ⊢
    have portT : (s.keeps t).calPort n = (s.calPort n).copied (s.activeBank n) (s.workBank n) := (only.same (fun s => s.calPort n) fun _ _ => rfl).trans port
    rw [portT]
    refine ⟨CalPort.bank_setCoded _ _ _, rfl, ?_, fun none => ⟨fun a away => ?_, ?_⟩⟩
    · have busy' : (s.keeps t).calBusy n = ((s.calPort n).phase != .idle) := busy
      rw [busy', bne_iff_ne]
    · exact (reg a fun e => away (by rw [e]; exact List.mem_singleton_self _)).trans (State.reg_of_regs (clean none).2 a)
    · exact State.memSame_keeps s t (State.memSame_trans (clean none).1 only.memSame)

end Sys2Proof.Machine
end


section
/-! SUPPORT. O25: lanes, packets and missing packets of a sensor link (R57-R69, R528). -/

namespace Sys2Proof.Machine

/-! ### Counters -/

theorem State.fld_incFld (s : State) (a : Nat) {f : Fld} (n : Nat) (lo : f.lo ≤ f.hi) (hi : f.hi < 32) : (s.incFld a f n).fld a f = min (s.fld a f + n) (fmax f) := by
  refine State.fld_setFld_fits s a lo hi (lt_of_le_of_lt (min_le_right _ _) ?_)
  exact Nat.sub_lt (Nat.two_pow_pos _) Nat.one_pos

theorem State.fld_le_fmax (s : State) (a : Nat) (f : Fld) : s.fld a f ≤ fmax f := Nat.le_sub_one_of_lt (fget_lt (s.reg a) f)

/-- Counting one `m` times. -/
theorem State.incFld_times (a : Nat) {f : Fld} (lo : f.lo ≤ f.hi) (hi : f.hi < 32) : ∀ (l : List Nat) (s : State),
    s.RegsOnly (l.foldl (fun s _ => s.incFld a f) s) ∧ s.regsSame (l.foldl (fun s _ => s.incFld a f) s) [a]
      ∧ (l.foldl (fun s _ => s.incFld a f) s).fld a f = min (s.fld a f + l.length) (fmax f)
  | [], s => ⟨State.RegsOnly.refl s, fun _ _ => rfl, (min_eq_left (s.fld_le_fmax a f)).symm⟩
  | x :: l, s => by
    obtain ⟨only, reg, count⟩ := State.incFld_times a lo hi l (s.incFld a f)
    rw [List.foldl_cons]
    refine ⟨((State.RegsOnly.refl s).incFld a f 1).trans only, fun b away => (reg b away).trans ?_, ?_⟩
    · exact State.reg_setFld_ne s _ _ fun e => away (List.mem_singleton.mpr e)
    · rw [count, s.fld_incFld a 1 lo hi, List.length_cons]
      omega

/-! ### Lanes -/

theorem State.linPort_modLin (s : State) (n : Nat) (f : LinPort → LinPort) : (s.modLin n f).linPort n = f (s.linPort n) := tget_tput_same ..

theorem State.lane_setLane (s : State) (n k : Nat) (l : LaneSt) : (s.setLane n k l).lane n k = l := by
  have port : (s.setLane n k l).linPort n = { s.linPort n with lanes := tput (s.linPort n).lanes k l } :=
    s.linPort_modLin n fun p => { p with lanes := tput p.lanes k l }
  rw [State.lane, port]
  exact tget_tput_same ..

theorem State.setLane_shows (s : State) (n k : Nat) (l : LaneSt) : s.regsSame (s.setLane n k l) [LIN_LINK_STAT n] ∧ s.memSame (s.setLane n k l)
    ∧ s.keeps (s.setLane n k l) = s.setLane n k l :=
  ⟨fun _ away => State.reg_setFld_ne (s.modLin n _) _ _ fun e => away (List.mem_singleton.mpr e), State.memSame_of rfl rfl rfl rfl rfl, rfl⟩

theorem linLink_apart (n : Nat) : LIN_PORT_STAT n ≠ LIN_LINK_STAT n ∧ LIN_PORT_STAT n ≠ LIN_LINK_ERR n ∧ LIN_PORT_STAT n ≠ LIN_IRQ_STAT n ∧ LIN_LINK_ERR n ≠ LIN_IRQ_STAT n
    ∧ LIN_LINK_ERR n ≠ LIN_LINK_STAT n ∧ LIN_LINK_STAT n ≠ LIN_PORT_STAT n := by
  simp only [LIN_PORT_STAT, LIN_LINK_STAT, LIN_LINK_ERR, LIN_IRQ_STAT]
  omega

/-- A lane that has lost its lock takes the link down (R67, R69). -/
def State.lockLost (s : State) (n k : Nat) : State :=
  (((s.setLane n k { locked := false, clean := s.tb, errors := [] }).setFld (LIN_PORT_STAT n) LIN_PORT_STAT_LINK_UP 0).incFld (LIN_LINK_ERR n) LIN_LINK_ERR_RELOCK_CNT).raise
    (LIN_IRQ_STAT n) 0

theorem State.lockLost_shows (s : State) (n k : Nat) : ((s.lockLost n k).lane n k).locked = false ∧ (s.lockLost n k).on (LIN_PORT_STAT n) LIN_PORT_STAT_LINK_UP = false
    ∧ (s.lockLost n k).fld (LIN_LINK_ERR n) LIN_LINK_ERR_RELOCK_CNT = min (s.fld (LIN_LINK_ERR n) LIN_LINK_ERR_RELOCK_CNT + 1) (fmax LIN_LINK_ERR_RELOCK_CNT)
    ∧ bit ((s.lockLost n k).num (LIN_IRQ_STAT n)) 0 = true
    ∧ s.regsSame (s.lockLost n k) [LIN_PORT_STAT n, LIN_LINK_STAT n, LIN_LINK_ERR n, LIN_IRQ_STAT n] ∧ s.memSame (s.lockLost n k) := by
  obtain ⟨statLink, statErr, statIrq, errIrq, errLink, -⟩ := linLink_apart n
  unfold State.lockLost
  have lane := s.lane_setLane n k { locked := false, clean := s.tb, errors := [] }
  obtain ⟨regU, memU, -⟩ := s.setLane_shows n k { locked := false, clean := s.tb, errors := [] }
  generalize s.setLane n k { locked := false, clean := s.tb, errors := [] } = u at lane regU memU ⊢
  have down := State.on_setFld_zero u (LIN_PORT_STAT n) (f := LIN_PORT_STAT_LINK_UP) (by decide) (by decide)
  have regV (a : Nat) (ne : a ≠ LIN_PORT_STAT n) : (u.setFld (LIN_PORT_STAT n) LIN_PORT_STAT_LINK_UP 0).reg a = u.reg a := State.reg_setFld_ne u _ _ ne
  have onlyV : u.RegsOnly (u.setFld (LIN_PORT_STAT n) LIN_PORT_STAT_LINK_UP 0) := (State.RegsOnly.refl u).setFld _ _ _
  generalize u.setFld (LIN_PORT_STAT n) LIN_PORT_STAT_LINK_UP 0 = v at down regV onlyV ⊢
  have count := v.fld_incFld (LIN_LINK_ERR n) (f := LIN_LINK_ERR_RELOCK_CNT) 1 (by decide) (by decide)
  have regW (a : Nat) (ne : a ≠ LIN_LINK_ERR n) : (v.incFld (LIN_LINK_ERR n) LIN_LINK_ERR_RELOCK_CNT).reg a = v.reg a := State.reg_setFld_ne v _ _ ne
  have onlyW : u.RegsOnly (v.incFld (LIN_LINK_ERR n) LIN_LINK_ERR_RELOCK_CNT) := onlyV.incFld _ _ _
  generalize v.incFld (LIN_LINK_ERR n) LIN_LINK_ERR_RELOCK_CNT = w at count regW onlyW ⊢
  refine ⟨?_, ?_, ?_, State.bit_raise w _ (by decide), fun a away => ?_, ?_⟩
  · rw [State.raise_eq]
    exact congrArg LaneSt.locked ((onlyW.same (fun s => s.lane n k) fun _ _ => rfl).trans lane)
  · rw [State.on_congr (State.reg_raise_ne w 0 statIrq), State.on_congr (regW _ statErr), down]
  · rw [State.fld_congr (State.reg_raise_ne w 0 errIrq), count, State.fld_congr (regV _ statErr.symm),
      State.fld_congr (regU _ (by rw [List.mem_singleton]; exact errLink))]
  · simp only [List.mem_cons, List.not_mem_nil, or_false, not_or] at away
    obtain ⟨stat, link, err, irq⟩ := away
    rw [State.reg_raise_ne w 0 irq, regW a err, regV a stat, regU a (by rw [List.mem_singleton]; exact link)]
  · rw [State.raise_eq]
    exact State.memSame_trans (State.memSame_trans memU onlyW.memSame) (State.memSame_of rfl rfl rfl rfl rfl)

theorem execLaneLockLoss_lost {s : State} {n : Fin 4} {k : Fin 8} (released : s.sys.released = true) (used : s.laneUsed n k = true)
    (locked : (s.lane n k).locked = true) (errors : 16 ≤ (s.recentErrors n (s.lane n k)).length) : exec (.laneLockLoss n k) s = .next (s.keeps (s.lockLost n k)) := by
  rw [exec, execLaneLockLoss, State.onMain_keeps _ released]
  dsimp only
  rw [if_pos (by rw [used, locked, decide_eq_true errors]; rfl)]
  rfl

theorem execLaneLockLoss_few {s : State} {n : Fin 4} {k : Fin 8} (released : s.sys.released = true) (few : (s.recentErrors n (s.lane n k)).length < 16) :
    exec (.laneLockLoss n k) s = .next s := by
  rw [exec, execLaneLockLoss, State.onMain_keeps _ released]
  dsimp only
  rw [if_neg (by rw [decide_eq_false (by omega), Bool.and_false]; decide)]
  rfl

/-- ALIGN keeps the largest skew and brings the link up within 4 block times (R68). -/
def State.alignedBy (s : State) (n skew : Nat) : State :=
  if skew ≤ 4 then (s.setFld (LIN_LINK_STAT n) LIN_LINK_STAT_SKEW (min 7 (max (s.fld (LIN_LINK_STAT n) LIN_LINK_STAT_SKEW) skew))).setFld (LIN_PORT_STAT n) LIN_PORT_STAT_LINK_UP 1
  else s.setFld (LIN_LINK_STAT n) LIN_LINK_STAT_SKEW (min 7 (max (s.fld (LIN_LINK_STAT n) LIN_LINK_STAT_SKEW) skew))

theorem execAlign_locked {s : State} {n : Fin 4} {skew : Nat} (released : s.sys.released = true) (running : s.linOn n = true) (locked : s.allLocked n = true) :
    exec (.align n skew) s = .next (s.alignedBy n skew) := by
  rw [exec, execAlign, State.onMain_keeps _ released]
  dsimp only
  rw [if_pos (by rw [running, locked]; rfl)]
  by_cases close : skew ≤ 4
  · rw [State.alignedBy, if_pos close]
    rfl
  · rw [State.alignedBy, if_neg close]
    rfl

theorem State.alignedBy_shows (s : State) (n skew : Nat) :
    (s.alignedBy n skew).fld (LIN_LINK_STAT n) LIN_LINK_STAT_SKEW = min 7 (max (s.fld (LIN_LINK_STAT n) LIN_LINK_STAT_SKEW) skew)
    ∧ (skew ≤ 4 → (s.alignedBy n skew).on (LIN_PORT_STAT n) LIN_PORT_STAT_LINK_UP = true)
    ∧ (4 < skew → (s.alignedBy n skew).on (LIN_PORT_STAT n) LIN_PORT_STAT_LINK_UP = s.on (LIN_PORT_STAT n) LIN_PORT_STAT_LINK_UP)
    ∧ s.regsSame (s.alignedBy n skew) [LIN_LINK_STAT n, LIN_PORT_STAT n] ∧ s.RegsOnly (s.alignedBy n skew) := by
  obtain ⟨statLink, -, -, -, -, linkStat⟩ := linLink_apart n
  unfold State.alignedBy
  have kept := State.fld_setFld_fits s (LIN_LINK_STAT n) (f := LIN_LINK_STAT_SKEW) (v := min 7 (max (s.fld (LIN_LINK_STAT n) LIN_LINK_STAT_SKEW) skew)) (by decide) (by decide)
    (lt_of_le_of_lt (min_le_left _ _) (by decide))
  have only : s.RegsOnly (s.setFld (LIN_LINK_STAT n) LIN_LINK_STAT_SKEW (min 7 (max (s.fld (LIN_LINK_STAT n) LIN_LINK_STAT_SKEW) skew))) := (State.RegsOnly.refl s).setFld _ _ _
  have reg (a : Nat) (ne : a ≠ LIN_LINK_STAT n) :
      (s.setFld (LIN_LINK_STAT n) LIN_LINK_STAT_SKEW (min 7 (max (s.fld (LIN_LINK_STAT n) LIN_LINK_STAT_SKEW) skew))).reg a = s.reg a := State.reg_setFld_ne s _ _ ne
  generalize s.setFld (LIN_LINK_STAT n) LIN_LINK_STAT_SKEW (min 7 (max (s.fld (LIN_LINK_STAT n) LIN_LINK_STAT_SKEW) skew)) = u at kept only reg ⊢
  split
  next close =>
    refine ⟨?_, fun _ => State.on_setFld_one u _ (by decide) (by decide), fun far => absurd close (by omega), fun a away => ?_, only.setFld _ _ _⟩
    · rw [State.fld_congr (State.reg_setFld_ne u _ _ linkStat), kept]
    · simp only [List.mem_cons, List.not_mem_nil, or_false, not_or] at away
      rw [State.reg_setFld_ne u _ _ away.2, reg a away.1]
  next far =>
    refine ⟨kept, fun close => absurd close far, fun _ => State.on_congr (reg _ statLink) _, fun a away => reg a ?_, only⟩
    simp only [List.mem_cons, List.not_mem_nil, or_false, not_or] at away
    exact away.1

/-! ### Planes -/

/-- The packet of a plane that is put into a line. -/
def LinPort.plane (p : LinPort) (l : LineRec) (k : Nat) (good : Bool) (px : List Nat) (aux : List Byte) (sat slip : Bool) : PktPlane :=
  { colour := expectColour l.colour k, pixels := if good then px else p.repair l (expectColour l.colour k), aux := aux, repaired := !good, sat := sat, slip := slip }

/-- The port with the plane in its line. -/
def LinPort.withPlane (p : LinPort) (i k : Nat) (l : LineRec) (good : Bool) (px : List Nat) (x : PktPlane) : LinPort :=
  { p.place i k x with lastGood := if good then tput p.lastGood (expectColour l.colour k) (l.side.getD 0, px) else p.lastGood }

theorem LinPort.lines_withPlane {p : LinPort} {i k : Nat} {l : LineRec} (there : p.lines[i]? = some l) (good : Bool) (px : List Nat) (x : PktPlane) :
    (p.withPlane i k l good px x).lines[i]? = some { l with planes := tput l.planes k x } := by
  have lines : (p.withPlane i k l good px x).lines = p.lines.modify i (fun l => { l with planes := tput l.planes k x }) := rfl
  rw [lines, List.getElem?_modify, there]
  exact congrArg some (if_pos rfl)

/-- The tap sees every plane of a line that is no flush exposure (R98, R139). -/
theorem State.putPlane_eq (s : State) (n i k : Nat) {l : LineRec} (shown : l.flush = false) (good : Bool) (px : List Nat) (aux : List Byte) (sat slip : Bool) :
    s.putPlane n i k l good px aux sat slip
      = (let u := s.modLin n (fun p => p.withPlane i k l good px ((s.linPort n).plane l k good px aux sat slip))
         if good then u else (u.incFld (LIN_LINK_ERR n) LIN_LINK_ERR_BAD_LINE_CNT).raise (LIN_IRQ_STAT n) 1,
        some { port := n, stamp := l.stamp, plane := k, good := good, px := px }) := by
  unfold State.putPlane
  extract_lets code
  rw [if_neg (by rw [shown]; decide)]
  rfl

/-! ### The line buffer -/

theorem State.readBuffer_clean {s : State} {px : List Byte} {u : List (Nat × List Byte)} (clean : (lineBuffer px u).2.1 = []) :
    s.readBuffer px u = ((List.range (lineBuffer px u).1).foldl (fun s _ => s.incFld RAS_BUF_CORR RAS_BUF_CORR_BUF_CORR) s, some (lineBuffer px u).2.2) := by
  unfold State.readBuffer
  extract_lets x t
  rw [show x.2.1 = [] from clean]
  rfl

theorem State.readBuffer_bad {s : State} {px : List Byte} {u : List (Nat × List Byte)} (bad : (lineBuffer px u).2.1 ≠ []) : (s.readBuffer px u).2 = none := by
  unfold State.readBuffer
  extract_lets x t
  exact if_neg fun empty => bad (List.isEmpty_iff.mp empty)

/-! ### Packets -/

/-- The packet's line number is not the one that was due (R64). -/
def LinPort.slips (p : LinPort) (no : Nat) : Bool :=
  match p.snsNext with
  | some e => e != no
  | none => false

/-- The state once the packet's line number has been taken (R64). -/
def State.numbered (s : State) (n no : Nat) : State :=
  let u := s.modLin n (fun p => { p with snsNext := some ((no + 1) % 2 ^ 32) })
  if (s.linPort n).slips no then u.incFld (LIN_LINK_ERR n) LIN_LINK_ERR_SEQ_SLIP_CNT else u

theorem State.numbered_shows (s : State) (n no : Nat) : s.numbered n no = { s with regs := (s.numbered n no).regs, lin := (s.numbered n no).lin }
    ∧ (s.numbered n no).linPort n = { s.linPort n with snsNext := some ((no + 1) % 2 ^ 32) } ∧ s.regsSame (s.numbered n no) [LIN_LINK_ERR n] := by
  unfold State.numbered
  extract_lets u
  have port : u.linPort n = { s.linPort n with snsNext := some ((no + 1) % 2 ^ 32) } := s.linPort_modLin n _
  have whole : u = { s with regs := u.regs, lin := u.lin } := rfl
  have regs : u.regs = s.regs := rfl
  clear_value u
  split
  · have only : u.RegsOnly (u.incFld (LIN_LINK_ERR n) LIN_LINK_ERR_SEQ_SLIP_CNT) := (State.RegsOnly.refl u).incFld _ _ _
    refine ⟨?_, (only.same (fun s => s.linPort n) fun _ _ => rfl).trans port, fun a away => ?_⟩
    · rw [only, whole]
    · exact (State.reg_setFld_ne u _ _ fun e => away (List.mem_singleton.mpr e)).trans (State.reg_of_regs regs a)
  · exact ⟨whole, port, fun a _ => State.reg_of_regs regs a⟩

/-- A whole packet that fits its line: its plane is put as the line buffer delivers it, and the tap sees its pixels as they came (R60-R66, R139, R528). -/
theorem State.packet_fits {s : State} {n i k blocks : Nat} {l : LineRec} {st : List Byte} (u : List (Nat × List Byte)) (there : (s.linPort n).lines[i]? = some l)
    (shown : l.flush = false) (up : s.on (LIN_PORT_STAT n) LIN_PORT_STAT_LINK_UP = true) (ans : (s.linPort n).answers (s.tb - (blocks + 1) * s.blockPs n / 1000) = some (i, k))
    (crc : pktCrcOk l.pix st = true) (magic : leAt st 0 2 = 0x5A3C) (pix : leAt st 4 2 = l.pix) (colour : leAt st 2 1 / 64 = expectColour l.colour k)
    (whole : blocks = pktBlocks l.pix l.lanes) :
    (s.packet n st blocks u).2 = some { port := n, stamp := l.stamp, plane := k, good := true, px := unpack12 ((st.drop 32).take (3 * l.pix / 2)) }
    ∧ (s.packet n st blocks u).1 =
      (let raw := (st.drop 32).take (3 * l.pix / 2)
       let r := (s.numbered n (leAt st 8 4)).readBuffer raw u
       (r.1.putPlane n i k l r.2.isSome (unpack12 (r.2.getD raw)) ((st.drop 16).take 16) (r.2.isSome && bit (leAt st 3 1) 0) ((s.linPort n).slips (leAt st 8 4))).1) := by
  have numbered : (s.packet n st blocks u) =
      (let raw := (st.drop 32).take (3 * l.pix / 2)
       let r := (s.numbered n (leAt st 8 4)).readBuffer raw u
       let x := r.1.putPlane n i k l r.2.isSome (unpack12 (r.2.getD raw)) ((st.drop 16).take 16) (r.2.isSome && bit (leAt st 3 1) 0) ((s.linPort n).slips (leAt st 8 4))
       (x.1, x.2.map (fun x => { x with good := true, px := unpack12 raw }))) := by
    unfold State.packet
    dsimp only
    rw [ans]
    dsimp only
    rw [there]
    dsimp only
    rw [if_neg (by rw [up]; decide), crc, magic, pix, colour, ← whole]
    simp only [beq_self_eq_true, Bool.and_self, Bool.true_and, if_true]
    rfl
  rw [numbered]
  refine ⟨?_, rfl⟩
  dsimp only
  rw [State.putPlane_eq _ _ _ _ shown]
  rfl

/-- A command of intake that hands a packet on to the tap. -/
theorem State.onIntake_tap {s : State} {f : State → State × Option TapIn} {x : TapIn} (released : s.sys.released = true) (tap : (f s).2 = some x) :
    s.onIntake f Met.takeTap = .next { (f s).1 with pending := s.pending, met := s.met.takeTap x } := by
  rw [State.onIntake, if_pos released, tap]
  rfl

theorem execSensorPacket_fits {s : State} {n : Fin 4} {blocks : Nat} {st : List Byte} {u : List (Nat × List Byte)} {x : TapIn}
    (released : s.sys.released = true) (tap : (s.packet n st blocks u).2 = some x) :
    exec (.sensorPacket n st blocks u) s = .next { (s.packet n st blocks u).1 with pending := s.pending, met := s.met.takeTap x } := by
  rw [exec, execSensorPacket]
  exact State.onIntake_tap (f := fun s => s.packet n.val st blocks u) released tap

theorem execPacketMissing_late {s : State} {n : Fin 4} {i k : Nat} {l : LineRec} (released : s.sys.released = true) (waits : (s.linPort n).waits.head? = some (i, k))
    (there : (s.linPort n).lines[i]? = some l) (late : l.startTb + l.seqNs + 4000 ≤ s.tb) (shown : l.flush = false) :
    exec (.packetMissing n) s = .next { (s.putPlane n i k l false [] [] false false).1 with
      pending := s.pending, met := s.met.takeTap { port := n, stamp := l.stamp, plane := k, good := false, px := [] } } := by
  rw [exec, execPacketMissing, State.onIntake, if_pos released]
  dsimp only
  rw [waits]
  dsimp only
  rw [there]
  dsimp only
  rw [if_pos late, State.putPlane_eq _ _ _ _ shown]
  rfl

/-- A good plane changes its port's lines alone. -/
theorem State.putPlane_good (s : State) (n i k : Nat) {l : LineRec} (shown : l.flush = false) (there : (s.linPort n).lines[i]? = some l) (px : List Nat) (aux : List Byte)
    (sat slip : Bool) :
    let t := (s.putPlane n i k l true px aux sat slip).1
    (t.linPort n).lines[i]? = some { l with planes := tput l.planes k { colour := expectColour l.colour k, pixels := px, aux := aux, repaired := false, sat := sat, slip := slip } }
      ∧ (t.linPort n).snsNext = (s.linPort n).snsNext ∧ t.regs = s.regs ∧ s.memSame t := by
  intro t
  have put : t = s.modLin n (fun p => p.withPlane i k l true px ((s.linPort n).plane l k true px aux sat slip)) :=
    congrArg Prod.fst (s.putPlane_eq n i k shown true px aux sat slip)
  have port : t.linPort n = (s.linPort n).withPlane i k l true px ((s.linPort n).plane l k true px aux sat slip) := by
    rw [put]
    exact s.linPort_modLin n _
  rw [port]
  refine ⟨LinPort.lines_withPlane there true px _, rfl, ?_, ?_⟩
  · rw [put]
    rfl
  · rw [put]
    exact State.memSame_of rfl rfl rfl rfl rfl

/-- A bad or missing plane is repaired, counted and raised (R66). -/
theorem State.putPlane_bad (s : State) (n i k : Nat) {l : LineRec} (shown : l.flush = false) (there : (s.linPort n).lines[i]? = some l) (px : List Nat) (aux : List Byte)
    (sat slip : Bool) :
    let t := (s.putPlane n i k l false px aux sat slip).1
    (t.linPort n).lines[i]? = some { l with planes := tput l.planes k ((s.linPort n).plane l k false px aux sat slip) }
      ∧ t.fld (LIN_LINK_ERR n) LIN_LINK_ERR_BAD_LINE_CNT = min (s.fld (LIN_LINK_ERR n) LIN_LINK_ERR_BAD_LINE_CNT + 1) (fmax LIN_LINK_ERR_BAD_LINE_CNT)
      ∧ bit (t.num (LIN_IRQ_STAT n)) 1 = true ∧ s.regsSame t [LIN_LINK_ERR n, LIN_IRQ_STAT n] ∧ s.memSame t := by
  intro t
  obtain ⟨-, -, -, errIrq, -, -⟩ := linLink_apart n
  obtain ⟨u, hu⟩ : ∃ u, u = s.modLin n (fun p => p.withPlane i k l false px ((s.linPort n).plane l k false px aux sat slip)) := ⟨_, rfl⟩
  have put : t = (u.incFld (LIN_LINK_ERR n) LIN_LINK_ERR_BAD_LINE_CNT).raise (LIN_IRQ_STAT n) 1 := by
    rw [hu]
    exact congrArg Prod.fst (s.putPlane_eq n i k shown false px aux sat slip)
  have port : u.linPort n = (s.linPort n).withPlane i k l false px ((s.linPort n).plane l k false px aux sat slip) := by
    rw [hu]
    exact s.linPort_modLin n _
  have regs : u.regs = s.regs := by
    rw [hu]
    rfl
  have mem : s.memSame u := by
    rw [hu]
    exact State.memSame_of rfl rfl rfl rfl rfl
  clear_value t
  clear hu
  have count := u.fld_incFld (LIN_LINK_ERR n) (f := LIN_LINK_ERR_BAD_LINE_CNT) 1 (by decide) (by decide)
  have only : u.RegsOnly (u.incFld (LIN_LINK_ERR n) LIN_LINK_ERR_BAD_LINE_CNT) := (State.RegsOnly.refl u).incFld _ _ _
  have reg (a : Nat) (ne : a ≠ LIN_LINK_ERR n) : (u.incFld (LIN_LINK_ERR n) LIN_LINK_ERR_BAD_LINE_CNT).reg a = u.reg a := State.reg_setFld_ne u _ _ ne
  generalize u.incFld (LIN_LINK_ERR n) LIN_LINK_ERR_BAD_LINE_CNT = w at put count only reg
  rw [put]
  refine ⟨?_, ?_, State.bit_raise w _ (by decide), fun a away => ?_, ?_⟩
  · rw [State.raise_eq]
    exact (congrArg (fun p : LinPort => p.lines[i]?) ((only.same (fun s => s.linPort n) fun _ _ => rfl).trans port)).trans (LinPort.lines_withPlane there false px _)
  · rw [State.fld_congr (State.reg_raise_ne w 1 errIrq), count, State.fld_congr (State.reg_of_regs regs _)]
  · simp only [List.mem_cons, List.not_mem_nil, or_false, not_or] at away
    rw [State.reg_raise_ne w 1 away.2, reg a away.1, State.reg_of_regs regs]
  · rw [State.raise_eq]
    exact State.memSame_trans (State.memSame_trans mem only.memSame) (State.memSame_of rfl rfl rfl rfl rfl)

theorem linLinkErr_ne_bufCorr (n : Fin 4) : LIN_LINK_ERR n ≠ RAS_BUF_CORR := by
  revert n
  decide

/-- Settles O25: the lane commands write one lane and its port's link registers; a packet that fits takes the way through the line buffer, whose
  corrections are counted one by one, into the line that its gate pulse belongs to. -/
theorem sensorLinks : Obligations.SensorLinks := by
  unfold Obligations.SensorLinks
  refine ⟨fun s n k skew released => ⟨fun used => ⟨?_, ?_⟩, fun used seeks clean => ?_, fun soon => ?_, fun used locked errors => ?_, ?_, fun running locked => ?_⟩,
    fun s n i k l released there shown => ⟨fun st blocks u up ans crc magic pix colour whole => ?_, fun waits late => ?_⟩⟩
  · rw [exec, execSyncError, State.onMain_keeps _ released]
    dsimp only
    rw [if_pos used]
    rfl
  · rw [exec, execSyncError, State.onMain_keeps _ released]
    dsimp only
    rw [if_pos used]
    rfl
  · rw [exec, execLaneLock, State.onMain_keeps _ released]
    dsimp only
    rw [if_pos (by rw [used, seeks, decide_eq_true clean]; rfl)]
    rfl
  · rw [exec, execLaneLock, State.onMain_keeps _ released]
    dsimp only
    rw [if_neg (by rw [decide_eq_false (Nat.not_le.mpr soon), Bool.and_false]; decide)]
    rfl
  · obtain ⟨lane, down, count, bit, reg, mem⟩ := s.lockLost_shows n k
    refine ⟨_, execLaneLockLoss_lost released used locked errors, ?_⟩
    generalize s.lockLost n k = t at lane down count bit reg mem ⊢
    exact ⟨lane, down, count, bit, reg, State.memSame_keeps s t mem⟩
  · exact execLaneLockLoss_few released
  · obtain ⟨kept, up, same, reg, only⟩ := s.alignedBy_shows n skew
    exact ⟨_, execAlign_locked released running locked, kept, up, same, reg, only⟩
  · intro raw b
    obtain ⟨tap, run⟩ := State.packet_fits u there shown up ans crc magic pix colour whole
    obtain ⟨whole_, port, reg⟩ := s.numbered_shows n (leAt st 8 4)
    refine ⟨_, execSensorPacket_fits released tap, rfl, fun clean => ?_, ?_, fun bad => ?_⟩
    · obtain ⟨only, same, count⟩ := State.incFld_times RAS_BUF_CORR (f := RAS_BUF_CORR_BUF_CORR) (by decide) (by decide) (List.range b.1) (s.numbered n (leAt st 8 4))
      have read := State.readBuffer_clean (s := s.numbered n (leAt st 8 4)) clean
      change (s.numbered n (leAt st 8 4)).readBuffer raw u = ((List.range b.1).foldl _ _, some b.2.2) at read
      dsimp only at run
      rw [show (st.drop 32).take (3 * l.pix / 2) = raw from rfl, read] at run
      generalize (List.range b.1).foldl (fun s _ => s.incFld RAS_BUF_CORR RAS_BUF_CORR_BUF_CORR) (s.numbered n (leAt st 8 4)) = w at run only same count
      have portW : w.linPort n = _ := (only.same (fun s => s.linPort n) fun _ _ => rfl).trans port
      have memW : s.memSame w := by
        refine State.memSame_trans ?_ only.memSame
        rw [whole_]
        exact State.memSame_of rfl rfl rfl rfl rfl
      obtain ⟨lines, next, regs, mem⟩ := w.putPlane_good n i k shown (by rw [portW]; exact there) (unpack12 b.2.2) ((st.drop 16).take 16) (bit (leAt st 3 1) 0)
        ((s.linPort n).slips (leAt st 8 4))
      change (s.packet n st blocks u).1 = (w.putPlane n i k l true (unpack12 b.2.2) ((st.drop 16).take 16) (bit (leAt st 3 1) 0) ((s.linPort n).slips (leAt st 8 4))).1 at run
      rw [run]
      generalize (w.putPlane n i k l true (unpack12 b.2.2) ((st.drop 16).take 16) (bit (leAt st 3 1) 0) ((s.linPort n).slips (leAt st 8 4))).1 = t at lines next regs mem ⊢
      refine ⟨_, lines, rfl, rfl, rfl, rfl, rfl, ?_, fun a away => ?_, ?_, ?_⟩
      · exact next.trans (by rw [portW])
      · simp only [List.mem_cons, List.not_mem_nil, or_false, not_or] at away
        obtain ⟨err, corr⟩ := away
        exact (State.reg_of_regs regs a).trans ((same a (by rw [List.mem_singleton]; exact corr)).trans (reg a (by rw [List.mem_singleton]; exact err)))
      · exact State.memSame_trans (State.memSame_trans memW mem) (State.memSame_of rfl rfl rfl rfl rfl)
      · have counted := (State.fld_congr (State.reg_of_regs regs RAS_BUF_CORR) RAS_BUF_CORR_BUF_CORR).trans count
        rw [List.length_range, State.fld_congr (reg _ (by rw [List.mem_singleton]; exact (linLinkErr_ne_bufCorr n).symm))] at counted
        exact counted
    · rintro rfl
      rfl
    · have none_ := State.readBuffer_bad (s := s.numbered n (leAt st 8 4)) bad
      refine ⟨_, (s.linPort n).slips (leAt st 8 4), whole_, reg, ?_⟩
      rw [run]
      dsimp only
      rw [show (st.drop 32).take (3 * l.pix / 2) = raw from rfl, none_]
      rfl
  · obtain ⟨lines, count, bit, reg, mem⟩ := s.putPlane_bad n i k shown there [] [] false false
    refine ⟨_, (s.linPort n).plane l k false [] [] false false, execPacketMissing_late released waits there late shown, ?_⟩
    generalize (s.putPlane n i k l false [] [] false false).1 = t at lines count bit reg mem ⊢
    exact ⟨lines, rfl, rfl, rfl, count, bit, reg, State.memSame_trans mem (State.memSame_of rfl rfl rfl rfl rfl)⟩

end Sys2Proof.Machine
end


section
/-! SUPPORT. O27: the start of a line and of a flush exposure (R82, R85, R87, R89, R96). -/

namespace Sys2Proof.Machine

/-- A boundary of fields changes registers and what waits for them (R11). -/
theorem State.applyShadow_only (s : State) (e : Eff) (p : Nat → Bool) :
    s.applyShadow e p = { s with regs := (s.applyShadow e p).regs, shadow := (s.applyShadow e p).shadow } := by
  rw [State.applyShadow_eq]
  refine List.foldlRecOn (motive := fun t : State => t = { s with regs := t.regs, shadow := t.shadow }) _ _ rfl ?_
  intro t only x _
  rcases t.takeShadow_cases e p x with eq | ⟨-, d, i, j, -, eq⟩
  · rw [eq]
    exact only
  · rw [eq]
    generalize copyFields (d.ofEff e) x.2 (t.reg x.1) = w
    rw [only]
    rfl

/-- An estimate of a deadline writes its item's entry (R33). -/
theorem State.estimate_only (s : State) (i : Nat) (p : Piece) : s.estimate i p = { s with items := (s.estimate i p).items } := by
  unfold State.estimate
  split
  · rfl
  · extract_lets e still put
    have entry (d : Nat) : put d = { s with items := (put d).items } := rfl
    clear_value put
    split
    · exact entry _
    · split
      · rfl
      · exact entry _

theorem State.estimates_only (l : List (Nat × Piece)) (s : State) :
    l.foldl (fun s p => s.estimate p.1 p.2) s = { s with items := (l.foldl (fun s p => s.estimate p.1 p.2) s).items } := by
  refine List.foldlRecOn (motive := fun t : State => t = { s with items := t.items }) _ _ rfl ?_
  intro t only x _
  rw [t.estimate_only]
  generalize (t.estimate x.1 x.2).items = w
  rw [only]

/-- A started line joins the lines under way, with the stamp of now and no plane yet (R85, R96). -/
theorem State.startLine_shows (s : State) (n : Nat) : ∃ l : LineRec, ((s.startLine n).linPort n).lines = (s.linPort n).lines ++ [l] ∧ l.stamp = s.now ∧ l.startTb = s.tb
    ∧ l.flush = false ∧ l.planes = [] ∧ ((s.startLine n).linPort n).waiting = false ∧ s.memSame (s.startLine n) := by
  unfold State.startLine
  have only := s.applyShadow_only .line (lineScope n)
  generalize s.applyShadow .line (lineScope n) = u at only ⊢
  extract_lets dark on lamps x p c active side l v w
  have port : v.linPort n = { u.linPort n with
      waiting := false, resume := false, gap := false, skip := false, lines := (u.linPort n).lines ++ [l], expo := some x
      busyUntil := u.tb + max (u.num (LIN_LINE_MIN n)) x.seqNs, lastFlush := u.tb } := u.linPort_modLin n _
  have memV : u.memSame v := State.memSame_of rfl rfl rfl rfl rfl
  have onlyW : v.RegsOnly w := (State.RegsOnly.refl v).setFld _ _ _
  have stamp : l.stamp = u.now := rfl
  have start : l.startTb = u.tb := rfl
  have shown : l.flush = false := rfl
  have empty : l.planes = [] := rfl
  clear_value w v l
  have last := State.estimates_only (w.pieces.filter (fun p => !p.2.image && !p.2.takenOver && p.2.port == n && !p.2.recorded)) w
  generalize (w.pieces.filter (fun p => !p.2.image && !p.2.takenOver && p.2.port == n && !p.2.recorded)).foldl (fun s p => s.estimate p.1 p.2) w = t at last ⊢
  have portT : t.linPort n = v.linPort n := by
    rw [last]
    exact onlyW.same (fun s => s.linPort n) fun _ _ => rfl
  have before : u.linPort n = s.linPort n ∧ u.now = s.now ∧ u.tb = s.tb ∧ s.memSame u := by
    rw [only]
    exact ⟨rfl, rfl, rfl, State.memSame_of rfl rfl rfl rfl rfl⟩
  obtain ⟨portU, now, tb, memU⟩ := before
  refine ⟨l, ?_, stamp.trans now, start.trans tb, shown, empty, ?_, ?_⟩
  · rw [portT, port, ← portU]
  · rw [portT, port]
  · have memT : w.memSame t := by
      rw [last]
      exact State.memSame_of rfl rfl rfl rfl rfl
    exact State.memSame_trans memU (State.memSame_trans memV (State.memSame_trans onlyW.memSame memT))

/-- The line record and the exposure of a flush: every lamp is off (R87). -/
def State.flushExpo (s : State) (n : Nat) : Expo := s.exposure n (List.replicate (s.colours n) 0)

def State.flushLine (s : State) (n : Nat) : LineRec :=
  { (default : LineRec) with
    seqNs := (s.flushExpo n).seqNs, slotNs := (s.flushExpo n).slot, gateNs := (s.flushExpo n).lead + (s.flushExpo n).exp, lanes := s.lanes n, blockPs := s.blockPs n
    stamp := s.now, startTb := s.tb, colour := s.colours n == 3, pix := s.pix n, flush := true }

/-- The port once a flush exposure has begun. -/
def State.flushing (s : State) (n : Nat) : LinPort :=
  { s.linPort n with
    gap := true, lastFlush := s.tb, expo := some (s.flushExpo n), lines := (s.linPort n).lines ++ [s.flushLine n]
    busyUntil := max (s.linPort n).busyUntil (s.tb + (s.flushExpo n).seqNs) }

theorem execFlushExposure_due {s : State} {n : Fin 4} (released : s.sys.released = true) (running : s.linOn n = true)
    (due : (s.linPort n).lastFlush + 10000000 ≤ s.tb) (idle : (s.linPort n).busyUntil ≤ s.tb) :
    exec (.flushExposure n) s = .next { s with lin := tput s.lin n (s.flushing n) } := by
  rw [exec, execFlushExposure, State.onMain_keeps _ released]
  dsimp only
  rw [if_pos (by rw [running, decide_eq_true due, decide_eq_true idle]; rfl)]
  rfl

/-- Settles O27: a line that starts passes through the boundary of its LINE fields, joins the lines under way, and moves deadlines; a flush exposure
  joins them with every lamp off. -/
theorem linesStart : Obligations.LinesStart := by
  unfold Obligations.LinesStart
  intro s n released running
  refine ⟨fun p crossing => ?_, fun waiting idle => ?_, fun due idle => ?_⟩
  · rw [exec, execLineInterpDue, State.onMain_keeps _ released, crossing]
    dsimp only
    rw [if_pos running]
  · obtain ⟨l, lines, stamp, start, shown, empty, taken, mem⟩ := s.startLine_shows n
    have run : exec (.lineStart n) s = .next (s.keeps (s.startLine n)) := by
      rw [exec, execLineStart, State.onMain_keeps _ released]
      dsimp only
      rw [if_pos (by rw [running, waiting, decide_eq_true idle]; rfl)]
    generalize s.startLine n = t at lines taken mem run
    exact ⟨_, l, run, lines, stamp, start, shown, empty, taken, State.memSame_keeps s t mem⟩
  · have port : ({ s with lin := tput s.lin n (s.flushing n) } : State).linPort n = s.flushing n := tget_tput_same ..
    refine ⟨_, s.flushLine n, execFlushExposure_due released running due idle, ?_, rfl, ?_, ?_, rfl⟩
    · rw [port]
      rfl
    · rw [port]
      rfl
    · rw [port]
      exact ⟨s.flushExpo n, rfl, fun y lamp => List.eq_of_mem_replicate lamp⟩

end Sys2Proof.Machine
end


section
/-! SUPPORT. O28: lamp faults, stuck lamps, barrier edges and jams (R91, R92, R94, R95). -/

namespace Sys2Proof.Machine

/-! ### Bits of a field of 8 bits -/

theorem bit_mod_or {k : Fin 8} (w : Nat) : bit ((w ||| 2 ^ k.val) % 2 ^ 8) k = true := by
  rw [bit_eq_testBit, Nat.testBit_mod_two_pow, Nat.testBit_or, Nat.testBit_two_pow_self, Bool.or_true, Bool.and_true]
  exact decide_eq_true k.isLt

theorem bit_mod_and {k : Fin 8} (w : Nat) : bit ((w &&& (0xFF ^^^ 2 ^ k.val)) % 2 ^ 8) k = false := by
  have mask : (0xFF ^^^ 2 ^ k.val).testBit k = false := by
    revert k
    decide
  rw [bit_eq_testBit, Nat.testBit_mod_two_pow, Nat.testBit_and, mask, Bool.and_false, Bool.and_false]

/-- BLOCKED of a barrier shows what was put (R94). -/
theorem State.bit_setBlocked (s : State) (k : Fin 8) (b : Bool) : bit ((s.setBlocked k b).fld LIN_BAR_STAT LIN_BAR_STAT_BLOCKED) k = b := by
  rw [State.setBlocked, State.fld_setFld_same _ _ _ _ (by decide) (by decide)]
  cases b
  · exact bit_mod_and _
  · exact bit_mod_or _

/-! ### Lamps -/

theorem linLamp_apart (n : Nat) : LIN_LAMP_STAT n ≠ LIN_IRQ_STAT n := by
  simp only [LIN_LAMP_STAT, LIN_IRQ_STAT]
  omega

/-- A lamp fault is noted in its line, counted and raised (R91). -/
def State.lampFaulted (s : State) (n k : Nat) : State :=
  ((s.modLastLine n (fun l => { l with lampFault := l.lampFault ||| 2 ^ k })).incFld (LIN_LAMP_STAT n) LIN_LAMP_STAT_LAMP_FAULT_CNT).raise (LIN_IRQ_STAT n) 8

theorem State.lampFaulted_shows (s : State) (n k : Nat) : bit ((s.lampFaulted n k).num (LIN_IRQ_STAT n)) 8 = true
    ∧ s.regsSame (s.lampFaulted n k) [LIN_LAMP_STAT n, LIN_IRQ_STAT n] ∧ s.memSame (s.lampFaulted n k)
    ∧ (s.lampFaulted n k).fld (LIN_LAMP_STAT n) LIN_LAMP_STAT_LAMP_FAULT_CNT
        = min (s.fld (LIN_LAMP_STAT n) LIN_LAMP_STAT_LAMP_FAULT_CNT + 1) (fmax LIN_LAMP_STAT_LAMP_FAULT_CNT) := by
  unfold State.lampFaulted
  have marked : s.memSame (s.modLastLine n (fun l => { l with lampFault := l.lampFault ||| 2 ^ k }))
      ∧ (s.modLastLine n (fun l => { l with lampFault := l.lampFault ||| 2 ^ k })).regs = s.regs := ⟨State.memSame_of rfl rfl rfl rfl rfl, rfl⟩
  generalize s.modLastLine n (fun l => { l with lampFault := l.lampFault ||| 2 ^ k }) = u at marked ⊢
  obtain ⟨mem, regs⟩ := marked
  have count := u.fld_incFld (LIN_LAMP_STAT n) (f := LIN_LAMP_STAT_LAMP_FAULT_CNT) 1 (by decide) (by decide)
  have only : u.RegsOnly (u.incFld (LIN_LAMP_STAT n) LIN_LAMP_STAT_LAMP_FAULT_CNT) := (State.RegsOnly.refl u).incFld _ _ _
  have reg (a : Nat) (ne : a ≠ LIN_LAMP_STAT n) : (u.incFld (LIN_LAMP_STAT n) LIN_LAMP_STAT_LAMP_FAULT_CNT).reg a = u.reg a := State.reg_setFld_ne u _ _ ne
  generalize u.incFld (LIN_LAMP_STAT n) LIN_LAMP_STAT_LAMP_FAULT_CNT = w at count only reg ⊢
  refine ⟨State.bit_raise w _ (by decide), fun a away => ?_, ?_, ?_⟩
  · simp only [List.mem_cons, List.not_mem_nil, or_false, not_or] at away
    rw [State.reg_raise_ne w 8 away.2, reg a away.1, State.reg_of_regs regs]
  · rw [State.raise_eq]
    exact State.memSame_trans (State.memSame_trans mem only.memSame) (State.memSame_of rfl rfl rfl rfl rfl)
  · rw [State.fld_congr (State.reg_raise_ne w 8 (linLamp_apart n)), count, State.fld_congr (State.reg_of_regs regs _)]

theorem execLampFault_low {s : State} {n : Fin 4} {x : Expo} (released : s.sys.released = true) (runs : (s.linPort n).expo = some x)
    (enabled : s.on (LIN_LAMP_DEAD n) LIN_LAMP_DEAD_LOK_EN = true) (within : (x.at s.tb).1 < x.lamps.length) (stood : x.lead + 50 < (x.at s.tb).2)
    (lit : (x.at s.tb).2 ≤ x.lead + x.exp) : exec (.lampFault n) s = .next (s.keeps (s.lampFaulted n (x.at s.tb).1)) := by
  rw [exec, execLampFault, State.onMain_keeps _ released]
  dsimp only
  rw [runs]
  dsimp only
  rw [if_pos (by rw [enabled, decide_eq_true within, decide_eq_true stood, decide_eq_true lit]; rfl)]
  rfl

/-! ### Barriers -/

/-- The engine once a barrier's level has been accepted (R94). -/
def State.barrierHeld (s : State) (k : Nat) (level : Bool) (stamp : Stamp) : State :=
  ({ s with bar := tput s.bar k { known := true, level := level, since := s.tbAt stamp, jammed := (tget default s.bar k).jammed && s.blockedLevel k level } }).setBlocked k
    (s.blockedLevel k level)

theorem execBarrierEdge_stood {s : State} {k : Fin 8} {level : Bool} {stamp : Stamp} (released : s.sys.released = true)
    (news : ¬((tget default s.bar k).known = true ∧ (tget default s.bar k).level = level)) (stood : s.stood stamp (s.fld (LIN_BAR_CFG k) LIN_BAR_CFG_BAR_FILT_US * 1000) = true) :
    exec (.barrierEdge k level stamp) s = .next (s.keeps (if s.blockedLevel k level then (s.barrierHeld k level stamp).blockEdge k stamp
      else ((List.range 4).filter (fun n => (s.barrierHeld k level stamp).fld (LIN_GATE_CFG n) LIN_GATE_CFG_BAR_SEL = k.val)).foldl (fun s n => s.trailingEdge n stamp)
        (s.barrierHeld k level stamp))) := by
  have fresh : ((tget default s.bar k).known && (tget default s.bar k).level == level) = false :=
    Bool.eq_false_iff.mpr fun h => news (by rwa [Bool.and_eq_true, beq_iff_eq] at h)
  rw [exec, execBarrierEdge, State.onMain_keeps _ released]
  dsimp only
  rw [if_neg (by rw [fresh, stood]; decide)]
  rfl

/-- Settles O28: each command's guard is met by its clause's hypotheses, and what it writes is one counter, one field or one barrier. -/
theorem lampsAndBarriers : Obligations.LampsAndBarriers := by
  unfold Obligations.LampsAndBarriers
  intro s released
  refine ⟨fun n x runs enabled within stood lit => ?_, fun n enabled dark off => ?_, fun k level stamp news stood => ?_, fun k level stamp glitch => ?_,
    fun k known blocked limit jammed => ?_⟩
  · obtain ⟨raised, reg, mem, count⟩ := s.lampFaulted_shows n (x.at s.tb).1
    refine ⟨_, execLampFault_low released runs enabled within stood lit, ?_⟩
    generalize s.lampFaulted n (x.at s.tb).1 = t at raised reg mem count ⊢
    exact ⟨raised, reg, State.memSame_keeps s t mem, count⟩
  · rw [exec, execLampStuck, State.onMain_keeps _ released]
    rw [if_pos (by rw [enabled, dark, decide_eq_true off]; rfl)]
    rfl
  · have run := execBarrierEdge_stood released news stood
    refine ⟨s.barrierHeld k level stamp, rfl, State.bit_setBlocked _ k _, fun opens => ?_, fun trails => ?_⟩
    · rw [run, if_pos opens]
    · rw [run, if_neg (by rw [trails]; decide)]
  · rw [exec, execBarrierEdge, State.onMain_keeps _ released]
    dsimp only
    rw [if_pos (by rw [glitch, Bool.not_false, Bool.or_true])]
    rfl
  · have run : exec (.barrierJam k) s = .next (({ s with bar := tput s.bar k { tget default s.bar k with jammed := true } }).setFld LIN_BAR_STAT LIN_BAR_STAT_JAM_SEEN
        (s.fld LIN_BAR_STAT LIN_BAR_STAT_JAM_SEEN ||| 2 ^ k.val)) := by
      rw [exec, execBarrierJam, State.onMain_keeps _ released]
      dsimp only
      rw [if_pos (by rw [known, blocked, decide_eq_true limit, decide_eq_true jammed]; rfl)]
      rfl
    refine ⟨_, run, ?_, ?_, fun a away => ?_, rfl⟩
    · exact congrArg BarSt.jammed (tget_tput_same default s.bar k.val _)
    · rw [State.fld_setFld_same _ _ _ _ (by decide) (by decide)]
      exact bit_mod_or _
    · exact State.reg_setFld_ne { s with bar := tput s.bar k { tget default s.bar k with jammed := true } } _ _ fun e => away (List.mem_singleton.mpr e)

end Sys2Proof.Machine
end


section
/-! SUPPORT. O30: a packet that is fetched, and a status reply that lands on its ring (R485-R496). -/

namespace Sys2Proof.Machine

/-! ### A record of one slot -/

theorem padSlots_one (size tail : Nat) : padSlots size tail 1 = 0 := by
  unfold padSlots
  extract_lets left
  split
  · omega
  · rfl

theorem withPhase_length (ph : Nat) (l : List Byte) : (withPhase ph l).length = l.length := by
  cases l <;> rfl

/-- One slot fits while fewer than the ring's slots are in use (R490). -/
theorem ringFits_slot {size head tail : Nat} {p : List Byte} (slot : p.length = 32) (positive : 0 < size) (room : (tail + 2 ^ 32 - head) % 2 ^ 32 + 1 ≤ size) :
    ringFits size head [p] tail = some ((tail + 1) % 2 ^ 32) := by
  have need : p.length / 32 = 1 := by rw [slot]
  unfold ringFits
  dsimp only
  rw [need, padSlots_one, if_neg]
  · rfl
  · rw [Bool.or_eq_true, decide_eq_true_eq, decide_eq_true_eq]
    omega

/-- Its bytes stand at TAIL, with PHASE, and TAIL moves on by one (R489, R490). -/
theorem State.ringParts_slot (s : State) (r tail : Nat) {p : List Byte} (slot : p.length = 32) :
    s.ringParts r [p] tail
      = (s.hwrite (s.ringBase r + tail % s.ringSize r * 32) (withPhase (ringPhase (s.ringSize r) tail) p)).setNum (HIF_RING_TAIL r) ((tail + 1) % 2 ^ 32) := by
  have need : p.length / 32 = 1 := by rw [slot]
  unfold State.ringParts
  dsimp only
  rw [need, padSlots_one, if_pos rfl]
  rfl

/-- What landing raises and counts stands outside the memories and the registers (R515). -/
theorem State.ringLanded_only (s : State) (r k : Nat) :
    s.ringLanded r k = { s with rings := (s.ringLanded r k).rings, msix := (s.ringLanded r k).msix, msixPend := (s.ringLanded r k).msixPend } := by
  unfold State.ringLanded
  extract_lets cnt x
  split
  · generalize ({ x with unsig := 0 } : RingSt) = y
    rw [State.message_eq]
  · rfl

/-- A record of one slot lands on its ring. -/
structure State.Lands (s t : State) (r : Nat) (p : List Byte) : Prop where
  only : t = { s with regs := t.regs, host := t.host, rings := t.rings, msix := t.msix, msixPend := t.msixPend }
  reg : s.regsSame t [HIF_RING_TAIL r]
  tail : t.num (HIF_RING_TAIL r) = (s.num (HIF_RING_TAIL r) + 1) % 2 ^ 32
  host : t.host = mwrite s.host (s.ringBase r + s.num (HIF_RING_TAIL r) % s.ringSize r * 32) (withPhase (ringPhase (s.ringSize r) (s.num (HIF_RING_TAIL r))) p)

theorem State.ringWrite_lands {s : State} {r : Nat} {p : List Byte} (slot : p.length = 32) (enabled : s.on (HIF_RING_CFG r) HIF_RING_CFG_EN = true)
    (room : (s.num (HIF_RING_TAIL r) + 2 ^ 32 - s.num (HIF_RING_HEAD r)) % 2 ^ 32 + 1 ≤ s.ringSize r) : ∃ t, s.ringWrite r [p] = some t ∧ s.Lands t r p := by
  refine ⟨(s.ringParts r [p] (s.num (HIF_RING_TAIL r))).ringLanded r 1, ?_, ?_⟩
  · unfold State.ringWrite
    rw [if_neg (by rw [enabled]; decide)]
    dsimp only
    rw [ringFits_slot (size := s.ringSize r) slot (Nat.two_pow_pos _) room]
    rfl
  · rw [s.ringParts_slot r _ slot]
    have only := (s.hwrite (s.ringBase r + s.num (HIF_RING_TAIL r) % s.ringSize r * 32) (withPhase (ringPhase (s.ringSize r) (s.num (HIF_RING_TAIL r))) p)).setNum
      (HIF_RING_TAIL r) ((s.num (HIF_RING_TAIL r) + 1) % 2 ^ 32) |>.ringLanded_only r 1
    obtain ⟨u, hu⟩ : ∃ u, u = s.hwrite (s.ringBase r + s.num (HIF_RING_TAIL r) % s.ringSize r * 32) (withPhase (ringPhase (s.ringSize r) (s.num (HIF_RING_TAIL r))) p) := ⟨_, rfl⟩
    rw [← hu] at only ⊢
    have wrote : u = { s with host := (s.hwrite (s.ringBase r + s.num (HIF_RING_TAIL r) % s.ringSize r * 32) (withPhase (ringPhase (s.ringSize r) (s.num (HIF_RING_TAIL r))) p)).host } := hu
    have tail := u.num_setNum_same (HIF_RING_TAIL r) (v := (s.num (HIF_RING_TAIL r) + 1) % 2 ^ 32) (Nat.mod_lt _ (by decide))
    have reg (a : Nat) (ne : a ≠ HIF_RING_TAIL r) : (u.setNum (HIF_RING_TAIL r) ((s.num (HIF_RING_TAIL r) + 1) % 2 ^ 32)).reg a = u.reg a := State.reg_setNum_ne u _ ne
    have onlyV : u.RegsOnly (u.setNum (HIF_RING_TAIL r) ((s.num (HIF_RING_TAIL r) + 1) % 2 ^ 32)) := (State.RegsOnly.refl u).setNum _ _
    generalize u.setNum (HIF_RING_TAIL r) ((s.num (HIF_RING_TAIL r) + 1) % 2 ^ 32) = v at only tail reg onlyV ⊢
    generalize v.ringLanded r 1 = t at only ⊢
    clear hu
    have regs : t.regs = v.regs := by rw [only]
    have host : t.host = u.host := by rw [only, onlyV]
    refine ⟨?_, fun a away => ?_, ?_, ?_⟩
    · rw [only, onlyV, wrote]
    · rw [State.reg_of_regs regs, reg a fun e => away (List.mem_singleton.mpr e), wrote]
      rfl
    · rw [State.num_congr (State.reg_of_regs regs _), tail]
    · rw [host, wrote]
      rfl

/-! ### The reply -/

/-- The 32 bytes of a status reply (R496). -/
def replyBytes (q pos : Nat) (b : List Byte) (st : Status) (item result : Nat) (now : Stamp) : List Byte :=
  leBytes 1 1 ++ leBytes 1 (leAt b 0 1) ++ leBytes 1 st.code ++ leBytes 1 0 ++ leBytes 4 (leAt b 4 4) ++ leBytes 4 item
    ++ leBytes 1 q ++ zeros 1 ++ leBytes 2 pos ++ leBytes 8 now.toNat ++ leBytes 8 result

theorem replyBytes_length (q pos : Nat) (b : List Byte) (st : Status) (item result : Nat) (now : Stamp) : (replyBytes q pos b st item result now).length = 32 := by
  unfold replyBytes
  simp only [List.length_append, leBytes_length, zeros, List.length_replicate]

theorem leBytes_mod (n v : Nat) : leBytes n (v % 256 ^ n) = leBytes n v := by
  induction n generalizing v with
  | zero => rfl
  | succ n ih =>
    have low : BitVec.ofNat 8 (v % 256 ^ (n + 1)) = BitVec.ofNat 8 v := by
      apply BitVec.eq_of_toNat_eq
      rw [BitVec.toNat_ofNat, BitVec.toNat_ofNat, pow_succ']
      exact Nat.mod_mul_right_mod v 256 (256 ^ n)
    have high : v % 256 ^ (n + 1) / 256 = v / 256 % 256 ^ n := by rw [pow_succ', Nat.mod_mul_right_div_self]
    rw [leBytes, leBytes, low, high, ih]

/-- A status reply that its ring has room for, with nothing held of that ring, goes there alone: no datagram carries it (R490, R513). -/
theorem State.emit_status {s t : State} {r item : Nat} {p : List Byte} {lc : Bool} (free : s.hold.any (fun h => h.ring == r) = false) (lands : s.ringWrite r [p] = some t) :
    s.emit r 1 [p] item lc false = t := by
  have unsent : s.udpSelects 1 lc = false := by
    unfold State.udpSelects
    split <;> simp
  unfold State.emit
  extract_lets sel divert keep
  rw [if_neg (by simp [divert]), if_neg (by rw [free]; decide), lands, show sel = false from unsent]
  rfl

theorem State.reply_lands {s : State} {q pos item result : Nat} {b : List Byte} {st : Status} (loud : bit (leAt b 1 1) 6 = false ∨ st ≠ .ok)
    (enabled : s.on (HIF_RING_CFG (leAt b 2 1 % 64)) HIF_RING_CFG_EN = true) (free : s.hold.any (fun h => h.ring == leAt b 2 1 % 64) = false)
    (room : (s.num (HIF_RING_TAIL (leAt b 2 1 % 64)) + 2 ^ 32 - s.num (HIF_RING_HEAD (leAt b 2 1 % 64))) % 2 ^ 32 + 1 ≤ s.ringSize (leAt b 2 1 % 64)) :
    s.Lands (s.reply q pos b st item result) (leAt b 2 1 % 64) (replyBytes q pos b st item result s.now) := by
  obtain ⟨t, wrote, lands⟩ := State.ringWrite_lands (p := replyBytes q pos b st item result s.now) (replyBytes_length ..) enabled room
  have run : s.reply q pos b st item result = t := by
    unfold State.reply
    extract_lets ring
    rw [if_neg]
    · refine State.emit_status free ?_
      have key : leBytes 2 (pos % 65536) = leBytes 2 pos := leBytes_mod 2 pos
      rw [key]
      exact wrote
    · rw [show s.on (HIF_RING_CFG ring) HIF_RING_CFG_EN = true from enabled]
      rcases loud with loud | loud
      · rw [loud, Bool.false_and]
        decide
      · rw [decide_eq_false loud, Bool.and_false]
        decide
  rw [run]
  exact lands

/-- Bytes just written read back. -/
theorem mread_mwrite_same (l : List Byte) : ∀ (m : List Host.Cell) (a : Nat), mread (mwrite m a l) a l.length = l := by
  induction l with
  | nil => exact fun _ _ => rfl
  | cons b l ih =>
    intro m a
    rw [List.length_cons, mwrite, mread, ih, mwrite_outside _ _ _ _ (by omega), tget_tset_same]

/-! ### The fetch -/

/-- The engine once HEAD has moved on past the packet (R485). -/
def State.pastHead (s : State) (q : Nat) : State :=
  { s.setFld (HIF_SQ_HEAD q) HIF_SQ_HEAD_HEAD (s.fld (HIF_SQ_HEAD q) HIF_SQ_HEAD_HEAD + 1) with sqs := tput s.sqs q { tget default s.sqs q with readTb := s.tb } }

theorem execPacketFetch_runs {s : State} {q : Fin 64} (released : s.sys.released = true) (enabled : s.on (HIF_SQ_CFG q) HIF_SQ_CFG_EN = true)
    (runs : (tget default s.sqs q).stopped = false) (waits : s.fld (HIF_SQ_HEAD q) HIF_SQ_HEAD_HEAD ≠ s.fld (HIF_SQ_TAIL q) HIF_SQ_TAIL_TAIL)
    (up : s.coachHeld (s.headPacket q) = false) :
    exec (.packetFetch q) s = .next (s.keeps (match (s.pastHead q).packetRefusal q (s.headPacket q) with
      | some st => (s.pastHead q).reply q (s.fld (HIF_SQ_HEAD q) HIF_SQ_HEAD_HEAD) (s.headPacket q) st 0 0
      | none => { s.pastHead q with fetched := s.fetched ++ [{
          sq := q, pos := s.fld (HIF_SQ_HEAD q) HIF_SQ_HEAD_HEAD + 65536 * (tget default (s.pastHead q).sqs q).enabled, bytes := s.headPacket q, running := false, openedItem := 0 }] })) := by
  rw [exec, execPacketFetch, State.onMain_keeps _ released]
  dsimp only
  rw [if_neg (by rw [enabled, runs, decide_eq_false waits, up]; decide)]
  rfl

/-- Settles O30: the fetch's guards are the clause's hypotheses; a reply of one slot needs no PAD before it, and no other outlet takes it. -/
theorem packetsAndReplies : Obligations.PacketsAndReplies := by
  unfold Obligations.PacketsAndReplies
  refine ⟨fun s q released enabled runs waits up => ?_, fun s q pos item result st f there => ?_⟩
  · intro pos b u
    have run := execPacketFetch_runs released enabled runs waits up
    have head : u.fld (HIF_SQ_HEAD q) HIF_SQ_HEAD_HEAD = (pos + 1) % 2 ^ 16 :=
      State.fld_setFld_same s (HIF_SQ_HEAD q) HIF_SQ_HEAD_HEAD (pos + 1) (by decide) (by decide)
    have read : tget default (s.pastHead q).sqs q = { tget default s.sqs q with readTb := s.tb } := tget_tput_same default s.sqs q.val _
    refine ⟨head, fun taken => ?_, fun st refused => ?_⟩
    · rw [run, show (s.pastHead q).packetRefusal q (s.headPacket q) = none from taken, read]
      rfl
    · rw [run, show (s.pastHead q).packetRefusal q (s.headPacket q) = some st from refused]
      rfl
  · intro r loud held ring free room t a
    have run : t = ({ s with fetched := s.fetched.filter (fun g => !(g.sq == q && g.pos == pos)) } : State).reply q pos f.bytes st item result := by
      unfold t State.complete
      rw [there]
      dsimp only
      rw [if_neg (by rw [held]; decide)]
    obtain ⟨enabled, -⟩ := Bool.and_eq_true_iff.mp ring
    obtain ⟨only, reg, tail, host⟩ := State.reply_lands (s := { s with fetched := s.fetched.filter (fun g => !(g.sq == q && g.pos == pos)) }) (q := q) (pos := pos)
      (item := item) (result := result) loud enabled free room
    rw [← run] at only reg tail host
    have length := withPhase_length (ringPhase (s.ringSize r) (s.num (HIF_RING_TAIL r))) (replyBytes q pos f.bytes st item result s.now)
    rw [replyBytes_length] at length
    refine ⟨tail, ?_, fun x away => ?_, ?_, ?_, ?_, reg⟩
    · have read := mread_mwrite_same (withPhase (ringPhase (s.ringSize r) (s.num (HIF_RING_TAIL r))) (replyBytes q pos f.bytes st item result s.now)) s.host a
      rw [length] at read
      rw [State.hread, host]
      exact read
    · rw [host]
      exact mwrite_outside s.host a x (withPhase (ringPhase (s.ringSize r) (s.num (HIF_RING_TAIL r))) (replyBytes q pos f.bytes st item result s.now)) (by rw [length]; exact away)
    · rw [only]
    · rw [only]
    · rw [only]

end Sys2Proof.Machine
end


section
/-! SUPPORT. O31: the query, report, MET and snapshot commands (R28, R481, R497, R499, R541, R544). -/

namespace Sys2Proof.Machine

/-! ### Commands that start -/

/-- A command that may start runs on its packet under its key (R487). -/
theorem State.onMain_starts {s : State} {q : Fin 64} {pos : BitVec 16} {op : Nat} {b : List Byte} (f : State → Nat → List Byte → State) (starts : s.starts q pos op b) :
    s.onMain (fun s => s.command q pos op f) = .next (s.keeps (f s (s.cmdKey q pos) b)) := by
  obtain ⟨released, may⟩ := starts
  rw [State.onMain_keeps _ released, State.command, may]

/-- A command on a live item acts on its index (R25). -/
theorem State.onItem_live {s : State} {q : Fin 64} {k i : Nat} {b : List Byte} (f : State → Nat → State) (live : s.liveItem (leAt b 8 4) = some i) :
    s.onItem q k b f = f s i := by
  rw [State.onItem, live]

theorem State.onItem_stale {s : State} {q : Fin 64} {k : Nat} {b : List Byte} (f : State → Nat → State) (stale : s.liveItem (leAt b 8 4) = none) :
    s.onItem q k b f = s.complete q k .staleItem (leAt b 8 4) 0 := by
  rw [State.onItem, stale]

/-! ### Snapshot triggers -/

theorem State.snapTrigger_armed {s : State} (armed : s.on SNP_STAT SNP_STAT_ARMED = true) (stamp : Stamp) (cause cls : Nat) :
    s.snapTrigger stamp cause cls = (s.snapAct stamp cause cls, true) := by
  rw [State.snapTrigger, if_pos armed]

theorem State.snapTrigger_lost {s : State} (off : s.on SNP_STAT SNP_STAT_ARMED = false) (none_ : s.snp.lastTrig = none) (stamp : Stamp) (cause cls : Nat) :
    s.snapTrigger stamp cause cls = ((s.incReg SNP_LOST).raise SNP_IRQ_STAT 1, false) := by
  rw [State.snapTrigger, if_neg (by rw [off]; decide), none_]

/-- Settles O31: each command is its meaning on the packet that starts; the branches of a meaning are the cases of its clauses. -/
theorem queriesAndSnapshots : Obligations.QueriesAndSnapshots := by
  unfold Obligations.QueriesAndSnapshots
  refine ⟨fun s q pos b => ⟨fun st => ?_, fun st => ?_, fun st i live => ?_, fun st stale => ?_, fun st => ?_, fun st some_ found => ?_, fun st missing => ?_, fun st on => ?_,
    fun st on => ?_⟩, fun s q pos b => ⟨fun st armed => ?_, fun st off first => ?_, fun st valid => ?_, fun st invalid => ?_⟩⟩
  · rw [exec, execEcho, State.onMain_starts _ st]
  · rw [exec, execTimeQuery, State.onMain_starts _ st]
  · rw [exec, execItemQuery, State.onMain_starts _ st, State.onItem_live _ live]
  · rw [exec, execItemQuery, State.onMain_starts _ st, State.onItem_stale _ stale]
  · rw [exec, execBistReport, State.onMain_starts _ st]
  · rw [exec, execMetRecordRead, State.onMain_starts _ st]
    dsimp only
    rw [if_neg (by rw [decide_eq_false (not_not.mpr found), decide_eq_false some_]; decide)]
  · rw [exec, execMetRecordRead, State.onMain_starts _ st]
    dsimp only
    rw [if_pos (by rw [Bool.or_eq_true, decide_eq_true_eq, decide_eq_true_eq]; exact missing.symm)]
  · rw [exec, execMetLogRead, State.onMain_starts _ st]
    dsimp only
    rw [if_pos on]
  · rw [exec, execMetIdRead, State.onMain_starts _ st]
    rw [if_pos on]
  · rw [exec, execSnapTrigger, State.onMain_starts _ st]
    dsimp only
    rw [State.snapTrigger_armed armed]
  · rw [exec, execSnapTrigger, State.onMain_starts _ st]
    dsimp only
    rw [State.snapTrigger_lost off first]
  · rw [exec, execSnapRead, State.onMain_starts _ st]
    dsimp only
    rw [if_neg (by rw [valid]; decide)]
  · rw [exec, execSnapRead, State.onMain_starts _ st]
    dsimp only
    rw [if_pos (by rw [invalid]; decide)]

end Sys2Proof.Machine
end


section
/-! SUPPORT. O32: the item commands, and the lines that RET_READ copies (R25-R27, R37, R48, R333, R497-R501, R585). -/

namespace Sys2Proof.Machine

/-! ### Retained lines -/

theorem wholeWithin_length : ∀ (room : Nat) (l : List (List Byte)), (wholeWithin room l).flatten.length ≤ room
  | _, [] => by simp [wholeWithin]
  | room, r :: t => by
    unfold wholeWithin
    split
    · simp
    · have rest := wholeWithin_length (room - r.length) t
      rw [List.flatten_cons, List.length_append]
      omega

/-- Lines chosen whole within a room lie whole within it. -/
theorem wholeWithin_copyLines (held : Nat → Option RetLine) : ∀ n k room,
    wholeWithin room ((copyLines held n k room).map (·.bytes)) = (copyLines held n k room).map (·.bytes)
  | 0, _, _ => rfl
  | n + 1, k, room => by
    unfold copyLines
    split
    · rfl
    · split
      · rfl
      · next r _ fits =>
        rw [List.map_cons, wholeWithin, if_neg fits, wholeWithin_copyLines held n (k + 1) (room - r.bytes.length)]

/-- Retention writes that wait bring no error into a DRAM without one. -/
theorem State.dramNow_clean {s : State} (clean : s.ras.chk = []) : s.dramNow.2 = [] := by
  unfold State.dramNow
  refine List.foldlRecOn (motive := fun m : List Host.Cell × Checks => m.2 = []) _ _ clean ?_
  rintro ⟨m, k⟩ none_ w _
  dsimp only at none_
  subst none_
  rfl

theorem State.dramBad_clean {s : State} (clean : s.ras.chk = []) (a n : Nat) : s.dramBad a n = [] := by
  unfold State.dramBad badWords
  rw [State.dramNow_clean clean]
  rfl

theorem State.didRead_clean {s : State} (clean : s.ras.chk = []) (a n : Nat) : s.didRead a n = (s, true) := by
  rw [State.didRead, if_pos clean]

theorem State.badPlanes_clean {s : State} (clean : s.ras.chk = []) (n : Nat) (l : RetLine) : s.badPlanes n l = [] := by
  have words : (s.retSpans n l).flatMap (fun p => s.dramBad p.1 p.2) = [] := by
    rw [List.flatMap_eq_nil_iff]
    exact fun p _ => State.dramBad_clean clean p.1 p.2
  unfold State.badPlanes
  dsimp only
  rw [words]
  exact List.filter_eq_nil_iff.mpr fun _ _ => by simp

/-- Without an error in DRAM, records are read as they were retained (R529). -/
theorem State.retRead_clean {s : State} (clean : s.ras.chk = []) (n : Nat) : ∀ (ls : List RetLine) (prev : Option RetLine), s.retRead n prev ls = (s, ls)
  | [], _ => rfl
  | l :: t, prev => by
    have spans : (s.retSpans n l).foldl (fun s p => (s.didRead p.1 p.2).1) s = s := by
      refine List.foldlRecOn (motive := fun t : State => t = s) _ _ rfl ?_
      rintro t rfl p _
      rw [State.didRead_clean clean]
    have patched : l.patched [] prev = l := if_pos rfl
    rw [State.retRead, spans, State.badPlanes_clean clean, patched, State.retRead_clean clean n t]

theorem State.readLines_clean {s : State} (clean : s.ras.chk = []) (n : Nat) (ls : List RetLine) : s.readLines n ls = (s, ls) := by
  unfold State.readLines
  split
  · rfl
  · split
    · exact State.retRead_clean clean n _ _
    · rfl

/-! ### Images -/

/-- An IMAGE_SUBMIT whose HOSTIMAGE is not open yet starts its command (R498). -/
theorem execImageSubmit_starts {s : State} {q : Fin 64} {pos : BitVec 16} {b : List Byte} (starts : s.starts q pos 0x02 b) (fresh : s.imageOf q pos = none) :
    exec (.imageSubmit q pos) s = .next (s.keeps
      (if (tfind s.playbooks (leAt b 44 4)).isNone then s.complete q (s.cmdKey q pos) .notFound 0 0
       else if s.canOpen (if bit (leAt b 17 1) 0 then .be else .lc) then
         ((s.placeImage q (s.cmdKey q pos) (if bit (leAt b 17 1) 0 then .be else .lc) b).imageOf q pos).elim
           (s.placeImage q (s.cmdKey q pos) (if bit (leAt b 17 1) 0 then .be else .lc) b)
           (fun m => (s.placeImage q (s.cmdKey q pos) (if bit (leAt b 17 1) 0 then .be else .lc) b).fetchImage m.1 m.2)
       else if (if bit (leAt b 17 1) 0 then Cls.be else .lc) = .be then
         { s.setRunning q (s.cmdKey q pos) with beWait := s.beWait ++ [{ (default : BeWait) with typ := .image, stamp := s.now, sq := some (q.val, s.cmdKey q pos) }] }
       else (s.complete q (s.cmdKey q pos) .ok 0 0).exhausted (imagePiece b s.now) (s.sqPart q) (leAt b 24 4) (if bit (leAt b 17 1) 0 then .be else .lc))) := by
  obtain ⟨released, may⟩ := starts
  rw [exec, execImageSubmit, State.onMain_keeps _ released]
  dsimp only
  rw [if_neg (by rw [fresh]; decide), State.command, may]

/-- Settles O32: each command is its meaning on the packet that starts; RET_READ copies what fits whole, and reads it as it was retained where DRAM
  holds no error. -/
theorem itemsAndImages : Obligations.ItemsAndImages := by
  unfold Obligations.ItemsAndImages
  refine ⟨fun s q pos b => ⟨fun st open_ => ?_, fun st src slave => ?_, fun st fresh loaded => ?_, fun st fresh missing => ?_, fun st i live => ?_, fun st stale => ?_,
    fun st stale => ?_, fun st i live none_ => ?_, fun st i d live side => ?_, fun st ts set_ => ?_, fun st none_ => ?_⟩,
    fun s q pos b st fresh loaded => ⟨fun be full => ?_, fun lc full => ?_⟩⟩
  · rw [exec, execItemOpen, State.onMain_starts _ st]
    dsimp only
    rw [if_neg]
    rw [Bool.and_eq_true, decide_eq_true_eq]
    rintro ⟨src, slave⟩
    exact open_.elim src fun master => by rw [master] at slave; exact absurd slave (by decide)
  · rw [exec, execItemOpen, State.onMain_starts _ st]
    dsimp only
    rw [if_pos (by rw [decide_eq_true src, slave]; rfl)]
  · intro cls u may
    rw [execImageSubmit_starts st fresh, if_neg (by rw [Option.isNone_iff_eq_none]; exact Option.isSome_iff_ne_none.mp loaded), if_pos may]
  · rw [execImageSubmit_starts st fresh, if_pos (Option.isNone_iff_eq_none.mpr missing)]
  · rw [exec, execItemAbort, State.onMain_starts _ st, State.onItem_live _ live]
  · rw [exec, execItemAbort, State.onMain_starts _ st, State.onItem_stale _ stale]
  · rw [exec, execRetRead, State.onMain_starts _ st, State.onItem_stale _ stale]
  · rw [exec, execRetRead, State.onMain_starts _ st, State.onItem_live _ live, none_]
  · intro r ls
    refine ⟨?_, wholeWithin_length _ _, fun clean => ?_⟩
    · rw [exec, execRetRead, State.onMain_starts _ st, State.onItem_live _ live, side]
    · unfold ls r
      rw [State.readLines_clean clean]
      exact wholeWithin_copyLines _ _ _ _
  · intro r u v
    rw [exec, execTokenize, State.onMain_starts _ st, set_]
  · rw [exec, execTokenize, State.onMain_starts _ st, none_]
  · have run := execImageSubmit_starts st fresh
    rw [if_neg (by rw [Option.isNone_iff_eq_none]; exact Option.isSome_iff_ne_none.mp loaded), be, if_pos rfl, if_neg (by rw [full]; decide), if_pos rfl] at run
    exact ⟨_, _, run, rfl, rfl, rfl, rfl, State.memSame_of rfl rfl rfl rfl rfl⟩
  · have run := execImageSubmit_starts st fresh
    rw [if_neg (by rw [Option.isNone_iff_eq_none]; exact Option.isSome_iff_ne_none.mp loaded), lc] at run
    have cls : (if false = true then Cls.be else .lc) = .lc := if_neg (by decide)
    rw [cls, if_neg (by rw [full]; decide), if_neg (by decide)] at run
    exact run

end Sys2Proof.Machine
end


section
/-! SUPPORT. O33: PLAYBOOK_LOAD, PLAYBOOK_UNLOAD, MODEL_PIN and PORT_BIND (R401, R497, R501). -/

namespace Sys2Proof.Machine

/-- What PLAYBOOK_LOAD does with the bytes that the host holds (R497, R501, R529; log entry 65). -/
def State.loadPlaybook (s : State) (q : Fin 64) (k : Nat) (part : Nat) (data : List Byte) : State :=
  match Config.playbookOf data with
  | none => s.complete q k .playbookRejected 0 0
  | some p =>
    if !Config.playbookSigned data || !s.playbookOk part p then s.complete q k .playbookRejected 0 0
    else
      match (({ s with
          nextPb := (s.nextPb + 1) % 2 ^ 32
          playbooks := tput s.playbooks ((s.nextPb + 1) % 2 ^ 32) { pb := p, tsets := p.tsets.map TSetImage.read, bytes := data.length, part := part, corrupt := false } } : State).dwrite
        (Config.playbookPlace ((s.nextPb + 1) % 2 ^ 32)) data).loadPinned part ((s.nextPb + 1) % 2 ^ 32) p.pinned with
      | (t, true) => t.freshTsets.complete q k .ok 0 ((s.nextPb + 1) % 2 ^ 32)
      | (_, false) => s.complete q k .playbookRejected 0 0

theorem execPlaybookLoad_starts {s : State} {q : Fin 64} {pos : BitVec 16} {b : List Byte} (starts : s.starts q pos 0x40 b) :
    exec (.playbookLoad q pos) s = .next (s.keeps (s.loadPlaybook q (s.cmdKey q pos) (s.sqPart q) (s.hread (leAt b 16 8) (leAt b 24 4)))) := by
  rw [exec, execPlaybookLoad, State.onMain_starts _ starts]
  rfl

theorem State.loadPlaybook_refused {s : State} {q : Fin 64} {k part : Nat} {data : List Byte}
    (bad : Config.playbookOf data = none ∨ Config.playbookSigned data = false) : s.loadPlaybook q k part data = s.complete q k .playbookRejected 0 0 := by
  unfold State.loadPlaybook
  split
  · rfl
  · next p found =>
    have unsigned : Config.playbookSigned data = false := bad.resolve_left (by rw [found]; exact Option.some_ne_none p)
    rw [if_pos (by rw [unsigned]; rfl)]

theorem State.loadPlaybook_unfit {s : State} {q : Fin 64} {k part : Nat} {data : List Byte} {p : Playbook} (found : Config.playbookOf data = some p)
    (unfit : s.playbookOk part p = false) : s.loadPlaybook q k part data = s.complete q k .playbookRejected 0 0 := by
  unfold State.loadPlaybook
  rw [found]
  dsimp only
  rw [if_pos (by rw [unfit, Bool.not_false, Bool.or_true])]

theorem State.loadPlaybook_loads {s u : State} {q : Fin 64} {k part : Nat} {data : List Byte} {p : Playbook} (found : Config.playbookOf data = some p)
    (signed : Config.playbookSigned data = true) (fit : s.playbookOk part p = true)
    (pinned : (({ s with
        nextPb := (s.nextPb + 1) % 2 ^ 32
        playbooks := tput s.playbooks ((s.nextPb + 1) % 2 ^ 32) { pb := p, tsets := p.tsets.map TSetImage.read, bytes := data.length, part := part, corrupt := false } } : State).dwrite
      (Config.playbookPlace ((s.nextPb + 1) % 2 ^ 32)) data).loadPinned part ((s.nextPb + 1) % 2 ^ 32) p.pinned = (u, true)) :
    s.loadPlaybook q k part data = u.freshTsets.complete q k .ok 0 ((s.nextPb + 1) % 2 ^ 32) := by
  unfold State.loadPlaybook
  rw [found]
  dsimp only
  rw [if_neg (by rw [signed, fit]; decide), pinned]

/-- Settles O33: each command is its meaning on the packet that starts; what it writes is one entry of the playbooks or of a port. -/
theorem playbookCommands : Obligations.PlaybookCommands := by
  unfold Obligations.PlaybookCommands
  intro s q pos b
  refine ⟨fun st => ⟨_, execPlaybookLoad_starts st, fun bad => ?_, fun p found unfit => ?_, fun p u found signed fit pinned => ?_⟩, fun st loaded unused => ?_,
    fun st loaded used => ?_, fun st missing => ?_, fun st missing => ?_, fun st missing => ?_, fun st m found => ?_, fun st found => ?_⟩
  · rw [State.loadPlaybook_refused bad]
  · rw [State.loadPlaybook_unfit found unfit]
  · rw [State.loadPlaybook_loads found signed fit pinned]
  · obtain ⟨u, hu⟩ : ∃ u, u = (s.models.filter (fun m => m.playbook == leAt b 16 4)).foldl (fun s m => s.dropModel (leAt b 16 4) m.model) s := ⟨_, rfl⟩
    refine ⟨{ u with playbooks := tdel u.playbooks (leAt b 16 4) }, ?_, tfind_tdel_same ..⟩
    rw [exec, execPlaybookUnload, State.onMain_starts _ st]
    dsimp only
    rw [if_neg (by rw [Option.isNone_iff_eq_none]; exact Option.isSome_iff_ne_none.mp loaded), if_neg (by rw [unused]; decide), ← hu]
  · rw [exec, execPlaybookUnload, State.onMain_starts _ st]
    dsimp only
    rw [if_neg (by rw [Option.isNone_iff_eq_none]; exact Option.isSome_iff_ne_none.mp loaded), if_pos used]
  · rw [exec, execPlaybookUnload, State.onMain_starts _ st]
    dsimp only
    rw [if_pos (Option.isNone_iff_eq_none.mpr missing)]
  · rw [exec, execModelPin, State.onMain_starts _ st]
    dsimp only
    rw [missing]
    rfl
  · rw [exec, execPortBind, State.onMain_starts _ st]
    dsimp only
    rw [if_pos (by rw [missing]; rfl)]
  · obtain ⟨l, here, model⟩ := Option.bind_eq_some_iff.mp found
    obtain ⟨u, hu⟩ : ∃ u, u = s.modRes (leAt b 16 4) (leAt b 20 2) (fun r => { r with pinned := bit (leAt b 22 1) 0 }) := ⟨_, rfl⟩
    have same : u.playbooks = s.playbooks := by
      rw [hu]
      rfl
    refine ⟨{ u with playbooks := tupd u.playbooks (leAt b 16 4) (fun l => { l with pb := { l.pb with
      models := l.pb.models.modify (leAt b 20 2) (fun x => { x with pinned := bit (leAt b 22 1) 0 }) } }) }, ?_, ?_⟩
    · rw [exec, execModelPin, State.onMain_starts _ st]
      dsimp only
      rw [found, hu]
    · rw [same]
      dsimp only
      rw [tfind_tupd_same, here]
      exact (List.getElem?_modify ..).trans (by rw [model]; exact congrArg some (if_pos rfl))
  · refine ⟨s.modLin (leAt b 16 1 % 4) (fun p => { p with nextPb := leAt b 20 4, nextFn := leAt b 24 2, nextBound := true }), ?_, rfl, s.linPort_modLin _ _⟩
    rw [exec, execPortBind, State.onMain_starts _ st]
    dsimp only
    rw [if_neg (by rw [found]; decide)]

end Sys2Proof.Machine
end


section
/-! SUPPORT. O34: PART_CONFIG, the CTX_ commands and TABLE_SELECT (R384, R385, R389, R390, R393, R408, R413). -/

namespace Sys2Proof.Machine

/-- The partition that a descriptor puts, with what the one before it keeps (R384). -/
def State.configured (s : State) (d : List Byte) : PartSt :=
  let o := s.partSt (leAt d 0 1)
  { partOf64 d with
    dramWait := o.dramWait, fabWait := o.fabWait, hdmaWait := o.hdmaWait, granted := o.granted, table := o.table, nextTable := o.nextTable
    variantDue := o.variantDue, halted := o.halted, frameStart := o.frameStart, slot := o.slot, slotEndTb := o.slotEndTb, nextSlot := o.nextSlot }

/-- The partition of a descriptor clashes with the others that are valid (R385). -/
def State.clashes (s : State) (d : List Byte) : Bool :=
  (partOf64 d).valid && s.conflict (partOf64 d :: (s.parts.filter (fun y => y.1 != leAt d 0 1 && y.2.valid)).map (·.2))

theorem execPartConfig_starts {s : State} {q : Fin 64} {pos : BitVec 16} {b : List Byte} (starts : s.starts q pos 0x60 b)
    (ok : descriptorOk (s.hread (leAt b 16 8) 64) = true) :
    exec (.partConfig q pos) s = .next (s.keeps
      (if 0 < s.residents (leAt (s.hread (leAt b 16 8) 64) 0 1) then s.complete q (s.cmdKey q pos) .partBusy 0 0
       else if s.clashes (s.hread (leAt b 16 8) 64) then s.complete q (s.cmdKey q pos) .partConflict 0 0
       else (s.putPart (leAt (s.hread (leAt b 16 8) 64) 0 1) (s.configured (s.hread (leAt b 16 8) 64))).complete q (s.cmdKey q pos) .ok 0 0)) := by
  rw [exec, execPartConfig, State.onMain_starts _ starts]
  dsimp only
  rw [if_neg (by rw [ok]; decide)]
  rfl

/-- Without a job or a ready job of the context, nothing waits for it (R390). -/
theorem noneWaits {s : State} {c : Nat} (ready : s.ready.any (fun r => r.ctx == c) = false) (jobs : s.jobs.any (fun j => j.2.ctx == c) = false) :
    s.ready.filter (fun r => r.ctx == c) = [] ∧ s.jobs.filter (fun j => j.2.ctx == c) = [] := by
  constructor <;> rw [List.filter_eq_nil_iff]
  · exact List.any_eq_false.mp ready
  · exact List.any_eq_false.mp jobs

/-- Settles O34: each command is its meaning on the packet that starts; the refusals are the branches before its effect. -/
theorem schedulingCommands : Obligations.SchedulingCommands := by
  unfold Obligations.SchedulingCommands
  intro s q pos b
  refine ⟨fun st => ?_, fun st => ?_, fun st used => ?_, fun st busy => ?_, fun st sound => ?_, fun st none_ => ?_, fun st free loaded => ?_, fun st faulted => ?_,
    fun st state ready jobs => ?_, fun st x named => ⟨fun first => ?_, fun other => ?_⟩⟩
  · intro d ok empty fits
    have run := execPartConfig_starts st ok
    have apart : s.clashes d = false := by
      unfold State.clashes
      rcases valid : (partOf64 d).valid
      · rfl
      · rw [fits valid]
        rfl
    rw [if_neg (by rw [show s.residents (leAt (s.hread (leAt b 16 8) 64) 0 1) = 0 from empty]; decide),
      if_neg (by rw [show s.clashes (s.hread (leAt b 16 8) 64) = false from apart]; decide)] at run
    exact ⟨s.configured d, run, rfl, rfl, rfl, rfl, rfl, rfl⟩
  · intro d ok
    have run := execPartConfig_starts st ok
    refine ⟨fun resident => ?_, fun empty valid conflict => ?_⟩
    · rw [run, if_pos resident]
    · have clash : s.clashes d = true := by rw [State.clashes, valid, conflict]; rfl
      rw [run, if_neg (by rw [show s.residents (leAt (s.hread (leAt b 16 8) 64) 0 1) = 0 from empty]; decide), if_pos clash]
  · rw [exec, execCtxDefine, State.onMain_starts _ st]
    dsimp only
    rw [if_pos used]
  · rw [exec, execCtxDelete, State.onMain_starts _ st]
    dsimp only
    rw [if_pos (by rcases busy with busy | busy <;> rw [busy] <;> decide)]
  · rw [exec, execCtxRestart, State.onMain_starts _ st]
    dsimp only
    rw [if_pos sound]
  · rw [exec, execTableSelect, State.onMain_starts _ st]
    dsimp only
    rw [none_]
  · refine ⟨_, { (default : Ctx) with
      state := .idle, part := leAt b 18 1 % 8, cls := if bit (leAt b 19 1) 0 then .be else .lc, restart := bit (leAt b 19 1) 1, weight := leAt b 20 1
      playbook := leAt b 24 4, fn := leAt b 28 2 }, ?_, rfl, rfl, rfl, rfl, rfl, rfl, rfl, rfl⟩
    rw [exec, execCtxDefine, State.onMain_starts _ st]
    dsimp only
    rw [if_neg (not_not.mpr free), if_neg (by rw [loaded]; decide)]
  · rw [exec, execCtxRestart, State.onMain_starts _ st]
    dsimp only
    rw [if_neg (not_not.mpr faulted)]
  · obtain ⟨noReady, noJobs⟩ := noneWaits ready jobs
    refine ⟨({ s with jobs := s.jobs.filter (fun j => j.2.ctx != leAt b 16 2), ready := s.ready.filter (fun r => r.ctx != leAt b 16 2), ctxs := tdel s.ctxs (leAt b 16 2) } : State).modPart
      (s.ctxSt (leAt b 16 2)).part (fun p => { p with switchIn := p.switchIn.filter (· != leAt b 16 2), evictee := p.evictee.filter (fun e => e.2 != leAt b 16 2) }), ?_, rfl, rfl, rfl⟩
    rw [exec, execCtxDelete, State.onMain_starts _ st]
    dsimp only
    rw [if_neg (by rcases state with state | state <;> rw [state] <;> decide), noReady, noJobs]
    rfl
  · rw [exec, execTableSelect, State.onMain_starts _ st]
    dsimp only
    rw [named]
    dsimp only
    rw [if_pos first]
  · rw [exec, execTableSelect, State.onMain_starts _ st]
    dsimp only
    rw [named]
    dsimp only
    rw [if_neg (by rw [other]; decide)]

end Sys2Proof.Machine
end


section
/-! SUPPORT. O35: the fabric and time commands (R387, R427, R439, R444, R447, R457, R474-R477, R481). -/

namespace Sys2Proof.Machine

theorem leNat_lt (l : List Byte) : leNat l < 256 ^ l.length := by
  induction l with
  | nil => decide
  | cons b l ih =>
    rw [leNat, List.length_cons, pow_succ]
    have := b.isLt
    omega

theorem leAt_lt (l : List Byte) (i n : Nat) : leAt l i n < 256 ^ n :=
  lt_of_lt_of_le (leNat_lt _) (Nat.pow_le_pow_right (by decide) (List.length_take_le _ _))

/-! ### HUDDLE -/

/-- Addresses end with a huddle, and with them the parent port (R440, R444, R478). -/
theorem State.parentCheck_shows (s : State) : s.regsSame (s.parentCheck false) [TIM_STAT]
    ∧ s.parentCheck false = { s with regs := (s.parentCheck false).regs, tim := (s.parentCheck false).tim } := by
  unfold State.parentCheck
  extract_lets p u _ v
  have only : s.RegsOnly u := (State.RegsOnly.refl s).setFld _ _ _
  have reg : s.regsSame u [TIM_STAT] := fun a away => State.reg_setFld_ne s _ _ fun e => away (List.mem_singleton.mpr e)
  have both : s.regsSame v [TIM_STAT] ∧ v = { s with regs := v.regs, tim := v.tim } := by
    unfold v
    clear_value u
    refine ⟨reg, ?_⟩
    rw [only]
  clear_value v p
  by_cases same : p = u.tim.parent
  · rw [if_pos same]
    refine ⟨reg, ?_⟩
    rw [only]
  · rw [if_neg same]
    cases p with
    | none => exact both
    | some n =>
      dsimp only
      rw [if_neg (by decide)]
      refine ⟨both.1, ?_⟩
      rw [both.2]
      rfl

/-- The state of a huddle of an epoch, given what is kept of its candidates (R440, R444). -/
def State.huddling (s : State) (h : HuddleSt) (e : Nat) : State :=
  let u := { s with kol := { s.kol with huddle := h, floodSeen := [], floodDone := [] } }
  ((((u.setFld KOL_STAT KOL_STAT_EPOCH e).setFld KOL_STAT KOL_STAT_ROOT 0).setFld KOL_STAT KOL_STAT_OVERFLOW 0).setFld KOL_STAT KOL_STAT_ADDR_VALID 0).parentCheck false

theorem State.startHuddle_huddling (s : State) (e : Nat) : ∃ h : HuddleSt, h.running = true ∧ h.cmds = s.kol.huddle.cmds ∧ s.startHuddle e = s.huddling h e := by
  unfold State.startHuddle
  extract_lets _ h
  refine ⟨h, rfl, rfl, ?_⟩
  clear_value h
  rfl

theorem State.huddling_shows (s : State) (h : HuddleSt) {e : Nat} (fits : e < 65536) :
    (s.huddling h e).kol.huddle = h ∧ (s.huddling h e).fld KOL_STAT KOL_STAT_EPOCH = e ∧ (s.huddling h e).on KOL_STAT KOL_STAT_ADDR_VALID = false
      ∧ (s.huddling h e).on KOL_STAT KOL_STAT_ROOT = false ∧ s.regsSame (s.huddling h e) [KOL_STAT, TIM_STAT]
      ∧ s.huddling h e = { s with regs := (s.huddling h e).regs, tim := (s.huddling h e).tim, kol := (s.huddling h e).kol } := by
  unfold State.huddling
  extract_lets _ u
  have kolU : u.kol.huddle = h := rfl
  have onlyU : u = { s with kol := u.kol } := rfl
  clear_value u
  obtain ⟨v, hv⟩ : ∃ v, v = (((u.setFld KOL_STAT KOL_STAT_EPOCH e).setFld KOL_STAT KOL_STAT_ROOT 0).setFld KOL_STAT KOL_STAT_OVERFLOW 0).setFld KOL_STAT KOL_STAT_ADDR_VALID 0 :=
    ⟨_, rfl⟩
  rw [← hv]
  have onlyV : u.RegsOnly v := hv ▸ ((((State.RegsOnly.refl u).setFld _ _ _).setFld _ _ _).setFld _ _ _).setFld _ _ _
  have regV : u.regsSame v [KOL_STAT] := fun a away => by
    have ne : a ≠ KOL_STAT := fun e => away (List.mem_singleton.mpr e)
    rw [hv]
    rw [State.reg_setFld_ne _ _ _ ne, State.reg_setFld_ne _ _ _ ne, State.reg_setFld_ne _ _ _ ne, State.reg_setFld_ne _ _ _ ne]
  have epochV : v.fld KOL_STAT KOL_STAT_EPOCH = e := by
    rw [hv]
    rw [State.fld_setFld_other _ _ _ _ _ (by decide) (by decide) (by decide), State.fld_setFld_other _ _ _ _ _ (by decide) (by decide) (by decide),
      State.fld_setFld_other _ _ _ _ _ (by decide) (by decide) (by decide)]
    exact State.fld_setFld_fits _ _ (by decide) (by decide) fits
  have validV : v.on KOL_STAT KOL_STAT_ADDR_VALID = false := hv ▸ State.on_setFld_zero _ _ (by decide) (by decide)
  have rootV : v.on KOL_STAT KOL_STAT_ROOT = false := by
    rw [hv]
    rw [State.on_setFld_other _ _ _ (by decide) (by decide) (by decide), State.on_setFld_other _ _ _ (by decide) (by decide) (by decide)]
    exact State.on_setFld_zero _ _ (by decide) (by decide)
  clear hv
  obtain ⟨regT, onlyT⟩ := v.parentCheck_shows
  generalize v.parentCheck false = t at regT onlyT ⊢
  have stat : t.reg KOL_STAT = v.reg KOL_STAT := regT _ (by decide)
  have kolT : t.kol = u.kol := by rw [onlyT, onlyV]
  refine ⟨kolT ▸ kolU, (State.fld_congr stat _).trans epochV, (State.on_congr stat _).trans validV, (State.on_congr stat _).trans rootV, fun a away => ?_, ?_⟩
  · simp only [List.mem_cons, List.not_mem_nil, or_false, not_or] at away
    rw [regT a (by rw [List.mem_singleton]; exact away.2), regV a (by rw [List.mem_singleton]; exact away.1)]
    rw [onlyU]
    rfl
  · rw [onlyT, onlyV, onlyU]

/-! ### CATCH_SET -/

/-- KOL_CATCH_CFG as CATCH_SET writes it (R447, R457). -/
def State.catchFields (s : State) (b : List Byte) : State :=
  ((((s.setFld KOL_CATCH_CFG KOL_CATCH_CFG_PARTNER_VALID 1).setFld KOL_CATCH_CFG KOL_CATCH_CFG_PARTNER (leAt b 16 1)).setFld KOL_CATCH_CFG KOL_CATCH_CFG_CATCH_PART
    (leAt b 17 1)).setFld KOL_CATCH_CFG KOL_CATCH_CFG_SHADOW_EN (leAt b 18 1)).setFld KOL_CATCH_CFG KOL_CATCH_CFG_SHADOW_BAR (leAt b 20 2)

theorem State.catchFields_shows (s : State) (b : List Byte) : s.RegsOnly (s.catchFields b) ∧ s.regsSame (s.catchFields b) [KOL_CATCH_CFG]
    ∧ (s.catchFields b).on KOL_CATCH_CFG KOL_CATCH_CFG_PARTNER_VALID = true ∧ (s.catchFields b).fld KOL_CATCH_CFG KOL_CATCH_CFG_PARTNER = leAt b 16 1 := by
  unfold State.catchFields
  refine ⟨(((((State.RegsOnly.refl s).setFld _ _ _).setFld _ _ _).setFld _ _ _).setFld _ _ _).setFld _ _ _, fun a away => ?_, ?_, ?_⟩
  · have ne : a ≠ KOL_CATCH_CFG := fun e => away (List.mem_singleton.mpr e)
    rw [State.reg_setFld_ne _ _ _ ne, State.reg_setFld_ne _ _ _ ne, State.reg_setFld_ne _ _ _ ne, State.reg_setFld_ne _ _ _ ne, State.reg_setFld_ne _ _ _ ne]
  · rw [State.on_setFld_other _ _ _ (by decide) (by decide) (by decide), State.on_setFld_other _ _ _ (by decide) (by decide) (by decide),
      State.on_setFld_other _ _ _ (by decide) (by decide) (by decide), State.on_setFld_other _ _ _ (by decide) (by decide) (by decide)]
    exact State.on_setFld_one _ _ (by decide) (by decide)
  · rw [State.fld_setFld_other _ _ _ _ _ (by decide) (by decide) (by decide), State.fld_setFld_other _ _ _ _ _ (by decide) (by decide) (by decide),
      State.fld_setFld_other _ _ _ _ _ (by decide) (by decide) (by decide)]
    exact State.fld_setFld_fits _ _ (by decide) (by decide) (leAt_lt b 16 1)

/-- A partner that is taken anew: the relay starts afresh (R447, R448). -/
def State.freshRelay (s : State) (d : Nat) : State :=
  { s with kol := { s.kol with
    source := some d, hbTb := some s.tb, relaySeq := 0, relayOut := [], relayStopped := false, relayIn := [], relayExp := 0
    relayPos := 0, lastKey := [], hbAccepted := 0, partnerLost := false, tookOver := false } }

theorem execCatchSet_takes {s : State} {q : Fin 64} {pos : BitVec 16} {b : List Byte} (starts : s.starts q pos 0x81 b) (takes : bit (leAt b 19 1) 0 = false) :
    exec (.catchSet q pos) s = .next (s.keeps (if s.partner?.any (fun p => p != leAt b 16 1) then s.complete q (s.cmdKey q pos) .partnerBusy 0 0
      else (if s.partner? == some (leAt b 16 1) then s.catchFields b else (s.catchFields b).freshRelay (leAt b 16 1)).complete q (s.cmdKey q pos) .ok 0 0)) := by
  rw [exec, execCatchSet, State.onMain_starts _ starts]
  dsimp only
  rw [if_neg (by rw [takes]; decide)]
  rfl

/-! ### REMOTE_POST -/

/-- A regulator that is asked changes its partition alone (R386). -/
theorem State.regulate_only (s : State) (p : Nat) (b : Bus) (cls : Cls) (bytes who : Nat) :
    (s.regulate p b cls bytes who).1 = { s with parts := (s.regulate p b cls bytes who).1.parts } := by
  unfold State.regulate
  extract_lets x
  split
  · rfl
  · split
    · rfl
    · split
      · rfl
      · rfl

theorem State.sqPart_regulate (s : State) (q p : Nat) (b : Bus) (cls : Cls) (bytes who : Nat) : (s.regulate p b cls bytes who).1.sqPart q = s.sqPart q := by
  rw [State.regulate_only]
  rfl

/-! ### Time -/

/-- Units of 2^-16 ns that make whole nanoseconds. -/
theorem cdiv_units (c : Int) : cdiv (c * 65536).natAbs 65536 = c.natAbs := by
  unfold cdiv
  omega

theorem State.stepTime_shows (s : State) (c : Int) :
    (0 ≤ c → (s.stepTime (c * 65536)).tim.now = s.tim.now + BitVec.ofNat 64 (c * 65536).toNat ∧ (s.stepTime (c * 65536)).tim.stopNs = s.tim.stopNs)
      ∧ (c < 0 → (s.stepTime (c * 65536)).tim.now = s.tim.now ∧ (s.stepTime (c * 65536)).tim.stopNs = s.tim.stopNs + c.natAbs)
      ∧ s.stepTime (c * 65536) = { s with tim := (s.stepTime (c * 65536)).tim } := by
  unfold State.stepTime
  by_cases forward : 0 ≤ c
  · rw [if_pos (by omega)]
    exact ⟨fun _ => ⟨rfl, rfl⟩, fun back => absurd forward (by omega), rfl⟩
  · rw [if_neg (by omega), cdiv_units]
    exact ⟨fun ahead => absurd ahead forward, fun _ => ⟨rfl, rfl⟩, rfl⟩

theorem State.endHoldover_shows (s : State) : s.endHoldover.pair TIM_PENDING_LO = 0 ∧ s.endHoldover.on TIM_STAT TIM_STAT_HOLDOVER = false
    ∧ s.regsSame s.endHoldover [TIM_STAT, TIM_PENDING_LO, TIM_PENDING_HI] ∧ s.endHoldover.tim = { s.tim with good := 0 } ∧ s.endHoldover.items = s.items
    ∧ s.memSame s.endHoldover := by
  unfold State.endHoldover
  have hold := State.on_setFld_zero s TIM_STAT (f := TIM_STAT_HOLDOVER) (by decide) (by decide)
  have onlyU : s.RegsOnly (s.setFld TIM_STAT TIM_STAT_HOLDOVER 0) := (State.RegsOnly.refl s).setFld _ _ _
  have regU (a : Nat) (ne : a ≠ TIM_STAT) : (s.setFld TIM_STAT TIM_STAT_HOLDOVER 0).reg a = s.reg a := State.reg_setFld_ne s _ _ ne
  generalize s.setFld TIM_STAT TIM_STAT_HOLDOVER 0 = u at hold onlyU regU ⊢
  have pending := u.pair_setPair TIM_PENDING_LO 0
  have onlyV : u.RegsOnly (u.setPair TIM_PENDING_LO 0) := (State.RegsOnly.refl u).setPair _ _
  have regV (a : Nat) (low : a ≠ TIM_PENDING_LO) (high : a ≠ TIM_PENDING_LO + 4) : (u.setPair TIM_PENDING_LO 0).reg a = u.reg a := State.reg_setPair_ne u 0 low high
  generalize u.setPair TIM_PENDING_LO 0 = v at pending onlyV regV ⊢
  have only := onlyU.trans onlyV
  refine ⟨pending, ?_, fun a away => ?_, ?_, ?_, ?_⟩
  · exact (State.on_congr (regV TIM_STAT (by decide) (by decide)) _).trans hold
  · simp only [List.mem_cons, List.not_mem_nil, or_false, not_or] at away
    exact (regV a away.2.1 away.2.2).trans (regU a away.1)
  · rw [only]
  · rw [only]
  · exact State.memSame_trans only.memSame (State.memSame_of rfl rfl rfl rfl rfl)

/-- No step leaves Norentum as it is. -/
theorem Met.takeStep_zero (m : Met) (still : Nat) : m.takeStep 0 still = m := by
  unfold Met.takeStep
  rw [if_neg (by simp)]

/-- A time command that makes no step keeps Norentum. -/
theorem State.onTime_none {s t : State} {f : State → State × Int} (released : s.sys.released = true) (none_ : f s = (t, 0)) : s.onTime f Met.takeStep = .next (s.keeps t) := by
  rw [State.onTime, if_pos released, none_, Met.takeStep_zero]
  rfl

theorem State.onTime_step {s t : State} {c : Int} {f : State → State × Int} (released : s.sys.released = true) (step : f s = (t, c)) :
    s.onTime f Met.takeStep = .next { t with pending := s.pending, met := s.met.takeStep c t.tim.stopNs } := by
  rw [State.onTime, if_pos released, step]

/-- The engine once a step has been accepted (R475, R476). -/
def State.stepped (s : State) (c : Int) : State := ((s.stepTime (c * 65536)).shiftDeadlines c).endHoldover

theorem State.stepped_shows (s : State) (c : Int) :
    (0 ≤ c → (s.stepped c).tim.now = s.tim.now + BitVec.ofNat 64 (c * 65536).toNat ∧ (s.stepped c).tim.stopNs = s.tim.stopNs)
      ∧ (c < 0 → (s.stepped c).tim.now = s.tim.now ∧ (s.stepped c).tim.stopNs = s.tim.stopNs + c.natAbs)
      ∧ (∀ i e, tfind s.items i = some e → tfind (s.stepped c).items i = some (if e.state = .free then e else { e with deadline := addNs c e.deadline }))
      ∧ (s.stepped c).pair TIM_PENDING_LO = 0 ∧ (s.stepped c).on TIM_STAT TIM_STAT_HOLDOVER = false
      ∧ s.regsSame (s.stepped c) [TIM_STAT, TIM_PENDING_LO, TIM_PENDING_HI] ∧ s.memSame (s.stepped c) := by
  unfold State.stepped
  obtain ⟨ahead, back, only⟩ := s.stepTime_shows c
  generalize s.stepTime (c * 65536) = u at ahead back only ⊢
  have moved : (u.shiftDeadlines c).tim = u.tim ∧ (u.shiftDeadlines c).items = tmap s.items (fun _ e => if e.state = .free then e else { e with deadline := addNs c e.deadline })
      ∧ (u.shiftDeadlines c).regs = s.regs ∧ s.memSame (u.shiftDeadlines c) := by
    rw [only]
    exact ⟨rfl, rfl, rfl, State.memSame_of rfl rfl rfl rfl rfl⟩
  generalize u.shiftDeadlines c = v at moved ⊢
  obtain ⟨tim, items, regs, mem⟩ := moved
  obtain ⟨pending, hold, reg, timE, itemsE, memE⟩ := v.endHoldover_shows
  refine ⟨fun h => ?_, fun h => ?_, fun i e there => ?_, pending, hold, fun a away => (reg a away).trans (State.reg_of_regs regs a), State.memSame_trans mem memE⟩
  · rw [timE, tim]
    exact ahead h
  · rw [timE, tim]
    exact back h
  · rw [itemsE, items, tfind_tmap, there]
    rfl

/-- The engine once its time has been set (R481). -/
def State.timeSet (s : State) (t tai : Nat) : State := (s.setTime t tai).addWrap TIM_TAI_HI TIM_TAI_HI_EPOCH

theorem State.timeSet_shows (s : State) (t tai : Nat) : (s.timeSet t tai).tim.now = BitVec.ofNat 64 t ∧ (s.timeSet t tai).tim.tai = tai ∧ (s.timeSet t tai).tim.stopNs = 0
    ∧ (s.timeSet t tai).fld TIM_TAI_HI TIM_TAI_HI_EPOCH = (s.fld TIM_TAI_HI TIM_TAI_HI_EPOCH + 1) % 2 ^ (TIM_TAI_HI_EPOCH.hi + 1 - TIM_TAI_HI_EPOCH.lo)
    ∧ s.regsSame (s.timeSet t tai) [TIM_TAI_HI] ∧ s.memSame (s.timeSet t tai) := by
  unfold State.timeSet State.addWrap
  have set_ : (s.setTime t tai).tim.now = BitVec.ofNat 64 t ∧ (s.setTime t tai).tim.tai = tai ∧ (s.setTime t tai).tim.stopNs = 0
      ∧ (s.setTime t tai).regs = s.regs ∧ s.memSame (s.setTime t tai) := ⟨rfl, rfl, rfl, rfl, State.memSame_of rfl rfl rfl rfl rfl⟩
  generalize s.setTime t tai = u at set_ ⊢
  obtain ⟨now, tai', stop, regs, mem⟩ := set_
  have only : u.RegsOnly (u.setFld TIM_TAI_HI TIM_TAI_HI_EPOCH (u.fld TIM_TAI_HI TIM_TAI_HI_EPOCH + 1)) := (State.RegsOnly.refl u).setFld _ _ _
  have epoch := u.fld_setFld_same TIM_TAI_HI TIM_TAI_HI_EPOCH (u.fld TIM_TAI_HI TIM_TAI_HI_EPOCH + 1) (by decide) (by decide)
  rw [State.fld_congr (State.reg_of_regs regs _)] at epoch
  have reg (a : Nat) (ne : a ≠ TIM_TAI_HI) : (u.setFld TIM_TAI_HI TIM_TAI_HI_EPOCH (u.fld TIM_TAI_HI TIM_TAI_HI_EPOCH + 1)).reg a = u.reg a := State.reg_setFld_ne u _ _ ne
  rw [State.fld_congr (State.reg_of_regs regs _)] at only reg ⊢
  generalize u.setFld TIM_TAI_HI TIM_TAI_HI_EPOCH (s.fld TIM_TAI_HI TIM_TAI_HI_EPOCH + 1) = v at only epoch reg ⊢
  have timV : v.tim = u.tim := by rw [only]
  exact ⟨by rw [timV, now], by rw [timV, tai'], by rw [timV, stop], epoch, fun a away => (reg a fun e => away (List.mem_singleton.mpr e)).trans (State.reg_of_regs regs a),
    State.memSame_trans mem only.memSame⟩

end Sys2Proof.Machine
end


section
/-! SUPPORT. O35: the obligation. -/

namespace Sys2Proof.Machine

theorem kolPortStat_ne_ctl (n : Nat) : KOL_PORT_STAT n ≠ KOL_PORT_CTL n := by
  simp only [KOL_PORT_STAT, KOL_PORT_CTL]
  omega

/-- A port that is off and is enabled trains from the start (R427). -/
theorem State.kolEnable_shows {s : State} {n : Nat} (off : s.on (KOL_PORT_CTL n) KOL_PORT_CTL_EN = false) :
    (s.kolEnable n).on (KOL_PORT_CTL n) KOL_PORT_CTL_EN = true ∧ (s.kolEnable n).on (KOL_PORT_STAT n) KOL_PORT_STAT_TRAINED = false
      ∧ (s.kolEnable n).on (KOL_PORT_STAT n) KOL_PORT_STAT_ALIGNED = false := by
  have away := kolPortStat_ne_ctl n
  obtain ⟨trained, aligned, -⟩ := s.retrain_shows n
  rw [State.kolEnable, if_neg (by rw [off]; decide)]
  generalize s.retrain n = u at trained aligned ⊢
  exact ⟨State.on_setFld_one _ _ (by decide) (by decide), (State.on_congr (State.reg_setFld_ne u _ _ away) _).trans trained,
    (State.on_congr (State.reg_setFld_ne u _ _ away) _).trans aligned⟩

theorem State.keeps_modHuddle (s v : State) (f : HuddleSt → HuddleSt) : (s.keeps (v.modHuddle f)).kol.huddle = f v.kol.huddle ∧ (s.keeps (v.modHuddle f)).regs = v.regs
    ∧ (s.keeps (v.modHuddle f)).fetched = v.fetched ∧ v.memSame (s.keeps (v.modHuddle f)) := ⟨rfl, rfl, rfl, State.memSame_of rfl rfl rfl rfl rfl⟩

/-- A huddle with one more command that waits for its end. -/
def HuddleSt.waiting (h : HuddleSt) (c : Nat × Nat) : HuddleSt := { h with cmds := h.cmds ++ [c] }

/-- HUDDLE waits, running, for the end of the huddle that it starts (R444). -/
theorem execHuddle_starts {s : State} {q : Fin 64} {pos : BitVec 16} {b : List Byte} (starts : s.starts q pos 0x80 b) :
    ∃ t, exec (.huddle q pos) s = .next t ∧ t.kol.huddle.running = true ∧ t.fld KOL_STAT KOL_STAT_EPOCH = (s.fld KOL_STAT KOL_STAT_EPOCH + 1) % 65536
        ∧ t.on KOL_STAT KOL_STAT_ADDR_VALID = false ∧ t.on KOL_STAT KOL_STAT_ROOT = false ∧ t.kol.huddle.cmds = s.kol.huddle.cmds ++ [(q.val, s.cmdKey q pos)]
        ∧ t.fetched = (s.setRunning q (s.cmdKey q pos)).fetched ∧ s.regsSame t [KOL_STAT, TIM_STAT] ∧ s.memSame t := by
  have run : exec (.huddle q pos) s = .next (s.keeps (((s.setRunning q (s.cmdKey q pos)).startHuddle ((s.epoch + 1) % 65536)).modHuddle
      (fun h => h.waiting (q.val, s.cmdKey q pos)))) := by
    rw [exec, execHuddle, State.onMain_starts _ starts]
    rfl
  obtain ⟨u, hu⟩ : ∃ u, u = s.setRunning q (s.cmdKey q pos) := ⟨_, rfl⟩
  obtain ⟨h, running, cmds, eq⟩ := u.startHuddle_huddling ((s.epoch + 1) % 65536)
  obtain ⟨kol, epoch, valid, root, reg, only⟩ := u.huddling_shows h (e := (s.epoch + 1) % 65536) (Nat.mod_lt _ (by decide))
  rw [← hu, eq] at run
  generalize u.huddling h ((s.epoch + 1) % 65536) = v at run kol epoch valid root reg only
  have cmdsU : u.kol.huddle.cmds = s.kol.huddle.cmds := by rw [hu]; rfl
  have fetchedV : v.fetched = u.fetched := by rw [only]
  have memU : s.memSame u := by rw [hu]; exact State.memSame_of rfl rfl rfl rfl rfl
  have memV : u.memSame v := by rw [only]; exact State.memSame_of rfl rfl rfl rfl rfl
  have regU (a : Nat) : u.reg a = s.reg a := by rw [hu]; rfl
  obtain ⟨huddle, regs, fetched, memT⟩ := s.keeps_modHuddle v (fun h => h.waiting (q.val, s.cmdKey q pos))
  generalize s.keeps (v.modHuddle (fun h => h.waiting (q.val, s.cmdKey q pos))) = t at run huddle regs fetched memT
  have regT (a : Nat) : t.reg a = v.reg a := State.reg_of_regs regs a
  refine ⟨t, run, ?_, (State.fld_congr (regT _) _).trans epoch, (State.on_congr (regT _) _).trans valid, (State.on_congr (regT _) _).trans root, ?_, ?_,
    fun a away => (regT a).trans ((reg a away).trans (regU a)), State.memSame_trans (State.memSame_trans memU memV) memT⟩
  · rw [huddle, kol]
    exact running
  · rw [huddle, kol, HuddleSt.waiting, cmds, cmdsU]
  · rw [fetched, fetchedV, hu]

theorem execTimeStepAccept_near {s : State} {q : Fin 64} {pos : BitVec 16} {b : List Byte} (st : s.starts q pos 0xA0 b) (pending : leAt b 16 8 = s.pair TIM_PENDING_LO)
    (near : (sgn 64 (leAt b 16 8)).natAbs ≤ 1000000000) :
    exec (.timeStepAccept q pos) s = .next { (s.stepped (sgn 64 (leAt b 16 8))).complete q (s.cmdKey q pos) .ok 0 0 with
      pending := s.pending
      met := s.met.takeStep (sgn 64 (leAt b 16 8) * 65536) ((s.stepped (sgn 64 (leAt b 16 8))).complete q (s.cmdKey q pos) .ok 0 0).tim.stopNs } := by
  obtain ⟨released, may⟩ := st
  rw [exec, execTimeStepAccept]
  refine State.onTime_step released ?_
  rw [may]
  dsimp only
  rw [if_neg (not_not.mpr pending), if_neg (Nat.not_lt.mpr near), State.stepped]

theorem execTimeSet_idle {s : State} {q : Fin 64} {pos : BitVec 16} {b : List Byte} (st : s.starts q pos 0xA1 b) (items : s.items.any (fun e => e.2.state != .free) = false)
    (ports : (List.range 4).any (fun n => s.on (LIN_PORT_CTL n) LIN_PORT_CTL_EN) = false) :
    exec (.timeSet q pos) s = .next { (s.timeSet (leAt b 16 8) (leAt b 24 6)).complete q (s.cmdKey q pos) .ok 0 0 with
      pending := s.pending
      met := s.met.takeStep (sdiff 64 (leAt b 16 8) s.now.toNat + (s.tim.stopNs * 65536 : Nat)) ((s.timeSet (leAt b 16 8) (leAt b 24 6)).complete q (s.cmdKey q pos) .ok 0 0).tim.stopNs } := by
  obtain ⟨released, may⟩ := st
  rw [exec, execTimeSet]
  refine State.onTime_step released ?_
  rw [may]
  dsimp only
  rw [if_neg (by rw [items, ports]; decide), State.timeSet]

/-- The class of a POST's traffic. -/
def postVc (b : List Byte) : Nat := if bit (leAt b 18 1) 0 then vcBe else vcLc

theorem State.sendPost_passes {s u : State} {q k : Nat} {b : List Byte}
    (asked : s.regulate (s.sqPart q) .fab (if postVc b = vcLc then .lc else .be) (leAt b 20 4) (whoOf 7 (q * 2 ^ 32 + k)) = (u, true)) :
    s.sendPost q k b = ({ u with kol := { u.kol with
        nextTxn := (u.kol.nextTxn + 1) % 2 ^ 32
        txns := tput u.kol.txns u.kol.nextTxn {
          dst := leAt b 16 1, vc := postVc b, msgs := [mkMsg 0x10 0 0 u.kol.nextTxn u.now (leBytes 1 (leAt b 17 1 % 64)) (u.hread (leAt b 24 8) (leAt b 20 4))], sends := 1
          sentTb := u.tb, cmd := some (q, k), seq := none } } }).sendTxn
      (leAt b 16 1) (postVc b) (mkMsg 0x10 0 0 u.kol.nextTxn u.now (leBytes 1 (leAt b 17 1 % 64)) (u.hread (leAt b 24 8) (leAt b 20 4))) (some (s.sqPart q)) := by
  have part := s.sqPart_regulate q (s.sqPart q) .fab (if postVc b = vcLc then .lc else .be) (leAt b 20 4) (whoOf 7 (q * 2 ^ 32 + k))
  rw [asked] at part
  rw [postVc] at asked ⊢
  rw [State.sendPost]
  dsimp only
  rw [asked]
  dsimp only
  rw [part]

theorem State.sendPost_waits {s u : State} {q k : Nat} {b : List Byte}
    (asked : s.regulate (s.sqPart q) .fab (if postVc b = vcLc then .lc else .be) (leAt b 20 4) (whoOf 7 (q * 2 ^ 32 + k)) = (u, false)) : s.sendPost q k b = u := by
  rw [postVc] at asked
  rw [State.sendPost]
  dsimp only
  rw [asked]

theorem State.freshRelay_shows (s : State) (d : Nat) : (s.freshRelay d).regs = s.regs ∧ (s.freshRelay d).kol.source = some d ∧ (s.freshRelay d).kol.relayOut = []
    ∧ (s.freshRelay d).kol.relayStopped = false ∧ s.memSame (s.freshRelay d) := ⟨rfl, rfl, rfl, rfl, State.memSame_of rfl rfl rfl rfl rfl⟩

/-- Settles O35: the fabric commands write the huddle, the partner or a port; an accepted step and a set time reach Norentum as the same step, and the
  refusals make none. -/
theorem fabricAndTimeCommands : Obligations.FabricAndTimeCommands := by
  unfold Obligations.FabricAndTimeCommands
  refine ⟨fun s q pos b => ⟨execHuddle_starts, fun st takes alone => ?_, fun st takes same => ?_, fun st takes d partner other => ?_, fun st ends => ?_, fun st port => ?_,
    fun st fresh => ?_, fun k => ?_, fun released k waits => ⟨fun sent => ?_, fun unsent => ?_⟩⟩,
    fun s q pos b => ⟨fun st pending near => ?_, fun st pending far => ?_, fun st other => ?_, fun st items ports => ?_, fun st busy => ?_⟩⟩
  · have run := execCatchSet_takes st takes
    obtain ⟨only, reg, valid, partner⟩ := s.catchFields_shows b
    rw [alone, if_neg (by simp), if_neg (by simp)] at run
    generalize s.catchFields b = u at run only reg valid partner
    obtain ⟨regs, source, none_, stopped, mem⟩ := u.freshRelay_shows (leAt b 16 1)
    generalize u.freshRelay (leAt b 16 1) = t at run regs source none_ stopped mem
    have regT (a : Nat) : t.reg a = u.reg a := State.reg_of_regs regs a
    exact ⟨t, run, (State.on_congr (regT _) _).trans valid, (State.fld_congr (regT _) _).trans partner, source, none_, stopped, fun a away => (regT a).trans (reg a away),
      State.memSame_trans only.memSame mem⟩
  · have run := execCatchSet_takes st takes
    obtain ⟨only, reg, valid, partner⟩ := s.catchFields_shows b
    rw [same, if_neg (by simp), if_pos (by simp)] at run
    refine ⟨s.catchFields b, run, ?_, only.same State.kol fun _ _ => rfl, reg, only.memSame⟩
    rw [State.partner?, if_pos valid, partner]
  · rw [execCatchSet_takes st takes, partner, if_pos (by simpa using other)]
  · rw [exec, execCatchSet, State.onMain_starts _ st]
    dsimp only
    rw [if_pos ends]
  · obtain ⟨en, trained, aligned⟩ := State.kolEnable_shows (s.kolDisable_shows (leAt b 16 1)).1
    refine ⟨(s.kolDisable (leAt b 16 1)).kolEnable (leAt b 16 1), ?_, rfl, en, trained, aligned⟩
    rw [exec, execLinkReset, State.onMain_starts _ st]
  · obtain ⟨released, may⟩ := st
    rw [exec, execRemotePost, State.onMain_keeps _ released, fresh, State.command, may]
  · exact ⟨fun passes => State.sendPost_passes (Prod.ext rfl passes), fun held => State.sendPost_waits (Prod.ext rfl held)⟩
  · rw [exec, execRemotePost, State.onMain_keeps _ released, waits]
    dsimp only
    rw [if_pos sent]
    rfl
  · rw [exec, execRemotePost, State.onMain_keeps _ released, waits]
    dsimp only
    rw [if_neg (by rw [unsent]; decide)]
  · exact ⟨s.stepped (sgn 64 (leAt b 16 8)), execTimeStepAccept_near st pending near, s.stepped_shows _⟩
  · obtain ⟨released, may⟩ := st
    rw [exec, execTimeStepAccept]
    refine State.onTime_none released ?_
    rw [may]
    dsimp only
    rw [if_neg (not_not.mpr pending), if_pos far]
  · obtain ⟨released, may⟩ := st
    rw [exec, execTimeStepAccept]
    refine State.onTime_none released ?_
    rw [may]
    dsimp only
    rw [if_pos other]
  · exact ⟨s.timeSet (leAt b 16 8) (leAt b 24 6), execTimeSet_idle st items ports, s.timeSet_shows _ _⟩
  · obtain ⟨released, may⟩ := st
    rw [exec, execTimeSet]
    refine State.onTime_none released ?_
    rw [may]
    dsimp only
    rw [if_pos (Bool.or_eq_true_iff.mpr busy)]

end Sys2Proof.Machine
end


section
/-! SUPPORT. O36: decoded images, crops, inputs of further passes, and openings that waited (R26, R361-R374, R387, R529). -/

namespace Sys2Proof.Machine

/-! ### What a write to DRAM leaves -/

theorem State.putCrop_crops (s : State) (c : Crop) : (s.putCrop c).crops = s.crops ++ [c] := by
  rw [State.putCrop, State.dwrite_crops]

theorem State.putCrop_regs (s : State) (c : Crop) : (s.putCrop c).regs = s.regs := by
  rw [State.putCrop, State.dwrite_regs]

theorem State.putCrop_images (s : State) (c : Crop) : (s.putCrop c).images = s.images := by
  rw [State.putCrop, State.dwrite_images]

theorem State.putCrop_pieces (s : State) (c : Crop) : (s.putCrop c).pieces = s.pieces := by
  rw [State.putCrop, State.dwrite_pieces]

/-- A register that counts to its limit (R13). -/
theorem State.num_incReg (s : State) (a n : Nat) : (s.incReg a n).num a = min (s.num a + n) 0xFFFFFFFF := by
  rw [State.incReg, State.num_setNum_same _ _ (by omega)]

/-! ### Raw images of 8 bits -/

theorem Image.decode_short {m : Image} (raw : m.format = 3) (short : m.data.length < m.rawBytes) : m.decode = .error .decTruncated := by
  simp only [Image.decode, raw, if_pos short]

theorem Image.decode_whole {m : Image} (raw : m.format = 3) (whole : m.rawBytes ≤ m.data.length) :
    m.decode = .ok ((List.range (if m.colour then 3 else 1)).map (fun k =>
      rawPlane m.data (k * m.pitch * m.height) m.pitch m.width m.height (fun r => r.map (fun b => b.toNat * 16 + b.toNat / 16)))) := by
  simp only [Image.decode, raw, if_neg (Nat.not_lt.mpr whole)]
  rfl

/-- The counter and the crop of a decoded image. -/
theorem State.putCrop_counted (v : State) (c : Crop) (images : Tbl Image) :
    let w := ({ v.putCrop c with images := images } : State).incReg DEC_IMG_CNT
    w.num DEC_IMG_CNT = min (v.num DEC_IMG_CNT + 1) 0xFFFFFFFF ∧ w.crops.getLast? = some c := by
  refine ⟨?_, ?_⟩
  · rw [State.num_incReg]
    have same : ({ v.putCrop c with images := images } : State).num DEC_IMG_CNT = v.num DEC_IMG_CNT :=
      State.num_congr (State.reg_of_regs (v.putCrop_regs c) _)
    rw [same]
  · have crops : (({ v.putCrop c with images := images } : State).incReg DEC_IMG_CNT).crops = v.crops ++ [c] := v.putCrop_crops c
    rw [crops, List.getLast?_concat]

/-- Settles O36: the decode engine's commands, branch by branch; an image of format 3 decodes to its planes when it is whole. -/
theorem imagesAndCrops : Obligations.ImagesAndCrops := by
  unfold Obligations.ImagesAndCrops
  refine ⟨fun s i m found released current raw => ⟨fun short => ?_, fun whole => ?_⟩, fun s released => ⟨fun i r h n live need away ready => ?_,
    fun i q c m pb u live waits running first last crop model playbook passed v good => ?_, fun shut => ?_, fun w rest wait may own fresh kind => ?_⟩⟩
  · rw [exec, execImageDecodeDone, State.onMain_keeps _ released]
    dsimp only
    rw [current]
    dsimp only
    rw [Image.decode_short raw short]
  · intro planes n
    have decoded : m.decode = .ok planes := Image.decode_whole raw whole
    clear_value planes
    refine ⟨fun u full => ?_, fun u a v room held => ?_, fun u a v room passed => ?_⟩
    · rw [exec, execImageDecodeDone, State.onMain_keeps _ released]
      dsimp only
      rw [current]
      dsimp only
      rw [decoded]
      dsimp only
      rw [full]
    · rw [exec, execImageDecodeDone, State.onMain_keeps _ released]
      dsimp only
      rw [current]
      dsimp only
      rw [decoded]
      dsimp only
      rw [room]
      dsimp only
      rw [held]
    · intro w
      obtain ⟨counted, crop⟩ := v.putCrop_counted { item := v.itemId i, top := v.itemId i, width := m.width, height := m.height, x0 := 0, y0 := 0, planes := planes, stamp := v.now, used := v.tb, place := a, repaired := 0 } (tput v.images i { m with decoded := true, data := [] })
      have pieces : w.pieces = v.pieces := v.putCrop_pieces _
      refine ⟨?_, counted, (congrArg (Option.map (·.planes)) crop :)⟩
      rw [exec, execImageDecodeDone, State.onMain_keeps _ released]
      dsimp only
      rw [current]
      dsimp only
      rw [decoded]
      dsimp only
      rw [room]
      dsimp only
      rw [passed]
      dsimp only
      rw [State.putCrop_images, ← pieces]
  · refine ⟨fun u held => ?_, fun u passed => ⟨fun v lost => ?_, fun v planes rep read => ⟨?_, v.putCrop_crops _⟩⟩⟩
    · rw [exec, execCropWritten, State.onMain_keeps _ released]
      dsimp only
      rw [live]
      dsimp only
      rw [need, away, if_neg (by decide), ready]
      dsimp only
      rw [held]
    · rw [exec, execCropWritten, State.onMain_keeps _ released]
      dsimp only
      rw [live]
      dsimp only
      rw [need, away, if_neg (by decide), ready]
      dsimp only
      rw [passed]
      dsimp only
      rw [lost]
    · rw [exec, execCropWritten, State.onMain_keeps _ released]
      dsimp only
      rw [live]
      dsimp only
      rw [need, away, if_neg (by decide), ready]
      dsimp only
      rw [passed]
      dsimp only
      rw [read]
  · intro read
    have open_ : (q.inputReady || decide (q.ending ≠ .running) || decide (q.pass = 0) || decide (8 < q.pass)) = false := by
      rw [waits, decide_eq_false (not_not.mpr running), decide_eq_false (by omega), decide_eq_false (by omega)]
      rfl
    have run : exec (.passInputWritten i) s = .next (s.keeps (if !good then v else
        (v.modSeq i (fun x => { x with inputReady := true, input := c.planes.map (perturbPlane (perturbOf pb.seed q.index q.pass m) c.width c.height) })).stepReady i)) := by
      rw [exec, execPassInputWritten, State.onMain_keeps _ released]
      dsimp only
      rw [live]
      dsimp only
      rw [if_neg (by rw [open_]; decide), crop, model, playbook]
      dsimp only
      rw [passed]
      dsimp only
      rw [read]
    exact ⟨fun isGood => by rw [run, if_neg (by rw [isGood]; decide)], fun isBad => by rw [run, if_pos (by rw [isBad]; rfl)]⟩
  · rw [exec, execBeItemOpenWait, State.onMain_keeps _ released]
    rcases wait : s.beWait with _ | ⟨w, rest⟩
    · rfl
    · dsimp only
      rw [shut, if_pos (by decide)]
      rfl
  · rw [exec, execBeItemOpenWait, State.onMain_keeps _ released]
    dsimp only
    rw [wait]
    dsimp only
    rw [may, if_neg (by decide), own, fresh]
    dsimp only
    split
    · exact absurd ‹_› kind
    · exact absurd ‹_› kind
    · rfl

end Sys2Proof.Machine
end


section
/-! SUPPORT. O37: the mask cache, the timers of sequences, and the rows of an EMIT group (R21, R339-R341, R347, R354, R379). -/

namespace Sys2Proof.Machine

/-! ### The mask cache -/

/-- A cache of 128 masks takes one more and leaves one that nothing uses, or the new one (R339). -/
theorem trimMasks_bounds (inUse masks : List (Nat × Nat)) (new : Nat × Nat) (small : masks.length ≤ 128) :
    (trimMasks inUse (new :: masks.erase new)).length ≤ 128 ∧ ∀ k ∈ masks, inUse.contains k = true → k ∈ trimMasks inUse (new :: masks.erase new) := by
  have mem {k} (old : k ∈ masks) : k ∈ new :: masks.erase new := by
    by_cases same : k = new
    · rw [same]
      exact List.mem_cons_self
    · exact List.mem_cons_of_mem _ ((List.mem_erase_of_ne same).mpr old)
  have length : (new :: masks.erase new).length ≤ 129 := by
    have shorter := List.length_erase_le (a := new) (l := masks)
    rw [List.length_cons]
    omega
  unfold trimMasks
  split
  · exact ⟨‹_›, fun k old _ => mem old⟩
  · rename_i full
    split
    · rename_i out found
      have isIn : out ∈ new :: masks.erase new := List.mem_reverse.mp (List.mem_of_find?_eq_some found)
      have unused : inUse.contains out = false := by simpa using List.find?_some found
      refine ⟨by rw [List.length_erase_of_mem isIn]; omega, fun k old used => ?_⟩
      have other : k ≠ out := fun same => by rw [same, unused] at used; exact absurd used (by decide)
      exact (List.mem_erase_of_ne other).mpr (mem old)
    · refine ⟨by rw [List.length_drop]; omega, fun k old _ => ?_⟩
      have fresh : new ∉ masks := fun isIn => full (by
        have cut := List.length_erase_of_mem isIn
        have some_ := List.length_pos_of_mem isIn
        rw [List.length_cons]
        omega)
      exact (List.mem_erase_of_ne (a := k) (b := new) (fun same => fresh (same ▸ old))).mpr old

/-! ### EMIT groups -/

theorem State.takeGroup_held {s : State} {p : Nat} {g : EmitGroup} (held : tfind s.groups p = some g) : s.takeGroup p = s := by
  rw [State.takeGroup, held]

theorem State.answerGroup_ready {s : State} {p : Nat} {g : EmitGroup} (ready : g.slices.any s.emitAgain = false) :
    s.answerGroup p g = g.slices.foldl (fun s x => s.answerPart g.results x) { s with groups := tdel s.groups p } := by
  have none_ : g.slices.any (fun e => s.emitAgain e && s.ackOver e g.results.length) = false := by
    rw [List.any_eq_false] at ready ⊢
    exact fun e isIn both => ready e isIn (Bool.and_eq_true _ _ ▸ both).1
  rw [State.answerGroup, if_neg (by rw [none_]; decide)]

/-- Settles O37: the mask cache by the bound on its trimming; the timers and the rows branch by branch. -/
theorem tokenTimersAndRows : Obligations.TokenTimersAndRows := by
  unfold Obligations.TokenTimersAndRows
  refine ⟨fun s released => ⟨fun t m => ⟨fun asked => ?_, fun unasked => ?_, trimMasks_bounds _ _ _⟩, fun i q t live since running due => ?_, fun i q t live since early => ?_,
    fun i q m live model early => ?_, fun i q m live model running due => ?_⟩,
    fun s p g e rest released held parts => ⟨fun ok left => ⟨fun none_ => ?_, fun more => ?_, fun last => ?_⟩, fun bad => ?_,
      fun ready => ⟨State.answerGroup_ready ready, if_neg (by rw [ready]; decide)⟩⟩⟩
  · rw [exec, execMaskFetchDone, State.onMain_keeps _ released]
    rw [if_pos asked]
    rfl
  · rw [exec, execMaskFetchDone, State.onMain_keeps _ released]
    rw [if_neg (by rw [unasked]; decide)]
    rfl
  · rw [exec, execLiveChunkTimeout, State.onMain_keeps _ released]
    rw [live]
    dsimp only
    rw [since]
    dsimp only
    rw [if_pos (by rw [running, decide_eq_true due]; decide)]
  · rw [exec, execLiveChunkTimeout, State.onMain_keeps _ released]
    rw [live]
    dsimp only
    rw [since]
    dsimp only
    rw [if_neg (by rw [decide_eq_false (Nat.not_le.mpr early)]; simp)]
    rfl
  · rw [exec, execDecodeBudgetExpiry, State.onMain_keeps _ released]
    rw [live]
    dsimp only
    rw [model]
    dsimp only
    rw [if_neg (by rw [decide_eq_false (Nat.not_le.mpr early)]; simp)]
    rfl
  · rw [exec, execDecodeBudgetExpiry, State.onMain_keeps _ released]
    rw [live]
    dsimp only
    rw [model]
    dsimp only
    rw [if_pos (by rw [running, decide_eq_true due]; decide)]
  · rw [none_, State.decideRow, if_pos rfl]
  · rw [exec, execEmitDecide, State.onMain_keeps _ released]
    dsimp only
    rw [State.takeGroup_held held, held]
    dsimp only
    rw [parts]
    dsimp only
    rw [← parts, if_neg (by rw [ok]; decide), if_neg (Nat.not_le.mpr left), if_pos more]
  · rw [exec, execEmitDecide, State.onMain_keeps _ released]
    dsimp only
    rw [State.takeGroup_held held, held]
    dsimp only
    rw [parts]
    dsimp only
    rw [← parts, if_neg (by rw [ok]; decide), if_neg (Nat.not_le.mpr left), if_neg (Nat.not_lt.mpr last)]
  · rw [exec, execEmitDecide, State.onMain_keeps _ released]
    dsimp only
    rw [State.takeGroup_held held, held]
    dsimp only
    rw [parts]
    dsimp only
    rw [← parts, if_pos (by rw [bad]; decide)]

end Sys2Proof.Machine
end


section
/-! SUPPORT. Rules of a logical tile: its state, its queues, reads of its store that count what they correct (R207, R210, R526, R528). -/

namespace Sys2Proof.Machine

/-! ### The state of a tile -/

@[simp] theorem State.tileSt_modTile_same (s : State) (t : Nat) (f : Tile → Tile) : (s.modTile t f).tileSt t = f (s.tileSt t) := by
  rw [State.tileSt, State.modTile, tget_tput_same]

theorem State.tileSt_modTile_ne (s : State) {t k : Nat} (f : Tile → Tile) (other : k ≠ t) : (s.modTile t f).tileSt k = s.tileSt k := by
  rw [State.tileSt, State.modTile, tget_tput_ne _ _ _ other, State.tileSt]

/-- A tile's state depends on the table of tiles alone. -/
theorem State.tileSt_congr {s u : State} (tiles : u.tiles = s.tiles) (k : Nat) : u.tileSt k = s.tileSt k := by
  rw [State.tileSt, State.tileSt, tiles]

/-! ### Queues -/

@[simp] theorem Tile.queue_setQueue_same (x : Tile) (e : Engine) (q : List QCmd) : (x.setQueue e q).queue e = q := by
  cases e <;> rfl

theorem Tile.queue_setQueue_ne (x : Tile) {e k : Engine} (q : List QCmd) (other : k ≠ e) : (x.setQueue e q).queue k = x.queue k := by
  revert other
  cases e <;> cases k <;> simp [Tile.queue, Tile.setQueue]

/-- What reads none of the three queues is the same after one is set. -/
theorem Tile.setQueue_keeps {α : Type} (g : Tile → α) (mac : ∀ x q, g { x with mac := q } = g x) (vec : ∀ x q, g { x with vec := q } = g x) (msg : ∀ x q, g { x with msg := q } = g x)
    (x : Tile) (e : Engine) (q : List QCmd) : g (x.setQueue e q) = g x := by
  cases e
  · exact mac x q
  · exact vec x q
  · exact msg x q

theorem Tile.queue_signal (x : Tile) (c : QCmd) (e : Engine) : (x.signal c).queue e = x.queue e := by
  unfold Tile.signal
  extract_lets k
  split
  · cases e <;> rfl
  · rfl

/-- A semaphore that a command signals goes up by one (R210). -/
theorem Tile.signal_sems (x : Tile) (c : QCmd) :
    (bit (c.u 3 1) 7 = true → tget 0 (x.signal c).sems (c.u 3 1 % 16) = (tget 0 x.sems (c.u 3 1 % 16) + 1) % 65536) ∧ (bit (c.u 3 1) 7 = false → (x.signal c).sems = x.sems) := by
  unfold Tile.signal
  constructor
  · intro on
    dsimp only
    rw [if_pos on]
    exact tget_tset_same _ _ _ _
  · intro off
    dsimp only
    rw [if_neg (by rw [off]; decide)]

/-! ### The head of a queue -/

theorem State.modHead_tiles (s : State) (t : Nat) (e : Engine) (f : QCmd → QCmd) : s.modHead t e f = { s with tiles := (s.modHead t e f).tiles } := rfl

theorem State.tileSt_modHead_ne (s : State) {t k : Nat} (e : Engine) (f : QCmd → QCmd) (other : k ≠ t) : (s.modHead t e f).tileSt k = s.tileSt k :=
  State.tileSt_modTile_ne s _ other

theorem State.tileSt_modHead {s : State} {t : Nat} {e : Engine} {c : QCmd} {rest : List QCmd} (f : QCmd → QCmd) (head : (s.tileSt t).queue e = c :: rest) :
    (s.modHead t e f).tileSt t = { (s.tileSt t).setQueue e (f c :: rest) with hsTb := s.tb } := by
  rw [State.modHead, State.tileSt_modTile_same, head]

/-- The queue after its head has changed. -/
theorem State.queue_modHead {s : State} {t : Nat} {e : Engine} {c : QCmd} {rest : List QCmd} (f : QCmd → QCmd) (head : (s.tileSt t).queue e = c :: rest) :
    ((s.modHead t e f).tileSt t).queue e = f c :: rest := by
  rw [State.tileSt_modHead f head]
  exact (by cases e <;> rfl : _ = ((s.tileSt t).setQueue e (f c :: rest)).queue e).trans (Tile.queue_setQueue_same _ _ _)

/-! ### Reads that only count -/

/-- A state in which registers have changed and corrections were counted, and nothing else. -/
def State.Counted (s u : State) : Prop := u = { s with regs := u.regs, ras := { s.ras with second := u.ras.second } }

namespace State.Counted

variable {s t u : State}

theorem refl (s : State) : s.Counted s := rfl

theorem trans (h : s.Counted t) (h' : t.Counted u) : s.Counted u := by
  unfold State.Counted at h h' ⊢
  rw [h] at h'
  exact h'

theorem incReg (h : s.Counted t) (a n : Nat) : s.Counted (t.incReg a n) := h.trans rfl

theorem countCorr (h : s.Counted t) (k : Nat) : s.Counted (t.countCorr k) := h.trans rfl

theorem foldl {β : Type} {f : State → β → State} (step : ∀ (x : State) b, x.Counted (f x b)) (l : List β) (s : State) : s.Counted (l.foldl f s) := by
  induction l generalizing s with
  | nil => exact refl s
  | cons b l ih => exact (step s b).trans (ih (f s b))

/-- What reads neither a register nor the count of corrections is as it was. -/
theorem same {β : Type} (h : s.Counted t) (f : State → β) (blind : ∀ (s : State) r c, f { s with regs := r, ras := { s.ras with second := c } } = f s) : f t = f s := by
  rw [h]
  exact blind s _ _

theorem keeps (h : s.Counted t) : s.keeps t = t := by
  rw [h]
  rfl

end State.Counted

/-- A read of a tile's store that meets no uncorrectable word counts what it corrects (R526). -/
theorem State.didTread_counted {s : State} {t a n : Nat} (good : (s.didTread t a n).2 = true) : s.Counted (s.didTread t a n).1 := by
  unfold State.didTread at good ⊢
  split
  · exact State.Counted.refl s
  · rename_i some_
    rw [if_neg some_] at good
    dsimp only at good ⊢
    split
    · exact State.Counted.foldl (fun x _ => ((State.Counted.refl x).incReg _ _).countCorr _) _ s
    · rename_i bad
      rw [bad] at good
      exact Bool.noConfusion good

theorem State.didTread_clean {s : State} (clean : s.ras.tchk = []) (t a n : Nat) : s.didTread t a n = (s, true) := by
  rw [State.didTread, if_pos clean]

/-- The next of several reads: none where one before met an uncorrectable word. -/
def State.treadNext {β : Type} (t : Nat) (addr len : β → Nat) (y : State × Bool) (r : β) : State × Bool := if y.2 then y.1.didTread t (addr r) (len r) else y

/-- Several reads of a tile's store, of which none met an uncorrectable word, count. -/
theorem State.treads_counted {β : Type} (t : Nat) (addr len : β → Nat) (l : List β) (s : State) (good : (l.foldl (State.treadNext t addr len) (s, true)).2 = true) :
    s.Counted (l.foldl (State.treadNext t addr len) (s, true)).1 := by
  have stuck (l : List β) (s : State) : l.foldl (State.treadNext t addr len) (s, false) = (s, false) := by
    induction l with
    | nil => rfl
    | cons r l ih => exact ih
  induction l generalizing s with
  | nil => exact State.Counted.refl s
  | cons r l ih =>
    rw [List.foldl_cons] at good ⊢
    have first : State.treadNext t addr len (s, true) r = s.didTread t (addr r) (len r) := if_pos rfl
    rw [first] at good ⊢
    rcases read : s.didTread t (addr r) (len r) with ⟨u, ok⟩
    rw [read] at good
    cases ok
    · rw [stuck] at good
      exact Bool.noConfusion good
    · have counted := State.didTread_counted (s := s) (t := t) (a := addr r) (n := len r) (by rw [read])
      rw [read] at counted
      exact counted.trans (ih u good)

theorem State.treads_clean {β : Type} (t : Nat) (addr len : β → Nat) (l : List β) {s : State} (clean : s.ras.tchk = []) : l.foldl (State.treadNext t addr len) (s, true) = (s, true) := by
  induction l with
  | nil => rfl
  | cons r l ih =>
    rw [List.foldl_cons, State.treadNext, if_pos rfl, State.didTread_clean clean]
    exact ih

/-! ### Completion -/

theorem State.modCtx_same (s : State) (c : Nat) (f : Ctx → Ctx) : s.modCtx c f = { s with ctxs := (s.modCtx c f).ctxs } := rfl

/-- A counted command (R216). -/
theorem State.countCmd_shows (s : State) (t : Nat) :
    (s.countCmd t) = { s with regs := (s.countCmd t).regs, ctxs := (s.countCmd t).ctxs } ∧ (s.countCmd t).regs = (s.setPair PIT_CMD_DONE_LO (s.pair PIT_CMD_DONE_LO + 1)).regs := by
  unfold State.countCmd
  extract_lets u
  split <;> exact ⟨rfl, rfl⟩

end Sys2Proof.Machine
end


section
/-! SUPPORT. O39: commands on the queues of a tile, and its barriers (R207-R212, R216, R219, R223-R228, R235). -/

namespace Sys2Proof.Machine

/-! ### What a start sets going -/

/-- The frames of a command's pages are noted on its tile alone (R227). -/
theorem State.noteFrames_shows (s : State) (t : Nat) (c : QCmd) :
    s.noteFrames t c = { s with tiles := (s.noteFrames t c).tiles } ∧ (∀ k, k ≠ t → (s.noteFrames t c).tileSt k = s.tileSt k)
      ∧ ∃ fs, (s.noteFrames t c).tileSt t = { s.tileSt t with readFrames := fs } := by
  unfold State.noteFrames
  extract_lets f globs fs
  split
  · exact ⟨rfl, fun k other => State.tileSt_modTile_ne s _ other, _, State.tileSt_modTile_same s t _⟩
  · exact ⟨rfl, fun k _ => rfl, _, rfl⟩

/-- A command that is no SEND sends nothing; a STREAM_IN with FIRST forgets the SIDE before (R231, R268). -/
theorem State.startMsg_shows (s : State) (t : Nat) {c : QCmd} (plain : c.op ≠ 0x30) :
    s.startMsg t c = { s with tiles := (s.startMsg t c).tiles } ∧ (∀ k, k ≠ t → (s.startMsg t c).tileSt k = s.tileSt k)
      ∧ (∀ e, ((s.startMsg t c).tileSt t).queue e = (s.tileSt t).queue e) ∧ (c.op = 0x37 → c.first = true → ((s.startMsg t c).tileSt t).streamAt = none) := by
  unfold State.startMsg
  split
  · exact absurd ‹_› plain
  · split
    · refine ⟨rfl, fun k other => State.tileSt_modTile_ne s _ other, fun e => ?_, fun _ _ => ?_⟩
      · rw [State.tileSt_modTile_same]
        cases e <;> rfl
      · rw [State.tileSt_modTile_same]
    · rename_i later
      exact ⟨rfl, fun _ _ => rfl, fun _ => rfl, fun _ first => absurd first later⟩
  · rename_i noStream
    exact ⟨rfl, fun _ _ => rfl, fun _ => rfl, fun stream _ => absurd stream noStream⟩

/-- A SEND takes the next output number, and its message goes on the way unless its receiver has it already (R219, R231). -/
theorem State.startMsg_send {s : State} {t : Nat} {c d : QCmd} {rest : List QCmd} (send : c.op = 0x30) (head : (s.tileSt t).queue .msg = d :: rest) :
    s.startMsg t c = { s with tiles := (s.startMsg t c).tiles, msgs := (s.startMsg t c).msgs }
      ∧ ((s.startMsg t c).tileSt t).queue .msg = { d with done := (s.tileSt t).outSeq + 1 } :: rest ∧ ((s.startMsg t c).tileSt t).outSeq = (s.tileSt t).outSeq + 1
      ∧ (s.startMsg t c).msgs = if (s.tileSt t).outSeq + 1 ≤ (s.tileSt t).accepted then s.msgs
        else s.msgs ++ [{ src := t, dst := c.u 32 1, tag := c.u 34 2, ckptNo := (s.tileSt t).ckptNo, seq := (s.tileSt t).outSeq + 1, data := s.tread t c.aAddr (c.u 40 4) }] := by
  obtain ⟨n, hn⟩ : ∃ n, n = (s.tileSt t).outSeq + 1 := ⟨_, rfl⟩
  obtain ⟨u, hu⟩ : ∃ u, u = (s.modTile t (fun x => { x with outSeq := x.outSeq + 1 })).modHead t .msg (fun c => { c with done := n }) := ⟨_, rfl⟩
  have counted : (s.modTile t (fun x => { x with outSeq := x.outSeq + 1 })).tileSt t = { s.tileSt t with outSeq := n } := by
    rw [State.tileSt_modTile_same, hn]
  have tile : u.tileSt t = { ({ s.tileSt t with outSeq := n } : Tile).setQueue .msg ({ d with done := n } :: rest) with hsTb := s.tb } := by
    rw [hu, State.tileSt_modHead (c := d) (rest := rest) _ (by rw [counted]; exact head), counted]
    rfl
  have only : u = { s with tiles := u.tiles } := by rw [hu]; rfl
  have run : s.startMsg t c = if decide (n ≤ (s.tileSt t).accepted) then u
      else { u with msgs := u.msgs ++ [{ src := t, dst := c.u 32 1, tag := c.u 34 2, ckptNo := (u.tileSt t).ckptNo, seq := n, data := u.tread t c.aAddr (c.u 40 4) }] } := by
    rw [State.startMsg, send, hu, hn]
    rfl
  have msgs : u.msgs = s.msgs := by rw [only]
  have read : u.tread t c.aAddr (c.u 40 4) = s.tread t c.aAddr (c.u 40 4) := by rw [only]; rfl
  have no : (u.tileSt t).ckptNo = (s.tileSt t).ckptNo := by rw [tile]; rfl
  have queue : (u.tileSt t).queue .msg = { d with done := n } :: rest := by rw [tile]; rfl
  have out : (u.tileSt t).outSeq = n := by rw [tile]; rfl
  rw [run, ← hn]
  by_cases old : n ≤ (s.tileSt t).accepted
  · rw [if_pos (decide_eq_true old), if_pos old]
    exact ⟨by rw [only], queue, out, msgs⟩
  · rw [if_neg (by rw [decide_eq_false old]; decide), if_neg old, no, read, msgs]
    exact ⟨by rw [only], queue, out, rfl⟩

/-- What the start of a command that is no SEND leaves. -/
theorem State.started_plain {s : State} {t : Nat} {e : Engine} {c : QCmd} {rest : List QCmd} (F : QCmd → QCmd) (head : (s.tileSt t).queue e = c :: rest) (plain : c.op ≠ 0x30) :
    ∃ u, ((s.modHead t e F).startMsg t c).noteFrames t c = u ∧ u = { s with tiles := u.tiles } ∧ (u.tileSt t).queue e = F c :: rest ∧ (∀ k, k ≠ t → u.tileSt k = s.tileSt k)
      ∧ (c.op = 0x37 → c.first = true → (u.tileSt t).streamAt = none) := by
  obtain ⟨v, hv⟩ : ∃ v, v = s.modHead t e F := ⟨_, rfl⟩
  have onlyV : v = { s with tiles := v.tiles } := by rw [hv]; rfl
  have queueV : (v.tileSt t).queue e = F c :: rest := by rw [hv]; exact State.queue_modHead F head
  have otherV (k : Nat) (ne : k ≠ t) : v.tileSt k = s.tileSt k := by rw [hv]; exact State.tileSt_modHead_ne s e F ne
  rw [← hv]
  obtain ⟨onlyW, otherW, queueW, stream⟩ := v.startMsg_shows t plain
  generalize v.startMsg t c = w at onlyW otherW queueW stream ⊢
  obtain ⟨onlyU, otherU, fs, tileU⟩ := w.noteFrames_shows t c
  generalize w.noteFrames t c = u at onlyU otherU tileU ⊢
  refine ⟨u, rfl, ?_, ?_, fun k ne => ?_, fun op first => ?_⟩
  · rw [onlyU, onlyW, onlyV]
  · rw [tileU]
    exact (by cases e <;> rfl : _ = (w.tileSt t).queue e).trans ((queueW e).trans queueV)
  · rw [otherU k ne, otherW k ne, otherV k ne]
  · rw [tileU]
    exact stream op first

/-- What the start of a SEND leaves. -/
theorem State.started_send {s : State} {t : Nat} {c : QCmd} {rest : List QCmd} (F : QCmd → QCmd) (head : (s.tileSt t).queue .msg = c :: rest) (send : c.op = 0x30) :
    ∃ u, ((s.modHead t .msg F).startMsg t c).noteFrames t c = u ∧ u = { s with tiles := u.tiles, msgs := u.msgs }
      ∧ (u.tileSt t).queue .msg = { F c with done := (s.tileSt t).outSeq + 1 } :: rest ∧ (u.tileSt t).outSeq = (s.tileSt t).outSeq + 1
      ∧ u.msgs = if (s.tileSt t).outSeq + 1 ≤ (s.tileSt t).accepted then s.msgs
        else s.msgs ++ [{ src := t, dst := c.u 32 1, tag := c.u 34 2, ckptNo := (s.tileSt t).ckptNo, seq := (s.tileSt t).outSeq + 1, data := s.tread t c.aAddr (c.u 40 4) }] := by
  obtain ⟨v, hv⟩ : ∃ v, v = s.modHead t .msg F := ⟨_, rfl⟩
  have onlyV : v = { s with tiles := v.tiles } := by rw [hv]; rfl
  have queueV : (v.tileSt t).queue .msg = F c :: rest := by rw [hv]; exact State.queue_modHead F head
  have tileV : v.tileSt t = { (s.tileSt t).setQueue .msg (F c :: rest) with hsTb := s.tb } := by rw [hv]; exact State.tileSt_modHead F head
  have out : (v.tileSt t).outSeq = (s.tileSt t).outSeq := by rw [tileV]; rfl
  have accepted : (v.tileSt t).accepted = (s.tileSt t).accepted := by rw [tileV]; rfl
  have no : (v.tileSt t).ckptNo = (s.tileSt t).ckptNo := by rw [tileV]; rfl
  have read : v.tread t c.aAddr (c.u 40 4) = s.tread t c.aAddr (c.u 40 4) := by rw [onlyV]; rfl
  have msgsV : v.msgs = s.msgs := by rw [onlyV]
  rw [← hv]
  obtain ⟨onlyW, queueW, outW, msgsW⟩ := State.startMsg_send send queueV
  generalize v.startMsg t c = w at onlyW queueW outW msgsW ⊢
  obtain ⟨onlyU, -, fs, tileU⟩ := w.noteFrames_shows t c
  generalize w.noteFrames t c = u at onlyU tileU ⊢
  refine ⟨u, rfl, ?_, ?_, ?_, ?_⟩
  · rw [onlyU, onlyW, onlyV]
  · rw [tileU]
    exact queueW.trans (by rw [out])
  · rw [tileU]
    exact outW.trans (by rw [out])
  · rw [onlyU]
    exact msgsW.trans (by rw [out, accepted, no, read, msgsV])

/-! ### Completion -/

/-- What a command that completes leaves before its tile's dispatcher goes on (R207, R210). -/
theorem State.finish_shows {s : State} {t : Nat} {e : Engine} {c : QCmd} {rest : List QCmd} (head : (s.tileSt t).queue e = c :: rest) :
    ∃ u : State, s.finish t e = (u.dispatchTile t).tearAt t ∧ (u.tileSt t).queue e = rest
      ∧ (∀ k, k ≠ e → (u.tileSt t).queue k = (s.tileSt t).queue k)
      ∧ (bit (c.u 3 1) 7 = true → tget 0 (u.tileSt t).sems (c.u 3 1 % 16) = (tget 0 (s.tileSt t).sems (c.u 3 1 % 16) + 1) % 65536)
      ∧ (bit (c.u 3 1) 7 = false → (u.tileSt t).sems = (s.tileSt t).sems)
      ∧ u.pair PIT_CMD_DONE_LO = (s.pair PIT_CMD_DONE_LO + 1) % 2 ^ 64
      ∧ (∀ k, k ≠ t → u.tileSt k = s.tileSt k) ∧ s.memSame u ∧ s.regsSame u [PIT_CMD_DONE_LO, PIT_CMD_DONE_LO + 4] := by
  obtain ⟨y, hy⟩ : ∃ y, y = ((s.tileSt t).setQueue e rest).signal c := ⟨_, rfl⟩
  obtain ⟨z, hz⟩ : ∃ z, z = { y with stepsDone := (s.tileSt t).stepsDone + c.wcet, hsTb := s.tb } := ⟨_, rfl⟩
  have queueZ (k : Engine) : z.queue k = ((s.tileSt t).setQueue e rest).queue k := by
    rw [hz]
    exact (by cases k <;> rfl : _ = y.queue k).trans (by rw [hy, Tile.queue_signal])
  have semsZ : z.sems = (((s.tileSt t).setQueue e rest).signal c).sems := by rw [hz, hy]
  have semsQ : ((s.tileSt t).setQueue e rest).sems = (s.tileSt t).sems := Tile.setQueue_keeps (·.sems) (fun _ _ => rfl) (fun _ _ => rfl) (fun _ _ => rfl) _ _ _
  obtain ⟨v, hv⟩ : ∃ v, v = { s with tiles := tput s.tiles t z } := ⟨_, rfl⟩
  obtain ⟨onlyU, regsU⟩ := v.countCmd_shows t
  have run : s.finish t e = ((v.countCmd t).dispatchTile t).tearAt t := by
    rw [State.finish]
    dsimp only
    rw [head]
    dsimp only
    rw [hv, hz, hy]
  generalize v.countCmd t = u at onlyU regsU run
  have tiles : u.tiles = tput s.tiles t z := by rw [onlyU, hv]
  have tile : u.tileSt t = z := by rw [State.tileSt, tiles, tget_tput_same]
  have pairV : v.pair PIT_CMD_DONE_LO = s.pair PIT_CMD_DONE_LO := by rw [hv]; rfl
  have regs (a : Nat) : u.reg a = (v.setPair PIT_CMD_DONE_LO (v.pair PIT_CMD_DONE_LO + 1)).reg a := State.reg_of_regs regsU a
  obtain ⟨signals, quiet⟩ := ((s.tileSt t).setQueue e rest).signal_sems c
  refine ⟨u, run, ?_, fun k ne => ?_, fun on => ?_, fun off => ?_, ?_, fun k ne => ?_, ?_, fun a away => ?_⟩
  · rw [tile, queueZ, Tile.queue_setQueue_same]
  · rw [tile, queueZ, Tile.queue_setQueue_ne _ _ ne]
  · rw [tile, semsZ, signals on, semsQ]
  · rw [tile, semsZ, quiet off, semsQ]
  · rw [State.pair_congr (regs _) (regs _), State.pair_setPair, pairV]
  · rw [State.tileSt, tiles, tget_tput_ne _ _ _ ne, State.tileSt]
  · rw [onlyU, hv]
    exact State.memSame_of rfl rfl rfl rfl rfl
  · simp only [List.mem_cons, List.not_mem_nil, or_false, not_or] at away
    rw [regs, State.reg_setPair_ne _ _ away.1 away.2, hv]
    rfl

end Sys2Proof.Machine
end


section
/-! SUPPORT. O39: the start and the end of commands, and the cuts of a tile (R207-R212, R223-R228, R235, R302, R528). -/

namespace Sys2Proof.Machine

/-! ### The slots of a checkpoint -/

/-- The slots that the pages of a list take: of two, the one not in use (R224). -/
def slotsFor (due : List Nat) (old : Tbl Nat) : Tbl Nat := due.foldl (fun l p => tput l p (1 - tget 1 l p)) old

theorem tget_slotsFor_away (d : Nat) {due : List Nat} {p : Nat} (away : p ∉ due) (old : Tbl Nat) : tget d (slotsFor due old) p = tget d old p := by
  unfold slotsFor
  induction due generalizing old with
  | nil => rfl
  | cons k due ih =>
    obtain ⟨ne, rest⟩ := not_or.mp (List.mem_cons.not.mp away)
    rw [List.foldl_cons, ih rest, tget_tput_ne _ _ _ ne]

theorem tget_slotsFor {due : List Nat} (once : due.Nodup) {p : Nat} (isIn : p ∈ due) (old : Tbl Nat) : tget 0 (slotsFor due old) p = 1 - tget 1 old p := by
  induction due generalizing old with
  | nil => exact absurd isIn List.not_mem_nil
  | cons k due ih =>
    obtain ⟨fresh, once⟩ := List.nodup_cons.mp once
    have step : slotsFor (k :: due) old = slotsFor due (tput old k (1 - tget 1 old k)) := rfl
    rw [step]
    by_cases same : p = k
    · rw [same, tget_slotsFor_away 0 fresh, tget_tput_same]
    · rw [ih once ((List.mem_cons.mp isIn).resolve_left same), tget_tput_ne _ _ _ same]

/-- A list without its repeats holds each element once. -/
theorem nodup_eraseDups {α : Type} [DecidableEq α] (l : List α) : l.eraseDups.Nodup := by
  induction h : l.length using Nat.strongRecOn generalizing l with
  | ind n ih =>
    cases l with
    | nil => exact List.nodup_nil
    | cons a l =>
      rw [List.eraseDups_cons, List.nodup_cons]
      have shorter := List.length_filter_le (fun b => !b == a) l
      rw [List.length_cons] at h
      exact ⟨fun isIn => by simpa using List.mem_eraseDups.mp isIn, ih _ (by omega) _ rfl⟩

/-! ### Checkpoints -/

/-- A range of DRAM that takes new content changes DRAM and what waits for it alone. -/
theorem State.dramFrom_eq (s : State) (a n : Nat) (l : List Host.Cell) :
    s.dramFrom a n l = { s with dram := (s.dramFrom a n l).dram, ras := (s.dramFrom a n l).ras, retQueue := [] } := by
  have flush : s.retFlush = { s with dram := s.retFlush.dram, ras := s.retFlush.ras, retQueue := [] } := by
    unfold State.retFlush
    rw [State.dputs_eq]
  unfold State.dramFrom
  generalize s.retFlush = u at flush ⊢
  rw [flush]

/-- Pages on their way to the checkpoint area change DRAM alone. -/
theorem State.pagesToSlots_keeps {α : Type} (g : State → α) (dram : ∀ (s : State) d r q, g { s with dram := d, ras := r, retQueue := q } = g s) (t : Nat) (slots : Tbl Nat)
    (due : List Nat) (s : State) : g (due.foldl (fun s p => s.pageToSlot t p (tget 0 slots p)) s) = g s :=
  foldl_keeps g (fun s p => by rw [State.pageToSlot, State.dramFrom_eq]; exact dram s _ _ _) due s

/-- The tile at a cut: its checkpoint is the new one, its journal is empty (R224-R226). -/
def Tile.cut (x : Tile) (c : QCmd) (pages : List Nat) (named : Nat) (due : List Nat) (fin : Bool) : Tile :=
  let k : Ckpt :=
    { pos := c.index + 1
      sems := x.sems
      halos := x.halos
      pages := pages
      live := named
      slots := slotsFor due ((x.ckpt.map (·.slots)).getD [])
      no := c.u 32 2
      outSeq := x.outSeq
      streamAt := x.streamAt }
  { x with barrier := none, ckpt := some k, prior := x.ckpt, ckptNo := c.u 32 2, journal := [], journalBytes := 0, replay := [], wcetSum := 0, readFrames := [], newFrames := [], lostHalos := []
           binds := [], stepsDone := 0, atCut := true, ended := fin }

/-- Several reads in a row of the pages of a tile. -/
theorem State.pageReads_eq (t : Nat) (due : List Nat) (s : State) :
    due.foldl (fun (y : State × Bool) p => if y.2 then y.1.didTread t (4096 * p) 4096 else y) (s, true) = due.foldl (State.treadNext t (4096 * ·) (fun _ => 4096)) (s, true) := rfl

theorem State.barrierAt_barrier {s : State} {t op : Nat} {c : QCmd} (found : s.barrierAt t op = some c) :
    (s.tileSt t).barrier = some c ∧ ∀ e, (s.tileSt t).queue e = [] := by
  unfold State.barrierAt at found
  dsimp only at found
  split at found
  · split at found
    · rename_i here idle
      simp only [Bool.and_eq_true, decide_eq_true_eq] at idle
      obtain ⟨⟨⟨⟨⟨⟨-, -⟩, -⟩, mac⟩, vec⟩, msg⟩, -⟩ := idle
      refine ⟨found ▸ here, fun e => ?_⟩
      cases e
      · exact mac
      · exact vec
      · exact msg
    · exact absurd found (by simp)
  · exact absurd found (by simp)

/-- A checkpoint whose pages read well is taken. -/
theorem State.checkpoint_taken {s u v w : State} {t : Nat} {c : QCmd} {j : Job} {fin : Bool} (barrier : s.barrierAt t (if fin then 2 else 1) = some c) (job : s.jobOf t = some j)
    (ok : (decide (8 < c.u 34 1) || decide (c.u 35 1 ≠ 0) || decide (c.u 52 12 ≠ 0)) = false) (inside : (ckptPages c).eraseDups.any (fun p => decide (256 ≤ p)) = false)
    (granted : Config.dramGranted j.part (s.ckptArea t) 0x400000 = true) {due : List Nat}
    (dueIs : due = ((ckptPages c).eraseDups ++ s.poolPages t).eraseDups.filter (fun p => s.dirty.contains (256 * t + p)))
    (passed : s.regulate j.part .dram (s.ctxSt j.ctx).cls (due.length * 4096 + 4096) (whoOf 1 t) = (u, true))
    (read : due.foldl (fun (y : State × Bool) p => if y.2 then y.1.didTread t (4096 * p) 4096 else y) (u, true) = (v, true)) {x : Tile}
    (xIs : x = ((s.tileSt t).signal c).cut c ((ckptPages c).eraseDups ++ s.poolPages t).eraseDups (ckptPages c).eraseDups.length due fin)
    (moved : w = due.foldl (fun (s' : State) p => s'.pageToSlot t p (tget 0 (slotsFor due (((((s.tileSt t).signal c).ckpt).map (·.slots)).getD [])) p)) v) :
    s.checkpoint t (if fin then 2 else 1) =
      (({ w with tiles := tput v.tiles t x, dirty := v.dirty.filter (fun p => !(p / 256 = t && due.contains (p % 256))) } : State).countCmd t).tileAtCut t := by
  have counted : u.Counted v := by
    have fold := State.treads_counted t (4096 * ·) (fun _ => 4096) due u (by rw [← State.pageReads_eq, read])
    rwa [← State.pageReads_eq, read] at fold
  have tilesU : u.tiles = s.tiles := by
    have only := s.regulate_only j.part .dram (s.ctxSt j.ctx).cls (due.length * 4096 + 4096) (whoOf 1 t)
    rw [passed] at only
    exact congrArg (·.tiles) only
  have tilesV : v.tiles = s.tiles := (counted.same (·.tiles) (fun _ _ _ => rfl)).trans tilesU
  have tile : v.tileSt t = s.tileSt t := State.tileSt_congr tilesV t
  rw [State.checkpoint, barrier, job]
  dsimp only
  rw [if_neg (by rw [ok]; decide), if_neg (by rw [inside]; decide), if_neg (by rw [granted]; decide), ← dueIs, passed]
  dsimp only
  rw [read]
  dsimp only
  have ended : ((if fin then 2 else 1 : Nat) == 2) = fin := by cases fin <;> rfl
  rw [tile, ended]
  rw [xIs, Tile.cut]
  have tiles : w.tiles = v.tiles := by
    rw [moved]
    exact State.pagesToSlots_keeps (·.tiles) (fun _ _ _ _ => rfl) t _ due v
  have dirty : w.dirty = v.dirty := by
    rw [moved]
    exact State.pagesToSlots_keeps (·.dirty) (fun _ _ _ _ => rfl) t _ due v
  unfold slotsFor at moved ⊢
  rw [← moved, tiles, dirty]

/-- What reads no semaphore is the same after a signal. -/
theorem Tile.signal_keeps {α : Type} (g : Tile → α) (blind : ∀ (x : Tile) l, g { x with sems := l } = g x) (x : Tile) (c : QCmd) : g (x.signal c) = g x := by
  unfold Tile.signal
  dsimp only
  split
  · exact blind x _
  · rfl

/-! ### Commands that run -/

theorem State.running_nop {s : State} {t : Nat} {e : Engine} {c : QCmd} {rest : List QCmd} (head : (s.tileSt t).queue e = c :: rest) (runs : s.tileRuns t = true)
    (started : c.started = true) {op : Nat} (is : c.op = op) : s.running t e op = some c := by
  rw [State.running, if_neg (by rw [runs]; decide), head]
  dsimp only
  rw [if_pos (by rw [started, decide_eq_true is]; rfl)]

theorem exec_commandTimeout {s : State} {t : Fin 256} {e : Engine} {c : QCmd} {rest : List QCmd} (released : s.sys.released = true) (head : (s.tileSt t).queue e = c :: rest) :
    exec (.commandTimeout t e) s = .next (s.keeps (if s.timedOut t c then s.cmdFault t c fTimeout else s)) := by
  rw [exec, execCommandTimeout, State.onMain_keeps _ released, head]

/-- What a step of the head of a queue does, where nothing keeps it from starting. -/
theorem exec_commandStart {s : State} {t : Fin 256} {e : Engine} {c : QCmd} {rest : List QCmd} (released : s.sys.released = true) (head : (s.tileSt t).queue e = c :: rest) :
    exec (.commandStart t e) s = .next (s.keeps (if c.started || (s.tileSt t).stopped || !s.tileRuns t || !(s.tileSt t).waitMet c || s.interlocked t e c then s
      else (s.refusal t c).elim
        (let rd := (s.readsOf t c).foldl (State.treadNext t Rng.addr Rng.len) (s, true)
          if !rd.2 then rd.1
          else ((rd.1.modHead t e (fun c => { rd.1.keepBefore t c with started := true, startTb := rd.1.tb, done := 0, sent := 0 })).startMsg t c).noteFrames t c)
        (s.cmdFault t c))) := by
  rw [exec, execCommandStart, State.onMain_keeps _ released]
  dsimp only
  rw [head]
  dsimp only
  split
  · rfl
  · rcases s.refusal t c with _ | code <;> rfl

/-- A state that keeps the queue and Norentum of one that only counted. -/
theorem State.Counted.keeps_of {s r u v : State} (counted : s.Counted r) (only : u = v) (pending : v.pending = r.pending) (met : v.met = r.met) : s.keeps u = u := by
  have pendingU : u.pending = s.pending := by rw [only, pending]; exact counted.same (·.pending) (fun _ _ _ => rfl)
  have metU : u.met = s.met := by rw [only, met]; exact counted.same (·.met) (fun _ _ _ => rfl)
  unfold State.keeps
  rw [← pendingU, ← metU]

/-- Settles O39: the start of a command by what its reads, its message and its frames leave; a completion by what it leaves before the dispatcher goes on; a cut by the checkpoint taken. -/
theorem commandsOnTiles : Obligations.CommandsOnTiles := by
  unfold Obligations.CommandsOnTiles
  refine ⟨fun s t e c rest released head runs => ?_, fun s t e c rest head => State.finish_shows head, fun s t fin c j released barrier job => ?_⟩
  · intro rd begun
    have readOnly (good : rd.2 = true) : s.Counted rd.1 := State.treads_counted t Rng.addr Rng.len (s.readsOf t c) s good
    have run := exec_commandStart released head
    have same : (s.readsOf t c).foldl (State.treadNext t Rng.addr Rng.len) (s, true) = rd := rfl
    rw [same] at run
    refine ⟨fun fresh going met free => ?_, fun held => ?_, fun started late => ?_, fun started early => ?_, fun started nop => ?_⟩
    · rw [if_neg (by rw [fresh, going, runs, met, free]; decide)] at run
      refine ⟨fun code refused => ?_, fun fine bad => ?_, fun fine good plain => ?_, fun fine good send msg => ?_, fun clean => State.treads_clean t Rng.addr Rng.len _ clean⟩
      · rw [run, refused]
        rfl
      · rw [run, fine]
        dsimp only [Option.elim]
        rw [if_pos (by rw [bad]; decide)]
      · rw [fine] at run
        dsimp only [Option.elim] at run
        rw [if_neg (by rw [good]; decide)] at run
        have counted := readOnly good
        have tiles (k : Nat) : rd.1.tileSt k = s.tileSt k := State.tileSt_congr (counted.same (·.tiles) (fun _ _ _ => rfl)) k
        have tb : rd.1.tb = s.tb := counted.same (·.tb) (fun _ _ _ => rfl)
        obtain ⟨u, isU, only, queue, others, stream⟩ := State.started_plain (s := rd.1) (fun c => { rd.1.keepBefore t c with started := true, startTb := rd.1.tb, done := 0, sent := 0 }) ((congrArg (fun x => Tile.queue x e) (tiles t)).trans head) plain
        rw [isU, counted.keeps_of only rfl rfl] at run
        exact ⟨u, run, by rw [queue, tb], only, fun k ne => (others k ne).trans (tiles k), stream⟩
      · rw [fine] at run
        dsimp only [Option.elim] at run
        rw [if_neg (by rw [good]; decide)] at run
        have counted := readOnly good
        have tile : rd.1.tileSt t = s.tileSt t := State.tileSt_congr (counted.same (·.tiles) (fun _ _ _ => rfl)) t
        have tb : rd.1.tb = s.tb := counted.same (·.tb) (fun _ _ _ => rfl)
        have msgsR : rd.1.msgs = s.msgs := counted.same (·.msgs) (fun _ _ _ => rfl)
        have read : rd.1.tread t c.aAddr (c.u 40 4) = s.tread t c.aAddr (c.u 40 4) := counted.same (fun s => s.tread t c.aAddr (c.u 40 4)) (fun _ _ _ => rfl)
        subst msg
        obtain ⟨u, isU, only, queue, out, msgs⟩ := State.started_send (s := rd.1) (fun c => { rd.1.keepBefore t c with started := true, startTb := rd.1.tb, done := 0, sent := 0 }) ((congrArg (fun x => Tile.queue x .msg) tile).trans head) send
        rw [isU, counted.keeps_of only rfl rfl] at run
        rw [tile] at queue out msgs
        exact ⟨u, run, only, by rw [queue, tb], out, by rw [msgs, msgsR, read]⟩
    · rw [run]
      have stays : (c.started || (s.tileSt t).stopped || !s.tileRuns t || !(s.tileSt t).waitMet c || s.interlocked t e c) = true := by
        rcases held with h | h | h | h <;> simp [h]
      rw [if_pos stays]
      rfl
    · rw [exec_commandTimeout released head, if_pos (by rw [State.timedOut, started, runs, decide_eq_true late]; decide)]
      rfl
    · rw [exec_commandTimeout released head, if_neg (by rw [State.timedOut, decide_eq_false (Nat.not_le.mpr early)]; simp)]
      rfl
    · rw [exec, execNop, State.onMain_keeps _ released, State.runCmd, State.running_nop head runs started nop]
  · intro i faults named pages due bad old
    have asked : exec i s = .next (s.keeps (s.checkpoint t (if fin then 2 else 1))) := by
      cases fin
      · exact State.onMain_keeps (fun s => s.checkpoint t 1) released
      · exact State.onMain_keeps (fun s => s.checkpoint t 2) released
    obtain ⟨here, idle⟩ := State.barrierAt_barrier barrier
    have sound (ok : ¬bad) : (decide (8 < c.u 34 1) || decide (c.u 35 1 ≠ 0) || decide (c.u 52 12 ≠ 0)) = false := by
      obtain ⟨few, zero, rest⟩ : ¬ 8 < c.u 34 1 ∧ ¬ c.u 35 1 ≠ 0 ∧ ¬ c.u 52 12 ≠ 0 := by simpa only [bad, not_or] using ok
      rw [decide_eq_false few, decide_eq_false zero, decide_eq_false rest]
      rfl
    have within (inside : ∀ p ∈ named, p < 256) : (ckptPages c).eraseDups.any (fun p => decide (256 ≤ p)) = false := by
      rw [List.any_eq_false]
      exact fun p isIn => by rw [decide_eq_true_eq, not_le]; exact inside p isIn
    refine ⟨fun isBad => ?_, fun ok ⟨p, isIn, far⟩ => ?_, fun ok inside denied => ?_, fun ok inside granted u passed asks => ⟨fun held => ?_, fun free v good read => ⟨fun lost => ?_, fun fine => ?_⟩⟩,
      fun timed e => ?_⟩
    · rw [show faults 12 = (exec i s = .next (s.keeps (s.jobFault t fParam (if fin then 2 else 1) c.index))) from rfl, asked, State.checkpoint, barrier, job]
      dsimp only
      have wrong : (decide (8 < c.u 34 1) || decide (c.u 35 1 ≠ 0) || decide (c.u 52 12 ≠ 0)) = true := by
        simpa only [Bool.or_eq_true, decide_eq_true_eq, or_assoc] using isBad
      rw [if_pos wrong]
    · rw [show faults 3 = (exec i s = .next (s.keeps (s.jobFault t fAddr (if fin then 2 else 1) c.index))) from rfl, asked, State.checkpoint, barrier, job]
      dsimp only
      rw [if_neg (by rw [sound ok]; decide), if_pos (List.any_eq_true.mpr ⟨p, isIn, decide_eq_true far⟩)]
    · rw [show faults 10 = (exec i s = .next (s.keeps (s.jobFault t fPerm (if fin then 2 else 1) c.index))) from rfl, asked, State.checkpoint, barrier, job]
      dsimp only
      rw [if_neg (by rw [sound ok]; decide), if_neg (by rw [within inside]; decide), if_pos (by rw [denied]; decide)]
    · rw [asked, State.checkpoint, barrier, job]
      dsimp only
      rw [if_neg (by rw [sound ok]; decide), if_neg (by rw [within inside]; decide), if_neg (by rw [granted]; decide)]
      rw [held] at asks
      rw [asks]
    · rw [asked, State.checkpoint, barrier, job]
      dsimp only
      rw [if_neg (by rw [sound ok]; decide), if_neg (by rw [within inside]; decide), if_neg (by rw [granted]; decide)]
      rw [free] at asks
      rw [asks]
      dsimp only
      rw [lost] at read
      rw [read]
    · rw [free] at asks
      rw [fine] at read
      obtain ⟨x, xIs⟩ : ∃ x, x = ((s.tileSt t).signal c).cut c pages named.length due fin := ⟨_, rfl⟩
      have taken := State.checkpoint_taken barrier job (sound ok) (within inside) granted rfl asks read xIs rfl
      rw [taken] at asked
      have prior : ((s.tileSt t).signal c).ckpt = (s.tileSt t).ckpt := Tile.signal_keeps (·.ckpt) (fun _ _ => rfl) _ _
      have mac : ((s.tileSt t).signal c).mac = (s.tileSt t).mac := Tile.signal_keeps (·.mac) (fun _ _ => rfl) _ _
      have vec : ((s.tileSt t).signal c).vec = (s.tileSt t).vec := Tile.signal_keeps (·.vec) (fun _ _ => rfl) _ _
      have msg : ((s.tileSt t).signal c).msg = (s.tileSt t).msg := Tile.signal_keeps (·.msg) (fun _ _ => rfl) _ _
      rw [prior] at asked
      have once : due.Nodup := (nodup_eraseDups _).filter _
      refine ⟨x, { pos := c.index + 1, sems := x.sems, halos := x.halos, pages := pages, live := named.length, slots := slotsFor due old, no := c.u 32 2, outSeq := x.outSeq, streamAt := x.streamAt }, ?_⟩
      refine ⟨asked, ?_⟩
      rw [xIs, Tile.cut]
      refine ⟨rfl, rfl, rfl, rfl, rfl, rfl, rfl, ?_, prior, rfl, rfl, rfl, rfl, rfl, rfl, rfl, fun p isIn => tget_slotsFor once isIn old,
        fun p away => tget_slotsFor_away 0 away old, mac, vec, msg⟩
      rw [prior]
    · rw [exec, execCommandTimeout, State.onMain_keeps _ released]
      rw [idle e, here]
      dsimp only
      rw [if_pos timed]
      rfl

end Sys2Proof.Machine
end


section
/-! SUPPORT. O40: the arithmetic commands change the tile stores and the counts, and complete (R186, R216, R217, R277-R288, R308, R309). -/

namespace Sys2Proof.Machine

/-! ### What arithmetic changes -/

/-- A state in which the tile stores, their dirty pages and check bytes, the registers and the counts of products have changed, and nothing else. -/
def State.StoresOnly (s u : State) : Prop := u = { s with tile := u.tile, dirty := u.dirty, regs := u.regs, gov := u.gov, ras := { s.ras with tchk := u.ras.tchk } }

namespace State.StoresOnly

variable {s t u : State}

theorem refl (s : State) : s.StoresOnly s := rfl

theorem trans (h : s.StoresOnly t) (h' : t.StoresOnly u) : s.StoresOnly u := by
  unfold State.StoresOnly at h h' ⊢
  rw [h] at h'
  exact h'

theorem twrite (h : s.StoresOnly t) (k a : Nat) (l : List Byte) : s.StoresOnly (t.twrite k a l) := h.trans rfl

theorem incReg (h : s.StoresOnly t) (a n : Nat) : s.StoresOnly (t.incReg a n) := h.trans rfl

theorem incFld (h : s.StoresOnly t) (a : Nat) (f : Fld) (n : Nat) : s.StoresOnly (t.incFld a f n) := h.trans rfl

theorem countEnc (h : s.StoresOnly t) (es : List Enc) : s.StoresOnly (t.countEnc es) := (h.incFld _ _ _).incFld _ _ _

theorem countProducts (h : s.StoresOnly t) (c n : Nat) : s.StoresOnly (t.countProducts c n) := h.trans rfl

theorem countMiss (h : s.StoresOnly t) (k : Nat) (rows : List (List Lane)) : s.StoresOnly (t.countMiss k rows) := by
  refine h.trans ?_
  unfold State.countMiss
  split
  · extract_lets w
    have counted : t.StoresOnly w := (refl t).incReg _ _
    split
    · exact counted.incReg _ _
    · exact counted
  · exact refl t

theorem writeRow (h : s.StoresOnly t) (k : Nat) (a : Arr) (r : Nat) (wbase oshift : Int) (satEn : Bool) (ls : List Lane) : s.StoresOnly (t.writeRow k a r wbase oshift satEn ls) := by
  unfold State.writeRow
  dsimp only
  split
  · exact (h.twrite _ _ _).incReg _ _
  · split
    · exact ((h.twrite _ _ _).twrite _ _ _).countEnc _
    · exact (h.twrite _ _ _).countEnc _

theorem writeRows (h : s.StoresOnly t) (k : Nat) (a : Arr) (wbase oshift : Int) (satEn : Bool) (r : Nat) (rows : List (List Lane)) :
    s.StoresOnly (t.writeRows k a wbase oshift satEn r rows) := by
  induction rows generalizing t r with
  | nil => exact h
  | cons l rows ih => exact ih (h.writeRow k a r wbase oshift satEn l) (r + 1)

theorem foldl {β : Type} {f : State → β → State} (step : ∀ (x : State) b, x.StoresOnly (f x b)) (l : List β) (s : State) : s.StoresOnly (l.foldl f s) := by
  induction l generalizing s with
  | nil => exact refl s
  | cons b l ih => exact (step s b).trans (ih (f s b))

end State.StoresOnly

/-! ### The commands -/

theorem State.softmaxRows_only (t : Nat) (c : QCmd) (f : AttF) (n : Nat) (s : State) : s.StoresOnly (s.softmaxRows t c f n) := by
  induction n generalizing s with
  | zero => exact State.StoresOnly.refl s
  | succ n ih =>
    rw [State.softmaxRows]
    split
    rename_i ws x base cl _
    extract_lets u v w y
    have counted : s.StoresOnly w := (((State.StoresOnly.refl s).twrite _ _ _).twrite _ _ _).incFld _ _ _
    have noted : s.StoresOnly y := by
      unfold y
      split
      · exact counted.incFld _ _ _
      · exact counted
    exact noted.trans (ih y)

theorem State.mergePair_only (s : State) (t : Nat) (c : QCmd) (f : AttF) (k : Nat) : s.StoresOnly (s.mergePair t c f k) := by
  unfold State.mergePair
  exact ((State.StoresOnly.refl s).twrite _ _ _).writeRow _ _ _ _ _ _ _

theorem State.kvqRow_only (s : State) (t : Nat) (c : QCmd) (v : Nat) : s.StoresOnly (s.kvqRow t c v) := by
  unfold State.kvqRow
  extract_lets dh a xs
  split
  split
  · exact State.StoresOnly.refl s
  · extract_lets l at_
    split
    · exact ((((State.StoresOnly.refl s).twrite _ _ _).twrite _ _ _).incFld _ _ _).incFld _ _ _
    · exact ((State.StoresOnly.refl s).twrite _ _ _).countEnc _

theorem State.matmul_only (s : State) (t : Nat) (c : QCmd) : s.StoresOnly (s.matmul t c) :=
  (((State.StoresOnly.refl s).countMiss _ _).countProducts _ _).writeRows _ _ _ _ _ _ _

theorem State.attnScore_only (s : State) (t : Nat) (c : QCmd) : s.StoresOnly (s.attnScore t c) :=
  (((State.StoresOnly.refl s).countMiss _ _).countProducts _ _).writeRows _ _ _ _ _ _ _

theorem State.attnValue_only (s : State) (t : Nat) (c : QCmd) : s.StoresOnly (s.attnValue t c) :=
  (((State.StoresOnly.refl s).countMiss _ _).countProducts _ _).writeRows _ _ _ _ _ _ _

/-- A command that runs has its effect and completes. -/
theorem State.runCmd_ok {s u : State} {t : Nat} {e : Engine} {op : Nat} {c : QCmd} {f : State → QCmd → Except Nat State} (running : s.running t e op = some c) (ok : f s c = .ok u) :
    s.runCmd t e op f = u.finish t e := by
  rw [State.runCmd, running]
  dsimp only
  rw [ok]

/-- A command that runs and finds its operands out of range ends with the fault. -/
theorem State.runCmd_error {s : State} {t : Nat} {e : Engine} {op code : Nat} {c : QCmd} {f : State → QCmd → Except Nat State} (running : s.running t e op = some c)
    (error : f s c = .error code) : s.runCmd t e op f = s.cmdFault t c code := by
  rw [State.runCmd, running]
  dsimp only
  rw [error]

/-- Some M is out of range where not all are within it (R283). -/
theorem any_out_of_range (n : Nat) (m : Nat → Int) :
    (List.range n).any (fun k => decide (m k < -48) || decide (47 < m k)) = !(List.range n).all (fun k => decide (-48 ≤ m k) && decide (m k ≤ 47)) := by
  rw [List.not_all_eq_any_not]
  congr 1
  funext k
  rw [Bool.not_and, ← decide_not, ← decide_not]
  simp only [not_le]

/-- Settles O40: each command runs on its operands, with the frame of what its writes change. -/
theorem arithmeticCommands : Obligations.ArithmeticCommands := by
  unfold Obligations.ArithmeticCommands
  intro s t c released
  refine ⟨fun run => ⟨?_, s.matmul_only t c⟩, fun run => ⟨?_, s.attnScore_only t c⟩, fun run => ⟨?_, s.attnValue_only t c⟩, fun run => ?_, fun run => ⟨fun fits => ?_, fun out => ?_⟩,
    fun run => ?_, fun run => ⟨fun fits => ?_, fun out => ?_⟩, fun run => ?_, fun run => ⟨fun fits => ?_, fun out => ?_⟩⟩
  · rw [exec, execMatmul, State.onMain_keeps _ released, State.runCmd_ok run rfl]
  · rw [exec, execAttnScore, State.onMain_keeps _ released, State.runCmd_ok run rfl]
  · rw [exec, execAttnValue, State.onMain_keeps _ released, State.runCmd_ok run rfl]
  · refine ⟨_, ?_, (State.StoresOnly.refl s).writeRow _ _ _ _ _ _ _, rfl⟩
    rw [exec, execConvert, State.onMain_keeps _ released, State.runCmd_ok run rfl]
  · refine ⟨_, ?_, State.softmaxRows_only t c (attF c) _ s, rfl⟩
    rw [exec, execSoftmaxStep, State.onMain_keeps _ released, State.runCmd_ok run]
    dsimp only
    rw [any_out_of_range, fits, if_neg (by decide)]
  · rw [exec, execSoftmaxStep, State.onMain_keeps _ released, State.runCmd_error run]
    dsimp only
    rw [any_out_of_range, out, if_pos (by decide)]
    rfl
  · refine ⟨_, ?_, State.StoresOnly.foldl (fun x k => x.mergePair_only t c (attF c) k) _ s, rfl⟩
    rw [exec, execMergeExact, State.onMain_keeps _ released, State.runCmd_ok run rfl]
  · refine ⟨_, ?_, (State.StoresOnly.refl s).writeRows _ _ _ _ _ _ _, rfl⟩
    rw [exec, execRotary, State.onMain_keeps _ released, State.runCmd_ok run]
    dsimp only
    rw [if_pos fits]
  · rw [exec, execRotary, State.onMain_keeps _ released, State.runCmd_error run]
    dsimp only
    rw [if_neg (by rw [out]; decide)]
    rfl
  · refine ⟨_, ?_, (State.StoresOnly.refl s).writeRows _ _ _ _ _ _ _, rfl⟩
    rw [exec, execNorm, State.onMain_keeps _ released, State.runCmd_ok run rfl]
  · refine ⟨_, ?_, State.StoresOnly.foldl (fun x v => x.kvqRow_only t c v) _ s, rfl⟩
    rw [exec, execKvQuant, State.onMain_keeps _ released, State.runCmd_ok run]
    rw [if_pos fits]
  · rw [exec, execKvQuant, State.onMain_keeps _ released, State.runCmd_error run]
    rw [if_neg (by rw [out]; decide)]
    rfl

end Sys2Proof.Machine
end


section
/-! SUPPORT. O41: the elements that an output row holds (R172, R185, R186). -/

namespace Sys2Proof.Machine

/-! ### Reading and writing memories -/

/-- Bytes that read alike one by one read alike together. -/
theorem mread_congr {m m' : List Host.Cell} {a n : Nat} (same : ∀ x, a ≤ x → x < a + n → tget 0 m x = tget 0 m' x) : mread m a n = mread m' a n := by
  induction n generalizing a with
  | zero => rfl
  | succ n ih => rw [mread, mread, same a (le_refl a) (by omega), ih (fun x low high => same x (by omega) (by omega))]

theorem mwrite_append (m : List Host.Cell) (a : Nat) (x y : List Byte) : mwrite m a (x ++ y) = mwrite (mwrite m a x) (a + x.length) y := by
  induction x generalizing m a with
  | nil => rfl
  | cons b x ih =>
    rw [List.cons_append, mwrite, mwrite, ih, List.length_cons]
    congr 1
    omega

/-- A part of what was written reads as it was written. -/
theorem mread_mwrite_part (m : List Host.Cell) (a : Nat) (x y z : List Byte) : mread (mwrite m a (x ++ (y ++ z))) (a + x.length) y.length = y := by
  rw [mwrite_append, mwrite_append]
  refine (mread_congr (fun p _ high => mwrite_outside _ _ p z (Or.inl high))).trans (mread_mwrite_same y _ _)

/-! ### Packed elements -/

/-- Elements of whole bytes are packed one after the other (R172). -/
theorem packBits_bytes {w : Nat} (wide : w ≠ 4) (l : List Nat) : packBits w l = l.flatMap (leBytes (w / 8)) := by
  induction l with
  | nil => rfl
  | cons a l ih =>
    cases l with
    | nil => rw [packBits, if_neg wide, List.flatMap_cons, List.flatMap_nil, List.append_nil]
    | cons b l => rw [packBits, if_neg wide, ih, List.flatMap_cons (xs := b :: l)]

theorem flatMap_leBytes_length (n : Nat) (l : List Nat) : (l.flatMap (leBytes n)).length = n * l.length := by
  induction l with
  | nil => rfl
  | cons a l ih => rw [List.flatMap_cons, List.length_append, leBytes_length, ih, List.length_cons, Nat.mul_succ, Nat.add_comm]

/-- An element of packed elements reads as it was written. -/
theorem mread_packed (m : List Host.Cell) (a n : Nat) {l : List Nat} {k v : Nat} (at_ : l[k]? = some v) : mread (mwrite m a (l.flatMap (leBytes n))) (a + k * n) n = leBytes n v := by
  obtain ⟨fits, is⟩ := List.getElem?_eq_some_iff.mp at_
  have cut : l.flatMap (leBytes n) = (l.take k).flatMap (leBytes n) ++ (leBytes n v ++ (l.drop (k + 1)).flatMap (leBytes n)) := by
    conv_lhs => rw [← List.take_append_drop k l, List.drop_eq_getElem_cons fits, is]
    rw [List.flatMap_append, List.flatMap_cons]
  have before : ((l.take k).flatMap (leBytes n)).length = k * n := by
    rw [flatMap_leBytes_length, List.length_take_of_le (Nat.le_of_lt fits), Nat.mul_comm]
  have read := mread_mwrite_part m a ((l.take k).flatMap (leBytes n)) (leBytes n v) ((l.drop (k + 1)).flatMap (leBytes n))
  rwa [← cut, before, leBytes_length] at read

/-! ### Rows of an output -/

theorem tileAt_add (t a b : Nat) : tileAt t (a + b) = tileAt t a + b := (Nat.add_assoc _ _ _).symm

section
variable {s : State} {t : Nat} {a : Arr} {wbase oshift : Int} {satEn : Bool}

/-- The element bits of a lane (R185-R189). -/
def laneBits (a : Arr) (satEn : Bool) (oshift : Int) (x : Lane) : Nat := (encElem a.fmt satEn (x.wide.scale oshift).val).bits

/-- A row of a plain format goes to its place in stores without a memory error. -/
theorem State.writeRow_plain (clean : s.ras.tchk = []) (noMx : fmtMx a.fmt = false) (noExact : a.fmt ≠ 0xE) (wide : fmtBits a.fmt ≠ 4) (r : Nat) (ls : List Lane) :
    (s.writeRow t a r wbase oshift satEn ls).tile = mwrite s.tile (tileAt t (a.addr + r * a.pitch)) ((ls.map (laneBits a satEn oshift)).flatMap (leBytes (fmtBits a.fmt / 8)))
      ∧ (s.writeRow t a r wbase oshift satEn ls).ras.tchk = [] := by
  unfold State.writeRow
  dsimp only
  rw [if_neg noExact, if_neg (by rw [noMx]; decide), packBits_bytes wide, State.countEnc]
  have place : (codeWrite s.tile s.ras.tchk (tileAt t (a.addr + r * a.pitch)) ((ls.map (laneBits a satEn oshift)).flatMap (leBytes (fmtBits a.fmt / 8))))
      = (mwrite s.tile (tileAt t (a.addr + r * a.pitch)) ((ls.map (laneBits a satEn oshift)).flatMap (leBytes (fmtBits a.fmt / 8))), []) := by
    rw [clean, codeWrite_plain]
  rw [List.map_map, List.map_map, List.map_map]
  exact ⟨congrArg Prod.fst place, congrArg Prod.snd place⟩

theorem State.writeRows_clean (clean : s.ras.tchk = []) (noMx : fmtMx a.fmt = false) (noExact : a.fmt ≠ 0xE) (wide : fmtBits a.fmt ≠ 4) (r : Nat) (rows : List (List Lane)) :
    (s.writeRows t a wbase oshift satEn r rows).ras.tchk = [] := by
  induction rows generalizing s r with
  | nil => exact clean
  | cons l rows ih => exact ih (State.writeRow_plain clean noMx noExact wide r l).2 (r + 1)

/-- What lies outside a row is as it was. -/
theorem State.writeRow_outside (clean : s.ras.tchk = []) (noMx : fmtMx a.fmt = false) (noExact : a.fmt ≠ 0xE) (wide : fmtBits a.fmt ≠ 4) {r : Nat} {ls : List Lane}
    (fits : ls.length * (fmtBits a.fmt / 8) ≤ a.pitch) {p : Nat} (outside : p < tileAt t (a.addr + r * a.pitch) ∨ tileAt t (a.addr + (r + 1) * a.pitch) ≤ p) :
    tget 0 (s.writeRow t a r wbase oshift satEn ls).tile p = tget 0 s.tile p := by
  rw [(State.writeRow_plain clean noMx noExact wide r ls).1]
  refine mwrite_outside _ _ _ _ ?_
  rw [flatMap_leBytes_length, List.length_map, Nat.mul_comm (fmtBits a.fmt / 8)]
  rw [Nat.succ_mul] at outside
  rw [tileAt_add] at outside ⊢
  rw [tileAt_add] at outside
  generalize tileAt t a.addr = base at outside ⊢
  generalize ls.length * (fmtBits a.fmt / 8) = n at fits ⊢
  generalize r * a.pitch = q at outside ⊢
  omega

/-- What lies outside the rows is as it was. -/
theorem State.writeRows_outside (clean : s.ras.tchk = []) (noMx : fmtMx a.fmt = false) (noExact : a.fmt ≠ 0xE) (wide : fmtBits a.fmt ≠ 4) {rows : List (List Lane)}
    (fits : ∀ l ∈ rows, l.length * (fmtBits a.fmt / 8) ≤ a.pitch) (r : Nat) {p : Nat}
    (outside : p < tileAt t (a.addr + r * a.pitch) ∨ tileAt t (a.addr + (r + rows.length) * a.pitch) ≤ p) :
    tget 0 (s.writeRows t a wbase oshift satEn r rows).tile p = tget 0 s.tile p := by
  induction rows generalizing s r with
  | nil => rfl
  | cons l rows ih =>
    have first := fits l List.mem_cons_self
    rw [List.length_cons] at outside
    have within : (r + 1) * a.pitch ≤ (r + (rows.length + 1)) * a.pitch := Nat.mul_le_mul_right _ (by omega)
    have next : r * a.pitch ≤ (r + 1) * a.pitch := Nat.mul_le_mul_right _ (by omega)
    rw [State.writeRows, ih (State.writeRow_plain clean noMx noExact wide r l).2 (fun l isIn => fits l (List.mem_cons_of_mem _ isIn)) (r + 1),
      State.writeRow_outside clean noMx noExact wide first]
    · rw [tileAt_add] at outside ⊢
      rw [tileAt_add] at outside ⊢
      omega
    · have same : r + 1 + rows.length = r + (rows.length + 1) := by omega
      rw [same]
      rw [tileAt_add] at outside ⊢
      rw [tileAt_add] at outside ⊢
      omega

/-- The bits of an element of whole bytes. -/
theorem State.elemBits_bytes (clean : s.ras.tchk = []) {fmt : Nat} (wide : fmtBits fmt ≠ 4) (addr k : Nat) :
    s.elemBits t fmt addr k = leNat (mread s.tile (tileAt t addr + k * (fmtBits fmt / 8)) (fmtBits fmt / 8)) := by
  have place : tileAt t (addr + k * (fmtBits fmt / 8)) = tileAt t addr + k * (fmtBits fmt / 8) := tileAt_add t addr _
  unfold State.elemBits
  rw [if_neg wide, State.tread, State.stores, clean, place]
  rfl

/-- Each element of the rows written is its lane, rounded once. -/
theorem State.elemBits_writeRows (clean : s.ras.tchk = []) (noMx : fmtMx a.fmt = false) (noExact : a.fmt ≠ 0xE) (bytes : fmtBits a.fmt ∈ [8, 16, 32]) {rows : List (List Lane)}
    (fits : ∀ l ∈ rows, l.length * (fmtBits a.fmt / 8) ≤ a.pitch) (r₀ : Nat) {r k : Nat} {l : List Lane} {x : Lane} (row : rows[r]? = some l) (at_ : l[k]? = some x) :
    (s.writeRows t a wbase oshift satEn r₀ rows).elemBits t a.fmt (a.addr + (r₀ + r) * a.pitch) k = laneBits a satEn oshift x % 2 ^ fmtBits a.fmt := by
  have wide : fmtBits a.fmt ≠ 4 := fun four => by rw [four] at bytes; exact absurd bytes (by decide)
  induction rows generalizing s r₀ r with
  | nil => exact absurd row (by simp)
  | cons l' rows ih =>
    obtain ⟨place, stays⟩ := State.writeRow_plain (t := t) (a := a) (wbase := wbase) (oshift := oshift) (satEn := satEn) clean noMx noExact wide r₀ l'
    have rest : ∀ l ∈ rows, l.length * (fmtBits a.fmt / 8) ≤ a.pitch := fun l isIn => fits l (List.mem_cons_of_mem _ isIn)
    rw [State.writeRows]
    cases r with
    | succ r =>
      rw [show r₀ + (r + 1) = r₀ + 1 + r by omega]
      exact ih stays rest (r₀ + 1) row
    | zero =>
      have is : l' = l := by simpa using row
      subst is
      have inside : k < l'.length := (List.getElem?_eq_some_iff.mp at_).1
      have cleanEnd : ((s.writeRow t a r₀ wbase oshift satEn l').writeRows t a wbase oshift satEn (r₀ + 1) rows).ras.tchk = [] := by
        exact State.writeRows_clean stays noMx noExact wide (r₀ + 1) rows
      have end_ : (k + 1) * (fmtBits a.fmt / 8) ≤ a.pitch := (Nat.mul_le_mul_right _ inside).trans (fits l' List.mem_cons_self)
      have bits : (l'.map (laneBits a satEn oshift))[k]? = some (laneBits a satEn oshift x) := by rw [List.getElem?_map, at_]; rfl
      rw [State.elemBits_bytes cleanEnd wide, Nat.add_zero r₀]
      have read : mread ((s.writeRow t a r₀ wbase oshift satEn l').writeRows t a wbase oshift satEn (r₀ + 1) rows).tile (tileAt t (a.addr + r₀ * a.pitch) + k * (fmtBits a.fmt / 8)) (fmtBits a.fmt / 8)
          = leBytes (fmtBits a.fmt / 8) (laneBits a satEn oshift x) := by
        rw [← mread_packed s.tile (tileAt t (a.addr + r₀ * a.pitch)) (fmtBits a.fmt / 8) bits, ← place]
        refine mread_congr (fun p _ high => State.writeRows_outside stays noMx noExact wide rest (r₀ + 1) (Or.inl ?_))
        rw [Nat.succ_mul] at end_ ⊢
        rw [tileAt_add] at high ⊢
        generalize tileAt t a.addr = base at high ⊢
        generalize k * (fmtBits a.fmt / 8) = j at high end_
        generalize fmtBits a.fmt / 8 = n at high end_
        generalize r₀ * a.pitch = q at high ⊢
        omega
      rw [read, leNat_leBytes]
      have size : (256 : Nat) ^ (fmtBits a.fmt / 8) = 2 ^ fmtBits a.fmt := by
        simp only [List.mem_cons, List.not_mem_nil, or_false] at bytes
        rcases bytes with b | b | b <;> rw [b] <;> norm_num
      rw [size]

end

/-- Settles O41: a row goes to its place byte by byte, and later rows lie behind it. -/
theorem elementsWritten : Obligations.ElementsWritten := by
  unfold Obligations.ElementsWritten
  intro s t a wbase oshift satEn rows clean noMx noExact bytes full pitch u
  have wide : fmtBits a.fmt ≠ 4 := fun four => by rw [four] at bytes; exact absurd bytes (by decide)
  have fits : ∀ l ∈ rows, l.length * (fmtBits a.fmt / 8) ≤ a.pitch := fun l isIn => by rw [full l isIn]; exact pitch
  refine ⟨fun r k l x row at_ => ?_, fun p outside => ?_⟩
  · have read := State.elemBits_writeRows (t := t) (wbase := wbase) (oshift := oshift) (satEn := satEn) clean noMx noExact bytes fits 0 row at_
    rwa [Nat.zero_add] at read
  · refine State.writeRows_outside clean noMx noExact wide fits 0 ?_
    rwa [Nat.zero_mul, Nat.add_zero, Nat.zero_add]

end Sys2Proof.Machine
end


section
/-! SUPPORT. Rules of commands that go on while they feed other tiles: what each leaves of the tiles that work (R207, R219-R226, R265-R269). -/

namespace Sys2Proof.Machine

/-! ### Changes of a tile that leave it working -/

/-- A part of a tile that a change keeps reads as before, of that tile and of every other. -/
theorem State.tileSt_modTile_keeps {α : Type} (g : Tile → α) {f : Tile → Tile} (keeps : ∀ x, g (f x) = g x) (s : State) (t k : Nat) : g ((s.modTile t f).tileSt k) = g (s.tileSt k) := by
  by_cases same : k = t
  · rw [same, State.tileSt_modTile_same, keeps]
  · rw [State.tileSt_modTile_ne s f same]

/-- The head of a queue changes; what reads neither the queues nor the last handshake stays. -/
theorem State.tileSt_modHead_keeps {α : Type} (g : Tile → α) (blind : ∀ (x : Tile) a b c h, g { x with mac := a, vec := b, msg := c, hsTb := h } = g x) (s : State) (t k : Nat) (e : Engine)
    (f : QCmd → QCmd) : g ((s.modHead t e f).tileSt k) = g (s.tileSt k) := by
  refine State.tileSt_modTile_keeps g (fun x => ?_) s t k
  split
  · cases e
    · exact blind x _ x.vec x.msg _
    · exact blind x x.mac _ x.msg _
    · exact blind x x.mac x.vec _ _
  · rfl

/-- A tile that works on as before: its job, its recovery and its MSG queue are the same. -/
def Tile.Alike (x y : Tile) : Prop := y.job = x.job ∧ y.restoring = x.restoring ∧ y.msg = x.msg

/-- Stores, intake ports and tiles have changed, and every tile works on as before. -/
def State.Feeds (s u : State) : Prop :=
  u = { s with tile := u.tile, dirty := u.dirty, tiles := u.tiles, lin := u.lin, msgs := u.msgs, slices := u.slices, ras := { s.ras with tchk := u.ras.tchk } } ∧ ∀ k, (s.tileSt k).Alike (u.tileSt k)

namespace State.Feeds

variable {s t u : State}

theorem refl (s : State) : s.Feeds s := ⟨rfl, fun _ => ⟨rfl, rfl, rfl⟩⟩

theorem trans (h : s.Feeds t) (h' : t.Feeds u) : s.Feeds u := by
  obtain ⟨only, alike⟩ := h
  obtain ⟨only', alike'⟩ := h'
  refine ⟨?_, fun k => ?_⟩
  · rw [only] at only'
    exact only'
  · obtain ⟨job, restoring, msg⟩ := alike k
    obtain ⟨job', restoring', msg'⟩ := alike' k
    exact ⟨job'.trans job, restoring'.trans restoring, msg'.trans msg⟩

theorem twrite (h : s.Feeds t) (k a : Nat) (l : List Byte) : s.Feeds (t.twrite k a l) := h.trans ⟨rfl, fun _ => ⟨rfl, rfl, rfl⟩⟩

theorem modLin (h : s.Feeds t) (n : Nat) (f : LinPort → LinPort) : s.Feeds (t.modLin n f) := h.trans ⟨rfl, fun _ => ⟨rfl, rfl, rfl⟩⟩

theorem modTile (h : s.Feeds t) (k : Nat) {f : Tile → Tile} (alike : ∀ x : Tile, x.Alike (f x)) : s.Feeds (t.modTile k f) := by
  refine h.trans ⟨rfl, fun n => ⟨?_, ?_, ?_⟩⟩
  · exact State.tileSt_modTile_keeps (·.job) (fun x => (alike x).1) t k n
  · exact State.tileSt_modTile_keeps (·.restoring) (fun x => (alike x).2.1) t k n
  · exact State.tileSt_modTile_keeps (·.msg) (fun x => (alike x).2.2) t k n

theorem accept (h : s.Feeds t) (k seq : Nat) : s.Feeds (t.accept k seq) := h.modTile k (fun _ => ⟨rfl, rfl, rfl⟩)

/-- A tile that works on runs the same command of its MSG queue. -/
theorem running (h : s.Feeds u) (k op : Nat) : u.running k .msg op = s.running k .msg op := by
  obtain ⟨only, alike⟩ := h
  obtain ⟨job, restoring, msg⟩ := alike k
  have phys : u.physOf k = s.physOf k := by rw [only]; rfl
  have ptiles : u.ptiles = s.ptiles := by rw [only]
  have runs : u.tileRuns k = s.tileRuns k := by
    unfold State.tileRuns
    dsimp only
    rw [job, restoring, phys, ptiles]
  unfold State.running
  rw [runs]
  have queue : (u.tileSt k).queue .msg = (s.tileSt k).queue .msg := msg
  rw [queue]

end State.Feeds

/-! ### The command that runs -/

theorem State.running_head {s : State} {t op : Nat} {e : Engine} {c : QCmd} (run : s.running t e op = some c) :
    s.tileRuns t = true ∧ c.started = true ∧ c.op = op ∧ ∃ rest, (s.tileSt t).queue e = c :: rest := by
  unfold State.running at run
  split at run
  · exact absurd run (by simp)
  · rename_i runs
    split at run
    · rename_i d rest head
      split at run
      · rename_i fits
        have is : d = c := by simpa using run
        subst is
        obtain ⟨started, op⟩ := Bool.and_eq_true _ _ ▸ fits
        exact ⟨by simpa using runs, started, of_decide_eq_true op, rest, head⟩
      · exact absurd run (by simp)
    · exact absurd run (by simp)

/-- A command whose progress is noted runs on. -/
theorem State.running_modHead {s : State} {t op : Nat} {c : QCmd} {f : QCmd → QCmd} (run : s.running t .msg op = some c) (started : (f c).started = c.started) (bytes : (f c).bytes = c.bytes) :
    (s.modHead t .msg f).running t .msg op = some (f c) := by
  obtain ⟨runs, on, is, rest, head⟩ := State.running_head run
  have tile := State.tileSt_modHead f head
  have runs' : (s.modHead t .msg f).tileRuns t = true := by
    rw [← runs]
    unfold State.tileRuns
    dsimp only
    rw [tile]
    rfl
  have op' : (f c).op = op := by
    rw [← is, QCmd.op, QCmd.op, QCmd.u, QCmd.u, bytes]
  unfold State.running
  rw [if_neg (by rw [runs']; decide), State.queue_modHead f head]
  dsimp only
  rw [if_pos (by rw [started, on, decide_eq_true op']; rfl)]

/-- The next output of a tile leaves it working. -/
theorem State.nextOut_shows (s : State) (t : Nat) : s.nextOut t = ((s.tileSt t).outSeq + 1, s.outOld t, s.modTile t (fun x => { x with outSeq := x.outSeq + 1 })) := rfl

/-- A journal with room keeps an input (R225). -/
theorem State.journal_kept {s : State} {t bytes : Nat} (j : JIn) (room : (s.tileSt t).journalBytes + bytes ≤ 262144) :
    s.journal t j bytes = (s.modTile t (fun x => { x with journal := x.journal ++ [j], journalBytes := x.journalBytes + bytes }), true) := by
  rw [State.journal]
  rw [if_neg (Nat.not_lt.mpr room)]

/-- A journal without room keeps nothing (R225). -/
theorem State.journal_full {s : State} {t bytes : Nat} (j : JIn) (full : 262144 < (s.tileSt t).journalBytes + bytes) : s.journal t j bytes = (s, false) := by
  rw [State.journal]
  rw [if_pos full]

/-- A store without errors reads what has been written (R172). -/
theorem State.tread_twrite {s : State} (clean : s.ras.tchk = []) (t a : Nat) (l : List Byte) : (s.twrite t a l).tread t a l.length = l := by
  have place : codeWrite s.tile s.ras.tchk (tileAt t a) l = (mwrite s.tile (tileAt t a) l, []) := by rw [clean, codeWrite_plain]
  rw [State.tread, State.stores, State.twrite, place]
  exact mread_mwrite_same l _ _

/-- What a store reads depends on its bytes and their check bytes. -/
theorem State.tread_congr {s u : State} (tile : u.tile = s.tile) (tchk : u.ras.tchk = s.ras.tchk) (t a n : Nat) : u.tread t a n = s.tread t a n := by
  rw [State.tread, State.tread, State.stores, State.stores, tile, tchk]

/-- A write to a store depends on its bytes and their check bytes. -/
theorem State.twrite_congr {s u : State} (tile : u.tile = s.tile) (tchk : u.ras.tchk = s.ras.tchk) (t a : Nat) (l : List Byte) :
    (u.twrite t a l).tile = (s.twrite t a l).tile ∧ (u.twrite t a l).ras.tchk = (s.twrite t a l).ras.tchk := by
  rw [State.twrite, State.twrite, tile, tchk]
  exact ⟨rfl, rfl⟩

end Sys2Proof.Machine
end


section
/-! SUPPORT. O44: messages, halo channels, transfers and streams of a tile (R207, R219-R226, R235, R265-R269, R340, R529). -/

namespace Sys2Proof.Machine

/-! ### Frames -/

/-- A state in which the tiles have changed, and nothing else. -/
def State.TilesOnly (s u : State) : Prop := u = { s with tiles := u.tiles }

namespace State.TilesOnly

variable {s t u : State}

theorem refl (s : State) : s.TilesOnly s := rfl

theorem trans (h : s.TilesOnly t) (h' : t.TilesOnly u) : s.TilesOnly u := by
  unfold State.TilesOnly at h h' ⊢
  rw [h] at h'
  exact h'

theorem modTile (h : s.TilesOnly t) (k : Nat) (f : Tile → Tile) : s.TilesOnly (t.modTile k f) := h.trans rfl

theorem modHead (h : s.TilesOnly t) (k : Nat) (e : Engine) (f : QCmd → QCmd) : s.TilesOnly (t.modHead k e f) := h.modTile k _

theorem accept (h : s.TilesOnly t) (k n : Nat) : s.TilesOnly (t.accept k n) := h.modTile k _

end State.TilesOnly

/-- A state in which tiles and their stores have changed, and nothing else. -/
def State.CellsOnly (s u : State) : Prop := u = { s with tile := u.tile, dirty := u.dirty, tiles := u.tiles, ras := { s.ras with tchk := u.ras.tchk } }

namespace State.CellsOnly

variable {s t u : State}

theorem refl (s : State) : s.CellsOnly s := rfl

theorem trans (h : s.CellsOnly t) (h' : t.CellsOnly u) : s.CellsOnly u := by
  unfold State.CellsOnly at h h' ⊢
  rw [h] at h'
  exact h'

theorem modTile (h : s.CellsOnly t) (k : Nat) (f : Tile → Tile) : s.CellsOnly (t.modTile k f) := h.trans rfl

theorem modHead (h : s.CellsOnly t) (k : Nat) (e : Engine) (f : QCmd → QCmd) : s.CellsOnly (t.modHead k e f) := h.modTile k _

theorem accept (h : s.CellsOnly t) (k n : Nat) : s.CellsOnly (t.accept k n) := h.modTile k _

theorem twrite (h : s.CellsOnly t) (k a : Nat) (l : List Byte) : s.CellsOnly (t.twrite k a l) := h.trans rfl

end State.CellsOnly

/-- An accepted output leaves what of a tile does not read its count. -/
theorem State.accept_keeps {α : Type} (g : Tile → α) (blind : ∀ (x : Tile) n, g { x with accepted := n } = g x) (s : State) (t n k : Nat) : g ((s.accept t n).tileSt k) = g (s.tileSt k) :=
  State.tileSt_modTile_keeps g (fun x => blind x _) s t k

/-! ### SEND and RECV -/

/-- A RECV that finds its message in the replayed journal (R225, R231). -/
theorem exec_recv_replay {s : State} {t : Fin 256} {c : QCmd} {d : List Byte} {l : List JIn} (released : s.sys.released = true) (run : s.running t .msg 0x31 = some c)
    (found : takeReplay (c.u 32 1) (c.u 34 2) (s.tileSt t).replay = some (d, l)) :
    exec (.recv t) s = .next (s.keeps (((s.modTile t (fun x => { x with replay := l })).twrite t c.outAddr d).finish t .msg)) := by
  rw [exec, execRecv, State.onMain_keeps _ released]
  dsimp only
  rw [run]
  dsimp only
  rw [found]

/-- A RECV without a replayed message takes the first that its source sent, or waits, or faults (R219, R226). -/
theorem exec_recv_fresh {s : State} {t : Fin 256} {c : QCmd} {f : Option Msg} (released : s.sys.released = true) (run : s.running t .msg 0x31 = some c)
    (fresh : takeReplay (c.u 32 1) (c.u 34 2) (s.tileSt t).replay = none) (first : s.msgs.find? (fun m => m.src == c.u 32 1 && m.dst == t.val && m.tag == c.u 34 2) = f) :
    exec (.recv t) s = .next (s.keeps (f.elim s (fun m =>
      if c.u 40 4 < m.data.length then s.cmdFault t c fMsgLen
      else if m.ckptNo ≠ (s.tileSt t).ckptNo then s.cmdFault t c fCut
      else
        let kept := s.journal t (.msg (c.u 32 1) (c.u 34 2) m.data) m.data.length
        if kept.2 then ((({ kept.1 with msgs := kept.1.msgs.erase m } : State).accept (c.u 32 1) m.seq).twrite t c.outAddr m.data).finish t .msg
        else kept.1.cmdFault t c fJournal))) := by
  rw [exec, execRecv, State.onMain_keeps _ released]
  dsimp only
  rw [run]
  dsimp only
  rw [fresh]
  dsimp only
  rw [first]
  rcases f with _ | m
  · rfl
  · dsimp only [Option.elim]
    rcases s.journal t (.msg (c.u 32 1) (c.u 34 2) m.data) m.data.length with ⟨u, _ | _⟩ <;> rfl

/-- What a RECV that takes a message leaves. -/
theorem recv_taken (s : State) (t : Nat) (c : QCmd) (m : Msg) :
    ∃ u : State, (({ s.modTile t (fun x => { x with journal := x.journal ++ [.msg (c.u 32 1) (c.u 34 2) m.data], journalBytes := x.journalBytes + m.data.length }) with msgs := s.msgs.erase m } : State).accept
      (c.u 32 1) m.seq).twrite t c.outAddr m.data = u
      ∧ u = { s with tile := u.tile, dirty := u.dirty, tiles := u.tiles, msgs := s.msgs.erase m, ras := { s.ras with tchk := u.ras.tchk } }
      ∧ u.tile = (s.twrite t c.outAddr m.data).tile ∧ (s.ras.tchk = [] → u.tread t c.outAddr m.data.length = m.data)
      ∧ (u.tileSt t).journal = (s.tileSt t).journal ++ [.msg (c.u 32 1) (c.u 34 2) m.data] := by
  obtain ⟨p, hp⟩ : ∃ p, p = s.modTile t (fun x => { x with journal := x.journal ++ [.msg (c.u 32 1) (c.u 34 2) m.data], journalBytes := x.journalBytes + m.data.length }) := ⟨_, rfl⟩
  obtain ⟨v, hv⟩ : ∃ v : State, v = { p with msgs := s.msgs.erase m } := ⟨_, rfl⟩
  have only : v = { s with tiles := v.tiles, msgs := s.msgs.erase m } := by rw [hv, hp]; rfl
  have journal : (v.tileSt t).journal = (s.tileSt t).journal ++ [.msg (c.u 32 1) (c.u 34 2) m.data] := by
    rw [State.tileSt_congr (s := p) (by rw [hv]) t, hp, State.tileSt_modTile_same]
  rw [← hp, ← hv]
  refine ⟨_, rfl, ?_, ?_, fun clean => ?_, ?_⟩
  · have cells : v.CellsOnly ((v.accept (c.u 32 1) m.seq).twrite t c.outAddr m.data) := ((State.CellsOnly.refl v).accept _ _).twrite _ _ _
    generalize (v.accept (c.u 32 1) m.seq).twrite t c.outAddr m.data = u at cells ⊢
    unfold State.CellsOnly at cells
    rw [only] at cells
    exact cells
  · exact (State.twrite_congr (by rw [only]; rfl) (by rw [only]; rfl) t c.outAddr m.data).1
  · exact State.tread_twrite (by rw [only]; exact clean) t c.outAddr m.data
  · exact (State.accept_keeps (·.journal) (fun _ _ => rfl) v (c.u 32 1) m.seq t).trans journal

/-! ### HALO_PUT -/

/-- A HALO_PUT whose rows are sent completes (R220). -/
theorem State.putRows_done {s : State} {t : Nat} {c : QCmd} (run : s.running t .msg 0x33 = some c) (done : c.u 33 1 ≤ c.done) (n : Nat) : s.putRows t (n + 1) = s.finish t .msg := by
  rw [State.putRows, run]
  dsimp only
  rw [if_pos done]

/-- A row that the peer has already is skipped (R231). -/
theorem State.putRows_old {s : State} {t : Nat} {c : QCmd} (run : s.running t .msg 0x33 = some c) (last : c.u 33 1 = c.done + 1) (old : s.outOld t = true) (n : Nat) :
    ∃ u : State, s.putRows t (n + 2) = u.finish t .msg ∧ s.TilesOnly u ∧ (u.tileSt t).outSeq = (s.tileSt t).outSeq + 1 ∧ (u.tileSt t).halos = (s.tileSt t).halos := by
  obtain ⟨v, hv⟩ : ∃ v, v = s.modTile t (fun x => { x with outSeq := x.outSeq + 1 }) := ⟨_, rfl⟩
  obtain ⟨f, hf⟩ : ∃ f : QCmd → QCmd, f = fun c => { c with done := c.done + 1 } := ⟨_, rfl⟩
  have feeds : s.Feeds v := by rw [hv]; exact (State.Feeds.refl s).modTile t (fun _ => ⟨rfl, rfl, rfl⟩)
  have next : (v.modHead t .msg f).running t .msg 0x33 = some (f c) := State.running_modHead ((feeds.running t 0x33).trans run) (by rw [hf]) (by rw [hf])
  have tile : v.tileSt t = { s.tileSt t with outSeq := (s.tileSt t).outSeq + 1 } := by rw [hv, State.tileSt_modTile_same]
  refine ⟨v.modHead t .msg f, ?_, ?_, ?_, ?_⟩
  · rw [State.putRows, run]
    dsimp only
    rw [if_neg (by omega), if_pos old, State.nextOut_shows, ← hv, ← hf]
    exact State.putRows_done next (by rw [hf]; exact last.le) n
  · rw [hv]
    exact ((State.TilesOnly.refl s).modTile _ _).modHead _ _ _
  · rw [State.tileSt_modHead_keeps (·.outSeq) (fun _ _ _ _ _ => rfl), tile]
  · rw [State.tileSt_modHead_keeps (·.halos) (fun _ _ _ _ _ => rfl), tile]

section
variable {s : State} {t k : Nat} {c : QCmd} {h : Halo} (run : s.running t .msg 0x33 = some c) (more : c.done < c.u 33 1) (new : s.outOld t = false) (goes : s.putWaits t c = false)
include run more new goes

/-- A HALO_PUT without a peer (R220). -/
theorem State.putRows_alone (peer : s.haloPeer t (c.u 32 1) = none) (n : Nat) : s.putRows t (n + 1) = s.cmdFault t c fParam := by
  rw [State.putRows, run]
  dsimp only
  rw [if_neg (Nat.not_le.mpr more), if_neg (by rw [new]; decide), if_neg (by rw [goes]; decide), peer]

/-- A HALO_PUT whose rows do not lie in the store (R215). -/
theorem State.putRows_far (peer : s.haloPeer t (c.u 32 1) = some (k, h)) (far : 2 ^ 20 < c.aAddr + c.u 33 1 * h.rowBytes) (n : Nat) : s.putRows t (n + 1) = s.cmdFault t c fAddr := by
  rw [State.putRows, run]
  dsimp only
  rw [if_neg (Nat.not_le.mpr more), if_neg (by rw [new]; decide), if_neg (by rw [goes]; decide), peer]
  dsimp only
  rw [if_pos far]

/-- A row that would overflow the peer's journal (R225). -/
theorem State.putRows_full (peer : s.haloPeer t (c.u 32 1) = some (k, h)) (inside : c.aAddr + c.u 33 1 * h.rowBytes ≤ 2 ^ 20)
    (full : 262144 < (s.tileSt k).journalBytes + h.rowBytes) (n : Nat) :
    s.putRows t (n + 1) = (((c.before.foldl State.putRange s).unrelease t c).modTile t (fun x => x.without c.index)).jobFault k fJournal c.op (s.tileSt k).pos := by
  have length : (s.tread t (c.aAddr + c.done * h.rowBytes) h.rowBytes).length = h.rowBytes := by rw [State.tread, mread_length]
  rw [State.putRows, run]
  dsimp only
  rw [if_neg (Nat.not_le.mpr more), if_neg (by rw [new]; decide), if_neg (by rw [goes]; decide), peer]
  dsimp only
  rw [if_neg (Nat.not_lt.mpr inside), State.journal_full _ (by rw [length]; exact full)]

/-- A row that the peer's journal takes goes into its ring (R220). -/
theorem State.putRows_row (peer : s.haloPeer t (c.u 32 1) = some (k, h)) (inside : c.aAddr + c.u 33 1 * h.rowBytes ≤ 2 ^ 20) {row : List Byte}
    (rowIs : row = s.tread t (c.aAddr + c.done * h.rowBytes) h.rowBytes) (room : (s.tileSt k).journalBytes + h.rowBytes ≤ 262144) {v w y : State}
    (hv : v = s.modTile k (fun x => { x with journal := x.journal ++ [.halo (c.u 32 1) row], journalBytes := x.journalBytes + row.length }))
    (hw : w = (v.modTile t (fun x => { x with outSeq := x.outSeq + 1 })).accept t ((v.tileSt t).outSeq + 1))
    (hy : y = (w.twrite k (h.addr + h.head % (h.depth + 2) * h.rowBytes) row).modTile k (fun x => { x with halos := tput x.halos (c.u 32 1) { h with head := h.head + 1 } })) (n : Nat) :
    s.putRows t (n + 1) = (y.modHead t .msg (fun c => { c with done := c.done + 1, sent := c.sent + 1 })).putRows t n := by
  have length : row.length = h.rowBytes := by rw [rowIs, State.tread, mread_length]
  rw [State.putRows, run]
  dsimp only
  rw [if_neg (Nat.not_le.mpr more), if_neg (by rw [new]; decide), if_neg (by rw [goes]; decide), peer]
  dsimp only
  rw [if_neg (Nat.not_lt.mpr inside), ← rowIs, State.journal_kept _ (by rw [length]; exact room), ← hv]
  dsimp only
  rw [State.nextOut_shows]
  dsimp only
  rw [← hw, ← hy]

end

/-- The last row of a HALO_PUT goes into its peer's ring (R220, R225). -/
theorem State.putRows_last {s : State} {t k : Nat} {c : QCmd} {h : Halo} (run : s.running t .msg 0x33 = some c) (last : c.u 33 1 = c.done + 1) (new : s.outOld t = false)
    (goes : s.putWaits t c = false) (peer : s.haloPeer t (c.u 32 1) = some (k, h)) (inside : c.aAddr + c.u 33 1 * h.rowBytes ≤ 2 ^ 20)
    (room : (s.tileSt k).journalBytes + h.rowBytes ≤ 262144) (n : Nat) :
    ∃ u : State, s.putRows t (n + 2) = u.finish t .msg ∧ s.CellsOnly u
      ∧ u.tile = (s.twrite k (h.addr + h.head % (h.depth + 2) * h.rowBytes) (s.tread t (c.aAddr + c.done * h.rowBytes) h.rowBytes)).tile
      ∧ tfind (u.tileSt k).halos (c.u 32 1) = some { h with head := h.head + 1 } := by
  obtain ⟨row, hrow⟩ : ∃ row, row = s.tread t (c.aAddr + c.done * h.rowBytes) h.rowBytes := ⟨_, rfl⟩
  obtain ⟨f, hf⟩ : ∃ f : QCmd → QCmd, f = fun c => { c with done := c.done + 1, sent := c.sent + 1 } := ⟨_, rfl⟩
  obtain ⟨v, hv⟩ : ∃ v, v = s.modTile k (fun x => { x with journal := x.journal ++ [.halo (c.u 32 1) row], journalBytes := x.journalBytes + row.length }) := ⟨_, rfl⟩
  obtain ⟨w, hw⟩ : ∃ w, w = (v.modTile t (fun x => { x with outSeq := x.outSeq + 1 })).accept t ((v.tileSt t).outSeq + 1) := ⟨_, rfl⟩
  obtain ⟨y, hy⟩ : ∃ y, y = (w.twrite k (h.addr + h.head % (h.depth + 2) * h.rowBytes) row).modTile k (fun x => { x with halos := tput x.halos (c.u 32 1) { h with head := h.head + 1 } }) := ⟨_, rfl⟩
  have feedsV : s.Feeds v := by rw [hv]; exact (State.Feeds.refl s).modTile k (fun _ => ⟨rfl, rfl, rfl⟩)
  have feedsO : v.Feeds (v.modTile t (fun x => { x with outSeq := x.outSeq + 1 })) := (State.Feeds.refl v).modTile t (fun _ => ⟨rfl, rfl, rfl⟩)
  have feedsW : s.Feeds w := by rw [hw]; exact (feedsV.trans feedsO).accept t _
  have feedsH (p : State) : p.Feeds (p.modTile k (fun x => { x with halos := tput x.halos (c.u 32 1) { h with head := h.head + 1 } })) := (State.Feeds.refl p).modTile k (fun _ => ⟨rfl, rfl, rfl⟩)
  have feeds : s.Feeds y := by rw [hy]; exact (feedsW.twrite _ _ _).trans (feedsH _)
  have onlyW : s.TilesOnly w := by
    rw [hw, hv]
    exact (((State.TilesOnly.refl s).modTile _ _).modTile _ _).accept _ _
  have next : (y.modHead t .msg f).running t .msg 0x33 = some (f c) := State.running_modHead ((feeds.running t 0x33).trans run) (by rw [hf]) (by rw [hf])
  refine ⟨y.modHead t .msg f, ?_, ?_, ?_, ?_⟩
  · rw [State.putRows_row run (by omega) new goes peer inside hrow room hv hw hy, ← hf]
    exact State.putRows_done next (by rw [hf]; exact last.le) n
  · have cells : s.CellsOnly w := by
      unfold State.TilesOnly at onlyW
      rw [onlyW]
      rfl
    rw [hy]
    exact ((cells.twrite _ _ _).modTile _ _).modHead _ _ _
  · have tile : (y.modHead t .msg f).tile = y.tile := rfl
    have tile' : y.tile = (w.twrite k (h.addr + h.head % (h.depth + 2) * h.rowBytes) row).tile := by rw [hy]; rfl
    rw [tile, tile', ← hrow]
    exact (State.twrite_congr (by rw [onlyW]) (by rw [onlyW]) k _ row).1
  · rw [State.tileSt_modHead_keeps (·.halos) (fun _ _ _ _ _ => rfl), hy, State.tileSt_modTile_same]
    exact tfind_tput_same _ _ _

end Sys2Proof.Machine
end


section
/-! SUPPORT. O44: streams, slices for the token unit, loads and stores (R231, R235, R265-R268, R340, R529). -/

namespace Sys2Proof.Machine

/-! ### STREAM_IN -/

theorem exec_streamIn {s : State} {t : Fin 256} {c : QCmd} (released : s.sys.released = true) (run : s.running t .msg 0x37 = some c)
    (bound : (c.first && decide (c.done = 0) && (s.tileSt t).streamAt.isNone) = false) : exec (.streamIn t) s = .next (s.keeps (s.streamSteps t 600)) := by
  rw [exec, execStreamIn, State.onMain_keeps _ released]
  dsimp only
  rw [run]
  dsimp only
  rw [if_neg (by rw [bound]; decide)]

/-- A STREAM_IN whose rows have all come completes (R265). -/
theorem State.streamSteps_done {s : State} {t side y : Nat} {c : QCmd} (run : s.running t .msg 0x37 = some c) (at_ : (s.tileSt t).streamAt = some (side, y)) (done : c.u 38 1 ≤ c.done)
    (n : Nat) : s.streamSteps t (n + 1) = s.finish t .msg := by
  rw [State.streamSteps, run]
  dsimp only
  rw [at_]
  dsimp only
  rw [if_pos done]

/-- What a row of a stream leaves (R260, R265). -/
theorem State.putStreamRow_shows {p : State} {t : Nat} {c : QCmd} (run : p.running t .msg 0x37 = some c) (side y : Nat) (row : List Byte) :
    ∃ u : State, p.putStreamRow t c side y row = u ∧ p.CellsOnly u ∧ u.running t .msg 0x37 = some { c with done := c.done + 1 }
      ∧ u.tile = ((p.twrite t (c.outAddr + 32 + y % (p.streamRing t c y).rows * (p.streamRing t c y).pitch) row).putRing t c.outAddr { p.streamRing t c y with head := (p.streamRing t c y).head + 1 }).tile
      ∧ (u.tileSt t).streamAt = some (side, y + 1) ∧ (u.tileSt t).journal = (p.tileSt t).journal := by
  obtain ⟨r, hr⟩ : ∃ r, r = p.streamRing t c y := ⟨_, rfl⟩
  obtain ⟨v, hv⟩ : ∃ v, v = (p.twrite t (c.outAddr + 32 + y % r.rows * r.pitch) row).putRing t c.outAddr { r with head := r.head + 1 } := ⟨_, rfl⟩
  obtain ⟨w, hw⟩ : ∃ w, w = v.modTile t (fun x => { x with streamAt := some (side, y + 1) }) := ⟨_, rfl⟩
  have feedsV : p.Feeds v := by rw [hv]; exact ((State.Feeds.refl p).twrite _ _ _).twrite _ _ _
  have feedsW : v.Feeds (v.modTile t (fun x => { x with streamAt := some (side, y + 1) })) := (State.Feeds.refl v).modTile t (fun _ => ⟨rfl, rfl, rfl⟩)
  have feeds : p.Feeds w := by rw [hw]; exact feedsV.trans feedsW
  have cells : p.CellsOnly v := by rw [hv]; exact ((State.CellsOnly.refl p).twrite _ _ _).twrite _ _ _
  have tiles : v.tiles = p.tiles := by rw [hv, State.putRing, State.twrite_tiles, State.twrite_tiles]
  rw [← hr]
  refine ⟨w.modHead t .msg (fun c => { c with done := c.done + 1 }), ?_, ?_, State.running_modHead ((feeds.running t 0x37).trans run) rfl rfl, ?_, ?_, ?_⟩
  · rw [State.putStreamRow, ← hr, hw, hv]
  · rw [hw]
    exact (cells.modTile _ _).modHead _ _ _
  · rw [← hv, hw]
    rfl
  · rw [State.tileSt_modHead_keeps (·.streamAt) (fun _ _ _ _ _ => rfl), hw, State.tileSt_modTile_same]
  · rw [State.tileSt_modHead_keeps (·.journal) (fun _ _ _ _ _ => rfl), hw, State.tileSt_modTile_same]
    exact congrArg (·.journal) (State.tileSt_congr tiles t)

section
variable {s : State} {t side y : Nat} {c : QCmd} {l : StreamLine} {o : Bool} (run : s.running t .msg 0x37 = some c) (at_ : (s.tileSt t).streamAt = some (side, y))
  (more : c.done < c.u 38 1) (next : s.nextLine t (s.streamEnd c side y).1 side y = some (l, o))
include run at_ more next

/-- A STREAM_IN waits while its ring is full (R260). -/
theorem State.streamSteps_full (full : (s.streamRing t c y).full = true) (n : Nat) : s.streamSteps t (n + 1) = s := by
  rw [State.streamSteps, run]
  dsimp only
  rw [at_]
  dsimp only
  rw [if_neg (Nat.not_le.mpr more), next]
  dsimp only
  rw [if_pos full]

/-- A row of a new line goes through the journal, if it has room (R225). -/
theorem State.streamSteps_row (room : (s.streamRing t c y).full = false) (is : l.lineNo = y) (n : Nat) :
    s.streamSteps t (n + 1) = if o then ((s.modTile t (fun x => { x with replay := x.replay.erase (.line l) })).putStreamRow t c side y (streamRow l.planes (c.u 34 2) (c.u 36 2))).streamSteps t n
      else if 262144 < (s.tileSt t).journalBytes + (streamRow l.planes (c.u 34 2) (c.u 36 2)).length then s.cmdFault t c fJournal
      else (((s.modTile t (fun x => { x with journal := x.journal ++ [.line l], journalBytes := x.journalBytes + (streamRow l.planes (c.u 34 2) (c.u 36 2)).length })).putStreamRow t c side y
        (streamRow l.planes (c.u 34 2) (c.u 36 2))).trimStream (s.streamEnd c side y).1 side).streamSteps t n := by
  rw [State.streamSteps, run]
  dsimp only
  rw [at_]
  dsimp only
  rw [if_neg (Nat.not_le.mpr more), next]
  dsimp only
  rw [if_neg (by rw [room]; decide), if_pos is]
  cases o
  · rw [if_neg (by decide), if_neg (by decide)]
    by_cases full : 262144 < (s.tileSt t).journalBytes + (streamRow l.planes (c.u 34 2) (c.u 36 2)).length
    · rw [State.journal_full _ full, if_pos full]
    · rw [State.journal_kept _ (Nat.not_lt.mp full), if_neg full]
  · rw [if_pos rfl, if_pos rfl]

end

theorem State.trimStream_feeds (s : State) (n side : Nat) : s.Feeds (s.trimStream n side) := by
  unfold State.trimStream
  exact (State.Feeds.refl s).modLin n _

/-- The last row of a STREAM_IN goes into its ring (R265-R268). -/
theorem State.streamSteps_last {s : State} {t side y : Nat} {c : QCmd} {l : StreamLine} {o : Bool} (run : s.running t .msg 0x37 = some c) (at_ : (s.tileSt t).streamAt = some (side, y))
    (last : c.u 38 1 = c.done + 1) (next : s.nextLine t (s.streamEnd c side y).1 side y = some (l, o)) (room : (s.streamRing t c y).full = false) (is : l.lineNo = y)
    (fits : o = true ∨ (s.tileSt t).journalBytes + (streamRow l.planes (c.u 34 2) (c.u 36 2)).length ≤ 262144) (n : Nat) :
    ∃ u : State, s.streamSteps t (n + 2) = u.finish t .msg
      ∧ u = { s with tile := u.tile, dirty := u.dirty, tiles := u.tiles, lin := u.lin, ras := { s.ras with tchk := u.ras.tchk } }
      ∧ u.tile = ((s.twrite t (c.outAddr + 32 + y % (s.streamRing t c y).rows * (s.streamRing t c y).pitch) (streamRow l.planes (c.u 34 2) (c.u 36 2))).putRing t c.outAddr
        { s.streamRing t c y with head := (s.streamRing t c y).head + 1 }).tile
      ∧ (u.tileSt t).streamAt = some (side, y + 1)
      ∧ (u.tileSt t).journal = if o then (s.tileSt t).journal else (s.tileSt t).journal ++ [.line l] := by
  obtain ⟨row, hrow⟩ : ∃ row, row = streamRow l.planes (c.u 34 2) (c.u 36 2) := ⟨_, rfl⟩
  have step := State.streamSteps_row run at_ (by omega) next room is (n + 1)
  rw [← hrow] at step fits ⊢
  have goes (p : State) (feeds : s.Feeds p) (only : s.TilesOnly p) : ∃ u : State, p.putStreamRow t c side y row = u ∧ s.CellsOnly u ∧ u.running t .msg 0x37 = some { c with done := c.done + 1 }
      ∧ u.tile = ((s.twrite t (c.outAddr + 32 + y % (s.streamRing t c y).rows * (s.streamRing t c y).pitch) row).putRing t c.outAddr { s.streamRing t c y with head := (s.streamRing t c y).head + 1 }).tile
      ∧ (u.tileSt t).streamAt = some (side, y + 1) ∧ (u.tileSt t).journal = (p.tileSt t).journal := by
    have ring : p.streamRing t c y = s.streamRing t c y := by
      unfold State.TilesOnly at only
      rw [only]
      rfl
    have cells : s.CellsOnly p := by
      unfold State.TilesOnly at only
      rw [only]
      rfl
    obtain ⟨u, isU, onlyU, runU, tile, at', journal⟩ := State.putStreamRow_shows ((feeds.running t 0x37).trans run) side y row
    rw [ring] at tile
    refine ⟨u, isU, cells.trans onlyU, runU, tile.trans ?_, at', journal⟩
    unfold State.TilesOnly at only
    rw [only]
    rfl
  cases o
  · have room' := Nat.not_lt.mpr (fits.resolve_left (by decide))
    rw [if_neg (by decide), if_neg room'] at step
    obtain ⟨p, hp⟩ : ∃ p, p = s.modTile t (fun x => { x with journal := x.journal ++ [.line l], journalBytes := x.journalBytes + row.length }) := ⟨_, rfl⟩
    have feedsP : s.Feeds (s.modTile t (fun x => { x with journal := x.journal ++ [.line l], journalBytes := x.journalBytes + row.length })) :=
      (State.Feeds.refl s).modTile t (fun _ => ⟨rfl, rfl, rfl⟩)
    obtain ⟨u, isU, cells, runU, tile, at', journal⟩ := goes p (hp ▸ feedsP) (by rw [hp]; exact (State.TilesOnly.refl s).modTile _ _)
    rw [← hp, isU] at step
    have trims := u.trimStream_feeds (s.streamEnd c side y).1 side
    refine ⟨u.trimStream (s.streamEnd c side y).1 side, ?_, ?_, tile, at', ?_⟩
    · rw [step]
      exact State.streamSteps_done ((trims.running t 0x37).trans runU) at' last.le n
    · unfold State.CellsOnly at cells
      rw [State.trimStream, State.modLin, cells]
    · rw [if_neg (by decide)]
      exact journal.trans (by rw [hp, State.tileSt_modTile_same])
  · rw [if_pos rfl] at step
    obtain ⟨p, hp⟩ : ∃ p, p = s.modTile t (fun x => { x with replay := x.replay.erase (.line l) }) := ⟨_, rfl⟩
    have feedsP : s.Feeds (s.modTile t (fun x => { x with replay := x.replay.erase (.line l) })) := (State.Feeds.refl s).modTile t (fun _ => ⟨rfl, rfl, rfl⟩)
    obtain ⟨u, isU, cells, runU, tile, at', journal⟩ := goes p (hp ▸ feedsP) (by rw [hp]; exact (State.TilesOnly.refl s).modTile _ _)
    rw [← hp, isU] at step
    refine ⟨u, ?_, ?_, tile, at', ?_⟩
    · rw [step]
      exact State.streamSteps_done runU at' last.le n
    · unfold State.CellsOnly at cells
      rw [cells]
    · rw [if_pos rfl]
      exact journal.trans (by rw [hp, State.tileSt_modTile_same])

end Sys2Proof.Machine
end


section
/-! SUPPORT. O44: halo channels that open and close, transfers, EMIT, and the whole (R219-R226, R231, R235, R340, R387, R529). -/

namespace Sys2Proof.Machine

/-! ### HALO_OPEN and HALO_CLOSE -/

theorem exec_haloClose {s : State} {t : Fin 256} {c : QCmd} (released : s.sys.released = true) (run : s.running t .msg 0x34 = some c) :
    exec (.haloClose t) s = .next (s.keeps (
      if (tfind (s.tileSt t).halos (c.u 32 1)).isSome then (s.modTile t (fun x => { x with halos := tdel x.halos (c.u 32 1), lostHalos := tdel x.lostHalos (c.u 32 1) })).finish t .msg
      else if s.outOld t then (s.modTile t (fun x => { x with outSeq := x.outSeq + 1 })).finish t .msg
      else if s.closeWaits t c then s
      else (s.haloPeer t (c.u 32 1)).elim (s.cmdFault t c fParam) (fun p =>
        ((((s.modTile t (fun x => { x with outSeq := x.outSeq + 1 })).accept t ((s.tileSt t).outSeq + 1)).modTile p.1 (fun x => { x with halos := tdel x.halos (c.u 32 1), lostHalos := tdel x.lostHalos (c.u 32 1) })).finish t .msg)))) := by
  rw [exec, execHaloClose, State.onMain_keeps _ released]
  dsimp only
  rw [run]
  dsimp only
  rw [State.nextOut_shows]
  dsimp only
  rcases s.haloPeer t (c.u 32 1) with _ | p <;> rfl

/-- The peer's ring that a HALO_CLOSE closes (R231). -/
theorem haloClosed_shows (s : State) (t k ch : Nat) :
    ∃ u : State, ((s.modTile t (fun x => { x with outSeq := x.outSeq + 1 })).accept t ((s.tileSt t).outSeq + 1)).modTile k (fun x => { x with halos := tdel x.halos ch, lostHalos := tdel x.lostHalos ch }) = u
      ∧ s.TilesOnly u ∧ tfind (u.tileSt k).halos ch = none ∧ (u.tileSt t).outSeq = (s.tileSt t).outSeq + 1 ∧ ∀ n, n ≠ k → (u.tileSt n).halos = (s.tileSt n).halos := by
  obtain ⟨v, hv⟩ : ∃ v, v = s.modTile t (fun x => { x with outSeq := x.outSeq + 1 }) := ⟨_, rfl⟩
  have halos (n : Nat) : (v.tileSt n).halos = (s.tileSt n).halos := by rw [hv]; exact State.tileSt_modTile_keeps (·.halos) (by intro x; rfl) s t n
  have out : (v.tileSt t).outSeq = (s.tileSt t).outSeq + 1 := by rw [hv, State.tileSt_modTile_same]
  have only : s.TilesOnly v := by rw [hv]; exact (State.TilesOnly.refl s).modTile _ _
  rw [← hv]
  refine ⟨_, rfl, (only.accept _ _).modTile _ _, ?_, ?_, fun n ne => ?_⟩
  · rw [State.tileSt_modTile_same]
    exact tfind_tdel_same _ _
  · exact (State.tileSt_modTile_keeps (·.outSeq) (by intro x; rfl) _ _ _).trans ((State.accept_keeps (·.outSeq) (fun _ _ => rfl) _ _ _ _).trans out)
  · rw [State.tileSt_modTile_ne _ _ ne, State.accept_keeps (·.halos) (fun _ _ => rfl), halos]

/-! ### Transfers -/

section
variable {s : State} {t op : Nat} {c : QCmd} {j : Job} {f : State → QCmd → State} (run : s.running t .msg op = some c) (job : s.jobOf t = some j)
include run job

/-- A transfer outside what its partition was granted, or beyond the DRAM there is, faults (R235, R525). -/
theorem State.transfer_denied (denied : (Config.dramGranted j.part (c.u 32 8) (c.u 40 4) && decide (c.u 32 8 + c.u 40 4 ≤ 56 * 2 ^ 30)) = false) :
    s.transfer t op f = s.cmdFault t c fPerm := by
  have outside : (!Config.dramGranted j.part (c.u 32 8) (c.u 40 4) || decide (dramBytes < c.u 32 8 + c.u 40 4)) = true := by
    rw [Bool.and_eq_false_iff] at denied
    rcases denied with no | far
    · rw [no]
      rfl
    · rw [decide_eq_true (Nat.not_le.mp (of_decide_eq_false far) : dramBytes < c.u 32 8 + c.u 40 4), Bool.or_true]
  rw [State.transfer, run, job]
  dsimp only
  rw [if_pos outside]

/-- A transfer within its grant is made as its regulator lets it (R387). -/
theorem State.transfer_granted (granted : (Config.dramGranted j.part (c.u 32 8) (c.u 40 4) && decide (c.u 32 8 + c.u 40 4 ≤ 56 * 2 ^ 30)) = true) {u : State} {ok : Bool}
    (asks : s.regulate j.part .dram (s.ctxSt j.ctx).cls (c.u 40 4) (whoOf 2 t) = (u, ok)) : s.transfer t op f = if ok then f u c else u := by
  obtain ⟨yes, inside⟩ := Bool.and_eq_true _ _ ▸ granted
  have fits : (!Config.dramGranted j.part (c.u 32 8) (c.u 40 4) || decide (dramBytes < c.u 32 8 + c.u 40 4)) = false := by
    rw [yes, decide_eq_false (Nat.not_lt.mpr (of_decide_eq_true inside : c.u 32 8 + c.u 40 4 ≤ dramBytes))]
    rfl
  rw [State.transfer, run, job]
  dsimp only
  rw [if_neg (by rw [fits]; decide), asks]
  cases ok <;> rfl

end

/-- A regulator that has been asked has changed its partition alone (R386). -/
theorem State.regulated {s u : State} {p : Nat} {b : Bus} {cls : Cls} {bytes who : Nat} {ok : Bool} (asks : s.regulate p b cls bytes who = (u, ok)) : u = { s with parts := u.parts } := by
  have only := s.regulate_only p b cls bytes who
  rw [asks] at only
  exact only

/-! ### EMIT -/

/-- The slice of an EMIT goes to the token unit, unless it has it already (R231, R340). -/
theorem emit_sent {s : State} {t : Nat} (slice : EmitSlice) :
    ∃ u : State, (if s.outOld t then (s.modTile t (fun x => { x with outSeq := x.outSeq + 1 })).modHead t .msg (fun c => { c with done := (s.tileSt t).outSeq + 1 })
        else { ((s.modTile t (fun x => { x with outSeq := x.outSeq + 1 })).modHead t .msg (fun c => { c with done := (s.tileSt t).outSeq + 1 })).accept t ((s.tileSt t).outSeq + 1) with
          slices := ((s.modTile t (fun x => { x with outSeq := x.outSeq + 1 })).modHead t .msg (fun c => { c with done := (s.tileSt t).outSeq + 1 })).slices ++ [slice] }) = u
      ∧ u = { s with tiles := u.tiles, slices := u.slices } ∧ (u.tileSt t).outSeq = (s.tileSt t).outSeq + 1
      ∧ u.slices = if (s.tileSt t).outSeq + 1 ≤ (s.tileSt t).accepted then s.slices else s.slices ++ [slice] := by
  obtain ⟨n, hn⟩ : ∃ n, n = (s.tileSt t).outSeq + 1 := ⟨_, rfl⟩
  obtain ⟨v, hv⟩ : ∃ v, v = (s.modTile t (fun x => { x with outSeq := x.outSeq + 1 })).modHead t .msg (fun c => { c with done := n }) := ⟨_, rfl⟩
  have only : s.TilesOnly v := by rw [hv]; exact ((State.TilesOnly.refl s).modTile _ _).modHead _ _ _
  have out : (v.tileSt t).outSeq = n := by rw [hv, State.tileSt_modHead_keeps (·.outSeq) (fun _ _ _ _ _ => rfl), State.tileSt_modTile_same, hn]
  have slices : v.slices = s.slices := by
    unfold State.TilesOnly at only
    rw [only]
  rw [← hn, ← hv, slices]
  by_cases old : n ≤ (s.tileSt t).accepted
  · have isOld : s.outOld t = true := by rw [State.outOld, ← hn, decide_eq_true old]
    rw [if_pos isOld, if_pos old]
    refine ⟨v, rfl, ?_, out, slices⟩
    unfold State.TilesOnly at only
    rw [only]
  · have isNew : s.outOld t = false := by rw [State.outOld, ← hn, decide_eq_false old]
    rw [if_neg (by rw [isNew]; decide), if_neg old]
    have accepted := State.accept_keeps (·.outSeq) (fun _ _ => rfl) v t n t
    have onlyA := only.accept t n
    generalize v.accept t n = a at accepted onlyA ⊢
    refine ⟨_, rfl, ?_, (accepted.trans out :), rfl⟩
    unfold State.TilesOnly at onlyA
    rw [onlyA]

/-! ### The commands between tiles -/

/-- What a RECV with a replayed message leaves (R231). -/
theorem recv_replayed (s : State) (t a : Nat) (d : List Byte) (l : List JIn) :
    ∃ u : State, (s.modTile t (fun x => { x with replay := l })).twrite t a d = u ∧ s.CellsOnly u ∧ u.tile = (s.twrite t a d).tile
      ∧ (s.ras.tchk = [] → u.tread t a d.length = d) ∧ (u.tileSt t).replay = l ∧ (u.tileSt t).journal = (s.tileSt t).journal := by
  obtain ⟨v, hv⟩ : ∃ v, v = s.modTile t (fun x => { x with replay := l }) := ⟨_, rfl⟩
  have tile : v.tileSt t = { s.tileSt t with replay := l } := by rw [hv, State.tileSt_modTile_same]
  have bytes : v.tile = s.tile := by rw [hv]; rfl
  have tchk : v.ras.tchk = s.ras.tchk := by rw [hv]; rfl
  have cells : s.CellsOnly v := by rw [hv]; exact (State.CellsOnly.refl s).modTile _ _
  have kept : (v.twrite t a d).tileSt t = v.tileSt t := State.tileSt_congr (State.twrite_tiles v t a d) t
  rw [← hv]
  refine ⟨_, rfl, cells.twrite _ _ _, (State.twrite_congr bytes tchk t a d).1, fun clean => State.tread_twrite (tchk.trans clean) t a d, ?_, ?_⟩
  · rw [kept, tile]
  · rw [kept, tile]

/-- A HALO_PUT waits (R220, R231). -/
theorem State.putRows_waits {s : State} {t : Nat} {c : QCmd} (run : s.running t .msg 0x33 = some c) (waits : s.putWaits t c = true) (n : Nat) : s.putRows t (n + 1) = s := by
  have both := waits
  simp only [State.putWaits, Bool.and_eq_true, decide_eq_true_eq, Bool.not_eq_true'] at both
  obtain ⟨⟨more, new⟩, -⟩ := both
  rw [State.putRows, run]
  dsimp only
  rw [if_neg (Nat.not_le.mpr more), if_neg (by rw [new]; decide), if_pos waits]

/-- Settles O44: each command of the MSG engine, and what its rows and its answer leave. -/
theorem messagesAndTransfers : Obligations.MessagesAndTransfers := by
  unfold Obligations.MessagesAndTransfers
  refine ⟨fun s t c released => ?_, fun s t c released => ?_⟩
  · intro x ch
    refine ⟨fun run => ⟨fun taken => ?_, fun waits => ?_⟩, fun run d l found => ?_, fun run fresh => ⟨fun none_ => ?_, fun m first => ⟨fun long => ?_, fun short cut => ?_, fun short same full => ?_,
        fun short same room => ?_⟩⟩, fun run => ?_,
      fun run => ⟨fun done => ?_, fun waits => ?_, fun last old => ?_, fun more new goes => ⟨fun alone => ?_, fun k h peer => ⟨fun far => ?_, fun inside => ⟨fun full => ?_, fun last room => ?_⟩⟩⟩⟩,
      fun run => ⟨fun own => ?_, fun waits => ?_, fun other old => ?_, fun other new goes => ⟨fun alone => ?_, fun k h peer => ?_⟩⟩⟩
    · rw [exec, execSend, State.onMain_keeps _ released]
      rw [run]
      dsimp only
      rw [if_neg (by rw [taken]; decide)]
    · rw [exec, execSend, State.onMain_keeps _ released]
      rw [run]
      dsimp only
      rw [if_pos waits]
      rfl
    · obtain ⟨u, isU, shows⟩ := recv_replayed s t c.outAddr d l
      exact ⟨u, by rw [exec_recv_replay released run found, isU], shows⟩
    · rw [exec_recv_fresh released run fresh none_]
      rfl
    · rw [exec_recv_fresh released run fresh first]
      dsimp only [Option.elim]
      rw [if_pos long]
      rfl
    · rw [exec_recv_fresh released run fresh first]
      dsimp only [Option.elim]
      rw [if_neg (Nat.not_lt.mpr short), if_pos cut]
      rfl
    · rw [exec_recv_fresh released run fresh first]
      dsimp only [Option.elim]
      rw [if_neg (Nat.not_lt.mpr short), if_neg (not_not.mpr same), State.journal_full _ full]
      rfl
    · obtain ⟨u, isU, shows⟩ := recv_taken s t c m
      refine ⟨u, ?_, shows⟩
      rw [exec_recv_fresh released run fresh first]
      dsimp only [Option.elim]
      rw [if_neg (Nat.not_lt.mpr short), if_neg (not_not.mpr same), State.journal_kept _ room]
      dsimp only
      rw [if_pos rfl, ← isU]
      rfl
    · obtain ⟨u, hu⟩ : ∃ u, u = s.modTile t (fun x => { x with
          halos := tput x.halos ch { cmd := c.index, addr := c.outAddr, depth := c.u 33 1, rowBytes := c.u 36 2, peer := c.u 34 1, head := 0, released := 0 }
          lostHalos := tdel x.lostHalos ch }) := ⟨_, rfl⟩
      refine ⟨u, ?_, ?_, fun k ne => ?_, ?_⟩
      · rw [exec, execHaloOpen, State.onMain_keeps _ released, State.runCmd_ok run rfl, hu]
      · rw [hu]
        rfl
      · rw [hu]
        exact State.tileSt_modTile_ne s _ ne
      · rw [hu, State.tileSt_modTile_same]
        exact tfind_tput_same _ _ _
    · rw [exec, execHaloPut, State.onMain_keeps _ released, State.putRows_done run done]
    · rw [exec, execHaloPut, State.onMain_keeps _ released, State.putRows_waits run waits]
      rfl
    · obtain ⟨u, rows, shows⟩ := State.putRows_old run last old 15
      exact ⟨u, by rw [exec, execHaloPut, State.onMain_keeps _ released, rows], shows⟩
    · rw [exec, execHaloPut, State.onMain_keeps _ released, State.putRows_alone run more new goes alone]
      rfl
    · rw [exec, execHaloPut, State.onMain_keeps _ released, State.putRows_far run more new goes peer far]
      rfl
    · obtain ⟨-, -, is, -⟩ := State.running_head run
      rw [exec, execHaloPut, State.onMain_keeps _ released, State.putRows_full run more new goes peer inside full, is]
      rfl
    · obtain ⟨u, rows, shows⟩ := State.putRows_last run last new goes peer inside room 15
      exact ⟨u, by rw [exec, execHaloPut, State.onMain_keeps _ released, rows], shows⟩
    · obtain ⟨u, hu⟩ : ∃ u, u = s.modTile t (fun x => { x with halos := tdel x.halos ch, lostHalos := tdel x.lostHalos ch }) := ⟨_, rfl⟩
      refine ⟨u, ?_, ?_, ?_, fun k ne => ?_⟩
      · rw [exec_haloClose released run, if_pos own, hu]
      · rw [hu]
        rfl
      · rw [hu, State.tileSt_modTile_same]
        exact tfind_tdel_same _ _
      · rw [hu]
        exact State.tileSt_modTile_ne s _ ne
    · obtain ⟨closed, new⟩ : (tfind (s.tileSt t).halos ch).isNone = true ∧ s.outOld t = false := by
        simp only [State.closeWaits, Bool.and_eq_true, Bool.not_eq_true'] at waits
        exact waits.1
      rw [exec_haloClose released run, if_neg (by rw [Option.isNone_iff_eq_none.mp closed]; decide), if_neg (by rw [new]; decide), if_pos waits]
      rfl
    · obtain ⟨u, hu⟩ : ∃ u, u = s.modTile t (fun x => { x with outSeq := x.outSeq + 1 }) := ⟨_, rfl⟩
      refine ⟨u, ?_, ?_, ?_, fun k => ?_⟩
      · rw [exec_haloClose released run, if_neg (by rw [other]; decide), if_pos old, hu]
      · rw [hu]
        rfl
      · rw [hu, State.tileSt_modTile_same]
      · rw [hu]
        exact State.tileSt_modTile_keeps (·.halos) (by intro x; rfl) s t k
    · rw [exec_haloClose released run, if_neg (by rw [other]; decide), if_neg (by rw [new]; decide), if_neg (by rw [goes]; decide), alone]
      rfl
    · obtain ⟨u, isU, shows⟩ := haloClosed_shows s t k ch
      refine ⟨u, ?_, shows⟩
      rw [exec_haloClose released run, if_neg (by rw [other]; decide), if_neg (by rw [new]; decide), if_neg (by rw [goes]; decide), peer]
      dsimp only [Option.elim]
      rw [isU]
  · intro x
    refine ⟨fun j job => ?_, fun run none_ later => ?_, fun run side y at_ => ?_, fun run n job => ⟨fun asked => ?_, fun fresh rows found => ?_, fun fresh none_ => ⟨fun wrong => ?_, fun fits => ?_⟩⟩⟩
    · intro a n inGrant moves
      refine ⟨fun run => ⟨fun denied => ?_, fun granted u ok asks => ⟨fun held => ?_, fun free => ⟨fun bad => ?_, fun clean => ?_⟩⟩⟩,
        fun run => ⟨fun denied => ?_, fun granted u ok asks => ⟨fun held => ?_, fun free => ?_⟩⟩⟩
      · rw [exec, execLoad, State.onMain_keeps _ released, State.transfer_denied run job denied]
        rfl
      · rw [exec, execLoad, State.onMain_keeps _ released, State.transfer_granted run job granted asks, held, if_neg (by decide)]
      · rw [exec, execLoad, State.onMain_keeps _ released, State.transfer_granted run job granted asks, free, if_pos rfl]
        dsimp only
        rw [if_pos bad]
        rfl
      · have read : s.dread a n = u.dread a n := by
          rw [State.regulated asks]
          rfl
        rw [exec, execLoad, State.onMain_keeps _ released, State.transfer_granted run job granted asks, free, if_pos rfl]
        dsimp only
        rw [if_neg (not_not.mpr clean), read]
      · rw [exec, execStore, State.onMain_keeps _ released, State.transfer_denied run job denied]
        rfl
      · rw [exec, execStore, State.onMain_keeps _ released, State.transfer_granted run job granted asks, held, if_neg (by decide)]
      · obtain ⟨k, isJob, found⟩ : ∃ k, x.job = some k ∧ tfind s.jobs k = some j := Option.bind_eq_some_iff.mp job
        have only := State.regulated asks
        have jobs : u.jobs = s.jobs := by rw [only]
        have tile : u.tileSt t = x := State.tileSt_congr (by rw [only]) t
        have read : u.dread a n = s.dread a n := by rw [only]; rfl
        have bytes : u.tread t c.aAddr n = s.tread t c.aAddr n := by rw [only]; rfl
        obtain ⟨w, hw⟩ : ∃ w, w = u.modJob k (fun j => { j with undo := (a, s.dread a n) :: j.undo }) := ⟨_, rfl⟩
        have bytesW : w.tread t c.aAddr n = u.tread t c.aAddr n := by rw [hw]; rfl
        refine ⟨k, w, isJob, by rw [hw]; rfl, ?_, ?_⟩
        · rw [hw, State.modJob, jobs, tfind_tupd_same, found]
          rfl
        · rw [exec, execStore, State.onMain_keeps _ released, State.transfer_granted run job granted asks, free, if_pos rfl]
          dsimp only
          rw [tile, isJob]
          dsimp only
          rw [read, ← hw, bytesW, bytes]
    · rw [exec_streamIn released run (by rw [later]; rfl), State.streamSteps, run]
      dsimp only
      rw [none_, later]
      dsimp only
      by_cases opened : (s.ringAt t c.outAddr).endRow = openEnd
      · rw [if_pos opened, if_neg (by rw [decide_eq_false (not_not.mpr opened)]; decide)]
        rfl
      · rw [if_neg opened, if_pos (by rw [decide_eq_true opened]; decide)]
    · have bound : (c.first && decide (c.done = 0) && (s.tileSt t).streamAt.isNone) = false := by rw [at_]; simp
      intro n r
      refine ⟨fun done => ?_, fun l o more next full => ?_, fun last l o next is room => ?_⟩
      · rw [exec_streamIn released run bound, State.streamSteps_done run at_ done]
      · rw [exec_streamIn released run bound, State.streamSteps_full run at_ more next full]
        rfl
      · intro row
        refine ⟨fun new full => ?_, fun fits => ?_⟩
        · rw [exec_streamIn released run bound, State.streamSteps_row run at_ (by omega) next room is, new, if_neg (by decide), if_pos full]
          rfl
        · obtain ⟨u, rows, shows⟩ := State.streamSteps_last run at_ last next room is fits 598
          exact ⟨u, by rw [exec_streamIn released run bound, rows], shows⟩
    · rw [exec, execEmit, State.onMain_keeps _ released]
      dsimp only
      rw [run, job]
      dsimp only
      rw [if_pos asked]
      rfl
    · obtain ⟨v, hv⟩ : ∃ v, v = s.modTile t (fun x => { x with replay := x.replay.erase (.ack rows), outSeq := x.outSeq + 1 }) := ⟨_, rfl⟩
      have out : (v.tileSt t).outSeq = x.outSeq + 1 := by rw [hv, State.tileSt_modTile_same]
      have cells : s.CellsOnly v := by rw [hv]; exact (State.CellsOnly.refl s).modTile _ _
      refine ⟨v.twrite t c.outAddr (rows.flatMap (leBytes 4)), ?_, cells.twrite _ _ _, (State.twrite_congr (by rw [hv]; rfl) (by rw [hv]; rfl) t _ _).1,
        (congrArg (·.outSeq) (State.tileSt_congr (State.twrite_tiles v t _ _) t)).trans out⟩
      rw [exec, execEmit, State.onMain_keeps _ released]
      dsimp only
      rw [run, job]
      dsimp only
      rw [if_neg (not_not.mpr fresh), found]
      dsimp only
      rw [← hv]
    · rw [exec, execEmit, State.onMain_keeps _ released]
      dsimp only
      rw [run, job]
      dsimp only
      rw [if_neg (not_not.mpr fresh), none_]
      dsimp only
      rw [if_pos wrong]
      rfl
    · obtain ⟨u, isU, shows⟩ := emit_sent (s := s) (t := t) ({ tile := t, job := n, part := c.u 53 1, npart := c.u 52 1, vtotal := c.u 36 4, v0 := c.u 40 4, vn := c.u 48 4, fmt := c.aFmt, out := c.outAddr, rows := s.emitRows t c, cmd := c.index })
      have kept : s.keeps u = u := by
        obtain ⟨only, -⟩ := shows
        rw [only]
        rfl
      refine ⟨u, ?_, shows⟩
      rw [exec, execEmit, State.onMain_keeps _ released]
      dsimp only
      rw [run, job]
      dsimp only
      rw [if_neg (not_not.mpr fresh), none_]
      dsimp only
      rw [if_neg (by rw [fits]; decide), State.nextOut_shows]
      dsimp only
      rw [isU, kept]

end Sys2Proof.Machine
end


section
/-! SUPPORT. O45 fails: a held record for a ring that does not exist. -/

namespace Sys2Proof.Machine

/-- Tile 4 on libero 271, no other libero in service. A record of 241 slots is held for "ring 49040", whose CFG, TAIL and HEAD are PIT_MAP 2, 4 and 5
  (0x2010 + 0x40 × 49040 = 0x300410); PIT_MAP 4 and 5 have bits set between their fields. The ring of the system's records has one slot, so that the ERROR
  record of a lost tile is too long for it and the hold drains. -/
def strayRecord : State :=
  { (((Sys2Proof.Tests.pitch.setReg (PIT_MAP 4) 0xFFFFFF0F).setReg (PIT_MAP 5) 0x7FFFFF0F).setReg (PIT_MAP 2) 0x80000008).setFld (HIF_RING_CFG 0) HIF_RING_CFG_LOG2_SLOTS 0 with
    ptiles := (List.range 15).map (fun k => (k + 256, { failed := true, removed := false, low := none }))
    hold := [{ ring := 49040, typ := 0, parts := List.replicate 241 (List.replicate 32 0), item := 0, lc := false, sent := false, final := false }] }

theorem strayRecord_released : strayRecord.sys.released = true := by decide +kernel

theorem strayRecord_sound : (strayRecord.ptile (271 : Fin 272)).failed = false := by decide +kernel

theorem strayRecord_tile : strayRecord.logicalOf (271 : Fin 272) = some 4 := by decide +kernel

theorem strayRecord_alone : strayRecord.nearest (271 : Fin 272) = none := by decide +kernel

theorem strayRecord_idle : (strayRecord.tileSt 4).job = none := by decide +kernel

/-- The record drained moves the TAIL from 0x7FFFFF0F to 0x80000000, which sets VALID of PIT_MAP 4 again. -/
theorem strayRecord_mapped : (strayRecord.failTile (271 : Fin 272) 1).fld (PIT_MAP 4) PIT_MAP_VALID = 1 := by decide +kernel

/-- Refutes O45: no clause requires that a held record is for one of the 64 rings. On `strayRecord` a tile that fails without a free libero is left mapped. -/
theorem not_tileFailures : ¬ Obligations.TileFailures := by
  unfold Obligations.TileFailures
  intro all
  obtain ⟨-, lost, -⟩ := all strayRecord strayRecord_released
  obtain ⟨-, unmapped, -⟩ := lost 271 4 1 strayRecord_sound strayRecord_tile strayRecord_alone strayRecord_idle rfl
  rw [strayRecord_mapped] at unmapped
  exact absurd unmapped (by decide)

end Sys2Proof.Machine
end


section
/-! SUPPORT. O46: dispatch, switches and teardowns: what leaves the contexts as they are. -/

namespace Sys2Proof.Machine

/-! ### What a new job needs before its turn changes no context but the rows of its own -/

theorem State.addReq_ctxs (s : State) (r : FrameReq) : (s.addReq r).ctxs = s.ctxs := by
  unfold State.addReq
  split <;> rfl

theorem State.shareEntry_ctxs (s : State) (i set page home : Nat) (e : Pte) : (s.shareEntry i set page home e).ctxs = s.ctxs := by
  unfold State.shareEntry
  dsimp only
  split
  · rfl
  · split
    · rfl
    · exact State.addReq_ctxs ..

theorem State.sharePrefix_ctxs (s : State) (i : Nat) : (s.sharePrefix i).ctxs = s.ctxs := by
  unfold State.sharePrefix
  split
  · rfl
  · split
    · rfl
    · split
      · rfl
      · exact foldl_keeps State.ctxs (fun v _ => foldl_keeps State.ctxs (fun w _ => State.shareEntry_ctxs w ..) _ v) _ _

theorem State.reserveSet_ctxs (i set : Nat) (k : KvSet) (goal n : Nat) : ∀ s : State, (s.reserveSet i set k goal n).ctxs = s.ctxs := by
  induction n with
  | zero => exact fun s => rfl
  | succ n ih =>
    intro s
    unfold State.reserveSet
    split
    · rfl
    · dsimp only
      split
      · exact State.addReq_ctxs ..
      · split
        · rfl
        · split
          · exact State.addReq_ctxs ..
          · split
            · rfl
            · split
              · exact ih _
              · exact State.addReq_ctxs ..

theorem State.reserve_ctxs (s : State) (i : Nat) : (s.reserve i).ctxs = s.ctxs := by
  unfold State.reserve
  split
  · rfl
  · split
    · rfl
    · exact foldl_keeps State.ctxs (fun v _ => State.reserveSet_ctxs _ _ _ _ _ v) _ s

theorem State.withBatch_cls (s : State) (c info : Nat) : ((s.withBatch c info).ctxSt c).cls = (s.ctxSt c).cls := by
  unfold State.withBatch
  split
  · rfl
  · simp only [State.formBatch, State.modCtx, State.ctxSt, tget_tput_same]

theorem State.prepare_cls (s : State) (c info : Nat) (r : ReadyJob) : ((s.prepare c info r).ctxSt c).cls = (s.ctxSt c).cls := by
  have step (recompute : Bool) (v : State) (i : Nat) : ((if recompute then v else v.sharePrefix i).reserve i).ctxs = v.ctxs := by
    rw [State.reserve_ctxs]
    split
    · rfl
    · exact State.sharePrefix_ctxs ..
  unfold State.prepare
  dsimp only
  rw [State.ctxSt, foldl_keeps State.ctxs (step _)]
  exact State.withBatch_cls ..

/-- A model that is there has nothing more to do than count as used. -/
theorem State.modelReady_ctxs {s u : State} {p pb m : Nat} (ready : s.modelReady p pb m = (u, true)) : u.ctxs = s.ctxs := by
  unfold State.modelReady at ready
  split at ready
  · rw [← (Prod.mk.inj ready).1]
  · split at ready
    · split at ready
      · exact absurd (Prod.mk.inj ready).2 Bool.noConfusion
      · rw [← (Prod.mk.inj ready).1]
        rfl
    · split at ready <;> exact absurd (Prod.mk.inj ready).2 Bool.noConfusion

/-! ### Dispatch -/

theorem find?_or_head? {α : Type} (p : α → Bool) (x : α) : ([x].find? p).or [x].head? = some x := by
  cases h : p x <;> simp [h]

theorem State.bringIn_of_resident {s : State} {c : Nat} (resident : (s.ctxSt c).state = .resident) : s.bringIn c = s := by
  unfold State.bringIn
  dsimp only
  rw [if_pos (by rw [resident]; rfl)]

/-- Dispatch of the one ready job of an LC context that is resident (R206, R394-R401). -/
theorem exec_jobDispatch_lc {s : State} (released : s.sys.released = true) {ctx : Fin 4096} {job : Nat} {r : ReadyJob}
    (up : s.on HIF_STAT HIF_STAT_COACH_UP = true) (awake : s.standby = false) (mine : s.ready.filter (fun r => r.ctx == ctx.val && r.info == job) = [r])
    (lc : (s.ctxSt ctx).cls = .lc) (resident : (s.ctxSt ctx).state = .resident) (calm : (s.ctxSt ctx).tearing = false)
    (valid : (s.partSt (s.ctxSt ctx).part).valid = true) (going : (s.partSt (s.ctxSt ctx).part).halted = false) (settled : (s.partSt (s.ctxSt ctx).part).switchIn = none)
    {u : State} {ok : Bool} (model : s.modelReady (s.ctxSt ctx).part (s.ctxSt ctx).playbook (s.jobInfo (s.ctxSt ctx).playbook job).model = (u, ok)) :
    exec (.jobDispatch ctx job) s = .next (s.keeps (if ok then (match r.job with
      | some n => u.continueJob r n
      | none => (u.prepare ctx job r).newJob ctx job r) else u)) := by
  have held : (!s.on HIF_STAT HIF_STAT_COACH_UP || s.standby || !(s.partSt (s.ctxSt ctx).part).valid || (s.partSt (s.ctxSt ctx).part).halted || (s.ctxSt ctx).tearing
      || ((s.ctxSt ctx).state ≠ .idle && (s.ctxSt ctx).state ≠ .resident) || (s.partSt (s.ctxSt ctx).part).switchIn == some ctx.val) = false := by
    simp [up, awake, valid, going, calm, resident, settled]
  rw [exec, execJobDispatch, State.onMain_keeps _ released]
  dsimp only
  rw [mine, find?_or_head?]
  dsimp only
  rw [if_neg (by rw [held]; decide), State.bringIn_of_resident resident, if_neg (by rw [resident]; decide), model]
  cases ok with
  | false => rfl
  | true =>
    have notBe : ¬ ((s.ctxSt ctx).cls = .be) := by rw [lc]; decide
    have kept : u.ctxs = s.ctxs := State.modelReady_ctxs model
    dsimp only
    rw [if_neg (by simp [notBe]), if_neg notBe, if_pos rfl]
    cases hr : r.job with
    | some n =>
      have turn : u.hasTurn ctx r = true := by simp [State.hasTurn, State.ctxSt, kept, show (tget default s.ctxs ctx.val).cls = .lc from lc]
      simp [turn]
    | none =>
      have turn : (u.prepare ctx job r).hasTurn ctx r = true := by
        have cls : ((u.prepare ctx job r).ctxSt ctx).cls = .lc := by
          rw [State.prepare_cls, State.ctxSt, kept]
          exact lc
        simp [State.hasTurn, cls]
      simp [turn]

end Sys2Proof.Machine
end


section
/-! SUPPORT. O46: placement, switches and teardowns. -/

namespace Sys2Proof.Machine

/-! ### Placement -/

theorem bestPlace_nil (s : State) (pb m : Nat) (chips : List Nat) : s.bestPlace pb m chips [] = none := rfl

section
variable {s : State} {c job : Nat} {r : ReadyJob}

/-- The places of a job whose tiles are all mapped (R233). -/
def State.usableFor (s : State) (c job : Nat) : List Place := (s.placesIn c job).filter (fun d => d.groupList.all s.groupUsable)

/-- A variant may be taken: its groups are free, and the context may have them (R394). -/
def State.openFor (s : State) (c : Nat) (d : Place) : Bool := d.groupList.all s.groupFree && s.mayTake c d.groupList

/-- Room for an LC job that finds none: BE jobs at a cut leave (R394). -/
def State.roomFor (s : State) (c job : Nat) : State :=
  if (s.ctxSt c).cls = .lc ∧ (s.usableFor c job).any (s.openFor c) = false then
    s.clearGroups (s.ctxSt c).part ((((s.usableFor c job).find? (fun d => d.groupList.all s.groupOpen)).map Place.groupList).getD [])
  else s

/-- The pages of a new job are there, and a batch of its is not empty. -/
def State.pagesFor (s : State) (c job : Nat) (r : ReadyJob) : Prop :=
  ((s.jobInfo (s.ctxSt c).playbook job).rows = 0 ∨ rowSeqs (s.jobRows c job r) ≠ []) ∧ (rowSeqs (s.jobRows c job r)).all s.pagesReady = true

theorem State.newJob_waits (missing : ((s.jobInfo (s.ctxSt c).playbook job).rows ≠ 0 ∧ rowSeqs (s.jobRows c job r) = []) ∨ (rowSeqs (s.jobRows c job r)).all s.pagesReady = false) :
    s.newJob c job r = s := by
  unfold State.newJob
  dsimp only
  refine if_pos ?_
  rcases missing with ⟨batch, none⟩ | missing
  · simp [batch, none]
  · simp only [missing]
    simp

theorem State.pagesFor_test (pages : s.pagesFor c job r) :
    ¬ (((decide ((s.jobInfo (s.ctxSt c).playbook job).rows ≠ 0) && decide (rowSeqs (s.jobRows c job r) = [])) || !(rowSeqs (s.jobRows c job r)).all s.pagesReady) = true) := by
  obtain ⟨batch, ready⟩ := pages
  rw [ready]
  rcases batch with h | h <;> simp [h]

theorem State.newJob_nowhere (pages : s.pagesFor c job r) (nowhere : s.placesIn c job = []) :
    s.newJob c job r = s.refuseJob c 12 (((s.jobInfo (s.ctxSt c).playbook job).variants.map s.place).headD default) := by
  unfold State.newJob
  dsimp only
  rw [if_neg (State.pagesFor_test pages), if_pos nowhere]
  rfl

theorem State.newJob_unmapped (pages : s.pagesFor c job r) (somewhere : s.placesIn c job ≠ []) (unmapped : s.usableFor c job = []) :
    s.newJob c job r = s.refuseJob c 6 ((s.placesIn c job).headD default) := by
  unfold State.newJob
  dsimp only
  rw [if_neg (State.pagesFor_test pages), if_neg somewhere]
  exact if_pos unmapped

theorem State.placed_of_usable (usable : s.usableFor c job ≠ []) : s.placesIn c job ≠ [] := fun none => usable (by rw [State.usableFor, none]; rfl)

theorem State.newJob_late (pages : s.pagesFor c job r) (usable : s.usableFor c job ≠ []) (late : s.fits c ((s.jobInfo (s.ctxSt c).playbook job).wcets.getD 0 0) = false) :
    s.newJob c job r = s := by
  unfold State.newJob
  dsimp only
  rw [if_neg (State.pagesFor_test pages), if_neg (State.placed_of_usable usable)]
  refine (if_neg usable).trans (if_pos ?_)
  rw [late]
  rfl

/-- A job that fits, on the best of the variants it may take (R400). -/
theorem State.newJob_fits (pages : s.pagesFor c job r) (usable : s.usableFor c job ≠ []) (fits : s.fits c ((s.jobInfo (s.ctxSt c).playbook job).wcets.getD 0 0) = true) :
    s.newJob c job r = match (s.roomFor c job).bestPlace (s.ctxSt c).playbook (s.jobInfo (s.ctxSt c).playbook job).model ((s.roomFor c job).chipsOf (rowSeqs (s.jobRows c job r)))
        ((s.usableFor c job).filter ((s.roomFor c job).openFor c)) with
      | none => s.roomFor c job
      | some d =>
        match (s.roomFor c job).didRead d.addr (64 + 8 * (16 * d.groups)) with
        | (v, false) => v
        | (v, true) => v.startJob c job d r.item (s.jobRows c job r)
            (if (s.jobInfo (s.ctxSt c).playbook job).rows = 0 then [r]
            else v.ready.filter (fun y => y.ctx == c && y.info == job && y.job.isNone && (rowSeqs (s.jobRows c job r)).contains y.item)) := by
  unfold State.newJob
  dsimp only
  rw [if_neg (State.pagesFor_test pages), if_neg (State.placed_of_usable usable)]
  refine (if_neg usable).trans ((if_neg (by rw [fits]; decide)).trans ?_)
  have room : (if ((s.ctxSt c).cls = .lc && !(s.usableFor c job).any (s.openFor c)) = true then
      s.clearGroups (s.ctxSt c).part ((((s.usableFor c job).find? (fun d => d.groupList.all s.groupOpen)).map Place.groupList).getD []) else s) = s.roomFor c job := by
    unfold State.roomFor
    simp
  rw [← room]
  rfl

end

/-! ### Switches and teardowns -/

theorem State.freshSch_shows (s : State) : s.RegsOnly s.freshSch ∧ s.regsSame s.freshSch [SCH_STAT] := by
  refine ⟨((State.RegsOnly.refl s).setFld ..).setFld .., fun a ha => ?_⟩
  have ne : a ≠ SCH_STAT := fun h => ha (by simp [h])
  rw [State.freshSch, State.reg_setFld_ne _ _ _ ne, State.reg_setFld_ne _ _ _ ne]

theorem State.ctxSt_freshSch (s : State) (c : Nat) : s.freshSch.ctxSt c = s.ctxSt c := rfl

theorem State.ctxSt_modCtx_same (s : State) (c : Nat) (f : Ctx → Ctx) : (s.modCtx c f).ctxSt c = f (s.ctxSt c) := tget_tput_same ..

theorem State.partSt_modPart_same (s : State) (p : Nat) (f : PartSt → PartSt) : (s.modPart p f).partSt p = f (s.partSt p) := tget_tput_same ..

theorem exec_ctxSwitchDone_waits {s : State} (released : s.sys.released = true) {p : Fin 8} {c : Nat} (coming : (s.partSt p).switchIn = some c)
    (early : s.tb < (s.partSt p).switchTb ∨ s.standby = true) : exec (.ctxSwitchDone p) s = .next s := by
  rw [exec, execCtxSwitchDone, State.onMain_keeps _ released]
  dsimp only
  rw [coming]
  dsimp only
  rw [if_pos (by rcases early with h | h <;> simp [h])]
  rfl

/-- A switch that has taken its time (R405). -/
theorem exec_ctxSwitchDone_resident {s : State} (released : s.sys.released = true) {p : Fin 8} {c : Nat} (coming : (s.partSt p).switchIn = some c)
    (due : (s.partSt p).switchTb ≤ s.tb) (awake : s.standby = false) (idle : (s.ctxSt c).state = .idle) :
    ∃ t, exec (.ctxSwitchDone p) s = .next t ∧ (t.ctxSt c).state = .resident ∧ (t.partSt p).switchIn = none ∧ t = { s with parts := t.parts, ctxs := t.ctxs, regs := t.regs }
      ∧ s.regsSame t [SCH_STAT] := by
  obtain ⟨v, hv⟩ : ∃ v, v = (s.modPart p (fun p => { p with switchIn := none })).modCtx c (fun x => { x with state := .resident }) := ⟨_, rfl⟩
  have entered : (v.ctxSt c).state = .resident := by rw [hv, State.ctxSt_modCtx_same]
  have taken : (v.partSt p).switchIn = none := by
    rw [hv]
    exact congrArg PartSt.switchIn (State.partSt_modPart_same s p (fun p => { p with switchIn := none }))
  obtain ⟨only, same⟩ := State.freshSch_shows v
  refine ⟨v.freshSch, ?_, entered, taken, ?_, fun a ha => ?_⟩
  · rw [exec, execCtxSwitchDone, State.onMain_keeps _ released]
    dsimp only
    rw [coming]
    dsimp only
    rw [if_neg (by simp [awake, Nat.not_lt.2 due])]
    refine congrArg Host.Outcome.next (Eq.trans (congrArg s.keeps (Eq.trans (if_pos idle) (congrArg State.freshSch hv.symm))) ?_)
    rw [hv]
    rfl
  · exact Eq.trans only (by rw [hv]; rfl)
  · rw [same a ha, hv]
    rfl

/-- A context whose tiles have still to answer: the teardown goes on (R407). -/
theorem exec_ctxTeardownDone_waits {s : State} (released : s.sys.released = true) {ctx : Fin 4096} (tearing : (s.ctxSt ctx).tearing = true)
    (open_ : (s.ctxSt ctx).state ≠ .faulted) (busy : (s.ctxTiles ctx).any s.shouldHandshake = true) : exec (.ctxTeardownDone ctx) s = .next s := by
  have stopping : (s.ctxSt ctx).stopping = true := by simp [Ctx.stopping, tearing, open_]
  rw [exec, execCtxTeardownDone, State.onMain_keeps _ released]
  simp [stopping, tearing, busy, State.keeps]

/-- A context that is torn down is no longer on its way there (R408). -/
def State.torn (s : State) (c : Nat) : State := s.modCtx c (fun x => { x with tearing := false })

/-- What the end of a teardown does to a FAULTED context (R408). -/
theorem exec_ctxTeardownDone_done {s : State} (released : s.sys.released = true) {ctx : Fin 4096} (tearing : (s.ctxSt ctx).tearing = true)
    (faulted : (s.ctxSt ctx).state = .faulted) : exec (.ctxTeardownDone ctx) s = .next (s.keeps (
      if (s.ctxSt ctx).restart then ((s.torn ctx).modCtx ctx (fun x => { x with state := .idle })).freshSch
      else ((s.ready.filter (fun r => r.ctx == ctx.val)).map (·.item)).foldl State.faultItem { s.torn ctx with ready := s.ready.filter (fun r => r.ctx != ctx.val) })) := by
  have still : (s.ctxSt ctx).stopping = false := by simp [Ctx.stopping, faulted]
  rw [exec, execCtxTeardownDone, State.onMain_keeps _ released]
  dsimp only
  rw [still]
  simp only [Bool.false_and, Bool.false_eq_true, if_false, tearing, Bool.not_true, Bool.or_false]
  rfl

theorem filter_ne_of_none {l : List ReadyJob} {c : Nat} (none : l.any (fun r => r.ctx == c) = false) :
    l.filter (fun r => r.ctx == c) = [] ∧ l.filter (fun r => r.ctx != c) = l := by
  simp only [List.any_eq_false, beq_iff_eq] at none
  constructor
  · simpa using none
  · simpa using none

/-- Settles O46: dispatch and placement branch by branch; only the test of the context's class after its pages were prepared needs that preparing leaves the class as it is. -/
theorem jobsPlaced : Obligations.JobsPlaced := by
  unfold Obligations.JobsPlaced
  intro s released
  refine ⟨?_, ?_, ?_, ?_⟩
  · intro ctx job r up awake x mine lc resident calm valid going settled u ok model
    exact exec_jobDispatch_lc released up awake mine lc resident calm valid going settled model
  · intro c job r x ji rows mine usable fits may u
    refine ⟨State.newJob_waits, fun batch ready => ?_⟩
    have pages : s.pagesFor c job r := ⟨batch, ready⟩
    refine ⟨State.newJob_nowhere pages, State.newJob_unmapped pages, State.newJob_late pages, fun some fit full => ?_, fun fit d best v good read => ?_⟩
    · have full' : (s.usableFor c job).filter ((s.roomFor c job).openFor c) = [] := full
      rw [State.newJob_fits pages some fit, full', bestPlace_nil]
      rfl
    · have some : s.usableFor c job ≠ [] := fun none => by
        have empty : usable = [] := none
        rw [empty, List.filter_nil, bestPlace_nil] at best
        exact absurd best (by simp)
      have whole : 64 + 8 * (16 * d.groups) = 64 + 128 * d.groups := by omega
      have eq := State.newJob_fits pages some fit
      have best' : (s.roomFor c job).bestPlace (s.ctxSt c).playbook (s.jobInfo (s.ctxSt c).playbook job).model ((s.roomFor c job).chipsOf (rowSeqs (s.jobRows c job r)))
        ((s.usableFor c job).filter ((s.roomFor c job).openFor c)) = Option.some d := best
      have read' : (s.roomFor c job).didRead d.addr (64 + 8 * (16 * d.groups)) = (v, good) := by rw [whole]; exact read
      rw [best'] at eq
      dsimp only at eq
      rw [read'] at eq
      exact ⟨fun bad => by rw [eq, bad], fun ok => by rw [eq, ok]⟩
  · intro p c coming
    exact ⟨exec_ctxSwitchDone_waits released coming, exec_ctxSwitchDone_resident released coming⟩
  · intro ctx tearing
    refine ⟨exec_ctxTeardownDone_waits released tearing, fun faulted restart => ?_, fun faulted stays none => ?_⟩
    · obtain ⟨v, hv⟩ : ∃ v, v = (s.torn ctx).modCtx ctx (fun x => { x with state := .idle }) := ⟨_, rfl⟩
      have ctxIs : v.ctxSt ctx = { s.ctxSt ctx with tearing := false, state := .idle } := by
        rw [hv, State.ctxSt_modCtx_same, State.torn, State.ctxSt_modCtx_same]
      obtain ⟨only, same⟩ := State.freshSch_shows v
      refine ⟨v.freshSch, ?_, ?_, ?_, ?_, fun a ha => ?_⟩
      · rw [exec_ctxTeardownDone_done released tearing faulted, if_pos restart, hv]
        rfl
      · rw [State.ctxSt_freshSch, ctxIs]
      · rw [State.ctxSt_freshSch, ctxIs]
      · exact Eq.trans only (by rw [hv]; rfl)
      · rw [same a ha, hv]
        rfl
    · obtain ⟨gone, kept⟩ := filter_ne_of_none none
      refine ⟨s.torn ctx, ?_, ?_, ?_, rfl⟩
      · rw [exec_ctxTeardownDone_done released tearing faulted, if_neg (by rw [stays]; decide), gone, kept]
        rfl
      · rw [State.torn, State.ctxSt_modCtx_same]
        exact faulted
      · rw [State.torn, State.ctxSt_modCtx_same]

end Sys2Proof.Machine
end


section
/-! SUPPORT. O47: slots and major frames. -/

namespace Sys2Proof.Machine

/-! ### Partitions and contexts -/

theorem State.partSt_modPart_ne (s : State) (p : Nat) (f : PartSt → PartSt) {k : Nat} (h : k ≠ p) : (s.modPart p f).partSt k = s.partSt k := tget_tput_ne _ _ _ h

theorem State.ctxSt_modCtx_ne (s : State) (c : Nat) (f : Ctx → Ctx) {k : Nat} (h : k ≠ c) : (s.modCtx c f).ctxSt k = s.ctxSt k := tget_tput_ne _ _ _ h

theorem State.partSt_modCtx (s : State) (c : Nat) (f : Ctx → Ctx) (k : Nat) : (s.modCtx c f).partSt k = s.partSt k := rfl

theorem State.ctxSt_modPart (s : State) (p : Nat) (f : PartSt → PartSt) (k : Nat) : (s.modPart p f).ctxSt k = s.ctxSt k := rfl

/-! ### Slots (R394, R396, R397) -/

section
variable {s : State} {p : Fin 8} {tab : CycTable} {l : Slot}

/-- When slot `l` of the table in force starts (R393). -/
def State.slotStartAt (s : State) (p : Nat) (l : Slot) : Nat := ((s.partSt p).frameStart + l.start * 10000) % 2 ^ 48

/-- The slot after is next, and none is open. -/
def State.slotPassed (s : State) (p : Nat) : State := s.modPart p (fun y => { y with nextSlot := (s.partSt p).nextSlot + 1, slot := none })

theorem exec_slotStart (released : s.sys.released = true) (table : s.activeTable p = some tab) (next : tab.slots[(s.partSt p).nextSlot]? = some l) :
    exec (.slotStart p) s = .next (s.keeps (
      if (s.partSt p).halted || !s.reached (s.slotStartAt p l) || s.overrunning p then s
      else if l.len * 10000 ≤ (s.ctxSt l.ctx).debt then (s.slotPassed p).modCtx l.ctx (fun c => { c with debt := (s.ctxSt l.ctx).debt - l.len * 10000 })
      else ((s.slotPassed p).modCtx l.ctx (fun c => { c with debt := 0 })).modPart p (fun y =>
        { y with slot := some (s.partSt p).nextSlot, slotEndTb := (s.slotStartAt p l + l.len * 10000 - (s.ctxSt l.ctx).debt) % 2 ^ 48 }))) := by
  rw [exec, execSlotStart, State.onMain_keeps _ released]
  dsimp only
  rw [table]
  dsimp only
  rw [next]
  rfl

theorem exec_slotStart_waits (released : s.sys.released = true) (table : s.activeTable p = some tab) (next : tab.slots[(s.partSt p).nextSlot]? = some l)
    (held : ((s.partSt p).halted || !s.reached (s.slotStartAt p l) || s.overrunning p) = true) : exec (.slotStart p) s = .next s := by
  rw [exec_slotStart released table next, if_pos held]
  rfl

theorem exec_slotStart_opens (released : s.sys.released = true) (table : s.activeTable p = some tab) (next : tab.slots[(s.partSt p).nextSlot]? = some l)
    (free : ((s.partSt p).halted || !s.reached (s.slotStartAt p l) || s.overrunning p) = false) (debt : (s.ctxSt l.ctx).debt < l.len * 10000) :
    ∃ t, exec (.slotStart p) s = .next t ∧ t = { s with parts := t.parts, ctxs := t.ctxs } ∧ (t.partSt p).slot = some (s.partSt p).nextSlot
      ∧ (t.partSt p).nextSlot = (s.partSt p).nextSlot + 1 ∧ (t.partSt p).slotEndTb = (s.slotStartAt p l + l.len * 10000 - (s.ctxSt l.ctx).debt) % 2 ^ 48
      ∧ (t.ctxSt l.ctx).debt = 0 ∧ (∀ k, k ≠ p.val → t.partSt k = s.partSt k) ∧ ∀ k, k ≠ l.ctx → t.ctxSt k = s.ctxSt k := by
  obtain ⟨v, hv⟩ : ∃ v, v = (s.slotPassed p).modCtx l.ctx (fun c => { c with debt := 0 }) := ⟨_, rfl⟩
  have part : v.partSt p = { s.partSt p with nextSlot := (s.partSt p).nextSlot + 1, slot := none } := by
    rw [hv, State.partSt_modCtx, State.slotPassed, State.partSt_modPart_same]
  refine ⟨v.modPart p (fun y => { y with slot := some (s.partSt p).nextSlot, slotEndTb := (s.slotStartAt p l + l.len * 10000 - (s.ctxSt l.ctx).debt) % 2 ^ 48 }),
    ?_, ?_, ?_, ?_, ?_, ?_, fun k away => ?_, fun k away => ?_⟩
  · rw [exec_slotStart released table next, if_neg (by rw [free]; decide), if_neg (Nat.not_le.2 debt), ← hv]
    rw [hv]
    rfl
  · rw [hv]
    rfl
  · rw [State.partSt_modPart_same]
  · rw [State.partSt_modPart_same, part]
  · rw [State.partSt_modPart_same]
  · rw [State.ctxSt_modPart, hv, State.ctxSt_modCtx_same]
  · rw [State.partSt_modPart_ne _ _ _ away, hv, State.partSt_modCtx, State.slotPassed, State.partSt_modPart_ne _ _ _ away]
  · rw [State.ctxSt_modPart, hv, State.ctxSt_modCtx_ne _ _ _ away, State.slotPassed, State.ctxSt_modPart]

theorem exec_slotStart_passes (released : s.sys.released = true) (table : s.activeTable p = some tab) (next : tab.slots[(s.partSt p).nextSlot]? = some l)
    (free : ((s.partSt p).halted || !s.reached (s.slotStartAt p l) || s.overrunning p) = false) (debt : l.len * 10000 ≤ (s.ctxSt l.ctx).debt) :
    ∃ t, exec (.slotStart p) s = .next t ∧ t = { s with parts := t.parts, ctxs := t.ctxs } ∧ (t.partSt p).slot = none ∧ (t.partSt p).nextSlot = (s.partSt p).nextSlot + 1
      ∧ (t.ctxSt l.ctx).debt = (s.ctxSt l.ctx).debt - l.len * 10000 ∧ ∀ k, k ≠ l.ctx → t.ctxSt k = s.ctxSt k := by
  have part : (s.slotPassed p).partSt p = { s.partSt p with nextSlot := (s.partSt p).nextSlot + 1, slot := none } := State.partSt_modPart_same ..
  refine ⟨(s.slotPassed p).modCtx l.ctx (fun c => { c with debt := (s.ctxSt l.ctx).debt - l.len * 10000 }), ?_, rfl, congrArg PartSt.slot part, congrArg PartSt.nextSlot part, ?_,
    fun k away => State.ctxSt_modCtx_ne (s.slotPassed p) l.ctx _ away⟩
  · rw [exec_slotStart released table next, if_neg (by rw [free]; decide), if_pos debt]
    rfl
  · rw [State.ctxSt_modCtx_same]

theorem exec_slotEnd (released : s.sys.released = true) (open_ : (s.partSt p).slot.isSome = true) (due : s.reached (s.partSt p).slotEndTb = true) :
    ∃ t, exec (.slotEnd p) s = .next t ∧ t = { s with parts := t.parts } ∧ t.partSt p = { s.partSt p with slot := none } ∧ ∀ k, k ≠ p.val → t.partSt k = s.partSt k := by
  refine ⟨s.modPart p (fun p => { p with slot := none }), ?_, rfl, State.partSt_modPart_same .., fun k away => State.partSt_modPart_ne s p _ away⟩
  rw [exec, execSlotEnd, State.onMain_keeps _ released]
  dsimp only
  rw [if_pos (by rw [open_, due]; rfl)]
  rfl

end

/-! ### Major frames (R393, R409) -/

theorem State.freshPart_shows (s : State) (p : Nat) : s.RegsOnly (s.freshPart p) ∧ s.regsSame (s.freshPart p) [SCH_PART_TABLE p] := by
  refine ⟨(((State.RegsOnly.refl s).setFld ..).setFld ..).setFld .., fun a ha => ?_⟩
  have ne : a ≠ SCH_PART_TABLE p := fun h => ha (by simp [h])
  rw [State.freshPart, State.reg_setFld_ne _ _ _ ne, State.reg_setFld_ne _ _ _ ne, State.reg_setFld_ne _ _ _ ne]

/-- A field that is the whole word. -/
theorem State.fld_word (s : State) (a : Nat) : s.fld a ⟨31, 0⟩ = s.num a := by
  simp only [State.num, State.fld, fget, Nat.shiftRight_zero]
  exact Nat.mod_eq_of_lt (s.reg a).isLt

theorem State.num_setFld_word (s : State) (a v : Nat) : (s.setFld a ⟨31, 0⟩ v).num a = v % 2 ^ 32 := by
  rw [← State.fld_word]
  exact State.fld_setFld_same s a ⟨31, 0⟩ v (by decide) (by decide)

theorem State.num_addWrap_word (s : State) (a : Nat) : (s.addWrap a ⟨31, 0⟩).num a = (s.num a + 1) % 2 ^ 32 := by
  rw [State.addWrap, State.num_setFld_word, State.fld_word]

theorem frames_ne_table (p : Nat) : SCH_PART_FRAMES p ≠ SCH_PART_TABLE p := by
  unfold SCH_PART_FRAMES SCH_PART_TABLE
  omega

/-- The frame after is counted and begins at `at_`. -/
def State.frameCounted (s : State) (p at_ : Nat) : State :=
  (s.addWrap (SCH_PART_FRAMES p) SCH_PART_FRAMES_FRAMES).modPart p (fun x => { x with frameStart := at_, slot := none, nextSlot := 0 })

/-- It runs the table selected for it (R393). -/
def State.frameBegun (s : State) (p at_ : Nat) : State :=
  match (s.partSt p).nextTable with
  | some tab => (s.frameCounted p at_).activate p tab at_
  | none => s.frameCounted p at_

theorem State.addWrap_shows (s : State) (a : Nat) (f : Fld) : s.RegsOnly (s.addWrap a f) ∧ s.regsSame (s.addWrap a f) [a] :=
  ⟨(State.RegsOnly.refl s).setFld .., fun _ away => State.reg_setFld_ne _ _ _ (fun h => away (by simp [h]))⟩

theorem State.frameCounted_shows (s : State) (p at_ : Nat) :
    s.frameCounted p at_ = { s with parts := (s.frameCounted p at_).parts, regs := (s.frameCounted p at_).regs }
    ∧ (s.frameCounted p at_).partSt p = { s.partSt p with frameStart := at_, slot := none, nextSlot := 0 }
    ∧ (s.frameCounted p at_).num (SCH_PART_FRAMES p) = (s.num (SCH_PART_FRAMES p) + 1) % 2 ^ 32
    ∧ s.regsSame (s.frameCounted p at_) [SCH_PART_FRAMES p] := by
  obtain ⟨only, same⟩ := s.addWrap_shows (SCH_PART_FRAMES p) SCH_PART_FRAMES_FRAMES
  have count : (s.addWrap (SCH_PART_FRAMES p) SCH_PART_FRAMES_FRAMES).num (SCH_PART_FRAMES p) = (s.num (SCH_PART_FRAMES p) + 1) % 2 ^ 32 := State.num_addWrap_word s _
  have parts : (s.addWrap (SCH_PART_FRAMES p) SCH_PART_FRAMES_FRAMES).partSt p = s.partSt p := only.same (fun v => v.partSt p) (fun _ _ => rfl)
  unfold State.frameCounted
  generalize s.addWrap (SCH_PART_FRAMES p) SCH_PART_FRAMES_FRAMES = v at only same count parts
  refine ⟨?_, ?_, (State.num_congr rfl).trans count, same⟩
  · rw [only]
    rfl
  · rw [State.partSt_modPart_same, parts]

theorem State.activate_shows (s : State) (p : Nat) (tab : Nat × Nat) (at_ : Nat) :
    s.activate p tab at_ = { s with parts := (s.activate p tab at_).parts, regs := (s.activate p tab at_).regs }
    ∧ (s.activate p tab at_).partSt p = { s.partSt p with table := some tab, nextTable := none, frameStart := at_, slot := none, nextSlot := 0 }
    ∧ s.regsSame (s.activate p tab at_) [SCH_PART_TABLE p] := by
  unfold State.activate
  obtain ⟨v, hv⟩ : ∃ v, v = s.modPart p (fun x => { x with table := some tab, nextTable := none, frameStart := at_, slot := none, nextSlot := 0 }) := ⟨_, rfl⟩
  have part : v.partSt p = { s.partSt p with table := some tab, nextTable := none, frameStart := at_, slot := none, nextSlot := 0 } := by rw [hv, State.partSt_modPart_same]
  have frame : v = { s with parts := v.parts } := by rw [hv]; rfl
  obtain ⟨only, same⟩ := State.freshPart_shows v p
  rw [← hv]
  have part' : (v.freshPart p).partSt p = v.partSt p := only.same (fun u => u.partSt p) (fun _ _ => rfl)
  have regs : v.regs = s.regs := by rw [frame]
  generalize v.freshPart p = w at only same part'
  refine ⟨?_, part'.trans part, fun a away => (same a away).trans (State.reg_of_regs regs a)⟩
  rw [only, frame]

theorem State.frameBegun_shows (s : State) (p at_ : Nat) :
    s.frameBegun p at_ = { s with parts := (s.frameBegun p at_).parts, regs := (s.frameBegun p at_).regs }
    ∧ ((s.frameBegun p at_).partSt p).frameStart = at_ ∧ ((s.frameBegun p at_).partSt p).slot = none ∧ ((s.frameBegun p at_).partSt p).nextSlot = 0
    ∧ ((s.frameBegun p at_).partSt p).table = ((s.partSt p).nextTable).or (s.partSt p).table
    ∧ ((s.frameBegun p at_).partSt p).variantDue = (s.partSt p).variantDue
    ∧ (s.frameBegun p at_).num (SCH_PART_FRAMES p) = (s.num (SCH_PART_FRAMES p) + 1) % 2 ^ 32
    ∧ s.regsSame (s.frameBegun p at_) [SCH_PART_FRAMES p, SCH_PART_TABLE p] := by
  obtain ⟨frame, part, count, others⟩ := s.frameCounted_shows p at_
  unfold State.frameBegun
  generalize s.frameCounted p at_ = v at frame part count others
  cases (s.partSt p).nextTable with
  | none =>
    refine ⟨frame, ?_, ?_, ?_, ?_, ?_, count, fun a away => others a (fun h => away (List.mem_cons.2 (.inl (List.mem_singleton.1 h))))⟩ <;> rw [part]
    rfl
  | some tab =>
    obtain ⟨frame', part', others'⟩ := v.activate_shows p tab at_
    dsimp only
    refine ⟨?_, ?_, ?_, ?_, ?_, ?_, ?_, fun a away => ?_⟩
    · rw [frame', frame]
    · rw [part']
    · rw [part']
    · rw [part']
    · rw [part']
      rfl
    · rw [part', part]
    · rw [State.num_congr (others' _ (by simpa using frames_ne_table p)), count]
    · simp only [List.mem_cons, List.not_mem_nil, or_false, not_or] at away
      rw [others' a (by simpa using away.2), others a (by simpa using away.1)]

theorem exec_majorFrame {s : State} (released : s.sys.released = true) {p : Fin 8} {tab : CycTable} (table : s.activeTable p = some tab) :
    exec (.majorFrame p) s = .next (s.keeps (if !s.reached (((s.partSt p).frameStart + tab.major * 10000) % 2 ^ 48) then s
      else (s.frameBegun p (((s.partSt p).frameStart + tab.major * 10000) % 2 ^ 48)).selectVariant p (((s.partSt p).frameStart + tab.major * 10000) % 2 ^ 48))) := by
  rw [exec, execMajorFrame, State.onMain_keeps _ released]
  dsimp only
  rw [table]
  rfl

/-- Settles O47: a slot's start by its three tests, the frame by what the selected table puts in. -/
theorem slotsAndFrames : Obligations.SlotsAndFrames := by
  unfold Obligations.SlotsAndFrames
  intro s p tab released table x
  refine ⟨fun l next => ⟨fun held => ?_, fun going due => ⟨fun late => ?_, fun clean debt => ?_, fun clean debt => ?_⟩⟩, exec_slotEnd released, fun early => ?_, fun due => ?_⟩
  · exact exec_slotStart_waits released table next (by
      have held' : (s.partSt p).halted = true ∨ s.reached (s.slotStartAt p l) = false := held
      rcases held' with h | h <;> simp [h])
  · exact exec_slotStart_waits released table next (by simp [late])
  · have due' : s.reached (s.slotStartAt p l) = true := due
    have going' : (s.partSt p).halted = false := going
    exact exec_slotStart_opens released table next (by simp [going', due', clean]) debt
  · have due' : s.reached (s.slotStartAt p l) = true := due
    have going' : (s.partSt p).halted = false := going
    exact exec_slotStart_passes released table next (by simp [going', due', clean]) debt
  · rw [exec_majorFrame released table]
    refine congrArg Host.Outcome.next (congrArg s.keeps (if_pos ?_))
    rw [show s.reached (((s.partSt p).frameStart + tab.major * 10000) % 2 ^ 48) = false from early]
    rfl
  · obtain ⟨frame, start, slot, next, table', variant, count, others⟩ := s.frameBegun_shows p (((s.partSt p).frameStart + tab.major * 10000) % 2 ^ 48)
    refine ⟨s.frameBegun p (((s.partSt p).frameStart + tab.major * 10000) % 2 ^ 48), ?_, fun calm => if_pos ?_, frame, start, slot, next, ?_, count, others⟩
    · rw [exec_majorFrame released table]
      refine congrArg Host.Outcome.next (congrArg s.keeps (if_neg ?_))
      rw [show s.reached (((s.partSt p).frameStart + tab.major * 10000) % 2 ^ 48) = true from due]
      decide
    · rw [variant, show (s.partSt p).variantDue = false from calm]
      rfl
    · rw [table']
      show _ = match (s.partSt p).nextTable with | some k => some k | none => (s.partSt p).table
      cases (s.partSt p).nextTable <;> rfl

end Sys2Proof.Machine
end


section
/-! SUPPORT. O48: the regulators' buckets each µs, and the saturation window. -/

namespace Sys2Proof.Machine

/-! ### A step for each of a list of places -/

/-- Steps of which each touches its own place only: what a place shows is what its own step makes of what it showed. -/
theorem foldl_own {β : Type} {f : State → Nat → State} {get : State → Nat → β} {inv : State → Prop} (kept : ∀ v q, inv v → inv (f v q))
    (away : ∀ v q p, p ≠ q → get (f v q) p = get v p) {p : Nat} : ∀ {l : List Nat} {s : State}, inv s → l.Nodup → p ∈ l →
    ∃ v, inv v ∧ get v p = get s p ∧ get (l.foldl f s) p = get (f v p) p
  | [], _, _, _, mem => absurd mem (by simp)
  | q :: l, s, ok, nodup, mem => by
    obtain ⟨notMem, nodup⟩ := List.nodup_cons.1 nodup
    by_cases h : p = q
    · subst h
      refine ⟨s, ok, rfl, ?_⟩
      rw [List.foldl_cons]
      have rest : ∀ (l : List Nat) (v : State), p ∉ l → get (l.foldl f v) p = get v p := by
        intro l
        induction l with
        | nil => exact fun _ _ => rfl
        | cons x l ih =>
          intro v out
          rw [List.foldl_cons, ih _ (fun h => out (List.mem_cons_of_mem _ h)), away _ _ _ (fun h => out (by simp [h]))]
      exact rest l _ notMem
    · obtain ⟨v, ok', same, eq⟩ := foldl_own kept away (kept s q ok) nodup (List.mem_of_ne_of_mem h mem)
      exact ⟨v, ok', same.trans (away s q p h), eq⟩

/-! ### Buckets (R386) -/

/-- A partition's state with a µs of rate in its buckets, and the resources busy. -/
def PartSt.filled (x : PartSt) (busy : List Nat) : PartSt :=
  { x with dram := { x.dram with level := min (x.dram.level + x.dram.rate) x.dram.burst }, fab := { x.fab with level := min (x.fab.level + x.fab.rate) x.fab.burst }
           hdma := { x.hdma with level := min (x.hdma.level + x.hdma.rate) x.hdma.burst }, busy := busy }

theorem PartSt.dramWait_grant {b : Bus} (other : b ≠ .dram) (n : Nat) : ∀ p : PartSt, (p.grant b n).dramWait = p.dramWait := by
  induction n with
  | zero => exact fun p => rfl
  | succ n ih =>
    intro p
    unfold PartSt.grant
    dsimp only
    split
    · rfl
    · split
      · rfl
      · rw [ih]
        cases b with
        | dram => exact absurd rfl other
        | fab => rfl
        | hdma => rfl

theorem State.tickPart_idle {s : State} {p : Nat} (invalid : (s.partSt p).valid = false) : s.tickPart p = s := by
  unfold State.tickPart
  dsimp only
  rw [invalid]
  rfl

/-- The counts of busy µs with this one (R411). -/
def State.busySums (s : State) (p : Nat) : List Nat := (List.range 7).map (fun k => (s.partSt p).busy.getD k 0 + b2n ((s.busyNow p).getD k false))

/-- A partition's state after the µs: its buckets filled, then what waits let pass. -/
def State.ticked (s : State) (p : Nat) : PartSt :=
  ((((s.partSt p).filled (s.busySums p)).grant .dram (if s.retHeavy then 0 else (s.partSt p).dramWait.length)).grant .fab (s.partSt p).fabWait.length).grant .hdma
    (s.partSt p).hdmaWait.length

theorem State.tickPart_valid {s : State} {p : Nat} (valid : (s.partSt p).valid = true) : ∃ u, s.RegsOnly u ∧ s.tickPart p = u.modPart p (fun _ => s.ticked p) := by
  refine ⟨if (s.partSt p).dramWait ≠ [] || (s.partSt p).fabWait ≠ [] || (s.partSt p).hdmaWait ≠ [] then s.incReg (SCH_PART_THROTTLE p) else s, ?_, ?_⟩
  · split
    · exact (State.RegsOnly.refl s).incReg ..
    · rfl
  · unfold State.tickPart State.ticked
    dsimp only
    rw [valid]
    refine (if_neg (by decide)).trans ?_
    generalize (decide ((s.partSt p).dramWait ≠ []) || decide ((s.partSt p).fabWait ≠ []) || decide ((s.partSt p).hdmaWait ≠ [])) = waits
    cases waits <;> rfl

/-- What a µs of a partition leaves. -/
theorem State.tickPart_frame (s : State) (p : Nat) : s.tickPart p = { s with parts := (s.tickPart p).parts, regs := (s.tickPart p).regs } ∧ ∀ k, k ≠ p → (s.tickPart p).partSt k = s.partSt k := by
  cases valid : (s.partSt p).valid with
  | false =>
    rw [State.tickPart_idle valid]
    exact ⟨rfl, fun _ _ => rfl⟩
  | true =>
    obtain ⟨u, only, eq⟩ := State.tickPart_valid valid
    have parts : u.parts = s.parts := only.same State.parts (fun _ _ => rfl)
    rw [eq]
    refine ⟨?_, fun k away => ?_⟩
    · rw [only]
      rfl
    · rw [State.partSt_modPart_ne _ _ _ away, State.partSt, parts]
      rfl

/-- The µs of a partition. -/
theorem State.tickPart_own {s : State} {p : Nat} (valid : (s.partSt p).valid = true) : (s.tickPart p).partSt p = s.ticked p := by
  obtain ⟨u, only, eq⟩ := State.tickPart_valid valid
  rw [eq, State.partSt_modPart_same]

theorem State.ticked_heavy {s : State} (heavy : s.retHeavy = true) (p : Nat) : (s.ticked p).dramWait = (s.partSt p).dramWait := by
  unfold State.ticked
  rw [heavy, PartSt.dramWait_grant (by decide), PartSt.dramWait_grant (by decide)]
  rfl

theorem State.ticked_calm {s : State} {p : Nat} (dram : (s.partSt p).dramWait = []) (fab : (s.partSt p).fabWait = []) (hdma : (s.partSt p).hdmaWait = []) :
    s.ticked p = (s.partSt p).filled (s.busySums p) := by
  unfold State.ticked
  rw [dram, fab, hdma]
  cases s.retHeavy <;> rfl

/-- Every partition's µs. -/
theorem State.ticks_own (s : State) {p : Nat} (hp : p < 8) :
    ((List.range 8).foldl State.tickPart s) = { s with parts := ((List.range 8).foldl State.tickPart s).parts, regs := ((List.range 8).foldl State.tickPart s).regs }
    ∧ ∃ v : State, v.retQueue = s.retQueue ∧ v.partSt p = s.partSt p ∧ ((List.range 8).foldl State.tickPart s).partSt p = (v.tickPart p).partSt p := by
  have kept (v : State) (q : Nat) : (v.tickPart q).retQueue = v.retQueue := by rw [(v.tickPart_frame q).1]
  refine ⟨?_, foldl_own (get := State.partSt) (inv := fun v => v.retQueue = s.retQueue) (fun v q h => (kept v q).trans h) (fun v q p h => (v.tickPart_frame q).2 p h) rfl
    List.nodup_range (List.mem_range.2 hp)⟩
  have frame : ∀ (l : List Nat) (v : State), l.foldl State.tickPart v = { v with parts := (l.foldl State.tickPart v).parts, regs := (l.foldl State.tickPart v).regs } := by
    intro l
    induction l with
    | nil => exact fun _ => rfl
    | cons q l ih =>
      intro v
      rw [List.foldl_cons, ih, (v.tickPart_frame q).1]
  exact frame _ s

/-! ### The saturation window (R411) -/

/-- The window of a partition ends. -/
def State.satPart (s : State) (p : Nat) : State :=
  let x := s.partSt p
  let s := if x.valid then s.setFld (TOK_SCAN p) TOK_SCAN_SCAN_LOAD (min 1000 (x.busy.getD 1 0)) else s
  if x.valid then s.modPart p (fun x => { x with saturated := maskBits ((List.range 7).map (fun k => decide (950 < x.busy.getD k 0))), busy := [] }) else s

theorem State.satPart_valid {s : State} {p : Nat} (valid : (s.partSt p).valid = true) :
    s.satPart p = (s.setFld (TOK_SCAN p) TOK_SCAN_SCAN_LOAD (min 1000 ((s.partSt p).busy.getD 1 0))).modPart p
      (fun x => { x with saturated := maskBits ((List.range 7).map (fun k => decide (950 < x.busy.getD k 0))), busy := [] }) := by
  unfold State.satPart
  simp only [valid, if_true]

theorem State.satPart_idle {s : State} {p : Nat} (invalid : (s.partSt p).valid = false) : s.satPart p = s := by
  unfold State.satPart
  simp [invalid]

theorem State.satPart_frame (s : State) (p : Nat) : s.satPart p = { s with parts := (s.satPart p).parts, regs := (s.satPart p).regs }
    ∧ (∀ k, k ≠ p → (s.satPart p).partSt k = s.partSt k) ∧ s.regsSame (s.satPart p) [TOK_SCAN p] := by
  cases valid : (s.partSt p).valid with
  | false =>
    rw [State.satPart_idle valid]
    exact ⟨rfl, fun _ _ => rfl, fun _ _ => rfl⟩
  | true =>
    rw [State.satPart_valid valid]
    exact ⟨rfl, fun k away => State.partSt_modPart_ne (s.setFld ..) p _ away, fun a away => State.reg_setFld_ne s _ _ (fun h => away (by simp [h]))⟩

theorem bit_maskBits (f : Nat → Bool) {k : Nat} (hk : k < 7) : bit (maskBits ((List.range 7).map f)) k = f k := by
  have all : ∀ (a b c d e g h : Bool) (k : Fin 7), bit (maskBits [a, b, c, d, e, g, h]) k = [a, b, c, d, e, g, h].getD k false := by decide +kernel
  have := all (f 0) (f 1) (f 2) (f 3) (f 4) (f 5) (f 6) ⟨k, hk⟩
  interval_cases k <;> exact this

/-- What a valid partition's window leaves. -/
theorem State.satPart_own {s : State} {p : Nat} (valid : (s.partSt p).valid = true) :
    ((s.satPart p).partSt p).busy = [] ∧ (∀ k, k < 7 → bit ((s.satPart p).partSt p).saturated k = decide (950 < (s.partSt p).busy.getD k 0))
    ∧ (s.satPart p).fld (TOK_SCAN p) TOK_SCAN_SCAN_LOAD = min 1000 ((s.partSt p).busy.getD 1 0) := by
  rw [State.satPart_valid valid, State.partSt_modPart_same]
  refine ⟨rfl, fun k hk => bit_maskBits _ hk, ?_⟩
  exact State.fld_setFld_fits s _ (by decide) (by decide) (lt_of_le_of_lt (Nat.min_le_left ..) (by decide))

/-- Every partition's window, place by place. -/
theorem State.satParts_own (s : State) {p : Nat} (hp : p < 8) :
    ∃ v : State, v.partSt p = s.partSt p ∧ ((List.range 8).foldl State.satPart s).partSt p = (v.satPart p).partSt p
      ∧ ((List.range 8).foldl State.satPart s).reg (TOK_SCAN p) = (v.satPart p).reg (TOK_SCAN p) := by
  have apart {p q : Nat} (h : p ≠ q) : TOK_SCAN p ∉ [TOK_SCAN q] := by
    simp only [List.mem_singleton, TOK_SCAN]
    omega
  have away (v : State) (q p : Nat) (h : p ≠ q) : ((v.satPart q).partSt p, (v.satPart q).reg (TOK_SCAN p)) = (v.partSt p, v.reg (TOK_SCAN p)) := by
    rw [(v.satPart_frame q).2.1 p h, (v.satPart_frame q).2.2 _ (apart h)]
  obtain ⟨v, -, same, eq⟩ := foldl_own (f := State.satPart) (get := fun v p => (v.partSt p, v.reg (TOK_SCAN p))) (inv := fun _ => True) (fun _ _ h => h) away (s := s) trivial
    List.nodup_range (List.mem_range.2 hp)
  obtain ⟨partSame, -⟩ := Prod.mk.inj same
  obtain ⟨partEq, regEq⟩ := Prod.mk.inj eq
  exact ⟨v, partSame, partEq, regEq⟩

theorem State.satParts_frame (l : List Nat) : ∀ s : State, l.foldl State.satPart s = { s with parts := (l.foldl State.satPart s).parts, regs := (l.foldl State.satPart s).regs }
    ∧ ∀ a, (∀ q ∈ l, a ≠ TOK_SCAN q) → (l.foldl State.satPart s).reg a = s.reg a := by
  induction l with
  | nil => exact fun _ => ⟨rfl, fun _ _ => rfl⟩
  | cons q l ih =>
    intro s
    obtain ⟨frame, same⟩ := ih (s.satPart q)
    rw [List.foldl_cons]
    refine ⟨?_, fun a away => ?_⟩
    · rw [frame, (s.satPart_frame q).1]
    · rw [same a (fun x hx => away x (List.mem_cons_of_mem _ hx)), (s.satPart_frame q).2.2 a (by simpa using away q (by simp))]

/-- The resources saturated in any partition (R411). -/
def State.saturatedNow (s : State) : Nat := ((List.range 8).map (fun p => (s.partSt p).saturated)).foldl (· ||| ·) 0

/-- The saturated resources are shown and seen. -/
def State.satShown (s : State) : State :=
  let u := (s.setFld SCH_SATURATION SCH_SATURATION_RESOURCE s.saturatedNow).setFld SCH_SATURATION SCH_SATURATION_PART_MASK
    (maskBits (((List.range 8).map (fun p => (s.partSt p).saturated)).map (fun m => m != 0)))
  u.setFld SCH_SAT_SEEN SCH_SAT_SEEN_SEEN (u.fld SCH_SAT_SEEN SCH_SAT_SEEN_SEEN ||| s.saturatedNow)

theorem State.satShown_shows (s : State) : s.RegsOnly s.satShown ∧ s.regsSame s.satShown [SCH_SATURATION, SCH_SAT_SEEN]
    ∧ s.satShown.fld SCH_SATURATION SCH_SATURATION_RESOURCE = s.saturatedNow % 2 ^ 7
    ∧ s.satShown.fld SCH_SAT_SEEN SCH_SAT_SEEN_SEEN = (s.fld SCH_SAT_SEEN SCH_SAT_SEEN_SEEN ||| s.saturatedNow % 2 ^ 7) := by
  unfold State.satShown
  dsimp only
  generalize maskBits (((List.range 8).map (fun p => (s.partSt p).saturated)).map (fun m => m != 0)) = mask
  generalize s.saturatedNow = res
  refine ⟨((State.RegsOnly.refl s).setFld ..).setFld .. |>.setFld .., fun a away => ?_, ?_, ?_⟩
  · simp only [List.mem_cons, List.not_mem_nil, or_false, not_or] at away
    rw [State.reg_setFld_ne _ _ _ away.2, State.reg_setFld_ne _ _ _ away.1, State.reg_setFld_ne _ _ _ away.1]
  · rw [State.fld_setFld_ne _ _ _ _ (by decide), State.fld_setFld_other _ _ _ _ _ (by decide) (by decide) (by decide)]
    exact State.fld_setFld_same s SCH_SATURATION SCH_SATURATION_RESOURCE res (by decide) (by decide)
  · rw [State.fld_setFld_ne _ _ _ _ (show SCH_SAT_SEEN ≠ SCH_SATURATION by decide), State.fld_setFld_ne _ _ _ _ (show SCH_SAT_SEEN ≠ SCH_SATURATION by decide)]
    have small : s.fld SCH_SAT_SEEN SCH_SAT_SEEN_SEEN < 2 ^ 7 := fget_lt _ SCH_SAT_SEEN_SEEN
    refine (State.fld_setFld_same _ SCH_SAT_SEEN SCH_SAT_SEEN_SEEN _ (by decide) (by decide)).trans ?_
    refine (Nat.or_mod_two_pow ..).trans ?_
    show s.fld SCH_SAT_SEEN SCH_SAT_SEEN_SEEN % 2 ^ 7 ||| res % 2 ^ 7 = _
    rw [Nat.mod_eq_of_lt small]

/-- The window's end; a resource that was not saturated before interrupts (R411). -/
def State.satEnded (s : State) : State :=
  let u := (List.range 8).foldl State.satPart s
  if u.saturatedNow &&& (0x7F ^^^ u.fld SCH_SATURATION SCH_SATURATION_RESOURCE) != 0 then u.satShown.raise SCH_IRQ_STAT 1 else u.satShown

theorem exec_saturationWindow {s : State} (released : s.sys.released = true) : exec .saturationWindow s = .next (s.keeps s.satEnded) := by
  rw [exec, execSaturationWindow, State.onMain_keeps _ released]
  rfl

theorem State.satEnded_cases (s : State) : s.satEnded = ((List.range 8).foldl State.satPart s).satShown.raise SCH_IRQ_STAT 1
    ∨ s.satEnded = ((List.range 8).foldl State.satPart s).satShown := ite_eq_or_eq _ _ _

/-- Settles O48: each step of the two folds touches its own partition and its own registers. -/
theorem bucketsAndSaturation : Obligations.BucketsAndSaturation := by
  unfold Obligations.BucketsAndSaturation
  intro s released
  refine ⟨⟨(List.range 8).foldl State.tickPart s, ?_, (s.ticks_own (by decide : 0 < 8)).1, fun p hp => ?_⟩, ?_⟩
  · rw [exec, execBucketTick, State.onMain_keeps _ released]
  · obtain ⟨-, v, ret, part, eq⟩ := s.ticks_own hp
    have heavyEq : v.retHeavy = s.retHeavy := by rw [State.retHeavy, State.retHeavy, ret]
    rw [eq]
    refine ⟨fun invalid => ?_, fun valid heavy => ?_, fun valid dram fab hdma => ?_⟩
    · rw [State.tickPart_idle (by rw [part, invalid]), part]
    · rw [State.tickPart_own (by rw [part, valid]), State.ticked_heavy (heavyEq.trans heavy), part]
    · rw [State.tickPart_own (by rw [part, valid]), State.ticked_calm (by rw [part, dram]) (by rw [part, fab]) (by rw [part, hdma]), part]
      exact ⟨rfl, rfl, rfl⟩
  · obtain ⟨t, ht⟩ : ∃ t, t = s.satEnded := ⟨_, rfl⟩
    have run : exec .saturationWindow s = .next (s.keeps t) := ht ▸ exec_saturationWindow released
    have end_ := (ht ▸ s.satEnded_cases).symm
    obtain ⟨frame, others⟩ := State.satParts_frame (List.range 8) s
    obtain ⟨w, hw⟩ : ∃ w, w = (List.range 8).foldl State.satPart s := ⟨_, rfl⟩
    rw [← hw] at end_ frame others
    obtain ⟨only, same, shown, seen⟩ := w.satShown_shows
    have parts : w.satShown.parts = w.parts := only.same State.parts (fun _ _ => rfl)
    have shape : t = { s with parts := t.parts, regs := t.regs, msix := t.msix, msixPend := t.msixPend } := by
      rcases end_ with h | h
      · rw [h, only, frame]
      · rw [h, State.raise_eq, only, frame]
    have tparts : t.parts = w.parts := by
      rcases end_ with h | h
      · rw [h, parts]
      · rw [h, State.raise_eq]
        exact parts
    have tregs : ∀ a, a ≠ SCH_IRQ_STAT → t.reg a = w.satShown.reg a := fun a ne => by
      rcases end_ with h | h
      · rw [h]
      · rw [h, State.reg_raise_ne _ _ ne]
    have kept : s.keeps t = t := by
      rw [shape]
      rfl
    have tokens (p : Nat) (hp : p < 8) : t.reg (TOK_SCAN p) = w.reg (TOK_SCAN p) := by
      rw [tregs _ (by simp only [TOK_SCAN, SCH_IRQ_STAT]; omega), same _ (by simp only [TOK_SCAN, SCH_SATURATION, SCH_SAT_SEEN, List.mem_cons, List.not_mem_nil, or_false]; omega)]
    have partEq (p : Nat) : t.partSt p = w.partSt p := by rw [State.partSt, tparts]; rfl
    have sat : t.fld SCH_SATURATION SCH_SATURATION_RESOURCE = w.saturatedNow % 2 ^ 7 := by rw [State.fld_congr (tregs _ (by decide)), shown]
    refine ⟨t, by rw [run, kept], fun p hp valid => ?_, ?_, ?_, shape⟩
    · obtain ⟨v, part, eq, reg⟩ := s.satParts_own hp
      obtain ⟨busy, bits, load⟩ := State.satPart_own (s := v) (p := p) (by rw [part, valid])
      rw [← hw] at eq reg
      rw [partEq, eq, State.fld_congr (tokens p hp), State.fld_congr reg, load, part]
      exact ⟨busy, rfl, fun k hk => by rw [bits k hk, part]⟩
    · rw [sat, State.saturatedNow]
      simp only [partEq]
    · rw [State.fld_congr (tregs SCH_SAT_SEEN (by decide)), seen, sat]
      rw [State.fld_congr (others SCH_SAT_SEEN (fun q hq => by
        have := List.mem_range.1 hq
        simp only [TOK_SCAN, SCH_SAT_SEEN]
        omega))]

end Sys2Proof.Machine
end


section
/-! SUPPORT. O49: reads that meet no uncorrectable word, model loads, and frame requests. -/

namespace Sys2Proof.Machine

/-! ### Reads that only count: which registers -/

/-- The registers of the main domain below the RAS unit's. -/
theorem State.reg_countTile (l : List Nat) {a : Nat} (below : a < 0xB00000) : ∀ s : State, (l.foldl (fun s _ => (s.incReg RAS_TILE_CORR).countCorr 8) s).reg a = s.reg a := by
  induction l with
  | nil => exact fun _ => rfl
  | cons w l ih =>
    intro s
    rw [List.foldl_cons, ih]
    exact State.reg_setNum_ne s _ (by simp only [RAS_TILE_CORR]; omega)

theorem State.didTread_good {s v : State} {t a n : Nat} (read : s.didTread t a n = (v, true)) : s.Counted v ∧ ∀ b, b < 0xB00000 → v.reg b = s.reg b := by
  have counted := State.didTread_counted (s := s) (t := t) (a := a) (n := n) (by rw [read])
  rw [read] at counted
  refine ⟨counted, fun b below => ?_⟩
  unfold State.didTread at read
  split at read
  · rw [← (Prod.mk.inj read).1]
  · dsimp only at read
    split at read
    · rw [← (Prod.mk.inj read).1]
      exact State.reg_countTile _ below s
    · exact absurd (Prod.mk.inj read).2 Bool.noConfusion

/-- The words of DRAM that a read corrects. -/
theorem State.readFixed_shows (s : State) (a n : Nat) : s.Counted (s.readFixed a n) ∧ ∀ b, b < 0xB00000 → (s.readFixed a n).reg b = s.reg b := by
  unfold State.readFixed
  split
  · exact ⟨State.Counted.refl s, fun _ _ => rfl⟩
  · rename_i words
    clear words
    generalize badWords s.dramNow.1 s.dramNow.2 a n RsRead.fixed = l
    refine ⟨State.Counted.foldl (fun x _ => ((State.Counted.refl x).incReg _ _).countCorr _) l s, fun b below => ?_⟩
    induction l generalizing s with
    | nil => rfl
    | cons w l ih =>
      rw [List.foldl_cons, ih]
      exact State.reg_setNum_ne s _ (by simp only [RAS_DRAM_CORR]; omega)

theorem State.didRead_good {s v : State} {a n : Nat} (read : s.didRead a n = (v, true)) : s.Counted v ∧ ∀ b, b < 0xB00000 → v.reg b = s.reg b := by
  unfold State.didRead at read
  split at read
  · rw [← (Prod.mk.inj read).1]
    exact ⟨State.Counted.refl s, fun _ _ => rfl⟩
  · obtain ⟨state, good⟩ := Prod.mk.inj read
    rw [List.isEmpty_iff] at good
    rw [good] at state
    rw [← state]
    exact State.readFixed_shows s a n

/-- A frame that the page manager reads without an uncorrectable word (R526). -/
theorem State.readFrame_good {s v : State} {k : Nat} (read : s.readFrame k = (v, true)) : s.Counted v ∧ ∀ b, b < 0xB00000 → v.reg b = s.reg b := by
  unfold State.readFrame at read
  split at read
  · exact State.didRead_good read
  · split at read
    · rw [← (Prod.mk.inj read).1]
      exact ⟨State.Counted.refl s, fun _ _ => rfl⟩
    · rename_i p pool
      cases first : s.didTread (k / 64) (p.poolBase + 4096 * (k % 64)) 4096 with
      | mk u ok =>
        rw [first] at read
        cases ok with
        | false => exact absurd (Prod.mk.inj read).2 Bool.noConfusion
        | true =>
          obtain ⟨payload, regs⟩ := State.didTread_good first
          obtain ⟨side, regs'⟩ := State.didTread_good read
          exact ⟨payload.trans side, fun b below => (regs' b below).trans (regs b below)⟩

/-! ### Model loads (R331, R401) -/

theorem State.dwrite_ras (s : State) (a : Nat) (l : List Byte) : (s.dwrite a l).ras = { s.ras with chk := (s.dwrite a l).ras.chk } := by
  have puts (q : List (Nat × List Byte)) : ∀ u : State, (q.foldl (fun s w => s.dput w.1 w.2) u).ras = { u.ras with chk := (q.foldl (fun s w => s.dput w.1 w.2) u).ras.chk } := by
    induction q with
    | nil => exact fun _ => rfl
    | cons w q ih =>
      intro u
      rw [List.foldl_cons, ih]
      rfl
  have queue := puts s.retQueue { s with retQueue := [] }
  unfold State.dwrite State.retFlush
  generalize s.retQueue.foldl (fun s w => s.dput w.1 w.2) { s with retQueue := [] } = v at queue
  show ({ v.ras with chk := _ } : Ras) = _
  rw [queue]
  rfl

/-- The entry of a model in the cache after it was changed. -/
theorem State.modelRes_modRes {s : State} {pb m : Nat} {r : ModelRes} (f : ModelRes → ModelRes) (cached : s.modelRes pb m = some r)
    (same : ∀ r, (f r).playbook = r.playbook ∧ (f r).model = r.model) : (s.modRes pb m f).modelRes pb m = some (f r) := by
  unfold State.modelRes State.modRes at *
  dsimp only
  rw [List.find?_map, show ((fun x => x.playbook == pb && x.model == m) ∘ fun x => if x.playbook = pb && x.model = m then f x else x) = fun x : ModelRes => x.playbook == pb && x.model == m from ?_, cached]
  · obtain ⟨here, -⟩ := List.find?_eq_some_iff_append.1 cached
    simp only [Bool.and_eq_true, beq_iff_eq] at here
    simp [here]
  · funext x
    simp only [Function.comp]
    split
    · rw [(same x).1, (same x).2]
    · rfl

/-- The entry that a model's load completes. -/
def ModelRes.loaded (r : ModelRes) (tb : Nat) : ModelRes := { r with loading := false, lastUse := tb }

/-- The weights and the table set of a model at their places. -/
def State.modelWritten (u s : State) (r : ModelRes) : State :=
  (u.dwrite (Config.modelPlace r.playbook r.model) (Config.modelImage (s.dread (Config.playbookPlace r.playbook) (((tfind s.playbooks r.playbook).map (·.bytes)).getD 0)) r.model)).dwrite
    r.region (s.tsetImage r.playbook r.model)

theorem State.writeModel_good {s u : State} {r : ModelRes} (read : s.didRead (Config.playbookPlace r.playbook) (((tfind s.playbooks r.playbook).map (·.bytes)).getD 0) = (u, true)) :
    s.writeModel r = ((u.modelWritten s r).modRes r.playbook r.model (fun r => r.loaded s.tb)).freshTsets.advertise := by
  unfold State.writeModel
  dsimp only
  rw [read]
  rfl

theorem State.writeModel_bad {s u : State} {r : ModelRes} (read : s.didRead (Config.playbookPlace r.playbook) (((tfind s.playbooks r.playbook).map (·.bytes)).getD 0) = (u, false)) :
    s.writeModel r = u.dropModel r.playbook r.model := by
  unfold State.writeModel
  dsimp only
  rw [read]

theorem State.modelWritten_shows (u s : State) (r : ModelRes) :
    u.modelWritten s r = { u with dram := (u.modelWritten s r).dram, retQueue := [], ras := { u.ras with chk := (u.modelWritten s r).ras.chk } } := by
  unfold State.modelWritten
  generalize Config.modelImage (s.dread (Config.playbookPlace r.playbook) (((tfind s.playbooks r.playbook).map (·.bytes)).getD 0)) r.model = weights
  generalize s.tsetImage r.playbook r.model = tables
  obtain ⟨v, hv⟩ : ∃ v, v = u.dwrite (Config.modelPlace r.playbook r.model) weights := ⟨_, rfl⟩
  have first : v = { u with dram := v.dram, ras := v.ras, retQueue := [] } := by rw [hv]; exact State.dwrite_eq ..
  have ras : v.ras = { u.ras with chk := v.ras.chk } := by rw [hv]; exact State.dwrite_ras ..
  rw [← hv]
  have second := v.dwrite_eq r.region tables
  have ras' := v.dwrite_ras r.region tables
  generalize v.dwrite r.region tables = w at second ras'
  rw [second, ras', ras, first]

section
variable {s : State} {pb : Word} {m : Nat} {r : ModelRes}

theorem exec_modelLoadDone (released : s.sys.released = true) (cached : s.modelRes pb.toNat m = some r) (loading : r.loading = true) {u : State} {ok : Bool}
    (asked : s.regulate r.part .dram r.cls (((s.model pb.toNat m).map (·.bytes)).getD 0) (whoOf 4 (pb.toNat * 65536 + m)) = (u, ok)) :
    exec (.modelLoadDone pb m) s = .next (s.keeps (if ok then u.writeModel r else u)) := by
  rw [exec, execModelLoadDone, State.onMain_keeps _ released]
  dsimp only
  rw [cached]
  dsimp only
  rw [if_neg (by rw [loading]; decide), asked]
  cases ok <;> rfl

end

theorem State.modelRes_names {s : State} {pb m : Nat} {r : ModelRes} (cached : s.modelRes pb m = some r) : r.playbook = pb ∧ r.model = m := by
  have := List.find?_some cached
  simpa using this

/-- A model's load (R331, R401). -/
theorem modelLoadDone_clauses {s : State} (released : s.sys.released = true) (pb : Word) (m : Nat) (r : ModelRes) (cached : s.modelRes pb.toNat m = some r) (loading : r.loading = true) :
    let reg := s.regulate r.part .dram r.cls (((s.model pb.toNat m).map (·.bytes)).getD 0) (whoOf 4 (pb.toNat * 65536 + m))
    (reg.2 = false → exec (.modelLoadDone pb m) s = .next (s.keeps reg.1))
    ∧ (reg.2 = true → ∀ u good, reg.1.didRead (Config.playbookPlace pb.toNat) (((tfind s.playbooks pb.toNat).map (·.bytes)).getD 0) = (u, good) →
      (good = false → exec (.modelLoadDone pb m) s = .next (s.keeps (u.dropModel pb.toNat m)))
      ∧ (good = true → ∃ v : State, exec (.modelLoadDone pb m) s = .next (s.keeps v.freshTsets.advertise)
        ∧ v.modelRes pb.toNat m = some { r with loading := false, lastUse := s.tb } ∧ v = { u with models := v.models, dram := v.dram, retQueue := v.retQueue, ras := { u.ras with chk := v.ras.chk } }
        ∧ v.dram = ((u.dwrite (Config.modelPlace pb.toNat m) (Config.modelImage (s.dread (Config.playbookPlace pb.toNat) (((tfind s.playbooks pb.toNat).map (·.bytes)).getD 0)) m)).dwrite
            r.region (s.tsetImage pb.toNat m)).dram)) := by
  intro reg
  have run := fun u ok => exec_modelLoadDone (u := u) (ok := ok) released cached loading
  obtain ⟨playbook, model⟩ := State.modelRes_names cached
  have shape : reg.1 = { s with parts := reg.1.parts } := State.regulate_only ..
  have asked : reg = (reg.1, reg.2) := rfl
  change ∀ u ok, reg = (u, ok) → _ at run
  replace run := run _ _ asked
  generalize reg.1 = w at *
  generalize exec (.modelLoadDone pb m) s = out at *
  generalize pb.toNat = n at *
  subst playbook model
  refine ⟨fun held => by rw [run, held]; rfl, fun passed u good read => ?_⟩
  rw [passed, if_pos rfl] at run
  have tb : w.tb = s.tb := by rw [shape]
  have bytes : w.playbooks = s.playbooks := by rw [shape]
  have written : ∀ u : State, u.modelWritten w r = u.modelWritten s r := fun u => by rw [shape]; rfl
  refine ⟨fun bad => ?_, fun ok => ?_⟩
  · rw [bad] at read
    rw [run, State.writeModel_bad (by rw [bytes]; exact read)]
  · rw [ok] at read
    obtain ⟨counted, -⟩ := State.didRead_good read
    have models : u.models = s.models := by rw [counted, shape]
    have filled := State.modelWritten_shows u s r
    refine ⟨(u.modelWritten s r).modRes r.playbook r.model (fun r => r.loaded s.tb), ?_, ?_, ?_, rfl⟩
    · rw [run, State.writeModel_good (by rw [bytes]; exact read), tb, written]
    · refine State.modelRes_modRes (fun r => r.loaded s.tb) ?_ (fun _ => ⟨rfl, rfl⟩)
      rw [State.modelRes, filled]
      exact (congrArg (fun l : List ModelRes => l.find? _) models).trans cached
    · generalize u.modelWritten s r = v at filled
      rw [filled]
      rfl

/-! ### Frame requests (R318-R321) -/

section
variable {s : State}

theorem exec_frameRequest (released : s.sys.released = true) {req n : Nat} {y : FrameReq} (first : s.firstReq = some (n, y)) :
    (n ≠ req ∨ s.reqBusy = true → exec (.frameRequest req) s = .next s)
    ∧ (n = req → s.reqBusy = false → ∀ u ok, s.tryReq req y = (u, ok) → exec (.frameRequest req) s = .next (s.keeps (if ok then u else s.unserved req y))) := by
  have run : exec (.frameRequest req) s = .next (s.keeps (if n ≠ req || s.reqBusy then s else if (s.tryReq n y).2 then (s.tryReq n y).1 else s.unserved n y)) := by
    rw [exec, execFrameRequest, State.onMain_keeps _ released, first]
    cases tried : s.tryReq n y with
    | mk u ok =>
      dsimp only
      rw [tried]
      cases ok <;> rfl
  rw [run]
  refine ⟨fun held => ?_, fun turn idle u ok tried => ?_⟩
  · rw [if_pos (by simpa using held)]
    rfl
  · subst turn
    rw [if_neg (by simp [idle]), tried]

/-- A request that finds a free frame (R319). -/
theorem State.tryReq_free {n f : Nat} {r : FrameReq} (free : s.freeLocal r.tile = some f) : s.tryReq n r = (s.serveReq n r f, true) := by
  unfold State.tryReq
  rw [free]

/-- What a frame request that is served changes first: it goes, and the longest wait is noted. -/
def State.reqTaken (s : State) (n : Nat) (r : FrameReq) : State :=
  let s := { s with reqs := tdel s.reqs n }
  if r.cls = .lc then s.setNum PGM_WAIT_MAX (max (s.num PGM_WAIT_MAX) (min 0xFFFFFFFF (s.tb - r.since))) else s

theorem State.reqTaken_shows (s : State) (n : Nat) (r : FrameReq) : (s.reqTaken n r).reqs = tdel s.reqs n ∧ (s.reqTaken n r).seqs = s.seqs ∧ (s.reqTaken n r).refs = s.refs := by
  unfold State.reqTaken
  dsimp only
  split <;> exact ⟨rfl, rfl, rfl⟩

theorem State.clearSide_shows (s : State) (k : Nat) : (s.clearSide k).reqs = s.reqs ∧ (s.clearSide k).seqs = s.seqs ∧ (s.clearSide k).refs = s.refs := by
  have noted (v : State) : (v.noteFrame k).reqs = v.reqs ∧ (v.noteFrame k).seqs = v.seqs ∧ (v.noteFrame k).refs = v.refs := ⟨rfl, rfl, rfl⟩
  unfold State.clearSide
  split
  · rename_i p _
    obtain ⟨reqs, seqs, refs⟩ := noted (s.twrite (k / 64) (p.sideBase + 128 * (k % 64)) (zeros 128))
    rw [reqs, seqs, refs, State.twrite_reqs, State.twrite_seqs, State.twrite_refs]
    exact ⟨rfl, rfl, rfl⟩
  · exact ⟨rfl, rfl, rfl⟩

theorem getD_set_self {β : Type} {l : List β} {i : Nat} (h : i < l.length) (x d : β) : (l.set i x).getD i d = x := by simp [h]

/-- A sequence with an entry set. -/
def Seq.putPte (q : Seq) (set page : Nat) (e : Pte) : Seq := { q with tables := setPte q.tables set page e }

/-- An entry set within its table, or right after its last one, reads back. -/
theorem pte_setPte {q : Seq} {set page : Nat} (here : set < q.tables.length) (next : page ≤ (q.tables.getD set []).length) (e : Pte) :
    (q.putPte set page e).pte set page = e := by
  unfold Seq.pte Seq.putPte setPte
  dsimp only
  rw [getD_set_self here]
  by_cases inside : page < (q.tables.getD set []).length
  · rw [if_pos inside, getD_set_self inside]
  · have last : page = (q.tables.getD set []).length := by omega
    rw [if_neg inside, last]
    simp

theorem State.tfind_modSeq (s : State) {i : Nat} {q : Seq} (f : Seq → Seq) (there : tfind s.seqs i = some q) : tfind (s.modSeq i f).seqs i = some (f q) := by
  rw [State.modSeq, tfind_tupd_same, there]
  rfl

theorem tget_ref (s : State) (k : Nat) : tget 0 (s.ref k).refs k = tget 0 s.refs k + 1 := tget_tset_same 0 s.refs k (tget 0 s.refs k + 1)

/-- A free frame serves a request for a page that has none (R299, R319). -/
theorem State.serveReq_page {n f : Nat} {r : FrameReq} {q : Seq} (there : tfind s.seqs r.seq = some q) (running : q.ending = .running) (fresh : r.copyOf = none)
    (notDram : (q.pte r.set r.page).tier ≠ .dram) (notChip : (q.pte r.set r.page).tier ≠ .chip) (here : r.set < q.tables.length) (next : r.page ≤ (q.tables.getD r.set []).length) :
    ∃ w, tfind (s.serveReq n r f).seqs r.seq = some w ∧ w.pte r.set r.page = { tier := .chip, fill := r.fill, frame := chipKey r.tile f }
      ∧ tget 0 (s.serveReq n r f).refs (chipKey r.tile f) = tget 0 s.refs (chipKey r.tile f) + 1 ∧ (s.serveReq n r f).reqs = tdel s.reqs n := by
  obtain ⟨reqs, seqs, refs⟩ := s.reqTaken_shows n r
  have eq : s.serveReq n r f = (((s.reqTaken n r).modSeq r.seq (fun q => q.putPte r.set r.page { tier := .chip, fill := r.fill, frame := chipKey r.tile f })).ref
      (chipKey r.tile f)).clearSide (chipKey r.tile f) := by
    unfold State.serveReq
    extract_lets k v u
    have taken : u = s.reqTaken n r := rfl
    rw [taken, seqs, there]
    dsimp only
    rw [if_neg (by simp [running]), fresh]
    dsimp only
    split
    · rename_i h
      exact absurd h notChip
    · rename_i h
      exact absurd h notDram
    · rfl
  obtain ⟨v, hv⟩ : ∃ v, v = (s.reqTaken n r).modSeq r.seq (fun q => q.putPte r.set r.page { tier := .chip, fill := r.fill, frame := chipKey r.tile f }) := ⟨_, rfl⟩
  have put : tfind v.seqs r.seq = some (q.putPte r.set r.page { tier := .chip, fill := r.fill, frame := chipKey r.tile f }) := by
    rw [hv, State.tfind_modSeq _ _ (seqs ▸ there)]
  have refsV : v.refs = s.refs := by
    rw [hv]
    exact refs
  have reqsV : v.reqs = tdel s.reqs n := by
    rw [hv]
    exact reqs
  obtain ⟨reqs', seqs', refs'⟩ := (v.ref (chipKey r.tile f)).clearSide_shows (chipKey r.tile f)
  rw [eq, ← hv, reqs', seqs', refs', tget_ref, refsV]
  exact ⟨_, put, pte_setPte here next _, rfl, reqsV⟩

theorem State.serveReq_gone {n f : Nat} {r : FrameReq} (gone : tfind s.seqs r.seq = none) :
    (s.serveReq n r f).seqs = s.seqs ∧ (s.serveReq n r f).refs = s.refs ∧ (s.serveReq n r f).reqs = tdel s.reqs n := by
  obtain ⟨reqs, seqs, refs⟩ := s.reqTaken_shows n r
  have eq : s.serveReq n r f = s.reqTaken n r := by
    unfold State.serveReq
    extract_lets k v u
    have taken : u = s.reqTaken n r := rfl
    rw [taken, seqs, gone]
  rw [eq]
  exact ⟨seqs, refs, reqs⟩

theorem exec_frameFreed_none (released : s.sys.released = true) (none : s.reqs = []) (t : Fin 256) : exec (.frameFreed t) s = .next s := by
  rw [exec, execFrameFreed, State.onMain_keeps _ released, State.frameFreed]
  dsimp only
  rw [none]
  exact congrArg Host.Outcome.next (by
    show ({ s with reqs := [] } : State) = s
    rw [← none])

theorem exec_frameFreed_one (released : s.sys.released = true) {t : Fin 256} {n : Nat} {r : FrameReq} (one : s.reqs = [(n, r)]) (here : r.tile = t) (idle : s.reqBusy = false)
    {u : State} {ok : Bool} (tried : ({ s with reqs := [(n, { r with waiting := false })] } : State).tryReq n { r with waiting := false } = (u, ok)) :
    exec (.frameFreed t) s = .next (s.keeps (if ok then u else ({ s with reqs := [(n, { r with waiting := false })] } : State).unserved n { r with waiting := false })) := by
  have freed : s.frameFreed t = ({ s with reqs := [(n, { r with waiting := false })] } : State).serveReqs 1 := by
    unfold State.frameFreed
    dsimp only
    rw [one]
    simp only [tmap, List.map_cons, List.map_nil, here, if_true, List.length_cons, List.length_nil, Nat.zero_add]
  rw [exec, execFrameFreed, State.onMain_keeps _ released, freed, State.serveReqs]
  rw [if_neg (by rw [show ({ s with reqs := [(n, { r with waiting := false })] } : State).reqBusy = s.reqBusy from rfl, idle]; decide)]
  rw [show ({ s with reqs := [(n, { r with waiting := false })] } : State).firstReq = some (n, { r with waiting := false }) from rfl]
  dsimp only
  rw [tried]
  cases ok <;> rfl

theorem exec_frameWaitExpiry (released : s.sys.released = true) {req : Nat} {r : FrameReq} (there : tfind s.reqs req = some r) :
    let due := r.cls = .lc ∧ r.preempted = false ∧ r.waiting = true ∧ r.since + s.fld PGM_WAIT_LIMIT PGM_WAIT_LIMIT_WAIT_US * 1000 ≤ s.tb
    let js := s.jobs.filter (fun j => j.2.part == r.part && (s.ctxSt j.2.ctx).cls == .be && j.2.holding && s.jobLocks j.2 r.tile)
    (¬due → exec (.frameWaitExpiry req) s = .next s)
    ∧ (due → s.xfers = [] →
      (js = [] → exec (.frameWaitExpiry req) s = .next (s.keeps (s.failReq req r)))
      ∧ (js ≠ [] → exec (.frameWaitExpiry req) s = .next (s.keeps (js.foldl (fun s j => s.askPreempt j.1 false)
          (js.foldl (fun s j => s.modJob j.1 (fun j => { j with preempt := true })) { s with reqs := tupd s.reqs req (fun r => { r with preempted := true }) }))))) := by
  intro due js
  rw [exec, execFrameWaitExpiry, State.onMain_keeps _ released]
  dsimp only
  rw [there]
  dsimp only
  refine ⟨fun early => ?_, fun now idle => ⟨fun none => ?_, fun some => ?_⟩⟩
  · rw [if_pos]
    · rfl
    · by_contra h
      simp only [Bool.or_eq_true, decide_eq_true_eq, Bool.not_eq_true', decide_eq_false_iff_not, not_or, not_not, Bool.not_eq_true, Bool.not_eq_false] at h
      exact early ⟨h.1.1.1.1, h.1.1.1.2, h.2, h.1.1.2⟩
  · obtain ⟨lc, fresh, waits, time⟩ := now
    rw [if_neg (by simp [lc, fresh, waits, time, idle])]
    exact congrArg (fun v => Host.Outcome.next (s.keeps v)) (if_pos none)
  · obtain ⟨lc, fresh, waits, time⟩ := now
    rw [if_neg (by simp [lc, fresh, waits, time, idle])]
    exact congrArg (fun v => Host.Outcome.next (s.keeps v)) (if_neg some)

end

end Sys2Proof.Machine
end


section
/-! SUPPORT. O49: the page manager's transfers. -/

namespace Sys2Proof.Machine

/-! ### Tables -/

/-- An entry after every entry was changed, by a change that leaves the empty entry as it is. -/
theorem pte_map {g : Pte → Pte} (keeps : g default = default) (q : Seq) (set page : Nat) :
    ({ q with tables := q.tables.map (fun t => t.map g) } : Seq).pte set page = g (q.pte set page) := by
  unfold Seq.pte
  have row : ((q.tables.map (fun t => t.map g)).getD set []) = ((q.tables.getD set []).map g) := by
    simp only [List.getD_eq_getElem?_getD, List.getElem?_map]
    cases q.tables[set]? <;> rfl
  dsimp only
  rw [row]
  simp only [List.getD_eq_getElem?_getD, List.getElem?_map]
  generalize (q.tables[set]?.getD [])[page]? = entry
  cases entry with
  | none => exact keeps.symm
  | some e => rfl

/-- An entry that names a frame lies in its table. -/
theorem pte_inside {q : Seq} {set page : Nat} (names : (q.pte set page).tier ≠ .none) : set < q.tables.length ∧ page < (q.tables.getD set []).length := by
  have inRow : page < (q.tables.getD set []).length := by
    by_contra h
    refine names ?_
    unfold Seq.pte
    rw [List.getD_eq_default (hn := Nat.not_lt.1 h)]
    rfl
  refine ⟨?_, inRow⟩
  by_contra h
  rw [List.getD_eq_default (hn := Nat.not_lt.1 h)] at inRow
  exact absurd inRow (by simp)

/-! ### What the operations on frames leave -/

theorem State.setFrame_shows (s : State) (k : Nat) (l : List Byte) :
    (s.setFrame k l).seqs = s.seqs ∧ (s.setFrame k l).refs = s.refs ∧ (s.setFrame k l).xfers = s.xfers ∧ (s.setFrame k l).regs = s.regs := by
  have noted (v : State) : (v.noteFrame k).seqs = v.seqs ∧ (v.noteFrame k).refs = v.refs ∧ (v.noteFrame k).xfers = v.xfers ∧ (v.noteFrame k).regs = v.regs := ⟨rfl, rfl, rfl, rfl⟩
  unfold State.setFrame
  split
  · simp
  · split
    · rename_i p _
      obtain ⟨seqs, refs, xfers, regs⟩ := noted ((s.twrite (k / 64) (p.poolBase + 4096 * (k % 64)) (l.take 4096)).twrite (k / 64) (p.sideBase + 128 * (k % 64)) (l.drop 4096))
      rw [seqs, refs, xfers, regs]
      simp
    · exact ⟨rfl, rfl, rfl, rfl⟩

/-- An entry of a frame that is renamed. -/
theorem State.renameFrame_pte {s : State} {k k' i set page : Nat} {q : Seq} (there : tfind s.seqs i = some q) :
    ∃ w, tfind (s.renameFrame k k').seqs i = some w ∧ w.pte set page = if frameKey (q.pte set page) = some k then (q.pte set page).at_ k' else q.pte set page := by
  refine ⟨{ q with tables := q.tables.map (fun t => t.map (fun e => if frameKey e = some k then e.at_ k' else e)) }, ?_, pte_map (by rfl) q set page⟩
  unfold State.renameFrame
  dsimp only
  rw [tfind_tmap, there]
  rfl

theorem frameKey_chip {e : Pte} (chip : e.tier = .chip) : frameKey e = some e.frame := by rw [frameKey, chip]

theorem frameKey_dram {e : Pte} (dram : e.tier = .dram) : frameKey e = some (2 ^ 24 + e.frame) := by rw [frameKey, dram]

/-- A counter that is counted. -/
theorem State.num_incReg_one (s : State) (a : Nat) : (s.incReg a).num a = min (s.num a + 1) 0xFFFFFFFF :=
  State.num_setNum_same s a (lt_of_le_of_lt (Nat.min_le_right ..) (by decide))

theorem tget_unref_ne (s : State) {k j : Nat} (h : j ≠ k) : tget 0 (s.unref k).refs j = tget 0 s.refs j := tget_tset_ne 0 s.refs _ h

/-! ### Transfers -/

section
variable {s : State} {n : Nat}

/-- What a transfer is granted leaves but the buckets. -/
theorem State.granted_shows {p bytes who : Nat} {cls : Cls} {u : State} {ok : Bool} (asked : s.regulate p .dram cls bytes who = (u, ok)) : u = { s with parts := u.parts } := by
  have shape := State.regulate_only s p .dram cls bytes who
  rw [asked] at shape
  exact shape

theorem exec_spillDone (released : s.sys.released = true) {seq set page c d : Nat} {req : Option Nat} (there : tfind s.xfers n = some (.spill seq set page c d req)) {u : State} {ok : Bool}
    (asked : s.regulate (s.item seq).part .dram (s.item seq).cls 4224 (whoOf 3 n) = (u, ok)) :
    (ok = false → exec (.spillDone n) s = .next (s.keeps u))
    ∧ (ok = true → ∀ v good, u.readFrame c = (v, good) →
      exec (.spillDone n) s = .next (s.keeps (if good then ((v.endXfer n).spillNow c d).takeFreed req (c / 64) else (v.endXfer n).takeFreed req (c / 64)))) := by
  rw [exec, execSpillDone, State.onMain_keeps _ released, there]
  dsimp only
  rw [asked]
  refine ⟨fun held => by rw [held], fun passed v good read => ?_⟩
  rw [passed]
  dsimp only
  rw [read]
  cases good <;> rfl

/-- A page whose spill is done names its DRAM frame (R314). -/
theorem spilled {seq set page c d : Nat} {q : Seq} {u v : State} (here : tfind s.seqs seq = some q) (chip : (q.pte set page).tier = .chip) (frame : (q.pte set page).frame = c)
    (used : tget 0 s.refs c ≠ 0) (shape : u = { s with parts := u.parts }) (read : u.readFrame c = (v, true)) :
    ∃ w, tfind ((v.endXfer n).spillNow c d).seqs seq = some w ∧ w.pte set page = { q.pte set page with tier := .dram, frame := d }
      ∧ tfind ((v.endXfer n).spillNow c d).xfers n = none ∧ ((v.endXfer n).spillNow c d).num PGM_SPILL_CNT = min (s.num PGM_SPILL_CNT + 1) 0xFFFFFFFF := by
  obtain ⟨counted, regs⟩ := State.readFrame_good read
  have seqs : v.seqs = s.seqs := by rw [counted, shape]
  have refs : v.refs = s.refs := by rw [counted, shape]
  have count : v.num PGM_SPILL_CNT = s.num PGM_SPILL_CNT := (State.num_congr (regs _ (by decide))).trans (State.num_congr (State.reg_of_regs (by rw [shape]) _))
  unfold State.spillNow
  rw [if_neg (by rw [show (v.endXfer n).refs = v.refs from rfl, refs]; exact used)]
  obtain ⟨seqs', -, xfers', regs'⟩ := (v.endXfer n).setFrame_shows (dramKey d) ((v.endXfer n).frameBytes c)
  generalize (v.endXfer n).setFrame (dramKey d) ((v.endXfer n).frameBytes c) = x at seqs' xfers' regs'
  obtain ⟨w, found, entry⟩ := State.renameFrame_pte (s := x) (k := c) (k' := dramKey d) (set := set) (page := page) (show tfind x.seqs seq = some q by rw [seqs']; exact seqs ▸ here)
  refine ⟨w, found, ?_, ?_, ?_⟩
  · rw [entry, if_pos (by rw [frameKey_chip chip, frame]), Pte.at_, if_pos (by unfold dramKey; omega)]
    simp [dramKey]
  · show tfind x.xfers n = none
    rw [xfers']
    exact tfind_tdel_same ..
  · rw [State.num_incReg_one]
    show min (x.num PGM_SPILL_CNT + 1) 0xFFFFFFFF = _
    rw [State.num_congr (State.reg_of_regs regs' _)]
    exact congrArg (fun m => min (m + 1) 0xFFFFFFFF) count

theorem exec_prefetchDone (released : s.sys.released = true) {seq set page d c : Nat} (there : tfind s.xfers n = some (.prefetch seq set page d c)) {u : State} {ok : Bool}
    (asked : s.regulate (s.item seq).part .dram (s.item seq).cls 4224 (whoOf 3 n) = (u, ok)) :
    (ok = false → exec (.prefetchDone n) s = .next (s.keeps u))
    ∧ (ok = true → ∀ v good, (u.endXfer n).readFrame d = (v, good) →
      exec (.prefetchDone n) s = .next (s.keeps (if tget 0 v.refs d = 0 then v.frameFreed (c / 64) else ((v.setFrame c (v.frameBytes d)).renameFrame d c).incReg PGM_PREFETCH_CNT))) := by
  rw [exec, execPrefetchDone, State.onMain_keeps _ released, there]
  dsimp only
  rw [asked]
  refine ⟨fun held => by rw [held], fun passed v good read => ?_⟩
  rw [passed]
  dsimp only
  rw [read]

/-- A page whose prefetch is done names its CHIP frame (R314, R316). -/
theorem prefetched {seq set page d c : Nat} {q : Seq} {u v : State} (here : tfind s.seqs seq = some q) (dram : (q.pte set page).tier = .dram) (frame : dramKey (q.pte set page).frame = d)
    (local_ : c < 2 ^ 24) (used : tget 0 s.refs d ≠ 0) (shape : u = { s with parts := u.parts }) (read : (u.endXfer n).readFrame d = (v, true)) :
    tget 0 v.refs d ≠ 0 ∧ ∃ w, tfind (((v.setFrame c (v.frameBytes d)).renameFrame d c).incReg PGM_PREFETCH_CNT).seqs seq = some w
      ∧ w.pte set page = { q.pte set page with tier := .chip, frame := c }
      ∧ tfind (((v.setFrame c (v.frameBytes d)).renameFrame d c).incReg PGM_PREFETCH_CNT).xfers n = none
      ∧ (((v.setFrame c (v.frameBytes d)).renameFrame d c).incReg PGM_PREFETCH_CNT).num PGM_PREFETCH_CNT = min (s.num PGM_PREFETCH_CNT + 1) 0xFFFFFFFF := by
  obtain ⟨counted, regs⟩ := State.readFrame_good read
  have seqs : v.seqs = s.seqs := by
    rw [counted, shape]
    rfl
  have refs : v.refs = s.refs := by
    rw [counted, shape]
    rfl
  have xfers : v.xfers = tdel s.xfers n := by
    rw [counted, shape]
    rfl
  have count : v.num PGM_PREFETCH_CNT = s.num PGM_PREFETCH_CNT := (State.num_congr (regs _ (by decide))).trans (State.num_congr (State.reg_of_regs (by rw [shape]; rfl) _))
  obtain ⟨seqs', -, xfers', regs'⟩ := v.setFrame_shows c (v.frameBytes d)
  generalize v.setFrame c (v.frameBytes d) = x at seqs' xfers' regs'
  obtain ⟨w, found, entry⟩ := State.renameFrame_pte (s := x) (k := d) (k' := c) (set := set) (page := page) (show tfind x.seqs seq = some q by rw [seqs']; exact seqs ▸ here)
  refine ⟨by rw [refs]; exact used, w, found, ?_, ?_, ?_⟩
  · rw [entry, if_pos (by rw [frameKey_dram dram, ← frame, dramKey]), Pte.at_, if_neg (by omega)]
  · show tfind x.xfers n = none
    rw [xfers', xfers]
    exact tfind_tdel_same ..
  · rw [State.num_incReg_one]
    show min (x.num PGM_PREFETCH_CNT + 1) 0xFFFFFFFF = _
    rw [State.num_congr (State.reg_of_regs regs' _)]
    exact congrArg (fun m => min (m + 1) 0xFFFFFFFF) count

/-- What the end of a copy of a shared frame leaves (R311, R312). -/
def State.copied (v : State) (n seq set page src dst : Nat) (e : Pte) : State :=
  let x := (v.endXfer n).setFrame dst ((v.endXfer n).frameBytes src)
  (((x.ref dst).unref src).incReg PGM_COW_CNT).modSeq seq (fun q => q.putPte set page { e with tier := .chip, frame := dst })

theorem exec_cowDone (released : s.sys.released = true) {seq set page src dst : Nat} (there : tfind s.xfers n = some (.cow seq set page src dst)) {q : Seq}
    (here : tfind s.seqs seq = some q) (running : q.ending = .running) (chip : (q.pte set page).tier = .chip) (frame : (q.pte set page).frame = src) {u : State} {ok : Bool}
    (asked : s.regulate (s.item seq).part .dram (s.item seq).cls 4224 (whoOf 3 n) = (u, ok)) :
    (ok = false → exec (.cowDone n) s = .next (s.keeps u))
    ∧ (ok = true → ∀ v good, u.readFrame src = (v, good) →
      (good = false → src < 2 ^ 24 → exec (.cowDone n) s = .next (s.keeps v))
      ∧ (good = true → exec (.cowDone n) s = .next (s.keeps (v.copied n seq set page src dst (q.pte set page))))) := by
  have shape := State.granted_shows asked
  rw [exec, execCowDone, State.onMain_keeps _ released, there]
  dsimp only
  rw [asked]
  refine ⟨fun held => by rw [held], fun passed v good read => ⟨fun bad here' => ?_, fun fine => ?_⟩⟩
  · rw [passed]
    dsimp only
    rw [read, bad]
    exact congrArg (fun v => Host.Outcome.next (s.keeps v)) (if_pos (by rw [decide_eq_true here']; rfl))
  · rw [passed]
    dsimp only
    rw [fine] at read
    obtain ⟨counted, -⟩ := State.readFrame_good read
    have seqs : (v.endXfer n).seqs = s.seqs := by
      show v.seqs = _
      rw [counted, shape]
    have own : ((q.pte set page).tier == .chip && (q.pte set page).frame == src) = true := by simp [chip, frame]
    rw [read]
    dsimp only
    rw [if_neg (by simp), seqs, here]
    dsimp only
    rw [if_neg (by simp [running, own]), if_pos own]
    rfl

/-- The entry of a copy that is done. -/
theorem copied_shows {seq set page src dst : Nat} {q : Seq} {u v : State} (here : tfind s.seqs seq = some q) (chip : (q.pte set page).tier = .chip)
    (shape : u = { s with parts := u.parts }) (read : u.readFrame src = (v, true)) :
    ∃ w, tfind (v.copied n seq set page src dst (q.pte set page)).seqs seq = some w ∧ w.pte set page = { q.pte set page with frame := dst }
      ∧ tfind (v.copied n seq set page src dst (q.pte set page)).xfers n = none
      ∧ (v.copied n seq set page src dst (q.pte set page)).num PGM_COW_CNT = min (s.num PGM_COW_CNT + 1) 0xFFFFFFFF := by
  obtain ⟨counted, regs⟩ := State.readFrame_good read
  have seqs : v.seqs = s.seqs := by rw [counted, shape]
  have count : v.num PGM_COW_CNT = s.num PGM_COW_CNT := (State.num_congr (regs _ (by decide))).trans (State.num_congr (State.reg_of_regs (by rw [shape]) _))
  unfold State.copied
  dsimp only
  obtain ⟨seqs', -, xfers', regs'⟩ := (v.endXfer n).setFrame_shows dst ((v.endXfer n).frameBytes src)
  generalize (v.endXfer n).setFrame dst ((v.endXfer n).frameBytes src) = x at seqs' xfers' regs'
  obtain ⟨inTables, inRow⟩ := pte_inside (q := q) (set := set) (page := page) (by rw [chip]; decide)
  have found : tfind (((x.ref dst).unref src).incReg PGM_COW_CNT).seqs seq = some q := by
    show tfind x.seqs seq = some q
    rw [seqs']
    exact seqs ▸ here
  refine ⟨_, State.tfind_modSeq _ _ found, ?_, ?_, ?_⟩
  · rw [pte_setPte inTables (Nat.le_of_lt inRow), ← chip]
  · show tfind x.xfers n = none
    rw [xfers']
    exact tfind_tdel_same ..
  · show (((x.ref dst).unref src).incReg PGM_COW_CNT).num PGM_COW_CNT = _
    rw [State.num_incReg_one]
    show min (x.num PGM_COW_CNT + 1) 0xFFFFFFFF = _
    rw [State.num_congr (State.reg_of_regs regs' _)]
    exact congrArg (fun m => min (m + 1) 0xFFFFFFFF) count

/-! ### Drops (R324, R325) -/

/-- A state in which the sequences' pages, the references to their frames, the ready jobs, the drop's count and its interrupt have changed. -/
def State.Drops (s t : State) : Prop := t = { s with seqs := t.seqs, refs := t.refs, ready := t.ready, regs := t.regs, msix := t.msix, msixPend := t.msixPend }

theorem State.Drops.trans {s t u : State} (h : s.Drops t) (h' : t.Drops u) : s.Drops u := by
  unfold State.Drops at h h' ⊢
  rw [h] at h'
  exact h'

theorem State.prefillNext_drops (s : State) (i : Nat) : s.Drops (s.prefillNext i) ∧ (s.prefillNext i).regs = s.regs := by
  unfold State.prefillNext
  split
  · exact ⟨rfl, rfl⟩
  · split
    · split
      · exact ⟨rfl, rfl⟩
      · split <;> exact ⟨rfl, rfl⟩
    · exact ⟨rfl, rfl⟩

theorem State.loseEntries_drops (s : State) (i : Nat) (gone : Pte → Bool) : s.Drops (s.loseEntries i gone) := by
  unfold State.loseEntries
  split
  · rfl
  · rename_i q _
    dsimp only
    generalize (List.range q.tables.length).flatMap (fun k => (List.range (q.tables.getD k []).length).map (fun p => (k, p))) = all
    have lost (l : List (Nat × Nat)) : ∀ v : State, v.Drops (l.foldl (fun s x => ((frameKey (q.pte x.1 x.2)).elim s s.unref).modSeq i (fun q =>
        { q with tables := setPte q.tables x.1 x.2 { tier := .dropped, fill := 0, frame := 0 }, lost := addPages q.lost [x.2] })) v) := by
      induction l with
      | nil => exact fun _ => rfl
      | cons x l ih =>
        intro v
        rw [List.foldl_cons]
        refine State.Drops.trans ?_ (ih _)
        cases frameKey (q.pte x.1 x.2) <;> rfl
    have first := lost (all.filter (fun x => gone (q.pte x.1 x.2))) s
    split
    · exact first.trans (State.prefillNext_drops _ i).1
    · exact first

/-- A drop that finds a frame locked does nothing; another one interrupts. -/
theorem State.dropSeq_shows {i : Nat} {q : Seq} (there : tfind s.seqs i = some q) : s.Drops (s.dropSeq i)
    ∧ (((q.tables.flatMap id).filterMap frameKey).any s.locked = true → s.dropSeq i = s)
    ∧ (((q.tables.flatMap id).filterMap frameKey).any s.locked = false → bit ((s.dropSeq i).num PGM_IRQ_STAT) 1 = true) := by
  unfold State.dropSeq
  rw [there]
  dsimp only
  cases locked : ((q.tables.flatMap id).filterMap frameKey).any s.locked with
  | true => exact ⟨rfl, fun _ => rfl, fun h => Bool.noConfusion h⟩
  | false =>
    rw [if_neg (by decide)]
    generalize hv : (s.loseEntries i fun e => (frameKey e).any fun k => tget 0 s.refs k == 1) = v
    have lost : s.Drops v := by
      rw [← hv]
      exact State.loseEntries_drops ..
    have raised : v.Drops ((v.incFld PGM_DROP_CNT PGM_DROP_CNT_DROP_CNT).raise PGM_IRQ_STAT 1) := by
      rw [State.raise_eq]
      rfl
    obtain ⟨next, regs⟩ := State.prefillNext_drops ((v.incFld PGM_DROP_CNT PGM_DROP_CNT_DROP_CNT).raise PGM_IRQ_STAT 1) i
    refine ⟨(lost.trans raised).trans next, fun h => Bool.noConfusion h, fun _ => ?_⟩
    rw [State.num_congr (State.reg_of_regs regs _)]
    exact State.bit_raise _ _ (by decide)

theorem exec_dropDone (released : s.sys.released = true) {seq req : Nat} {q : Seq} (there : tfind s.xfers n = some (.drop seq (some req))) (here : tfind s.seqs seq = some q) :
    ∃ v : State, (∀ r, tfind s.reqs req = some r → exec (.dropDone n) s = .next (s.keeps ((((q.chips).map (· / 64)).eraseDups).foldl State.frameFreed (v.takeFreed (some req) r.tile))))
      ∧ tfind v.xfers n = none
      ∧ (((q.tables.flatMap id).filterMap frameKey).any ({ s with xfers := tdel s.xfers n } : State).locked = true → v = { s with xfers := tdel s.xfers n })
      ∧ (((q.tables.flatMap id).filterMap frameKey).any ({ s with xfers := tdel s.xfers n } : State).locked = false → bit (v.num PGM_IRQ_STAT) 1 = true) := by
  obtain ⟨only, held, dropped⟩ := State.dropSeq_shows (s := s.endXfer n) here
  refine ⟨(s.endXfer n).dropSeq seq, fun r found => ?_, ?_, held, dropped⟩
  · have reqs : ((s.endXfer n).dropSeq seq).reqs = s.reqs := by
      rw [only]
      rfl
    rw [exec, execDropDone, State.onMain_keeps _ released, there]
    dsimp only
    rw [here, Option.bind_some, reqs, found]
    rfl
  · rw [only]
    exact tfind_tdel_same ..

/-! ### Prefetches (R316) -/

theorem exec_prefetchStart (released : s.sys.released = true) {p : Fin 8} {r : ReadyJob} (one : s.ready = [r]) (mine : (s.ctxSt r.ctx).part = p) (be : (s.ctxSt r.ctx).cls = .be) :
    let v := (s.jobSeqs r).foldl (fun s i => s.prefetchSeq i (s.ctxSt r.ctx).cls) s
    exec (.prefetchStart p) s = .next (s.keeps (((v.reqs.map (fun r => r.2.tile)).eraseDups).foldl (fun s t => s.frameFreed t) v)) := by
  intro v
  have due : s.dueIn r.ctx = some (2 ^ 40) := by
    unfold State.dueIn
    dsimp only
    rw [if_pos be]
  rw [exec, execPrefetchStart, State.onMain_keeps _ released, one]
  simp only [List.filterMap_cons, List.filterMap_nil, mine, ne_eq, not_true_eq_false, if_false, due, Option.bind_some, be, decide_true, Bool.true_or, if_true, List.mergeSort_singleton,
    List.foldl_cons, List.foldl_nil]
  rfl

/-- A page of a sequence is asked for. -/
def State.asked (s : State) (i k p : Nat) : Bool := s.reqs.any (fun r => r.2.seq == i && r.2.set == k && r.2.page == p)

/-- Every request's number is below the next one's. -/
def State.reqsBelow (s : State) : Prop := ∀ e ∈ s.reqs, e.1 < s.nextReq

theorem tput_above {l : Tbl FrameReq} {k : Nat} (below : ∀ e ∈ l, e.1 < k) (r : FrameReq) : tput l k r = l ++ [(k, r)] := by
  induction l with
  | nil => rfl
  | cons e l ih =>
    obtain ⟨a, b⟩ := e
    have less : a < k := below (a, b) (by simp)
    rw [tput, tins, if_neg (by omega), if_neg (by omega)]
    exact congrArg ((a, b) :: ·) (ih (fun e he => below e (List.mem_cons_of_mem _ he)))

/-- A request made is there, those before it stay. -/
theorem State.addReq_shows {s : State} (below : s.reqsBelow) (r : FrameReq) : (s.addReq r).reqsBelow ∧ (s.addReq r).asked r.seq r.set r.page = true
    ∧ (∀ i k p, s.asked i k p = true → (s.addReq r).asked i k p = true) ∧ (s.addReq r).xfers = s.xfers := by
  unfold State.addReq
  split
  · rename_i there
    exact ⟨below, there, fun _ _ _ h => h, rfl⟩
  · have put := tput_above below r
    refine ⟨fun e he => ?_, ?_, fun i k p h => ?_, rfl⟩
    · replace he : e ∈ tput s.reqs s.nextReq r := he
      rw [put, List.mem_append, List.mem_singleton] at he
      rcases he with he | he
      · exact Nat.lt_succ_of_lt (below e he)
      · rw [he]
        exact Nat.lt_succ_self _
    · show (tput s.reqs s.nextReq r).any _ = true
      rw [put]
      simp
    · show (tput s.reqs s.nextReq r).any _ = true
      rw [put, List.any_append]
      exact Bool.or_eq_true_iff.2 (.inl h)

/-- Steps that keep a fact, of which one makes another that stays: in the end it holds. -/
theorem foldl_reaches {β : Type} {f : State → β → State} {inv made : State → Prop} (keeps : ∀ v x, inv v → inv (f v x)) (stays : ∀ v x, inv v → made v → made (f v x)) {x : β}
    (makes : ∀ v, inv v → made (f v x)) : ∀ {l : List β} {s : State}, inv s → x ∈ l → inv (l.foldl f s) ∧ made (l.foldl f s) := by
  have on (l : List β) : ∀ s, inv s → made s → inv (l.foldl f s) ∧ made (l.foldl f s) := by
    induction l with
    | nil => exact fun _ h h' => ⟨h, h'⟩
    | cons y l ih => exact fun s h h' => ih _ (keeps s y h) (stays s y h h')
  intro l
  induction l with
  | nil => exact fun _ mem => absurd mem (by simp)
  | cons y l ih =>
    intro s ok mem
    rcases List.mem_cons.1 mem with rfl | mem
    · exact on l _ (keeps s _ ok) (makes s ok)
    · exact ih (keeps s y ok) mem

/-- A page that lies in DRAM, and is in no transfer, is asked for. -/
def State.prefetchPage (s : State) (i : Nat) (q : Seq) (m : Model) (cls : Cls) (k p : Nat) : State :=
  if (q.pte k p).tier = .dram && !s.xfers.any (fun x => x.2.frames.contains (dramKey (q.pte k p).frame)) then
    s.addReq { s.reqOf i k p ((m.kv.getD k default).home p) (q.pte k p).fill none with cls := cls }
  else s

theorem State.prefetchPage_shows {s : State} (below : s.reqsBelow) (idle : s.xfers = []) (i : Nat) (q : Seq) (m : Model) (cls : Cls) (k p : Nat) :
    ((s.prefetchPage i q m cls k p).reqsBelow ∧ (s.prefetchPage i q m cls k p).xfers = [])
    ∧ (∀ i' k' p', s.asked i' k' p' = true → (s.prefetchPage i q m cls k p).asked i' k' p' = true)
    ∧ ((q.pte k p).tier = .dram → (s.prefetchPage i q m cls k p).asked i k p = true) := by
  unfold State.prefetchPage
  rw [idle]
  split
  · obtain ⟨below', there, kept, xfers⟩ := State.addReq_shows below { s.reqOf i k p ((m.kv.getD k default).home p) (q.pte k p).fill none with cls := cls }
    exact ⟨⟨below', xfers.trans idle⟩, kept, fun _ => there⟩
  · rename_i other
    refine ⟨⟨below, idle⟩, fun _ _ _ h => h, fun dram => absurd ?_ other⟩
    simp [dram]

/-- The DRAM pages of a sequence get requests (R316). -/
theorem State.prefetchSeq_asks {s : State} {i k p : Nat} {q : Seq} {m : Model} {cls : Cls} (there : tfind s.seqs i = some q) (model : s.model q.playbook q.model = some m)
    (inTables : k < q.tables.length) (inRow : p < (q.tables.getD k []).length) (dram : (q.pte k p).tier = .dram) (idle : s.xfers = []) (below : s.reqsBelow) :
    (s.prefetchSeq i cls).asked i k p = true := by
  have eq : s.prefetchSeq i cls = (List.range q.tables.length).foldl (fun s k => (List.range (q.tables.getD k []).length).foldl (fun s p => s.prefetchPage i q m cls k p) s) s := by
    unfold State.prefetchSeq
    rw [there]
    dsimp only
    rw [model]
    rfl
  have keeps (k' : Nat) (v : State) (p' : Nat) (ok : v.reqsBelow ∧ v.xfers = []) := (State.prefetchPage_shows ok.1 ok.2 i q m cls k' p').1
  have stays (k' : Nat) (v : State) (p' : Nat) (ok : v.reqsBelow ∧ v.xfers = []) (made : v.asked i k p = true) := (State.prefetchPage_shows ok.1 ok.2 i q m cls k' p').2.1 i k p made
  have row (k' : Nat) (l : List Nat) : ∀ v : State, v.reqsBelow ∧ v.xfers = [] → (l.foldl (fun s p => s.prefetchPage i q m cls k' p) v).reqsBelow
      ∧ (l.foldl (fun s p => s.prefetchPage i q m cls k' p) v).xfers = [] := by
    induction l with
    | nil => exact fun _ ok => ok
    | cons p' l ih => exact fun v ok => ih _ (keeps k' v p' ok)
  have rowStays (k' : Nat) (l : List Nat) : ∀ v : State, v.reqsBelow ∧ v.xfers = [] → v.asked i k p = true → (l.foldl (fun s p => s.prefetchPage i q m cls k' p) v).asked i k p = true := by
    induction l with
    | nil => exact fun _ _ made => made
    | cons p' l ih => exact fun v ok made => ih _ (keeps k' v p' ok) (stays k' v p' ok made)
  rw [eq]
  refine (foldl_reaches (inv := fun v => v.reqsBelow ∧ v.xfers = []) (made := fun v => v.asked i k p = true) (x := k) (fun v k' ok => row k' _ v ok) (fun v k' ok made => rowStays k' _ v ok made)
    (fun v ok => ?_) ⟨below, idle⟩ (List.mem_range.2 inTables)).2
  exact (foldl_reaches (inv := fun v => v.reqsBelow ∧ v.xfers = []) (made := fun v => v.asked i k p = true) (x := p) (keeps k) (stays k)
    (fun v ok => (State.prefetchPage_shows ok.1 ok.2 i q m cls k p).2.2 dram) ok (List.mem_range.2 inRow)).2

end

/-- Settles O49: the load, the requests and the transfers clause by clause; reads that meet no uncorrectable word change counters above the page manager's registers only. -/
theorem framesAndPages : Obligations.FramesAndPages := by
  unfold Obligations.FramesAndPages
  refine ⟨fun s released => ⟨modelLoadDone_clauses released, fun req n y first => exec_frameRequest released first, fun n r f q free => ⟨State.tryReq_free free, ?_, State.serveReq_gone⟩,
    fun t => ⟨fun none => exec_frameFreed_none released none t, ?_⟩, fun req r there => exec_frameWaitExpiry released there⟩, ?_⟩
  · intro there running fresh notDram notChip here next
    exact State.serveReq_page there running fresh notDram notChip here next
  · intro n r one here idle again v u ok tried
    exact exec_frameFreed_one released one here idle tried
  intro s n released passes
  refine ⟨?_, ?_, ?_, ?_, ?_, ?_⟩
  · intro seq set page c d req q there here chip frame used u ok asked
    obtain ⟨held, go⟩ := exec_spillDone released there asked
    refine ⟨held, fun passed v good read => ⟨fun bad => ?_, fun fine => ?_⟩⟩
    · rw [go passed v good read, bad]
      rfl
    · obtain ⟨w, shows⟩ := spilled (n := n) (d := d) here chip frame used (State.granted_shows asked) (fine ▸ read)
      exact ⟨_, w, by rw [go passed v good read, fine, if_pos rfl], shows⟩
  · intro seq set page d c q there here dram frame local_ used u ok asked
    obtain ⟨held, go⟩ := exec_prefetchDone released there asked
    refine ⟨held, fun passed v good read => ⟨fun _ => go passed v good read, fun fine => ?_⟩⟩
    obtain ⟨named, w, shows⟩ := prefetched (n := n) here dram frame local_ used (State.granted_shows asked) (show (u.endXfer n).readFrame d = (v, true) from fine ▸ read)
    exact ⟨s.keeps (((v.setFrame c (v.frameBytes d)).renameFrame d c).incReg PGM_PREFETCH_CNT), w, by rw [go passed v good read, if_neg named], shows⟩
  · intro seq set page src dst q there here running chip frame u ok asked
    obtain ⟨held, go⟩ := exec_cowDone released there here running chip frame asked
    refine ⟨held, fun passed v good read => ⟨(go passed v good read).1, fun fine => ?_⟩⟩
    obtain ⟨w, shows⟩ := copied_shows (n := n) (dst := dst) here chip (State.granted_shows asked) (fine ▸ read)
    exact ⟨s.keeps _, w, (go passed v good read).2 fine, shows⟩
  · intro seq req q there here
    exact exec_dropDone released there here
  · intro p r one mine be
    exact exec_prefetchStart released one mine be
  · intro i q m k p cls there model inTables inRow dram idle below
    exact State.prefetchSeq_asks there model inTables inRow dram idle below

end Sys2Proof.Machine
end


section
/-! SUPPORT. O50: the layout of a NULL flit and of a codeword. -/

namespace Sys2Proof.Machine

/-! ### Flits (R421, R423) -/

theorem fitTo_length (n : Nat) (l : List Byte) : (fitTo n l).length = n := by
  unfold fitTo zeros
  rw [List.length_append, List.length_take, List.length_replicate]
  omega

theorem crcBit_lt {c : Nat} (small : c < 2 ^ 32) : crcBit c < 2 ^ 32 := by
  unfold crcBit
  have half : c / 2 < 2 ^ 32 := by omega
  split
  · exact Nat.xor_lt_two_pow half (by decide)
  · exact half

theorem crc32_lt (l : List Byte) : crc32 l < 2 ^ 32 := by
  have fold : ∀ (l : List Byte) (c : Nat), c < 2 ^ 32 → l.foldl crcByte c < 2 ^ 32 := by
    intro l
    induction l with
    | nil => exact fun _ small => small
    | cons b l ih =>
      intro c small
      refine ih _ ?_
      have mixed : c ^^^ b.toNat < 2 ^ 32 := Nat.xor_lt_two_pow small (by have := b.isLt; omega)
      unfold crcByte
      exact crcBit_lt (crcBit_lt (crcBit_lt (crcBit_lt (crcBit_lt (crcBit_lt (crcBit_lt (crcBit_lt mixed)))))))
  exact Nat.xor_lt_two_pow (fold l _ (by decide)) (by decide)

section
variable (vc null seq ack crVc crCnt : Nat) (data : List Byte)

/-- The header word of a flit. -/
def flitHeader : Nat := vc % 4 * 2 ^ 30 + null % 2 * 2 ^ 29 + seq % 4096 * 2 ^ 17 + ack % 4096 * 2 ^ 5 + crVc % 4 * 8 + crCnt % 8

theorem mkFlit_eq : mkFlit vc null seq ack crVc crCnt data = leBytes 4 (flitHeader vc null seq ack crVc crCnt) ++ fitTo 248 data
    ++ leBytes 4 (crc32 (leBytes 4 (flitHeader vc null seq ack crVc crCnt) ++ fitTo 248 data)) := rfl

/-- Every flit made has a good CRC (R421). -/
theorem flitGood_mkFlit : flitGood (mkFlit vc null seq ack crVc crCnt data) = true := by
  rw [mkFlit_eq]
  generalize hb : leBytes 4 (flitHeader vc null seq ack crVc crCnt) ++ fitTo 248 data = body
  have length : body.length = 252 := by rw [← hb, List.length_append, leBytes_length, fitTo_length]
  have crc := leAt_leBytes body 4 (crc32 body) [] length.symm
  rw [List.append_nil] at crc
  have cut : (body ++ leBytes 4 (crc32 body)).take 252 = body := by rw [← length, List.take_left]
  unfold flitGood
  have small : crc32 body % 256 ^ 4 = crc32 body := Nat.mod_eq_of_lt (crc32_lt body)
  rw [crc, cut, small]
  simp [length]

theorem mkFlit_length : (mkFlit vc null seq ack crVc crCnt data).length = 256 := by
  simp [mkFlit_eq, leBytes_length, fitTo_length]

/-- A number among a flit's bytes from byte 4 on. -/
theorem leAt_mkFlit {before after : List Byte} {n v i : Nat} (eq : data = before ++ leBytes n v ++ after) (fits : data.length ≤ 248) (place : i = 4 + before.length) :
    leAt (mkFlit vc null seq ack crVc crCnt data) i n = v % 256 ^ n := by
  have whole : fitTo 248 data = data ++ zeros (248 - data.length) := by rw [fitTo, List.take_of_length_le fits]
  rw [mkFlit_eq, whole, eq]
  generalize crc32 (leBytes 4 (flitHeader vc null seq ack crVc crCnt) ++ (before ++ leBytes n v ++ after ++ zeros (248 - (before ++ leBytes n v ++ after).length))) = crc
  have := leAt_leBytes (leBytes 4 (flitHeader vc null seq ack crVc crCnt) ++ before) n v (after ++ zeros (248 - (before ++ leBytes n v ++ after).length) ++ leBytes 4 crc) (i := i)
    (by rw [List.length_append, leBytes_length, place])
  simpa only [List.append_assoc] using this

end

/-- A NULL flit with a link command, as a port sends it now (R423). -/
def KPort.nullFlit (p : KPort) (lcmd : Nat) (rest : List Byte) : List Byte := mkFlit 0 1 0 (p.rxExp + 4095) p.owedPick.1 p.owedPick.2 (leBytes 1 lcmd ++ rest)

/-- What a NULL flit leaves in its port: the flit is sent, the credits in its header are paid. -/
theorem KPort.sendNull_shows (p : KPort) (lcmd : Nat) (rest : List Byte) :
    p.sendNull lcmd rest = { p with sent := p.nullFlit lcmd rest :: p.sent, stream := p.stream ++ p.nullFlit lcmd rest, owed := (p.sendNull lcmd rest).owed, lastOwed := (p.sendNull lcmd rest).lastOwed } := by
  unfold KPort.sendNull KPort.payOwed KPort.nullFlit
  dsimp only
  split <;> rfl

theorem KPort.nullFlit_good (p : KPort) (lcmd : Nat) (rest : List Byte) : flitGood (p.nullFlit lcmd rest) = true := flitGood_mkFlit ..

theorem KPort.nullFlit_lcmd (p : KPort) {lcmd : Nat} (rest : List Byte) (small : lcmd < 256) (fits : rest.length ≤ 247) : leAt (p.nullFlit lcmd rest) 4 1 = lcmd := by
  refine (leAt_mkFlit _ _ _ _ _ _ _ (before := []) (n := 1) (v := lcmd) (after := rest) rfl ?_ rfl).trans (Nat.mod_eq_of_lt small)
  simp only [List.length_append, List.length_nil, leBytes_length]
  omega

/-! ### Codewords (R417, R418) -/

theorem rs544Gen_length : rs544Gen.length = 30 := by decide +kernel

theorem rs544Parity_length (msg : List Nat) : (rs544Parity msg).length = 30 := by
  have fold : ∀ (l reg : List Nat), reg.length = 30 → (l.foldl (fun reg m => (reg.drop 1 ++ [0]).zipWith (fun x g => x ^^^ gf10Mul g (m ^^^ reg.headD 0) 10 0) rs544Gen) reg).length = 30 := by
    intro l
    induction l with
    | nil => exact fun _ len => len
    | cons m l ih =>
      intro reg len
      refine ih _ ?_
      simp [len, rs544Gen_length]
  exact fold msg _ (by simp)

/-- The four digits of 10 bits of a number, after another one. -/
theorem tens_value (x v : Nat) : (((x * 1024 + v / 2 ^ 30) * 1024 + v / 2 ^ 20 % 1024) * 1024 + v / 2 ^ 10 % 1024) * 1024 + v % 1024 = x * 2 ^ 40 + v := by omega

theorem bytes_value (x a b c d e : Nat) : x * 2 ^ 40 + ((((a * 256 + b) * 256 + c) * 256 + d) * 256 + e) = ((((x * 256 + a) * 256 + b) * 256 + c) * 256 + d) * 256 + e := by omega

/-- The symbols of bytes: four of 10 bits for five bytes, together the same number, MSB first. -/
theorem symbols10_shows (k : Nat) : ∀ l : List Byte, l.length = 5 * k → (symbols10 l).length = 4 * k ∧ (∀ x ∈ symbols10 l, x < 1024)
    ∧ ∀ a, (symbols10 l).foldl (fun a x => a * 1024 + x) a = l.foldl (fun a b => a * 256 + b.toNat) a := by
  induction k with
  | zero =>
    intro l len
    obtain rfl : l = [] := List.length_eq_zero_iff.1 (by omega)
    exact ⟨rfl, by simp [symbols10], fun _ => rfl⟩
  | succ k ih =>
    intro l len
    match l, len with
    | a :: b :: c :: d :: e :: t, len =>
      have rest : t.length = 5 * k := by
        simp only [List.length_cons] at len
        omega
      obtain ⟨count, small, value⟩ := ih t rest
      have bounds := And.intro a.isLt (And.intro b.isLt (And.intro c.isLt (And.intro d.isLt e.isLt)))
      refine ⟨?_, ?_, fun x => ?_⟩
      · simp only [symbols10, List.length_append, count, List.length_cons, List.length_nil]
        omega
      · intro x mem
        simp only [symbols10, List.mem_append, List.mem_cons, List.not_mem_nil, or_false] at mem
        rcases mem with (rfl | rfl | rfl | rfl) | mem
        · omega
        · omega
        · omega
        · omega
        · exact small x mem
      · simp only [symbols10, List.foldl_append, List.foldl_cons, List.foldl_nil, value]
        rw [tens_value, bytes_value]

theorem codeword544_length (seq : Nat) {stream : List Byte} (enough : 640 ≤ stream.length) : (codeword544 seq stream).length = 544 := by
  have taken : (stream.take 640).length = 5 * 128 := by rw [List.length_take, Nat.min_eq_left enough]
  obtain ⟨count, -, -⟩ := symbols10_shows 128 _ taken
  simp only [codeword544, List.length_append, rs544Parity_length, count, cwHeader, List.length_cons, List.length_nil]

/-- The symbols on a lane: every fourth. -/
theorem laneSymbols_eq {l : Nat} (hl : l < 4) (cw : List Nat) (k : Nat) (len : cw.length = 4 * k) : laneSymbols l cw = (List.range k).map (fun j => cw.getD (4 * j + l) 0) := by
  have from_ : ∀ (k : Nat) (cw : List Nat) (n : Nat), cw.length = 4 * k →
      (((cw.zipIdx (4 * n)).filter (fun x => x.2 % 4 == l)).map (·.1)) = (List.range k).map (fun j => cw.getD (4 * j + l) 0) := by
    intro k
    induction k with
    | zero =>
      intro cw n len
      obtain rfl : cw = [] := List.length_eq_zero_iff.1 (by omega)
      rfl
    | succ k ih =>
      intro cw n len
      match cw, len with
      | a :: b :: c :: d :: t, len =>
        have rest := ih t (n + 1) (by simp only [List.length_cons] at len; omega)
        have shift (j : Nat) : (a :: b :: c :: d :: t).getD (4 * (j + 1) + l) 0 = t.getD (4 * j + l) 0 := by
          rw [show 4 * (j + 1) + l = 4 * j + l + 1 + 1 + 1 + 1 by omega]
          rfl
        rw [List.range_succ_eq_map, List.map_cons, List.map_map]
        simp only [Function.comp_def, Nat.succ_eq_add_one, shift]
        rw [← rest]
        simp only [List.zipIdx_cons, Nat.add_assoc, Nat.reduceAdd, show 4 * (n + 1) = 4 * n + 4 by omega]
        have h0 : 4 * n % 4 = 0 := by omega
        have h1 : (4 * n + 1) % 4 = 1 := by omega
        have h2 : (4 * n + 2) % 4 = 2 := by omega
        have h3 : (4 * n + 3) % 4 = 3 := by omega
        interval_cases l <;> simp [h0, h1, h2, h3]
  have := from_ k cw 0 len
  exact this

end Sys2Proof.Machine
end


section
/-! SUPPORT. O50: codewords, training, alignment, and what a flit brings. -/

namespace Sys2Proof.Machine

/-- The codeword that leaves next (R418). -/
theorem KPort.sendCodeword_shows (p : KPort) (pre : Bool) (enough : 640 ≤ p.stream.length) :
    let q := p.sendCodeword pre
    q.cwSeq = (p.cwSeq + 1) % 4096 ∧ q.stream = p.stream.drop 640
      ∧ ∃ cw : List Nat, cw.length = 544 ∧ cw.take 2 = [(p.cwSeq % 4096 * 256 + 0xA5) / 1024, (p.cwSeq % 4096 * 256 + 0xA5) % 1024] ∧ (∀ x ∈ cw.take 514, x < 1024)
        ∧ ((cw.drop 2).take 512).foldl (fun a x => a * 1024 + x) 0 = (p.stream.take 640).foldl (fun a b => a * 256 + b.toNat) 0
        ∧ ∀ l, l < 4 → q.lanes.getD l [] = (List.range 136).map (fun k => cw.getD (4 * k + l) 0) := by
  have full : KPort.fillStream 3 p = p := if_pos enough
  have taken : (p.stream.take 640).length = 5 * 128 := by rw [List.length_take, Nat.min_eq_left enough]
  obtain ⟨count, small, value⟩ := symbols10_shows 128 _ taken
  have length := codeword544_length p.cwSeq enough
  have header : (cwHeader p.cwSeq).length = 2 := rfl
  have message : (cwHeader p.cwSeq ++ symbols10 (p.stream.take 640)).length = 514 := by rw [List.length_append, header, count]
  have whole : p.sendCodeword pre = { p with stream := p.stream.drop 640, cwSeq := (p.cwSeq + 1) % 4096, lanes := (List.range 4).map (fun l => laneSymbols l (codeword544 p.cwSeq p.stream))
                                             levels := (p.sendCodeword pre).levels } := by
    unfold KPort.sendCodeword
    rw [full]
  intro q
  have hq : q = _ := whole
  rw [hq]
  refine ⟨rfl, rfl, codeword544 p.cwSeq p.stream, length, ?_, ?_, ?_, fun l hl => ?_⟩
  · rfl
  · intro x mem
    have cut : (codeword544 p.cwSeq p.stream).take 514 = cwHeader p.cwSeq ++ symbols10 (p.stream.take 640) := by
      rw [codeword544, ← message]
      exact List.take_left
    rw [cut, List.mem_append] at mem
    rcases mem with mem | mem
    · simp only [cwHeader, List.mem_cons, List.not_mem_nil, or_false] at mem
      rcases mem with rfl | rfl <;> omega
    · exact small x mem
  · have cut : ((codeword544 p.cwSeq p.stream).drop 2).take 512 = symbols10 (p.stream.take 640) := by
      rw [codeword544, List.append_assoc, ← header, List.drop_left, ← count.trans (by rfl : 4 * 128 = 512)]
      exact List.take_left
    rw [cut, value]
  · have lane := laneSymbols_eq hl (codeword544 p.cwSeq p.stream) 136 length
    rw [← lane]
    show ((List.range 4).map (fun l => laneSymbols l (codeword544 p.cwSeq p.stream))).getD l [] = _
    simp [hl]

/-! ### Ports -/

section
variable {s : State} {n : Fin 6}

theorem State.kport_modKport_same (s : State) (n : Nat) (f : KPort → KPort) : (s.modKport n f).kport n = f (s.kport n) := tget_tput_same ..

theorem State.aligned_of_fin (s : State) (n : Fin 6) : s.aligned n = s.on (KOL_PORT_STAT n) KOL_PORT_STAT_ALIGNED := by
  unfold State.aligned
  simp

theorem State.linkUp_of_fin (s : State) (n : Fin 6) : s.linkUp n = s.on (KOL_PORT_STAT n) KOL_PORT_STAT_LINK_UP := by
  unfold State.linkUp
  simp

/-- The REPLAY that the first discard asks for (R425). -/
theorem State.discardFlit_first (fresh : (s.kport n).replayTb = none) :
    ∃ g, ((s.discardFlit n).kport n).sent = g :: (s.kport n).sent ∧ leAt g 4 1 = 2 ∧ flitGood g = true ∧ ((s.discardFlit n).kport n).replayTb = some s.tb := by
  unfold State.discardFlit
  rw [fresh]
  dsimp only
  rw [if_pos rfl, State.kport_modKport_same, KPort.sendNull_shows]
  exact ⟨_, rfl, KPort.nullFlit_lcmd _ [] (by decide) (by decide), KPort.nullFlit_good .., rfl⟩

theorem State.discardFlit_again {b : Nat} (asked : (s.kport n).replayTb = some b) (soon : s.tb < b + 2000) : s.discardFlit n = s := by
  unfold State.discardFlit
  rw [asked]
  dsimp only
  rw [if_neg (by simpa using soon)]

theorem State.discardFlit_frame (s : State) (n : Nat) : s.discardFlit n = { s with kol := (s.discardFlit n).kol } := by
  unfold State.discardFlit
  dsimp only
  split <;> split <;> rfl

/-- A codeword that the decoder reads, and one that it does not (R420). -/
theorem exec_codeword (released : s.sys.released = true) (trained : s.on (KOL_PORT_STAT n) KOL_PORT_STAT_TRAINED = true) (w : List Nat) :
    exec (.codewordUncorrectable n [w]) s = .next (s.keeps (s.codewordIn n w)) := by
  rw [exec, execCodewordUncorrectable, State.onMain_keeps _ released, if_neg (by rw [trained]; decide)]
  rfl

theorem exec_codeword_untrained (released : s.sys.released = true) (untrained : s.on (KOL_PORT_STAT n) KOL_PORT_STAT_TRAINED = false) (words : List (List Nat)) :
    exec (.codewordUncorrectable n words) s = .next s := by
  rw [exec, execCodewordUncorrectable, State.onMain_keeps _ released, if_pos (by rw [untrained]; rfl)]
  rfl

theorem codeword_corrected (released : s.sys.released = true) {w cw : List Nat} {k : Nat} (trained : s.on (KOL_PORT_STAT n) KOL_PORT_STAT_TRAINED = true)
    (decoded : rs544Decode w = some (cw, k)) : ∃ t, exec (.codewordUncorrectable n [w]) s = .next t
      ∧ t.num (KOL_FEC_CORR n) = min (s.num (KOL_FEC_CORR n) + k) 0xFFFFFFFF ∧ t = { s with regs := t.regs } ∧ s.regsSame t [KOL_FEC_CORR n] := by
  refine ⟨s.incReg (KOL_FEC_CORR n) k, ?_, State.num_setNum_same _ _ (lt_of_le_of_lt (Nat.min_le_right ..) (by decide)), rfl, fun a away => State.reg_setNum_ne _ _ (by simpa using away)⟩
  rw [exec_codeword released trained, State.codewordIn, decoded]
  rfl

theorem codeword_lost (released : s.sys.released = true) {w : List Nat} (trained : s.on (KOL_PORT_STAT n) KOL_PORT_STAT_TRAINED = true) (lost : rs544Decode w = none) :
    ∃ t, exec (.codewordUncorrectable n [w]) s = .next t
      ∧ t.num (KOL_FEC_UNCORR n) = min (s.num (KOL_FEC_UNCORR n) + 1) 0xFFFFFFFF ∧ bit (t.num (KOL_IRQ_STAT n)) 3 = true
      ∧ (s.aligned n = true → (s.kport n).replayTb = none → ∃ g, (t.kport n).sent = g :: (s.kport n).sent ∧ leAt g 4 1 = 2 ∧ flitGood g = true ∧ (t.kport n).replayTb = some s.tb)
      ∧ (s.aligned n = false → t.kol = s.kol)
      ∧ t = { s with regs := t.regs, msix := t.msix, msixPend := t.msixPend, kol := t.kol } ∧ s.regsSame t [KOL_FEC_UNCORR n, KOL_IRQ_STAT n] := by
  have apart : KOL_FEC_UNCORR n ≠ KOL_IRQ_STAT n := by
    unfold KOL_FEC_UNCORR KOL_IRQ_STAT
    omega
  have stat : KOL_PORT_STAT n ≠ KOL_IRQ_STAT n ∧ KOL_PORT_STAT n ≠ KOL_FEC_UNCORR n := by
    unfold KOL_FEC_UNCORR KOL_IRQ_STAT KOL_PORT_STAT
    omega
  obtain ⟨u, hu⟩ : ∃ u, u = (s.incReg (KOL_FEC_UNCORR n)).raise (KOL_IRQ_STAT n) 3 := ⟨_, rfl⟩
  have frame : u = { s with regs := u.regs, msix := u.msix, msixPend := u.msixPend } := by
    rw [hu, State.raise_eq]
    rfl
  have regs : ∀ a, a ≠ KOL_IRQ_STAT n → a ≠ KOL_FEC_UNCORR n → u.reg a = s.reg a := fun a ne ne' => by
    rw [hu, State.reg_raise_ne _ _ ne]
    exact State.reg_setNum_ne _ _ ne'
  have count : u.num (KOL_FEC_UNCORR n) = min (s.num (KOL_FEC_UNCORR n) + 1) 0xFFFFFFFF := by
    rw [hu, State.num_congr (State.reg_raise_ne _ _ apart)]
    exact State.num_incReg_one s _
  have irq : bit (u.num (KOL_IRQ_STAT n)) 3 = true := by
    rw [hu]
    exact State.bit_raise _ _ (by decide)
  have aligned : u.aligned n = s.aligned n := by rw [State.aligned_of_fin, State.aligned_of_fin, State.on_congr (regs _ stat.1 stat.2)]
  have kport : u.kport n = s.kport n := by
    rw [frame]
    rfl
  have same : s.regsSame u [KOL_FEC_UNCORR n, KOL_IRQ_STAT n] := fun a away => by
    simp only [List.mem_cons, List.not_mem_nil, or_false, not_or] at away
    exact regs a away.2 away.1
  have run : exec (.codewordUncorrectable n [w]) s = .next (s.keeps (if u.aligned n then u.discardFlit n else u)) := by
    rw [exec_codeword released trained, State.codewordIn, lost]
    dsimp only
    rw [← hu]
  cases on : s.aligned n with
  | false =>
    refine ⟨u, ?_, count, irq, fun h => Bool.noConfusion h, fun _ => by rw [frame], by rw [frame], same⟩
    rw [run, aligned, on, if_neg (by decide), frame]
    rfl
  | true =>
    have shape := u.discardFlit_frame n
    have replay := fun fresh => State.discardFlit_first (s := u) (n := n) fresh
    rw [aligned, on, if_pos rfl] at run
    generalize u.discardFlit n = t at shape replay run
    have tregs : t.regs = u.regs := by rw [shape]
    refine ⟨t, ?_, ?_, ?_, fun _ fresh => ?_, fun h => Bool.noConfusion h, ?_, fun a away => ?_⟩
    · rw [run, shape, frame]
      rfl
    · rw [State.num_congr (State.reg_of_regs tregs _), count]
    · rw [State.num_congr (State.reg_of_regs tregs _), irq]
    · have := replay (by rw [kport, fresh])
      rw [kport] at this
      rw [frame] at this
      exact this
    · rw [shape, frame]
    · rw [State.reg_of_regs tregs, same a away]

end

end Sys2Proof.Machine
end


section
/-! SUPPORT. O50: alignment, replays, keepalives, and the flits received. -/

namespace Sys2Proof.Machine

section
variable {s : State} {n : Fin 6}

theorem State.pair_lt (s : State) (a : Nat) : s.pair a < 2 ^ 64 := by
  have low := (s.reg a).isLt
  have high := (s.reg (a + 4)).isLt
  simp only [State.pair, State.num]
  omega

/-! ### Training and alignment (R427, R428) -/

theorem exec_trainingDone (released : s.sys.released = true) :
    (s.on (KOL_PORT_CTL n) KOL_PORT_CTL_EN = true → exec (.trainingDone n) s = .next (s.setFld (KOL_PORT_STAT n) KOL_PORT_STAT_TRAINED 1))
    ∧ (s.on (KOL_PORT_CTL n) KOL_PORT_CTL_EN = false → exec (.trainingDone n) s = .next s) := by
  rw [exec, execTrainingDone, State.onMain_keeps _ released]
  refine ⟨fun on => ?_, fun off => ?_⟩
  · rw [if_pos on]
    rfl
  · rw [if_neg (by rw [off]; decide)]
    rfl

theorem exec_portAligned_held (released : s.sys.released = true) (held : s.on (KOL_PORT_STAT n) KOL_PORT_STAT_TRAINED = false ∨ s.aligned n = true) :
    exec (.portAligned n) s = .next s := by
  rw [exec, execPortAligned, State.onMain_keeps _ released, if_pos (by rcases held with h | h <;> simp [h])]
  rfl

/-- What the IDLE flits that carry credits leave of a port. -/
theorem KPort.idle_shows (k : Nat) : ∀ p : KPort, (p.idle k).buffer = p.buffer ∧ (p.idle k).ready = p.ready ∧ (p.idle k).txSeq = p.txSeq ∧ (p.idle k).rxExp = p.rxExp
    ∧ (p.idle k).gotKeepalive = p.gotKeepalive := by
  induction k with
  | zero => exact fun p => ⟨rfl, rfl, rfl, rfl, rfl⟩
  | succ k ih =>
    intro p
    unfold KPort.idle
    split
    · exact ⟨rfl, rfl, rfl, rfl, rfl⟩
    · obtain ⟨buffer, ready, txSeq, rxExp, got⟩ := ih (p.sendNull 0 [])
      rw [buffer, ready, txSeq, rxExp, got, KPort.sendNull_shows]
      exact ⟨rfl, rfl, rfl, rfl, rfl⟩

/-- A port that serves with nothing ready sends IDLE flits at most. -/
theorem State.serve_shows {s : State} {n : Nat} (empty : (s.kport n).ready = []) : s.serve n = { s with kol := (s.serve n).kol }
    ∧ ((s.serve n).kport n).buffer = (s.kport n).buffer ∧ ((s.serve n).kport n).ready = [] ∧ ((s.serve n).kport n).txSeq = (s.kport n).txSeq
    ∧ ((s.serve n).kport n).rxExp = (s.kport n).rxExp ∧ ((s.serve n).kport n).gotKeepalive = (s.kport n).gotKeepalive := by
  have still : s.pump n = s := by
    unfold State.pump
    rw [empty]
    rfl
  unfold State.serve
  dsimp only
  rw [still]
  split
  · rw [State.kport_modKport_same]
    obtain ⟨buffer, ready, txSeq, rxExp, got⟩ := KPort.idle_shows 64 (s.kport n)
    exact ⟨rfl, buffer, ready.trans empty, txSeq, rxExp, got⟩
  · exact ⟨rfl, rfl, empty, rfl, rfl, rfl⟩

theorem exec_portAligned_fresh (released : s.sys.released = true) (trained : s.on (KOL_PORT_STAT n) KOL_PORT_STAT_TRAINED = true) (off : s.aligned n = false) :
    ∃ t, exec (.portAligned n) s = .next t ∧ t.on (KOL_PORT_STAT n) KOL_PORT_STAT_ALIGNED = true ∧ (t.kport n).buffer = [] ∧ (t.kport n).ready = []
      ∧ (t.kport n).txSeq = 0 ∧ (t.kport n).rxExp = 0 ∧ (t.kport n).gotKeepalive = false ∧ t = { s with regs := t.regs, kol := t.kol } ∧ s.regsSame t [KOL_PORT_STAT n] := by
  obtain ⟨u, hu⟩ : ∃ u, u = s.setFld (KOL_PORT_STAT n) KOL_PORT_STAT_ALIGNED 1 := ⟨_, rfl⟩
  have on : u.on (KOL_PORT_STAT n) KOL_PORT_STAT_ALIGNED = true := by
    rw [hu]
    exact State.on_setFld_one s _ (by decide) (by decide)
  have same : s.regsSame u [KOL_PORT_STAT n] := fun a away => by
    rw [hu]
    exact State.reg_setFld_ne _ _ _ (by simpa using away)
  have frame : u = { s with regs := u.regs } := by
    rw [hu]
    rfl
  have run : exec (.portAligned n) s = .next (s.keeps (u.freshPort n)) := by
    rw [exec, execPortAligned, State.onMain_keeps _ released, if_neg (by simp [trained, off]), ← hu]
  obtain ⟨v, p, fresh, shape, port, empty⟩ : ∃ (v : State) (p : KPort), u.freshPort n = v.serve n ∧ v = { u with kol := v.kol } ∧ v.kport n = p
      ∧ (p.buffer = [] ∧ p.ready = [] ∧ p.txSeq = 0 ∧ p.rxExp = 0 ∧ p.gotKeepalive = false) := by
    unfold State.freshPort
    extract_lets w
    exact ⟨_, _, rfl, rfl, tget_tput_same .., ⟨rfl, rfl, rfl, rfl, rfl⟩⟩
  obtain ⟨buffer, ready, txSeq, rxExp, got⟩ := empty
  obtain ⟨shape', buffer', ready', txSeq', rxExp', got'⟩ := State.serve_shows (s := v) (n := n) (by rw [port, ready])
  rw [fresh] at run
  generalize v.serve n = t at run shape' buffer' ready' txSeq' rxExp' got'
  have tregs : t.regs = u.regs := by rw [shape', shape]
  refine ⟨t, ?_, ?_, ?_, ready', ?_, ?_, ?_, ?_, fun a away => ?_⟩
  · rw [run, shape', shape, frame]
    rfl
  · rw [State.on_congr (State.reg_of_regs tregs _), on]
  · rw [buffer', port, buffer]
  · rw [txSeq', port, txSeq]
  · rw [rxExp', port, rxExp]
  · rw [got', port, got]
  · rw [shape', shape, frame]
  · rw [State.reg_of_regs tregs, same a away]

theorem exec_alignLost (released : s.sys.released = true) : exec (.alignLost n) s = .next (if s.aligned n then s.keeps ((s.linkDown n).retrain n) else s) := by
  rw [exec, execAlignLost, State.onMain_keeps _ released]
  split <;> rfl

theorem exec_linkSilence (released : s.sys.released = true) (up : s.linkUp n = true) (silent : (s.kport n).lastGood + 50000 ≤ s.tb) :
    exec (.linkSilence n) s = .next (s.keeps ((s.linkDown n).retrain n)) := by
  rw [exec, execLinkSilence, State.onMain_keeps _ released, if_pos (by rw [up, decide_eq_true silent]; rfl)]

theorem State.linkDown_of_down {s : State} {n : Nat} (down : s.linkUp n = false) : s.linkDown n = s := by
  unfold State.linkDown
  rw [down]
  rfl

theorem State.retrain_off (s : State) (n : Fin 6) :
    (s.retrain n).on (KOL_PORT_STAT n) KOL_PORT_STAT_TRAINED = false ∧ (s.retrain n).on (KOL_PORT_STAT n) KOL_PORT_STAT_ALIGNED = false ∧ ((s.retrain n).kport n).stream = [] := by
  obtain ⟨trained, aligned, -, -, port, -⟩ := s.retrain_shows n
  exact ⟨trained, aligned, by rw [port]⟩

/-! ### Replays and keepalives (R423, R425) -/

theorem KPort.emits_shows (l : List (Nat × List Byte)) : ∀ p : KPort, l.foldl (fun p b => p.emit b.2) p =
    { p with sent := (l.map (·.2)).reverse ++ p.sent, stream := p.stream ++ (l.map (·.2)).flatten } := by
  induction l with
  | nil =>
    intro p
    simp
  | cons b l ih =>
    intro p
    rw [List.foldl_cons, ih]
    simp [KPort.emit]

theorem exec_ackStallReplay (released : s.sys.released = true) (some : (s.kport n).buffer ≠ []) (stall : (s.kport n).ackTb + 4000 ≤ s.tb) :
    ∃ t, exec (.ackStallReplay n) s = .next t ∧ (t.kport n).sent = ((s.kport n).buffer.map (·.2)).reverse ++ (s.kport n).sent ∧ (t.kport n).buffer = (s.kport n).buffer
      ∧ (t.kport n).stream = (s.kport n).stream ++ ((s.kport n).buffer.map (·.2)).flatten
      ∧ t.fld (KOL_LINK_ERR n) KOL_LINK_ERR_REPLAYS = min (s.fld (KOL_LINK_ERR n) KOL_LINK_ERR_REPLAYS + 1) (fmax KOL_LINK_ERR_REPLAYS)
      ∧ t = { s with regs := t.regs, kol := t.kol } := by
  obtain ⟨u, hu⟩ : ∃ u, u = s.incFld (KOL_LINK_ERR n) KOL_LINK_ERR_REPLAYS := ⟨_, rfl⟩
  have count : u.fld (KOL_LINK_ERR n) KOL_LINK_ERR_REPLAYS = min (s.fld (KOL_LINK_ERR n) KOL_LINK_ERR_REPLAYS + 1) (fmax KOL_LINK_ERR_REPLAYS) := by
    rw [hu]
    exact State.fld_incFld s _ 1 (by decide) (by decide)
  have frame : u = { s with regs := u.regs } := by
    rw [hu]
    rfl
  have kport : u.kport n = s.kport n := by
    rw [frame]
    rfl
  have port : (s.resend n).kport n = { s.kport n with sent := ((s.kport n).buffer.map (·.2)).reverse ++ (s.kport n).sent, ackTb := u.tb
                                                      stream := (s.kport n).stream ++ ((s.kport n).buffer.map (·.2)).flatten } := by
    unfold State.resend
    rw [← hu]
    dsimp only
    rw [State.kport_modKport_same, KPort.emits_shows, kport]
  have shape : s.resend n = { u with kol := (s.resend n).kol } := by
    unfold State.resend
    rw [← hu]
    rfl
  have run : exec (.ackStallReplay n) s = .next (s.keeps (s.resend n)) := by
    rw [exec, execAckStallReplay, State.onMain_keeps _ released]
    dsimp only
    rw [if_pos (by simp [some, stall])]
  generalize s.resend n = t at port shape run
  refine ⟨t, ?_, by rw [port], by rw [port], by rw [port], ?_, ?_⟩
  · rw [run, shape, frame]
    rfl
  · rw [← count]
    exact State.fld_congr (State.reg_of_regs (by rw [shape]) _) _
  · rw [shape, frame]

theorem exec_keepaliveSend_off (released : s.sys.released = true) (off : s.aligned n = false) : exec (.keepaliveSend n) s = .next s := by
  rw [exec, execKeepaliveSend, State.onMain_keeps _ released]
  dsimp only
  rw [if_pos (by rw [off]; rfl)]
  rfl

/-- What a KEEPALIVE says after its link command (R423). -/
def State.keepaliveBody (s : State) (n : Nat) : List Byte := leBytes 1 (s.addr?.getD 0) ++ leBytes 1 n ++ leBytes 1 (b2n s.addr?.isSome) ++ leBytes 8 (s.pair SYS_SERIAL_LO)

theorem exec_keepaliveSend (released : s.sys.released = true) (on : s.aligned n = true) :
    ∃ t f, exec (.keepaliveSend n) s = .next t ∧ (t.kport n).sent = f :: (s.kport n).sent ∧ t = { s with kol := t.kol }
      ∧ (t.kport n).stream = (s.kport n).stream ++ f
      ∧ flitGood f = true ∧ leAt f 4 1 = 1 ∧ leAt f 6 1 = n.val ∧ leAt f 7 1 = (if s.addr?.isSome then 1 else 0) ∧ leAt f 8 8 = s.pair SYS_SERIAL_LO := by
  obtain ⟨t, ht⟩ : ∃ t, t = s.modKport n (fun p => p.sendNull 1 (s.keepaliveBody n)) := ⟨_, rfl⟩
  have port : t.kport n = (s.kport n).sendNull 1 (s.keepaliveBody n) := by rw [ht, State.kport_modKport_same]
  have frame : t = { s with kol := t.kol } := by
    rw [ht]
    rfl
  have length : (s.keepaliveBody n).length = 11 := by simp [State.keepaliveBody, leBytes_length]
  have fits : (leBytes 1 1 ++ s.keepaliveBody n).length ≤ 248 := by
    rw [List.length_append, length, leBytes_length]
    decide
  rw [KPort.sendNull_shows] at port
  refine ⟨t, (s.kport n).nullFlit 1 (s.keepaliveBody n), ?_, by rw [port], frame, by rw [port], KPort.nullFlit_good .., KPort.nullFlit_lcmd _ _ (by decide) (by omega), ?_, ?_, ?_⟩
  · rw [exec, execKeepaliveSend, State.onMain_keeps _ released]
    dsimp only
    rw [if_neg (by rw [on]; decide)]
    show Host.Outcome.next (s.keeps (s.modKport n (fun p => p.sendNull 1 (s.keepaliveBody n)))) = _
    rw [← ht, frame]
    rfl
  · refine (leAt_mkFlit _ _ _ _ _ _ _ (before := leBytes 1 1 ++ leBytes 1 (s.addr?.getD 0)) (v := n.val) (after := leBytes 1 (b2n s.addr?.isSome) ++ leBytes 8 (s.pair SYS_SERIAL_LO))
      (by simp [State.keepaliveBody]) fits (by simp [leBytes_length])).trans (Nat.mod_eq_of_lt (by have := n.isLt; omega))
  · refine (leAt_mkFlit _ _ _ _ _ _ _ (before := leBytes 1 1 ++ leBytes 1 (s.addr?.getD 0) ++ leBytes 1 n.val) (v := b2n s.addr?.isSome) (after := leBytes 8 (s.pair SYS_SERIAL_LO))
      (by simp [State.keepaliveBody]) fits (by simp [leBytes_length])).trans ?_
    cases s.addr?.isSome <;> rfl
  · refine (leAt_mkFlit _ _ _ _ _ _ _ (before := leBytes 1 1 ++ leBytes 1 (s.addr?.getD 0) ++ leBytes 1 n.val ++ leBytes 1 (b2n s.addr?.isSome)) (v := s.pair SYS_SERIAL_LO) (after := [])
      (by simp [State.keepaliveBody]) fits (by simp [leBytes_length])).trans (Nat.mod_eq_of_lt (s.pair_lt _))

/-! ### Flits received (R424-R429) -/

theorem exec_flits (released : s.sys.released = true) (f : List Byte) :
    exec (.flitReceived n f) s = .next (s.keeps (s.flitIn n f)) ∧ exec (.idleFlit n f) s = .next (s.keeps (s.flitIn n f)) ∧ exec (.keepalive n f) s = .next (s.keeps (s.flitIn n f))
    ∧ exec (.replayReq n f) s = .next (s.keeps (s.flitIn n f)) := by
  refine ⟨?_, ?_, ?_, ?_⟩
  · rw [exec, execFlitReceived, State.onMain_keeps _ released]
  · rw [exec, execIdleFlit, State.onMain_keeps _ released]
  · rw [exec, execKeepalive, State.onMain_keeps _ released]
  · rw [exec, execReplayReq, State.onMain_keeps _ released]

theorem State.flitIn_off {f : List Byte} (off : s.aligned n = false) : s.flitIn n f = s := by
  unfold State.flitIn
  rw [if_pos (by rw [off]; rfl)]

/-- A flit on an aligned port whose CRC is bad. -/
theorem State.flitIn_bad {f : List Byte} (on : s.aligned n = true) (length : f.length = 256) (bad : flitGood f = false) :
    s.flitIn n f = if bit (leAt f 0 4) 29 then s.incFld (KOL_LINK_ERR n) KOL_LINK_ERR_CRC_BAD else (s.incFld (KOL_LINK_ERR n) KOL_LINK_ERR_CRC_BAD).discardFlit n := by
  unfold State.flitIn
  rw [if_neg (by simp [on, length])]
  dsimp only
  rw [if_pos (by rw [bad]; rfl)]

/-- The moment of the last good flit. -/
def State.heard (s : State) (n : Nat) : State := s.modKport n (fun p => { p with lastGood := s.tb })

theorem State.flitIn_null {f : List Byte} (on : s.aligned n = true) (length : f.length = 256) (good : flitGood f = true) (null : bit (leAt f 0 4) 29 = true) :
    s.flitIn n f = (s.heard n).nullIn n f := by
  unfold State.flitIn
  rw [if_neg (by simp [on, length])]
  dsimp only
  rw [if_neg (by rw [good]; decide), if_pos null]
  rfl

/-- The flit in order moves the expected sequence number on (R424). -/
def State.inOrder (s : State) (n : Nat) : State := s.modKport n (fun p => { p with rxExp := (p.rxExp + 1) % 4096, replayTb := none })

theorem State.flitIn_data {f : List Byte} (on : s.aligned n = true) (length : f.length = 256) (good : flitGood f = true) (data : bit (leAt f 0 4) 29 = false) :
    s.flitIn n f = if leAt f 0 4 / 2 ^ 17 % 4096 ≠ ((s.heard n).kport n).rxExp then (s.heard n).discardFlit n
      else (((((s.heard n).inOrder n).takeHeader n (leAt f 0 4)).routeFlit n (leAt f 0 4 / 2 ^ 30) ((f.take 252).drop 4)).tryUp n).serve n := by
  unfold State.flitIn
  rw [if_neg (by simp [on, length])]
  dsimp only
  rw [if_neg (by rw [good]; decide), if_neg (by rw [data]; decide)]
  rfl

theorem KPort.addCredit_rxExp (p : KPort) (vc k : Nat) : (p.addCredit vc k).rxExp = p.rxExp := by
  unfold KPort.addCredit
  split <;> rfl

theorem KPort.applyAck_rxExp (p : KPort) (tb ack : Nat) : (p.applyAck tb ack).rxExp = p.rxExp := by
  unfold KPort.applyAck
  split <;> rfl

theorem State.takeHeader_rxExp (s : State) (n h : Nat) : ((s.takeHeader n h).kport n).rxExp = (s.kport n).rxExp := by
  rw [State.takeHeader, State.kport_modKport_same, KPort.addCredit_rxExp, KPort.applyAck_rxExp]

/-- What a KEEPALIVE that came in shows of the neighbour (R423). -/
theorem State.keepaliveIn_shows (s : State) (n : Fin 6) (f : List Byte) :
    (s.keepaliveIn n f).fld (KOL_NEIGH n) KOL_NEIGH_ADDR = leAt f 5 1 ∧ (s.keepaliveIn n f).fld (KOL_NEIGH n) KOL_NEIGH_ADDR_VALID = leAt f 7 1 % 2
    ∧ ((s.keepaliveIn n f).kport n).neighSerial = some (leAt f 8 8) ∧ ((s.keepaliveIn n f).kport n).gotKeepalive = true
    ∧ (s.keepaliveIn n f).pair (KOL_NEIGH_SERIAL_LO n) = leAt f 8 8 := by
  obtain ⟨a, ha⟩ : ∃ a, a = ((s.setFld (KOL_NEIGH n) KOL_NEIGH_ADDR (leAt f 5 1)).setFld (KOL_NEIGH n) KOL_NEIGH_PORT (leAt f 6 1)).setFld (KOL_NEIGH n) KOL_NEIGH_ADDR_VALID (leAt f 7 1 % 2) :=
    ⟨_, rfl⟩
  have addr : a.fld (KOL_NEIGH n) KOL_NEIGH_ADDR = leAt f 5 1 := by
    rw [ha, State.fld_setFld_other _ _ _ _ _ (by decide) (by decide) (by decide), State.fld_setFld_other _ _ _ _ _ (by decide) (by decide) (by decide)]
    exact State.fld_setFld_fits s _ (by decide) (by decide) (leAt_lt f 5 1)
  have valid : a.fld (KOL_NEIGH n) KOL_NEIGH_ADDR_VALID = leAt f 7 1 % 2 := by
    rw [ha]
    exact State.fld_setFld_fits _ _ (by decide) (by decide) (Nat.mod_lt _ (by decide))
  obtain ⟨b, hb⟩ : ∃ b, b = (a.setPair (KOL_NEIGH_SERIAL_LO n) (leAt f 8 8)).modKport n (fun p => { p with neighSerial := some (leAt f 8 8), gotKeepalive := true }) := ⟨_, rfl⟩
  have neigh : b.reg (KOL_NEIGH n) = a.reg (KOL_NEIGH n) := by
    rw [hb]
    exact State.reg_setPair_ne a _ (by simp only [KOL_NEIGH, KOL_NEIGH_SERIAL_LO]; omega) (by simp only [KOL_NEIGH, KOL_NEIGH_SERIAL_LO]; omega)
  have serial : b.pair (KOL_NEIGH_SERIAL_LO n) = leAt f 8 8 := by
    rw [hb]
    exact (State.pair_setPair a _ _).trans (Nat.mod_eq_of_lt (leAt_lt f 8 8))
  have port : b.kport n = { a.kport n with neighSerial := some (leAt f 8 8), gotKeepalive := true } := by
    rw [hb]
    exact tget_tput_same ..
  obtain ⟨c, regs, ports, eq⟩ : ∃ c : State, c.regs = b.regs ∧ c.kol.ports = b.kol.ports ∧ (s.keepaliveIn n f = c ∨ s.keepaliveIn n f = c.raise (KOL_IRQ_STAT n) 2) := by
    unfold State.keepaliveIn
    dsimp only
    rw [← ha, ← hb]
    refine ⟨if leAt f 7 1 % 2 = 1 && b.addr?.isSome && !b.kol.huddle.map.any (fun d => d.serial.toNat == leAt f 8 8) then
      { b with kol := { b.kol with huddle := { b.kol.huddle with other := true } } } else b, ?_, ?_, (ite_eq_or_eq _ _ _).symm⟩
    · split <;> rfl
    · split <;> rfl
  have regs' : ∀ x, x ≠ KOL_IRQ_STAT n → (s.keepaliveIn n f).reg x = b.reg x := fun x ne => by
    rcases eq with eq | eq
    · rw [eq, State.reg_of_regs regs]
    · rw [eq, State.reg_raise_ne _ _ ne, State.reg_of_regs regs]
  have kport : (s.keepaliveIn n f).kport n = b.kport n := by
    have ports' : (s.keepaliveIn n f).kol.ports = b.kol.ports := by
      rcases eq with eq | eq
      · rw [eq, ports]
      · rw [eq, State.raise_eq]
        exact ports
    rw [State.kport, ports']
    rfl
  have ne : KOL_NEIGH n ≠ KOL_IRQ_STAT n ∧ KOL_NEIGH_SERIAL_LO n ≠ KOL_IRQ_STAT n ∧ KOL_NEIGH_SERIAL_LO n + 4 ≠ KOL_IRQ_STAT n := by
    simp only [KOL_NEIGH, KOL_NEIGH_SERIAL_LO, KOL_IRQ_STAT]
    omega
  refine ⟨?_, ?_, ?_, ?_, ?_⟩
  · rw [State.fld_congr ((regs' _ ne.1).trans neigh), addr]
  · rw [State.fld_congr ((regs' _ ne.1).trans neigh), valid]
  · rw [kport, port]
  · rw [kport, port]
  · rw [State.pair_congr (regs' _ ne.2.1) (regs' _ ne.2.2), serial]

/-! ### A link comes UP (R427) -/

theorem State.tryUp_up {s : State} {n : Nat} (up : s.linkUp n = true) : s.tryUp n = s := by
  unfold State.tryUp
  dsimp only
  rw [if_pos (by rw [up]; rfl)]

theorem State.tryUp_comes (down : s.linkUp n = false) (on : s.aligned n = true) (got : (s.kport n).gotKeepalive = true) (credits : ∀ v, v < 4 → v ∈ (s.kport n).seenCredit)
    (noAddr : s.addr? = none) :
    (s.tryUp n).linkUp n = true ∧ bit ((s.tryUp n).num (KOL_IRQ_STAT n)) 1 = true ∧ ((s.tryUp n).tport n).burst = 16
      ∧ s.tryUp n = { s with regs := (s.tryUp n).regs, msix := (s.tryUp n).msix, msixPend := (s.tryUp n).msixPend, tim := (s.tryUp n).tim } := by
  have all : (List.range 4).all (s.kport n).seenCredit.contains = true := List.all_eq_true.2 (fun v mem => List.contains_iff_mem.2 (credits v (List.mem_range.1 mem)))
  obtain ⟨u, hu⟩ : ∃ u, u = (s.setFld (KOL_PORT_STAT n) KOL_PORT_STAT_LINK_UP 1).raise (KOL_IRQ_STAT n) 1 := ⟨_, rfl⟩
  have up : u.on (KOL_PORT_STAT n) KOL_PORT_STAT_LINK_UP = true := by
    rw [hu, State.on_congr (State.reg_raise_ne _ _ (by simp only [KOL_PORT_STAT, KOL_IRQ_STAT]; omega))]
    exact State.on_setFld_one s _ (by decide) (by decide)
  have irq : bit (u.num (KOL_IRQ_STAT n)) 1 = true := by
    rw [hu]
    exact State.bit_raise _ _ (by decide)
  have frame : u = { s with regs := u.regs, msix := u.msix, msixPend := u.msixPend } := by
    rw [hu, State.raise_eq]
    rfl
  have addr : u.addr? = s.addr? := by
    have stat : u.reg KOL_STAT = s.reg KOL_STAT := by
      rw [hu, State.reg_raise_ne _ _ (by simp only [KOL_STAT, KOL_IRQ_STAT]; omega)]
      exact State.reg_setFld_ne _ _ _ (by simp only [KOL_STAT, KOL_PORT_STAT]; omega)
    rw [State.addr?, State.addr?, State.on_congr stat, State.fld_congr stat]
  have eq : s.tryUp n = u.modTport n (fun t => { t with burst := 16 }) := by
    unfold State.tryUp
    dsimp only
    rw [if_neg (by simp [down, on, got, all]), ← hu]
    have none_ : (u.modTport n (fun t => { t with burst := 16 })).addr? = none := by
      show u.addr? = none
      rw [addr, noAddr]
    rw [none_]
  rw [eq]
  refine ⟨?_, irq, ?_, ?_⟩
  · rw [State.linkUp_of_fin]
    exact up
  · exact congrArg TPort.burst (tget_tput_same ..)
  · rw [frame]
    rfl

end

/-- Settles O50: the port's operations one by one; a NULL flit's layout and the codeword's symbols come from the lemmas on bytes. -/
theorem linksAndFlits : Obligations.LinksAndFlits := by
  unfold Obligations.LinksAndFlits
  refine ⟨fun s n released => ⟨fun words untrained => exec_codeword_untrained released untrained words, fun w cw k trained decoded => codeword_corrected released trained decoded,
    fun w trained lost => codeword_lost released trained lost, (exec_trainingDone released).1, (exec_trainingDone released).2, exec_portAligned_held released, exec_portAligned_fresh released,
    exec_alignLost released, exec_linkSilence released, State.linkDown_of_down, s.retrain_off n, exec_ackStallReplay released, exec_keepaliveSend released, exec_keepaliveSend_off released,
    fun p pre enough => p.sendCodeword_shows pre enough⟩, fun s n f released => ?_⟩
  intro h u
  obtain ⟨flit, idle, keepalive, replay⟩ := exec_flits (s := s) (n := n) released f
  refine ⟨fun off => ?_, fun on length => ⟨fun bad data => ?_, fun bad null => ?_, fun good data out => ?_, fun good data order => ?_, fun good null => ⟨fun idle0 => ?_, fun alive => ?_, fun again => ?_⟩⟩,
    ⟨State.discardFlit_first, fun b asked soon => State.discardFlit_again asked soon⟩, State.tryUp_up, State.tryUp_comes⟩
  · rw [flit, idle, keepalive, replay, State.flitIn_off off]
    exact ⟨rfl, rfl, rfl, rfl⟩
  · rw [flit, State.flitIn_bad on length bad, if_neg (by rw [show bit (leAt f 0 4) 29 = false from data]; decide)]
  · rw [flit, State.flitIn_bad on length bad, if_pos null]
    rfl
  · rw [flit, State.flitIn_data on length good data, State.heard, State.kport_modKport_same, if_pos out]
  · refine ⟨((s.heard n).inOrder n).takeHeader n (leAt f 0 4), ?_, ?_, rfl⟩
    · rw [flit, State.flitIn_data on length good data, if_neg]
      rw [State.heard, State.kport_modKport_same]
      exact not_not.2 order
    · rw [State.takeHeader_rxExp, State.inOrder, State.kport_modKport_same, State.heard, State.kport_modKport_same]
  · rw [idle, State.flitIn_null on length good null, State.nullIn]
    rw [idle0]
    rfl
  · refine ⟨((s.heard n).takeHeader n (leAt f 0 4)).keepaliveIn n f, ?_, State.keepaliveIn_shows _ n f⟩
    rw [keepalive, State.flitIn_null on length good null, State.nullIn]
    rw [alive]
    rfl
  · rw [replay, State.flitIn_null on length good null, State.nullIn]
    rw [again]
    rfl

end Sys2Proof.Machine
end


section
/-! SUPPORT. O51: HELLO, root, levels, ASSIGN and REPORT. -/

namespace Sys2Proof.Machine

section
variable {s : State} {n : Fin 6}

/-! ### HELLO (R440) -/

/-- What has left the queue and Norentum alone is what the main domain's step leaves. -/
theorem State.keeps_of {s t : State} (pending : t.pending = s.pending) (met : t.met = s.met) : s.keeps t = t := by
  rw [State.keeps, ← pending, ← met]

theorem State.huddling_queue (s : State) (h : HuddleSt) {e : Nat} (fits : e < 65536) : (s.huddling h e).pending = s.pending ∧ (s.huddling h e).met = s.met := by
  obtain ⟨-, -, -, -, -, frame⟩ := s.huddling_shows h fits
  generalize s.huddling h e = u at frame
  rw [frame]
  exact ⟨rfl, rfl⟩

/-- The huddle that starts names this device's own candidate. -/
theorem State.startHuddle_lowest (s : State) (e : Nat) :
    ∃ h : HuddleSt, h.running = true ∧ h.lowest = (if s.rootElig then s.serial else 2 ^ 64 - 1) ∧ s.startHuddle e = s.huddling h e := by
  unfold State.startHuddle
  extract_lets _ h
  refine ⟨h, rfl, rfl, ?_⟩
  clear_value h
  rfl

/-- A HELLO of a later epoch starts the huddle of that epoch. -/
def State.followed (s : State) (n epoch : Nat) : State := if 0 < sdiff 16 epoch s.epoch then (s.took (256 + n) 0x01).startHuddle epoch else s.took (256 + n) 0x01

/-- The lowest candidate is kept. -/
def State.heardCandidate (u : State) (lowest : Nat) : State := if u.kol.huddle.lowest ≤ lowest then u else u.modHuddle (fun h => { h with lowest := lowest, lowestTb := u.tb })

theorem State.heardCandidate_shows (u : State) (lowest : Nat) : (u.heardCandidate lowest).kol.huddle.lowest = min u.kol.huddle.lowest lowest
    ∧ (u.heardCandidate lowest).kol.huddle.running = u.kol.huddle.running ∧ (u.heardCandidate lowest).regs = u.regs ∧ (u.heardCandidate lowest).pending = u.pending
    ∧ (u.heardCandidate lowest).met = u.met := by
  unfold State.heardCandidate
  split
  · rename_i keeps
    exact ⟨(Nat.min_eq_left keeps).symm, rfl, rfl, rfl, rfl⟩
  · rename_i lower
    exact ⟨(Nat.min_eq_right (Nat.le_of_not_le lower)).symm, rfl, rfl, rfl, rfl⟩

theorem exec_hello (released : s.sys.released = true) (serial : BitVec 64) (sport : BitVec 3) (epoch : BitVec 16) (lowest : BitVec 64) :
    exec (.hello n serial sport epoch lowest) s = .next (s.keeps (
      if !s.linkUp n then s.took (256 + n) 0x01
      else if sdiff 16 epoch.toNat s.epoch < 0 then s.followed n epoch.toNat
      else (s.followed n epoch.toNat).heardCandidate lowest.toNat)) := by
  rw [exec, execHello, State.onMain_keeps _ released]
  dsimp only
  refine congrArg (fun v => Host.Outcome.next (s.keeps v)) ?_
  change (if !s.linkUp n then s.took (256 + n) 0x01 else if sdiff 16 epoch.toNat s.epoch < 0 || (s.followed n epoch.toNat).kol.huddle.lowest ≤ lowest.toNat then s.followed n epoch.toNat
    else (s.followed n epoch.toNat).modHuddle (fun h => { h with lowest := lowest.toNat, lowestTb := (s.followed n epoch.toNat).tb })) = _
  unfold State.heardCandidate
  by_cases old : sdiff 16 epoch.toNat s.epoch < 0
  · simp [old]
  · simp [old]

theorem hello_ignored (released : s.sys.released = true) {serial : BitVec 64} {sport : BitVec 3} {epoch : BitVec 16} {lowest : BitVec 64}
    (stale : s.linkUp n = false ∨ sdiff 16 epoch.toNat s.epoch < 0 ∨ (sdiff 16 epoch.toNat s.epoch = 0 ∧ s.kol.huddle.lowest ≤ lowest.toNat)) :
    exec (.hello n serial sport epoch lowest) s = .next (s.took (256 + n) 0x01) := by
  rw [exec_hello released]
  by_cases down : s.linkUp n = false
  · rw [if_pos (by rw [down]; rfl)]
    rfl
  · have late : ¬ 0 < sdiff 16 epoch.toNat s.epoch := by
      rcases stale with h | h | ⟨h, -⟩
      · exact absurd h down
      · omega
      · omega
    have followed : s.followed n epoch.toNat = s.took (256 + n) 0x01 := if_neg late
    rw [if_neg (by simpa using down), followed]
    rcases stale with h | h | ⟨h, lower⟩
    · exact absurd h down
    · rw [if_pos h]
      rfl
    · rw [if_neg (by omega), State.heardCandidate]
      exact congrArg (fun v => Host.Outcome.next (s.keeps v)) (if_pos lower)

theorem hello_lower (released : s.sys.released = true) {serial : BitVec 64} {sport : BitVec 3} {epoch : BitVec 16} {lowest : BitVec 64} (up : s.linkUp n = true)
    (same : sdiff 16 epoch.toNat s.epoch = 0) (lower : lowest.toNat < s.kol.huddle.lowest) :
    ∃ t, exec (.hello n serial sport epoch lowest) s = .next t ∧ t.kol.huddle = { s.kol.huddle with lowest := lowest.toNat, lowestTb := s.tb } ∧ t = { s with kol := t.kol } := by
  have followed : s.followed n epoch.toNat = s.took (256 + n) 0x01 := if_neg (by omega)
  refine ⟨(s.took (256 + n) 0x01).modHuddle (fun h => { h with lowest := lowest.toNat, lowestTb := s.tb }), ?_, rfl, rfl⟩
  rw [exec_hello released, if_neg (by rw [up]; decide), if_neg (by omega : ¬ sdiff 16 epoch.toNat s.epoch < 0), followed, State.heardCandidate]
  exact congrArg (fun v => Host.Outcome.next (s.keeps v)) (if_neg (Nat.not_le.2 lower))

theorem hello_newer (released : s.sys.released = true) {serial : BitVec 64} {sport : BitVec 3} {epoch : BitVec 16} {lowest : BitVec 64} (up : s.linkUp n = true)
    (newer : 0 < sdiff 16 epoch.toNat s.epoch) :
    ∃ t, exec (.hello n serial sport epoch lowest) s = .next t ∧ t.epoch = epoch.toNat ∧ t.kol.huddle.running = true
      ∧ t.kol.huddle.lowest = min (if s.rootElig then s.serial else 2 ^ 64 - 1) lowest.toNat ∧ t.addr? = none := by
  obtain ⟨h, running, own, eq⟩ := (s.took (256 + n) 0x01).startHuddle_lowest epoch.toNat
  have fits : epoch.toNat < 65536 := epoch.isLt
  have followed : s.followed n epoch.toNat = (s.took (256 + n) 0x01).huddling h epoch.toNat := (if_pos newer).trans eq
  obtain ⟨huddle, shown, addr, -⟩ := (s.took (256 + n) 0x01).huddling_shows h fits
  obtain ⟨pending, met⟩ := (s.took (256 + n) 0x01).huddling_queue h fits
  have run := exec_hello (s := s) (n := n) released serial sport epoch lowest
  have elig : (s.took (256 + n) 0x01).rootElig = s.rootElig := rfl
  have serial' : (s.took (256 + n) 0x01).serial = s.serial := rfl
  rw [elig, serial'] at own
  rw [if_neg (by rw [up]; decide), if_neg (by omega : ¬ sdiff 16 epoch.toNat s.epoch < 0), followed] at run
  obtain ⟨lowest', running', regs, pending', met'⟩ := ((s.took (256 + n) 0x01).huddling h epoch.toNat).heardCandidate_shows lowest.toNat
  refine ⟨_, run.trans (congrArg Host.Outcome.next (State.keeps_of (pending'.trans pending) (met'.trans met))), ?_, ?_, ?_, ?_⟩
  · rw [State.epoch, State.fld_congr (State.reg_of_regs regs _), shown]
  · rw [running', huddle, running]
  · rw [lowest', huddle, own]
  · rw [State.addr?, State.on_congr (State.reg_of_regs regs _), addr]
    rfl

/-! ### The root (R440, R441) -/

/-- This device is the candidate, and has been the lowest for 1 ms. -/
def State.lowestHere (s : State) : Prop := s.rootElig = true ∧ s.kol.huddle.lowest = s.serial ∧ s.kol.huddle.lowestTb + 1000000 ≤ s.tb

/-- Root at address 0, with its own report. -/
def State.rooted (s : State) : State :=
  let s := (s.setFld KOL_STAT KOL_STAT_ROOT 1).setFld KOL_STAT KOL_STAT_ADDR 0
  s.modHuddle (fun h => { h with level := 0, levelFrom := 0, nextAddr := 1, known := [(0, s.serial)], reports := [(s.serial, s.ownReport)], dones := [] })

open Classical in
theorem exec_huddleRootStart (released : s.sys.released = true) :
    exec .huddleRootStart s = .next (s.keeps (
      if s.lowestHere ∧ s.kol.huddle.other = true ∧ s.upPorts ≠ [] then s.startHuddle ((s.epoch + 1) % 65536)
      else if ¬ (s.lowestHere ∨ (s.upPorts = [] ∧ s.kol.huddle.running = true)) ∨ s.addr?.isSome = true ∨ s.on KOL_STAT KOL_STAT_ROOT = true then s
      else if s.kol.huddle.running = false ∨ s.neighAddressed = true then s.startHuddle ((s.epoch + 1) % 65536)
      else s.rooted.levelStep)) := by
  rw [exec, execHuddleRootStart, State.onMain_keeps _ released]
  dsimp only
  have here : (s.rootElig && s.kol.huddle.lowest == s.serial && decide (s.kol.huddle.lowestTb + 1000000 ≤ s.tb)) = decide s.lowestHere := by
    rw [Bool.eq_iff_iff]
    simp only [Bool.and_eq_true, beq_iff_eq, decide_eq_true_eq, and_assoc]
    exact Iff.rfl
  rw [here]
  refine congrArg (fun v => Host.Outcome.next (s.keeps v)) ?_
  by_cases h1 : s.lowestHere ∧ s.kol.huddle.other = true ∧ s.upPorts ≠ []
  · rw [if_pos h1, if_pos (by simp [h1])]
  · rw [if_neg h1, if_neg (by
      simp only [Bool.and_eq_true, decide_eq_true_eq]
      exact fun h => h1 ⟨h.1.1, h.1.2, h.2⟩)]
    by_cases h2 : ¬ (s.lowestHere ∨ (s.upPorts = [] ∧ s.kol.huddle.running = true)) ∨ s.addr?.isSome = true ∨ s.on KOL_STAT KOL_STAT_ROOT = true
    · rw [if_pos h2, if_pos]
      simp only [not_or] at h2
      simpa [or_assoc, imp_iff_not_or] using h2
    · rw [if_neg h2, if_neg]
      · by_cases h3 : s.kol.huddle.running = false ∨ s.neighAddressed = true
        · rw [if_pos h3, if_pos (by simpa using h3)]
        · rw [if_neg h3, if_neg (by simpa using h3)]
          rfl
      · simp only [not_or] at h2
        simpa [or_assoc, imp_iff_not_or] using h2

end

end Sys2Proof.Machine
end


section
/-! SUPPORT. O51: levels, ASSIGN and REPORT, MAP and DONE. -/

namespace Sys2Proof.Machine

section
variable {s : State} {n : Fin 6}

/-! ### The root's first level (R441) -/

/-- What other registers show of this device's serial number and of its neighbours. -/
theorem State.serial_report_congr {s u : State} (regs : ∀ a, a ≠ KOL_STAT → u.reg a = s.reg a) : u.serial = s.serial ∧ u.ownReport = s.ownReport := by
  have upOf (p : Nat) : u.linkUp p = s.linkUp p := by
    rw [State.linkUp, State.linkUp]
    by_cases small : p < 6
    · rw [State.on_congr (regs _ (by simp only [KOL_PORT_STAT, KOL_STAT]; omega))]
    · simp [small]
  have up : u.upPorts = s.upPorts := List.filter_congr (fun p _ => upOf p)
  refine ⟨State.pair_congr (regs _ (by decide)) (regs _ (by decide)), ?_⟩
  rw [State.ownReport, State.ownReport, up]
  refine List.map_congr_left (fun p mem => ?_)
  have small : p < 6 := List.mem_range.1 (List.mem_filter.1 mem).1
  rw [State.pair_congr (regs _ (by simp only [KOL_NEIGH_SERIAL_LO, KOL_STAT]; omega)) (regs _ (by simp only [KOL_NEIGH_SERIAL_LO, KOL_STAT]; omega)),
    State.fld_congr (regs _ (by simp only [KOL_NEIGH, KOL_STAT]; omega))]

theorem State.rooted_shows (s : State) : s.rooted.on KOL_STAT KOL_STAT_ROOT = true ∧ s.rooted.fld KOL_STAT KOL_STAT_ADDR = 0 ∧ s.rooted.kol.huddle.known = [(0, s.serial)]
    ∧ s.rooted.kol.huddle.reports = [(s.serial, s.ownReport)] ∧ s.rooted.kol.huddle.nextAddr = 1 ∧ s.rooted.kol.huddle.level = 0 := by
  obtain ⟨u, hu⟩ : ∃ u, u = (s.setFld KOL_STAT KOL_STAT_ROOT 1).setFld KOL_STAT KOL_STAT_ADDR 0 := ⟨_, rfl⟩
  have regs : ∀ a, a ≠ KOL_STAT → u.reg a = s.reg a := fun a ne => by rw [hu, State.reg_setFld_ne _ _ _ ne, State.reg_setFld_ne _ _ _ ne]
  have root : u.on KOL_STAT KOL_STAT_ROOT = true := by
    rw [hu, State.on_setFld_other _ _ _ (by decide) (by decide) (by decide)]
    exact State.on_setFld_one s _ (by decide) (by decide)
  have addr : u.fld KOL_STAT KOL_STAT_ADDR = 0 := by
    rw [hu]
    exact State.fld_setFld_fits _ _ (by decide) (by decide) (by decide)
  obtain ⟨serial, report⟩ := State.serial_report_congr regs
  have eq : s.rooted = u.modHuddle (fun h => { h with level := 0, levelFrom := 0, nextAddr := 1, known := [(0, u.serial)], reports := [(u.serial, u.ownReport)], dones := [] }) := by
    rw [hu]
    rfl
  rw [eq, serial, report]
  exact ⟨root, addr, rfl, rfl, rfl, rfl⟩

theorem State.modHuddle_regs (s : State) (f : HuddleSt → HuddleSt) : (s.modHuddle f).regs = s.regs := rfl

theorem State.modHuddle_congr {s u : State} {f g : HuddleSt → HuddleSt} (kol : u.kol = s.kol) (h : f s.kol.huddle = g s.kol.huddle) : u.modHuddle f = u.modHuddle g := by
  unfold State.modHuddle
  rw [kol, h]

/-! ### Levels (R441, R443) -/

/-- The REPORTs of the devices of the level are there. -/
def HuddleSt.reported (h : HuddleSt) : Bool := (h.known.filter (fun k => h.levelFrom ≤ k.1)).all (fun k => (h.reportOf k.2).isSome)

/-- The addresses left for the next level. -/
def HuddleSt.room (h : HuddleSt) : Nat := if 16 ≤ h.level then 0 else 256 - h.nextAddr

theorem State.levelStep_waits {s : State} (missing : s.kol.huddle.reported = false) : s.levelStep = s := by
  unfold State.levelStep
  exact if_pos (by simpa [HuddleSt.reported] using congrArg (!·) missing)

theorem State.levelStep_goes {s : State} (there : s.kol.huddle.reported = true) :
    s.levelStep = if s.kol.huddle.candidates.take s.kol.huddle.room = [] then (if s.kol.huddle.room < s.kol.huddle.candidates.length then s.setFld KOL_STAT KOL_STAT_OVERFLOW 1 else s).sendMap
      else (List.range (s.kol.huddle.candidates.take s.kol.huddle.room).length).foldl (fun v k => v.sendAssign ((s.kol.huddle.candidates.take s.kol.huddle.room).getD k 0) (s.kol.huddle.nextAddr + k))
        ((if s.kol.huddle.room < s.kol.huddle.candidates.length then s.setFld KOL_STAT KOL_STAT_OVERFLOW 1 else s).modHuddle (fun h =>
          { h with level := h.level + 1, levelFrom := h.nextAddr, nextAddr := h.nextAddr + (s.kol.huddle.candidates.take s.kol.huddle.room).length })) := by
  unfold State.levelStep
  dsimp only
  rw [if_neg]
  · rfl
  · rw [show (s.kol.huddle.known.filter (fun k => s.kol.huddle.levelFrom ≤ k.1)).all (fun k => (s.kol.huddle.reportOf k.2).isSome) = true from there]
    decide

theorem State.levelStep_fits (there : s.kol.huddle.reported = true) (some : s.kol.huddle.candidates ≠ []) (low : s.kol.huddle.level < 16)
    (fits : s.kol.huddle.candidates.length ≤ 256 - s.kol.huddle.nextAddr) :
    s.levelStep = (List.range s.kol.huddle.candidates.length).foldl (fun v k => v.sendAssign (s.kol.huddle.candidates.getD k 0) (s.kol.huddle.nextAddr + k))
      (s.modHuddle (fun h => { h with level := h.level + 1, levelFrom := h.nextAddr, nextAddr := h.nextAddr + s.kol.huddle.candidates.length })) := by
  have room : s.kol.huddle.room = 256 - s.kol.huddle.nextAddr := if_neg (by omega)
  have all : s.kol.huddle.candidates.take s.kol.huddle.room = s.kol.huddle.candidates := List.take_of_length_le (by rw [room]; exact fits)
  rw [State.levelStep_goes there, all, if_neg some, if_neg (by rw [room]; omega)]

theorem State.levelStep_last (there : s.kol.huddle.reported = true) :
    (s.kol.huddle.candidates = [] → s.levelStep = s.sendMap)
    ∧ (s.kol.huddle.candidates ≠ [] → 16 ≤ s.kol.huddle.level ∨ 256 ≤ s.kol.huddle.nextAddr → s.levelStep = (s.setFld KOL_STAT KOL_STAT_OVERFLOW 1).sendMap)
    ∧ (s.kol.huddle.level < 16 → s.kol.huddle.nextAddr < 256 → 256 - s.kol.huddle.nextAddr < s.kol.huddle.candidates.length →
      s.levelStep = (List.range (256 - s.kol.huddle.nextAddr)).foldl (fun v k => v.sendAssign (s.kol.huddle.candidates.getD k 0) (s.kol.huddle.nextAddr + k))
        ((s.setFld KOL_STAT KOL_STAT_OVERFLOW 1).modHuddle (fun h => { h with level := h.level + 1, levelFrom := h.nextAddr, nextAddr := 256 }))) := by
  have eq := State.levelStep_goes there
  refine ⟨fun none => ?_, fun some full => ?_, fun low open_ most => ?_⟩
  · rw [eq, none, List.take_nil, if_pos rfl, if_neg (by simp)]
  · have room : s.kol.huddle.room = 0 := by
      unfold HuddleSt.room
      split
      · rfl
      · omega
    rw [eq, room, List.take_zero, if_pos rfl, if_pos (List.length_pos_iff.2 some)]
  · have room : s.kol.huddle.room = 256 - s.kol.huddle.nextAddr := if_neg (by omega)
    have top : s.kol.huddle.nextAddr + (256 - s.kol.huddle.nextAddr) = 256 := by omega
    have pos : 0 < 256 - s.kol.huddle.nextAddr := by omega
    generalize 256 - s.kol.huddle.nextAddr = left at room top pos most ⊢
    have length : (s.kol.huddle.candidates.take left).length = left := by
      rw [List.length_take]
      omega
    have some : s.kol.huddle.candidates.take left ≠ [] := fun none => by
      rw [none, List.length_nil] at length
      omega
    have next : (s.setFld KOL_STAT KOL_STAT_OVERFLOW 1).modHuddle (fun h => { h with level := h.level + 1, levelFrom := h.nextAddr, nextAddr := h.nextAddr + left })
        = (s.setFld KOL_STAT KOL_STAT_OVERFLOW 1).modHuddle (fun h => { h with level := h.level + 1, levelFrom := h.nextAddr, nextAddr := 256 }) :=
      State.modHuddle_congr (State.setReg_kol ..) (congrArg (fun k => { s.kol.huddle with level := s.kol.huddle.level + 1, levelFrom := s.kol.huddle.nextAddr, nextAddr := k }) top)
    rw [eq, room, if_neg some, if_pos most, length, next]
    refine List.foldl_ext _ _ _ (fun v k mem => ?_)
    have inside : k < left := List.mem_range.1 mem
    have same : (s.kol.huddle.candidates.take left).getD k 0 = s.kol.huddle.candidates.getD k 0 := by
      rw [List.getD_eq_getElem?_getD, List.getD_eq_getElem?_getD, List.getElem?_take_of_lt inside]
    rw [same]

/-! ### ASSIGN and REPORT (R441) -/

/-- This device takes an address, and the port of the ASSIGN leads to the root. -/
def State.assigned (s : State) (n addr : Nat) : State := (s.setFld KOL_STAT KOL_STAT_ADDR addr).modHuddle (fun h => { h with parentPort := some n })

theorem State.assigned_shows (s : State) (n : Nat) {addr : Nat} (small : addr < 256) : (s.assigned n addr).fld KOL_STAT KOL_STAT_ADDR = addr
    ∧ (s.assigned n addr).kol.huddle.parentPort = some n ∧ ∀ a, a ≠ KOL_STAT → (s.assigned n addr).reg a = s.reg a :=
  have regs (a : Nat) : (s.assigned n addr).reg a = (s.setFld KOL_STAT KOL_STAT_ADDR addr).reg a := State.reg_of_regs (State.modHuddle_regs ..) a
  ⟨(State.fld_congr (regs _) _).trans (State.fld_setFld_fits s KOL_STAT (by decide) (by decide) (lt_of_lt_of_eq small (by decide))), rfl,
    fun a ne => (regs a).trans (State.reg_setFld_ne s _ _ ne)⟩

theorem exec_assign (released : s.sys.released = true) (serial : BitVec 64) (addr : BitVec 8) (epoch : BitVec 16) :
    exec (.assign n serial addr epoch) s = .next (s.keeps (
      if !s.linkUp n || !s.kol.huddle.running || s.on KOL_STAT KOL_STAT_ROOT || epoch.toNat != s.epoch then s.took (256 + n) 0x02
      else if serial.toNat = s.serial then
        ((s.took (256 + n) 0x02).assigned n addr.toNat).sendReport ((s.took (256 + n) 0x02).assigned n addr.toNat).serial ((s.took (256 + n) 0x02).assigned n addr.toNat).ownReport
      else (s.took (256 + n) 0x02).sendAssign serial.toNat addr.toNat)) := by
  rw [exec, execAssign, State.onMain_keeps _ released]
  rfl

/-- This device takes an ASSIGN of the epoch that runs. -/
theorem assign_clauses (released : s.sys.released = true) (serial : BitVec 64) (addr : BitVec 8) (epoch : BitVec 16) :
    let takes := s.linkUp n = true ∧ s.kol.huddle.running = true ∧ s.on KOL_STAT KOL_STAT_ROOT = false ∧ epoch.toNat = s.epoch
    (¬takes → exec (.assign n serial addr epoch) s = .next (s.took (256 + n) 0x02)) ∧ (takes →
      (serial.toNat = s.serial → ∃ v : State, exec (.assign n serial addr epoch) s = .next (s.keeps (v.sendReport s.serial s.ownReport)) ∧ v.fld KOL_STAT KOL_STAT_ADDR = addr.toNat
        ∧ v.kol.huddle.parentPort = some n.val)
      ∧ (serial.toNat ≠ s.serial → exec (.assign n serial addr epoch) s = .next (s.keeps ((s.took (256 + n) 0x02).sendAssign serial.toNat addr.toNat)))) := by
  intro takes
  have run := exec_assign (n := n) released serial addr epoch
  refine ⟨fun refused => ?_, fun takes => ?_⟩
  · rw [run, if_pos]
    · rfl
    · by_contra h
      simp only [Bool.or_eq_true, Bool.not_eq_true', bne_iff_ne, not_or, Bool.not_eq_false, Bool.not_eq_true, not_not] at h
      exact refused ⟨h.1.1.1, h.1.1.2, h.1.2, h.2⟩
  · obtain ⟨up, running, notRoot, current⟩ := takes
    rw [if_neg (by simp [up, running, notRoot, current])] at run
    refine ⟨fun mine => ?_, fun other => by rw [run, if_neg other]⟩
    rw [if_pos mine] at run
    obtain ⟨shown, parent, regs⟩ := (s.took (256 + n) 0x02).assigned_shows n (show addr.toNat < 256 from addr.isLt)
    obtain ⟨serial', report⟩ := State.serial_report_congr (s := s) (fun a ne => (regs a ne).trans rfl)
    rw [serial', report] at run
    exact ⟨_, run, shown, parent⟩

/-- A REPORT that came in is kept. -/
theorem report_clauses (released : s.sys.released = true) (serial : BitVec 64) (neigh : List NeighRep) :
    (s.linkUp n = false ∨ s.kol.huddle.running = false → exec (.report n serial neigh) s = .next (s.took (256 + n) 0x03)) ∧ (s.linkUp n = true → s.kol.huddle.running = true →
    ∃ v : State, v.kol.huddle.reportOf serial.toNat = some neigh ∧ v = { s with kol := v.kol }
      ∧ (s.on KOL_STAT KOL_STAT_ROOT = true → exec (.report n serial neigh) s = .next (s.keeps v.levelStep))
      ∧ (s.on KOL_STAT KOL_STAT_ROOT = false → exec (.report n serial neigh) s = .next (s.keeps (v.sendReport serial.toNat neigh)))) := by
  obtain ⟨v, hv⟩ : ∃ v, v = (s.took (256 + n) 0x03).modHuddle (fun h =>
      { h with via := (serial.toNat, n.val) :: h.via.filter (fun v => v.1 != serial.toNat), reports := (serial.toNat, neigh) :: h.reports.filter (fun r => r.1 != serial.toNat) }) := ⟨_, rfl⟩
  have run : exec (.report n serial neigh) s = .next (s.keeps (if !s.linkUp n || !s.kol.huddle.running then s.took (256 + n) 0x03
      else if s.on KOL_STAT KOL_STAT_ROOT then v.levelStep else v.sendReport serial.toNat neigh)) := by
    rw [exec, execReport, State.onMain_keeps _ released, hv]
    rfl
  refine ⟨fun held => ?_, fun up running => ⟨v, ?_, ?_, fun root => ?_, fun other => ?_⟩⟩
  · rw [run, if_pos (by rcases held with h | h <;> simp [h])]
    rfl
  · rw [hv]
    simp [State.modHuddle, HuddleSt.reportOf]
  · rw [hv]
    rfl
  · rw [run, if_neg (by simp [up, running]), if_pos root]
  · rw [run, if_neg (by simp [up, running]), if_neg (by rw [other]; decide)]

end

end Sys2Proof.Machine
end


section
/-! SUPPORT. O51: MAP, DONE, and the end of the huddle. -/

namespace Sys2Proof.Machine

/-! ### Floods (R435) -/

/-- Nothing but the fabric's state and the time unit's differs, and the floods done are the same. -/
def State.Floods (s t : State) : Prop := t = { s with kol := t.kol, tim := t.tim } ∧ t.kol.floodDone = s.kol.floodDone

namespace State.Floods

variable {s t u : State}

theorem refl (s : State) : s.Floods s := ⟨rfl, rfl⟩

theorem trans (h : s.Floods t) (h' : t.Floods u) : s.Floods u := by
  obtain ⟨frame, done⟩ := h
  obtain ⟨frame', done'⟩ := h'
  refine ⟨?_, done'.trans done⟩
  rw [frame] at frame'
  exact frame'

theorem foldl {β : Type} {f : State → β → State} (step : ∀ (v : State) b, v.Floods (f v b)) (l : List β) (s : State) : s.Floods (l.foldl f s) := by
  induction l generalizing s with
  | nil => exact refl s
  | cons b l ih => exact (step s b).trans (ih _)

end State.Floods

theorem State.modKport_floods (s : State) (n : Nat) (f : KPort → KPort) : s.Floods (s.modKport n f) := ⟨rfl, rfl⟩

theorem State.setKport_floods (s : State) (n : Nat) (p : KPort) : s.Floods (s.setKport n p) := ⟨rfl, rfl⟩

theorem State.bumpMsg_floods (s : State) : s.Floods s.bumpMsg := ⟨rfl, rfl⟩

theorem State.timeSent_floods (s : State) (n : Nat) (f : RFlit) : s.Floods (s.timeSent n f) := by
  have next (k : Nat) : s.Floods ((s.modKport n (fun p => { p with ready := p.ready ++ s.msgFlits 0 0 1 vcTime (timeMsg 0 k (leAt f.data 33 1) (leAt f.data 34 2) s.now (s.txStamp n s.now)) })).bumpMsg) :=
    (s.modKport_floods n _).trans (State.bumpMsg_floods _)
  unfold State.timeSent
  dsimp only
  split
  · exact State.Floods.refl s
  · split
    · exact next 2
    · split
      · exact next 5
      · split
        · exact ⟨rfl, rfl⟩
        · exact State.Floods.refl s

theorem State.freeBuffer_floods (s : State) (n vc : Nat) : s.Floods (s.freeBuffer n vc) := by
  unfold State.freeBuffer
  split
  · exact s.modKport_floods n _
  · exact State.Floods.refl s

theorem State.sendOne_floods (s : State) (n : Nat) : s.Floods (s.sendOne n) := by
  unfold State.sendOne
  dsimp only
  split
  · exact State.Floods.refl s
  · split
    · exact State.Floods.refl s
    · split
      · exact State.Floods.refl s
      · split
        · exact ((s.setKport_floods n _).trans (State.timeSent_floods _ n _)).trans (State.freeBuffer_floods _ _ _)
        · exact (s.setKport_floods n _).trans (State.timeSent_floods _ n _)

theorem State.pumpN_floods (n k : Nat) : ∀ s : State, s.Floods (State.pumpN k n s) := by
  induction k with
  | zero => exact State.Floods.refl
  | succ k ih => exact fun s => (s.sendOne_floods n).trans (ih _)

theorem State.queueFlits_floods (s : State) (n : Nat) (fs : List RFlit) : s.Floods (s.queueFlits n fs) := (s.modKport_floods n _).trans (State.pumpN_floods n _ _)

theorem State.forwardFlood_floods (s : State) (n src vc : Nat) (data : List Byte) : s.Floods (s.forwardFlood n src vc data) :=
  (State.Floods.foldl (fun v _ => v.queueFlits_floods _ _) _ s).trans (State.bumpMsg_floods _)

/-- A flood that comes for the first time, as it is remembered and passed on. -/
def State.flooded (s : State) (n src seq vc : Nat) (data : List Byte) : State :=
  let s := s.took src (leAt data 0 1)
  let seen := s.kol.floodSeen.contains (src, seq)
  let s := { s with kol := { s.kol with floodDone := ((src, seq) :: s.kol.floodDone).take floodMemory
                                        floodSeen := if seen then s.kol.floodSeen else ((src, seq) :: s.kol.floodSeen).take floodMemory } }
  if seen then s else s.forwardFlood n src vc data

theorem State.flooded_shows (s : State) (n src seq vc : Nat) (data : List Byte) :
    s.flooded n src seq vc data = { s with kol := (s.flooded n src seq vc data).kol, tim := (s.flooded n src seq vc data).tim }
    ∧ (s.flooded n src seq vc data).kol.floodDone = ((src, seq) :: s.kol.floodDone).take floodMemory := by
  unfold State.flooded
  dsimp only
  obtain ⟨v, hv⟩ : ∃ v : State, v = { s.took src (leAt data 0 1) with kol := { (s.took src (leAt data 0 1)).kol with
      floodDone := ((src, seq) :: (s.took src (leAt data 0 1)).kol.floodDone).take floodMemory
      floodSeen := if (s.took src (leAt data 0 1)).kol.floodSeen.contains (src, seq) then (s.took src (leAt data 0 1)).kol.floodSeen
        else ((src, seq) :: (s.took src (leAt data 0 1)).kol.floodSeen).take floodMemory } } := ⟨_, rfl⟩
  have frame : v = { s with kol := v.kol } := by
    rw [hv]
    rfl
  have done : v.kol.floodDone = ((src, seq) :: s.kol.floodDone).take floodMemory := by
    rw [hv]
    rfl
  rw [← hv]
  split
  · exact ⟨by rw [frame], done⟩
  · obtain ⟨frame', done'⟩ := v.forwardFlood_floods n src vc data
    refine ⟨?_, done'.trans done⟩
    rw [frame', frame]

/-- A flood that is taken (R435, R444). -/
theorem State.floodIn_first {s : State} {n src seq vc : Nat} {data : List Byte} (f : State → State) (up : s.linkUp n = true) (other : s.addr? ≠ some src)
    (takes : (s.addr?.isNone && !s.kol.huddle.running) = false) (new : s.kol.floodDone.contains (src, seq) = false) :
    s.floodIn n src seq vc data f = f (s.flooded n src seq vc data) := by
  unfold State.floodIn
  dsimp only
  rw [if_neg]
  · rfl
  · have up' : (s.took src (leAt data 0 1)).linkUp n = true := up
    have other' : (s.took src (leAt data 0 1)).addr? ≠ some src := other
    have takes' : ((s.took src (leAt data 0 1)).addr?.isNone && !(s.took src (leAt data 0 1)).kol.huddle.running) = false := takes
    have new' : (s.took src (leAt data 0 1)).kol.floodDone.contains (src, seq) = false := new
    rw [up', takes', new', beq_eq_false_iff_ne.2 other']
    decide

/-- A flood taken is remembered. -/
theorem flood_remembered (src seq : Nat) (l : List (Nat × Nat)) : (((src, seq) :: l).take floodMemory).contains (src, seq) = true := by
  rw [show floodMemory = 32767 + 1 from rfl, List.take_succ_cons]
  simp

/-! ### The map (R436, R442) -/

theorem State.setRoutes_shows (s : State) : s.RegsOnly s.setRoutes ∧ ∀ a, a < 0x881000 → s.setRoutes.reg a = s.reg a := by
  have fold (f : Nat → Word) (l : List Nat) : ∀ v : State, v.RegsOnly (l.foldl (fun s d => s.setReg (KOL_ROUTE d) (f d)) v)
      ∧ ∀ a, a < 0x881000 → (l.foldl (fun s d => s.setReg (KOL_ROUTE d) (f d)) v).reg a = v.reg a := by
    induction l with
    | nil => exact fun v => ⟨State.RegsOnly.refl v, fun _ _ => rfl⟩
    | cons d l ih =>
      intro v
      obtain ⟨only, regs⟩ := ih (v.setReg (KOL_ROUTE d) (f d))
      refine ⟨((State.RegsOnly.refl v).setReg _ _).trans only, fun a below => (regs a below).trans (State.reg_setReg_ne v _ ?_)⟩
      simp only [KOL_ROUTE]
      omega
  unfold State.setRoutes
  split
  · exact fold _ _ s
  · exact fold _ _ s

/-- The map is taken, and what was known of other addresses forgotten. -/
def State.mapTaken (s : State) (devs : List MapDev) : State :=
  let s := { s with kol := { s.kol with down := [], adverts := [] }, tim := { s.tim with announcers := [] } }
  (s.modHuddle (fun h => { h with map := devs })).setFld KOL_DEVICES KOL_DEVICES_DEVICES devs.length

theorem State.applyMap_found {s : State} {devs : List MapDev} {d : MapDev} (found : devs.find? (fun d => d.serial.toNat == s.serial) = some d) :
    s.applyMap devs = (((((s.mapTaken devs).setFld KOL_STAT KOL_STAT_ADDR d.addr).setFld KOL_STAT KOL_STAT_ADDR_VALID 1).setRoutes).parentCheck false, true) := by
  have serial : (s.mapTaken devs).serial = s.serial := State.pair_congr (State.reg_setFld_ne _ _ _ (by decide)) (State.reg_setFld_ne _ _ _ (by decide))
  have eq : s.applyMap devs = match devs.find? (fun d => d.serial.toNat == (s.mapTaken devs).serial) with
      | some d => (((((s.mapTaken devs).setFld KOL_STAT KOL_STAT_ADDR d.addr).setFld KOL_STAT KOL_STAT_ADDR_VALID 1).setRoutes).parentCheck false, true)
      | none => (((s.mapTaken devs).setRoutes).parentCheck false, false) := rfl
  rw [eq, serial, found]

theorem State.applyMap_shows {s : State} {devs : List MapDev} {d : MapDev} (found : devs.find? (fun d => d.serial.toNat == s.serial) = some d) :
    ∃ v, s.applyMap devs = (v, true) ∧ v.addr? = some (d.addr % 256) ∧ v.kol.huddle.map = devs ∧ v.kol.down = [] ∧ v.kol.adverts = [] := by
  obtain ⟨t, ht⟩ : ∃ t, t = s.mapTaken devs := ⟨_, rfl⟩
  have kol : t.kol.huddle.map = devs ∧ t.kol.down = [] ∧ t.kol.adverts = [] := by
    rw [ht]
    exact ⟨rfl, rfl, rfl⟩
  obtain ⟨u, hu⟩ : ∃ u, u = (t.setFld KOL_STAT KOL_STAT_ADDR d.addr).setFld KOL_STAT KOL_STAT_ADDR_VALID 1 := ⟨_, rfl⟩
  have addr : u.fld KOL_STAT KOL_STAT_ADDR = d.addr % 256 := by
    rw [hu, State.fld_setFld_other _ _ _ _ _ (by decide) (by decide) (by decide)]
    exact State.fld_setFld_same t KOL_STAT KOL_STAT_ADDR d.addr (by decide) (by decide)
  have valid : u.on KOL_STAT KOL_STAT_ADDR_VALID = true := by
    rw [hu]
    exact State.on_setFld_one _ _ (by decide) (by decide)
  have only : t.RegsOnly u := by
    rw [hu]
    exact ((State.RegsOnly.refl t).setFld ..).setFld ..
  obtain ⟨only', regs'⟩ := u.setRoutes_shows
  obtain ⟨same, frame⟩ := u.setRoutes.parentCheck_shows
  have eq : s.applyMap devs = (u.setRoutes.parentCheck false, true) := by rw [State.applyMap_found found, ← ht, ← hu]
  generalize u.setRoutes.parentCheck false = v at same frame eq
  have stat : v.reg KOL_STAT = u.reg KOL_STAT := (same _ (by decide)).trans (regs' _ (by decide))
  have kept : v.kol = t.kol := by
    rw [frame]
    exact (only'.same State.kol (fun _ _ => rfl)).trans (only.same State.kol (fun _ _ => rfl))
  refine ⟨v, eq, ?_, ?_⟩
  · rw [State.addr?, State.on_congr stat, State.fld_congr stat, valid, addr]
    rfl
  · rw [kept]
    exact kol

end Sys2Proof.Machine
end


section
/-! SUPPORT. O51 settled: the huddle and its end. -/

namespace Sys2Proof.Machine

section
variable {s : State} {n : Fin 6} {src : BitVec 8} {seq : BitVec 16}

/-! ### The root starts (R440, R441) -/

theorem huddleRootStart_clauses (released : s.sys.released = true) :
    let lowest := s.rootElig = true ∧ s.kol.huddle.lowest = s.serial ∧ s.kol.huddle.lowestTb + 1000000 ≤ s.tb
    let joins := lowest ∧ s.kol.huddle.other = true ∧ s.upPorts ≠ []
    let due := lowest ∨ (s.upPorts = [] ∧ s.kol.huddle.running = true)
    (joins → exec .huddleRootStart s = .next (s.keeps (s.startHuddle ((s.epoch + 1) % 65536))))
    ∧ (¬joins → ¬due ∨ s.addr?.isSome = true ∨ s.on KOL_STAT KOL_STAT_ROOT = true → exec .huddleRootStart s = .next s)
    ∧ (¬joins → due → s.addr? = none → s.on KOL_STAT KOL_STAT_ROOT = false →
    ((s.kol.huddle.running = false ∨ s.neighAddressed = true) → exec .huddleRootStart s = .next (s.keeps (s.startHuddle ((s.epoch + 1) % 65536))))
    ∧ (s.kol.huddle.running = true → s.neighAddressed = false → ∃ v : State, exec .huddleRootStart s = .next (s.keeps v.levelStep) ∧ v.on KOL_STAT KOL_STAT_ROOT = true
        ∧ v.fld KOL_STAT KOL_STAT_ADDR = 0 ∧ v.kol.huddle.known = [(0, s.serial)] ∧ v.kol.huddle.reports = [(s.serial, s.ownReport)] ∧ v.kol.huddle.nextAddr = 1
        ∧ v.kol.huddle.level = 0)) := by
  intro lowest joins due
  have run := exec_huddleRootStart released
  have joinsHere : joins = (s.lowestHere ∧ s.kol.huddle.other = true ∧ s.upPorts ≠ []) := rfl
  have dueHere : due = (s.lowestHere ∨ (s.upPorts = [] ∧ s.kol.huddle.running = true)) := rfl
  rw [joinsHere, dueHere]
  clear_value joins due
  refine ⟨fun h => by rw [run, if_pos h], fun alone held => ?_, fun alone goes free notRoot => ?_⟩
  · rw [run, if_neg alone, if_pos held]
    rfl
  · have starts : ¬ (¬ (s.lowestHere ∨ (s.upPorts = [] ∧ s.kol.huddle.running = true)) ∨ s.addr?.isSome = true ∨ s.on KOL_STAT KOL_STAT_ROOT = true) := by
      rw [free, notRoot]
      rintro (h | h | h)
      · exact h goes
      · cases h
      · cases h
    rw [if_neg alone, if_neg starts] at run
    refine ⟨fun again => by rw [run, if_pos again], fun running first => ⟨s.rooted, ?_, s.rooted_shows⟩⟩
    rw [run, if_neg (by rw [running, first]; simp)]

/-! ### MAP (R442, R443) -/

/-- A MAP of the huddle that runs, as its flood leaves the device. -/
theorem mapMsg_clauses (released : s.sys.released = true) (devs : List MapDev) (running : s.kol.huddle.running = true) (up : s.linkUp n = true)
    (other : s.addr? ≠ some src.toNat) (new : s.kol.floodDone.contains (src.toNat, seq.toNat) = false) :
    ∃ w : State, w = { s with kol := w.kol, tim := w.tim } ∧ w.kol.floodDone.contains (src.toNat, seq.toNat) = true
      ∧ (∀ v, w.applyMap devs = (v, false) → exec (.mapMsg n src seq devs) s = .next (s.keeps v.endHuddle))
      ∧ (∀ v p, w.applyMap devs = (v, true) → v.routePort src.toNat = some p →
        exec (.mapMsg n src seq devs) s = .next (s.keeps (if p < 6 then (v.queueFlits p (v.msgFlits src.toNat 0 0 vcCtl (mkMsg 0x05 0 0 0 v.now [] []))).bumpMsg else v)))
      ∧ (∀ v, w.applyMap devs = (v, true) → v.routePort src.toNat = none → exec (.mapMsg n src seq devs) s = .next (s.keeps v)) := by
  have run := State.onMain_keeps (s := s) (fun s => if !s.kol.huddle.running then s.took src.toNat 0x04 else
      s.floodIn n src.toNat seq.toNat vcCtl (mkMsg 0x04 0 seq.toNat 0 s.now [] (Config.msgBody 0x04 (mapNumbers devs))) (fun s =>
        match s.applyMap devs with
        | (s, true) =>
          match s.routePort src.toNat with
          | some p => if p < 6 then (s.queueFlits p (s.msgFlits src.toNat 0 0 vcCtl (mkMsg 0x05 0 0 0 s.now [] []))).bumpMsg else s
          | none => s
        | (s, false) => s.endHuddle)) released
  rw [if_neg (by simp [running]), State.floodIn_first _ up other (by simp [running]) new] at run
  obtain ⟨frame, done⟩ := s.flooded_shows n src.toNat seq.toNat vcCtl (mkMsg 0x04 0 seq.toNat 0 s.now [] (Config.msgBody 0x04 (mapNumbers devs)))
  generalize s.flooded n src.toNat seq.toNat vcCtl (mkMsg 0x04 0 seq.toNat 0 s.now [] (Config.msgBody 0x04 (mapNumbers devs))) = w at run frame done
  refine ⟨w, frame, ?_, fun v left => ?_, fun v p taken route => ?_, fun v taken route => ?_⟩
  · rw [done]
    exact flood_remembered _ _ _
  · simp only [left] at run
    exact run
  · simp only [taken, route] at run
    exact run
  · simp only [taken, route] at run
    exact run

/-! ### DONE (R442) -/

theorem exec_doneMsg (released : s.sys.released = true) (flood : Bool) : exec (.doneMsg n src flood seq) s = .next (s.keeps (
    if flood && s.kol.huddle.running && s.addr?.isSome then
      s.floodIn n src.toNat seq.toNat vcCtl (mkMsg 0x05 0 seq.toNat 0 s.now [] []) State.huddleDone
    else if !flood && s.kol.huddle.running && s.addr?.isSome && s.on KOL_STAT KOL_STAT_ROOT then
      ((s.took src.toNat 0x05).modHuddle (fun h => { h with dones := src.toNat :: h.dones })).doneCheck
    else s.took src.toNat 0x05)) := by
  rw [exec, execDoneMsg, State.onMain_keeps _ released]
  rfl

theorem doneMsg_clauses (released : s.sys.released = true) :
    (s.kol.huddle.running = false ∨ s.addr? = none → ∀ flood, exec (.doneMsg n src flood seq) s = .next (s.took src.toNat 0x05))
    ∧ (s.on KOL_STAT KOL_STAT_ROOT = false → exec (.doneMsg n src false seq) s = .next (s.took src.toNat 0x05))
    ∧ (s.kol.huddle.running = true → s.addr?.isSome = true →
      (s.on KOL_STAT KOL_STAT_ROOT = true → exec (.doneMsg n src false seq) s = .next (s.keeps ((s.took src.toNat 0x05).modHuddle (fun h => { h with dones := src.toNat :: h.dones })).doneCheck))
      ∧ (s.linkUp n = true → s.addr? ≠ some src.toNat → s.kol.floodDone.contains (src.toNat, seq.toNat) = false →
        ∃ w : State, w = { s with kol := w.kol, tim := w.tim } ∧ exec (.doneMsg n src true seq) s = .next (s.keeps w.huddleDone))) := by
  have keeps : s.keeps (s.took src.toNat 0x05) = s.took src.toNat 0x05 := rfl
  refine ⟨fun idle flood => ?_, fun notRoot => ?_, fun running addr => ⟨fun root => ?_, fun up other new => ?_⟩⟩
  · have off (b : Bool) : (b && s.kol.huddle.running && s.addr?.isSome) = false := by rcases idle with h | h <;> simp [h]
    rw [exec_doneMsg released, if_neg (by rw [off]; decide), if_neg (by rw [off, Bool.false_and]; decide), keeps]
  · rw [exec_doneMsg released, if_neg (by rw [Bool.false_and, Bool.false_and]; decide), if_neg (by rw [notRoot, Bool.and_false]; decide), keeps]
  · rw [exec_doneMsg released, running, addr, root]
    rfl
  · refine ⟨_, (s.flooded_shows n src.toNat seq.toNat vcCtl (mkMsg 0x05 0 seq.toNat 0 s.now [] [])).1, ?_⟩
    rw [exec_doneMsg released, running, addr, ← State.floodIn_first State.huddleDone up other (by simp [running]) new]
    rfl

theorem doneCheck_clauses (s : State) : (s.kol.huddle.known.all (fun k => s.kol.huddle.dones.contains k.1) = true → s.doneCheck = (s.sendFlood 0x05 []).huddleDone)
    ∧ (s.kol.huddle.known.all (fun k => s.kol.huddle.dones.contains k.1) = false → s.doneCheck = s) :=
  ⟨fun all => if_pos all, fun missing => if_neg (Bool.eq_false_iff.1 missing)⟩

/-! ### The wait for the huddle ends (R561) -/

/-- Kickoff goes on without an address. -/
def State.addressless (s : State) : State :=
  ((s.kickHuddle.setFld SYS_BOOT_STAT SYS_BOOT_STAT_HUDDLE_TIMEOUT 1).setFld KOL_STAT KOL_STAT_ADDR_VALID 0).setRoutes

theorem exec_huddleWaitExpiry (released : s.sys.released = true) : exec .huddleWaitExpiry s = .next (s.keeps (
    if !s.on HIF_STAT HIF_STAT_COACH_UP || s.sys.huddleEnd || s.tb < s.sys.huddleWait + s.num SYS_HUDDLE_WAIT * 1000000 then s else s.addressless.endHuddle)) := by
  rw [exec, execHuddleWaitExpiry, State.onMain_keeps _ released]
  rfl

theorem State.kickHuddle_shows (s : State) : s.kickHuddle.sys.huddleEnd = true ∧ s.kickHuddle = { s with regs := s.kickHuddle.regs, sys := s.kickHuddle.sys } := by
  obtain ⟨u, hu⟩ : ∃ u : State, u = { s with sys := { s.sys with huddleEnd := true } } := ⟨_, rfl⟩
  have ended : u.sys.huddleEnd = true := by rw [hu]
  have frame : u = { s with sys := u.sys } := by rw [hu]
  have only : u.RegsOnly s.kickHuddle := by
    unfold State.kickHuddle
    rw [← hu]
    dsimp only
    split
    · exact State.RegsOnly.refl u
    · exact (State.RegsOnly.refl u).setFld ..
  generalize s.kickHuddle = v at only
  rw [only]
  exact ⟨ended, by rw [frame]⟩

theorem State.addressless_shows (s : State) : s.addressless.on SYS_BOOT_STAT SYS_BOOT_STAT_HUDDLE_TIMEOUT = true ∧ s.addressless.addr? = none
    ∧ s.addressless.sys.huddleEnd = true ∧ s.addressless = { s with regs := s.addressless.regs, sys := s.addressless.sys } := by
  obtain ⟨ended, frame⟩ := s.kickHuddle_shows
  obtain ⟨k, hk⟩ : ∃ k, k = s.kickHuddle := ⟨_, rfl⟩
  obtain ⟨u, hu⟩ : ∃ u, u = (k.setFld SYS_BOOT_STAT SYS_BOOT_STAT_HUDDLE_TIMEOUT 1).setFld KOL_STAT KOL_STAT_ADDR_VALID 0 := ⟨_, rfl⟩
  have only : k.RegsOnly u := by
    rw [hu]
    exact ((State.RegsOnly.refl _).setFld ..).setFld ..
  have timeout : u.on SYS_BOOT_STAT SYS_BOOT_STAT_HUDDLE_TIMEOUT = true := by
    rw [hu, State.on_congr (State.reg_setFld_ne _ _ _ (by decide))]
    exact State.on_setFld_one _ _ (by decide) (by decide)
  have addr : u.on KOL_STAT KOL_STAT_ADDR_VALID = false := by
    rw [hu]
    exact State.on_setFld_zero _ _ (by decide) (by decide)
  obtain ⟨only', regs'⟩ := u.setRoutes_shows
  have eq : s.addressless = u.setRoutes := by
    rw [hu, hk]
    rfl
  rw [← hk] at ended frame
  rw [eq]
  generalize u.setRoutes = v at only' regs'
  have both : k.RegsOnly v := State.RegsOnly.trans only only'
  refine ⟨?_, ?_, ?_, ?_⟩
  · rw [State.on_congr (regs' _ (by decide)), timeout]
  · rw [State.addr?, State.on_congr (regs' _ (by decide)), addr]
    rfl
  · rw [← ended]
    exact both.same (fun v => v.sys.huddleEnd) (fun _ _ => rfl)
  · rw [both, frame]

end

/-- Settles O51: each message of the huddle in its cases (R440-R444, R561). -/
theorem huddle : Obligations.Huddle := by
  unfold Obligations.Huddle
  refine ⟨fun s n released => ⟨?_, fun serial sport epoch lowest => ⟨hello_ignored released, hello_lower released, hello_newer released⟩, huddleRootStart_clauses released,
      State.levelStep_fits, State.levelStep_waits, State.levelStep_last, assign_clauses released, report_clauses released⟩,
    fun s n src seq released => ?_⟩
  · rw [exec, execHelloSend, State.onMain_keeps _ released]
  · obtain ⟨idle, notRoot, taken⟩ := doneMsg_clauses (s := s) (n := n) (src := src) (seq := seq) released
    refine ⟨fun devs stopped => ?_, mapMsg_clauses released, fun devs d => State.applyMap_shows, idle, notRoot, taken, doneCheck_clauses s, fun waits => ?_, fun coach goes late => ?_⟩
    · rw [exec, execMapMsg, State.onMain_keeps _ released]
      rw [if_pos (by rw [stopped]; rfl)]
      rfl
    · rw [exec_huddleWaitExpiry released, if_pos (by rcases waits with h | h | h <;> simp [h])]
      rfl
    · refine ⟨s.addressless, ?_, s.addressless_shows⟩
      rw [exec_huddleWaitExpiry released, if_neg (by simp [coach, goes, late])]

end Sys2Proof.Machine
end


section
/-! SUPPORT. O52: floods, POST, WRITE, RESP and transactions. -/

namespace Sys2Proof.Machine

section
variable {s : State} {n : Fin 6} {src : BitVec 8} {seq : BitVec 16}

/-! ### Floods (R435, R445, R455) -/

/-- A flood that is not taken: over a link that is not UP, of this device, without an address or huddle, or a repeat. -/
theorem State.floodIn_dropped {s : State} {n src seq vc : Nat} {data : List Byte} (f : State → State)
    (dropped : s.linkUp n = false ∨ s.addr? = some src ∨ (s.addr? = none ∧ s.kol.huddle.running = false) ∨ s.kol.floodDone.contains (src, seq) = true) :
    s.floodIn n src seq vc data f = s.took src (leAt data 0 1) := by
  have eq : s.floodIn n src seq vc data f = if !s.linkUp n || s.addr? == some src || (s.addr?.isNone && !s.kol.huddle.running) || s.kol.floodDone.contains (src, seq)
      then s.took src (leAt data 0 1) else f (s.flooded n src seq vc data) := rfl
  rw [eq, if_pos]
  rcases dropped with h | h | ⟨h, h'⟩ | h
  · simp [h]
  · simp [h]
  · simp [h, h']
  · rw [h]
    simp

theorem exec_linkDownMsg (released : s.sys.released = true) (link : LinkEnd) : exec (.linkDownMsg n src seq link) s = .next (s.keeps (
    s.floodIn n src.toNat seq.toNat vcCtl (mkMsg 0x06 0 seq.toNat 0 s.now [] (Config.msgBody 0x06 [link.addr, link.port])) (fun s => s.linkReport true link.addr link.port))) := by
  rw [exec, execLinkDownMsg, State.onMain_keeps _ released]

theorem exec_linkUpMsg (released : s.sys.released = true) (link : LinkEnd) : exec (.linkUpMsg n src seq link) s = .next (s.keeps (
    s.floodIn n src.toNat seq.toNat vcCtl (mkMsg 0x07 0 seq.toNat 0 s.now [] (Config.msgBody 0x07 [link.addr, link.port])) (fun s => s.linkReport false link.addr link.port))) := by
  rw [exec, execLinkUpMsg, State.onMain_keeps _ released]

theorem exec_modelAdvert (released : s.sys.released = true) (models : List Nat) : exec (.modelAdvert n src seq models) s = .next (s.keeps (
    s.floodIn n src.toNat seq.toNat vcCtl (mkMsg 0x08 0 seq.toNat 0 s.now [] (Config.msgBody 0x08 models)) (fun s =>
      { s with kol := { s.kol with adverts := tput s.kol.adverts src.toNat models } }))) := by
  rw [exec, execModelAdvert, State.onMain_keeps _ released]

/-- The type of a message is its first byte. -/
theorem leAt_mkMsg (typ flag seq txn : Nat) (stamp : Stamp) (l body : List Byte) : leAt (mkMsg typ flag seq txn stamp l body) 0 1 = typ % 256 := by
  have := leAt_leBytes [] 1 typ (leBytes 1 flag ++ leBytes 2 seq ++ leBytes 4 body.length ++ leBytes 4 txn ++ zeros 4 ++ leBytes 8 stamp.toNat ++ fitTo 8 l ++ body) (i := 0) rfl
  simpa only [mkMsg, List.nil_append, List.append_assoc, Nat.pow_one] using this

theorem flood_dropped (released : s.sys.released = true)
    (dropped : s.linkUp n = false ∨ s.addr? = some src.toNat ∨ (s.addr? = none ∧ s.kol.huddle.running = false) ∨ s.kol.floodDone.contains (src.toNat, seq.toNat) = true) :
    (∀ link, exec (.linkDownMsg n src seq link) s = .next (s.took src.toNat 0x06)) ∧ (∀ link, exec (.linkUpMsg n src seq link) s = .next (s.took src.toNat 0x07))
      ∧ ∀ models, exec (.modelAdvert n src seq models) s = .next (s.took src.toNat 0x08) := by
  refine ⟨fun link => ?_, fun link => ?_, fun models => ?_⟩
  · rw [exec_linkDownMsg released, State.floodIn_dropped _ dropped, leAt_mkMsg]
    rfl
  · rw [exec_linkUpMsg released, State.floodIn_dropped _ dropped, leAt_mkMsg]
    rfl
  · rw [exec_modelAdvert released, State.floodIn_dropped _ dropped, leAt_mkMsg]
    rfl

theorem flood_taken (released : s.sys.released = true) (up : s.linkUp n = true) (other : s.addr? ≠ some src.toNat)
    (takes : s.addr?.isSome = true ∨ s.kol.huddle.running = true) (new : s.kol.floodDone.contains (src.toNat, seq.toNat) = false) :
    (∀ link, ∃ w : State, exec (.linkDownMsg n src seq link) s = .next (s.keeps (w.linkReport true link.addr link.port)) ∧ w = { s with kol := w.kol, tim := w.tim })
    ∧ (∀ link, ∃ w : State, exec (.linkUpMsg n src seq link) s = .next (s.keeps (w.linkReport false link.addr link.port)) ∧ w = { s with kol := w.kol, tim := w.tim })
    ∧ (∀ models, ∃ t, exec (.modelAdvert n src seq models) s = .next t ∧ tfind t.kol.adverts src.toNat = some models ∧ t = { s with kol := t.kol, tim := t.tim }) := by
  have takes' : (s.addr?.isNone && !s.kol.huddle.running) = false := by
    rcases takes with h | h
    · rw [Option.isSome_iff_ne_none] at h
      simp [h]
    · simp [h]
  refine ⟨fun link => ?_, fun link => ?_, fun models => ?_⟩
  · rw [exec_linkDownMsg released, State.floodIn_first _ up other takes' new]
    exact ⟨_, rfl, (s.flooded_shows ..).1⟩
  · rw [exec_linkUpMsg released, State.floodIn_first _ up other takes' new]
    exact ⟨_, rfl, (s.flooded_shows ..).1⟩
  · rw [exec_modelAdvert released, State.floodIn_first _ up other takes' new]
    obtain ⟨frame, -⟩ := s.flooded_shows n src.toNat seq.toNat vcCtl (mkMsg 0x08 0 seq.toNat 0 s.now [] (Config.msgBody 0x08 models))
    generalize s.flooded n src.toNat seq.toNat vcCtl (mkMsg 0x08 0 seq.toNat 0 s.now [] (Config.msgBody 0x08 models)) = w at frame
    refine ⟨_, rfl, tfind_tput_same .., ?_⟩
    rw [frame]
    rfl

/-! ### POST and WRITE (R438, R439, R445) -/

variable {vc : BitVec 2} {txn : Word} {stamp : Stamp} {arg : BitVec 64} {body : List Byte}

theorem postWrite_addressless (released : s.sys.released = true) (none : s.addr? = none) :
    exec (.post src vc txn stamp arg body) s = .next (s.took src.toNat 0x10) ∧ exec (.writeMsg src vc txn arg body) s = .next (s.took src.toNat 0x11) := by
  constructor
  · rw [exec, execPost, State.onMain_keeps _ released]
    dsimp only
    rw [if_pos (show (s.took src.toNat 0x10).addr?.isNone = true from Option.isNone_iff_eq_none.2 none)]
    rfl
  · rw [exec, execWriteMsg, State.onMain_keeps _ released]
    dsimp only
    rw [if_pos (show (s.took src.toNat 0x11).addr?.isNone = true from Option.isNone_iff_eq_none.2 none)]
    rfl

theorem addressed {s : State} (addr : s.addr?.isSome = true) (src typ : Nat) : ¬ (s.took src typ).addr?.isNone = true := by
  rw [show (s.took src typ).addr? = s.addr? from rfl, ← Option.not_isSome, addr]
  decide

/-- A transaction that was done before is answered again. -/
theorem postWrite_again (released : s.sys.released = true) (addr : s.addr?.isSome = true) {m : List Byte} (done : s.doneTxn src.toNat txn.toNat = some m) :
    exec (.post src vc txn stamp arg body) s = .next (s.keeps ((s.took src.toNat 0x10).sendTo src.toNat vc.toNat m))
      ∧ exec (.writeMsg src vc txn arg body) s = .next (s.keeps ((s.took src.toNat 0x11).sendTo src.toNat vc.toNat m)) := by
  have same (typ : Nat) : (s.took src.toNat typ).doneTxn src.toNat txn.toNat = some m := done
  constructor
  · rw [exec, execPost, State.onMain_keeps _ released]
    dsimp only
    rw [if_neg (addressed addr _ _), same]
  · rw [exec, execWriteMsg, State.onMain_keeps _ released]
    dsimp only
    rw [if_neg (addressed addr _ _), same]

theorem post_clauses (released : s.sys.released = true) (addr : s.addr?.isSome = true) (new : s.doneTxn src.toNat txn.toNat = none) :
    (∀ w, s.hold.any (fun h => h.ring == arg.toNat % 64) = false →
      (s.took src.toNat 0x10).ringWrite (arg.toNat % 64) [postRecord src.toNat vc.toNat txn.toNat stamp arg.toNat body] = some w →
      exec (.post src vc txn stamp arg body) s = .next (s.keeps (w.resp src.toNat vc.toNat txn.toNat 0)))
    ∧ ((s.hold.any (fun h => h.ring == arg.toNat % 64) = true ∨ (s.took src.toNat 0x10).ringWrite (arg.toNat % 64) [postRecord src.toNat vc.toNat txn.toNat stamp arg.toNat body] = none) →
      exec (.post src vc txn stamp arg body) s = .next (s.keeps ((s.took src.toNat 0x10).resp src.toNat vc.toNat txn.toNat 2))) := by
  have same : (s.took src.toNat 0x10).doneTxn src.toNat txn.toNat = none := new
  have hold : (s.took src.toNat 0x10).hold = s.hold := rfl
  refine ⟨fun w free written => ?_, fun full => ?_⟩
  · rw [exec, execPost, State.onMain_keeps _ released]
    dsimp only
    rw [if_neg (addressed addr _ _), same]
    dsimp only
    rw [hold, free, if_neg (by decide), written]
  · rw [exec, execPost, State.onMain_keeps _ released]
    dsimp only
    rw [if_neg (addressed addr _ _), same]
    dsimp only
    rw [hold]
    rcases full with h | h
    · rw [if_pos h]
    · rw [h, ite_self]

theorem writeMsg_clauses (released : s.sys.released = true) (addr : s.addr?.isSome = true) (new : s.doneTxn src.toNat txn.toNat = none) :
    let k := arg.toNat % 8
    let off := arg.toNat / 2 ^ 32
    let admits := s.on (KOL_WIN_CFG k) KOL_WIN_CFG_VALID && (s.on (KOL_WIN_CFG k) KOL_WIN_CFG_ANY_SRC || s.fld (KOL_WIN_CFG k) KOL_WIN_CFG_SRC == src.toNat)
    (admits = true → off + body.length ≤ s.num (KOL_WIN_SIZE k) * 1024 → exec (.writeMsg src vc txn arg body) s = .next
      (s.keeps (((s.took src.toNat 0x11).dwrite (s.pair (KOL_WIN_BASE_LO k) / 4096 * 4096 + off) body).resp src.toNat vc.toNat txn.toNat 0)))
    ∧ ((admits = false ∨ s.num (KOL_WIN_SIZE k) * 1024 < off + body.length) → exec (.writeMsg src vc txn arg body) s = .next
      (s.keeps ((s.took src.toNat 0x11).resp src.toNat vc.toNat txn.toNat 1))) := by
  intro k off admits
  have same : (s.took src.toNat 0x11).doneTxn src.toNat txn.toNat = none := new
  have run : exec (.writeMsg src vc txn arg body) s = .next (s.keeps (if admits && off + body.length ≤ s.num (KOL_WIN_SIZE k) * 1024 then
      ((s.took src.toNat 0x11).dwrite (s.pair (KOL_WIN_BASE_LO k) / 4096 * 4096 + off) body).resp src.toNat vc.toNat txn.toNat 0
      else (s.took src.toNat 0x11).resp src.toNat vc.toNat txn.toNat 1)) := by
    rw [exec, execWriteMsg, State.onMain_keeps _ released]
    dsimp only
    rw [if_neg (addressed addr _ _), same]
    rfl
  refine ⟨fun open_ fits => ?_, fun refused => ?_⟩
  · rw [run, if_pos (by rw [open_, decide_eq_true fits]; rfl)]
  · rw [run, if_neg]
    rcases refused with h | h
    · rw [h]
      simp
    · rw [decide_eq_false (Nat.not_le.2 h)]
      simp

/-! ### RESP and transactions (R438, R439) -/

theorem resp_ignored (released : s.sys.released = true)
    (ignored : tfind s.kol.txns txn.toNat = none ∨ ∃ t, tfind s.kol.txns txn.toNat = some t ∧ (t.cmd = none ∨ t.dst ≠ src.toNat)) (status : Byte) :
    exec (.resp src txn status) s = .next (s.took src.toNat 0x12) := by
  have same : (s.took src.toNat 0x12).kol.txns = s.kol.txns := rfl
  have keeps : s.keeps (s.took src.toNat 0x12) = s.took src.toNat 0x12 := rfl
  rw [exec, execResp, State.onMain_keeps _ released]
  dsimp only
  rw [same]
  rcases ignored with none | ⟨t, found, other⟩
  · rw [none]
    rfl
  · rw [found]
    dsimp only
    cases cmd : t.cmd with
    | none => rfl
    | some c =>
      rw [cmd] at other
      dsimp only
      rw [if_pos (other.resolve_left (by simp)), keeps]

theorem resp_completes (released : s.sys.released = true) {t : Txn} (found : tfind s.kol.txns txn.toNat = some t) {q pos : Nat} (cmd : t.cmd = some (q, pos))
    (dst : t.dst = src.toNat) (status : Byte) :
    ∃ v : State, tfind v.kol.txns txn.toNat = none ∧ v = { s with kol := v.kol }
      ∧ (status = 0 → exec (.resp src txn status) s = .next (s.keeps (v.complete q pos .ok 0 txn.toNat)))
      ∧ (status ≠ 0 → exec (.resp src txn status) s = .next (s.keeps (v.complete q pos (Config.respStatus status.toNat) 0 txn.toNat))) := by
  have same : (s.took src.toNat 0x12).kol.txns = s.kol.txns := rfl
  have run : exec (.resp src txn status) s = .next (s.keeps (({ s.took src.toNat 0x12 with kol := { (s.took src.toNat 0x12).kol with txns := tdel s.kol.txns txn.toNat } }).complete q pos
      (if status = 0 then .ok else Config.respStatus status.toNat) 0 txn.toNat)) := by
    rw [exec, execResp, State.onMain_keeps _ released]
    dsimp only
    rw [same, found]
    dsimp only
    rw [cmd]
    dsimp only
    rw [if_neg (not_not.2 dst)]
  exact ⟨_, tfind_tdel_same _ _, rfl, fun ok => by rw [run, if_pos ok], fun bad => by rw [run, if_neg bad]⟩

theorem txnTimeout_clauses (released : s.sys.released = true) {t : Txn} (found : tfind s.kol.txns txn.toNat = some t) :
    (s.kol.huddle.running = false → t.sentTb + 500000 ≤ s.tb → t.sends < 4 →
      exec (.txnTimeout txn) s = .next (s.keeps (t.msgs.foldl (fun s d => if (tfind s.kol.txns txn.toNat).isSome then s.sendTxn t.dst t.vc d (s.txnPart t) else s)
        ({ s with kol := { s.kol with txns := tput s.kol.txns txn.toNat { t with sends := t.sends + 1, sentTb := s.tb } } }.incFld KOL_TXN_CNT KOL_TXN_CNT_TXN_RETRY))))
    ∧ (s.kol.huddle.running = false → t.sentTb + 500000 ≤ s.tb → 4 ≤ t.sends →
      exec (.txnTimeout txn) s = .next (s.keeps (((s.incFld KOL_TXN_CNT KOL_TXN_CNT_TXN_FAIL).raise KOL_G_IRQ_STAT 5).failTxn txn.toNat .fabTimeout)))
    ∧ ((s.kol.huddle.running = true ∨ s.tb < t.sentTb + 500000) → exec (.txnTimeout txn) s = .next s) := by
  refine ⟨fun calm late left => ?_, fun calm late spent => ?_, fun waits => ?_⟩
  · rw [exec, execTxnTimeout, State.onMain_keeps _ released]
    dsimp only
    rw [found]
    dsimp only
    rw [if_neg (by simp [calm, late]), if_pos left]
  · rw [exec, execTxnTimeout, State.onMain_keeps _ released]
    dsimp only
    rw [found]
    dsimp only
    rw [if_neg (by simp [calm, late]), if_neg (Nat.not_lt.2 spent)]
  · rw [exec, execTxnTimeout, State.onMain_keeps _ released]
    dsimp only
    rw [found]
    dsimp only
    rw [if_pos (by rcases waits with h | h <;> simp [h])]
    rfl

theorem txnTimeout_unknown (released : s.sys.released = true) (none : tfind s.kol.txns txn.toNat = none) : exec (.txnTimeout txn) s = .next s := by
  rw [exec, execTxnTimeout, State.onMain_keeps _ released]
  dsimp only
  rw [none]
  rfl

end

/-- Settles O52: each message of the fabric in its cases (R435, R438, R439, R445, R455). -/
theorem fabricMessages : Obligations.FabricMessages := by
  unfold Obligations.FabricMessages
  refine fun s n src seq released => ⟨fun dropped => flood_dropped released ?_, fun up other takes => ⟨flood_taken released up other takes, fun again => flood_dropped released ?_⟩,
    fun vc txn stamp arg body => ⟨postWrite_addressless released, fun addr => ⟨fun m => postWrite_again released addr, fun new => ?_⟩⟩,
    fun txn none => ⟨resp_ignored released (.inl none), txnTimeout_unknown released none⟩, fun txn t found other => resp_ignored released (.inr ⟨t, found, other⟩),
    fun txn t found => ⟨fun q pos status cmd dst => resp_completes released found cmd dst status, txnTimeout_clauses released found⟩⟩
  · rcases dropped with h | h | h
    · exact .inl h
    · exact .inr (.inl h)
    · exact .inr (.inr (.inl h))
  · exact .inr (.inr (.inr again))
  · obtain ⟨lands, full⟩ := post_clauses (vc := vc) (stamp := stamp) (arg := arg) (body := body) released addr new
    exact ⟨lands, full, writeMsg_clauses released addr new⟩

end Sys2Proof.Machine
end


section
/-! SUPPORT. O53: the relay of lines to the catch partner. -/

namespace Sys2Proof.Machine

/-- The state with another fabric's state. -/
def State.withKol (s : State) (k : Kol) : State := { s with kol := k }

/-- Bytes written to the DRAM ring of the relay, over its spans. -/
def State.spansWritten (s : State) (l : List (Nat × Nat)) (b : List Byte) : State :=
  (l.foldl (fun (x : State × List Byte) p => (x.1.dwrite p.1 (fitTo p.2 x.2), x.2.drop p.2)) (s, b)).1

/-- A message of the relay as it is written to the DRAM ring. -/
def State.relayWritten (s : State) (n : Nat) (b : List Byte) : State := s.spansWritten (s.relaySpans n) b

theorem State.dwrite_withKol (s : State) (k : Kol) (a : Nat) (l : List Byte) : (s.withKol k).dwrite a l = (s.dwrite a l).withKol k := by
  have puts (q : List (Nat × List Byte)) : ∀ v : State, q.foldl (fun s w => s.dput w.1 w.2) (v.withKol k) = (q.foldl (fun s w => s.dput w.1 w.2) v).withKol k := by
    induction q with
    | nil => exact fun _ => rfl
    | cons w q ih => exact fun v => ih (v.dput w.1 w.2)
  exact congrArg (fun v : State => v.dput a l) (puts s.retQueue { s with retQueue := [] })

theorem State.spansWritten_withKol (k : Kol) (l : List (Nat × Nat)) : ∀ (s : State) (b : List Byte), (s.withKol k).spansWritten l b = (s.spansWritten l b).withKol k := by
  induction l with
  | nil => exact fun _ _ => rfl
  | cons p l ih =>
    intro s b
    have step : (s.withKol k).spansWritten (p :: l) b = ((s.withKol k).dwrite p.1 (fitTo p.2 b)).spansWritten l (b.drop p.2) := rfl
    rw [step, State.dwrite_withKol, ih]
    rfl

theorem State.spansWritten_kol (l : List (Nat × Nat)) : ∀ (s : State) (b : List Byte), (s.spansWritten l b).kol = s.kol := by
  induction l with
  | nil => exact fun _ _ => rfl
  | cons p l ih => exact fun s b => (ih (s.dwrite p.1 (fitTo p.2 b)) (b.drop p.2)).trans (s.dwrite_kol _ _)

theorem State.spansWritten_queue (l : List (Nat × Nat)) : ∀ (s : State) (b : List Byte), (s.spansWritten l b).pending = s.pending ∧ (s.spansWritten l b).met = s.met := by
  induction l with
  | nil => exact fun _ _ => ⟨rfl, rfl⟩
  | cons p l ih =>
    intro s b
    obtain ⟨pending, met⟩ := ih (s.dwrite p.1 (fitTo p.2 b)) (b.drop p.2)
    exact ⟨pending.trans (s.dwrite_pending _ _), met.trans (s.dwrite_met _ _)⟩

/-- Where the ring stands does not depend on what else the fabric holds. -/
theorem State.relaySpans_withKol (s : State) (k : Kol) (pos : k.relayPos = s.kol.relayPos) (n : Nat) : (s.withKol k).relaySpans n = s.relaySpans n := by
  have eq (v : State) : v.relaySpans n = [(v.pair KOL_RELAY_BASE_LO / 4096 * 4096 + v.kol.relayPos, min n (v.fld KOL_RELAY_SIZE KOL_RELAY_SIZE_SIZE_MIB * 0x100000 - v.kol.relayPos)),
    (v.pair KOL_RELAY_BASE_LO / 4096 * 4096, n - (v.fld KOL_RELAY_SIZE KOL_RELAY_SIZE_SIZE_MIB * 0x100000 - v.kol.relayPos))].filter (fun p => p.2 ≠ 0) := rfl
  have pos' : (s.withKol k).kol.relayPos = s.kol.relayPos := pos
  rw [eq, eq, pos']
  rfl

theorem State.relayWritten_withKol (s : State) (k : Kol) (pos : k.relayPos = s.kol.relayPos) (n : Nat) (b : List Byte) :
    (s.withKol k).relayWritten n b = (s.relayWritten n b).withKol k := by
  rw [State.relayWritten, s.relaySpans_withKol k pos]
  exact State.spansWritten_withKol ..

/-- The size of the relay ring. -/
def State.relaySize (s : State) : Nat := s.fld KOL_RELAY_SIZE KOL_RELAY_SIZE_SIZE_MIB * 0x100000

/-- The spans do not meet the places of a PIECE. -/
def RelayPiece.clear (l : List (Nat × Nat)) (r : RelayPiece) : Bool := l.all (fun p => r.places.all (fun q => p.1 + p.2 ≤ q.1 || q.1 + q.2 ≤ p.1))

theorem State.relayFits_eq (s : State) (n : Nat) : s.relayFits n = (decide (n ≤ s.relaySize) && s.kol.relayIn.all (fun r => r.2.clear (s.relaySpans n))) := by
  unfold State.relayFits RelayPiece.clear
  refine congrArg₂ and rfl ?_
  rw [Bool.eq_iff_iff]
  simp only [List.all_eq_true]
  exact ⟨fun h r mem p at_ => h p at_ r mem, fun h p at_ r mem => h r mem p at_⟩

theorem State.relayFits_withKol (s : State) (k : Kol) (pos : k.relayPos = s.kol.relayPos) (n : Nat) :
    (s.withKol k).relayFits n = (decide (n ≤ s.relaySize) && k.relayIn.all (fun r => r.2.clear (s.relaySpans n))) := by
  rw [State.relayFits_eq, s.relaySpans_withKol k pos]
  rfl

/-! ### A message stored (R447, R449) -/

theorem State.relayStore_gap {s : State} {key n : Nat} {b : List Byte} {r : RelayPiece} (found : tfind s.kol.relayIn key = some r) (gap : r.gap = true) :
    s.relayStore key n b = (s, false) := by
  unfold State.relayStore
  rw [found]
  exact if_pos gap

theorem State.relayStore_fits {s : State} {key n : Nat} {b : List Byte} {r : RelayPiece} (found : tfind s.kol.relayIn key = some r) (whole : r.gap = false)
    (fits : s.relayFits n = true) :
    s.relayStore key n b = ((s.relayWritten n b).withKol { s.kol with relayPos := (s.kol.relayPos + n) % s.relaySize
                                                                      relayIn := tupd s.kol.relayIn key (fun r => { r with places := r.places ++ s.relaySpans n }) }, true) := by
  unfold State.relayStore
  rw [found]
  dsimp only
  rw [if_neg (by rw [whole]; decide), if_pos fits]
  have kol : (s.relayWritten n b).kol = s.kol := State.spansWritten_kol ..
  change (State.modRelay ((s.relayWritten n b).withKol { (s.relayWritten n b).kol with relayPos := (s.kol.relayPos + n) % s.relaySize }) key _, true) = _
  rw [kol]
  rfl

theorem State.relayStore_full {s : State} {key n : Nat} {b : List Byte} {r : RelayPiece} (found : tfind s.kol.relayIn key = some r) (whole : r.gap = false)
    (full : s.relayFits n = false) :
    s.relayStore key n b = ((s.modRelay key (fun r => { r with gap := true, places := [], lines := [], seals := [] })).raise KOL_G_IRQ_STAT 4, false) := by
  unfold State.relayStore
  rw [found]
  dsimp only
  rw [if_neg (by rw [whole]; decide), if_neg (by rw [full]; decide)]

theorem State.relayNext_other {s : State} {seq : Word} {f : State → State} (other : s.kol.source = none ∨ seq.toNat ≠ (s.kol.relayExp + 1) % 2 ^ 32) : s.relayNext seq f = s := by
  refine if_pos ?_
  rcases other with h | h
  · simp [h]
  · rw [decide_eq_true h, Bool.or_true]

theorem State.relayNext_next {s : State} {seq : Word} {f : State → State} (some : s.kol.source.isSome = true) (next : seq.toNat = (s.kol.relayExp + 1) % 2 ^ 32) :
    s.relayNext seq f = f (s.withKol { s.kol with relayExp := seq.toNat }) :=
  if_neg (by rw [← Option.not_isSome, some, next]; simp)

end Sys2Proof.Machine
end


section
/-! SUPPORT. O53: the messages of the relay at the catch partner. -/

namespace Sys2Proof.Machine

section
variable {s u : State} {k : Kol} {key m : Nat} {b : List Byte} {r : RelayPiece}

/-! ### What a stored message leaves (R447, R449) -/

/-- A message that the ring has room for. -/
theorem State.relayStore_stored (eq : u = s.withKol k) (pos : k.relayPos = s.kol.relayPos) (found : tfind k.relayIn key = some r) (whole : r.gap = false) (fits : u.relayFits m = true) :
    ∃ t, u.relayStore key m b = (t, true) ∧ t = { s.relayWritten m b with kol := t.kol } ∧ t.pending = s.pending ∧ t.met = s.met
      ∧ t.kol = { k with relayPos := (s.kol.relayPos + m) % s.relaySize, relayIn := tupd k.relayIn key (fun r => { r with places := r.places ++ s.relaySpans m }) } := by
  subst eq
  have spans := s.relaySpans_withKol k pos m
  have store := State.relayStore_fits (b := b) (show tfind (s.withKol k).kol.relayIn key = some r from found) whole fits
  have pos' : (s.withKol k).kol.relayPos = s.kol.relayPos := pos
  have size : (s.withKol k).relaySize = s.relaySize := rfl
  rw [spans, pos', size, s.relayWritten_withKol k pos] at store
  obtain ⟨pending, met⟩ : (s.relayWritten m b).pending = s.pending ∧ (s.relayWritten m b).met = s.met := s.spansWritten_queue (s.relaySpans m) b
  generalize s.relayWritten m b = w at store pending met
  exact ⟨_, store, rfl, pending, met, rfl⟩

/-- A message that the ring has no room for: the PIECE has a gap (R449). -/
theorem State.relayStore_lost (eq : u = s.withKol k) (found : tfind k.relayIn key = some r) (whole : r.gap = false) (full : u.relayFits m = false) :
    ∃ t, u.relayStore key m b = (t, false) ∧ t = { s with regs := t.regs, msix := t.msix, msixPend := t.msixPend, kol := t.kol } ∧ bit (t.num KOL_G_IRQ_STAT) 4 = true
      ∧ t.kol = { k with relayIn := tupd k.relayIn key (fun r => { r with gap := true, places := [], lines := [], seals := [] }) } := by
  subst eq
  have store := State.relayStore_full (b := b) (show tfind (s.withKol k).kol.relayIn key = some r from found) whole full
  refine ⟨_, store, ?_, State.bit_raise _ _ (by decide), ?_⟩
  · rw [State.raise_eq]
    rfl
  · rw [State.raise_eq]
    rfl

/-- A change of a PIECE that keeps its places leaves the room as it is. -/
theorem State.relayFits_tupd (s : State) (k : Kol) (pos : k.relayPos = s.kol.relayPos) (f : RelayPiece → RelayPiece) (places : ∀ r, (f r).places = r.places)
    (relayIn : k.relayIn = tupd s.kol.relayIn key f) (m : Nat) : (s.withKol k).relayFits m = s.relayFits m := by
  have clear (l : List (Nat × Nat)) (r : RelayPiece) : (f r).clear l = r.clear l := by rw [RelayPiece.clear, places, RelayPiece.clear]
  have all (l : List (Nat × Nat)) (t : Tbl RelayPiece) : (tupd t key f).all (fun r => r.2.clear l) = t.all (fun r => r.2.clear l) := by
    induction t with
    | nil => rfl
    | cons e t ih =>
      obtain ⟨a, x⟩ := e
      unfold tupd
      split
      · simp [clear]
      · rw [List.all_cons, List.all_cons, ih]
  rw [s.relayFits_withKol k pos, s.relayFits_eq, relayIn, all]

end

/-! ### The next message, and every other (R447, R448) -/

section
variable {s : State} {seq : Word}

/-- A message of the relay that is the next in sequence. -/
def State.relayTaken (s : State) (typ : Nat) (seq : Word) : State :=
  (s.took (s.kol.source.getD 0) typ).withKol { (s.took (s.kol.source.getD 0) typ).kol with relayExp := seq.toNat }

theorem relay_other (released : s.sys.released = true) (other : s.kol.source = none ∨ seq.toNat ≠ (s.kol.relayExp + 1) % 2 ^ 32) :
    (∀ b, exec (.relayOpen seq b) s = .next (s.took (s.kol.source.getD 0) 0x20)) ∧ (∀ tag k d l, exec (.relayLine seq tag k d l) s = .next (s.took (s.kol.source.getD 0) 0x21))
      ∧ (∀ i l t, exec (.relaySeal seq i l t) s = .next (s.took (s.kol.source.getD 0) 0x22)) ∧ ∀ r, exec (.relayResult seq r) s = .next (s.took (s.kol.source.getD 0) 0x23) := by
  have same (typ : Nat) (f : State → State) : (s.took (s.kol.source.getD 0) typ).relayNext seq f = s.took (s.kol.source.getD 0) typ := State.relayNext_other other
  refine ⟨fun b => ?_, fun tag k d l => ?_, fun i l t => ?_, fun r => ?_⟩
  · rw [exec, execRelayOpen, State.onMain_keeps _ released]
    dsimp only
    rw [same]
    rfl
  · rw [exec, execRelayLine, State.onMain_keeps _ released]
    dsimp only
    rw [same]
    rfl
  · rw [exec, execRelaySeal, State.onMain_keeps _ released]
    dsimp only
    rw [same]
    rfl
  · rw [exec, execRelayResult, State.onMain_keeps _ released]
    dsimp only
    rw [same]
    rfl

theorem State.relayTaken_next {s : State} (source : s.kol.source.isSome = true) (next : seq.toNat = (s.kol.relayExp + 1) % 2 ^ 32) (typ : Nat) (f : State → State) :
    (s.took (s.kol.source.getD 0) typ).relayNext seq f = f (s.relayTaken typ seq) := State.relayNext_next source next

/-! ### An opening (R447) -/

/-- What an opening is kept as. -/
def relayOpened (b : RelayOpenBody) : RelayPiece := { body := b, lines := [], places := [], deadline := b.deadline.toNat, seals := [], gap := false, done := false }

/-- The bytes of an opening in the ring. -/
def relayOpenBytes (b : RelayOpenBody) : List Byte :=
  Config.msgBody 0x20 [b.item.toNat, b.orderKey.toNat, b.port, b.cls, b.openStamp.toNat, b.gateMode, b.deadline.toNat, b.playbook.toNat]

theorem relayOpen_clauses (released : s.sys.released = true) (source : s.kol.source.isSome = true) (next : seq.toNat = (s.kol.relayExp + 1) % 2 ^ 32) (b : RelayOpenBody)
    {v : State} (kept : v = { s with kol := { s.kol with relayIn := tput s.kol.relayIn b.item.toNat (relayOpened b) } }) :
    (v.relayFits 40 = true → ∃ t, exec (.relayOpen seq b) s = .next t ∧ t = { s.relayWritten 40 (relayOpenBytes b) with kol := t.kol } ∧ t.kol.relayExp = seq.toNat
      ∧ t.kol.relayPos = (s.kol.relayPos + 40) % s.relaySize ∧ tfind t.kol.relayIn b.item.toNat = some { relayOpened b with places := s.relaySpans 40 }
      ∧ tfind t.kol.lastKey (b.port % 4) = some b.orderKey.toNat)
    ∧ (v.relayFits 40 = false → ∃ t, exec (.relayOpen seq b) s = .next t ∧ t = { s with regs := t.regs, msix := t.msix, msixPend := t.msixPend, kol := t.kol }
      ∧ tfind t.kol.relayIn b.item.toNat = some { relayOpened b with gap := true } ∧ bit (t.num KOL_G_IRQ_STAT) 4 = true ∧ t.kol.relayPos = s.kol.relayPos) := by
  obtain ⟨k, hk⟩ : ∃ k : Kol, k = { (s.relayTaken 0x20 seq).kol with relayIn := tput s.kol.relayIn b.item.toNat (relayOpened b), lastKey := tput s.kol.lastKey (b.port % 4) b.orderKey.toNat } := ⟨_, rfl⟩
  have run : exec (.relayOpen seq b) s = .next (s.keeps ((s.withKol k).relayStore b.item.toNat 40 (relayOpenBytes b)).1) := by
    rw [exec, execRelayOpen, State.onMain_keeps _ released]
    dsimp only
    rw [State.relayTaken_next source next, hk]
    rfl
  have pos : k.relayPos = s.kol.relayPos := by rw [hk]; rfl
  have room : (s.withKol k).relayFits 40 = v.relayFits 40 := by
    have same : v = s.withKol { s.kol with relayIn := tput s.kol.relayIn b.item.toNat (relayOpened b) } := kept
    rw [same, s.relayFits_withKol k pos, s.relayFits_withKol { s.kol with relayIn := tput s.kol.relayIn b.item.toNat (relayOpened b) } rfl, hk]
  have exp : k.relayExp = seq.toNat := by rw [hk]; rfl
  have last : tfind k.lastKey (b.port % 4) = some b.orderKey.toNat := by
    rw [hk]
    exact tfind_tput_same ..
  have found : tfind k.relayIn b.item.toNat = some (relayOpened b) := by
    rw [hk]
    exact tfind_tput_same ..
  refine ⟨fun fits => ?_, fun full => ?_⟩
  · obtain ⟨t, store, frame, pending, met, kol⟩ := State.relayStore_stored (s := s) (b := relayOpenBytes b) rfl pos found rfl (room.trans fits)
    rw [store, State.keeps_of pending met] at run
    refine ⟨t, run, frame, ?_, ?_, ?_, ?_⟩
    · rw [kol]
      exact exp
    · rw [kol]
    · rw [kol]
      dsimp only
      rw [tfind_tupd_same, found, Option.map_some, show (relayOpened b).places = [] from rfl, List.nil_append]
    · rw [kol]
      exact last
  · obtain ⟨t, store, frame, raised, kol⟩ := State.relayStore_lost (s := s) (b := relayOpenBytes b) rfl found rfl (room.trans full)
    rw [store, State.keeps_of (by rw [frame]) (by rw [frame])] at run
    refine ⟨t, run, frame, ?_, raised, ?_⟩
    · rw [kol]
      dsimp only
      rw [tfind_tupd_same, found]
      rfl
    · rw [kol]
      exact pos

end

end Sys2Proof.Machine
end


section
/-! SUPPORT. O53: lines, seals and results of the relay. -/

namespace Sys2Proof.Machine

section
variable {s : State} {seq : Word} {key : Nat} {r : RelayPiece}

/-! ### A plane of a line (R448, R449) -/

theorem State.modRelay_frame {t w : State} (frame : t = { w with kol := t.kol }) (f : RelayPiece → RelayPiece) :
    t.modRelay key f = { w with kol := (t.modRelay key f).kol } := by
  rw [frame]
  rfl

/-- The bytes of a line in the ring. -/
def relayLineBytes (tag : List Byte) (k : Byte) (d : BitVec 48) (l : List Byte) : List Byte := tag ++ leBytes 1 k.toNat ++ zeros 1 ++ leBytes 6 d.toNat ++ l

theorem relayLine_unowned (released : s.sys.released = true) (source : s.kol.source.isSome = true) (next : seq.toNat = (s.kol.relayExp + 1) % 2 ^ 32)
    (tag : List Byte) (k : Byte) (d : BitVec 48) (l : List Byte) (free : s.relayOwner tag = none) :
    ∃ t, exec (.relayLine seq tag k d l) s = .next t ∧ t = { s with kol := t.kol } ∧ t.kol.relayExp = seq.toNat ∧ t.kol.relayIn = s.kol.relayIn := by
  refine ⟨s.relayTaken 0x21 seq, ?_, rfl, rfl, rfl⟩
  rw [exec, execRelayLine, State.onMain_keeps _ released]
  dsimp only
  rw [State.relayTaken_next source next, show (s.relayTaken 0x21 seq).relayOwner tag = none from free]
  rfl

/-- The fabric with a line's deadline noted. -/
def State.lineHeard (s : State) (seq : Word) (key deadline : Nat) : Kol :=
  { (s.relayTaken 0x21 seq).kol with relayIn := tupd s.kol.relayIn key (fun r => { r with deadline := deadline }) }

theorem exec_relayLine (released : s.sys.released = true) (source : s.kol.source.isSome = true) (next : seq.toNat = (s.kol.relayExp + 1) % 2 ^ 32)
    (tag : List Byte) (k : Byte) (d : BitVec 48) (l : List Byte) (owner : s.relayOwner tag = some key) {t : State} {ok : Bool}
    (store : (s.withKol (s.lineHeard seq key d.toNat)).relayStore key (40 + l.length) (relayLineBytes tag k d l) = (t, ok)) :
    exec (.relayLine seq tag k d l) s = .next (s.keeps (if ok then t.modRelay key (fun r => { r with lines := r.lines ++ [(tag, k, l)] }) else t)) := by
  rw [exec, execRelayLine, State.onMain_keeps _ released]
  dsimp only
  rw [State.relayTaken_next source next, show (s.relayTaken 0x21 seq).relayOwner tag = some key from owner]
  dsimp only
  rw [show (s.relayTaken 0x21 seq).modRelay key (fun r => { r with deadline := d.toNat }) = s.withKol (s.lineHeard seq key d.toNat) from rfl,
    show tag ++ leBytes 1 k.toNat ++ zeros 1 ++ leBytes 6 d.toNat ++ l = relayLineBytes tag k d l from rfl, store]
  cases ok <;> rfl

theorem relayLine_clauses (released : s.sys.released = true) (source : s.kol.source.isSome = true) (next : seq.toNat = (s.kol.relayExp + 1) % 2 ^ 32)
    (tag : List Byte) (k : Byte) (d : BitVec 48) (l : List Byte) (owner : s.relayOwner tag = some key) (found : tfind s.kol.relayIn key = some r) :
    ∃ t, exec (.relayLine seq tag k d l) s = .next t ∧ t.kol.relayExp = seq.toNat
      ∧ (r.gap = true → t = { s with kol := t.kol } ∧ tfind t.kol.relayIn key = some { r with deadline := d.toNat })
      ∧ (r.gap = false → s.relayFits (40 + l.length) = false → t = { s with regs := t.regs, msix := t.msix, msixPend := t.msixPend, kol := t.kol } ∧ bit (t.num KOL_G_IRQ_STAT) 4 = true
        ∧ tfind t.kol.relayIn key = some { r with deadline := d.toNat, gap := true, places := [], lines := [], seals := [] } ∧ t.kol.relayPos = s.kol.relayPos)
      ∧ (r.gap = false → s.relayFits (40 + l.length) = true → t = { s.relayWritten (40 + l.length) (relayLineBytes tag k d l) with kol := t.kol }
        ∧ t.kol.relayPos = (s.kol.relayPos + (40 + l.length)) % s.relaySize
        ∧ tfind t.kol.relayIn key = some { r with deadline := d.toNat, lines := r.lines ++ [(tag, k, l)], places := r.places ++ s.relaySpans (40 + l.length) }) := by
  generalize length : 40 + l.length = m
  obtain ⟨kol, hk⟩ : ∃ k, k = s.lineHeard seq key d.toNat := ⟨_, rfl⟩
  have pos : kol.relayPos = s.kol.relayPos := by rw [hk]; rfl
  have exp : kol.relayExp = seq.toNat := by rw [hk]; rfl
  have noted : kol.relayIn = tupd s.kol.relayIn key (fun r => { r with deadline := d.toNat }) := by rw [hk]; rfl
  have held : tfind kol.relayIn key = some { r with deadline := d.toNat } := by rw [noted, tfind_tupd_same, found, Option.map_some]
  have room : (s.withKol kol).relayFits m = s.relayFits m := State.relayFits_tupd s kol pos (fun r => { r with deadline := d.toNat }) (fun _ => rfl) noted m
  have run {t : State} {ok : Bool} (store : (s.withKol kol).relayStore key m (relayLineBytes tag k d l) = (t, ok)) :
      exec (.relayLine seq tag k d l) s = .next (s.keeps (if ok then t.modRelay key (fun r => { r with lines := r.lines ++ [(tag, k, l)] }) else t)) :=
    exec_relayLine released source next tag k d l owner (by rw [length, ← hk, store])
  rcases Bool.eq_false_or_eq_true r.gap with gap | gap
  · refine ⟨s.withKol kol, run (ok := false) (State.relayStore_gap (s := s.withKol kol) held gap), exp, fun _ => ⟨rfl, held⟩, fun h => absurd h (by rw [gap]; decide), fun h => absurd h (by rw [gap]; decide)⟩
  · rcases Bool.eq_false_or_eq_true (s.relayFits m) with fits | fits
    · obtain ⟨t, store, frame, pending, met, after⟩ := State.relayStore_stored (s := s) (b := relayLineBytes tag k d l) rfl pos held gap (room.trans fits)
      have run := run store
      have keeps (f : RelayPiece → RelayPiece) : s.keeps (t.modRelay key f) = t.modRelay key f := State.keeps_of pending met
      rw [if_pos rfl, keeps] at run
      refine ⟨_, run, ?_, fun h => absurd h (by rw [gap]; decide), fun _ h => absurd h (by rw [fits]; decide), fun _ _ => ⟨?_, ?_, ?_⟩⟩
      · exact (congrArg Kol.relayExp after).trans exp
      · exact State.modRelay_frame frame _
      · exact congrArg Kol.relayPos after
      · refine (tfind_tupd_same ..).trans ?_
        rw [congrArg Kol.relayIn after]
        dsimp only
        rw [tfind_tupd_same, held, Option.map_some, Option.map_some]
    · obtain ⟨t, store, frame, raised, after⟩ := State.relayStore_lost (s := s) (b := relayLineBytes tag k d l) rfl held gap (room.trans fits)
      have run := run store
      rw [if_neg (by decide), State.keeps_of (by rw [frame]) (by rw [frame])] at run
      refine ⟨t, run, ?_, fun h => absurd h (by rw [gap]; decide), fun _ _ => ⟨frame, raised, ?_, ?_⟩, fun _ h => absurd h (by rw [fits]; decide)⟩
      · rw [after]
        exact exp
      · rw [after]
        dsimp only
        rw [tfind_tupd_same, held, Option.map_some]
      · rw [after]
        exact pos

/-! ### A seal (R448) -/

theorem relaySeal_unowned (released : s.sys.released = true) (source : s.kol.source.isSome = true) (next : seq.toNat = (s.kol.relayExp + 1) % 2 ^ 32)
    (i l : Word) (t0 : Stamp) (free : s.sealOwner i.toNat = none) :
    ∃ t, exec (.relaySeal seq i l t0) s = .next t ∧ t = { s with kol := t.kol } ∧ t.kol.relayExp = seq.toNat ∧ t.kol.relayIn = s.kol.relayIn := by
  refine ⟨s.relayTaken 0x22 seq, ?_, rfl, rfl, rfl⟩
  rw [exec, execRelaySeal, State.onMain_keeps _ released]
  dsimp only
  rw [State.relayTaken_next source next, show (s.relayTaken 0x22 seq).sealOwner i.toNat = none from free]
  rfl

theorem relaySeal_stored (released : s.sys.released = true) (source : s.kol.source.isSome = true) (next : seq.toNat = (s.kol.relayExp + 1) % 2 ^ 32)
    (i l : Word) (t0 : Stamp) (owner : s.sealOwner i.toNat = some key) (found : tfind s.kol.relayIn key = some r) (whole : r.gap = false) (fits : s.relayFits 16 = true) :
    ∃ t, exec (.relaySeal seq i l t0) s = .next t ∧ t = { s.relayWritten 16 (Config.msgBody 0x22 [i.toNat, l.toNat, t0.toNat]) with kol := t.kol } ∧ t.kol.relayExp = seq.toNat
      ∧ t.kol.relayPos = (s.kol.relayPos + 16) % s.relaySize ∧ tfind t.kol.relayIn key = some { r with seals := r.seals ++ [(i, l, t0)], places := r.places ++ s.relaySpans 16 } := by
  generalize count : 16 = m at fits ⊢
  obtain ⟨k, hk⟩ : ∃ k, k = (s.relayTaken 0x22 seq).kol := ⟨_, rfl⟩
  have eq : s.relayTaken 0x22 seq = s.withKol k := by rw [hk]; rfl
  have pos : k.relayPos = s.kol.relayPos := by rw [hk]; rfl
  have exp : k.relayExp = seq.toNat := by rw [hk]; rfl
  have same : k.relayIn = s.kol.relayIn := by rw [hk]; rfl
  have held : tfind k.relayIn key = some r := by rw [same, found]
  have room : (s.withKol k).relayFits m = true := by rw [s.relayFits_withKol k pos, same, ← s.relayFits_eq, fits]
  obtain ⟨t, store, frame, pending, met, after⟩ := State.relayStore_stored (s := s) (b := Config.msgBody 0x22 [i.toNat, l.toNat, t0.toNat]) rfl pos held whole room
  have run : exec (.relaySeal seq i l t0) s = .next (s.keeps (t.modRelay key (fun r => { r with seals := r.seals ++ [(i, l, t0)] }))) := by
    rw [exec, execRelaySeal, State.onMain_keeps _ released]
    dsimp only
    rw [State.relayTaken_next source next, show (s.relayTaken 0x22 seq).sealOwner i.toNat = some key from owner]
    dsimp only
    rw [eq, count, store]
  have keeps (f : RelayPiece → RelayPiece) : s.keeps (t.modRelay key f) = t.modRelay key f := State.keeps_of pending met
  rw [keeps] at run
  refine ⟨_, run, ?_, ?_, ?_, ?_⟩
  · exact State.modRelay_frame frame _
  · exact (congrArg Kol.relayExp after).trans exp
  · exact congrArg Kol.relayPos after
  · refine (tfind_tupd_same ..).trans ?_
    rw [congrArg Kol.relayIn after]
    dsimp only
    rw [tfind_tupd_same, held, Option.map_some, Option.map_some]

/-! ### A result (R450, R451) -/

theorem relayResult_part (released : s.sys.released = true) (source : s.kol.source.isSome = true) (next : seq.toNat = (s.kol.relayExp + 1) % 2 ^ 32)
    (rec : List Byte) (more : bit (leAt rec 17 1) 0 = true) :
    ∃ t, exec (.relayResult seq rec) s = .next t ∧ t = { s with kol := t.kol } ∧ t.kol.relayExp = seq.toNat ∧ t.kol.relayIn = s.kol.relayIn := by
  refine ⟨s.relayTaken 0x23 seq, ?_, rfl, rfl, rfl⟩
  rw [exec, execRelayResult, State.onMain_keeps _ released]
  dsimp only
  rw [State.relayTaken_next source next, if_pos more]
  rfl

theorem relayResult_last (released : s.sys.released = true) (source : s.kol.source.isSome = true) (next : seq.toNat = (s.kol.relayExp + 1) % 2 ^ 32)
    (rec : List Byte) (last : bit (leAt rec 17 1) 0 = false) :
    ∃ v : State, exec (.relayResult seq rec) s = .next (s.keeps (v.sendTo (s.kol.source.getD 0) vcLc (mkMsg 0x24 0 0 0 s.now [] (Config.msgBody 0x24 [leAt rec 4 4]))))
      ∧ v = { s with kol := v.kol } ∧ tfind v.kol.relayIn (leAt rec 4 4) = none ∧ v.kol.relayExp = seq.toNat := by
  refine ⟨s.withKol { (s.relayTaken 0x23 seq).kol with relayIn := tdel s.kol.relayIn (leAt rec 4 4) }, ?_, rfl, tfind_tdel_same .., rfl⟩
  rw [exec, execRelayResult, State.onMain_keeps _ released]
  dsimp only
  rw [State.relayTaken_next source next, if_neg (by rw [last]; decide)]
  rfl

/-! ### The source (R450-R452) -/

theorem resultAck_unknown (released : s.sys.released = true) (item : Word) (gone : s.liveItem item.toNat = none) :
    exec (.resultAck item) s = .next (s.took ((s.partner?).getD 0) 0x24) := by
  rw [exec, execResultAck, State.onMain_keeps _ released]
  dsimp only
  rw [show (s.took ((s.partner?).getD 0) 0x24).liveItem item.toNat = none from gone]
  rfl

theorem resultAck_live (released : s.sys.released = true) (item : Word) {i : Nat} (live : s.liveItem item.toNat = some i) :
    ∃ v : State, exec (.resultAck item) s = .next (s.keeps (v.modPiece i (fun p => { p with released := true })).tidy)
      ∧ v = { s with kol := v.kol } ∧ v.kol.relayOut = s.kol.relayOut.filter (fun m => m.item != i) := by
  refine ⟨s.withKol { (s.took ((s.partner?).getD 0) 0x24).kol with relayOut := s.kol.relayOut.filter (fun m => m.item != i) }, ?_, rfl, rfl⟩
  rw [exec, execResultAck, State.onMain_keeps _ released]
  dsimp only
  rw [show (s.took ((s.partner?).getD 0) 0x24).liveItem item.toNat = some i from live]
  rfl

theorem heartbeat_alone (released : s.sys.released = true) (none : s.partner? = none) :
    exec .heartbeatSend s = .next s ∧ exec .heartbeatTimeout s = .next s ∧ ∀ b acc, exec (.heartbeat b acc) s = .next (s.took b.toNat 0x25) := by
  refine ⟨?_, ?_, fun b acc => ?_⟩
  · rw [exec, execHeartbeatSend, State.onMain_keeps _ released, none]
    rfl
  · rw [exec, execHeartbeatTimeout, State.onMain_keeps _ released, none]
    rfl
  · rw [exec, execHeartbeat, State.onMain_keeps _ released]
    dsimp only
    rw [show (s.took b.toNat 0x25).partner? = .none from none, if_pos (by simp)]
    rfl

/-- The source's fabric after a HEARTBEAT (R450). -/
def State.beaten (s : State) (src a : Nat) : State :=
  s.withKol { (s.took src 0x25).kol with hbTb := some s.tb, hbAccepted := a, partnerLost := false, tookOver := false, relayOut := s.kol.relayOut.filter (fun m => decide (0 < sdiff 32 m.seq a)) }

theorem exec_heartbeat (released : s.sys.released = true) (b : BitVec 8) (acc : Word) : exec (.heartbeat b acc) s = .next (s.keeps (
    if s.partner? ≠ some b.toNat then s.took b.toNat 0x25
    else if (s.kol.hbTb.isSome && s.kol.hbAccepted == acc.toNat) && !s.kol.relayStopped then
      (s.beaten b.toNat acc.toNat).kol.relayOut.foldl (fun v m => (v.relayBody m).1.sendTo b.toNat vcLc (mkMsg m.kind 0 0 0 v.now (leBytes 4 m.seq) (v.relayBody m).2)) (s.beaten b.toNat acc.toNat)
    else s.beaten b.toNat acc.toNat)) := by
  rw [exec, execHeartbeat, State.onMain_keeps _ released]
  rfl

theorem heartbeat_clauses (released : s.sys.released = true) {d : Nat} (partner : s.partner? = some d) (b : BitVec 8) (acc : Word) :
    (b.toNat = d → (s.kol.hbTb = none ∨ s.kol.hbAccepted ≠ acc.toNat) →
      ∃ t, exec (.heartbeat b acc) s = .next t ∧ t = { s with kol := t.kol } ∧ t.kol.hbTb = some s.tb ∧ t.kol.hbAccepted = acc.toNat
        ∧ t.kol.partnerLost = false ∧ t.kol.relayOut = s.kol.relayOut.filter (fun m => decide (0 < sdiff 32 m.seq acc.toNat)))
    ∧ (b.toNat ≠ d → exec (.heartbeat b acc) s = .next (s.took b.toNat 0x25))
    ∧ (b.toNat = d → s.kol.hbTb.isSome = true → s.kol.hbAccepted = acc.toNat → s.kol.relayStopped = false →
      ∃ t : State, t = { s with kol := t.kol } ∧ t.kol.hbTb = some s.tb ∧ t.kol.relayOut = s.kol.relayOut.filter (fun m => decide (0 < sdiff 32 m.seq acc.toNat))
        ∧ exec (.heartbeat b acc) s = .next (s.keeps (t.kol.relayOut.foldl (fun v m => (v.relayBody m).1.sendTo d vcLc (mkMsg m.kind 0 0 0 v.now (leBytes 4 m.seq) (v.relayBody m).2)) t))) := by
  have run := exec_heartbeat released b acc
  rw [partner] at run
  refine ⟨fun same fresh => ?_, fun other => ?_, fun same beat still on => ?_⟩
  · rw [if_neg (by rw [same]; simp), if_neg] at run
    · exact ⟨_, run, rfl, rfl, rfl, rfl, rfl⟩
    · rcases fresh with h | h <;> simp [h]
  · rw [run, if_pos (by simpa using Ne.symm other)]
    rfl
  · rw [if_neg (by rw [same]; simp), if_pos (by simp [beat, still, on])] at run
    subst same
    exact ⟨_, rfl, rfl, rfl, run⟩

theorem heartbeatTimeout_clauses (released : s.sys.released = true) {d t0 : Nat} (partner : s.partner? = some d) (beat : s.kol.hbTb = some t0) :
    (s.tb < t0 + 310000 → exec .heartbeatTimeout s = .next s)
    ∧ (t0 + 310000 ≤ s.tb → ∃ v : State, v = { s with kol := { s.kol with hbTb := none } }
      ∧ ((v.partnerGone d).kol.source = none → exec .heartbeatTimeout s = .next (s.keeps (v.partnerGone d)))
      ∧ ∀ x, (v.partnerGone d).kol.source = some x → exec .heartbeatTimeout s = .next (s.keeps ((v.partnerGone d).takeOver x))) := by
  refine ⟨fun early => ?_, fun late => ⟨_, rfl, fun none => ?_, fun x some => ?_⟩⟩
  · rw [exec, execHeartbeatTimeout, State.onMain_keeps _ released, partner, beat]
    dsimp only
    rw [if_pos early]
    rfl
  · rw [exec, execHeartbeatTimeout, State.onMain_keeps _ released, partner, beat]
    dsimp only
    rw [if_neg (Nat.not_lt.2 late), none]
  · rw [exec, execHeartbeatTimeout, State.onMain_keeps _ released, partner, beat]
    dsimp only
    rw [if_neg (Nat.not_lt.2 late), some]

end

end Sys2Proof.Machine
end


section
/-! SUPPORT. O53: escalations over the fabric, and the relay settled. -/

namespace Sys2Proof.Machine

section
variable {s : State} {src : BitVec 8} {txn : Word}

/-! ### A head (R456) -/

/-- An escalation of which no part of the crop has come. -/
def escHeaded (src : BitVec 8) (txn : Word) (body : EscHeadBody) : EscIn := { src := src.toNat, txn := txn.toNat, head := body, data := [] }

theorem escHead_again (released : s.sys.released = true) (body : EscHeadBody) {m : List Byte} (done : s.doneTxn src.toNat txn.toNat = some m) :
    exec (.escHead src txn body) s = .next (s.keeps ((s.took src.toNat 0x30).sendTo src.toNat (vcOf (escHeaded src txn body).cls) m)) := by
  rw [exec, execEscHead, State.onMain_keeps _ released]
  dsimp only
  rw [show (s.took src.toNat 0x30).doneTxn src.toNat txn.toNat = some m from done]
  rfl

theorem exec_escHead_new (released : s.sys.released = true) (body : EscHeadBody) (new : s.doneTxn src.toNat txn.toNat = none) :
    exec (.escHead src txn body) s = .next (s.keeps (
      if s.addr?.isNone || s.escBusy src.toNat txn.toNat then s.took src.toNat 0x30
      else if (s.escModel (escHeaded src txn body)).isNone then (s.took src.toNat 0x30).escReply src.toNat txn.toNat (vcOf (escHeaded src txn body).cls) 3 []
      else (s.took src.toNat 0x30).withKol { (s.took src.toNat 0x30).kol with
        escIn := s.kol.escIn.filter (fun x => !(x.src == src.toNat && x.txn == txn.toNat)) ++ [escHeaded src txn body] })) := by
  rw [exec, execEscHead, State.onMain_keeps _ released]
  dsimp only
  rw [show (s.took src.toNat 0x30).doneTxn src.toNat txn.toNat = none from new]
  rfl

theorem escHead_refused (released : s.sys.released = true) (body : EscHeadBody) (new : s.doneTxn src.toNat txn.toNat = none)
    (busy : s.addr? = none ∨ s.escBusy src.toNat txn.toNat = true) : exec (.escHead src txn body) s = .next (s.took src.toNat 0x30) := by
  rw [exec_escHead_new released body new, if_pos (by rcases busy with h | h <;> simp [h])]
  rfl

theorem escHead_clauses (released : s.sys.released = true) (body : EscHeadBody) (new : s.doneTxn src.toNat txn.toNat = none) (addr : s.addr?.isSome = true)
    (idle : s.escBusy src.toNat txn.toNat = false) :
    let e : EscIn := { src := src.toNat, txn := txn.toNat, head := body, data := [] }
    ((s.escModel e).isSome = true → ∃ t, exec (.escHead src txn body) s = .next t ∧ t = { s with kol := t.kol }
      ∧ t.kol.escIn = s.kol.escIn.filter (fun x => !(x.src == e.src && x.txn == e.txn)) ++ [e])
    ∧ (s.escModel e = none → exec (.escHead src txn body) s = .next (s.keeps ((s.took src.toNat 0x30).escReply e.src e.txn (vcOf e.cls) 3 []))) := by
  intro e
  have run := exec_escHead_new released body new
  rw [if_neg (by rw [← Option.not_isSome, addr, idle]; decide)] at run
  have same : e = escHeaded src txn body := rfl
  clear_value e
  subst same
  refine ⟨fun some => ?_, fun none => ?_⟩
  · rw [if_neg (by rw [← Option.not_isSome, some]; decide)] at run
    exact ⟨_, run, rfl, rfl⟩
  · rw [run, if_pos (Option.isNone_iff_eq_none.2 none)]
    rfl

/-! ### The parts of the crop (R377, R456) -/

theorem escData_unknown (released : s.sys.released = true) (none : s.kol.escIn.find? (fun x => x.src == src.toNat && x.txn == txn.toNat) = none) (data : List Byte) (last : Bool) :
    exec (.escData src txn data last) s = .next (s.took src.toNat 0x31) := by
  rw [exec, execEscData, State.onMain_keeps _ released]
  dsimp only
  rw [show (s.took src.toNat 0x31).kol.escIn = s.kol.escIn from rfl, none]
  rfl

theorem escData_clauses (released : s.sys.released = true) {e : EscIn} (data : List Byte)
    (found : s.kol.escIn.find? (fun x => x.src == src.toNat && x.txn == txn.toNat) = some e) :
    let rest := s.kol.escIn.filter (fun x => !(x.src == e.src && x.txn == e.txn))
    ∃ v : State, v = { s with kol := v.kol } ∧ v.kol.escIn = rest
      ∧ (0x400000 < (e.data ++ data).length → ∀ last, exec (.escData src txn data last) s = .next (s.keeps (v.escReply e.src e.txn (vcOf e.cls) 3 [])))
      ∧ ((e.data ++ data).length ≤ 0x400000 → exec (.escData src txn data true) s = .next (s.keeps (v.openEsc { e with data := e.data ++ data })))
      ∧ ((e.data ++ data).length ≤ 0x400000 → ∃ t, exec (.escData src txn data false) s = .next t ∧ t = { s with kol := t.kol } ∧ t.kol.escIn = rest ++ [{ e with data := e.data ++ data }]) := by
  intro rest
  obtain ⟨v, hv⟩ : ∃ v, v = (s.took src.toNat 0x31).withKol { (s.took src.toNat 0x31).kol with escIn := rest } := ⟨_, rfl⟩
  have run (last : Bool) : exec (.escData src txn data last) s = .next (s.keeps (
      if 0x400000 < (e.data ++ data).length then v.escReply e.src e.txn (vcOf e.cls) 3 []
      else if last then v.openEsc { e with data := e.data ++ data }
      else (s.took src.toNat 0x31).withKol { (s.took src.toNat 0x31).kol with escIn := rest ++ [{ e with data := e.data ++ data }] })) := by
    rw [exec, execEscData, State.onMain_keeps _ released]
    dsimp only
    rw [show (s.took src.toNat 0x31).kol.escIn = s.kol.escIn from rfl, found]
    dsimp only
    rw [hv]
    rfl
  refine ⟨v, by rw [hv]; rfl, by rw [hv]; rfl, fun long last => by rw [run, if_pos long], fun short => ?_, fun short => ?_⟩
  · rw [run, if_neg (Nat.not_lt.2 short), if_pos rfl]
  · have run := run false
    rw [if_neg (Nat.not_lt.2 short), if_neg (by decide)] at run
    exact ⟨_, run, rfl, rfl⟩

/-! ### A reply (R378) -/

theorem escReply_unknown (released : s.sys.released = true) (none : tfind s.kol.txns txn.toNat = none) (status : Byte) (fields : List Byte) :
    exec (.escReply src txn status fields) s = .next (s.took src.toNat 0x32) := by
  rw [exec, execEscReply, State.onMain_keeps _ released]
  dsimp only
  rw [show (s.took src.toNat 0x32).kol.txns = s.kol.txns from rfl, none]
  rfl

theorem escReply_clauses (released : s.sys.released = true) {t : Txn} {i : Nat} {q : Seq} {r : Region} (status : Byte) (fields : List Byte)
    (found : tfind s.kol.txns txn.toNat = some t) (mine : t.seq = some i) (dst : t.dst = src.toNat) (seq : tfind s.seqs i = some q) (region : tfind s.regions q.region = some r) :
    ∃ v : State, v = { s with kol := v.kol } ∧ tfind v.kol.txns txn.toNat = none
      ∧ ((status ≠ 0 ∨ r.result.isSome = true) → exec (.escReply src txn status fields) s = .next (s.keeps (v.escOwn i)))
      ∧ (status = 0 → r.result = none →
        let fs := (voteRegion (s.quorumOf r) r).map (takeReply (replyFields (fields.length + 1) fields))
        exec (.escReply src txn status fields) s = .next (s.keeps
          (((v.incFld DEC_ESC_CNT DEC_ESC_CNT_ESC_READ (fs.filter (·.escalated)).length).endSeq i .aborted).closeRegion q.region fs).tidy)) := by
  obtain ⟨v, hv⟩ : ∃ v, v = (s.took src.toNat 0x32).withKol { (s.took src.toNat 0x32).kol with txns := tdel s.kol.txns txn.toNat } := ⟨_, rfl⟩
  have quorum : v.quorumOf r = s.quorumOf r := by rw [hv]; rfl
  have run : exec (.escReply src txn status fields) s = .next (s.keeps (if status ≠ 0 || r.result.isSome then v.escOwn i
      else (((v.incFld DEC_ESC_CNT DEC_ESC_CNT_ESC_READ (((voteRegion (v.quorumOf r) r).map (takeReply (replyFields (fields.length + 1) fields))).filter (·.escalated)).length).endSeq i
        .aborted).closeRegion q.region ((voteRegion (v.quorumOf r) r).map (takeReply (replyFields (fields.length + 1) fields)))).tidy)) := by
    rw [exec, execEscReply, State.onMain_keeps _ released]
    dsimp only
    rw [show (s.took src.toNat 0x32).kol.txns = s.kol.txns from rfl, found]
    dsimp only
    rw [mine]
    dsimp only
    rw [if_neg (not_not.2 dst), show (s.took src.toNat 0x32).seqs = s.seqs from rfl, seq]
    dsimp only
    rw [show (s.took src.toNat 0x32).regions = s.regions from rfl, region, hv]
    rfl
  refine ⟨v, by rw [hv]; rfl, by rw [hv]; exact tfind_tdel_same .., fun ended => ?_, fun ok open_ => ?_⟩
  · rw [run, if_pos]
    rcases ended with h | h
    · rw [decide_eq_true h, Bool.true_or]
    · rw [h, Bool.or_true]
  · rw [run, if_neg (by simp [ok, open_]), quorum]

/-- A field that wanted the escalation takes what the reply read. -/
theorem takeReply_read (rs : List (Nat × Nat × Nat × Nat × List Byte)) (f : FieldRes) (id conf flags : Nat) (value : List Byte) (wants : wantsEsc [f] = true)
    (found : rs.find? (fun (r : Nat × Nat × Nat × Nat × List Byte) => r.1 == f.id) = some (id, 1, conf, flags, value)) :
    (takeReply rs f).status = .read ∧ (takeReply rs f).value = value ∧ (takeReply rs f).conf = conf ∧ (takeReply rs f).escalated = true := by
  unfold takeReply
  rw [wants, found]
  exact ⟨rfl, rfl, rfl, rfl⟩

end

/-- Settles O53: each message of the relay and of an escalation in its cases (R377, R378, R447-R452, R456). -/
theorem relayAndEscalation : Obligations.RelayAndEscalation := by
  unfold Obligations.RelayAndEscalation
  refine ⟨fun s seq released => ?_, fun s src txn released => ⟨fun body => ⟨fun m => escHead_again released body, escHead_refused released body⟩, escHead_clauses released,
    escData_unknown released, fun e data => escData_clauses released data, escReply_unknown released,
    fun t i q r status fields => escReply_clauses released status fields, takeReply_read⟩⟩
  intro src size stored
  have spans (n : Nat) : s.relaySpans n = [(s.pair KOL_RELAY_BASE_LO / 4096 * 4096 + s.kol.relayPos, min n (size - s.kol.relayPos)),
    (s.pair KOL_RELAY_BASE_LO / 4096 * 4096, n - (size - s.kol.relayPos))].filter (fun p => p.2 ≠ 0) := rfl
  have ring : size = s.relaySize := rfl
  have written : stored = s.relayWritten := rfl
  clear_value size stored
  subst ring written
  refine ⟨relay_other released, spans, fun source next => ⟨fun b => ?_, relayLine_unowned released source next, fun tag k d l key r => relayLine_clauses released source next tag k d l,
      relaySeal_unowned released source next, fun i l t0 key r => relaySeal_stored released source next i l t0, relayResult_part released source next, relayResult_last released source next⟩,
    resultAck_unknown released, fun item i => resultAck_live released item, heartbeat_alone released, fun d partner => ⟨?_, ?_, ?_, ?_, fun t0 => heartbeatTimeout_clauses released partner⟩⟩
  · exact relayOpen_clauses released source next b rfl
  · rw [exec, execHeartbeatSend, State.onMain_keeps _ released, partner]
  · exact fun b acc => (heartbeat_clauses released partner b acc).1
  · exact fun b acc => (heartbeat_clauses released partner b acc).2.1
  · exact fun b acc => (heartbeat_clauses released partner b acc).2.2

end Sys2Proof.Machine
end


section
/-! SUPPORT. O54: an offset measured, and what it does to fabric time. -/

namespace Sys2Proof.Machine

/-! ### An offset noted (R470, R482) -/

theorem State.setLocked_shows (s : State) : s.regsSame s.setLocked [TIM_STAT, TIM_IRQ_STAT]
    ∧ s.setLocked.on TIM_STAT TIM_STAT_HOLDOVER = s.on TIM_STAT TIM_STAT_HOLDOVER ∧ s.setLocked.on TIM_STAT TIM_STAT_REROUTE_HOLD = s.on TIM_STAT TIM_STAT_REROUTE_HOLD
    ∧ s.setLocked = { s with regs := s.setLocked.regs, msix := s.setLocked.msix, msixPend := s.setLocked.msixPend } := by
  unfold State.setLocked
  extract_lets l was u
  have same : s.regsSame u [TIM_STAT] := fun a away => State.reg_setFld_ne s _ _ fun e => away (List.mem_singleton.mpr e)
  have hold : u.on TIM_STAT TIM_STAT_HOLDOVER = s.on TIM_STAT TIM_STAT_HOLDOVER := State.on_setFld_other _ _ _ (by decide) (by decide) (by decide)
  have reroute : u.on TIM_STAT TIM_STAT_REROUTE_HOLD = s.on TIM_STAT TIM_STAT_REROUTE_HOLD := State.on_setFld_other _ _ _ (by decide) (by decide) (by decide)
  have only : s.RegsOnly u := (State.RegsOnly.refl s).setFld _ _ _
  clear_value u
  split
  · have raised (a : Nat) (ne : a ≠ TIM_IRQ_STAT) : (u.raise TIM_IRQ_STAT 1).reg a = u.reg a := State.reg_raise_ne u 1 ne
    refine ⟨fun a away => ?_, ?_, ?_, ?_⟩
    · simp only [List.mem_cons, List.not_mem_nil, or_false, not_or] at away
      rw [raised a away.2, same a (by simpa using away.1)]
    · rw [State.on_congr (raised _ (by decide)), hold]
    · rw [State.on_congr (raised _ (by decide)), reroute]
    · rw [State.raise_eq, only]
  · refine ⟨fun a away => same a (fun m => away ?_), hold, reroute, ?_⟩
    · exact List.mem_cons.2 (.inl (List.mem_singleton.1 m))
    · rw [only]

/-- The offset stands among the last 16 and in TIM_OFFSET. -/
def State.offsetNoted (s : State) (off : Rat) : State := ({ s with tim := { s.tim with recent := (off :: s.tim.recent).take 16 } }.setReg TIM_OFFSET (sat32 (ratRound off))).setLocked

theorem State.offsetNoted_shows (s : State) (off : Rat) : s.regsSame (s.offsetNoted off) [TIM_STAT, TIM_OFFSET, TIM_IRQ_STAT]
    ∧ (s.offsetNoted off).num TIM_OFFSET = (sat32 (ratRound off)).toNat
    ∧ (s.offsetNoted off).on TIM_STAT TIM_STAT_HOLDOVER = s.on TIM_STAT TIM_STAT_HOLDOVER
    ∧ (s.offsetNoted off).on TIM_STAT TIM_STAT_REROUTE_HOLD = s.on TIM_STAT TIM_STAT_REROUTE_HOLD
    ∧ s.offsetNoted off = { s with regs := (s.offsetNoted off).regs, msix := (s.offsetNoted off).msix, msixPend := (s.offsetNoted off).msixPend
                                   tim := { s.tim with recent := (off :: s.tim.recent).take 16 } } := by
  unfold State.offsetNoted
  obtain ⟨w, hw⟩ : ∃ w : State, w = { s with tim := { s.tim with recent := (off :: s.tim.recent).take 16 } } := ⟨_, rfl⟩
  have base : w.regs = s.regs := by rw [hw]
  rw [← hw]
  obtain ⟨u, hu⟩ : ∃ u, u = w.setReg TIM_OFFSET (sat32 (ratRound off)) := ⟨_, rfl⟩
  have reg (a : Nat) (ne : a ≠ TIM_OFFSET) : u.reg a = s.reg a := by rw [hu, State.reg_setReg_ne _ _ ne, State.reg_of_regs base]
  have shown : u.reg TIM_OFFSET = sat32 (ratRound off) := by
    rw [hu]
    exact State.reg_setReg_same ..
  have only : w.RegsOnly u := by
    rw [hu]
    exact (State.RegsOnly.refl w).setReg ..
  rw [← hu]
  obtain ⟨same, hold, reroute, frame⟩ := u.setLocked_shows
  generalize u.setLocked = v at same hold reroute frame
  refine ⟨fun a away => ?_, ?_, ?_, ?_, ?_⟩
  · simp only [List.mem_cons, List.not_mem_nil, or_false, not_or] at away
    obtain ⟨stat, offset, irq⟩ := away
    rw [same a (by simp [stat, irq]), reg a offset]
  · rw [State.num_congr (same _ (by decide)), State.num, shown]
  · rw [hold, State.on_congr (reg _ (by decide))]
  · rw [reroute, State.on_congr (reg _ (by decide))]
  · rw [frame, only, hw]

section
variable {s : State} {off : Rat}

theorem State.offsetIn_eq (s : State) (off : Rat) : s.offsetIn off = if decide (s.tim.recent = []) && !(s.offsetNoted off).on HIF_STAT HIF_STAT_READY then
      ((s.offsetNoted off).stepTime (ratRound (-off * 65536)), ratRound (-off * 65536))
      else if (s.offsetNoted off).on TIM_STAT TIM_STAT_REROUTE_HOLD then (s.offsetNoted off, 0)
      else if (s.offsetNoted off).on TIM_STAT TIM_STAT_HOLDOVER then
        if ratAbs off ≤ ((s.offsetNoted off).num TIM_STEP_LIMIT) then
          if (s.offsetNoted off).tim.good = 2 then ((s.offsetNoted off).endHoldover, 0) else ({ s.offsetNoted off with tim := { (s.offsetNoted off).tim with good := (s.offsetNoted off).tim.good + 1 } }, 0)
        else ({ s.offsetNoted off with tim := { (s.offsetNoted off).tim with good := 0 } }, 0)
      else if ((s.offsetNoted off).num TIM_STEP_LIMIT : Rat) < ratAbs off then ((s.offsetNoted off).refuseStep off, 0)
      else ((s.offsetNoted off).slew off, 0) := rfl

theorem State.offsetNoted_ready (s : State) (off : Rat) : (s.offsetNoted off).on HIF_STAT HIF_STAT_READY = s.isReady :=
  State.on_congr ((s.offsetNoted_shows off).1 HIF_STAT (by decide)) _

/-- The first offset before READY moves time at once (R560). -/
theorem State.offsetIn_first (first : s.tim.recent = []) (kickoff : s.isReady = false) :
    s.offsetIn off = ((s.offsetNoted off).stepTime (ratRound (-off * 65536)), ratRound (-off * 65536)) := by
  rw [State.offsetIn_eq, if_pos (by rw [s.offsetNoted_ready, first, kickoff]; rfl)]

/-- What a later offset does, or one at READY (R472-R474, R478). -/
def State.disciplined (s : State) (off : Rat) : State :=
  if s.on TIM_STAT TIM_STAT_REROUTE_HOLD then s
  else if s.on TIM_STAT TIM_STAT_HOLDOVER then
    if ratAbs off ≤ (s.num TIM_STEP_LIMIT : Rat) then if s.tim.good = 2 then s.endHoldover else { s with tim := { s.tim with good := s.tim.good + 1 } }
    else { s with tim := { s.tim with good := 0 } }
  else if (s.num TIM_STEP_LIMIT : Rat) < ratAbs off then s.refuseStep off
  else s.slew off

theorem State.offsetIn_later (later : s.tim.recent ≠ [] ∨ s.isReady = true) : s.offsetIn off = ((s.offsetNoted off).disciplined off, 0) := by
  rw [State.offsetIn_eq, if_neg (by rw [s.offsetNoted_ready]; rcases later with h | h <;> simp [h]), State.disciplined]
  generalize s.offsetNoted off = v
  split
  · rfl
  · split
    · split
      · split <;> rfl
      · rfl
    · split <;> rfl

/-! ### Slewing and refusing (R472-R474) -/

theorem State.setRate_shows (s : State) (r : Rat) : s.regsSame (s.setRate r) [TIM_RATE] ∧ s.setRate r = { s with tim := { s.tim with rate := clampRate r }, regs := (s.setRate r).regs } :=
  ⟨fun _ away => State.reg_setReg_ne _ _ fun e => away (List.mem_singleton.mpr e), rfl⟩

theorem State.slew_shows (s : State) (off : Rat) :
    let f := s.tim.freq - off / (2 ^ s.fld TIM_CFG TIM_CFG_KI_SHIFT) / (s.fld TIM_CFG TIM_CFG_SYNC_US)
    s.regsSame (s.slew off) [TIM_RATE] ∧ s.slew off = { s with tim := { s.tim with freq := f, rate := max (-100000) (min 100000 (f - off / (s.fld TIM_CFG TIM_CFG_SLEW_WIN_MS))) }, regs := (s.slew off).regs } := by
  intro f
  have same := ({ s with tim := { s.tim with freq := f } } : State).setRate_shows (f - off / (s.fld TIM_CFG TIM_CFG_SLEW_WIN_MS))
  exact ⟨same.1, same.2⟩

theorem State.refuseStep_shows (s : State) (off : Rat) : s.regsSame (s.refuseStep off) [TIM_STAT, TIM_PENDING_LO, TIM_PENDING_HI, TIM_RATE, TIM_IRQ_STAT]
    ∧ (s.refuseStep off).pair TIM_PENDING_LO = uns 64 (ratRound (-off)) % 2 ^ 64 ∧ (s.refuseStep off).on TIM_STAT TIM_STAT_STEP_REFUSED = true
    ∧ (s.refuseStep off).on TIM_STAT TIM_STAT_HOLDOVER = true ∧ bit ((s.refuseStep off).num TIM_IRQ_STAT) 0 = true
    ∧ s.refuseStep off = { s with regs := (s.refuseStep off).regs, tim := { s.tim with good := 0, rate := max (-100000) (min 100000 s.tim.freq) }, msix := (s.refuseStep off).msix, msixPend := (s.refuseStep off).msixPend } := by
  obtain ⟨u, hu⟩ : ∃ u, u = s.setPair TIM_PENDING_LO (uns 64 (ratRound (-off))) := ⟨_, rfl⟩
  have pending : u.pair TIM_PENDING_LO = uns 64 (ratRound (-off)) % 2 ^ 64 := by
    rw [hu]
    exact s.pair_setPair TIM_PENDING_LO _
  have onlyU : s.RegsOnly u := by
    rw [hu]
    exact (State.RegsOnly.refl s).setPair _ _
  have regU (a : Nat) (low : a ≠ TIM_PENDING_LO) (high : a ≠ TIM_PENDING_HI) : u.reg a = s.reg a := by
    rw [hu]
    exact State.reg_setPair_ne s _ low high
  obtain ⟨v, hv⟩ : ∃ v, v = (u.setFld TIM_STAT TIM_STAT_STEP_REFUSED 1).setFld TIM_STAT TIM_STAT_HOLDOVER 1 := ⟨_, rfl⟩
  have onlyV : u.RegsOnly v := by
    rw [hv]
    exact ((State.RegsOnly.refl u).setFld ..).setFld ..
  have regV (a : Nat) (ne : a ≠ TIM_STAT) : v.reg a = u.reg a := by rw [hv, State.reg_setFld_ne _ _ _ ne, State.reg_setFld_ne _ _ _ ne]
  have refused : v.on TIM_STAT TIM_STAT_STEP_REFUSED = true := by
    rw [hv, State.on_setFld_other _ _ _ (by decide) (by decide) (by decide)]
    exact State.on_setFld_one _ _ (by decide) (by decide)
  have hold : v.on TIM_STAT TIM_STAT_HOLDOVER = true := by
    rw [hv]
    exact State.on_setFld_one _ _ (by decide) (by decide)
  have both : s.RegsOnly v := State.RegsOnly.trans onlyU onlyV
  obtain ⟨w, hw⟩ : ∃ w : State, w = { v with tim := { v.tim with good := 0 } }.setRate v.tim.freq := ⟨_, rfl⟩
  have eq : s.refuseStep off = w.raise TIM_IRQ_STAT 0 := by
    rw [hw, hv, hu]
    rfl
  obtain ⟨regW, frameW⟩ := ({ v with tim := { v.tim with good := 0 } } : State).setRate_shows v.tim.freq
  rw [← hw] at regW frameW
  have regW' (a : Nat) (ne : a ≠ TIM_RATE) : w.reg a = v.reg a := regW a (by simpa using ne)
  have tim : v.tim = s.tim := both.same State.tim (fun _ _ => rfl)
  have regX (a : Nat) (ne : a ≠ TIM_IRQ_STAT) : (w.raise TIM_IRQ_STAT 0).reg a = w.reg a := State.reg_raise_ne w 0 ne
  rw [eq]
  have stat : (w.raise TIM_IRQ_STAT 0).reg TIM_STAT = v.reg TIM_STAT := (regX _ (by decide)).trans (regW' _ (by decide))
  have away (a : Nat) (irq : a ≠ TIM_IRQ_STAT) (rate : a ≠ TIM_RATE) (ne : a ≠ TIM_STAT) : (w.raise TIM_IRQ_STAT 0).reg a = u.reg a := by rw [regX a irq, regW' a rate, regV a ne]
  refine ⟨fun a out => ?_, ?_, ?_, ?_, State.bit_raise w _ (by decide), ?_⟩
  · simp only [List.mem_cons, List.not_mem_nil, or_false, not_or] at out
    obtain ⟨ne, low, high, rate, irq⟩ := out
    rw [away a irq rate ne, regU a low high]
  · rw [State.pair_congr (away _ (by decide) (by decide) (by decide)) (away _ (by decide) (by decide) (by decide)), pending]
  · rw [State.on_congr stat, refused]
  · rw [State.on_congr stat, hold]
  · rw [State.raise_eq, frameW, tim, both]
    rfl

end

end Sys2Proof.Machine
end


section
/-! SUPPORT. O54: FOLLOW and the servo. -/

namespace Sys2Proof.Machine

section
variable {s : State} {off : Rat}

/-! ### What an offset may change (R472-R474) -/

theorem State.endHoldover_frame (s : State) : s.endHoldover = { s with regs := s.endHoldover.regs, tim := { s.tim with good := 0 } } := by
  obtain ⟨u, hu⟩ : ∃ u, u = (s.setFld TIM_STAT TIM_STAT_HOLDOVER 0).setPair TIM_PENDING_LO 0 := ⟨_, rfl⟩
  have only : s.RegsOnly u := by
    rw [hu]
    exact ((State.RegsOnly.refl s).setFld ..).setPair _ _
  have eq : s.endHoldover = { u with tim := { s.tim with good := 0 } } := by
    rw [hu]
    rfl
  rw [eq, only]

theorem State.disciplined_frame (s : State) (off : Rat) : s.regsSame (s.disciplined off) [TIM_STAT, TIM_PENDING_LO, TIM_PENDING_HI, TIM_RATE, TIM_IRQ_STAT]
    ∧ s.disciplined off = { s with regs := (s.disciplined off).regs, tim := { s.tim with freq := (s.disciplined off).tim.freq, rate := (s.disciplined off).tim.rate, good := (s.disciplined off).tim.good }, msix := (s.disciplined off).msix, msixPend := (s.disciplined off).msixPend } := by
  unfold State.disciplined
  split
  · exact ⟨fun _ _ => rfl, rfl⟩
  · split
    · split
      · split
        · obtain ⟨-, -, same, -⟩ := s.endHoldover_shows
          refine ⟨fun a away => same a (fun m => away ?_), ?_⟩
          · simp only [List.mem_cons, List.not_mem_nil, or_false] at m ⊢
            omega
          · rw [s.endHoldover_frame]
        · exact ⟨fun _ _ => rfl, rfl⟩
      · exact ⟨fun _ _ => rfl, rfl⟩
    · split
      · obtain ⟨same, -, -, -, -, frame⟩ := s.refuseStep_shows off
        exact ⟨same, by rw [frame]⟩
      · obtain ⟨same, frame⟩ := s.slew_shows off
        refine ⟨fun a away => same a (fun m => away ?_), by rw [frame]⟩
        simp only [List.mem_cons, List.not_mem_nil, or_false] at m ⊢
        omega

/-- An offset in range slews, one beyond is refused; in holdover small offsets are counted (R472-R474). -/
theorem State.disciplined_cases (s : State) (off : Rat) (free : s.on TIM_STAT TIM_STAT_REROUTE_HOLD = false) :
    (s.on TIM_STAT TIM_STAT_HOLDOVER = false → ratAbs off ≤ (s.num TIM_STEP_LIMIT : Rat) →
      let f := s.tim.freq - off / (2 ^ s.fld TIM_CFG TIM_CFG_KI_SHIFT) / (s.fld TIM_CFG TIM_CFG_SYNC_US)
      (s.disciplined off).tim.freq = f ∧ (s.disciplined off).tim.rate = max (-100000) (min 100000 (f - off / (s.fld TIM_CFG TIM_CFG_SLEW_WIN_MS))))
    ∧ (s.on TIM_STAT TIM_STAT_HOLDOVER = false → (s.num TIM_STEP_LIMIT : Rat) < ratAbs off →
      (s.disciplined off).pair TIM_PENDING_LO = uns 64 (ratRound (-off)) % 2 ^ 64 ∧ (s.disciplined off).on TIM_STAT TIM_STAT_STEP_REFUSED = true
      ∧ (s.disciplined off).on TIM_STAT TIM_STAT_HOLDOVER = true ∧ (s.disciplined off).tim.rate = max (-100000) (min 100000 s.tim.freq) ∧ bit ((s.disciplined off).num TIM_IRQ_STAT) 0 = true)
    ∧ (s.on TIM_STAT TIM_STAT_HOLDOVER = true → ratAbs off ≤ (s.num TIM_STEP_LIMIT : Rat) →
      (s.tim.good = 2 → (s.disciplined off).on TIM_STAT TIM_STAT_HOLDOVER = false ∧ (s.disciplined off).pair TIM_PENDING_LO = 0)
      ∧ (s.tim.good ≠ 2 → (s.disciplined off).tim.good = s.tim.good + 1 ∧ (s.disciplined off).on TIM_STAT TIM_STAT_HOLDOVER = true))
    ∧ (s.on TIM_STAT TIM_STAT_HOLDOVER = true → (s.num TIM_STEP_LIMIT : Rat) < ratAbs off → (s.disciplined off).tim.good = 0 ∧ (s.disciplined off).on TIM_STAT TIM_STAT_HOLDOVER = true) := by
  unfold State.disciplined
  rw [if_neg (by rw [free]; decide)]
  refine ⟨fun locked near => ?_, fun locked far => ?_, fun over_ near => ⟨fun third => ?_, fun fewer => ?_⟩, fun over_ far => ?_⟩
  · rw [if_neg (by rw [locked]; decide), if_neg (not_lt.2 near)]
    obtain ⟨-, frame⟩ := s.slew_shows off
    rw [frame]
    exact ⟨rfl, rfl⟩
  · rw [if_neg (by rw [locked]; decide), if_pos far]
    obtain ⟨-, pending, refused, hold, raised, frame⟩ := s.refuseStep_shows off
    exact ⟨pending, refused, hold, by rw [frame], raised⟩
  · rw [if_pos over_, if_pos near, if_pos third]
    obtain ⟨pending, hold, -⟩ := s.endHoldover_shows
    exact ⟨hold, pending⟩
  · rw [if_pos over_, if_pos near, if_neg fewer]
    exact ⟨rfl, over_⟩
  · rw [if_pos over_, if_neg (not_le.2 far)]
    exact ⟨rfl, over_⟩

end

/-! ### FOLLOW (R470-R474) -/

section
variable {s : State} {n : Fin 6} {id : BitVec 16} {hops : BitVec 8} {stamp : Stamp}

theorem follow_ignored (released : s.sys.released = true)
    (ignored : (s.tport n).syncRx.find? (fun x => x.1 == id.toNat) = none ∨ s.linkUp n = false ∨ s.tim.parent ≠ some n.val) :
    exec (.follow n id hops stamp) s = .next (s.took (256 + n) 0x40) := by
  rw [exec, execFollow]
  refine (State.onTime_none (t := s.took (256 + n) 0x40) released ?_).trans rfl
  dsimp only
  have same : (s.took (256 + n) 0x40).tport n = s.tport n := rfl
  rw [same]
  cases found : (s.tport n).syncRx.find? (fun x => x.1 == id.toNat) with
  | none => rfl
  | some x =>
    obtain ⟨i, rx⟩ := x
    dsimp only
    rw [if_pos]
    rcases ignored with h | h | h
    · rw [found] at h
      cases h
    · rw [show (s.took (256 + n) 0x40).linkUp n = false from h]
      rfl
    · rw [show ((s.took (256 + n) 0x40).tim.parent != some n.val) = true from bne_iff_ne.2 h, Bool.or_true]

/-- The engine as a FOLLOW of its parent finds it: the SYNC is used up, and a hold whose burst has ended is over (R468, R478). -/
def State.followHeard (s : State) (n : Nat) (id : BitVec 16) : State :=
  let u := (s.took (256 + n) 0x40).modTport n (fun t => { t with syncRx := t.syncRx.filter (fun x => x.1 != id.toNat) })
  if u.on TIM_STAT TIM_STAT_REROUTE_HOLD && u.tim.burstEnded then u.setFld TIM_STAT TIM_STAT_REROUTE_HOLD 0 else u

theorem State.followHeard_shows (s : State) (n : Nat) (id : BitVec 16) : s.regsSame (s.followHeard n id) [TIM_STAT]
    ∧ (s.followHeard n id).on TIM_STAT TIM_STAT_HOLDOVER = s.on TIM_STAT TIM_STAT_HOLDOVER
    ∧ (s.followHeard n id).on TIM_STAT TIM_STAT_REROUTE_HOLD = (s.on TIM_STAT TIM_STAT_REROUTE_HOLD && !s.tim.burstEnded)
    ∧ s.followHeard n id = { s with tim := { s.tim with ports := (s.followHeard n id).tim.ports }, kol := (s.followHeard n id).kol, regs := (s.followHeard n id).regs } := by
  unfold State.followHeard
  dsimp only
  obtain ⟨u, hu⟩ : ∃ u, u = (s.took (256 + n) 0x40).modTport n (fun t => { t with syncRx := t.syncRx.filter (fun x => x.1 != id.toNat) }) := ⟨_, rfl⟩
  have frame : u = { s with tim := { s.tim with ports := u.tim.ports }, kol := u.kol } := by
    rw [hu]
    rfl
  have regs (a : Nat) : u.reg a = s.reg a := by rw [hu]; rfl
  have reroute : u.on TIM_STAT TIM_STAT_REROUTE_HOLD = s.on TIM_STAT TIM_STAT_REROUTE_HOLD := State.on_congr (regs _) _
  have hold : u.on TIM_STAT TIM_STAT_HOLDOVER = s.on TIM_STAT TIM_STAT_HOLDOVER := State.on_congr (regs _) _
  have burst : u.tim.burstEnded = s.tim.burstEnded := by rw [frame]
  rw [← hu, reroute, burst]
  split
  · rename_i both
    rw [Bool.and_eq_true] at both
    obtain ⟨v, hv⟩ : ∃ v, v = u.setFld TIM_STAT TIM_STAT_REROUTE_HOLD 0 := ⟨_, rfl⟩
    have only : u.RegsOnly v := by
      rw [hv]
      exact (State.RegsOnly.refl u).setFld ..
    rw [← hv]
    refine ⟨fun a away => ?_, ?_, ?_, ?_⟩
    · rw [hv, State.reg_setFld_ne _ _ _ (by simpa using away), regs]
    · rw [hv, State.on_setFld_other _ _ _ (by decide) (by decide) (by decide), hold]
    · rw [hv, State.on_setFld_zero _ _ (by decide) (by decide), both.1, both.2]
      rfl
    · rw [only, frame]
  · rename_i not
    refine ⟨fun a _ => regs a, hold, ?_, by rw [frame]⟩
    rw [reroute]
    clear * - not
    generalize s.on TIM_STAT TIM_STAT_REROUTE_HOLD = a at not ⊢
    cases a with
    | false => rfl
    | true => rw [Bool.true_and, Bool.not_eq_true] at not; rw [not]; rfl

theorem exec_follow (released : s.sys.released = true) {rx : Stamp} (found : (s.tport n).syncRx.find? (fun x => x.1 == id.toNat) = some (id.toNat, rx))
    (up : s.linkUp n = true) (parent : s.tim.parent = some n.val) {t : State} {c : Int}
    (step : (if s.fabricTime then (s.followHeard n id).offsetIn (mkRat (stampDiff rx stamp) 65536 - s.delayOf n) else (s.followHeard n id, 0)) = (t, c)) :
    exec (.follow n id hops stamp) s = .next { t with pending := s.pending, met := s.met.takeStep c t.tim.stopNs } := by
  have away := (s.followHeard_shows n id).1
  have source : (s.followHeard n id).fabricTime = s.fabricTime := by
    rw [State.fabricTime, State.timeSrc, State.fld_congr (away TIM_CFG (by decide))]
    rfl
  have delay : (s.followHeard n id).delayOf n = s.delayOf n := by
    have small := n.isLt
    have d : (s.followHeard n id).num (TIM_PORT_DELAY n) = s.num (TIM_PORT_DELAY n) := State.num_congr (away _ (by simp only [TIM_PORT_DELAY, TIM_STAT, List.mem_singleton]; omega))
    have a : (s.followHeard n id).num (TIM_PORT_ASYM n) = s.num (TIM_PORT_ASYM n) := State.num_congr (away _ (by simp only [TIM_PORT_ASYM, TIM_STAT, List.mem_singleton]; omega))
    rw [State.delayOf, State.asym, d, a]
    rfl
  rw [exec, execFollow]
  refine State.onTime_step released ?_
  dsimp only
  rw [show (s.took (256 + n) 0x40).tport n = s.tport n from rfl, found]
  dsimp only
  rw [if_neg, ← step, ← source, ← delay]
  · rfl
  · rw [show (s.took (256 + n) 0x40).linkUp n = true from up, show (s.took (256 + n) 0x40).tim.parent = some n.val from parent]
    rw [bne_self_eq_false]
    decide

end

end Sys2Proof.Machine
end


section
/-! SUPPORT. O54: the cases of a FOLLOW. -/

namespace Sys2Proof.Machine

section
variable {s : State} {n : Fin 6} {id : BitVec 16} {hops : BitVec 8} {stamp rx : Stamp}

/-- The engine that has noted the offset of a FOLLOW. -/
def State.followNoted (s : State) (n : Nat) (id : BitVec 16) (off : Rat) : State := (s.followHeard n id).offsetNoted off

theorem State.followNoted_shows (s : State) (n : Nat) (id : BitVec 16) (off : Rat) : s.regsSame (s.followNoted n id off) [TIM_STAT, TIM_OFFSET, TIM_IRQ_STAT]
    ∧ (s.followNoted n id off).num TIM_OFFSET = (sat32 (ratRound off)).toNat
    ∧ (s.followNoted n id off).on TIM_STAT TIM_STAT_HOLDOVER = s.on TIM_STAT TIM_STAT_HOLDOVER
    ∧ (s.followNoted n id off).on TIM_STAT TIM_STAT_REROUTE_HOLD = (s.on TIM_STAT TIM_STAT_REROUTE_HOLD && !s.tim.burstEnded)
    ∧ (s.followNoted n id off).tim = { s.tim with ports := (s.followNoted n id off).tim.ports, recent := (off :: s.tim.recent).take 16 }
    ∧ (s.followNoted n id off).items = s.items ∧ s.memSame (s.followNoted n id off) := by
  unfold State.followNoted
  obtain ⟨sameU, holdU, rerouteU, frameU⟩ := s.followHeard_shows n id
  generalize s.followHeard n id = u at sameU holdU rerouteU frameU
  obtain ⟨sameV, shown, holdV, rerouteV, frameV⟩ := u.offsetNoted_shows off
  generalize u.offsetNoted off = v at sameV shown holdV rerouteV frameV
  refine ⟨fun a away => ?_, shown, holdV.trans holdU, rerouteV.trans rerouteU, ?_, ?_, ?_⟩
  · rw [sameV a away, sameU a (fun m => away (by rw [List.mem_singleton.1 m]; decide))]
  · rw [frameV, frameU]
  · rw [frameV, frameU]
  · rw [frameV, frameU]
    exact State.memSame_of rfl rfl rfl rfl rfl

theorem State.keeps_rest (s v : State) : (s.keeps v).regs = v.regs ∧ (s.keeps v).tim = v.tim ∧ (s.keeps v).items = v.items ∧ (s.keeps v).met = s.met ∧ (s.keeps v).pending = s.pending :=
  ⟨rfl, rfl, rfl, rfl, rfl⟩

/-- What a change of the queue and of Norentum leaves as it is. -/
theorem State.requeued (w : State) (p : List Instr) (m : Met) : ∃ t : State, t = { w with pending := p, met := m } ∧ t.regs = w.regs ∧ t.tim = w.tim ∧ t.items = w.items ∧ t.met = m ∧ t.pending = p
    ∧ w.memSame t :=
  ⟨_, rfl, rfl, rfl, rfl, rfl, rfl, State.memSame_of rfl rfl rfl rfl rfl⟩

/-- What an offset that is not the first leaves (R472-R474). -/
theorem State.followDisciplined_shows (s : State) (n : Nat) (id : BitVec 16) (off : Rat) :
    let t := (s.followNoted n id off).disciplined off
    t.items = s.items ∧ s.memSame t ∧ t.num TIM_OFFSET = (sat32 (ratRound off)).toNat ∧ t.tim.recent = (off :: s.tim.recent).take 16 ∧ t.tim.now = s.tim.now := by
  intro t
  obtain ⟨-, shown, -, -, tim, items, mem⟩ := s.followNoted_shows n id off
  obtain ⟨same, frame⟩ := (s.followNoted n id off).disciplined_frame off
  change (s.followNoted n id off).regsSame t _ at same
  change t = _ at frame
  clear_value t
  generalize s.followNoted n id off = v at shown tim items mem same frame
  refine ⟨?_, ?_, ?_, ?_, ?_⟩
  · rw [frame, items]
  · intro a
    rw [frame]
    exact mem a
  · rw [State.num_congr (same _ (by decide)), shown]
  · rw [frame]
    exact (congrArg Tim.recent tim :)
  · rw [frame]
    exact (congrArg Tim.now tim :)

theorem State.followHeard_ready (s : State) (n : Nat) (id : BitVec 16) : (s.followHeard n id).isReady = s.isReady ∧ (s.followHeard n id).tim.recent = s.tim.recent := by
  obtain ⟨same, -, -, frame⟩ := s.followHeard_shows n id
  generalize s.followHeard n id = u at same frame
  exact ⟨State.on_congr (same HIF_STAT (by decide)) _, by rw [frame]⟩

/-- A FOLLOW while fabric offsets do not discipline the clock. -/
theorem follow_free (released : s.sys.released = true) (found : (s.tport n).syncRx.find? (fun x => x.1 == id.toNat) = some (id.toNat, rx))
    (up : s.linkUp n = true) (parent : s.tim.parent = some n.val) (free : s.fabricTime = false) :
    ∃ t, exec (.follow n id hops stamp) s = .next t ∧ t = { s with tim := t.tim, kol := t.kol, regs := t.regs } ∧ t.tim.now = s.tim.now ∧ t.tim.rate = s.tim.rate
      ∧ t.tim.recent = s.tim.recent ∧ s.regsSame t [TIM_STAT] := by
  have run := exec_follow (stamp := stamp) (hops := hops) released found up parent (if_neg (by rw [free]; decide))
  obtain ⟨same, -, -, frame⟩ := s.followHeard_shows n id
  generalize s.followHeard n id = u at run same frame
  rw [Met.takeStep_zero] at run
  refine ⟨_, run, ?_, ?_, ?_, ?_, same⟩
  · rw [frame]
  · exact congrArg (fun v => v.tim.now) frame
  · exact congrArg (fun v => v.tim.rate) frame
  · exact congrArg (fun v => v.tim.recent) frame

/-- The offset of a FOLLOW (R470). -/
def State.followOff (s : State) (n : Nat) (rx stamp : Stamp) : Rat := mkRat (stampDiff rx stamp) 65536 - s.delayOf n

theorem exec_follow_later (released : s.sys.released = true) (found : (s.tport n).syncRx.find? (fun x => x.1 == id.toNat) = some (id.toNat, rx))
    (up : s.linkUp n = true) (parent : s.tim.parent = some n.val) (fabric : s.fabricTime = true) (later : s.tim.recent ≠ [] ∨ s.isReady = true) :
    exec (.follow n id hops stamp) s = .next (s.keeps ((s.followNoted n id (s.followOff n rx stamp)).disciplined (s.followOff n rx stamp))) := by
  obtain ⟨ready, recent⟩ := s.followHeard_ready n id
  have run := exec_follow (stamp := stamp) (hops := hops) released found up parent ((if_pos fabric).trans (State.offsetIn_later (by rw [recent, ready]; exact later)))
  rw [Met.takeStep_zero] at run
  exact run

theorem exec_follow_first (released : s.sys.released = true) (found : (s.tport n).syncRx.find? (fun x => x.1 == id.toNat) = some (id.toNat, rx))
    (up : s.linkUp n = true) (parent : s.tim.parent = some n.val) (fabric : s.fabricTime = true) (first : s.tim.recent = []) (kickoff : s.isReady = false) :
    let t := (s.followNoted n id (s.followOff n rx stamp)).stepTime (ratRound (-s.followOff n rx stamp * 65536))
    exec (.follow n id hops stamp) s = .next { t with pending := s.pending, met := s.met.takeStep (ratRound (-s.followOff n rx stamp * 65536)) t.tim.stopNs } := by
  obtain ⟨ready, recent⟩ := s.followHeard_ready n id
  exact exec_follow (stamp := stamp) (hops := hops) released found up parent ((if_pos fabric).trans (State.offsetIn_first (by rw [recent, first]) (by rw [ready, kickoff])))

/-- While the burst of a new route runs the offset changes no rate (R478). -/
theorem follow_held (released : s.sys.released = true) (found : (s.tport n).syncRx.find? (fun x => x.1 == id.toNat) = some (id.toNat, rx))
    (up : s.linkUp n = true) (parent : s.tim.parent = some n.val) (fabric : s.fabricTime = true) (hold : s.on TIM_STAT TIM_STAT_REROUTE_HOLD = true)
    (burst : s.tim.burstEnded = false) (later : s.tim.recent ≠ [] ∨ s.isReady = true) :
    ∃ t, exec (.follow n id hops stamp) s = .next t ∧ t.met = s.met ∧ t.items = s.items ∧ s.memSame t ∧ t.tim.now = s.tim.now ∧ t.tim.rate = s.tim.rate ∧ t.tim.freq = s.tim.freq
      ∧ t.tim.good = s.tim.good ∧ t.num TIM_OFFSET = (sat32 (ratRound (s.followOff n rx stamp))).toNat ∧ s.regsSame t [TIM_STAT, TIM_OFFSET, TIM_IRQ_STAT] := by
  have run := exec_follow_later (stamp := stamp) (hops := hops) released found up parent fabric later
  obtain ⟨same, shown, -, held, tim, items, mem⟩ := s.followNoted_shows n id (s.followOff n rx stamp)
  generalize s.followNoted n id (s.followOff n rx stamp) = v at run same shown held tim items mem
  have rest : v.disciplined (s.followOff n rx stamp) = v := by
    unfold State.disciplined
    rw [held, hold, burst]
    exact if_pos rfl
  rw [rest] at run
  obtain ⟨t, ht⟩ : ∃ t, t = s.keeps v := ⟨_, rfl⟩
  obtain ⟨regs, tim', items', met, -⟩ := s.keeps_rest v
  have mem' := s.memSame_keeps v mem
  rw [← ht] at run regs tim' items' met mem'
  refine ⟨t, run, met, items'.trans items, mem', ?_, ?_, ?_, ?_, ?_, fun a away => ?_⟩
  · rw [tim', tim]
  · rw [tim', tim]
  · rw [tim', tim]
  · rw [tim', tim]
  · rw [State.num_congr (State.reg_of_regs regs _), shown]
  · rw [State.reg_of_regs regs, same a away]

/-- The step of the first offset before READY (R475, R560). -/
theorem State.stepTime_units (s : State) (c : Int) : (0 ≤ c → (s.stepTime c).tim.now = s.tim.now + BitVec.ofNat 64 c.toNat)
    ∧ (c < 0 → (s.stepTime c).tim.now = s.tim.now ∧ (s.stepTime c).tim.stopNs = s.tim.stopNs + cdiv c.natAbs 65536)
    ∧ (s.stepTime c).tim.recent = s.tim.recent ∧ (s.stepTime c).tim.ptp = s.tim.ptp ∧ s.stepTime c = { s with tim := (s.stepTime c).tim } := by
  unfold State.stepTime
  by_cases forward : 0 ≤ c
  · rw [if_pos forward]
    exact ⟨fun _ => rfl, fun back => absurd forward (by omega), rfl, rfl, rfl⟩
  · rw [if_neg forward]
    exact ⟨fun ahead => absurd ahead forward, fun _ => ⟨rfl, rfl⟩, rfl, rfl, rfl⟩

theorem State.stepTime_rest (s : State) (c : Int) : s.memSame (s.stepTime c) ∧ (s.stepTime c).regs = s.regs ∧ (s.stepTime c).items = s.items := by
  unfold State.stepTime
  split
  · exact ⟨State.memSame_of rfl rfl rfl rfl rfl, rfl, rfl⟩
  · exact ⟨State.memSame_of rfl rfl rfl rfl rfl, rfl, rfl⟩

/-- An offset disciplines the clock (R472-R474, R560). -/
theorem follow_disciplines (released : s.sys.released = true) (found : (s.tport n).syncRx.find? (fun x => x.1 == id.toNat) = some (id.toNat, rx))
    (up : s.linkUp n = true) (parent : s.tim.parent = some n.val) (fabric : s.fabricTime = true) (free : s.on TIM_STAT TIM_STAT_REROUTE_HOLD = false ∨ s.tim.burstEnded = true) :
    let off := mkRat (stampDiff rx stamp) 65536 - s.delayOf n
    ∃ t, exec (.follow n id hops stamp) s = .next t ∧ t.pending = s.pending ∧ t.items = s.items ∧ s.memSame t
      ∧ t.num TIM_OFFSET = (sat32 (ratRound off)).toNat ∧ t.tim.recent = (off :: s.tim.recent).take 16
      ∧ (s.tim.recent = [] → s.isReady = false → t.met = s.met.takeStep (ratRound (-off * 65536)) t.tim.stopNs
          ∧ (0 ≤ ratRound (-off * 65536) → t.tim.now = s.tim.now + BitVec.ofNat 64 (ratRound (-off * 65536)).toNat)
          ∧ (ratRound (-off * 65536) < 0 → t.tim.now = s.tim.now ∧ t.tim.stopNs = s.tim.stopNs + cdiv (ratRound (-off * 65536)).natAbs 65536))
      ∧ ((s.tim.recent ≠ [] ∨ s.isReady = true) → t.met = s.met ∧ t.tim.now = s.tim.now
          ∧ (s.on TIM_STAT TIM_STAT_HOLDOVER = false → ratAbs off ≤ (s.num TIM_STEP_LIMIT : Rat) →
              let f := s.tim.freq - off / (2 ^ s.fld TIM_CFG TIM_CFG_KI_SHIFT) / (s.fld TIM_CFG TIM_CFG_SYNC_US)
              t.tim.freq = f ∧ t.tim.rate = max (-100000) (min 100000 (f - off / (s.fld TIM_CFG TIM_CFG_SLEW_WIN_MS))))
          ∧ (s.on TIM_STAT TIM_STAT_HOLDOVER = false → (s.num TIM_STEP_LIMIT : Rat) < ratAbs off →
              t.pair TIM_PENDING_LO = uns 64 (ratRound (-off)) % 2 ^ 64 ∧ t.on TIM_STAT TIM_STAT_STEP_REFUSED = true ∧ t.on TIM_STAT TIM_STAT_HOLDOVER = true
              ∧ t.tim.rate = max (-100000) (min 100000 s.tim.freq) ∧ bit (t.num TIM_IRQ_STAT) 0 = true)
          ∧ (s.on TIM_STAT TIM_STAT_HOLDOVER = true → ratAbs off ≤ (s.num TIM_STEP_LIMIT : Rat) →
              (s.tim.good = 2 → t.on TIM_STAT TIM_STAT_HOLDOVER = false ∧ t.pair TIM_PENDING_LO = 0) ∧ (s.tim.good ≠ 2 → t.tim.good = s.tim.good + 1 ∧ t.on TIM_STAT TIM_STAT_HOLDOVER = true))
          ∧ (s.on TIM_STAT TIM_STAT_HOLDOVER = true → (s.num TIM_STEP_LIMIT : Rat) < ratAbs off → t.tim.good = 0 ∧ t.on TIM_STAT TIM_STAT_HOLDOVER = true)) := by
  intro off
  have same : off = s.followOff n rx stamp := rfl
  clear_value off
  obtain ⟨away, shown, hold, reroute, tim, items, mem⟩ := s.followNoted_shows n id off
  by_cases first : s.tim.recent = [] ∧ s.isReady = false
  · obtain ⟨none, kickoff⟩ := first
    have run := exec_follow_first (stamp := stamp) (hops := hops) released found up parent fabric none kickoff
    rw [← same] at run
    obtain ⟨v, hv⟩ : ∃ v, v = s.followNoted n id off := ⟨_, rfl⟩
    rw [← hv] at run shown tim items mem
    obtain ⟨ahead, back, recent, -, -⟩ := v.stepTime_units (ratRound (-off * 65536))
    obtain ⟨memW, regsW, itemsW⟩ := v.stepTime_rest (ratRound (-off * 65536))
    obtain ⟨w, hw⟩ : ∃ w, w = v.stepTime (ratRound (-off * 65536)) := ⟨_, rfl⟩
    dsimp only at run
    rw [← hw] at run ahead back recent memW regsW itemsW
    have now : v.tim.now = s.tim.now := (congrArg Tim.now tim :)
    have stop : v.tim.stopNs = s.tim.stopNs := (congrArg Tim.stopNs tim :)
    obtain ⟨t, ht, regs, tim', same', met, pending, queue⟩ := w.requeued s.pending (s.met.takeStep (ratRound (-off * 65536)) w.tim.stopNs)
    rw [← ht] at run
    refine ⟨t, run, pending, ?_, State.memSame_trans mem (State.memSame_trans memW queue), ?_, ?_, fun _ _ => ⟨?_, fun h => ?_, fun h => ?_⟩, fun later => ?_⟩
    · rw [same', itemsW, items]
    · rw [State.num_congr (State.reg_of_regs (regs.trans regsW) _), shown]
    · rw [tim', recent, tim]
    · rw [met, tim']
    · rw [tim', ahead h, now]
    · rw [tim', (back h).1, (back h).2, now, stop]
      exact ⟨rfl, rfl⟩
    · rcases later with h | h
      · exact absurd none h
      · rw [kickoff] at h
        cases h
  · have later : s.tim.recent ≠ [] ∨ s.isReady = true := by
      by_cases h : s.tim.recent = []
      · exact .inr (by by_contra busy; exact first ⟨h, Bool.eq_false_iff.2 busy⟩)
      · exact .inl h
    have run := exec_follow_later (stamp := stamp) (hops := hops) released found up parent fabric later
    rw [← same] at run
    obtain ⟨items', mem', shown', recent', now'⟩ := s.followDisciplined_shows n id off
    have clear : (s.followNoted n id off).on TIM_STAT TIM_STAT_REROUTE_HOLD = false := by
      rw [reroute]
      rcases free with h | h <;> simp [h]
    have cases := (s.followNoted n id off).disciplined_cases off clear
    have limit : (s.followNoted n id off).num TIM_STEP_LIMIT = s.num TIM_STEP_LIMIT := State.num_congr (away _ (by decide))
    have cfg (f : Fld) : (s.followNoted n id off).fld TIM_CFG f = s.fld TIM_CFG f := State.fld_congr (away _ (by decide)) _
    have freq : (s.followNoted n id off).tim.freq = s.tim.freq := (congrArg Tim.freq tim :)
    have good : (s.followNoted n id off).tim.good = s.tim.good := (congrArg Tim.good tim :)
    rw [limit, hold, cfg, cfg, cfg, freq, good] at cases
    obtain ⟨w, hw⟩ : ∃ w, w = (s.followNoted n id off).disciplined off := ⟨_, rfl⟩
    rw [← hw] at run items' mem' shown' recent' now' cases
    obtain ⟨t, ht⟩ : ∃ t, t = s.keeps w := ⟨_, rfl⟩
    obtain ⟨regs, tim', same', met, pending⟩ := s.keeps_rest w
    have mem := s.memSame_keeps w mem'
    rw [← ht] at run regs tim' same' met pending mem
    have num (a : Nat) : w.num a = t.num a := State.num_congr (State.reg_of_regs regs.symm a)
    have on (a : Nat) (f : Fld) : w.on a f = t.on a f := State.on_congr (State.reg_of_regs regs.symm a) f
    have pair (a : Nat) : w.pair a = t.pair a := State.pair_congr (State.reg_of_regs regs.symm _) (State.reg_of_regs regs.symm _)
    rw [← tim'] at recent' now'
    rw [num] at shown'
    simp only [num, on, pair, ← tim'] at cases
    exact ⟨t, run, pending, same'.trans items', mem, shown', recent', fun h h' => absurd ⟨h, h'⟩ first, fun _ => ⟨met, now', cases⟩⟩

end

end Sys2Proof.Machine
end


section
/-! SUPPORT. O54: the other TIME messages. -/

namespace Sys2Proof.Machine

section
variable {s : State} {n : Fin 6} {id : BitVec 16}

/-! ### Sending (R468) -/

theorem time_addressless (released : s.sys.released = true) (none : s.addr? = none) :
    exec .syncSend s = .next s ∧ exec (.pdReqSend n) s = .next s ∧ ∀ rx, exec (.pdReq n id rx) s = .next (s.took (256 + n) 0x40) := by
  have without : s.addr?.isNone = true := Option.isNone_iff_eq_none.2 none
  refine ⟨?_, ?_, fun rx => ?_⟩
  · rw [exec, execSyncSend, State.onMain_keeps _ released, if_pos without]
    rfl
  · rw [exec, execPdReqSend, State.onMain_keeps _ released]
    dsimp only
    rw [if_pos (by rw [without, Bool.or_true])]
    rfl
  · rw [exec, execPdReq, State.onMain_keeps _ released]
    dsimp only
    rw [if_pos (show (s.took (256 + n) 0x40).addr?.isNone = true from without)]
    rfl

theorem addr_some {s : State} (addr : s.addr?.isSome = true) : ¬ s.addr?.isNone = true := by
  rw [← Option.not_isSome, addr]
  decide

/-- FOLLOW carries the stamp at the pins of its SYNC (R465, R468). -/
theorem timeSent_sync (s : State) (n : Nat) {f : RFlit} (vc : f.vc = vcTime) (own : f.origin = none) (sync : leAt f.data 32 1 = 1) :
    ((s.timeSent n f).kport n).ready = (s.kport n).ready
      ++ s.msgFlits 0 0 1 vcTime (timeMsg 0 2 (leAt f.data 33 1) (leAt f.data 34 2) s.now (s.now + BitVec.ofNat 64 (s.fld (TIM_PORT_LAT n) TIM_PORT_LAT_FAC_TX_NS * 4096))) := by
  unfold State.timeSent
  dsimp only
  rw [if_neg (by simp [vc, own]), if_pos sync]
  exact congrArg KPort.ready (tget_tput_same ..)

theorem pdReqSend_sends (released : s.sys.released = true) (up : s.linkUp n = true) (addr : s.addr?.isSome = true) :
    ∃ v : State, exec (.pdReqSend n) s = .next (s.keeps (v.sendLocal n vcTime (timeMsg 0 3 s.timeHops (((s.tport n).reqId + 1) % 65536) s.now 0)))
      ∧ v = { s with tim := v.tim } ∧ v.tport n = { s.tport n with reqId := ((s.tport n).reqId + 1) % 65536, t1 := none, t2 := none, t4 := none, burst := (s.tport n).burst - 1 } := by
  obtain ⟨u, hu⟩ : ∃ u : State, u = { s with tim := { s.tim with burstEnded := s.tim.burstEnded || (s.tim.parent == some n.val && (s.tport n).burst == 0) } } := ⟨_, rfl⟩
  have same : u.tport n = s.tport n := by rw [hu]; rfl
  have hops (f : TPort → TPort) : (u.modTport n f).timeHops = s.timeHops := by rw [hu]; rfl
  have now (f : TPort → TPort) : (u.modTport n f).now = s.now := by rw [hu]; rfl
  refine ⟨u.modTport n (fun t => { t with reqId := ((s.tport n).reqId + 1) % 65536, t1 := none, t2 := none, t4 := none, burst := t.burst - 1 }), ?_, ?_, ?_⟩
  · rw [exec, execPdReqSend, State.onMain_keeps _ released]
    dsimp only
    rw [if_neg (by rw [up, ← Option.not_isSome, addr]; decide), ← hu, hops, now]
  · rw [hu]
    rfl
  · rw [State.tport, State.modTport]
    exact (tget_tput_same ..).trans (by rw [same])

theorem announceSend_clauses (released : s.sys.released = true) :
    (s.ptpLocked = true → exec .announceSend s = .next (s.keeps (s.sendFloodOn vcTime (fun seq => timeMsg seq 6 s.timeHops seq s.now 0))))
    ∧ (s.ptpLocked = false → exec .announceSend s = .next s) := by
  refine ⟨fun locked => ?_, fun free => ?_⟩
  · rw [exec, execAnnounceSend, State.onMain_keeps _ released, if_pos locked]
  · rw [exec, execAnnounceSend, State.onMain_keeps _ released, if_neg (by rw [free]; decide)]
    rfl

/-! ### Receiving (R465, R469, R471) -/

theorem sync_clauses (released : s.sys.released = true) (hops : BitVec 8) (rx : Stamp) :
    (s.linkUp n = true → s.tim.parent = some n.val → hops.toNat < s.timeHops → ∃ t, exec (.sync n id hops rx) s = .next t
      ∧ (t.tport n).syncRx = ((id.toNat, rx - BitVec.ofNat 64 (s.fld (TIM_PORT_LAT n) TIM_PORT_LAT_FAC_RX_NS * 4096)) :: (s.tport n).syncRx).take 8 ∧ t = { s with tim := t.tim, kol := t.kol })
    ∧ ((s.linkUp n = false ∨ s.tim.parent ≠ some n.val ∨ s.timeHops ≤ hops.toNat) → exec (.sync n id hops rx) s = .next (s.took (256 + n) 0x40)) := by
  have run : exec (.sync n id hops rx) s = .next (s.keeps (if s.linkUp n && s.tim.parent == some n.val && decide (hops.toNat < s.timeHops) then
      (s.took (256 + n) 0x40).modTport n (fun t => { t with syncRx := ((id.toNat, s.rxStamp n rx) :: t.syncRx).take 8 }) else s.took (256 + n) 0x40)) := by
    rw [exec, execSync, State.onMain_keeps _ released]
    rfl
  refine ⟨fun up parent lower => ?_, fun ignored => ?_⟩
  · rw [if_pos (by rw [up, parent, decide_eq_true lower, beq_self_eq_true]; rfl)] at run
    refine ⟨_, run, ?_, rfl⟩
    exact congrArg TPort.syncRx (tget_tput_same ..)
  · rw [run, if_neg]
    · rfl
    · intro takes
      rw [Bool.and_eq_true, Bool.and_eq_true, beq_iff_eq, decide_eq_true_eq] at takes
      obtain ⟨⟨up, parent⟩, lower⟩ := takes
      rcases ignored with h | h | h
      · rw [up] at h
        cases h
      · exact h parent
      · omega

theorem pdReq_answers (released : s.sys.released = true) (rx : Stamp) (addr : s.addr?.isSome = true) :
    exec (.pdReq n id rx) s = .next (s.keeps ((s.took (256 + n) 0x40).sendLocal n vcTime (timeMsg 0 4 s.timeHops id.toNat s.now (s.rxStamp n rx)))) := by
  rw [exec, execPdReq, State.onMain_keeps _ released]
  dsimp only
  rw [if_neg (show ¬ (s.took (256 + n) 0x40).addr?.isNone = true from addr_some addr)]
  rfl

theorem exec_pdResp (released : s.sys.released = true) (t2 rx : Stamp) : exec (.pdResp n id t2 rx) s = .next (s.keeps (
    if s.linkUp n && (s.tport n).reqId == id.toNat && (s.tport n).t1.isSome then (s.took (256 + n) 0x40).modTport n (fun t => { t with t2 := some t2, t4 := some (s.rxStamp n rx) })
    else s.took (256 + n) 0x40)) := by
  rw [exec, execPdResp, State.onMain_keeps _ released]
  rfl

theorem pdResp_ignored (released : s.sys.released = true) (t2 rx : Stamp) (ignored : s.linkUp n = false ∨ (s.tport n).reqId ≠ id.toNat ∨ (s.tport n).t1 = none) :
    exec (.pdResp n id t2 rx) s = .next (s.took (256 + n) 0x40) := by
  rw [exec_pdResp released, if_neg]
  · rfl
  · rcases ignored with h | h | h <;> simp [h]

theorem pdResp_taken (released : s.sys.released = true) (t2 rx : Stamp) (up : s.linkUp n = true) (mine : (s.tport n).reqId = id.toNat) (t1 : (s.tport n).t1.isSome = true) :
    ∃ t, exec (.pdResp n id t2 rx) s = .next t ∧ t.tport n = { s.tport n with t2 := some t2, t4 := some (s.rxStamp n rx) } ∧ t = { s with tim := t.tim, kol := t.kol } := by
  have run := exec_pdResp (id := id) (n := n) released t2 rx
  rw [if_pos (by simp [up, mine, t1])] at run
  exact ⟨_, run, tget_tput_same .., rfl⟩

/-! ### One sample of the delay (R469) -/

theorem pdFollow_ignored (released : s.sys.released = true) (t3 : Stamp)
    (ignored : s.linkUp n = false ∨ (s.tport n).reqId ≠ id.toNat ∨ (s.tport n).t1 = none ∨ (s.tport n).t2 = none ∨ (s.tport n).t4 = none) :
    exec (.pdFollow n id t3) s = .next (s.took (256 + n) 0x40) := by
  rw [exec, execPdFollow, State.onMain_keeps _ released]
  dsimp only
  rw [show (s.took (256 + n) 0x40).tport n = s.tport n from rfl]
  cases t1 : (s.tport n).t1 with
  | none => rfl
  | some a =>
    cases t2 : (s.tport n).t2 with
    | none => rfl
    | some b =>
      cases t4 : (s.tport n).t4 with
      | none => rfl
      | some c =>
        dsimp only
        rw [if_pos]
        · rfl
        · rcases ignored with h | h | h | h | h
          · rw [show (s.took (256 + n) 0x40).linkUp n = false from h]
            rfl
          · rw [show ((s.tport n).reqId != id.toNat) = true from bne_iff_ne.2 h, Bool.or_true]
          · rw [t1] at h
            cases h
          · rw [t2] at h
            cases h
          · rw [t4] at h
            cases h

/-- The exchange is over. -/
def State.exchanged (s : State) (n : Nat) : State :=
  let u := s.took (256 + n) 0x40
  { u with tim := { s.tim with burstEnded := s.tim.burstEnded || (s.tim.parent == some n && (s.tport n).burst == 0) } }.modTport n (fun t => { t with t1 := none, t2 := none, t4 := none })

theorem State.exchanged_shows (s : State) (n : Nat) : (s.exchanged n).tport n = { s.tport n with t1 := none, t2 := none, t4 := none }
    ∧ s.exchanged n = { s with tim := (s.exchanged n).tim, kol := (s.exchanged n).kol } :=
  ⟨tget_tput_same .., rfl⟩

/-- A sample of the delay as it is taken, or counted as bad. -/
def State.sampled (s : State) (n : Nat) (x : Rat) (l : List Rat) : State :=
  if x < 0 || 2000 < x then s.incFld (TIM_PORT_CNT n) TIM_PORT_CNT_PD_BAD
  else (s.modTport n (fun t => { t with samples := l })).setNum (TIM_PORT_DELAY n) (ratRound (meanOf l * 256)).toNat

theorem exec_pdFollow (released : s.sys.released = true) {t1 t2 t3 t4 : Stamp} (up : s.linkUp n = true) (mine : (s.tport n).reqId = id.toNat)
    (h1 : (s.tport n).t1 = some t1) (h2 : (s.tport n).t2 = some t2) (h4 : (s.tport n).t4 = some t4) :
    exec (.pdFollow n id t3) s = .next (s.keeps ((s.exchanged n).sampled n (mkRat (stampDiff t4 t1 - stampDiff t3 t2) 131072)
      ((mkRat (stampDiff t4 t1 - stampDiff t3 t2) 131072 :: (s.tport n).samples).take 16))) := by
  rw [exec, execPdFollow, State.onMain_keeps _ released]
  dsimp only
  rw [show (s.took (256 + n) 0x40).tport n = s.tport n from rfl, h1, h2, h4]
  dsimp only
  rw [if_neg]
  · rfl
  · rw [show (s.took (256 + n) 0x40).linkUp n = true from up, mine, bne_self_eq_false]
    decide

theorem State.sampled_shows (s : State) (n : Nat) (x : Rat) (l : List Rat) :
    (s.sampled n x l).pending = s.pending ∧ (s.sampled n x l).met = s.met ∧ ((s.tport n).t1 = none → ((s.sampled n x l).tport n).t1 = none)
    ∧ s.sampled n x l = { s with tim := (s.sampled n x l).tim, regs := (s.sampled n x l).regs }
    ∧ ((x < 0 ∨ 2000 < x) → (s.sampled n x l).fld (TIM_PORT_CNT n) TIM_PORT_CNT_PD_BAD = min (s.fld (TIM_PORT_CNT n) TIM_PORT_CNT_PD_BAD + 1) (fmax TIM_PORT_CNT_PD_BAD)
      ∧ (s.sampled n x l).tport n = s.tport n ∧ s.regsSame (s.sampled n x l) [TIM_PORT_CNT n])
    ∧ (0 ≤ x → x ≤ 2000 → ((s.sampled n x l).tport n).samples = l
      ∧ (s.sampled n x l).num (TIM_PORT_DELAY n) = (ratRound (meanOf l * 256)).toNat % 2 ^ 32 ∧ s.regsSame (s.sampled n x l) [TIM_PORT_DELAY n]) := by
  by_cases bad : x < 0 ∨ 2000 < x
  · have eq : s.sampled n x l = s.incFld (TIM_PORT_CNT n) TIM_PORT_CNT_PD_BAD := if_pos (by simpa using bad)
    have count := s.fld_incFld (TIM_PORT_CNT n) (f := TIM_PORT_CNT_PD_BAD) 1 (by decide) (by decide)
    have reg (a : Nat) (ne : a ≠ TIM_PORT_CNT n) : (s.incFld (TIM_PORT_CNT n) TIM_PORT_CNT_PD_BAD).reg a = s.reg a := State.reg_setFld_ne s _ _ ne
    have only : s.RegsOnly (s.incFld (TIM_PORT_CNT n) TIM_PORT_CNT_PD_BAD) := (State.RegsOnly.refl s).incFld ..
    rw [eq]
    obtain ⟨u, hu⟩ : ∃ u, u = s.incFld (TIM_PORT_CNT n) TIM_PORT_CNT_PD_BAD := ⟨_, rfl⟩
    rw [← hu] at count only ⊢
    have port : u.tport n = s.tport n := only.same (fun v => v.tport n) (fun _ _ => rfl)
    refine ⟨?_, ?_, fun none => by rw [port, none], ?_, fun _ => ⟨count, port, fun a away => ?_⟩, fun low high => ?_⟩
    · exact only.same State.pending (fun _ _ => rfl)
    · exact only.same State.met (fun _ _ => rfl)
    · rw [only]
    · rw [hu]
      exact reg a (by simpa using away)
    · rcases bad with h | h
      · exact absurd h (not_lt.2 low)
      · exact absurd h (not_lt.2 high)
  · have eq : s.sampled n x l = (s.modTport n (fun t => { t with samples := l })).setNum (TIM_PORT_DELAY n) (ratRound (meanOf l * 256)).toNat := if_neg (by simpa using bad)
    obtain ⟨v, hv⟩ : ∃ v, v = s.modTport n (fun t => { t with samples := l }) := ⟨_, rfl⟩
    have port : v.tport n = { s.tport n with samples := l } := by
      rw [hv]
      exact tget_tput_same ..
    have frame : v = { s with tim := v.tim } := by
      rw [hv]
      rfl
    rw [eq, ← hv]
    refine ⟨by rw [frame]; rfl, by rw [frame]; rfl, fun none => ?_, by rw [frame]; rfl, fun h => absurd h bad, fun _ _ => ⟨?_, ?_, fun a away => ?_⟩⟩
    · exact (congrArg TPort.t1 port).trans none
    · exact congrArg TPort.samples port
    · rw [State.num, State.setNum, State.reg_setReg_same, BitVec.toNat_ofNat]
    · rw [State.reg_setNum_ne v _ (by simpa using away), frame]
      rfl

theorem pdFollow_sampled (released : s.sys.released = true) {t1 t2 t3 t4 : Stamp} (up : s.linkUp n = true) (mine : (s.tport n).reqId = id.toNat)
    (h1 : (s.tport n).t1 = some t1) (h2 : (s.tport n).t2 = some t2) (h4 : (s.tport n).t4 = some t4) :
    let x := mkRat (stampDiff t4 t1 - stampDiff t3 t2) 131072
    ∃ t, exec (.pdFollow n id t3) s = .next t ∧ (t.tport n).t1 = none ∧ t = { s with tim := t.tim, kol := t.kol, regs := t.regs }
      ∧ ((x < 0 ∨ 2000 < x) → t.fld (TIM_PORT_CNT n) TIM_PORT_CNT_PD_BAD = min (s.fld (TIM_PORT_CNT n) TIM_PORT_CNT_PD_BAD + 1) (fmax TIM_PORT_CNT_PD_BAD) ∧ (t.tport n).samples = (s.tport n).samples
          ∧ s.regsSame t [TIM_PORT_CNT n])
      ∧ (0 ≤ x → x ≤ 2000 → (t.tport n).samples = (x :: (s.tport n).samples).take 16
          ∧ t.num (TIM_PORT_DELAY n) = (ratRound (meanOf ((x :: (s.tport n).samples).take 16) * 256)).toNat % 2 ^ 32 ∧ s.regsSame t [TIM_PORT_DELAY n]) := by
  intro x
  have run := exec_pdFollow (t3 := t3) released up mine h1 h2 h4
  have same : mkRat (stampDiff t4 t1 - stampDiff t3 t2) 131072 = x := rfl
  clear_value x
  rw [same] at run
  obtain ⟨port, frame⟩ := s.exchanged_shows n
  obtain ⟨u, hu⟩ : ∃ u, u = s.exchanged n := ⟨_, rfl⟩
  have regs : u.regs = s.regs := by rw [hu]; rfl
  have queue : u.pending = s.pending ∧ u.met = s.met := by
    rw [hu]
    exact ⟨rfl, rfl⟩
  rw [← hu] at run port frame
  obtain ⟨pending, met, t1', frame', bad, good⟩ := u.sampled_shows n x ((x :: (s.tport n).samples).take 16)
  obtain ⟨v, hv⟩ : ∃ v, v = u.sampled n x ((x :: (s.tport n).samples).take 16) := ⟨_, rfl⟩
  rw [← hv] at run pending met t1' frame' bad good
  rw [State.keeps_of (pending.trans queue.1) (met.trans queue.2)] at run
  refine ⟨v, run, t1' (by rw [port]), by rw [frame', frame], fun out => ?_, fun low high => ?_⟩
  · obtain ⟨count, port', reg⟩ := bad out
    refine ⟨by rw [count, State.fld_congr (State.reg_of_regs regs _)], by rw [port', port], fun a away => ?_⟩
    rw [reg a away, State.reg_of_regs regs]
  · obtain ⟨samples, delay, reg⟩ := good low high
    refine ⟨samples, delay, fun a away => ?_⟩
    rw [reg a away, State.reg_of_regs regs]

/-! ### ANNOUNCE (R467, R468) -/

theorem exec_announce (released : s.sys.released = true) (src : BitVec 8) (seq : BitVec 16) (hops : BitVec 8) : exec (.announce n src seq hops) s = .next (s.keeps (
    s.floodIn n src.toNat seq.toNat vcTime (timeMsg seq.toNat 6 hops.toNat seq.toNat s.now 0) (fun s =>
      ({ s with tim := { s.tim with announcers := tput s.tim.announcers src.toNat s.tb } }).parentCheck false))) := by
  rw [exec, execAnnounce, State.onMain_keeps _ released]

theorem announce_ignored (released : s.sys.released = true) (src : BitVec 8) (seq : BitVec 16) (hops : BitVec 8)
    (ignored : s.linkUp n = false ∨ s.addr? = some src.toNat ∨ (s.addr? = none ∧ s.kol.huddle.running = false) ∨ s.kol.floodDone.contains (src.toNat, seq.toNat) = true) :
    exec (.announce n src seq hops) s = .next (s.took src.toNat 0x40) := by
  rw [exec_announce released, State.floodIn_dropped _ ignored, timeMsg, leAt_mkMsg]
  rfl

theorem State.parentCheck_ptp (s : State) : (s.parentCheck false).tim.announcers = s.tim.announcers := by
  unfold State.parentCheck
  extract_lets p u _ v
  have only : s.RegsOnly u := (State.RegsOnly.refl s).setFld _ _ _
  have tim : u.tim = s.tim := only.same State.tim (fun _ _ => rfl)
  have kept : v.tim.announcers = s.tim.announcers := by
    rw [← tim]
  clear_value u v p
  split
  · rw [tim]
  · cases p with
    | none => exact kept
    | some n =>
      dsimp only
      rw [if_neg (by decide)]
      exact kept

theorem announce_taken (released : s.sys.released = true) (src : BitVec 8) (seq : BitVec 16) (hops : BitVec 8) (up : s.linkUp n = true) (other : s.addr? ≠ some src.toNat)
    (takes : s.addr?.isSome = true ∨ s.kol.huddle.running = true) (new : s.kol.floodDone.contains (src.toNat, seq.toNat) = false) :
    ∃ t, exec (.announce n src seq hops) s = .next t ∧ tfind t.tim.announcers src.toNat = some s.tb ∧ t = { s with tim := t.tim, kol := t.kol, regs := t.regs } := by
  have takes' : (s.addr?.isNone && !s.kol.huddle.running) = false := by
    rcases takes with h | h
    · rw [Option.isSome_iff_ne_none] at h
      simp [h]
    · simp [h]
  have run := exec_announce (n := n) released src seq hops
  rw [State.floodIn_first _ up other takes' new] at run
  obtain ⟨frame, -⟩ := s.flooded_shows n src.toNat seq.toNat vcTime (timeMsg seq.toNat 6 hops.toNat seq.toNat s.now 0)
  obtain ⟨w, hw⟩ : ∃ w, w = s.flooded n src.toNat seq.toNat vcTime (timeMsg seq.toNat 6 hops.toNat seq.toNat s.now 0) := ⟨_, rfl⟩
  rw [← hw] at run frame
  have tb : w.tb = s.tb := by rw [frame]
  obtain ⟨u, hu⟩ : ∃ u : State, u = { w with tim := { w.tim with announcers := tput w.tim.announcers src.toNat w.tb } } := ⟨_, rfl⟩
  have announced : tfind u.tim.announcers src.toNat = some s.tb := by
    rw [hu, ← tb]
    exact tfind_tput_same ..
  have frameU : u = { s with kol := u.kol, tim := u.tim } := by rw [hu, frame]
  dsimp only at run
  rw [← hu] at run
  have kept := u.parentCheck_ptp
  obtain ⟨-, check⟩ := u.parentCheck_shows
  obtain ⟨v, hv⟩ : ∃ v, v = u.parentCheck false := ⟨_, rfl⟩
  rw [← hv] at run kept check
  have frameV : v = { s with tim := v.tim, kol := v.kol, regs := v.regs } := by rw [check, frameU]
  rw [State.keeps_of (by rw [frameV]) (by rw [frameV])] at run
  exact ⟨v, run, by rw [kept, announced], frameV⟩

end

end Sys2Proof.Machine
end


section
/-! SUPPORT. O54: PTP and the Ethernet port. -/

namespace Sys2Proof.Machine

section
variable {s : State} {f : PtpFrame} {stamp : Stamp}

/-! ### Roles (R480, R482) -/

theorem State.ptpMine_iff (s : State) (f : PtpFrame) : s.ptpMine f = true ↔ f.domain.toNat = s.fld TIM_PTP_CFG TIM_PTP_CFG_DOMAIN ∧ f.l2 = s.on TIM_PTP_CFG TIM_PTP_CFG_L2 := by
  rw [State.ptpMine, Bool.and_eq_true, beq_iff_eq, beq_iff_eq]

theorem State.ptpSlave_iff (s : State) : s.ptpSlave = true ↔ s.timeSrc = 1 ∧ (s.fld TIM_STAT TIM_STAT_PTP_STATE = 2 ∨ s.fld TIM_STAT TIM_STAT_PTP_STATE = 3) := by
  rw [State.ptpSlave, Bool.and_eq_true, Bool.or_eq_true, beq_iff_eq, beq_iff_eq, beq_iff_eq]

theorem State.mayMaster_iff (s : State) : s.mayMaster = true ↔ s.timeSrc = 2 ∧ (s.isTimeRoot = true ∨ s.on TIM_STAT TIM_STAT_LOCKED = true) := by
  rw [State.mayMaster, Bool.and_eq_true, Bool.or_eq_true, beq_iff_eq]

theorem State.ptpMaster_iff (s : State) : s.ptpMaster = true ↔ (s.timeSrc = 2 ∧ (s.isTimeRoot = true ∨ s.on TIM_STAT TIM_STAT_LOCKED = true)) ∧ s.fld TIM_STAT TIM_STAT_PTP_STATE = 4 := by
  rw [State.ptpMaster, Bool.and_eq_true, s.mayMaster_iff, beq_iff_eq]

/-- The PTP message that leaves now. -/
def State.ptpOut (s : State) (m : PtpMsg) (st : Stamp) : PtpOut := { msg := m, domain := s.fld TIM_PTP_CFG TIM_PTP_CFG_DOMAIN, l2 := s.on TIM_PTP_CFG TIM_PTP_CFG_L2, stamp := st }

/-! ### Events without a step (R480) -/

section
variable (released : s.sys.released = true)
include released

theorem exec_ptp_delayResp (r : Stamp) (c : Int) : exec (.ptpEventFrame (.delayResp f r c) stamp) s =
    .next (s.keeps (if s.ethOn && s.ptpMine f && s.ptpSlave && !s.ptpPeer then s.ptpDelay r c else s)) := by
  rw [exec, execPtpEventFrame]
  exact State.onTime_none released rfl

theorem exec_ptp_pdelayResp (r x : Stamp) (c : Int) : exec (.ptpEventFrame (.pdelayResp f r x c) stamp) s =
    .next (s.keeps (if s.ethOn && s.ptpMine f && s.ptpPeer then s.ptpPdelay r x c (s.rxStamp 6 stamp) else s)) := by
  rw [exec, execPtpEventFrame]
  exact State.onTime_none released rfl

theorem exec_ptp_request (peer : Bool) : exec (.ptpEventFrame (.request f peer) stamp) s = .next (s.keeps (
    if !s.ethOn || !s.ptpMine f || peer != s.ptpPeer then s
    else if peer then (s.ptpSend .pdelayResp (s.rxStamp 6 stamp)).ptpSend .pdelayRespFollowUp (s.txStamp 6 s.now)
    else if s.ptpMaster then s.ptpSend .delayResp (s.rxStamp 6 stamp) else s)) := by
  rw [exec, execPtpEventFrame]
  exact State.onTime_none released rfl

theorem exec_ptp_other : exec (.ptpEventFrame .other stamp) s = .next s := by
  rw [exec, execPtpEventFrame]
  exact State.onTime_none (t := s) released rfl

theorem exec_ptp_sendSync : exec (.ptpEventFrame .sendSync stamp) s = .next (s.keeps (
    if s.ethOn && s.ptpMaster && s.ptpSyncDue then ((s.modPtp (fun p => { p with syncTb := some s.tb })).ptpSend .sync s.now).ptpSend .followUp (s.txStamp 6 stamp) else s)) := by
  rw [exec, execPtpEventFrame]
  exact State.onTime_none released rfl

theorem exec_ptp_sendRequest : exec (.ptpEventFrame .sendRequest stamp) s = .next (s.keeps (
    if !s.ethOn || !(s.ptpPeer || s.ptpSlave) then s
    else (s.ptpSend (if s.ptpPeer then .pdelayReq else .delayReq) 0).modPtp (fun p => { p with request := some (s.txStamp 6 stamp) }))) := by
  rw [exec, execPtpEventFrame]
  exact State.onTime_none released rfl

theorem exec_ptp_sent (p : Fin 7) (id : BitVec 16) : exec (.ptpEventFrame (.sent p id) stamp) s = .next (s.keeps (
    if (if p.val < 6 then s.linkUp p else s.ethOn) then s.txqPush p id.toNat (s.txStamp p stamp) else s)) := by
  rw [exec, execPtpEventFrame]
  exact State.onTime_none released rfl

theorem exec_ptp_state (st : BitVec 3) : exec (.ptpEventFrame (.state st) stamp) s = .next (s.keeps (
    if s.ptpStateOk st.toNat then (s.setFld TIM_STAT TIM_STAT_PTP_STATE st.toNat).parentCheck false else s)) := by
  rw [exec, execPtpEventFrame]
  exact State.onTime_none released rfl

theorem exec_ptp_sync_ignored (o : Stamp) (c : Int) (ignored : (s.ethOn && s.ptpMine f && s.ptpSlave) = false) : exec (.ptpEventFrame (.sync f o c) stamp) s = .next s := by
  rw [exec, execPtpEventFrame]
  refine State.onTime_none (t := s) released ?_
  dsimp only
  rw [if_neg (by rw [ignored]; decide)]

/-- Without the Ethernet port nothing comes in and nothing leaves. -/
theorem eth_off (off : s.ethOn = false) : (∀ target ip mac, exec (.arpRequest target ip mac) s = .next s) ∧ ∀ stamp,
    (∀ f o c, exec (.ptpEventFrame (.sync f o c) stamp) s = .next s) ∧ (∀ f r c, exec (.ptpEventFrame (.delayResp f r c) stamp) s = .next s)
    ∧ (∀ f r x c, exec (.ptpEventFrame (.pdelayResp f r x c) stamp) s = .next s) ∧ (∀ f b, exec (.ptpEventFrame (.request f b) stamp) s = .next s)
    ∧ exec (.ptpEventFrame .sendSync stamp) s = .next s ∧ exec (.ptpEventFrame .sendRequest stamp) s = .next s ∧ ∀ id, exec (.ptpEventFrame (.sent 6 id) stamp) s = .next s := by
  refine ⟨fun target ip mac => ?_, fun stamp => ⟨fun f o c => ?_, fun f r c => ?_, fun f r x c => ?_, fun f b => ?_, ?_, ?_, fun id => ?_⟩⟩
  · rw [exec, execArpRequest, State.onMain_keeps _ released, off]
    rfl
  · exact exec_ptp_sync_ignored released o c (by rw [off]; rfl)
  · rw [exec_ptp_delayResp released, off]
    rfl
  · rw [exec_ptp_pdelayResp released, off]
    rfl
  · rw [exec_ptp_request released, off]
    rfl
  · rw [exec_ptp_sendSync released, off]
    rfl
  · rw [exec_ptp_sendRequest released, off]
    rfl
  · rw [exec_ptp_sent released, if_neg (by rw [if_neg (by decide), off]; decide)]
    rfl

end

/-! ### A Sync (R470, R480) -/

/-- The port with the stamps of a Sync. -/
def State.ptpStamped (s : State) (origin : Stamp) (c : Int) (rx : Stamp) : State := s.modPtp (fun p => { p with origin := some (origin + BitVec.ofInt 64 c), rx := rx })

theorem State.offsetIn_shows (s : State) (off : Rat) : (s.offsetIn off).1.items = s.items ∧ (s.offsetIn off).1.tim.ptp = s.tim.ptp ∧ (s.offsetIn off).1.num TIM_OFFSET = (sat32 (ratRound off)).toNat := by
  obtain ⟨-, shown, -, -, frame⟩ := s.offsetNoted_shows off
  obtain ⟨v, hv⟩ : ∃ v, v = s.offsetNoted off := ⟨_, rfl⟩
  rw [← hv] at shown frame
  have items : v.items = s.items := by rw [frame]
  have ptp : v.tim.ptp = s.tim.ptp := by rw [frame]
  by_cases first : s.tim.recent = [] ∧ s.isReady = false
  · obtain ⟨-, -, -, ptpW, -⟩ := v.stepTime_units (ratRound (-off * 65536))
    obtain ⟨-, regsW, itemsW⟩ := v.stepTime_rest (ratRound (-off * 65536))
    rw [State.offsetIn_first first.1 first.2, ← hv]
    dsimp only
    exact ⟨itemsW.trans items, ptpW.trans ptp, by rw [State.num_congr (State.reg_of_regs regsW _), shown]⟩
  · have later : s.tim.recent ≠ [] ∨ s.isReady = true := by
      by_cases h : s.tim.recent = []
      · exact .inr (by by_contra busy; exact first ⟨h, Bool.eq_false_iff.2 busy⟩)
      · exact .inl h
    obtain ⟨same, frameW⟩ := v.disciplined_frame off
    rw [State.offsetIn_later later, ← hv]
    dsimp only
    obtain ⟨w, hw⟩ : ∃ w, w = v.disciplined off := ⟨_, rfl⟩
    rw [← hw] at same frameW ⊢
    exact ⟨(congrArg State.items frameW).trans items, (congrArg (fun u => u.tim.ptp) frameW).trans ptp, by rw [State.num_congr (same _ (by decide)), shown]⟩

theorem State.ptpSync_unknown (o : Stamp) (c : Int) (rx : Stamp) (unknown : s.tim.ptp.delay = none) : s.ptpSync o c rx = (s.ptpStamped o c rx, 0) := by
  unfold State.ptpSync
  extract_lets v
  rw [show v.tim.ptp.delay = none from unknown]
  rfl

theorem State.ptpSync_known (o : Stamp) (c : Int) (rx : Stamp) {d : Rat} (known : s.tim.ptp.delay = some d) :
    s.ptpSync o c rx = (s.ptpStamped o c rx).offsetIn (((stampDiff rx o - c : Int) - d) / 65536 - s.asym 6) := by
  unfold State.ptpSync
  extract_lets v
  rw [show v.tim.ptp.delay = some d from known]
  rfl

theorem ptp_sync (released : s.sys.released = true) (o : Stamp) (c : Int) (takes : (s.ethOn && s.ptpMine f && s.ptpSlave) = true) :
    ∃ t, exec (.ptpEventFrame (.sync f o c) stamp) s = .next t ∧ t.tim.ptp = { s.tim.ptp with origin := some (o + BitVec.ofInt 64 c), rx := s.rxStamp 6 stamp } ∧ t.items = s.items
      ∧ (s.tim.ptp.delay = none → t = { s with tim := { s.tim with ptp := t.tim.ptp } })
      ∧ ∀ d, s.tim.ptp.delay = some d → t.num TIM_OFFSET = (sat32 (ratRound (((stampDiff (s.rxStamp 6 stamp) o - c : Int) - d) / 65536 - s.asym 6))).toNat := by
  obtain ⟨u, hu⟩ : ∃ u, u = s.ptpStamped o c (s.rxStamp 6 stamp) := ⟨_, rfl⟩
  have ptp : u.tim.ptp = { s.tim.ptp with origin := some (o + BitVec.ofInt 64 c), rx := s.rxStamp 6 stamp } := by
    rw [hu]
    rfl
  have items : u.items = s.items := by
    rw [hu]
    rfl
  cases known : s.tim.ptp.delay with
  | none =>
    have run : exec (.ptpEventFrame (.sync f o c) stamp) s = .next (s.keeps u) := by
      rw [exec, execPtpEventFrame]
      refine State.onTime_none released ?_
      dsimp only
      rw [if_pos takes, State.ptpSync_unknown o c _ known, ← hu]
    have frame : s.keeps u = { s with tim := { s.tim with ptp := u.tim.ptp } } := by
      rw [hu]
      rfl
    rw [frame] at run
    exact ⟨_, run, ptp, rfl, fun _ => rfl, fun d h => nomatch h⟩
  | some d =>
    obtain ⟨items', ptp', shown⟩ := u.offsetIn_shows (((stampDiff (s.rxStamp 6 stamp) o - c : Int) - d) / 65536 - s.asym 6)
    obtain ⟨w, hw⟩ : ∃ w, w = u.offsetIn (((stampDiff (s.rxStamp 6 stamp) o - c : Int) - d) / 65536 - s.asym 6) := ⟨_, rfl⟩
    rw [← hw] at items' ptp' shown
    have run : exec (.ptpEventFrame (.sync f o c) stamp) s = .next { w.1 with pending := s.pending, met := s.met.takeStep w.2 w.1.tim.stopNs } := by
      rw [exec, execPtpEventFrame]
      refine State.onTime_step released ?_
      dsimp only
      rw [if_pos takes, State.ptpSync_known o c _ known, ← hu, hw]
    obtain ⟨t, ht, regs, tim, same, -, -, -⟩ := w.1.requeued s.pending (s.met.takeStep w.2 w.1.tim.stopNs)
    rw [← ht] at run
    refine ⟨t, run, by rw [tim, ptp', ptp], by rw [same, items', items], fun h => absurd h (Option.some_ne_none d), fun e h => ?_⟩
    obtain rfl : d = e := Option.some.inj h
    rw [State.num_congr (State.reg_of_regs regs _), shown]

/-! ### Transmit stamps (R479) -/

theorem ptp_sent_queued (released : s.sys.released = true) (p : Fin 7) (id : BitVec 16) (on : (if p.val < 6 then s.linkUp p else s.ethOn) = true) (room : (s.tport p).txq.length < 8) :
    ∃ t, exec (.ptpEventFrame (.sent p id) stamp) s = .next t
      ∧ (t.tport p).txq = (s.tport p).txq ++ [(id.toNat, stamp + BitVec.ofNat 64 (s.fld (TIM_PORT_LAT p) TIM_PORT_LAT_FAC_TX_NS * 4096))] ∧ t = { s with tim := t.tim } := by
  have push : s.txqPush p id.toNat (s.txStamp p stamp) = s.modTport p (fun t => { t with txq := t.txq ++ [(id.toNat, s.txStamp p stamp)] }) := if_neg (by omega)
  have run := exec_ptp_sent (stamp := stamp) released p id
  rw [if_pos on, push] at run
  exact ⟨_, run, congrArg TPort.txq (tget_tput_same ..), rfl⟩

theorem ptp_sent_lost (released : s.sys.released = true) (p : Fin 7) (id : BitVec 16) (on : (if p.val < 6 then s.linkUp p else s.ethOn) = true) (full : 8 ≤ (s.tport p).txq.length) :
    ∃ t, exec (.ptpEventFrame (.sent p id) stamp) s = .next t ∧ (t.tport p).txq = (s.tport p).txq ∧ bit (t.num TIM_TXQ_OVF) p = true
      ∧ bit (t.num TIM_IRQ_STAT) 2 = true ∧ t = { s with regs := t.regs, msix := t.msix, msixPend := t.msixPend } := by
  have run := exec_ptp_sent (stamp := stamp) released p id
  have push : s.txqPush p id.toNat (s.txStamp p stamp) = ((s.incFld (TIM_PORT_CNT p) TIM_PORT_CNT_TXQ_OVF_CNT).setNum TIM_TXQ_OVF ((s.incFld (TIM_PORT_CNT p) TIM_PORT_CNT_TXQ_OVF_CNT).num TIM_TXQ_OVF ||| 2 ^ p.val)).raise
      TIM_IRQ_STAT 2 := if_pos full
  rw [if_pos on, push] at run
  obtain ⟨u, hu⟩ : ∃ u, u = s.incFld (TIM_PORT_CNT p) TIM_PORT_CNT_TXQ_OVF_CNT := ⟨_, rfl⟩
  have onlyU : s.RegsOnly u := by
    rw [hu]
    exact (State.RegsOnly.refl s).incFld ..
  rw [← hu] at run
  obtain ⟨v, hv⟩ : ∃ v, v = u.setNum TIM_TXQ_OVF (u.num TIM_TXQ_OVF ||| 2 ^ p.val) := ⟨_, rfl⟩
  have onlyV : u.RegsOnly v := by
    rw [hv]
    exact (State.RegsOnly.refl u).setNum _ _
  have lost : bit (v.num TIM_TXQ_OVF) p = true := by
    have small := p.isLt
    rw [hv, State.num, State.setNum, State.reg_setReg_same, BitVec.toNat_ofNat, bit_eq_testBit, Nat.testBit_mod_two_pow, Nat.testBit_or, Nat.testBit_two_pow_self, Bool.or_true, Bool.and_true]
    exact decide_eq_true (by omega)
  rw [← hv] at run
  have both : s.RegsOnly v := State.RegsOnly.trans onlyU onlyV
  have raised := State.bit_raise v TIM_IRQ_STAT (i := 2) (by decide)
  have away : (v.raise TIM_IRQ_STAT 2).reg TIM_TXQ_OVF = v.reg TIM_TXQ_OVF := State.reg_raise_ne v 2 (by decide)
  have frame := v.raise_eq TIM_IRQ_STAT 2
  obtain ⟨w, hw⟩ : ∃ w, w = v.raise TIM_IRQ_STAT 2 := ⟨_, rfl⟩
  rw [← hw] at run raised away frame
  have whole : w = { s with regs := w.regs, msix := w.msix, msixPend := w.msixPend } := by rw [frame, both]
  rw [State.keeps_of (by rw [whole]) (by rw [whole])] at run
  refine ⟨w, run, ?_, by rw [State.num_congr away, lost], raised, whole⟩
  rw [whole]
  rfl

end

end Sys2Proof.Machine
end


section
/-! SUPPORT. O54 settled: the servo, the TIME messages and the Ethernet port. -/

namespace Sys2Proof.Machine

section
variable {s : State} {f : PtpFrame} {stamp : Stamp}

theorem State.ptpSend_modPtp (s : State) (g : PtpPort → PtpPort) (m : PtpMsg) (st : Stamp) :
    (s.modPtp g).ptpSend m st = s.modPtp (fun p => { g p with sent := s.ptpOut m st :: (g p).sent }) := rfl

theorem State.ptpSend_eq (s : State) (m : PtpMsg) (st : Stamp) : s.ptpSend m st = s.modPtp (fun p => { p with sent := s.ptpOut m st :: p.sent }) := rfl

/-- What the Ethernet port does with the events that need it to run (R480). -/
theorem ptp_events (released : s.sys.released = true) (f : PtpFrame) (stamp : Stamp) (on : s.ethOn = true) :
    let state := s.fld TIM_STAT TIM_STAT_PTP_STATE
    let follows := s.timeSrc = 1 ∧ (state = 2 ∨ state = 3)
    let leads := s.timeSrc = 2 ∧ (s.isTimeRoot = true ∨ s.on TIM_STAT TIM_STAT_LOCKED = true)
    let out (m : PtpMsg) (st : Stamp) : PtpOut := { msg := m, domain := s.fld TIM_PTP_CFG TIM_PTP_CFG_DOMAIN, l2 := s.on TIM_PTP_CFG TIM_PTP_CFG_L2, stamp := st }
    let peer := s.on TIM_PTP_CFG TIM_PTP_CFG_PEER
    let mine := f.domain.toNat = s.fld TIM_PTP_CFG TIM_PTP_CFG_DOMAIN ∧ f.l2 = s.on TIM_PTP_CFG TIM_PTP_CFG_L2
    let rx := stamp - BitVec.ofNat 64 (s.fld (TIM_PORT_LAT 6) TIM_PORT_LAT_FAC_RX_NS * 4096)
    (∀ o c, ¬(mine ∧ follows) → exec (.ptpEventFrame (.sync f o c) stamp) s = .next s)
    ∧ (∀ o c, mine → follows → ∃ t, exec (.ptpEventFrame (.sync f o c) stamp) s = .next t ∧ t.tim.ptp = { s.tim.ptp with origin := some (o + BitVec.ofInt 64 c), rx := rx } ∧ t.items = s.items
      ∧ (s.tim.ptp.delay = none → t = { s with tim := { s.tim with ptp := t.tim.ptp } })
      ∧ ∀ d, s.tim.ptp.delay = some d → t.num TIM_OFFSET = (sat32 (ratRound (((stampDiff rx o - c : Int) - d) / 65536 - s.asym 6))).toNat)
    ∧ (∀ r c, ¬(mine ∧ follows ∧ peer = false) → exec (.ptpEventFrame (.delayResp f r c) stamp) s = .next s)
    ∧ (∀ r c t1 t3, mine → follows → peer = false → s.tim.ptp.origin = some t1 → s.tim.ptp.request = some t3 → exec (.ptpEventFrame (.delayResp f r c) stamp) s = .next
        (s.modPtp (fun p => { p with request := none, delay := some (mkRat (stampDiff p.rx t1 + stampDiff r t3 - c) 2) })))
    ∧ (∀ r x c, ¬(mine ∧ peer = true) → exec (.ptpEventFrame (.pdelayResp f r x c) stamp) s = .next s)
    ∧ (∀ r x c t1, mine → peer = true → s.tim.ptp.request = some t1 → exec (.ptpEventFrame (.pdelayResp f r x c) stamp) s = .next
        (s.modPtp (fun p => { p with request := none, delay := some (mkRat (stampDiff rx t1 - stampDiff x r - c) 2) })))
    ∧ (mine → peer = true → exec (.ptpEventFrame (.request f true) stamp) s = .next (s.modPtp (fun p => { p with sent := out .pdelayRespFollowUp (s.txStamp 6 s.now) :: out .pdelayResp rx :: p.sent })))
    ∧ (mine → peer = false → leads → state = 4 → exec (.ptpEventFrame (.request f false) stamp) s = .next (s.modPtp (fun p => { p with sent := out .delayResp rx :: p.sent })))
    ∧ (∀ b, ¬(mine ∧ b = peer ∧ (peer = true ∨ (leads ∧ state = 4))) → exec (.ptpEventFrame (.request f b) stamp) s = .next s)
    ∧ (leads → state = 4 → s.ptpSyncDue = true → exec (.ptpEventFrame .sendSync stamp) s = .next
        (s.modPtp (fun p => { p with syncTb := some s.tb, sent := out .followUp (s.txStamp 6 stamp) :: out .sync s.now :: p.sent })))
    ∧ (¬(leads ∧ state = 4 ∧ s.ptpSyncDue = true) → exec (.ptpEventFrame .sendSync stamp) s = .next s)
    ∧ ((peer = true ∨ follows) → exec (.ptpEventFrame .sendRequest stamp) s = .next
        (s.modPtp (fun p => { p with request := some (s.txStamp 6 stamp), sent := out (if peer then .pdelayReq else .delayReq) 0 :: p.sent })))
    ∧ (¬(peer = true ∨ follows) → exec (.ptpEventFrame .sendRequest stamp) s = .next s) := by
  intro state follows leads out peer mine rx
  have mine_iff : s.ptpMine f = true ↔ mine := s.ptpMine_iff f
  have slave_iff : s.ptpSlave = true ↔ follows := s.ptpSlave_iff
  have master_iff : s.ptpMaster = true ↔ leads ∧ state = 4 := s.ptpMaster_iff
  have same : s.ptpPeer = peer := rfl
  have keeps : s.keeps s = s := rfl
  have stamped : s.rxStamp 6 stamp = rx := rfl
  refine ⟨fun o c h => ?_, fun o c h h' => ?_, fun r c h => ?_, fun r c t1 t3 h h' e1 h1 h3 => ?_, fun r x c h => ?_, fun r x c t1 h e1 h1 => ?_, fun h e1 => ?_, fun h e1 lead master => ?_,
    fun b h => ?_, fun lead master due => ?_, fun h => ?_, fun h => ?_, fun h => ?_⟩
  · refine exec_ptp_sync_ignored released o c ?_
    rw [on, Bool.true_and, Bool.and_eq_false_iff]
    by_contra both
    simp only [not_or, Bool.not_eq_false] at both
    exact h ⟨mine_iff.1 both.1, slave_iff.1 both.2⟩
  · have := ptp_sync (f := f) (stamp := stamp) released o c (by rw [on, mine_iff.2 h, slave_iff.2 h']; rfl)
    rw [stamped] at this
    exact this
  · rw [exec_ptp_delayResp released, if_neg, keeps]
    rw [on, same, Bool.true_and]
    intro takes
    simp only [Bool.and_eq_true, Bool.not_eq_true'] at takes
    exact h ⟨mine_iff.1 takes.1.1, slave_iff.1 takes.1.2, takes.2⟩
  · rw [exec_ptp_delayResp released, if_pos (by rw [on, mine_iff.2 h, slave_iff.2 h', same, e1]; rfl), State.ptpDelay, h1, h3]
    rfl
  · rw [exec_ptp_pdelayResp released, if_neg, keeps]
    rw [on, same, Bool.true_and]
    intro takes
    simp only [Bool.and_eq_true] at takes
    exact h ⟨mine_iff.1 takes.1, takes.2⟩
  · rw [exec_ptp_pdelayResp released, if_pos (by rw [on, mine_iff.2 h, same, e1]; rfl), State.ptpPdelay, h1]
    rfl
  · rw [exec_ptp_request released, if_neg (by rw [on, mine_iff.2 h, same, e1]; decide), if_pos rfl, s.ptpSend_eq, State.ptpSend_modPtp]
    rfl
  · rw [exec_ptp_request released, if_neg (by rw [on, mine_iff.2 h, same, e1]; decide), if_neg (by decide), if_pos (master_iff.2 ⟨lead, master⟩)]
    rfl
  · rw [exec_ptp_request released]
    by_cases refused : (!s.ethOn || !s.ptpMine f || b != s.ptpPeer) = true
    · rw [if_pos refused, keeps]
    · simp only [Bool.or_eq_true, Bool.not_eq_true', bne_iff_ne, not_or, Bool.not_eq_false, not_not] at refused
      obtain ⟨⟨-, m⟩, eq⟩ := refused
      rw [same] at eq
      have slave : b = false := by
        by_contra p
        exact h ⟨mine_iff.1 m, eq, .inl (eq.symm.trans (Bool.not_eq_false b ▸ p :))⟩
      have idle : ¬ s.ptpMaster = true := fun master => h ⟨mine_iff.1 m, eq, .inr (master_iff.1 master)⟩
      rw [if_neg (by rw [on, m, same, ← eq, bne_self_eq_false]; decide), if_neg (by rw [slave]; decide), if_neg idle, keeps]
  · rw [exec_ptp_sendSync released, if_pos (by rw [on, master_iff.2 ⟨lead, master⟩, due]; rfl), State.ptpSend_modPtp, State.ptpSend_modPtp]
    rfl
  · rw [exec_ptp_sendSync released, if_neg, keeps]
    rw [on, Bool.true_and]
    intro takes
    rw [Bool.and_eq_true] at takes
    obtain ⟨lead, master⟩ := master_iff.1 takes.1
    exact h ⟨lead, master, takes.2⟩
  · have asks : (s.ptpPeer || s.ptpSlave) = true := by
      rw [Bool.or_eq_true, same]
      exact h.imp id slave_iff.2
    rw [exec_ptp_sendRequest released, if_neg (by rw [on, asks]; decide)]
    rfl
  · have silent : (s.ptpPeer || s.ptpSlave) = false := by
      rw [Bool.eq_false_iff]
      intro asks
      rw [Bool.or_eq_true, same] at asks
      exact h (asks.imp id slave_iff.1)
    rw [exec_ptp_sendRequest released, silent, Bool.not_false, Bool.or_true, if_pos rfl, keeps]

/-- A state of the port that SRC admits (R480, R482). -/
theorem ptp_state_clauses (released : s.sys.released = true) (st : BitVec 3) (stamp : Stamp) :
    let leads := s.timeSrc = 2 ∧ (s.isTimeRoot = true ∨ s.on TIM_STAT TIM_STAT_LOCKED = true)
    let may := st = 0 ∨ st = 1 ∨ st = 5 ∨ ((st = 2 ∨ st = 3) ∧ s.timeSrc = 1) ∨ (st = 4 ∧ leads)
    (may → exec (.ptpEventFrame (.state st) stamp) s = .next (s.keeps ((s.setFld TIM_STAT TIM_STAT_PTP_STATE st.toNat).parentCheck false)))
    ∧ (¬may → exec (.ptpEventFrame (.state st) stamp) s = .next s) := by
  intro leads may
  have master : s.mayMaster = true ↔ leads := s.mayMaster_iff
  have ok : s.ptpStateOk st.toNat = true ↔ may := by
    have codes : ∀ x : BitVec 3, x = 0 ∨ x = 1 ∨ x = 2 ∨ x = 3 ∨ x = 4 ∨ x = 5 ∨ x = 6 ∨ x = 7 := by decide
    rcases codes st with rfl | rfl | rfl | rfl | rfl | rfl | rfl | rfl
    · exact ⟨fun _ => .inl rfl, fun _ => rfl⟩
    · exact ⟨fun _ => .inr (.inl rfl), fun _ => rfl⟩
    · simp [may, State.ptpStateOk]
    · simp [may, State.ptpStateOk]
    · simp [may, State.ptpStateOk, master]
    · exact ⟨fun _ => .inr (.inr (.inl rfl)), fun _ => rfl⟩
    · simp [may, State.ptpStateOk]
    · simp [may, State.ptpStateOk]
  refine ⟨fun h => ?_, fun h => ?_⟩
  · rw [exec_ptp_state released, if_pos (ok.2 h)]
  · rw [exec_ptp_state released, if_neg (fun h' => h (ok.1 h'))]
    rfl

/-! ### ARP, and the link (R512, R514, R520) -/

theorem beBytes_length (n v : Nat) : (beBytes n v).length = n := by rw [beBytes, List.length_reverse, leBytes_length]

theorem arp_clauses (released : s.sys.released = true) (on : s.ethOn = true) :
    (∀ (ip : Word) (mac : BitVec 48), (∃ t r, exec (.arpRequest (s.reg ETH_IP) ip mac) s = .next t ∧ t.eth.replies = r :: s.eth.replies ∧ r.length = 42 ∧ r.take 6 = beBytes 6 mac.toNat
      ∧ t = { s with eth := t.eth }))
    ∧ (∀ (target ip : Word) (mac : BitVec 48), target ≠ s.reg ETH_IP → exec (.arpRequest target ip mac) s = .next s) := by
  refine ⟨fun ip mac => ?_, fun target ip mac other => ?_⟩
  · have run : exec (.arpRequest (s.reg ETH_IP) ip mac) s = .next { s with eth := { s.eth with replies := (beBytes 6 mac.toNat ++ beBytes 6 (s.pair ETH_MAC_LO) ++ beBytes 2 0x0806 ++ beBytes 2 1 ++ beBytes 2 0x0800
        ++ beBytes 1 6 ++ beBytes 1 4 ++ beBytes 2 2 ++ beBytes 6 (s.pair ETH_MAC_LO) ++ beBytes 4 (s.reg ETH_IP).toNat ++ beBytes 6 mac.toNat ++ beBytes 4 ip.toNat) :: s.eth.replies } } := by
      rw [exec, execArpRequest, State.onMain_keeps _ released, if_neg (by rw [on, bne_self_eq_false]; decide)]
      rfl
    refine ⟨_, _, run, rfl, ?_, ?_, rfl⟩
    · simp only [List.length_append, beBytes_length]
    · simp only [List.append_assoc]
      exact List.take_left' (beBytes_length ..)
  · rw [exec, execArpRequest, State.onMain_keeps _ released, if_pos (by rw [bne_iff_ne.2 other, Bool.or_true])]
    rfl

theorem ethLinkDown_shows (released : s.sys.released = true) :
    ∃ t, exec .ethLinkDown s = .next t ∧ t.on ETH_STAT ETH_STAT_LINK_UP = false ∧ t.eth.queue = [] ∧ t.num ETH_DROP_CNT = min (s.num ETH_DROP_CNT + s.eth.queue.length) 0xFFFFFFFF
      ∧ t = { s with regs := t.regs, eth := { s.eth with queue := [] } } ∧ s.regsSame t [ETH_STAT, ETH_DROP_CNT] := by
  obtain ⟨u, hu⟩ : ∃ u, u = s.setFld ETH_STAT ETH_STAT_LINK_UP 0 := ⟨_, rfl⟩
  have down : u.on ETH_STAT ETH_STAT_LINK_UP = false := by
    rw [hu]
    exact State.on_setFld_zero s _ (by decide) (by decide)
  have onlyU : s.RegsOnly u := by
    rw [hu]
    exact (State.RegsOnly.refl s).setFld ..
  have regU (a : Nat) (ne : a ≠ ETH_STAT) : u.reg a = s.reg a := by rw [hu, State.reg_setFld_ne _ _ _ ne]
  obtain ⟨v, hv⟩ : ∃ v, v = u.incReg ETH_DROP_CNT s.eth.queue.length := ⟨_, rfl⟩
  have count : v.num ETH_DROP_CNT = min (s.num ETH_DROP_CNT + s.eth.queue.length) 0xFFFFFFFF := by rw [hv, State.num_incReg, State.num_congr (regU _ (by decide))]
  have onlyV : u.RegsOnly v := by
    rw [hv]
    exact (State.RegsOnly.refl u).incReg ..
  have regV (a : Nat) (ne : a ≠ ETH_DROP_CNT) : v.reg a = u.reg a := by
    rw [hv]
    exact State.reg_setNum_ne u _ ne
  have both : s.RegsOnly v := State.RegsOnly.trans onlyU onlyV
  obtain ⟨t, ht⟩ : ∃ t : State, t = { v with eth := { s.eth with queue := [] } } := ⟨_, rfl⟩
  have run : exec .ethLinkDown s = .next (s.keeps t) := by
    rw [exec, execEthLinkDown, State.onMain_keeps _ released, ← hu, ← hv, ht]
  have regs : t.regs = v.regs := by rw [ht]
  have queue : t.eth.queue = [] := by rw [ht]
  have frame : t = { s with regs := t.regs, eth := { s.eth with queue := [] } } := by rw [ht, both]
  rw [State.keeps_of (by rw [frame]) (by rw [frame])] at run
  refine ⟨t, run, ?_, queue, ?_, frame, fun a away => ?_⟩
  · rw [State.on_congr (State.reg_of_regs regs _), State.on_congr (regV _ (by decide)), down]
  · rw [State.num_congr (State.reg_of_regs regs _), count]
  · simp only [List.mem_cons, List.not_mem_nil, or_false, not_or] at away
    rw [State.reg_of_regs regs, regV a away.2, regU a away.1]

theorem ethLinkUp_shows (released : s.sys.released = true) :
    ∃ u : State, exec .ethLinkUp s = .next (s.keeps (u.divertHold.stallCheck).tidy) ∧ u.on ETH_STAT ETH_STAT_LINK_UP = true ∧ s.regsSame u [ETH_STAT] ∧ u = { s with regs := u.regs } := by
  refine ⟨s.setFld ETH_STAT ETH_STAT_LINK_UP 1, ?_, State.on_setFld_one s _ (by decide) (by decide), fun a away => State.reg_setFld_ne s _ _ (by simpa using away), (State.RegsOnly.refl s).setFld ..⟩
  rw [exec, execEthLinkUp, State.onMain_keeps _ released]

end

/-- Settles O54: the servo, each TIME message and each event of the Ethernet port in its cases (R444, R465-R482, R512, R514, R520, R560). -/
theorem timeAndEthernet : Obligations.TimeAndEthernet := by
  unfold Obligations.TimeAndEthernet
  refine ⟨fun s n id hops stamp released => ?_, fun s n id released => ?_, fun s released => ?_⟩
  · intro noted
    refine ⟨follow_ignored released, fun rx found up parent => ?_⟩
    intro off
    exact ⟨follow_free released found up parent, follow_held released found up parent, follow_disciplines released found up parent⟩
  · refine ⟨time_addressless released, fun addr => ?_, fun f => timeSent_sync s n, fun down => ?_, pdReqSend_sends released, announceSend_clauses released, sync_clauses released,
      pdReq_answers released, pdResp_ignored released, pdResp_taken released, pdFollow_ignored released, fun t1 t2 t3 t4 => pdFollow_sampled released, announce_ignored released,
      announce_taken released⟩
    · rw [exec, execSyncSend, State.onMain_keeps _ released, if_neg (addr_some addr)]
    · rw [exec, execPdReqSend, State.onMain_keeps _ released]
      dsimp only
      rw [if_pos (by rw [down]; rfl)]
      rfl
  · intro state follows leads out peer
    refine ⟨eth_off released, ptp_events released, fun p id stamp => ?_, ptp_state_clauses released, fun stamp => exec_ptp_other released, arp_clauses released, fun f => ?_, ethLinkDown_shows released,
      ethLinkUp_shows released⟩
    · intro on
      refine ⟨fun off => ?_, ptp_sent_queued released p id, ptp_sent_lost released p id⟩
      rw [exec_ptp_sent released, if_neg (by rw [show (if p.val < 6 then s.linkUp p else s.ethOn) = false from off]; decide)]
      rfl
    · rw [exec, execEthFrameDiscard, State.onMain_keeps _ released]
      rfl

end Sys2Proof.Machine
end


section
/-! SUPPORT. O56: codewords of a memory, upsets and whole words written. -/

namespace Sys2Proof.Machine

/-! ### Upsets (R525) -/

theorem tfind_absent {β : Type} {t : Tbl β} {w : Nat} (absent : ∀ e ∈ t, e.1 ≠ w) : tfind t w = none := by
  induction t with
  | nil => rfl
  | cons e t ih =>
    obtain ⟨a, b⟩ := e
    rw [tfind, if_neg (absent _ (List.mem_cons_self ..)), ih (fun e mem => absent e (List.mem_cons_of_mem _ mem))]

theorem xorBytes_length (a b : List Byte) : (xorBytes a b).length = min a.length b.length := by
  rw [xorBytes, List.length_map, List.length_zip]

theorem codeword_length_le (m : List Host.Cell) (k : Checks) (w : Nat) : 32 ≤ (codeword m k w).length := by
  rw [codeword, List.length_append, mread_length]
  exact Nat.le_add_right ..

theorem upset_codeword (m : List Host.Cell) (k : Checks) (w : Nat) (p : List Byte) :
    codeword (upset m k w p).1 (upset m k w p).2 w = xorBytes (codeword m k w) (fitTo 35 p) := by
  have whole : 32 ≤ (xorBytes (codeword m k w) (fitTo 35 p)).length := by
    have := codeword_length_le m k w
    rw [xorBytes_length, fitTo_length]
    omega
  unfold upset
  rw [← fitTo]
  generalize xorBytes (codeword m k w) (fitTo 35 p) = c at whole
  have taken : (c.take 32).length = 32 := by rw [List.length_take]; omega
  have back : mread (mwrite m (32 * w) (c.take 32)) (32 * w) 32 = c.take 32 := by
    have := mread_mwrite_same (c.take 32) m (32 * w)
    rwa [taken] at this
  rw [codeword]
  dsimp only
  rw [back]
  by_cases clean : c.drop 32 = rsBytes (c.take 32)
  · rw [if_pos clean, tfind_tdel_same, Option.getD_none, ← clean, List.take_append_drop]
  · rw [if_neg clean, tfind_tins_same, Option.getD_some, List.take_append_drop]

theorem upset_codeword_ne (m : List Host.Cell) (k : Checks) {w j : Nat} (p : List Byte) (ne : j ≠ w) : codeword (upset m k w p).1 (upset m k w p).2 j = codeword m k j := by
  unfold upset
  generalize xorBytes (codeword m k w) (p.take 35 ++ zeros (35 - p.length)) = c
  have short : (c.take 32).length ≤ 32 := List.length_take_le ..
  have data : mread (mwrite m (32 * w) (c.take 32)) (32 * j) 32 = mread m (32 * j) 32 := mread_congr fun x low high => mwrite_outside _ _ _ _ (by omega)
  have checks : tfind (if c.drop 32 = rsBytes (c.take 32) then tdel k w else tins k w (c.drop 32)) j = tfind k j := by
    split
    · exact tfind_tdel_ne k ne
    · exact tfind_tins_ne k _ ne
  rw [codeword, codeword]
  dsimp only
  rw [data, checks]

/-! ### A whole word written (R524, R525) -/

/-- A word that held a repairable error, as a write beside it leaves it. -/
def repairStep (m : List Host.Cell) (k : Checks) (v : List Host.Cell) (e : Nat × List Byte) : List Host.Cell :=
  match rsRead (codeword m k e.1) with
  | .corrected w => mwrite v (32 * e.1) (w.take 32)
  | _ => v

theorem repairStep_outside (m : List Host.Cell) (k : Checks) (v : List Host.Cell) (e : Nat × List Byte) {x : Nat} (out : x < 32 * e.1 ∨ 32 * e.1 + 32 ≤ x) :
    tget 0 (repairStep m k v e) x = tget 0 v x := by
  unfold repairStep
  split
  · rename_i w _
    have short : (w.take 32).length ≤ 32 := List.length_take_le ..
    exact mwrite_outside _ _ _ _ (by omega)
  · rfl

theorem repairSteps_outside (m : List Host.Cell) (k : Checks) {w x : Nat} (out : x < 32 * w ∨ 32 * w + 32 ≤ x) (l : List (Nat × List Byte)) (only : ∀ e ∈ l, e.1 = w) :
    ∀ v, tget 0 (l.foldl (repairStep m k) v) x = tget 0 v x := by
  induction l with
  | nil => exact fun _ => rfl
  | cons e l ih =>
    intro v
    have here := only e (List.mem_cons_self ..)
    rw [List.foldl_cons, ih (fun e mem => only e (List.mem_cons_of_mem _ mem)), repairStep_outside _ _ _ _ (by rw [here]; exact out)]

theorem codeWrite_fst (m : List Host.Cell) (k : Checks) (a : Nat) (l : List Byte) :
    (codeWrite m k a l).1 = mwrite ((k.filter (fun e => wordIn a l.length e.1)).foldl (repairStep m k) m) a l := rfl

theorem wordIn_word (w e : Nat) : wordIn (32 * w) 32 e = decide (e = w) := by
  rw [wordIn, Bool.eq_iff_iff]
  simp only [Bool.and_eq_true, decide_eq_true_eq]
  omega

theorem codeWrite_word (m : List Host.Cell) (k : Checks) (w : Nat) {d : List Byte} (whole : d.length = 32) :
    mread (codeWrite m k (32 * w) d).1 (32 * w) 32 = d ∧ tfind (codeWrite m k (32 * w) d).2 w = none
      ∧ ∀ x, x < 32 * w ∨ 32 * w + 32 ≤ x → tget 0 (codeWrite m k (32 * w) d).1 x = tget 0 m x := by
  refine ⟨?_, tfind_absent fun e mem here => ?_, fun x out => ?_⟩
  · have := mread_mwrite_same d ((k.filter (fun e => wordIn (32 * w) d.length e.1)).foldl (repairStep m k) m) (32 * w)
    rw [codeWrite_fst]
    rwa [whole] at this ⊢
  · obtain ⟨f, -, made⟩ := List.mem_filterMap.1 mem
    rw [whole, wordIn_word] at made
    by_cases same : f.1 = w
    · rw [same] at made
      simp at made
    · rw [decide_eq_false same, if_pos (by decide)] at made
      exact same (by rw [Option.some.inj made, here])
  · rw [codeWrite_fst, mwrite_outside _ _ _ _ (by omega), repairSteps_outside m k out]
    intro e mem
    have := (List.mem_filter.1 mem).2
    rwa [whole, wordIn_word, decide_eq_true_eq] at this

/-! ### Places (R525) -/

theorem visibleAddr_word {word a : Nat} (small : word < 2 ^ 31) (visible : visibleAddr word = some a) : 32 * (a / 32) = a ∧ a + 32 ≤ dramBytes := by
  unfold visibleAddr at visible
  split at visible
  · cases visible
  · obtain rfl := Option.some.inj visible
    rw [dramBytes]
    omega

theorem tileAt_word (t word : Nat) : tileAt t 0 / 32 + word = t * 32768 + word := by
  rw [tileAt]
  omega

end Sys2Proof.Machine
end


section
/-! SUPPORT. O56 settled: the scrubber and the timers of memory and host. -/

namespace Sys2Proof.Machine

section
variable {s : State}

/-! ### Upsets (R522) -/

theorem State.upset_frame (s : State) (u : UpsetAt × List Byte) :
    s.upset u = { s with dram := (s.upset u).dram, tile := (s.upset u).tile, cal := (s.upset u).cal, ras := (s.upset u).ras } := by
  unfold State.upset
  split
  · split
    · unfold State.upsetDram
      split <;> rfl
    · rfl
  · split
    · unfold State.upsetTile
      split <;> rfl
    · rfl
  · split <;> rfl

theorem State.upsets_frame (ups : List (UpsetAt × List Byte)) : ∀ s : State,
    ups.foldl State.upset s = { s with dram := (ups.foldl State.upset s).dram, tile := (ups.foldl State.upset s).tile, cal := (ups.foldl State.upset s).cal, ras := (ups.foldl State.upset s).ras } := by
  induction ups with
  | nil => exact fun _ => rfl
  | cons u l ih =>
    intro s
    have first := s.upset_frame u
    rw [List.foldl_cons, ih (s.upset u)]
    generalize s.upset u = v at first
    rw [first]

theorem State.upset_dram {word a : Nat} (x : List Byte) (small : word < 2 ^ 31) (visible : visibleAddr word = some a) :
    (s.upset (.dram word, x)).dram = (Machine.upset s.dram s.ras.chk (a / 32) x).1 ∧ (s.upset (.dram word, x)).ras.chk = (Machine.upset s.dram s.ras.chk (a / 32) x).2 := by
  have eq : s.upset (.dram word, x) = s.upsetDram word x := if_pos small
  rw [eq, State.upsetDram, visible]
  exact ⟨rfl, rfl⟩

theorem State.upset_tile {p word t : Nat} (x : List Byte) (tile : p < 272) (small : word < 2 ^ 15) (mapped : s.logicalOf p = some t) :
    (s.upset (.tile p word, x)).tile = (Machine.upset s.tile s.ras.tchk (tileAt t 0 / 32 + word) x).1
      ∧ (s.upset (.tile p word, x)).ras.tchk = (Machine.upset s.tile s.ras.tchk (tileAt t 0 / 32 + word) x).2 := by
  have eq : s.upset (.tile p word, x) = s.upsetTile p word x := if_pos (by rw [decide_eq_true tile, decide_eq_true small]; rfl)
  rw [eq, State.upsetTile, mapped]
  exact ⟨rfl, rfl⟩

/-! ### The scrubber (R524-R529) -/

section
variable {word p : Nat} {ups : List (UpsetAt × List Byte)} {pins : PinLevels}

theorem exec_scrubDram (released : s.sys.released = true) (small : word < 2 ^ 31) :
    exec (.scrubStep (.dram word) ups pins) s = .next (s.keeps ((ups.foldl State.upset s).scrubDram word pins)) := by
  rw [exec, execScrubStep]
  rw [if_pos small, State.onMain_keeps _ released]

theorem exec_scrubTile (released : s.sys.released = true) (tile : p < 272) (small : word < 2 ^ 15) :
    exec (.scrubStep (.tile p word) ups pins) s = .next (s.keeps ((ups.foldl State.upset s).scrubTile p word)) := by
  rw [exec, execScrubStep]
  rw [if_pos (by rw [decide_eq_true tile, decide_eq_true small]; rfl), State.onMain_keeps _ released]

theorem State.scrubDram_rests {v : State} {a : Nat} (visible : visibleAddr word = some a)
    (rests : v.retQueue.any (fun w => wordIn w.1 w.2.length (a / 32)) = true ∨ rsRead (codeword v.dram v.ras.chk (a / 32)) = .good) : v.scrubDram word pins = v := by
  unfold State.scrubDram
  rw [visible]
  dsimp only
  split
  · rfl
  · rename_i free
    rw [rests.resolve_left free]

theorem State.scrubDram_lost {v : State} {a : Nat} (visible : visibleAddr word = some a) (free : v.retQueue.any (fun w => wordIn w.1 w.2.length (a / 32)) = false)
    (lost : rsRead (codeword v.dram v.ras.chk (a / 32)) = .uncorrectable) : v.scrubDram word pins = v.scrubLost word a pins := by
  unfold State.scrubDram
  rw [visible]
  dsimp only
  rw [if_neg (by rw [free]; decide), lost]

theorem State.scrubDram_corrected {v : State} {a : Nat} {w : List Byte} (visible : visibleAddr word = some a) (free : v.retQueue.any (fun w => wordIn w.1 w.2.length (a / 32)) = false)
    (read : rsRead (codeword v.dram v.ras.chk (a / 32)) = .corrected w) :
    v.scrubDram word pins = ((v.incReg (RAS_DRAM_CORR (Config.dramChannel word).val)).countCorr (Config.dramChannel word).val).dput a (w.take 32) := by
  unfold State.scrubDram
  rw [visible]
  dsimp only
  rw [if_neg (by rw [free]; decide), read]

/-- A correction counted. -/
theorem State.corrCounted_shows (v : State) (r k : Nat) : ((v.incReg r).countCorr k).num r = min (v.num r + 1) 0xFFFFFFFF
    ∧ ((v.incReg r).countCorr k).ras.chk = v.ras.chk ∧ ((v.incReg r).countCorr k).ras.tchk = v.ras.tchk
    ∧ (v.incReg r).countCorr k = { v with regs := ((v.incReg r).countCorr k).regs, ras := ((v.incReg r).countCorr k).ras } := by
  refine ⟨(State.num_congr (State.reg_of_regs rfl _)).trans (v.num_incReg_one r), rfl, rfl, rfl⟩

theorem scrubDram_writes (released : s.sys.released = true) {a : Nat} {w : List Byte} {v : State} (hv : v = ups.foldl State.upset s) (small : word < 2 ^ 31) (visible : visibleAddr word = some a)
    (free : v.retQueue.any (fun w => wordIn w.1 w.2.length (a / 32)) = false) (read : rsRead (codeword v.dram v.ras.chk (a / 32)) = .corrected w) (whole : w.length = 35) :
    ∃ t, exec (.scrubStep (.dram word) ups pins) s = .next t ∧ mread t.dram a 32 = w.take 32 ∧ tfind t.ras.chk (a / 32) = none
      ∧ t.num (RAS_DRAM_CORR (Config.dramChannel word).val) = min (s.num (RAS_DRAM_CORR (Config.dramChannel word).val) + 1) 0xFFFFFFFF
      ∧ (∀ x, x < a ∨ a + 32 ≤ x → tget 0 t.dram x = tget 0 v.dram x) ∧ t = { v with regs := t.regs, dram := t.dram, ras := t.ras } := by
  have run := exec_scrubDram (ups := ups) (pins := pins) released small
  obtain ⟨aligned, inside⟩ := visibleAddr_word small visible
  have frame := State.upsets_frame ups s
  rw [← hv] at run frame
  rw [State.scrubDram_corrected visible free read] at run
  obtain ⟨count, chk, -, counted⟩ := v.corrCounted_shows (RAS_DRAM_CORR (Config.dramChannel word).val) (Config.dramChannel word).val
  obtain ⟨u, hu⟩ : ∃ u, u = (v.incReg (RAS_DRAM_CORR (Config.dramChannel word).val)).countCorr (Config.dramChannel word).val := ⟨_, rfl⟩
  rw [← hu] at run count chk counted
  have length : (w.take 32).length = 32 := by rw [List.length_take]; omega
  obtain ⟨back, clean, rest⟩ := codeWrite_word u.dram u.ras.chk (a / 32) length
  rw [aligned] at back clean rest
  have dram : u.dram = v.dram := by rw [counted]
  obtain ⟨t, ht⟩ : ∃ t, t = u.dput a (w.take 32) := ⟨_, rfl⟩
  have put : t = { u with dram := (codeWrite u.dram u.ras.chk a (w.take 32)).1, ras := { u.ras with chk := (codeWrite u.dram u.ras.chk a (w.take 32)).2 } } := by
    rw [ht, State.dput, List.take_of_length_le (show (w.take 32).length ≤ dramBytes - a by omega)]
  have regs : v.regs = s.regs := by rw [frame]
  have before : u.pending = s.pending ∧ u.met = s.met := by
    rw [counted, frame]
    exact ⟨rfl, rfl⟩
  rw [← ht, State.keeps_of (by rw [put]; exact before.1) (by rw [put]; exact before.2)] at run
  refine ⟨t, run, ?_, ?_, ?_, ?_, ?_⟩
  · rw [put]
    exact back
  · rw [put]
    exact clean
  · have same : t.regs = u.regs := by rw [put]
    rw [State.num_congr (State.reg_of_regs same _), count, State.num_congr (State.reg_of_regs regs _)]
  · intro x out
    rw [put, ← dram]
    exact rest x out
  · rw [put, counted]

/-! ### The stores of the tiles -/

theorem State.scrubTile_unmapped {v : State} (none : v.logicalOf p = none) : v.scrubTile p word = v := by
  unfold State.scrubTile
  rw [none]

theorem State.scrubTile_rests {v : State} {t : Nat} (mapped : v.logicalOf p = some t)
    (rests : (v.ptile p).failed = true ∨ v.wordAwaited t word = true ∨ rsRead (codeword v.tile v.ras.tchk (tileAt t 0 / 32 + word)) = .good) : v.scrubTile p word = v := by
  unfold State.scrubTile
  rw [mapped]
  dsimp only
  split
  · rfl
  · rename_i free
    rw [Bool.or_eq_true, not_or] at free
    rw [(rests.resolve_left free.1).resolve_left free.2]

theorem State.scrubTile_lost {v : State} {t : Nat} (mapped : v.logicalOf p = some t) (up : (v.ptile p).failed = false) (free : v.wordAwaited t word = false)
    (lost : rsRead (codeword v.tile v.ras.tchk (tileAt t 0 / 32 + word)) = .uncorrectable) : v.scrubTile p word = (v.chipUncorr word).failTile p causeRs := by
  unfold State.scrubTile
  rw [mapped]
  dsimp only
  rw [if_neg (by rw [up, free]; decide), lost]

theorem State.scrubTile_corrected {v : State} {t : Nat} {w : List Byte} (mapped : v.logicalOf p = some t) (up : (v.ptile p).failed = false) (free : v.wordAwaited t word = false)
    (read : rsRead (codeword v.tile v.ras.tchk (tileAt t 0 / 32 + word)) = .corrected w) :
    v.scrubTile p word = { ((v.incReg RAS_TILE_CORR).countCorr 8) with
      tile := (codeWrite v.tile v.ras.tchk (32 * (tileAt t 0 / 32 + word)) (w.take 32)).1
      ras := { ((v.incReg RAS_TILE_CORR).countCorr 8).ras with tchk := (codeWrite v.tile v.ras.tchk (32 * (tileAt t 0 / 32 + word)) (w.take 32)).2 } } := by
  unfold State.scrubTile
  rw [mapped]
  dsimp only
  rw [if_neg (by rw [up, free]; decide), read]

theorem scrubTile_writes (released : s.sys.released = true) {t : Nat} {w : List Byte} {v : State} (hv : v = ups.foldl State.upset s) (tile : p < 272) (small : word < 2 ^ 15)
    (mapped : v.logicalOf p = some t) (up : (v.ptile p).failed = false) (free : v.wordAwaited t word = false)
    (read : rsRead (codeword v.tile v.ras.tchk (tileAt t 0 / 32 + word)) = .corrected w) (whole : w.length = 35) :
    ∃ u, exec (.scrubStep (.tile p word) ups pins) s = .next u ∧ mread u.tile (32 * (tileAt t 0 / 32 + word)) 32 = w.take 32 ∧ tfind u.ras.tchk (tileAt t 0 / 32 + word) = none
      ∧ u.num RAS_TILE_CORR = min (s.num RAS_TILE_CORR + 1) 0xFFFFFFFF ∧ u = { v with regs := u.regs, tile := u.tile, ras := u.ras } := by
  have run := exec_scrubTile (ups := ups) (pins := pins) released tile small
  have frame := State.upsets_frame ups s
  rw [← hv] at run frame
  rw [State.scrubTile_corrected mapped up free read] at run
  obtain ⟨count, -, -, counted⟩ := v.corrCounted_shows RAS_TILE_CORR 8
  obtain ⟨x, hx⟩ : ∃ x, x = (v.incReg RAS_TILE_CORR).countCorr 8 := ⟨_, rfl⟩
  rw [← hx] at run count counted
  have length : (w.take 32).length = 32 := by rw [List.length_take]; omega
  obtain ⟨back, clean, -⟩ := codeWrite_word v.tile v.ras.tchk (tileAt t 0 / 32 + word) length
  obtain ⟨u, hu⟩ : ∃ u : State, u = { x with tile := (codeWrite v.tile v.ras.tchk (32 * (tileAt t 0 / 32 + word)) (w.take 32)).1, ras := { x.ras with tchk := (codeWrite v.tile v.ras.tchk (32 * (tileAt t 0 / 32 + word)) (w.take 32)).2 } } :=
    ⟨_, rfl⟩
  have regs : v.regs = s.regs := by rw [frame]
  have before : x.pending = s.pending ∧ x.met = s.met := by
    rw [counted, frame]
    exact ⟨rfl, rfl⟩
  rw [← hu, State.keeps_of (by rw [hu]; exact before.1) (by rw [hu]; exact before.2)] at run
  refine ⟨u, run, ?_, ?_, ?_, ?_⟩
  · rw [hu]
    exact back
  · rw [hu]
    exact clean
  · have same : u.regs = x.regs := by rw [hu]
    rw [State.num_congr (State.reg_of_regs same _), count, State.num_congr (State.reg_of_regs regs _)]
  · rw [hu, counted]

end

/-! ### Corrections per second (R527, R538) -/

/-- A fold that acts for one element alone. -/
theorem foldl_only {α β : Type} {f : β → α → β} {k : α} : ∀ {l : List α} {t : β}, l.Nodup → k ∈ l → (∀ u, ∀ j ∈ l, j ≠ k → f u j = u) → l.foldl f t = f t k
  | [], _, _, mem, _ => absurd mem (by simp)
  | j :: l, t, nodup, mem, idle => by
    obtain ⟨out, nodup⟩ := List.nodup_cons.1 nodup
    have still (l : List α) (idle : ∀ u, ∀ j ∈ l, f u j = u) : ∀ t, l.foldl f t = t := by
      induction l with
      | nil => exact fun _ => rfl
      | cons i l ih => exact fun t => by rw [List.foldl_cons, idle t i (List.mem_cons_self ..), ih (fun u j mem => idle u j (List.mem_cons_of_mem _ mem))]
    rw [List.foldl_cons]
    rcases List.mem_cons.1 mem with rfl | mem
    · exact still l (fun u i at_ => idle u i (List.mem_cons_of_mem _ at_) (fun e => out (e ▸ at_))) _
    · rw [idle t j (List.mem_cons_self ..) (fun e => out (e ▸ mem))]
      exact foldl_only nodup mem (fun u i at_ => idle u i (List.mem_cons_of_mem _ at_))

/-- What a channel's corrections of the second make. -/
def State.rateChecked (s : State) (t : State) (k : Nat) : State :=
  if tget 0 s.ras.second k ≤ s.num RAS_CORR_LIMIT then t
  else (t.raise RAS_IRQ_STAT 1).recoveryRec clsMemCorrRate none (if k = 8 then 0xFFFF else k) 0 (tget 0 s.ras.second k) 0

theorem exec_corrRateWindow (released : s.sys.released = true) :
    exec .corrRateWindow s = .next (s.keeps ((List.range 9).foldl s.rateChecked { s with ras := { s.ras with second := [] } })) := by
  rw [exec, execCorrRateWindow, State.onMain_keeps _ released]
  rfl

theorem corrRateWindow_quiet (released : s.sys.released = true) (quiet : ∀ k, k < 9 → tget 0 s.ras.second k ≤ s.num RAS_CORR_LIMIT) :
    exec .corrRateWindow s = .next { s with ras := { s.ras with second := [] } } := by
  have still (t : State) (k : Nat) (mem : k ∈ List.range 9) : s.rateChecked t k = t := if_pos (quiet k (List.mem_range.1 mem))
  rw [exec_corrRateWindow released, foldl_only (k := 0) List.nodup_range (by decide) (fun t k mem _ => still t k mem), still _ _ (by decide)]
  rfl

theorem corrRateWindow_one (released : s.sys.released = true) {k : Nat} (small : k < 9) (many : s.num RAS_CORR_LIMIT < tget 0 s.ras.second k)
    (others : ∀ j, j < 9 → j ≠ k → tget 0 s.ras.second j ≤ s.num RAS_CORR_LIMIT) :
    exec .corrRateWindow s = .next (s.keeps (({ s with ras := { s.ras with second := [] } }.raise RAS_IRQ_STAT 1).recoveryRec 9 none (if k = 8 then 0xFFFF else k) 0 (tget 0 s.ras.second k) 0)) := by
  rw [exec_corrRateWindow released, foldl_only (f := s.rateChecked) List.nodup_range (List.mem_range.2 small) (fun t j mem ne => if_pos (others j (List.mem_range.1 mem) ne)), State.rateChecked,
    if_neg (Nat.not_le.2 many)]
  rfl

/-! ### DRAM requests (R530, R531) -/

theorem dramRequestTimeout_clauses (released : s.sys.released = true) (ch : Fin 8) (issued : Nat) (pins : PinLevels) :
    (s.tb < issued + 20000 → exec (.dramRequestTimeout ch false issued pins) s = .next s)
    ∧ (issued + 20000 ≤ s.tb → ∃ t, exec (.dramRequestTimeout ch false issued pins) s = .next t ∧ tfind t.ras.requested ch = some s.tb ∧ bit (t.num RAS_IRQ_STAT) 2 = true
        ∧ t.fld (RAS_DRAM_ERR ch) RAS_DRAM_ERR_TIMEOUT_CNT = min (s.fld (RAS_DRAM_ERR ch) RAS_DRAM_ERR_TIMEOUT_CNT + 1) (fmax RAS_DRAM_ERR_TIMEOUT_CNT)
        ∧ t = { s with regs := t.regs, ras := t.ras, msix := t.msix, msixPend := t.msixPend })
    ∧ (tfind s.ras.requested ch = none → exec (.dramRequestTimeout ch true issued pins) s = .next s)
    ∧ ∀ t0, tfind s.ras.requested ch = some t0 → (s.tb < t0 + 20000 → exec (.dramRequestTimeout ch true issued pins) s = .next s)
      ∧ (t0 + 20000 ≤ s.tb → exec (.dramRequestTimeout ch true issued pins) s = .next (s.keeps (s.warmReset 4 pins))) := by
  refine ⟨fun early => ?_, fun late => ?_, fun none => ?_, fun t0 asked => ⟨fun early => ?_, fun late => ?_⟩⟩
  · rw [exec, execDramRequestTimeout, State.onMain_keeps _ released, if_neg (by decide), if_pos early]
    rfl
  · obtain ⟨u, hu⟩ : ∃ u, u = s.incFld (RAS_DRAM_ERR ch) RAS_DRAM_ERR_TIMEOUT_CNT := ⟨_, rfl⟩
    have count : u.fld (RAS_DRAM_ERR ch) RAS_DRAM_ERR_TIMEOUT_CNT = min (s.fld (RAS_DRAM_ERR ch) RAS_DRAM_ERR_TIMEOUT_CNT + 1) (fmax RAS_DRAM_ERR_TIMEOUT_CNT) := by
      rw [hu]
      exact s.fld_incFld _ 1 (by decide) (by decide)
    have only : s.RegsOnly u := by
      rw [hu]
      exact (State.RegsOnly.refl s).incFld ..
    have raised := u.bit_raise RAS_IRQ_STAT (i := 2) (by decide)
    have away : (u.raise RAS_IRQ_STAT 2).reg (RAS_DRAM_ERR ch) = u.reg (RAS_DRAM_ERR ch) := State.reg_raise_ne u 2 (by simp only [RAS_DRAM_ERR, RAS_IRQ_STAT]; omega)
    have frame := u.raise_eq RAS_IRQ_STAT 2
    obtain ⟨v, hv⟩ : ∃ v, v = u.raise RAS_IRQ_STAT 2 := ⟨_, rfl⟩
    rw [← hv] at raised away frame
    have whole : v = { s with regs := v.regs, msix := v.msix, msixPend := v.msixPend } := by rw [frame, only]
    obtain ⟨t, ht⟩ : ∃ t : State, t = { v with ras := { v.ras with requested := tput v.ras.requested ch.val s.tb } } := ⟨_, rfl⟩
    have tb : v.tb = s.tb := by rw [whole]
    have run : exec (.dramRequestTimeout ch false issued pins) s = .next (s.keeps t) := by
      rw [exec, execDramRequestTimeout, State.onMain_keeps _ released, if_neg (by decide), if_neg (Nat.not_lt.2 late)]
      dsimp only
      rw [← hu, ← hv, ht, tb]
    have regs : t.regs = v.regs := by rw [ht]
    have whole' : t = { s with regs := t.regs, ras := t.ras, msix := t.msix, msixPend := t.msixPend } := by rw [ht, whole]
    rw [State.keeps_of (by rw [whole']) (by rw [whole'])] at run
    refine ⟨t, run, ?_, ?_, ?_, whole'⟩
    · rw [ht]
      exact tfind_tput_same ..
    · rw [State.num_congr (State.reg_of_regs regs _), raised]
    · rw [State.fld_congr (State.reg_of_regs regs _), State.fld_congr away, count]
  · rw [exec, execDramRequestTimeout, State.onMain_keeps _ released, if_pos rfl, none]
    rfl
  · rw [exec, execDramRequestTimeout, State.onMain_keeps _ released, if_pos rfl, asked]
    dsimp only
    rw [if_neg (Nat.not_le.2 early)]
    rfl
  · rw [exec, execDramRequestTimeout, State.onMain_keeps _ released, if_pos rfl, asked]
    dsimp only
    rw [if_pos late]

/-! ### Host reads (R486, R530, R532) -/

theorem fetchTimeout_clauses (released : s.sys.released = true) (q : Fin 64) :
    let x := tget default s.sqs q
    let waits := s.on (HIF_SQ_CFG q) HIF_SQ_CFG_EN = true ∧ x.stopped = false ∧ s.fld (HIF_SQ_HEAD q) HIF_SQ_HEAD_HEAD ≠ s.fld (HIF_SQ_TAIL q) HIF_SQ_TAIL_TAIL ∧ s.coachHeld (s.headPacket q) = false
    (waits → x.readTb + 10000000 ≤ s.tb → ∃ t, exec (.hostReadTimeout (.fetch q)) s = .next t ∧ t.fld (HIF_SQ_ERR q) HIF_SQ_ERR_CODE = 2 ∧ (tget default t.sqs q).stopped = true
      ∧ bit (t.num HIF_IRQ_STAT) 1 = true ∧ t = { s with regs := t.regs, sqs := t.sqs, msix := t.msix, msixPend := t.msixPend })
    ∧ (¬waits ∨ s.tb < x.readTb + 10000000 → exec (.hostReadTimeout (.fetch q)) s = .next s) := by
  intro x waits
  have run : exec (.hostReadTimeout (.fetch q)) s = .next (s.keeps (
      if !s.on (HIF_SQ_CFG q) HIF_SQ_CFG_EN || x.stopped || s.fld (HIF_SQ_HEAD q) HIF_SQ_HEAD_HEAD == s.fld (HIF_SQ_TAIL q) HIF_SQ_TAIL_TAIL || s.coachHeld (s.headPacket q) || s.tb < x.readTb + 10000000
      then s else s.stopQueue q 2)) := by
    rw [exec, execHostReadTimeout, State.onMain_keeps _ released]
  refine ⟨fun waits late => ?_, fun held => ?_⟩
  · obtain ⟨en, going, packet, free⟩ := waits
    rw [if_neg] at run
    · obtain ⟨code, stopped, raised, -, -⟩ := s.stopQueue_shows q (code := 2) (by decide)
      obtain ⟨u, hu⟩ : ∃ u : State, u = { s.setFld (HIF_SQ_ERR q) HIF_SQ_ERR_CODE 2 with sqs := tput s.sqs q { tget default s.sqs q with stopped := true } } := ⟨_, rfl⟩
      have eq : s.stopQueue q 2 = u.raise HIF_IRQ_STAT 1 := by
        rw [hu]
        rfl
      have before : u = { s with regs := u.regs, sqs := u.sqs } := by
        rw [hu]
        rfl
      have frame := u.raise_eq HIF_IRQ_STAT 1
      rw [← eq] at frame
      obtain ⟨t, ht⟩ : ∃ t, t = s.stopQueue q 2 := ⟨_, rfl⟩
      rw [← ht] at run code stopped raised frame
      have whole : t = { s with regs := t.regs, sqs := t.sqs, msix := t.msix, msixPend := t.msixPend } := by rw [frame, before]
      rw [State.keeps_of (by rw [whole]) (by rw [whole])] at run
      exact ⟨t, run, code, stopped, raised, whole⟩
    · rw [en, going, free, beq_eq_false_iff_ne.2 packet, decide_eq_false (Nat.not_lt.2 late)]
      decide
  · rw [run, if_pos]
    · rfl
    · by_contra goes
      simp only [Bool.or_eq_true, Bool.not_eq_true', beq_iff_eq, decide_eq_true_eq, not_or, Bool.not_eq_false, Bool.not_eq_true] at goes
      obtain ⟨⟨⟨⟨en, going⟩, packet⟩, free⟩, late⟩ := goes
      rcases held with h | h
      · exact h ⟨en, going, packet, free⟩
      · exact late h

theorem imageTimeout_waits (released : s.sys.released = true) (i : Nat) (waits : ∀ m, tfind s.images i = some m → m.fetched = true ∨ m.decoded = true ∨ s.tb < m.readTb + 10000000) :
    exec (.hostReadTimeout (.image i)) s = .next s := by
  rw [exec, execHostReadTimeout, State.onMain_keeps _ released]
  dsimp only
  cases found : tfind s.images i with
  | none => rfl
  | some m =>
    dsimp only
    rw [if_pos (by rcases waits m found with h | h | h <;> simp [h])]
    rfl

theorem imageTimeout_late (released : s.sys.released = true) {i : Nat} {m : Image} (found : tfind s.images i = some m) (waits : m.fetched = false) (raw : m.decoded = false)
    (late : m.readTb + 10000000 ≤ s.tb) : exec (.hostReadTimeout (.image i)) s = .next (s.keeps ((s.complete m.sq m.pos .ok (s.itemId i) 0).imageError i .decTruncated)) := by
  rw [exec, execHostReadTimeout, State.onMain_keeps _ released]
  dsimp only
  rw [found]
  dsimp only
  rw [if_neg (by simp [waits, raw, late])]

end

/-- Settles O56: upsets, the scrubber, and the timers of memory and host (R486, R522-R532). -/
theorem memoryFaults : Obligations.MemoryFaults := by
  unfold Obligations.MemoryFaults
  refine ⟨fun s word p ups pins released => ?_, fun s released => ⟨corrRateWindow_quiet released, fun k => corrRateWindow_one released, dramRequestTimeout_clauses released,
    fetchTimeout_clauses released, imageTimeout_waits released, fun i m => imageTimeout_late released⟩⟩
  intro v
  refine ⟨fun hole => ?_, fun hole => ?_, s.upset_frame, fun a x small visible => ?_, fun t x tile small mapped => ?_, fun small hidden => ?_, fun a small visible => ?_, fun tile small => ⟨fun none => ?_, fun t mapped => ?_⟩⟩
  · rw [exec, execScrubStep]
    exact if_neg (Nat.not_lt.2 hole)
  · rw [exec, execScrubStep]
    refine if_neg ?_
    rw [Bool.and_eq_true, decide_eq_true_eq, decide_eq_true_eq]
    omega
  · obtain ⟨dram, chk⟩ := s.upset_dram x small visible
    rw [dram, chk]
    exact ⟨upset_codeword .., fun k ne => upset_codeword_ne _ _ _ ne⟩
  · obtain ⟨store, chk⟩ := s.upset_tile x tile small mapped
    intro k
    rw [store, chk]
    exact upset_codeword ..
  · rw [exec_scrubDram released small, State.scrubDram, hidden]
  · intro cw
    refine ⟨fun rests => ?_, fun free => ⟨fun w read whole => scrubDram_writes released rfl small visible free read whole, fun lost => ?_⟩⟩
    · rw [exec_scrubDram released small, State.scrubDram_rests visible rests]
    · rw [exec_scrubDram released small, State.scrubDram_lost visible free lost]
  · rw [exec_scrubTile released tile small, State.scrubTile_unmapped none]
  · intro k cw
    refine ⟨fun rests => ?_, fun up free => ⟨fun lost => ?_, fun w read whole => scrubTile_writes released rfl tile small mapped up free read whole⟩⟩
    · rw [exec_scrubTile released tile small, State.scrubTile_rests mapped rests]
    · rw [exec_scrubTile released tile small, State.scrubTile_lost mapped up free lost]

end Sys2Proof.Machine
end


section
/-! SUPPORT. O57 settled: resets of the firmware and the warm reset. -/

namespace Sys2Proof.Machine

/-! ### Registers and pins at a reset (R10, R74, R94, R581) -/

/-- A fold of changes of registers changes registers. -/
theorem State.RegsOnly.foldl {α : Type} {f : State → α → State} (step : ∀ (v : State) (x : α), v.RegsOnly (f v x)) (l : List α) : ∀ s : State, s.RegsOnly (l.foldl f s) := by
  induction l with
  | nil => exact State.RegsOnly.refl
  | cons x l ih => exact fun s => (step s x).trans (ih _)

theorem State.applyBoot_regsOnly (s : State) (pend : Tbl Word) : s.RegsOnly (s.applyBoot pend) := by
  refine State.RegsOnly.foldl (fun v x => ?_) pend s
  split
  · exact (State.RegsOnly.refl v).setReg ..
  · exact State.RegsOnly.refl v

theorem State.fillRst_regsOnly (s : State) (k : Rst) (v : Nat → Word) : s.RegsOnly (s.fillRst k v) := by
  unfold State.fillRst
  generalize rstRegs k = l
  exact State.RegsOnly.foldl (fun u _ => (State.RegsOnly.refl u).setReg ..) l s

theorem tfind_map_keyed {β : Type} (g : Nat → β) {n : Nat} : ∀ {l : List Nat}, n ∈ l → tfind (l.map (fun e => (e, g e))) n = some (g n)
  | [], mem => absurd mem (by simp)
  | x :: l, mem => by
    rw [List.map_cons, tfind]
    by_cases same : x = n
    · rw [if_pos same, same]
    · rw [if_neg same]
      exact tfind_map_keyed g ((List.mem_cons.1 mem).resolve_left (Ne.symm same))

/-- The filters start with the levels found. -/
theorem State.findPins_shows (s : State) (pins : PinLevels) :
    (∀ n, n < 4 → tfind (s.findPins pins).enc n = some { (default : EncSt) with a := (pins.enc.getD n (false, false)).1, b := (pins.enc.getD n (false, false)).2 })
    ∧ (∀ k, k < 8 → tfind (s.findPins pins).bar k = some { known := true, level := pins.bar.getD k false, since := s.tb, jammed := false })
    ∧ s.findPins pins = { s with regs := (s.findPins pins).regs, enc := (s.findPins pins).enc, bar := (s.findPins pins).bar } := by
  obtain ⟨u, hu⟩ : ∃ u : State, u = { s with
      enc := ((List.range 4).map (fun e => (e, pinAb pins e))).map (fun e => (e.1, { (default : EncSt) with a := e.2.1, b := e.2.2 }))
      bar := ((List.range 8).map (fun k => (k, pins.bar.getD k false))).map (fun k => (k.1, { known := true, level := k.2, since := s.tb, jammed := false })) } := ⟨_, rfl⟩
  have only : u.RegsOnly (s.findPins pins) := by
    rw [hu]
    exact State.RegsOnly.foldl (fun v k => (State.RegsOnly.refl v).setFld ..) _ _
  have enc : (s.findPins pins).enc = u.enc := only.same State.enc (fun _ _ => rfl)
  have bar : (s.findPins pins).bar = u.bar := only.same State.bar (fun _ _ => rfl)
  refine ⟨fun n small => ?_, fun k small => ?_, ?_⟩
  · rw [enc, hu]
    dsimp only
    rw [List.map_map]
    exact tfind_map_keyed (fun e => ({ (default : EncSt) with a := (pinAb pins e).1, b := (pinAb pins e).2 } : EncSt)) (List.mem_range.2 small)
  · rw [bar, hu]
    dsimp only
    rw [List.map_map]
    exact tfind_map_keyed (fun k => ({ known := true, level := pins.bar.getD k false, since := s.tb, jammed := false } : BarSt)) (List.mem_range.2 small)
  · generalize s.findPins pins = t at only enc bar
    rw [only, hu]

/-! ### The warm reset (R535, R562, R582) -/

/-- The engine emptied, with what it keeps through a warm reset and the levels found. -/
def State.warmed (s : State) (pins : PinLevels) : State :=
  { (((s.engineReset (s.regs.filter (fun r => keepsWarm r.1))).applyBoot s.bootPend).findPins pins).fillRst .otp Config.otp with
    tim := { (default : Tim) with now := s.tim.now, tai := s.tim.tai, taiNs := s.tim.taiNs, acc := s.tim.acc, stopNs := s.tim.stopNs }
    sys := { (default : Sys) with released := true, wasOn := true, startTb := s.tb, warm := some s.now, thermTrip := s.sys.thermTrip } }

theorem State.warmed_shows (s : State) (pins : PinLevels) :
    (∀ n, n < 4 → tfind (s.warmed pins).enc n = some { (default : EncSt) with a := (pins.enc.getD n (false, false)).1, b := (pins.enc.getD n (false, false)).2 })
    ∧ (∀ k, k < 8 → tfind (s.warmed pins).bar k = some { known := true, level := pins.bar.getD k false, since := s.tb, jammed := false })
    ∧ s.warmed pins = { s.engineReset [] with
      regs := (s.warmed pins).regs, enc := (s.warmed pins).enc, bar := (s.warmed pins).bar
      tim := { (default : Tim) with now := s.tim.now, tai := s.tim.tai, taiNs := s.tim.taiNs, acc := s.tim.acc, stopNs := s.tim.stopNs }
      sys := { (default : Sys) with released := true, wasOn := true, startTb := s.tb, warm := some s.now, thermTrip := s.sys.thermTrip } } := by
  unfold State.warmed
  obtain ⟨r, hr⟩ : ∃ r, r = s.engineReset (s.regs.filter (fun r => keepsWarm r.1)) := ⟨_, rfl⟩
  have base : r = { s.engineReset [] with regs := r.regs } := by
    rw [hr]
    rfl
  rw [← hr]
  have boot := r.applyBoot_regsOnly s.bootPend
  obtain ⟨u, hu⟩ : ∃ u, u = r.applyBoot s.bootPend := ⟨_, rfl⟩
  rw [← hu] at boot ⊢
  obtain ⟨enc, bar, frame⟩ := u.findPins_shows pins
  obtain ⟨v, hv⟩ : ∃ v, v = u.findPins pins := ⟨_, rfl⟩
  rw [← hv] at enc bar frame ⊢
  have otp := v.fillRst_regsOnly .otp Config.otp
  obtain ⟨w, hw⟩ : ∃ w, w = v.fillRst .otp Config.otp := ⟨_, rfl⟩
  rw [← hw] at otp ⊢
  have tb : u.tb = s.tb := by
    rw [boot, base]
    rfl
  have encW : w.enc = v.enc := otp.same State.enc (fun _ _ => rfl)
  have barW : w.bar = v.bar := otp.same State.bar (fun _ _ => rfl)
  refine ⟨fun n small => ?_, fun k small => ?_, ?_⟩
  · dsimp only
    rw [encW, enc n small]
  · dsimp only
    rw [barW, bar k small, tb]
  · rw [otp, frame, boot, base]

/-- The warm reset is the emptied engine with its registers of cause and stage. -/
theorem State.warmReset_regsOnly (s : State) (cause : Nat) (pins : PinLevels) : (s.warmed pins).RegsOnly (s.warmReset cause pins) :=
  ((((((State.RegsOnly.refl (s.warmed pins)).setPair SYS_SERIAL_LO (s.pair SYS_SERIAL_LO)).incFld RAS_RESET_CAUSE RAS_RESET_CAUSE_RESETS 1).setFld RAS_RESET_CAUSE RAS_RESET_CAUSE_RESET_CAUSE cause).setFld
    SYS_BOOT_STAT SYS_BOOT_STAT_STAGE 4).setFld SYS_PWR_STAT SYS_PWR_STAT_STATE 2)

theorem State.warmReset_stages (s : State) {cause : Nat} (pins : PinLevels) (fits : cause < 16) :
    (s.warmReset cause pins).fld RAS_RESET_CAUSE RAS_RESET_CAUSE_RESET_CAUSE = cause ∧ (s.warmReset cause pins).fld SYS_BOOT_STAT SYS_BOOT_STAT_STAGE = 4
      ∧ (s.warmReset cause pins).fld SYS_PWR_STAT SYS_PWR_STAT_STATE = 2 := by
  obtain ⟨t, ht⟩ : ∃ t, t = ((s.warmed pins).setPair SYS_SERIAL_LO (s.pair SYS_SERIAL_LO)).incFld RAS_RESET_CAUSE RAS_RESET_CAUSE_RESETS := ⟨_, rfl⟩
  have eq : s.warmReset cause pins = ((t.setFld RAS_RESET_CAUSE RAS_RESET_CAUSE_RESET_CAUSE cause).setFld SYS_BOOT_STAT SYS_BOOT_STAT_STAGE 4).setFld SYS_PWR_STAT SYS_PWR_STAT_STATE 2 := by
    rw [ht]
    rfl
  rw [eq]
  refine ⟨?_, ?_, State.fld_setFld_fits _ _ (by decide) (by decide) (by decide)⟩
  · rw [State.fld_congr (State.reg_setFld_ne _ _ _ (by decide)), State.fld_congr (State.reg_setFld_ne _ _ _ (by decide))]
    exact State.fld_setFld_fits _ _ (by decide) (by decide) (lt_of_lt_of_eq fits (by decide))
  · rw [State.fld_congr (State.reg_setFld_ne _ _ _ (by decide))]
    exact State.fld_setFld_fits _ _ (by decide) (by decide) (by decide)

theorem State.warmReset_shows (s : State) (cause : Nat) (pins : PinLevels) (fits : cause < 16) :
    let t := s.warmReset cause pins
    t.tim.now = s.tim.now ∧ t.tim.tai = s.tim.tai ∧ t.tim.taiNs = s.tim.taiNs ∧ t.items = [] ∧ t.pieces = [] ∧ t.fetched = [] ∧ t.hold = [] ∧ t.ctxs = [] ∧ t.playbooks = []
      ∧ t.host = s.host ∧ t.dram = s.dram ∧ t.tile = s.tile ∧ t.retQueue = [] ∧ t.sys.released = true ∧ t.sys.warm = some s.now
      ∧ t.fld RAS_RESET_CAUSE RAS_RESET_CAUSE_RESET_CAUSE = cause ∧ t.fld SYS_BOOT_STAT SYS_BOOT_STAT_STAGE = 4 ∧ t.fld SYS_PWR_STAT SYS_PWR_STAT_STATE = 2
      ∧ (∀ n, n < 4 → tfind t.enc n = some { (default : EncSt) with a := (pins.enc.getD n (false, false)).1, b := (pins.enc.getD n (false, false)).2 })
      ∧ ∀ k, k < 8 → tfind t.bar k = some { known := true, level := pins.bar.getD k false, since := s.tb, jammed := false } := by
  intro t
  obtain ⟨reset, boot, power⟩ := s.warmReset_stages pins fits
  have only : (s.warmed pins).RegsOnly t := s.warmReset_regsOnly cause pins
  have shown : t.fld RAS_RESET_CAUSE RAS_RESET_CAUSE_RESET_CAUSE = cause ∧ t.fld SYS_BOOT_STAT SYS_BOOT_STAT_STAGE = 4 ∧ t.fld SYS_PWR_STAT SYS_PWR_STAT_STATE = 2 := ⟨reset, boot, power⟩
  obtain ⟨u, hu⟩ : ∃ u, u = t := ⟨_, rfl⟩
  rw [← hu] at only shown ⊢
  obtain ⟨enc, bar, frame⟩ := s.warmed_shows pins
  obtain ⟨w, hw⟩ : ∃ w, w = s.warmed pins := ⟨_, rfl⟩
  rw [← hw] at only enc bar frame
  have encU : u.enc = w.enc := only.same State.enc (fun _ _ => rfl)
  have barU : u.bar = w.bar := only.same State.bar (fun _ _ => rfl)
  have whole := Eq.trans only (congrArg (fun v : State => { v with regs := u.regs }) frame)
  obtain ⟨reset, boot, power⟩ := shown
  have tim := congrArg State.tim whole
  have sys := congrArg State.sys whole
  exact ⟨(congrArg Tim.now tim :), (congrArg Tim.tai tim :), (congrArg Tim.taiNs tim :), (congrArg State.items whole :), (congrArg State.pieces whole :), (congrArg State.fetched whole :),
    (congrArg State.hold whole :), (congrArg State.ctxs whole :), (congrArg State.playbooks whole :), (congrArg State.host whole :), (congrArg State.dram whole :), (congrArg State.tile whole :),
    (congrArg State.retQueue whole :), (congrArg Sys.released sys :), (congrArg Sys.warm sys :), reset, boot, power, fun n small => by rw [encU, enc n small], fun k small => by rw [barU, bar k small]⟩

/-! ### The firmware (R530, R534) -/

section
variable {s : State}

theorem State.restartCoach_shows (s : State) (cause : Nat) (up : s.on HIF_STAT HIF_STAT_COACH_UP = true) :
    (s.restartCoach cause).on HIF_STAT HIF_STAT_COACH_UP = false ∧ (s.restartCoach cause).sys.coachDown = some (cause, s.now)
      ∧ s.restartCoach cause = { s with regs := (s.restartCoach cause).regs, sys := (s.restartCoach cause).sys } ∧ s.regsSame (s.restartCoach cause) [HIF_STAT] := by
  have eq : s.restartCoach cause = { s.setFld HIF_STAT HIF_STAT_COACH_UP 0 with sys := { s.sys with coachDown := some (cause, s.now) } } := if_neg (by rw [up]; decide)
  obtain ⟨u, hu⟩ : ∃ u, u = s.setFld HIF_STAT HIF_STAT_COACH_UP 0 := ⟨_, rfl⟩
  have down : u.on HIF_STAT HIF_STAT_COACH_UP = false := by
    rw [hu]
    exact State.on_setFld_zero s _ (by decide) (by decide)
  have only : s.RegsOnly u := by
    rw [hu]
    exact (State.RegsOnly.refl s).setFld ..
  have away (a : Nat) (ne : a ≠ HIF_STAT) : u.reg a = s.reg a := by rw [hu, State.reg_setFld_ne _ _ _ ne]
  rw [← hu] at eq
  obtain ⟨t, ht⟩ : ∃ t, t = s.restartCoach cause := ⟨_, rfl⟩
  rw [← ht] at eq ⊢
  have regs : t.regs = u.regs := by rw [eq]
  refine ⟨?_, by rw [eq], by rw [eq, only], fun a out => ?_⟩
  · rw [State.on_congr (State.reg_of_regs regs _), down]
  · rw [State.reg_of_regs regs, away a (by simpa using out)]

theorem restarted {i : Instr} (cause : Nat) (run : exec i s = .next (s.keeps (s.restartCoach cause))) (up : s.on HIF_STAT HIF_STAT_COACH_UP = true) :
    ∃ t, exec i s = .next t ∧ t.on HIF_STAT HIF_STAT_COACH_UP = false ∧ t.sys.coachDown = some (cause, s.now) ∧ t = { s with regs := t.regs, sys := t.sys } ∧ s.regsSame t [HIF_STAT] := by
  obtain ⟨down, noted, frame, same⟩ := s.restartCoach_shows cause up
  obtain ⟨t, ht⟩ : ∃ t, t = s.restartCoach cause := ⟨_, rfl⟩
  rw [← ht] at run down noted frame same
  rw [State.keeps_of (by rw [frame]) (by rw [frame])] at run
  exact ⟨t, run, down, noted, frame, same⟩

end

/-- Settles O57: Coach's restarts, the causes of a warm reset and what it leaves (R74, R94, R530, R534, R535, R562, R582). -/
theorem firmwareResets : Obligations.FirmwareResets := by
  unfold Obligations.FirmwareResets
  refine fun s released => ⟨fun up => ⟨fun kick late => restarted 1 ?_ up, restarted 2 ?_ up⟩, fun kick idle => ?_, fun down => ?_, fun up => ?_, fun down c x noted => ?_,
    fun kick pins => ⟨fun up late => ?_, fun idle => ?_⟩, fun pins => ?_, fun cause pins fits => s.warmReset_shows cause pins fits⟩
  · rw [exec, execCoachWatchdog, State.onMain_keeps _ released, if_pos late]
  · rw [exec, execCoachException, State.onMain_keeps _ released]
  · rw [exec, execCoachWatchdog, State.onMain_keeps _ released]
    rcases idle with h | h
    · rw [State.restartCoach, if_pos (show (!s.on HIF_STAT HIF_STAT_COACH_UP) = true by rw [h]; rfl), ite_self]
      rfl
    · rw [if_neg (Nat.not_le.2 h)]
      rfl
  · rw [exec, execCoachException, State.onMain_keeps _ released, State.restartCoach, if_pos (by rw [down]; rfl)]
    rfl
  · rw [exec, execCoachUp, State.onMain_keeps _ released, if_pos up]
    rfl
  · rw [exec, execCoachUp, State.onMain_keeps _ released, if_neg (by rw [down]; decide), noted]
  · rw [exec, execUmpireWatchdog, State.onMain_keeps _ released, if_pos (by rw [up, decide_eq_true late]; rfl)]
  · rw [exec, execUmpireWatchdog, State.onMain_keeps _ released, if_neg (by rcases idle with h | h <;> simp [h])]
    rfl
  · rw [exec, execLockstepMismatch, State.onMain_keeps _ released]

end Sys2Proof.Machine
end


section
/-! SUPPORT. Kickoff: PORESET_N, and how kickoff stops (R141, R551, R553, R555, R558). -/

namespace Sys2Proof.Machine

/-! ### A register beside others -/

theorem State.on_setBit (s : State) (a : Nat) {f : Fld} (b : Bool) (lo : f.lo ≤ f.hi) (hi : f.hi < 32) : (s.setBit a f b).on a f = b := by
  cases b
  · exact State.on_setFld_zero s a lo hi
  · exact State.on_setFld_one s a lo hi

/-! ### PORESET_N (R141, R553, R555) -/

/-- The reset domain as the release of PORESET_N leaves it, before the filters start. -/
def State.poweredOn (s : State) : State :=
  let t := s.engineReset (s.regs.filter (fun r => r.1 == RAS_RESET_CAUSE))
  let t := ((t.fillRst .otp Config.otp).setPair SYS_SERIAL_LO Config.serial.toNat).applyBoot s.bootPend
  (t.setFld RAS_RESET_CAUSE RAS_RESET_CAUSE_RESET_CAUSE (b2n s.sys.wasOn)).setFld SYS_BOOT_STAT SYS_BOOT_STAT_STAGE 3

theorem State.poweredOn_shows (s : State) : s.poweredOn = { s.engineReset [] with regs := s.poweredOn.regs } ∧ s.poweredOn.fld SYS_BOOT_STAT SYS_BOOT_STAT_STAGE = 3 := by
  unfold State.poweredOn
  obtain ⟨r, hr⟩ : ∃ r, r = s.engineReset (s.regs.filter (fun r => r.1 == RAS_RESET_CAUSE)) := ⟨_, rfl⟩
  have base : r = { s.engineReset [] with regs := r.regs } := by
    rw [hr]
    rfl
  rw [← hr]
  dsimp only
  have only : r.RegsOnly (((r.fillRst .otp Config.otp).setPair SYS_SERIAL_LO Config.serial.toNat).applyBoot s.bootPend) :=
    ((r.fillRst_regsOnly .otp Config.otp).setPair _ _).trans (State.applyBoot_regsOnly _ _)
  obtain ⟨u, hu⟩ : ∃ u, u = ((r.fillRst .otp Config.otp).setPair SYS_SERIAL_LO Config.serial.toNat).applyBoot s.bootPend := ⟨_, rfl⟩
  rw [← hu] at only ⊢
  refine ⟨?_, State.fld_setFld_fits _ _ (by decide) (by decide) (by decide)⟩
  have whole := (only.setFld RAS_RESET_CAUSE RAS_RESET_CAUSE_RESET_CAUSE (b2n s.sys.wasOn)).setFld SYS_BOOT_STAT SYS_BOOT_STAT_STAGE 3
  rw [State.RegsOnly, base] at whole
  exact whole

theorem State.engineReset_tb (s : State) (keep : Tbl Word) : { s.engineReset keep with tb := s.tb } = s.engineReset keep := rfl

/-- The state after the release of PORESET_N. -/
def State.released (s : State) (pins : PinLevels) : State :=
  { { s.poweredOn with tb := s.tb }.findPins pins with
    met := s.met.timeZero, otp := Config.bootOtp, sys := { (default : Sys) with released := true, wasOn := true, startTb := s.tb } }

theorem Met.timeZero_log (m : Met) : m.timeZero.log = m.log := by
  unfold Met.timeZero
  split
  · rfl
  · split <;> rfl

theorem State.released_shows (s : State) (pins : PinLevels) :
    let t := s.released pins
    t.sys.released = true ∧ t.tim.now = 0 ∧ t.items = [] ∧ t.met = s.met.timeZero ∧ t.met.log = s.met.log
      ∧ t.fld SYS_BOOT_STAT SYS_BOOT_STAT_STAGE = 3 ∧ t.host = s.host ∧ t.pending = s.pending
      ∧ (∀ n, n < 4 → tfind t.enc n = some { (default : EncSt) with a := (pins.enc.getD n (false, false)).1, b := (pins.enc.getD n (false, false)).2 })
      ∧ ∀ k, k < 8 → tfind t.bar k = some { known := true, level := pins.bar.getD k false, since := s.tb, jammed := false } := by
  obtain ⟨frame, stage⟩ := s.poweredOn_shows
  unfold State.released
  obtain ⟨p, hp⟩ : ∃ p, p = s.poweredOn := ⟨_, rfl⟩
  rw [← hp] at frame stage ⊢
  obtain ⟨u, hu⟩ : ∃ u : State, u = { p with tb := s.tb } := ⟨_, rfl⟩
  have tb : u.tb = s.tb := by rw [hu]
  have stageU : u.fld SYS_BOOT_STAT SYS_BOOT_STAT_STAGE = 3 := (State.fld_congr (State.reg_of_regs (by rw [hu]) _) _).trans stage
  have tim : u.tim = (s.engineReset []).tim := by rw [hu, frame]
  have items : u.items = (s.engineReset []).items := by rw [hu, frame]
  have host : u.host = s.host := by rw [hu, frame]; rfl
  have pending : u.pending = s.pending := by rw [hu, frame]; rfl
  rw [← hu]
  obtain ⟨enc, bar, pinned⟩ := u.findPins_shows pins
  have stageV := State.fld_congr (u.reg_findPins pins (a := SYS_BOOT_STAT) (by decide)) SYS_BOOT_STAT_STAGE
  obtain ⟨v, hv⟩ : ∃ v, v = u.findPins pins := ⟨_, rfl⟩
  rw [← hv] at enc bar pinned stageV ⊢
  have timV : v.tim = (s.engineReset []).tim := (congrArg State.tim pinned :).trans tim
  refine ⟨rfl, (congrArg Tim.now timV :).trans rfl, (congrArg State.items pinned :).trans (items.trans rfl), rfl, s.met.timeZero_log, ?_, (congrArg State.host pinned :).trans host, (congrArg State.pending pinned :).trans pending, enc, fun k small => ?_⟩
  · exact (State.fld_congr (State.reg_of_regs rfl _) _).trans (stageV.trans stageU)
  · exact (bar k small).trans (by rw [tb])

theorem tfind_filter_away {β : Type} (t : Tbl β) {a b : Nat} (ne : a ≠ b) : tfind (t.filter (fun r => r.1 == b)) a = none :=
  tfind_absent fun _ mem same => ne (same.symm.trans (eq_of_beq (List.mem_filter.1 mem).2))

theorem poresetAssert_shows {s : State} (released : s.sys.released = true) : ∃ t, exec .poresetAssert s = .next t ∧ t.sys.released = false ∧ t.met = s.met ∧ t.items = [] ∧ t.fetched = [] ∧ t.host = s.host ∧ t.pending = s.pending
    ∧ ∀ a, a ≠ RAS_RESET_CAUSE → t.reg a = regReset a := by
  refine ⟨_, (if_neg (by rw [released]; decide) : execPoresetAssert s = _), rfl, rfl, rfl, rfl, rfl, rfl, fun a ne => ?_⟩
  rw [State.reg]
  dsimp only
  rw [show ∀ keep, (s.engineReset keep).regs = keep from fun _ => rfl, tfind_filter_away s.regs ne]

/-! ### A stop of kickoff (R558) -/

theorem State.stopKick_regsOnly (s : State) (code detail : Nat) : s.RegsOnly (s.stopKick code detail) := (((State.RegsOnly.refl s).setFld ..).setFld ..).setFld ..

theorem State.stopKick_shows (s : State) (code detail : Nat) (c : code < 16) (d : detail < 16) : let t := s.stopKick code detail
    t.kickStopped = true ∧ t.fld SYS_BOOT_STAT SYS_BOOT_STAT_CODE = code ∧ t.fld SYS_BOOT_STAT SYS_BOOT_STAT_DETAIL = detail ∧ s.regsSame t [SYS_BOOT_STAT] := by
  unfold State.stopKick State.kickStopped
  refine ⟨?_, ?_, State.fld_setFld_fits _ _ (by decide) (by decide) (lt_of_lt_of_eq d (by decide)), fun a out => ?_⟩
  · rw [State.fld_setFld_other _ _ _ _ _ (by decide) (by decide) (by decide), State.fld_setFld_other _ _ _ _ _ (by decide) (by decide) (by decide), State.fld_setFld_fits _ _ (by decide) (by decide) (by decide)]
    rfl
  · rw [State.fld_setFld_other _ _ _ _ _ (by decide) (by decide) (by decide), State.fld_setFld_fits _ _ (by decide) (by decide) (lt_of_lt_of_eq c (by decide))]
  · have ne : a ≠ SYS_BOOT_STAT := by simpa using out
    rw [State.reg_setFld_ne _ _ _ ne, State.reg_setFld_ne _ _ _ ne, State.reg_setFld_ne _ _ _ ne]

/-! ### The slots of the boot flash (R557) -/

theorem bootSlot_off (o : BootOtp) (coach : Bool) (flash : List (Nat × BootImage)) : bootSlot o coach flash false = none := by
  have none (b : Bool) : (tfind flash (slotPlace coach b)).bind (fun m => if (false && imageAccepted m o coach) = true then some (b, m) else none) = none := by
    cases tfind flash (slotPlace coach b) <;> rfl
  rw [bootSlot, List.findSome?_cons, none false, List.findSome?_cons, none true]
  rfl

/-- What a slot gives kickoff. -/
def slotGives (o : BootOtp) (coach : Bool) (flash : List (Nat × BootImage)) (b : Bool) : Option (Bool × BootImage) :=
  (tfind flash (slotPlace coach b)).bind (fun m => if imageAccepted m o coach then some (b, m) else none)

theorem bootSlot_on (o : BootOtp) (coach : Bool) (flash : List (Nat × BootImage)) : bootSlot o coach flash true = (slotGives o coach flash false).or (slotGives o coach flash true) := by
  have eq : bootSlot o coach flash true = [false, true].findSome? (slotGives o coach flash) := rfl
  rw [eq, List.findSome?_cons, List.findSome?_cons, List.findSome?_nil]
  cases slotGives o coach flash false <;> cases slotGives o coach flash true <;> rfl

theorem slotGives_iff {o : BootOtp} {coach : Bool} {flash : List (Nat × BootImage)} {a b : Bool} {m : BootImage} :
    slotGives o coach flash a = some (b, m) ↔ a = b ∧ tfind flash (slotPlace coach a) = some m ∧ imageAccepted m o coach = true := by
  rw [slotGives, Option.bind_eq_some_iff]
  constructor
  · rintro ⟨x, found, taken⟩
    split at taken
    · next ok =>
      obtain ⟨rfl, rfl⟩ := Prod.mk.inj (Option.some.inj taken)
      exact ⟨rfl, found, ok⟩
    · exact absurd taken (by simp)
  · rintro ⟨rfl, found, ok⟩
    exact ⟨m, found, if_pos ok⟩

theorem bootSlot_some {o : BootOtp} {coach : Bool} {flash : List (Nat × BootImage)} {b : Bool} {m : BootImage} (taken : bootSlot o coach flash true = some (b, m)) :
    tfind flash (slotPlace coach b) = some m ∧ imageAccepted m o coach = true ∧ (b = true → ∀ x, tfind flash (slotPlace coach false) = some x → imageAccepted x o coach = false) := by
  rw [bootSlot_on, Option.or_eq_some_iff] at taken
  rcases taken with first | ⟨none, second⟩
  · obtain ⟨rfl, found, ok⟩ := slotGives_iff.1 first
    exact ⟨found, ok, fun h => absurd h (by decide)⟩
  · obtain ⟨rfl, found, ok⟩ := slotGives_iff.1 second
    refine ⟨found, ok, fun _ x hx => Bool.eq_false_iff.2 fun accepted => ?_⟩
    rw [slotGives_iff.2 ⟨rfl, hx, accepted⟩] at none
    exact absurd none (by simp)

theorem imageAccepted_iff {m : BootImage} {o : BootOtp} {coach : Bool} : imageAccepted m o coach = true ↔ sha384 (imageKey m) = o.keyDigest ∧ ecdsaOk m.keyX m.keyY m.r m.s (imageSigned m) = true
    ∧ (imageSigned m).length + 192 ≤ (if coach then 16777216 else 524288) ∧ (if coach then o.coachFloor else o.umpireFloor) ≤ m.version.toNat := by
  unfold imageAccepted
  rw [Bool.and_eq_true, Bool.and_eq_true, Bool.and_eq_true, beq_iff_eq, decide_eq_true_eq, decide_eq_true_eq, and_assoc, and_assoc]

end Sys2Proof.Machine
end


section
/-! SUPPORT. O58 settled: kickoff stage by stage (R444, R517, R551, R555-R558, R563). -/

namespace Sys2Proof.Machine

/-! ### Images from the flash (R557, R558, R581) -/

theorem rstRegs_notBootStat : ∀ x ∈ rstRegs .umpire, x.1 ≠ SYS_BOOT_STAT := by
  decide +kernel

section
variable {s : State}

theorem State.flashPins_regsOnly {oe : Bool} {t : State} (only : (s.flashPins oe).RegsOnly t) : s.keeps t = t ∧ t = { s.flashPins oe with regs := t.regs } := by
  refine ⟨State.keeps_of ?_ ?_, only⟩
  · rw [only]
    rfl
  · rw [only]
    rfl

theorem umpireUp_fails (released : s.sys.released = true) (going : s.kickStopped = false) (down : s.umpireUp = false) {flash : List (Nat × BootImage)} {oe : Bool}
    (none : bootSlot s.otp false flash oe = none) : exec (.umpireUp flash oe) s = .next ((s.flashPins oe).stopKick 1 0) := by
  rw [exec, execUmpireUp, State.onMain_keeps _ released]
  dsimp only
  rw [if_neg (show ¬((s.flashPins oe).umpireUp || (s.flashPins oe).kickStopped) = true from fun h => absurd h (by rw [show (s.flashPins oe).umpireUp = false from down, show (s.flashPins oe).kickStopped = false from going]; decide)),
    show bootSlot (s.flashPins oe).otp false flash oe = .none from none]
  exact congrArg _ (State.flashPins_regsOnly (State.stopKick_regsOnly ..)).1

theorem umpireUp_starts (released : s.sys.released = true) (going : s.kickStopped = false) (down : s.umpireUp = false) {flash : List (Nat × BootImage)} {oe : Bool} {b : Bool} {m : BootImage}
    (slot : bootSlot s.otp false flash oe = some (b, m)) : ∃ t, exec (.umpireUp flash oe) s = .next t ∧ t.umpireUp = true ∧ t.on SYS_BOOT_STAT SYS_BOOT_STAT_UMPIRE_SLOT = b
      ∧ t.fld SYS_BOOT_STAT SYS_BOOT_STAT_STAGE = 5 ∧ t = { s.flashPins oe with regs := t.regs } := by
  obtain ⟨u, hu⟩ : ∃ u, u = (((s.flashPins oe).setBit SYS_BOOT_STAT SYS_BOOT_STAT_UMPIRE_SLOT b).setReg SYS_UMP_VER m.version).setFld SYS_BOOT_STAT SYS_BOOT_STAT_STAGE 5 := ⟨_, rfl⟩
  obtain ⟨t, ht⟩ : ∃ t, t = (u.fillRst .umpire Config.umpire).setFld HIF_STAT HIF_STAT_UMPIRE_UP 1 := ⟨_, rfl⟩
  have run : exec (.umpireUp flash oe) s = .next (s.keeps t) := by
    rw [exec, execUmpireUp, State.onMain_keeps _ released]
    dsimp only
    rw [if_neg (show ¬((s.flashPins oe).umpireUp || (s.flashPins oe).kickStopped) = true from fun h => absurd h (by rw [show (s.flashPins oe).umpireUp = false from down, show (s.flashPins oe).kickStopped = false from going]; decide)),
      show bootSlot (s.flashPins oe).otp false flash oe = some (b, m) from slot, ht, hu]
  have only : (s.flashPins oe).RegsOnly t := by
    rw [ht, hu]
    exact (((((State.RegsOnly.refl (s.flashPins oe)).setFld ..).setReg ..).setFld ..).trans (State.fillRst_regsOnly ..)).setFld ..
  obtain ⟨kept, frame⟩ := State.flashPins_regsOnly only
  have boot : t.reg SYS_BOOT_STAT = u.reg SYS_BOOT_STAT := by
    rw [ht, State.reg_setFld_ne _ _ _ (by decide), State.reg_fillRst _ _ _ rstRegs_notBootStat]
  refine ⟨t, run.trans (by rw [kept]), ?_, ?_, ?_, frame⟩
  · rw [ht, State.umpireUp]
    exact State.on_setFld_one _ _ (by decide) (by decide)
  · rw [State.on_congr boot, hu, State.on_setFld_other _ _ _ (by decide) (by decide) (by decide), State.on_congr (State.reg_setReg_ne _ _ (by decide))]
    exact State.on_setBit _ _ _ (by decide) (by decide)
  · rw [State.fld_congr boot, hu]
    exact State.fld_setFld_fits _ _ (by decide) (by decide) (by decide)

theorem coachImage_fails (released : s.sys.released = true) (going : s.kickStopped = false) (trained : s.sys.trained = true) (before : s.sys.coachImg = false) {flash : List (Nat × BootImage)} {oe : Bool}
    (none : bootSlot s.otp true flash oe = none) : exec (.coachImage flash oe) s = .next ((s.flashPins oe).stopKick 3 0) := by
  rw [exec, execCoachImage, State.onMain_keeps _ released]
  dsimp only
  rw [if_neg (show ¬((s.flashPins oe).kickStopped || !(s.flashPins oe).sys.trained || (s.flashPins oe).sys.coachImg) = true from fun h => absurd h (by
      rw [show (s.flashPins oe).kickStopped = false from going, show (s.flashPins oe).sys.trained = true from trained, show (s.flashPins oe).sys.coachImg = false from before]; decide)),
    show bootSlot (s.flashPins oe).otp true flash oe = .none from none]
  exact congrArg _ (State.flashPins_regsOnly (State.stopKick_regsOnly ..)).1

theorem coachImage_taken (released : s.sys.released = true) (going : s.kickStopped = false) (trained : s.sys.trained = true) (before : s.sys.coachImg = false) {flash : List (Nat × BootImage)} {oe : Bool}
    {b : Bool} {m : BootImage} (slot : bootSlot s.otp true flash oe = some (b, m)) : ∃ t, exec (.coachImage flash oe) s = .next t ∧ t.sys.coachImg = true ∧ t.on SYS_BOOT_STAT SYS_BOOT_STAT_COACH_SLOT = b
      ∧ t.reg SYS_COACH_VER = m.version ∧ s.regsSame t [SYS_BOOT_STAT, SYS_COACH_VER] ∧ s.memSame t := by
  obtain ⟨u, hu⟩ : ∃ u, u = ((s.flashPins oe).setBit SYS_BOOT_STAT SYS_BOOT_STAT_COACH_SLOT b).setReg SYS_COACH_VER m.version := ⟨_, rfl⟩
  obtain ⟨t, ht⟩ : ∃ t : State, t = { u with sys := { u.sys with coachImg := true } } := ⟨_, rfl⟩
  have run : exec (.coachImage flash oe) s = .next (s.keeps t) := by
    rw [exec, execCoachImage, State.onMain_keeps _ released]
    dsimp only
    rw [if_neg (show ¬((s.flashPins oe).kickStopped || !(s.flashPins oe).sys.trained || (s.flashPins oe).sys.coachImg) = true from fun h => absurd h (by
        rw [show (s.flashPins oe).kickStopped = false from going, show (s.flashPins oe).sys.trained = true from trained, show (s.flashPins oe).sys.coachImg = false from before]; decide)),
      show bootSlot (s.flashPins oe).otp true flash oe = some (b, m) from slot, ht, hu]
    rfl
  have only : (s.flashPins oe).RegsOnly u := by
    rw [hu]
    exact ((State.RegsOnly.refl (s.flashPins oe)).setFld ..).setReg ..
  have regs : t.regs = u.regs := by rw [ht]
  refine ⟨t, run.trans (congrArg _ (State.keeps_of (by rw [ht, only]; rfl) (by rw [ht, only]; rfl))), by rw [ht], ?_, ?_, fun a out => ?_, ?_⟩
  · rw [State.on_congr (State.reg_of_regs regs _), hu, State.on_congr (State.reg_setReg_ne _ _ (by decide))]
    exact State.on_setBit _ _ _ (by decide) (by decide)
  · rw [State.reg_of_regs regs, hu, State.reg_setReg_same]
  · obtain ⟨boot, version⟩ : a ≠ SYS_BOOT_STAT ∧ a ≠ SYS_COACH_VER := by simpa using out
    rw [State.reg_of_regs regs, hu, State.reg_setReg_ne _ _ version]
    exact (State.reg_setFld_ne _ _ _ boot).trans rfl
  · exact State.memSame_trans (State.memSame_of rfl rfl rfl rfl rfl : s.memSame (s.flashPins oe)) (State.memSame_trans only.memSame (by rw [ht]; exact State.memSame_of rfl rfl rfl rfl rfl))

/-! ### DRAM (R555) -/

theorem dramTrained_shows (released : s.sys.released = true) (going : s.kickStopped = false) (up : s.umpireUp = true) (before : s.sys.trained = false) :
    (∀ c : Fin 8, exec (.dramTrained (some c)) s = .next (s.stopKick 2 c.val)) ∧ exec (.dramTrained none) s = .next { s with sys := { s.sys with trained := true } } := by
  have on : ¬(!s.umpireUp || s.kickStopped || s.sys.trained) = true := fun h => absurd h (by rw [up, going, before]; decide)
  refine ⟨fun c => ?_, ?_⟩
  · rw [exec, execDramTrained, State.onMain_keeps _ released, if_neg on]
    exact congrArg _ (s.stopKick_regsOnly 2 c.val).keeps
  · rw [exec, execDramTrained, State.onMain_keeps _ released, if_neg on]
    rfl

theorem dramWritten_shows (released : s.sys.released = true) (going : s.kickStopped = false) (trained : s.sys.trained = true) (before : s.sys.written = false) :
    ∃ t, exec .dramWritten s = .next t ∧ t.dram = [] ∧ t.ras.chk = [] ∧ t.sys.written = true ∧ t.fld SYS_BOOT_STAT SYS_BOOT_STAT_STAGE = 6
      ∧ t.host = s.host ∧ t.tile = s.tile ∧ s.regsSame t [SYS_BOOT_STAT] := by
  have on : ¬(s.kickStopped || !s.sys.trained || s.sys.written) = true := fun h => absurd h (by rw [going, trained, before]; decide)
  have run : exec .dramWritten s = .next (s.keeps { s.setFld SYS_BOOT_STAT SYS_BOOT_STAT_STAGE 6 with dram := [], ras := { s.ras with chk := [] }, sys := { s.sys with written := true } }) := by
    rw [exec, execDramWritten, State.onMain_keeps _ released, if_neg on]
  have stage : (s.setFld SYS_BOOT_STAT SYS_BOOT_STAT_STAGE 6).fld SYS_BOOT_STAT SYS_BOOT_STAT_STAGE = 6 := State.fld_setFld_fits s _ (by decide) (by decide) (by decide)
  have away (a : Nat) (ne : a ≠ SYS_BOOT_STAT) : (s.setFld SYS_BOOT_STAT SYS_BOOT_STAT_STAGE 6).reg a = s.reg a := State.reg_setFld_ne s _ _ ne
  have only : s.RegsOnly (s.setFld SYS_BOOT_STAT SYS_BOOT_STAT_STAGE 6) := (State.RegsOnly.refl s).setFld ..
  obtain ⟨u, hu⟩ : ∃ u, u = s.setFld SYS_BOOT_STAT SYS_BOOT_STAT_STAGE 6 := ⟨_, rfl⟩
  rw [← hu] at run stage away only
  refine ⟨_, run, rfl, rfl, rfl, ?_, ?_, ?_, fun a out => ?_⟩
  · exact (State.fld_congr (State.reg_of_regs rfl _) _).trans stage
  · exact only.same State.host (fun _ _ => rfl)
  · exact only.same State.tile (fun _ _ => rfl)
  · exact (State.reg_of_regs rfl _).trans (away a (by simpa using out))

/-! ### Coach and READY (R444, R517, R555) -/

theorem coachUp_huddles (released : s.sys.released = true) (going : s.kickStopped = false) (down : s.on HIF_STAT HIF_STAT_COACH_UP = false) (first : s.sys.coachDown = none) (written : s.sys.written = true)
    (image : s.sys.coachImg = true) (before : s.sys.coachRan = false) :
    ∃ v : State, exec .coachUp s = .next (s.keeps (v.startHuddle s.epoch)) ∧ v.on HIF_STAT HIF_STAT_COACH_UP = true ∧ v.fld SYS_BOOT_STAT SYS_BOOT_STAT_STAGE = 9 ∧ v.sys.coachRan = true
      ∧ v = { s with regs := v.regs, sys := v.sys } := by
  obtain ⟨u, hu⟩ : ∃ u, u = (s.setFld HIF_STAT HIF_STAT_COACH_UP 1).setFld SYS_BOOT_STAT SYS_BOOT_STAT_STAGE 9 := ⟨_, rfl⟩
  obtain ⟨v, hv⟩ : ∃ v : State, v = { u with sys := { s.sys with coachRan := true, huddleWait := s.tb } } := ⟨_, rfl⟩
  have only : s.RegsOnly u := by
    rw [hu]
    exact ((State.RegsOnly.refl s).setFld ..).setFld ..
  have regs : v.regs = u.regs := by rw [hv]
  have epoch : v.epoch = s.epoch := by
    refine State.fld_congr ?_ _
    rw [State.reg_of_regs regs, hu, State.reg_setFld_ne _ _ _ (by decide), State.reg_setFld_ne _ _ _ (by decide)]
  refine ⟨v, ?_, ?_, ?_, by rw [hv], by rw [hv, only]⟩
  · rw [exec, execCoachUp, State.onMain_keeps _ released, if_neg (by rw [down]; decide), first]
    dsimp only
    rw [if_neg (fun h => absurd h (by rw [going, written, image, before]; decide)), ← epoch, hv, hu]
  · rw [State.on_congr (State.reg_of_regs regs _), hu, State.on_congr (State.reg_setFld_ne _ _ _ (by decide))]
    exact State.on_setFld_one _ _ (by decide) (by decide)
  · rw [State.fld_congr (State.reg_of_regs regs _), hu]
    exact State.fld_setFld_fits _ _ (by decide) (by decide) (by decide)

theorem ready_shows (released : s.sys.released = true) (going : s.kickStopped = false) (before : s.isReady = false) (coach : s.on HIF_STAT HIF_STAT_COACH_UP = true) (huddle : s.sys.huddleEnd = true)
    (bist : s.sys.bist = true) :
    ∃ v : State, exec .ready s = .next (s.keeps v.resetRecord) ∧ v.isReady = true ∧ v.fld SYS_BOOT_STAT SYS_BOOT_STAT_STAGE = 10 ∧ v.fld SYS_PWR_STAT SYS_PWR_STAT_STATE = 3
      ∧ v.num SYS_BOOT_TIME = (s.tb - s.sys.startTb) / 1000000 % 2 ^ 32 ∧ v = { s with regs := v.regs } ∧ (s.sys.warm = none → v.resetRecord = v) := by
  obtain ⟨v, hv⟩ : ∃ v : State, v = ((((s.setFld HIF_STAT HIF_STAT_READY 1).setFld SYS_BOOT_STAT SYS_BOOT_STAT_STAGE 10).setFld SYS_PWR_STAT SYS_PWR_STAT_STATE 3).setNum SYS_BOOT_TIME ((s.tb - s.sys.startTb) / 1000000)) :=
    ⟨_, rfl⟩
  have only : s.RegsOnly v := by
    rw [hv]
    exact ((((State.RegsOnly.refl s).setFld ..).setFld ..).setFld ..).setNum ..
  refine ⟨v, ?_, ?_, ?_, ?_, ?_, only, fun cold => ?_⟩
  · rw [exec, execReady, State.onMain_keeps _ released, if_neg (fun h => absurd h (by rw [before, going, coach, huddle, bist]; decide)), hv]
    dsimp only
    have shown : s.RegsOnly ((s.setFld HIF_STAT HIF_STAT_READY 1).setFld SYS_BOOT_STAT SYS_BOOT_STAT_STAGE 10) := ((State.RegsOnly.refl s).setFld ..).setFld ..
    rw [shown.same State.tb (fun _ _ => rfl), shown.same State.sys (fun _ _ => rfl)]
  · rw [State.isReady, hv, State.on_congr (State.reg_setNum_ne _ _ (by decide)), State.on_congr (State.reg_setFld_ne _ _ _ (by decide)), State.on_congr (State.reg_setFld_ne _ _ _ (by decide))]
    exact State.on_setFld_one _ _ (by decide) (by decide)
  · rw [hv, State.fld_congr (State.reg_setNum_ne _ _ (by decide)), State.fld_congr (State.reg_setFld_ne _ _ _ (by decide))]
    exact State.fld_setFld_fits _ _ (by decide) (by decide) (by decide)
  · rw [hv, State.fld_congr (State.reg_setNum_ne _ _ (by decide))]
    exact State.fld_setFld_fits _ _ (by decide) (by decide) (by decide)
  · rw [hv, State.num, State.setNum, State.reg_setReg_same, BitVec.toNat_ofNat]
  · rw [State.resetRecord, show v.sys.warm = none from (only.same (fun v => v.sys.warm) (fun _ _ => rfl)).trans cold]

/-! ### Pitch BIST (R229, R551, R555) -/

/-- Registers and interrupts alone differ. -/
def State.Signals (s t : State) : Prop := t = { s with regs := t.regs, msix := t.msix, msixPend := t.msixPend }

namespace State.Signals

variable {t u : State}

theorem trans (h : s.Signals t) (h' : t.Signals u) : s.Signals u := by
  unfold State.Signals at h h' ⊢
  rw [h] at h'
  exact h'

theorem ofRegs (h : s.RegsOnly t) : s.Signals t := by
  unfold State.Signals
  rw [h]

theorem refl (s : State) : s.Signals s := ofRegs (State.RegsOnly.refl s)

theorem raise (s : State) (a i : Nat) : s.Signals (s.raise a i) := s.raise_eq a i

theorem foldl {α : Type} {f : State → α → State} (step : ∀ (v : State) (x : α), v.Signals (f v x)) (l : List α) : ∀ s : State, s.Signals (l.foldl f s) := by
  induction l with
  | nil => exact refl
  | cons x l ih => exact fun s => (step s x).trans (ih _)

end State.Signals

theorem State.degrade_signals (s : State) : s.Signals s.degrade := by
  unfold State.degrade
  dsimp only
  split
  · exact State.Signals.raise ..
  · exact ((State.Signals.raise s PIT_IRQ_STAT 1).trans (State.Signals.ofRegs (((State.RegsOnly.refl _).setFld ..).setFld ..))).trans (State.Signals.raise ..)

theorem State.mapTile_signals (s : State) (n : Nat) : s.Signals (s.mapTile n) := by
  unfold State.mapTile
  split
  · exact State.Signals.refl s
  · split
    · exact State.Signals.ofRegs ((State.RegsOnly.refl s).setFld ..)
    · exact (State.Signals.ofRegs ((State.RegsOnly.refl s).setFld ..)).trans (State.degrade_signals _)

theorem State.freshMap_regsOnly (s : State) : s.RegsOnly s.freshMap := by
  unfold State.freshMap
  dsimp only
  exact (((State.RegsOnly.refl s).setFld ..).setFld ..).trans (State.RegsOnly.foldl (fun v _ => ((State.RegsOnly.refl v).setNum ..).setNum ..) _ _)

/-- The tiles that failed BIST are the failed ones. -/
theorem failed_after {failed : List Nat} {p : Nat} (small : p < 272) :
    (tget default (((List.range 272).filter failed.contains).map (fun p => (p, { (default : PTile) with failed := true }))) p).failed = failed.contains p := by
  by_cases mem : failed.contains p = true
  · rw [tget_eq]
    exact (congrArg (fun o : Option PTile => (o.getD default).failed) (tfind_map_keyed (fun _ => _) (List.mem_filter.2 ⟨List.mem_range.2 small, mem⟩))).trans mem.symm
  · rw [tget_eq, tfind_absent (fun e inMap same => ?_), Bool.eq_false_iff.2 mem]
    · rfl
    · obtain ⟨q, inBad, rfl⟩ := List.mem_map.1 inMap
      exact mem (same ▸ (List.mem_filter.1 inBad).2)

/-- The state in which the map of the tiles is written. -/
def State.tested (s : State) (failed : List Nat) : State :=
  { s with
    tile := [], ras := { s.ras with tchk := [] }, dirty := [], ptiles := ((List.range 272).filter failed.contains).map (fun p => (p, { (default : PTile) with failed := true }))
    gov := { s.gov with on := true, vout := 750 :: s.fld PIT_GOV_VLIM PIT_GOV_VLIM_V_MAX_MV :: s.gov.vout }, sys := { s.sys with bist := true } }

/-- The map of the tiles written. -/
def State.mapped (s : State) : State :=
  ((List.range 272).foldl (fun s p => s.setBit (PIT_TILE_TEMPO p) PIT_TILE_TEMPO_MAPPED (s.logicalOf p).isSome) ((List.range 256).foldl State.mapTile s)).freshMap

theorem State.mapped_signals (s : State) : s.Signals s.mapped := by
  unfold State.mapped
  generalize List.range 256 = tiles
  generalize List.range 272 = places
  exact (State.Signals.foldl (fun v n => v.mapTile_signals n) tiles s).trans
    (State.Signals.ofRegs ((State.RegsOnly.foldl (fun v _ => (State.RegsOnly.refl v).setFld ..) places _).trans (State.freshMap_regsOnly _)))

theorem bistDone_shows (released : s.sys.released = true) (going : s.kickStopped = false) (up : s.umpireUp = true) (before : s.sys.bist = false) (failed : List Nat) :
    ∃ t, exec (.bistDone failed) s = .next t ∧ t.tile = [] ∧ t.sys.bist = true ∧ t.gov.on = true ∧ t.gov.vout = 750 :: s.fld PIT_GOV_VLIM PIT_GOV_VLIM_V_MAX_MV :: s.gov.vout
      ∧ (∀ p, p < 272 → (t.ptile p).failed = failed.contains p) ∧ t.host = s.host ∧ t.dram = s.dram := by
  have run : exec (.bistDone failed) s = .next (s.keeps (s.tested failed).mapped) := by
    rw [exec, execBistDone, State.onMain_keeps _ released, if_neg (fun h => absurd h (by rw [up, going, before]; decide))]
    rfl
  have frame := (s.tested failed).mapped_signals
  obtain ⟨t, ht⟩ : ∃ t, t = (s.tested failed).mapped := ⟨_, rfl⟩
  rw [← ht] at run frame
  rw [State.keeps_of (by rw [frame]; rfl) (by rw [frame]; rfl)] at run
  have tiles : t.ptiles = (s.tested failed).ptiles := (congrArg State.ptiles frame :)
  have gov : t.gov = (s.tested failed).gov := (congrArg State.gov frame :)
  refine ⟨t, run, (congrArg State.tile frame :), (congrArg (fun v : State => v.sys.bist) frame :), (congrArg Gov.on gov :), (congrArg Gov.vout gov :), fun p small => ?_, (congrArg State.host frame :),
    (congrArg State.dram frame :)⟩
  rw [State.ptile, tiles]
  exact failed_after small

/-! ### A stopped kickoff (R558) -/

theorem stopped_held (released : s.sys.released = true) (stopped : s.kickStopped = true) :
    (∀ flash oe, exec (.umpireUp flash oe) s = .next (s.flashPins oe) ∧ exec (.coachImage flash oe) s = .next (s.flashPins oe)) ∧ (∀ c, exec (.dramTrained c) s = .next s)
      ∧ exec .dramWritten s = .next s ∧ (∀ l, exec (.bistDone l) s = .next s) ∧ exec .ready s = .next s := by
  refine ⟨fun flash oe => ?_, fun c => ?_, ?_, fun l => ?_, ?_⟩
  · have still : (s.flashPins oe).kickStopped = true := stopped
    refine ⟨?_, ?_⟩
    · rw [exec, execUmpireUp, State.onMain_keeps _ released]
      dsimp only
      rw [still, Bool.or_true, if_pos rfl]
      rfl
    · rw [exec, execCoachImage, State.onMain_keeps _ released]
      dsimp only
      rw [still, Bool.true_or, Bool.true_or, if_pos rfl]
      rfl
  · rw [exec, execDramTrained, State.onMain_keeps _ released, stopped, Bool.or_true, Bool.true_or, if_pos rfl]
    rfl
  · rw [exec, execDramWritten, State.onMain_keeps _ released, stopped, Bool.true_or, Bool.true_or, if_pos rfl]
    rfl
  · rw [exec, execBistDone, State.onMain_keeps _ released, stopped, Bool.or_true, Bool.true_or, if_pos rfl]
    rfl
  · rw [exec, execReady, State.onMain_keeps _ released, stopped, Bool.or_true, Bool.true_or, Bool.true_or, Bool.true_or, if_pos rfl]
    rfl

end

/-- Settles O58: PORESET_N, each stage of kickoff with its stop, and READY (R141, R444, R517, R551, R553, R555-R558, R563). -/
theorem kickoff : Obligations.Kickoff := by
  unfold Obligations.Kickoff
  refine fun s => ⟨fun released pins => ?_, fun off => ?_, fun off pins => ⟨s.released pins, ?_, s.released_shows pins⟩, poresetAssert_shows, stopped_held, fun released going =>
    ⟨fun down flash oe => ⟨umpireUp_fails released going down, fun b m => umpireUp_starts released going down⟩, dramTrained_shows released going, dramWritten_shows released going,
      fun trained before flash oe => ⟨coachImage_fails released going trained before, fun b m => coachImage_taken released going trained before⟩,
      fun flash coach => ⟨bootSlot_off s.otp coach flash, fun b m => bootSlot_some, fun m => imageAccepted_iff.1⟩, fun oe => ⟨rfl, rfl⟩, coachUp_huddles released going,
      fun up before => bistDone_shows released going up before, ready_shows released going⟩, s.stopKick_shows⟩
  · rw [exec, execPoresetRelease, if_pos released]
  · rw [exec, execPoresetAssert, if_pos (by rw [off]; rfl)]
  · rw [exec, execPoresetRelease, if_neg (by rw [off]; decide)]
    rfl

end Sys2Proof.Machine
end


section
/-! SUPPORT. A window of the tempo and the setpoint (R192-R195, R202). -/

namespace Sys2Proof.Machine

/-! ### The setpoint (R195, R551) -/

theorem State.setVolt_overrides (s : State) {mv : Nat} (fits : mv < 1024) (mode : s.on PIT_GOV_CFG PIT_GOV_CFG_MODE = true) (other : mv ≠ s.fld PIT_GOV_FIXED PIT_GOV_FIXED_V_FIXED_MV) :
    (s.setVolt mv).on PIT_GOV_STAT PIT_GOV_STAT_FIXED_OVERRIDE = true := by
  unfold State.setVolt
  extract_lets sent
  obtain ⟨u, hu⟩ : ∃ u, u = ({ s with gov := { s.gov with vout := sent } } : State) := ⟨_, rfl⟩
  rw [← hu]
  have volt : (u.setFld PIT_GOV_STAT PIT_GOV_STAT_V_SET_MV mv).fld PIT_GOV_STAT PIT_GOV_STAT_V_SET_MV = mv := State.fld_setFld_fits u _ (by decide) (by decide) fits
  have away (a : Nat) (ne : a ≠ PIT_GOV_STAT) : (u.setFld PIT_GOV_STAT PIT_GOV_STAT_V_SET_MV mv).reg a = s.reg a := (State.reg_setFld_ne u _ _ ne).trans (State.reg_of_regs (by rw [hu]) a)
  have fixed : (u.setFld PIT_GOV_STAT PIT_GOV_STAT_V_SET_MV mv).on PIT_GOV_CFG PIT_GOV_CFG_MODE = true := (State.on_congr (away _ (by decide)) _).trans mode
  rw [State.freshOverride, fixed, volt, State.fld_congr (away PIT_GOV_FIXED (by decide)), Bool.true_and, if_pos (bne_iff_ne.2 other)]
  exact State.on_setFld_one _ _ (by decide) (by decide)

theorem State.setVolt_keeps {s u : State} (pending : u.pending = s.pending) (met : u.met = s.met) {mv : Nat} (fits : mv < 1024) : s.keeps (u.setVolt mv) = u.setVolt mv := by
  obtain ⟨-, -, frame⟩ := u.setVolt_shows fits
  obtain ⟨t, ht⟩ : ∃ t, t = u.setVolt mv := ⟨_, rfl⟩
  rw [← ht] at frame ⊢
  exact State.keeps_of (by rw [frame, pending]) (by rw [frame, met])

/-! ### The slowest tile (R194, R202) -/

/-- The lower of what is the lowest so far and a tile, the lower index of equals. -/
def slower (steps : Nat → Nat) (b : Option (Nat × Nat)) (p : Nat) : Option (Nat × Nat) :=
  match b with
  | none => some (p, steps p)
  | some (q, m) => if steps p < m then some (p, steps p) else some (q, m)

theorem slower_least (steps : Nat → Nat) : ∀ {l : List Nat} {q p n : Nat}, (q :: l).Pairwise (· < ·) → l.foldl (slower steps) (some (q, steps q)) = some (p, n) →
    p ∈ q :: l ∧ steps p = n ∧ ∀ k ∈ q :: l, n ≤ steps k ∧ (steps k = n → p ≤ k)
  | [], q, p, n, _, eq => by
    obtain ⟨rfl, rfl⟩ := Prod.mk.inj (Option.some.inj eq)
    exact ⟨List.mem_cons_self, rfl, fun k mem => List.mem_singleton.1 mem ▸ ⟨le_rfl, fun _ => le_rfl⟩⟩
  | x :: l, q, p, n, asc, eq => by
    obtain ⟨first, rest⟩ := List.pairwise_cons.1 asc
    have qx : q < x := first x List.mem_cons_self
    rw [List.foldl_cons, slower] at eq
    split at eq
    · next less =>
      obtain ⟨mem, at_, least⟩ := slower_least steps rest eq
      refine ⟨List.mem_cons_of_mem q mem, at_, fun k isIn => ?_⟩
      rcases List.mem_cons.1 isIn with rfl | isIn
      · have := (least x List.mem_cons_self).1
        exact ⟨by omega, fun same => by omega⟩
      · exact least k isIn
    · next more =>
      obtain ⟨mem, at_, least⟩ := slower_least steps (List.pairwise_cons.2 ⟨fun k isIn => first k (List.mem_cons_of_mem x isIn), (List.pairwise_cons.1 rest).2⟩) eq
      have top := least q List.mem_cons_self
      refine ⟨?_, at_, fun k isIn => ?_⟩
      · rcases List.mem_cons.1 mem with rfl | mem
        · exact List.mem_cons_self
        · exact List.mem_cons_of_mem q (List.mem_cons_of_mem x mem)
      · rcases List.mem_cons.1 isIn with rfl | isIn
        · exact top
        · rcases List.mem_cons.1 isIn with rfl | isIn
          · exact ⟨by omega, fun same => by have := top.2 (by omega); omega⟩
          · exact least k (List.mem_cons_of_mem q isIn)

/-- The steps that a tile shows. -/
def State.stepsOf (s : State) (p : Nat) : Nat := s.fld (PIT_TILE_TEMPO p) PIT_TILE_TEMPO_STEPS

/-- A tile shows as mapped. -/
def State.tempoMapped (s : State) (p : Nat) : Bool := s.on (PIT_TILE_TEMPO p) PIT_TILE_TEMPO_MAPPED

theorem State.slowest_eq (s : State) : s.slowest = ((List.range 272).filter s.tempoMapped).foldl (slower s.stepsOf) none := rfl

theorem State.slowest_least {s : State} {p n : Nat} (slowest : s.slowest = some (p, n)) : p < 272 ∧ s.fld (PIT_TILE_TEMPO p) PIT_TILE_TEMPO_STEPS = n ∧ s.on (PIT_TILE_TEMPO p) PIT_TILE_TEMPO_MAPPED = true
    ∧ ∀ k, k < 272 → s.on (PIT_TILE_TEMPO k) PIT_TILE_TEMPO_MAPPED = true → n ≤ s.fld (PIT_TILE_TEMPO k) PIT_TILE_TEMPO_STEPS
      ∧ (s.fld (PIT_TILE_TEMPO k) PIT_TILE_TEMPO_STEPS = n → p ≤ k) := by
  rw [State.slowest_eq] at slowest
  have ascending : ((List.range 272).filter s.tempoMapped).Pairwise (· < ·) := List.Pairwise.filter _ List.pairwise_lt_range
  have mem (k : Nat) : k ∈ (List.range 272).filter s.tempoMapped ↔ k < 272 ∧ s.tempoMapped k = true := by rw [List.mem_filter, List.mem_range]
  generalize (List.range 272).filter s.tempoMapped = l at slowest ascending mem
  cases l with
  | nil => exact absurd slowest (by simp)
  | cons q l =>
    obtain ⟨isIn, steps, least⟩ := slower_least s.stepsOf ascending slowest
    obtain ⟨small, mapped⟩ := (mem p).1 isIn
    exact ⟨small, steps, mapped, fun k below on => least k ((mem k).2 ⟨below, on⟩)⟩

theorem State.slowest_congr {s t : State} (same : ∀ p, p < 272 → t.reg (PIT_TILE_TEMPO p) = s.reg (PIT_TILE_TEMPO p)) : t.slowest = s.slowest := by
  rw [State.slowest_eq, State.slowest_eq]
  have mapped : (List.range 272).filter t.tempoMapped = (List.range 272).filter s.tempoMapped :=
    List.filter_congr fun p mem => State.on_congr (same p (List.mem_range.1 mem)) _
  rw [mapped]
  refine List.foldl_ext _ _ _ fun b p mem => ?_
  have steps : t.stepsOf p = s.stepsOf p := State.fld_congr (same p (List.mem_range.1 (List.mem_filter.1 mem).1)) _
  cases b <;> simp only [slower, steps]

/-! ### A window of the tempo (R192) -/

theorem tileTempo_ne {p q : Nat} (ne : p ≠ q) : PIT_TILE_TEMPO p ≠ PIT_TILE_TEMPO q := by
  unfold PIT_TILE_TEMPO
  omega

/-- The tiles' counts put in their registers. -/
def State.counted (s : State) (steps : List Nat) : State :=
  (List.range 272).foldl (fun s p => s.setFld (PIT_TILE_TEMPO p) PIT_TILE_TEMPO_STEPS (steps.getD p 0)) s

theorem State.counted_steps (s : State) (steps : List Nat) {p : Nat} (small : p < 272) : (s.counted steps).stepsOf p = steps.getD p 0 % 2 ^ 16 := by
  obtain ⟨v, -, -, own⟩ := foldl_own (f := fun s p => s.setFld (PIT_TILE_TEMPO p) PIT_TILE_TEMPO_STEPS (steps.getD p 0)) (get := State.stepsOf) (inv := fun _ => True) (s := s)
    (fun _ _ h => h) (fun v q p ne => State.fld_congr (State.reg_setFld_ne v _ _ (tileTempo_ne ne)) _) trivial List.nodup_range (List.mem_range.2 small)
  exact own.trans (State.fld_setFld_same v _ _ _ (by decide) (by decide))

theorem State.counted_regsOnly (s : State) (steps : List Nat) : s.RegsOnly (s.counted steps) := State.RegsOnly.foldl (fun v _ => (State.RegsOnly.refl v).setFld ..) _ s

/-- Steps that change physical tiles alone change physical tiles alone. -/
theorem foldl_ptiles {f : State → Nat → State} (step : ∀ v p, f v p = { v with ptiles := (f v p).ptiles }) (l : List Nat) : ∀ s : State, l.foldl f s = { s with ptiles := (l.foldl f s).ptiles } := by
  induction l with
  | nil => exact fun _ => rfl
  | cons x l ih =>
    intro s
    have whole := (ih (f s x)).trans (congrArg (fun v : State => { v with ptiles := (l.foldl f (f s x)).ptiles }) (step s x))
    exact whole

theorem State.trackLow_frame (s : State) : s.trackLow = { s with ptiles := s.trackLow.ptiles } := by
  unfold State.trackLow
  have frame (v : State) (c : Prop) [Decidable c] (a : Tbl PTile) : (if c then v else { v with ptiles := a }) = { v with ptiles := (if c then v else { v with ptiles := a }).ptiles } := by
    split <;> rfl
  exact foldl_ptiles (fun v p => frame v _ _) _ s

end Sys2Proof.Machine
end


section
/-! SUPPORT. The end of a window of the tempo and of the governor's period (R192-R196). -/

namespace Sys2Proof.Machine

section
variable {s : State}

/-! ### The end of a window (R192, R194, R195) -/

theorem tempoWindow_shows (released : s.sys.released = true) (steps : List Nat) :
    ∃ t, exec (.tempoWindow steps) s = .next t ∧ (∀ p, p < 272 → t.fld (PIT_TILE_TEMPO p) PIT_TILE_TEMPO_STEPS = steps.getD p 0 % 2 ^ 16)
      ∧ (∀ p n, t.slowest = some (p, n) → t.fld PIT_TEMPO_MIN PIT_TEMPO_MIN_TILE = p ∧ t.fld PIT_TEMPO_MIN PIT_TEMPO_MIN_STEPS = n)
      ∧ t = { s with regs := t.regs, ptiles := t.ptiles, gov := t.gov } := by
  have counts (p : Nat) (small : p < 272) := s.counted_steps steps small
  have only := s.counted_regsOnly steps
  obtain ⟨c, hc⟩ : ∃ c, c = s.counted steps := ⟨_, rfl⟩
  have low := c.trackLow_frame
  obtain ⟨u, hu⟩ : ∃ u, u = c.trackLow := ⟨_, rfl⟩
  rw [← hc] at counts only
  rw [← hu] at low
  have regs : u.regs = c.regs := by rw [low]
  have whole : u = { s with regs := u.regs, ptiles := u.ptiles } := by rw [low, only]
  have countsU (p : Nat) (small : p < 272) : u.fld (PIT_TILE_TEMPO p) PIT_TILE_TEMPO_STEPS = steps.getD p 0 % 2 ^ 16 := (State.fld_congr (State.reg_of_regs regs _) _).trans (counts p small)
  have run : exec (.tempoWindow steps) s = .next (s.keeps (match u.slowest with
      | none => u
      | some (p, n) =>
        let w : State := { ((u.setFld PIT_TEMPO_MIN PIT_TEMPO_MIN_TILE p).setFld PIT_TEMPO_MIN PIT_TEMPO_MIN_STEPS n) with gov := { u.gov with low := some (min n (u.gov.low.getD n)) } }
        if w.governs && decide (200 * n < floorSteps * (200 + w.margin)) then w.setVolt (min (w.volt + 10) w.vMax) else w)) := by
    rw [exec, execTempoWindow, State.onMain_keeps _ released, hu, hc]
    rfl
  cases slowest : u.slowest with
  | none =>
    rw [slowest] at run
    refine ⟨u, run.trans (congrArg _ (State.keeps_of (by rw [whole]) (by rw [whole]))), countsU, fun p n h => ?_, by rw [whole]⟩
    rw [slowest] at h
    exact absurd h (by simp)
  | some x =>
    obtain ⟨p, n⟩ := x
    obtain ⟨small, steps', -, -⟩ := State.slowest_least slowest
    have fits : n < 2 ^ 16 := steps' ▸ fget_lt (u.reg (PIT_TILE_TEMPO p)) PIT_TILE_TEMPO_STEPS
    obtain ⟨w, hw⟩ : ∃ w : State, w = { ((u.setFld PIT_TEMPO_MIN PIT_TEMPO_MIN_TILE p).setFld PIT_TEMPO_MIN PIT_TEMPO_MIN_STEPS n) with gov := { u.gov with low := some (min n (u.gov.low.getD n)) } } := ⟨_, rfl⟩
    rw [slowest] at run
    dsimp only at run
    rw [← hw] at run
    have regsW : w.regs = ((u.setFld PIT_TEMPO_MIN PIT_TEMPO_MIN_TILE p).setFld PIT_TEMPO_MIN PIT_TEMPO_MIN_STEPS n).regs := by rw [hw]
    have awayW (a : Nat) (ne : a ≠ PIT_TEMPO_MIN) : w.reg a = u.reg a := by rw [State.reg_of_regs regsW, State.reg_setFld_ne _ _ _ ne, State.reg_setFld_ne _ _ _ ne]
    have tileW : w.fld PIT_TEMPO_MIN PIT_TEMPO_MIN_TILE = p := by
      rw [State.fld_congr (State.reg_of_regs regsW _), State.fld_setFld_other _ _ _ _ _ (by decide) (by decide) (by decide)]
      exact State.fld_setFld_fits u _ (by decide) (by decide) (lt_trans small (by decide))
    have stepsW : w.fld PIT_TEMPO_MIN PIT_TEMPO_MIN_STEPS = n := by
      rw [State.fld_congr (State.reg_of_regs regsW _)]
      exact State.fld_setFld_fits _ _ (by decide) (by decide) (lt_of_lt_of_eq fits (by decide))
    have frameW : w = { s with regs := w.regs, ptiles := w.ptiles, gov := w.gov } := by
      have both : ((u.setFld PIT_TEMPO_MIN PIT_TEMPO_MIN_TILE p).setFld PIT_TEMPO_MIN PIT_TEMPO_MIN_STEPS n) = { u with regs := ((u.setFld PIT_TEMPO_MIN PIT_TEMPO_MIN_TILE p).setFld PIT_TEMPO_MIN PIT_TEMPO_MIN_STEPS n).regs } :=
        ((State.RegsOnly.refl u).setFld ..).setFld ..
      rw [hw, both, whole]
    have settled (t : State) (run : exec (.tempoWindow steps) s = .next (s.keeps t)) (same : w.regsSame t [PIT_GOV_STAT]) (frame : t = { w with regs := t.regs, gov := t.gov }) :
        ∃ t, exec (.tempoWindow steps) s = .next t ∧ (∀ p, p < 272 → t.fld (PIT_TILE_TEMPO p) PIT_TILE_TEMPO_STEPS = steps.getD p 0 % 2 ^ 16)
          ∧ (∀ p n, t.slowest = some (p, n) → t.fld PIT_TEMPO_MIN PIT_TEMPO_MIN_TILE = p ∧ t.fld PIT_TEMPO_MIN PIT_TEMPO_MIN_STEPS = n)
          ∧ t = { s with regs := t.regs, ptiles := t.ptiles, gov := t.gov } := by
      have tiles (k : Nat) : t.reg (PIT_TILE_TEMPO k) = u.reg (PIT_TILE_TEMPO k) :=
        (same _ (by simp only [List.mem_singleton, PIT_TILE_TEMPO, PIT_GOV_STAT]; omega)).trans (awayW _ (by simp only [PIT_TILE_TEMPO, PIT_TEMPO_MIN, ne_eq]; omega))
      have lowest : t.reg PIT_TEMPO_MIN = w.reg PIT_TEMPO_MIN := same _ (by decide)
      refine ⟨t, run.trans (congrArg _ (State.keeps_of (by rw [frame, frameW]) (by rw [frame, frameW]))), fun k below => (State.fld_congr (tiles k) _).trans (countsU k below), fun q m h => ?_,
        by rw [frame, frameW]⟩
      rw [State.slowest_congr (fun k _ => tiles k), slowest] at h
      obtain ⟨rfl, rfl⟩ := Prod.mk.inj (Option.some.inj h)
      exact ⟨(State.fld_congr lowest _).trans tileW, (State.fld_congr lowest _).trans stepsW⟩
    split at run
    · obtain ⟨-, same, frame⟩ := w.setVolt_shows (mv := min (w.volt + 10) w.vMax) (lt_of_le_of_lt (Nat.min_le_right ..) (fget_lt (w.reg PIT_GOV_VLIM) PIT_GOV_VLIM_V_MAX_MV))
      refine settled _ run same ?_
      generalize w.setVolt (min (w.volt + 10) w.vMax) = t at frame
      rw [frame]
    · exact settled w run (fun _ _ => rfl) rfl

/-! ### The governor's period (R194, R195) -/

/-- What the period leaves before the governor acts. -/
def State.metered (s : State) : State :=
  { s.setFld PIT_GOV_STAT PIT_GOV_STAT_PWR_EST_W (min s.powerEst.floor.toNat 255) with gov := { s.gov with low := none, products := [] } }

theorem State.metered_shows (s : State) : s.metered = { s with regs := s.metered.regs, gov := { s.gov with low := none, products := [] } } ∧ s.regsSame s.metered [PIT_GOV_STAT] ∧ s.metered.volt = s.volt := by
  have only : s.RegsOnly (s.setFld PIT_GOV_STAT PIT_GOV_STAT_PWR_EST_W (min s.powerEst.floor.toNat 255)) := (State.RegsOnly.refl s).setFld ..
  have away (a : Nat) (ne : a ≠ PIT_GOV_STAT) : (s.setFld PIT_GOV_STAT PIT_GOV_STAT_PWR_EST_W (min s.powerEst.floor.toNat 255)).reg a = s.reg a := State.reg_setFld_ne s _ _ ne
  have volt : (s.setFld PIT_GOV_STAT PIT_GOV_STAT_PWR_EST_W (min s.powerEst.floor.toNat 255)).volt = s.volt := State.fld_setFld_other s _ _ _ _ (by decide) (by decide) (by decide)
  unfold State.metered
  obtain ⟨u, hu⟩ : ∃ u, u = s.setFld PIT_GOV_STAT PIT_GOV_STAT_PWR_EST_W (min s.powerEst.floor.toNat 255) := ⟨_, rfl⟩
  rw [← hu] at only away volt ⊢
  refine ⟨?_, fun a out => (State.reg_of_regs rfl a).trans (away a (by simpa using out)), (State.fld_congr (State.reg_of_regs rfl _) _).trans volt⟩
  rw [only]

theorem State.powerEst_idle (idle : s.gov.products = []) : s.powerEst = 0 := by
  rw [State.powerEst, idle]
  simp

/-- What the governor makes of the period, given the lowest tempo seen in it. -/
def State.governed (s : State) (low : Nat) (est cap : Rat) : State :=
  if s.on PIT_GOV_CFG PIT_GOV_CFG_MODE then
    let fixed := s.fld PIT_GOV_FIXED PIT_GOV_FIXED_V_FIXED_MV
    if cap < est then s.capVolt low s.volt
    else if est < cap && s.volt < fixed then s.setVolt (min (s.volt + 5) fixed)
    else s.setVolt s.volt
  else
    let t : State := { s with gov := { s.gov with quiet := (s.regular low).2 } }
    if cap < est && t.volt ≤ (s.regular low).1 then t.capVolt low (s.regular low).1 else t.setVolt (s.regular low).1

theorem governorPeriod_unseen (released : s.sys.released = true) (unseen : s.gov.low = none) : exec .governorPeriod s = .next (s.keeps s.metered) := by
  rw [exec, execGovernorPeriod, State.onMain_keeps _ released, unseen]
  rfl

theorem governorPeriod_seen (released : s.sys.released = true) {low : Nat} (seen : s.gov.low = some low) :
    exec .governorPeriod s = .next (s.keeps (if !s.metered.governs then s.metered else s.metered.governed low s.powerEst ((s.fld PIT_PWR_CAP PIT_PWR_CAP_PWR_CAP_W : Nat) : Rat))) := by
  rw [exec, execGovernorPeriod, State.onMain_keeps _ released, seen]
  rfl

theorem governorPeriod_runs (released : s.sys.released = true) {low : Nat} (idle : s.gov.products = []) (seen : s.gov.low = some low) (governs : s.metered.governs = true)
    (mode : s.metered.on PIT_GOV_CFG PIT_GOV_CFG_MODE = false) :
    exec .governorPeriod s = .next (s.keeps (({ s.metered with gov := { s.metered.gov with quiet := (s.metered.regular low).2 } } : State).setVolt (s.metered.regular low).1)) := by
  have uncapped : ¬((s.fld PIT_PWR_CAP PIT_PWR_CAP_PWR_CAP_W : Nat) : Rat) < s.powerEst := by
    rw [State.powerEst_idle idle]
    exact not_lt.2 (Nat.cast_nonneg _)
  rw [governorPeriod_seen released seen, governs, if_neg (by decide), State.governed, mode, if_neg (by decide)]
  dsimp only
  rw [decide_eq_false uncapped, Bool.false_and, if_neg Bool.false_ne_true]

theorem governorPeriod_regular (released : s.sys.released = true) {low : Nat} (idle : s.gov.products = []) (seen : s.gov.low = some low) (governs : s.governs = true)
    (mode : s.on PIT_GOV_CFG PIT_GOV_CFG_MODE = false) :
    ∃ u : State, u = { s with regs := u.regs, gov := { s.gov with low := none, products := [], quiet := u.gov.quiet } } ∧ s.regsSame u [PIT_GOV_STAT]
      ∧ (100 * low < 8000 * (100 + s.margin) → exec .governorPeriod s = .next (u.setVolt (min (s.volt + 5) s.vMax)) ∧ u.gov.quiet = 0)
      ∧ (8000 * (100 + 2 * s.margin) ≤ 100 * low → 9 ≤ s.gov.quiet → exec .governorPeriod s = .next (u.setVolt (max (s.volt - 5) s.vMin)) ∧ u.gov.quiet = 0)
      ∧ (8000 * (100 + 2 * s.margin) ≤ 100 * low → s.gov.quiet < 9 → exec .governorPeriod s = .next (u.setVolt s.volt) ∧ u.gov.quiet = s.gov.quiet + 1) := by
  obtain ⟨frame, same, volt⟩ := s.metered_shows
  have run := governorPeriod_runs (s := s) released idle seen
  obtain ⟨m, hm⟩ : ∃ m, m = s.metered := ⟨_, rfl⟩
  rw [← hm] at frame same volt run
  have margin : m.margin = s.margin := State.fld_congr (same PIT_GOV_CFG (by decide)) _
  have top : m.vMax = s.vMax := State.fld_congr (same PIT_GOV_VLIM (by decide)) _
  have bottom : m.vMin = s.vMin := State.fld_congr (same PIT_GOV_VLIM (by decide)) _
  have quiet : m.gov.quiet = s.gov.quiet := by rw [frame]
  have acts : m.governs = true := by
    have standby : m.standby = s.standby := congrArg (· == 4) (State.fld_congr (same SYS_PWR_STAT (by decide)) _)
    have on : m.gov.on = s.gov.on := by rw [frame]
    rw [State.governs, standby, on]
    exact governs
  have mode' : m.on PIT_GOV_CFG PIT_GOV_CFG_MODE = false := (State.on_congr (same PIT_GOV_CFG (by decide)) _).trans mode
  have run := run acts mode'
  have regular : m.regular low = if 100 * low < 8000 * (100 + s.margin) then (min (s.volt + 5) s.vMax, 0)
      else if 10 ≤ (if 8000 * (100 + 2 * s.margin) ≤ 100 * low then s.gov.quiet + 1 else 0) then (max (s.volt - 5) s.vMin, 0)
      else (s.volt, if 8000 * (100 + 2 * s.margin) ≤ 100 * low then s.gov.quiet + 1 else 0) := by
    rw [State.regular, margin, top, bottom, quiet, volt]
    rfl
  obtain ⟨u, hu⟩ : ∃ u : State, u = { m with gov := { m.gov with quiet := (m.regular low).2 } } := ⟨_, rfl⟩
  have frameU : u = { s with regs := u.regs, gov := { s.gov with low := none, products := [], quiet := u.gov.quiet } } := by rw [hu, frame]
  have quietU : u.gov.quiet = (m.regular low).2 := by rw [hu]
  rw [← hu] at run
  have taken {v q : Nat} (eq : m.regular low = (v, q)) (fits : v < 1024) : exec .governorPeriod s = .next (u.setVolt v) ∧ u.gov.quiet = q := by
    rw [eq] at run quietU
    rw [State.setVolt_keeps (by rw [frameU]) (by rw [frameU]) fits] at run
    exact ⟨run, quietU⟩
  have voltFits : s.volt < 1024 := fget_lt (s.reg PIT_GOV_STAT) PIT_GOV_STAT_V_SET_MV
  have topFits : s.vMax < 1024 := fget_lt (s.reg PIT_GOV_VLIM) PIT_GOV_VLIM_V_MAX_MV
  have bottomFits : s.vMin < 1024 := fget_lt (s.reg PIT_GOV_VLIM) PIT_GOV_VLIM_V_MIN_MV
  refine ⟨u, frameU, fun a out => (State.reg_of_regs (by rw [hu]) a).trans (same a out), fun slow => taken (by rw [regular, if_pos slow]) (by omega), fun fast often => taken ?_ (by omega),
    fun fast seldom => taken ?_ voltFits⟩
  · rw [regular, if_neg (by omega), if_pos (by rw [if_pos fast]; omega)]
  · rw [regular, if_neg (by omega), if_pos fast, if_neg (by omega)]

theorem governorPeriod_idle (released : s.sys.released = true) (idle : s.gov.low = none ∨ s.governs = false) :
    ∃ u, exec .governorPeriod s = .next u ∧ u.volt = s.volt ∧ u.gov.products = [] ∧ u.gov.low = none ∧ u.gov.quiet = s.gov.quiet ∧ s.regsSame u [PIT_GOV_STAT] := by
  obtain ⟨frame, same, volt⟩ := s.metered_shows
  have run : exec .governorPeriod s = .next (s.keeps s.metered) := by
    cases seen : s.gov.low with
    | none => exact governorPeriod_unseen released seen
    | some low =>
      have standby : s.metered.standby = s.standby := congrArg (· == 4) (State.fld_congr (same SYS_PWR_STAT (by decide)) _)
      have off : s.metered.governs = false := by
        rw [State.governs, standby]
        exact idle.resolve_left (by rw [seen]; simp)
      rw [governorPeriod_seen released seen, off, if_pos (by decide)]
  obtain ⟨m, hm⟩ : ∃ m, m = s.metered := ⟨_, rfl⟩
  rw [← hm] at frame same volt run
  rw [State.keeps_of (by rw [frame]) (by rw [frame])] at run
  exact ⟨m, run, volt, by rw [frame], by rw [frame], by rw [frame], same⟩

end

end Sys2Proof.Machine
end


section
/-! SUPPORT. O59 settled: tempo, the sensors, and a snapshot's triggers and end (R192-R196, R540-R545, R566). -/

namespace Sys2Proof.Machine

section
variable {s : State}

/-! ### The sensors (R566) -/

theorem sgn_toNat (b : BitVec 8) : sgn 8 b.toNat = b.toInt := by
  rw [sgn, BitVec.toInt_eq_toNat_cond]
  have := b.isLt
  rw [Nat.mod_eq_of_lt this]
  split <;> split <;> omega

theorem thermSample_shows (released : s.sys.released = true) (temp : BitVec 8) : ∃ t, exec (.thermSample temp) s = .next t ∧ t.fld SYS_THERM SYS_THERM_TEMP_C = temp.toNat
    ∧ sgn 8 (t.fld SYS_THERM SYS_THERM_TEMP_MAX) = max (sgn 8 (s.fld SYS_THERM SYS_THERM_TEMP_MAX)) temp.toInt
    ∧ ((s.fld SYS_THERM_CFG SYS_THERM_CFG_WARN_C : Int) ≤ temp.toInt → bit (t.num SYS_IRQ_STAT) 0 = true)
    ∧ (temp.toInt < s.fld SYS_THERM_CFG SYS_THERM_CFG_WARN_C → t.reg SYS_IRQ_STAT = s.reg SYS_IRQ_STAT)
    ∧ (115 ≤ temp.toInt → t.sys.thermTrip = true) ∧ (temp.toInt < 115 → t.sys = s.sys) ∧ s.regsSame t [SYS_THERM, SYS_IRQ_STAT] := by
  obtain ⟨most, hmost⟩ : ∃ most, most = if sgn 8 (s.fld SYS_THERM SYS_THERM_TEMP_MAX) < temp.toInt then temp.toNat else s.fld SYS_THERM SYS_THERM_TEMP_MAX := ⟨_, rfl⟩
  have fits : most < 2 ^ 8 := by
    rw [hmost]
    split
    · exact temp.isLt
    · exact fget_lt (s.reg SYS_THERM) SYS_THERM_TEMP_MAX
  have highest : sgn 8 most = max (sgn 8 (s.fld SYS_THERM SYS_THERM_TEMP_MAX)) temp.toInt := by
    rw [hmost]
    split
    · next more => rw [sgn_toNat, max_eq_right more.le]
    · next less => rw [max_eq_left (not_lt.1 less)]
  obtain ⟨u, hu⟩ : ∃ u, u = (s.setFld SYS_THERM SYS_THERM_TEMP_C temp.toNat).setFld SYS_THERM SYS_THERM_TEMP_MAX most := ⟨_, rfl⟩
  obtain ⟨v, hv⟩ : ∃ v, v = if (u.fld SYS_THERM_CFG SYS_THERM_CFG_WARN_C : Int) ≤ temp.toInt then u.raise SYS_IRQ_STAT 0 else u := ⟨_, rfl⟩
  obtain ⟨t, ht⟩ : ∃ t : State, t = if 115 ≤ temp.toInt then { v with sys := { v.sys with thermTrip := true } } else v := ⟨_, rfl⟩
  have run : exec (.thermSample temp) s = .next (s.keeps t) := by
    rw [exec, execThermSample, State.onMain_keeps _ released, ht, hv, hu, hmost]
  have only : s.RegsOnly u := by
    rw [hu]
    exact ((State.RegsOnly.refl s).setFld ..).setFld ..
  have awayU (a : Nat) (ne : a ≠ SYS_THERM) : u.reg a = s.reg a := by rw [hu, State.reg_setFld_ne _ _ _ ne, State.reg_setFld_ne _ _ _ ne]
  have warn : u.fld SYS_THERM_CFG SYS_THERM_CFG_WARN_C = s.fld SYS_THERM_CFG SYS_THERM_CFG_WARN_C := State.fld_congr (awayU _ (by decide)) _
  rw [warn] at hv
  have awayV (a : Nat) (ne : a ≠ SYS_IRQ_STAT) : v.reg a = u.reg a := by
    rw [hv]
    split
    · exact State.reg_raise_ne u 0 ne
    · rfl
  have frame : s.Signals v := by
    rw [hv]
    split
    · exact (State.Signals.ofRegs only).trans (State.Signals.raise u SYS_IRQ_STAT 0)
    · exact State.Signals.ofRegs only
  have regs : t.regs = v.regs := by
    rw [ht]
    split <;> rfl
  have rest : t.pending = v.pending ∧ t.met = v.met := by
    rw [ht]
    split <;> exact ⟨rfl, rfl⟩
  have shown : t.reg SYS_THERM = u.reg SYS_THERM := (State.reg_of_regs regs _).trans (awayV _ (by decide))
  refine ⟨t, run.trans (congrArg _ (State.keeps_of (rest.1.trans (by rw [frame])) (rest.2.trans (by rw [frame])))), ?_, ?_, fun warm => ?_, fun cool => ?_, fun hot => by rw [ht, if_pos hot], fun below => ?_, fun a out => ?_⟩
  · rw [State.fld_congr shown, hu, State.fld_setFld_other _ _ _ _ _ (by decide) (by decide) (by decide)]
    exact State.fld_setFld_fits s _ (by decide) (by decide) (lt_of_lt_of_eq temp.isLt (by decide))
  · rw [State.fld_congr shown, hu, State.fld_setFld_fits _ _ (by decide) (by decide) (lt_of_lt_of_eq fits (by decide)), highest]
  · rw [State.num_congr (State.reg_of_regs regs _), hv, if_pos warm]
    exact u.bit_raise _ (by decide)
  · rw [State.reg_of_regs regs, hv, if_neg (not_le.2 cool), awayU _ (by decide)]
  · rw [ht, if_neg (not_le.2 below), frame]
  · obtain ⟨therm, irq⟩ : a ≠ SYS_THERM ∧ a ≠ SYS_IRQ_STAT := by simpa using out
    rw [State.reg_of_regs regs, awayV a irq, awayU a therm]

/-! ### Triggers of a snapshot (R540, R541) -/

theorem State.snapTrigger_joins (off : s.on SNP_STAT SNP_STAT_ARMED = false) {t : Stamp} (last : s.snp.lastTrig = some t) {stamp : Stamp} (same : ns48 t = ns48 stamp) (cause cls : Nat) :
    s.snapTrigger stamp cause cls = ({ s.setFld SNP_STAT SNP_STAT_CAUSE (s.fld SNP_STAT SNP_STAT_CAUSE ||| 2 ^ cause) with
      snp := { s.snp with cause := s.fld SNP_STAT SNP_STAT_CAUSE ||| 2 ^ cause, faultClass := if s.snp.faultClass = 0 then cls else s.snp.faultClass } }, true) := by
  rw [State.snapTrigger, if_neg (by rw [off]; decide), last]
  exact if_pos same

theorem State.snapTrigger_late (off : s.on SNP_STAT SNP_STAT_ARMED = false) {stamp : Stamp} (other : ∀ t, s.snp.lastTrig = some t → ns48 t ≠ ns48 stamp) (cause cls : Nat) :
    s.snapTrigger stamp cause cls = ((s.incReg SNP_LOST).raise SNP_IRQ_STAT 1, false) := by
  cases last : s.snp.lastTrig with
  | none => exact State.snapTrigger_lost off last stamp cause cls
  | some t =>
    rw [State.snapTrigger, if_neg (by rw [off]; decide), last]
    exact if_neg (other t last)

theorem execSnapPin_on (released : s.sys.released = true) (on : s.on SNP_CTL SNP_CTL_PIN_EN = true) (stamp : Stamp) : exec (.snapPin stamp) s = .next (s.keeps (s.snapTrigger stamp 1 0).1) := by
  rw [exec, execSnapPin, State.onMain_keeps _ released, if_pos on]

theorem snapPin_joins (released : s.sys.released = true) (on : s.on SNP_CTL SNP_CTL_PIN_EN = true) (off : s.on SNP_STAT SNP_STAT_ARMED = false) {t : Stamp} (last : s.snp.lastTrig = some t)
    {stamp : Stamp} (same : ns48 t = ns48 stamp) : ∃ u, exec (.snapPin stamp) s = .next u ∧ bit (u.fld SNP_STAT SNP_STAT_CAUSE) 1 = true ∧ s.regsSame u [SNP_STAT] := by
  have run := execSnapPin_on released on stamp
  rw [State.snapTrigger_joins off last same] at run
  obtain ⟨c, hc⟩ : ∃ c, c = s.fld SNP_STAT SNP_STAT_CAUSE ||| 2 ^ 1 := ⟨_, rfl⟩
  rw [← hc] at run
  have fits : c < 2 ^ 5 := by
    rw [hc]
    exact Nat.or_lt_two_pow (fget_lt (s.reg SNP_STAT) SNP_STAT_CAUSE) (by decide)
  have cause : (s.setFld SNP_STAT SNP_STAT_CAUSE c).fld SNP_STAT SNP_STAT_CAUSE = c := State.fld_setFld_fits s _ (by decide) (by decide) (lt_of_lt_of_eq fits (by decide))
  have away (a : Nat) (ne : a ≠ SNP_STAT) : (s.setFld SNP_STAT SNP_STAT_CAUSE c).reg a = s.reg a := State.reg_setFld_ne s _ _ ne
  obtain ⟨v, hv⟩ : ∃ v, v = s.setFld SNP_STAT SNP_STAT_CAUSE c := ⟨_, rfl⟩
  rw [← hv] at run cause away
  refine ⟨_, run, ?_, fun a out => (State.reg_of_regs rfl a).trans (away a (by simpa using out))⟩
  refine (congrArg (bit · 1) ((State.fld_congr (State.reg_of_regs rfl _) _).trans cause)).trans ?_
  rw [hc, bit_eq_testBit, Nat.testBit_or, Nat.testBit_two_pow_self, Bool.or_true]

theorem snapPin_lost (released : s.sys.released = true) (on : s.on SNP_CTL SNP_CTL_PIN_EN = true) (off : s.on SNP_STAT SNP_STAT_ARMED = false) {stamp : Stamp}
    (other : ∀ t, s.snp.lastTrig = some t → ns48 t ≠ ns48 stamp) : ∃ u, exec (.snapPin stamp) s = .next u ∧ u.num SNP_LOST = min (s.num SNP_LOST + 1) 0xFFFFFFFF
      ∧ bit (u.num SNP_IRQ_STAT) 1 = true ∧ u = { s with regs := u.regs, msix := u.msix, msixPend := u.msixPend } := by
  have run := execSnapPin_on released on stamp
  rw [State.snapTrigger_late off other] at run
  have frame : s.Signals ((s.incReg SNP_LOST).raise SNP_IRQ_STAT 1) := (State.Signals.ofRegs ((State.RegsOnly.refl s).incReg SNP_LOST 1)).trans (State.Signals.raise ..)
  have lost : ((s.incReg SNP_LOST).raise SNP_IRQ_STAT 1).num SNP_LOST = min (s.num SNP_LOST + 1) 0xFFFFFFFF := by
    rw [State.num_congr (State.reg_raise_ne _ _ (by decide)), State.num_incReg_one]
  have raised := (s.incReg SNP_LOST).bit_raise SNP_IRQ_STAT (i := 1) (by decide)
  obtain ⟨u, hu⟩ : ∃ u, u = (s.incReg SNP_LOST).raise SNP_IRQ_STAT 1 := ⟨_, rfl⟩
  rw [← hu] at frame lost raised
  dsimp only at run
  rw [← hu, State.keeps_of (by rw [frame]) (by rw [frame])] at run
  exact ⟨u, run, lost, raised, frame⟩

theorem snapTimeMatch_due (released : s.sys.released = true) (on : s.on SNP_CTL SNP_CTL_TIME_EN = true) (due : 0 ≤ sdiff 64 s.now.toNat (s.pair SNP_TIME_CMP_LO)) (armed : s.on SNP_STAT SNP_STAT_ARMED = true) :
    ∃ u : State, exec .snapTimeMatch s = .next (s.keeps (u.snapAct s.now 2 0)) ∧ u.on SNP_CTL SNP_CTL_TIME_EN = false ∧ s.regsSame u [SNP_CTL] ∧ u = { s with regs := u.regs } := by
  have same : s.regsSame (s.setFld SNP_CTL SNP_CTL_TIME_EN 0) [SNP_CTL] := fun a out => State.reg_setFld_ne s _ _ (by simpa using out)
  refine ⟨s.setFld SNP_CTL SNP_CTL_TIME_EN 0, ?_, State.on_setFld_zero s _ (by decide) (by decide), same, (State.RegsOnly.refl s).setFld ..⟩
  rw [exec, execSnapTimeMatch, State.onMain_keeps _ released, if_pos (by rw [on, decide_eq_true due]; rfl),
    State.snapTrigger_armed ((State.on_congr (same SNP_STAT (by decide)) _).trans armed)]

/-! ### The end of a snapshot (R544, R545) -/

theorem mread_dput {a : Nat} {l : List Byte} (inside : a + l.length ≤ dramBytes) (s : State) : mread (s.dput a l).dram a l.length = l := by
  have whole : l.take (dramBytes - a) = l := List.take_of_length_le (by omega)
  have eq : (s.dput a l).dram = (codeWrite s.dram s.ras.chk a (l.take (dramBytes - a))).1 := rfl
  rw [eq, whole, codeWrite_fst]
  exact mread_mwrite_same l _ a

theorem snapWritten_shows (released : s.sys.released = true) (busy : s.on SNP_STAT SNP_STAT_BUSY = true) (latched : s.snp.waitTiles = [])
    (inside : s.pair SNP_BASE_LO / 4096 * 4096 + s.snapBytes.length ≤ dramBytes) :
    ∃ t, exec .snapWritten s = .next t ∧ t.on SNP_STAT SNP_STAT_VALID = true ∧ t.on SNP_STAT SNP_STAT_BUSY = false ∧ bit (t.num SNP_IRQ_STAT) 0 = true
      ∧ mread t.dram (s.pair SNP_BASE_LO / 4096 * 4096) s.snapBytes.length = s.snapBytes
      ∧ t = { s with regs := t.regs, dram := t.dram, retQueue := [], ras := { s.ras with chk := t.ras.chk }, msix := t.msix, msixPend := t.msixPend } := by
  have run : exec .snapWritten s
      = .next (s.keeps ((((s.dwrite (s.pair SNP_BASE_LO / 4096 * 4096) s.snapBytes).setFld SNP_STAT SNP_STAT_VALID 1).setFld SNP_STAT SNP_STAT_BUSY 0).raise SNP_IRQ_STAT 0)) := by
    rw [exec, execSnapWritten, State.onMain_keeps _ released, if_neg (by rw [busy, latched]; decide)]
  have wrote := s.dwrite_eq (s.pair SNP_BASE_LO / 4096 * 4096) s.snapBytes
  have ras := s.dwrite_ras (s.pair SNP_BASE_LO / 4096 * 4096) s.snapBytes
  have back : mread (s.dwrite (s.pair SNP_BASE_LO / 4096 * 4096) s.snapBytes).dram (s.pair SNP_BASE_LO / 4096 * 4096) s.snapBytes.length = s.snapBytes := mread_dput inside s.retFlush
  obtain ⟨u, hu⟩ : ∃ u, u = s.dwrite (s.pair SNP_BASE_LO / 4096 * 4096) s.snapBytes := ⟨_, rfl⟩
  rw [← hu] at run wrote ras back
  have valid : ((u.setFld SNP_STAT SNP_STAT_VALID 1).setFld SNP_STAT SNP_STAT_BUSY 0).on SNP_STAT SNP_STAT_VALID = true := by
    rw [State.on_setFld_other _ _ _ (by decide) (by decide) (by decide)]
    exact State.on_setFld_one u _ (by decide) (by decide)
  have ended : ((u.setFld SNP_STAT SNP_STAT_VALID 1).setFld SNP_STAT SNP_STAT_BUSY 0).on SNP_STAT SNP_STAT_BUSY = false := State.on_setFld_zero _ _ (by decide) (by decide)
  have only : u.RegsOnly ((u.setFld SNP_STAT SNP_STAT_VALID 1).setFld SNP_STAT SNP_STAT_BUSY 0) := ((State.RegsOnly.refl u).setFld ..).setFld ..
  obtain ⟨v, hv⟩ : ∃ v, v = (u.setFld SNP_STAT SNP_STAT_VALID 1).setFld SNP_STAT SNP_STAT_BUSY 0 := ⟨_, rfl⟩
  rw [← hv] at run valid ended only
  have frame : u.Signals (v.raise SNP_IRQ_STAT 0) := (State.Signals.ofRegs only).trans (State.Signals.raise v SNP_IRQ_STAT 0)
  have raised := v.bit_raise SNP_IRQ_STAT (i := 0) (by decide)
  have kept : (v.raise SNP_IRQ_STAT 0).reg SNP_STAT = v.reg SNP_STAT := State.reg_raise_ne v _ (by decide)
  obtain ⟨t, ht⟩ : ∃ t, t = v.raise SNP_IRQ_STAT 0 := ⟨_, rfl⟩
  rw [← ht] at run frame raised kept
  rw [State.keeps_of (by rw [frame, wrote]) (by rw [frame, wrote])] at run
  refine ⟨t, run, (State.on_congr kept _).trans valid, (State.on_congr kept _).trans ended, raised, ?_, ?_⟩
  · rw [show t.dram = u.dram from (congrArg State.dram frame :), back]
  · have chk : u.ras = { s.ras with chk := t.ras.chk } := by rw [show t.ras = u.ras from (congrArg State.ras frame :), ← ras]
    have whole := frame
    rw [State.Signals, wrote, chk] at whole
    rw [show t.dram = u.dram from (congrArg State.dram frame :)]
    exact whole

end

/-- Settles O59: the ends of windows and periods, the sensors, and a snapshot from its triggers to its end (R192, R194-R196, R202, R540-R542, R544, R545, R566). -/
theorem tempoSensorsSnapshots : Obligations.TempoSensorsSnapshots := by
  unfold Obligations.TempoSensorsSnapshots
  refine ⟨fun s released => ⟨tempoWindow_shows released, fun p n => State.slowest_least, fun low idle seen => governorPeriod_regular released idle seen, fun mv fits => ?_, governorPeriod_idle released⟩,
    fun s released => ⟨thermSample_shows released, fun stamp => ⟨fun on armed => ?_, fun off => ?_, fun on off => ⟨fun t last same => snapPin_joins released on off last same, snapPin_lost released on off⟩⟩,
      snapTimeMatch_due released, fun on early => ?_, fun waits => ?_, snapWritten_shows released⟩⟩
  · obtain ⟨volt, same, -⟩ := s.setVolt_shows (mv := mv) fits
    exact ⟨volt, same, fun fixed => s.setVolt_overrides fits fixed.1 fixed.2⟩
  · rw [execSnapPin_on released on, State.snapTrigger_armed armed]
  · rw [exec, execSnapPin, State.onMain_keeps _ released, if_neg (by rw [off]; decide)]
    rfl
  · rw [exec, execSnapTimeMatch, State.onMain_keeps _ released, if_neg (by rw [on, decide_eq_false (not_le.2 early)]; decide)]
    rfl
  · rw [exec, execSnapWritten, State.onMain_keeps _ released, if_pos (by rcases waits with idle | some <;> simp [*])]
    rfl

end Sys2Proof.Machine
end
